-- ==== Sys2Proof/Word.lean ====
section
/-! DEFINITION. The word types of the block (00_scope.md R7, R8) and the sparse table type that every indexed store of the
model uses. The operations over them stand in Machine/Bits.lean and Machine/Tables.lean. -/

namespace Sys2Proof

/-- One byte of a memory structure (R8). -/
abbrev Byte := BitVec 8
/-- A 32-bit register of the window (R428). -/
abbrev Half := BitVec 32
/-- A 64-bit word: addresses, context words, instruction words, block time (R26, R64, R381). -/
abbrev Word := BitVec 64

/-- A store with many like places, as the list of the places that differ from their reset value, in rising order of
index. What an unlisted place holds is said at each use (Machine/Tables.lean). -/
abbrev Tbl (α : Type) := List (Nat × α)

end Sys2Proof
end

