-- ==== Sys2Proof/Syntax.lean ====
section
/-! DEFINITION. The commands of the block: one constructor of Instr for each row of spec/opcode_table.json, in its order,
with the operands the spec gives the operation (an engine, a port, a register offset, an answer from outside). -/

namespace Sys2Proof

/-- Who presents a register access (14 R342). A host access carries its port and the function of the page. -/
inductive Requester
  | kc
  | cc (n : Nat)
  | mp
  | host (h fn : Nat)
  deriving DecidableEq, Repr, Inhabited

/-- MR_RESP of a memory port answer (18 R436); code 11 is handled as ERR. -/
inductive MResp
  | ok | err | poison
  deriving DecidableEq, Repr, Inhabited

/-- A buffered target (10 R254). -/
inductive BufTarget
  | port (p : Nat)
  | ctl
  deriving DecidableEq, Repr, Inhabited

/-- A token of a lane (12 R292): first-token mark, control byte, data, parity. -/
structure Token where
  f : Bool
  c : Byte
  d : Half
  p : BitVec 5
  deriving DecidableEq, Repr, Inhabited

/-- A CLASS byte (12 R302): its payload, and whether it comes in the course of an in-lane transfer (R311). -/
structure ClassByte where
  payload : BitVec 6
  inTransfer : Bool
  deriving DecidableEq, Repr, Inhabited

/-- What makes a link retrain by LINK_RETRAIN: LCTL.RETRAIN written (12 R312), or an in-sideband byte IS with its parity ISP,
where that is wrong (R308). Other errors have commands of their own. -/
inductive RetrainCause
  | written (r : Requester)
  | sideband (b : Byte) (isp : Bool)
  deriving DecidableEq, Repr, Inhabited

/-- A completion piece on HC (18 R430). -/
structure Piece where
  tag : BitVec 14
  status : BitVec 3
  poison : Bool
  timeout : Bool
  offset : Nat
  data : List Byte
  deriving DecidableEq, Repr, Inhabited

/-- A host target access on HT (18 R431): local index, page offset, write, eight bytes wide, write data. -/
structure HostAccess where
  fn : BitVec 10
  off : BitVec 12
  write : Bool
  size8 : Bool
  wdata : Word
  deriving DecidableEq, Repr, Inhabited

/-- The configuration mirror of one function (11 R270). -/
structure Mirror where
  present : Bool := false
  pf : Bool := false
  parent : BitVec 10 := 0
  bme : Bool := false
  flrreq : Bool := false
  mps : BitVec 3 := 0
  mrrs : BitVec 3 := 0
  ero : Bool := false
  idoen : Bool := false
  tphreq : Bool := false
  intdis : Bool := false
  tagw : BitVec 2 := 0
  deriving DecidableEq, Repr, Inhabited

/-- The end of table work of an instance (13 R332 to R334), and how local memory answered the worst of its accesses. -/
structure TableEnd where
  inst : Nat
  resp : MResp
  deriving DecidableEq, Repr, Inhabited

/-- An RDATA transfer as its tokens spell it (12 R296, R297), and whether the parity of a data byte is wrong. -/
structure Rdata where
  tid : BitVec 4
  err : Bool
  poison : Bool
  data : List Byte
  badData : Bool
  deriving DecidableEq, Repr, Inhabited

/-- A Vereth image as the verifier reads it (14 R344, R345): its 256 header bytes and its body; and whether every read of it
succeeded. -/
structure Image where
  header : List Byte
  body : List Byte
  readOk : Bool
  deriving DecidableEq, Repr, Inhabited

/-- The boot parameter block, words 0 to 7 (14 R346). -/
structure Bpb where
  w0 : Word := 0
  w1 : Word := 0
  w2 : Word := 0
  w3 : Word := 0
  w4 : Word := 0
  w5 : Word := 0
  w6 : Word := 0
  w7 : Word := 0
  deriving DecidableEq, Repr, Inhabited

/-- What a test controller reports (17 R408): the island's (or shared-logic) signature, the signatures of the five slots of
an engine island, the failing rows of the memory group tested. -/
structure TestReport where
  sig : Half
  slotSigs : List Half
  rows : Nat
  deriving DecidableEq, Repr, Inhabited

/-- The commands. -/
inductive Instr
  -- register accesses
  | registerWrite (r : Requester) (addr : Nat) (data : Half)
  | lowerHalfRead (r : Requester) (addr : Nat)
  | lowerHalfWrite (r : Requester) (addr : Nat) (data : Half)
  | btimeloRead (r : Requester)
  -- channels and doorbells
  | doorbell (k fn : Nat) (lo hi : Option Half)
  | doorbellApply (k : Nat)
  | lmUpd8Response (n tag : Nat) (resp : MResp) (old : Word)
  | pendingScan
  | scanBlockReadDone (resp : MResp)
  | chCtlGo (fn : Nat)
  | chCtlAbort (fn : Nat)
  | pauseSet (fn : Nat)
  | pauseClear (fn : Nat)
  | versionRequest (fn : Nat) (level : BitVec 4)
  -- dispatch and descriptors
  | dispatch
  | descriptorRead (e : Nat) (ahead : Bool)
  | descriptorReadDone (e : Nat)
  | seqCoverQuery (e : Nat)
  | resumeDescriptorReadDone (e : Nat)
  -- the movement profile: the engine executes the word at its PC
  | lds (e : Nat)
  | ldd (e : Nat)
  | ldn (e : Nat)
  | ldk (e : Nat)
  | move (e : Nat)
  | movl (e : Nat)
  | waitf (e : Nat)
  | fence (e : Nat)
  | notify (e : Nat)
  | brk (e : Nat)
  | atom (e : Nat)
  | lock (e : Nat)
  | unlk (e : Nat)
  | br (e : Nat)
  | link (e : Nat)
  | endd (e : Nat)
  -- rd is what the memory port answers to the bucket read of the operation (13 R333)
  | tins (e : Nat) (rd : MResp)
  | tdel (e : Nat) (rd : MResp)
  | tmov (e : Nat) (rd : MResp)
  | tage (e : Nat) (rd : MResp)
  | tepoRead (e : Nat)
  | tepoBegin (e : Nat)
  | tepoArm (e : Nat)
  | tsvAnswer (e : Nat)
  | level1MoveDescriptor (e : Nat)
  | level1LinkDescriptor (e : Nat)
  -- moves and the answers of targets
  | sourceBurstIssue (e : Nat)
  | lmReadData (n tag : Nat) (resp : MResp) (data : List Byte)
  | lmWriteResponse (n tag : Nat) (resp : MResp)
  | movlListReadDone (e : Nat)
  | hostCompletionPiece (h : Nat) (piece : Piece)
  | completionTimeout (h slot : Nat)
  | quarantineExpiry (h slot : Nat)
  | directMoveComplete (e : Nat)
  | wdogExpiry (e : Nat)
  | paceholdExpiry (e : Nat)
  | pacingWake
  -- stops and locks
  | pauseStopDone (e : Nat)
  | abortStop (e : Nat)
  | ctxEccError (c : Nat)
  | quiesceRequest (r : Requester)
  | quiesceRelease (r : Requester)
  | leaseExpiry (addr : Word)
  | lockBreakCommand (r : Requester)
  -- arbitration
  | xbarDecision
  | clusterDecision (k : Nat)
  | laneDrop (lane : Nat)
  | xbarRepresent (i : Nat)
  | slotBoundary
  | xbarFreeze (r : Requester) (on : Bool)
  | clusterFreeze (r : Requester) (k : Nat) (on : Bool)
  -- seams and gates
  | seam
  | sharm (r : Requester) (mask : Half)
  | gateRuleWrite (r : Requester) (rule word : Nat) (value : Word)
  | gateBarrierArm (r : Requester)
  | barrierFlushReadDone (h slot : Nat)
  | bufferedWriteLeave (t : BufTarget)
  | vlogrdWrite (r : Requester) (v : Half)
  -- functions and host ports
  | functionMirrorUpdate (fn : Nat) (m : Mirror)
  | bmeFall (fn : Nat)
  | bmeRise (fn : Nat)
  | flrRequest (fn : Nat)
  | contextSweep
  | flrAck (r : Requester) (h : Nat) (v : Half)
  | flrTimeout (fn : Nat)
  | intxSend (fn : Nat)
  | hostTargetAccess (h : Nat) (a : HostAccess)
  -- engine port links
  | linkEnable (r : Requester) (p : Nat)
  | linkDisable (r : Requester) (p : Nat)
  | linkRetrain (p : Nat) (cause : RetrainCause)
  | linkResetDone (p : Nat)
  | portVersion (p : Nat) (first : Token) (rest : List Token)
  | versionTimeout (p : Nat)
  | portRdata (p : Nat) (ts : List Token)
  | tsvmsg (p : Nat) (first : Token) (rest : List Token)
  | portWriteAccepted (p : Nat)
  | filli (p : Nat) (level : BitVec 6)
  | fillo (p : Nat) (level : BitVec 6)
  | classByte (p : Nat) (x : ClassByte)
  | brkMarker (p : Nat) (inTransfer : Bool)
  | lerr (p : Nat)
  | handshakeTimeout (p : Nat)
  | linkIdleTimer (p : Nat)
  | linkDozeTimer (p : Nat)
  | linkDeepTimer (p : Nat)
  | linkWake (p : Nat)
  -- tables
  | learn (rd : MResp)
  | touch (rd : MResp)
  | relocationStashWriteDone (i : Nat) (resp : MResp)
  | ageTick (i : Nat)
  | ageSweepVisit (i : Nat) (rd : MResp)
  | tableEnable (r : Requester) (i : Nat)
  | tableInitDone (x : TableEnd)
  | tableDisable (r : Requester) (i : Nat)
  | rebuildZero (x : TableEnd)
  | copydone (x : TableEnd)
  | tevrdWrite (r : Requester) (v : Half)
  -- firmware
  | bootGo (r : Requester) (selftest : Bool)
  | imageVerifyDone (im : Image) (bpb : Bpb)
  | startupZeroDone
  | mailboxPost (r : Requester) (m : Nat)
  | mailboxAnswer (r : Requester) (m : Nat)
  | gateRule (m : Nat)
  | gateCommit (m : Nat)
  | lockBreak (m : Nat)
  | hostSet (m : Nat)
  | tsvPlace (m : Nat)
  | tsvRing (m : Nat)
  | selftest (m : Nat)
  | vlogNext (m : Nat)
  | ready (m : Nat)
  | screeLoad (m : Nat)
  | screeRestart (m : Nat)
  | cairnSet (m : Nat)
  | updateTimeout
  | ccctlWrite (r : Requester) (v : Half)
  -- the control profile: the core executes the word at its PC
  | ld (c : Nat)
  | st (c : Nat)
  | ldi (c : Nat)
  | amo (c : Nat)
  | alu (c : Nat)
  | bfx (c : Nat)
  | b (c : Nat)
  | jal (c : Nat)
  | crr (c : Nat)
  | crw (c : Nat)
  | lcr (c : Nat)
  | wfe (c : Nat)
  | wfeWake (c : Nat)
  | mbxSend (c : Nat)
  | mbxTake (c : Nat)
  | mbxAnswer (c : Nat)
  | mbxCollect (c : Nat)
  | svcIssue (c : Nat)
  | svcResult (c : Nat)
  | svcRelease (c : Nat)
  | svcCancel (c : Nat)
  | movework (c slot : Nat)
  | ctxread (c slot : Nat)
  | ctxwrite (c slot : Nat)
  | owncopyWriteDone (resp : MResp) (old : Word)
  | evpost (c slot : Nat)
  | timer (c : Nat)
  -- power, reset, self-test
  | railSample (code : BitVec 10)
  | drainEnd
  | cairnHostCopyDone
  | islandClkstop (i : Nat)
  | islandRetain (i : Nat)
  | islandWake (i : Nat)
  | refclkLoss
  | pgoodFall
  | brstFall
  | resetRelease
  | logicTest (r : Requester) (target : BitVec 7)
  | memoryTest (r : Requester) (target : BitVec 7)
  | infieldTest (r : Requester) (target : BitVec 7)
  | selftestDone (rep : TestReport)
  | agingMeasure (i : Nat) (slow : BitVec 6)
  | bufferedWriteAck (t : BufTarget)
  | controlMemoryReadData (e : Nat)
  | ignoredSidebandByte (p : Nat) (byte : Byte)
  | testAccessPortTest (island : BitVec 7)
  deriving DecidableEq, Repr

end Sys2Proof
end

