-- ==== Sys2Proof/Decode.lean ====
section
/-! DEFINITION. The command a word spells by the bits of spec/opcode_table.json. No row of that table gives bits, so no word
spells a command. The 64-bit instruction words of the movement profile and the 32-bit words of the control profile are data
that the block reads; their fields are taken apart in Machine/Operands.lean. -/

namespace Sys2Proof

/-- The command that a word spells: none, since the table gives no row any bits. -/
def decodeTableWord (_nbits _w : Nat) : Option Instr := none

end Sys2Proof
end

