-- ==== Sys2Proof/Config.lean ====
section
/-! DEFINITION. What the spec leaves open and the model leaves FREE: constants without a body, so that no proof can know
a value of them (log entries 4 and 7). Briet-F or Briet-C and the division of local memory between its two ports are plain
fields of State (log entries 2 and 3). -/

namespace Sys2Proof.Config

/-- The n-th free 64-bit value drawn by a step: an undefined value the machine goes on with. Log entry 4. -/
opaque freeWord : Nat → Word

/-- The contents of the 32 KiB boot ROM (R338), which the spec does not give. Log entry 7. -/
opaque bootRom : Nat → Byte

/-- The next value of the 16-bit LFSR (R325 names the register and gives neither its polynomial nor its seed). Log entry 8. -/
opaque lfsrNext : BitVec 16 → BitVec 16

end Sys2Proof.Config
end

