-- ==== Sys2Proof/Machine/State.lean ====
section
/-! DEFINITION. The state of the block as plain data: every register, buffer, queue, counter, mode and pin the spec names,
and the queue of waiting commands. Every structure's default values are its reset values (R452); a table lists only the
places that differ from them. -/

namespace Sys2Proof.Machine

/-- Reasons for a fault. The block raises none: every access is answered (R11, R442) and every failure is state. The one
constructor is never answered by a meaning; it is safe. -/
inductive Fault
  /-- never raised -/
  | unused
  deriving DecidableEq, Repr, Inhabited

/-- Reasons for a refusal. -/
inductive Refusal
  /-- raised by Dispatch alone, for a command without a meaning; safe -/
  | notModelled (mnemonic : String)
  deriving DecidableEq, Repr, Inhabited

/-- What the model takes for a key of the boot ROM, whose contents the spec does not give: the base point of P-384, X then Y
(log entry 81). -/
def romKey : BitVec 768 :=
  (0xAA87CA22BE8B05378EB1C71EF320AD746E1D3B628BA79B9859F741E082542A385502F25DBF55296C3A545E3872760AB7 : BitVec 384) ++
  (0x3617DE4A96262C6F5D9E98BF9292DC29F8F41DBD289A147CE9DA3113B5F0B8C00A60B1CE1D7E819D7A431D7C90EA0E5F : BitVec 384)

/-- The fixed configuration of the part built (R3). Log entries 2 and 3. -/
structure Cfg where
  /-- Briet-C -/
  compact : Bool := false
  /-- LM ranges (first, last) that LMP1 serves; every other address is LMP0's -/
  lmp1 : List (Nat × Nat) := []
  /-- the two public keys of the boot ROM (R344), which the spec does not give: X then Y (log entry 81) -/
  rom0 : BitVec 768 := romKey
  rom1 : BitVec 768 := romKey
  /-- VDD_STBY stays within its limits while the core supply is down (R438; log entry 82) -/
  standby : Bool := true
  /-- cycles a crossing adds beyond the 2 of R14, 2 at the most (log entry 33) -/
  cross : BitVec 2 := 2
  deriving DecidableEq, Repr, Inhabited

/-! ### Channels -/

/-- STATE (R37). -/
inductive ChState
  | idle | ready | running | waiting | paused | stopped | quiesced
  deriving DecidableEq, Repr, Inhabited

/-- The registers of the movement profile (R67) with the mode bits of context word 0 that a MOVE writes (R81). -/
structure Regs where
  s : Word := 0
  d : Word := 0
  n : Half := 0
  k0 : Word := 0
  k1 : Word := 0
  k2 : Word := 0
  k3 : Word := 0
  /-- the address PC[63:3] with three zero bits (R68) -/
  pc : Word := 0
  z : Bool := false
  c : Bool := false
  b : Bool := false
  sspace : BitVec 4 := 0
  dspace : BitVec 4 := 0
  pspace : BitVec 4 := 0
  sinc : Bool := false
  dinc : Bool := false
  swap : BitVec 2 := 0
  deriving DecidableEq, Repr, Inhabited

/-- The context of a channel (R26), and the marks DSP keeps beside the sixteen words. -/
structure Ctx where
  st : ChState := .idle
  pause : Bool := false
  abort : Bool := false
  go : Bool := false
  ov : Bool := false
  pcv : Bool := false
  owner : BitVec 12 := 0
  dc : BitVec 4 := 0
  direct : Bool := false
  ntfy : Bool := false
  wdog : Bool := false
  regs : Regs := {}
  swspace : BitVec 4 := 0
  dwspace : BitVec 4 := 0
  nspace : BitVec 4 := 0
  seqseen : BitVec 24 := 0
  seqexp : BitVec 24 := 0
  lastcode : Byte := 0
  lastflags : Byte := 0
  swbase : Word := 0
  swlimit : Word := 0
  dwbase : Word := 0
  dwlimit : Word := 0
  notify : Word := 0
  fold : Word := 0
  /-- off its engine with a header accepted and its completion not begun (R188; log entry 12) -/
  mid : Bool := false
  /-- stopped by a pause or a quiesce and not yet taken again (R196) -/
  resume : Bool := false
  /-- `resume` of the program that a direct move has interrupted inside a descriptor (R196) -/
  resumeProg : Bool := false
  /-- the descriptor it left part done has made an access that counts for R74 -/
  acc : Bool := false
  /-- left its engine by a pacing release and not yet taken again (R184): the port of its watch entry -/
  pacing : Option Nat := none
  /-- a speculative discard since the previous completion (R153 F2) -/
  f2 : Bool := false
  /-- the current direct move started with N = 0 (R56) -/
  zeroGo : Bool := false
  /-- the level 1 descriptor it left part done has loaded its registers (R106) -/
  l1 : Bool := false
  deriving DecidableEq, Repr, Inhabited

/-! ### Functions -/

/-- A function: its page (R49 to R59), its mirror (R270), its notice bit (R256), its events (R288), its reset (R284). -/
structure Func where
  chsel : BitVec 23 := 0
  stS : Word := 0
  stD : Word := 0
  stN : Half := 0
  direct : Bool := false
  loadpc : Bool := false
  sinc : Bool := true
  dinc : Bool := true
  ntfy : Bool := false
  swap : BitVec 2 := 0
  sspace : BitVec 4 := 0
  dspace : BitVec 4 := 0
  dbLow : Half := 0
  goref : Bool := false
  level : BitVec 4 := 0
  refused : Bool := false
  lvlcap : BitVec 2 := 3
  evcause : BitVec 11 := 0
  evmask : BitVec 11 := 0
  notice : Bool := false
  mir : Mirror := {}
  /-- the level last sent on the function's interrupt (R287) -/
  intSent : Bool := false
  /-- block time at which FLRREQ became 1, while reset-done has not been signalled (R285) -/
  flrAt : Option Word := none
  flrAcked : Bool := false
  flrTimed : Bool := false
  /-- the context sweep has not yet given the function a full pass (R286) -/
  sweeping : Bool := false
  /-- reset, and its level not negotiated again: its doorbells are dropped as they arrive (R284, R290) -/
  noBell : Bool := false
  deriving DecidableEq, Repr, Inhabited

/-! ### Outstanding accesses -/

/-- What an outstanding access is for; its answer goes there. -/
inductive Purpose
  /-- descriptor read at PC (R136), read-ahead included, with SEQSEEN when it was issued -/
  | desc (e : Nat) (seen : BitVec 24)
  /-- separate read-ahead (R155), with its space and address -/
  | ahead (e : Nat) (seen : BitVec 24) (sp : BitVec 4) (a : Word)
  /-- re-read of a descriptor without R141 (R184, R195, R199) -/
  | resume (e : Nat)
  /-- source bytes at a stream offset -/
  | src (e off : Nat)
  /-- a 64-byte list block (R84) -/
  | list (e : Nat)
  /-- the 32-byte image of TINS and TMOV (R101) -/
  | image (e : Nat)
  /-- destination bytes at a stream offset -/
  | dst (e off : Nat)
  | notify (e : Nat)
  | status (e : Nat)
  /-- word 2 of a level 1 completion (R106) -/
  | status2 (e : Nat)
  | word0 (e : Nat)
  /-- the notify word of a direct-mode move (R56) -/
  | dnotify (e : Nat)
  /-- flush read of a move: confirms the host writes of a range of stream offsets (R122) -/
  | flush (e lo upto : Nat)
  /-- flush read of a completion, a fence or a stop (R145, R89, R191) -/
  | flushAll (e : Nat)
  | atom (e : Nat)
  | lockTake (e : Nat)
  | lockRenew (e : Nat)
  | lockBusy (e : Nat)
  | unlkRelease (e : Nat)
  | unlkNone (e : Nat)
  /-- an LM write of a channel that has left its engine (R211) -/
  | orphan (c : Nat)
  /-- the write of a broken lock word (R212) -/
  | breakWord
  /-- fold compare-and-write and bitmap OR of an intake (R44) -/
  | fold (k chan : Nat)
  | foldOr (k chan : Nat)
  /-- bitmap OR for a full ready store (R172) -/
  | ovfOr (chan : Nat)
  /-- the scan's atomic AND and read-and-clear (R46) -/
  | scanAnd (chan : Nat)
  | scanFv (chan : Nat)
  | scanBlock (blk : Nat)
  /-- the masked write of OWNCOPY for a CTXWRITE (R45) -/
  | owncopy
  /-- context write-back on eviction (R33) -/
  | evict
  /-- a table-service write to an instance's memory, with the epoch and bucket it holds until its response (R323), and to the
  event ring -/
  | tsv (i : Nat) (b : Option (Bool × Nat))
  /-- a table-service write of a displaced entry to the stash, with the epoch and the way it came from (R319) -/
  | stash (i key : Nat) (epoch : Bool)
  | tsvEvent
  /-- barrier flush read of a function (R278) -/
  | barrier (fn : Nat)
  /-- flush read of the Cairn host copy (R396) -/
  | cairn
  /-- abandoned: the answer is discarded (R198, R280) -/
  | dropped
  deriving DecidableEq, Repr, Inhabited

/-- MQ_OP (R433). -/
inductive LmOp
  | read | write | write32a | upd8
  deriving DecidableEq, Repr, Inhabited

/-- Ordering attribute (R252). -/
inductive Order
  | strict | relaxed | idOrdered
  deriving DecidableEq, Repr, Inhabited

/-- A request on a memory port, not yet answered in full (R432, R434). Tag 1,024 waits for a tag; tag 1,025 stands in front of a
frozen crossbar (R235). -/
structure LmReq where
  port : Nat
  tag : Nat
  op : LmOp
  addr : Word
  len : Nat
  fix : Bool := false
  cache : Bool := false
  order : Order := .strict
  data : List Byte := []
  compare : Word := 0
  cmask : Word := 0
  value : Word := 0
  wmask : Word := 0
  add : Word := 0
  purpose : Purpose
  got : List Byte := []
  /-- the status of a beat that was not OK (R436); 0 while there was none -/
  bad : Byte := 0
  /-- the bytes received before that beat -/
  badAt : Nat := 0
  /-- checked under a rule set that a barrier has since replaced (R263) -/
  old : Bool := false
  /-- checked by a gate at all (R241) -/
  gated : Bool := true
  /-- the deadline it was given when it became ready, which its answer carries (R220) -/
  dl : BitVec 20 := 0
  /-- the engine that issued it, where its channel has left or it has been abandoned since (R388) -/
  gone : Option Nat := none
  deriving DecidableEq, Repr, Inhabited

/-- What becomes of the completions of a read: they are used; they are discarded and counted (R280); they are discarded; or
the read was speculative and leaves no trace (R159, R162). -/
inductive Discard
  | no | stop | plain | spec
  deriving DecidableEq, Repr, Inhabited

/-- A tag slot in use or in quarantine (R274, R277). A free slot is not listed. -/
structure Slot where
  fn : Nat
  addr : Word
  len : Nat
  purpose : Purpose
  issued : Word
  cto : Nat
  got : List Byte := []
  /-- the first byte of a poisoned piece, as an offset in the read (R276) -/
  poisonAt : Option Nat := none
  disc : Discard := .no
  /-- quarantined until this block time -/
  quarUntil : Option Word := none
  tagw : BitVec 2 := 0
  order : Order := .strict
  /-- Relaxed Ordering and ID-Based Ordering as the request carried them (R273) -/
  ro : Bool := false
  ido : Bool := false
  /-- write requests the port had presented when the read was issued (R122) -/
  wseq : Nat := 0
  old : Bool := false
  dl : BitVec 20 := 0
  /-- the engine that issued it, where it has been abandoned since (R388) -/
  gone : Option Nat := none
  deriving DecidableEq, Repr, Inhabited

/-- A host read that waits for a slot (R274). -/
structure HostWait where
  fn : Nat
  addr : Word
  len : Nat
  purpose : Purpose
  order : Order := .strict
  old : Bool := false
  dl : BitVec 20 := 0
  /-- stands in front of a frozen crossbar (R235) -/
  xheld : Bool := false
  deriving DecidableEq, Repr, Inhabited

/-- A memory write request presented to the endpoint, kept until a flush read has settled it (R122, R263). -/
structure HostWrite where
  fn : Nat
  addr : Word
  data : List Byte
  purpose : Purpose
  ro : Bool := false
  ido : Bool := false
  hint : Bool := false
  /-- place in the port's order of write requests -/
  seq : Nat := 0
  old : Bool := false
  /-- stands in front of a frozen crossbar, not yet presented (R235) -/
  xheld : Bool := false
  /-- confirmed by a flush read of its own engine, and kept for the barrier in progress (R263) -/
  done : Bool := false
  /-- no barrier flush read of its function is, or stays, outstanding behind it (R282, R290) -/
  bare : Bool := false
  deriving DecidableEq, Repr, Inhabited

/-- A read outstanding at an engine port, or waiting for a TID (R297). -/
structure PortRead where
  tid : Nat
  off : Half
  len : Nat
  fix : Bool := false
  spec : Bool := false
  /-- place in the order of arrival at the cluster (R296) -/
  ord : Nat := 0
  purpose : Purpose
  old : Bool := false
  dl : BitVec 20 := 0
  /-- stands in front of a frozen crossbar (R235) -/
  xheld : Bool := false
  /-- the engine that issued it, where it has been abandoned since (R388) -/
  gone : Option Nat := none
  deriving DecidableEq, Repr, Inhabited

/-- A write in front of, or in, a buffer (R254). -/
structure BufWrite where
  addr : Word
  data : List Byte
  fix : Bool := false
  /-- requester class 0 to 3 (R240) -/
  cls : Nat := 0
  fn : Nat := 0
  chan : Nat := 0
  /-- logical engine, or core number when core is true (R258) -/
  engine : Nat := 0
  core : Bool := false
  /-- place in the order of arrival at the cluster (R296) -/
  ord : Nat := 0
  purpose : Purpose
  old : Bool := false
  /-- stands in front of a frozen crossbar (R235) -/
  xheld : Bool := false
  /-- checked by the port's gate when it left the buffer, which it does not leave twice (R262, R309) -/
  checked : Bool := false
  /-- bytes of control memory that an overlap leaves undefined: no write of an engine, and no gate sees it (R114) -/
  undef : Bool := false
  /-- the engine that issued it, where it has been abandoned since (R388) -/
  gone : Option Nat := none
  deriving DecidableEq, Repr, Inhabited

/-- A read of control memory by movement work, not yet answered. -/
structure CtlRead where
  addr : Word
  len : Nat
  fix : Bool := false
  purpose : Purpose
  old : Bool := false
  dl : BitVec 20 := 0
  /-- stands in front of a frozen crossbar (R235) -/
  xheld : Bool := false
  /-- the engine that issued it, where it has been abandoned since (R388) -/
  gone : Option Nat := none
  deriving DecidableEq, Repr, Inhabited

/-! ### Engines -/

/-- What an engine holds. -/
inductive Hold
  | none
  | chan (c : Nat)
  | work (core slot : Nat)
  | task (c : Nat)
  deriving DecidableEq, Repr, Inhabited

/-- Where a thread of an engine stands. -/
inductive Phase
  /-- free -/
  | idle
  /-- at a descriptor boundary, no header for PC in hand -/
  | fetch
  /-- the read at PC is outstanding -/
  | fetchWait
  /-- a header for PC is in hand, or its read has failed -/
  | fetched
  /-- the question of R142 is before DSP -/
  | query
  /-- the descriptor must be read again without R141 -/
  | resume
  | resumeWait
  | resumed
  /-- the next instruction is due -/
  | exec
  /-- a MOVE, MOVL or direct move is in progress -/
  | moving
  /-- holding at a WAITF (R181) -/
  | hold
  /-- confirming writes for a pacing release (R181 step 1) -/
  | release
  /-- FENCE.W waits (R89) -/
  | fence
  /-- an ATOM, LOCK or UNLK access is outstanding -/
  | atomic
  /-- the image read of TINS or TMOV is outstanding; it has arrived -/
  | image
  | imageHere
  /-- the table service has the operation -/
  | table
  /-- completion, steps 2 to 4 of R145 -/
  | complete
  /-- a direct move is over: step 2 of R56 -/
  | dnotify
  /-- movement work has ended and its writes are being confirmed (R376) -/
  | workEnd
  /-- an instruction of the speculative thread has failed; reported at acceptance (R73) -/
  | failed
  deriving DecidableEq, Repr, Inhabited

/-- A held descriptor (R154): its space and address, its words, SEQSEEN when its read was issued, and whether that read was
the read at PC, which is not speculative (R155). -/
structure Held where
  space : BitVec 4
  addr : Word
  words : List Word
  seen : BitVec 24
  atPc : Bool := false
  deriving DecidableEq, Repr, Inhabited

/-- An entry of a MOVL list that has become current (R128): its address, the stream offset of its first byte, ADDR, capped
length, LAST. -/
structure ListEntry where
  at_ : Word
  off : Nat
  addr : Word
  len : Nat
  last : Bool
  deriving DecidableEq, Repr, Inhabited

/-- A 64-byte block of a list (R84): its address, the status and the words its read has brought, and whether the engine has
taken them up. -/
structure ListBlock where
  addr : Word
  got : Option (Byte × List Word) := none
  ready : Bool := false
  deriving DecidableEq, Repr, Inhabited

/-- The list side of a MOVL (R83, R84). -/
structure ListSide where
  scatter : Bool
  lspace : BitVec 4
  /-- address of the next entry -/
  next : Word
  /-- stream bytes covered by the entries taken so far -/
  covered : Nat
  /-- the entries taken, oldest first (R131) -/
  taken : List ListEntry := []
  /-- the block of the next entry and the one read ahead, once their reads are issued -/
  blocks : List ListBlock := []
  /-- a block has been read while the descriptor was speculative (R161) -/
  specRead : Bool := false
  /-- K0 and the list-side register at decode -/
  k0 : Word
  reg0 : Word
  k1 : Nat
  deriving DecidableEq, Repr, Inhabited

/-- A move in progress (R120). Offsets and counts are stream bytes. -/
structure Move where
  n0 : Nat
  s0 : Word
  d0 : Word
  sinc : Bool
  dinc : Bool
  swap : BitVec 2
  sspace : BitVec 4
  dspace : BitVec 4
  ord : BitVec 2 := 0
  nospec : Bool := false
  brkb : Bool := false
  /-- bytes whose source bursts have been issued -/
  srcNext : Nat := 0
  /-- source bursts, offset and length, whose data a gate rule swap has discarded: they are read again (R165) -/
  again : List (Nat × Nat) := []
  /-- bytes whose destination bursts have been issued -/
  dstNext : Nat := 0
  /-- source data in staging, not yet issued to the destination -/
  staged : List (Nat × List Byte) := []
  /-- staged bytes, by stream offset, that the SRAM no longer holds as they were read: true where SECDED corrects them (R418) -/
  marred : List (Nat × Bool) := []
  /-- confirmed destination segments beyond the prefix -/
  conf : List (Nat × Nat) := []
  /-- the confirmed prefix P -/
  pfx : Nat := 0
  /-- the failed burst with the lowest offset: offset, status, and whether it is a source burst -/
  fail : Option (Nat × Byte × Bool) := none
  /-- host bytes covered by flush reads issued -/
  flushed : Nat := 0
  /-- speculative bytes read and not yet confirmed (R161) -/
  specBytes : Nat := 0
  /-- a speculative burst was held (R160): counted once -/
  held : Bool := false
  list : Option ListSide := none
  deriving DecidableEq, Repr, Inhabited

/-- The operation the table service carries out for an engine, with its answer (R101). -/
structure TableAnswer where
  code : Byte := 0
  z : Bool := false
  c : Option Bool := none
  k0 : Option Word := none
  /-- the answer waits for COPYDONE (TEPO ARM, R334) -/
  waitCopy : Bool := false
  inst : Nat := 0
  deriving DecidableEq, Repr, Inhabited

/-- A thread: the registers and the descriptor an engine works on. The speculative thread is the shadow of R157. -/
structure Thread where
  regs : Regs := {}
  phase : Phase := .idle
  /-- address and space of the descriptor -/
  a : Word := 0
  aspace : BitVec 4 := 0
  words : List Word := []
  /-- SEQSEEN when the read of the words was issued -/
  seen : BitVec 24 := 0
  /-- a descriptor read has failed with this status -/
  readErr : Option Byte := none
  resumed : Bool := false
  /-- an access that counts for R74 was made -/
  accessed : Bool := false
  mv : Option Move := none
  /-- image bytes of TINS and TMOV -/
  image : List Byte := []
  answer : Option TableAnswer := none
  /-- the status with which the instruction in flight, or the descriptor, ends -/
  code : Byte := 0
  flags : Byte := 0
  /-- an earlier write of the descriptor failed (R192): status -/
  wrFail : Option Byte := none
  /-- host ports whose flush read of the completion, fence or stop has been issued -/
  flushedPorts : List Nat := []
  /-- a FENCE with R is pending (R89) -/
  fenceR : Bool := false
  /-- a speculative LDK has armed a pacing word that differs (R181) -/
  rearmed : Bool := false
  /-- the level 1 descriptor has loaded its registers (R106) -/
  l1 : Bool := false
  /-- functions whose speculative reads have timed out, not yet reported (R162) -/
  timeouts : List Nat := []
  deriving DecidableEq, Repr, Inhabited

/-- The stop an engine carries out. -/
inductive Stop
  | none | pause | abort | fn | ecc
  deriving DecidableEq, Repr, Inhabited

/-- A movement engine. -/
structure Engine where
  hold : Hold := .none
  main : Thread := {}
  spec : Option Thread := none
  ahead : List Held := []
  /-- pacing state HELD (R180) -/
  held : Bool := false
  holdAt : Word := 0
  /-- block time at which the engine took what it holds (R177) -/
  taken : Word := 0
  wdStart : Word := 0
  wdFired : Bool := false
  stop : Stop := .none
  /-- the stop has reached its stop point: no further read (R191 step 1) -/
  stopping : Bool := false
  /-- the stop is a quiesce's or an in-field test's: a clear of PAUSE does not cancel it (R204, R414) -/
  forced : Bool := false
  /-- an uncorrectable context error came before any function stop (R36) -/
  ecc : Bool := false
  deriving DecidableEq, Repr, Inhabited

/-! ### Dispatch and DSP -/

/-- An entry of a ready queue (R169). -/
structure ReadyEntry where
  cls : BitVec 4
  chan : Nat
  stamp : Half
  deriving DecidableEq, Repr, Inhabited

/-- Queued movement work (R376). -/
structure WorkEntry where
  core : Nat
  slot : Nat
  cls : BitVec 4
  stamp : Half
  deriving DecidableEq, Repr, Inhabited

/-- A doorbell in a FIFO (R39). -/
structure Doorbell where
  fn : Nat
  seq : BitVec 24
  chan : Nat
  deriving DecidableEq, Repr, Inhabited

/-- The scan of R46: the block in hand and the channels of it still to handle. -/
structure Scan where
  blk : Nat
  chans : List Nat
  deriving DecidableEq, Repr, Inhabited

/-- A CTXWRITE that waits for its OWNCOPY write (R45). -/
structure CtxWrite where
  core : Nat
  slot : Nat
  chan : Nat
  value : Word
  mask : Word
  deriving DecidableEq, Repr, Inhabited

/-- What has come to DSP behind a CTXWRITE to the same channel, which waits for its OWNCOPY write (R27, R379): a GO with the
page as it stood, or a folded doorbell. -/
inductive Behind
  | go (fn : Nat) (page : Func)
  | bell (fn chan : Nat) (seq : BitVec 24)
  deriving DecidableEq, Repr, Inhabited

/-- DSP (02, 07, 08). -/
structure Dsp where
  ctx : Tbl Ctx := []
  /-- the context cache: set number to resident channels, most recent first, with the changed mark (R33) -/
  cache : Tbl (List (Nat × Bool)) := []
  ctxbase : Word := 0
  log2cnt : BitVec 5 := 23
  psbase : Word := 0
  ready : List ReadyEntry := []
  work : List WorkEntry := []
  wbTasks : List Nat := []
  recAborts : List Nat := []
  summary : List Nat := []
  bitmap : List Nat := []
  scan : Option Scan := none
  fifo : Tbl (List Doorbell) := []
  dbacc : Tbl Half := []
  dbdrop : Tbl Half := []
  dbstale : Tbl Half := []
  dbfold : Tbl Half := []
  readyovf : Half := 0
  wdcount : Half := 0
  wdchan : BitVec 23 := 0
  wdeng : BitVec 5 := 0
  pacefull : Half := 0
  yields : Half := 0
  qreq : Bool := false
  qdone : Bool := false
  qseam : Half := 0
  specdisc : Half := 0
  specdrop : Half := 0
  specheld : Half := 0
  ctxwr : List CtxWrite := []
  behind : List Behind := []
  wakes : List Nat := []
  /-- the channel and the address that the last WB_FAULT event recorded (R57, R148) -/
  wbfChan : BitVec 23 := 0
  wbfAddr : Word := 0
  deriving DecidableEq, Repr, Inhabited

/-- An entry of the lock table (R207). -/
structure LockEntry where
  addr : Word
  chan : Nat
  fn : Nat
  expiry : Word
  releasing : Bool := false
  deriving DecidableEq, Repr, Inhabited

/-- A break that waits (R211): the word, the cause, and whether the owner has left its engine, so that only the answers to its
LM writes are awaited. -/
structure WaitBreak where
  addr : Word
  cause : BitVec 3
  after : Bool := false
  deriving DecidableEq, Repr, Inhabited

/-- The lock table and its registers (R207, R214). -/
structure Locks where
  entries : List LockEntry := []
  brkcnt : Half := 0
  full : Half := 0
  lbladdr : Word := 0
  lblchan : BitVec 23 := 0
  lblcause : BitVec 3 := 0
  lbcmdadr : Word := 0
  /-- the word of the last break command, of which FOUND tells -/
  cmd : Word := 0
  found : Bool := false
  /-- breaks that wait for the owner's engine (R211) -/
  waiting : List WaitBreak := []
  deriving DecidableEq, Repr, Inhabited

/-! ### Arbitration -/

/-- A transfer that waits for its turn on a lane (R216): its deadline, its beats still to pass, whether a break point stands
behind it, and for an answer of a host the function. -/
structure XBurst where
  deadline : BitVec 20
  beats : Nat
  brk : Bool := false
  fn : Nat := 0
  /-- the beats of each of the like transfers that follow, and how many of them there are -/
  each : Nat := 0
  more : Nat := 0
  /-- a read, other than a flush read, which a stop withdraws (R226, R280) -/
  read : Bool := false
  deriving DecidableEq, Repr, Inhabited

/-- A request at the crossbar (R222): requester index, the requester's own order, the deadline of the next transfer it would
send, its transfers, oldest first, age stamp. The transfers of a cluster stand in its ports' buffers instead. -/
structure XReq where
  idx : Nat
  ord : Nat
  deadline : BitVec 20
  q : List XBurst := []
  stamp : Word
  overdue : Bool := false
  /-- seams waited through without a grant (R234) -/
  waited : Nat := 0
  starved : Bool := false
  deriving DecidableEq, Repr, Inhabited

/-- A lane of the core (R219, R224); for a held one, whether its holder reaches a break point. -/
inductive Lane
  | free
  | parked (idx ord : Nat)
  | held (r : XReq) (atBreak : Bool)
  deriving DecidableEq, Repr, Inhabited

/-- The crossbar-level arbiter (R216 to R237). -/
structure Xbar where
  freeze : Bool := false
  lanes : Tbl Lane := []
  /-- presented and not yet considered -/
  fresh : List XReq := []
  pend : List XReq := []
  /-- told "not parked": the request and the time from which it may be presented again (R225) -/
  unparked : List (XReq × Word) := []
  starve : Bool := false
  sreq : BitVec 7 := 0
  notparked : Half := 0
  preempts : Half := 0
  slotwait : Half := 0
  starvcnt : Half := 0
  slot : BitVec 6 := 0
  /-- block time up to which XSLOTWAIT has been counted (R232) -/
  slotAt : Word := 0
  deriving DecidableEq, Repr, Inhabited

/-- A cluster-level arbiter (R227 to R238). -/
structure Cluster where
  freeze : Bool := false
  quern : Bool := false
  owner : BitVec 4 := 0
  granted : Bool := false
  parked : Bool := false
  starve : Bool := false
  sport : BitVec 4 := 0
  preempts : Half := 0
  starvcnt : Half := 0
  deriving DecidableEq, Repr, Inhabited

/-- A complete port-originated transfer in the cluster (R227). -/
structure InXfer where
  deadline : BitVec 20
  /-- a BRK marker stands at its end (R303) -/
  brk : Bool := false
  deriving DecidableEq, Repr, Inhabited

/-- The request a port presents in its cluster while it holds a complete transfer (R222, R227, R234). -/
structure PortAsk where
  stamp : Word := 0
  overdue : Bool := false
  /-- seams waited through without a grant -/
  waited : Nat := 0
  starved : Bool := false
  deriving DecidableEq, Repr, Inhabited

/-! ### Engine ports -/

/-- LSTATE (R312). -/
inductive LState
  | down | reset | negotiate | up | retrain | failed
  deriving DecidableEq, Repr, Inhabited

/-- A watch entry (R182): channel, and the marks it waits for. -/
structure Watch where
  chan : Nat
  high : BitVec 6
  low : BitVec 6
  src : Bool
  deriving DecidableEq, Repr, Inhabited

/-- A queued record of a TSVMSG (R320). -/
structure Record where
  touch : Bool
  port : Nat
  inst : Nat
  uflags : Byte
  id : Half
  vlo : Word
  vhi : Half
  deriving DecidableEq, Repr, Inhabited

/-- An engine port and its link (12). -/
structure Port where
  en : Bool := false
  vermax : BitVec 2 := 3
  lstate : LState := .down
  ver : BitVec 2 := 0
  pwr : BitVec 2 := 0
  filli : BitVec 6 := 0
  fillo : BitVec 6 := 0
  cls : BitVec 4 := 0
  clsSeen : Bool := false
  lperr : Half := 0
  lproto : Half := 0
  lretrain : Half := 0
  ldrop : Half := 0
  llate : Half := 0
  fails : Nat := 0
  /-- start of RESET, or rise of PRST_N while negotiating (R305) -/
  stepAt : Word := 0
  /-- last token or sideband byte (R306) -/
  lastAct : Word := 0
  /-- the time from which the handshake timeout of the last request event on the out-lane, and on the out-sideband, runs (R308) -/
  reqAt : Option Word := none
  sideAt : Option Word := none
  /-- the end of the wake time of the last wake (R307) -/
  awakeAt : Word := 0
  /-- PRST_N is high (R305) -/
  prst : Bool := false
  /-- the version offered by the VERSION that was sent (R305) -/
  offer : BitVec 2 := 0
  /-- the class of the transfer in progress, when a CLASS byte has come in its course (R302) -/
  xferCls : Option (BitVec 4) := none
  /-- arrivals so far at the cluster for this port -/
  ord : Nat := 0
  wwait : List BufWrite := []
  wbuf : List BufWrite := []
  sending : Option BufWrite := none
  reads : List PortRead := []
  rwait : List PortRead := []
  inq : List InXfer := []
  ask : PortAsk := {}
  /-- the payloads of the messages that wait for room in the queue of TSV (R322) -/
  msgWait : List (List Byte) := []
  watch : List Watch := []
  lrnmask : BitVec 16 := 0
  deriving DecidableEq, Repr, Inhabited

/-! ### Host ports -/

/-- A host port unit (11 R291). -/
structure HostPort where
  mrrscap : BitVec 3 := 5
  mpscap : BitVec 3 := 5
  tphen : Bool := false
  cto : BitVec 12 := 625
  ctlfn : BitVec 10 := 0
  evglob : BitVec 10 := 0
  evgloben : Bool := false
  slots : Tbl Slot := []
  /-- the slots freed since reset, in order of freeing, per free list; never-used slots come first, ascending (R274) -/
  freed0 : List Nat := []
  freed1 : List Nat := []
  freed2 : List Nat := []
  /-- slots of each list handed out for the first time so far -/
  used0 : Nat := 0
  used1 : Nat := 0
  used2 : Nat := 0
  wait : List HostWait := []
  posted : List HostWrite := []
  /-- write requests presented so far -/
  wseq : Nat := 0
  cpltocnt : Half := 0
  latecnt : Half := 0
  unexcnt : Half := 0
  discnt : Half := 0
  lateTag : BitVec 14 := 0
  lateUnexp : Bool := false
  lateFn : BitVec 10 := 0
  lateSeam : Half := 0
  flrlate : Half := 0
  flrq : List Nat := []
  deriving DecidableEq, Repr, Inhabited

/-! ### Gates -/

/-- A rule: its four words (R242). -/
structure Rule where
  w0 : Word := 0
  w1 : Word := 0
  w2 : Word := 0
  w3 : Word := 0
  deriving DecidableEq, Repr, Inhabited

/-- The gates, barriers and the violation log (10). Rules are keyed gate × 64 + rule, log entries by index. -/
structure Gates where
  shadow : Tbl Rule := []
  active : Tbl Rule := []
  gsel : BitVec 7 := 0
  mask0 : Half := 0
  mask1 : Half := 0
  mask2 : BitVec 7 := 0
  armed : Bool := false
  done : Bool := false
  err : Bool := false
  wref : Bool := false
  errrule : BitVec 6 := 0
  errgate : BitVec 7 := 0
  /-- the latched mask of the barrier in progress -/
  latched : Option (BitVec 71) := none
  barseam : Half := 0
  bardrain : Half := 0
  swapAt : Word := 0
  vlogwr : Half := 0
  vlogrd : Half := 0
  vloglost : Half := 0
  noticecnt : Half := 0
  denycnt : Half := 0
  vlog : Tbl Rule := []
  deriving DecidableEq, Repr, Inhabited

/-! ### Tables -/

/-- STATE of an instance (R337). -/
inductive TState
  | off | init | run | rebuild | fault
  deriving DecidableEq, Repr, Inhabited

/-- A table entry: its four words (R314). -/
structure Entry where
  w0 : Word := 0
  w1 : Word := 0
  w2 : Word := 0
  w3 : Word := 0
  deriving DecidableEq, Repr, Inhabited

/-- A relocation whose stash write is outstanding (R319): the epoch, way key, the entry that will replace it, the engine whose
operation it serves, whether it serves a learn, and whether the other epoch gets the entry too (R334 step 3). -/
structure Reloc where
  epoch : Bool := false
  key : Nat := 0
  entry : Entry := {}
  engine : Option Nat := none
  learn : Bool := false
  mirror : Bool := false
  deriving DecidableEq, Repr, Inhabited

/-- One epoch of an instance: settings, buckets keyed bucket × 4 + way, stash slots. -/
structure Epoch where
  ebase : Word := 0
  log2b : BitVec 5 := 10
  sbase : Word := 0
  ways : Tbl Entry := []
  stash : Tbl Entry := []
  deriving DecidableEq, Repr, Inhabited

/-- A table instance (13 R337). -/
structure Inst where
  en : Bool := false
  policy : Bool := false
  ageev : Bool := false
  idw : BitVec 6 := 32
  owner : BitVec 12 := 0
  ownv : Bool := false
  st : TState := .off
  act : Bool := false
  copydone : Bool := false
  armed : Bool := false
  agecnt : BitVec 16 := 0
  tickAt : Word := 0
  gen : Half := 0
  hdrbase : Word := 0
  ep0 : Epoch := {}
  ep1 : Epoch := {}
  learns : Half := 0
  flaps : Half := 0
  relocs : Half := 0
  evicts : Half := 0
  aged : Half := 0
  touches : Half := 0
  relocating : List Reloc := []
  /-- changes are mirrored into the shadow epoch (R334 step 3) -/
  mirroring : Bool := false
  /-- block time at which the shadow epoch last stopped being active -/
  retiredAt : Option Word := none
  /-- the first place that the copy pass has still to visit: ways by key, then stash slots (R334 step 4) -/
  copyAt : Nat := 0
  /-- next bucket of the sweep; past the last bucket, stash slots in eights (R329) -/
  sweep : Nat := 0
  deriving DecidableEq, Repr, Inhabited

/-- An entry of the touch filter (R326). -/
structure Filter where
  inst : Nat := 0
  id : Half := 0
  cnt : BitVec 16 := 0
  valid : Bool := false
  deriving DecidableEq, Repr, Inhabited

/-- TSV (13). -/
structure Tsv where
  tevbase : Word := 0
  tevlog : BitVec 5 := 12
  tevwr : Half := 0
  tevrd : Half := 0
  tevlost : Half := 0
  tmalform : Half := 0
  treject : Half := 0
  tdrop : Half := 0
  tcoalesce : Half := 0
  inst : Tbl Inst := []
  queue : List Record := []
  lfsr : BitVec 16 := 1
  filter : Tbl Filter := []
  deriving DecidableEq, Repr, Inhabited

/-! ### Shale settings -/

structure SpecCfg where
  dahead : BitVec 3 := 4
  sahead : BitVec 5 := 16
  sexec : Bool := true
  deriving DecidableEq, Repr, Inhabited

/-- R174. DCOFF of class c resets to 0x400 × (c + 1). -/
structure DispCfg where
  dcoff : Tbl (BitVec 19) := []
  yield : BitVec 16 := 0
  pacehold : Byte := 0x40
  wdlimit : BitVec 24 := 0x3E8
  dcmask : Tbl (BitVec 16) := []
  paceen : Tbl Half := []
  deriving DecidableEq, Repr, Inhabited

/-- R237. A slot entry is SREQ in [6:0] and SV in [7]. -/
structure XarbCfg where
  starvth : Byte := 8
  tsvdc : BitVec 4 := 8
  ctldc : BitVec 4 := 2
  slot : Tbl Byte := []
  deriving DecidableEq, Repr, Inhabited

structure CarbCfg where
  starvth : Tbl Byte := []
  pdc : Tbl (BitVec 4) := []
  pmindc : Tbl (BitVec 4) := []
  deriving DecidableEq, Repr, Inhabited

structure LinkCfg where
  idlet : Tbl Byte := []
  dozet : Tbl (BitVec 16) := []
  deept : Tbl (BitVec 24) := []
  pwrmax : Tbl (BitVec 2) := []
  deriving DecidableEq, Repr, Inhabited

structure TsvCfg where
  ephold : BitVec 16 := 100
  flapwin : Tbl (BitVec 16) := []
  agetick : Tbl (BitVec 10) := []
  agelim : Tbl (BitVec 15) := []
  deriving DecidableEq, Repr, Inhabited

/-- R391, keyed by the island numbers of R407. -/
structure PowerCfg where
  maxst : Tbl (BitVec 2) := []
  stopt : Tbl Byte := []
  rett : Tbl (BitVec 16) := []
  deriving DecidableEq, Repr, Inhabited

/-- One copy, shadow or active, of every shale setting (R384). -/
structure Shale where
  spec : SpecCfg := {}
  disp : DispCfg := {}
  xarb : XarbCfg := {}
  carb : CarbCfg := {}
  link : LinkCfg := {}
  tsv : TsvCfg := {}
  power : PowerCfg := {}
  deriving DecidableEq, Repr, Inhabited

/-! ### The control complex -/

/-- A service slot (R373). -/
inductive SlotState
  | free | busy | done
  deriving DecidableEq, Repr, Inhabited

structure Svc where
  st : SlotState := .free
  block : List Word := []
  result : List Word := []
  /-- DSP has taken the block up -/
  taken : Bool := false
  /-- ready stamp at issue (R376) -/
  stamp : Half := 0
  deriving DecidableEq, Repr, Inhabited

/-- A core (R359, R369). G1 to G31 are keyed by number. -/
structure Core where
  g : Tbl Word := []
  pc : Word := 0
  z : Bool := false
  s : Bool := false
  c : Bool := false
  v : Bool := false
  fvec : Word := 0
  fcause : BitVec 3 := 0
  fpc : Word := 0
  faddr : Word := 0
  inh : Bool := false
  tcmp : Word := 0
  lev : BitVec 3 := 0
  startAt : Word := 0
  /-- a WFE in progress: mask and destination (R371) -/
  wait : Option (Word × BitVec 5) := none
  svc0 : Svc := {}
  svc1 : Svc := {}
  svc2 : Svc := {}
  svc3 : Svc := {}
  /-- the instruction cache of CC0 to CC7 (R338, R340): line number and the bytes of the line, the line filled last in front
  (log entry 57) -/
  icache : List (Nat × List Byte) := []
  deriving DecidableEq, Repr, Inhabited

/-- A mailbox (R350); request and response words keyed by number. -/
structure Mailbox where
  req : Tbl Word := []
  rsp : Tbl Word := []
  busy : Bool := false
  done : Bool := false
  deriving DecidableEq, Repr, Inhabited

/-- A notice of Bedrock's (R354). -/
inductive Notice
  | flr (fn : Nat)
  | update
  deriving DecidableEq, Repr, Inhabited

/-- Where an update of Scree stands (R353). -/
inductive Update
  /-- the image for this mailbox is being verified -/
  | verify (m : Nat)
  /-- the image has verified; the UPDATE notice waits for mailbox 9 -/
  | queued (m : Nat) (svn entry : Half) (build : Word)
  /-- the UPDATE notice has been posted at this time -/
  | notice (m : Nat) (svn entry : Half) (at_ : Word)
  /-- the barrier over gate 70 is in progress -/
  | barrier (m : Nat) (svn entry : Half)
  deriving DecidableEq, Repr, Inhabited

/-- The control complex (14 R357). -/
structure Ctl where
  ready : Bool := false
  imgaddr : Word := 0
  bpbaddr : Word := 0
  selftest : Bool := false
  phase : BitVec 4 := 0
  err : Byte := 0
  bedsvn : Half := 0
  scrsvn : Half := 0
  minsvn : Half := 0
  run : Byte := 0
  bank : Bool := false
  cause : BitVec 2 := 0
  halted : Byte := 0xFF
  fault : Byte := 0
  entry : BitVec 24 := 0
  evpendk : BitVec 9 := 0
  evpends : BitVec 17 := 0
  evcore : BitVec 3 := 0
  /-- PHASE has reached 4 since reset: Bedrock has started (R347, R397) -/
  bedrockRan : Bool := false
  /-- start-up step 8 has ended (R347) -/
  zeroed : Bool := false
  /-- a Scree image has verified and waits for step 10: SVN and ENTRY -/
  scree : Option (Half × Half) := none
  /-- an image is being verified in start-up -/
  loading : Bool := false
  /-- which start-up barriers are still to complete before step 8 (R347 step 7) -/
  startBarrier : Nat := 0
  tsvbase : Word := 0
  tsvsize : Word := 0
  /-- the Bedrock image that has verified and waits for the self-test: SVN, MINSVN, ENTRY, and the BPB (R347) -/
  bedrock : Option (Half × Half × Half × Bpb) := none
  /-- tests of the start-up self-test still to run: MEMORY or LOGIC, and the target (R410) -/
  tests : List (Bool × Nat) := []
  /-- the mailbox that is answered at step 10 (R353) -/
  screeFor : Option Nat := none
  update : Option Update := none
  /-- the barrier in progress is the update's (R353 step 5) -/
  updArmed : Bool := false
  /-- the mailbox whose GATE_COMMIT barrier is in progress, and those waiting (R355) -/
  committing : Option Nat := none
  commits : List Nat := []
  /-- mailboxes whose SELFTEST is running -/
  testFor : Option Nat := none
  /-- the notice outstanding on mailbox 9 and those waiting (R354) -/
  noticed : Option Notice := none
  notices : List Notice := []
  /-- the mailbox whose LOCK_BREAK waits for the owner's engine -/
  lockFor : Option Nat := none
  /-- the last of mailboxes 0 to 7 that was served (R355; log entry 50) -/
  lastServed : Nat := 7
  deriving DecidableEq, Repr, Inhabited

/-! ### Power, power failure, self-test -/

/-- STAGE (R406). -/
inductive Stage
  | normal | drain | record | hostcopy | held
  deriving DecidableEq, Repr, Inhabited

/-- Rail monitor, drain and Cairn registers (16). -/
structure PowerFail where
  warnth : BitVec 10 := 0
  cutth : BitVec 10 := 0
  warncnt : BitVec 4 := 2
  en : Bool := false
  sample : BitVec 10 := 0
  min : BitVec 10 := 0x3FF
  warn : Bool := false
  cut : Bool := false
  low : Nat := 0
  trace : List (BitVec 10) := []
  drainlim : BitVec 5 := 20
  stage : Stage := .normal
  cairn : Bool := false
  limit : Bool := false
  warnTime : Word := 0
  warnSeam : Half := 0
  endTime : Word := 0
  endSeam : Half := 0
  railWarn : BitVec 10 := 0
  stagedrop : Nat := 0
  quiesced : Bool := false
  lockuse : Nat := 0
  /-- the record's entries, by engine, of the channels that left their engines in the drain (R401) -/
  left : Tbl (List Word) := []
  hcen : Bool := false
  hspace : BitVec 4 := 0
  haddr : Word := 0
  cairnwin : Tbl Word := []
  cairnvalid : Bool := false
  deriving DecidableEq, Repr, Inhabited

/-- An island by its number of R407: power state (R387) and aging (R416). -/
structure Island where
  pst : BitVec 2 := 0
  since : Word := 0
  slow : BitVec 6 := 0
  trim : BitVec 2 := 0
  flag : Bool := false
  worn : Bool := false
  sig : Half := 0
  /-- the end of the wake time of the last wake (R387, R389) -/
  awakeAt : Word := 0
  /-- a trim fell due while the island was under test (R415) -/
  trimDue : Bool := false
  /-- the second of block time of the last measurement (R416) -/
  agedAt : Option Nat := none
  deriving DecidableEq, Repr, Inhabited

/-- An engine island's repair state (R421). MAP is held as the slot of each of its four logical engines; 7 means absent. -/
structure EngIsland where
  m0 : BitVec 3 := 0
  m1 : BitVec 3 := 1
  m2 : BitVec 3 := 2
  m3 : BitVec 3 := 3
  retired : BitVec 5 := 0
  shfail : Bool := false
  deriving DecidableEq, Repr, Inhabited

/-- A memory group (R421). -/
structure MemGroup where
  spused : BitVec 9 := 0
  gfail : Bool := false
  ecccor : Half := 0
  eccunc : Half := 0
  deriving DecidableEq, Repr, Inhabited

/-- Self-test (17 R421). -/
structure SelfTest where
  kind : BitVec 2 := 0
  target : BitVec 7 := 0
  busy : Bool := false
  done : Bool := false
  outcome : BitVec 2 := 0
  lkind : BitVec 2 := 0
  abandoned : Bool := false
  ltarget : BitVec 7 := 0
  sig : Half := 0
  slotfail : BitVec 5 := 0
  rows : BitVec 9 := 0
  slots : Tbl EngIsland := []
  group : Tbl MemGroup := []
  /-- some test since reset has ended FAIL (R450) -/
  failed : Bool := false
  deriving DecidableEq, Repr, Inhabited

/-- What the block drives on its outputs (R422): the answers of the last register read of the external port and of each
host port, and the messages sent. -/
structure Outputs where
  rp : Half := 0
  ht : Tbl Word := []
  hi : List (Nat × Nat × Bool) := []
  hr : List (Nat × Nat) := []
  /-- transfers sent on the out-lanes (R295) -/
  lane : List (Nat × List Token) := []
  /-- bytes sent on the out-sidebands, with their parity (R292) -/
  os : List (Nat × Byte × Bool) := []
  /-- request headers presented on HQ, by host port (R430) -/
  hq : List (Nat × BitVec 128) := []
  pfwarn : Bool := false
  deriving DecidableEq, Repr, Inhabited

/-- An answer that has arrived behind a frozen crossbar or uplink and waits to cross (R235), as its command brought it. -/
inductive Answer
  | lmRead (n tag : Nat) (resp : MResp) (data : List Byte)
  | lmWrite (n tag : Nat) (resp : MResp)
  | lmUpd8 (n tag : Nat) (resp : MResp) (old : Word)
  | stash (n i : Nat) (resp : MResp)
  | piece (h : Nat) (p : Piece)
  /-- the answer of an engine port, with the read it answers -/
  | rdata (p : Nat) (r : PortRead) (x : Rdata)
  | msg (p : Nat) (d : List Byte)
  | ctlRead (e : Nat)
  deriving DecidableEq, Repr, Inhabited

/-- A holding register of R444: the register offset, whether it holds a write, the half held. -/
structure Latch where
  addr : Nat := 0
  write : Bool := false
  data : Half := 0
  full : Bool := false
  deriving DecidableEq, Repr, Inhabited

/-- What the mirrored registers show of the block (R9, R11): the places they read. -/
structure Seen where
  shpend : BitVec 7 := 0
  dsp : Dsp := {}
  fn : Tbl Func := []
  eng : Tbl Engine := []
  lock : Locks := {}
  xbar : Xbar := {}
  cluster : Tbl Cluster := []
  gate : Gates := {}
  hp : Tbl HostPort := []
  port : Tbl Port := []
  tsv : Tsv := {}
  ctl : Ctl := {}
  mbx : Tbl Mailbox := []
  pf : PowerFail := {}
  island : Tbl Island := []
  st : SelfTest := {}
  deriving DecidableEq, Repr, Inhabited

/-- The block. -/
structure State where
  pending : List Instr := []
  cfg : Cfg := {}
  /-- how many free values have been drawn (log entry 4) -/
  free : Nat := 0
  time : Word := 0
  seam : Half := 0
  inReset : Bool := false
  /-- PGOOD (R424) -/
  pgood : Bool := true
  shadow : Shale := {}
  active : Shale := {}
  shpend : BitVec 7 := 0
  shseam : Half := 0
  latch : Tbl Latch := []
  /-- what the mirrored registers show: the state whose crossing has ended last (R11) -/
  seen : Seen := {}
  /-- the states still crossing, oldest first, and the last time at which the block stood so (R14) -/
  crossing : List (Word × Seen) := []
  out : Outputs := {}
  dsp : Dsp := {}
  fn : Tbl Func := []
  eng : Tbl Engine := []
  lock : Locks := {}
  lm : List LmReq := []
  cread : List CtlRead := []
  cmem : List Host.Cell := []
  cbuf : List BufWrite := []
  cwait : List BufWrite := []
  kram : List Host.Cell := []
  rsram : List Host.Cell := []
  /-- the 8-byte words of control memory, KRAM and the retention SRAM that hold an uncorrectable error (R370, R418), by their
  address of R361 over 8; no command of the table brings such an error (log entry 75) -/
  ecc : List Nat := []
  /-- those that hold an error which SECDED corrects, addressed in the same way -/
  soft : List Nat := []
  xbar : Xbar := {}
  /-- answers that wait to cross -/
  xback : List Answer := []
  cluster : Tbl Cluster := []
  gate : Gates := {}
  hp : Tbl HostPort := []
  port : Tbl Port := []
  tsv : Tsv := {}
  ctl : Ctl := {}
  mbx : Tbl Mailbox := []
  /-- KC runs the boot ROM after reset (R347); log entry 25 -/
  core : Tbl Core := [(8, { pc := 0x80000000 })]
  pf : PowerFail := {}
  island : Tbl Island := []
  st : SelfTest := {}
  deriving DecidableEq, Repr, Inhabited

/-- The block when block reset is released (R426, R452): block time 0, PHASE 0, every field at its reset value, nothing
waiting. Briet-F (log entry 2). -/
def State.reset : State := {}

end Sys2Proof.Machine

/-- The n-th undefined state that a test through the test access port leaves (R420). Log entry 4. -/
opaque Sys2Proof.Config.freeState : Nat → Sys2Proof.Machine.State
end

