-- ==== Sys2Proof/Machine/Tables.lean ====
section
/-! DEFINITION. Reading and writing the sparse tables of State, and the byte stores of the block's RAMs. A table is in
canonical form when its indices rise strictly and no entry equals what an unlisted place reads as; a write keeps it so
(Laws/Tables.lean). -/

namespace Sys2Proof.Machine

variable {α : Type}

/-- What the table holds at an index; an unlisted index holds d. -/
def tget (d : α) : Tbl α → Nat → α
  | [], _ => d
  | (j, v) :: t, k => if j = k then v else tget d t k

/-- The table without an index. -/
def terase : Tbl α → Nat → Tbl α
  | [], _ => []
  | (j, v) :: t, k => if j = k then terase t k else (j, v) :: terase t k

/-- A new entry in its place by index. -/
def tinsert (k : Nat) (v : α) : Tbl α → Tbl α
  | [] => [(k, v)]
  | (j, w) :: t => if k < j then (k, v) :: (j, w) :: t else (j, w) :: tinsert k v t

/-- Write an index; writing what an unlisted index holds removes the entry. -/
def tset [DecidableEq α] (d : α) (t : Tbl α) (k : Nat) (v : α) : Tbl α :=
  if v = d then terase t k else tinsert k v (terase t k)

/-- Change the value at an index. -/
def tmod [DecidableEq α] (d : α) (t : Tbl α) (k : Nat) (f : α → α) : Tbl α := tset d t k (f (tget d t k))

/-- Every entry lies above the bound, in rising order, and none equals d. -/
def tabove [DecidableEq α] (d : α) : Nat → Tbl α → Bool
  | _, [] => true
  | lo, (j, v) :: t => decide (lo ≤ j) && decide (v ≠ d) && tabove d (j + 1) t

/-- The canonical form of a table. -/
def twf [DecidableEq α] (d : α) (t : Tbl α) : Bool := tabove d 0 t

/-- Change every entry that is listed. -/
def tmap (f : Nat → α → α) (t : Tbl α) : Tbl α := t.map (fun kv => (kv.1, f kv.1 kv.2))

/-! ### Byte stores: control memory, KRAM, retention SRAM. A byte nothing has written reads 0 (log entry 6). -/

/-- A byte store is canonical. -/
def Memory.wf (m : List Host.Cell) : Bool := twf (0 : Byte) m

/-- One byte. -/
def memByte (m : List Host.Cell) (a : Nat) : Byte := tget 0 m a

/-- n bytes from an address upwards. -/
def memRead (m : List Host.Cell) (a : Nat) : Nat → List Byte
  | 0 => []
  | n + 1 => memByte m a :: memRead m (a + 1) n

/-- Write bytes from an address upwards. -/
def memWrite (m : List Host.Cell) (a : Nat) : List Byte → List Host.Cell
  | [] => m
  | b :: bs => memWrite (tset 0 m a b) (a + 1) bs

/-! ### Lists kept as rising sets of numbers -/

/-- Add a member. -/
def setAdd (k : Nat) : List Nat → List Nat
  | [] => [k]
  | j :: t => if k = j then j :: t else if k < j then k :: j :: t else j :: setAdd k t

/-- Remove a member. -/
def setDel (k : Nat) (l : List Nat) : List Nat := l.filter (· != k)

/-- The first element that passes a test, and the list without it. -/
def pick (p : α → Bool) : List α → Option (α × List α)
  | [] => none
  | x :: t => if p x then some (x, t) else
    match pick p t with
    | none => none
    | some (y, r) => some (y, x :: r)

/-- Replace the first element that passes a test. -/
def replaceFirst (p : α → Bool) (f : α → α) : List α → List α
  | [] => []
  | x :: t => if p x then f x :: t else x :: replaceFirst p f t

/-- The least natural number below a bound that is not used. -/
def lowestFree (used : Nat → Bool) : Nat → Nat → Option Nat
  | _, 0 => none
  | k, n + 1 => if used k then lowestFree used (k + 1) n else some k

end Sys2Proof.Machine
end

