-- ==== Sys2Proof/Machine/Bits.lean ====
section
/-! DEFINITION. Bit fields (R7), little-endian bytes and words (R8), and the register access codes of R9 as functions of the
old and the written value. -/

namespace Sys2Proof.Machine

/-- Bits [lo + n - 1 : lo] of a value as a number. -/
def fld {w : Nat} (x : BitVec w) (lo n : Nat) : Nat := (x.toNat >>> lo) % 2 ^ n

/-- Bits [lo + n - 1 : lo] as an n-bit value. -/
def bits {w : Nat} (x : BitVec w) (lo n : Nat) : BitVec n := BitVec.extractLsb' lo n x

/-- Bit i. -/
def bit {w : Nat} (x : BitVec w) (i : Nat) : Bool := x.getLsbD i

/-- A flag as a number. -/
def b2n (b : Bool) : Nat := if b then 1 else 0

/-- A value placed at a bit offset of a w-bit word. -/
def put (w : Nat) {n : Nat} (x : BitVec n) (lo : Nat) : BitVec w := (x.zeroExtend w) <<< lo

/-- A flag placed at a bit of a w-bit word. -/
def putb (w : Nat) (b : Bool) (lo : Nat) : BitVec w := if b then (1 : BitVec w) <<< lo else 0

/-- The lower and upper half of a 64-bit word. -/
def lo32 (x : Word) : Half := x.truncate 32
def hi32 (x : Word) : Half := (x >>> 32).truncate 32

/-- A word from its halves. -/
def join32 (lo hi : Half) : Word := put 64 hi 32 ||| put 64 lo 0

/-- n bytes of a value, least significant first (R8). -/
def bytesOf {w : Nat} (x : BitVec w) : Nat → List Byte
  | 0 => []
  | n + 1 => x.truncate 8 :: bytesOf (x >>> 8) n

/-- The little-endian number that bytes spell. -/
def natOfBytes : List Byte → Nat
  | [] => 0
  | b :: bs => b.toNat + 256 * natOfBytes bs

/-- The 64-bit word at a byte offset of a list of bytes. -/
def wordAt (bs : List Byte) (off : Nat) : Word := BitVec.ofNat 64 (natOfBytes ((bs.drop off).take 8))

/-- n 64-bit words of a list of bytes. -/
def wordsOf (bs : List Byte) : Nat → List Word
  | 0 => []
  | n + 1 => wordAt bs 0 :: wordsOf (bs.drop 8) n

/-- The bytes of words. -/
def bytesOfWords (ws : List Word) : List Byte := ws.flatMap (fun w => bytesOf w 8)

/-- Sign extension of the low n bits of a value to 64 bits. -/
def sext (n : Nat) {w : Nat} (x : BitVec w) : Word := (BitVec.extractLsb' 0 n x).signExtend 64

/-- Replace the bits of a mask (masked writes of R377, R434). -/
def masked {w : Nat} (old value mask : BitVec w) : BitVec w := (old &&& ~~~mask) ||| (value &&& mask)

/-- UPD8 of R434: the word after the update. -/
def upd8 (old compare cmask value wmask add : Word) : Word :=
  if old &&& cmask = compare &&& cmask then masked old value wmask + add else old

/-- W1C of R9. -/
def w1c {w : Nat} (old v : BitVec w) : BitVec w := old &&& ~~~v

/-- The ring order of 32-bit counters: how far b lies past a. -/
def ahead32 (a b : Half) : Nat := (b - a).toNat

/-- Alignment of an address. -/
def aligned (a : Word) (n : Nat) : Bool := a.toNat % n == 0

/-- An address rounded down. -/
def alignDown (a : Word) (n : Nat) : Word := BitVec.ofNat 64 (a.toNat - a.toNat % n)

/-- A 64-bit address from a number. -/
def w64 (n : Nat) : Word := BitVec.ofNat 64 n

/-- SEQ a is ahead of b, and covers b (R42). -/
def seqAhead (a b : BitVec 24) : Bool := decide (1 ≤ (a - b).toNat) && decide ((a - b).toNat ≤ 0x7FFFFF)
def seqCovers (a b : BitVec 24) : Bool := a == b || seqAhead a b

/-- Deadline a is ahead of b (R221). -/
def dlAhead (a b : BitVec 20) : Bool := decide (1 ≤ (b - a).toNat) && decide ((b - a).toNat < 2 ^ 19)

/-- CRC-32 of IEEE 802.3, reflected, over bytes (R401). -/
def crcBit (c : Half) : Half := if c.getLsbD 0 then (c >>> 1) ^^^ 0xEDB88320 else c >>> 1
def crcByte (c : Half) (b : Byte) : Half :=
  let x := c ^^^ b.zeroExtend 32
  crcBit (crcBit (crcBit (crcBit (crcBit (crcBit (crcBit (crcBit x)))))))
def crc32 (bs : List Byte) : Half := ~~~(bs.foldl crcByte 0xFFFFFFFF)

/-- Word i of a block, 0 past its end. -/
def nthWord (ws : List Word) (i : Nat) : Word := ws.getD i 0

end Sys2Proof.Machine
end

