-- ==== Sys2Proof/Machine/Ops.lean ====
section
/-! DEFINITION. The named operations that every meaning uses: reading and changing one place of State, the counts of the
configuration (R3), events (R288, R289, R356), free values, the rights of requesters (R342), memory-port requests (R432). -/

namespace Sys2Proof.Machine

/-- The three outcomes of a command. -/
abbrev Res := Host.Outcome State Fault Refusal

/-! ### Counts of the configuration (R3) -/

def nPorts (s : State) : Nat := if s.cfg.compact then 256 else 1024
def nFns (s : State) : Nat := if s.cfg.compact then 1024 else 4096
def nEngines (s : State) : Nat := if s.cfg.compact then 8 else 32
def nHosts (s : State) : Nat := if s.cfg.compact then 1 else 4
def nClusters (s : State) : Nat := if s.cfg.compact then 16 else 64
def nLanes (s : State) : Nat := if s.cfg.compact then 11 else 44
def log2Max (s : State) : Nat := if s.cfg.compact then 21 else 23

/-- LOG2CNT as it acts (R31). -/
def log2Eff (s : State) : Nat := min (max s.dsp.log2cnt.toNat 16) (log2Max s)

/-- A channel the block has (R32). -/
def chanPresent (s : State) (c : Nat) : Bool := decide (c < 2 ^ log2Eff s)

/-- A gate the configuration has (R239). -/
def gatePresent (s : State) (g : Nat) : Bool :=
  if s.cfg.compact then decide (g < 16) || g == 64 || g == 68 || g == 70 else decide (g < 71)

/-- Whether a space names something the configuration has: LM, a present host, PORT, CTL (R5, R69). -/
def hostSpace (s : State) (sp : BitVec 4) : Bool := decide (1 ≤ sp.toNat) && decide (sp.toNat ≤ nHosts s)

/-! ### Places of State -/

def getCtx (s : State) (c : Nat) : Ctx := tget {} s.dsp.ctx c
def modCtx (c : Nat) (f : Ctx → Ctx) (s : State) : State :=
  { s with dsp := { s.dsp with ctx := tmod {} s.dsp.ctx c f } }
def getFn (s : State) (fn : Nat) : Func := tget {} s.fn fn
def modFn (fn : Nat) (f : Func → Func) (s : State) : State := { s with fn := tmod {} s.fn fn f }
def getEng (s : State) (e : Nat) : Engine := tget {} s.eng e
def modEng (e : Nat) (f : Engine → Engine) (s : State) : State := { s with eng := tmod {} s.eng e f }
def getPort (s : State) (p : Nat) : Port := tget {} s.port p
def modPort (p : Nat) (f : Port → Port) (s : State) : State := { s with port := tmod {} s.port p f }
def getHp (s : State) (h : Nat) : HostPort := tget {} s.hp h
def modHp (h : Nat) (f : HostPort → HostPort) (s : State) : State := { s with hp := tmod {} s.hp h f }
def getClu (s : State) (k : Nat) : Cluster := tget {} s.cluster k
def modClu (k : Nat) (f : Cluster → Cluster) (s : State) : State := { s with cluster := tmod {} s.cluster k f }
def getInst (s : State) (i : Nat) : Inst := tget {} s.tsv.inst i
def modInst (i : Nat) (f : Inst → Inst) (s : State) : State :=
  { s with tsv := { s.tsv with inst := tmod {} s.tsv.inst i f } }
def getCore (s : State) (c : Nat) : Core := tget {} s.core c
def modCore (c : Nat) (f : Core → Core) (s : State) : State := { s with core := tmod {} s.core c f }
def getMbx (s : State) (m : Nat) : Mailbox := tget {} s.mbx m
def modMbx (m : Nat) (f : Mailbox → Mailbox) (s : State) : State := { s with mbx := tmod {} s.mbx m f }
def getIsl (s : State) (i : Nat) : Island := tget {} s.island i
def modIsl (i : Nat) (f : Island → Island) (s : State) : State := { s with island := tmod {} s.island i f }
def getEngIsl (s : State) (k : Nat) : EngIsland := tget {} s.st.slots k
def modEngIsl (k : Nat) (f : EngIsland → EngIsland) (s : State) : State :=
  { s with st := { s.st with slots := tmod {} s.st.slots k f } }
def modDsp (f : Dsp → Dsp) (s : State) : State := { s with dsp := f s.dsp }
def modCtl (f : Ctl → Ctl) (s : State) : State := { s with ctl := f s.ctl }
def modGate (f : Gates → Gates) (s : State) : State := { s with gate := f s.gate }
def modTsv (f : Tsv → Tsv) (s : State) : State := { s with tsv := f s.tsv }
def modLock (f : Locks → Locks) (s : State) : State := { s with lock := f s.lock }
def modXbar (f : Xbar → Xbar) (s : State) : State := { s with xbar := f s.xbar }
def modPf (f : PowerFail → PowerFail) (s : State) : State := { s with pf := f s.pf }
def modOut (f : Outputs → Outputs) (s : State) : State := { s with out := f s.out }

/-- One more on a 32-bit counter. -/
def inc32 (x : Half) : Half := x + 1

/-! ### Sums of a list of states' changes -/

/-- Apply a change for each member of a list, in order. -/
def forAll {α : Type} (l : List α) (f : α → State → State) (s : State) : State := l.foldl (fun s x => f x s) s

/-! ### Free values (log entry 4) -/

/-- A free 64-bit value, and the state that has drawn it. -/
def drawFree (s : State) : Word × State := (Config.freeWord s.free, { s with free := s.free + 1 })

/-- Eight free bytes for each of n free values. -/
def drawBytes : Nat → State → List Byte × State
  | 0, s => ([], s)
  | n + 1, s =>
    let (w, s) := drawFree s
    let (l, s) := drawBytes n s
    (bytesOf w 8 ++ l, s)

/-! ### Holding registers (R444) -/

/-- The key of a requester's holding register; a host port unit keeps one for each page. -/
def latchKey : Requester → Nat
  | .cc n => n
  | .kc => 8
  | .mp => 9
  | .host _ fn => 16 + fn
def getLatch (s : State) (r : Requester) : Latch := tget {} s.latch (latchKey r)
def setLatch (r : Requester) (x : Latch) (s : State) : State := { s with latch := tset {} s.latch (latchKey r) x }
/-- An access that takes nothing from the holding register empties it (log entry 34). -/
def dropLatch (r : Requester) (s : State) : State := setLatch r {} s

/-- What the holding register has for an offset: a half held for a write, or latched by a read. -/
def latched (s : State) (r : Requester) (a : Nat) (write : Bool) : Option Half :=
  let x := getLatch s r
  if x.full && x.addr == a && x.write == write then some x.data else none

/-- A command that is an access of a requester ends what its holding register latches; no access is made in reset. -/
def access (r : Requester) (s : State) : State := if s.inReset then s else dropLatch r s
/-- The requester of an access to the page of a function, which the command does not name: its host port (log entry 34). -/
def pageReq (fn : Nat) : Requester := .host (fn / 1024) fn

/-! ### Functions and engines -/

/-- The host port and local index of a function (R267). -/
def hptOf (fn : Nat) : Nat := fn / 1024
def localOf (fn : Nat) : Nat := fn % 1024

/-- The family of a function (R289). -/
def familyOf (s : State) (fn : Nat) : Nat :=
  let m := (getFn s fn).mir
  if m.pf then fn else hptOf fn * 1024 + m.parent.toNat

/-- Bus master enable as it acts: 0 for a function that is not present (R271), and from FLRREQ until reset-done and the end of
the context sweep (R284, R286). That a function whose bus master enable is 1 issues nothing before both, and the work of CTLFN
nothing either, is the model's choice: the spec does not say when it may again (DESIGN CHOICE; log entry 87). -/
def bmeOf (s : State) (fn : Nat) : Bool :=
  let f := getFn s fn
  f.mir.present && f.mir.bme && f.flrAt.isNone && !f.sweeping

/-- The slot that carries a logical engine (R16, R421); 7 is none. -/
def engSlot (s : State) (e : Nat) : BitVec 3 :=
  let k := getEngIsl s (e / 4)
  match e % 4 with
  | 0 => k.m0
  | 1 => k.m1
  | 2 => k.m2
  | _ => k.m3

/-- An engine that is present (R17). -/
def engPresent (s : State) (e : Nat) : Bool :=
  decide (e < nEngines s) && decide ((engSlot s e).toNat < 5) && !(getEngIsl s (e / 4)).shfail

/-! ### Islands under test (R407, R408, R414) -/

/-- The island that a memory group belongs to; groups 11, 12 and 16 leave their islands at work. -/
def groupIsl (g i : Nat) : Bool :=
  match g with
  | 0 | 1 => i == 1
  | 2 => i == 10
  | 11 | 12 | 16 => false
  | 13 => decide (18 ≤ i) && decide (i ≤ 81)
  | 14 => decide (12 ≤ i) && decide (i ≤ 15)
  | 15 => i == 11
  | g => decide (3 ≤ g) && decide (g ≤ 10) && i + 1 == g

/-- An island under LOGIC, or whose memories are under MEMORY: it ignores its inputs, and what reaches it waits (R408). A command
that would bring an input to it, or is an act of its own, has no effect (log entry 83). -/
def tested (s : State) (i : Nat) : Bool :=
  s.st.busy && (match s.st.lkind.toNat with
    | 0 => s.st.ltarget.toNat == i
    | 1 => groupIsl s.st.ltarget.toNat i
    | _ => false)
def islDsp : Nat := 1
def islHpt (h : Nat) : Nat := 12 + h
def islLmp (n : Nat) : Nat := 16 + n

/-- The island of an engine is under test, in the field or not (R408, R414); ENG0 to ENG7 are islands 2 to 9 (R407). -/
def testedEng (s : State) (e : Nat) : Bool :=
  s.st.busy && s.st.lkind == 2 && s.st.ltarget.toNat == 2 + e / 4 || tested s (2 + e / 4)

/-- A channel the function owns (R41, R53). -/
def owns (s : State) (fn c : Nat) : Bool :=
  chanPresent s c && (getCtx s c).ov && (getCtx s c).owner.toNat == fn

/-! ### Events -/

/-- A bit of EVPENDK (R356). -/
def evK (i : Nat) (s : State) : State :=
  modCtl (fun c => { c with evpendk := c.evpendk ||| (1 : BitVec 9) <<< i }) s
/-- A bit of EVPENDS (R356). -/
def evS (i : Nat) (s : State) : State :=
  modCtl (fun c => { c with evpends := c.evpends ||| (1 : BitVec 17) <<< i }) s
/-- A cause bit on the page of a function's family (R289). -/
def postCause (i fn : Nat) (s : State) : State :=
  modFn (familyOf s fn) (fun f => { f with evcause := f.evcause ||| (1 : BitVec 11) <<< i }) s
/-- BLOCK on the page EVGLOB names of every host port that posts it (R289). -/
def postBlockAt (h : Nat) (s : State) : State :=
  let p := getHp s h
  if p.evgloben then
    modFn (h * 1024 + p.evglob.toNat) (fun f => { f with evcause := f.evcause ||| (1 : BitVec 11) <<< 9 }) s
  else s
def postBlock (s : State) : State := (List.range (nHosts s)).foldl (fun s h => postBlockAt h s) s

/-- The block events of the function families: the cause bit and the Scree event (R288, R356). -/
def evDescFault (fn : Nat) (s : State) : State := evS 6 (postCause 1 fn s)
/-- WB_FAULT records the channel and an address (R57, R148). -/
def evWbFault (fn c : Nat) (a : Word) (s : State) : State :=
  evS 7 (postCause 2 fn (modDsp (fun d => { d with wbfChan := BitVec.ofNat 23 c, wbfAddr := a }) s))
def evWdog (fn : Nat) (s : State) : State := evS 5 (postCause 3 fn s)
def evLockBreak (fn : Nat) (s : State) : State := evS 8 (postCause 4 fn s)
def evCplTimeout (fn : Nat) (s : State) : State := evS 10 (postCause 6 fn s)
/-- A timed-out read is counted and reported (R277). -/
def reportTimeout (h fn : Nat) (s : State) : State :=
  evCplTimeout fn (modHp h (fun p => { p with cpltocnt := inc32 p.cpltocnt }) s)
def evFnStop (fn : Nat) (s : State) : State := evS 12 (postCause 8 fn s)
def evCtxEcc (fn : Nat) (s : State) : State := evS 16 (evK 4 (postCause 0 fn s))

/-! ### Rights of requesters (R342) -/

def isKc : Requester → Bool
  | .kc => true
  | _ => false
def isFirmware : Requester → Bool
  | .kc => true
  | .cc _ => true
  | _ => false
def isMp : Requester → Bool
  | .mp => true
  | _ => false

/-! ### Stages that stop the block -/

/-- The block is out of reset and not held after a power failure (R398, R399, R426). -/
def live (s : State) : Bool := !s.inReset && s.pf.stage != .held
/-- The block may drive its interfaces (R398, R399). -/
def drives (s : State) : Bool := live s && !s.pf.cut
/-- No access leaves the block in reset, after CUT, or once the drain has ended (R396, R398, R399, R426). -/
def mayIssue (s : State) : Bool := !s.inReset && !s.pf.cut && (s.pf.stage == .normal || s.pf.stage == .drain)
/-- Reads other than flush reads also stop with the drain (R396). -/
def mayRead (s : State) : Bool := mayIssue s && s.pf.stage == .normal

/-! ### Wake times of links (R306, R307) -/

/-- The wake time of a link power state, in nanoseconds. -/
def wakeNs (pwr : BitVec 2) : Nat :=
  match pwr.toNat with
  | 0 => 0
  | 1 => 8
  | 2 => 200
  | _ => 4000

/-! ### Service slots of the cores (R373) -/

def modSlotSvc (core slot : Nat) (f : Svc → Svc) (s : State) : State :=
  modCore core (fun c => match slot % 4 with
    | 0 => { c with svc0 := f c.svc0 }
    | 1 => { c with svc1 := f c.svc1 }
    | 2 => { c with svc2 := f c.svc2 }
    | _ => { c with svc3 := f c.svc3 }) s
def getSvc (s : State) (core slot : Nat) : Svc :=
  match slot % 4 with
  | 0 => (getCore s core).svc0
  | 1 => (getCore s core).svc1
  | 2 => (getCore s core).svc2
  | _ => (getCore s core).svc3

/-! ### Deadlines of transfers (R220) -/

/-- DCOFF of a class: the active copy (R174). -/
def dcoff (s : State) (cls : BitVec 4) : Half :=
  let d : BitVec 19 := BitVec.ofNat 19 (0x400 * (cls.toNat + 1))
  (tget d s.active.disp.dcoff cls.toNat).zeroExtend 32

/-- The present time in units of 8 ns, 20 bits. -/
def now20 (s : State) : BitVec 20 := (s.time >>> 3).truncate 20
/-- The deadline of a transfer of a class that becomes ready now (R220). -/
def deadlineNow (s : State) (cls : BitVec 4) : BitVec 20 := now20 s + (dcoff s cls).truncate 20

/-- The engine an access belongs to. -/
def purposeEng : Purpose → Option Nat
  | .desc e _ | .ahead e _ _ _ | .resume e | .src e _ | .list e | .image e | .dst e _ | .notify e | .status e | .status2 e
  | .word0 e | .dnotify e | .flush e _ _ | .flushAll e | .atom e | .lockTake e | .lockRenew e | .lockBusy e
  | .unlkRelease e | .unlkNone e => some e
  | _ => none

/-- A transfer of an engine: class of its channel or work (R220). -/
def engClass (s : State) (e : Nat) : BitVec 4 :=
  match (getEng s e).hold with
  | .work c k => bits (nthWord (getSvc s c k).block 0) 4 4
  | .chan c => (getCtx s c).dc
  | .task c => (getCtx s c).dc
  | .none => 0

/-- The deadline of an access that becomes ready now: the class of its engine, of TSV, or of CTL, which carries what DSP issues
(R212, R217; log entry 20). -/
def dlOf (s : State) (pu : Purpose) : BitVec 20 :=
  deadlineNow s (match purposeEng pu with
    | some e => engClass s e
    | none => match pu with
      | .tsv _ _ | .stash _ _ _ | .tsvEvent => s.active.xarb.tsvdc
      | _ => s.active.xarb.ctldc)

/-! ### Islands at work (R15, R387 to R389, R407) -/

/-- The wake time of an island, in nanoseconds (R387). -/
def islWakeNs (pst : BitVec 2) : Nat :=
  match pst.toNat with
  | 0 => 0
  | 1 => 16
  | _ => 2000
/-- A request reaches an island: it wakes, and is idle no more. -/
def wakeIsl (i : Nat) (s : State) : State :=
  modIsl i (fun x => { x with
    pst := 0, since := s.time, awakeAt := if x.pst == 0 then x.awakeAt else s.time + w64 (islWakeNs x.pst) }) s
/-- The islands of an engine and of a port; XBR and TSV. -/
def islEng (e : Nat) : Nat := 2 + e / 4
def islPort (p : Nat) : Nat := 18 + p / 16
def islXbr : Nat := 10
def islTsv : Nat := 11

/-! ### Ways through the crossbar (R217, R235) -/

def laneReq : Lane → Option XReq
  | .held r _ => some r
  | _ => none

/-- A requester holds a lane: its own for an engine, any for the others. -/
def holdsLane (s : State) (idx ord : Nat) : Bool :=
  s.xbar.lanes.any (fun l => (laneReq l.2).any (fun r => r.idx == idx && (r.ord == ord || decide (72 ≤ idx))))

/-- The requester whose transfers carry an access. No requester is named for what DSP itself issues: it crosses no lane (log
entry 20). -/
def xroute (pu : Purpose) : Option (Nat × Nat) :=
  match purposeEng pu with
  | some e => some (64 + e / 4, e)
  | none => match pu with
    | .tsv _ _ | .stash _ _ _ | .tsvEvent => some (78, 0)
    | .breakWord | .cairn => some (79, 0)
    | _ => none

/-- A requester finds the crossbar frozen, or under test (R408), and holds no lane. -/
def xstands (s : State) (idx ord : Nat) : Bool := (s.xbar.freeze || tested s islXbr) && !holdsLane s idx ord
def xfrozen (s : State) (pu : Purpose) : Bool := (xroute pu).any (fun r => xstands s r.1 r.2)

/-- Join a queue: what stands in front of a frozen crossbar stays behind what has crossed it. -/
def joinBehind {α : Type} (held : α → Bool) (x : α) (l : List α) : List α :=
  if held x then l ++ [x] else l.filter (fun y => !held y) ++ [x] ++ l.filter held

/-! ### Error protection (R418) -/

def getGroup (s : State) (g : Nat) : MemGroup := tget {} s.st.group g
def modGroup (g : Nat) (f : MemGroup → MemGroup) (s : State) : State :=
  { s with st := { s.st with group := tmod {} s.st.group g f } }

/-- A corrected error is counted in ECCCOR of its group. -/
def corCount (g : Nat) (s : State) : State := modGroup g (fun x => { x with ecccor := inc32 x.ecccor }) s
/-- A read of n bytes from an address of R361 on: the errors it corrects are counted, each once. -/
def softRead (g a n : Nat) (s : State) : State :=
  forAll (s.soft.filter (fun w => decide (a < 8 * w + 8) && decide (8 * w < a + n))) (fun _ s => corCount g s) s
/-- An uncorrectable error is counted in ECCUNC of its group. -/
def eccCount (g : Nat) (s : State) : State := modGroup g (fun x => { x with eccunc := inc32 x.eccunc }) s
/-- The n bytes from an address of R361 on touch a word that holds an uncorrectable error. -/
def eccAt (s : State) (a n : Nat) : Bool := s.ecc.any (fun w => decide (a < 8 * w + 8) && decide (8 * w < a + n))
/-- A write of a whole word leaves no error in it. -/
def eccMend (a n : Nat) (s : State) : State :=
  let whole (w : Nat) : Bool := decide (a ≤ 8 * w) && decide (8 * w + 8 ≤ a + n)
  { s with ecc := s.ecc.filter (fun w => !whole w), soft := s.soft.filter (fun w => !whole w) }

/-! ### Memory ports (R432 to R434) -/

/-- The memory port that serves an LM address (log entry 3). -/
def lmPortOf (s : State) (a : Word) : Nat :=
  if !s.cfg.compact && s.cfg.lmp1.any (fun r => decide (r.1 ≤ a.toNat) && decide (a.toNat ≤ r.2)) then 1 else 0

/-- A tag not in use at a port; 1,024 while there is none, and the request then waits. -/
def lmFreeTag (s : State) (port : Nat) : Nat :=
  (lowestFree (fun t => s.lm.any (fun r => r.port == port && r.tag == t)) 0 1024).getD 1024

/-- The tag of a request that reaches a port. It waits where no access may leave the block (R398, R399) and while the port's
island is under test (R408). -/
def lmTag (s : State) (p : Nat) : Nat := if mayIssue s && !tested s (islLmp p) then lmFreeTag s p else 1024

/-- Present a request at the port of its address. -/
def lmIssue (r : LmReq) (s : State) : State :=
  let p := lmPortOf s r.addr
  let t := if xfrozen s r.purpose then 1025 else lmTag s p
  { s with lm := s.lm ++ [{ r with port := p, tag := t, dl := dlOf s r.purpose }] }

/-- The oldest request that waits for a tag of the port takes the tag that has become free. -/
def lmPromote (port tag : Nat) (s : State) : State :=
  if !mayIssue s || tested s (islLmp port) then s else
  { s with lm := replaceFirst (fun r => r.port == port && r.tag == 1024) (fun r => { r with tag := tag }) s.lm }

/-- The requests that wait at a port take the tags that are free. -/
def lmServe (port : Nat) (s : State) : State :=
  forAll (s.lm.filter (fun r => r.port == port && r.tag == 1024)) (fun _ s =>
    let t := lmTag s port
    if t < 1024 then lmPromote port t s else s) s

/-- The outstanding request with a tag. -/
def lmFind (s : State) (port tag : Nat) : Option LmReq :=
  if tag < 1024 then s.lm.find? (fun r => r.port == port && r.tag == tag) else none

/-- Retire the request with a tag. -/
def lmRetire (port tag : Nat) (s : State) : State :=
  lmPromote port tag
    { s with lm := s.lm.filter (fun r => !(r.port == port && r.tag == tag)) }

/-- An UPD8 of DSP, which no gate checks (R241). -/
def dspUpd8 (addr compare cmask value wmask add : Word) (pu : Purpose) (s : State) : State :=
  lmIssue { port := 0, tag := 0, op := .upd8, addr := addr, len := 8, compare := compare, cmask := cmask, value := value,
            wmask := wmask, add := add, purpose := pu, gated := false } s

/-! ### Ends of services (R373) -/

/-- A slot becomes DONE: its result words are complete, and SVCDONE is set in the core's LEV (R373). -/
def svcDone (core slot : Nat) (result : List Word) (s : State) : State :=
  modCore core (fun c => { c with lev := c.lev ||| 1 })
    (modSlotSvc core slot (fun v => { v with st := .done, result := result }) s)

/-! ### Addresses of DSP's own structures (R26, R31, R44) -/

/-- CTXBASE as it acts: bits below the store size are 0. -/
def ctxStore (s : State) : Nat :=
  let b := s.dsp.ctxbase.toNat
  b - b % (128 * 2 ^ log2Eff s)
def foldAddr (s : State) (c : Nat) : Word := w64 (ctxStore s + 128 * c + 120)
def bitmapAddr (s : State) (c : Nat) : Word := w64 (s.dsp.psbase.toNat / 4096 * 4096 + c / 64 * 8)
def bitmapBit (c : Nat) : Word := (1 : Word) <<< (c % 64)
/-- The 256-byte bitmap block of a channel. -/
def bitmapBlock (c : Nat) : Nat := c / 2048

/-- Set a channel's bitmap bit by an atomic OR (R44). -/
def bitmapOr (c : Nat) (pu : Purpose) (s : State) : State :=
  dspUpd8 (bitmapAddr s c) 0 0 (bitmapBit c) (bitmapBit c) 0 pu s

end Sys2Proof.Machine
end

