-- ==== Sys2Proof/Machine/GateOps.lean ====
section
/-! DEFINITION. The access gates (10): matching, the attributes delivered, denials, notices and the violation log. -/

namespace Sys2Proof.Machine

/-- Who makes an access: requester class 0 CHANNEL, 1 SCREE, 2 BEDROCK, 3 TSV (R240), function and channel for class
CHANNEL, and the engine or core of the log entry (R258). -/
structure Who where
  cls : Nat := 0
  fn : Nat := 0
  chan : Nat := 0
  engine : Nat := 0
  core : Bool := false
  deriving DecidableEq, Repr, Inhabited

/-- What an access needs (R245). -/
inductive Need
  | rd | wr | both
  deriving DecidableEq, Repr, Inhabited

/-- What a gate answers for a burst (R246). -/
structure Verdict where
  ok : Bool := true
  pref : Bool := false
  cach : Bool := false
  order : Order := .strict
  /-- governing rule of the first refused granule, and whether some granules were allowed (R258) -/
  rule : Nat := 0
  straddle : Bool := false
  deriving DecidableEq, Repr, Inhabited

/-- A rule applies to an access (R244). -/
def ruleApplies (w : Who) (r : Rule) : Bool :=
  bit r.w2 63 && bit r.w2 (24 + w.cls) && (w.cls != 0 || ((w.fn ^^^ fld r.w2 0 12) &&& fld r.w2 12 12) == 0)

/-- A rule's range contains a granule (R242, R243). -/
def ruleHas (r : Rule) (a : Nat) : Bool :=
  decide (r.w0.toNat / 4 ≤ a / 4) && decide (a / 4 ≤ r.w1.toNat / 4)

/-- A malformed rule (R243). -/
def ruleBad (r : Rule) : Bool :=
  bit r.w2 63 && (fld r.w0 0 2 != 0 || fld r.w1 0 2 != 0 || fld r.w2 28 35 != 0 || fld r.w3 6 58 != 0 ||
    fld r.w3 4 2 == 3)

/-- The rule that governs a granule, with its number (R244). -/
def governing (rules : List (Nat × Rule)) (w : Who) (a : Nat) : Option (Nat × Rule) :=
  rules.find? (fun kr => ruleApplies w kr.2 && ruleHas kr.2 a)

/-- The rules of one gate in a table keyed gate × 64 + rule, in rising order. -/
def gateRules (t : Tbl Rule) (g : Nat) : List (Nat × Rule) :=
  (t.filter (fun kr => kr.1 / 64 == g)).map (fun kr => (kr.1 % 64, kr.2))

def orderOf (n : Nat) : Order :=
  match n with
  | 1 => .relaxed
  | 2 => .idOrdered
  | _ => .strict
def orderRank : Order → Nat
  | .relaxed => 1
  | .idOrdered => 2
  | .strict => 3
/-- The stronger of two orderings (R82). -/
def stronger (a b : Order) : Order := if orderRank a ≤ orderRank b then b else a

/-- What one granule contributes (R245). -/
def granuleVerdict (rules : List (Nat × Rule)) (w : Who) (n : Need) (a : Nat) : Verdict :=
  match governing rules w a with
  | none => {}
  | some (i, r) =>
    let rd := bit r.w3 0
    let wr := bit r.w3 1
    let ok := match n with
      | .rd => rd
      | .wr => wr
      | .both => rd && wr
    { ok := ok, pref := bit r.w3 2, cach := bit r.w3 3, order := orderOf (fld r.w3 4 2), rule := i }

/-- A burst is allowed only if every granule is (R246). -/
def joinVerdict (v x : Verdict) : Verdict :=
  { ok := v.ok && x.ok, pref := v.pref && x.pref, cach := v.cach && x.cach, order := stronger v.order x.order,
    rule := if v.ok then x.rule else v.rule, straddle := v.straddle || (v.ok != x.ok) }

/-- The granules a gate checks: one at the address on a fixed side (R247). -/
def granules (a : Word) (len : Nat) (fix : Bool) : List Nat :=
  if fix then [a.toNat] else (List.range ((len + 3) / 4)).map (fun i => a.toNat + 4 * i)

/-- The gate's decision against its active rules (R244 to R248). -/
def gateCheck (s : State) (g : Nat) (w : Who) (n : Need) (a : Word) (len : Nat) (fix : Bool) : Verdict :=
  let rules := gateRules s.gate.active g
  match (granules a len fix).map (granuleVerdict rules w n) with
  | [] => {}
  | v :: vs => vs.foldl joinVerdict v

/-- The log entry of a denial (R258). -/
def logEntry (s : State) (g : Nat) (w : Who) (n : Need) (a : Word) (len : Nat) (v : Verdict) (precise : Bool) : Rule :=
  let write := n != .rd
  { w0 := a
    w1 := w64 ((if w.cls == 0 then w.chan + w.fn * 2 ^ 24 else 0) + w.cls * 2 ^ 36 + w.engine * 2 ^ 40 +
            b2n w.core * 2 ^ 45 + b2n write * 2 ^ 47 + b2n precise * 2 ^ 48 + b2n v.straddle * 2 ^ 49 + v.rule * 2 ^ 50)
    w2 := w64 (s.seam.toNat + len * 2 ^ 32 + g * 2 ^ 41)
    w3 := s.time }

/-- Write a log entry, or count it lost (R259). -/
def vlogPut (x : Rule) (s : State) : State :=
  modGate (fun g =>
    if g.vlogwr - g.vlogrd = 256 then { g with vloglost := inc32 g.vloglost }
    else { g with vlog := tset {} g.vlog (g.vlogwr.toNat % 256) x, vlogwr := inc32 g.vlogwr }) s

/-- A denial at once (R253). -/
def denyPrecise (g : Nat) (w : Who) (n : Need) (a : Word) (len : Nat) (v : Verdict) (s : State) : State :=
  modGate (fun g => { g with denycnt := inc32 g.denycnt }) (vlogPut (logEntry s g w n a len v true) s)

/-- The GATE_NOTICE event of a class (R257, R356). -/
def evNotice (w : Who) (s : State) : State :=
  if w.cls == 0 then evS 9 (postCause 5 w.fn (modFn w.fn (fun f => { f with notice := true }) s)) else evK 8 s

/-- A denial of a buffered write (R255). -/
def denyNotice (g : Nat) (w : Who) (a : Word) (len : Nat) (v : Verdict) (s : State) : State :=
  evNotice w (modGate (fun g => { g with noticecnt := inc32 g.noticecnt })
    (vlogPut (logEntry s g w .wr a len v false) s))

/-- The gate in front of a space and address (R239). -/
def gateOf (s : State) (sp : BitVec 4) (a : Word) : Nat :=
  match sp.toNat with
  | 0 => 68 + lmPortOf s a
  | 5 => fld a 32 10 / 16
  | 6 => 70
  | n => 64 + (n - 1)

end Sys2Proof.Machine
end

