-- ==== Sys2Proof/Machine/MailOps.lean ====
section
/-! DEFINITION. Bedrock's tools (10, 14): arming a gate barrier, the rules Bedrock installs, mailboxes, notices, starting and
halting control cores, and what Bedrock does when a barrier of its own is done. -/

namespace Sys2Proof.Machine

/-! ### Arming a barrier (R261 step 3) -/

/-- The mask registers as one mask of 71 gates. -/
def gateMask (g : Gates) : BitVec 71 := put 71 g.mask0 0 ||| put 71 g.mask1 32 ||| put 71 g.mask2 64

/-- A gate of a mask that the block has. -/
def inMask (s : State) (m : BitVec 71) (g : Nat) : Bool := bit m g && gatePresent s g

/-- The first malformed shadow rule of the gates in a mask: of several, the lowest rule of the lowest gate, which the spec leaves
open (DESIGN CHOICE; log entry 91). -/
def badRule (s : State) (m : BitVec 71) : Option Nat :=
  (s.gate.shadow.find? (fun kr => inMask s m (kr.1 / 64) && ruleBad kr.2)).map (·.1)

def gbarArm (s : State) : State :=
  let m := gateMask s.gate
  if s.gate.latched.isSome then modGate (fun g => { g with err := true, errgate := 0x7F }) s
  else match badRule s m with
    | some k => modGate (fun g => { g with err := true, errgate := BitVec.ofNat 7 (k / 64), errrule := BitVec.ofNat 6 (k % 64) }) s
    | none => modGate (fun g => { g with armed := true, done := false, err := false, wref := false, latched := some m }) s

/-- GBAR as a read returns it (R266). -/
def gbarWord (g : Gates) : Half :=
  putb 32 g.armed 1 ||| putb 32 g.done 2 ||| putb 32 g.err 3 ||| putb 32 g.wref 4 ||| put 32 g.errrule 5 ||| put 32 g.errgate 11

/-- A write of a shadow rule; a gate of an armed barrier that has not swapped refuses it (R265). -/
def ruleLocked (s : State) (g : Nat) : Bool :=
  s.gate.armed && (match s.gate.latched with
    | some m => bit m g
    | none => false)
def setShadow (g i : Nat) (r : Rule) (s : State) : State :=
  modGate (fun x => { x with shadow := tset {} x.shadow (64 * g + i) r }) s

/-! ### The rules Bedrock installs -/

/-- A range of granules with class bits, FMASK 0 and rights (R242). -/
def ruleFor (a len : Nat) (chan scree bed tsv rd wr cach : Bool) : Rule :=
  { w0 := w64 a, w1 := w64 (a + len - 4)
    w2 := putb 64 chan 24 ||| putb 64 scree 25 ||| putb 64 bed 26 ||| putb 64 tsv 27 ||| putb 64 true 63
    w3 := putb 64 rd 0 ||| putb 64 wr 1 ||| putb 64 cach 3 }

/-- Rules 0 and 63 of R251. -/
def ruleBedrock : Rule := ruleFor 0 (2 ^ 64) false false true false true true false
def ruleDenyAll : Rule := ruleFor 0 (2 ^ 64) true true true true false false false

def bankBase (b : Bool) : Nat := if b then 0x400000 else 0
/-- Rules 1 and 2 of gate 70 (R341). -/
def ruleBank (b : Bool) : Rule := ruleFor (bankBase b) 0x400000 false true false false true false true
def ruleScreeData : Rule := ruleFor 0x800000 0x800000 false true false false true true false

/-- Every present gate with the rules of R251, gate 70 with those of R341 and bank A active. -/
def installStart (s : State) : State :=
  let gs := (List.range 71).filter (gatePresent s)
  let one (g : Nat) (s : State) : State :=
    setShadow g 63 ruleDenyAll (setShadow g 0 ruleBedrock
      (modGate (fun x => { x with shadow := x.shadow.filter (fun kr => kr.1 / 64 != g) }) s))
  setShadow 70 2 ruleScreeData (setShadow 70 1 (ruleBank false) (forAll gs one s))

/-- The rules of R348 in a local memory gate. -/
def installLm (g : Nat) (s : State) : State :=
  if !gatePresent s g then s else
  let store := ctxStore s
  let sp := setShadow g 1 (ruleFor store (128 * 2 ^ log2Eff s) true true false true false false false)
    (setShadow g 2 (ruleFor (s.dsp.psbase.toNat / 4096 * 4096) (2 ^ log2Eff s / 8) true true false true false false false) s)
  if s.ctl.tsvsize == 0 then sp
  else
    let a := s.ctl.tsvbase.toNat
    let n := s.ctl.tsvsize.toNat
    setShadow g 3 (ruleFor a n false false false true true true false)
      (setShadow g 4 (ruleFor a n true false false false false false false)
        (setShadow g 5 (ruleFor a n false true false false true false false) sp))

/-- Write the mask registers and arm (R261 step 2). -/
def armMask (m : BitVec 71) (s : State) : State :=
  gbarArm (modGate (fun g => { g with mask0 := bits m 0 32, mask1 := bits m 32 32, mask2 := bits m 64 7 }) s)

/-! ### Control cores: halt and start (R357, R359, R378) -/

def haltCore (n : Nat) (s : State) : State :=
  modCtl (fun c => { c with halted := c.halted ||| (1 : Byte) <<< n }) (modCore n (fun c => { c with wait := none }) s)

/-- A slot that is DONE becomes FREE (R378). -/
def freeDone (v : Svc) : Svc := if v.st == .done then {} else v

def startRegs (pc now : Word) (c : Core) : Core :=
  { c with g := [], pc := pc, z := false, s := false, c := false, v := false, wait := none, startAt := now,
           icache := [], svc0 := freeDone c.svc0, svc1 := freeDone c.svc1, svc2 := freeDone c.svc2, svc3 := freeDone c.svc3 }

def startCore (n : Nat) (s : State) : State :=
  modCtl (fun c => { c with halted := c.halted &&& ~~~((1 : Byte) <<< n), fault := c.fault &&& ~~~((1 : Byte) <<< n) })
    (modCore n (startRegs (s.ctl.entry.zeroExtend 64) s.time) s)

/-- A write of CCCTL: RUN, BANK and CAUSE. -/
def writeCcctl (v : Half) (s : State) : State :=
  let old := s.ctl.run
  let s := modCtl (fun c => { c with run := bits v 0 8, bank := bit v 8, cause := bits v 9 2 }) s
  forAll (List.range 8) (fun n s =>
    if bit v n && !bit old n then startCore n s
    else if !bit v n && bit old n then haltCore n s
    else s) s

/-- Bedrock starts Scree: CCENTRY, BANK, CAUSE, RUN (R347 step 10, R353 step 6). -/
def startScree (bank : Bool) (entry : Half) (cause : BitVec 2) (s : State) : State :=
  writeCcctl (0xFF ||| putb 32 bank 8 ||| put 32 cause 9)
    (modCtl (fun c => { c with entry := BitVec.ofNat 24 ((bankBase bank + entry.toNat) / 8 * 8) }) s)

/-! ### Mailboxes (R350, R351) -/

def reqWord (s : State) (m w : Nat) : Word := tget 0 (getMbx s m).req w
def rspWord (s : State) (m w : Nat) : Word := tget 0 (getMbx s m).rsp w

/-- POST: BUSY, and the receiver's event. -/
def mbxPost (m : Nat) (s : State) : State :=
  if (getMbx s m).busy then s
  else
    let s := modMbx m (fun x => { x with busy := true }) s
    if m == 9 then evS 1 s else if m == 10 then evS 2 s else evK 0 s

/-- ANSWER: BUSY ends, DONE, and the sender's event; the management processor has no event bit (R356). -/
def mbxDone (m : Nat) (s : State) : State :=
  if !(getMbx s m).busy then s
  else
    let s := modMbx m (fun x => { x with busy := false, done := true }) s
    if m == 9 then evK 1 s else if m < 8 then evS 0 s else s

/-- Consecutive words from a word number on. -/
def putWords (w : Nat) : List Word → Tbl Word → Tbl Word
  | [], t => t
  | v :: vs, t => putWords (w + 1) vs (tset 0 t w v)

/-- Bedrock answers a request: RESULT, the TAG echoed, DETAIL, and further response words (R351). -/
def bedAnswer (m result : Nat) (detail : Half) (ws : List Word) (s : State) : State :=
  let w0 := w64 result ||| w64 (fld (reqWord s m 0) 16 16 * 2 ^ 16) ||| put 64 detail 32
  mbxDone m (modMbx m (fun x => { x with rsp := putWords 1 ws (tset 0 x.rsp 0 w0) }) s)

/-- Bedrock runs and serves mailboxes: from the end of the first start-up barrier until WARN (R347, R355). -/
def bedServes (s : State) : Bool :=
  live s && s.pf.stage == .normal && decide (5 ≤ s.ctl.phase.toNat) && decide (s.ctl.phase.toNat ≤ 8)

/-! ### Notices on mailbox 9 (R354) -/

/-- Post one notice; the tag is Bedrock's own (log entry 4). -/
def postNotice (cmd : Nat) (r1 r2 : Word) (s : State) : State :=
  let (f, s) := drawFree s
  mbxPost 9 (modMbx 9 (fun x => { x with
    req := putWords 0 [w64 cmd ||| w64 (fld f 0 16 * 2 ^ 16), r1, r2] x.req }) s)

/-- The oldest waiting notice is posted once mailbox 9 is free (R354). -/
def nextNotice (s : State) : State :=
  match s.ctl.notices with
  | [] => s
  | n :: t =>
    if bedServes s && !(getMbx s 9).busy && s.ctl.noticed.isNone then
      let s := modCtl (fun c => { c with noticed := some n, notices := t }) s
      match n with
      | .flr fn => postNotice 0x81 (w64 fn) 0 s
      | .update => match s.ctl.update with
        | some (.queued m svn entry build) =>
          postNotice 0x82 (svn.zeroExtend 64) build (modCtl (fun c => { c with update := some (.notice m svn entry s.time) }) s)
        | _ => modCtl (fun c => { c with noticed := none }) s
    else s

/-! ### What follows a barrier of Bedrock's (R347 step 7, R352, R353, R355) -/

/-- Arm the next barrier Bedrock waits to make: the update's, then the oldest GATE_COMMIT. A refused ARM is answered HW_ERROR
with GBAR. -/
def armNext : Nat → State → State
  | 0, s => s
  | n + 1, s =>
    if s.gate.latched.isSome || !bedServes s || s.ctl.committing.isSome then s
    else match s.ctl.update with
      | some (.barrier _ _ _) =>
        modCtl (fun c => { c with updArmed := true }) (armMask ((1 : BitVec 71) <<< 70) (setShadow 70 1 (ruleBank (!s.ctl.bank)) s))
      | _ => match s.ctl.commits with
        | [] => s
        | m :: t =>
          let s := modCtl (fun c => { c with commits := t }) s
          let s := armMask (put 71 (reqWord s m 1) 0 ||| put 71 (bits (reqWord s m 2) 0 7) 64) s
          if s.gate.armed then modCtl (fun c => { c with committing := some m }) s
          else armNext n (bedAnswer m 0x20 (gbarWord s.gate) [] s)

/-- Start-up step 10, once step 8 has ended and a Scree image has verified; a FAIL in PHASE 6 holds Scree back (R413). -/
def screeGo (s : State) : State :=
  match s.ctl.scree with
  | some (svn, entry) =>
    if s.ctl.zeroed && !s.st.failed && (s.ctl.phase == 5 || s.ctl.phase == 6) then
      let s := startScree false entry 0 (modCtl (fun c => { c with scree := none, scrsvn := svn, phase := 7 }) s)
      match s.ctl.screeFor with
      | some m => bedAnswer m 0 0 [] (modCtl (fun c => { c with screeFor := none }) s)
      | none => s
    else s
  | none => s

/-- A barrier is DONE: what Bedrock does next. -/
def barrierDone (s : State) : State :=
  if s.pf.stage != .normal then s
  else match s.ctl.startBarrier with
  | 2 =>
    let s := modCtl (fun c => { c with startBarrier := 1, phase := if c.loading then 5 else 6 }) s
    nextNotice (armMask ((3 : BitVec 71) <<< 68) (installLm 69 (installLm 68 s)))
  | 1 => armNext 16 (modCtl (fun c => { c with startBarrier := 0 }) s)
  | _ =>
    match s.ctl.committing with
    | some m =>
      armNext 16 (bedAnswer m 0 0 [s.gate.barseam.zeroExtend 64, s.gate.bardrain.zeroExtend 64]
        (modCtl (fun c => { c with committing := none }) s))
    | none => match s.ctl.update, s.ctl.updArmed with
      | some (.barrier m svn entry), true =>
        let s := startScree (!s.ctl.bank) entry 1
          (modCtl (fun c => { c with update := none, updArmed := false, scrsvn := svn }) s)
        armNext 16 (bedAnswer m 0 0 [] s)
      | _, _ => armNext 16 s

end Sys2Proof.Machine
end

