-- ==== Sys2Proof/Machine/Lanes.lean ====
section
/-! DEFINITION. The lanes and sidebands of an engine port (12 R292 to R296): parity, the tokens of a transfer, its header, and
the sending of a transfer or a sideband byte. -/

namespace Sys2Proof.Machine

/-! ### Parity (R293) -/

/-- The parity bit of a byte: odd over the byte and itself. -/
def oddParity (b : Byte) : Bool := (List.range 8).foldl (fun x i => x != bit b i) true

/-- The parity of a token: bit i covers byte i of D, bit 4 covers C. -/
def parityOf (c : Byte) (d : Half) : BitVec 5 :=
  BitVec.ofNat 5 (b2n (oddParity (bits d 0 8)) + 2 * b2n (oddParity (bits d 8 8)) + 4 * b2n (oddParity (bits d 16 8)) +
    8 * b2n (oddParity (bits d 24 8)) + 16 * b2n (oddParity c))

/-- The parity of C, and of every byte of D, is right. -/
def headOk (t : Token) : Bool := bit t.p 4 == oddParity t.c
def dataParityOk (t : Token) : Bool := fld t.p 0 4 == fld (parityOf 0 t.d) 0 4

/-! ### Transfers (R295) -/

/-- Token i of a transfer. -/
def tokenAt (hdr data : List Byte) (i : Nat) : Token :=
  let c := hdr.getD i 0
  let d : Half := bits (wordAt (data.drop (4 * i)) 0) 0 32
  { f := i == 0, c := c, d := d, p := parityOf c d }

/-- The tokens of a transfer: as many as its data needs, and at least as many as its header has bytes. -/
def tokensOf (hdr data : List Byte) : List Token :=
  (List.range (max hdr.length ((data.length + 3) / 4))).map (tokenAt hdr data)

/-- The header of a WRITE or a READ (R296). -/
def outHeader (read : Bool) (tid len : Nat) (fix spec : Bool) (off : Half) : List Byte :=
  [BitVec.ofNat 8 (b2n read + 16 * tid), BitVec.ofNat 8 (len / 4 - 1 + 64 * b2n fix + 128 * b2n spec)] ++
    (List.range 4).map (fun i => bits off (8 * i) 8)

/-- The tokens of a write, of a read, and of VERSION. A write carries TID 0 (log entry 27). -/
def writeTokens (w : BufWrite) : List Token := tokensOf (outHeader false 0 w.data.length w.fix false (w.addr.truncate 32)) w.data
def readTokens (r : PortRead) : List Token := tokensOf (outHeader true r.tid r.len r.fix r.spec r.off) []
def versionTokens (v : BitVec 2) : List Token := tokensOf [0x0F, v.zeroExtend 8] []

/-! ### What a port sends (R296) -/

/-- A transfer from the port: an error of its header's parity or of the protocol, or what it says. -/
inductive InLane
  | parity
  | protocol
  | rdata (x : Rdata)
  | msg (d : List Byte)
  | version (offer : BitVec 4)
  deriving DecidableEq, Repr, Inhabited

/-- The first-token marks of a transfer are right. -/
def marksOk : List Token → Bool
  | [] => false
  | t :: r => t.f && r.all (fun t => !t.f)

/-- The first n words of data, as bytes. -/
def laneData (n : Nat) (ts : List Token) : List Byte := (ts.take n).flatMap (fun t => bytesOf (t.d.zeroExtend 64) 4)

/-- Read a transfer by its header: TYPE, the reserved bits, and the token count that LEN asks for. -/
def readLane (ts : List Token) : InLane :=
  let c0 := (ts.headD default).c
  let c1 := (ts.getD 1 default).c
  let n := fld c1 0 6 + 1
  if (ts.take 2).any (fun t => !headOk t) then .parity
  else if !marksOk ts || ts.length < 2 then .protocol
  else match fld c0 0 4 with
    | 0 =>
      if ts.length != (if bit c1 6 then 2 else max 2 n) then .protocol
      else .rdata { tid := bits c0 4 4, err := bit c1 6, poison := bit c1 7, data := if bit c1 6 then [] else laneData n ts
                    badData := !bit c1 6 && (ts.take n).any (fun t => !dataParityOk t) }
    | 1 => if fld c0 4 4 != 0 || fld c1 6 2 != 0 || ts.length != max 2 n then .protocol else .msg (laneData n ts)
    | 15 => if fld c0 4 4 != 0 || fld c1 4 4 != 0 || ts.length != 2 then .protocol else .version (bits c1 0 4)
    | _ => .protocol

/-! ### Sending (R293, R306, R307) -/

/-- The later of two times. -/
def later (a b : Word) : Word := if a.toNat < b.toNat then b else a
/-- A token or a byte passes on the link, which wakes, once its cluster is awake at a time, and is ACTIVE. -/
def stirred (now up : Word) (k : Port) : Port :=
  { k with pwr := 0, lastAct := now, awakeAt := if k.pwr == 0 then later k.awakeAt up else up + w64 (wakeNs k.pwr) }
/-- The time from which the handshake timeout of a request event runs: now, or the end of the wake time. -/
def reqFrom (now : Word) (k : Port) : Word := if now.toNat < k.awakeAt.toNat then k.awakeAt else now

/-- A token or a byte passes on the link of a port, in either direction: link and cluster wake (R15, R307, R389). -/
def stir (p : Nat) (s : State) : State :=
  let s := wakeIsl (islPort p) s
  modPort p (stirred s.time (getIsl s (islPort p)).awakeAt) s

/-- Tokens leave on the out-lane of a port. -/
def sendLane (p : Nat) (ts : List Token) (s : State) : State :=
  modOut (fun o => { o with lane := o.lane ++ [(p, ts)] })
    (modPort p (fun k => { k with reqAt := some (reqFrom s.time k) }) (stir p s))

/-- A byte on the out-sideband of a port. -/
def sendOs (p : Nat) (b : Byte) (s : State) : State :=
  modOut (fun o => { o with os := o.os ++ [(p, b, oddParity b)] })
    (modPort p (fun k => { k with sideAt := some (reqFrom s.time k) }) (stir p s))

end Sys2Proof.Machine
end

