-- ==== Sys2Proof/Machine/XbarOps.lean ====
section
/-! DEFINITION. The arbiters (09): ranking, the presenting of requests, break points, and the meanings of XBAR_DECISION,
CLUSTER_DECISION, LANE_DROP and XBAR_REPRESENT. A transfer reaches its target when it is issued, unless the
crossbar is frozen (R235); lanes, queues and counters follow the requests that issues present (log entry 20). -/

namespace Sys2Proof.Machine

/-! ### Ranking (R221, R222) -/

/-- A requester the configuration has (R217). -/
def reqPresent (s : State) (i : Nat) : Bool :=
  if s.cfg.compact then decide (i < 16) || i == 64 || i == 65 || i == 72 || i == 76 || i == 78 || i == 79
  else decide (i < 80)

/-- Lane limits (R217). -/
def laneLimit (i : Nat) : Nat :=
  if i < 64 then 1 else if i < 72 then 4 else if i < 76 then 5 else if i < 78 then 8 else 2

/-- The entry of the current slot (R231). -/
def slotEntry (s : State) : Byte := tget 0 s.active.xarb.slot s.xbar.slot.toNat
/-- The requester reserved now. -/
def reservedNow (s : State) : Option Nat :=
  let x := slotEntry s
  if bit x 7 && reqPresent s (fld x 0 7) then some (fld x 0 7) else none

def isReserved (s : State) (r : XReq) : Bool := reservedNow s == some r.idx

/-- Request a ranks ahead of request b (R222). -/
def xahead (s : State) (a b : XReq) : Bool :=
  if isReserved s a != isReserved s b then isReserved s a
  else if a.overdue != b.overdue then a.overdue
  else if !a.overdue && dlAhead a.deadline b.deadline then true
  else if !a.overdue && dlAhead b.deadline a.deadline then false
  else if a.stamp != b.stamp then decide (a.stamp.toNat < b.stamp.toNat)
  else if a.idx != b.idx then decide (a.idx < b.idx)
  else decide (a.ord < b.ord)

/-- The member of a list that ranks ahead of every other. -/
def xbest (s : State) : List XReq → Option XReq
  | [] => none
  | a :: t => match xbest s t with
    | none => some a
    | some b => some (if xahead s b a then b else a)

/-! ### Lanes -/

def laneAt (s : State) (i : Nat) : Lane := tget .free s.xbar.lanes i
def setLane (i : Nat) (l : Lane) (s : State) : State := modXbar (fun x => { x with lanes := tset .free x.lanes i l }) s

def lanesHeldBy (s : State) (idx : Nat) : Nat :=
  (s.xbar.lanes.filter (fun l => (laneReq l.2).map (·.idx) == some idx)).length
def lanesHeld (s : State) : Nat := (s.xbar.lanes.filter (fun l => (laneReq l.2).isSome)).length

/-- A holder reaches a break point. -/
def atBreak : Lane → Bool
  | .held _ b => b
  | _ => false

/-- One beat passes on a held lane (R216). The end of a transfer is a break point of a host, memory, TSV or CTL requester, which
stands at one while it has nothing to send; of the others where they have declared one (R217). -/
def passBeat : Lane → Lane
  | .held r b => match r.q with
    | [] => .held r (b || decide (72 ≤ r.idx))
    | x :: t =>
      if 1 < x.beats then .held { r with q := { x with beats := x.beats - 1 } :: t } b
      else if 0 < x.more then
        .held { r with q := { x with beats := x.each, more := x.more - 1 } :: t } (b || decide (72 ≤ r.idx))
      else .held { r with q := t, deadline := (t.head?.map (·.deadline)).getD r.deadline } (b || x.brk || decide (72 ≤ r.idx))
  | l => l

/-- The first lane a test admits, from 0. -/
def firstLane (s : State) (p : Lane → Bool) : Option Nat :=
  (List.range (nLanes s)).find? (fun i => p (laneAt s i))

/-- The lane at a break point whose holder ranks last and does not rank ahead of q (R223). -/
def weakestLane (s : State) (q : XReq) : Option (Nat × XReq) :=
  ((List.range (nLanes s)).filterMap (fun i => match laneAt s i with
    | .held r b => if atBreak (.held r b) && !xahead s r q then some (i, r) else none
    | _ => none)).foldl (fun best x => match best with
      | none => some x
      | some y => if xahead s x.2 y.2 then some y else some x) none

/-! ### XSLOTWAIT (R232) -/

/-- The reserved requester has a request presented that holds no lane, so that it holds fewer lanes than it has requests. -/
def slotWaiting (s : State) : Bool :=
  match reservedNow s with
  | none => false
  | some i => (s.xbar.fresh ++ s.xbar.pend).any (fun r => r.idx == i) && !s.xbar.freeze

/-- XBR cycles in a microsecond: 1,600, and 4 % or 8 % fewer once the island is trimmed (R417). -/
def xbrRate (s : State) : Nat :=
  match (getIsl s islXbr).trim.toNat with
  | 0 => 1600
  | 1 => 1536
  | _ => 1472

/-- XBR cycles up to a block time. -/
def xbrCycles (s : State) (t : Word) : Nat := t.toNat * xbrRate s / 1000

/-- Count the XBR cycles up to a block time. -/
def slotCountTo (now : Word) (s : State) : State :=
  let n := xbrCycles s now - xbrCycles s s.xbar.slotAt
  modXbar (fun x => { x with
    slotwait := if slotWaiting s then x.slotwait + BitVec.ofNat 32 n else x.slotwait, slotAt := now }) s
def slotCount (s : State) : State := slotCountTo s.time s

/-- First nanosecond of slot n of the present frame: a slot has 64 XBR cycles (R232, R417). -/
def slotStart (s : State) (n : Nat) : Word :=
  w64 (s.time.toNat / 2560 * 2560 + (64000 * n + xbrRate s - 1) / xbrRate s)
/-- The slot of the frame at so many nanoseconds behind its seam, and the last that begins in a frame (R417). -/
def slotOf (s : State) (o : Nat) : Nat := min 63 (o * xbrRate s / 64000)
def lastSlot (s : State) : Nat := slotOf s 2559

/-- The slots of the frame pass, each charged to its own entry, as far as slot n. -/
def slotsTo : Nat → Nat → State → State
  | 0, _, s => s
  | k + 1, n, s =>
    if n ≤ s.xbar.slot.toNat then s
    else slotsTo k n (modXbar (fun x => { x with slot := x.slot + 1 }) (slotCountTo (slotStart s (s.xbar.slot.toNat + 1)) s))

/-- The frame ends at a block time: the last slot is counted under the table that governed it (R232, R233). -/
def frameEnd (t : Word) (s : State) : State := slotCountTo t (slotsTo 64 (lastSlot s) s)

/-! ### Presenting (R218, R222, R224, R225) -/

def sameReq (a b : XReq) : Bool := a.idx == b.idx && a.ord == b.ord

/-- The requests that have no lane. -/
def waitingReqs (s : State) : List XReq := s.xbar.fresh ++ s.xbar.pend ++ s.xbar.unparked.map (·.1)
/-- Every request, with a lane or without one. -/
def allReqs (s : State) : List XReq := waitingReqs s ++ s.xbar.lanes.filterMap (fun l => laneReq l.2)

/-- The requests that compete for a lane (R223). -/
def candidates (s : State) : List XReq :=
  (s.xbar.pend ++ s.xbar.fresh).filter (fun r => decide (lanesHeldBy s r.idx < laneLimit r.idx))

/-- Which request of its requester a transfer joins or presents: an island has one for each engine (R218), a cluster one, and
every other requester as many as it may hold lanes (log entry 20). -/
def reqOrd (s : State) (idx ord : Nat) : Nat :=
  if idx < 72 then ord
  else ((List.range (laneLimit idx)).find? (fun j => !(allReqs s).any (fun r => r.idx == idx && r.ord == j))).getD 0

/-- Change a request wherever it stands. -/
def modReq (p : XReq → Bool) (f : XReq → XReq) (s : State) : State :=
  let g (r : XReq) : XReq := if p r then f r else r
  modXbar (fun x => { x with
    lanes := x.lanes.map (fun l => match l.2 with
      | .held r b => (l.1, .held (g r) b)
      | _ => l)
    fresh := x.fresh.map g, pend := x.pend.map g, unparked := x.unparked.map (fun u => (g u.1, u.2)) }) s

/-- More transfers join a request, which ranks by the next transfer it would send (R222). -/
def addBursts (bs : List XBurst) (r : XReq) : XReq :=
  { r with q := r.q ++ bs, deadline := ((r.q ++ bs).head?.map (·.deadline)).getD r.deadline }
/-- Some transfers of a request are taken away. -/
def stripReq (gone : XBurst → Bool) (r : XReq) : XReq :=
  let q := r.q.filter (fun b => !gone b)
  { r with q := q, deadline := (q.head?.map (·.deadline)).getD r.deadline }
/-- A grant clears the marks of waiting. -/
def granted (r : XReq) : Lane := .held { r with overdue := false, waited := 0, starved := false } false

/-- A request is presented. On a parked lane of its requester it goes at once, where nothing competes (R224). -/
def xask (r : XReq) (s : State) : State :=
  let parked := firstLane s (fun l => match l with
    | .parked i _ => i == r.idx
    | _ => false)
  if !s.xbar.freeze && !tested s islXbr && (candidates s).isEmpty && parked.isSome then setLane (parked.getD 0) (granted r) s
  else modXbar (fun x => { x with fresh := x.fresh ++ [r] }) s

/-- More transfers of a requester, with one deadline, are ready; XBR wakes (R15). -/
def xpresentAll (idx ord : Nat) (dl : BitVec 20) (bs : List XBurst) (s : State) : State :=
  let s := wakeIsl islXbr (slotCount s)
  let r : XReq := { idx := idx, ord := reqOrd s idx ord, deadline := dl, q := bs, stamp := s.time >>> 3 }
  if (allReqs s).any (fun x => sameReq x r) then modReq (sameReq r) (addBursts bs) s else xask r s
/-- One more transfer of a requester is ready. -/
def xpresent (idx ord : Nat) (b : XBurst) (s : State) : State := xpresentAll idx ord b.deadline [b] s

/-- Beats of a transfer of n bytes; a message has one (R216). -/
def beatsOf (n : Nat) : Nat := max 1 ((n + 15) / 16)
/-- The transfers of n bytes: bursts of 256 bytes and what is left (R216). -/
def burstsOf (dl : BitVec 20) (fn n : Nat) : List XBurst :=
  let full := (n - 1) / 256
  (if full = 0 then [] else [{ deadline := dl, beats := 16, fn := fn, each := 16, more := full - 1 }]) ++
    [{ deadline := dl, beats := beatsOf (n - 256 * full), fn := fn }]

/-- A transfer of an engine, of TSV and of CTL, and an answer of a host, of local memory and of CTL with the deadline of the
request (R220). No requester is named for data read from control memory: CTL carries it (log entry 20). -/
def xEng (e n : Nat) (s : State) : State :=
  xpresent (64 + e / 4) e { deadline := deadlineNow s (engClass s e), beats := beatsOf n } (wakeIsl (islEng e) s)
def xEngRead (e : Nat) (s : State) : State :=
  xpresent (64 + e / 4) e { deadline := deadlineNow s (engClass s e), beats := 1, read := true } (wakeIsl (islEng e) s)
def xHost (h fn : Nat) (dl : BitVec 20) (n : Nat) (s : State) : State := xpresentAll (72 + h) 0 dl (burstsOf dl fn n) s
def xLm (k : Nat) (dl : BitVec 20) (n : Nat) (s : State) : State := xpresentAll (76 + k) 0 dl (burstsOf dl 0 n) s
def xTsv (n : Nat) (s : State) : State :=
  xpresent 78 0 { deadline := deadlineNow s s.active.xarb.tsvdc, beats := beatsOf n } (wakeIsl islTsv s)
def xCtl (n : Nat) (s : State) : State := xpresent 79 0 { deadline := deadlineNow s s.active.xarb.ctldc, beats := beatsOf n } s
def xCtlData (dl : BitVec 20) (n : Nat) (s : State) : State := xpresent 79 0 { deadline := dl, beats := beatsOf n } s
/-- TSV reads n bytes of local memory: its request, and the data with the request's deadline. -/
def xTsvRead (a : Word) (n : Nat) (s : State) : State :=
  let dl := deadlineNow s s.active.xarb.tsvdc
  xLm (lmPortOf s a) dl n (xTsv 0 s)
/-- TSV writes and reads a run of places of local memory from an address on, of n bytes each: its write bursts and their
responses, or its requests and their data. -/
def xTsvMany (write : Bool) (a : Word) (n count : Nat) (s : State) : State :=
  let dl := deadlineNow s s.active.xarb.tsvdc
  let run (m : Nat) : List XBurst := [{ deadline := dl, beats := beatsOf m, each := beatsOf m, more := count - 1 }]
  if count = 0 then s
  else
    xpresentAll (76 + lmPortOf s a) 0 dl (run (if write then 0 else n))
      (xpresentAll 78 0 dl (run (if write then n else 0)) (wakeIsl islTsv s))

/-- Mark a break point behind the last of some transfers. -/
def markBrk : List XBurst → List XBurst
  | [] => []
  | [x] => [{ x with brk := true }]
  | x :: t => x :: markBrk t

/-- A break point of the engine a lane serves stands behind what it has ready (R91, R217). -/
def xbreak (e : Nat) (s : State) : State :=
  let mine (r : XReq) : Bool := r.idx == 64 + e / 4 && r.ord == e
  modReq mine (fun r => { r with q := markBrk r.q })
    (modXbar (fun x => { x with lanes := x.lanes.map (fun l => match l.2 with
      | .held r b => (l.1, .held r (b || (mine r && r.q.isEmpty)))
      | _ => l) }) s)

/-! ### Clusters: what their ports ask for (R227, R228) -/

/-- The request of a port: its oldest complete transfer. -/
def portReq (s : State) (p : Nat) : Option XReq :=
  ((getPort s p).inq.head?).map (fun x =>
    let a := (getPort s p).ask
    { idx := p % 16, ord := 0, deadline := x.deadline, stamp := a.stamp, overdue := a.overdue })

/-- The requests of a cluster's ports, but for one. -/
def clusterReqs (s : State) (k : Nat) (but : Option Nat) : List XReq :=
  (List.range 16).filterMap (fun i => if but == some i then none else portReq s (16 * k + i))

/-- A request has no further transfer ready. -/
def reqEmpty (s : State) (r : XReq) : Bool := if r.idx < 64 then (clusterReqs s r.idx none).isEmpty else r.q.isEmpty

/-! ### Lanes that are let go (R219, R224, R226) -/

/-- A lane is dropped: it is free, or parked on its holder when no request waits that it could serve. -/
def dropLane (lane : Nat) (r : XReq) (s : State) : State :=
  let waits := (s.xbar.fresh ++ s.xbar.pend).any (fun q => decide (lanesHeldBy s q.idx < laneLimit q.idx) || q.idx == r.idx)
  setLane lane (if waits || s.xbar.freeze then .free else .parked r.idx r.ord) s

/-- The lanes that some requests hold are dropped at once. -/
def dropLanes (p : XReq → Bool) (s : State) : State :=
  forAll (List.range (nLanes s)) (fun i s => match laneAt s i with
    | .held r _ => if p r then dropLane i r s else s
    | _ => s) s

/-- Requests that have no transfer any more are withdrawn: their entries are freed, and a lane already granted is dropped at
once (R226). -/
def xwithdrawIf (p : XReq → Bool) (s : State) : State :=
  dropLanes p (modXbar (fun x => { x with
    fresh := x.fresh.filter (fun r => !p r), pend := x.pend.filter (fun r => !p r)
    unparked := x.unparked.filter (fun u => !p u.1) }) (slotCount s))
def xwithdraw (idx ord : Nat) (s : State) : State := xwithdrawIf (fun r => r.idx == idx && r.ord == ord) s

/-- Some transfers of some requests are taken away: what is left of a request stands, and one without a transfer is withdrawn. -/
def xstrip (p : XReq → Bool) (gone : XBurst → Bool) (s : State) : State :=
  let hit (r : XReq) : Bool := p r && r.q.any gone
  xwithdrawIf (fun r => hit r && (stripReq gone r).q.isEmpty)
    (modReq (fun r => hit r && !(stripReq gone r).q.isEmpty) (stripReq gone) s)
/-- The completions of a function that a host port still had to send are discarded (R226). -/
def xdiscard (h fn : Nat) (s : State) : State := xstrip (fun r => r.idx == 72 + h) (fun b => b.fn == fn) s
/-- An engine has abandoned the reads it had asked for; its writes and flush reads still cross (R198, R226). -/
def xabandon (e : Nat) (s : State) : State :=
  xstrip (fun r => r.idx == 64 + e / 4 && r.ord == e) (·.read) s

/-! ### Decisions (R223 to R225, R235) -/

/-- A request joins the pending queue of 256 entries, or is told "not parked" (R225). -/
def xpark (r : XReq) (s : State) : State :=
  modXbar (fun x =>
    if x.pend.length < 256 then { x with pend := x.pend ++ [r] }
    else { x with notparked := inc32 x.notparked, unparked := x.unparked ++ [(r, s.time + 5)] }) s

/-- A holder that has lost its lane waits, if it still has something to send (R225). -/
def xwaits (r : XReq) (s : State) : State := if reqEmpty s r then s else xpark r s

def xremove (r : XReq) (s : State) : State :=
  let keep (x : XReq) : Bool := !sameReq x r
  modXbar (fun x => { x with fresh := x.fresh.filter keep, pend := x.pend.filter keep }) s

/-- A requester never has more held and parked lanes than its limit (R224): a lane too many is parked no more. -/
def unparkOver (idx : Nat) (s : State) : State :=
  let here (l : Lane) : Bool := match l with
    | .parked i _ => i == idx
    | _ => false
  if laneLimit idx < lanesHeldBy s idx + (s.xbar.lanes.filter (fun l => here l.2)).length then
    match firstLane s here with
    | some i => setLane i .free s
    | none => s
  else s

/-- A lane is given to a request. -/
def giveLane (i : Nat) (q : XReq) (s : State) : State := unparkOver q.idx (setLane i (granted q) (xremove q s))

/-- One of the up to four grants of a decision; none is left when L is empty (R223). Of several lanes that would serve, the one
with the lowest number is taken (log entry 20). -/
def grantOne (cand : List XReq) (s : State) : Option (List XReq × State) :=
  let cand := cand.filter (fun r => decide (lanesHeldBy s r.idx < laneLimit r.idx))
  match xbest s cand with
  | none => none
  | some q =>
    let rest := cand.filter (fun r => !sameReq r q)
    match firstLane s (fun l => l == .free) with
    | some i => some (rest, giveLane i q s)
    | none =>
      match firstLane s (fun l => match l with
        | .parked i _ => i != q.idx
        | _ => false) with
      | some i => some (rest, giveLane i q s)
      | none =>
        match weakestLane s q with
        | none => none
        | some (i, r) =>
          some (rest, xwaits { r with waited := 0, starved := false }
            (modXbar (fun x => { x with preempts := inc32 x.preempts }) (giveLane i q s)))

/-- The grants of a decision go to the candidates it began with. -/
def grantN : Nat → List XReq → State → State
  | 0, _, s => s
  | n + 1, c, s => match grantOne c s with
    | none => s
    | some (c, s) => grantN n c s

/-- The cycle's beats pass on every held lane. -/
def passBeats (s : State) : State := modXbar (fun x => { x with lanes := x.lanes.map (fun l => (l.1, passBeat l.2)) }) s

/-- A holder whose last transfer has ended drops its lane, at a break point too (R219, R236). -/
def dropEmpty (s : State) : State := dropLanes (reqEmpty s) s

/-- Break points pass: a lane that keeps its holder is between break points again. -/
def clearBreaks (s : State) : State :=
  modXbar (fun x => { x with lanes := x.lanes.map (fun l => match l.2 with
    | .held r _ => (l.1, .held r false)
    | _ => l) }) s

/-- While frozen, a holder at a break point loses its lane, and its request waits (R235). -/
def frozenBreaks (s : State) : State :=
  forAll (List.range (nLanes s)) (fun i s => match laneAt s i with
    | .held r b => if b then xwaits r (setLane i .free s) else s
    | _ => s) s

/-- What was presented and not granted joins the pending queue (R225). -/
def queueFresh (s : State) : State :=
  let l := s.xbar.fresh
  forAll l xpark (modXbar (fun x => { x with fresh := [] }) s)

/-- One XBR cycle: a beat passes on every held lane, holders with nothing left drop theirs, and up to four grants are made (R216,
R219, R223). -/
def execXbarDecision (s : State) : Res :=
  if !live s || tested s islXbr then .next s
  else
    let s := dropEmpty (passBeats (slotCount s))
    if s.xbar.freeze then .next (queueFresh (frozenBreaks s))
    else .next (queueFresh (clearBreaks (grantN 4 (candidates s) s)))

/-- A holder that has no further transfer ready drops its lane (R219, R224). -/
def execLaneDrop (lane : Nat) (s : State) : Res :=
  if !live s || tested s islXbr then .next s
  else match laneAt s lane with
    | .held r _ => if reqEmpty s r then .next (dropLane lane r (slotCount s)) else .next s
    | _ => .next s

/-- A request that was told "not parked" is presented again, no sooner than 8 XBR cycles later; on a parked lane of its
requester it goes at once (R224, R225). -/
def execXbarRepresent (i : Nat) (s : State) : Res :=
  if !live s || tested s islXbr then .next s
  else match s.xbar.unparked[i]? with
    | none => .next s
    | some (r, t) =>
      if s.time.toNat < t.toNat then .next s
      else .next (xask r (modXbar (fun x => { x with unparked := x.unparked.eraseIdx i }) (wakeIsl islXbr (slotCount s))))

/-! ### Clusters (R227, R228, R235) -/

/-- The port of a cluster whose request ranks ahead of every other, but for one. No slot is reserved there (R222). -/
def clusterBest (s : State) (k : Nat) (but : Option Nat) : Option XReq := xbest {} (clusterReqs s k but)

def cahead (a b : XReq) : Bool := xahead {} a b

/-- The earliest of some deadlines. -/
def earliest : List (BitVec 20) → Option (BitVec 20)
  | [] => none
  | a :: t => match earliest t with
    | none => some a
    | some b => some (if dlAhead b a then b else a)

/-- A cluster presents the earliest deadline of its ports' next transfers at the crossbar (R228). -/
def clusterPresent (k : Nat) (s : State) : State :=
  match earliest ((clusterReqs s k none).map (·.deadline)) with
  | none => s
  | some d =>
    let s := wakeIsl islXbr (slotCount s)
    let r : XReq := { idx := k, ord := 0, deadline := d, stamp := s.time >>> 3 }
    if (allReqs s).any (fun x => sameReq x r) then modReq (sameReq r) (fun x => { x with deadline := d }) s else xask r s

/-- A cluster's request at the crossbar follows its ports: it carries their earliest deadline, and while it waits it is withdrawn
when none of them has a transfer (R226, R228). -/
def clusterSettle (k : Nat) (s : State) : State :=
  let other (r : XReq) : Bool := r.idx != k
  if (clusterReqs s k none).isEmpty then
    modXbar (fun x => { x with
      fresh := x.fresh.filter other, pend := x.pend.filter other, unparked := x.unparked.filter (fun u => other u.1) }) (slotCount s)
  else clusterPresent k s

/-- The uplink's owner has nothing more to send: the uplink stays parked on it while no other port asks (R224). -/
def clusterDrop (k : Nat) (s : State) : State :=
  modClu k (fun c => { c with granted := false, parked := (clusterReqs s k none).isEmpty && !c.freeze }) s

/-- The owner's next transfer passes the uplink; behind its last one the uplink is dropped. -/
def clusterSend (k : Nat) (s : State) : Bool × State :=
  let p := 16 * k + (getClu s k).owner.toNat
  match (getPort s p).inq with
  | [] => (false, clusterDrop k s)
  | x :: t =>
    let s := modPort p (fun q => { q with inq := t }) s
    (x.brk, if t.isEmpty then clusterDrop k s else s)

/-- A break point of the cluster's lane at the crossbar (R217). -/
def laneBreak (k : Nat) (s : State) : State :=
  modXbar (fun x => { x with lanes := x.lanes.map (fun l => match l.2 with
    | .held r b => (l.1, .held r (b || r.idx == k))
    | _ => l) }) s

/-- Give the uplink to a port of the cluster; its marks of waiting end. A change of owner is a break point (R217). -/
def clusterGrant (k i : Nat) (s : State) : State :=
  let s := if (getClu s k).owner.toNat == i then s else laneBreak k s
  modPort (16 * k + i) (fun p => { p with ask := { stamp := p.ask.stamp } })
    (modClu k (fun c => { c with owner := BitVec.ofNat 4 i, granted := true, parked := false }) s)

/-- The uplink goes to the port whose request ranks ahead of every other. -/
def clusterGive (k : Nat) (s : State) : State :=
  match clusterBest s k none with
  | none => s
  | some q => clusterGrant k q.idx s

/-- At a break point of the owner, the uplink passes to a better request; the owner waits in its entry (R227). -/
def clusterBreak (k : Nat) (s : State) : State :=
  let own := (getClu s k).owner.toNat
  match clusterBest s k (some own), portReq s (16 * k + own) with
  | some q, some o =>
    if cahead q o then
      modPort (16 * k + own) (fun p => { p with ask := { p.ask with waited := 0, starved := false } })
        (clusterGrant k q.idx (modClu k (fun c => { c with preempts := inc32 c.preempts }) s))
    else s
  | _, _ => s

/-- R227. Each decision of a held uplink stands at the end of a transfer. A BRK marker of its owner is a break point of the
cluster (R217). In Quern mode the decision at a transfer's last token also gives a dropped uplink away (R230). -/
def clusterDecide (k : Nat) (s : State) : State :=
  let c := getClu s k
  if c.granted then
    let (brk, s) := clusterSend k s
    let s := if brk then laneBreak k s else s
    if c.freeze then (if brk then modClu k (fun c => { c with granted := false, parked := false }) s else s)
    else if !(getClu s k).granted then (if c.quern then clusterGive k s else s)
    else if brk then clusterBreak k s else s
  else if c.freeze then s
  else clusterGive k s
/-- Behind the decision the cluster's request at the crossbar follows what its ports have left (R226, R228). -/
def execClusterDecision (k : Nat) (s : State) : Res :=
  if !live s || decide (nClusters s ≤ k) || tested s (18 + k) then .next s
  else .next (clusterSettle k (clusterDecide k s))

/-- The class of a port's own transfers (R220, R302). -/
def portClass (s : State) (p : Nat) : BitVec 4 :=
  let q := getPort s p
  let pdc := tget (7 : BitVec 4) s.active.carb.pdc p
  let min_ := tget (0 : BitVec 4) s.active.carb.pmindc p
  if q.ver == 1 || !q.clsSeen then pdc else if q.cls.toNat < min_.toNat then min_ else q.cls

/-- A port that finds the uplink parked on it, and no other request, takes it at once (R224, R227). -/
def uplinkParked (s : State) (p : Nat) : Bool :=
  let c := getClu s (p / 16)
  c.parked && !c.freeze && c.owner.toNat == p % 16 && (clusterReqs s (p / 16) none).isEmpty

/-- A complete port-originated transfer has arrived in the cluster (R227), which presents it at the crossbar (R228). -/
def clusterArrive (p : Nat) (dl : BitVec 20) (s : State) : State :=
  let park := uplinkParked s p
  let s := modPort p (fun q => { q with
    inq := q.inq ++ [{ deadline := dl }], ask := if q.inq.isEmpty then { stamp := s.time >>> 3 } else q.ask }) (wakeIsl (islPort p) s)
  clusterPresent (p / 16) (if park then clusterGrant (p / 16) (p % 16) s else s)

/-- What a port has sent cannot cross: the crossbar or its cluster is frozen, and it has no lane or no uplink (R235). -/
def upStands (s : State) (p : Nat) : Bool :=
  let c := getClu s (p / 16)
  xstands s (p / 16) 0 || (c.freeze && !(c.granted && c.owner.toNat == p % 16))

/-! ### Answers behind a frozen crossbar (R235) -/

/-- An answer cannot cross: its requester has no lane, or its port no uplink, while the arbiter is frozen. -/
def answerStands (s : State) : Answer → Bool
  | .lmRead n _ _ _ | .lmWrite n _ _ | .lmUpd8 n _ _ _ | .stash n _ _ => xstands s (76 + n) 0
  | .piece h _ => xstands s (72 + h) 0
  | .rdata p _ _ | .msg p _ => upStands s p
  | .ctlRead _ => xstands s 79 0

/-- An answer that has arrived crosses and has its effect, or waits to cross. -/
def crossing (a : Answer) (f : State → State) (s : State) : State :=
  if answerStands s a then { s with xback := s.xback ++ [a] } else f s

end Sys2Proof.Machine
end

