-- ==== Sys2Proof/Machine/Targets.lean ====
section
/-! DEFINITION. Reaching a target: local memory, a host port, an engine port, control memory. Each access passes its gate
(10), takes what its target needs (a memory-port tag, a host tag slot, a link TID, a buffer), and stands in State until it is
answered. -/

namespace Sys2Proof.Machine


/-- A flush read: no gate has checked it (R241). -/
def unchecked : Purpose → Bool
  | .flush _ _ _ | .flushAll _ | .barrier _ | .cairn => true
  | _ => false

/-- A read that waits at a host port may go to the bus: only flush reads in the drain, only the host copy's behind it, none after
CUT (R396, R398, R399). -/
def hostMay (s : State) (pu : Purpose) : Bool :=
  match pu with
  | .cairn => !s.inReset && !s.pf.cut
  | _ => if unchecked pu then mayIssue s else mayRead s

/-! ### Host ports: tag slots (R274) -/

/-- Which of the three lists a slot belongs to. -/
def slotList (i : Nat) : Nat := if i < 256 then 0 else if i < 768 then 1 else 2

/-- The link tag of a slot for a function's tag width (R274). -/
def linkTag (tagw : BitVec 2) (i : Nat) : Nat :=
  match tagw.toNat with
  | 0 => i + 0x1000
  | 1 => i + 0x100
  | _ => i

/-- Take a slot from one list: first the slots never freed, in ascending order, then the slot freed longest ago. -/
def takeFrom (p : HostPort) (l : Nat) : Option (Nat × HostPort) :=
  match l with
  | 0 => if p.used0 < 256 then some (p.used0, { p with used0 := p.used0 + 1 })
         else match p.freed0 with
           | [] => none
           | i :: t => some (i, { p with freed0 := t })
  | 1 => if p.used1 < 512 then some (256 + p.used1, { p with used1 := p.used1 + 1 })
         else match p.freed1 with
           | [] => none
           | i :: t => some (i, { p with freed1 := t })
  | _ => if p.used2 < 3328 then some (768 + p.used2, { p with used2 := p.used2 + 1 })
         else match p.freed2 with
           | [] => none
           | i :: t => some (i, { p with freed2 := t })

/-- The lists a tag width may use, in order. -/
def listsFor (tagw : BitVec 2) : List Nat :=
  match tagw.toNat with
  | 0 => [2, 1, 0]
  | 1 => [1, 0]
  | _ => [0]

def takeSlot (p : HostPort) : List Nat → Option (Nat × HostPort)
  | [] => none
  | l :: ls => match takeFrom p l with
    | some r => some r
    | none => takeSlot p ls

/-- HPCTL.CTO as it acts, in nanoseconds (R291). -/
def ctoNs (p : HostPort) : Nat :=
  let c := p.cto.toNat
  (if c = 0 then 1 else if 4000 < c then 4000 else c) * 16000

/-- The identification of a request by ordering (R273). -/
def roOf (m : Mirror) (o : Order) : Bool := o == .relaxed && m.ero
def idoOf (m : Mirror) (o : Order) : Bool := o == .idOrdered && m.idoen

/-! ### Request headers (R430) -/

/-- The header of a request for n bytes. LENDW is 0 for 1,024 DW; byte enables are all set, or all clear in a flush read (R278). -/
def hqHeader (write : Bool) (fn tag n : Nat) (ro ido th flush : Bool) (a : Word) : BitVec 128 :=
  let be (on : Bool) : BitVec 4 := if on && !flush then 15 else 0
  put 128 (BitVec.ofNat 4 (b2n write)) 0 ||| put 128 (BitVec.ofNat 10 (localOf fn)) 4 ||| put 128 (BitVec.ofNat 14 tag) 14 |||
    put 128 (BitVec.ofNat 10 (n / 4)) 28 ||| putb 128 ro 38 ||| putb 128 ido 39 ||| putb 128 th 40 ||| put 128 (be true) 41 |||
    put 128 (be (decide (4 < n))) 45 ||| put 128 a 64
def hqRead (i : Nat) (x : Slot) : BitVec 128 :=
  hqHeader false x.fn (linkTag x.tagw i) x.len x.ro x.ido false (unchecked x.purpose) x.addr
def hqWrite (w : HostWrite) : BitVec 128 := hqHeader true w.fn 0 w.data.length w.ro w.ido w.hint false w.addr
/-- A request is presented on HQ. -/
def hqPut (h : Nat) (x : BitVec 128) (s : State) : State := modOut (fun o => { o with hq := o.hq ++ [(h, x)] }) s

/-- Give a read a slot, if one is free in the lists its function may use, and present it. -/
def hostTake (h : Nat) (w : HostWait) (s : State) : Option State :=
  let m := (getFn s w.fn).mir
  let p := getHp s h
  match takeSlot p (listsFor m.tagw) with
  | none => none
  | some (i, p') =>
    let x : Slot := { fn := w.fn, addr := w.addr, len := w.len, purpose := w.purpose, issued := s.time, cto := ctoNs p,
                      tagw := m.tagw, order := w.order, ro := roOf m w.order, ido := idoOf m w.order, wseq := p.wseq, old := w.old,
                      dl := w.dl }
    some (hqPut h (hqRead i x) { s with hp := tset {} s.hp h { p' with slots := tinsert i x (terase p'.slots i) } })

/-- Serve a read that has reached the port, or let it wait (R274); it waits while the port's island is under test (R408). -/
def hostTry (h : Nat) (w : HostWait) (s : State) : State :=
  match (if w.xheld || !hostMay s w.purpose || tested s (islHpt h) then none else hostTake h w s) with
  | some s' => s'
  | none => modHp h (fun p => { p with wait := p.wait ++ [w] }) s

/-- Send a read to a port. -/
def hostRead (h : Nat) (w : HostWait) (s : State) : State := hostTry h { w with xheld := xfrozen s w.purpose } s

/-- Serve the waiting reads that now find a slot, in order. -/
def hostServe (h : Nat) (s : State) : State :=
  (getHp s h).wait.foldl (fun s w => hostTry h w s) (modHp h (fun p => { p with wait := [] }) s)

/-- Reset-done of a function (R285): no slot of it outside quarantine, and acknowledged or timed out. -/
def resetDone (fn : Nat) (s : State) : State :=
  let f := getFn s fn
  if f.flrAt.isSome && (f.flrAcked || f.flrTimed) &&
     !(getHp s (hptOf fn)).slots.any (fun x => x.2.fn == fn && x.2.quarUntil.isNone) then
    modOut (fun o => if s.pf.cut then o else { o with hr := o.hr ++ [(hptOf fn, localOf fn)] })
      (modFn fn (fun f => { f with flrAt := none, flrAcked := false, flrTimed := false }) s)
  else s

/-- The resets of a host port that a freed or quarantined slot was holding up. -/
def resetsDone (h : Nat) (s : State) : State :=
  forAll ((s.fn.filter (fun f => hptOf f.1 == h && f.2.flrAt.isSome)).map (·.1)) resetDone s

/-- Free a slot at the tail of its list, and serve a waiting read (R274, R279). -/
def slotFree (h i : Nat) (s : State) : State :=
  resetsDone h <| hostServe h (modHp h (fun p =>
    let p := { p with slots := terase p.slots i }
    match slotList i with
    | 0 => { p with freed0 := p.freed0 ++ [i] }
    | 1 => { p with freed1 := p.freed1 ++ [i] }
    | _ => { p with freed2 := p.freed2 ++ [i] }) s)

/-- A slot that is allocated, quarantined or not. -/
def getSlot (s : State) (h i : Nat) : Option Slot := ((getHp s h).slots.find? (fun e => e.1 == i)).map (·.2)
def modSlot (h i : Nat) (f : Slot → Slot) (s : State) : State :=
  modHp h (fun p => { p with slots := p.slots.map (fun e => if e.1 == i then (i, f e.2) else e) }) s

/-- Effective sizes (R272): the smaller of the mirror and the cap, 128 × 2^n bytes. -/
def capOf (m c : BitVec 3) : Nat := 128 * 2 ^ min (min m.toNat 5) (min c.toNat 5)
def mrrsOf (s : State) (fn : Nat) : Nat := capOf (getFn s fn).mir.mrrs (getHp s (hptOf fn)).mrrscap
def mpsOf (s : State) (fn : Nat) : Nat := capOf (getFn s fn).mir.mps (getHp s (hptOf fn)).mpscap

/-- The function whose identity a host access carries (R273). -/
def hostFn (s : State) (w : Who) (h : Nat) : Nat :=
  if w.cls == 0 then w.fn else h * 1024 + (getHp s h).ctlfn.toNat

/-- Cut data into write requests of at most n bytes, in address order (R272). -/
def cutData (fuel n : Nat) (a : Word) (d : List Byte) : List (Word × List Byte) :=
  match fuel with
  | 0 => []
  | k + 1 => if d.isEmpty then [] else (a, d.take n) :: cutData k n (a + w64 n) (d.drop n)

/-- A write request of a function as its port fills it in (R273). -/
def writeReq (s : State) (h fn : Nat) (a : Word) (d : List Byte) (o : Order) (cach : Bool) (pu : Purpose) : HostWrite :=
  let m := (getFn s fn).mir
  let p := getHp s h
  { fn := fn, addr := a, data := d, purpose := pu, ro := roOf m o, ido := idoOf m o, hint := cach && p.tphen && m.tphreq
    seq := p.wseq, xheld := xfrozen s pu }

/-- Present one write request to the endpoint. -/
def hostPost (h fn : Nat) (a : Word) (d : List Byte) (o : Order) (cach : Bool) (pu : Purpose) (s : State) : State :=
  let w := writeReq s h fn a d o cach pu
  let s := modHp h (fun p => { p with wseq := p.wseq + 1, posted := p.posted ++ [w] }) s
  if w.xheld then s else hqPut h (hqWrite w) s

/-- A host write burst: write requests of at most the effective MPS (R272); a fixed side is one 4-byte request per granule
(R115). -/
def hostWrite (h fn : Nat) (a : Word) (d : List Byte) (fix : Bool) (o : Order) (cach : Bool) (pu : Purpose) (s : State) :
    State :=
  if fix then
    (cutData d.length 4 0 d).foldl (fun s x => hostPost h fn a x.2 o cach pu s) s
  else
    (cutData d.length (mpsOf s fn) a d).foldl (fun s x => hostPost h fn x.1 x.2 o cach pu s) s

/-! ### Engine ports: reads and their TIDs (R296, R297) -/

/-- The lowest TID that is free. -/
def freeTid (p : Port) : Option Nat := lowestFree (fun t => p.reads.any (fun r => r.tid == t)) 0 16

/-- The first of the waiting reads, in order of arrival, that may leave. A speculative read does not go to an engine whose link is
not at v3 (R298): it is held, and the reads behind it pass. -/
def nextRead (p : Port) : Option (PortRead × List PortRead) := pick (fun r : PortRead => !r.spec || p.ver == 3) p.rwait

/-- Send one read, unless no access may leave the block, an earlier write is still in the buffer or on the out-lane, or no TID is free. -/
def sendNext (k : Nat) (s : State) : Option State :=
  let p := getPort s k
  match nextRead p, freeTid p with
  | some (r, t), some tid =>
    if mayIssue s && !tested s (islPort k) && p.lstate == .up && !r.xheld && p.sending.isNone && p.wbuf.all (fun w => decide (r.ord < w.ord)) then
      let r := { r with tid := tid }
      some (sendLane k (readTokens r) (modPort k (fun p => { p with rwait := t, reads := p.reads ++ [r] }) s))
    else none
  | _, _ => none

/-- Send the reads that wait, as far as they may leave. -/
def portPumpN (k : Nat) : Nat → State → State
  | 0, s => s
  | n + 1, s => match sendNext k s with
    | none => s
    | some s => portPumpN k n s
def portPump (k : Nat) (s : State) : State := portPumpN k (getPort s k).rwait.length s

/-- The port handles traffic as failed (R305, R310). -/
def portDown (p : Port) : Bool := p.lstate == .down || p.lstate == .failed

/-- A read to a port, whose cluster wakes (R15). -/
def portRead (k : Nat) (r : PortRead) (s : State) : State :=
  let held := xfrozen s r.purpose
  portPump k (modPort k (fun p => { p with
    ord := p.ord + 1, rwait := joinBehind (·.xheld) { r with ord := p.ord, xheld := held } p.rwait }) (wakeIsl (islPort k) s))

/-- A write waits in front of the port's buffer until BUFFERED_WRITE_ACK lets it in (R254). -/
def portWrite (k : Nat) (w : BufWrite) (s : State) : State :=
  let held := xfrozen s w.purpose
  modPort k (fun p => { p with wwait := joinBehind (·.xheld) { w with xheld := held } p.wwait }) (wakeIsl (islPort k) s)

/-! ### Reads and writes by space -/

/-- What becomes of an access that is presented. -/
inductive Iss
  /-- issued -/
  | go
  /-- denied by the gate (R253) -/
  | denied
  /-- a speculative read that must wait (R249) -/
  | held
  /-- failed at once with a status: the link of the port is down (R310) -/
  | failed (code : Byte)
  /-- not accepted: the function's bus master enable is 0 (R282), or the stage forbids it -/
  | barred
  deriving DecidableEq, Repr, Inhabited

/-- A read as an engine or a core presents it. -/
structure RdReq where
  who : Who
  space : BitVec 4
  addr : Word
  len : Nat
  fix : Bool := false
  spec : Bool := false
  /-- requested ordering (R82) -/
  ord : Order := .relaxed
  /-- an atomic needs read and write rights (R245) -/
  purpose : Purpose
  deriving DecidableEq, Repr, Inhabited

/-- Whether a speculative probe at a port must be held because the link is not at v3 (R298). -/
def probeHeld (s : State) (space : BitVec 4) (a : Word) : Bool :=
  space == 5 && !((getPort s (fld a 32 10)).lstate == .up && (getPort s (fld a 32 10)).ver == 3)

/-- The gate's answer for a read: probed when speculative, checked otherwise (R249, R253). -/
def readVerdict (s : State) (r : RdReq) : Verdict :=
  gateCheck s (gateOf s r.space r.addr) r.who .rd r.addr r.len r.fix

/-- Send a read that its gate has allowed. -/
def sendRead (r : RdReq) (v : Verdict) (s : State) : State :=
  let o := stronger r.ord v.order
  match r.space.toNat with
  | 0 => lmIssue { port := 0, tag := 0, op := .read, addr := r.addr, len := r.len, fix := r.fix, cache := v.cach,
                   order := o, purpose := r.purpose } s
  | 5 => portRead (fld r.addr 32 10)
           { tid := 0, off := r.addr.truncate 32, len := r.len, fix := r.fix, spec := r.spec, purpose := r.purpose, dl := dlOf s r.purpose } s
  | 6 => { s with cread := joinBehind (·.xheld) { addr := r.addr, len := r.len, fix := r.fix, purpose := r.purpose, dl := dlOf s r.purpose,
                                                  xheld := xfrozen s r.purpose } s.cread }
  | n => hostRead (n - 1) { fn := hostFn s r.who (n - 1), addr := r.addr, len := r.len, purpose := r.purpose, order := o, dl := dlOf s r.purpose } s

/-- Present one read burst, which f sends once the gate has allowed the whole of it (R246). A speculative burst that only its
link holds back is held like one that lacks PREFETCHABLE: it counts in SPECHELD too (DESIGN CHOICE; log entry 84). -/
def issueReadBy (f : RdReq → Verdict → State → State) (r : RdReq) (s : State) : Iss × State :=
  if !mayRead s then (.barred, s)
  else if hostSpace s r.space && !bmeOf s (hostFn s r.who (r.space.toNat - 1)) then (.barred, s)
  else
    let v := readVerdict s r
    if r.spec then
      if v.ok && v.pref && !probeHeld s r.space r.addr then
        if r.space == 5 && portDown (getPort s (fld r.addr 32 10)) then (.held, s) else (.go, f r v s)
      else (.held, s)
    else if !v.ok then
      (.denied, denyPrecise (gateOf s r.space r.addr) r.who .rd r.addr r.len v s)
    else if r.space == 5 && portDown (getPort s (fld r.addr 32 10)) then (.failed 0x21, s)
    else (.go, f r v s)
def issueRead (r : RdReq) (s : State) : Iss × State := issueReadBy sendRead r s

/-- A write as an engine presents it. -/
structure WrReq where
  who : Who
  space : BitVec 4
  addr : Word
  data : List Byte
  fix : Bool := false
  ord : Order := .relaxed
  purpose : Purpose
  deriving DecidableEq, Repr, Inhabited

/-- Send a write that its gate has allowed, or that its buffer takes unchecked (R254). -/
def sendWrite (w : WrReq) (v : Verdict) (s : State) : State :=
  let o := stronger w.ord v.order
  match w.space.toNat with
  | 0 => lmIssue { port := 0, tag := 0, op := .write, addr := w.addr, len := w.data.length, fix := w.fix, cache := v.cach,
                   order := o, data := w.data, purpose := w.purpose } s
  | n => hostWrite (n - 1) (hostFn s w.who (n - 1)) w.addr w.data w.fix o v.cach w.purpose s

/-- The buffer entry of a write. -/
def bufOf (w : WrReq) : BufWrite :=
  { addr := w.addr, data := w.data, fix := w.fix, cls := w.who.cls, fn := w.who.fn, chan := w.who.chan,
    engine := w.who.engine, core := w.who.core, purpose := w.purpose }

/-- Present one write burst. -/
def issueWrite (w : WrReq) (s : State) : Iss × State :=
  if !mayIssue s then (.barred, s)
  else if w.space == 5 then (.go, portWrite (fld w.addr 32 10) (bufOf w) s)
  else if w.space == 6 then (.go, { s with cwait := joinBehind (·.xheld) { bufOf w with xheld := xfrozen s w.purpose } s.cwait })
  else if hostSpace s w.space && !bmeOf s (hostFn s w.who (w.space.toNat - 1)) then (.barred, s)
  else
    let g := gateOf s w.space w.addr
    let v := gateCheck s g w.who .wr w.addr w.data.length w.fix
    if !v.ok then (.denied, denyPrecise g w.who .wr w.addr w.data.length v s)
    else (.go, sendWrite w v s)

/-- Present an UPD8 of ATOM, LOCK, UNLK or a lock break: gate rights for read and write, ordering STRICT (R93, R245). -/
def issueUpd8 (who : Who) (addr compare cmask value wmask add : Word) (pu : Purpose) (s : State) : Iss × State :=
  if !mayIssue s then (.barred, s)
  else
    let g := 68 + lmPortOf s addr
    let v := gateCheck s g who .both addr 8 false
    if !v.ok then (.denied, denyPrecise g who .both addr 8 v s)
    else (.go, lmIssue { port := 0, tag := 0, op := .upd8, addr := addr, len := 8, cache := v.cach, order := .strict,
                         compare := compare, cmask := cmask, value := value, wmask := wmask, add := add, purpose := pu } s)

/-- A flush read: one DW without byte enables, never checked by a gate (R122, R241, R278). -/
def issueFlush (h fn : Nat) (a : Word) (ido : Bool) (pu : Purpose) (s : State) : State :=
  if mayIssue s && bmeOf s fn then
    hostRead h { fn := fn, addr := alignDown a 4, len := 4, purpose := pu, order := if ido then .idOrdered else .strict,
                 dl := dlOf s pu } s
  else s

/-! ### Bytes that an overlap leaves undefined (R114) -/

/-- They enter control memory's buffer behind the writes before them, unseen by its gate and its limit. -/
def undefJoinN : Nat → State → State
  | 0, s => s
  | n + 1, s => match s.cwait with
    | w :: t => if w.undef then undefJoinN n { s with cwait := t, cbuf := s.cbuf ++ [w] } else s
    | [] => s
def undefJoin (s : State) : State := undefJoinN s.cwait.length s

/-! ### Which engine an access belongs to -/

/-- A read of an engine. -/
def purposeRead : Purpose → Bool
  | .desc _ _ | .ahead _ _ _ _ | .resume _ | .src _ _ | .list _ | .image _ => true
  | _ => false

/-- What becomes of a slot's completions when its read is dropped: a slot already dropped keeps its kind. -/
def discardAs (k : Discard) (x : Slot) : Discard := if x.disc == .no && x.quarUntil.isNone then k else x.disc

/-- Replace the purpose of every outstanding access that passes a test by "dropped"; the completions of a host read are
discarded in the way k names (R198, R280). A read that has not yet crossed or left is withdrawn. What is still outstanding keeps
its engine's island from being idle (R388). -/
def dropIf (k : Discard) (p : Purpose → Bool) (s : State) : State :=
  let d : Purpose → Purpose := fun x => if p x then .dropped else x
  let g (x : Purpose) (was : Option Nat) : Option Nat := if p x then was <|> purposeEng x else was
  { s with
    lm := (s.lm.filter (fun r => !(r.tag == 1025 && r.op == .read && p r.purpose))).map (fun r =>
      { r with purpose := d r.purpose, gone := g r.purpose r.gone })
    cread := (s.cread.filter (fun r => !(r.xheld && p r.purpose))).map (fun r =>
      { r with purpose := d r.purpose, gone := g r.purpose r.gone })
    xback := s.xback.map (fun a => match a with
      | .rdata k r x => .rdata k { r with purpose := d r.purpose, gone := g r.purpose r.gone } x
      | a => a)
    cwait := s.cwait.map (fun r => { r with purpose := d r.purpose, gone := g r.purpose r.gone })
    hp := tmap (fun _ h => { h with
      slots := h.slots.map (fun e => (e.1, { e.2 with purpose := d e.2.purpose, gone := g e.2.purpose e.2.gone,
                                                      disc := if p e.2.purpose then discardAs k e.2 else e.2.disc }))
      wait := h.wait.filter (fun w => !p w.purpose)
      posted := h.posted.map (fun w => { w with purpose := d w.purpose }) }) s.hp
    port := tmap (fun _ k => { k with
      reads := k.reads.map (fun r => { r with purpose := d r.purpose, gone := g r.purpose r.gone })
      rwait := k.rwait.filter (fun r => !p r.purpose)
      wwait := k.wwait.map (fun r => { r with purpose := d r.purpose, gone := g r.purpose r.gone }) }) s.port }

/-- A channel leaves its engine: nothing waits for the accesses it leaves behind but the breaking of its locks, which waits for
its LM writes (R211). -/
def disown (e c : Nat) (s : State) : State :=
  let mine (x : Purpose) : Bool := purposeEng x == some e
  dropIf .plain mine { s with lm := s.lm.map (fun r =>
    if mine r.purpose && r.op != .read then { r with purpose := .orphan c, gone := some e } else r) }

/-- Whether any outstanding access passes a test. Posted host writes are not outstanding: a flush read settles them. -/
def anyOut (p : Purpose → Bool) (s : State) : Bool :=
  s.lm.any (fun r => p r.purpose) || s.cread.any (fun r => p r.purpose) || s.cwait.any (fun r => p r.purpose) ||
  s.xback.any (fun a => match a with
    | .rdata _ r _ => p r.purpose
    | _ => false) ||
  s.hp.any (fun e => e.2.slots.any (fun x => x.2.quarUntil.isNone && p x.2.purpose) ||
    e.2.wait.any (fun w => p w.purpose)) ||
  s.port.any (fun e => e.2.reads.any (fun r => p r.purpose) || e.2.rwait.any (fun r => p r.purpose) ||
    e.2.wwait.any (fun r => p r.purpose))

/-- An access that an engine of some set has issued and abandoned, or left behind, is still outstanding (R388). -/
def goneOut (p : Nat → Bool) (s : State) : Bool :=
  let q (g : Option Nat) : Bool := g.any p
  s.lm.any (fun r => q r.gone) || s.cread.any (fun r => q r.gone) || s.cwait.any (fun r => q r.gone) ||
  s.xback.any (fun a => match a with
    | .rdata _ r _ => q r.gone
    | _ => false) ||
  s.hp.any (fun e => e.2.slots.any (fun x => x.2.quarUntil.isNone && q x.2.gone)) ||
  s.port.any (fun e => e.2.reads.any (fun r => q r.gone) || e.2.wwait.any (fun r => q r.gone))

/-- Whether any posted host write passes a test. -/
def anyPosted (p : Purpose → Bool) (s : State) : Bool := s.hp.any (fun e => e.2.posted.any (fun w => p w.purpose))

/-- A read of an engine that waits for a tag slot holds back its later reads (R274). -/
def hostBlocked (s : State) (e : Nat) : Bool :=
  s.hp.any (fun x => x.2.wait.any (fun w => purposeEng w.purpose == some e))

end Sys2Proof.Machine
end

