-- ==== Sys2Proof/Machine/ChanOps.lean ====
section
/-! DEFINITION. What DSP does with channels (02, 07, 08): the context words, the ready queues, the context cache, watch
entries, the lock table and its breaks. -/

namespace Sys2Proof.Machine

/-! ### The context words (R26) -/

def stCode : ChState → Nat
  | .idle => 0
  | .ready => 1
  | .running => 2
  | .waiting => 3
  | .paused => 4
  | .stopped => 5
  | .quiesced => 6

/-- STATE as CH_STAT and CTXREAD report it (R204). -/
def shownState (s : State) (c : Ctx) : Nat := if s.dsp.qreq && c.st != .idle then 6 else stCode c.st

def word5 (r : Regs) : Word := r.pc ||| w64 (b2n r.z + 2 * b2n r.c + 4 * b2n r.b)

/-- Word 0 of a context. -/
def ctxWord0 (st : Nat) (c : Ctx) : Word :=
  w64 (st + b2n c.pause * 2 ^ 3 + b2n c.abort * 2 ^ 4 + b2n c.go * 2 ^ 5 + b2n c.ov * 2 ^ 6 + b2n c.pcv * 2 ^ 7 +
    c.owner.toNat * 2 ^ 8 + c.dc.toNat * 2 ^ 20 + b2n c.direct * 2 ^ 24 + b2n c.regs.sinc * 2 ^ 25 +
    b2n c.regs.dinc * 2 ^ 26 + c.regs.swap.toNat * 2 ^ 27 + b2n c.ntfy * 2 ^ 29 + b2n c.wdog * 2 ^ 30 +
    c.regs.sspace.toNat * 2 ^ 32 + c.regs.dspace.toNat * 2 ^ 36 + c.regs.pspace.toNat * 2 ^ 40 +
    c.swspace.toNat * 2 ^ 44 + c.dwspace.toNat * 2 ^ 48 + c.nspace.toNat * 2 ^ 52)

/-- The sixteen words of a context, with a given STATE code. -/
def ctxWords (st : Nat) (c : Ctx) : List Word :=
  [ctxWord0 st c, c.regs.s, c.regs.d, w64 (c.regs.n.toNat + c.seqseen.toNat * 2 ^ 32),
   w64 (c.seqexp.toNat + c.lastcode.toNat * 2 ^ 32 + c.lastflags.toNat * 2 ^ 40), word5 c.regs,
   c.regs.k0, c.regs.k1, c.regs.k2, c.regs.k3, c.swbase, c.swlimit, c.dwbase, c.dwlimit, c.notify, c.fold]

/-! ### The context cache (R33, R34) -/

def cacheSet (s : State) (c : Nat) : Nat := c % (if s.cfg.compact then 4096 else 16384)
def cacheWays (s : State) (k : Nat) : List (Nat × Bool) := tget [] s.dsp.cache k

/-- The context of a RUNNING channel is pinned. -/
def pinned (s : State) (c : Nat) : Bool := (getCtx s c).st == .running

/-- Write back words 0 to 14 of an evicted context (R33). -/
def writeBack (c : Nat) (s : State) : State :=
  let x := getCtx s c
  lmIssue { port := 0, tag := 0, op := .write, addr := w64 (ctxStore s + 128 * c), len := 120,
            data := bytesOfWords ((ctxWords (stCode x.st) x).take 15), purpose := .evict, gated := false } s

/-- The last way that is not pinned leaves (least recently used). -/
def evictLast (s : State) (l : List (Nat × Bool)) : Option ((Nat × Bool) × List (Nat × Bool)) :=
  match pick (fun w => !pinned s w.1) l.reverse with
  | none => none
  | some (w, r) => some (w, r.reverse)

/-- Use a context: it becomes the most recent of its set; a seventeenth displaces the least recent that is not pinned. -/
def cacheUse (c : Nat) (changed : Bool) (s : State) : State :=
  let k := cacheSet s c
  let ways := cacheWays s k
  let was := ways.any (fun w => w.1 == c && w.2)
  let rest := ways.filter (fun w => w.1 != c)
  let put (l : List (Nat × Bool)) (s : State) : State :=
    modDsp (fun d => { d with cache := tset [] d.cache k ((c, changed || was) :: l) }) s
  if rest.length < 16 then put rest s
  else match evictLast s rest with
    | none => s
    | some (w, l) => let s := put l s
                     if w.2 then writeBack w.1 s else s

/-- A channel that maps to a set whose sixteen ways are pinned cannot be dispatched (R34). -/
def cacheBlocked (s : State) (c : Nat) : Bool :=
  let rest := (cacheWays s (cacheSet s c)).filter (fun w => w.1 != c)
  decide (16 ≤ rest.length) && rest.all (fun w => pinned s w.1)

/-! ### Ready queues (R169 to R172) -/

/-- The ready stamp: block time in units of 8 ns, 32 bits (R169). -/
def stampNow (s : State) : Half := (s.time >>> 3).truncate 32

/-- Enter a ready queue; a full ready store marks the pending-scan bitmap instead (R172). -/
def enqueue (c : Nat) (s : State) : State :=
  if s.dsp.ready.length < 65536 then
    modDsp (fun d => { d with ready := d.ready ++ [{ cls := (getCtx s c).dc, chan := c, stamp := stampNow s }] }) s
  else
    bitmapOr c (.ovfOr c) (modDsp (fun d => { d with readyovf := inc32 d.readyovf }) s)

/-- A channel would enter READY: PAUSED instead while its PAUSE bit is 1 (R171). Its context has changed (R33). -/
def toReady (c : Nat) (s : State) : State :=
  let s := cacheUse c true s
  if (getCtx s c).pause then modCtx c (fun x => { x with st := .paused }) s
  else enqueue c (modCtx c (fun x => { x with st := .ready }) s)

def unqueue (c : Nat) (s : State) : State :=
  modDsp (fun d => { d with ready := d.ready.filter (fun r => r.chan != c) }) s

/-- Remove a channel's watch entries (R183). -/
def unwatch (c : Nat) (s : State) : State :=
  { s with port := tmap (fun _ p => { p with watch := p.watch.filter (fun w => w.chan != c) }) s.port
           dsp := { s.dsp with wakes := s.dsp.wakes.filter (· != c) } }

/-- Deadline of an entry: stamp plus the active DCOFF of its class (R170). -/
def deadlineOf (s : State) (cls : BitVec 4) (stamp : Half) : Half := stamp + dcoff s cls

/-- Engine e takes class c (R174). -/
def takesClass (s : State) (e : Nat) (c : BitVec 4) : Bool := bit (tget (0xFFFF : BitVec 16) s.active.disp.dcmask e) c.toNat

/-- The first four entries of a queue, entries of a function without bus master enable passed over (R173). -/
def queueWindow (s : State) (c : BitVec 4) : List ReadyEntry :=
  (s.dsp.ready.filter (fun r => r.cls == c && bmeOf s (getCtx s r.chan).owner.toNat)).take 4

/-- Signed difference modulo 2^32 (R170). -/
def before32 (a b : Half) : Bool := (a - b).toInt < 0

/-- An entry whose stamp is more than 2^31 units old (R170). -/
def overAge (s : State) (stamp : Half) : Bool := decide (2 ^ 31 < (stampNow s - stamp).toNat)

/-! ### Locks (R207 to R214) -/

/-- Which engine holds a channel. -/
def engOf (s : State) (c : Nat) : Option Nat :=
  (s.eng.find? (fun e => e.2.hold == .chan c || e.2.hold == .task c)).map (·.1)

def lockBreakWho : Who := { cls := 2, engine := 9, core := true }

/-- Break a lock: free the entry, write the word, count, record and report (R212). FOUND tells of the last command (R214). -/
def breakEntry (x : LockEntry) (cause : BitVec 3) (s : State) : State :=
  let s := modLock (fun l => { l with
    entries := l.entries.filter (fun y => y.addr != x.addr)
    waiting := l.waiting.filter (fun y => y.addr != x.addr)
    brkcnt := inc32 l.brkcnt, lbladdr := x.addr, lblchan := BitVec.ofNat 23 x.chan, lblcause := cause
    found := l.found || (cause == 4 && x.addr == l.cmd) }) s
  let r := issueUpd8 lockBreakWho x.addr 0 0 ((1 : Word) <<< 41) ((3 : Word) <<< 40) 0 .breakWord s
  evLockBreak x.fn (if r.1 == .go then xCtl 0 r.2 else r.2)

/-- An LM write or update that a channel has left behind is not yet answered. -/
def orphanOut (s : State) (c : Nat) : Bool := s.lm.any (fun r => r.purpose == .orphan c)

/-- Break a lock whose owner is on no engine, once every LM write of the owner has its response (R211). -/
def breakSoon (x : LockEntry) (cause : BitVec 3) (s : State) : State :=
  if orphanOut s x.chan then
    modLock (fun l => { l with waiting := l.waiting.filter (fun y => y.addr != x.addr) ++
      [{ addr := x.addr, cause := cause, after := true }] }) s
  else breakEntry x cause s

/-- Break a lock now, or once its owner's engine has stopped (R211). An entry that is being released is left alone (R213), and
a break that waits keeps its cause. -/
def breakOrWait (x : LockEntry) (cause : BitVec 3) (s : State) : State :=
  if x.releasing || s.lock.waiting.any (fun y => y.addr == x.addr) then s
  else if (engOf s x.chan).isSome then
    modLock (fun l => { l with waiting := l.waiting ++ [{ addr := x.addr, cause := cause }] }) s
  else breakSoon x cause s

/-- The cause with which a lock is broken: the first that applied to it, else the one given (R211). -/
def causeFor (s : State) (x : LockEntry) (cause : Option (BitVec 3)) : Option (BitVec 3) :=
  match s.lock.waiting.find? (fun y => y.addr == x.addr) with
  | some y => some y.cause
  | none => cause

/-- A channel has left its engine, or is on none: its locks are broken where a break waits for them or a cause is given. -/
def breakOnLeave (c : Nat) (cause : Option (BitVec 3)) (s : State) : State :=
  forAll (s.lock.entries.filter (fun x => x.chan == c && !x.releasing)) (fun x s =>
    match causeFor s x cause with
    | none => s
    | some k => breakSoon x k s) s

/-- An LM write of a channel has been answered: the breaks that waited for it are made. Where an engine has taken the channel
again, they wait for that engine. -/
def breakAfter (c : Nat) (s : State) : State :=
  if orphanOut s c || (engOf s c).isSome then s
  else forAll (s.lock.waiting.filter (fun y => y.after)) (fun y s =>
    match s.lock.entries.find? (fun x => x.addr == y.addr && x.chan == c) with
    | none => s
    | some x => breakEntry x y.cause s) s

/-- Break the locks of a function with cause 2 or 3 (R282, R284). -/
def breakFn (fn : Nat) (cause : BitVec 3) (s : State) : State :=
  forAll (s.lock.entries.filter (fun x => x.fn == fn)) (fun x s => breakOrWait x cause s) s

/-- Free a lock entry without a break (R209). -/
def lockFree (a : Word) (s : State) : State :=
  modLock (fun l => { l with entries := l.entries.filter (fun x => x.addr != a)
                             waiting := l.waiting.filter (fun x => x.addr != a) }) s

/-! ### Flags, notices, stops in DSP -/

/-- FLAGS of R153. -/
def flagsOf (f0 f1 f2 f3 : Bool) : Byte := BitVec.ofNat 8 (b2n f0 + 2 * b2n f1 + 4 * b2n f2 + 8 * b2n f3)

def noticeOf (s : State) (fn : Nat) : Bool := (getFn s fn).notice
/-- Read-and-clear of the notice bit (R256): the clear. -/
def noticeClear (fn : Nat) (s : State) : State := modFn fn (fun f => { f with notice := false }) s

/-- Drop the write-back tasks and recorded aborts of a channel. -/
def dropTasks (c : Nat) (s : State) : State :=
  modDsp (fun d => { d with wbTasks := d.wbTasks.filter (· != c), recAborts := d.recAborts.filter (· != c) }) s

/-- Enter STOPPED with a status; flags are written when given (R38, R141, R148). ABORT ends; the locks break with cause 1
unless the status is FUNCTION_STOPPED (R211). -/
def stopCtx (c : Nat) (code : Byte) (flags : Option Byte) (s : State) : State :=
  let s := cacheUse c true (dropTasks c (unwatch c (unqueue c s)))
  let s := modCtx c (fun x => { x with
    st := .stopped, abort := false, lastcode := code, lastflags := flags.getD x.lastflags
    pacing := none }) s
  breakOnLeave c (if code == 0x31 then none else some 1) s

/-- DIRECT becomes 0: the program that the move interrupted has its own mark of a resume again (R196). -/
def directOver (c : Nat) (s : State) : State :=
  modCtx c (fun x => if x.direct then { x with direct := false, resume := x.resumeProg, resumeProg := false } else x) s

/-- An abort between descriptors and off the engines (R200). -/
def abortIdle (c : Nat) (s : State) : State :=
  let x := getCtx s c
  let fl := flagsOf (noticeOf s x.owner.toNat) false x.f2 false
  modCtx c (fun x => { x with f2 := false })
    (directOver c (stopCtx c 0x30 (some fl) (noticeClear x.owner.toNat s)))

/-- The descriptor size at a level (R134, R105). -/
def descSize (level : Nat) : Nat := if level == 1 then 32 else 64

def levelOf (s : State) (fn : Nat) : Nat := (getFn s fn).level.toNat

/-- Mid-descriptor, or mid-move in direct mode (R188). -/
def midWork (s : State) (c : Nat) : Bool := (getCtx s c).direct || (getCtx s c).mid

/-- An abort of a channel that is not on an engine (R199, R200). -/
def abortOff (c : Nat) (s : State) : State :=
  if midWork s c then
    modDsp (fun d => { d with wbTasks := d.wbTasks ++ [c] }) (unwatch c (unqueue c s))
  else abortIdle c s

end Sys2Proof.Machine
end

