-- ==== Sys2Proof/Machine/Operands.lean ====
section
/-! DEFINITION. Operand forms of the movement profile: fields of an instruction word (R64), K registers (R67), spaces and
PORT addresses (R69 to R71), windows (R111 to R113), bursts (R117), swap (R116), the pacing word (R86 to R88) and descriptor
headers (R105, R135). -/

namespace Sys2Proof.Machine

/-! ### Instruction words (R64) -/

def opc (w : Word) : Nat := fld w 56 8
/-- OPD sign-extended. -/
def opdSext (w : Word) : Word := sext 48 w
def opdZext (w : Word) : Word := w64 (fld w 0 48)
/-- Every bit of [lo + n - 1 : lo] is 0. -/
def zeroAt (w : Word) (lo n : Nat) : Bool := fld w lo n == 0

/-- The lowest level of an opcode of the movement profile; none for a reserved or control-profile opcode (R76). -/
def opLevel (o : Nat) : Option Nat :=
  if o ∈ [0x10, 0x11, 0x12, 0x13, 0x20, 0x21, 0x30, 0x31, 0x32, 0x33, 0x50, 0x51, 0x5F] then some 2
  else if o ∈ [0x40, 0x41, 0x42, 0x60, 0x61, 0x62, 0x63, 0x64] then some 3
  else none

/-- Class H (R75, R76). -/
def classH (o : Nat) : Bool :=
  o ∈ [0x30, 0x31, 0x32, 0x33, 0x40, 0x41, 0x42, 0x60, 0x61, 0x62, 0x63, 0x64]

/-! ### K registers -/

def getK (r : Regs) (i : Nat) : Word :=
  match i % 4 with
  | 0 => r.k0
  | 1 => r.k1
  | 2 => r.k2
  | _ => r.k3
def setK (r : Regs) (i : Nat) (v : Word) : Regs :=
  match i % 4 with
  | 0 => { r with k0 := v }
  | 1 => { r with k1 := v }
  | 2 => { r with k2 := v }
  | _ => { r with k3 := v }

/-! ### Spaces (R69 to R71) -/

/-- LM or a present host: lists, NOTIFY and LINK targets, table images, rings (R70). -/
def listSpaceOk (s : State) (sp : BitVec 4) : Bool := sp == 0 || hostSpace s sp
/-- Data of MOVE and MOVL; CTL for movement work only (R69, R376). -/
def dataSpaceOk (s : State) (work : Bool) (sp : BitVec 4) : Bool :=
  listSpaceOk s sp || sp == 5 || (work && sp == 6)
/-- A PORT address names a present port (R71); any other space passes. -/
def portAddrOk (s : State) (sp : BitVec 4) (a : Word) : Bool :=
  sp != 5 || (zeroAt a 42 22 && decide (fld a 32 10 < nPorts s))

/-! ### Windows (R29, R111 to R113) -/

/-- The range carries out of the offset bits of a PORT address, or out of bit 63. -/
def carries (sp : BitVec 4) (a : Word) (n : Nat) : Bool :=
  if sp == 5 then decide (2 ^ 32 ≤ fld a 0 32 + n - 4) else decide (2 ^ 64 ≤ a.toNat + n - 4)

/-- The window check of one side. -/
def windowOk (sp wsp : BitVec 4) (base limit a : Word) (n : Nat) (inc : Bool) : Bool :=
  sp == wsp && decide (base.toNat ≤ a.toNat) &&
  (if inc then !carries sp a n && decide (a.toNat + n - 4 < 2 ^ 64) && decide (a.toNat + n - 4 ≤ limit.toNat)
   else decide (a.toNat ≤ limit.toNat))

/-- The check of movement work: only the carry of a PORT range (R376). -/
def workWindowOk (sp : BitVec 4) (a : Word) (n : Nat) (inc : Bool) : Bool := !(inc && sp == 5 && carries sp a n)

/-! ### Bursts and swap (R115 to R117) -/

/-- The length of the burst at an address with so many bytes left. -/
def burstLen (inc : Bool) (a : Word) (left : Nat) : Nat := if inc then min (256 - a.toNat % 256) left else min 256 left

/-- The start of the burst that holds the stream byte at an offset of a side that began at an address. -/
def burstStart (inc : Bool) (a0 : Word) (off : Nat) : Nat :=
  if inc then off - min off ((a0.toNat + off) % 256) else off - off % 256

/-- SWAP within each 4-byte word (R116). -/
def swapBytes (m : BitVec 2) : List Byte → List Byte
  | a :: b :: c :: d :: t =>
    (match m.toNat with
     | 0 => [a, b, c, d]
     | 1 => [b, a, d, c]
     | 2 => [d, c, b, a]
     | _ => [c, d, a, b]) ++ swapBytes m t
  | l => l

/-! ### The pacing word (R86 to R88, R180) -/

def paceOn (k : Word) : Bool := bit k 63
def paceSrc (k : Word) : Bool := bit k 62
def pacePort (k : Word) : Nat := fld k 32 10
def paceHigh (k : Word) : Nat := fld k 16 6
def paceLow (k : Word) : Nat := fld k 24 6
/-- An armed pacing word passes R88. -/
def paceOk (s : State) (k : Word) : Bool :=
  !paceOn k || (zeroAt k 0 16 && zeroAt k 22 2 && zeroAt k 30 2 && zeroAt k 42 20 && decide (paceLow k < paceHigh k) &&
    decide (pacePort k < nPorts s))

/-- PACEEN of a port (R185). -/
def paceEnabled (s : State) (p : Nat) : Bool := bit (tget (0xFFFFFFFF : Half) s.active.disp.paceen (p / 32)) (p % 32)

/-- The level lets a held channel go on (R87). -/
def paceResume (s : State) (p : Nat) (high low : Nat) (src : Bool) : Bool :=
  !paceEnabled s p ||
  (if src then decide (high ≤ (getPort s p).fillo.toNat) else decide ((getPort s p).filli.toNat ≤ low))

/-- The pacing state after an evaluation: true is HELD (R180). -/
def paceEval (s : State) (k : Word) (held : Bool) : Bool :=
  if !paceOn k || !paceEnabled s (pacePort k) then false
  else if held then !paceResume s (pacePort k) (paceHigh k) (paceLow k) (paceSrc k)
  else if paceSrc k then decide ((getPort s (pacePort k)).fillo.toNat ≤ paceLow k)
  else decide (paceHigh k ≤ (getPort s (pacePort k)).filli.toNat)

/-- A side is the paced side (R87). -/
def pacedSide (k : Word) (src : Bool) (sp : BitVec 4) (a : Word) : Bool :=
  paceOn k && paceSrc k == src && sp == 5 && fld a 32 10 == pacePort k

/-! ### Descriptor headers (R105, R135) -/

/-- The word with OWN and SEQ. -/
def ownWord (lvl : Nat) (ws : List Word) : Word := if lvl == 1 then nthWord ws 3 else nthWord ws 0
def hdrOwn (lvl : Nat) (ws : List Word) : Bool := bit (ownWord lvl ws) 63
def hdrSeq (lvl : Nat) (ws : List Word) : BitVec 24 := bits (ownWord lvl ws) 32 24
def hdrLen (ws : List Word) : Nat := fld (nthWord ws 0) 56 6
/-- LEN from 1 to 6; level 1 has none. -/
def hdrLenOk (lvl : Nat) (ws : List Word) : Bool := lvl == 1 || (decide (1 ≤ hdrLen ws) && decide (hdrLen ws ≤ 6))
/-- LINKED, or LNK at level 1 (R138). -/
def hdrLinked (lvl : Nat) (ws : List Word) : Bool := if lvl == 1 then bit (nthWord ws 2) 44 else bit (nthWord ws 0) 62
/-- The program length: a level 1 descriptor has no program words. -/
def progLen (lvl : Nat) (ws : List Word) : Nat := if lvl == 1 then 0 else hdrLen ws

end Sys2Proof.Machine
end

