-- ==== Sys2Proof/Machine/EngOps.lean ====
section
/-! DEFINITION. Engines and their threads: what an engine holds, speculation and its loss (06), completion (R145 to R148),
direct-mode completion (R56, R57), movement work (R376), and leaving an engine (R67, R175). -/

namespace Sys2Proof.Machine

/-! ### What an engine holds -/

def isWork (s : State) (e : Nat) : Bool :=
  match (getEng s e).hold with
  | .work _ _ => true
  | _ => false

def chanOf (s : State) (e : Nat) : Nat :=
  match (getEng s e).hold with
  | .chan c => c
  | .task c => c
  | _ => 0

def holdsChan (s : State) (e : Nat) : Bool :=
  match (getEng s e).hold with
  | .chan _ => true
  | _ => false

def isTask (s : State) (e : Nat) : Bool :=
  match (getEng s e).hold with
  | .task _ => true
  | _ => false

def engFree (s : State) (e : Nat) : Bool := (getEng s e).hold == .none

/-- The owning function of an engine's channel. -/
def fnOf (s : State) (e : Nat) : Nat := (getCtx s (chanOf s e)).owner.toNat

/-- The identity of an engine's accesses (R240). -/
def whoOf (s : State) (e : Nat) : Who :=
  match (getEng s e).hold with
  | .work core _ => { cls := if core == 8 then 2 else 1, engine := e }
  | _ => { cls := 0, fn := fnOf s e, chan := chanOf s e, engine := e }

/-- The level that governs an engine's program; movement work runs with every instruction (R376). -/
def lvlOf (s : State) (e : Nat) : Nat := if isWork s e then 3 else levelOf s (fnOf s e)

/-! ### Threads -/

/-- The speculative thread runs while there is one (R156). -/
def onSpec (s : State) (e : Nat) : Bool := (getEng s e).spec.isSome
def thr (s : State) (e : Nat) : Thread := ((getEng s e).spec).getD (getEng s e).main
def modThr (e : Nat) (f : Thread → Thread) (s : State) : State :=
  modEng e (fun x => match x.spec with
    | some t => { x with spec := some (f t) }
    | none => { x with main := f x.main }) s
def modMain (e : Nat) (f : Thread → Thread) (s : State) : State := modEng e (fun x => { x with main := f x.main }) s
def modRegs (e : Nat) (f : Regs → Regs) (s : State) : State := modThr e (fun t => { t with regs := f t.regs }) s

/-- Place of the PC in the descriptor, in words. -/
def pcIdx (t : Thread) : Nat := (t.regs.pc - t.a).toNat / 8

/-- Execution has passed the last program word (R72). -/
def pastEnd (s : State) (e : Nat) (t : Thread) : Bool := decide (progLen (lvlOf s e) t.words < pcIdx t)

/-! ### Host writes that still need a flush read (R122, R145) -/

/-- Writes of a descriptor outside its moves (R146). -/
def descWrite (e : Nat) : Purpose → Bool
  | .notify x | .status x | .status2 x | .dnotify x => x == e
  | _ => false

/-- The last posted write of an engine at a host port that passes a test. -/
def lastPosted (s : State) (h : Nat) (p : Purpose → Bool) : Option HostWrite :=
  ((getHp s h).posted.filter (fun w => p w.purpose)).getLast?

/-- Issue a flush read after the last of the posted writes that pass a test (R122, R278). -/
def flushAt (h : Nat) (p : Purpose → Bool) (pu : Purpose) (s : State) : State :=
  match lastPosted s h p with
  | none => s
  | some w =>
    -- the attribute of every write that its completion confirms
    let ido := ((getHp s h).posted.filter (fun x => x.fn == w.fn && !x.done &&
      (purposeEng x.purpose == purposeEng pu || x.purpose == .dropped))).all (·.ido)
    let s := issueFlush h w.fn (w.addr + w64 (w.data.length - 4)) ido pu s
    match purposeEng pu with
    | some e => xEng e 0 s
    | none => s

/-- Flush reads, one for each host port that holds an unconfirmed write of the descriptor (R145 step 3). -/
def flushDesc (e : Nat) (s : State) : State :=
  forAll (List.range (nHosts s)) (fun h s =>
    if (getEng s e).main.flushedPorts.contains h || !mayIssue s || hostBlocked s e then s
    else match lastPosted s h (descWrite e) with
      | none => s
      | some w =>
        if bmeOf s w.fn then
          modMain e (fun t => { t with flushedPorts := h :: t.flushedPorts }) (flushAt h (descWrite e) (.flushAll e) s)
        else s) s

/-- Every write of the descriptor outside its moves is confirmed or has failed. -/
def descSettled (s : State) (e : Nat) : Bool :=
  !anyOut (fun p => descWrite e p || p == .flushAll e) s && !anyPosted (descWrite e) s

/-! ### Speculative work and its loss (R164) -/

/-- Held headers that read OWN = 1 and were read ahead. -/
def aheadOwn (s : State) (e : Nat) : List Held := (getEng s e).ahead.filter (fun h => !h.atPc && hdrOwn (lvlOf s e) h.words)
/-- The descriptors a drop counts (R164): those, and the one that runs ahead where its header is not among them. -/
def heldOwn (s : State) (e : Nat) : Nat :=
  (aheadOwn s e).length +
    b2n ((getEng s e).spec.any (fun t => !(aheadOwn s e).any (fun h => h.space == t.aspace && h.addr == t.a)))

/-- A read that an engine has made ahead or speculatively (R154). -/
def specRead (s : State) (e : Nat) : Purpose → Bool
  | .ahead x _ _ _ => x == e
  | .src x _ | .list x => x == e && onSpec s e
  | _ => false

/-- The reads of an engine are no longer wanted; the speculative ones leave no trace (R159). -/
def dropReads (k : Discard) (e : Nat) (s : State) : State :=
  dropIf k (fun p => purposeRead p && purposeEng p == some e) (dropIf .spec (specRead s e) s)

/-- The channel leaves its engine: speculative work and held headers are dropped (R164). -/
def dropSpec (e : Nat) (s : State) : State :=
  let n := heldOwn s e
  modEng e (fun x => { x with spec := none, ahead := [] })
    (modDsp (fun d => { d with specdrop := d.specdrop + BitVec.ofNat 32 n }) (dropReads .plain e s))

/-- Speculative work on the descriptor at PC is discarded (R158, R164). -/
def discardSpec (e : Nat) (s : State) : State :=
  if onSpec s e then
    modEng e (fun x => { x with spec := none })
      (modCtx (chanOf s e) (fun c => { c with f2 := true })
        (modDsp (fun d => { d with specdisc := inc32 d.specdisc })
          (dropIf .spec (fun p => match p with
            | .src x _ => x == e
            | .list x => x == e
            | _ => false) s)))
  else s

def heldAt (s : State) (e : Nat) (sp : BitVec 4) (a : Word) : Option Held :=
  (getEng s e).ahead.find? (fun h => h.space == sp && h.addr == a)

/-- The held headers an engine meets from a place on, and the first place that is not held; none behind a LINKED header. -/
def pathFrom (s : State) (e : Nat) : Nat → BitVec 4 → Word → List Held × Option (BitVec 4 × Word)
  | 0, _, _ => ([], none)
  | k + 1, sp, a =>
    match heldAt s e sp a with
    | none => ([], some (sp, a))
    | some h =>
      if hdrLinked (lvlOf s e) h.words then ([h], none)
      else
        let (l, r) := pathFrom s e k sp (a + w64 (descSize (lvlOf s e)))
        (h :: l, r)

/-- Read-ahead that a LINK has left behind (R138): every held header, and every read of one, that does not lie on the path that
begins at the target. -/
def discardPath (e : Nat) (target : Word) (sp : BitVec 4) (s : State) : State :=
  let x := getEng s e
  let (on, next) := pathFrom s e 6 sp target
  let gone := x.ahead.filter (fun h => !on.contains h)
  let n := (gone.filter (fun h => hdrOwn (lvlOf s e) h.words)).length
  let s := dropIf .spec (fun p => match p with
    | .ahead y _ sp a => y == e && next != some (sp, a)
    | _ => false) s
  let s := modEng e (fun x => { x with ahead := x.ahead.filter (fun h => on.contains h) }) s
  if n == 0 then s
  else modCtx (chanOf s e) (fun c => { c with f2 := true })
         (modDsp (fun d => { d with specdisc := d.specdisc + BitVec.ofNat 32 n }) s)

/-! ### Leaving an engine (R67, R175) -/

/-- The thread is inside an accepted descriptor, or in a direct move (R188). -/
def engMid (s : State) (e : Nat) : Bool :=
  match (getEng s e).main.phase with
  | .resume | .resumeWait | .resumed | .exec | .moving | .hold | .release | .fence | .atomic | .image | .imageHere
  | .table => true
  | _ => false

/-- QDONE becomes 1 when no engine holds a channel or a write-back task any more (R202). -/
def quiesceStep (s : State) : State :=
  if s.dsp.qreq && !s.dsp.qdone && !s.eng.any (fun e => match e.2.hold with
      | .chan _ => true
      | .task _ => true
      | _ => false) then
    modDsp (fun d => { d with qdone := true, qseam := s.seam }) s
  else s

/-- Bytes of a move that have been issued and are not seen confirmed (R395). -/
def unconfirmed (m : Move) : Nat :=
  m.dstNext - m.pfx - (m.conf.map (fun x => x.2)).foldl (· + ·) 0

/-- The entry of the Cairn record for the channel of an engine, with the registers r (R401). -/
def runEntry (s : State) (e : Nat) (r : Regs) : List Word :=
  match (getEng s e).hold with
  | .chan c =>
    let t := (getEng s e).main
    let k := getCtx s c
    let wb := if t.phase == .complete then 1 else if anyOut (· == .word0 e) s || anyPosted (· == .word0 e) s then 2 else 0
    [w64 (c + 2 ^ 23 + k.owner.toNat * 2 ^ 24 + b2n k.direct * 2 ^ 36 + wb * 2 ^ 37 + r.pspace.toNat * 2 ^ 40 +
       r.sspace.toNat * 2 ^ 44 + r.dspace.toNat * 2 ^ 48 + b2n r.sinc * 2 ^ 52 + b2n r.dinc * 2 ^ 53 + 0x33 * 2 ^ 56),
     word5 r, r.s, r.d, w64 (r.n.toNat + ((t.mv.map unconfirmed).getD 0) * 2 ^ 32), r.k0, r.k1,
     w64 (k.seqexp.toNat + k.seqseen.toNat * 2 ^ 32)]
  | _ => List.replicate 8 0

/-- A channel that was RUNNING at WARN leaves its engine in the drain: the record keeps its entry (R401, R404). -/
def keepEntry (e : Nat) (s : State) : State :=
  if s.pf.stage == .drain && holdsChan s e then
    modPf (fun p => { p with left := tset [] p.left e (runEntry s e (getEng s e).main.regs) }) s
  else s

/-- Save the registers and free the engine; the channel's new state is set by the caller (R67). A direct move leaves the marks
of the program the channel stands in. -/
def leaveEng (e : Nat) (s : State) : State :=
  let c := chanOf s e
  let t := (getEng s e).main
  let mid := engMid s e
  let s := disown e c (dropSpec e (keepEntry e s))
  quiesceStep <| modEng e (fun _ => {})
    (modCtx c (fun x => { x with
      regs := t.regs, mid := if x.direct then x.mid else mid, l1 := if x.direct then x.l1 else mid && t.l1
      resume := mid && t.resumed
      acc := if x.direct then x.acc else mid && (t.accessed || t.resumed) }) s)

/-- The channel of an engine becomes STOPPED with a status (R38). An uncorrectable context error found in the meantime governs
the status (R36). -/
def stopEng (e : Nat) (code : Byte) (flags : Option Byte) (s : State) : State :=
  let c := chanOf s e
  let ecc := (getEng s e).ecc
  stopCtx c (if ecc then 0x21 else code) flags (leaveEng e s)

/-! ### Beginning to execute ahead (R156) -/


/-- Begin speculative execution of the next descriptor where R156 allows it. -/
def trySpec (e : Nat) (s : State) : State :=
  let x := getEng s e
  let t := x.main
  let c := getCtx s (chanOf s e)
  if t.phase == .complete && (t.code == 0 || t.code == 1) && x.spec.isNone && s.active.spec.sexec &&
     x.stop == .none && s.pf.stage == .normal then
    match heldAt s e t.regs.pspace t.regs.pc with
    | none => s
    | some h =>
      let l := lvlOf s e
      if hdrOwn l h.words && hdrSeq l h.words == c.seqexp + 1 && hdrLenOk l h.words then
        modEng e (fun x => { x with spec := some {
          regs := { t.regs with pc := t.regs.pc + 8 }, phase := .exec, a := t.regs.pc, aspace := t.regs.pspace,
          words := h.words, seen := h.seen, code := t.code } }) s
      else s
  else s

/-! ### Completion (R145 to R148) -/

/-- The status word of R150. -/
def statusWord (code flags : Byte) (n : Half) : Word := put 64 code 56 ||| put 64 flags 48 ||| put 64 n 0

/-- Word 3 of a level 1 descriptor with the outcome (R105, R106). -/
def quernStatus (w3 : Word) (code flags : Byte) : Word :=
  masked w3 (put 64 code 24 ||| put 64 (bits flags 0 4) 56 ||| (1 : Word) <<< 63) 0x8F000000FF000000
/-- Word 2 with the residual (R106). -/
def quernCount (w2 : Word) (n : Half) : Word := masked w2 (put 64 n 0) 0xFFFFFFFF

/-- A write-back failed (R148): the channel stops behind the descriptor. -/
def wbFault (e : Nat) (code : Byte) (s : State) : State :=
  let c := chanOf s e
  let t := (getEng s e).main
  let fn := fnOf s e
  let x := getCtx s c
  let s := stopEng e code (some t.flags)
    (modCtx c (fun x => { x with seqexp := if x.direct then x.seqexp else x.seqexp + 1 }) s)
  evWbFault fn c (if x.direct then x.notify else t.a) (directOver c s)

/-- An engine presents an access: what is issued is also a transfer at the crossbar (R216, R220). -/
def xCount (f : State → State) : Iss × State → Iss × State
  | (.go, s) => (.go, f s)
  | x => x
def engRead (e : Nat) (r : RdReq) (s : State) : Iss × State := xCount (xEngRead e) (issueRead r s)
def engWrite (e : Nat) (w : WrReq) (s : State) : Iss × State := xCount (xEng e w.data.length) (issueWrite w s)

/-- Present one write of the completion; a denial ends it under R148. -/
def wbWrite (e : Nat) (sp : BitVec 4) (a v : Word) (pu : Purpose) (s : State) : Bool × State :=
  match engWrite e { who := whoOf s e, space := sp, addr := a, data := bytesOf v 8, purpose := pu } s with
  | (.denied, s) => (false, wbFault e 0x20 s)
  | (_, s) => (true, s)

/-- Step 2 of R145: the status write, or the two writes of level 1 (R106). -/
def statusWrite (e : Nat) (s : State) : State :=
  let t := (getEng s e).main
  if lvlOf s e == 1 then
    match wbWrite e t.aspace (t.a + 16) (quernCount (nthWord t.words 2) t.regs.n) (.status2 e) s with
    | (false, s) => s
    | (true, s) => (wbWrite e t.aspace (t.a + 24) (quernStatus (nthWord t.words 3) t.code t.flags) (.status e) s).2
  else
    (wbWrite e t.aspace (t.a + 56) (statusWord t.code t.flags t.regs.n) (.status e) s).2

/-- The flags at a start of completion, with the notice bit and F2 read and cleared (R153, R256). -/
def takeFlags (e : Nat) (b r : Bool) (s : State) : Byte × State :=
  let c := chanOf s e
  let fn := fnOf s e
  (flagsOf (noticeOf s fn) b (getCtx s c).f2 r,
   modCtx c (fun x => { x with f2 := false }) (noticeClear fn s))

/-- Steps 1 and 2 of R145 for the descriptor an engine runs. -/
def beginComplete (e : Nat) (code : Byte) (next : Word × BitVec 4) (s : State) : State :=
  let t := (getEng s e).main
  let (fl, s) := takeFlags e t.regs.b t.resumed s
  let s := modMain e (fun t => { t with
    phase := .complete, code := code, flags := fl, flushedPorts := [], mv := none
    regs := { t.regs with pc := next.1, pspace := next.2, z := false, c := false, b := false } }) s
  let s := statusWrite e s
  trySpec e s

/-- A channel's boundary after step 5: yield, or go on with the header at PC (R141, R177). -/
def nextDesc (e : Nat) (s : State) : State :=
  modMain e (fun t => { regs := t.regs, phase := if (heldAt s e t.regs.pspace t.regs.pc).isSome then .fetched else .fetch }) s

/-- An entry this engine may take whose deadline is earlier than the held channel's would be (R177). -/
def earlierWaits (s : State) (e c : Nat) : Bool :=
  let mine := deadlineOf s (getCtx s c).dc (stampNow s)
  (List.range 16).any (fun k => takesClass s e (BitVec.ofNat 4 k) &&
    (queueWindow s (BitVec.ofNat 4 k)).any (fun r => !cacheBlocked s r.chan &&
      (overAge s r.stamp || before32 (deadlineOf s r.cls r.stamp) mine)))

/-- R177 at a descriptor boundary. -/
def yieldOrNext (e : Nat) (s : State) : State :=
  let y := s.active.disp.yield.toNat
  let x := getEng s e
  let c := chanOf s e
  if y != 0 && decide (y * 1000 ≤ (s.time - x.taken).toNat) && earlierWaits s e c && x.stop == .none then
    toReady c (breakOnLeave c none (modDsp (fun d => { d with yields := inc32 d.yields }) (leaveEng e (nextDesc e s))))
  else nextDesc e s

/-- Steps 4 and 5 of R145, once every confirmation of step 3 has arrived. -/
def finishComplete (e : Nat) (s : State) : State :=
  let t := (getEng s e).main
  let c := chanOf s e
  match t.wrFail with
  | some code => wbFault e code s
  | none =>
    let l := lvlOf s e
    let w := if l == 1 then masked (quernStatus (nthWord t.words 3) t.code t.flags) 0 ((1 : Word) <<< 63)
             else masked (nthWord t.words 0) 0 ((1 : Word) <<< 63)
    let a := if l == 1 then t.a + 24 else t.a
    match wbWrite e t.aspace a w (.word0 e) s with
    | (false, s) => s
    | (true, s) =>
      let s := xbreak e s
      let s := modCtx c (fun x => { x with lastcode := t.code, lastflags := t.flags, seqexp := x.seqexp + 1 }) s
      if t.code == 0 || t.code == 1 then
        if isTask s e then stopEng e t.code (some t.flags) s else yieldOrNext e s
      else stopEng e t.code (some t.flags) (nextDesc e s)

/-! ### Direct mode (R56, R57) -/

/-- The end of step 1 of R56: flags are fixed, and the notify word is written when NTFY is 1. A direct move that failed the
checks of R57 writes none. -/
def endDirect (e : Nat) (code : Byte) (noNotify : Bool) (s : State) : State :=
  let c := getCtx s (chanOf s e)
  let t := (getEng s e).main
  let (fl, s) := takeFlags e false t.resumed s
  let s := modMain e (fun t => { t with phase := .dnotify, code := code, flags := fl, flushedPorts := [], mv := none }) s
  if c.ntfy && !noNotify then
    (wbWrite e c.nspace c.notify (statusWord code fl t.regs.n) (.dnotify e) s).2
  else s

/-- Step 3 of R56. An abort that came during the completion then ends the channel (R201). -/
def finishDirect (e : Nat) (s : State) : State :=
  let t := (getEng s e).main
  let c := chanOf s e
  match t.wrFail with
  | some code => wbFault e code s
  | none =>
    let x := getEng s e
    let ended :=
      if !(t.code == 0 || t.code == 1) || x.ecc then stopEng e t.code (some t.flags) s
      else if x.stop == .abort then
        let (fl, s) := takeFlags e false false s
        stopEng e 0x30 (some fl) s
      else
        modCtx c (fun x => { x with st := .idle, lastcode := t.code, lastflags := t.flags, abort := false })
          (breakOnLeave c none (leaveEng e s))
    directOver c ended

/-! ### Movement work (R376) -/

/-- The seventeen result words of a piece of movement work (R375, R376). -/
def workResult (e : Nat) (t : Thread) : List Word :=
  [w64 (t.code.toNat * 2 ^ 8 + t.flags.toNat * 2 ^ 16 + t.regs.n.toNat * 2 ^ 32), t.regs.s, t.regs.d, t.regs.k0,
   t.regs.k1, t.regs.k2, t.regs.k3, w64 (t.regs.sspace.toNat + t.regs.dspace.toNat * 16 + e * 2 ^ 16)]

/-- The program of a piece of work has ended with a status: its writes are confirmed next. -/
def endWork (e : Nat) (code : Byte) (s : State) : State :=
  modMain e (fun t => { t with phase := .workEnd, code := code, flags := flagsOf false t.regs.b false false,
                               flushedPorts := [], mv := none }) s

/-- The slot receives the outcome, and the engine is free. A failed confirmation of step 3 is the work's status. Work that ends
with the drain is not reported (R379). -/
def finishWork (e : Nat) (s : State) : State :=
  match (getEng s e).hold with
  | .work core slot =>
    let t := (getEng s e).main
    let t := { t with code := if t.code == 0 || t.code == 1 then t.wrFail.getD t.code else t.code }
    modEng e (fun _ => {}) (if s.pf.stage == .normal then svcDone core slot (workResult e t) s else s)
  | _ => s

/-! ### How an instruction ends -/

/-- The descriptor of an engine ends with a status, at the descriptor after it (R137). Under a function stop none does: the
engine saves its registers where it stands (R282). None does in the drain, which begins no completion (R396). -/
def endDescr (e : Nat) (code : Byte) (s : State) : State :=
  if (getEng s e).stop == .fn || s.pf.stage != .normal then modMain e (fun t => { t with phase := .exec }) s
  else if isWork s e then endWork e code s
  else if (getCtx s (chanOf s e)).direct then endDirect e code false s
  else
    let t := (getEng s e).main
    beginComplete e code (t.a + w64 (descSize (lvlOf s e)), t.aspace) s

/-- DONE or DONE_EMPTY (R74). -/
def doneCode (t : Thread) : Byte := if t.accessed || t.resumed then 0 else 1

/-- The status of a direct move that succeeds (R56). -/
def directCode (s : State) (e : Nat) (t : Thread) : Byte :=
  if (getCtx s (chanOf s e)).zeroGo && !t.resumed then 1 else 0

/-- An instruction fails (R73). On the speculative thread the failure is kept until acceptance (R162). -/
def failInstr (e : Nat) (code : Byte) (s : State) : State :=
  if onSpec s e then modThr e (fun t => { t with phase := .failed, code := code }) s
  else endDescr e code s

/-- The program of the current thread has ended at END or behind its last word (R72, R99). A speculative thread keeps where
the next descriptor stands. -/
def endProgram (e : Nat) (s : State) : State :=
  if onSpec s e then
    modThr e (fun t => { t with
      phase := .complete
      regs := { t.regs with pc := t.a + w64 (descSize (lvlOf s e)), pspace := t.aspace } }) s
  else endDescr e (doneCode (getEng s e).main) s

/-- An instruction of n words retires; behind the last program word an END stands (R72). -/
def retire (e n : Nat) (s : State) : State :=
  let s := modThr e (fun t => { t with phase := .exec, mv := none, regs := { t.regs with pc := t.regs.pc + w64 (8 * n) } }) s
  if pastEnd s e (thr s e) then endProgram e s else s

/-- The MOVE, MOVL or direct move of an engine has moved every byte (R81, R56). -/
def retireMove (e : Nat) (s : State) : State :=
  if !isWork s e && !onSpec s e && (getCtx s (chanOf s e)).direct then
    endDirect e (directCode s e (getEng s e).main) false s
  else retire e 1 s

end Sys2Proof.Machine
end

