-- ==== Sys2Proof/Machine/MoveOps.lean ====
section
/-! DEFINITION. The moving of bytes (04): checks, source bursts, staging, destination bursts, confirmation, failure, the list
side of MOVL, and what an engine does after each answer. -/

namespace Sys2Proof.Machine

/-! ### Checks before the first access (R108, R127) -/

/-- The windows of a channel; movement work has none (R376). -/
def srcWindow (s : State) (e : Nat) (sp : BitVec 4) (a : Word) (n : Nat) (inc : Bool) : Bool :=
  let c := getCtx s (chanOf s e)
  if isWork s e then workWindowOk sp a n inc else windowOk sp c.swspace c.swbase c.swlimit a n inc
def dstWindow (s : State) (e : Nat) (sp : BitVec 4) (a : Word) (n : Nat) (inc : Bool) : Bool :=
  let c := getCtx s (chanOf s e)
  if isWork s e then workWindowOk sp a n inc else windowOk sp c.dwspace c.dwbase c.dwlimit a n inc

/-- The checks of R108 for a MOVE with registers r. -/
def moveCheck (s : State) (e : Nat) (r : Regs) : Option Byte :=
  let n := r.n.toNat
  if !(dataSpaceOk s (isWork s e) r.sspace && dataSpaceOk s (isWork s e) r.dspace && portAddrOk s r.sspace r.s &&
       portAddrOk s r.dspace r.d && paceOk s r.k3) then some 0x12
  else if !(aligned r.s 4 && aligned r.d 4 && n % 4 == 0) then some 0x10
  else if n == 0 then none
  else if !srcWindow s e r.sspace r.s n r.sinc then some 0x11
  else if !dstWindow s e r.dspace r.d n r.dinc then some 0x11
  else none

/-- The checks of R127 for a MOVL: scatter or gather, list space. -/
def movlCheck (s : State) (e : Nat) (r : Regs) (scat : Bool) (lsp : BitVec 4) : Option Byte :=
  let n := r.n.toNat
  let k1 := r.k1.toNat
  let side := if scat then r.d else r.s
  let contOk := if scat then portAddrOk s r.sspace r.s else portAddrOk s r.dspace r.d
  let sideOk := k1 == 0 || (if scat then portAddrOk s r.dspace r.d else portAddrOk s r.sspace r.s)
  if !(listSpaceOk s lsp && dataSpaceOk s (isWork s e) r.sspace && dataSpaceOk s (isWork s e) r.dspace && contOk && sideOk &&
       paceOk s r.k3) then some 0x12
  else if !(aligned r.k0 16 && n % 4 == 0 && aligned (if scat then r.s else r.d) 4 &&
            (k1 == 0 || (k1 % 4 == 0 && aligned side 4))) then some 0x10
  else if n == 0 then none
  else if !(if scat then srcWindow s e r.sspace r.s n r.sinc else dstWindow s e r.dspace r.d n r.dinc) then some 0x11
  else if k1 != 0 && !(if scat then dstWindow s e r.dspace side (min k1 n) true
                       else srcWindow s e r.sspace side (min k1 n) true) then some 0x11
  else none

/-- The move an engine begins with registers r. -/
def newMove (r : Regs) (ord : BitVec 2) (nospec brkb : Bool) (l : Option ListSide) : Move :=
  { n0 := r.n.toNat, s0 := r.s, d0 := r.d, sinc := r.sinc, dinc := r.dinc, swap := r.swap, sspace := r.sspace,
    dspace := r.dspace, ord := ord, nospec := nospec, brkb := brkb, list := l }

/-! ### The list of a MOVL (R84, R128 to R131) -/

/-- The list side of a MOVL before an entry of it has been taken: a K1 that is not 0 continues the current entry (R85), capped at
N and taken as not LAST (log entry 70). -/
def startList (scat : Bool) (lsp : BitVec 4) (k0 reg : Word) (k1 : Nat) : ListSide :=
  { scatter := scat, lspace := lsp, next := k0, covered := k1, k0 := k0, reg0 := reg, k1 := k1,
    taken := if k1 == 0 then [] else [{ at_ := k0 - 16, off := 0, addr := reg, len := k1, last := false }] }
def newList (r : Regs) (scat : Bool) (lsp : BitVec 4) : ListSide :=
  startList scat lsp r.k0 (if scat then r.d else r.s) (min r.k1.toNat r.n.toNat)

/-- The entry that holds the stream byte at an offset. -/
def entryAt (l : ListSide) (off : Nat) : Option ListEntry :=
  l.taken.find? (fun x => decide (x.off ≤ off) && decide (off < x.off + x.len))

/-- Registers of the list side for a confirmed prefix (R131): K0, K1 and the list-side register. -/
def listRegs (l : ListSide) (ended : Bool) (p : Nat) : Word × Nat × Word :=
  let after := ((l.taken.filter (fun x => decide (0 < x.len) && decide (x.off + x.len ≤ p))).getLast?.map
    (fun x => x.addr + w64 x.len)).getD l.reg0
  match entryAt l p with
  | some x =>
    if decide (x.off < p) || (l.k1 != 0 && x.off == 0) then
      (x.at_ + 16, x.off + x.len - p, x.addr + w64 (p - x.off))
    else (match l.taken.find? (fun y => decide (p ≤ y.off)) with
          | some y => (y.at_, 0, after)
          | none => (x.at_, 0, after))
  | none =>
    if ended then (l.next, 0, after)
    else match l.taken.find? (fun y => decide (p ≤ y.off)) with
      | some y => (y.at_, 0, after)
      | none => (l.next, 0, after)

/-- Registers with the progress of a move (R120, R126, R131). -/
def moveRegs (r : Regs) (m : Move) : Regs :=
  let n : Half := BitVec.ofNat 32 (m.n0 - m.pfx)
  match m.list with
  | none => { r with n := n, s := if m.sinc then m.s0 + w64 m.pfx else m.s0, d := if m.dinc then m.d0 + w64 m.pfx else m.d0 }
  | some l =>
    let ended := match m.fail, l.taken.getLast? with
      | some (f, c, _), some x => f == l.covered && c == 0x13 && x.last
      | _, _ => false
    let (k0, k1, reg) := listRegs l ended m.pfx
    if l.scatter then
      { r with n := n, k0 := k0, k1 := w64 k1, d := reg, s := if m.sinc then m.s0 + w64 m.pfx else m.s0 }
    else
      { r with n := n, k0 := k0, k1 := w64 k1, s := reg, d := if m.dinc then m.d0 + w64 m.pfx else m.d0 }

def modMv (e : Nat) (f : Move → Move) (s : State) : State := modThr e (fun t => { t with mv := t.mv.map f }) s

/-- The failure with the lowest stream offset stands (R124). -/
def addFail (off : Nat) (code : Byte) (src : Bool) (m : Move) : Move :=
  match m.fail with
  | some (f, _, _) => if off < f then { m with fail := some (off, code, src) } else m
  | none => { m with fail := some (off, code, src) }

/-- The address and space a source burst begins at. -/
def srcAt (m : Move) (off : Nat) : Word :=
  match m.list with
  | some l =>
    if l.scatter then (if m.sinc then m.s0 + w64 off else m.s0)
    else match entryAt l off with
      | some x => x.addr + w64 (off - x.off)
      | none => m.s0
  | none => if m.sinc then m.s0 + w64 off else m.s0
def dstAt (m : Move) (off : Nat) : Word :=
  match m.list with
  | some l =>
    if l.scatter then (match entryAt l off with
      | some x => x.addr + w64 (off - x.off)
      | none => m.d0)
    else (if m.dinc then m.d0 + w64 off else m.d0)
  | none => if m.dinc then m.d0 + w64 off else m.d0

/-- Bytes a burst of a side may carry from an offset: to the end of the entry on the list side (R130). -/
def srcLeft (m : Move) (off : Nat) : Nat :=
  match m.list with
  | some l => if l.scatter then m.n0 - off else (match entryAt l off with
      | some x => x.off + x.len - off
      | none => 0)
  | none => m.n0 - off
def dstLeft (m : Move) (off : Nat) : Nat :=
  match m.list with
  | some l => if l.scatter then (match entryAt l off with
      | some x => x.off + x.len - off
      | none => 0) else m.n0 - off
  | none => m.n0 - off

/-- The end of the bytes that may still be read: a failure ends reading at its offset (R124). -/
def readEnd (m : Move) : Nat := match m.fail with
  | some (f, _, _) => f
  | none => m.n0

/-- Entries with bytes that are not yet confirmed (R130). -/
def openEntries (m : Move) : Nat := match m.list with
  | some l => (l.taken.filter (fun x => decide (0 < x.len) && decide (m.pfx < x.off + x.len))).length
  | none => 0

/-- The next source burst needs list entries that have not become current. -/
def needEntry (m : Move) : Bool :=
  match m.list with
  | none => false
  | some l => decide (l.covered < m.n0) && m.fail.isNone &&
      (if l.scatter then decide (l.covered < m.srcNext + burstLen m.sinc (srcAt m m.srcNext) (m.n0 - m.srcNext))
       else l.covered == m.srcNext)

/-- The block at an address, its read issued or in hand. -/
def blockAt (l : ListSide) (a : Word) : Option ListBlock := l.blocks.find? (fun b => b.addr == a)

/-- The next entry, when its block is in hand: the status of the block's read, and the two words. -/
def nextEntry (l : ListSide) : Option (Byte × Word × Word) :=
  let a := alignDown l.next 64
  match blockAt l a with
  | some { addr := _, got := some (code, ws), ready := true } =>
    let i := (l.next - a).toNat / 8
    some (code, nthWord ws i, nthWord ws (i + 1))
  | _ => none

/-- The entry after the next one is the next; a block that holds no further entry is let go. -/
def passEntry (l : ListSide) : ListSide :=
  let a := alignDown l.next 64
  { l with next := l.next + 16, blocks := if alignDown (l.next + 16) 64 == a then l.blocks else l.blocks.filter (fun b => b.addr != a) }

/-- The checks of R128 for an entry that becomes current; a reserved bit is looked at before LEN = 0 (log entry 70). -/
def entryCheck (s : State) (e : Nat) (m : Move) (l : ListSide) (a : Word) (raw : Nat) (w1 : Word) : Option Byte :=
  let n := min raw (m.n0 - l.covered)
  let sp := if l.scatter then m.dspace else m.sspace
  if !zeroAt w1 32 31 then some 0x13
  else if raw == 0 then none
  else if !portAddrOk s sp a then some 0x12
  else if !(aligned a 4 && raw % 4 == 0) then some 0x10
  else if !(if l.scatter then dstWindow s e sp a n true else srcWindow s e sp a n true) then some 0x11
  else none

/-- Take entries from the block in hand as far as the next burst needs them (R84, R128, R129). -/
def takeEntries (s : State) (e : Nat) : Nat → Move → Move
  | 0, m => m
  | k + 1, m =>
    match m.list with
    | none => m
    | some l =>
      if !needEntry m then m
      else if (l.taken.getLast?.map (·.last)).getD false then addFail l.covered 0x13 true m
      else match nextEntry l with
        | none => m
        | some (code, a, w1) =>
          let raw := fld w1 0 32
          if code != 0 then addFail l.covered code true m
          else match entryCheck s e m l a raw w1 with
            | some code => addFail l.covered code true m
            | none =>
              let n := min raw (m.n0 - l.covered)
              takeEntries s e k { m with list := some { passEntry l with
                covered := l.covered + n
                taken := l.taken ++ [{ at_ := l.next, off := l.covered, addr := a, len := n, last := bit w1 63 }] } }

/-- An unconfirmed NOTIFY or UNLK write of the current descriptor stands in a space (R160). -/
def notifyOut (s : State) (e : Nat) (sp : BitVec 4) : Bool :=
  if sp == 0 then s.lm.any (fun r => r.purpose == .notify e || r.purpose == .unlkRelease e)
  else hostSpace s sp && (getHp s (sp.toNat - 1)).posted.any (fun w => w.purpose == .notify e)

/-- The block after the one that holds the current entry (R84). -/
def aheadBlock (l : ListSide) : Option Word := l.taken.getLast?.bind (fun x => if x.last then none else some (alignDown x.at_ 64 + 64))

/-- The list read that an engine may issue now: the block of the next entry when it is needed, else the one block read ahead
while an entry moves, which the flag tells (R84). On the speculative thread one block is read (R160, R161). -/
def listDue (s : State) (e : Nat) (m : Move) (l : ListSide) : Option (Word × Bool) :=
  let a := alignDown l.next 64
  if m.held || m.fail.isSome || (getEng s e).stopping || (getEng s e).stop != .none || hostBlocked s e then none
  else if needEntry m && (blockAt l a).isNone then
    if onSpec s e && (l.specRead || (getEng s e).main.fenceR || notifyOut s e l.lspace) then none else some (a, false)
  else if !onSpec s e && decide (l.covered < m.n0) && ((blockAt l a).map (·.ready)).getD true then
    (aheadBlock l).bind (fun b => if (blockAt l b).isNone then some (b, true) else none)
  else none

/-- Read a block of the list (R84). On the speculative thread, and ahead of the entries in use, it is a probe, which the gate
answers only where it delivers PREFETCHABLE. -/
def fetchList (e : Nat) (s : State) : State :=
  match (thr s e).mv with
  | none => s
  | some m =>
    match m.list with
    | none => s
    | some l =>
      match listDue s e m l with
      | none => s
      | some (a, ahead) =>
        match engRead e { who := whoOf s e, space := l.lspace, addr := a, len := 64, spec := onSpec s e || ahead,
                          purpose := .list e } s with
        | (.go, s) => modThr e (fun t => { t with accessed := true })
            (modMv e (fun m => { m with list := m.list.map (fun l => { l with
              blocks := l.blocks ++ [{ addr := a }], specRead := l.specRead || onSpec s e }) }) s)
        | (.denied, s) => modMv e (addFail l.covered 0x20 true) s
        | (.failed c, s) => modMv e (addFail l.covered c true) s
        | (.held, s) =>
          if ahead then s
          else modDsp (fun d => { d with specheld := inc32 d.specheld }) (modMv e (fun m => { m with held := true }) s)
        | (.barred, s) => s

/-- The first stream offset whose destination byte is undefined because the ranges of a move overlap in control memory, where the
block holds the bytes itself (R114; log entry 70). -/
def overlapFrom (m : Move) : Option Nat :=
  if m.sspace != 6 || m.dspace != 6 then none
  else
    let taken := (m.list.map (·.taken)).getD []
    let scat := (m.list.map (·.scatter)).getD false
    let src := if m.list.isSome && !scat then taken.map (fun x => (x.addr.toNat, x.len))
               else [(m.s0.toNat, if m.sinc then m.n0 else 4)]
    let dst := if scat then taken.map (fun x => (x.off, x.addr.toNat, x.len)) else [(0, m.d0.toNat, if m.dinc then m.n0 else 4)]
    (dst.flatMap (fun y => src.filterMap (fun x =>
      let lo := max x.1 y.2.1
      if lo < min (x.1 + x.2) (y.2.1 + y.2.2) then some (y.1 + (lo - y.2.1)) else none))).foldl
        (fun best o => some (min o (best.getD o))) none

/-- An entry of a gather list that has become current makes destination bytes undefined that were written before it (R114): they
take free values behind the writes that stand in front of control memory. -/
def overlapLate (old m : Move) (s : State) : State :=
  let hi := min m.dstNext ((overlapFrom old).getD m.dstNext)
  match overlapFrom m with
  | none => s
  | some lo =>
    if hi ≤ lo then s
    else
      let n := if m.dinc then hi - lo else 4
      let (f, s) := drawBytes ((n + 7) / 8) s
      let a := if m.dinc then m.d0 + w64 lo else m.d0
      undefJoin { s with cwait := s.cwait ++ [{ addr := a, data := f.take n, purpose := .dropped, undef := true }] }

/-- Take what the next burst needs, and read the next block if it is not in hand. -/
def listStep (e : Nat) (s : State) : State :=
  let old := (thr s e).mv
  let s := modThr e (fun t => { t with mv := t.mv.map (takeEntries s e 4096) }) s
  fetchList e (match old, (thr s e).mv with
    | some o, some m => overlapLate o m s
    | _, _ => s)

/-! ### Source bursts (R117 to R120, R160, R161) -/

/-- ORD of a MOVE as an ordering (R82). -/
def ordOf (o : BitVec 2) : Order := match o.toNat with
  | 2 => .idOrdered
  | 3 => .strict
  | _ => .relaxed

/-- The source bursts of one host read request from an offset: offset and length of each, up to a limit in bytes. The bytes
before a failure are read even where they end inside a burst (R125). -/
def groupBursts (m : Move) : Nat → Nat → Nat → List (Nat × Nat)
  | 0, _, _ => []
  | k + 1, off, room =>
    let n := min (burstLen m.sinc (srcAt m off) (srcLeft m off)) (readEnd m - off)
    if n == 0 || decide (room < n) then [] else (off, n) :: groupBursts m k (off + n) (room - n)

/-- What the next SOURCE_BURST_ISSUE presents: one burst, or on an incrementing host side the bursts of one read request
(R119), within the 64 KiB of reads in flight. A burst that must be read again goes first, once the descriptor is confirmed
(R165). -/
def nextBursts (s : State) (e : Nat) (m : Move) : List (Nat × Nat) :=
  if !m.again.isEmpty then (if onSpec s e then [] else m.again.take 1) else
  let off := m.srcNext
  let n := min (burstLen m.sinc (srcAt m off) (srcLeft m off)) (readEnd m - off)
  let inc := m.sinc || (match m.list with
    | some l => !l.scatter
    | none => false)
  let room := 65536 - (m.srcNext - m.dstNext)
  if n == 0 || decide (room < n) then []
  else if hostSpace s m.sspace && inc then
    let h := m.sspace.toNat - 1
    let mrrs := mrrsOf s (hostFn s (whoOf s e) h)
    let lim := min (min mrrs (4096 - (srcAt m off).toNat % 4096)) (min (srcLeft m off) room)
    if mrrs < 256 then [(off, n)] else groupBursts m 16 off lim
  else [(off, n)]

/-- Present the read of a burst, which its gate checks as a whole (R246), and which is one transfer of the engine's. The host
port unit makes read requests of it: on a fixed side one of 4 bytes per granule (R115), and none longer than the maximum read
request size (R119). -/
def readBurst (e : Nat) (m : Move) (off n : Nat) (s : State) : Iss × State :=
  let a := srcAt m off
  let inc := m.sinc || (match m.list with
    | some l => !l.scatter
    | none => false)
  let r : RdReq := { who := whoOf s e, space := m.sspace, addr := a, len := n, fix := !inc, spec := onSpec s e,
                     ord := ordOf m.ord, purpose := .src e off }
  let step := if hostSpace s m.sspace then (if inc then mrrsOf s (hostFn s r.who (m.sspace.toNat - 1)) else 4) else n
  if n ≤ step then engRead e r s
  else xCount (xEngRead e) (issueReadBy (fun r v s => forAll (List.range ((n + step - 1) / step)) (fun i s =>
    sendRead { r with addr := if inc then a + w64 (i * step) else a, len := min step (n - i * step),
                      purpose := .src e (off + i * step) } v s) s) r s)

/-- A burst boundary of a MOVE with BRKB is a break point (R80, R217), which a speculative burst does not declare (R159). -/
def burstBreak (e : Nat) (m : Move) (s : State) : State := if m.brkb && !onSpec s e then xbreak e s else s

/-- Present the bursts of one step in order: the allowed ones before the first that is denied or held become one request of the
host port unit, with the strongest of their orderings (R119; log entry 78). Each is a transfer of the engine's, with a boundary
behind it. Answers the bytes issued and what stopped it. -/
def presentBursts (e : Nat) (m : Move) (s : State) : Nat × Iss × State :=
  match nextBursts s e m with
  | [] => (0, .barred, s)
  | (off, n) :: rest =>
    if rest.isEmpty then
      match readBurst e m off n s with
      | (.go, s) => (n, .go, burstBreak e m s)
      | (x, s) => (0, x, s)
    else
      let h := m.sspace.toNat - 1
      let w := whoOf s e
      if !mayRead s || !bmeOf s (hostFn s w h) then (0, .barred, s)
      else
        let bs := (off, n) :: rest
        let req (b : Nat × Nat) : RdReq := { who := w, space := m.sspace, addr := srcAt m b.1, len := b.2, spec := onSpec s e,
                                             ord := ordOf m.ord, purpose := .src e b.1 }
        let good (b : Nat × Nat) : Bool := let v := readVerdict s (req b); v.ok && (!onSpec s e || v.pref)
        let oks := bs.takeWhile good
        let len := (oks.map (·.2)).foldl (· + ·) 0
        let o := (oks.map (fun b => (readVerdict s (req b)).order)).foldl stronger (ordOf m.ord)
        let s1 := if len == 0 then s
                  else
                    let r : HostWait := { fn := hostFn s w h, addr := srcAt m off, len := len, purpose := .src e off, order := o,
                                          dl := dlOf s (.src e off) }
                    hostRead h r (forAll oks (fun _ s => burstBreak e m (xEngRead e s)) s)
        match bs.drop oks.length with
        | [] => (len, .go, s1)
        | b :: _ =>
          if onSpec s e then (len, .held, s1)
          else
            let r := req b
            (len, .denied, denyPrecise (gateOf s r.space r.addr) w .rd r.addr r.len (readVerdict s r) s1)

/-- Speculative source reads are allowed for the current move (R160, R161). A move paced on its destination reads nothing
speculatively either (log entry 79). -/
def specMayRead (s : State) (e : Nat) (m : Move) : Bool :=
  let t := thr s e
  let lim := (min s.active.spec.sahead.toNat 16) * 1024
  let n := ((nextBursts s e m).map (·.2)).foldl (· + ·) 0
  !m.nospec && !m.held && !pacedSide t.regs.k3 true m.sspace (srcAt m m.srcNext) &&
  !pacedSide t.regs.k3 false m.dspace (dstAt m m.srcNext) &&
  decide (m.specBytes + n ≤ lim) && !(getEng s e).main.fenceR && !notifyOut s e m.sspace

/-- The burst boundary evaluation of pacing (R180): the new pacing state is kept. -/
def evalPace (e : Nat) (s : State) : State :=
  match (thr s e).mv with
  | none => s
  | some m =>
    let k := (thr s e).regs.k3
    if !onSpec s e && (pacedSide k true m.sspace (srcAt m m.srcNext) || pacedSide k false m.dspace (dstAt m m.dstNext)) then
      modEng e (fun x => { x with held := paceEval s k x.held }) s
    else s

/-- HELD stops the source reads of this move (R180). -/
def pacedOut (s : State) (e : Nat) (m : Move) : Bool :=
  let k := (thr s e).regs.k3
  (getEng s e).held && !(getEng s e).stopping &&
  (pacedSide k true m.sspace (srcAt m m.srcNext) || pacedSide k false m.dspace (dstAt m m.dstNext))

/-! ### Destination bursts, flush reads, confirmation -/

/-- Contiguous staged bytes from an offset. -/
def stagedFrom : Nat → List (Nat × List Byte) → List Byte
  | _, [] => []
  | off, (o, d) :: t =>
    if o ≤ off ∧ off < o + d.length then d.drop (off - o) ++ stagedFrom (o + d.length) t
    else stagedFrom off t

def insertStaged (o : Nat) (d : List Byte) : List (Nat × List Byte) → List (Nat × List Byte)
  | [] => [(o, d)]
  | (p, x) :: t => if o < p then (o, d) :: (p, x) :: t else (p, x) :: insertStaged o d t

/-- Staged bytes not yet issued. -/
def stagedBytes (m : Move) : Nat := (m.staged.map (fun x => x.2.length)).foldl (· + ·) 0

/-- The start of the source burst that holds the byte at a stream offset. -/
def srcBurstOff (m : Move) (off : Nat) : Nat :=
  match m.list with
  | some l =>
    if l.scatter then burstStart m.sinc m.s0 off
    else match entryAt l off with
      | some x => x.off + burstStart true x.addr (off - x.off)
      | none => off
  | none => burstStart m.sinc m.s0 off

/-- Staged bytes from an offset that may be written: those of source bursts that have come whole, so that no byte of a burst that
fails is written (R124, R125). -/
def usable (m : Move) (off : Nat) : List Byte :=
  let d := stagedFrom off m.staged
  let x := off + d.length
  if readEnd m ≤ x then d else d.take (srcBurstOff m x - off)

/-- No more source bytes will come before the end of what is to be read: a short destination burst may be formed (R125). The
bytes of the entries before a bad one of a scatter list are still read (R128). -/
def srcDone (s : State) (e : Nat) (m : Move) : Bool :=
  ((getEng s e).stopping || (m.fail.isSome && decide (readEnd m ≤ m.srcNext) && m.again.all (fun x => decide (readEnd m ≤ x.1)))) && !anyOut (fun p => match p with
    | .src x off => x == e && decide (off < readEnd m)
    | _ => false) s

/-- The next destination burst: its data, when it is complete in staging or may be short. -/
def nextDest (s : State) (e : Nat) (m : Move) : Option (List Byte) :=
  let lim := readEnd m
  let n := min (burstLen (m.dinc || (match m.list with
    | some l => l.scatter
    | none => false)) (dstAt m m.dstNext) (dstLeft m m.dstNext)) (lim - m.dstNext)
  let have_ := (usable m m.dstNext).take n
  if n == 0 then none
  else if decide (131072 < unconfirmed m + n) then none
  else if have_.length == n then some have_
  else if srcDone s e m && have_.length != 0 then some have_
  else none

/-- Merge confirmed segments into the confirmed prefix (R120). -/
def mergeConf : Nat → Move → Move
  | 0, m => m
  | k + 1, m =>
    match pick (fun x => x.1 == m.pfx) m.conf with
    | none => m
    | some (x, r) => mergeConf k { m with pfx := m.pfx + x.2, conf := r }

/-- A destination write is confirmed (R121, R122). -/
def confirm (off len : Nat) (m : Move) : Move :=
  let m := { m with conf := m.conf ++ [(off, len)] }
  mergeConf m.conf.length m

def dstPurpose (e : Nat) : Purpose → Bool
  | .dst x _ => x == e
  | _ => false

/-- The bytes of a destination burst: the swapped stream, and free values from where an overlap makes it undefined (R114, R116). -/
def burstData (m : Move) (off : Nat) (d : List Byte) (s : State) : List Byte × State :=
  let b := swapBytes m.swap d
  match overlapFrom m with
  | none => (b, s)
  | some u =>
    let k := u - off
    if b.length ≤ k then (b, s)
    else
      let (f, s) := drawBytes ((b.length - k + 7) / 8) s
      (b.take k ++ f.take (b.length - k), s)

/-- The SRAM's answer for the next n staged bytes (R418): corrected errors are counted; a byte that cannot be corrected is counted
too and fails its source burst with POISONED_DATA (R124), as far as that has not been written. -/
def sramStaged (e : Nat) (m : Move) (n : Nat) (s : State) : Bool × State :=
  let here (x : Nat × Bool) : Bool := decide (m.dstNext ≤ x.1) && decide (x.1 < m.dstNext + n)
  let hit := m.marred.filter here
  let s := forAll hit (fun x s => if x.2 then corCount 2 s else eccCount 2 s)
    (if hit.isEmpty then s else modMv e (fun m => { m with marred := m.marred.filter (fun x => !here x) }) s)
  match hit.find? (fun x => !x.2) with
  | none => (true, s)
  | some x => (false, modMv e (addFail (max m.dstNext (srcBurstOff m x.1)) 0x23 true) s)

/-- Issue one destination burst from staging (R117), through the gate of an unbuffered target. -/
def destBurst (e : Nat) (m : Move) (d : List Byte) (s : State) : State :=
  let off := m.dstNext
  let fixed := !(m.dinc || (match m.list with
    | some l => l.scatter
    | none => false))
  let (b, s) := burstData m off d s
  let w : WrReq := { who := whoOf s e, space := m.dspace, addr := dstAt m off, data := b, fix := fixed,
                     ord := ordOf m.ord, purpose := .dst e off }
  match engWrite e w s with
  | (.go, s) => burstBreak e m (modMv e (fun m => { m with
      dstNext := off + d.length
      staged := m.staged.filter (fun x => decide (off + d.length < x.1 + x.2.length)) }) s)
  | (.denied, s) => modMv e (addFail off 0x20 false) s
  | (_, s) => s

/-- Flush reads of a move in flight; an engine has at most four (R122). -/
def flushesOut (s : State) (e : Nat) : Nat :=
  (s.hp.map (fun h => (h.2.slots.filter (fun x => match x.2.purpose with
    | .flush y _ _ => y == e && x.2.quarUntil.isNone
    | _ => false)).length + (h.2.wait.filter (fun w => match w.purpose with
    | .flush y _ _ => y == e
    | _ => false)).length)).foldl (· + ·) 0

/-- Issue a flush read behind the host writes of a move, where one is due and may go (R122). -/
def flushIf (due : Move → Bool) (e : Nat) (s : State) : State :=
  match (thr s e).mv with
  | none => s
  | some m =>
    if hostSpace s m.dspace && decide (m.flushed < m.dstNext) && due m && decide (flushesOut s e < 4) && mayIssue s &&
       !hostBlocked s e && bmeOf s (hostFn s (whoOf s e) (m.dspace.toNat - 1)) then
      let lo := m.flushed
      let up := m.dstNext
      let mine : Purpose → Bool := fun p => match p with
        | .dst x off => x == e && decide (lo ≤ off)
        | _ => false
      modMv e (fun m => { m with flushed := up }) (flushAt (m.dspace.toNat - 1) mine (.flush e lo up) s)
    else s

/-- 64 KiB of host writes have been issued since the previous flush read. -/
def flush64 (e : Nat) (s : State) : State := flushIf (fun m => decide (65536 ≤ m.dstNext - m.flushed)) e s

/-- Issue destination bursts as far as staging, pacing and the limit of R395 allow. -/
def drainN (e : Nat) : Nat → State → State
  | 0, s => s
  | k + 1, s =>
    let s := evalPace e s
    match (thr s e).mv with
    | none => s
    | some m =>
      let held := (getEng s e).held && !(getEng s e).stopping &&
        pacedSide (thr s e).regs.k3 false m.dspace (dstAt m m.dstNext)
      if onSpec s e || held || !mayIssue s || s.pf.stage != .normal then s
      else match nextDest s e m with
        | none => s
        | some d => match sramStaged e m d.length s with
          | (false, s) => drainN e k s
          | (true, s) =>
            let s' := flush64 e (destBurst e m d s)
            if ((thr s' e).mv.map (·.dstNext)).getD 0 == m.dstNext then s' else drainN e k s'

/-- No further destination burst will be issued for this move: all are out, or it stops or has failed. -/
def dstDone (s : State) (e : Nat) (m : Move) : Bool :=
  m.dstNext == m.n0 || ((m.fail.isSome || (getEng s e).stopping || s.pf.stage != .normal) && (nextDest s e m).isNone &&
    (srcDone s e m || decide (readEnd m ≤ m.dstNext) || s.pf.stage != .normal))

/-- Issue the flush read of a move when R122 asks for it, and when 256 open entries hold back the source reads, so that they may
close again (R130; log entry 70). -/
def flushMove (e : Nat) (s : State) : State :=
  flushIf (fun m => decide (65536 ≤ m.dstNext - m.flushed) || dstDone s e m || decide (256 ≤ openEntries m)) e s

/-! ### The end of a move -/

/-- Every write of the move that precedes an offset is confirmed or has failed. -/
def dstSettled (s : State) (e : Nat) (m : Move) (lim : Nat) : Bool :=
  !anyOut (fun p => match p with
    | .dst x off => x == e && decide (off < lim)
    | .flush x _ _ => x == e
    | _ => false) s &&
  !anyPosted (fun p => match p with
    | .dst x off => x == e && decide (off < lim) && decide (off < m.flushed)
    | _ => false) s && (!hostSpace s m.dspace || decide (min lim m.dstNext ≤ m.flushed))

/-- A flush read has shown that every write before an offset has landed; a failure before it is not passed (R122, R123). -/
def confirmTo (up : Nat) (m : Move) : Move := { m with pfx := max m.pfx (min up (readEnd m)) }

/-- A move that is over no longer waits for the accesses it has outstanding (R84, R122, R125). -/
def dropMove (e : Nat) (s : State) : State :=
  dropIf .plain (fun p => match p with
    | .src x _ => x == e
    | .dst x _ => x == e
    | .list x => x == e
    | .flush x _ _ => x == e
    | _ => false) s

/-- Put the progress of the move into the registers (R120). -/
def saveMove (e : Nat) (s : State) : State :=
  modThr e (fun t => match t.mv with
    | none => t
    | some m => { t with regs := moveRegs t.regs m }) s

/-- A move that has failed ends once every byte before the failure is settled (R124, R125), a speculative one once its descriptor
is confirmed (R162); one whose bytes are all confirmed retires (R81). -/
def settleMove (e : Nat) (s : State) : State :=
  let x := getEng s e
  match (thr s e).mv with
  | none => s
  | some m =>
    if x.stop == .abort || x.stop == .ecc || x.stop == .fn || s.pf.stage != .normal then s
    else match m.fail with
      | some (f, code, src) =>
        let staged := if src then m.dstNext == f else true
        if !onSpec s e && (staged || (m.dstNext < f && srcDone s e m && (nextDest s e m).isNone)) && dstDone s e m && dstSettled s e m f &&
           !anyOut (fun p => match p with
             | .src y off => y == e && decide (off < f)
             | _ => false) s then
          failInstr e code (dropMove e (saveMove e s))
        else s
      | none => if m.pfx == m.n0 then retireMove e (dropMove e (saveMove e s)) else s

/-! ### Pacing releases (R181, R182) -/

/-- Release the channel of a WAITF once its writes are confirmed (R181). -/
def paceRelease (e : Nat) (s : State) : State :=
  let t := (getEng s e).main
  let c := chanOf s e
  let k := t.regs.k3
  let p := pacePort k
  if 8 ≤ (getPort s p).watch.length then
    modDsp (fun d => { d with pacefull := inc32 d.pacefull })
      (modEng e (fun x => { x with holdAt := s.time, main := { x.main with phase := .hold, flushedPorts := [] } }) s)
  else
    let s := leaveEng e s
    let s := breakOnLeave c none s
    let s := modCtx c (fun x => { x with st := .waiting, pacing := some p }) s
    let w : Watch := { chan := c, high := BitVec.ofNat 6 (paceHigh k), low := BitVec.ofNat 6 (paceLow k), src := paceSrc k }
    let s := modPort p (fun q => { q with watch := q.watch ++ [w] }) s
    let lets := paceResume s p (paceHigh k) (paceLow k) (paceSrc k)
    if lets then modDsp (fun d => { d with wakes := d.wakes ++ [c] }) s else s

/-! ### What an engine does after an answer or an instruction -/

/-- A round of what is being completed: the descriptor before the speculative one, a direct move, movement work. -/
def mainRound (e : Nat) (s : State) : State :=
  match (getEng s e).main.phase with
  | .complete => if descSettled s e then finishComplete e s else flushDesc e s
  | .dnotify => if descSettled s e then s else flushDesc e s
  | .workEnd => if descSettled s e then finishWork e s else flushDesc e s
  | _ => s

/-- A round of the instruction in hand: it issues what it may, and ends what is settled. In the drain nothing retires, so that
no completion begins (R396). -/
def instrRound (e : Nat) (s : State) : State :=
  let t := thr s e
  match t.phase with
  | .moving => settleMove e (flushMove e (drainN e 16400 (listStep e s)))
  | .fence =>
    if descSettled s e && s.pf.stage == .normal then
      match t.wrFail with
      | some code => failInstr e code (modMain e (fun t => { t with wrFail := none, fenceR := false }) s)
      | none => retire e 1 (modMain e (fun t => { t with fenceR := false, flushedPorts := [] }) s)
    else flushDesc e s
  | .release =>
    if (getEng s e).stop != .none then s
    else if descSettled s e && s.pf.stage == .normal then
      match t.wrFail with
      | some code => failInstr e code (modMain e (fun t => { t with wrFail := none }) s)
      | none => paceRelease e s
    else flushDesc e s
  | _ => s

def engRound (e : Nat) (s : State) : State := mainRound e (instrRound e s)

/-- Rounds until nothing changes; nothing moves on once the drain has ended (R396 step 4). An instruction that retires may
begin a completion, and a write that needs no confirmation may end it. -/
def engStep (e : Nat) (s : State) : State :=
  if (getEng s e).stop == .fn || !mayIssue s then s
  else engRound e (engRound e (engRound e (engRound e s)))

end Sys2Proof.Machine
end

