-- ==== Sys2Proof/Machine/AnswerOps.lean ====
section
/-! DEFINITION. What an answer does at the engine it belongs to: read data, write confirmations, flush reads (04, 05, 11), the
end of a function stop (R282), and the end of a gate barrier (R261, R263). -/

namespace Sys2Proof.Machine

/-! ### Function stop (R282) -/

/-- The engine has no LM, port or control-memory write outstanding, and no operation that must retire first. -/
def fnStopReady (s : State) (e : Nat) : Bool :=
  !anyOut (fun p => purposeEng p == some e && !purposeRead p && (match p with
    | .flush _ _ _ => false
    | .flushAll _ => false
    | _ => true)) s &&
  (match (getEng s e).main.phase with
   | .atomic => false
   | .table => false
   | _ => true)

/-- Steps 4 and 5 of R282 for the channel of an engine, and the end of host work (R376). -/
def fnStopEnd (e : Nat) (s : State) : State :=
  if isWork s e then
    let s := modMain e (fun t => match t.mv with
      | some m => { t with regs := moveRegs t.regs m }
      | none => t) s
    let s := dropIf .stop (fun p => purposeEng p == some e) s
    finishWork e (modMain e (fun t => { t with code := 0x31, wrFail := none, mv := none }) s)
  else
    let c := chanOf s e
    let t := (getEng s e).main
    let begun := t.phase == .complete
    let direct := (getCtx s c).direct
    let s := modMain e (fun t => match t.mv with
      | some m => { t with regs := moveRegs t.regs m }
      | none => t) s
    let s := dropIf .stop (fun p => purposeEng p == some e && (match p with
      | .word0 _ => false
      | _ => true)) s
    let (fl, s) := if begun || t.phase == .dnotify then (t.flags, s) else takeFlags e t.regs.b t.resumed s
    let s := modCtx c (fun x => { x with seqexp := if begun && !direct then x.seqexp + 1 else x.seqexp }) s
    let res := engMid s e && !direct && t.resumed
    let s := stopEng e 0x31 (some fl) (modEng e (fun x => { x with ecc := false }) s)
    if direct then directOver c s else modCtx c (fun x => { x with resume := res }) s

/-- An engine that stops for its function ends once its writes are answered. -/
def fnStopTry (e : Nat) (s : State) : State :=
  if (getEng s e).stop == .fn && fnStopReady s e then fnStopEnd e s else s

/-! ### Barriers (R261, R263) -/

/-- An access checked under the old rules of the barrier in progress has not finished. -/
def oldOut (s : State) : Bool :=
  s.lm.any (·.old) || s.cread.any (·.old) || s.cbuf.any (·.old) || s.xback.any (fun a => match a with
    | .rdata _ r _ => r.old
    | _ => false) ||
  s.hp.any (fun e => e.2.slots.any (fun x => x.2.old && x.2.quarUntil.isNone) || e.2.wait.any (·.old) ||
    e.2.posted.any (·.old)) ||
  s.port.any (fun e => e.2.reads.any (·.old) || e.2.rwait.any (·.old) || e.2.sending.any (·.old) || e.2.wbuf.any (·.old))

/-- Old-rule writes that pass a test have finished: what an engine's flush read has confirmed is kept no longer. -/
def endOld (p : HostWrite → Bool) (l : List HostWrite) : List HostWrite :=
  (l.filter (fun w => !(p w && w.done))).map (fun w => if p w then { w with old := false } else w)

/-- Old-rule writes of a function without a barrier flush read, its bus master enable having been 0 at the seam or the read
having been discarded, count as finished once the function's discarded slots are gone (R282, R290). -/
def settleOldPosted (s : State) : State :=
  let gone (h : HostPort) (w : HostWrite) : Bool :=
    w.old && !w.xheld && w.bare && !h.slots.any (fun x => x.2.fn == w.fn && x.2.quarUntil.isNone && x.2.purpose == .dropped)
  { s with hp := tmap (fun _ h => { h with posted := endOld (gone h) h.posted }) s.hp }

/-- The barrier completes when no old-rule access is left (R261 step 6), and Bedrock goes on where the barrier was its own. -/
def barrierStep (s : State) : State :=
  let s := settleOldPosted s
  if s.gate.latched.isSome && !s.gate.armed && !oldOut s then
    let ns := (s.time - s.gate.swapAt).toNat
    barrierDone (evK 3 (modGate (fun g => { g with done := true, latched := none,
                                                   bardrain := BitVec.ofNat 32 (min ns (2 ^ 32 - 1)) }) s))
  else s

/-- An engine moves on after an answer or an act of its own; a read that it withdraws may be the last that a barrier waits for
(R263). -/
def engAfter (e : Nat) (s : State) : State := barrierStep (fnStopTry e (engStep e s))

/-! ### Source bytes (R116, R118, R124, R275) -/

/-- Source bytes reach staging; after WARN they are discarded and counted (R396). -/
def srcBytes (e off : Nat) (d : List Byte) (s : State) : State :=
  if d.isEmpty then s
  else if s.pf.stage != .normal then modPf (fun p => { p with stagedrop := p.stagedrop + d.length }) s
  else modMv e (fun m => if off < readEnd m then { m with staged := insertStaged off d m.staged } else m) s

/-- The source burst at an offset fails (R124). -/
def srcFails (e off : Nat) (code : Byte) (s : State) : State :=
  modMv e (fun m => addFail (srcBurstOff m off) code true m) s

/-- How many of the received bytes of a read from an offset make whole bursts. -/
def wholeBursts (s : State) (e off got len : Nat) : Nat :=
  if got == len then len
  else match (thr s e).mv with
    | none => 0
    | some m => srcBurstOff m (off + got) - off

/-! ### The answer to a read -/

/-- The descriptors in the data of a read from an address; behind a LINKED header nothing is held (R138). -/
def heldFrom (size : Nat) (sp : BitVec 4) (seen : BitVec 24) : Nat → Bool → Word → List Byte → List Held
  | 0, _, _, _ => []
  | k + 1, atPc, a, d =>
    if d.length < size then []
    else
      let ws := wordsOf (d.take size) (size / 8)
      { space := sp, addr := a, words := ws, seen := seen, atPc := atPc } ::
        (if hdrLinked (if size == 32 then 1 else 2) ws then [] else heldFrom size sp seen k false (a + w64 size) (d.drop size))

/-- Two copies of one descriptor; h is at least as recent as y: its read was issued under a later SEQSEEN, or it is the read at
PC, which follows a read ahead (R144, R154). -/
def heldOver (y h : Held) : Bool :=
  y.space == h.space && y.addr == h.addr && seqCovers h.seen y.seen && (h.seen != y.seen || (h.atPc && !y.atPc))

/-- Headers join the held ones; of two copies of a descriptor the one whose read was issued later stays. -/
def holdAll (e : Nat) (hs : List Held) (s : State) : State :=
  modEng e (fun x =>
    let new := hs.filter (fun y => !x.ahead.any (heldOver y))
    { x with ahead := x.ahead.filter (fun h => !new.any (fun y => y.space == h.space && y.addr == h.addr)) ++ new }) s

/-- A block of a list has come, or the status of its failed read. -/
def listBlock (e : Nat) (addr : Word) (code : Byte) (ws : List Word) (s : State) : State :=
  modMv e (fun m => { m with list := m.list.map (fun l => { l with blocks := l.blocks.map (fun b =>
    if b.addr == addr && b.got.isNone then { b with got := some (code, ws) } else b) }) }) s

/-- A read that an engine or the block issued has ended: its data, and behind them a status if it failed (R136, R158, R84, R101,
R124). An extended read at PC that fails behind the descriptor at PC has brought that descriptor (log entry 71). -/
def readEnds (pu : Purpose) (addr : Word) (code : Byte) (data : List Byte) (s : State) : State :=
  match pu with
  | .desc e seen =>
    let size := descSize (lvlOf s e)
    if code != 0 && decide (data.length < size) then modMain e (fun t => { t with phase := .fetched, readErr := some code }) s
    else
      modMain e (fun t => { t with phase := .fetched })
        (holdAll e (heldFrom size (getEng s e).main.regs.pspace seen 5 true addr data) s)
  | .ahead e seen sp _ =>
    if code != 0 then s else trySpec e (holdAll e (heldFrom (descSize (lvlOf s e)) sp seen 5 false addr data) s)
  | .resume e =>
    if code != 0 then modMain e (fun t => { t with phase := .resumed, readErr := some code }) s
    else modMain e (fun t => { t with phase := .resumed, words := wordsOf data (descSize (lvlOf s e) / 8) }) s
  | .src e off => if code != 0 then srcFails e off code s else srcBytes e off data s
  | .list e => listBlock e addr code (wordsOf data 8) s
  | .image e =>
    if code != 0 then failInstr e code s
    else modMain e (fun t => { t with phase := .imageHere, image := data }) s
  | _ => s

/-- The engine that waits for a read goes on, where the answer alone moves it (R118, R122). -/
def readMoves : Purpose → Option Nat
  | .src e _ => some e
  | .image e => some e
  | _ => none
def afterRead (pu : Purpose) (s : State) : State :=
  let s := match readMoves pu with
    | some e => engAfter e s
    | none => s
  barrierStep s

/-! ### The answer to a write (R121) -/

/-- A write is confirmed, or has failed with a status; of several failures the one answered first counts (R148; log entry 76). -/
def writeEnds (pu : Purpose) (len : Nat) (code : Byte) (s : State) : State :=
  match pu with
  | .dst e off =>
    if code == 0 then modMv e (confirm off len) s
    else modMv e (addFail off code false) s
  | .notify e | .status e | .status2 e | .dnotify e =>
    if code == 0 then s
    else modMain e (fun t => { t with wrFail := some (t.wrFail.getD code) }) s
  | _ => s

/-- The engine of a write goes on; breaks that waited for a channel's writes are made (R211). -/
def afterWrite (pu : Purpose) (s : State) : State :=
  match pu with
  | .orphan c => barrierStep (breakAfter c s)
  | _ => match purposeEng pu with
    | some e => barrierStep (engAfter e s)
    | none => barrierStep s

/-! ### The answer to a flush read (R122, R123) -/

/-- The writes a completed flush read has settled: those of its requester that went before it. One under the old rules of a
barrier finishes only by the barrier's own flush read (R263). -/
def settlePosted (h fn wseq : Nat) (mine : Purpose → Bool) (s : State) : State :=
  let hit (w : HostWrite) : Bool :=
    !w.xheld && w.fn == fn && decide (w.seq < wseq) && (mine w.purpose || w.purpose == .dropped)
  modHp h (fun p => { p with posted := (p.posted.filter (fun w => !(hit w && !w.old))).map (fun w =>
    if hit w then { w with purpose := .dropped, done := true } else w) }) s

/-- The writes a failed flush read was to confirm stay unconfirmed; nothing waits for them. -/
def abandonPosted (h fn wseq : Nat) (mine : Purpose → Bool) (s : State) : State :=
  modHp h (fun p => { p with posted := p.posted.map (fun w =>
    if !w.xheld && w.fn == fn && decide (w.seq < wseq) && mine w.purpose then { w with purpose := .dropped } else w) }) s

/-- A flush read ends: every host write of the engine before it is confirmed (R122), or its own stay unconfirmed (R123). Where a
later flush read has confirmed them before an earlier one fails, they stay confirmed, so that P lies behind F, and the move ends
with the earlier one's status (DESIGN CHOICE; log entry 89). -/
def flushEnds (pu : Purpose) (h fn wseq : Nat) (code : Byte) (s : State) : State :=
  match pu with
  | .flush e lo up =>
    let mine : Purpose → Bool := fun p => match p with
      | .dst x off => x == e && decide (off < up)
      | .notify x | .status x | .status2 x | .dnotify x | .word0 x => x == e && code == 0
      | _ => false
    if code == 0 then modMv e (confirmTo up) (settlePosted h fn wseq mine s)
    else modMv e (addFail lo code false) (abandonPosted h fn wseq mine s)
  | .flushAll e =>
    let mine : Purpose → Bool := fun p => purposeEng p == some e
    if code == 0 then settlePosted h fn wseq mine s
    else modMain e (fun t => { t with wrFail := some (t.wrFail.getD code) }) (abandonPosted h fn wseq mine s)
  | _ => s

def isFlush : Purpose → Bool
  | .flush _ _ _ | .flushAll _ => true
  | _ => false

end Sys2Proof.Machine
end

