-- ==== Sys2Proof/Machine/Channels.lean ====
section
/-! DEFINITION. Channels and doorbells (02) and the stops a driver asks for (08): the meanings of DOORBELL, DOORBELL_APPLY,
PENDING_SCAN, SCAN_BLOCK_READ_DONE, CH_CTL_GO, CH_CTL_ABORT, PAUSE_SET, PAUSE_CLEAR and VERSION_REQUEST, over shared
operations that register writes use as well. -/

namespace Sys2Proof.Machine

/-! ### Doorbells (R39 to R47) -/

def bumpDbacc (k : Nat) (s : State) : State := modDsp (fun d => { d with dbacc := tmod 0 d.dbacc k inc32 }) s
def bumpDbdrop (k : Nat) (s : State) : State := modDsp (fun d => { d with dbdrop := tmod 0 d.dbdrop k inc32 }) s
def bumpDbstale (k : Nat) (s : State) : State := modDsp (fun d => { d with dbstale := tmod 0 d.dbstale k inc32 }) s
def bumpDbfold (k : Nat) (s : State) : State := modDsp (fun d => { d with dbfold := tmod 0 d.dbfold k inc32 }) s

/-- The entries a doorbell FIFO holds (R44). -/
def fifoDepth (k : Nat) : Nat := if k < 4 then 4096 else 256
def fifoOf (s : State) (k : Nat) : List Doorbell := tget [] s.dsp.fifo k

/-- An abort write-back task of the channel is pending or on an engine (R43, R199). -/
def taskPending (s : State) (c : Nat) : Bool :=
  s.dsp.wbTasks.contains c || s.eng.any (fun e => e.2.hold == .task c)

/-- What an accepted doorbell does to the state of its channel (R43). -/
def doorbellState (c : Nat) (s : State) : State :=
  let x := getCtx s c
  if taskPending s c then s
  else match x.st with
    | .idle => if x.pcv then toReady c s else s
    | .waiting => if x.pacing.isNone && seqCovers x.seqseen x.seqexp then toReady c s else s
    | _ => s

/-- Apply a doorbell counted under index k (R41 to R43). -/
def applyDoorbell (k fn : Nat) (seq : BitVec 24) (c : Nat) (s : State) : State :=
  if (getFn s fn).level == 0 || !owns s fn c then bumpDbdrop k s
  else if !seqAhead seq (getCtx s c).seqseen then bumpDbstale k (cacheUse c false s)
  else
    doorbellState c (modCtx c (fun x => { x with seqseen := seq }) (bumpDbacc k (cacheUse c true s)))

/-- Fold a doorbell that finds its FIFO full (R44): the compare-and-write of the fold word. Where no request may leave the block
it is dropped and counted (log entry 72). -/
def foldDoorbell (k fn : Nat) (seq : BitVec 24) (c : Nat) (s : State) : State :=
  if !chanPresent s c || (getFn s fn).level == 0 || !drives s then bumpDbdrop k s
  else
    dspUpd8 (foldAddr s c) (w64 (fn + 0x1000)) 0x1FFF (put 64 seq 40 ||| (1 : Word) <<< 39) 0xFFFFFF8000000000 0 (.fold k c) s

/-- A complete doorbell reaches an intake; a function that has been reset has none until its level is negotiated again (R284,
R290). -/
def ringDoorbell (k fn : Nat) (v : Word) (s : State) : State :=
  let seq : BitVec 24 := bits v 40 24
  let c := fld v 0 23
  if (getFn s fn).noBell then bumpDbdrop k s
  else if (fifoOf s k).length < fifoDepth k then
    modDsp (fun d => { d with fifo := tmod [] d.fifo k (fun l => l ++ [{ fn := fn, seq := seq, chan := c }]) }) s
  else foldDoorbell k fn seq c s

/-- A write of bytes of DOORBELL on a page (R40). -/
def writeDoorbell (k fn : Nat) (lo hi : Option Half) (s : State) : State :=
  let low := lo.getD (getFn s fn).dbLow
  let s := modFn fn (fun f => { f with dbLow := low }) s
  match hi with
  | none => s
  | some h => ringDoorbell k fn (join32 low h) s

def execDoorbell (k fn : Nat) (lo hi : Option Half) (s : State) : Res :=
  if s.inReset || decide (nFns s ≤ fn) || decide (5 ≤ k) then .next s
  else .next (writeDoorbell k fn lo hi (if k < 4 then access (.host k fn) s else s))

/-- A CTXWRITE to the channel waits for its OWNCOPY write: what comes to DSP after it is taken after it (R27, R379). -/
def ctxWaits (s : State) (c : Nat) : Bool := s.dsp.ctxwr.any (fun w => w.chan == c)
def putBehind (x : Behind) (s : State) : State := modDsp (fun d => { d with behind := d.behind ++ [x] }) s

/-- DSP takes the oldest doorbell of an intake; none is applied after WARN (R396). It comes after a CTXWRITE that arrived before
it and waits for its OWNCOPY write (R379). -/
def execDoorbellApply (k : Nat) (s : State) : Res :=
  if s.inReset || s.pf.stage != .normal || tested s islDsp then .next s
  else match fifoOf s k with
    | [] => .next s
    | d :: t =>
      if ctxWaits s d.chan then .next s
      else .next (applyDoorbell k d.fn d.seq d.chan (modDsp (fun x => { x with fifo := tset [] x.fifo k t }) s))

/-! ### The pending-scan bitmap (R44, R46, R172) -/

/-- Set a summary bit; the blocks wait in the order in which they were set. -/
def summarySet (blk : Nat) (s : State) : State :=
  modDsp (fun d => { d with summary := if d.summary.contains blk then d.summary else d.summary ++ [blk] }) s
/-- A block whose access failed waits behind every other (R46). -/
def summaryAgain (blk : Nat) (s : State) : State :=
  modDsp (fun d => { d with summary := d.summary.filter (· != blk) ++ [blk] }) s

/-- The atomic AND for the next channel of the block in hand; the scan of the block ends behind the last (R46). It does not go on
once WARN has come, since no doorbell is applied then (R396). -/
def scanNext (s : State) : State :=
  if !mayRead s then s else
  match s.dsp.scan with
  | none => s
  | some x =>
    match x.chans with
    | [] => modDsp (fun d => { d with scan := none }) s
    | c :: t =>
      dspUpd8 (bitmapAddr s c) 0 0 0 (bitmapBit c) 0 (.scanAnd c)
        (modDsp (fun d => { d with scan := some { x with chans := t } }) s)

def execPendingScan (s : State) : Res :=
  if s.inReset || !mayRead s || tested s islDsp || s.dsp.scan.isSome then .next s
  else match s.dsp.summary with
    | [] => .next s
    | b :: t =>
      .next (lmIssue { port := 0, tag := 0, op := .read, addr := w64 (s.dsp.psbase.toNat / 4096 * 4096 + b * 256), len := 256,
                       purpose := .scanBlock b, gated := false }
        (modDsp (fun d => { d with summary := t, scan := some { blk := b, chans := [] } }) s))

/-- The scan's block read, while it is outstanding. -/
def isScanBlock : Purpose → Bool
  | .scanBlock _ => true
  | _ => false
def scanRead (s : State) : Option LmReq := s.lm.find? (fun r => isScanBlock r.purpose && decide (r.tag < 1024))

/-- The block read returns. The bits of the block are the block's own state (R25), held in State. -/
def execScanBlockReadDone (resp : MResp) (s : State) : Res :=
  if s.inReset || tested s islDsp then .next s
  else match scanRead s, s.dsp.scan with
    | some r, some x =>
      let s := lmRetire r.port r.tag s
      if resp == .ok then
        let cs := s.dsp.bitmap.filter (fun c => bitmapBlock c == x.blk)
        .next (scanNext (modDsp (fun d => { d with scan := some { x with chans := cs } }) s))
      else .next (summaryAgain x.blk (modDsp (fun d => { d with scan := none }) s))
    | _, _ => .next s

/-- Mark a channel in the bitmap and its block in the summary, once the memory port has answered (R44 step 3). -/
def markBitmap (c : Nat) (s : State) : State :=
  summarySet (bitmapBlock c) (modDsp (fun d => { d with bitmap := setAdd c d.bitmap }) s)

/-- The channel waits for room in the ready store (R172). -/
def readyUnqueued (s : State) (c : Nat) : Bool :=
  (getCtx s c).st == .ready && !s.dsp.ready.any (fun r => r.chan == c) && !taskPending s c

/-- A channel that waits for room in the ready store is enqueued, or marked again for a later pass; it was counted in READYOVF
when it entered READY (R172). -/
def enqueueAgain (c : Nat) (s : State) : State :=
  if s.dsp.ready.length < 65536 then enqueue c s else bitmapOr c (.ovfOr c) s

/-- FV has been read and cleared: apply FSEQ, and enqueue an overflowed READY channel (R46, R172). Once WARN has come no doorbell
is applied any more (R396, R398, R404). -/
def scanApply (c : Nat) (old : Word) (s : State) : State :=
  if !mayRead s then s else
  let waits := readyUnqueued s c
  let s := if bit old 39 then
      let fn := fld old 0 12
      let seq : BitVec 24 := bits old 40 24
      if ctxWaits s c then putBehind (.bell fn c seq) s else applyDoorbell (hptOf fn) fn seq c s
    else s
  scanNext (if waits && readyUnqueued s c then enqueueAgain c s else s)

/-! ### GO, ABORT, PAUSE (R53, R54, R190 to R204) -/

/-- Accept a GO on the selected channel of a page, with the page's registers as they stood (R54). A direct move that a context
error has left in the channel (R36) is over. -/
def acceptGo (fn : Nat) (f : Func) (s : State) : State :=
  let c := f.chsel.toNat
  let s := directOver c (modFn fn (fun f => { f with goref := false }) (cacheUse c true s))
  if f.direct then
    toReady c (modCtx c (fun x => { x with
      go := true, direct := true, ntfy := f.ntfy, resume := false, resumeProg := x.mid && x.resume, pacing := none
      zeroGo := f.stN == 0
      regs := { x.regs with s := f.stS, d := f.stD, n := f.stN, sspace := f.sspace, dspace := f.dspace, sinc := f.sinc,
                            dinc := f.dinc, swap := f.swap } }) s)
  else if f.loadpc then
    modCtx c (fun x => { x with
      go := true, pcv := true, mid := false, l1 := false, resume := false, pacing := none
      seqexp := bits f.stN 0 24, seqseen := bits f.stN 0 24 - 1
      regs := { x.regs with pc := f.stS, pspace := f.sspace, z := false, c := false, b := false }
      st := if x.pause then .paused else .waiting }) s
  else toReady c (modCtx c (fun x => { x with go := true }) s)

/-- A GO is refused (R54, R204), by the function's level at the time it is handled (R62). -/
def goRefused (s : State) (fn : Nat) (f : Func) : Bool :=
  let c := f.chsel.toNat
  let x := getCtx s c
  (getFn s fn).level == 0 || !owns s fn c || s.dsp.qreq || !(x.st == .idle || x.st == .stopped) ||
  (!f.direct && f.loadpc && fld f.stS 0 3 != 0) || (!f.direct && !f.loadpc && !x.pcv)

/-- A GO with a page is refused or accepted. -/
def goWith (fn : Nat) (f : Func) (s : State) : State :=
  if goRefused s fn f then modFn fn (fun f => { f with goref := true }) s else acceptGo fn f s

def doGo (fn : Nat) (s : State) : State :=
  let f := getFn s fn
  if ctxWaits s f.chsel.toNat then putBehind (.go fn f) s else goWith fn f s

/-- The engine has seen a failure that ends what it does (R201). -/
def failSeen (x : Engine) : Bool :=
  x.main.wrFail.isSome ||
  ((x.main.mv.map (·.fail.isSome)).getD false && x.main.phase == .moving) ||
  (x.main.readErr.isSome && (x.main.phase == .fetched || x.main.phase == .resumed))

/-- The engine is clearing its island for an in-field test: an abort of its channel comes once the channel has left (R415). -/
def clearing (s : State) (e : Nat) : Bool :=
  (getEng s e).forced && s.st.busy && s.st.lkind == 2 && s.st.ltarget.toNat == 2 + e / 4

/-- The engine that runs a channel is told to stop, unless a stop that takes precedence, or for an abort a failure, came first
(R201). -/
def tellStop (c : Nat) (k : Stop) (s : State) : State :=
  match engOf s c with
  | none => s
  | some e =>
    let x := getEng s e
    if x.stop == .fn || x.stop == .ecc || (x.stop == .abort && k == .pause) || (k == .abort && (failSeen x || clearing s e)) then s
    else modEng e (fun x => { x with stop := k }) s

/-- ABORT on an owned channel (R197 to R200, R204). -/
def doAbort (fn : Nat) (s : State) : State :=
  let c := (getFn s fn).chsel.toNat
  let x := getCtx s c
  if !owns s fn c || x.st == .idle || x.st == .stopped || taskPending s c || s.pf.stage != .normal then s
  else
    let s := modCtx c (fun x => { x with abort := true }) (cacheUse c true s)
    if x.st == .running then tellStop c .abort s
    else if s.dsp.qreq && (x.st == .quiesced || midWork s c) then
      modDsp (fun d => { d with recAborts := d.recAborts.filter (· != c) ++ [c] }) s
    else if x.st == .quiesced then modDsp (fun d => { d with recAborts := d.recAborts.filter (· != c) ++ [c] }) s
    else abortOff c s

/-- PAUSE becomes 1 (R190). -/
def doPause (fn : Nat) (s : State) : State :=
  let c := (getFn s fn).chsel.toNat
  let x := getCtx s c
  if !owns s fn c || s.pf.stage != .normal then s
  else
    let s := modCtx c (fun x => { x with pause := true }) (cacheUse c true s)
    if taskPending s c then s
    else match x.st with
      | .ready | .waiting =>
        modCtx c (fun x => { x with st := .paused, resume := x.resume || x.pacing.isSome, pacing := none })
          (unwatch c (unqueue c s))
      | .running => tellStop c .pause s
      | _ => s

/-- PAUSE becomes 0 (R194). -/
def doUnpause (fn : Nat) (s : State) : State :=
  let c := (getFn s fn).chsel.toNat
  let x := getCtx s c
  if !owns s fn c then s
  else
    let s := modCtx c (fun x => { x with pause := false }) (cacheUse c true s)
    if taskPending s c then s
    else match x.st with
      | .paused => toReady c s
      | .running =>
        (match engOf s c with
         | none => s
         | some e =>
           let g := getEng s e
           if g.stop == .pause && !g.stopping && !g.forced then engAfter e (modEng e (fun g => { g with stop := .none }) s)
           else s)
      | _ => s

def execChCtlGo (fn : Nat) (s : State) : Res :=
  if !live s || decide (nFns s ≤ fn) then .next s else .next (doGo fn (access (pageReq fn) s))
def execChCtlAbort (fn : Nat) (s : State) : Res :=
  if !live s || decide (nFns s ≤ fn) then .next s else .next (doAbort fn (access (pageReq fn) s))
def execPauseSet (fn : Nat) (s : State) : Res :=
  if !live s || decide (nFns s ≤ fn) then .next s else .next (doPause fn (access (pageReq fn) s))
def execPauseClear (fn : Nat) (s : State) : Res :=
  if !live s || decide (nFns s ≤ fn) then .next s else .next (doUnpause fn (access (pageReq fn) s))

/-! ### Level negotiation (R59, R60) -/

/-- A channel of a function that is not at rest. -/
def busyChan (s : State) (fn : Nat) : Bool :=
  s.dsp.ctx.any (fun e => chanPresent s e.1 && e.2.ov && e.2.owner.toNat == fn && e.2.st != .idle && e.2.st != .stopped)

/-- A VERSION request is refused (R60, R204, R286, R349). -/
def levelRefused (s : State) (fn : Nat) (l : BitVec 4) : Bool :=
  decide ((getFn s fn).lvlcap.toNat < l.toNat) || decide (3 < l.toNat) || busyChan s fn || s.dsp.qreq ||
  (getFn s fn).sweeping || !s.ctl.ready

def doVersion (fn : Nat) (l : BitVec 4) (s : State) : State :=
  if levelRefused s fn l then modFn fn (fun f => { f with refused := true }) s
  else modFn fn (fun f => { f with level := l, refused := false, noBell := false }) s

def execVersionRequest (fn : Nat) (level : BitVec 4) (s : State) : Res :=
  if !live s || decide (nFns s ≤ fn) then .next s else .next (doVersion fn level (access (pageReq fn) s))

end Sys2Proof.Machine
end

