-- ==== Sys2Proof/Machine/Descriptors.lean ====
section
/-! DEFINITION. Dispatch (07) and descriptors (05, 06): the meanings of DISPATCH, DESCRIPTOR_READ, DESCRIPTOR_READ_DONE,
SEQ_COVER_QUERY and RESUME_DESCRIPTOR_READ_DONE. -/

namespace Sys2Proof.Machine

/-! ### What a free engine takes (R173, R199, R376) -/

/-- A candidate of a decision: a channel, or movement work of a core. -/
structure Cand where
  aged : Bool
  dl : Half
  stamp : Half
  work : Bool
  /-- channel, or core -/
  id : Nat
  slot : Nat := 0
  deriving DecidableEq, Repr, Inhabited

/-- Rank of candidates: over-age entries, deadline, ready stamp, work ahead of channels, lower number (R170, R173, R376). -/
def candAhead (a b : Cand) : Bool :=
  if a.aged != b.aged then a.aged
  else if a.dl != b.dl then before32 a.dl b.dl
  else if a.stamp != b.stamp then before32 a.stamp b.stamp
  else if a.work != b.work then a.work
  else decide (a.id < b.id)

def candBest : List Cand → Option Cand
  | [] => none
  | a :: t => match candBest t with
    | none => some a
    | some b => some (if candAhead b a then b else a)

/-- The eligible channels of an engine. -/
def chanCands (s : State) (e : Nat) : List Cand :=
  if s.dsp.qreq then []
  else (List.range 16).flatMap (fun c =>
    let cls : BitVec 4 := BitVec.ofNat 4 c
    if takesClass s e cls then
      ((queueWindow s cls).filter (fun r => !cacheBlocked s r.chan)).map (fun r =>
        { aged := overAge s r.stamp, dl := deadlineOf s cls r.stamp, stamp := r.stamp, work := false, id := r.chan })
    else [])

/-- The movement work an engine may take; a quiesce does not hold it (R203, R376). -/
def workCands (s : State) (e : Nat) : List Cand :=
  (s.dsp.work.filter (fun w => takesClass s e w.cls)).map (fun w =>
    { aged := overAge s w.stamp, dl := deadlineOf s w.cls w.stamp, stamp := w.stamp, work := true, id := w.core,
      slot := w.slot })

/-- The write-back task an engine takes ahead of every ready entry (R199). -/
def taskFor (s : State) (e : Nat) : Option Nat :=
  if s.dsp.qreq then none
  else s.dsp.wbTasks.find? (fun c => takesClass s e (getCtx s c).dc && bmeOf s (getCtx s c).owner.toNat)

/-- What the lowest free engine with something to take gets. -/
inductive Take
  | task (c : Nat)
  | cand (x : Cand)
  deriving DecidableEq, Repr, Inhabited

def takeOf (s : State) (e : Nat) : Option Take :=
  match taskFor s e with
  | some c => some (.task c)
  | none => (candBest (workCands s e ++ chanCands s e)).map .cand

def dispatchTo (s : State) : Option (Nat × Take) :=
  (List.range (nEngines s)).findSome? (fun e =>
    if engPresent s e && engFree s e && !testedEng s e then (takeOf s e).map (fun t => (e, t)) else none)

/-! ### Taking it -/

/-- Checks of a direct-mode move (R57, R108): the status of the first that fails. -/
def directCheck (s : State) (e c : Nat) (r : Regs) : Option Byte :=
  let x := getCtx s c
  let n := r.n.toNat
  if (x.ntfy && !listSpaceOk s x.nspace) ||
     !(dataSpaceOk s false r.sspace && dataSpaceOk s false r.dspace && portAddrOk s r.sspace r.s && portAddrOk s r.dspace r.d &&
       paceOk s r.k3) then some 0x12
  else if (x.ntfy && !aligned x.notify 8) || !(aligned r.s 4 && aligned r.d 4 && n % 4 == 0) then some 0x10
  else moveCheck s e r

/-- The notify word of a direct move cannot be written (R57). -/
def notifyBad (s : State) (c : Nat) : Bool :=
  let x := getCtx s c
  x.ntfy && (!listSpaceOk s x.nspace || !aligned x.notify 8)

/-- A direct move begins (R56). -/
def startDirect (e c : Nat) (s : State) : State :=
  let r := (getEng s e).main.regs
  match directCheck s e c r with
  | some code => engAfter e (endDirect e code (notifyBad s c) s)
  | none => engAfter e (modMain e (fun t => { t with phase := .moving, mv := some (newMove r 0 false false none) }) s)

/-- An engine takes a channel (R173, R181, R184, R195, R196). -/
def takeChan (e c : Nat) (s : State) : State :=
  let s := wakeIsl (islEng e) (cacheUse c true (unqueue c s))
  let x := getCtx s c
  let s := modCtx c (fun x => { x with
    st := .running, go := false, resume := false, pacing := none
    wdog := if x.direct && !x.resume then false else x.wdog }) s
  let lvl := levelOf s x.owner.toNat
  let t : Thread :=
    if x.direct then { regs := x.regs, resumed := x.resume, accessed := x.acc, phase := .exec }
    else if x.mid then
      { regs := x.regs, resumed := x.resume, accessed := x.acc, phase := .resume, a := alignDown x.regs.pc (descSize lvl)
        aspace := x.regs.pspace, l1 := x.l1 }
    else { regs := x.regs, phase := .fetch }
  let s := modEng e (fun _ => { hold := .chan c, main := t, taken := s.time, wdStart := s.time
                                wdFired := (x.direct || x.mid) && (getCtx s c).wdog }) s
  if x.direct then startDirect e c s else s

/-- An engine takes a write-back task: STATE keeps its value (R199). A descriptor that a pause stopped reports F3 (log entry 73). -/
def takeTask (e c : Nat) (s : State) : State :=
  let x := getCtx s c
  let s := modDsp (fun d => { d with wbTasks := d.wbTasks.filter (· != c) }) (wakeIsl (islEng e) (cacheUse c true s))
  let lvl := levelOf s x.owner.toNat
  let t : Thread := { regs := x.regs, resumed := x.resume, accessed := x.acc, phase := .resume
                      a := alignDown x.regs.pc (descSize lvl), aspace := x.regs.pspace }
  let s := modEng e (fun _ => { hold := .task c, main := t, taken := s.time, wdStart := s.time, wdFired := true }) s
  if x.direct then engAfter e (endDirect e 0x30 (notifyBad s c) s) else s

/-- An engine takes movement work: its header is accepted at once (R376). -/
def takeWork (e core slot : Nat) (s : State) : State :=
  let b := (getSvc s core slot).block
  let len := fld (nthWord b 0) 16 3
  let t : Thread := { phase := .exec, words := put 64 (BitVec.ofNat 6 len) 56 :: (b.drop 1).take len, regs := { pc := 8 } }
  let s := modDsp (fun d => { d with work := d.work.filter (fun w => !(w.core == core && w.slot == slot)) }) (wakeIsl (islEng e) s)
  modEng e (fun _ => { hold := .work core slot, main := t, taken := s.time, wdStart := s.time, wdFired := true }) s

/-- One decision of DSP; none is made once WARN has come (R396). -/
def execDispatch (s : State) : Res :=
  if !live s || s.pf.stage != .normal || tested s islDsp then .next s
  else match dispatchTo s with
    | none => .next s
    | some (e, .task c) => .next (takeTask e c s)
    | some (e, .cand x) => .next (if x.work then takeWork e x.id x.slot s else takeChan e x.id s)

/-! ### Descriptor reads (R136, R155, R195) -/

/-- Descriptors the engine may hold beyond PC (R167). -/
def daheadOf (s : State) : Nat := min s.active.spec.dahead.toNat 4

/-- Descriptors an engine holds beyond PC, or is reading ahead. -/
def heldBeyond (s : State) (e : Nat) : Nat :=
  let x := getEng s e
  (x.ahead.filter (fun h => !(h.space == x.main.regs.pspace && h.addr == x.main.regs.pc))).length +
    b2n (anyOut (fun p => match p with
      | .ahead y _ _ _ => y == e
      | _ => false) s)

/-- Bytes of an extended read at PC: within its 256-byte block, the descriptors that DAHEAD leaves room for, and one host request
(R154, R155, R272). -/
def extendedLen (s : State) (e size : Nat) (sp : BitVec 4) (a : Word) : Nat :=
  let n := min (256 - a.toNat % 256) (size * (1 + (daheadOf s - heldBeyond s e)))
  if hostSpace s sp then max size (min n (mrrsOf s (fnOf s e) / size * size)) else n

/-- The outcome of presenting a descriptor read, into the main thread. -/
def fetchOutcome (e : Nat) (go done : Phase) : Iss × State → State
  | (.go, s) => modMain e (fun t => { t with phase := go, readErr := none }) s
  | (.denied, s) => modMain e (fun t => { t with phase := done, readErr := some 0x20 }) s
  | (.failed c, s) => modMain e (fun t => { t with phase := done, readErr := some c }) s
  | (_, s) => s

/-- The read at PC, extended as a probe first when ahead is asked for. -/
def fetchAtPc (e : Nat) (ahead : Bool) (s : State) : State :=
  let r := (getEng s e).main.regs
  let size := descSize (lvlOf s e)
  let seen := (getCtx s (chanOf s e)).seqseen
  if !listSpaceOk s r.pspace || !aligned r.pc size then modMain e (fun t => { t with phase := .fetched, readErr := none }) s
  else
    let req : RdReq := { who := whoOf s e, space := r.pspace, addr := r.pc, len := size, purpose := .desc e seen }
    let n := extendedLen s e size r.pspace r.pc
    if ahead && decide (size < n) then
      match engRead e { req with len := n, spec := true } s with
      | (.go, s) => modMain e (fun t => { t with phase := .fetchWait, readErr := none }) s
      | (_, s) => fetchOutcome e .fetchWait .fetched (engRead e req s)
    else fetchOutcome e .fetchWait .fetched (engRead e req s)

/-- The re-read of a descriptor that is part done (R184, R195, R199). -/
def fetchResume (e : Nat) (s : State) : State :=
  let t := (getEng s e).main
  fetchOutcome e .resumeWait .resumed
    (engRead e { who := whoOf s e, space := t.aspace, addr := t.a, len := descSize (lvlOf s e), purpose := .resume e } s)

/-- Where the path behind the descriptor in hand goes on, as far as it is known (R138, R154). -/
def pathStart (s : State) (e : Nat) : Option (Word × BitVec 4) :=
  let t := (getEng s e).main
  let l := lvlOf s e
  match t.phase with
  | .complete => some (t.regs.pc, t.regs.pspace)
  | .idle | .fetch | .fetchWait | .fetched | .query | .resume | .resumeWait | .resumed | .failed | .dnotify | .workEnd => none
  | _ => if hdrLinked l t.words then none else some (t.a + w64 (descSize l), t.aspace)

/-- The first place on the path that is not held. Behind a LINKED header it is where the speculative thread's LINK has led; at
level 1 only an accepted link descriptor leads on (R138). -/
def pathWalk (s : State) (e : Nat) : Nat → Word × BitVec 4 → Option (Word × BitVec 4)
  | 0, _ => none
  | k + 1, (a, sp) =>
    match heldAt s e sp a with
    | none => some (a, sp)
    | some h =>
      let linked := hdrLinked (lvlOf s e) h.words
      match (getEng s e).spec with
      | some t =>
        if t.a == a && t.aspace == sp && t.phase == .complete && !(linked && lvlOf s e == 1) then
          pathWalk s e k (t.regs.pc, t.regs.pspace)
        else if linked then none
        else pathWalk s e k (a + w64 (descSize (lvlOf s e)), sp)
      | none => if linked then none else pathWalk s e k (a + w64 (descSize (lvlOf s e)), sp)

/-- A separate read-ahead (R155): a probe of one descriptor that is not yet held. -/
def fetchAhead (e : Nat) (s : State) : State :=
  let size := descSize (lvlOf s e)
  if (getEng s e).main.fenceR || decide (daheadOf s ≤ heldBeyond s e) || anyOut (fun p => match p with
      | .ahead y _ _ _ => y == e
      | _ => false) s then s
  else match (pathStart s e).bind (pathWalk s e 6) with
    | none => s
    | some (a, sp) =>
      if !listSpaceOk s sp || !aligned a size then s
      else (engRead e { who := whoOf s e, space := sp, addr := a, len := size, spec := true,
                        purpose := .ahead e (getCtx s (chanOf s e)).seqseen sp a } s).2

/-- DESCRIPTOR_READ: the engine reads the descriptor at PC, the one it resumes, or one ahead. -/
def execDescriptorRead (e : Nat) (ahead : Bool) (s : State) : Res :=
  if !mayRead s || !(holdsChan s e || isTask s e) || (getEng s e).stop != .none || hostBlocked s e then .next s
  else match (getEng s e).main.phase with
    | .fetch => .next (fetchAtPc e ahead s)
    | .resume => .next (fetchResume e s)
    | _ => if ahead then .next (fetchAhead e s) else .next s

/-! ### Deciding on a header (R141, R158) -/

/-- The header at PC leaves the held ones. -/
def unhold (e : Nat) (sp : BitVec 4) (a : Word) (s : State) : State :=
  modEng e (fun x => { x with ahead := x.ahead.filter (fun h => !(h.space == sp && h.addr == a)) }) s

/-- R141 stops the channel: nothing is written. -/
def refuseHeader (e : Nat) (code : Byte) (s : State) : State :=
  let r := (getEng s e).main.regs
  barrierStep (stopEng e code none (unhold e r.pspace r.pc (discardSpec e s)))

/-- Reads of an engine that wait at ports are speculative no more, and leave (R298). -/
def portReadsReal (e : Nat) (s : State) : State :=
  let mine (r : PortRead) : Bool := r.spec && purposeEng r.purpose == some e
  let ps := (s.port.filter (fun p => p.2.rwait.any mine)).map (·.1)
  forAll ps (fun p s => portPump p (modPort p (fun k => { k with
    rwait := k.rwait.map (fun r => if mine r then { r with spec := false } else r) }) s)) s

/-- Speculative work on the header becomes real (R158), its timeouts are reported (R162), the break points of its bursts are
declared (R159), and a pacing word it has armed acts (R181). -/
def keepSpec (e : Nat) (t : Thread) (s : State) : State :=
  let s := modEng e (fun x => { x with
    main := { t with mv := t.mv.map (fun m => { m with specBytes := 0, held := false }), rearmed := false, timeouts := [] }
    spec := none, held := if t.rearmed then false else x.held }) s
  let s := forAll t.timeouts (fun fn s => reportTimeout (hptOf fn) fn s) s
  let s := portReadsReal e s
  let s := if (t.mv.map (fun m => m.brkb && m.srcNext != 0)).getD false then xbreak e s else s
  match t.phase with
  | .failed => endDescr e t.code s
  | .complete =>
    let s := if t.regs.pc == t.a + w64 (descSize (lvlOf s e)) && t.regs.pspace == t.aspace then s
             else discardPath e t.regs.pc t.regs.pspace s
    beginComplete e (doneCode t) (t.regs.pc, t.regs.pspace) s
  | _ => s

/-- The program runs from the copy just read (R178). -/
def freshHeader (e : Nat) (h : Held) (r : Regs) (l : Nat) (s : State) : State :=
  let s := modMain e (fun _ => { regs := { r with pc := r.pc + 8, z := false, c := false, b := false }, phase := .exec
                                 a := r.pc, aspace := r.pspace, words := h.words, seen := h.seen }) s
  if hdrLenOk l h.words then s else endDescr e 0x13 s

/-- The header is accepted: ownership is confirmed and the program runs (R68, R141, R178, R179). -/
def acceptHeader (e : Nat) (h : Held) (s : State) : State :=
  let r := (getEng s e).main.regs
  let l := lvlOf s e
  let s := modCtx (chanOf s e) (fun x => { x with wdog := false }) (unhold e h.space h.addr s)
  let s := modEng e (fun x => { x with wdStart := s.time, wdFired := false }) s
  match (getEng s e).spec with
  | some t =>
    if t.words.take 7 == h.words.take 7 && hdrLenOk l h.words then keepSpec e { t with words := h.words, seen := h.seen } s
    else freshHeader e h r l (discardSpec e s)
  | none => freshHeader e h r l s

/-- R141, in the order of its rows. No descriptor begins once WARN has come (R396). -/
def execDescriptorReadDone (e : Nat) (s : State) : Res :=
  if !live s || s.pf.stage != .normal || !holdsChan s e || (getEng s e).stop != .none ||
     (getEng s e).main.phase != .fetched then .next s
  else
    let t := (getEng s e).main
    let r := t.regs
    let c := getCtx s (chanOf s e)
    let l := lvlOf s e
    if !listSpaceOk s r.pspace then .next (refuseHeader e 0x12 s)
    else if !aligned r.pc (descSize l) then .next (refuseHeader e 0x10 s)
    else match t.readErr with
      | some code => .next (refuseHeader e code s)
      | none =>
        match heldAt s e r.pspace r.pc with
        | none => .next (modMain e (fun t => { t with phase := .fetch }) s)
        | some h =>
          if !seqCovers h.seen c.seqexp then .next (modMain e (fun t => { t with phase := .query }) s)
          else if hdrOwn l h.words && hdrSeq l h.words == c.seqexp then .next (engAfter e (acceptHeader e h s))
          else
            let fn := fnOf s e
            .next (evDescFault fn (refuseHeader e 0x13 s))

/-- R142: the channel is RUNNING and reads again, or it is WAITING and its engine is released. -/
def execSeqCoverQuery (e : Nat) (s : State) : Res :=
  if !live s || !holdsChan s e || (getEng s e).stop != .none || (getEng s e).main.phase != .query then .next s
  else
    let c := chanOf s e
    let x := getCtx s c
    let r := (getEng s e).main.regs
    if seqCovers x.seqseen x.seqexp then .next (modMain e (fun t => { t with phase := .fetch }) (unhold e r.pspace r.pc s))
    else
      let s := if onSpec s e then s else unhold e r.pspace r.pc s
      .next (barrierStep (modCtx c (fun x => { x with st := .waiting }) (breakOnLeave c none (leaveEng e s))))

/-! ### The re-read of a descriptor that is part done (R184, R195, R199) -/

/-- The failed read of a write-back task: as a failed write-back (R199). No status word was written, and LASTFLAGS stays (log
entry 73). -/
def taskFault (e : Nat) (code : Byte) (s : State) : State :=
  let c := chanOf s e
  let fn := fnOf s e
  let size := descSize (lvlOf s e)
  let a := (getEng s e).main.a
  let s := modMain e (fun t => { t with
    phase := .complete, regs := { t.regs with pc := t.a + w64 size, z := false, c := false, b := false } }) s
  evWbFault fn c a (barrierStep (stopEng e code none (modCtx c (fun x => { x with seqexp := x.seqexp + 1 }) s)))

/-- A level 1 descriptor that had loaded its registers goes on from them; another begins (R106). -/
def resumeLevel1 (e : Nat) (s : State) : State :=
  let t := (getEng s e).main
  if !t.l1 then modMain e (fun t => { t with phase := .exec }) s
  else match moveCheck s e t.regs with
    | some code => endDescr e code s
    | none => modMain e (fun t => { t with phase := .moving, mv := some (newMove t.regs 0 false false none) }) s

def execResumeDescriptorReadDone (e : Nat) (s : State) : Res :=
  if !live s || !(holdsChan s e || isTask s e) || (getEng s e).stop != .none || (getEng s e).main.phase != .resumed then
    .next s
  else
    let t := (getEng s e).main
    match t.readErr with
    | some code => .next (if isTask s e then taskFault e code s else barrierStep (stopEng e code none s))
    | none =>
      if isTask s e then .next (engAfter e (endDescr e 0x30 s))
      else if lvlOf s e == 1 then .next (engAfter e (resumeLevel1 e s))
      else
        let s := modMain e (fun t => { t with phase := .exec }) s
        .next (if pastEnd s e (getEng s e).main then engAfter e (endProgram e s) else s)

end Sys2Proof.Machine
end

