-- ==== Sys2Proof/Machine/TableOps.lean ====
section
/-! DEFINITION. The table service unit (13): entries, events, headers, placement of an entry, relocation, faults, and the
operations that records, channel programs and the sweeper share. The contents of bucket arrays and stashes are the block's
own state (R25, R317); each write also leaves the block as a request to local memory. -/

namespace Sys2Proof.Machine

/-! ### Instances and epochs (R313) -/

/-- TSV's requests and the data of local memory can cross: no crossbar stands frozen in front of them (R235), and TSV is not under
test (R408). -/
def tsvWay (s : State) : Bool := !tested s islTsv && !xstands s 78 0 && !xstands s 76 0 && (s.cfg.compact || !xstands s 77 0)

/-- Table work goes on: it stops at WARN (R396). -/
def tsvMay (s : State) : Bool := live s && s.pf.stage == .normal && tsvWay s

def tsvWho : Who := { cls := 3 }

/-- The active epoch, the shadow, and one of the two by number. -/
def epochOf (x : Inst) (e : Bool) : Epoch := if e then x.ep1 else x.ep0
def activeEp (x : Inst) : Epoch := epochOf x x.act
def modEp (e : Bool) (f : Epoch → Epoch) (x : Inst) : Inst := if e then { x with ep1 := f x.ep1 } else { x with ep0 := f x.ep0 }

/-- Identifier width as it acts (R337). -/
def idwOf (x : Inst) : Nat := min (max x.idw.toNat 10) 32
/-- No identifier bit at or above IDW. -/
def idFits (x : Inst) (id : Half) : Bool := decide (id.toNat < 2 ^ idwOf x)

/-- RUN or REBUILD (R321, R336). -/
def instRuns (x : Inst) : Bool := x.st == .run || x.st == .rebuild

/-- LM addresses of the regions: address fields take their alignment bits as 0 (R313, R337). -/
def arrayBase (ep : Epoch) : Nat := ep.ebase.toNat - ep.ebase.toNat % (128 * 2 ^ ep.log2b.toNat)
def wayAddr (ep : Epoch) (key : Nat) : Word := w64 (arrayBase ep + 32 * key)
def stashAddr (ep : Epoch) (slot : Nat) : Word := w64 (ep.sbase.toNat / 8192 * 8192 + 32 * slot)

/-- The bucket of an identifier (R313). -/
def bucketOf (ep : Epoch) (id : Half) : Nat := id.toNat % 2 ^ ep.log2b.toNat

/-! ### Entries (R314) -/

def entValid (x : Entry) : Bool := bit x.w0 63
def entId (x : Entry) : Half := bits x.w0 0 32
def entAge (x : Entry) : BitVec 16 := bits x.w0 32 16
def entPort (x : Entry) : Nat := fld x.w0 48 10
def entCh (x : Entry) : Bool := bit x.w0 58
def entLtime (x : Entry) : Half := bits x.w2 32 32
def entBytes (x : Entry) : List Byte := bytesOfWords [x.w0, x.w1, x.w2, x.w3]

/-- Block time in µs, 32 bits. -/
def nowUs (s : State) : Half := BitVec.ofNat 32 (s.time.toNat / 1000)

/-- An entry written now. -/
def newEntry (id : Half) (age : BitVec 16) (port : Nat) (ch : Bool) (vlo : Word) (vhi : Half) (ltime : Half) (uflags : Byte) :
    Entry :=
  { w0 := put 64 id 0 ||| put 64 age 32 ||| w64 (port % 1024 * 2 ^ 48) ||| putb 64 ch 58 ||| putb 64 true 63
    w1 := vlo, w2 := put 64 vhi 0 ||| put 64 ltime 32, w3 := put 64 uflags 0 }

/-- Where an entry stands. -/
inductive Place
  | way (key : Nat)
  | slot (k : Nat)
  deriving DecidableEq, Repr, Inhabited

def wayAt (ep : Epoch) (key : Nat) : Entry := tget {} ep.ways key
def slotAt (ep : Epoch) (k : Nat) : Entry := tget {} ep.stash k
def placeAddr (ep : Epoch) : Place → Word
  | .way key => wayAddr ep key
  | .slot k => stashAddr ep k

/-- The valid entry with an identifier: the ways of its bucket, then the stash. -/
def findId (ep : Epoch) (id : Half) : Option (Place × Entry) :=
  let b := bucketOf ep id
  match (List.range 4).find? (fun w => entValid (wayAt ep (4 * b + w)) && entId (wayAt ep (4 * b + w)) == id) with
  | some w => some (.way (4 * b + w), wayAt ep (4 * b + w))
  | none => (ep.stash.find? (fun e => entValid e.2 && entId e.2 == id)).map (fun e => (.slot e.1, e.2))

def freeWay (ep : Epoch) (id : Half) : Option Nat :=
  ((List.range 4).find? (fun w => !entValid (wayAt ep (4 * bucketOf ep id + w)))).map (fun w => 4 * bucketOf ep id + w)
def freeSlot (ep : Epoch) : Option Nat := lowestFree (fun k => entValid (slotAt ep k)) 0 256

/-! ### Events (R330, R331) -/

structure TabEvent where
  type : Nat
  inst : Nat
  port : Nat := 0
  oport : Nat := 0
  shadow : Bool := false
  chan : Bool := false
  id : Half := 0
  data : Word := 0
  datahi : Half := 0
  deriving DecidableEq, Repr, Inhabited

def tevLog (t : Tsv) : Nat := min (max t.tevlog.toNat 12) 20

/-- The 32 bytes of an event. -/
def eventBytes (s : State) (x : TabEvent) : List Byte :=
  bytesOfWords
    [w64 (x.type + x.inst * 2 ^ 4 + x.port * 2 ^ 8 + x.oport * 2 ^ 18 + b2n x.shadow * 2 ^ 28 + b2n x.chan * 2 ^ 29 +
       x.id.toNat * 2 ^ 32),
     x.data, put 64 x.datahi 0 ||| put 64 s.seam 32, s.time]

/-- A write of TSV through the LM gate; false when it is denied (R317). -/
def tsvWrite (a : Word) (d : List Byte) (pu : Purpose) (s : State) : Bool × State :=
  let g := 68 + lmPortOf s a
  let v := gateCheck s g tsvWho .wr a d.length false
  if !v.ok then (false, denyPrecise g tsvWho .wr a d.length v s)
  else
    let q : LmReq := { port := 0, tag := 0, op := .write32a, addr := a, len := d.length, cache := v.cach, order := v.order,
                       data := d, purpose := pu }
    (true, xTsv d.length (lmIssue q s))

/-- Write an event, or count it lost; either way the TSV block event is raised (R331). -/
def tsvEvent (x : TabEvent) (s : State) : State :=
  let t := s.tsv
  let s := evS 4 s
  if (t.tevwr - t.tevrd).toNat = 2 ^ tevLog t then modTsv (fun t => { t with tevlost := inc32 t.tevlost }) s
  else
    let a := w64 (t.tevbase.toNat / 32 * 32 + 32 * (t.tevwr.toNat % 2 ^ tevLog t))
    (tsvWrite a (eventBytes s x) .tsvEvent (modTsv (fun t => { t with tevwr := inc32 t.tevwr }) s)).2

/-! ### Answers to engines (R101) -/

/-- The table operation of an engine is answered. -/
def tsvAnswerTo (e : Nat) (a : TableAnswer) (s : State) : State :=
  modMain e (fun t => if t.phase == .table then { t with answer := some a } else t) s

/-- The engines whose TEPO ARM waits for the copy pass of an instance. -/
def armWaiters (s : State) (i : Nat) : List Nat :=
  (s.eng.filter (fun x => match x.2.main.answer with
    | some a => x.2.main.phase == .table && a.waitCopy && a.inst == i
    | none => false)).map (·.1)

/-- A rebuild is abandoned: a waiting ARM retires with Z = 0 (R332, R333, R336). -/
def abandonRebuild (i : Nat) (s : State) : State :=
  forAll (armWaiters s i) (fun e s => tsvAnswerTo e {} s)
    (modInst i (fun x => { x with
      armed := false, mirroring := false, relocating := x.relocating.map (fun r => { r with mirror := false }) }) s)

/-- Stash writes of an instance that no relocation waits for any more. -/
def stashLeft (i : Nat) (s : State) : State :=
  { s with lm := s.lm.map (fun r => match r.purpose with
    | .stash j _ _ => if j == i then { r with purpose := .tsv i none } else r
    | _ => r) }

/-- The instance is in FAULT. -/
def inFault (s : State) (i : Nat) : Bool := (getInst s i).st == .fault

/-- The instance enters FAULT (R333). -/
def tsvFault (i : Nat) (a : Word) (s : State) : State :=
  if (getInst s i).st == .fault || (getInst s i).st == .off then s
  else
    let waiting := (getInst s i).relocating
    let s := stashLeft i s
    let s := abandonRebuild i (modInst i (fun x => { x with st := .fault, relocating := [] }) s)
    let s := forAll waiting (fun r s => match r.engine with
      | some e => tsvAnswerTo e { code := 0x12 } s
      | none => s) s
    tsvEvent { type := 6, inst := i, data := a } s

/-- A write of TSV to an instance's memory: a denial is a fault of the instance. -/
def instWrite (i : Nat) (a : Word) (d : List Byte) (pu : Purpose) (s : State) : State :=
  match tsvWrite a d pu s with
  | (true, s) => s
  | (false, s) => tsvFault i a s

/-- The read of a bucket by TSV: denied by the gate, or answered with an error, it is a fault (R333). -/
def bucketRead (i : Nat) (ep : Epoch) (id : Half) (rd : MResp) (s : State) : Bool × State :=
  let a := wayAddr ep (4 * bucketOf ep id)
  let g := 68 + lmPortOf s a
  let v := gateCheck s g tsvWho .rd a 128 false
  if !v.ok then (false, tsvFault i a (denyPrecise g tsvWho .rd a 128 v s))
  else if rd != .ok then (false, tsvFault i a (xTsvRead a 0 s))
  else (true, xTsvRead a 128 s)

/-! ### The header (R315) -/

def headerBytes (x : Inst) : List Byte :=
  let ep := activeEp x
  bytesOfWords
    [put 64 x.gen 0 ||| putb 64 x.act 32 ||| putb 64 (x.st == .rebuild) 33,
     put 64 ep.log2b 0 ||| w64 (arrayBase ep / 4096 * 4096), w64 (ep.sbase.toNat / 8192 * 8192), 0]

def writeHeader (i : Nat) (s : State) : State :=
  let x := getInst s i
  instWrite i (w64 (x.hdrbase.toNat / 32 * 32)) (headerBytes x) (.tsv i none) s

/-! ### Changing one entry (R319, R323) -/

/-- An epoch with one entry changed. -/
def withEntry (p : Place) (x : Entry) (ep : Epoch) : Epoch :=
  match p with
  | .way key => { ep with ways := tset {} ep.ways key x }
  | .slot k => { ep with stash := tset {} ep.stash k x }

/-- The bucket that work on a place concerns. -/
def placeBucket (ep : Epoch) : Place → Nat
  | .way key => key / 4
  | .slot k => bucketOf ep (entId (slotAt ep k))

/-- One write in place, which holds the bucket until its response (R323), and whether it was made. A denied write changes nothing
and is a fault of the instance (R333). -/
def tryPut (i : Nat) (e : Bool) (p : Place) (x : Entry) (s : State) : Bool × State :=
  let ep := epochOf (getInst s i) e
  let a := placeAddr ep p
  match tsvWrite a (entBytes x) (.tsv i (some (e, placeBucket ep p))) s with
  | (true, s) => (true, modInst i (modEp e (withEntry p x)) s)
  | (false, s) => (false, tsvFault i a s)
def putEntry (i : Nat) (e : Bool) (p : Place) (x : Entry) (s : State) : State := (tryPut i e p x s).2

/-- Age of an entry in ticks (R328). -/
def ageOf (x : Inst) (y : Entry) : Nat := (x.agecnt - entAge y).toNat

/-- The way with the largest age, ties to the lowest (R325). -/
def oldestWay (x : Inst) (ep : Epoch) (b : Nat) : Nat :=
  ((List.range 4).foldl (fun best w =>
    if ageOf x (wayAt ep (4 * b + best)) < ageOf x (wayAt ep (4 * b + w)) then w else best) 0)

/-- The victim of a full bucket under POLICY; the LFSR advances at each choice (log entry 8). -/
def chooseVictim (i : Nat) (ep : Epoch) (id : Half) (s : State) : Nat × State :=
  let x := getInst s i
  let b := bucketOf ep id
  if x.policy then
    (4 * b + s.tsv.lfsr.toNat % 4, modTsv (fun t => { t with lfsr := Config.lfsrNext t.lfsr }) s)
  else (4 * b + oldestWay x ep b, s)

/-- Place an absent entry: the first three rows of R324. Answers whether a way was relocated or evicted, and whether the
placement waits for a stash write, behind which r says what follows. -/
def placeNew (i : Nat) (e : Bool) (y : Entry) (r : Reloc) (s : State) : (Bool × Bool) × State :=
  let x := getInst s i
  let ep := epochOf x e
  match freeWay ep (entId y) with
  | some key => ((false, false), putEntry i e (.way key) y s)
  | none =>
    let (key, s) := chooseVictim i ep (entId y) s
    let old := wayAt ep key
    match freeSlot ep with
    | some k =>
      match tsvWrite (stashAddr ep k) (entBytes old) (.stash i key e) s with
      | (true, s) => ((true, true), modInst i (fun x => { modEp e (withEntry (.slot k) old) x with
          relocating := x.relocating ++ [{ r with epoch := e, key := key, entry := y }] }) s)
      | (false, s) => ((true, true), tsvFault i (stashAddr ep k) s)
    | none =>
      let s := putEntry i e (.way key) y s
      if inFault s i then ((true, false), s)
      else ((true, false), tsvEvent { type := 1, inst := i, port := entPort y, oport := entPort old, shadow := e != x.act,
                                      chan := entCh y, id := entId old, data := old.w1, datahi := bits old.w2 0 32 }
        (modInst i (fun x => { x with evicts := inc32 x.evicts }) s))

/-- An entry written in the other epoch too. -/
def mirrorInto (i : Nat) (e : Bool) (y : Entry) (s : State) : State :=
  match findId (epochOf (getInst s i) e) (entId y) with
  | some (p, _) => putEntry i e p y s
  | none => (placeNew i e y {} s).2

/-- The same change in the shadow epoch while a rebuild mirrors (R334 step 3): an entry written. -/
def mirrorWrite (i : Nat) (y : Entry) (s : State) : State :=
  let x := getInst s i
  if x.mirroring then mirrorInto i (!x.act) y s else s

/-- A deletion or a new age in the shadow epoch. -/
def mirrorFound (i : Nat) (id : Half) (f : Entry → Entry) (s : State) : State :=
  let x := getInst s i
  if x.mirroring then
    match findId (epochOf x !x.act) id with
    | some (p, y) => putEntry i (!x.act) p (f y) s
    | none => s
  else s

/-- A write to the bucket of an identifier has not been answered (R323). -/
def writeOut (s : State) (i : Nat) (id : Half) : Bool :=
  s.lm.any (fun r => match r.purpose with
    | .tsv j (some (e, b)) => j == i && b == bucketOf (epochOf (getInst s i) e) id
    | _ => false)

/-- The bucket of an identifier has work in progress, in the active or, mirrored, the shadow epoch (R323): a relocation that goes
on into the other epoch holds its bucket there too (R334 step 3). -/
def bucketBusy (s : State) (i : Nat) (id : Half) : Bool :=
  let x := getInst s i
  writeOut s i id || x.relocating.any (fun r =>
    r.key / 4 == bucketOf (epochOf x r.epoch) id ||
    (r.mirror && bucketOf (epochOf x !r.epoch) (entId r.entry) == bucketOf (epochOf x !r.epoch) id))

/-! ### Records (R321, R322, R324, R326) -/

/-- n bytes of a record are 0. -/
def zeroBytes (d : List Byte) (lo n : Nat) : Bool := ((d.drop lo).take n).all (· == 0)

/-- The first record of a payload, with its length; none where it is malformed (R320, R321). -/
def parseRecord (s : State) (p : Nat) (d : List Byte) : Option (Record × Nat) :=
  let b0 := d.getD 0 0
  let i := fld b0 4 4
  let id : Half := bits (wordAt d 0) 32 32
  if !zeroBytes d 2 2 || !idFits (getInst s i) id then none
  else match fld b0 0 4 with
    | 1 => if d.length < 32 || !zeroBytes d 20 12 then none
           else some ({ touch := false, port := p, inst := i, uflags := d.getD 1 0, id := id, vlo := wordAt d 8,
                        vhi := bits (wordAt d 16) 0 32 }, 32)
    | 2 => if d.length < 8 || d.getD 1 0 != 0 then none
           else some ({ touch := true, port := p, inst := i, uflags := 0, id := id, vlo := 0, vhi := 0 }, 8)
    | _ => none

/-- The records of a payload before the first malformed one, and whether there was one. -/
def parseRecords (s : State) (p : Nat) : Nat → List Byte → List Record × Bool
  | 0, d => ([], !d.isEmpty)
  | n + 1, d =>
    if d.isEmpty then ([], false)
    else match parseRecord s p d with
      | none => ([], true)
      | some (r, len) =>
        let (rs, bad) := parseRecords s p n (d.drop len)
        (r :: rs, bad)

/-- The records of a message, and the queue has room for them (R322). -/
def msgFits (s : State) (p : Nat) (d : List Byte) : Bool :=
  decide (s.tsv.queue.length + (parseRecords s p 64 d).1.length ≤ 4096)
/-- TSV accepts a message: the records before a malformed one are queued, and that one is counted (R321). -/
def acceptMsg (p : Nat) (d : List Byte) (s : State) : State :=
  let (rs, bad) := parseRecords s p 64 d
  modTsv (fun t => { t with queue := t.queue ++ rs, tmalform := if bad then inc32 t.tmalform else t.tmalform }) s

/-- Waiting messages are accepted until one does not fit. The port with the lowest number goes first (log entry 21). -/
def pullMessages : Nat → State → State
  | 0, s => s
  | n + 1, s =>
    match s.port.find? (fun p => !p.2.msgWait.isEmpty) with
    | none => s
    | some (k, p) =>
      let d := p.msgWait.headD []
      if !msgFits s k d then s
      else pullMessages n (acceptMsg k d (modPort k (fun p => { p with msgWait := p.msgWait.drop 1 }) s))

/-- Take the oldest record from the queue. -/
def takeRecord (s : State) : State :=
  pullMessages 64 (modTsv (fun t => { t with queue := t.queue.drop 1 }) s)

/-- A record that R321 drops when it is taken up. -/
def recordRefused (r : Record) (s : State) : Option State :=
  if !bit (getPort s r.port).lrnmask r.inst then some (modTsv (fun t => { t with treject := inc32 t.treject }) s)
  else if !instRuns (getInst s r.inst) then some (modTsv (fun t => { t with tdrop := inc32 t.tdrop }) s)
  else none

/-- The flap test (R324). -/
def isFlap (s : State) (r : Record) (y : Entry) : Bool :=
  (entCh y || entPort y != r.port) &&
  decide ((nowUs s - entLtime y).toNat < (tget (1000 : BitVec 16) s.active.tsv.flapwin r.inst).toNat)

/-- The active epoch has taken a learn: it is counted, and the shadow follows. -/
def learned (i : Nat) (y : Entry) (s : State) : State :=
  if inFault s i then s else modInst i (fun x => { x with learns := inc32 x.learns }) (mirrorWrite i y s)

/-- R324 for one LEARN record. -/
def applyLearn (r : Record) (s : State) : State :=
  let i := r.inst
  let x := getInst s i
  let y := newEntry r.id x.agecnt r.port false r.vlo r.vhi (nowUs s) r.uflags
  match findId (activeEp x) r.id with
  | none =>
    match placeNew i x.act y { learn := true, mirror := x.mirroring } s with
    | ((_, true), s) => s
    | (_, s) => learned i y s
  | some (p, old) =>
    if isFlap s r old then
      tsvEvent { type := 2, inst := i, port := r.port, oport := entPort old, id := r.id, data := r.vlo, datahi := r.vhi }
        (modInst i (fun x => { x with flaps := inc32 x.flaps }) s)
    else learned i y (putEntry i x.act p y s)

/-- An entry with the present age. -/
def touched (age : BitVec 16) (y : Entry) : Entry := { y with w0 := masked y.w0 (put 64 age 32) 0x0000FFFF00000000 }

/-- The filter entry of a touch (R326). -/
def filterIdx (r : Record) : Nat := (r.id.toNat % 4096) ^^^ r.inst

/-- R326 for one TOUCH record. -/
def applyTouch (r : Record) (s : State) : State :=
  let i := r.inst
  let x := getInst s i
  match findId (activeEp x) r.id with
  | none => s
  | some (p, y) =>
    let s := mirrorFound i r.id (touched x.agecnt) (putEntry i x.act p (touched x.agecnt y) s)
    if inFault s i then s
    else modTsv (fun t => { t with filter := tset {} t.filter (filterIdx r) { inst := i, id := r.id, cnt := x.agecnt, valid := true } })
      (modInst i (fun x => { x with touches := inc32 x.touches }) s)

/-- A touch that repeats one of the present tick. -/
def touchRepeats (s : State) (r : Record) : Bool :=
  tget {} s.tsv.filter (filterIdx r) == { inst := r.inst, id := r.id, cnt := (getInst s r.inst).agecnt, valid := true }

/-! ### Operations of programs (R101, R327, R334) -/

/-- The instance of a table instruction. -/
def tabInst (w : Word) : Nat := fld w 0 4

/-- The operation is allowed on the instance (R101, R327, R333, R336). -/
def tabAllowed (s : State) (e i : Nat) : Bool :=
  instRuns (getInst s i) && (isWork s e || ((getInst s i).ownv && (getInst s i).owner.toNat == fnOf s e))

/-- TINS (R327): the image has arrived. -/
def opTins (rd : MResp) (e i : Nat) (img : List Byte) (s : State) : State :=
  let x := getInst s i
  let id : Half := bits (wordAt img 0) 0 32
  if !zeroAt (wordAt img 24) 8 56 || !idFits x id then tsvAnswerTo e { code := 0x12 } s
  else
    match bucketRead i (activeEp x) id rd s with
    | (false, s) => tsvAnswerTo e { code := 0x12 } s
    | (true, s) =>
      let y := newEntry id x.agecnt 0 true (wordAt img 8) (bits (wordAt img 16) 0 32) (nowUs s) (bits (wordAt img 24) 0 8)
      match findId (activeEp x) id with
      | some _ => tsvAnswerTo e { z := false, c := some false } s
      | none =>
        match placeNew i x.act y { engine := some e, mirror := x.mirroring } s with
        | ((c, wait), s) =>
          if inFault s i then tsvAnswerTo e { code := 0x12 } s
          else if wait then s
          else
            let s := mirrorWrite i y s
            tsvAnswerTo e (if inFault s i then { code := 0x12 } else { z := true, c := some c }) s

/-- TMOV. -/
def opTmov (rd : MResp) (e i : Nat) (img : List Byte) (s : State) : State :=
  let x := getInst s i
  let id : Half := bits (wordAt img 0) 0 32
  if !zeroAt (wordAt img 24) 8 56 || !idFits x id then tsvAnswerTo e { code := 0x12 } s
  else
    match bucketRead i (activeEp x) id rd s with
    | (false, s) => tsvAnswerTo e { code := 0x12 } s
    | (true, s) =>
      let y := newEntry id x.agecnt 0 true (wordAt img 8) (bits (wordAt img 16) 0 32) (nowUs s) (bits (wordAt img 24) 0 8)
      match findId (activeEp x) id with
      | none => tsvAnswerTo e {} s
      | some (p, _) =>
        let s := mirrorFound i id (fun _ => y) (putEntry i x.act p y s)
        if inFault s i then tsvAnswerTo e { code := 0x12 } s else tsvAnswerTo e { z := true } s

/-- TDEL and TAGE: the found entry is replaced in one write. -/
def opFound (rd : MResp) (e i : Nat) (id : Half) (f : Entry → Entry) (s : State) : State :=
  let x := getInst s i
  match bucketRead i (activeEp x) id rd s with
  | (false, s) => tsvAnswerTo e { code := 0x12 } s
  | (true, s) =>
    match findId (activeEp x) id with
    | none => tsvAnswerTo e {} s
    | some (p, y) =>
      let s := mirrorFound i id f (putEntry i x.act p (f y) s)
      if inFault s i then tsvAnswerTo e { code := 0x12 } s else tsvAnswerTo e { z := true } s

/-- TEPO READ. -/
def opRead (e i : Nat) (s : State) : State :=
  let x := getInst s i
  tsvAnswerTo e { z := x.st == .rebuild, k0 := some (x.gen.zeroExtend 64) } s

/-- The shadow epoch can take a rebuild: its regions have been given addresses (log entry 22), LOG2B 10 to 24 (R334). -/
def shadowReady (x : Inst) : Bool :=
  let ep := epochOf x !x.act
  ep.ebase != 0 && ep.sbase != 0 && decide (10 ≤ ep.log2b.toNat) && decide (ep.log2b.toNat ≤ 24)

/-- TEPO BEGIN. -/
def opBegin (e i : Nat) (s : State) : State :=
  let x := getInst s i
  if x.st == .rebuild then tsvAnswerTo e {} s
  else if !shadowReady x then tsvAnswerTo e { code := 0x12 } s
  else
    tsvAnswerTo e { z := true }
      (writeHeader i (modInst i (fun x => { x with st := .rebuild, copydone := false, mirroring := false }) s))

/-- TEPO ARM: it waits for COPYDONE (R334 step 5, R336). -/
def opArm (e i : Nat) (s : State) : State :=
  let x := getInst s i
  if x.st != .rebuild then tsvAnswerTo e {} s
  else if x.armed then tsvAnswerTo e { z := true } s
  else if x.copydone then tsvAnswerTo e { z := true } (modInst i (fun x => { x with armed := true }) s)
  else tsvAnswerTo e { z := true, waitCopy := true, inst := i } s

/-! ### Whole regions -/

/-- The first part of a region, in accesses of so many bytes, of which a gate denies TSV a granule. What governs a granule changes
only at the bounds of a rule and of the ports' ranges. -/
def regionDenied (s : State) (n : Need) (a len unit : Nat) : Option Nat :=
  let rules (p : Nat) : List (Nat × Rule) := gateRules s.gate.active (68 + lmPortOf s (w64 p))
  let bounds := (gateRules s.gate.active 68 ++ gateRules s.gate.active 69).flatMap (fun r =>
    [r.2.w0.toNat / 4 * 4, r.2.w1.toNat / 4 * 4 + 4]) ++ s.cfg.lmp1.flatMap (fun r => [r.1, r.2 + 1])
  let bad (p : Nat) : Bool := decide (a ≤ p) && decide (p < a + len) && !(granuleVerdict (rules p) tsvWho n p).ok
  ((a :: bounds).filter bad).min?.map (fun p => a + (p - a) / unit * unit)

/-- That access is denied as any other is (R253, R258), and the instance is in FAULT (R333). -/
def regionFault (i : Nat) (n : Need) (unit a : Nat) (s : State) : State :=
  let g := 68 + lmPortOf s (w64 a)
  tsvFault i (w64 a) (denyPrecise g tsvWho n (w64 a) unit (gateCheck s g tsvWho n (w64 a) unit false) s)

/-- Zero the buckets and the stash of an epoch in bursts of 256 bytes (R332 step 2, R334 step 2); the writes of zeroes stand for
the command that reports their end (log entry 23). -/
def zeroEpoch (i : Nat) (e : Bool) (s : State) : State :=
  let ep := epochOf (getInst s i) e
  let len := 128 * 2 ^ ep.log2b.toNat
  match (regionDenied s .wr (arrayBase ep) len 256) <|> (regionDenied s .wr (stashAddr ep 0).toNat 8192 256) with
  | some a => regionFault i .wr 256 a s
  | none =>
    xTsvMany true (stashAddr ep 0) 256 32 (xTsvMany true (w64 (arrayBase ep)) 256 (len / 256)
      (modInst i (modEp e (fun ep => { ep with ways := [], stash := [] })) s))

end Sys2Proof.Machine
end

