-- ==== Sys2Proof/Machine/Program.lean ====
section
/-! DEFINITION. The movement profile (03): the meanings of the instructions an engine executes at its PC, of TSV_ANSWER, and of
the level 1 descriptors. The order of checks is R453's. -/

namespace Sys2Proof.Machine

/-! ### When an instruction is due (R66, R72, R75, R189) -/

/-- The thread of an engine stands at an instruction that may execute now. -/
def mayExec (s : State) (e : Nat) : Bool :=
  live s && s.pf.stage == .normal && (thr s e).phase == .exec && (getEng s e).stop == .none && !engFree s e &&
  lvlOf s e != 1 && !pastEnd s e (thr s e)

/-- The word at PC. -/
def wordHere (s : State) (e : Nat) : Word := let t := thr s e; nthWord t.words (pcIdx t)
/-- The word behind it: the immediate of a two-word instruction. -/
def nextWord (s : State) (e : Nat) : Word := let t := thr s e; nthWord t.words (pcIdx t + 1)

/-- The opcode exists at the level of the program (R66, R76, R104). -/
def opAllowed (s : State) (e o : Nat) : Bool :=
  match opLevel o with
  | some l => decide (l ≤ lvlOf s e)
  | none => false

/-- What the command of one opcode meets. -/
inductive Due
  /-- nothing of this opcode may execute now -/
  | no
  /-- the word at PC is no instruction of this level -/
  | illegal
  | run (w : Word)
  deriving DecidableEq, Repr, Inhabited

def due (s : State) (e o : Nat) : Due :=
  if !mayExec s e then .no
  else
    let w := wordHere s e
    if !opAllowed s e (opc w) then .illegal
    else if opc w != o || (onSpec s e && classH o) then .no
    else .run w

/-- Carry out an instruction: f gives the status of a failure with the state it leaves, or the state after it. -/
def runOp (e o : Nat) (f : Word → State → State) (s : State) : Res :=
  match due s e o with
  | .no => .next s
  | .illegal => .next (engAfter e (failInstr e 0x12 s))
  | .run w => .next (engAfter e (f w s))

/-- A two-word instruction stands in the last program word (R65). -/
def straddles (s : State) (e : Nat) : Bool := decide (progLen (lvlOf s e) (thr s e).words < pcIdx (thr s e) + 1)

/-! ### Register loads (R77 to R79) -/

/-- The value a load of a 64-bit register takes: FORM, OPD, the second word, K registers. -/
def loadValue (s : State) (e : Nat) (w cur third : Word) : Word :=
  match fld w 52 2 with
  | 0 => opdZext w
  | 1 => nextWord s e
  | 2 => cur + opdSext w
  | _ => third
/-- The length of a load in words. -/
def loadLen (w : Word) : Nat := if fld w 52 2 == 1 then 2 else 1

/-- LDS and LDD: the first-word checks, then the straddle. -/
def ldCheck (s : State) (e : Nat) (w : Word) : Option Byte :=
  if !zeroAt w 54 2 || (fld w 52 2 == 1 && !zeroAt w 0 48) || (fld w 52 2 == 3 && !zeroAt w 2 46) then some 0x12
  else if fld w 52 2 == 1 && straddles s e then some 0x13
  else none

def doLds (e : Nat) (w : Word) (s : State) : State :=
  match ldCheck s e w with
  | some c => failInstr e c s
  | none =>
    let r := (thr s e).regs
    let v := loadValue s e w r.s (getK r (fld w 0 2))
    retire e (loadLen w) (modRegs e (fun r => { r with s := v, sspace := bits w 48 4 }) s)
def execLds (e : Nat) (s : State) : Res := runOp e 0x10 (doLds e) s

def doLdd (e : Nat) (w : Word) (s : State) : State :=
  match ldCheck s e w with
  | some c => failInstr e c s
  | none =>
    let r := (thr s e).regs
    let v := loadValue s e w r.d (getK r (fld w 0 2))
    retire e (loadLen w) (modRegs e (fun r => { r with d := v, dspace := bits w 48 4 }) s)
def execLdd (e : Nat) (s : State) : Res := runOp e 0x11 (doLdd e) s

def doLdn (e : Nat) (w : Word) (s : State) : State :=
  let f := fld w 52 2
  let k := getK (thr s e).regs (fld w 0 2)
  if !zeroAt w 48 4 || !zeroAt w 54 2 || f == 1 || f == 2 || (f == 0 && !zeroAt w 32 16) || (f == 3 && !zeroAt w 2 46) then
    failInstr e 0x12 s
  else if f == 3 && !zeroAt k 32 32 then failInstr e 0x12 s
  else retire e 1 (modRegs e (fun r => { r with n := if f == 0 then bits w 0 32 else bits k 0 32 }) s)
def execLdn (e : Nat) (s : State) : Res := runOp e 0x12 (doLdn e) s

/-- The register that FORM 11 of LDK names. -/
def ldkSource (r : Regs) (i : Nat) : Word :=
  match i with
  | 0 => r.s
  | 1 => r.d
  | 2 => r.n.zeroExtend 64
  | n => getK r n

/-- LDK writes a K register; arming a pacing word that differs makes the pacing state FLOWING (R181). -/
def doLdk (e : Nat) (w : Word) (s : State) : State :=
  let f := fld w 52 2
  if !zeroAt w 50 2 || !zeroAt w 54 2 || (f == 1 && !zeroAt w 0 48) || (f == 3 && (!zeroAt w 3 45 || fld w 0 3 == 3)) then
    failInstr e 0x12 s
  else if f == 1 && straddles s e then failInstr e 0x13 s
  else
    let r := (thr s e).regs
    let d := fld w 48 2
    let v := loadValue s e w (getK r d) (ldkSource r (fld w 0 3))
    let s := if !(d == 3 && paceOn v && v != r.k3) then s
             else if onSpec s e then modThr e (fun t => { t with rearmed := true }) s
             else modEng e (fun x => { x with held := false }) s
    retire e (loadLen w) (modRegs e (fun r => setK r d v) s)
def execLdk (e : Nat) (s : State) : Res := runOp e 0x13 (doLdk e) s

/-! ### MOVE and MOVL (R80 to R85) -/

/-- A move begins on the thread of an engine. -/
def beginMove (e : Nat) (m : Move) (s : State) : State :=
  listStep e (modThr e (fun t => { t with phase := .moving, mv := some m }) s)

def doMove (e : Nat) (w : Word) (s : State) : State :=
  if !zeroAt w 0 48 || (bit w 54 && decide (lvlOf s e < 3)) then failInstr e 0x12 s
  else
    let s := modRegs e (fun r => { r with sinc := bit w 48, dinc := bit w 49, swap := bits w 50 2 }) s
    let r := (thr s e).regs
    match moveCheck s e r with
    | some c => failInstr e c s
    | none => beginMove e (newMove r (bits w 52 2) (bit w 54) (bit w 55) none) s
def execMove (e : Nat) (s : State) : Res := runOp e 0x20 (doMove e) s

/-- MOVL: the contiguous side is incrementing under CINC, the list side always (R84). The modes are written before any check
(R127). -/
def doMovl (e : Nat) (w : Word) (s : State) : State :=
  if !zeroAt w 0 48 then failInstr e 0x12 s
  else
    let scat := bit w 48
    let cinc := bit w 49
    let s := modRegs e (fun r => { r with
      sinc := if scat then cinc else true, dinc := if scat then true else cinc, swap := bits w 50 2 }) s
    let r := (thr s e).regs
    match movlCheck s e r scat (bits w 52 4) with
    | some c => failInstr e c s
    | none =>
      if r.n == 0 then retire e 1 s
      else beginMove e (newMove r 0 false false (some (newList r scat (bits w 52 4)))) s
def execMovl (e : Nat) (s : State) : Res := runOp e 0x21 (doMovl e) s

/-! ### WAITF, FENCE, NOTIFY, BRK (R86 to R91) -/

/-- The pacing word of a WAITF. -/
def pacingWord (w : Word) : Word :=
  if bit w 49 then 0
  else put 64 (bits w 16 6) 16 ||| put 64 (bits w 24 6) 24 ||| put 64 (bits w 0 10) 32 ||| putb 64 (bit w 48) 62 |||
    putb 64 true 63

/-- First-word checks of WAITF (R86, R87). -/
def waitfOk (s : State) (w : Word) : Bool :=
  zeroAt w 10 6 && zeroAt w 22 2 && zeroAt w 30 18 && zeroAt w 50 6 &&
  (if bit w 49 then zeroAt w 0 10 && zeroAt w 16 6 && zeroAt w 24 6 && !bit w 48
   else decide (fld w 24 6 < fld w 16 6) && decide (fld w 0 10 < nPorts s))

/-- The engine holds at a WAITF, or goes on (R181). -/
def paceWait (e : Nat) (s : State) : State :=
  let h := paceEval s (getEng s e).main.regs.k3 (getEng s e).held
  let s := modEng e (fun x => { x with held := h }) s
  if h then modEng e (fun x => { x with holdAt := s.time, main := { x.main with phase := .hold } }) s
  else retire e 1 s

def doWaitf (e : Nat) (w : Word) (s : State) : State :=
  if isWork s e || !waitfOk s w then failInstr e 0x12 s
  else
    let k := pacingWord w
    let new := k != (getEng s e).main.regs.k3
    paceWait e (modEng e (fun x => { x with
      held := if new then false else x.held, main := { x.main with regs := { x.main.regs with k3 := k } } }) s)
def execWaitf (e : Nat) (s : State) : Res := runOp e 0x30 (doWaitf e) s

/-- A channel that holds at its WAITF meets a new level: it goes on when the level lets it within PACEHOLD (R181, R182). A move
in progress evaluates its state anew (R180; log entry 74). -/
def repace (e : Nat) (s : State) : State :=
  let x := getEng s e
  if x.main.phase == .hold && x.stop == .none && s.pf.stage == .normal then
    let h := paceEval s x.main.regs.k3 x.held
    let s := modEng e (fun x => { x with held := h }) s
    if h then s else engAfter e (retire e 1 (modMain e (fun t => { t with phase := .exec }) s))
  else if x.main.phase == .moving then engAfter e (evalPace e s)
  else s

/-- FENCE with W = 0 retires at once; so does one with R = 1, for which the spec names no other moment (log entry 77). -/
def doFence (e : Nat) (w : Word) (s : State) : State :=
  if !zeroAt w 0 48 || !zeroAt w 50 6 || (bit w 49 && decide (lvlOf s e < 3)) then failInstr e 0x12 s
  else if !bit w 48 then retire e 1 s
  else modMain e (fun t => { t with phase := .fence, fenceR := bit w 49, flushedPorts := [] }) s
def execFence (e : Nat) (s : State) : Res := runOp e 0x31 (doFence e) s

/-- The status value of a NOTIFY: the code of a success here, the NOTIFY itself not counted (R90). -/
def notifyStatus (t : Thread) : Word := statusWord (doneCode t) (flagsOf false t.regs.b false t.resumed) t.regs.n

def notifyValue (s : State) (e : Nat) (w : Word) : Word :=
  let t := thr s e
  match fld w 52 2 with
  | 0 => notifyStatus t
  | 1 => nextWord s e
  | _ => getK t.regs (fld w 2 2)

def doNotify (e : Nat) (w : Word) (s : State) : State :=
  let f := fld w 52 2
  let a := getK (thr s e).regs (fld w 0 2)
  if !zeroAt w 4 44 || !zeroAt w 54 2 || f == 3 then failInstr e 0x12 s
  else if f == 1 && straddles s e then failInstr e 0x13 s
  else if !listSpaceOk s (bits w 48 4) then failInstr e 0x12 s
  else if !aligned a 8 then failInstr e 0x10 s
  else
    match engWrite e { who := whoOf s e, space := bits w 48 4, addr := a, data := bytesOf (notifyValue s e w) 8,
                       purpose := .notify e } s with
    | (.denied, s) => failInstr e 0x20 s
    | (.go, s) => retire e (if f == 1 then 2 else 1) (modMain e (fun t => { t with accessed := true, flushedPorts := [] }) s)
    | (_, s) => s
def execNotify (e : Nat) (s : State) : Res := runOp e 0x32 (doNotify e) s

def doBrk (e : Nat) (w : Word) (s : State) : State :=
  if !zeroAt w 0 56 then failInstr e 0x12 s else retire e 1 (xbreak e s)
def execBrk (e : Nat) (s : State) : Res := runOp e 0x33 (doBrk e) s

/-! ### ATOM, LOCK, UNLK (R92 to R95, R208, R209) -/

/-- The address checks of R93: alignment, then the destination window of LM. -/
def lockAddr (s : State) (e : Nat) (a : Word) : Option Byte :=
  if !aligned a 8 then some 0x10
  else if !isWork s e && !windowOk 0 (getCtx s (chanOf s e)).dwspace (getCtx s (chanOf s e)).dwbase
      (getCtx s (chanOf s e)).dwlimit a 8 true then some 0x11
  else none

/-- An UPD8 of an engine. -/
def engUpd8 (e : Nat) (a compare cmask value wmask add : Word) (pu : Purpose) (s : State) : Iss × State :=
  xCount (xEng e 0) (issueUpd8 (whoOf s e) a compare cmask value wmask add pu s)

/-- The engine waits for the memory port (R92). -/
def atomWait (e : Nat) : Iss × State → State
  | (.go, s) => modMain e (fun t => { t with phase := .atomic, accessed := true }) s
  | (.denied, s) => failInstr e 0x20 s
  | (_, s) => s

def doAtom (e : Nat) (w : Word) (s : State) : State :=
  let r := (thr s e).regs
  let a := getK r (fld w 0 2)
  let c := getK r (fld w 2 2)
  if !zeroAt w 8 40 || !zeroAt w 49 7 || (bit w 48 && !zeroAt w 4 2) then failInstr e 0x12 s
  else match lockAddr s e a with
    | some code => failInstr e code s
    | none =>
      if bit w 48 then atomWait e (engUpd8 e a 0 0 0 0 c (.atom e) s)
      else atomWait e (engUpd8 e a c 0xFFFFFFFFFFFFFFFF (getK r (fld w 4 2)) 0xFFFFFFFFFFFFFFFF 0 (.atom e) s)
def execAtom (e : Nat) (s : State) : Res := runOp e 0x40 (doAtom e) s

/-- The lease of a LOCK in ns; none when it is outside R94. -/
def leaseOf (w : Word) : Option Nat :=
  let n := fld w 32 10
  match fld w 42 2 with
  | 0 => if 1 ≤ n ∧ n ≤ 1000 then some (n * 1000) else none
  | 1 => if 1 ≤ n ∧ n ≤ 1000 then some (n * 1000000) else none
  | 2 => if 1 ≤ n ∧ n ≤ 4 then some (n * 1000000000) else none
  | _ => none

/-- The entry of a word. -/
def lockAt (s : State) (a : Word) : Option LockEntry := s.lock.entries.find? (fun x => x.addr == a)

/-- A lock word's owner fields and HELD (R206). -/
def lockOwn (s : State) (e : Nat) : Word := w64 (chanOf s e + fnOf s e * 2 ^ 24 + 2 ^ 40)
/-- All of a lock word but GEN. -/
def lockMask : Word := 0x0000FFFFFFFFFFFF

/-- LOCK's table step and access (R208). -/
def takeLock (e : Nat) (a : Word) (lease : Nat) (s : State) : State :=
  let c := chanOf s e
  let x : LockEntry := { addr := a, chan := c, fn := fnOf s e, expiry := s.time + w64 lease }
  match lockAt s a with
  | some y =>
    if y.chan == c && !y.releasing then
      let renew (z : LockEntry) : LockEntry := if z.addr == a then { z with expiry := x.expiry } else z
      atomWait e (engUpd8 e a 0 0 (lockOwn s e) lockMask 0 (.lockRenew e)
        (modLock (fun l => { l with entries := l.entries.map renew }) s))
    else atomWait e (engUpd8 e a 0 0 0 0 0 (.lockBusy e) s)
  | none =>
    if 4096 ≤ s.lock.entries.length then
      failInstr e 0x14 (modLock (fun l => { l with full := inc32 l.full }) s)
    else
      match engUpd8 e a 0 0 (lockOwn s e) lockMask 0x0001000000000000 (.lockTake e) s with
      | (.go, s) => atomWait e (.go, modLock (fun l => { l with entries := l.entries ++ [x] }) s)
      | r => atomWait e r

def doLock (e : Nat) (w : Word) (s : State) : State :=
  let a := getK (thr s e).regs (fld w 0 2)
  if isWork s e || !zeroAt w 2 30 || !zeroAt w 44 12 || (leaseOf w).isNone then failInstr e 0x12 s
  else match lockAddr s e a with
    | some code => failInstr e code s
    | none => takeLock e a ((leaseOf w).getD 0) s
def execLock (e : Nat) (s : State) : Res := runOp e 0x41 (doLock e) s

def doUnlk (e : Nat) (w : Word) (s : State) : State :=
  let a := getK (thr s e).regs (fld w 0 2)
  if isWork s e || !zeroAt w 2 54 then failInstr e 0x12 s
  else match lockAddr s e a with
    | some code => failInstr e code s
    | none =>
      if s.lock.entries.any (fun x => x.addr == a && x.chan == chanOf s e && !x.releasing) then
        match engUpd8 e a 0 0 0 ((1 : Word) <<< 40) 0 (.unlkRelease e) s with
        | (.go, s) => atomWait e (.go, modLock (fun l => { l with
            entries := l.entries.map (fun z => if z.addr == a then { z with releasing := true } else z)
            waiting := l.waiting.filter (fun z => z.addr != a) }) s)
        | (.denied, s) => atomWait e (.denied, lockFree a s)
        | r => atomWait e r
      else atomWait e (engUpd8 e a 0 0 0 0 0 (.unlkNone e) s)
def execUnlk (e : Nat) (s : State) : Res := runOp e 0x42 (doUnlk e) s

/-! ### BR, LINK, END (R96 to R99) -/

/-- The previous status was a success (R97, R157). -/
def lastOk (s : State) (e : Nat) : Bool :=
  let c := if onSpec s e then (getEng s e).main.code else (getCtx s (chanOf s e)).lastcode
  c == 0 || c == 1

/-- The condition of a BR on registers r. -/
def brTaken (s : State) (e : Nat) (w : Word) (r : Regs) : Bool :=
  let k := getK r (fld w 4 2)
  match fld w 48 4 with
  | 0 => true
  | 1 => r.z
  | 2 => !r.z
  | 3 => r.c
  | 4 => !r.c
  | 5 => r.b
  | 6 => !r.b
  | 7 => k == 0
  | 8 => k != 0
  | 9 => k - 1 != 0
  | 10 => !onSpec s e && (thr s e).resumed
  | 11 => lastOk s e
  | 12 => !lastOk s e
  | _ => false

def doBr (e : Nat) (w : Word) (s : State) : State :=
  let t := thr s e
  let n := fld w 0 3
  let c := fld w 48 4
  if !zeroAt w 3 1 || !zeroAt w 6 42 || !zeroAt w 52 4 || decide (13 ≤ c) || n == 0 || n == 7 ||
     decide (progLen (lvlOf s e) t.words < n) || (isWork s e && decide (10 ≤ c)) then failInstr e 0x12 s
  else
    let take := brTaken s e w t.regs
    let s := if c == 9 then modRegs e (fun r => setK r (fld w 4 2) (getK r (fld w 4 2) - 1)) s else s
    if take then modRegs e (fun r => { r with pc := t.a + w64 (8 * n) }) s else retire e 1 s
def execBr (e : Nat) (s : State) : Res := runOp e 0x50 (doBr e) s

/-- LINK ends the descriptor at a target (R98, R138). -/
def linkTo (e : Nat) (a : Word) (sp : BitVec 4) (s : State) : State :=
  if onSpec s e then modThr e (fun t => { t with phase := .complete, regs := { t.regs with pc := a, pspace := sp } }) s
  else
    let s := discardPath e a sp s
    beginComplete e (doneCode (getEng s e).main) (a, sp) s

def doLink (e : Nat) (w : Word) (s : State) : State :=
  let imm := !bit w 52
  let a := if imm then nextWord s e else getK (thr s e).regs (fld w 0 2)
  if isWork s e || !zeroAt w 2 46 || !zeroAt w 53 3 || (imm && !zeroAt w 0 2) then failInstr e 0x12 s
  else if imm && straddles s e then failInstr e 0x13 s
  else if !listSpaceOk s (bits w 48 4) then failInstr e 0x12 s
  else if !aligned a 64 then failInstr e 0x10 s
  else linkTo e a (bits w 48 4) s
def execLink (e : Nat) (s : State) : Res := runOp e 0x51 (doLink e) s

def doEnd (e : Nat) (w : Word) (s : State) : State :=
  if !zeroAt w 0 56 then failInstr e 0x12 s else endProgram e s
def execEndd (e : Nat) (s : State) : Res := runOp e 0x5F (doEnd e) s

/-! ### Table operations (R100, R101, R327) -/

/-- The first-word checks of a table instruction with TOP allowed or not, and the instance's (R101). -/
def tabCheck (s : State) (e : Nat) (w : Word) (top : Bool) : Bool :=
  zeroAt w 4 44 && zeroAt w 50 6 && (top || zeroAt w 48 2) && tabAllowed s e (tabInst w)

/-- An operation reaches TSV, and TSV local memory, through the crossbar (R235). -/
def tabWay (s : State) (e : Nat) : Bool := !xstands s (64 + e / 4) e && tsvWay s

/-- The operation is passed to TSV and the engine waits for its answer. -/
def tabIssue (e : Nat) (op : State → State) (s : State) : State :=
  op (wakeIsl islTsv (xEng e 0 (modMain e (fun t => { t with phase := .table, accessed := true, answer := none }) s)))

/-- TINS and TMOV read their 32-byte image first; with the image in hand TSV receives the operation. -/
def tabImage (e : Nat) (w : Word) (s : State) : State :=
  let r := (thr s e).regs
  let c := getCtx s (chanOf s e)
  if !tabCheck s e w false then failInstr e 0x12 s
  else if !listSpaceOk s r.sspace then failInstr e 0x12 s
  else if !aligned r.s 32 then failInstr e 0x10 s
  else if !isWork s e && !windowOk r.sspace c.swspace c.swbase c.swlimit r.s 32 true then failInstr e 0x11 s
  else if hostBlocked s e then s
  else match engRead e { who := whoOf s e, space := r.sspace, addr := r.s, len := 32, purpose := .image e } s with
    | (.go, s) => modMain e (fun t => { t with phase := .image, accessed := true }) s
    | (.denied, s) => failInstr e 0x20 s
    | (.failed code, s) => failInstr e code s
    | (_, s) => s

/-- The image is in hand and the bucket it concerns is free: the second half of TINS and TMOV. -/
def imageReady (s : State) (e : Nat) : Bool :=
  let t := (getEng s e).main
  live s && s.pf.stage == .normal && t.phase == .imageHere && (getEng s e).stop == .none && tabWay s e &&
  !bucketBusy s (tabInst (nthWord t.words (pcIdx t))) (bits (wordAt t.image 0) 0 32)

def imageOp (e : Nat) (op : Nat → List Byte → State → State) (s : State) : State :=
  let t := (getEng s e).main
  let i := tabInst (nthWord t.words (pcIdx t))
  if !tabAllowed s e i then failInstr e 0x12 s else tabIssue e (op i t.image) s

def execTins (e : Nat) (rd : MResp) (s : State) : Res :=
  if imageReady s e && opc (wordHere s e) == 0x60 then .next (engAfter e (imageOp e (opTins rd e) s))
  else runOp e 0x60 (tabImage e) s
def execTmov (e : Nat) (rd : MResp) (s : State) : Res :=
  if imageReady s e && opc (wordHere s e) == 0x62 then .next (engAfter e (imageOp e (opTmov rd e) s))
  else runOp e 0x62 (tabImage e) s

/-- TDEL and TAGE: the identifier stands in K0[31:0]. -/
def tabFound (rd : MResp) (e : Nat) (f : Inst → Entry → Entry) (w : Word) (s : State) : State :=
  let i := tabInst w
  let id : Half := bits (thr s e).regs.k0 0 32
  if !tabCheck s e w false || !idFits (getInst s i) id then failInstr e 0x12 s
  else if bucketBusy s i id || !tabWay s e then s
  else tabIssue e (opFound rd e i id (f (getInst s i))) s

def execTdel (e : Nat) (rd : MResp) (s : State) : Res := runOp e 0x61 (tabFound rd e (fun _ _ => {})) s
def execTage (e : Nat) (rd : MResp) (s : State) : Res := runOp e 0x63 (tabFound rd e (fun x y => touched x.agecnt y)) s

/-- TEPO with one value of TOP; another value of TOP is another command's. -/
def tepo (e top : Nat) (op : Nat → Nat → State → State) (w : Word) (s : State) : State :=
  if fld w 48 2 == 3 || !tabCheck s e w true then failInstr e 0x12 s
  else if fld w 48 2 != top || !tabWay s e then s
  else tabIssue e (op e (tabInst w)) s
def execTepoRead (e : Nat) (s : State) : Res := runOp e 0x64 (tepo e 0 opRead) s
def execTepoBegin (e : Nat) (s : State) : Res := runOp e 0x64 (tepo e 1 opBegin) s
def execTepoArm (e : Nat) (s : State) : Res := runOp e 0x64 (tepo e 2 opArm) s

/-- The operation retires with TSV's answer (R100). -/
def tabRetire (e : Nat) (a : TableAnswer) (s : State) : State :=
  if a.code != 0 then failInstr e a.code s
  else retire e 1 (modMain e (fun t => { t with
    answer := none, image := []
    regs := { t.regs with z := a.z, c := a.c.getD t.regs.c, k0 := a.k0.getD t.regs.k0 } }) s)

def execTsvAnswer (e : Nat) (s : State) : Res :=
  let t := (getEng s e).main
  match t.answer with
  | some a =>
    if !live s || t.phase != .table || a.waitCopy || engFree s e then .next s else .next (engAfter e (tabRetire e a s))
  | none => .next s

/-! ### Level 1 (R105, R106) -/

/-- A level 1 descriptor is due. -/
def level1Due (s : State) (e : Nat) (link : Bool) : Bool :=
  live s && s.pf.stage == .normal && (thr s e).phase == .exec && (getEng s e).stop == .none && holdsChan s e &&
  lvlOf s e == 1 && bit (nthWord (thr s e).words 2) 44 == link

/-- Reserved fields of R105 are 0. -/
def level1Ok (ws : List Word) : Bool := zeroAt (nthWord ws 2) 45 19 && zeroAt (nthWord ws 3) 60 3

def doLevel1Move (e : Nat) (s : State) : State :=
  let ws := (thr s e).words
  let w2 := nthWord ws 2
  if !level1Ok ws then failInstr e 0x13 s
  else
    let s := modRegs e (fun r => { r with
      s := nthWord ws 0, d := nthWord ws 1, n := bits w2 0 32, sspace := bits w2 32 4, dspace := bits w2 36 4
      sinc := bit w2 40, dinc := bit w2 41, swap := bits w2 42 2 }) (modThr e (fun t => { t with l1 := true }) s)
    let r := (thr s e).regs
    match moveCheck s e r with
    | some c => failInstr e c s
    | none => beginMove e (newMove r 0 false false none) s

def execLevel1MoveDescriptor (e : Nat) (s : State) : Res :=
  if !level1Due s e false then .next s else .next (engAfter e (doLevel1Move e s))

/-- A link descriptor moves nothing and completes DONE_EMPTY with a residual of 0, which it leaves in N as well (log entry 15). -/
def doLevel1Link (e : Nat) (s : State) : State :=
  let ws := (thr s e).words
  let a := nthWord ws 0
  let sp : BitVec 4 := bits (nthWord ws 2) 32 4
  if !level1Ok ws then failInstr e 0x13 s
  else if !listSpaceOk s sp then failInstr e 0x12 s
  else if !aligned a 32 then failInstr e 0x10 s
  else linkTo e a sp (modRegs e (fun r => { r with n := 0 }) s)

def execLevel1LinkDescriptor (e : Nat) (s : State) : Res :=
  if !level1Due s e true then .next s else .next (engAfter e (doLevel1Link e s))

end Sys2Proof.Machine
end

