-- ==== Sys2Proof/Machine/Moves.lean ====
section
/-! DEFINITION. What an engine does while a move, a hold or a direct move is in progress (04, 07): the meanings of
SOURCE_BURST_ISSUE, MOVL_LIST_READ_DONE, DIRECT_MOVE_COMPLETE, WDOG_EXPIRY, PACEHOLD_EXPIRY and PACING_WAKE. -/

namespace Sys2Proof.Machine

/-- The next source burst may be issued (R124, R130, R156, R160, R180, R191, R274). -/
def burstDue (s : State) (e : Nat) (m : Move) : Bool :=
  mayRead s && !engFree s e && (thr s e).phase == .moving && (getEng s e).stop == .none && !hostBlocked s e &&
  (match m.again with
    | [] => decide (m.srcNext < readEnd m) && !needEntry m && decide (openEntries m < 256)
    | x :: _ => decide (x.1 < readEnd m)) && !pacedOut s e m &&
  (!onSpec s e || specMayRead s e m) && !(nextBursts s e m).isEmpty

/-- The next burst waits for a list block whose read has not gone out. -/
def listWaits (s : State) (e : Nat) (m : Move) : Bool :=
  mayRead s && !engFree s e && (thr s e).phase == .moving && (m.list.bind (listDue s e m)).any (fun d => !d.2)

/-- The offset of the burst that is next. -/
def burstAt (m : Move) : Nat := (m.again.head?.map (·.1)).getD m.srcNext

/-- Account for the bytes whose reads have gone out, and for what stopped the rest. -/
def afterBurst (e n : Nat) (iss : Iss) (s : State) : State :=
  let spec := onSpec s e
  let s := if n == 0 then s
           else modThr e (fun t => { t with accessed := true })
             (modMv e (fun m => if m.again.isEmpty then { m with srcNext := m.srcNext + n, specBytes := if spec then m.specBytes + n else 0 }
                               else { m with again := m.again.tail }) s)
  match iss with
  | .denied => modMv e (fun m => addFail (burstAt m) 0x20 true m) s
  | .failed c => modMv e (fun m => addFail (burstAt m) c true m) s
  | .held => modDsp (fun d => { d with specheld := inc32 d.specheld }) (modMv e (fun m => { m with held := true }) s)
  | _ => s

def execSourceBurstIssue (e : Nat) (s : State) : Res :=
  let s' := evalPace e s
  match (thr s' e).mv with
  | none => .next s
  | some m =>
    if listWaits s' e m then .next (engAfter e (listStep e s'))
    else if !burstDue s' e m then .next s
    else
      let (n, iss, s) := presentBursts e m s'
      .next (engAfter e (listStep e (afterBurst e n iss s)))

/-- A block has come and has not been taken up. -/
def arrived (b : ListBlock) : Bool := b.got.isSome && !b.ready

/-- The oldest such block is taken up. -/
def takeUpBlock (l : ListSide) : ListSide := { l with blocks := replaceFirst arrived (fun b => { b with ready := true }) l.blocks }

/-- Every block that has come is taken up. -/
def takeUpBlocks (l : ListSide) : ListSide := { l with blocks := l.blocks.map (fun b => if arrived b then { b with ready := true } else b) }

/-- A list block has returned (R84): the entries it brings are taken as they are needed. -/
def execMovlListReadDone (e : Nat) (s : State) : Res :=
  if !live s || engFree s e then .next s
  else match (thr s e).mv.bind (·.list) with
    | none => .next s
    | some l =>
      if l.blocks.any arrived then .next (engAfter e (listStep e (modMv e (fun m => { m with list := m.list.map takeUpBlock }) s)))
      else .next s

/-- Steps 2 and 3 of R56 are over once the notify word is confirmed. -/
def execDirectMoveComplete (e : Nat) (s : State) : Res :=
  if live s && (getEng s e).main.phase == .dnotify && (getEng s e).stop != .fn && !engFree s e && descSettled s e then
    .next (finishDirect e s)
  else .next s

/-- A descriptor or a direct move that the watchdog times is in progress (R178). -/
def wdogRuns (s : State) (e : Nat) : Bool :=
  holdsChan s e && !(getEng s e).wdFired && (engMid s e || (getEng s e).main.phase == .dnotify)

/-- R178: the flag, the counter, the record and the event; the program goes on. -/
def wdogFire (e : Nat) (s : State) : State :=
  let c := chanOf s e
  let fn := fnOf s e
  evWdog fn (modDsp (fun d => { d with wdcount := inc32 d.wdcount, wdchan := BitVec.ofNat 23 c, wdeng := BitVec.ofNat 5 e })
    (modCtx c (fun x => { x with wdog := true }) (modEng e (fun x => { x with wdFired := true }) s)))

def execWdogExpiry (e : Nat) (s : State) : Res :=
  let l := s.active.disp.wdlimit.toNat
  if live s && wdogRuns s e && l != 0 && decide (l * 1000 < (s.time - (getEng s e).wdStart).toNat) then .next (wdogFire e s)
  else .next s

/-- PACEHOLD has passed at a WAITF that is still HELD: the release begins (R181). -/
def execPaceholdExpiry (e : Nat) (s : State) : Res :=
  let x := getEng s e
  if live s && s.pf.stage == .normal && x.main.phase == .hold && x.stop == .none &&
     decide (s.active.disp.pacehold.toNat * 16 ≤ (s.time - x.holdAt).toNat) then
    .next (engAfter e (modMain e (fun t => { t with phase := .release, flushedPorts := [] }) s))
  else .next s

/-- A wake reaches DSP: the watch entry goes, and a channel in a pacing wait becomes READY (R182). -/
def execPacingWake (s : State) : Res :=
  if !live s || s.pf.stage != .normal || tested s islDsp then .next s
  else match s.dsp.wakes with
    | [] => .next s
    | c :: t =>
      let s := modDsp (fun d => { d with wakes := t }) s
      let x := getCtx s c
      if x.st == .waiting && x.pacing.isSome then
        .next (toReady c (unwatch c s))
      else .next s

end Sys2Proof.Machine
end

