-- ==== Sys2Proof/Machine/Answers.lean ====
section
/-! DEFINITION. Answers from outside (04, 10, 11, 18): the meanings of LM_READ_DATA, LM_WRITE_RESPONSE, LM_UPD8_RESPONSE,
HOST_COMPLETION_PIECE, COMPLETION_TIMEOUT, QUARANTINE_EXPIRY, BARRIER_FLUSH_READ_DONE, BUFFERED_WRITE_ACK,
BUFFERED_WRITE_LEAVE, PORT_WRITE_ACCEPTED and CONTROL_MEMORY_READ_DATA. -/

namespace Sys2Proof.Machine

/-- The status of a memory port answer (R436). -/
def readCode : MResp → Byte
  | .ok => 0
  | .err => 0x21
  | .poison => 0x23
def writeCode : MResp → Byte
  | .ok => 0
  | _ => 0x21

/-! ### The memory ports -/

/-- A read whose answer has a command of its own (log entry 24). -/
def readElsewhere : Purpose → Bool
  | .scanBlock _ => true
  | _ => false

/-- What DSP issues for itself crosses no lane, and neither do the answers to it (log entry 20). -/
def ownAccess : Purpose → Bool
  | .fold _ _ | .foldOr _ _ | .ovfOr _ | .scanAnd _ | .scanFv _ | .scanBlock _ | .owncopy | .evict => true
  | _ => false

/-- An answer waits at the boundary of DSP or of TSV, which is under test (R408). -/
def answerWaits (s : State) (pu : Purpose) : Bool :=
  ownAccess pu && tested s islDsp || (match pu with
    | .tsv _ _ | .stash _ _ _ | .tsvEvent => tested s islTsv
    | _ => false)

/-- An answer of local memory with n bytes of data goes to the crossbar, where it may have to wait. -/
def lmAnswer (r : LmReq) (n : Nat) (a : Answer) (f : State → State) (s : State) : State :=
  if ownAccess r.purpose then f s else crossing a f (xLm r.port r.dl n s)

/-- A read has ended with its data, or fails behind the bytes that came before (R432, R436). -/
def lmReadEnds (r : LmReq) (code : Byte) (d : List Byte) (s : State) : State :=
  let sound := if code == 0 then d.length else if r.bad == 0 then r.got.length else r.badAt
  afterRead r.purpose (readEnds r.purpose r.addr code (d.take sound) (lmRetire r.port r.tag s))

/-- The request with what has arrived of it. -/
def lmKeep (r : LmReq) (code : Byte) (d : List Byte) (s : State) : State :=
  let mine (x : LmReq) : Bool := x.port == r.port && x.tag == r.tag
  { s with lm := replaceFirst mine (fun x => { x with
      got := d, bad := code, badAt := if x.bad == 0 && code != 0 then x.got.length else x.badAt }) s.lm }

/-- Data of a read have crossed. -/
def lmReadData (n tag : Nat) (resp : MResp) (data : List Byte) (s : State) : State :=
  match lmFind s n tag with
  | none => s
  | some r =>
    let d := r.got ++ data.take (r.len - r.got.length)
    let code := if r.bad == 0 then readCode resp else r.bad
    if (code != 0 && data.isEmpty) || d.length == r.len then lmReadEnds r code d s else lmKeep r code d s

def execLmReadData (n tag : Nat) (resp : MResp) (data : List Byte) (s : State) : Res :=
  if s.inReset || tested s (islLmp n) then .next s
  else match lmFind s n tag with
    | none => .next s
    | some r =>
      if r.op != .read || readElsewhere r.purpose || answerWaits s r.purpose then .next s
      else .next (lmAnswer r data.length (.lmRead n tag resp data) (lmReadData n tag resp data) s)

/-- A write of TSV that failed is a fault of its instance (R333). -/
def tsvWriteEnds (pu : Purpose) (a : Word) (code : Byte) (s : State) : State :=
  match pu with
  | .tsv i _ => if code == 0 then s else tsvFault i a s
  | _ => s

/-- A write whose response has a command of its own: a relocation's stash write (log entry 24). -/
def writeElsewhere : Purpose → Bool
  | .stash _ _ _ => true
  | _ => false

/-- The response to a write has crossed. -/
def lmWriteResp (n tag : Nat) (resp : MResp) (s : State) : State :=
  match lmFind s n tag with
  | none => s
  | some r =>
    let code := writeCode resp
    afterWrite r.purpose (writeEnds r.purpose r.len code (tsvWriteEnds r.purpose r.addr code (lmRetire r.port r.tag s)))

def execLmWriteResponse (n tag : Nat) (resp : MResp) (s : State) : Res :=
  if s.inReset || tested s (islLmp n) then .next s
  else match lmFind s n tag with
    | none => .next s
    | some r =>
      if r.op == .read || r.op == .upd8 || writeElsewhere r.purpose || answerWaits s r.purpose then .next s
      else .next (lmAnswer r 0 (.lmWrite n tag resp) (lmWriteResp n tag resp) s)

/-! ### UPD8 answers (R44, R46, R92, R208, R209, R434) -/

/-- The registers after an ATOM (R92). T is written last. -/
def atomRegs (w old : Word) (r : Regs) : Regs :=
  let c := getK r (fld w 2 2)
  let r := if bit w 48 then { r with z := old + c == 0, c := decide (2 ^ 64 ≤ old.toNat + c.toNat) }
           else { r with z := old == c, c := false }
  setK r (fld w 6 2) old

/-- An ATOM, LOCK or UNLK retires. -/
def atomRetire (e : Nat) (f : Regs → Regs) (s : State) : State := retire e 1 (modMain e (fun t => { t with regs := f t.regs }) s)

/-- The entry that a failed LOCK had installed is removed (R208 step 5). -/
def lockUndo (e : Nat) (a : Word) (s : State) : State :=
  if s.lock.entries.any (fun x => x.addr == a && x.chan == chanOf s e) then lockFree a s else s

/-- What the answer of an engine's UPD8 does. -/
def engUpd8Ends (r : LmReq) (e : Nat) (resp : MResp) (old : Word) (s : State) : State :=
  let ok := resp == .ok
  match r.purpose with
  | .atom _ => if ok then atomRetire e (atomRegs (wordHere s e) old) s else failInstr e (readCode resp) s
  | .lockTake _ =>
    if ok then atomRetire e (fun x => { x with z := true, b := x.b || bit old 40 || bit old 41 }) s
    else failInstr e 0x21 (lockUndo e r.addr s)
  | .lockRenew _ => if ok then atomRetire e (fun x => { x with z := true }) s else failInstr e 0x21 s
  | .lockBusy _ => if ok then atomRetire e (fun x => { x with z := false }) s else failInstr e 0x21 s
  | .unlkRelease _ =>
    let s := lockFree r.addr s
    if ok then atomRetire e (fun x => { x with z := true }) s else failInstr e 0x21 s
  | .unlkNone _ => if ok then atomRetire e (fun x => { x with z := false }) s else failInstr e 0x21 s
  | _ => s

/-- What the answer of a UPD8 of DSP or an intake does. The word that the update leaves is kept as the context's word 15. The
spec names no outcome where the bitmap OR for a full ready store (R172) is answered with ERR or POISON: no bit is set, nothing
more is done, and the channel stays READY outside its queue (DESIGN CHOICE; log entry 88). -/
def dspUpd8Ends (r : LmReq) (resp : MResp) (old : Word) (s : State) : State :=
  let ok := resp == .ok
  let new := upd8 old r.compare r.cmask r.value r.wmask r.add
  match r.purpose with
  | .fold k c =>
    if ok && old &&& r.cmask == r.compare &&& r.cmask then
      let s := modCtx c (fun x => { x with fold := new }) s
      if drives s then bitmapOr c (.foldOr k c) s else bumpDbdrop k s
    else bumpDbdrop k s
  | .foldOr k c => if ok then bumpDbfold k (markBitmap c s) else bumpDbdrop k s
  | .ovfOr c => if ok then markBitmap c s else s
  | .scanAnd c =>
    if ok then
      dspUpd8 (foldAddr s c) 0 0 0 ((1 : Word) <<< 39) 0 (.scanFv c)
        (modDsp (fun d => { d with bitmap := setDel c d.bitmap }) s)
    else scanNext (summaryAgain (bitmapBlock c) s)
  | .scanFv c =>
    if ok then scanApply c old (modCtx c (fun x => { x with fold := new }) s)
    else scanNext (summaryAgain (bitmapBlock c) s)
  | _ => s

/-- The response to a UPD8 has crossed, or has reached DSP. -/
def lmUpd8Resp (n tag : Nat) (resp : MResp) (old : Word) (s : State) : State :=
  match lmFind s n tag with
  | none => s
  | some r =>
    let s := lmRetire r.port r.tag s
    match purposeEng r.purpose with
    | some e => barrierStep (engAfter e (engUpd8Ends r e resp old s))
    | none => barrierStep (dspUpd8Ends r resp old s)

def execLmUpd8Response (n tag : Nat) (resp : MResp) (old : Word) (s : State) : Res :=
  if s.inReset || tested s (islLmp n) then .next s
  else match lmFind s n tag with
    | none => .next s
    | some r =>
      if r.op != .upd8 || r.purpose == .owncopy || answerWaits s r.purpose then .next s
      else .next (lmAnswer r 8 (.lmUpd8 n tag resp old) (lmUpd8Resp n tag resp old) s)

/-! ### Host completions (R274 to R280) -/

/-- The slot a tag value can name. -/
def tagSlot (t : Nat) : Option Nat :=
  if t < 0x100 then some t else if t < 0x400 then some (t - 0x100)
  else if 0x1000 ≤ t ∧ t < 0x2000 then some (t - 0x1000) else none

/-- The allocated slot a tag names, with its number. -/
def taggedSlot (s : State) (h : Nat) (t : BitVec 14) : Option (Nat × Slot) :=
  match tagSlot t.toNat with
  | none => none
  | some i => match getSlot s h i with
    | some x => if linkTag x.tagw i == t.toNat then some (i, x) else none
    | none => none

/-- LATELOG and the LATE_CPL event (R279, R289). -/
def lateLog (h : Nat) (t : BitVec 14) (fn : Option Nat) (s : State) : State :=
  let s := modHp h (fun p => { p with
    lateTag := t, lateUnexp := fn.isNone, lateFn := BitVec.ofNat 10 (localOf (fn.getD 0)), lateSeam := s.seam
    latecnt := if fn.isSome then inc32 p.latecnt else p.latecnt
    unexcnt := if fn.isNone then inc32 p.unexcnt else p.unexcnt }) s
  evS 11 (match fn with
    | some f => postCause 7 f s
    | none => modFn (h * 1024 + (getHp s h).evglob.toNat) (fun f => { f with evcause := f.evcause ||| (1 : BitVec 11) <<< 7 }) s)

/-- The slot is quarantined for twice its CTO (R277). -/
def quarantine (h i : Nat) (s : State) : State :=
  resetsDone h (modSlot h i (fun x => { x with quarUntil := some (s.time + w64 (2 * x.cto)), purpose := .dropped }) s)

/-- The old-rule writes of a function on a port are settled by its barrier flush read, with or without error (R278). -/
def barrierReadEnds (h fn wseq : Nat) (s : State) : State :=
  modHp h (fun p => { p with posted := endOld (fun w => w.old && !w.xheld && w.fn == fn && decide (w.seq < wseq)) p.posted }) s

/-- A host read has ended: what its purpose makes of it. A data read delivers whole bursts as they arrive; here it fails, or
its last bytes have come. -/
def hostEnds (h : Nat) (x : Slot) (code : Byte) (s : State) : State :=
  match x.purpose with
  | .src e off =>
    if code == 0 then afterRead x.purpose s
    else afterRead x.purpose (srcFails e (off + x.got.length) code s)
  | .barrier fn => barrierStep (barrierReadEnds h fn x.wseq s)
  | .cairn => modPf (fun p => { p with stage := if p.stage == .hostcopy then .held else p.stage }) s
  | pu =>
    if isFlush pu then afterWrite pu (flushEnds pu h x.fn x.wseq code s)
    else
      let sound := x.poisonAt.getD x.got.length
      afterRead pu (readEnds pu x.addr (if x.poisonAt.isSome then 0x23 else code) (x.got.take sound) s)

/-- Bytes of a source read reach staging: the bursts that are now whole, and a poisoned piece's failure (R116, R276). -/
def hostStage (x : Slot) (d : List Byte) (poison : Bool) (s : State) : State :=
  match x.purpose with
  | .src e off =>
    let s := if poison then srcFails e (off + x.got.length) 0x23 s else s
    let lo := wholeBursts s e off x.got.length x.len
    let hi := wholeBursts s e off (x.got.length + d.length) x.len
    let all := x.got ++ d
    srcBytes e (off + lo) ((all.drop lo).take (hi - lo)) s
  | _ => s

/-- The piece breaks R275. -/
def pieceBad (x : Slot) (p : Piece) : Bool :=
  p.offset != x.got.length || decide (x.len < x.got.length + p.data.length) ||
  (decide (0 < p.offset) && (x.addr.toNat + p.offset) % 64 != 0)

/-- A slot's read ends by an answer: the slot is freed. -/
def slotDone (h i : Nat) (x : Slot) (code : Byte) (s : State) : State := hostEnds h x code (slotFree h i s)

/-- A live read receives a piece (R275, R276). -/
def pieceLive (h i : Nat) (x : Slot) (p : Piece) (s : State) : State :=
  if p.status != 0 then slotDone h i x 0x21 s
  else if pieceBad x p then hostEnds h x 0x21 (quarantine h i s)
  else
    let got := x.got ++ p.data
    let y := { x with got := got, poisonAt := if p.poison then some (x.poisonAt.getD x.got.length) else x.poisonAt }
    let s := hostStage x p.data p.poison s
    if got.length == x.len then slotDone h i y 0 s
    else
      let s := modSlot h i (fun _ => y) s
      match x.purpose with
      | .src e _ => engAfter e s
      | _ => s

/-- A piece for an abandoned read, or for a quarantined slot, is discarded (R277, R279, R280). -/
def pieceGone (h i : Nat) (x : Slot) (p : Piece) (count : Bool) (s : State) : State :=
  let got := x.got ++ p.data
  if p.status != 0 || decide (x.len ≤ got.length) then
    barrierStep (slotFree h i (if count then modHp h (fun p => { p with discnt := inc32 p.discnt }) s else s))
  else modSlot h i (fun x => { x with got := got }) s

/-- What a timeout reports: at once; when the descriptor is confirmed, for a speculative read (R162); or never. Of an extended
read at PC only the descriptor at PC is not speculative (R155). -/
def timeoutTold (h : Nat) (x : Slot) (s : State) : State :=
  match x.purpose with
  | .ahead _ _ _ _ => s
  | .desc e _ => if descSize (lvlOf s e) ≤ x.got.length then s else reportTimeout h x.fn s
  | .src e _ | .list e =>
    if onSpec s e then modThr e (fun t => { t with timeouts := t.timeouts ++ [x.fn] }) s else reportTimeout h x.fn s
  | _ => if x.disc == .spec then s else reportTimeout h x.fn s

/-- A read times out (R277): the first burst with a byte missing fails, the slot is quarantined. -/
def timeoutSlot (h i : Nat) (x : Slot) (s : State) : State :=
  let s := timeoutTold h x (quarantine h i s)
  if x.disc != .no || x.purpose == .dropped then barrierStep s else hostEnds h x 0x22 s

/-- A host read whose completion has a command of its own (log entry 24). -/
def answeredElsewhere : Purpose → Bool
  | .barrier _ | .cairn => true
  | _ => false

/-- A piece has crossed, or ends at the host port. -/
def hostPiece (h : Nat) (piece : Piece) (s : State) : State :=
  match taggedSlot s h piece.tag with
  | none => if piece.timeout then s else lateLog h piece.tag none s
  | some (i, x) =>
    if x.quarUntil.isSome then
      if piece.timeout then s else pieceGone h i x piece false (lateLog h piece.tag (some x.fn) s)
    else if piece.timeout then timeoutSlot h i x s
    else if answeredElsewhere x.purpose then s
    else if x.disc != .no then pieceGone h i x piece (x.disc == .stop) s
    else pieceLive h i x piece s

/-- The pieces of a read that wait to cross (R235). -/
def piecesBehind (s : State) (h : Nat) (t : BitVec 14) : List Piece :=
  s.xback.filterMap (fun a => match a with
    | .piece k p => if k == h && p.tag == t then some p else none
    | _ => none)

/-- Data of a read that is still used go to the crossbar; everything else ends at the port. A timeout follows the pieces that
came before it. -/
def pieceIn (h : Nat) (piece : Piece) (s : State) : State :=
  match taggedSlot s h piece.tag with
  | none => hostPiece h piece s
  | some (_, x) =>
    let used := x.quarUntil.isNone && x.disc == .no && !answeredElsewhere x.purpose
    if used && (!piece.timeout || !(piecesBehind s h piece.tag).isEmpty) then
      crossing (.piece h piece) (hostPiece h piece)
        (if piece.timeout then s else xHost h x.fn x.dl piece.data.length s)
    else hostPiece h piece s

def execHostCompletionPiece (h : Nat) (piece : Piece) (s : State) : Res :=
  if s.inReset || decide (nHosts s ≤ h) || tested s (islHpt h) then .next s else .next (pieceIn h piece s)

/-- What has come of a read and waits to cross ends it: it does not time out (R235, R277). -/
def behindEnds (s : State) (h i : Nat) (x : Slot) : Bool :=
  let ps := piecesBehind s h (BitVec.ofNat 14 (linkTag x.tagw i))
  ps.any (fun p => p.status != 0 || p.timeout) || decide (x.len ≤ x.got.length + (ps.map (·.data.length)).foldl (· + ·) 0)

/-- A timeout found by the block itself, as a piece. -/
def timeoutPiece (i : Nat) (x : Slot) : Piece :=
  { tag := BitVec.ofNat 14 (linkTag x.tagw i), status := 0, poison := false, timeout := true, offset := 0, data := [] }

def execCompletionTimeout (h slot : Nat) (s : State) : Res :=
  if s.inReset || tested s (islHpt h) then .next s
  else match getSlot s h slot with
    | none => .next s
    | some x =>
      if x.quarUntil.isSome || decide ((s.time - x.issued).toNat < x.cto) || behindEnds s h slot x then .next s
      else .next (pieceIn h (timeoutPiece slot x) s)

/-- The time of a quarantine has passed: the slot is freed (R277). -/
def execQuarantineExpiry (h slot : Nat) (s : State) : Res :=
  if s.inReset || tested s (islHpt h) then .next s
  else match getSlot s h slot with
    | some x => match x.quarUntil with
      | some t => if s.time.toNat < t.toNat then .next s else .next (slotFree h slot s)
      | none => .next s
    | none => .next s

/-- A barrier flush read completes (R278). -/
def execBarrierFlushReadDone (h slot : Nat) (s : State) : Res :=
  if s.inReset || tested s (islHpt h) then .next s
  else match getSlot s h slot with
    | some x => match x.purpose with
      | .barrier _ => if x.quarUntil.isSome then .next s else .next (slotDone h slot x 0 s)
      | _ => .next s
    | none => .next s

/-! ### Buffered targets (R254, R255, R299) -/

/-- Bytes in the control memory's write buffer. -/
def cbufBytes (s : State) : Nat := (s.cbuf.map (fun w => if w.undef then 0 else w.data.length)).foldl (· + ·) 0

/-- The oldest write in front of a buffer enters it, and is confirmed (R121, R254). One to control memory at or above its end has
TARGET_ERROR instead (R339; log entry 57). -/
def ackWrite (w : BufWrite) (s : State) : State := afterWrite w.purpose (writeEnds w.purpose w.data.length 0 s)

def execBufferedWriteAck (t : BufTarget) (s : State) : Res :=
  if !mayIssue s then .next s
  else match t with
    | .port p =>
      let k := getPort s p
      match k.wwait with
      | [] => .next s
      | w :: rest =>
        if tested s (islPort p) || w.xheld || decide (4 ≤ k.wbuf.length) then .next s
        else
          let entry (k : Port) : Port := { k with wwait := rest, wbuf := k.wbuf ++ [{ w with ord := k.ord }], ord := k.ord + 1 }
          .next (ackWrite w (modPort p entry s))
    | .ctl =>
      match s.cwait with
      | [] => .next s
      | w :: rest =>
        if w.xheld || decide (4096 < cbufBytes s + w.data.length) then .next s
        else if 0x1000000 ≤ w.addr.toNat then
          .next (afterWrite w.purpose (writeEnds w.purpose w.data.length 0x21 (undefJoin { s with cwait := rest })))
        else .next (ackWrite w (undefJoin { s with cwait := rest, cbuf := s.cbuf ++ [w] }))

/-- The requester of a buffered write. -/
def whoBuf (w : BufWrite) : Who := { cls := w.cls, fn := w.fn, chan := w.chan, engine := w.engine, core := w.core }

/-- Bytes of a write to control memory: on a fixed side every granule falls on the same address (R115). -/
def cmemPut (w : BufWrite) (m : List Host.Cell) : List Host.Cell :=
  if w.fix then (cutData w.data.length 4 0 w.data).foldl (fun m x => memWrite m w.addr.toNat x.2) m
  else memWrite m w.addr.toNat w.data

/-- Bytes that an overlap has left undefined take their values, in front of the next write (R114). -/
def undefLand : List BufWrite → State → State
  | [], s => { s with cbuf := [] }
  | w :: t, s => if w.undef then undefLand t { s with cmem := cmemPut w s.cmem } else { s with cbuf := w :: t }

/-- A buffered write leaves its buffer (R255): denied and dropped with a notice, dropped at a port that is down, or delivered.
Reads that entered the port before it go first (R296). A core's store narrower than a granule is checked as its granule
(R243, R258). Control memory is inside the block: its buffer drains in every stage (R398, R399). A speculative read that waits
at a link below v3 may stand for ever (R298), so later writes of its port pass it, though R296 lets no write pass a read (DESIGN
CHOICE; log entry 85). -/
def execBufferedWriteLeave (t : BufTarget) (s : State) : Res :=
  match t with
    | .port p =>
      let k := getPort s p
      if !mayIssue s || tested s (islPort p) then .next s else
      match k.wbuf with
      | [] => .next s
      | w :: rest =>
        let v := if w.checked then { ok := true } else gateCheck s (p / 16) (whoBuf w) .wr w.addr w.data.length w.fix
        let gone := modPort p (fun k => { k with wbuf := rest }) s
        if portDown k then .next (modPort p (fun k => { k with ldrop := inc32 k.ldrop }) gone)
        else if k.lstate != .up || k.sending.isSome || k.rwait.any (fun r => decide (r.ord < w.ord) && (!r.spec || k.ver == 3)) then
          .next s
        else if !v.ok then .next (portPump p (denyNotice (p / 16) (whoBuf w) w.addr w.data.length v gone))
        else .next (sendLane p (writeTokens w) (modPort p (fun k => { k with sending := some { w with checked := true } }) gone))
    | .ctl =>
      if s.inReset then .next s else
      let s := undefLand s.cbuf s
      match s.cbuf with
      | [] => .next s
      | w :: rest =>
        let a := alignDown w.addr 4
        let n := max w.data.length 4
        let v := gateCheck s 70 (whoBuf w) .wr a n w.fix
        let s := { s with cbuf := rest }
        if !v.ok then .next (barrierStep (denyNotice 70 (whoBuf w) a n v s))
        else .next (barrierStep (eccMend w.addr.toNat (if w.fix then 4 else w.data.length) { s with cmem := cmemPut w s.cmem }))

/-- The port has accepted the last token of a write (R299): it has finished at its target (R263). -/
def execPortWriteAccepted (p : Nat) (s : State) : Res :=
  if s.inReset || tested s (islPort p) then .next s
  else match (getPort s p).sending with
    | none => .next s
    | some _ =>
      .next (barrierStep (portPump p (modPort p (fun k => { k with sending := none, reqAt := none }) (stir p s))))

/-- The read of control memory that is answered next for an engine: its own, or one that was abandoned. -/
def ctlReadOf (s : State) (e : Nat) : Option (CtlRead × List CtlRead) :=
  (pick (fun r : CtlRead => !r.xheld && purposeEng r.purpose == some e) s.cread) <|>
    (pick (fun r : CtlRead => !r.xheld && r.purpose == .dropped) s.cread)

/-- The data have crossed. Movement work reads no byte at or above the end of control memory (R339), and none of a word that
holds an uncorrectable error (log entry 75). -/
def ctlReadData (e : Nat) (s : State) : State :=
  match ctlReadOf s e with
  | none => s
  | some (r, rest) =>
    let s := { s with cread := rest }
    let d := if r.fix then (List.range (r.len / 4)).flatMap (fun _ => memRead s.cmem r.addr.toNat 4)
             else memRead s.cmem r.addr.toNat r.len
    let n := if r.fix then 4 else r.len
    let hit := eccAt s r.addr.toNat n
    let out := decide (0x1000000 < r.addr.toNat + n) || hit
    afterRead r.purpose (readEnds r.purpose r.addr (if out then 0x21 else 0) (if out then [] else d)
      (softRead 11 r.addr.toNat n (if hit then eccCount 11 s else s)))

/-- Data of a read of control memory for movement work arrive (R376). The spec names no requester that carries them; CTL does
(log entry 20). -/
def execControlMemoryReadData (e : Nat) (s : State) : Res :=
  if s.inReset then .next s
  else match ctlReadOf s e with
    | none => .next s
    | some (r, _) => .next (crossing (.ctlRead e) (ctlReadData e) (xCtlData r.dl r.len s))

end Sys2Proof.Machine
end

