-- ==== Sys2Proof/Machine/Islands.lean ====
section
/-! DEFINITION. Islands (16 R387 to R391, R407): which may idle, which are idle, and the passing of block time, over which an
island that works is not idle. -/

namespace Sys2Proof.Machine

/-! ### Islands (R387, R391, R407) -/

/-- An island that may idle: ENG0 to ENG7, XBR, TSV, PCL00 to PCL63. -/
def islIdles (i : Nat) : Bool := (decide (2 ≤ i) && decide (i ≤ 11)) || (decide (18 ≤ i) && decide (i ≤ 81))
/-- An island the configuration has. -/
def islPresent (s : State) (i : Nat) : Bool :=
  if s.cfg.compact then i == 0 || i == 1 || i == 2 || i == 3 || i == 10 || i == 11 || i == 12 || i == 16 ||
    (decide (18 ≤ i) && decide (i < 34))
  else decide (i < 82)
/-- MAXST as it acts. -/
def maxstOf (p : PowerCfg) (i : Nat) : BitVec 2 :=
  if i == islXbr then (if (tget (1 : BitVec 2) p.maxst i) == 0 then 0 else 1)
  else
    let m := tget (2 : BitVec 2) p.maxst i
    if m == 3 then 2 else m

/-- ENG0 to ENG7. -/
def engIsland (i : Nat) : Bool := decide (2 ≤ i) && decide (i ≤ 9)

/-- AGELIM of an instance (R328). -/
def agelimOf (s : State) (i : Nat) : Nat := (tget (300 : BitVec 15) s.active.tsv.agelim i).toNat

/-- Staged bytes of a thread that have not been written. -/
def thrStaged (t : Thread) : Nat :=
  match t.mv with
  | some m => (m.staged.map (fun x => x.2.length)).foldl (· + ·) 0
  | none => 0

/-- Read data that has come and still stands in the staging buffer of XBR. -/
def readsHeld (s : State) : Bool :=
  s.lm.any (fun r => r.purpose != .dropped && !r.got.isEmpty) ||
  s.hp.any (fun h => h.2.slots.any (fun x => x.2.quarUntil.isNone && x.2.disc == .no && !x.2.got.isEmpty))

/-- An island is idle (R388). -/
def islIdle (s : State) (i : Nat) : Bool :=
  if engIsland i then
    s.eng.all (fun e => e.1 / 4 + 2 != i || e.2.hold == .none) && !anyOut (fun p => match purposeEng p with
      | some e => e / 4 + 2 == i
      | none => false) s && !goneOut (fun e => e / 4 + 2 == i) s
  else if i == islXbr then
    s.xbar.lanes.all (fun l => (laneReq l.2).isNone) && s.xbar.fresh.isEmpty && s.xbar.pend.isEmpty &&
      s.eng.all (fun e => thrStaged e.2.main == 0 && e.2.spec.all (fun t => thrStaged t == 0)) && !readsHeld s
  else if i == islTsv then
    s.tsv.queue.isEmpty && s.eng.all (fun e => e.2.main.phase != .table) &&
      s.tsv.inst.all (fun x => !instRuns x.2 || (x.2.st != .rebuild && agelimOf s x.1 == 0))
  else
    s.port.all (fun p => p.1 / 16 + 18 != i ||
      (p.2.wwait.isEmpty && p.2.wbuf.isEmpty && p.2.sending.isNone && p.2.reads.isEmpty && p.2.rwait.isEmpty && p.2.inq.isEmpty &&
       (portDown p.2 || (p.2.lstate == .up && decide (2 ≤ p.2.pwr.toNat)))))

/-- The islands that could idle and do not, in RUN. -/
def busyIslands (s : State) : List Nat :=
  (List.range 82).filter (fun i => islIdles i && islPresent s i && (getIsl s i).pst == 0 && !islIdle s i)

/-! ### Mirrored copies (R11, R14) -/

/-- What a mirrored register would show of the block as it stands. -/
def present (s : State) : Seen :=
  { shpend := s.shpend, dsp := s.dsp, fn := s.fn, eng := s.eng, lock := s.lock, xbar := s.xbar, cluster := s.cluster
    gate := s.gate, hp := s.hp, port := s.port, tsv := s.tsv, ctl := s.ctl, mbx := s.mbx, pf := s.pf, island := s.island
    st := s.st }

/-- The time a crossing to CTL takes, in ns: 2 to 4 of its cycles (R14; log entry 33). -/
def crossNs (s : State) : Nat := 2 + min s.cfg.cross.toNat 2

/-- The block has stood as it stands up to now; at time t the states have arrived whose crossing is over by then. -/
def mirrorTo (t : Word) (s : State) : State :=
  let all := s.crossing ++ [(s.time, present s)]
  let past (x : Word × Seen) : Bool := decide (x.1.toNat + crossNs s ≤ t.toNat)
  { s with seen := ((all.filter past).getLast?.map (·.2)).getD s.seen, crossing := all.filter (fun x => !past x) }

/-- Block time goes on. What has not been idle up to now counts its idleness from now (R387). -/
def timeTo (t : Word) (s : State) : State :=
  let s := mirrorTo t s
  forAll (busyIslands s) (fun i s => modIsl i (fun x => { x with since := t }) s) { s with time := t }

end Sys2Proof.Machine
end

