-- ==== Sys2Proof/Machine/Seams.lean ====
section
/-! DEFINITION. Seams (16 R383 to R386): the swap of shale settings, overdue and starvation marks (09), the swap of gate rules
(R261) and of table epochs (R334), clock trims (R417); and the meanings of SEAM, SLOT_BOUNDARY, SHARM, GATE_RULE_WRITE,
GATE_BARRIER_ARM and VLOGRD_WRITE. -/

namespace Sys2Proof.Machine

/-! ### Islands (R390) -/

/-- A present island whose state is deeper than its policy now allows wakes (R390). -/
def wakeDeep (s : State) : State :=
  let wake (i : Nat) (x : Island) : Island :=
    if maxstOf s.active.power i < x.pst then { x with since := s.time, pst := 0 } else x
  { s with island := tmap wake s.island }

/-! ### Shale swaps (R385) -/

/-- The active copy of each armed group becomes its shadow copy. -/
def swapped (m : BitVec 7) (a sh : Shale) : Shale :=
  { spec := if bit m 0 then sh.spec else a.spec
    disp := if bit m 1 then sh.disp else a.disp
    xarb := if bit m 2 then sh.xarb else a.xarb
    carb := if bit m 3 then sh.carb else a.carb
    link := if bit m 4 then sh.link else a.link
    tsv := if bit m 5 then sh.tsv else a.tsv
    power := if bit m 6 then sh.power else a.power }

/-- A port whose PACEEN has become 0 wakes its watch list, and lets every program that holds go on (R185). -/
def wakePaced (old : State) (s : State) : State :=
  let off (p : Nat) : Bool := paceEnabled old p && !paceEnabled s p
  let woken := (s.port.filter (fun kp => off kp.1)).flatMap (fun kp => kp.2.watch.map (·.chan))
  let s := modDsp (fun d => { d with wakes := d.wakes ++ woken.filter (fun c => !d.wakes.contains c) }) s
  forAll ((s.eng.filter (fun e => let k := e.2.main.regs.k3; paceOn k && off (pacePort k))).map (·.1)) repace s

def swapShale (s : State) : State :=
  if s.shpend == 0 then s
  else
    let old := s
    let s := { s with active := swapped s.shpend s.active s.shadow, shpend := 0, shseam := s.seam }
    wakeDeep (if bit old.shpend 1 then wakePaced old s else s)

/-! ### Overdue and starvation (R221, R234) -/

/-- The deadline has come: it no longer lies in the future of the present time. Log entry 26. -/
def isOverdue (s : State) (d : BitVec 20) : Bool := !dlAhead (now20 s) d

/-- STARVTH as it acts. -/
def starveLimit (th : Byte) : Nat := max th.toNat 1

/-- One seam more without a grant. -/
def waitOn (s : State) (r : XReq) : XReq :=
  { r with overdue := r.overdue || isOverdue s r.deadline, waited := if s.xbar.freeze then r.waited else r.waited + 1 }

/-- The requests that now starve. -/
def newStarved (lim : Nat) (l : List XReq) : List XReq := l.filter (fun r => !r.starved && decide (lim < r.waited))
def markStarved (lim : Nat) (r : XReq) : XReq := if lim < r.waited then { r with starved := true } else r

/-- A starved request at the crossbar: count, record, report. -/
def xstarve (r : XReq) (s : State) : State :=
  postBlock (evS 14 (modXbar (fun x => { x with
    starvcnt := inc32 x.starvcnt, sreq := if x.starve then x.sreq else BitVec.ofNat 7 r.idx, starve := true }) s))

/-- Of several requests that first starve at one seam, STARVE's record names the one that stands first among those presented, those
pending and those told "not parked"; of several ports the lowest (DESIGN CHOICE; log entry 90). -/
def xbarSeam (s : State) : State :=
  let lim := starveLimit s.active.xarb.starvth
  let s := modXbar (fun x => { x with
    slot := 0
    fresh := x.fresh.map (waitOn s), pend := x.pend.map (waitOn s), unparked := x.unparked.map (fun u => (waitOn s u.1, u.2))
    lanes := x.lanes.map (fun l => match l.2 with
      | .held r b => (l.1, .held { r with overdue := r.overdue || isOverdue s r.deadline } b)
      | _ => l) }) s
  let late := newStarved lim (s.xbar.fresh ++ s.xbar.pend ++ s.xbar.unparked.map (·.1))
  let s := modXbar (fun x => { x with
    fresh := x.fresh.map (markStarved lim), pend := x.pend.map (markStarved lim)
    unparked := x.unparked.map (fun u => (markStarved lim u.1, u.2)) }) s
  forAll late xstarve s

/-- The request a port holds up in its cluster: its oldest transfer, unless the port owns the uplink. -/
def portWaits (s : State) (p : Nat) : Bool :=
  let c := getClu s (p / 16)
  !(c.granted && c.owner.toNat == p % 16)

/-- The request of a port at a seam, whose next transfer has a deadline. -/
def askSeam (s : State) (p : Nat) (d : BitVec 20) (a : PortAsk) : PortAsk :=
  { a with overdue := a.overdue || isOverdue s d
           waited := if portWaits s p && !(getClu s (p / 16)).freeze then a.waited + 1 else a.waited }

def cstarve (p : Nat) (s : State) : State :=
  postBlock (evS 15 (modClu (p / 16) (fun c => { c with
    starvcnt := inc32 c.starvcnt, sport := if c.starve then c.sport else BitVec.ofNat 4 (p % 16), starve := true }) s))

def portSeam (p : Nat) (s : State) : State :=
  let k := getPort s p
  match k.inq with
  | [] => s
  | x :: _ =>
    let a := askSeam s p x.deadline k.ask
    if !a.starved && decide (starveLimit (tget 8 s.active.carb.starvth (p / 16)) < a.waited) then
      cstarve p (modPort p (fun k => { k with ask := { a with starved := true } }) s)
    else modPort p (fun k => { k with ask := a }) s

/-- Quern mode of every cluster (R230). -/
def quernSeam (s : State) : State :=
  forAll (List.range (nClusters s)) (fun k s =>
    let v1 := s.port.any (fun p => p.1 / 16 == k && p.2.ver == 1)
    if (getClu s k).quern == v1 then s else modClu k (fun c => { c with quern := v1 }) s) s

/-! ### DSP_NOSERVE (R187) -/

/-- A ready queue holds entries and no present engine has its class in DCMASK. -/
def noServe (s : State) : Bool :=
  s.dsp.ready.any (fun r => !(List.range (nEngines s)).any (fun e =>
    engPresent s e && bit (tget (0xFFFF : BitVec 16) s.active.disp.dcmask e) r.cls.toNat))

def dspSeam (s : State) : State := if noServe s then postBlock (evS 13 s) else s

/-! ### The swap of gate rules (R165, R261 to R263, R278) -/

/-- The masked gates copy their shadow rules to their active rules. -/
def swapRules (s : State) (m : BitVec 71) (g : Gates) : Gates :=
  { g with
    active := (g.active.filter (fun kr => !inMask s m (kr.1 / 64))) |>
      fun keep => (g.shadow.filter (fun kr => inMask s m (kr.1 / 64))).foldl (fun t kr => tinsert kr.1 kr.2 t) keep
    armed := false, barseam := s.seam, swapAt := s.time }

/-- Mark what the masked gates have checked and has not finished. -/
def markOld (m : BitVec 71) (s : State) : State :=
  let g (k : Nat) : Bool := inMask s m k
  { s with
    lm := s.lm.map (fun r => if r.gated && g (68 + r.port) then { r with old := true } else r)
    cread := s.cread.map (fun r => if g 70 then { r with old := true } else r)
    hp := tmap (fun h p => if g (64 + h) then { p with
      slots := p.slots.map (fun e => if e.2.quarUntil.isNone && !unchecked e.2.purpose then (e.1, { e.2 with old := true }) else e)
      wait := p.wait.map (fun w => if unchecked w.purpose then w else { w with old := true })
      posted := p.posted.map (fun w => { w with old := true, bare := !bmeOf s w.fn }) } else p) s.hp
    port := tmap (fun p k => if g (p / 16) then { k with
      reads := k.reads.map (fun r => { r with old := true }), rwait := k.rwait.map (fun r => { r with old := true })
      sending := k.sending.map (fun w => { w with old := true })
      wbuf := k.wbuf.map (fun w => { w with old := w.old || w.checked }) } else k) s.port
    xback := s.xback.map (fun a => match a with
      | .rdata p r x => .rdata p { r with old := r.old || g (p / 16) } x
      | a => a) }

/-- The functions with old-rule writes at a host port that can still be flushed, each once. -/
def oldFns (s : State) (h : Nat) : List Nat :=
  ((getHp s h).posted.filter (fun w => w.old && !w.xheld && bmeOf s w.fn)).foldl (fun l w => setAdd w.fn l) []

/-- The barrier flush read of a function, behind its last old-rule write (R278). -/
def barrierFlush (h fn : Nat) (s : State) : State :=
  match ((getHp s h).posted.filter (fun w => w.fn == fn && w.old && !w.xheld)).getLast? with
  | none => s
  | some w => issueFlush h fn (w.addr + w64 (w.data.length - 4)) false (.barrier fn) s

/-- One for each function that has such writes. -/
def barrierFlushes (h : Nat) (s : State) : State := forAll (oldFns s h) (barrierFlush h) s

/-- List data that a speculative MOVL has read passed a masked gate. -/
def specListHit (s : State) (m : BitVec 71) (l : ListSide) : Bool :=
  let hit (a : Word) : Bool := inMask s m (gateOf s l.lspace a)
  l.blocks.any (fun b => b.got.isSome && hit b.addr) || (l.taken.drop (b2n (l.k1 != 0))).any (fun x => hit x.at_)

/-- Staged bytes that passed a masked gate. -/
def specSrcHit (s : State) (m : BitVec 71) (v : Move) (x : Nat × List Byte) : Bool := inMask s m (gateOf s v.sspace (srcAt v x.1))

/-- Where the source bursts end that do not depend on a list that is discarded: at its first entry for a gather list. -/
def listFree (v : Move) (l : ListSide) : Nat := if l.scatter then v.n0 else l.k1

/-- The list data of a move is discarded: its list begins again, and with it what the list has decided. -/
def restart (v : Move) : Move :=
  match v.list with
  | none => v
  | some l =>
    let o := listFree v l
    { v with
      list := some { startList l.scatter l.lspace l.k0 l.reg0 l.k1 with specRead := l.specRead }
      staged := v.staged.filter (fun x => decide (x.1 < o)), srcNext := min v.srcNext o, specBytes := min v.specBytes o
      fail := v.fail.filter (fun f => decide (f.1 < o) && decide (f.1 < l.covered)) }

/-- Staged bytes that passed a masked gate are discarded: their bursts are read again. -/
def unstage (s : State) (m : BitVec 71) (v : Move) : Move :=
  let gone := v.staged.filter (specSrcHit s m v)
  { v with
    staged := v.staged.filter (fun x => !specSrcHit s m v x)
    again := v.again ++ gone.flatMap (fun x => groupBursts v 4096 x.1 x.2.length)
    specBytes := v.specBytes - (gone.map (fun x => x.2.length)).foldl (· + ·) 0, held := true }

/-- Speculative data read through a masked gate and not yet confirmed is discarded, and read again once it is (R165). What is
still outstanding ends under the rules that checked it (R262). -/
def specSeam (m : BitVec 71) (e : Nat) (s : State) : State :=
  match (getEng s e).spec.bind (·.mv) with
  | none => s
  | some v =>
    let list := v.list.filter (specListHit s m)
    if list.isNone && !v.staged.any (specSrcHit s m v) then s
    else
      let v1 := if list.isSome then restart v else v
      modMv e (fun _ => unstage s m v1)
        (modCtx (chanOf s e) (fun c => { c with f2 := true })
          (modDsp (fun d => { d with specdisc := inc32 d.specdisc })
            (dropIf .spec (fun p => match p with
              | .src x off => x == e && list.any (fun l => decide (listFree v l ≤ off))
              | .list x => x == e && list.isSome
              | _ => false) s)))

def gateSeam (s : State) : State :=
  match s.gate.latched, s.gate.armed with
  | some m, true =>
    let s := markOld m s
    let s := modGate (swapRules s m) s
    let s := forAll (s.eng.map (·.1)) (specSeam m) s
    barrierStep (forAll (List.range (nHosts s)) barrierFlushes s)
  | _, _ => s

/-! ### The swap of epochs (R304, R334 step 6) -/

/-- TGEN of one instance to one port: the announcement and the generation (R300, R304). -/
def tgenTo (p i : Nat) (gen : Half) (s : State) : State :=
  sendOs p (bits gen 0 8) (sendOs p (0x80 ||| BitVec.ofNat 8 i) s)
/-- TGEN to every port whose link is at v3, in order of port (R304). -/
def sendTgen (i : Nat) (gen : Half) (s : State) : State :=
  forAll ((s.port.filter (fun p => p.2.lstate == .up && p.2.ver == 3)).map (·.1)) (fun p s => tgenTo p i gen s) s

def epochSeam (i : Nat) (s : State) : State :=
  let x := getInst s i
  if x.armed then
    let s := modInst i (fun x => { x with
      act := !x.act, gen := inc32 x.gen, armed := false, st := .run, mirroring := false
      retiredAt := some s.time }) s
    let x := getInst s i
    sendTgen i x.gen (tsvEvent { type := 5, inst := i, id := x.gen } (writeHeader i s))
  else s

/-! ### Clock trim (R417) -/

/-- DSP, ENG0 to ENG7, XBR, TSV and the clusters are trimmed. -/
def islTrims (i : Nat) : Bool := (decide (1 ≤ i) && decide (i ≤ 11)) || (decide (18 ≤ i) && decide (i ≤ 81))
def trimOf (x : Island) : BitVec 2 := if 32 ≤ x.slow.toNat then 2 else if 16 ≤ x.slow.toNat then 1 else 0
def trimStep (x : Island) : Island :=
  { x with trimDue := false, trim := if x.trim < trimOf x then trimOf x else x.trim, flag := x.flag || decide (x.trim < trimOf x) }
/-- A trim that is due for an island under in-field test is applied when the test ends (R415). -/
def trimSeam (s : State) : State :=
  let trim (i : Nat) (x : Island) : Island :=
    if !islTrims i then x
    else if s.st.busy && s.st.lkind == 2 && s.st.ltarget.toNat == i then { x with trimDue := x.trimDue || decide (x.trim < trimOf x) }
    else trimStep x
  { s with island := tmap trim s.island }

/-! ### The seam -/

/-- The boot ROM reaches PHASE 1 (R347 step 2), at the first seam or tick after reset (log entry 35). -/
def romStep (s : State) : State := if s.ctl.phase == 0 then modCtl (fun c => { c with phase := 1 }) s else s

/-- The next seam falls. After WARN no swap begins (R396). -/
def doSeam (s : State) : State :=
  let t := w64 ((s.time.toNat / 2560 + 1) * 2560)
  let s := timeTo t (if live s then frameEnd t (romStep s) else romStep s)
  let s := { s with seam := inc32 s.seam }
  if !live s then s
  else
    let s := if s.pf.stage == .normal then swapShale s else s
    let s := xbarSeam s
    let s := forAll (s.port.map (·.1)) portSeam s
    let s := quernSeam (dspSeam s)
    let s := if s.pf.stage == .normal then forAll (List.range 16) epochSeam (gateSeam s) else s
    trimSeam s

def execSeam (s : State) : Res := if s.inReset then .next s else .next (doSeam s)

/-- The slot of the frame goes on to the present one (R232). -/
def slotTo (n : Nat) (s : State) : State :=
  if live s && decide (s.xbar.slot.toNat < n) then modXbar (fun x => { x with slot := BitVec.ofNat 6 n }) (slotCount s) else s

/-- One nanosecond of block time (R381), with the seam it may bring; what an empty queue does (log entry 35). -/
def tick (s : State) : State :=
  if s.inReset then s
  else if (s.time.toNat + 1) % 2560 == 0 then doSeam s
  else
    let s := romStep (timeTo (s.time + 1) s)
    slotTo (slotOf s (s.time.toNat % 2560)) s

/-- The next slot of the frame begins: block time goes on to its first nanosecond (R232). The last slot ends with the seam. -/
def execSlotBoundary (s : State) : Res :=
  if !live s || decide (lastSlot s ≤ s.xbar.slot.toNat) then .next s
  else
    let t := slotStart s (s.xbar.slot.toNat + 1)
    let s := if s.time.toNat < t.toNat then timeTo t s else s
    .next (modXbar (fun x => { x with slot := x.slot + 1 }) (slotCount s))

/-! ### Arming swaps, rules, the log -/

/-- SHARM (R385, R406). -/
def writeSharm (mask : Half) (s : State) : State := { s with shpend := s.shpend ||| bits mask 0 7 }
def execSharm (r : Requester) (mask : Half) (s : State) : Res :=
  if !live s || !isFirmware r then .next (access r s) else .next (writeSharm mask (access r s))

/-- One word of a rule. -/
def setRuleWord (w : Nat) (v : Word) (r : Rule) : Rule :=
  match w % 4 with
  | 0 => { r with w0 := v }
  | 1 => { r with w1 := v }
  | 2 => { r with w2 := v }
  | _ => { r with w3 := v }

/-- A write of word w of shadow rule i of gate GSEL (R260, R265, R266). -/
def writeRule (i w : Nat) (v : Word) (s : State) : State :=
  let g := s.gate.gsel.toNat
  if !gatePresent s g then s
  else if ruleLocked s g then modGate (fun x => { x with wref := true }) s
  else setShadow g i (setRuleWord w v (tget {} s.gate.shadow (64 * g + i))) s
def execGateRuleWrite (r : Requester) (rule word : Nat) (value : Word) (s : State) : Res :=
  if !live s || !isKc r || decide (64 ≤ rule) then .next (access r s) else .next (writeRule rule word value (access r s))

def execGateBarrierArm (r : Requester) (s : State) : Res :=
  if !live s || !isKc r then .next (access r s) else .next (gbarArm (access r s))

/-- A write of VLOGRD that would move it past VLOGWR, or back, is ignored (R259). -/
def writeVlogrd (v : Half) (s : State) : State :=
  if (v - s.gate.vlogrd).toNat ≤ (s.gate.vlogwr - s.gate.vlogrd).toNat then modGate (fun g => { g with vlogrd := v }) s else s
def execVlogrdWrite (r : Requester) (v : Half) (s : State) : Res :=
  if !live s || !isKc r then .next (access r s) else .next (writeVlogrd v (access r s))

end Sys2Proof.Machine
end

