-- ==== Sys2Proof/Machine/Links.lean ====
section
/-! DEFINITION. Engine port links (12): bring-up, versions, power states, retraining and failure; the transfers and sideband
bytes that a port sends; and the meanings of LINK_ENABLE to LINK_WAKE, PORT_VERSION, VERSION_TIMEOUT, PORT_RDATA, TSVMSG, FILLI,
FILLO, CLASS, BRK_MARKER, LERR, HANDSHAKE_TIMEOUT and IGNORED_SIDEBAND_BYTE. -/

namespace Sys2Proof.Machine

def portPresent (s : State) (p : Nat) : Bool := decide (p < nPorts s)

/-- The LINK event (R309). -/
def evLink (s : State) : State := evS 3 s

/-! ### Reads that fail, writes that are dropped (R309, R310) -/

/-- One read of a port fails. -/
def failRead (code : Byte) (r : PortRead) (s : State) : State := afterRead r.purpose (readEnds r.purpose 0 code [] s)

/-- Every read that has a TID fails, and its TID is free. -/
def failReads (p : Nat) (s : State) : State :=
  let rs := (getPort s p).reads
  barrierStep (forAll rs (failRead 0x21) (modPort p (fun k => { k with reads := [] }) s))

/-- Wake the watch entries of a port (R182, R310). -/
def wakeWatch (p : Nat) (f : Watch → Bool) (s : State) : State :=
  let cs := ((getPort s p).watch.filter f).map (·.chan)
  modDsp (fun d => { d with wakes := d.wakes ++ cs.filter (fun c => !d.wakes.contains c) }) s

/-- The link is handled as failed: buffered writes are dropped, every read fails, the watch entries wake (R305, R310). -/
def portClose (p : Nat) (l : LState) (s : State) : State :=
  let k := getPort s p
  let n := k.wbuf.length + (if k.sending.isSome then 1 else 0)
  let rs := k.reads ++ k.rwait
  let s := modPort p (fun k => { k with
    lstate := l, ver := 0, pwr := 0, reads := [], rwait := [], wbuf := [], sending := none, reqAt := none, sideAt := none
    xferCls := none, ldrop := k.ldrop + BitVec.ofNat 32 n }) (wakeIsl (islPort p) s)
  barrierStep (forAll rs (failRead 0x21) (wakeWatch p (fun _ => true) s))

/-- RESET begins: PRST_N low (R305 step 1). -/
def linkReset (p : Nat) (s : State) : State :=
  modPort p (fun k => { k with
    lstate := .reset, ver := 0, pwr := 0, stepAt := s.time, reqAt := none, sideAt := none, xferCls := none, prst := false })
    (wakeIsl (islPort p) s)

/-- Retraining (R309): reads with a TID fail, a write partly sent goes back to the front of the buffer. -/
def retrain (p : Nat) (s : State) : State :=
  let s := modPort p (fun k => { k with
    wbuf := k.sending.toList ++ k.wbuf, sending := none, lretrain := inc32 k.lretrain }) s
  failReads p (evLink (linkReset p s))

/-- An attempt has failed to reach UP; the third in a row enters FAILED (R305, R310). -/
def attemptFails (p : Nat) (s : State) : State :=
  let s := modPort p (fun k => { k with fails := k.fails + 1 }) s
  if 3 ≤ (getPort s p).fails then evLink (portClose p .failed s) else retrain p s

/-- A link error: retrain a link that is UP; in bring-up the attempt has failed. -/
def linkError (p : Nat) (s : State) : State :=
  match (getPort s p).lstate with
  | .up => retrain p s
  | .negotiate => attemptFails p s
  | _ => s

/-- A token or sideband byte of the port has arrived: the link is ACTIVE and its cluster awake (R15, R306, R307). -/
def portEvent (p : Nat) (s : State) : State := stir p s
/-- The sidebands of a link that is UP are open. -/
def sideOpen (s : State) (p : Nat) : Bool := !s.inReset && !tested s (islPort p) && (getPort s p).lstate == .up
/-- An error on a link can be heard while it negotiates or is UP (R308). -/
def linkHeard (s : State) (p : Nat) : Bool :=
  !s.inReset && !tested s (islPort p) && ((getPort s p).lstate == .up || (getPort s p).lstate == .negotiate)

def addPerr (p : Nat) (s : State) : State := modPort p (fun k => { k with lperr := inc32 k.lperr }) s
def addProto (p : Nat) (s : State) : State := modPort p (fun k => { k with lproto := inc32 k.lproto }) s

/-! ### LCTL (R305, R309, R312) -/

/-- EN written as 1 to a link that had it 0. -/
def enableLink (p : Nat) (s : State) : State :=
  if (getPort s p).en then s else linkReset p (modPort p (fun k => { k with en := true, fails := 0 }) s)
/-- EN written as 0. -/
def disableLink (p : Nat) (s : State) : State :=
  if !(getPort s p).en then s else portClose p .down (modPort p (fun k => { k with en := false, prst := false }) s)
/-- RETRAIN: a link that is down or failed stays so. -/
def retrainLink (p : Nat) (s : State) : State :=
  match (getPort s p).lstate with
  | .up | .reset | .negotiate | .retrain => retrain p s
  | _ => s

def execLinkEnable (r : Requester) (p : Nat) (s : State) : Res :=
  if !live s || !isFirmware r || !portPresent s p then .next (access r s) else .next (enableLink p (access r s))
def execLinkDisable (r : Requester) (p : Nat) (s : State) : Res :=
  if !live s || !isFirmware r || !portPresent s p then .next (access r s) else .next (disableLink p (access r s))

/-- RETRAIN written, or an in-sideband byte with bad parity (R308, R309). -/
def execLinkRetrain (p : Nat) (cause : RetrainCause) (s : State) : Res :=
  match cause with
  | .written r => if !live s || !isFirmware r || !portPresent s p then .next (access r s) else .next (retrainLink p (access r s))
  | .sideband b isp => if !linkHeard s p || isp == oddParity b then .next s else .next (linkError p (addPerr p (portEvent p s)))

/-! ### Bring-up (R305) -/

/-- VERMAX as it acts. -/
def vermaxOf (k : Port) : BitVec 2 := if k.vermax == 0 then 1 else k.vermax

/-- 1 µs of RESET has passed: PRST_N rises and VERSION is sent, with the offer of this attempt. -/
def execLinkResetDone (p : Nat) (s : State) : Res :=
  let k := getPort s p
  if drives s && !tested s (islPort p) && k.lstate == .reset && decide (1000 ≤ (s.time - k.stepAt).toNat) then
    .next (sendLane p (versionTokens (vermaxOf k)) (modPort p (fun k => { k with
      lstate := .negotiate, stepAt := s.time, prst := true, offer := vermaxOf k }) s))
  else .next s

/-- The link reaches UP; at v3 TGEN is sent for every configured instance, and then the reads that waited (R304, R305).
Nothing is sent after CUT (R399). -/
def linkUp (p : Nat) (v : BitVec 2) (s : State) : State :=
  let s := modPort p (fun k => { k with
    lstate := .up, ver := v, pwr := 0, fails := 0, clsSeen := false, cls := 0, lastAct := s.time, reqAt := none, xferCls := none })
    (wakeIsl (islPort p) s)
  let s := if v == 3 && drives s then
      forAll ((List.range 16).filter (fun i => (getInst s i).en)) (fun i s => tgenTo p i (getInst s i).gen s) s
    else s
  portPump p s

/-- The port's VERSION (R305): the smaller of the two offers is the version. -/
def takeVersion (p : Nat) (offer : BitVec 4) (s : State) : State :=
  if offer == 0 then attemptFails p (addProto p s)
  else linkUp p (BitVec.ofNat 2 (min (getPort s p).offer.toNat (min offer.toNat 3))) s

def execPortVersion (p : Nat) (first : Token) (rest : List Token) (s : State) : Res :=
  if !live s || tested s (islPort p) || (getPort s p).lstate != .negotiate then .next s
  else match readLane (first :: rest) with
    | .version offer => .next (takeVersion p offer s)
    | .parity => .next (attemptFails p (addPerr p s))
    | _ => .next (attemptFails p (addProto p s))

def execVersionTimeout (p : Nat) (s : State) : Res :=
  let k := getPort s p
  if live s && !tested s (islPort p) && k.lstate == .negotiate && decide (10000 ≤ (s.time - k.stepAt).toNat) then .next (attemptFails p (addProto p s))
  else .next s

/-! ### Transfers from the port (R296, R297, R308, R320 to R322) -/


/-- The data of a read have crossed, or its failure (R297). -/
def rdataEnds (r : PortRead) (x : Rdata) (s : State) : State :=
  let code : Byte := if x.badData || x.err then 0x21 else if x.poison then 0x23 else 0
  afterRead r.purpose (readEnds r.purpose 0 code (if code == 0 then x.data else []) s)

/-- An answer for a read: its TID is freed, and the data ask for the uplink. The READ has been taken; where it was the last to
leave, nothing on the out-lane waits for an acknowledge. -/
def rdataFor (p : Nat) (r : PortRead) (x : Rdata) (s : State) : State :=
  let s := modPort p (fun k => { k with
    reads := k.reads.filter (fun y => y.tid != r.tid)
    reqAt := if k.sending.isNone && k.reads.getLast? == some r then none else k.reqAt }) s
  portPump p (crossing (.rdata p r x) (rdataEnds r x) (clusterArrive p r.dl s))

def takeRdata (p : Nat) (x : Rdata) (s : State) : State :=
  let s := if x.badData then addPerr p s else s
  match (getPort s p).reads.find? (fun r => r.tid == x.tid.toNat) with
  | none => modPort p (fun k => { k with llate := inc32 k.llate }) s
  | some r =>
    if !x.badData && !x.err && x.data.length != r.len then linkError p (addProto p s) else rdataFor p r x s

/-- The in-lane of a port stands behind a message that waits for TSV (R322). -/
def inlaneOpen (s : State) (p : Nat) : Bool :=
  !s.inReset && !tested s (islPort p) && (getPort s p).lstate == .up && (getPort s p).msgWait.isEmpty

/-- A message reaches TSV, which wakes (R15). It waits while another does, while it does not fit (R322), and while TSV is under test
(R408). -/
def msgEnds (p : Nat) (d : List Byte) (s : State) : State :=
  let s := wakeIsl islTsv s
  if s.port.all (fun k => k.2.msgWait.isEmpty) && msgFits s p d && !tested s islTsv then acceptMsg p d s
  else modPort p (fun k => { k with msgWait := k.msgWait ++ [d] }) s
/-- The class of the transfer that has come (R302). -/
def xferClass (s : State) (p : Nat) : BitVec 4 := (getPort s p).xferCls.getD (portClass s p)
def takeMsg (p : Nat) (d : List Byte) (s : State) : State :=
  crossing (.msg p d) (msgEnds p d) (clusterArrive p (deadlineNow s (xferClass s p)) s)

/-- A transfer has come from the port of a link that is UP. Its header says what it is (R296). -/
def takeXfer (p : Nat) (ts : List Token) (s : State) : State :=
  let s := portEvent p s
  modPort p (fun k => { k with xferCls := none }) (match readLane ts with
    | .parity => linkError p (addPerr p s)
    | .rdata x => takeRdata p x s
    | .msg d => takeMsg p d s
    | _ => linkError p (addProto p s))

def execPortRdata (p : Nat) (ts : List Token) (s : State) : Res :=
  if !inlaneOpen s p then .next s else .next (takeXfer p ts s)

def execTsvmsg (p : Nat) (first : Token) (rest : List Token) (s : State) : Res :=
  if !inlaneOpen s p then .next s else .next (takeXfer p (first :: rest) s)

/-! ### Sideband bytes (R300 to R303, R308) -/

/-- A new level: the watch entries it satisfies wake, and the programs that hold or move under it go on (R181, R182). -/
def newLevel (p : Nat) (s : State) : State :=
  let s := wakeWatch p (fun w => paceResume s p w.high.toNat w.low.toNat w.src) s
  if !live s then s
  else forAll ((s.eng.filter (fun e => let k := e.2.main.regs.k3; paceOn k && pacePort k == p)).map (·.1)) repace s

def execFilli (p : Nat) (level : BitVec 6) (s : State) : Res :=
  if !sideOpen s p then .next s else .next (newLevel p (modPort p (fun k => { k with filli := level }) (portEvent p s)))
def execFillo (p : Nat) (level : BitVec 6) (s : State) : Res :=
  if !sideOpen s p then .next s else .next (newLevel p (modPort p (fun k => { k with fillo := level }) (portEvent p s)))

/-- CLASS belongs to v2 and v3; its upper payload bits are 0. The transfer in whose course it comes keeps its class (R302,
R311). -/
def execClassByte (p : Nat) (x : ClassByte) (s : State) : Res :=
  if !sideOpen s p then .next s
  else if (getPort s p).ver == 1 || fld x.payload 4 2 != 0 then .next (addProto p (portEvent p s))
  else
    let now := if x.inTransfer then some (xferClass s p) else none
    .next (modPort p (fun k => { k with cls := bits x.payload 0 4, clsSeen := true, xferCls := now }) (portEvent p s))

/-- Mark the last complete transfer the cluster holds for a port. -/
def markLast : List InXfer → List InXfer
  | [] => []
  | [x] => [{ x with brk := true }]
  | x :: t => x :: markLast t

def execBrkMarker (p : Nat) (inTransfer : Bool) (s : State) : Res :=
  if !sideOpen s p then .next s
  else if (getPort s p).ver != 3 || inTransfer then .next (addProto p (portEvent p s))
  else .next (modPort p (fun k => { k with inq := markLast k.inq }) (portEvent p s))

/-- The port has discarded the out-lane transfer in progress. -/
def execLerr (p : Nat) (s : State) : Res :=
  if !linkHeard s p then .next s
  else .next (linkError p (modPort p (fun k => { k with sending := none }) (addPerr p (portEvent p s))))

/-- A reserved in-sideband byte, or one that the link's version does not have (R300). -/
def byteIgnored (v : BitVec 2) (b : Byte) : Bool :=
  match fld b 6 2 with
  | 2 => v == 1 || fld b 4 2 != 0
  | 3 => decide (2 ≤ fld b 0 6) || (fld b 0 6 == 0 && v != 3)
  | _ => false

def execIgnoredSidebandByte (p : Nat) (byte : Byte) (s : State) : Res :=
  if !sideOpen s p || !byteIgnored (getPort s p).ver byte then .next s else .next (addProto p (portEvent p s))

/-- 10 µs have passed since a request event, wake time not counted. -/
def ackLate (now : Word) (t : Word) : Bool := decide (t.toNat + 10000 ≤ now.toNat)

/-- No acknowledge has come on the out-lane or the out-sideband (R307, R308). -/
def execHandshakeTimeout (p : Nat) (s : State) : Res :=
  let k := getPort s p
  if live s && linkHeard s p && (k.reqAt.any (ackLate s.time) || k.sideAt.any (ackLate s.time)) then
    .next (linkError p (addProto p s))
  else .next s

/-! ### Power states (R306, R307) -/

/-- The active PWRMAX of a port. -/
def pwrmaxOf (s : State) (p : Nat) : BitVec 2 := tget (3 : BitVec 2) s.active.link.pwrmax p

/-- A timer of so many ns, not 0, has passed since the last token or sideband byte, and the state is allowed and deeper. -/
def pwrDue (s : State) (p ns : Nat) (deep : BitVec 2) : Bool :=
  let k := getPort s p
  drives s && !tested s (islPort p) && k.lstate == .up && decide (k.pwr < deep) && decide (deep ≤ pwrmaxOf s p) && ns != 0 &&
  decide (ns ≤ (s.time - k.lastAct).toNat) && k.sending.isNone

/-- CTRL DOZE or CTRL DEEP goes out and is acknowledged; the announcement is not traffic. Log entry 27. -/
def announce (p : Nat) (b : Byte) (deep : BitVec 2) (s : State) : State :=
  modPort p (fun k => { k with pwr := deep, lastAct := (getPort s p).lastAct, awakeAt := (getPort s p).awakeAt }) (sendOs p b s)

def execLinkIdleTimer (p : Nat) (s : State) : Res :=
  if pwrDue s p ((tget (8 : Byte) s.active.link.idlet (p / 16)).toNat * 8) 1 then .next (modPort p (fun k => { k with pwr := 1 }) s)
  else .next s
def execLinkDozeTimer (p : Nat) (s : State) : Res :=
  if pwrDue s p ((tget (16 : BitVec 16) s.active.link.dozet (p / 16)).toNat * 1000) 2 then .next (announce p 0xC0 2 s)
  else .next s
def execLinkDeepTimer (p : Nat) (s : State) : Res :=
  if pwrDue s p ((tget (4000 : BitVec 24) s.active.link.deept (p / 16)).toNat * 1000) 3 then .next (announce p 0xC1 3 s)
  else .next s
def execLinkWake (p : Nat) (s : State) : Res :=
  if live s && !tested s (islPort p) && (getPort s p).pwr != 0 then .next (portEvent p s) else .next s

end Sys2Proof.Machine
end

