-- ==== Sys2Proof/Machine/Functions.lean ====
section
/-! DEFINITION. Functions (11): the configuration mirror, bus master enable, function level reset, the context sweep, reset-done
and interrupts; the meanings of FUNCTION_MIRROR_UPDATE, BME_FALL, BME_RISE, FLR_REQUEST, CONTEXT_SWEEP, FLR_ACK, FLR_TIMEOUT and
INTX_SEND. -/

namespace Sys2Proof.Machine

def fnPresent (s : State) (fn : Nat) : Bool := decide (fn < nFns s)

/-! ### Function stop (R282) -/

/-- Engines with a channel or a write-back task of a function. -/
def fnEngines (s : State) (fn : Nat) : List Nat :=
  (s.eng.filter (fun e => match e.2.hold with
    | .chan c => (getCtx s c).owner.toNat == fn
    | .task c => (getCtx s c).owner.toNat == fn
    | _ => false)).map (·.1)

/-- A move uses a space. -/
def moveUses (sp : Nat) (m : Move) : Bool :=
  m.sspace.toNat == sp || m.dspace.toNat == sp || (match m.list with
    | some l => l.lspace.toNat == sp
    | none => false)

/-- Movement work that acts on a host port under the identity of a function (R273, R376). -/
def workUses (s : State) (fn e : Nat) : Bool :=
  let h := hptOf fn
  let p := getHp s h
  let mine (x : Purpose) : Bool := purposeEng x == some e
  isWork s e && h * 1024 + p.ctlfn.toNat == fn &&
  ((match (getEng s e).main.mv with
    | some m => moveUses (h + 1) m
    | none => false) ||
   p.slots.any (fun x => mine x.2.purpose) || p.wait.any (fun w => mine w.purpose) || p.posted.any (fun w => mine w.purpose))
def fnWorks (s : State) (fn : Nat) : List Nat := (s.eng.map (·.1)).filter (workUses s fn)

/-- Steps 1 and 2: what has not reached the port is not accepted, and what is outstanding will be discarded (R226); a barrier flush
read among it no longer stands behind the function's old-rule writes (R290). The completions of speculative reads leave no trace
in DISCNT (R159, R168); R280 counts every discarded read (DESIGN CHOICE; log entry 86). -/
def fnDiscard (fn : Nat) (s : State) : State :=
  let ahead (p : Purpose) : Bool := (purposeEng p).any (fun e => specRead s e p)
  xdiscard (hptOf fn) fn <| modHp (hptOf fn) (fun p => { p with
    wait := p.wait.filter (fun w => w.fn != fn)
    posted := (p.posted.filter (fun w => !(w.xheld && w.fn == fn))).map (fun w => if w.fn == fn then { w with bare := true } else w)
    slots := p.slots.map (fun x =>
      if x.2.fn == fn && x.2.quarUntil.isNone then
        (x.1, { x.2 with disc := discardAs (if ahead x.2.purpose then .spec else .stop) x.2, purpose := .dropped,
                         gone := x.2.gone <|> purposeEng x.2.purpose })
      else x) }) s

/-- Step 3: an engine stops at its next burst boundary and withdraws the reads it had asked of the crossbar. -/
def fnTell (e : Nat) (s : State) : State :=
  xabandon e (modEng e (fun x => { x with stop := .fn, stopping := true }) s)

/-- The steps of R282, the locks broken with a cause. An engine that already stops for the function is told nothing new (R290). -/
def stopFn (fn : Nat) (cause : BitVec 3) (s : State) : State :=
  let es := fnEngines s fn
  let ws := fnWorks s fn
  let told := es.all (fun e => (getEng s e).stop == .fn)
  let s := forAll (es ++ ws) fnTell (fnDiscard fn s)
  let s := breakFn fn cause s
  let s := if told then s else evFnStop fn s
  barrierStep (forAll (es ++ ws) fnStopTry s)

/-! ### Function level reset (R284) -/

/-- Doorbells of the function that stand in its host port's FIFO are dropped. -/
def dropDoorbells (fn : Nat) (s : State) : State :=
  let k := hptOf fn
  let gone := ((fifoOf s k).filter (fun d => d.fn == fn)).length
  modDsp (fun d => { d with fifo := tmod [] d.fifo k (fun l => l.filter (fun x => x.fn != fn))
                            dbdrop := tmod 0 d.dbdrop k (fun n => n + BitVec.ofNat 32 gone) }) s

/-- What of a function waits behind a CTXWRITE is handled at once: at level 0 a GO is refused and a doorbell dropped (R62). -/
def dropBehind (fn : Nat) (s : State) : State :=
  let mine : Behind → Bool
    | .go f _ => f == fn
    | .bell f _ _ => f == fn
  let l := s.dsp.behind.filter mine
  forAll l (fun b s => match b with
    | .go f page => goWith f page s
    | .bell f c seq => applyDoorbell (hptOf f) f seq c s) (modDsp (fun d => { d with behind := d.behind.filter (fun b => !mine b) }) s)

/-- A function reset begins: the steps of R282, whatever bus master enable holds (R284). -/
def doFlr (fn : Nat) (s : State) : State :=
  if (getFn s fn).flrAt.isSome then s
  else
    let s := modFn fn (fun f => { f with flrAt := some s.time, flrAcked := false, flrTimed := false, sweeping := true,
                                         noBell := true, level := 0 }) s
    let s := dropBehind fn (dropDoorbells fn (stopFn fn 3 s))
    let s := modFn fn (fun f => { f with notice := false, evmask := 0, evcause := 0 }) s
    let s := modHp (hptOf fn) (fun p => { p with flrq := if p.flrq.contains fn then p.flrq else p.flrq ++ [fn] }) s
    nextNotice (modCtl (fun c => { c with notices := c.notices ++ [.flr fn] }) (evK 2 s))

/-! ### The mirror (R270, R271, R282, R283) -/

/-- The endpoint presents a mirror: a fall of BME and a rise of FLRREQ are acted on; reads that wait for a slot take one that a
new TAGW opens (R274). -/
def setMirror (fn : Nat) (m : Mirror) (s : State) : State :=
  let was := bmeOf s fn
  let old := (getFn s fn).mir
  let s := modFn fn (fun f => { f with mir := m }) s
  let s := if m.flrreq && !old.flrreq then doFlr fn s
    else if was && !bmeOf s fn then stopFn fn 2 s
    else s
  if m.tagw == old.tagw then s else hostServe (hptOf fn) s

def execFunctionMirrorUpdate (fn : Nat) (m : Mirror) (s : State) : Res :=
  if s.inReset || !fnPresent s fn || tested s (islHpt (hptOf fn)) then .next s else .next (setMirror fn m s)
def execBmeFall (fn : Nat) (s : State) : Res :=
  if s.inReset || !fnPresent s fn || tested s (islHpt (hptOf fn)) then .next s else .next (setMirror fn { (getFn s fn).mir with bme := false } s)
def execBmeRise (fn : Nat) (s : State) : Res :=
  if s.inReset || !fnPresent s fn || tested s (islHpt (hptOf fn)) then .next s else .next (setMirror fn { (getFn s fn).mir with bme := true } s)
def execFlrRequest (fn : Nat) (s : State) : Res :=
  if s.inReset || !fnPresent s fn || tested s (islHpt (hptOf fn)) then .next s else .next (setMirror fn { (getFn s fn).mir with flrreq := true } s)

/-! ### The context sweep (R63, R286) -/

/-- R63 for one context that is on no engine. -/
def resetCtx (c : Nat) (s : State) : State :=
  let s := cacheUse c true (dropTasks c (unwatch c (unqueue c s)))
  modCtx c (fun x => { x with
    st := .idle, pause := false, abort := false, go := false, pcv := false, direct := false, wdog := false
    mid := false, l1 := false, resume := false, resumeProg := false, pacing := none, zeroGo := false }) s

/-- The channels whose owner is being reset. -/
def sweepChans (s : State) : List Nat :=
  (s.dsp.ctx.filter (fun x => chanPresent s x.1 && x.2.ov && (getFn s x.2.owner.toNat).sweeping)).map (·.1)

/-- One full pass. A channel on an engine is left for the next pass, and its function's pass has not ended. -/
def doSweep (s : State) : State :=
  let cs := sweepChans s
  let s := forAll (cs.filter (fun c => (engOf s c).isNone)) resetCtx s
  let held (fn : Nat) : Bool := cs.any (fun c => (engOf s c).isSome && (getCtx s c).owner.toNat == fn)
  { s with fn := tmap (fun fn f => if f.sweeping && !held fn then { f with sweeping := false } else f) s.fn }

def execContextSweep (s : State) : Res := if !live s || tested s islDsp then .next s else .next (doSweep s)

/-! ### Reset-done (R285) -/

/-- A write of FLRACK on a host port. -/
def flrAckWrite (h : Nat) (v : Half) (s : State) : State :=
  let fn := h * 1024 + fld v 0 10
  let s := modHp h (fun p => { p with flrq := p.flrq.filter (fun x => x != fn) }) s
  if (getFn s fn).flrAt.isSome then resetDone fn (modFn fn (fun f => { f with flrAcked := true }) s) else s

def execFlrAck (r : Requester) (h : Nat) (v : Half) (s : State) : Res :=
  if s.inReset || !isKc r || decide (nHosts s ≤ h) then .next (access r s) else .next (flrAckWrite h v (access r s))

/-- 1 ms has passed since FLRREQ without an acknowledgement. -/
def execFlrTimeout (fn : Nat) (s : State) : Res :=
  let f := getFn s fn
  match f.flrAt with
  | none => .next s
  | some t =>
    if s.inReset || tested s (islHpt (hptOf fn)) || f.flrAcked || f.flrTimed || decide ((s.time - t).toNat < 1000000) then .next s
    else
      .next (resetDone fn (modFn fn (fun f => { f with flrTimed := true })
        (modHp (hptOf fn) (fun p => { p with flrlate := inc32 p.flrlate }) s)))

/-! ### Interrupts (R287) -/

/-- The level of a physical function's interrupt. -/
def intLevel (f : Func) : Bool := f.evcause &&& f.evmask != 0 && !f.mir.intdis

def execIntxSend (fn : Nat) (s : State) : Res :=
  let f := getFn s fn
  if !drives s || tested s (islHpt (hptOf fn)) || !f.mir.pf || f.intSent == intLevel f then .next s
  else
    .next (modOut (fun o => { o with hi := o.hi ++ [(hptOf fn, localOf fn, intLevel f)] })
      (modFn fn (fun f => { f with intSent := intLevel f }) s))

end Sys2Proof.Machine
end

