-- ==== Sys2Proof/Machine/TableWork.lean ====
section
/-! DEFINITION. Table services (13): the meanings of LEARN, TOUCH, RELOCATION_STASH_WRITE_DONE, AGE_TICK, AGE_SWEEP_VISIT,
TABLE_ENABLE, TABLE_INIT_DONE, TABLE_DISABLE, REBUILD_ZERO, COPYDONE and TEVRD_WRITE. -/

namespace Sys2Proof.Machine

/-! ### Records (R321, R323, R324, R326) -/

/-- TSV takes the oldest record, if it is of a kind and no relocation holds its bucket, and reads its bucket. -/
def takeUp (touch : Bool) (rd : MResp) (f : Record → State → State) (s : State) : State :=
  match s.tsv.queue with
  | [] => s
  | r :: _ =>
    if r.touch != touch || bucketBusy s r.inst r.id then s
    else
      let s := takeRecord s
      match recordRefused r s with
      | some s => s
      | none =>
        if touch && touchRepeats s r then modTsv (fun t => { t with tcoalesce := inc32 t.tcoalesce }) s
        else match bucketRead r.inst (activeEp (getInst s r.inst)) r.id rd s with
          | (true, s) => f r s
          | (false, s) => s

def execLearn (rd : MResp) (s : State) : Res :=
  if !tsvMay s then .next s else .next (takeUp false rd applyLearn s)
def execTouch (rd : MResp) (s : State) : Res :=
  if !tsvMay s then .next s else .next (takeUp true rd applyTouch s)

/-! ### Relocation (R319) -/

/-- A relocation that has begun in a way. -/
def relocOf (x : Inst) (key : Nat) (e : Bool) : Option (Reloc × List Reloc) := pick (fun r : Reloc => r.key == key && r.epoch == e) x.relocating

/-- The copy in the stash is written: the way is overwritten, the relocation and the learn it served are counted (R324), the
other epoch follows (R334), and the operation that waited is answered. -/
def relocate (i key : Nat) (e : Bool) (s : State) : State :=
  match relocOf (getInst s i) key e with
  | none => s
  | some (r, t) =>
    let (ok, s) := tryPut i e (.way key) r.entry (modInst i (fun x => { x with relocating := t }) s)
    let s := if !ok then s
      else
        let s := modInst i (fun x => { x with
          relocs := inc32 x.relocs, learns := if r.learn then inc32 x.learns else x.learns }) s
        if r.mirror then mirrorInto i (!e) r.entry s else s
    match r.engine with
    | none => s
    | some e => tsvAnswerTo e (if !ok || inFault s i then { code := 0x12 } else { z := true, c := some true }) s

/-- A stash write has failed: a fault of the instance, or where that is OFF the end of the relocation alone (R332, R333). -/
def stashFails (i key : Nat) (e : Bool) (a : Word) (s : State) : State :=
  let s := tsvFault i a s
  match relocOf (getInst s i) key e with
  | none => s
  | some (r, t) =>
    let s := modInst i (fun x => { x with relocating := t }) s
    match r.engine with
    | none => s
    | some e => tsvAnswerTo e { code := 0x12 } s

/-- The stash write of a relocation that is answered next, with the way it came from. -/
def stashKey (i : Nat) : Purpose → Option (Nat × Bool)
  | .stash j key e => if j == i then some (key, e) else none
  | _ => none
def stashOf (s : State) (i : Nat) : Option LmReq := s.lm.find? (fun r => (stashKey i r.purpose).isSome && decide (r.tag < 1024))

/-- The response to it has crossed. -/
def stashDone (i : Nat) (resp : MResp) (s : State) : State :=
  match stashOf s i with
  | none => s
  | some r => match stashKey i r.purpose with
    | none => s
    | some (key, e) =>
      let s := lmRetire r.port r.tag s
      barrierStep (if resp == .ok then relocate i key e s else stashFails i key e r.addr s)

def execRelocationStashWriteDone (i : Nat) (resp : MResp) (s : State) : Res :=
  if s.inReset || tested s islTsv then .next s
  else match stashOf s i with
    | none => .next s
    | some r =>
      if tested s (islLmp r.port) then .next s
      else .next (crossing (.stash r.port i resp) (stashDone i resp) (xLm r.port r.dl 0 s))

/-! ### Aging (R328, R329) -/

/-- The period of a tick in ns. -/
def tickNs (s : State) (i : Nat) : Nat := min (max (tget (1000 : BitVec 10) s.active.tsv.agetick i).toNat 1) 1000 * 1000000

def execAgeTick (i : Nat) (s : State) : Res :=
  let x := getInst s i
  if live s && !tested s islTsv && x.en && decide (tickNs s i ≤ (s.time - x.tickAt).toNat) then
    .next (modInst i (fun x => { x with agecnt := x.agecnt + 1, tickAt := x.tickAt + w64 (tickNs s i) }) s)
  else .next s

/-- Clear one entry that is older than AGELIM. -/
def ageOut (i : Nat) (p : Place) (y : Entry) (s : State) : State :=
  let x := getInst s i
  if !instRuns x || !entValid y || decide (ageOf x y ≤ agelimOf s i) then s
  else
    let s := putEntry i x.act p {} s
    if inFault s i then s
    else
    let s := modInst i (fun x => { x with aged := inc32 x.aged }) (mirrorFound i (entId y) (fun _ => {}) s)
    if x.ageev then
      tsvEvent { type := 3, inst := i, oport := entPort y, id := entId y, data := y.w1, datahi := bits y.w2 0 32 } s
    else s

/-- What a visit covers: a bucket, or eight stash slots. -/
def sweepPlaces (ep : Epoch) (k : Nat) : List Place :=
  let nb := 2 ^ ep.log2b.toNat
  if k < nb then (List.range 4).map (fun w => .way (4 * k + w)) else (List.range 8).map (fun j => .slot (8 * (k - nb) + j))
def entAt (ep : Epoch) : Place → Entry
  | .way key => wayAt ep key
  | .slot k => slotAt ep k

/-- Work in progress holds one of the buckets a visit concerns (R323). -/
def sweepBusy (s : State) (i : Nat) (ps : List Place) : Bool :=
  let x := getInst s i
  ps.any (fun p => bucketBusy s i (entId (entAt (activeEp x) p)) &&
  entValid (entAt (activeEp x) p))

/-- The place of the next visit: a swap to a smaller epoch can leave the sweep behind its end, and it starts again. -/
def sweepAt (x : Inst) : Nat := if x.sweep < 2 ^ (activeEp x).log2b.toNat + 32 then x.sweep else 0

/-- One visit: read, clear what is too old, go on (R329). -/
def sweepVisit (rd : MResp) (i : Nat) (s : State) : State :=
  let x := getInst s i
  let ep := activeEp x
  let ps := sweepPlaces ep (sweepAt x)
  if sweepBusy s i ps then s
  else
    let a := match ps with
      | p :: _ => placeAddr ep p
      | [] => 0
    let n := 32 * ps.length
    let g := 68 + lmPortOf s a
    let v := gateCheck s g tsvWho .rd a n false
    if !v.ok then tsvFault i a (denyPrecise g tsvWho .rd a n v s)
    else if rd != .ok then tsvFault i a (xTsvRead a 0 s)
    else
      let s := forAll ps (fun p s => ageOut i p (entAt ep p) s) (xTsvRead a n s)
      modInst i (fun x => { x with sweep := sweepAt x + 1 }) s

def execAgeSweepVisit (i : Nat) (rd : MResp) (s : State) : Res :=
  if tsvMay s && instRuns (getInst s i) && agelimOf s i != 0 then .next (sweepVisit rd i s) else .next s

/-! ### Enable and disable (R332) -/

/-- EN written as 1 to a disabled instance. An epoch 1 that was active stops being so now (R334 step 2). -/
def enableTable (i : Nat) (s : State) : State :=
  if (getInst s i).en then s
  else
    modInst i (fun x => { x with
      en := true, st := .init, act := false, agecnt := 0, gen := 1, tickAt := s.time, sweep := 0, armed := false
      mirroring := false, retiredAt := if x.act then some s.time else x.retiredAt }) (wakeIsl islTsv s)

/-- EN written as 0: a relocation that has begun finishes. -/
def disableTable (i : Nat) (s : State) : State :=
  if !(getInst s i).en then s
  else abandonRebuild i (modInst i (fun x => { x with en := false, st := .off }) (wakeIsl islTsv s))

def execTableEnable (r : Requester) (i : Nat) (s : State) : Res :=
  if !live s || !isFirmware r || decide (16 ≤ i) then .next (access r s) else .next (enableTable i (access r s))
def execTableDisable (r : Requester) (i : Nat) (s : State) : Res :=
  if !live s || !isFirmware r || decide (16 ≤ i) then .next (access r s) else .next (disableTable i (access r s))

/-- Work on the instance's buckets that had begun before it was disabled has not ended (R332). -/
def workLeft (s : State) (i : Nat) : Bool :=
  !(getInst s i).relocating.isEmpty || s.lm.any (fun r => match r.purpose with
    | .tsv j (some _) => j == i
    | _ => false)

/-- Epoch 0 is zeroed, behind the work that had begun, and the writes of zeroes have been answered: with an error, it is a fault
of the instance (R332, R333). -/
def execTableInitDone (d : TableEnd) (s : State) : Res :=
  let i := d.inst
  if !tsvMay s || (getInst s i).st != .init || workLeft s i then .next s
  else
  let s := zeroEpoch i false s
  if (getInst s i).st != .init then .next s
  else if d.resp != .ok then .next (tsvFault i (wayAddr (getInst s i).ep0 0) s)
  else
    let s := writeHeader i s
    if (getInst s i).st == .init then .next (modInst i (fun x => { x with st := .run }) s) else .next s

/-! ### Rebuild (R334) -/

def epholdNs (s : State) : Nat := max s.active.tsv.ephold.toNat 1 * 1000

/-- EPHOLD has passed since the shadow epoch stopped being active. -/
def holdOver (s : State) (x : Inst) : Bool :=
  match x.retiredAt with
  | none => true
  | some t => decide (epholdNs s ≤ (s.time - t).toNat)

def execRebuildZero (d : TableEnd) (s : State) : Res :=
  let i := d.inst
  let x := getInst s i
  if tsvMay s && x.st == .rebuild && !x.mirroring && !x.copydone && holdOver s x then
    let s := zeroEpoch i (!x.act) s
    if (getInst s i).st != .rebuild then .next s
    else if d.resp != .ok then .next (tsvFault i (wayAddr (epochOf x !x.act) 0) s)
    else .next (modInst i (fun x => { x with mirroring := true, copyAt := 0 }) s)
  else .next s

/-- The valid entries of an epoch with their places, buckets in index order and then the stash. -/
def epochEntries (ep : Epoch) : List (Nat × Entry) :=
  (ep.ways ++ ep.stash.map (fun (e : Nat × Entry) => (4 * 2 ^ ep.log2b.toNat + e.1, e.2))).filter (fun e => entValid e.2)

/-- Place one entry in the shadow unless the shadow holds its identifier. -/
def copyEntry (i k : Nat) (y : Entry) (s : State) : State :=
  let x := getInst s i
  let s := modInst i (fun x => { x with copyAt := k + 1 }) s
  if (findId (epochOf x !x.act) (entId y)).isSome then s else (placeNew i (!x.act) y {} s).2

/-- The copy pass goes on as far as no bucket it comes to has work in progress (R323). Answers whether it has visited
everything. -/
def copyPass (i : Nat) : List (Nat × Entry) → State → Bool × State
  | [], s => (true, s)
  | (k, y) :: t, s =>
    if (getInst s i).st != .rebuild then (false, s)
    else if k < (getInst s i).copyAt then copyPass i t s
    else if bucketBusy s i (entId y) then (false, s)
    else copyPass i t (copyEntry i k y s)

/-- The first access that the pass has still to make and that a gate denies to TSV: its address and length. -/
def copyDenied (s : State) (x : Inst) : Option (Nat × Nat) :=
  let ep := activeEp x
  let b := min (x.copyAt / 4) (2 ^ ep.log2b.toNat)
  ((regionDenied s .rd (arrayBase ep + 128 * b) (128 * (2 ^ ep.log2b.toNat - b)) 128).map (fun a => (a, 128))) <|>
    ((regionDenied s .rd (stashAddr ep 0).toNat 8192 256).map (fun a => (a, 256)))

/-- The end of the pass, and the reads of it from one place up to another: buckets, then the stash in bursts of 256 bytes. -/
def copyLast (x : Inst) : Nat := 4 * 2 ^ (activeEp x).log2b.toNat + 256
def copyReads (x : Inst) (lo hi : Nat) (s : State) : State :=
  let ep := activeEp x
  let n := 4 * 2 ^ ep.log2b.toNat
  let b := min lo n / 4
  xTsvMany false (stashAddr ep 0) 256 ((hi - n + 7) / 8 - (lo - n) / 8)
    (xTsvMany false (wayAddr ep (4 * b)) 128 ((min hi n + 3) / 4 - b) s)

/-- COPYDONE, its event, and the answer to a waiting TEPO ARM, which arms the swap. -/
def copyEnds (i : Nat) (s : State) : State :=
  let s := tsvEvent { type := 4, inst := i } (modInst i (fun x => { x with copydone := true }) s)
  let es := armWaiters s i
  let s := if es.isEmpty then s else modInst i (fun x => { x with armed := true }) s
  forAll es (fun e s => tsvAnswerTo e { z := true } s) s

/-- The copy pass of a rebuild: the command carries it on as far as it can go, and ends it when everything has been visited and
no relocation is left (log entry 23). A read that is denied or fails is a fault of the instance (R333). -/
def execCopydone (d : TableEnd) (s : State) : Res :=
  let i := d.inst
  let x := getInst s i
  if tsvMay s && x.st == .rebuild && x.mirroring && !x.copydone then
    match copyDenied s x with
    | some (a, n) => .next (regionFault i .rd n a s)
    | none =>
      if d.resp != .ok then .next (tsvFault i (wayAddr (activeEp x) (x.copyAt / 4 * 4)) s)
      else
        let (all, s) := copyPass i (epochEntries (activeEp x)) s
        let next := if all then copyLast x else (getInst s i).copyAt
        let s := copyReads x x.copyAt next (modInst i (fun x => { x with copyAt := next }) s)
        if all && (getInst s i).st == .rebuild && (getInst s i).relocating.isEmpty then .next (copyEnds i s) else .next s
  else .next s

/-! ### TEVRD (R331) -/

def writeTevrd (v : Half) (s : State) : State :=
  if (v - s.tsv.tevrd).toNat ≤ (s.tsv.tevwr - s.tsv.tevrd).toNat then modTsv (fun t => { t with tevrd := v }) s else s
def execTevrdWrite (r : Requester) (v : Half) (s : State) : Res :=
  if !live s || !isFirmware r then .next (access r s) else .next (writeTevrd v (access r s))

end Sys2Proof.Machine
end

