-- ==== Sys2Proof/Machine/SelfTest.lean ====
section
/-! DEFINITION. Self-test (17): golden signatures, starting a test, outcomes and repair (R407 to R415). -/

namespace Sys2Proof.Machine

/-! ### Islands and groups (R407) -/

/-- Spare rows of a memory group. -/
def spareRows (g : Nat) : Nat :=
  match g with
  | 0 => 256
  | 1 => 32
  | 2 => 64
  | 11 => 128
  | 13 => 64
  | _ => 16
/-- A memory group the configuration has. -/
def groupPresent (s : State) (g : Nat) : Bool := decide (g < 17) && !(s.cfg.compact && decide (5 ≤ g) && decide (g ≤ 10))
/-- Groups 3 to 10 belong to the engine islands. -/
def engGroup (g : Nat) : Bool := decide (3 ≤ g) && decide (g ≤ 10)

/-- The golden signature of an island other than its engine slots (R409). -/
def golden (compact : Bool) (i : Nat) : Half :=
  if i == 0 then (if compact then 0x2D906E13 else 0x5E1BC7A4)
  else if i == 1 then (if compact then 0x47D2B15C else 0x91C40A7E)
  else if engIsland i then 0x0B6F3D29
  else if i == 10 then (if compact then 0xC81F0457 else 0x7A35E9C2)
  else if i == 11 then 0x3F06A1DB
  else if i < 16 then 0xA2E95B84
  else if i < 18 then 0x6C7D12F0
  else 0xD15B8E6A
/-- The golden signature of an engine slot. -/
def goldenSlot : Half := 0xE4A87C10

/-! ### Registers as read (R421) -/

def ststat (t : SelfTest) : Half :=
  putb 32 t.busy 0 ||| putb 32 t.done 1 ||| put 32 t.outcome 2 ||| put 32 t.lkind 4 ||| putb 32 t.abandoned 6 |||
    put 32 t.ltarget 8
def stdetail (t : SelfTest) : Half := put 32 t.slotfail 0 ||| put 32 t.rows 16

/-! ### Starting a test (R411, R414) -/

/-- Every engine of the island under test that holds a channel stops it as a quiesce does (R414 step 2). -/
def clearIsland (k : Nat) (s : State) : State :=
  let tell (e : Nat) (x : Engine) : Engine := match x.hold, x.stop with
    | .chan _, .none => if e / 4 == k then { x with stop := .pause, forced := true } else x
    | .chan _, .pause => if e / 4 == k then { x with forced := true } else x
    | _, _ => x
  { s with eng := tmap tell s.eng }

/-- A test starts: STSTAT shows it as running. -/
def beginTest (kind : BitVec 2) (target : BitVec 7) (s : State) : State :=
  let s := { s with st := { s.st with busy := true, done := false, abandoned := false, lkind := kind, ltarget := target } }
  if kind == 2 then clearIsland (target.toNat - 2) s else s

/-- What KIND and TARGET name exists. -/
def testExists (s : State) (kind : BitVec 2) (target : BitVec 7) : Bool :=
  match kind.toNat with
  | 0 => islPresent s target.toNat
  | 1 => groupPresent s target.toNat
  | 2 => engIsland target.toNat && islPresent s target.toNat
  | _ => false

/-- A write of STCMD with START (R421). A test of something absent is not started. -/
def startTest (kind : BitVec 2) (target : BitVec 7) (s : State) : State :=
  let s := { s with st := { s.st with kind := kind, target := target } }
  if s.st.busy || !testExists s kind target then s else beginTest kind target s

/-! ### Outcomes and repair (R413) -/

/-- The slot of logical engine j of an island, and MAP with it changed. -/
def mapAt (x : EngIsland) (j : Nat) : BitVec 3 :=
  match j with
  | 0 => x.m0
  | 1 => x.m1
  | 2 => x.m2
  | _ => x.m3
def setMap (j : Nat) (v : BitVec 3) (x : EngIsland) : EngIsland :=
  match j with
  | 0 => { x with m0 := v }
  | 1 => { x with m1 := v }
  | 2 => { x with m2 := v }
  | _ => { x with m3 := v }

/-- The slots whose signature does not match, as bits. -/
def badSlots (sigs : List Half) : BitVec 5 :=
  (List.range 5).foldl (fun (b : BitVec 5) i => if sigs.getD i 0 == goldenSlot then b else b ||| (1 : BitVec 5) <<< i) 0

/-- A working spare: a slot that carries no engine, is not retired and has not failed. -/
def spareSlot (x : EngIsland) (bad : BitVec 5) : Option Nat :=
  (List.range 5).find? (fun t => !bit bad t && !bit x.retired t && !(List.range 4).any (fun j => (mapAt x j).toNat == t))

/-- One logical engine after a slot test: kept, moved to the spare, or absent; true when it became absent. -/
def repairOne (bad : BitVec 5) (j : Nat) (a : EngIsland × Bool) : EngIsland × Bool :=
  let t := (mapAt a.1 j).toNat
  if 5 ≤ t || !bit bad t then a
  else match spareSlot a.1 bad with
    | some n => ({ setMap j (BitVec.ofNat 3 n) a.1 with retired := a.1.retired ||| (1 : BitVec 5) <<< t }, a.2)
    | none => ({ setMap j 7 a.1 with retired := a.1.retired ||| (1 : BitVec 5) <<< t }, true)

def allAbsent (x : EngIsland) : EngIsland := { x with m0 := 7, m1 := 7, m2 := 7, m3 := 7 }

/-- Result codes: 0 PASS, 1 REPAIRED, 2 DEGRADED, 3 FAIL. -/
def logicEngine (k : Nat) (sig : Half) (sigs : List Half) (s : State) : BitVec 2 × State :=
  let x := getEngIsl s k
  let bad := badSlots sigs
  let (y, lost) := (List.range 4).foldl (fun a j => repairOne bad j a) (x, false)
  let y := { y with retired := y.retired ||| bad }
  let shared := sig != golden s.cfg.compact (2 + k)
  let y := if shared then { allAbsent y with shfail := true } else y
  let s := { modEngIsl k (fun _ => y) s with st := { (modEngIsl k (fun _ => y) s).st with slotfail := bad } }
  (if shared || lost then 2 else if bad == 0 then 0 else 1, s)

/-- LOGIC on an island. -/
def logicResult (i : Nat) (rep : TestReport) (s : State) : BitVec 2 × State :=
  let s := modIsl i (fun x => { x with sig := rep.sig }) { s with st := { s.st with sig := rep.sig, slotfail := 0, rows := 0 } }
  if engIsland i then logicEngine (i - 2) rep.sig rep.slotSigs s
  else (if rep.sig == golden s.cfg.compact i then 0 else 3, s)

/-- MEMORY on a group with so many failing rows. -/
def memoryResult (g rows : Nat) (s : State) : BitVec 2 × State :=
  let free := spareRows g - (getGroup s g).spused.toNat
  let n := min rows free
  let s := modGroup g (fun x => { x with spused := x.spused + BitVec.ofNat 9 n, gfail := x.gfail || decide (free < rows) }) s
  let s := { s with st := { s.st with rows := BitVec.ofNat 9 n } }
  if free < rows then (if engGroup g then (2, modEngIsl (g - 3) allAbsent s) else (3, s))
  else (if rows == 0 then 0 else 1, s)

/-- The result of the test that is running; INFIELD takes the graver of its two. -/
def testResult (rep : TestReport) (s : State) : BitVec 2 × State :=
  let t := s.st.ltarget.toNat
  match s.st.lkind.toNat with
  | 0 => logicResult t rep s
  | 1 => memoryResult t rep.rows { s with st := { s.st with slotfail := 0 } }
  | _ =>
    let (a, s) := logicResult t rep s
    let (b, s) := memoryResult (t + 1) rep.rows s
    (if a.toNat < b.toNat then b else a, s)

/-- The island of an in-field test is idle (R388, R414 step 3). -/
def islandClear (s : State) : Bool := s.st.lkind != 2 || islIdle s s.st.ltarget.toNat

def dropThread (t : Thread) : Thread := { t with mv := t.mv.map (fun m => { m with staged := [] }) }

end Sys2Proof.Machine
end

