-- ==== Sys2Proof/Machine/Cairn.lean ====
section
/-! DEFINITION. The Cairn record (16 R400 to R403): the retention SRAM's slots, a record's validity, and the record of a power
failure. -/

namespace Sys2Proof.Machine

/-- Offset of a record slot. -/
def slotBase (k : Nat) : Nat := 0x1000 * k
def slotWord (s : State) (k off : Nat) : Word := wordAt (memRead s.rsram (slotBase k + off) 8) 0

/-- MAGIC, the CRC of the seal, and both copies of SEQ (R401). -/
def recordValid (s : State) (k : Nat) : Bool :=
  bits (slotWord s k 0) 0 32 == (0x4E524143 : BitVec 32) &&
  bits (slotWord s k 0xFF8) 32 32 == bits (slotWord s k 8) 0 32 &&
  bits (slotWord s k 0xFF8) 0 32 == crc32 (memRead s.rsram (slotBase k) 0xFF8)

def recordSeq (s : State) (k : Nat) : Half := bits (slotWord s k 8) 0 32

/-- The slot of the valid record with the highest SEQ. -/
def bestRecord (s : State) : Option Nat :=
  match recordValid s 0, recordValid s 1 with
  | true, true => some (if (recordSeq s 0).toNat < (recordSeq s 1).toNat then 1 else 0)
  | true, false => some 0
  | false, true => some 1
  | false, false => none

/-- A table of words from a list. -/
def wordTbl (ws : List Word) : Tbl Word := putWords 0 ws []

/-- The start-up copy into CAIRNWIN (R403). -/
def loadCairn (s : State) : State :=
  match bestRecord s with
  | none => modPf (fun p => { p with cairnwin := [], cairnvalid := false }) s
  | some k =>
    modPf (fun p => { p with cairnwin := wordTbl (wordsOf (memRead s.rsram (slotBase k) 4096) 512), cairnvalid := true }) s

/-- CLEAR of CAIRN_SET invalidates both slots; the model zeroes them (log entry 28). -/
def clearRecords (s : State) : State := { s with rsram := memWrite s.rsram 0 (List.replicate 0x2000 0) }

/-! ### The record of a power failure -/

/-- Destination bytes an engine has issued beyond its confirmed prefix. -/
def engUnconf (x : Engine) : Nat :=
  match x.main.mv with
  | some m => unconfirmed m
  | none => 0

/-- The channel an engine held at WARN, where it has left it since as it was then (R404): no entry for movement work or a
write-back task. -/
def engEntry (s : State) (e : Nat) : List Word :=
  let t := (getEng s e).main
  let l := tget [] s.pf.left e
  if l.isEmpty then runEntry s e ((t.mv.map (moveRegs t.regs)).getD t.regs) else l

/-- The samples of RAILTRACE, packed four to a word. -/
def traceWords : List (BitVec 10) → List Word
  | a :: b :: c :: d :: t => (put 64 a 0 ||| put 64 b 16 ||| put 64 c 32 ||| put 64 d 48) :: traceWords t
  | _ => []

/-- Samples, oldest first; those not yet taken are free (log entry 4). -/
def traceFull (s : State) : List (BitVec 10) :=
  (List.range (256 - s.pf.trace.length)).map (fun i => bits (Config.freeWord (s.free + i)) 0 10) ++ s.pf.trace

/-- Words 0 to 510 of the record, SEQ given (R401). -/
def recordBody (s : State) (seq : Half) : List Word :=
  let p := s.pf
  let es := (List.range 32).map (engEntry s)
  let nrun := (es.filter (fun w => bit (nthWord w 0) 23)).length
  let posted := (s.eng.map (fun e => engUnconf e.2)).sum + (p.left.map (fun l => fld (nthWord l.2 4) 32 32)).sum
  let dbp (h : Nat) : Nat := (tget [] s.dsp.fifo h).length
  [w64 (0x4E524143 + 2 ^ 32), w64 (seq.toNat + 0xB2 * 2 ^ 32 + b2n s.cfg.compact * 2 ^ 40), p.warnTime, p.endTime,
   put 64 p.warnSeam 0 ||| put 64 p.endSeam 32,
   w64 (p.railWarn.toNat + p.min.toNat * 2 ^ 16 + 2 ^ 28 + b2n p.limit * 2 ^ 32 + b2n p.hcen * 2 ^ 33 + b2n p.quiesced * 2 ^ 34),
   w64 (nrun + p.stagedrop * 2 ^ 32), w64 posted,
   w64 (dbp 0 + dbp 1 * 2 ^ 16 + dbp 2 * 2 ^ 32 + dbp 3 * 2 ^ 48), w64 p.lockuse] ++
  List.replicate 22 0 ++ es.flatten ++ traceWords (traceFull s) ++ List.replicate 159 0

/-- The record with its seal. -/
def recordBytes (s : State) (seq : Half) : List Byte :=
  let b := bytesOfWords (recordBody s seq)
  b ++ bytesOf (put 64 (crc32 b) 0 ||| put 64 seq 32) 8

/-- SEQ of the next record, and the slot that does not hold the valid record with the highest SEQ (R400). -/
def nextRecord (s : State) : Half × Nat :=
  match bestRecord s with
  | some k => (recordSeq s k + 1, 1 - k)
  | none => (1, 0)

/-- Bedrock writes and seals the record (R396 step 5). -/
def writeRecord (s : State) : State :=
  let (seq, k) := nextRecord s
  modPf (fun p => { p with cairn := true }) { s with rsram := memWrite s.rsram (slotBase k) (recordBytes s seq), free := s.free + (256 - s.pf.trace.length) }

end Sys2Proof.Machine
end

