-- ==== Sys2Proof/Machine/Crypto.lean ====
section
/-! DEFINITION. The signature check of an image (14 R345 step 6): SHA-384 and ECDSA over P-384, which the rule names. The rule does
not print the two algorithms: they are those of FIPS 180-4 and FIPS 186-4 (PRESUMED; log entry 80). -/

namespace Sys2Proof.Machine

/-! ### SHA-384 -/

/-- Addition of 64-bit words, kept as numbers. -/
def add64 (a b : Nat) : Nat := (a + b) % 2 ^ 64
def rotr64 (n x : Nat) : Nat := x >>> n ||| (x <<< (64 - n)) % 2 ^ 64
def not64 (x : Nat) : Nat := x ^^^ (2 ^ 64 - 1)

/-- The round constants. -/
def shaK : List Nat :=
  [0x428A2F98D728AE22, 0x7137449123EF65CD, 0xB5C0FBCFEC4D3B2F, 0xE9B5DBA58189DBBC, 0x3956C25BF348B538,
   0x59F111F1B605D019, 0x923F82A4AF194F9B, 0xAB1C5ED5DA6D8118, 0xD807AA98A3030242, 0x12835B0145706FBE,
   0x243185BE4EE4B28C, 0x550C7DC3D5FFB4E2, 0x72BE5D74F27B896F, 0x80DEB1FE3B1696B1, 0x9BDC06A725C71235,
   0xC19BF174CF692694, 0xE49B69C19EF14AD2, 0xEFBE4786384F25E3, 0x0FC19DC68B8CD5B5, 0x240CA1CC77AC9C65] ++
  [0x2DE92C6F592B0275, 0x4A7484AA6EA6E483, 0x5CB0A9DCBD41FBD4, 0x76F988DA831153B5, 0x983E5152EE66DFAB,
   0xA831C66D2DB43210, 0xB00327C898FB213F, 0xBF597FC7BEEF0EE4, 0xC6E00BF33DA88FC2, 0xD5A79147930AA725,
   0x06CA6351E003826F, 0x142929670A0E6E70, 0x27B70A8546D22FFC, 0x2E1B21385C26C926, 0x4D2C6DFC5AC42AED,
   0x53380D139D95B3DF, 0x650A73548BAF63DE, 0x766A0ABB3C77B2A8, 0x81C2C92E47EDAEE6, 0x92722C851482353B] ++
  [0xA2BFE8A14CF10364, 0xA81A664BBC423001, 0xC24B8B70D0F89791, 0xC76C51A30654BE30, 0xD192E819D6EF5218,
   0xD69906245565A910, 0xF40E35855771202A, 0x106AA07032BBD1B8, 0x19A4C116B8D2D0C8, 0x1E376C085141AB53,
   0x2748774CDF8EEB99, 0x34B0BCB5E19B48A8, 0x391C0CB3C5C95A63, 0x4ED8AA4AE3418ACB, 0x5B9CCA4F7763E373,
   0x682E6FF3D6B2B8A3, 0x748F82EE5DEFB2FC, 0x78A5636F43172F60, 0x84C87814A1F0AB72, 0x8CC702081A6439EC] ++
  [0x90BEFFFA23631E28, 0xA4506CEBDE82BDE9, 0xBEF9A3F7B2C67915, 0xC67178F2E372532B, 0xCA273ECEEA26619C,
   0xD186B8C721C0C207, 0xEADA7DD6CDE0EB1E, 0xF57D4F7FEE6ED178, 0x06F067AA72176FBA, 0x0A637DC5A2C898A6,
   0x113F9804BEF90DAE, 0x1B710B35131C471B, 0x28DB77F523047D84, 0x32CAAB7B40C72493, 0x3C9EBE0A15C9BEBC,
   0x431D67C49C100D4C, 0x4CC5D4BECB3E42B6, 0x597F299CFC657E2A, 0x5FCB6FAB3AD6FAEC, 0x6C44198C4A475817]

/-- The eight words of the running hash. -/
structure Hash where
  a : Nat
  b : Nat
  c : Nat
  d : Nat
  e : Nat
  f : Nat
  g : Nat
  h : Nat
  deriving DecidableEq, Repr, Inhabited

def shaStart : Hash :=
  { a := 0xCBBB9D5DC1059ED8, b := 0x629A292A367CD507, c := 0x9159015A3070DD17, d := 0x152FECD8F70E5939
    e := 0x67332667FFC00B31, f := 0x8EB44A8768581511, g := 0xDB0C2E0D64F98FA7, h := 0x47B5481DBEFA4FA4 }

/-- A number that a big-endian string of bytes spells. -/
def natBig (l : List Byte) : Nat := l.foldl (fun n b => 256 * n + b.toNat) 0
/-- n bytes of a number, most significant first. -/
def bigBytes (x : Nat) : Nat → List Byte
  | 0 => []
  | n + 1 => BitVec.ofNat 8 (x / 256 ^ n) :: bigBytes x n

/-- The message with its padding: a 1 bit, zeros, and its length in bits. -/
def shaPad (m : List Byte) : List Byte :=
  m ++ 0x80 :: List.replicate ((255 - (m.length + 16) % 128) % 128) 0 ++ bigBytes (8 * m.length) 16

/-- The next word of the message schedule, from the words so far, latest first. -/
def shaNext (l : List Nat) : Nat :=
  let x := l.getD 14 0
  let y := l.getD 1 0
  add64 (add64 (l.getD 15 0) (rotr64 1 x ^^^ rotr64 8 x ^^^ x >>> 7))
    (add64 (l.getD 6 0) (rotr64 19 y ^^^ rotr64 61 y ^^^ y >>> 6))
def shaExtend : Nat → List Nat → List Nat
  | 0, l => l
  | n + 1, l => shaExtend n (shaNext l :: l)

/-- The eighty words of the schedule of a block of 128 bytes. -/
def shaWords (d : List Byte) : List Nat :=
  (shaExtend 64 ((List.range 16).map (fun i => natBig ((d.drop (8 * i)).take 8))).reverse).reverse

/-- One round, with its constant and its word. -/
def shaRound (x : Hash) (k : Nat × Nat) : Hash :=
  let t1 := add64 (add64 x.h (rotr64 14 x.e ^^^ rotr64 18 x.e ^^^ rotr64 41 x.e))
    (add64 (x.e &&& x.f ^^^ not64 x.e &&& x.g) (add64 k.1 k.2))
  let t2 := add64 (rotr64 28 x.a ^^^ rotr64 34 x.a ^^^ rotr64 39 x.a) (x.a &&& x.b ^^^ x.a &&& x.c ^^^ x.b &&& x.c)
  { a := add64 t1 t2, b := x.a, c := x.b, d := x.c, e := add64 x.d t1, f := x.e, g := x.f, h := x.g }

def shaBlock (x : Hash) (d : List Byte) : Hash :=
  let y := (shaK.zip (shaWords d)).foldl shaRound x
  { a := add64 x.a y.a, b := add64 x.b y.b, c := add64 x.c y.c, d := add64 x.d y.d
    e := add64 x.e y.e, f := add64 x.f y.f, g := add64 x.g y.g, h := add64 x.h y.h }

def shaBlocks : Nat → List Byte → Hash → Hash
  | 0, _, x => x
  | n + 1, d, x => shaBlocks n (d.drop 128) (shaBlock x (d.take 128))

/-- SHA-384 as a number. -/
def sha384 (m : List Byte) : Nat :=
  let d := shaPad m
  let x := shaBlocks (d.length / 128) d shaStart
  (((((x.a * 2 ^ 64 + x.b) * 2 ^ 64 + x.c) * 2 ^ 64 + x.d) * 2 ^ 64 + x.e) * 2 ^ 64 + x.f)

/-! ### P-384 -/

/-- 2^384 - 2^128 - 2^96 + 2^32 - 1. -/
def p384 : Nat := 0xFFFFFFFFFFFFFFFFFFFFFFFFFFFFFFFFFFFFFFFFFFFFFFFFFFFFFFFFFFFFFFFEFFFFFFFF0000000000000000FFFFFFFF
def p384b : Nat := 0xB3312FA7E23EE7E4988E056BE3F82D19181D9C6EFE8141120314088F5013875AC656398D8A2ED19D2A85C8EDD3EC2AEF
/-- The order of the base point. -/
def p384n : Nat := 0xFFFFFFFFFFFFFFFFFFFFFFFFFFFFFFFFFFFFFFFFFFFFFFFFC7634D81F4372DDF581A0DB248B0A77AECEC196ACCC52973
def p384x : Nat := 0xAA87CA22BE8B05378EB1C71EF320AD746E1D3B628BA79B9859F741E082542A385502F25DBF55296C3A545E3872760AB7
def p384y : Nat := 0x3617DE4A96262C6F5D9E98BF9292DC29F8F41DBD289A147CE9DA3113B5F0B8C00A60B1CE1D7E819D7A431D7C90EA0E5F

def mulp (a b : Nat) : Nat := a * b % p384
def addp (a b : Nat) : Nat := (a + b) % p384
def subp (a b : Nat) : Nat := (a + p384 - b) % p384

/-- A point in Jacobian coordinates; z = 0 is the point at infinity. -/
structure Jac where
  x : Nat
  y : Nat
  z : Nat
  deriving DecidableEq, Repr, Inhabited

def jacDouble (q : Jac) : Jac :=
  let zz := mulp q.z q.z
  let yy := mulp q.y q.y
  let v := mulp 4 (mulp q.x yy)
  let m := mulp 3 (mulp (subp q.x zz) (addp q.x zz))
  let x := subp (mulp m m) (mulp 2 v)
  { x := x, y := subp (mulp m (subp v x)) (mulp 8 (mulp yy yy)), z := mulp 2 (mulp q.y q.z) }

/-- The sum of a point and an affine point. -/
def jacAdd (q : Jac) (x y : Nat) : Jac :=
  if q.z == 0 then { x := x, y := y, z := 1 }
  else
    let zz := mulp q.z q.z
    let h := subp (mulp x zz) q.x
    let r := subp (mulp y (mulp zz q.z)) q.y
    if h == 0 then (if r == 0 then jacDouble q else { x := 1, y := 1, z := 0 })
    else
      let hh := mulp h h
      let hhh := mulp hh h
      let v := mulp q.x hh
      let x3 := subp (mulp r r) (addp hhh (mulp 2 v))
      { x := x3, y := subp (mulp r (subp v x3)) (mulp q.y hhh), z := mulp q.z h }

/-- u G + v K for an affine point K, over the lowest n bits of u and v. -/
def jacSum (u v kx ky : Nat) : Nat → Jac → Jac
  | 0, q => q
  | n + 1, q =>
    let q := jacDouble q
    let q := if u.testBit n then jacAdd q p384x p384y else q
    jacSum u v kx ky n (if v.testBit n then jacAdd q kx ky else q)

/-- A power modulo m, over the lowest n bits of the exponent. -/
def powMod (b e m : Nat) : Nat → Nat → Nat
  | 0, x => x
  | n + 1, x => powMod b e m n (if e.testBit n then x * x % m * b % m else x * x % m)
/-- The inverse modulo the order of the base point. -/
def invn (a : Nat) : Nat := powMod a (p384n - 2) p384n 384 1

/-- A point of the curve other than infinity. -/
def onCurve (x y : Nat) : Bool :=
  decide (x < p384) && decide (y < p384) && mulp y y == addp (subp (mulp x (mulp x x)) (mulp 3 x)) p384b

/-- ECDSA: a signature, r then s, of a hash under a key, X then Y, each 48 bytes, big-endian (R344). -/
def ecdsaOk (key sig : List Byte) (z : Nat) : Bool :=
  let kx := natBig (key.take 48)
  let ky := natBig (key.drop 48)
  let r := natBig (sig.take 48)
  let t := natBig (sig.drop 48)
  if !onCurve kx ky || r == 0 || t == 0 || decide (p384n ≤ r) || decide (p384n ≤ t) then false
  else
    let w := invn t
    let q := jacSum (z * w % p384n) (r * w % p384n) kx ky 384 { x := 1, y := 1, z := 0 }
    let zz := mulp q.z q.z
    -- the affine X, modulo the order, is r: X is r, or r and the order where that is below the prime
    q.z != 0 && (mulp r zz == q.x || (decide (r + p384n < p384) && mulp (r + p384n) zz == q.x))

end Sys2Proof.Machine
end

