-- ==== Sys2Proof/Machine/Freeze.lean ====
section
/-! DEFINITION. FREEZE of the arbiters (R235): the meanings of XBAR_FREEZE and CLUSTER_FREEZE. What stood in front of a frozen
crossbar is in State, each transfer at its place; when FREEZE returns to 0 it goes on, in the order in which it came. -/

namespace Sys2Proof.Machine

/-! ### Answers that stood -/

/-- What an answer does once it has crossed. -/
def crossed : Answer → State → State
  | .lmRead n t r d => lmReadData n t r d
  | .lmWrite n t r => lmWriteResp n t r
  | .lmUpd8 n t r old => lmUpd8Resp n t r old
  | .stash _ i r => stashDone i r
  | .piece h p => hostPiece h p
  | .rdata _ r x => rdataEnds r x
  | .msg p d => msgEnds p d
  | .ctlRead e => ctlReadData e

/-- Every answer that stood crosses, as far as nothing is frozen in front of it. -/
def answersGo (s : State) : State := forAll s.xback (fun a s => crossing a (crossed a) s) { s with xback := [] }

/-! ### Requests that stood -/

/-- Requests to local memory take tags. -/
def lmGoN : Nat → State → State
  | 0, s => s
  | n + 1, s => match s.lm.find? (fun r => r.tag == 1025) with
    | none => s
    | some r =>
      lmGoN n { s with lm := replaceFirst (fun r => r.tag == 1025) (fun r => { r with tag := lmTag s r.port }) s.lm }
def lmGo (s : State) : State := lmGoN s.lm.length s

/-- Requests to control memory. -/
def ctlGo (s : State) : State :=
  { s with cread := s.cread.map (fun r => { r with xheld := false }), cwait := s.cwait.map (fun w => { w with xheld := false }) }

/-- Reads of a port take their places in the order of arrival. -/
def rwaitGo : Nat → List PortRead → List PortRead
  | _, [] => []
  | n, r :: t => if r.xheld then { r with xheld := false, ord := n } :: rwaitGo (n + 1) t else r :: rwaitGo n t
def portGo (p : Nat) (s : State) : State :=
  portPump p (modPort p (fun k => { k with
    rwait := rwaitGo k.ord k.rwait, ord := k.ord + k.rwait.length, wwait := k.wwait.map (fun w => { w with xheld := false }) }) s)

/-- Write requests of a host port take their places in its order, behind those already presented. -/
def postedGo : Nat → List HostWrite → List HostWrite
  | _, [] => []
  | n, w :: t => if w.xheld then { w with xheld := false, seq := n } :: postedGo (n + 1) t else w :: postedGo n t

/-- A host port receives the writes that stood, and then the reads. Old-rule writes among them have had no barrier flush read
(R278). -/
def hostGo (h : Nat) (s : State) : State :=
  let held := (getHp s h).posted.filter (·.xheld)
  let late := ((getHp s h).posted.filter (fun w => w.old && w.xheld && bmeOf s w.fn)).foldl (fun l w => setAdd w.fn l) []
  let s := modHp h (fun p => { p with
    posted := postedGo p.wseq (p.posted.filter (fun w => !w.xheld) ++ p.posted.filter (·.xheld))
    wseq := p.wseq + (p.posted.filter (·.xheld)).length, wait := p.wait.map (fun w => { w with xheld := false }) }) s
  hostServe h (forAll late (barrierFlush h) (forAll held (fun w => hqPut h (hqWrite w)) s))

/-- The crossbar carries traffic again. After CUT nothing leaves the block (R398). -/
def requestsGo (s : State) : State :=
  if !mayIssue s then s
  else forAll (List.range (nHosts s)) hostGo (forAll (s.port.map (·.1)) portGo (ctlGo (lmGo s)))

/-! ### FREEZE -/

/-- FREEZE of the crossbar. Between decisions every grant at a break point ends by XBAR_DECISION. -/
def writeXfreeze (on : Bool) (s : State) : State :=
  let was := s.xbar.freeze
  let s := modXbar (fun x => { x with freeze := on }) (wakeIsl islXbr (slotCount s))
  if was && !on then answersGo (requestsGo s) else s
def execXbarFreeze (r : Requester) (on : Bool) (s : State) : Res :=
  if !live s || !isFirmware r then .next (access r s) else .next (writeXfreeze on (access r s))

/-- FREEZE of a cluster. -/
def writeCfreeze (k : Nat) (on : Bool) (s : State) : State :=
  let was := (getClu s k).freeze
  let s := modClu k (fun c => { c with freeze := on }) (wakeIsl (18 + k) s)
  if was && !on then answersGo s else s
def execClusterFreeze (r : Requester) (k : Nat) (on : Bool) (s : State) : Res :=
  if !live s || !isFirmware r || decide (nClusters s ≤ k) then .next (access r s) else .next (writeCfreeze k on (access r s))

end Sys2Proof.Machine
end

