-- ==== Sys2Proof/Machine/Stops.lean ====
section
/-! DEFINITION. Stopping channels and breaking locks (08): the meanings of PAUSE_STOP_DONE, ABORT_STOP, CTX_ECC_ERROR,
QUIESCE_REQUEST, QUIESCE_RELEASE, LEASE_EXPIRY and LOCK_BREAK_COMMAND. -/

namespace Sys2Proof.Machine

/-! ### Pause, quiesce, in-field test (R189 to R192, R203, R414) -/

/-- The move in progress has no read outstanding, nothing left to write, and every write settled. -/
def moveQuiet (s : State) (e : Nat) (m : Move) : Bool :=
  m.fail.isNone && (nextDest s e m).isNone && dstSettled s e m m.dstNext &&
  !anyOut (fun p => match p with
    | .src x _ => x == e
    | .list x => x == e
    | _ => false) s

/-- Steps 4 and 5 of R191: the registers are saved, the engine is free, and the channel is QUIESCED, PAUSED or READY. An abort
that came while an in-field test cleared the island is applied now (R415), or recorded under a quiesce (R204). -/
def leavePause (e : Nat) (s : State) : State :=
  let c := chanOf s e
  let mid := engMid s e || (getCtx s c).direct
  let s := breakOnLeave c none (leaveEng e s)
  let s := modCtx c (fun x => { x with resume := mid }) s
  let asked := (getCtx s c).abort
  if s.dsp.qreq then
    let s := modCtx c (fun x => { x with st := .quiesced }) s
    if asked then modDsp (fun d => { d with recAborts := d.recAborts.filter (· != c) ++ [c] }) s else s
  else if asked then abortOff c (toReady c s)
  else toReady c s

/-- At a stop point outside a move: confirm every write, then leave; a write that failed ends the descriptor (R192). -/
def pauseHere (e : Nat) (s : State) : State :=
  if descSettled s e then
    match (getEng s e).main.wrFail with
    | some code => engAfter e (endDescr e code (modMain e (fun t => { t with wrFail := none }) s))
    | none => leavePause e s
  else flushDesc e s

/-- Whether a thread stands at a stop point, or at one but for a read that is outstanding (R189). -/
def stopPoint : Phase → Bool
  | .fetch | .fetchWait | .fetched | .query | .resume | .resumeWait | .resumed | .exec | .hold | .release | .imageHere | .moving => true
  | _ => false

/-- One round of a pause (R191). A descriptor read or a list read that fails before the registers are saved is not hidden
(R192). -/
def pauseRound (e : Nat) (s : State) : State :=
  let p := (getEng s e).main.phase
  let s := if stopPoint p then modEng e (fun x => { x with stopping := true }) s else s
  match p, (getEng s e).main.readErr with
  | .fetched, some code => refuseHeader e code s
  | .resumed, some code => stopEng e code none s
  | _, _ => match p with
  | .fetch | .fetched | .query | .resume | .resumed | .exec | .hold | .release | .imageHere => pauseHere e s
  | .moving =>
    if onSpec s e then s
    else
      let s := engAfter e (listStep e (modMv e (fun m => { m with list := m.list.map takeUpBlocks }) s))
      match (getEng s e).main.phase, (getEng s e).main.mv with
      | .moving, some m => if moveQuiet s e m then pauseHere e (saveMove e s) else s
      | _, _ => s
  | _ => s

def execPauseStopDone (e : Nat) (s : State) : Res :=
  if live s && s.pf.stage == .normal && (getEng s e).stop == .pause && holdsChan s e then .next (barrierStep (pauseRound e s)) else .next s

/-! ### Abort (R198) and the stop of an uncorrectable context error (R36) -/

/-- Abandon every read of the engine, and those it had asked of the crossbar (R198 step 2, R226). -/
def abandonReads (e : Nat) (s : State) : State :=
  xabandon e (modEng e (fun x => { x with stopping := true, spec := none }) (dropReads .stop e s))

/-- Nothing that was read and not yet issued is written. -/
def dropStaged (e : Nat) (s : State) : State :=
  modMain e (fun t => { t with mv := t.mv.map (fun m => { m with staged := [] }) }) s

/-- Step 4 of R198 for a channel in the middle of a descriptor or a direct move; an uncorrectable context error writes no
status, and the registers are saved as whenever a channel leaves its engine (R36, R67). -/
def abortMid (e : Nat) (s : State) : State :=
  if (getEng s e).stop == .ecc then stopEng e 0x21 none s
  else engAfter e (endDescr e 0x30 s)

/-- Steps 3 and 4 of R198: what the descriptor has written outside its moves is confirmed first, and a write of it that fails
leaves the status ABORTED. The progress of a move is put into the registers by f. -/
def abortHere (e : Nat) (f : State → State) (s : State) : State :=
  if descSettled s e then abortMid e (modMain e (fun t => { t with wrFail := none }) (f s)) else flushDesc e s

/-- The abort of a channel between descriptors: LASTCODE and LASTFLAGS (R198 step 4, R256). -/
def abortBetween (e : Nat) (s : State) : State :=
  if (getEng s e).stop == .ecc then abortMid e s
  else
    let (fl, s) := takeFlags e false false s
    stopEng e 0x30 (some fl) s

/-- A channel that is being taken up again has no header in hand: its engine goes on as a write-back task (R199). -/
def abortResume (e : Nat) (s : State) : State :=
  if (getEng s e).stop == .ecc then abortMid e s
  else modEng e (fun x => { x with hold := .task (chanOf s e), stop := .none, stopping := false }) s

/-- Speculative work ends with the reads it has made; the registers of a held descriptor are dropped at the stop. -/
def abortRound (e : Nat) (s : State) : State :=
  match (getEng s e).main.phase with
  | .fetch | .fetchWait | .fetched | .query => abortBetween e (dropSpec e (xabandon e (dropReads .stop e s)))
  | .resume | .resumeWait | .resumed => abortResume e s
  | .exec | .hold | .release | .image | .imageHere => abortHere e id (abandonReads e s)
  | .moving =>
    let s := engAfter e (dropStaged e (abandonReads e s))
    match (getEng s e).main.phase, (getEng s e).main.mv with
    | .moving, some m => if dstSettled s e m m.dstNext then abortHere e (fun s => dropMove e (saveMove e s)) s else s
    | _, _ => s
  | _ => s

/-- A cancelled piece of movement work: steps 1 to 3 of R198, then CODE ABORTED (R376). -/
def cancelRound (e : Nat) (s : State) : State :=
  match (getEng s e).main.phase with
  | .exec | .hold | .release | .image | .imageHere => engAfter e (endWork e 0x30 (abandonReads e s))
  | .moving =>
    let s := engAfter e (dropStaged e (abandonReads e s))
    match (getEng s e).main.phase, (getEng s e).main.mv with
    | .moving, some m => if dstSettled s e m m.dstNext then engAfter e (endWork e 0x30 (dropMove e (saveMove e s))) else s
    | _, _ => s
  | _ => s

/-- The engine acts on an abort, a context error or a cancel at a stop point. -/
def stopRound (e : Nat) (s : State) : State :=
  if isWork s e then cancelRound e s
  else if isTask s e then (if (getEng s e).stop == .ecc && (getEng s e).main.phase != .complete then abortMid e (abandonReads e s) else s)
  else abortRound e s
/-- A read that it withdraws may be the last that a barrier waits for (R261, R263). -/
def execAbortStop (e : Nat) (s : State) : Res :=
  let x := getEng s e
  if !live s || s.pf.stage != .normal || !(x.stop == .abort || x.stop == .ecc) then .next s
  else .next (barrierStep (stopRound e s))

/-- R36. The context is in DSP's cache, memory group 0 (R407, R418; log entry 75). -/
def ctxEcc (c : Nat) (s : State) : State :=
  let fn := (getCtx s c).owner.toNat
  let s := evCtxEcc fn (modCtx c (fun x => { x with lastcode := 0x21 }) s)
  match engOf s c with
  | none => stopCtx c 0x21 none s
  | some e => modEng e (fun x => if x.stop == .fn then x else { x with stop := .ecc, ecc := true }) (dropTasks c s)

def execCtxEccError (c : Nat) (s : State) : Res :=
  if !live s || !chanPresent s c then .next s else .next (ctxEcc c (eccCount 0 s))

/-! ### Quiesce (R202 to R204) -/

/-- Every engine that holds a channel is told to stop at its next stop point. -/
def quiesceOn (s : State) : State :=
  quiesceStep { s with
    dsp := { s.dsp with qreq := true, qdone := false }
    eng := tmap (fun _ x => match x.hold, x.stop with
      | .chan _, .none => { x with stop := .pause, forced := true }
      | .chan _, .pause => { x with forced := true }
      | _, _ => x) s.eng }

/-- A channel leaves the stored QUIESCED state, or keeps the state it rests in. -/
def releaseChan (c : Nat) (s : State) : State := if (getCtx s c).st == .quiesced then toReady c s else s

/-- QREQ returns to 0: stored QUIESCED channels return, and recorded aborts run (R204). -/
def quiesceOff (s : State) : State :=
  let rec_ := s.dsp.recAborts
  let s := modDsp (fun d => { d with qreq := false, qdone := false, recAborts := [] }) s
  let s := forAll (s.dsp.ctx.map (·.1)) releaseChan s
  forAll rec_ (fun c s => if (getCtx s c).st == .idle || (getCtx s c).st == .stopped then s else abortOff c s) s

/-- A write of QCTL. None begins or ends a quiesce once WARN has come (R396). -/
def writeQctl (on : Bool) (s : State) : State :=
  if on == s.dsp.qreq || s.pf.stage != .normal then s else if on then quiesceOn s else quiesceOff s

def execQuiesceRequest (r : Requester) (s : State) : Res :=
  if !live s || !isFirmware r then .next (access r s) else .next (writeQctl true (access r s))
def execQuiesceRelease (r : Requester) (s : State) : Res :=
  if !live s || !isFirmware r then .next (access r s) else .next (writeQctl false (access r s))

/-! ### Locks (R210 to R214) -/

/-- The scan finds an entry whose lease has ended: it breaks at once, with the first cause that applied (R211, R213). -/
def leaseEnds (x : LockEntry) (s : State) : State :=
  let k : BitVec 3 := match causeFor s x (some 0) with
    | some k => if k == 4 then 0 else k
    | none => 0
  breakEntry x k s

def execLeaseExpiry (addr : Word) (s : State) : Res :=
  if !mayIssue s || tested s islDsp then .next s
  else match lockAt s addr with
    | none => .next s
    | some x => if x.releasing || decide (s.time.toNat < x.expiry.toNat) then .next s else .next (leaseEnds x s)

/-- A write of BREAK (R213, R214). -/
def lockCommand (s : State) : State :=
  let a := alignDown s.lock.lbcmdadr 8
  let s := modLock (fun l => { l with found := false, cmd := a }) s
  match lockAt s a with
  | none => s
  | some x => breakOrWait x 4 s

def execLockBreakCommand (r : Requester) (s : State) : Res :=
  if !mayIssue s || !isKc r then .next (access r s) else .next (lockCommand (access r s))

end Sys2Proof.Machine
end

