-- ==== Sys2Proof/Machine/TestEnd.lean ====
section
/-! DEFINITION. The end of a self-test (17 R408, R410, R411, R415): what returns to its reset state, and what has waited at the
boundary of an island under test. Settings that software writes stay, and so does what stands in front of an island (log entry
29). -/

namespace Sys2Proof.Machine

/-! ### Islands (R410, R411) -/

/-- DSP: what it has issued is abandoned; contexts are zero in the store. -/
def resetDsp (s : State) : State :=
  let s := dropIf .plain ownAccess s
  { s with
    dsp := { ctxbase := s.dsp.ctxbase, log2cnt := s.dsp.log2cnt, psbase := s.dsp.psbase, bitmap := s.dsp.bitmap
             fifo := s.dsp.fifo, qreq := s.dsp.qreq, qdone := s.dsp.qdone, qseam := s.dsp.qseam }
    lock := { lbcmdadr := s.lock.lbcmdadr }
    fn := tmap (fun _ f => { f with notice := false }) s.fn }

/-- The engines of an engine island. -/
def resetEngs (k : Nat) (s : State) : State :=
  let s := dropIf .plain (fun p => (purposeEng p).any (fun e => e / 4 == k)) s
  { s with eng := s.eng.filter (fun e => e.1 / 4 != k) }

def resetXbr (s : State) : State :=
  modXbar (fun x => { freeze := x.freeze, slot := x.slot, slotAt := x.slotAt }) s

/-- The counters of an instance, and what TSV itself holds of it; its entries are in local memory. -/
def resetInst (x : Inst) : Inst :=
  { x with learns := 0, flaps := 0, relocs := 0, evicts := 0, aged := 0, touches := 0, relocating := [] }
def resetTsv (s : State) : State :=
  modTsv (fun t => { tevbase := t.tevbase, tevlog := t.tevlog, tevwr := t.tevwr, tevrd := t.tevrd
                     inst := tmap (fun _ x => resetInst x) t.inst })
    (dropIf .plain (fun p => match p with
      | .tsv _ _ | .stash _ _ _ | .tsvEvent => true
      | _ => false) s)

/-- A host port unit: what the endpoint holds up and the resets it waits for stay. -/
def resetHost (h : Nat) (s : State) : State :=
  modHp h (fun p => {
    mrrscap := p.mrrscap, mpscap := p.mpscap, tphen := p.tphen, cto := p.cto, ctlfn := p.ctlfn, evglob := p.evglob
    evgloben := p.evgloben, flrq := p.flrq, wait := p.wait.filter (·.xheld), posted := p.posted.filter (·.xheld) })
    (modDsp (fun d => { d with fifo := tset [] d.fifo h [] }) s)

/-- A memory port has forgotten what it has sent. -/
def resetLmp (n : Nat) (s : State) : State :=
  { s with lm := s.lm.filter (fun r => r.port != n || decide (1024 ≤ r.tag)) }

/-- The link of a port of a cluster has dropped with the cluster's outputs; where it is enabled its bring-up begins again. -/
def resetPort (p : Nat) (s : State) : State :=
  let k := getPort s p
  let s := portClose p .down s
  let s := modPort p (fun x => {
    en := x.en, vermax := x.vermax, lrnmask := x.lrnmask, wwait := x.wwait, rwait := x.rwait, watch := x.watch
    msgWait := x.msgWait }) s
  if k.en then linkReset p s else s
def resetCluster (k : Nat) (s : State) : State :=
  let ps := (s.port.map (·.1)).filter (fun p => p / 16 == k)
  modClu k (fun c => { freeze := c.freeze, quern := c.quern }) (forAll ps resetPort s)

/-- An island returns to its reset state. -/
def resetIsland (i : Nat) (s : State) : State :=
  if i == islDsp then resetDsp s
  else if engIsland i then resetEngs (i - 2) s
  else if i == islXbr then resetXbr s
  else if i == islTsv then resetTsv s
  else if 12 ≤ i && i < 16 then resetHost (i - 12) s
  else if 16 ≤ i && i < 18 then resetLmp (i - 16) s
  else if 18 ≤ i then resetCluster (i - 18) s
  else s

/-! ### Memory groups (R407, R410, R411) -/

/-- A memory group returns to its reset state; the mailbox whose request Bedrock has in hand is answered yet. -/
def resetGroup (g : Nat) (s : State) : State :=
  match g with
  | 0 => modDsp (fun d => { d with cache := [], ctx := [] }) s
  | 1 => modDsp (fun d => { d with ready := [] })
      (modLock (fun l => { l with entries := [], waiting := [] }) { s with fn := tmap (fun _ f => { f with notice := false }) s.fn })
  | 2 => { s with eng := tmap (fun _ x => { x with main := dropThread x.main, spec := x.spec.map dropThread }) s.eng }
  | 11 => eccMend 0 0x1000000 { s with cmem := [] }
  | 12 =>
    modCtl (fun c => { c with evpendk := 0, evpends := 0 })
      { s with core := tmap (fun _ c => { c with icache := [] }) s.core, mbx := s.mbx.filter (fun m => s.ctl.testFor == some m.1) }
  | 13 => { s with port := tmap (fun _ k => { k with wbuf := [], sending := none, inq := [] }) s.port }
  | 14 => { s with
      hp := tmap (fun _ p => { p with slots := [], freed0 := [], freed1 := [], freed2 := [], used0 := 0, used1 := 0, used2 := 0 }) s.hp
      dsp := { s.dsp with fifo := s.dsp.fifo.filter (fun q => q.1 == 4) } }
  | 15 => modTsv (fun t => { t with queue := [], filter := [] }) s
  | 16 => modGate (fun x => { x with shadow := [], active := [], vlog := [] }) s
  | g => if engGroup g then resetEngs (g - 3) s else s

/-- What the running test has tested returns to its reset state; an in-field test leaves an idle island, which holds nothing. -/
def resetTested (s : State) : State :=
  let t := s.st.ltarget.toNat
  match s.st.lkind.toNat with
  | 0 => resetIsland t s
  | 1 => resetGroup t s
  | _ => s

/-- What the start-up self-test has tested returns to its reset state. -/
def resetAll (l : List (Bool × Nat)) (s : State) : State :=
  forAll l (fun t s => if t.1 then resetGroup t.2 s else resetIsland t.2 s) s

/-! ### What waited (R408) -/

/-- Handshakes that waited at an island under test complete, in the order in which the model serves their targets. -/
def resumeWaiting (s : State) : State :=
  let s := forAll (List.range (nHosts s)) hostServe (forAll [0, 1] lmServe s)
  let s := forAll (s.port.map (·.1)) portPump s
  let s := pullMessages (s.port.map (fun p => p.2.msgWait.length)).sum s
  if s.xbar.freeze then s else answersGo (requestsGo s)

/-- The test is over: a trim that fell due meanwhile is applied (R415), and what waited goes on. -/
def testOver (s : State) : State :=
  let t := s.st.ltarget.toNat
  let s := if (getIsl s t).trimDue then modIsl t trimStep s else s
  resumeWaiting { s with st := { s.st with busy := false } }

/-- WARN abandons the test (R415). -/
def abandonTest (s : State) : State :=
  if s.st.busy then testOver { s with st := { s.st with abandoned := true } } else s

end Sys2Proof.Machine
end

