-- ==== Sys2Proof/Machine/Firmware.lean ====
section
/-! DEFINITION. Start-up, images, mailboxes and the commands Bedrock serves (14): the meanings of BOOT_GO, IMAGE_VERIFY_DONE,
STARTUP_ZERO_DONE, MAILBOX_POST, MAILBOX_ANSWER, the twelve mailbox commands, UPDATE_TIMEOUT and CCCTL_WRITE. -/

namespace Sys2Proof.Machine

/-! ### Verification (R344, R345) -/

/-- A little-endian field of an image's header (R344). -/
def hdrNat (im : Image) (off n : Nat) : Nat := natOfBytes ((im.header.drop off).take n)
def imSvn (im : Image) : Half := BitVec.ofNat 32 (hdrNat im 0x0C 4)
def imBodylen (im : Image) : Nat := hdrNat im 0x10 4
def imEntry (im : Image) : Half := BitVec.ofNat 32 (hdrNat im 0x14 4)
def imMinsvn (im : Image) : Half := BitVec.ofNat 32 (hdrNat im 0x18 4)
def imBuild (im : Image) : Word := BitVec.ofNat 64 (hdrNat im 0x20 8)
/-- The body, BODYLEN bytes. -/
def imBody (im : Image) : List Byte := im.body.take (imBodylen im)

/-- The configuration bit of an image's CONFIG field. -/
def configBit (s : State) : Nat := if s.cfg.compact then 1 else 0
/-- The largest header and body together: 64 KiB for Bedrock, 4 MiB for Scree. -/
def imageLimit (type : Byte) : Nat := if type == 1 then 0x10000 else 0x400000

/-- Step 1: MAGIC, FMT, and the reserved bytes 0x0A, 0x0B, 0x28 to 0x7F and 0xE0 to 0xFF. -/
def formOk (im : Image) : Bool :=
  hdrNat im 0 4 == 0x48545256 && hdrNat im 4 2 == 1 && hdrNat im 0x0A 2 == 0 && hdrNat im 0x28 88 == 0 && hdrNat im 0xE0 32 == 0

/-- Where the key block of the running Bedrock begins in KRAM: its body follows its header (R344, R361). -/
def keyBlock (s : State) : Nat := 256 + natOfBytes (memRead s.kram 0x1C 4)
/-- Key i of that block: it lies in the body and is not all zero. -/
def screeKey (s : State) (i : Nat) : Bool :=
  let a := keyBlock s + 96 * i
  decide (i < 4) && decide (a + 96 ≤ 256 + natOfBytes (memRead s.kram 0x10 4)) && (memRead s.kram a 96).any (· != 0)
/-- Step 5: KEYIDX selects one of the ROM's two keys for Bedrock, one of the running Bedrock's four for Scree. -/
def keyOk (s : State) (type : Byte) (im : Image) : Bool :=
  if type == 1 then decide (hdrNat im 7 1 < 2) else screeKey s (hdrNat im 7 1)
/-- The key that KEYIDX selects: X then Y. -/
def imKey (s : State) (type : Byte) (im : Image) : List Byte :=
  if type == 1 then bigBytes (if hdrNat im 7 1 == 0 then s.cfg.rom0 else s.cfg.rom1).toNat 96
  else memRead s.kram (keyBlock s + 96 * hdrNat im 7 1) 96
/-- Step 6: SIG verifies over SHA-384 of the header bytes 0x00 to 0x7F and the body. -/
def sigOk (s : State) (type : Byte) (im : Image) : Bool :=
  ecdsaOk (imKey s type im) ((im.header.drop 0x80).take 96) (sha384 (im.header.take 0x80 ++ imBody im))

/-- The first failing check, or none (R345). -/
def verifyErr (s : State) (type : Byte) (im : Image) : Option Byte :=
  if !im.readOk then some 0x08
  else if !formOk im then some 0x01
  else if hdrNat im 6 1 != type.toNat then some 0x02
  else if hdrNat im 8 1 != 0x03 || !(hdrNat im 9 1).testBit (configBit s) then some 0x03
  else if imageLimit type < 256 + imBodylen im || imBodylen im ≤ (imEntry im).toNat then some 0x04
  else if !keyOk s type im then some 0x05
  else if !sigOk s type im then some 0x06
  else if type == 2 && decide ((imSvn im).toNat < s.ctl.minsvn.toNat) then some 0x07
  else none

/-- The image could be read whole and fits where it is copied. -/
def imageFits (type : Byte) (im : Image) : Bool := im.readOk && decide (256 + imBodylen im ≤ imageLimit type)

/-- The ROM's copy of a Bedrock image in KRAM, header and body (R361). -/
def loadKram (im : Image) (s : State) : State :=
  if imageFits 1 im then
    eccMend 0x80010000 (256 + imBodylen im) { s with kram := memWrite s.kram 0 (im.header.take 256 ++ imBody im) }
  else s

/-- Bedrock's copy of a Scree body in a bank (R347 step 9, R353 step 1). -/
def loadBank (bank : Bool) (im : Image) (s : State) : State :=
  if imageFits 2 im then
    eccMend (bankBase bank) (imBodylen im) { s with cmem := memWrite s.cmem (bankBase bank) (imBody im) }
  else s

/-! ### The boot parameter block (R346) -/

/-- Two address ranges overlap. -/
def overlap (a n b m : Nat) : Bool := decide (0 < n) && decide (0 < m) && decide (a < b + m) && decide (b < a + n)

/-- Every field keeps its rule, and the store, the bitmap and the arena neither overlap nor wrap. -/
def bpbOk (s : State) (b : Bpb) : Bool :=
  let k := b.w2.toNat
  let n := 128 * 2 ^ k
  let m := max (2 ^ k / 8) 1
  let z := b.w4.toNat
  decide (16 ≤ k) && decide (k ≤ log2Max s) && b.w0.toNat % n == 0 && b.w1.toNat % 4096 == 0 && b.w3.toNat % 4096 == 0 &&
  z % 4096 == 0 && b.w5.toNat % 4096 == 0 && b.w6 == 0 && b.w7 == 0 &&
  decide (b.w0.toNat + n ≤ 2 ^ 64) && decide (b.w1.toNat + m ≤ 2 ^ 64) && decide (b.w3.toNat + z ≤ 2 ^ 64) &&
  !overlap b.w0.toNat n b.w1.toNat m && !overlap b.w0.toNat n b.w3.toNat z && !overlap b.w1.toNat m b.w3.toNat z

/-! ### Start-up (R347) -/

/-- PHASE 9 with an error. -/
def bootHalt (err : Byte) (s : State) : State := modCtl (fun c => { c with phase := 9, err := err }) s

/-- Steps 5 to 7: Bedrock starts, reads the BPB, and arms the first barrier. -/
def startBedrock (s : State) : State :=
  match s.ctl.bedrock with
  | none => s
  | some (svn, minsvn, entry, b) =>
    let s := modCtl (fun c => { c with bedrock := none, phase := 4, bedrockRan := true, bedsvn := svn, minsvn := minsvn }) s
    let s := modCore 8 (startRegs (w64 (0x80010100 + entry.toNat)) s.time) s
    if !bpbOk s b then bootHalt 0x09 s
    else
      let s := { s with dsp := { s.dsp with ctxbase := b.w0, log2cnt := bits b.w2 0 5, psbase := b.w1 } }
      let s := modCtl (fun c => { c with tsvbase := b.w3, tsvsize := b.w4, loading := b.w5 != 0, startBarrier := 2 }) s
      armMask (BitVec.allOnes 71) (installStart s)

/-- The tests of the start-up self-test, in the order in which the model runs them (R410; log entry 29). -/
def startTests (s : State) : List (Bool × Nat) :=
  ((List.range 82).filter (fun i => i != 0 && islPresent s i)).map (fun i => (false, i)) ++
    ((List.range 17).filter (groupPresent s)).map (fun g => (true, g))

/-- The next test of the start-up self-test, or what it has tested is reset, and step 5 (R410). -/
def nextTest (s : State) : State :=
  match s.ctl.tests with
  | [] => startBedrock (resetAll (startTests s) s)
  | (mem, t) :: l => beginTest (if mem then 1 else 0) (BitVec.ofNat 7 t) (modCtl (fun c => { c with tests := l }) s)

/-- A Bedrock image has been read and checked (steps 3 and 4). -/
def bedrockVerified (im : Image) (b : Bpb) (s : State) : State :=
  let e := verifyErr s 1 im
  let s := loadKram im s
  match e with
  | some e => bootHalt e s
  | none =>
    let s := modCtl (fun c => { c with bedrock := some (imSvn im, imMinsvn im, imEntry im, b) }) s
    if s.ctl.selftest then nextTest (modCtl (fun c => { c with phase := 3, tests := startTests s }) s) else startBedrock s

/-- The Scree image of start-up has been read and checked (step 9). -/
def screeVerified (im : Image) (s : State) : State :=
  let e := verifyErr s 2 im
  let s := modCtl (fun c => { c with loading := false }) (loadBank false im s)
  match e with
  | some e => modCtl (fun c => { c with phase := 6, err := e }) s
  | none => screeGo (modCtl (fun c => { c with scree := some (imSvn im, imEntry im) }) s)

/-- The image of a SCREE_LOAD has been read and checked (R353 steps 1 to 3). -/
def updateVerified (m : Nat) (im : Image) (s : State) : State :=
  let waits := s.ctl.phase == 6
  let e := verifyErr s 2 im
  let s := loadBank (!waits && !s.ctl.bank) im s
  match e with
  | some e => bedAnswer m 0x15 (e.zeroExtend 32) [] (modCtl (fun c => { c with update := none }) s)
  | none =>
    if waits then screeGo (modCtl (fun c => { c with update := none, scree := some (imSvn im, imEntry im), screeFor := some m }) s)
    else
      nextNotice (modCtl (fun c => { c with
        update := some (.queued m (imSvn im) (imEntry im) (imBuild im)), notices := c.notices ++ [.update] }) s)

/-- GO by the management processor in PHASE 1, or in PHASE 9 after an image that was refused (R347 step 3, R357). -/
def bootGo (selftest : Bool) (s : State) : State :=
  let p := s.ctl.phase
  let s := if p == 1 || p == 9 then modCtl (fun c => { c with selftest := selftest }) s else s
  if p == 1 || (p == 9 && decide (1 ≤ s.ctl.err.toNat) && decide (s.ctl.err.toNat ≤ 8)) then
    modCtl (fun c => { c with phase := 2 }) s
  else s
def execBootGo (r : Requester) (selftest : Bool) (s : State) : Res :=
  if !live s || !isMp r || s.pf.stage != .normal then .next (access r s) else .next (bootGo selftest (access r s))

def execImageVerifyDone (im : Image) (bpb : Bpb) (s : State) : Res :=
  if !live s || s.pf.stage != .normal then .next s
  else if s.ctl.phase == 2 then .next (bedrockVerified im bpb s)
  else if s.ctl.phase == 5 && s.ctl.loading then .next (screeVerified im s)
  else match s.ctl.update with
    | some (.verify m) => .next (updateVerified m im s)
    | _ => .next s

/-- The contexts, the bitmap and the Scree data region are zero; the Cairn record is copied to its window (R347, R403). -/
def zeroEnds (s : State) : State :=
  let s := eccMend 0x800000 0x800000 { s with
    dsp := { s.dsp with ctx := [], cache := [], bitmap := [], summary := [] }
    cmem := s.cmem.filter (fun c => decide (c.1 < 0x800000)) }
  screeGo (modCtl (fun c => { c with zeroed := true }) (loadCairn s))
def execStartupZeroDone (s : State) : Res :=
  if live s && s.pf.stage == .normal && (s.ctl.phase == 5 || s.ctl.phase == 6) && !s.ctl.zeroed then .next (zeroEnds s)
  else .next s

/-! ### Mailboxes (R350, R354) -/

/-- The sender and the receiver of a mailbox. -/
def mbxSender (m : Nat) : Requester → Bool
  | .cc _ => decide (m < 8)
  | .mp => m == 8 || m == 10
  | .kc => m == 9
  | .host _ _ => false
def mbxReceiver (m : Nat) : Requester → Bool
  | .kc => decide (m ≤ 8)
  | .cc _ => m == 9 || m == 10
  | _ => false

/-- Scree has answered a notice (R353 steps 3 to 5, R354): on FLR Bedrock writes FLRACK. -/
def noticeAnswered (s : State) : State :=
  match s.ctl.noticed with
  | none => nextNotice s
  | some n =>
    let s := modCtl (fun c => { c with noticed := none }) s
    match n, s.ctl.update with
    | .update, some (.notice m svn entry _) =>
      if fld (rspWord s 9 0) 0 8 != 0 then nextNotice (bedAnswer m 0x16 0 [] (modCtl (fun c => { c with update := none }) s))
      else
        let s := writeCcctl (putb 32 s.ctl.bank 8 ||| put 32 s.ctl.cause 9) s
        nextNotice (armNext 16 (modCtl (fun c => { c with update := some (.barrier m svn entry) }) s))
    | .flr fn, _ => nextNotice (flrAckWrite (hptOf fn) (BitVec.ofNat 32 (localOf fn)) s)
    | _, _ => nextNotice s

/-- ANSWER, with what Bedrock does on an answered notice. -/
def answerMbx (m : Nat) (s : State) : State :=
  let was := (getMbx s m).busy
  let s := mbxDone m s
  if m == 9 && was && bedServes s then noticeAnswered s else s

def execMailboxPost (r : Requester) (m : Nat) (s : State) : Res :=
  if s.inReset || !mbxSender m r then .next (access r s) else .next (mbxPost m (access r s))
def execMailboxAnswer (r : Requester) (m : Nat) (s : State) : Res :=
  if s.inReset || !mbxReceiver m r then .next (access r s) else .next (answerMbx m (access r s))

/-! ### Serving a request (R351, R352, R355) -/

/-- A request that Bedrock has taken and not yet answered. -/
def reqTaken (s : State) (m : Nat) : Bool :=
  s.ctl.commits.contains m || s.ctl.committing == some m || s.ctl.testFor == some m || s.ctl.screeFor == some m ||
  (match s.ctl.update with
   | some (.verify k) | some (.queued k _ _ _) | some (.notice k _ _ _) | some (.barrier k _ _) => k == m
   | none => false)

def badArg (m w : Nat) (s : State) : State := bedAnswer m 0x12 (BitVec.ofNat 32 w) [] s

/-- A mailbox whose request Bedrock could take now: posted and not taken yet, and not a LOCK_BREAK while another waits for its
owner's engine. -/
def mayServe (s : State) (m : Nat) : Bool :=
  (getMbx s m).busy && !reqTaken s m && s.ctl.lockFor != some m && !(s.ctl.lockFor.isSome && fld (reqWord s m 0) 0 8 == 3)
/-- The mailbox that Bedrock takes next: 8 first, then 0 to 7 in turn after the last one served (R355). -/
def nextMbx (s : State) : Option Nat :=
  (8 :: (List.range 8).map (fun i => (s.ctl.lastServed + 1 + i) % 8)).find? (mayServe s)
/-- Mailbox m has its turn. -/
def served (m : Nat) (s : State) : State := if m < 8 then modCtl (fun c => { c with lastServed := m }) s else s

/-- Bedrock takes the request of mailbox m, if it is the next one or waits for its break. A command it does not define, or that
the sender may not issue, is answered so; one that another command of the model serves is left to it. -/
def serve (m cmd : Nat) (scree mp : Bool) (f : State → State) (s : State) : State :=
  let w := reqWord s m 0
  let c := fld w 0 8
  if !bedServes s || !(nextMbx s == some m || (s.ctl.lockFor == some m && (getMbx s m).busy)) then s
  else if c < 1 || 12 < c then bedAnswer m 0x10 0 [] (served m s)
  else if c != cmd then s
  else if fld w 8 8 != 0 || fld w 32 32 != 0 then badArg m 0 (served m s)
  else if !(if m == 8 then mp else scree) then bedAnswer m 0x11 0 [] (served m s)
  else f (served m s)

/-! GATE_RULE and GATE_COMMIT -/

/-- The request word of the first malformed word of a rule. -/
def badWord (r : Rule) : Nat :=
  if fld r.w0 0 2 != 0 then 2 else if fld r.w1 0 2 != 0 then 3 else if fld r.w2 28 35 != 0 then 4 else 5

def serveGateRule (m : Nat) (s : State) : State :=
  let a := reqWord s m 1
  let g := fld a 0 7
  let i := fld a 8 6
  let r : Rule := { w0 := reqWord s m 2, w1 := reqWord s m 3, w2 := reqWord s m 4, w3 := reqWord s m 5 }
  if fld a 7 1 != 0 || fld a 14 50 != 0 || !gatePresent s g then badArg m 1 s
  else if g == 70 || i == 0 || i == 63 || ((g == 68 || g == 69) && decide (i ≤ 7)) || bit r.w2 26 || bit r.w2 27 then
    bedAnswer m 0x13 0 [] s
  else if ruleBad r then badArg m (badWord r) s
  else if ruleLocked s g then bedAnswer m 0x14 0 [] s
  else bedAnswer m 0 0 [] (setShadow g i r s)
def execGateRule (m : Nat) (s : State) : Res := .next (serve m 0x01 true true (serveGateRule m) s)

def serveGateCommit (m : Nat) (s : State) : State :=
  let b := reqWord s m 2
  if fld b 7 57 != 0 then badArg m 2 s
  else if bit b 6 then bedAnswer m 0x13 0 [] s
  else armNext 16 (modCtl (fun c => { c with commits := c.commits ++ [m] }) s)
def execGateCommit (m : Nat) (s : State) : Res := .next (serve m 0x02 true true (serveGateCommit m) s)

/-! LOCK_BREAK -/

/-- A break command that waits for the owner's engine. -/
def breakWaits (s : State) (a : Word) : Bool := s.lock.waiting.any (fun y => y.addr == a && y.cause == 4)

/-- Bedrock issues BREAK; while it waits for an engine, Bedrock comes back to the request (log entry 30). -/
def serveLockBreak (m : Nat) (s : State) : State :=
  let a := reqWord s m 1
  if a.toNat % 8 != 0 then badArg m 1 s
  else match s.ctl.lockFor with
    | some k =>
      if k != m || breakWaits s a then s
      else bedAnswer m 0 0 [w64 (b2n s.lock.found)] (modCtl (fun c => { c with lockFor := none }) s)
    | none =>
      let s := lockCommand (modLock (fun l => { l with lbcmdadr := a }) s)
      if breakWaits s a then modCtl (fun c => { c with lockFor := some m }) s
      else bedAnswer m 0 0 [w64 (b2n s.lock.found)] s
def execLockBreak (m : Nat) (s : State) : Res := .next (serve m 0x03 true true (serveLockBreak m) s)

/-! HOST_SET (R291) -/

def setHpctl (h : Nat) (v : Half) (s : State) : State :=
  modHp h (fun p => { p with mrrscap := bits v 0 3, mpscap := bits v 4 3, tphen := bit v 8, cto := bits v 16 12 }) s
def setHpctl2 (h : Nat) (v : Half) (s : State) : State :=
  modHp h (fun p => { p with ctlfn := bits v 0 10, evglob := bits v 16 10, evgloben := bit v 31 }) s

def serveHostSet (m : Nat) (s : State) : State :=
  let a := reqWord s m 1
  let x := reqWord s m 2
  let y := reqWord s m 3
  let h := a.toNat
  if nHosts s ≤ h then badArg m 1 s
  else if fld x 3 1 != 0 || fld x 7 1 != 0 || fld x 9 7 != 0 || fld x 28 36 != 0 then badArg m 2 s
  else if fld y 10 6 != 0 || fld y 26 5 != 0 || fld y 32 32 != 0 || !(getFn s (h * 1024 + fld y 16 10)).mir.pf then badArg m 3 s
  else bedAnswer m 0 0 [] (setHpctl2 h (lo32 y) (setHpctl h (lo32 x) s))
def execHostSet (m : Nat) (s : State) : Res := .next (serve m 0x04 true true (serveHostSet m) s)

/-! TSV_PLACE and TSV_RING (R313, R317, R337) -/

/-- The placed regions of an instance: start and length; a base of 0 is not placed (log entry 22). -/
def instRegions (x : Inst) : List (Nat × Nat) :=
  [(x.hdrbase.toNat, 32), (x.ep0.ebase.toNat, 128 * 2 ^ x.ep0.log2b.toNat), (x.ep0.sbase.toNat, 8192),
   (x.ep1.ebase.toNat, 128 * 2 ^ x.ep1.log2b.toNat), (x.ep1.sbase.toNat, 8192)].filter (fun r => r.1 != 0)
def ringRegion (s : State) : List (Nat × Nat) :=
  [(s.tsv.tevbase.toNat, 32 * 2 ^ tevLog s.tsv)].filter (fun r => r.1 != 0)

/-- A region lies in the arena. -/
def inArena (s : State) (a n : Nat) : Bool :=
  decide (s.ctl.tsvbase.toNat ≤ a) && decide (a + n ≤ s.ctl.tsvbase.toNat + s.ctl.tsvsize.toNat)

/-- The regions a request asks for, with the word that names each: word, start, length, alignment. -/
def askedRegions (m : Nat) (x : Inst) (s : State) : List (Nat × Nat × Nat × Nat) :=
  let a (w : Nat) : Nat := (reqWord s m w).toNat
  let n0 := 128 * 2 ^ x.ep0.log2b.toNat
  let n1 := 128 * 2 ^ x.ep1.log2b.toNat
  [(2, a 2, 32, 32), (3, a 3, n0, n0), (4, a 4, 8192, 8192), (5, a 5, n1, n1), (6, a 6, 8192, 8192)]

/-- The first region that is misaligned, outside the arena, or overlaps an earlier one or one placed already. -/
def badRegion (s : State) (placed : List (Nat × Nat)) : List (Nat × Nat × Nat × Nat) → Option Nat
  | [] => none
  | (w, a, n, al) :: t =>
    if a % al != 0 || !inArena s a n || placed.any (fun r => overlap a n r.1 r.2) then some w
    else badRegion s ((a, n) :: placed) t

def otherRegions (s : State) (i : Nat) : List (Nat × Nat) :=
  ((List.range 16).filter (· != i)).flatMap (fun j => instRegions (getInst s j))

def serveTsvPlace (m : Nat) (s : State) : State :=
  let a := reqWord s m 1
  let i := fld a 0 4
  let x := getInst s i
  if fld a 4 60 != 0 || x.en then badArg m 1 s
  else match badRegion s (ringRegion s ++ otherRegions s i) (askedRegions m x s) with
    | some w => badArg m w s
    | none =>
      bedAnswer m 0 0 [] (modInst i (fun x => { x with
        hdrbase := reqWord s m 2
        ep0 := { x.ep0 with ebase := reqWord s m 3, sbase := reqWord s m 4 }
        ep1 := { x.ep1 with ebase := reqWord s m 5, sbase := reqWord s m 6 } }) s)
def execTsvPlace (m : Nat) (s : State) : Res := .next (serve m 0x05 true true (serveTsvPlace m) s)

def serveTsvRing (m : Nat) (s : State) : State :=
  let a := (reqWord s m 1).toNat
  let l := reqWord s m 2
  if (List.range 16).any (fun i => (getInst s i).en) then badArg m 1 s
  else if l.toNat < 12 || 20 < l.toNat then badArg m 2 s
  else match badRegion s (otherRegions s 16) [(1, a, 32 * 2 ^ l.toNat, 32)] with
    | some w => badArg m w s
    | none => bedAnswer m 0 0 [] (modTsv (fun t => { t with tevbase := w64 a, tevlog := bits l 0 5 }) s)
def execTsvRing (m : Nat) (s : State) : Res := .next (serve m 0x06 true true (serveTsvRing m) s)

/-! SELFTEST (R411) -/

/-- Another engine island has a present engine. -/
def otherEngines (s : State) (i : Nat) : Bool := (List.range (nEngines s)).any (fun e => e / 4 + 2 != i && engPresent s e)

def serveSelftest (m : Nat) (s : State) : State :=
  let a := reqWord s m 1
  let kind : BitVec 2 := bits a 0 2
  let t : BitVec 7 := bits a 8 7
  if fld a 2 6 != 0 || fld a 15 49 != 0 || !testExists s kind t then badArg m 1 s
  else if kind != 2 && (s.ctl.phase != 6 || (kind == 0 && t == 0) || (kind == 1 && t == 11)) then bedAnswer m 0x11 0 [] s
  else if kind == 2 && !otherEngines s t.toNat then bedAnswer m 0x11 0 [] s
  else if s.st.busy then bedAnswer m 0x14 0 [] s
  else startTest kind t (modCtl (fun c => { c with testFor := some m }) s)
def execSelftest (m : Nat) (s : State) : Res := .next (serve m 0x07 true true (serveSelftest m) s)

/-! VLOG_NEXT -/

def serveVlogNext (m : Nat) (s : State) : State :=
  let g := s.gate
  if g.vlogwr == g.vlogrd then bedAnswer m 0x01 0 [] s
  else
    let r := tget {} g.vlog (g.vlogrd.toNat % 256)
    bedAnswer m 0 0 [r.w0, r.w1, r.w2, r.w3] (modGate (fun g => { g with vlogrd := inc32 g.vlogrd }) s)
def execVlogNext (m : Nat) (s : State) : Res := .next (serve m 0x08 true true (serveVlogNext m) s)

/-! READY (R347 step 11) -/

def serveReady (m : Nat) (s : State) : State :=
  if !s.ctl.zeroed || s.ctl.ready then bedAnswer m 0x14 0 [] s
  else bedAnswer m 0 0 [] (modCtl (fun c => { c with ready := true, phase := 8 }) s)
def execReady (m : Nat) (s : State) : Res := .next (serve m 0x09 true false (serveReady m) s)

/-! SCREE_LOAD and SCREE_RESTART (R353) -/

/-- An update, a load of start-up, or a load that waits for step 10 is in progress. -/
def loadBusy (s : State) : Bool := s.ctl.update.isSome || s.ctl.loading || s.ctl.scree.isSome

def serveScreeLoad (m : Nat) (s : State) : State :=
  if loadBusy s then bedAnswer m 0x14 0 [] s else modCtl (fun c => { c with update := some (.verify m) }) s
def execScreeLoad (m : Nat) (s : State) : Res := .next (serve m 0x0A true true (serveScreeLoad m) s)

/-- Steps 4 and 6 of R353 with CAUSE 2: every core starts again at the present entry. -/
def restartScree (s : State) : State :=
  let v : Half := putb 32 s.ctl.bank 8
  writeCcctl (v ||| 0xFF ||| put 32 (2 : BitVec 2) 9) (writeCcctl (v ||| put 32 s.ctl.cause 9) s)
def serveScreeRestart (m : Nat) (s : State) : State :=
  if loadBusy s || !(s.ctl.phase == 7 || s.ctl.phase == 8) then bedAnswer m 0x14 0 [] s
  else bedAnswer m 0 0 [] (restartScree s)
def execScreeRestart (m : Nat) (s : State) : Res := .next (serve m 0x0B false true (serveScreeRestart m) s)

/-! CAIRN_SET (R402) -/

def serveCairnSet (m : Nat) (s : State) : State :=
  let a := reqWord s m 1
  let b := reqWord s m 2
  if fld a 1 3 != 0 || fld a 9 55 != 0 || !hostSpace s (bits a 4 4) then badArg m 1 s
  else if b.toNat % 4096 != 0 then badArg m 2 s
  else
    let s := modPf (fun p => { p with hcen := bit a 0, hspace := bits a 4 4, haddr := b }) s
    bedAnswer m 0 0 [] (if bit a 8 then clearRecords s else s)
def execCairnSet (m : Nat) (s : State) : Res := .next (serve m 0x0C true true (serveCairnSet m) s)

/-! ### UPDATE_TIMEOUT and CCCTL_WRITE -/

def execUpdateTimeout (s : State) : Res :=
  match s.ctl.update with
  | some (.notice m _ _ t) =>
    if !bedServes s || decide ((s.time - t).toNat < 100000000) then .next s
    else .next (bedAnswer m 0x17 0 [] (modCtl (fun c => { c with update := none }) s))
  | _ => .next s

def execCcctlWrite (r : Requester) (v : Half) (s : State) : Res :=
  if !live s || !isKc r then .next (access r s) else .next (writeCcctl v (access r s))

end Sys2Proof.Machine
end

