-- ==== Sys2Proof/Machine/Flags.lean ====
section
/-! DEFINITION. The arithmetic of the control profile with its flags (15 R365, R366), and the conditions of B (R367). -/

namespace Sys2Proof.Machine

/-- Z, S, C and V of a core (R359). -/
structure CFlags where
  z : Bool := false
  s : Bool := false
  c : Bool := false
  v : Bool := false
  deriving DecidableEq, Repr, Inhabited

/-- Z and S from a result, with C and V. -/
def flagsFor (r : Word) (c v : Bool) : CFlags := { z := r == 0, s := bit r 63, c := c, v := v }

/-- Carry out of bit 63 and signed overflow of a sum; no borrow and signed overflow of a difference. -/
def addCarry (a b : Word) : Bool := decide (2 ^ 64 ≤ a.toNat + b.toNat)
def addOver (a b : Word) : Bool := bit a 63 == bit b 63 && bit (a + b) 63 != bit a 63
def subNoBorrow (a b : Word) : Bool := decide (b.toNat ≤ a.toNat)
def subOver (a b : Word) : Bool := bit a 63 != bit b 63 && bit (a - b) 63 != bit a 63

/-- The last bit shifted out by a count; 0 for a count of 0. -/
def outLeft (a : Word) (n : Nat) : Bool := n != 0 && bit a (64 - n)
def outRight (a : Word) (n : Nat) : Bool := n != 0 && bit a (n - 1)

/-- Whether an operation writes RD, its result, its flags. -/
structure AluOut where
  write : Bool
  res : Word
  flags : CFlags
  deriving DecidableEq, Repr, Inhabited

def aluRes (write : Bool) (r : Word) (c v : Bool) : AluOut := { write := write, res := r, flags := flagsFor r c v }

/-- The table of R365; none for a reserved MOD. -/
def aluOp (mod : Nat) (a b : Word) : Option AluOut :=
  let n := fld b 0 6
  match mod with
  | 0 => some (aluRes true (a + b) (addCarry a b) (addOver a b))
  | 1 => some (aluRes true (a - b) (subNoBorrow a b) (subOver a b))
  | 2 => some (aluRes true (a &&& b) false false)
  | 3 => some (aluRes true (a ||| b) false false)
  | 4 => some (aluRes true (a ^^^ b) false false)
  | 5 => some (aluRes true (a <<< n) (outLeft a n) false)
  | 6 => some (aluRes true (a >>> n) (outRight a n) false)
  | 7 => some (aluRes true (a.sshiftRight n) (outRight a n) false)
  | 8 => some (aluRes true (a * b) false false)
  | 9 => some (aluRes true (BitVec.ofNat 64 (a.toNat * b.toNat / 2 ^ 64)) false false)
  | 10 => some (aluRes false (a - b) (subNoBorrow a b) (subOver a b))
  | 11 => some (aluRes false (a &&& b) false false)
  | _ => none

/-- Bits [pos + len - 1 : pos] of a, and x with those bits replaced by the low bits of a (R366). -/
def bfExtract (a : Word) (pos len : Nat) : Word := BitVec.ofNat 64 (fld a pos len)
def bfMask (pos len : Nat) : Word := BitVec.ofNat 64 ((2 ^ len - 1) * 2 ^ pos)
def bfInsert (x a : Word) (pos len : Nat) : Word := masked x (a <<< pos) (bfMask pos len)

/-- The test of a condition, before INV. -/
def condTest (f : CFlags) (test : Nat) : Bool :=
  match test with
  | 0 => true
  | 1 => f.z
  | 2 => f.c
  | 3 => f.s
  | 4 => f.v
  | 5 => f.c && !f.z
  | 6 => f.s == f.v
  | _ => !f.z && f.s == f.v

/-- The condition that MOD[3:0] of B names: TEST in [2:0], INV in [3]. -/
def condHolds (f : CFlags) (m : Nat) : Bool := condTest f (m % 8) != decide (8 ≤ m)

end Sys2Proof.Machine
end

