-- ==== Sys2Proof/Machine/CoreOps.lean ====
section
/-! DEFINITION. What every core instruction uses (15): the registers, the address map of R361, fetching, faults (R370), and
when a core runs. -/

namespace Sys2Proof.Machine

/-! ### Registers (R359) -/

def getG (k : Core) (r : Nat) : Word := if r = 0 then 0 else tget 0 k.g r
/-- A write of a general register; one of G0 is discarded. -/
def setG (r : Nat) (v : Word) (k : Core) : Core := if r = 0 then k else { k with g := tset 0 k.g r v }
def coreFlags (k : Core) : CFlags := { z := k.z, s := k.s, c := k.c, v := k.v }
def setFlags (f : CFlags) (k : Core) : Core := { k with z := f.z, s := f.s, c := f.c, v := f.v }
/-- PC moves past an instruction of n words. -/
def stepPc (n : Nat) (k : Core) : Core := { k with pc := k.pc + w64 (8 * n) }

/-! ### Fields (R360) -/

def fRD (w : Word) : Nat := fld w 0 5
def fRA (w : Word) : Nat := fld w 5 5
def fRB (w : Word) : Nat := fld w 10 5
def fI (w : Word) : Bool := bit w 15
def fIMM (w : Word) : Word := sext 32 (w >>> 16)
def fMOD (w : Word) : Nat := fld w 48 8
/-- RB and I are 0. -/
def noRB (w : Word) : Bool := fRB w == 0 && !fI w

/-! ### The address map (R361) -/

inductive Region
  | ctl | rom | kram | rsram | crypto | none
  deriving DecidableEq, Repr, Inhabited

def regionOf (c : Nat) (a : Word) : Region :=
  let n := a.toNat
  if n < 0x1000000 then .ctl
  else if c != 8 then .none
  else if 0x80000000 ≤ n ∧ n < 0x80008000 then .rom
  else if 0x80010000 ≤ n ∧ n < 0x80030000 then .kram
  else if 0x80040000 ≤ n ∧ n < 0x80044000 then .rsram
  else if 0x80050000 ≤ n ∧ n < 0x80051000 then .crypto
  else .none

/-- The identity of a core at gate 70 (R240, R258). -/
def coreWho (c : Nat) : Who := { cls := if c == 8 then 2 else 1, engine := c, core := true }

/-- Gate 70 checks the granules of an access of a core. -/
def coreGate (c : Nat) (n : Need) (a : Word) (len : Nat) (s : State) : Option State :=
  let g := alignDown a 4
  let l := max len 4
  let v := gateCheck s 70 (coreWho c) n g l false
  if v.ok then none else some (denyPrecise 70 (coreWho c) n g l v s)

/-- What an access of a core meets: the bytes, or a cause of R370; and the state it leaves. -/
inductive Got
  | bytes (d : List Byte) (s : State)
  | fault (cause : BitVec 3) (s : State)
  deriving DecidableEq, Repr, Inhabited

/-- The free bytes of a read that the spec gives no value: the crypto unit's private interface (R361), and the retention SRAM
once CUT has isolated it (R399). Log entry 4. -/
def freeBytes (n : Nat) (s : State) : Got := let r := drawFree s; .bytes (bytesOf r.1 n) r.2

/-- The bytes of an SRAM read, or an ECC fault (R370), with the errors of control memory counted (R418). KRAM and the retention SRAM
belong to no memory group (R407). -/
def sramRead (r : Region) (a : Word) (n : Nat) (d : List Byte) (s : State) : Got :=
  if eccAt s a.toNat n then .fault 5 (if r == .ctl then eccCount 11 s else s)
  else .bytes d (if r == .ctl then softRead 11 a.toNat n s else s)

/-- A load, or a fetch that no cache answers, of n bytes. -/
def coreRead (c : Nat) (a : Word) (n : Nat) (s : State) : Got :=
  match regionOf c a with
  | .ctl => match coreGate c .rd a n s with
    | some s' => .fault 3 s'
    | none => sramRead .ctl a n (memRead s.cmem a.toNat n) s
  | .rom => .bytes ((List.range n).map (fun i => Config.bootRom (a.toNat - 0x80000000 + i))) s
  | .kram => sramRead .kram a n (memRead s.kram (a.toNat - 0x80010000) n) s
  | .rsram => if s.pf.cut then freeBytes n s else sramRead .rsram a n (memRead s.rsram (a.toNat - 0x80040000) n) s
  | .crypto => freeBytes n s
  | .none => .fault 4 s

/-- A write into KRAM or the retention SRAM. -/
def localWrite (r : Region) (a : Word) (d : List Byte) (s : State) : State :=
  match r with
  | .kram => eccMend a.toNat d.length { s with kram := memWrite s.kram (a.toNat - 0x80010000) d }
  | .rsram =>
    if s.pf.cut then s else eccMend a.toNat d.length { s with rsram := memWrite s.rsram (a.toNat - 0x80040000) d }
  | _ => s

/-! ### The instruction cache (R338, R340) -/

/-- Gate 70 delivers CACHEABLE for the whole 64-byte line of an address. KC has no cache. -/
def lineCacheable (s : State) (c : Nat) (a : Word) : Bool :=
  let v := gateCheck s 70 (coreWho c) .rd (alignDown a 64) 64 false
  decide (c < 8) && decide (a.toNat < 0x1000000) && v.ok && v.cach

/-- The line of an address, whose word has been read, is filled; of 512 lines the oldest leaves (log entry 57). -/
def fillLine (c : Nat) (a : Word) (s : State) : State :=
  let l := a.toNat / 64
  let i := a.toNat % 64
  modCore c (fun k => { k with icache := ((l, memRead s.cmem (64 * l) 64) :: k.icache).take 512 })
    (softRead 11 (64 * l) i (softRead 11 (64 * l + i + 8) (56 - i) s))

/-- A fetch of one instruction word: from the cache, else as a load, which fills a line that may be cached. -/
def coreFetch (c : Nat) (a : Word) (s : State) : Got :=
  match (getCore s c).icache.find? (fun x => x.1 == a.toNat / 64) with
  | some x => .bytes ((x.2.drop (a.toNat % 64)).take 8) s
  | none => match coreRead c a 8 s with
    | .fault cause s' => .fault cause s'
    | .bytes d s' => .bytes d (if lineCacheable s' c a && !eccAt s' (a.toNat / 64 * 64) 64 then fillLine c a s' else s')

/-! ### Faults (R370) -/

/-- Steps 1 to 4. A faulting instruction has no other effect. CCFAULT is raised when the bit of CCSTAT.FAULT becomes 1 (R356). -/
def coreFault (c : Nat) (cause : BitVec 3) (addr : Word) (s : State) : State :=
  let k := getCore s c
  let s := modCore c (fun k => { k with fcause := cause, fpc := k.pc, faddr := addr }) s
  let s := if c == 8 || bit s.ctl.fault c then s
    else evK 5 (modCtl (fun x => { x with fault := x.fault ||| (1 : Byte) <<< c }) s)
  if k.fvec &&& ~~~7 != 0 && !k.inh then modCore c (fun k => { k with inh := true, pc := k.fvec &&& ~~~7 }) s
  else if c == 8 then modCtl (fun x => { x with phase := 9, err := 0x0A }) s
  else haltCore c s

def illegal (c : Nat) (s : State) : State := coreFault c 1 0 s

/-! ### When a core runs -/

/-- The core executes instructions: started and not halted (R357, R370), not waiting in a WFE (R371). -/
def coreRuns (s : State) (c : Nat) : Bool :=
  !s.inReset && (getCore s c).wait.isNone &&
  (if c == 8 then !(s.ctl.phase == 9 && s.ctl.err == 0x0A)
   else decide (c < 8) && bit s.ctl.run c && !bit s.ctl.halted c)

/-- The opcodes of R362. -/
def coreOpcodes : List Nat := [0x80, 0x81, 0x82, 0x83, 0x90, 0x91, 0xA0, 0xA1, 0xB0, 0xB1, 0xB2, 0xC0, 0xC8, 0xD0]

/-- Whether a command names the instruction at PC: its opcode, and for MBX and SVC the operation in MOD[1:0]. -/
def names (o : Nat) (sub : Option Nat) (w : Word) : Bool :=
  opc w == o && (match sub with
    | none => true
    | some k => fMOD w % 4 == k)

/-- Carry out the instruction at the PC of a core. A fetch that fails and an opcode outside R362 are faults of the core,
whichever instruction the command names; an instruction of another name waits for its own command. -/
def runCore (c o : Nat) (sub : Option Nat) (f : Word → State → State) (s : State) : Res :=
  if !coreRuns s c then .next s
  else
    let pc := (getCore s c).pc
    match coreFetch c pc s with
    | .fault cause s' => .next (coreFault c cause pc s')
    | .bytes d s' =>
      let w := wordAt d 0
      if opc w ∉ coreOpcodes then .next (illegal c s')
      else if names o sub w then .next (f w s')
      else .next s

/-- Retire a one-word instruction that changes only the core. -/
def retireCore (c : Nat) (f : Core → Core) (s : State) : State := modCore c (fun k => stepPc 1 (f k)) s

/-- An address of a register plus IMM. -/
def coreAddr (c : Nat) (w : Word) (s : State) : Word := getG (getCore s c) (fRA w) + fIMM w

/-- Set Z of a core, and write a register when one is given. -/
def answerZ (z : Bool) (rd : Option (Nat × Word)) (k : Core) : Core :=
  let k := match rd with
    | some (r, v) => setG r v k
    | none => k
  { k with z := z }

end Sys2Proof.Machine
end

