-- ==== Sys2Proof/Machine/Cores.lean ====
section
/-! DEFINITION. The control profile (15): LD, ST, LDI, AMO, ALU, BFX, B, JAL, LCR, WFE, WFE_WAKE, TIMER and the mailbox
transfers. The order of a fault's causes is ILLEGAL, MISALIGN, then the access (log entry 31). -/

namespace Sys2Proof.Machine

/-! ### Memory (R363, R364) -/

/-- The size MOD[1:0] names. -/
def sizeOf_ (w : Word) : Nat := 2 ^ (fMOD w % 4)

/-- The value a load of n bytes delivers. -/
def loadResult (signed : Bool) (n : Nat) (d : List Byte) : Word :=
  let v := BitVec.ofNat 64 (natOfBytes d)
  if signed then sext (8 * n) v else v

def doLd (c : Nat) (w : Word) (s : State) : State :=
  let n := sizeOf_ w
  let a := coreAddr c w s
  if !noRB w || 8 ≤ fMOD w then illegal c s
  else if !aligned a n then coreFault c 2 a s
  else match coreRead c a n s with
    | .fault cause s' => coreFault c cause a s'
    | .bytes d s' => retireCore c (setG (fRD w) (loadResult (bit w 50) n d)) s'
def execLd (c : Nat) (s : State) : Res := runCore c 0x80 none (doLd c) s

/-- A store of a core enters the write buffer, behind what waits there already (R254). -/
def storeEntry (c : Nat) (a : Word) (d : List Byte) : BufWrite :=
  { addr := a, data := d, cls := (coreWho c).cls, engine := c, core := true, purpose := .dropped }
def storeFits (s : State) (n : Nat) : Bool := s.cwait.isEmpty && decide (cbufBytes s + n ≤ 4096)

def doSt (c : Nat) (w : Word) (s : State) : State :=
  let n := sizeOf_ w
  let a := coreAddr c w s
  let d := bytesOf (getG (getCore s c) (fRD w)) n
  if !noRB w || 4 ≤ fMOD w then illegal c s
  else if !aligned a n then coreFault c 2 a s
  else match regionOf c a with
    | .ctl =>
      if storeFits s n then retireCore c id { s with cbuf := s.cbuf ++ [storeEntry c a d] } else s
    | .kram => retireCore c id (localWrite .kram a d s)
    | .rsram => retireCore c id (localWrite .rsram a d s)
    | .crypto => retireCore c id s
    | _ => coreFault c 4 a s
def execSt (c : Nat) (s : State) : Res := runCore c 0x81 none (doSt c) s

def doLdi (c : Nat) (w : Word) (s : State) : State :=
  if fRA w != 0 || !noRB w || 8 ≤ fMOD w || (bit w 48 && fIMM w != 0) then illegal c s
  else if !bit w 48 then retireCore c (setG (fRD w) (fIMM w)) s
  else
    let a := (getCore s c).pc + 8
    match coreFetch c a s with
    | .fault cause s' => coreFault c cause a s'
    | .bytes d s' => modCore c (fun k => stepPc 2 (setG (fRD w) (wordAt d 0) k)) s'
def execLdi (c : Nat) (s : State) : Res := runCore c 0x82 none (doLdi c) s

/-- The word an AMO leaves. -/
def amoNew (m : Nat) (old rb rd : Word) : Word :=
  match m with
  | 0 => rb
  | 1 => old + rb
  | _ => if old = rb then rd else old

/-- RD := old; CAS sets Z. -/
def amoCore (w old rb : Word) (k : Core) : Core :=
  let k := setG (fRD w) old k
  if fMOD w == 2 then { k with z := old == rb } else k

/-- An earlier store of the core stands in the write buffer. -/
def ownStore (s : State) (c : Nat) : Bool :=
  s.cbuf.any (fun b => b.core && b.engine == c) || s.cwait.any (fun b => b.core && b.engine == c)

/-- The old word, once the access is allowed, and the state that holds the new word. -/
def amoAt (c : Nat) (w a old : Word) (put : List Byte → State → State) (s : State) : State :=
  let k := getCore s c
  let rb := getG k (fRB w)
  let new := amoNew (fMOD w) old rb (getG k (fRD w))
  retireCore c (amoCore w old rb) (put (bytesOf new 8) s)

def doAmo (c : Nat) (w : Word) (s : State) : State :=
  let a := getG (getCore s c) (fRA w)
  if fIMM w != 0 || 2 < fMOD w || (fI w && fRB w != 0) then illegal c s
  else if !aligned a 8 then coreFault c 2 a s
  else match regionOf c a with
    | .ctl =>
      if ownStore s c then s
      else match coreGate c .both a 8 s with
        | some s' => coreFault c 3 a s'
        | none => match sramRead .ctl a 8 (memRead s.cmem a.toNat 8) s with
          | .bytes d s' => amoAt c w a (wordAt d 0) (fun d s => eccMend a.toNat 8 { s with cmem := memWrite s.cmem a.toNat d }) s'
          | .fault cause s' => coreFault c cause a s'
    | .kram =>
      match coreRead c a 8 s with
      | .bytes d s' => amoAt c w a (wordAt d 0) (localWrite .kram a) s'
      | .fault cause s' => coreFault c cause a s'
    | .rsram =>
      match coreRead c a 8 s with
      | .bytes d s' => amoAt c w a (wordAt d 0) (localWrite .rsram a) s'
      | .fault cause s' => coreFault c cause a s'
    | _ => coreFault c 4 a s
def execAmo (c : Nat) (s : State) : Res := runCore c 0x83 none (doAmo c) s

/-! ### Arithmetic, logic and branches (R365 to R367) -/

/-- The second operand of ALU. -/
def operandB (k : Core) (w : Word) : Word := if fI w then fIMM w else getG k (fRB w)

def doAlu (c : Nat) (w : Word) (s : State) : State :=
  let k := getCore s c
  if fI w && fRB w != 0 then illegal c s
  else match aluOp (fMOD w) (getG k (fRA w)) (operandB k w) with
    | none => illegal c s
    | some o => retireCore c (fun k => setFlags o.flags (if o.write then setG (fRD w) o.res k else k)) s
def execAlu (c : Nat) (s : State) : Res := runCore c 0x90 none (doAlu c) s

def doBfx (c : Nat) (w : Word) (s : State) : State :=
  let k := getCore s c
  let pos := fld w 16 6
  let len := fld w 24 6 + 1
  if !noRB w || 2 ≤ fMOD w || fld w 22 2 != 0 || fld w 30 18 != 0 || 64 < pos + len then illegal c s
  else
    let a := getG k (fRA w)
    let v := if bit w 48 then bfInsert (getG k (fRD w)) a pos len else bfExtract a pos len
    retireCore c (fun k => { setG (fRD w) v k with z := v == 0 }) s
def execBfx (c : Nat) (s : State) : Res := runCore c 0x91 none (doBfx c) s

/-- PC plus 8 × IMM. -/
def relTarget (pc w : Word) : Word := pc + 8 * fIMM w

def doB (c : Nat) (w : Word) (s : State) : State :=
  if fRD w != 0 || fRA w != 0 || !noRB w || 16 ≤ fMOD w || fMOD w == 8 then illegal c s
  else modCore c (fun k => if condHolds (coreFlags k) (fMOD w) then { k with pc := relTarget k.pc w } else stepPc 1 k) s
def execB (c : Nat) (s : State) : Res := runCore c 0xA0 none (doB c) s

/-- RD := PC + 8, then PC := the target; in the register form the target is formed from G(RA) as RD's write left it (log
entry 32). -/
def doJal (c : Nat) (w : Word) (s : State) : State :=
  let k := getCore s c
  let linked := setG (fRD w) (k.pc + 8) k
  let t := if bit w 48 then getG linked (fRA w) + fIMM w else relTarget k.pc w
  if !noRB w || 2 ≤ fMOD w || (fMOD w == 0 && fRA w != 0) then illegal c s
  else if !aligned t 8 then coreFault c 2 t s
  else modCore c (fun k => { setG (fRD w) (k.pc + 8) k with pc := t }) s
def execJal (c : Nat) (s : State) : Res := runCore c 0xA1 none (doJal c) s

/-! ### Core-local registers (R369) -/

def slotCode : SlotState → Nat
  | .free => 0
  | .busy => 1
  | .done => 2
def svcStat (k : Core) : Nat := slotCode k.svc0.st + 4 * slotCode k.svc1.st + 16 * slotCode k.svc2.st + 64 * slotCode k.svc3.st

/-- Read of a core-local register; none for a number outside the table. -/
def lcrRead (s : State) (c n : Nat) : Option Word :=
  let k := getCore s c
  match n with
  | 0 => some (w64 c)
  | 1 => some (s.time - k.startAt)
  | 2 => some s.time
  | 3 => some (k.fvec &&& ~~~7)
  | 4 => some (k.fcause.zeroExtend 64)
  | 5 => some k.fpc
  | 6 => some k.faddr
  | 7 => some (w64 (b2n k.inh))
  | 8 => some k.tcmp
  | 9 => some (k.lev.zeroExtend 64)
  | 10 => some 0
  | 11 => some (w64 (svcStat k))
  | _ => none

/-- TIMER is set when block time is at or past TCMP (R369). -/
def timerCheck (c : Nat) (s : State) : State :=
  if (getCore s c).tcmp != 0 && decide ((getCore s c).tcmp.toNat ≤ s.time.toNat) then
    modCore c (fun k => { k with lev := k.lev ||| 2 }) s
  else s

/-- SIGNAL in every core that SIGOUT names. -/
def signal (v : Word) (s : State) : State :=
  forAll ((List.range 9).filter (fun n => bit v n)) (fun n s => modCore n (fun k => { k with lev := k.lev ||| 4 }) s) s

/-- Write of a core-local register; writes of read-only registers are ignored. -/
def lcrWrite (c n : Nat) (v : Word) (s : State) : State :=
  match n with
  | 3 => modCore c (fun k => { k with fvec := v &&& ~~~7 }) s
  | 7 => modCore c (fun k => { k with inh := bit v 0 }) s
  | 8 => timerCheck c (modCore c (fun k => { k with tcmp := v }) s)
  | 9 => modCore c (fun k => { k with lev := w1c k.lev (bits v 0 3) }) s
  | 10 => signal v s
  | _ => s

def doLcr (c : Nat) (w : Word) (s : State) : State :=
  let n := fld w 16 8
  if !noRB w || 2 ≤ fMOD w || fld w 24 24 != 0 then illegal c s
  else match lcrRead s c n with
    | none => illegal c s
    | some v =>
      if bit w 48 then retireCore c id (lcrWrite c n (getG (getCore s c) (fRA w)) s)
      else retireCore c (setG (fRD w) v) s
def execLcr (c : Nat) (s : State) : Res := runCore c 0xB2 none (doLcr c) s

/-- Block time reaches TCMP. -/
def execTimer (c : Nat) (s : State) : Res := if s.inReset || decide (9 ≤ c) then .next s else .next (timerCheck c s)

/-! ### Waiting for events (R371) -/

/-- The event word E of a core. -/
def eventWord (s : State) (c : Nat) : Word :=
  let low : Word := if c == 8 then s.ctl.evpendk.zeroExtend 64
    else if c == s.ctl.evcore.toNat then s.ctl.evpends.zeroExtend 64 else 0
  low ||| put 64 (getCore s c).lev 32

/-- The wait of a core ends with E in the destination. -/
def wakeCore (c rd : Nat) (s : State) : State :=
  let e := eventWord s c
  modCore c (fun k => stepPc 1 (setG rd e { k with wait := none })) s

def doWfe (c : Nat) (w : Word) (s : State) : State :=
  let m := getG (getCore s c) (fRA w)
  if !noRB w || fIMM w != 0 || fMOD w != 0 || m == 0 then illegal c s
  else if eventWord s c &&& m != 0 then wakeCore c (fRD w) s
  else modCore c (fun k => { k with wait := some (m, bits w 0 5) }) s
def execWfe (c : Nat) (s : State) : Res := runCore c 0xC0 none (doWfe c) s

def execWfeWake (c : Nat) (s : State) : Res :=
  match (getCore s c).wait with
  | some (m, rd) => if !s.inReset && eventWord s c &&& m != 0 then .next (wakeCore c rd.toNat s) else .next s
  | none => .next s

/-! ### Mailbox transfer (R372) -/

/-- The requester a core is. -/
def reqOf (c : Nat) : Requester := if c == 8 then .kc else .cc c

/-- Eight registers from r on. -/
def group (k : Core) (r : Nat) : List Word := (List.range 8).map (fun i => getG k (r + i))
def setGroup (r : Nat) : List Word → Core → Core
  | [], k => k
  | v :: vs, k => setGroup (r + 1) vs (setG r v k)

/-- The checks of MBX, and its effect on mailbox m with the group at r. -/
def mbxOp (c : Nat) (role : Nat → Requester → Bool) (f : Nat → Nat → State → State) (w : Word) (s : State) : State :=
  let m := fld w 16 4
  let r := fRD w
  if fRA w != 0 || !noRB w || fld w 20 28 != 0 || 4 ≤ fMOD w || 10 < m || r < 1 || 24 < r || !role m (reqOf c) then illegal c s
  else f m r s
def setZ (c : Nat) (z : Bool) (s : State) : State := retireCore c (fun k => { k with z := z }) s

def mbxSend (c m r : Nat) (s : State) : State :=
  if (getMbx s m).busy then setZ c false s
  else setZ c true (mbxPost m (modMbx m (fun x => { x with req := putWords 0 (group (getCore s c) r) x.req }) s))
def mbxTake (c m r : Nat) (s : State) : State :=
  if !(getMbx s m).busy then setZ c false s
  else setZ c true (modCore c (setGroup r ((List.range 8).map (reqWord s m))) s)
def mbxAns (c m r : Nat) (s : State) : State :=
  if !(getMbx s m).busy then setZ c false s
  else setZ c true (answerMbx m (modMbx m (fun x => { x with rsp := putWords 0 (group (getCore s c) r) x.rsp }) s))
def mbxCollect (c m r : Nat) (s : State) : State :=
  if !(getMbx s m).done then setZ c false s
  else setZ c true (modCore c (setGroup r ((List.range 8).map (rspWord s m))) (modMbx m (fun x => { x with done := false }) s))

def execMbxSend (c : Nat) (s : State) : Res := runCore c 0xC8 (some 0) (mbxOp c mbxSender (mbxSend c)) s
def execMbxTake (c : Nat) (s : State) : Res := runCore c 0xC8 (some 1) (mbxOp c mbxReceiver (mbxTake c)) s
def execMbxAnswer (c : Nat) (s : State) : Res := runCore c 0xC8 (some 2) (mbxOp c mbxReceiver (mbxAns c)) s
def execMbxCollect (c : Nat) (s : State) : Res := runCore c 0xC8 (some 3) (mbxOp c mbxSender (mbxCollect c)) s

end Sys2Proof.Machine
end

