-- ==== Sys2Proof/Machine/Power.lean ====
section
/-! DEFINITION. Power, power failure, reset and self-test (16, 17, 18): the meanings of RAIL_SAMPLE, DRAIN_END,
CAIRN_HOST_COPY_DONE, ISLAND_CLKSTOP, ISLAND_RETAIN, ISLAND_WAKE, REFCLK_LOSS, PGOOD_FALL, BRST_FALL, RESET_RELEASE, LOGIC_TEST,
MEMORY_TEST, INFIELD_TEST, SELFTEST_DONE, AGING_MEASURE and TEST_ACCESS_PORT_TEST. -/

namespace Sys2Proof.Machine

/-! ### WARN and CUT (R393, R396, R397, R399) -/

/-- Staged data is dropped and counted; speculative work is not begun again (R396 step 3). -/
def dropAllStaged (s : State) : State :=
  let one (x : Engine) : Nat := thrStaged x.main + (match x.spec with
    | some t => thrStaged t
    | none => 0)
  let n := (s.eng.map (fun e => one e.2)).foldl (· + ·) 0
  let cut (_ : Nat) (x : Engine) : Engine := { x with main := dropThread x.main, spec := x.spec.map dropThread }
  modPf (fun p => { p with stagedrop := p.stagedrop + n }) { s with eng := tmap cut s.eng }

/-- Speculative work and held headers do not outlive a power cut: they are dropped and counted, and their reads leave no trace
(R159, R162, R164). -/
def cutSpec (e : Nat) (s : State) : State :=
  let n := heldOwn s e
  modEng e (fun x => { x with spec := none, ahead := [] })
    (modDsp (fun d => { d with specdrop := d.specdrop + BitVec.ofNat 32 n }) (dropIf .spec (specRead s e) s))

/-- WARN: steps 1 to 3 of R396; an update and a test are abandoned, and where Bedrock has not started start-up halts (R397,
R415). -/
def raiseWarn (code : BitVec 10) (s : State) : State :=
  let s := modPf (fun p => { p with
    warn := true, stage := .drain, warnTime := s.time, warnSeam := s.seam, railWarn := code, quiesced := s.dsp.qreq
    lockuse := s.lock.entries.length }) s
  let s := modOut (fun o => { o with pfwarn := true }) (evK 6 s)
  let s := modCtl (fun c => { c with update := none }) (abandonTest s)
  let s := if s.ctl.bedrockRan then s else bootHalt 0x0B s
  let es := s.eng.map (·.1)
  barrierStep (forAll es engAfter (forAll es cutSpec (dropAllStaged s)))

/-- CUT; it raises WARN where there was none, and abandons a host copy (R393, R396, R399). -/
def raiseCut (code : BitVec 10) (s : State) : State :=
  let s := modPf (fun p => { p with cut := true }) (if s.pf.warn then s else raiseWarn code s)
  modPf (fun p => { p with stage := if p.stage == .hostcopy then .held else p.stage }) s

/-- The last 256 samples, oldest first. -/
def keepTrace (l : List (BitVec 10)) : List (BitVec 10) := l.drop (l.length - 256)

/-- One sample of the rail (R392). -/
def takeSample (code : BitVec 10) (s : State) : State :=
  modPf (fun p => { p with
    sample := code, min := if code < p.min then code else p.min, trace := keepTrace (p.trace ++ [code])
    low := if p.en && decide (code ≤ p.warnth) then p.low + 1 else 0 }) s

def railEvents (code : BitVec 10) (s : State) : State :=
  if !s.pf.en then s
  else
    let s := if !s.pf.warn && decide (max s.pf.warncnt.toNat 1 ≤ s.pf.low) then raiseWarn code s else s
    if !s.pf.cut && decide (code ≤ s.pf.cutth) then raiseCut code s else s

def execRailSample (code : BitVec 10) (s : State) : Res :=
  if s.inReset then .next s else .next (railEvents code (takeSample code s))

/-! ### The drain and the host copy (R396, R402) -/

/-- A write of an engine whose confirmation the drain waits for. A word 0 on a host needs none (R145). -/
def drainWaits (s : State) : Bool :=
  anyOut (fun p => (purposeEng p).isSome && !purposeRead p) s ||
  anyPosted (fun p => (purposeEng p).isSome && (match p with
    | .word0 _ => false
    | _ => true)) s

/-- DRAINLIM as it acts, in ns. -/
def drainNs (p : PowerFail) : Nat := min (max p.drainlim.toNat 1) 24 * 1000

/-- The bursts of the host copy from offset 256 × (16 - n) on, up to the first that the gate denies; whether none was (R253). -/
def copyBursts : Nat → Nat → Nat → Who → List Byte → State → Bool × State
  | 0, _, _, _, _, s => (true, s)
  | n + 1, h, fn, w, d, s =>
    let a := s.pf.haddr + w64 (256 * (15 - n))
    let v := gateCheck s (64 + h) w .wr a 256 false
    if !v.ok then (false, denyPrecise (64 + h) w .wr a 256 v s)
    else copyBursts n h fn w (d.drop 256) (xCtl 256 (hostWrite h fn a (d.take 256) false v.order v.cach .cairn s))

/-- The host copy is written and its flush read issued; a denial or a function without bus master enable ends it at once. -/
def hostCopy (s : State) : State :=
  let h := s.pf.hspace.toNat - 1
  let fn := h * 1024 + (getHp s h).ctlfn.toNat
  let w : Who := { cls := 2, engine := 8, core := true }
  let d := memRead s.rsram (slotBase ((bestRecord s).getD 0)) 4096
  let held := modPf (fun p => { p with stage := .held })
  if !bmeOf s fn then held s
  else
    let (ok, s) := copyBursts 16 h fn w d s
    if !ok then held s
    else
      hostRead h { fn := fn, addr := s.pf.haddr + w64 4092, len := 4, purpose := .cairn, dl := dlOf s .cairn }
        (modPf (fun p => { p with stage := .hostcopy }) s)

/-- Bedrock has started and no fault of KC has halted it since: it takes PFWARN (R347, R369, R397). -/
def bedrockUp (s : State) : Bool := s.ctl.bedrockRan && !(s.ctl.phase == 9 && s.ctl.err == 0x0A)

/-- The drain ends: steps 4 to 7; where Bedrock does not run, no record is written and the stage stays at RECORD (R397). -/
def drainEnds (s : State) : State :=
  let s := modPf (fun p => { p with endTime := s.time, endSeam := s.seam, limit := drainWaits s, stage := .record }) s
  if !bedrockUp s then s
  else
    let s := writeRecord s
    if s.pf.hcen then hostCopy s else modPf (fun p => { p with stage := .held }) s

def execDrainEnd (s : State) : Res :=
  if !s.inReset && s.pf.stage == .drain && !s.pf.cut && (!drainWaits s || decide (drainNs s.pf ≤ (s.time - s.pf.warnTime).toNat)) then
    .next (drainEnds s)
  else .next s

/-- The flush read of the host copy returns. -/
def execCairnHostCopyDone (s : State) : Res :=
  let h := s.pf.hspace.toNat - 1
  if s.inReset || s.pf.stage != .hostcopy then .next s
  else match (getHp s h).slots.find? (fun x => x.2.purpose == .cairn && x.2.quarUntil.isNone) with
    | some (i, x) => .next (slotDone h i x 0 s)
    | none => .next s

/-! ### Outputs that follow the stage (R422, R427) -/

/-- HR_BYPASS, which every host port unit drives: 1 in reset and while STAGE is HELD. -/
def hrBypass (s : State) : Bool := s.inReset || s.pf.stage == .held

/-! ### Idle islands (R387 to R390) -/

def stoptNs (s : State) (i : Nat) : Nat := max (tget (16 : Byte) s.active.power.stopt i).toNat 1 * 8
def rettNs (s : State) (i : Nat) : Nat := (tget (100 : BitVec 16) s.active.power.rett i).toNat * 1000

def setPst (i : Nat) (v : BitVec 2) (s : State) : State := modIsl i (fun x => { x with pst := v, since := s.time }) s

def execIslandClkstop (i : Nat) (s : State) : Res :=
  let x := getIsl s i
  if live s && islIdles i && islPresent s i && x.pst == 0 && maxstOf s.active.power i != 0 && islIdle s i &&
     decide (stoptNs s i ≤ (s.time - x.since).toNat) then .next (setPst i 1 s)
  else .next s
def execIslandRetain (i : Nat) (s : State) : Res :=
  let x := getIsl s i
  if live s && islIdles i && islPresent s i && x.pst == 1 && maxstOf s.active.power i == 2 && islIdle s i && rettNs s i != 0 &&
     decide (rettNs s i ≤ (s.time - x.since).toNat) then .next (setPst i 2 s)
  else .next s
/-- A swap that fell while the island was idle has been applied at its seam already, to the same result (R386). -/
def execIslandWake (i : Nat) (s : State) : Res :=
  if s.inReset || (getIsl s i).pst == 0 then .next s else .next (wakeIsl i s)

/-! ### Reset (R425 to R427, R452) -/

/-- Every field at its reset value; the queue waits. The retention SRAM keeps its contents while VDD_STBY stays within its limits,
and loses the records otherwise (R438; log entry 82). -/
def resetState (s : State) (inReset : Bool) : State :=
  let kept (w : Nat) : Bool := s.cfg.standby && decide (0x10008000 ≤ w)
  { State.reset with
    pending := s.pending, cfg := s.cfg, free := s.free, pgood := s.pgood, inReset := inReset
    rsram := if s.cfg.standby then s.rsram else []
    ecc := s.ecc.filter kept, soft := s.soft.filter kept
    dsp := { log2cnt := if s.cfg.compact then 21 else 23 } }

def enterReset (s : State) : State := if s.inReset then s else resetState s true

/-- No REFCLK edge for 100 ns: CUT, and reset as if BRST_N had fallen. -/
def execRefclkLoss (s : State) : Res := .next (enterReset s)
/-- CUT in the same cycle, and reset 100 ns later. -/
def execPgoodFall (s : State) : Res := .next { enterReset s with pgood := false }
/-- Reset at once. -/
def execBrstFall (s : State) : Res := .next (enterReset s)
/-- PGOOD and BRST_N have been 1: the islands leave reset, at block time 0 and PHASE 0. -/
def execResetRelease (s : State) : Res := if s.inReset then .next { resetState s false with pgood := true } else .next s

/-! ### Self-test (R411 to R415) -/

/-- A write of STCMD with START. -/
def execLogicTest (r : Requester) (target : BitVec 7) (s : State) : Res :=
  if !live s || !isKc r || s.pf.stage != .normal then .next (access r s) else .next (startTest 0 target (access r s))
def execMemoryTest (r : Requester) (target : BitVec 7) (s : State) : Res :=
  if !live s || !isKc r || s.pf.stage != .normal then .next (access r s) else .next (startTest 1 target (access r s))
def execInfieldTest (r : Requester) (target : BitVec 7) (s : State) : Res :=
  if !live s || !isKc r || s.pf.stage != .normal then .next (access r s) else .next (startTest 2 target (access r s))

/-- What follows a test: Bedrock's answer, and in the start-up self-test the next test or PHASE 9 (R410, R411). -/
def afterTest (fail : Bool) (s : State) : State :=
  let s := match s.ctl.testFor with
    | some m => bedAnswer m 0 0 [(ststat s.st).zeroExtend 64, s.st.sig.zeroExtend 64, (stdetail s.st).zeroExtend 64]
        (modCtl (fun c => { c with testFor := none }) s)
    | none => s
  if s.ctl.phase == 3 then
    if fail then bootHalt 0x0C (modCtl (fun c => { c with tests := [] }) s) else nextTest s
  else s

/-- The test ends: its results are applied (R413); outside start-up, where that comes behind the last test, what it has tested
returns to its reset state (R410, R411); and what waited goes on. -/
def testEnds (rep : TestReport) (s : State) : State :=
  let (o, s) := testResult rep s
  let s := testOver (if s.ctl.phase == 3 then s else resetTested s)
  afterTest (o == 3) (evK 7 { s with st := { s.st with done := true, outcome := o, failed := s.st.failed || o == 3 } })

def execSelftestDone (rep : TestReport) (s : State) : Res :=
  if live s && s.pf.stage == .normal && s.st.busy && islandClear s then .next (testEnds rep s) else .next s

/-! ### Aging (R416, R417) -/

/-- A new measurement; islands that are never trimmed set FLAG here, the others at the seam. -/
def measured (i : Nat) (slow : BitVec 6) (x : Island) : Island :=
  { x with slow := slow, worn := x.worn || decide (48 ≤ slow.toNat), flag := x.flag || (!islTrims i && decide (16 ≤ slow.toNat)) }
/-- The second of block time that runs. -/
def secondOf (s : State) : Nat := s.time.toNat / 1000000000
/-- One measurement in each second. -/
def execAgingMeasure (i : Nat) (slow : BitVec 6) (s : State) : Res :=
  if s.inReset || !islPresent s i || (getIsl s i).agedAt == some (secondOf s) then .next s
  else .next (modIsl i (fun x => { measured i slow x with agedAt := some (secondOf s) }) s)

/-! ### The test access port (R420) -/

/-- A byte store in canonical form from any cells. -/
def storeOf (l : List Host.Cell) : List Host.Cell := l.foldl (fun m c => tset 0 m c.1 c.2) []

/-- A test through the port leaves the block's state undefined until a block reset; the records may be destroyed. -/
def undefState (s : State) : State :=
  let f := Config.freeState s.free
  { f with pending := s.pending, cfg := s.cfg, free := s.free + 1, inReset := s.inReset, pgood := s.pgood
           cmem := storeOf f.cmem, kram := storeOf f.kram, rsram := storeOf f.rsram }

/-- The port is active while PGOOD is 1, in reset too (R422). -/
def execTestAccessPortTest (island : BitVec 7) (s : State) : Res :=
  if !s.pgood || !islPresent s island.toNat then .next s else .next (undefState s)

end Sys2Proof.Machine
end

