-- ==== Sys2Proof/Machine/Services.lean ====
section
/-! DEFINITION. Service calls (15 R373 to R378): the meanings of SVC_ISSUE, SVC_RESULT, SVC_RELEASE, SVC_CANCEL, MOVEWORK,
CTXREAD, CTXWRITE, OWNCOPY_WRITE_DONE and EVPOST. -/

namespace Sys2Proof.Machine

/-! ### Service blocks and results (R374, R375) -/

def blkWord (v : Svc) (i : Nat) : Word := v.block.getD i 0
def svcKind (v : Svc) : Nat := fld (blkWord v 0) 0 4

/-- RES of a result. -/
def resWord (res : Nat) : List Word := [w64 res]
def badArgRes : List Word := resWord 2

/-- Words i to 7 of a block are 0. -/
def restZero (v : Svc) (i : Nat) : Bool := (v.block.drop i).all (· == 0)

/-- A reserved KIND, a bit the layout leaves unnamed, or LEN outside 1 to 6 (R374, R375). -/
def blockBad (v : Svc) : Bool :=
  let w0 := blkWord v 0
  let w1 := blkWord v 1
  match svcKind v with
  | 0 => fld w0 8 8 != 0 || fld w0 19 45 != 0 || fld w0 16 3 == 0 || fld w0 16 3 == 7
  | 1 => fld w0 4 60 != 0 || fld w1 23 41 != 0 || !restZero v 2
  | 2 => fld w0 4 60 != 0 || fld w1 23 1 != 0 || fld w1 28 36 != 0 || !restZero v 4
  | 3 => fld w0 4 60 != 0 || fld w1 12 52 != 0 || !restZero v 2
  | _ => true

/-- A slot whose block of one kind DSP has not yet taken up; a DSP under test takes none (R408). -/
def svcDue (s : State) (c slot kind : Nat) : Bool :=
  let v := getSvc s c slot
  live s && !tested s islDsp && decide (c < 9) && decide (slot < 4) && v.st == .busy && !v.taken && svcKind v == kind

/-! ### SVC (R373) -/

/-- The lowest free slot. -/
def freeSvc (s : State) (c : Nat) : Option Nat := (List.range 4).find? (fun i => (getSvc s c i).st == .free)

/-- The slot takes the block; a bad block is answered BAD_ARG at once. -/
def takeBlock (c slot : Nat) (b : List Word) (s : State) : State :=
  let v : Svc := { st := .busy, block := b, stamp := stampNow s }
  let s := modSlotSvc c slot (fun _ => v) s
  if blockBad v then svcDone c slot badArgRes s else s

def doSvcIssue (c : Nat) (w : Word) (s : State) : State :=
  let ra := fRA w
  if !noRB w || 4 ≤ fMOD w || fIMM w != 0 || ra < 1 || 24 < ra then illegal c s
  else match freeSvc s c with
    | none => setZ c false s
    | some i =>
      let b := group (getCore s c) ra
      takeBlock c i b (retireCore c (fun k => { setG (fRD w) (w64 i) k with z := true }) s)
def execSvcIssue (c : Nat) (s : State) : Res := runCore c 0xD0 (some 0) (doSvcIssue c) s

/-- The slot G(RA)[1:0] names. -/
def svcSlot (c : Nat) (w : Word) (s : State) : Nat := fld (getG (getCore s c) (fRA w)) 0 2

def doSvcResult (c : Nat) (w : Word) (s : State) : State :=
  let i := fld w 16 5
  if !noRB w || 4 ≤ fMOD w || fld w 21 27 != 0 || 16 < i then illegal c s
  else retireCore c (setG (fRD w) ((getSvc s c (svcSlot c w s)).result.getD i 0)) s
def execSvcResult (c : Nat) (s : State) : Res := runCore c 0xD0 (some 1) (doSvcResult c) s

def doSvcRelease (c : Nat) (w : Word) (s : State) : State :=
  let i := svcSlot c w s
  if !noRB w || 4 ≤ fMOD w || fIMM w != 0 then illegal c s
  else if (getSvc s c i).st == .done then setZ c true (modSlotSvc c i (fun v => { v with st := .free }) s)
  else setZ c false s
def execSvcRelease (c : Nat) (s : State) : Res := runCore c 0xD0 (some 2) (doSvcRelease c) s

/-- Work that no engine has taken is removed with no access; an engine is told to stop as for an abort (R376). -/
def cancelWork (c slot : Nat) (s : State) : State :=
  match s.eng.find? (fun e => e.2.hold == .work c slot) with
  | some (e, _) => modEng e (fun x => { x with stop := if x.stop == .fn then .fn else .abort }) s
  | none =>
    svcDone c slot [w64 0x3000]
      (modDsp (fun d => { d with work := d.work.filter (fun w => !(w.core == c && w.slot == slot)) }) s)

def doSvcCancel (c : Nat) (w : Word) (s : State) : State :=
  let i := svcSlot c w s
  let v := getSvc s c i
  if !noRB w || 4 ≤ fMOD w || fIMM w != 0 then illegal c s
  else if v.st == .busy && svcKind v == 0 then setZ c true (cancelWork c i s)
  else setZ c false s
def execSvcCancel (c : Nat) (s : State) : Res := runCore c 0xD0 (some 3) (doSvcCancel c) s

/-! ### Movement work (R376) -/

/-- DSP queues the work with the ready stamp of its issue. -/
def queueWork (c slot : Nat) (s : State) : State :=
  let v := getSvc s c slot
  modDsp (fun d => { d with work := d.work ++ [{ core := c, slot := slot, cls := bits (blkWord v 0) 4 4, stamp := v.stamp }] })
    (modSlotSvc c slot (fun v => { v with taken := true }) s)
def execMovework (c slot : Nat) (s : State) : Res := if svcDue s c slot 0 then .next (queueWork c slot s) else .next s

/-! ### Contexts (R377) -/

def chanOfBlk (v : Svc) : Nat := fld (blkWord v 1) 0 23

/-- The sixteen words in any state, with RUN. Fields an engine holds stand as when it took the channel. -/
def ctxRead (c slot : Nat) (s : State) : State :=
  let ch := chanOfBlk (getSvc s c slot)
  let s := modSlotSvc c slot (fun v => { v with taken := true }) s
  if !chanPresent s ch then svcDone c slot badArgRes s
  else
    let x := getCtx s ch
    let run := b2n (engOf s ch).isSome
    svcDone c slot (w64 (run * 2 ^ 24) :: ctxWords (shownState s x) x) (cacheUse ch false s)
def execCtxread (c slot : Nat) (s : State) : Res := if svcDue s c slot 1 then .next (ctxRead c slot s) else .next s

/-- The bits of a context word that CTXWRITE may change. -/
def writableMask (i : Nat) : Word :=
  if i = 0 then 0x00FFF00000FFFF40 else if 10 ≤ i ∧ i ≤ 14 then 0xFFFFFFFFFFFFFFFF else 0

/-- A context with word i changed under a mask; bits [1:0] of words 10 to 13 are stored as 0. -/
def ctxMasked (i : Nat) (value mask : Word) (x : Ctx) : Ctx :=
  match i with
  | 0 =>
    let w := masked (ctxWord0 0 x) value mask
    { x with ov := bit w 6, owner := bits w 8 12, dc := bits w 20 4, swspace := bits w 44 4, dwspace := bits w 48 4,
             nspace := bits w 52 4 }
  | 10 => { x with swbase := masked x.swbase value mask &&& ~~~3 }
  | 11 => { x with swlimit := masked x.swlimit value mask &&& ~~~3 }
  | 12 => { x with dwbase := masked x.dwbase value mask &&& ~~~3 }
  | 13 => { x with dwlimit := masked x.dwlimit value mask &&& ~~~3 }
  | 14 => { x with notify := masked x.notify value mask }
  | _ => x

/-- OV and OWNER as bits [12:0] of word 15. -/
def owncopyOf (x : Ctx) : Word := w64 (x.owner.toNat + b2n x.ov * 2 ^ 12)

/-- The word changes, and the service ends OK. -/
def ctxApply (c slot ch i : Nat) (value mask : Word) (s : State) : State :=
  svcDone c slot (resWord 0) (modCtx ch (ctxMasked i value mask) (cacheUse ch true s))

/-- A change of OV or OWNER performs the masked write of word 15 first (R45). -/
def ctxWrite (c slot : Nat) (s : State) : State :=
  let v := getSvc s c slot
  let ch := chanOfBlk v
  let i := fld (blkWord v 1) 24 4
  let value := blkWord v 2
  let mask := blkWord v 3
  let x := getCtx s ch
  let y := ctxMasked i value mask x
  let s := modSlotSvc c slot (fun v => { v with taken := true }) s
  if !chanPresent s ch || mask &&& ~~~(writableMask i) != 0 then svcDone c slot badArgRes s
  else if !(x.st == .idle || x.st == .stopped) then svcDone c slot (resWord 1) s
  else if y.ov == x.ov && y.owner == x.owner then ctxApply c slot ch i value mask s
  else
    dspUpd8 (foldAddr s ch) 0 0 (owncopyOf y) 0x1FFF 0 .owncopy
      (modDsp (fun d => { d with ctxwr := d.ctxwr ++ [{ core := c, slot := slot, chan := ch, value := value, mask := mask }] }) s)

/-- CTXWRITEs are taken one after another while one waits for its OWNCOPY write (R379). -/
def execCtxwrite (c slot : Nat) (s : State) : Res :=
  if svcDue s c slot 2 && s.dsp.ctxwr.isEmpty && mayIssue s then .next (ctxWrite c slot s) else .next s

/-- The channel that something behind a CTXWRITE is for. -/
def behindChan : Behind → Nat
  | .go _ f => f.chsel.toNat
  | .bell _ c _ => c

/-- What came to DSP behind the CTXWRITE to a channel is taken, in order (R379). -/
def takeBehind (c : Nat) (s : State) : State :=
  forAll (s.dsp.behind.filter (fun x => behindChan x == c)) (fun x s => match x with
    | .go fn f => goWith fn f s
    | .bell fn c seq => applyDoorbell (hptOf fn) fn seq c s)
    (modDsp (fun d => { d with behind := d.behind.filter (fun x => behindChan x != c) }) s)

/-- The answer to the OWNCOPY write (R45). -/
def owncopyEnds (resp : MResp) (old : Word) (r : LmReq) (w : CtxWrite) (s : State) : State :=
  let s := modDsp (fun d => { d with ctxwr := d.ctxwr.drop 1 }) (lmRetire r.port r.tag s)
  takeBehind w.chan (if resp == .ok then
      ctxApply w.core w.slot w.chan 0 w.value w.mask
        (modCtx w.chan (fun x => { x with fold := upd8 old r.compare r.cmask r.value r.wmask r.add }) s)
    else svcDone w.core w.slot (resWord 3) s)

def execOwncopyWriteDone (resp : MResp) (old : Word) (s : State) : Res :=
  if s.inReset || tested s islDsp then .next s
  else match s.lm.find? (fun r => r.purpose == .owncopy && decide (r.tag < 1024)), s.dsp.ctxwr with
    | some r, w :: _ => .next (owncopyEnds resp old r w s)
    | _, _ => .next s

/-! ### Event posts (R377) -/

def evPost (c slot : Nat) (s : State) : State :=
  let fn := fld (blkWord (getSvc s c slot) 1) 0 12
  let s := modSlotSvc c slot (fun v => { v with taken := true }) s
  let m := (getFn s fn).mir
  if decide (nFns s ≤ fn) || !m.present || !m.pf then svcDone c slot badArgRes s
  else svcDone c slot (resWord 0) (modFn fn (fun f => { f with evcause := f.evcause ||| (1 : BitVec 11) <<< 10 }) s)
def execEvpost (c slot : Nat) (s : State) : Res := if svcDue s c slot 3 then .next (evPost c slot s) else .next s

end Sys2Proof.Machine
end

