-- ==== Sys2Proof/Machine/RegRead.lean ====
section
/-! DEFINITION. What a read of each register of the window returns (19 R441 to R451 and the register tables of every chapter).
An offset no chapter assigns reads 0 (R442). A mirrored register answers with its last mirrored value and its pending bit (R11;
log entry 33). -/

namespace Sys2Proof.Machine

/-! ### Who reads what (R342, R350, R443) -/

def pageBase (fn : Nat) : Nat := 0x1000000 + 0x1000 * fn
/-- A host reaches its own function's page. -/
def ownPage (s : State) (h fn a : Nat) : Bool :=
  decide (hptOf fn = h) && decide (fn < nFns s) && decide (pageBase fn ≤ a) && decide (a < pageBase fn + 0x1000)

/-- The mailbox at an offset. -/
def mbxAt (a : Nat) : Nat := (a - 0x80800) / 0x100
def isMbx (a : Nat) : Bool := decide (0x80800 ≤ a) && decide (a < 0x81300)

def mayReadReg (s : State) (r : Requester) (a : Nat) : Bool :=
  match r with
  | .host h fn => ownPage s h fn a
  | _ =>
    if 0x20000 ≤ a ∧ a < 0x40000 then isFirmware r
    else if isMbx a then mbxSender (mbxAt a) r || mbxReceiver (mbxAt a) r
    else true

/-! ### Identity, capability, global status (R446 to R450), doorbell counters (R48) -/

/-- ENGPRES (R448, R449). -/
def engPres (s : State) : Half :=
  (List.range 32).foldl (fun v e => v ||| putb 32 (engPresent s e) e) 0

/-- GHEALTH (R450). -/
def ghealth (s : State) : Half :=
  putb 32 ((List.range (nEngines s)).any (fun e => !engPresent s e)) 0 |||
  putb 32 (s.island.any (fun x => x.2.flag)) 1 ||| putb 32 (s.island.any (fun x => x.2.worn)) 2 |||
  putb 32 (s.st.group.any (fun x => x.2.eccunc != 0)) 3 ||| putb 32 s.st.failed 4 ||| putb 32 s.pf.warn 5 |||
  putb 32 s.dsp.qreq 6 ||| putb 32 (s.pf.stage == .held) 7

def readIdent (a : Nat) (s : State) : Half :=
  let c := s.cfg.compact
  match a with
  | 0x00 => 0x0B710F3D
  | 0x04 => if c then 0x000301B2 else 0x000300B2
  | 0x08 => 0x01111133
  | 0x10 => if c then 0x132C8135 else 0x47B20297
  | 0x14 => if c then 0x0005C082 else 0x0005C208
  | 0x18 => if c then 0x10000400 else 0x10001000
  | 0x1C => if c then 0x00010000 else 0x00040000
  | 0x20 => engPres s
  | 0x100 => putb 32 s.ctl.ready 0
  | 0x104 => ghealth s
  | _ =>
    if 0x400 ≤ a ∧ a < 0x450 then
      let k := (a - 0x400) / 16
      match a % 16 with
      | 0 => tget 0 s.dsp.dbacc k
      | 4 => tget 0 s.dsp.dbdrop k
      | 8 => tget 0 s.dsp.dbstale k
      | _ => tget 0 s.dsp.dbfold k
    else 0

/-! ### Arbitration (R237, R238) -/

def xarbstat (s : State) : Half :=
  let n := lanesHeld s
  put 32 (BitVec.ofNat 6 n) 0 ||| putb 32 (s.xbar.freeze && n == 0) 6 ||| put 32 (BitVec.ofNat 9 s.xbar.pend.length) 8

/-- The ports of a cluster whose request waits in its entry. -/
def pendMap (s : State) (k : Nat) : BitVec 16 :=
  (List.range 16).foldl (fun v i =>
    let p := 16 * k + i
    v ||| putb 16 (!(getPort s p).inq.isEmpty && portWaits s p) i) 0
def carbstat (s : State) (k : Nat) : Half :=
  let c := getClu s k
  put 32 c.owner 0 ||| putb 32 c.granted 4 ||| putb 32 (c.freeze && !c.granted) 5 ||| put 32 (pendMap s k) 6

def readArb (a : Nat) (s : State) : Half :=
  let x := s.xbar
  let sh := s.shadow
  match a with
  | 0x10000 => putb 32 x.freeze 0
  | 0x10004 => xarbstat s
  | 0x10008 => put 32 sh.xarb.starvth 0
  | 0x1000C => putb 32 x.starve 0 ||| put 32 x.sreq 8
  | 0x10010 => x.notparked
  | 0x10014 => x.preempts
  | 0x10018 => x.slotwait
  | 0x1001C => x.starvcnt
  | 0x10020 => put 32 sh.xarb.tsvdc 0 ||| put 32 sh.xarb.ctldc 4
  | _ =>
    if 0x10100 ≤ a ∧ a < 0x10200 then put 32 (tget 0 sh.xarb.slot ((a - 0x10100) / 4)) 0
    else if 0x10200 ≤ a ∧ a < 0x10300 then put 32 (tget 0 s.active.xarb.slot ((a - 0x10200) / 4)) 0
    else if 0x11000 ≤ a ∧ a < 0x11000 + 0x20 * nClusters s then
      let k := (a - 0x11000) / 0x20
      let c := getClu s k
      match a % 0x20 with
      | 0x00 => putb 32 c.freeze 0 ||| putb 32 c.quern 1
      | 0x04 => carbstat s k
      | 0x08 => put 32 (tget 8 sh.carb.starvth k) 0
      | 0x0C => putb 32 c.starve 0 ||| put 32 c.sport 8
      | 0x10 => c.preempts
      | 0x14 => c.starvcnt
      | _ => 0
    else if 0x12000 ≤ a ∧ a < 0x12000 + 4 * nPorts s then
      let p := (a - 0x12000) / 4
      put 32 (tget 7 sh.carb.pdc p) 0 ||| put 32 (tget 0 sh.carb.pmindc p) 4
    else 0

/-! ### Gates (R266) -/

def readGate (a : Nat) (s : State) : Half :=
  let g := s.gate
  match a with
  | 0x20000 => put 32 g.gsel 0
  | 0x20004 => if s.cfg.compact then 19 else 71
  | 0x20010 => gbarWord g
  | 0x20014 => g.barseam
  | 0x20018 => g.bardrain
  | 0x20020 => g.mask0
  | 0x20024 => g.mask1
  | 0x20028 => put 32 g.mask2 0
  | 0x20030 => g.vlogwr
  | 0x20034 => g.vlogrd
  | 0x20038 => g.vloglost
  | 0x2003C => g.noticecnt
  | 0x20040 => g.denycnt
  | _ => 0

def ruleWord (r : Rule) (w : Nat) : Word :=
  match w % 4 with
  | 0 => r.w0
  | 1 => r.w1
  | 2 => r.w2
  | _ => r.w3

/-- The RULE, RULEACT and VLOG windows. -/
def gateWide (a : Nat) (s : State) : Option Word :=
  let g := s.gate.gsel.toNat
  let win (t : Tbl Rule) (base : Nat) : Word :=
    if gatePresent s g then ruleWord (tget {} t (64 * g + (a - base) / 0x20)) ((a - base) / 8) else 0
  if 0x20800 ≤ a ∧ a < 0x21000 then some (win s.gate.shadow 0x20800)
  else if 0x21000 ≤ a ∧ a < 0x21800 then some (win s.gate.active 0x21000)
  else if 0x24000 ≤ a ∧ a < 0x26000 then some (ruleWord (tget {} s.gate.vlog ((a - 0x24000) / 0x20)) (a / 8))
  else none

/-! ### Host port units (R291) -/

def hptag (p : HostPort) : Half :=
  put 32 (BitVec.ofNat 13 p.slots.length) 0 |||
  put 32 (BitVec.ofNat 13 (p.slots.filter (fun x => x.2.quarUntil.isSome)).length) 13
def latelog (p : HostPort) : Word :=
  put 64 p.lateTag 0 ||| putb 64 p.lateUnexp 14 ||| put 64 p.lateFn 16 ||| put 64 p.lateSeam 32
def flrhead (p : HostPort) : Half :=
  match p.flrq with
  | [] => 0
  | fn :: _ => put 32 (BitVec.ofNat 10 (localOf fn)) 0 ||| putb 32 true 31
def fnmir (m : Mirror) : Half :=
  putb 32 m.bme 0 ||| putb 32 m.flrreq 1 ||| put 32 m.mps 2 ||| put 32 m.mrrs 5 ||| putb 32 m.ero 8 ||| putb 32 m.idoen 9 |||
  putb 32 m.tphreq 10 ||| putb 32 m.intdis 11 ||| putb 32 m.pf 12 ||| putb 32 m.present 13 ||| put 32 m.parent 14 |||
  put 32 m.tagw 24

def readHost (a : Nat) (s : State) : Half :=
  let h := (a - 0x30000) / 0x4000
  let o := a % 0x4000
  let p := getHp s h
  if nHosts s ≤ h then 0
  else match o with
  | 0x00 => put 32 p.mrrscap 0 ||| put 32 p.mpscap 4 ||| putb 32 p.tphen 8 ||| put 32 p.cto 16
  | 0x04 => put 32 p.ctlfn 0 ||| put 32 p.evglob 16 ||| putb 32 p.evgloben 31
  | 0x08 => hptag p
  | 0x10 => p.cpltocnt
  | 0x14 => p.latecnt
  | 0x18 => p.unexcnt
  | 0x1C => p.discnt
  | 0x28 => flrhead p
  | 0x30 => p.flrlate
  | _ => if 0x1000 ≤ o ∧ o < 0x2000 then fnmir (getFn s (h * 1024 + (o - 0x1000) / 4)).mir else 0

/-- LATELOG. -/
def hostWide (a : Nat) (s : State) : Option Word :=
  let h := (a - 0x30000) / 0x4000
  if 0x30000 ≤ a ∧ a < 0x40000 ∧ a % 0x4000 = 0x20 ∧ h < nHosts s then some (latelog (getHp s h)) else none

/-! ### Engine port links (R312) -/

def lstateCode : LState → Nat
  | .down => 0
  | .reset => 1
  | .negotiate => 2
  | .up => 3
  | .retrain => 4
  | .failed => 5
def lstat (s : State) (p : Nat) : Half :=
  let k := getPort s p
  put 32 (BitVec.ofNat 3 (lstateCode k.lstate)) 0 ||| put 32 k.ver 3 ||| put 32 k.pwr 5 ||| put 32 k.filli 7 |||
  put 32 k.fillo 13 ||| put 32 (if k.lstate == .up then portClass s p else 0) 19

def readLink (a : Nat) (s : State) : Half :=
  let k := (a - 0x40000) / 0x400
  let o := a % 0x400
  let sh := s.shadow.link
  if nClusters s ≤ k then 0
  else match o with
  | 0x00 => put 32 (tget 8 sh.idlet k) 0
  | 0x04 => put 32 (tget 16 sh.dozet k) 0
  | 0x08 => put 32 (tget 4000 sh.deept k) 0
  | _ =>
    if 0x100 ≤ o ∧ o < 0x300 then
      let p := 16 * k + (o - 0x100) / 0x20
      let x := getPort s p
      match o % 0x20 with
      | 0x00 => putb 32 x.en 0 ||| put 32 x.vermax 2 ||| put 32 (tget (3 : BitVec 2) sh.pwrmax p) 4
      | 0x04 => lstat s p
      | 0x08 => x.lperr
      | 0x0C => x.lproto
      | 0x10 => x.lretrain
      | 0x14 => x.ldrop
      | 0x18 => x.llate
      | _ => 0
    else 0

/-! ### Table service (R337) -/

def tstateCode : TState → Nat
  | .off => 0
  | .init => 1
  | .run => 2
  | .rebuild => 3
  | .fault => 4
/-- Stash slots in use in the active epoch. -/
def stashUse (x : Inst) : Nat := ((activeEp x).stash.filter (fun e => entValid e.2)).length

/-- An offset in the instance registers: the instance and the offset in its block. -/
def instAt (a : Nat) : Option (Nat × Nat) :=
  if 0x50100 ≤ a ∧ a < 0x50900 then some ((a - 0x50100) / 0x80, a % 0x80) else none

def readTsv (a : Nat) (s : State) : Half :=
  let t := s.tsv
  match a with
  | 0x50008 => put 32 t.tevlog 0
  | 0x50010 => t.tevwr
  | 0x50014 => t.tevrd
  | 0x50018 => t.tevlost
  | 0x5001C => t.tmalform
  | 0x50020 => t.treject
  | 0x50024 => t.tdrop
  | 0x50028 => t.tcoalesce
  | 0x5002C => put 32 s.shadow.tsv.ephold 0
  | _ =>
    if 0x51000 ≤ a ∧ a < 0x51000 + 4 * nPorts s then put 32 (getPort s ((a - 0x51000) / 4)).lrnmask 0
    else match instAt a with
      | none => 0
      | some (i, o) =>
        let x := getInst s i
        match o with
        | 0x00 => putb 32 x.en 0 ||| putb 32 x.policy 1 ||| putb 32 x.ageev 2 ||| put 32 x.idw 8 ||| put 32 x.owner 16 |||
                  putb 32 x.ownv 28
        | 0x04 => put 32 (BitVec.ofNat 3 (tstateCode x.st)) 0 ||| putb 32 x.act 3 ||| putb 32 x.copydone 4 ||| putb 32 x.armed 5
        | 0x08 => put 32 (tget (1000 : BitVec 16) s.shadow.tsv.flapwin i) 0
        | 0x0C => put 32 (tget (1000 : BitVec 10) s.shadow.tsv.agetick i) 0
        | 0x10 => put 32 (tget (300 : BitVec 15) s.shadow.tsv.agelim i) 0 ||| put 32 x.agecnt 16
        | 0x14 => x.gen
        | 0x28 => put 32 x.ep0.log2b 0
        | 0x40 => put 32 x.ep1.log2b 0
        | 0x50 => x.learns
        | 0x54 => x.flaps
        | 0x58 => x.relocs
        | 0x5C => x.evicts
        | 0x60 => x.aged
        | 0x64 => x.touches
        | 0x68 => put 32 (BitVec.ofNat 9 (stashUse x)) 0
        | _ => 0

def tsvWide (a : Nat) (s : State) : Option Word :=
  if a = 0x50000 then some s.tsv.tevbase
  else match instAt a with
    | some (i, o) =>
      let x := getInst s i
      match o with
      | 0x18 => some x.hdrbase
      | 0x20 => some x.ep0.ebase
      | 0x30 => some x.ep0.sbase
      | 0x38 => some x.ep1.ebase
      | 0x48 => some x.ep1.sbase
      | _ => none
    | none => none

/-! ### Time base and power (R391, R406) -/

def stageCode : Stage → Nat
  | .normal => 0
  | .drain => 1
  | .record => 2
  | .hostcopy => 3
  | .held => 4

/-- The island whose policy stands at an offset from 0x0006_0100. -/
def polIsland (s : State) (o : Nat) : Option Nat :=
  let i := if o < 0x20 then 2 + o / 4 else if o = 0x20 then 10 else if o = 0x24 then 11
           else if 0x100 ≤ o ∧ o < 0x200 then 18 + (o - 0x100) / 4 else 82
  if i < 82 ∧ islPresent s i then some i else none

def maxstDef (i : Nat) : BitVec 2 := if i == islXbr then 1 else 2

def readTime (a : Nat) (s : State) : Half :=
  let p := s.pf
  match a with
  | 0x60008 => s.seam
  | 0x60024 => put 32 s.shpend 0
  | 0x60028 => s.shseam
  | 0x60040 => put 32 p.warnth 0 ||| put 32 p.cutth 16 ||| put 32 p.warncnt 26 ||| putb 32 p.en 31
  | 0x60044 => put 32 p.sample 0 ||| put 32 p.min 16 ||| putb 32 p.warn 26 ||| putb 32 p.cut 27
  | 0x60048 => put 32 p.drainlim 0
  | 0x6004C => put 32 (BitVec.ofNat 3 (stageCode p.stage)) 0 ||| putb 32 p.cairn 3 ||| putb 32 p.limit 4
  | 0x60050 => putb 32 p.cairnvalid 0
  | _ =>
    if 0x60100 ≤ a ∧ a < 0x60300 then
      match polIsland s (a - 0x60100) with
      | none => 0
      | some i =>
        let c := s.shadow.power
        put 32 (tget (maxstDef i) c.maxst i) 0 ||| put 32 (tget 16 c.stopt i) 8 ||| put 32 (tget 100 c.rett i) 16
    else if 0x60900 ≤ a ∧ a < 0x60B00 then
      match polIsland s (a - 0x60900) with
      | none => 0
      | some i => put 32 (getIsl s i).pst 0
    else 0

def timeWide (a : Nat) (s : State) : Option Word :=
  if a = 0x60000 then some s.time
  else if 0x62000 ≤ a ∧ a < 0x63000 then some (tget 0 s.pf.cairnwin ((a - 0x62000) / 8))
  else none

/-! ### Self-test (R421) -/

/-- A memory group the configuration has. -/
def groupRegs (s : State) (g : Nat) : Bool := testExists s 1 (BitVec.ofNat 7 g) && decide (g < 128)

def engslot (x : EngIsland) : Half :=
  put 32 x.m0 0 ||| put 32 x.m1 3 ||| put 32 x.m2 6 ||| put 32 x.m3 9 ||| put 32 x.retired 12 ||| putb 32 x.shfail 17

def readTest (a : Nat) (s : State) : Half :=
  match a with
  | 0x70000 => put 32 s.st.kind 0 ||| put 32 s.st.target 8
  | 0x70004 => ststat s.st
  | 0x70008 => s.st.sig
  | 0x7000C => stdetail s.st
  | _ =>
    if 0x70100 ≤ a ∧ a < 0x70100 + 4 * 82 then
      let i := (a - 0x70100) / 4
      if islPresent s i then (getIsl s i).sig else 0
    else if 0x70300 ≤ a ∧ a < 0x70300 + nEngines s then engslot (getEngIsl s ((a - 0x70300) / 4))
    else if 0x70400 ≤ a ∧ a < 0x70600 then
      let g := (a - 0x70400) / 0x10
      let x := tget {} s.st.group g
      if !groupRegs s g then 0
      else match a % 0x10 with
        | 0 => put 32 x.spused 0 ||| putb 32 x.gfail 9
        | 4 => x.ecccor
        | 8 => x.eccunc
        | _ => 0
    else if 0x70600 ≤ a ∧ a < 0x70600 + 4 * 82 then
      let i := (a - 0x70600) / 4
      let x := getIsl s i
      if islPresent s i then put 32 x.slow 0 ||| put 32 x.trim 6 ||| putb 32 x.flag 8 ||| putb 32 x.worn 9 else 0
    else 0

/-! ### Boot, cores, events, DSP (R31, R61, R167, R174, R202, R214, R357) -/

/-- Engines that hold a channel or a write-back task. -/
def engHeld (s : State) : Nat := (s.eng.filter (fun e => match e.2.hold with
  | .chan _ => true
  | .task _ => true
  | _ => false)).length

def readCtl (a : Nat) (s : State) : Half :=
  let c := s.ctl
  match a with
  | 0x80010 => putb 32 c.selftest 1
  | 0x80014 => put 32 c.phase 0 ||| put 32 c.err 4
  | 0x80018 => c.bedsvn
  | 0x8001C => c.scrsvn
  | 0x80020 => put 32 c.run 0 ||| putb 32 c.bank 8 ||| put 32 c.cause 9
  | 0x80024 => put 32 c.halted 0 ||| put 32 c.fault 8
  | 0x80028 => put 32 (c.entry &&& ~~~7) 0
  | 0x80040 => put 32 c.evpendk 0
  | 0x80044 => put 32 c.evpends 0
  | 0x80048 => put 32 c.evcore 0
  | _ => 0

def dcoffDef (c : Nat) : BitVec 19 := BitVec.ofNat 19 (0x400 * (c + 1))

def readDsp (a : Nat) (s : State) : Half :=
  let d := s.dsp
  let sh := s.shadow
  match a with
  | 0x80108 => put 32 d.log2cnt 0
  | 0x80200 => put 32 sh.spec.dahead 0 ||| put 32 sh.spec.sahead 8 ||| putb 32 sh.spec.sexec 16
  | 0x80210 => d.specdisc
  | 0x80214 => d.specdrop
  | 0x80218 => d.specheld
  | 0x80340 => put 32 sh.disp.yield 0 ||| put 32 sh.disp.pacehold 16
  | 0x80344 => put 32 sh.disp.wdlimit 0
  | 0x80348 => d.readyovf
  | 0x8034C => d.wdcount
  | 0x80350 => put 32 d.wdchan 0 ||| put 32 d.wdeng 24
  | 0x80354 => d.pacefull
  | 0x80358 => d.yields
  | 0x80500 => putb 32 d.qreq 0
  | 0x80504 => putb 32 d.qdone 0 ||| put 32 (BitVec.ofNat 6 (engHeld s)) 1
  | 0x80508 => d.qseam
  | 0x80600 => BitVec.ofNat 32 s.lock.entries.length
  | 0x80604 => s.lock.brkcnt
  | 0x80608 => s.lock.full
  | 0x80618 => put 32 s.lock.lblchan 0 ||| put 32 s.lock.lblcause 24
  | 0x80628 => putb 32 s.lock.found 1
  | _ =>
    if 0x80300 ≤ a ∧ a < 0x80340 then
      let c := (a - 0x80300) / 4
      put 32 (tget (dcoffDef c) sh.disp.dcoff c) 0
    else if 0x80380 ≤ a ∧ a < 0x80380 + 4 * nEngines s then put 32 (tget (0xFFFF : BitVec 16) sh.disp.dcmask ((a - 0x80380) / 4)) 0
    else if 0x80400 ≤ a ∧ a < 0x80400 + nPorts s / 8 then tget (0xFFFFFFFF : Half) sh.disp.paceen ((a - 0x80400) / 4)
    else 0

/-- LVLCAP word w (R61). -/
def lvlcapWord (s : State) (w : Nat) : Half :=
  (List.range 16).foldl (fun v j => v ||| put 32 (getFn s (16 * w + j)).lvlcap (2 * j)) 0
def readLvl (a : Nat) (s : State) : Half :=
  let w := (a - 0x82000) / 4
  if w < nFns s / 16 then lvlcapWord s w else 0

def ctlWide (a : Nat) (s : State) : Option Word :=
  match a with
  | 0x80000 => some s.ctl.imgaddr
  | 0x80008 => some s.ctl.bpbaddr
  | 0x80100 => some s.dsp.ctxbase
  | 0x80110 => some s.dsp.psbase
  | 0x80610 => some (s.lock.lbladdr &&& ~~~7)
  | 0x80620 => some (s.lock.lbcmdadr &&& ~~~7)
  | _ => none

/-! ### Mailboxes (R350) -/

def mbctl (x : Mailbox) : Half := putb 32 x.busy 2 ||| putb 32 x.done 3
def readMbx (a : Nat) (s : State) : Half := if a % 0x100 = 0x80 then mbctl (getMbx s (mbxAt a)) else 0
def mbxWide (a : Nat) (s : State) : Option Word :=
  let m := mbxAt a
  let o := a % 0x100
  if !isMbx a then none
  else if o < 0x40 then some (reqWord s m (o / 8))
  else if o < 0x80 then some (rspWord s m ((o - 0x40) / 8))
  else none

/-! ### Function pages (R49 to R60, R288) -/

def pageFn (a : Nat) : Nat := (a - 0x1000000) / 0x1000
def isPage (s : State) (a : Nat) : Bool := decide (0x1000000 ≤ a) && decide (a < 0x1000000 + 0x1000 * nFns s)

/-- The selected channel of a page is absent or not owned (R58). -/
def notOwn (s : State) (fn : Nat) : Bool := !owns s fn (getFn s fn).chsel.toNat

def chStat (s : State) (fn : Nat) : Half :=
  if notOwn s fn then putb 32 true 4
  else
    let x := getCtx s (getFn s fn).chsel.toNat
    put 32 (BitVec.ofNat 3 (shownState s x)) 0 ||| putb 32 (getFn s fn).goref 5 ||| putb 32 x.wdog 6 |||
    put 32 x.lastcode 8 ||| put 32 x.lastflags 16
def chCtl (s : State) (fn : Nat) : Half :=
  let f := getFn s fn
  putb 32 (!notOwn s fn && (getCtx s f.chsel.toNat).pause) 2 ||| putb 32 f.direct 3 ||| putb 32 f.loadpc 4 |||
  putb 32 f.sinc 5 ||| putb 32 f.dinc 6 ||| putb 32 f.ntfy 7 ||| put 32 f.swap 8 ||| put 32 f.sspace 12 ||| put 32 f.dspace 16
def version (f : Func) : Half :=
  put 32 f.level 4 ||| put 32 f.lvlcap 8 ||| putb 32 f.refused 12 ||| put 32 (3 : Byte) 16

def readPage (a : Nat) (s : State) : Half :=
  let fn := pageFn a
  let f := getFn s fn
  match a % 0x1000 with
  | 0x08 => version f
  | 0x0C => put 32 f.chsel 0
  | 0x20 => if notOwn s fn then 0 else (getCtx s f.chsel.toNat).regs.n
  | 0x24 => chCtl s fn
  | 0x28 => chStat s fn
  | 0x2C => if f.mir.pf then put 32 f.evcause 0 else 0
  | 0x30 => if f.mir.pf then put 32 f.evmask 0 else 0
  | _ => 0
def pageWide (a : Nat) (s : State) : Option Word :=
  let fn := pageFn a
  let x := getCtx s (getFn s fn).chsel.toNat
  if !isPage s a then none
  else match a % 0x1000 with
    | 0x10 => some (if notOwn s fn then 0 else x.regs.s)
    | 0x18 => some (if notOwn s fn then 0 else x.regs.d)
    | _ => none

/-! ### The window -/

/-- The value of the 64-bit register at an offset, DOORBELL aside; none where no 64-bit register begins. -/
def wideNow (a : Nat) (s : State) : Option Word :=
  if a % 8 ≠ 0 then none
  else if a < 0x20000 then none
  else if a < 0x30000 then gateWide a s
  else if a < 0x40000 then hostWide a s
  else if a < 0x50000 then none
  else if a < 0x60000 then tsvWide a s
  else if a < 0x70000 then timeWide a s
  else if a < 0x80000 then none
  else if a < 0x80800 then ctlWide a s
  else if a < 0x81300 then mbxWide a s
  else pageWide a s

/-- The value of the 32-bit register at an offset, its pending bit aside. -/
def narrowNow (a : Nat) (s : State) : Half :=
  if a < 0x10000 then readIdent a s
  else if a < 0x20000 then readArb a s
  else if a < 0x30000 then readGate a s
  else if a < 0x40000 then readHost a s
  else if a < 0x50000 then readLink a s
  else if a < 0x60000 then readTsv a s
  else if a < 0x70000 then readTime a s
  else if a < 0x80000 then readTest a s
  else if a < 0x80100 then readCtl a s
  else if a < 0x80800 then readDsp a s
  else if a < 0x81300 then readMbx a s
  else if 0x82000 ≤ a ∧ a < 0x82400 then readLvl a s
  else if isPage s a then readPage a s
  else 0

/-! ### Mirrored copies (R9, R11) -/

/-- The registers of a page that CH_STAT.PEND covers (R51, R58): CH_S, CH_D, CH_N, CH_CTL.PAUSE and CH_STAT itself. -/
def pageMir : List Nat := [0x10, 0x14, 0x18, 0x1C, 0x20, 0x24, 0x28]

/-- The mirrored fields of the register at an offset. FLRHEAD has no pending bit. -/
def mirMask (a : Nat) : Half :=
  if 0x1000000 ≤ a then
    match a % 0x1000 with
    | 0x08 => 0x10F0
    | 0x24 => 0x4
    | o => if pageMir.contains o then 0xFFFFFFFF else 0
  else if [0x104, 0x10004, 0x20010, 0x60024, 0x60044, 0x6004C, 0x70004, 0x80014, 0x80024, 0x80504].contains a then 0x7FFFFFFF
  else if a = 0x80628 then 0x2
  else if isMbx a then (if a % 0x100 = 0x80 then 0xC else 0)
  else if 0x11000 ≤ a ∧ a < 0x12000 then (if a % 0x20 = 4 then 0x7FFFFFFF else 0)
  else if 0x30000 ≤ a ∧ a < 0x40000 then (if a % 0x4000 = 0x28 then 0xFFFFFFFF
    else if a % 0x4000 = 8 ∨ (0x1000 ≤ a % 0x4000 ∧ a % 0x4000 < 0x2000) then 0x7FFFFFFF else 0)
  else if 0x40000 ≤ a ∧ a < 0x50000 then (if 0x100 ≤ a % 0x400 ∧ a % 0x400 < 0x300 ∧ a % 0x20 = 4 then 0x7FFFFFFF else 0)
  else if 0x50100 ≤ a ∧ a < 0x50900 then (if a % 0x80 = 4 ∨ a % 0x80 = 0x68 then 0x7FFFFFFF else 0)
  else if (0x60900 ≤ a ∧ a < 0x60B00) ∨ (0x70600 ≤ a ∧ a < 0x70600 + 4 * 82) then 0x7FFFFFFF
  else 0

/-- The fields that a read takes from the copy. DONE of a mailbox is W1C: a read returns its current value (R9). -/
def mirShown (a : Nat) : Half := if isMbx a then mirMask a &&& 0x4 else mirMask a

/-- The 32-bit word at an offset. -/
def halfNow (a : Nat) (s : State) : Half :=
  match wideNow (a / 8 * 8) s with
  | some v => if a % 8 = 4 then hi32 v else lo32 v
  | none => narrowNow a s

/-- The block as the mirrored registers show it, and as they will once a state still crossing has arrived. -/
def showing (s : State) (x : Seen) : State :=
  { s with
    shpend := x.shpend, dsp := x.dsp, fn := x.fn, eng := x.eng, lock := x.lock, xbar := x.xbar, cluster := x.cluster
    gate := x.gate, hp := x.hp, port := x.port, tsv := x.tsv, ctl := x.ctl, mbx := x.mbx, pf := x.pf, island := x.island
    st := x.st }

/-- The last mirrored value of the register at an offset. -/
def mirCopy (s : State) (a : Nat) : Half := halfNow a (showing s s.seen)

/-- The registers of a page that one pending bit covers. -/
def mirGroup (a : Nat) : List Nat :=
  if 0x1000000 ≤ a ∧ pageMir.contains (a % 0x1000) then pageMir.map (fun o => a / 0x1000 * 0x1000 + o) else [a]

/-- A newer value is in transit. -/
def mirPend (s : State) (a : Nat) : Bool :=
  (s :: s.crossing.map (fun x => showing s x.2)).any (fun t =>
    (mirGroup a).any (fun b => halfNow b t &&& mirMask b != mirCopy s b &&& mirMask b))

/-- The register has a pending bit: of those on a page, VERSION and CH_STAT; FLRHEAD has none. -/
def hasPend (a : Nat) : Bool :=
  mirMask a != 0 && (decide (a < 0x1000000) || a % 0x1000 == 0x08 || a % 0x1000 == 0x28) &&
    !(decide (0x30000 ≤ a) && decide (a < 0x40000) && a % 0x4000 == 0x28)

/-- A word as a read shows it: its mirrored fields from the copy. -/
def mirrored (s : State) (a : Nat) (now : Half) : Half :=
  now &&& ~~~mirShown a ||| mirCopy s a &&& mirShown a

/-- What a read of a 64-bit register returns. CH_S and CH_D of a page are mirrored. -/
def wideRead (a : Nat) (s : State) : Option Word :=
  (wideNow a s).map (fun v =>
    if mirMask a = 0 then v else join32 (mirrored s a (lo32 v)) (mirrored s (a + 4) (hi32 v)))

/-- What a read of a 32-bit register returns. -/
def narrowRead (a : Nat) (s : State) : Half :=
  mirrored s a (narrowNow a s) ||| putb 32 (hasPend a && mirPend s a) 31

end Sys2Proof.Machine
end

