-- ==== Sys2Proof/Machine/RegWrite.lean ====
section
/-! DEFINITION. What a write of each register of the window does (R9, R441 to R444 and the register tables of every chapter): who
may write it, which fields it sets, and the action a field defines. A write no rule gives an effect is ignored. -/

namespace Sys2Proof.Machine

/-- An action that the block takes only while it runs; once held after a power failure it only answers registers (R398). -/
def whenLive (s : State) (f : State → State) : State := if live s then f s else s

def modShadow (f : Shale → Shale) (s : State) : State := { s with shadow := f s.shadow }
def modSt (f : SelfTest → SelfTest) (s : State) : State := { s with st := f s.st }

/-- The management processor in PHASE 1 or 9 (R357, R394). -/
def bootWriter (s : State) (r : Requester) : Bool := isMp r && (s.ctl.phase == 1 || s.ctl.phase == 9)
def isCc : Requester → Bool
  | .cc _ => true
  | _ => false

/-! ### Arbitration (R237, R238) -/

def writeArb (a : Nat) (v : Half) (s : State) : State :=
  match a with
  | 0x10000 => whenLive s (writeXfreeze (bit v 0))
  | 0x10008 => modShadow (fun x => { x with xarb := { x.xarb with starvth := bits v 0 8 } }) s
  | 0x1000C => modXbar (fun x => { x with starve := x.starve && !bit v 0 }) s
  | 0x10020 => modShadow (fun x => { x with xarb := { x.xarb with tsvdc := bits v 0 4, ctldc := bits v 4 4 } }) s
  | _ =>
    if 0x10100 ≤ a ∧ a < 0x10200 then
      modShadow (fun x => { x with xarb := { x.xarb with slot := tset 0 x.xarb.slot ((a - 0x10100) / 4) (bits v 0 8) } }) s
    else if 0x11000 ≤ a ∧ a < 0x11000 + 0x20 * nClusters s then
      let k := (a - 0x11000) / 0x20
      match a % 0x20 with
      | 0x00 => whenLive s (writeCfreeze k (bit v 0))
      | 0x08 => modShadow (fun x => { x with carb := { x.carb with starvth := tset 8 x.carb.starvth k (bits v 0 8) } }) s
      | 0x0C => modClu k (fun c => { c with starve := c.starve && !bit v 0 }) s
      | _ => s
    else if 0x12000 ≤ a ∧ a < 0x12000 + 4 * nPorts s then
      let p := (a - 0x12000) / 4
      modShadow (fun x => { x with carb := { x.carb with
        pdc := tset 7 x.carb.pdc p (bits v 0 4), pmindc := tset 0 x.carb.pmindc p (bits v 4 4) } }) s
    else s

/-! ### Gates (R260, R266) -/

def writeGate (a : Nat) (v : Half) (s : State) : State :=
  match a with
  | 0x20000 => modGate (fun g => { g with gsel := bits v 0 7 }) s
  | 0x20010 => if bit v 0 then whenLive s gbarArm else s
  | 0x20020 => modGate (fun g => { g with mask0 := v }) s
  | 0x20024 => modGate (fun g => { g with mask1 := v }) s
  | 0x20028 => modGate (fun g => { g with mask2 := bits v 0 7 }) s
  | 0x20034 => writeVlogrd v s
  | _ => s

/-! ### Host port units (R291) -/

def writeHost (a : Nat) (v : Half) (s : State) : State :=
  let h := (a - 0x30000) / 0x4000
  if nHosts s ≤ h then s
  else match a % 0x4000 with
  | 0x00 => setHpctl h v s
  | 0x04 => setHpctl2 h v s
  | 0x2C => whenLive s (flrAckWrite h v)
  | _ => s

/-! ### Links (R312) -/

/-- LCTL: the versions and the power cap, then EN, then RETRAIN. -/
def writeLctl (p : Nat) (v : Half) (s : State) : State :=
  let s := modPort p (fun k => { k with vermax := bits v 2 2 }) s
  let s := modShadow (fun x => { x with link := { x.link with pwrmax := tset 3 x.link.pwrmax p (bits v 4 2) } }) s
  let s := whenLive s (if bit v 0 then enableLink p else disableLink p)
  if bit v 1 then whenLive s (retrainLink p) else s

def writeLink (a : Nat) (v : Half) (s : State) : State :=
  let k := (a - 0x40000) / 0x400
  let o := a % 0x400
  if nClusters s ≤ k then s
  else match o with
  | 0x00 => modShadow (fun x => { x with link := { x.link with idlet := tset 8 x.link.idlet k (bits v 0 8) } }) s
  | 0x04 => modShadow (fun x => { x with link := { x.link with dozet := tset 16 x.link.dozet k (bits v 0 16) } }) s
  | 0x08 => modShadow (fun x => { x with link := { x.link with deept := tset 4000 x.link.deept k (bits v 0 24) } }) s
  | _ => if 0x100 ≤ o ∧ o < 0x300 ∧ o % 0x20 = 0 then writeLctl (16 * k + (o - 0x100) / 0x20) v s else s

/-! ### Table service (R332, R337) -/

/-- The settings of TICTL, then EN. -/
def writeTictl (i : Nat) (v : Half) (s : State) : State :=
  let s := modInst i (fun x => { x with
    policy := bit v 1, ageev := bit v 2, idw := bits v 8 6, owner := bits v 16 12, ownv := bit v 28 }) s
  whenLive s (if bit v 0 then enableTable i else disableTable i)

/-- LOG2B of an epoch is open while EN is 0, or for the shadow epoch while no rebuild is in progress. -/
def log2bOpen (x : Inst) (e : Bool) : Bool := !x.en || (e != x.act && x.st != .rebuild)

def writeTsv (a : Nat) (v : Half) (s : State) : State :=
  match a with
  | 0x50008 => modTsv (fun t => { t with tevlog := bits v 0 5 }) s
  | 0x50014 => writeTevrd v s
  | 0x5002C => modShadow (fun x => { x with tsv := { x.tsv with ephold := bits v 0 16 } }) s
  | _ =>
    if 0x51000 ≤ a ∧ a < 0x51000 + 4 * nPorts s then modPort ((a - 0x51000) / 4) (fun k => { k with lrnmask := bits v 0 16 }) s
    else match instAt a with
      | none => s
      | some (i, o) =>
        let x := getInst s i
        match o with
        | 0x00 => writeTictl i v s
        | 0x08 => modShadow (fun x => { x with tsv := { x.tsv with flapwin := tset 1000 x.tsv.flapwin i (bits v 0 16) } }) s
        | 0x0C => modShadow (fun x => { x with tsv := { x.tsv with agetick := tset 1000 x.tsv.agetick i (bits v 0 10) } }) s
        | 0x10 => modShadow (fun x => { x with tsv := { x.tsv with agelim := tset 300 x.tsv.agelim i (bits v 0 15) } }) s
        | 0x28 => if log2bOpen x false then modInst i (fun x => { x with ep0 := { x.ep0 with log2b := bits v 0 5 } }) s else s
        | 0x40 => if log2bOpen x true then modInst i (fun x => { x with ep1 := { x.ep1 with log2b := bits v 0 5 } }) s else s
        | _ => s

/-- The region bases, which Bedrock alone writes, the instance's own while EN is 0. -/
def writeTsvWide (a : Nat) (v : Word) (s : State) : State :=
  if a = 0x50000 then modTsv (fun t => { t with tevbase := alignDown v 32 }) s
  else match instAt a with
    | none => s
    | some (i, o) =>
      if (getInst s i).en then s
      else match o with
        | 0x18 => modInst i (fun x => { x with hdrbase := alignDown v 32 }) s
        | 0x20 => modInst i (fun x => { x with ep0 := { x.ep0 with ebase := alignDown v 4096 } }) s
        | 0x30 => modInst i (fun x => { x with ep0 := { x.ep0 with sbase := alignDown v 8192 } }) s
        | 0x38 => modInst i (fun x => { x with ep1 := { x.ep1 with ebase := alignDown v 4096 } }) s
        | 0x48 => modInst i (fun x => { x with ep1 := { x.ep1 with sbase := alignDown v 8192 } }) s
        | _ => s

/-! ### Time base and power (R391, R394, R406) -/

def writePolicy (i : Nat) (v : Half) (s : State) : State :=
  modShadow (fun x => { x with power := { x.power with
    maxst := tset (maxstDef i) x.power.maxst i (bits v 0 2)
    stopt := tset 16 x.power.stopt i (bits v 8 8)
    rett := tset 100 x.power.rett i (bits v 16 16) } }) s

def writeTime (r : Requester) (a : Nat) (v : Half) (s : State) : State :=
  match a with
  | 0x60020 => if isFirmware r then whenLive s (writeSharm v) else s
  | 0x60040 =>
    if bootWriter s r then
      modPf (fun p => { p with warnth := bits v 0 10, cutth := bits v 16 10, warncnt := bits v 26 4, en := bit v 31 }) s
    else s
  | 0x60048 => if isKc r then modPf (fun p => { p with drainlim := bits v 0 5 }) s else s
  | _ =>
    if isFirmware r && decide (0x60100 ≤ a) && decide (a < 0x60300) then
      match polIsland s (a - 0x60100) with
      | none => s
      | some i => writePolicy i v s
    else s

/-! ### Self-test (R421) -/

def writeTest (a : Nat) (v : Half) (s : State) : State :=
  if a = 0x70000 then
    let k : BitVec 2 := bits v 0 2
    let t : BitVec 7 := bits v 8 7
    let s := modSt (fun x => { x with kind := k, target := t }) s
    if bit v 31 && s.pf.stage == .normal then whenLive s (startTest k t) else s
  else s

/-! ### Boot, cores, events (R357), DSP (R31, R61, R167, R174, R202, R214) -/

def writeBootctl (v : Half) (s : State) : State :=
  if bit v 0 && s.pf.stage == .normal then whenLive s (bootGo (bit v 1))
  else modCtl (fun c => { c with selftest := bit v 1 }) s

def writeCtl (r : Requester) (a : Nat) (v : Half) (s : State) : State :=
  match a with
  | 0x80010 => if bootWriter s r then writeBootctl v s else s
  | 0x80020 => if isKc r then whenLive s (writeCcctl v) else s
  | 0x80028 => if isKc r then modCtl (fun c => { c with entry := bits v 0 24 &&& ~~~7 }) s else s
  | 0x80040 => if isKc r then modCtl (fun c => { c with evpendk := w1c c.evpendk (bits v 0 9) }) s else s
  | 0x80044 => if isCc r then modCtl (fun c => { c with evpends := w1c c.evpends (bits v 0 17) }) s else s
  | 0x80048 => if isCc r then modCtl (fun c => { c with evcore := bits v 0 3 }) s else s
  | _ => s

def writeDsp (r : Requester) (a : Nat) (v : Half) (s : State) : State :=
  match a with
  | 0x80108 => if isKc r && !s.ctl.ready then modDsp (fun d => { d with log2cnt := bits v 0 5 }) s else s
  | 0x80628 => if isKc r && bit v 0 then (if mayIssue s then lockCommand s else s) else s
  | _ =>
    if !isFirmware r then s
    else match a with
    | 0x80200 => modShadow (fun x => { x with spec := { dahead := bits v 0 3, sahead := bits v 8 5, sexec := bit v 16 } }) s
    | 0x80340 => modShadow (fun x => { x with disp := { x.disp with yield := bits v 0 16, pacehold := bits v 16 8 } }) s
    | 0x80344 => modShadow (fun x => { x with disp := { x.disp with wdlimit := bits v 0 24 } }) s
    | 0x80500 => whenLive s (writeQctl (bit v 0))
    | _ =>
      if 0x80300 ≤ a ∧ a < 0x80340 then
        let c := (a - 0x80300) / 4
        modShadow (fun x => { x with disp := { x.disp with dcoff := tset (dcoffDef c) x.disp.dcoff c (bits v 0 19) } }) s
      else if 0x80380 ≤ a ∧ a < 0x80380 + 4 * nEngines s then
        modShadow (fun x => { x with disp := { x.disp with dcmask := tset 0xFFFF x.disp.dcmask ((a - 0x80380) / 4) (bits v 0 16) } }) s
      else if 0x80400 ≤ a ∧ a < 0x80400 + nPorts s / 8 then
        modShadow (fun x => { x with disp := { x.disp with paceen := tset 0xFFFFFFFF x.disp.paceen ((a - 0x80400) / 4) v } }) s
      else s

/-- LVLCAP of the sixteen functions of word w (R61). -/
def writeLvl (a : Nat) (v : Half) (s : State) : State :=
  let w := (a - 0x82000) / 4
  if w < nFns s / 16 then
    forAll (List.range 16) (fun j s => modFn (16 * w + j) (fun f => { f with lvlcap := bits v (2 * j) 2 }) s) s
  else s

def writeCtlWide (r : Requester) (a : Nat) (v : Word) (s : State) : State :=
  match a with
  | 0x80000 => if bootWriter s r then modCtl (fun c => { c with imgaddr := alignDown v 4096 }) s else s
  | 0x80008 => if bootWriter s r then modCtl (fun c => { c with bpbaddr := alignDown v 64 }) s else s
  | 0x80100 => if isKc r && !s.ctl.ready then modDsp (fun d => { d with ctxbase := alignDown v 128 }) s else s
  | 0x80110 => if isKc r && !s.ctl.ready then modDsp (fun d => { d with psbase := alignDown v 4096 }) s else s
  | 0x80620 => if isKc r then modLock (fun l => { l with lbcmdadr := alignDown v 8 }) s else s
  | _ => s

/-! ### Mailboxes (R350) -/

/-- MBCTL: DONE is cleared by the sender, POST is the sender's and ANSWER the receiver's. -/
def writeMbctl (r : Requester) (m : Nat) (v : Half) (s : State) : State :=
  let s := if mbxSender m r && bit v 3 then modMbx m (fun x => { x with done := false }) s else s
  let s := if mbxSender m r && bit v 0 then mbxPost m s else s
  if mbxReceiver m r && bit v 1 then answerMbx m s else s
def writeMbx (r : Requester) (a : Nat) (v : Half) (s : State) : State :=
  if a % 0x100 = 0x80 then writeMbctl r (mbxAt a) v s else s

def writeMbxWide (r : Requester) (a : Nat) (v : Word) (s : State) : State :=
  let m := mbxAt a
  let o := a % 0x100
  if o < 0x40 then
    if mbxSender m r && !(getMbx s m).busy then modMbx m (fun x => { x with req := tset 0 x.req (o / 8) v }) s else s
  else if o < 0x80 then
    if mbxReceiver m r && (getMbx s m).busy then modMbx m (fun x => { x with rsp := tset 0 x.rsp ((o - 0x40) / 8) v }) s else s
  else s

/-! ### Function pages (R50 to R60, R288) -/

/-- CH_CTL: the staging fields and PAUSE, then ABORT, then GO (R52). -/
def writeChCtl (fn : Nat) (v : Half) (s : State) : State :=
  let s := modFn fn (fun f => { f with
    direct := bit v 3, loadpc := bit v 4, sinc := bit v 5, dinc := bit v 6, ntfy := bit v 7, swap := bits v 8 2
    sspace := bits v 12 4, dspace := bits v 16 4 }) s
  let s := whenLive s (if bit v 2 then doPause fn else doUnpause fn)
  let s := if bit v 1 then whenLive s (doAbort fn) else s
  if bit v 0 then whenLive s (doGo fn) else s

def writePage (a : Nat) (v : Half) (s : State) : State :=
  let fn := pageFn a
  match a % 0x1000 with
  | 0x08 => whenLive s (doVersion fn (bits v 0 4))
  | 0x0C => modFn fn (fun f => { f with chsel := bits v 0 23 }) s
  | 0x20 => modFn fn (fun f => { f with stN := v }) s
  | 0x24 => writeChCtl fn v s
  | 0x2C => if (getFn s fn).mir.pf then modFn fn (fun f => { f with evcause := w1c f.evcause (bits v 0 11) }) s else s
  | 0x30 => if (getFn s fn).mir.pf then modFn fn (fun f => { f with evmask := bits v 0 11 }) s else s
  | _ => s
def writePageWide (a : Nat) (v : Word) (s : State) : State :=
  let fn := pageFn a
  match a % 0x1000 with
  | 0x10 => modFn fn (fun f => { f with stS := v }) s
  | 0x18 => modFn fn (fun f => { f with stD := v }) s
  | _ => s

/-! ### The window -/

/-- The value a 64-bit register keeps where only its upper half is written: what it holds, the staging copy of CH_S and CH_D. -/
def wideHeld (a : Nat) (s : State) : Option Word :=
  if isPage s a then
    match a % 0x1000 with
    | 0x10 => some (getFn s (pageFn a)).stS
    | 0x18 => some (getFn s (pageFn a)).stD
    | _ => none
  else wideRead a s

/-- A write of a whole 64-bit register. -/
def wideWrite (r : Requester) (a : Nat) (v : Word) (s : State) : State :=
  if 0x20800 ≤ a ∧ a < 0x21000 then (if isKc r then writeRule ((a - 0x20800) / 0x20) (a / 8) v s else s)
  else if 0x50000 ≤ a ∧ a < 0x60000 then (if isKc r then writeTsvWide a v s else s)
  else if 0x80000 ≤ a ∧ a < 0x80800 then writeCtlWide r a v s
  else if isMbx a then writeMbxWide r a v s
  else if isPage s a then writePageWide a v s
  else s

/-- A write of a 32-bit register. -/
def narrowWrite (r : Requester) (a : Nat) (v : Half) (s : State) : State :=
  if a < 0x10000 then s
  else if a < 0x20000 then (if isFirmware r then writeArb a v s else s)
  else if a < 0x30000 then (if isKc r then writeGate a v s else s)
  else if a < 0x40000 then (if isKc r then writeHost a v s else s)
  else if a < 0x50000 then (if isFirmware r then writeLink a v s else s)
  else if a < 0x60000 then (if isFirmware r then writeTsv a v s else s)
  else if a < 0x70000 then writeTime r a v s
  else if a < 0x80000 then (if isKc r then writeTest a v s else s)
  else if a < 0x80100 then writeCtl r a v s
  else if a < 0x80800 then writeDsp r a v s
  else if a < 0x81300 then writeMbx r a v s
  else if 0x82000 ≤ a ∧ a < 0x82400 then (if isFirmware r then writeLvl a v s else s)
  else if isPage s a then writePage a v s
  else s

end Sys2Proof.Machine
end

