-- ==== Sys2Proof/Machine/Registers.lean ====
section
/-! DEFINITION. Accesses to the register window (18 R428, 19 R441 to R445): the 32-bit and 64-bit accesses, and the meanings of REGISTER_WRITE, LOWER_HALF_READ, LOWER_HALF_WRITE, BTIMELO_READ, HOST_TARGET_ACCESS, CRR and
CRW. -/

namespace Sys2Proof.Machine

/-! ### 32-bit accesses -/

/-- A requester the block has. -/
def reqOk (s : State) (r : Requester) : Bool :=
  match r with
  | .cc n => decide (n < 8)
  | .host h fn => decide (h < nHosts s) && decide (fn < nFns s)
  | _ => true

/-- An offset of the window, aligned. -/
def offsetOk (a : Nat) : Bool := a % 4 == 0 && decide (a < 0x4000000)

/-- DOORBELL of a page, whose halves follow R40; a read returns 0. -/
def isDoorbell (s : State) (a : Nat) : Bool := isPage s a && (a % 0x1000 == 0 || a % 0x1000 == 4)
/-- The doorbell counter index of a requester (R48). -/
def dbIndex : Requester → Nat
  | .host h _ => h
  | _ => 4

/-- A read of four bytes: the value, and the state with the requester's holding register. -/
def regRead (r : Requester) (a : Nat) (s : State) : Half × State :=
  if !offsetOk a || !mayReadReg s r a then (0, dropLatch r s)
  else match wideRead a s with
    | some v => (lo32 v, setLatch r { addr := a, write := false, data := hi32 v, full := true } s)
    | none =>
      if a % 8 = 4 then
        match wideRead (a - 4) s with
        | some v =>
          (match latched s r (a - 4) false with
           | some h => (h, s)
           | none => (hi32 v, dropLatch r s))
        | none => (narrowRead a s, dropLatch r s)
      else (narrowRead a s, dropLatch r s)

/-- A write of four bytes. A lower half is held; an upper half takes it up, or keeps the lower half the register holds. -/
def regWrite (r : Requester) (a : Nat) (v : Half) (s : State) : State :=
  if !offsetOk a || !mayReadReg s r a then dropLatch r s
  else if isDoorbell s a then
    let s := dropLatch r s
    if a % 8 = 0 then writeDoorbell (dbIndex r) (pageFn a) (some v) none s
    else writeDoorbell (dbIndex r) (pageFn a) none (some v) s
  else if a % 8 = 0 then
    match wideRead a s with
    | some _ => setLatch r { addr := a, write := true, data := v, full := true } s
    | none => narrowWrite r a v (dropLatch r s)
  else
    match wideHeld (a - 4) s with
    | some old => wideWrite r (a - 4) (join32 ((latched s r (a - 4) true).getD (lo32 old)) v) (dropLatch r s)
    | none => narrowWrite r a v (dropLatch r s)

/-- Eight bytes: the lower address first, then the upper, with nothing between them, and no latch is left (R368, R444). -/
def regRead64 (r : Requester) (a : Nat) (s : State) : Word × State :=
  let x := regRead r a s
  let y := regRead r (a + 4) x.2
  (join32 x.1 y.1, dropLatch r y.2)
def regWrite64 (r : Requester) (a : Nat) (v : Word) (s : State) : State :=
  if isDoorbell s a then writeDoorbell (dbIndex r) (pageFn a) (some (lo32 v)) (some (hi32 v)) (dropLatch r s)
  else regWrite r (a + 4) (hi32 v) (regWrite r a (lo32 v) s)

/-! ### The commands -/

/-- What the requester of a read sees: RP_RDATA, or HT_RDATA of a host port. A core takes the value by CRR. -/
def answerRead (r : Requester) (v : Word) (s : State) : State :=
  match r with
  | .mp => modOut (fun o => { o with rp := lo32 v }) s
  | .host h _ => modOut (fun o => { o with ht := tset 0 o.ht h v }) s
  | _ => s

def execRegisterWrite (r : Requester) (addr : Nat) (data : Half) (s : State) : Res :=
  if s.inReset || !reqOk s r then .next s else .next (regWrite r addr data s)

/-- A read of one half of the window; at the lower half of a 64-bit register it latches the upper half. -/
def doLowerRead (r : Requester) (addr : Nat) (s : State) : State :=
  let x := regRead r addr s
  answerRead r (x.1.zeroExtend 64) x.2
def execLowerHalfRead (r : Requester) (addr : Nat) (s : State) : Res :=
  if s.inReset || !reqOk s r then .next s else .next (doLowerRead r addr s)

/-- The lower half of a 64-bit register is held; at any other offset nothing is. -/
def execLowerHalfWrite (r : Requester) (addr : Nat) (data : Half) (s : State) : Res :=
  if s.inReset || !reqOk s r || (wideRead addr s).isNone then .next s else .next (regWrite r addr data s)

def execBtimeloRead (r : Requester) (s : State) : Res :=
  if s.inReset || !reqOk s r then .next s else .next (doLowerRead r 0x60000 s)

/-- An access of a host to its page (R281, R431): DOORBELL to the FIFO, everything else to the register port; a misaligned
read answers 0. -/
def hostAccess (h : Nat) (a : HostAccess) (s : State) : State :=
  let fn := h * 1024 + a.fn.toNat
  let r : Requester := .host h fn
  let off := pageBase fn + a.off.toNat
  let size := if a.size8 then 8 else 4
  if a.off.toNat % size != 0 then (if a.write then dropLatch r s else answerRead r 0 (dropLatch r s))
  else if a.write then (if a.size8 then regWrite64 r off a.wdata s else regWrite r off (lo32 a.wdata) s)
  else if a.size8 then
    let x := regRead64 r off s
    answerRead r x.1 x.2
  else doLowerRead r off s
def execHostTargetAccess (h : Nat) (a : HostAccess) (s : State) : Res :=
  if s.inReset || decide (nHosts s ≤ h) || tested s (islHpt h) then .next s else .next (hostAccess h a s)

/-! ### CRR and CRW (R368) -/

/-- The access size of a block-register instruction. -/
def crSize (w : Word) : Nat := if bit w 48 then 8 else 4

/-- The fault of a block-register instruction: ILLEGAL, MISALIGN, then BUS. -/
def crFault (c : Nat) (w : Word) (s : State) : Option State :=
  let a := coreAddr c w s
  if !noRB w || 2 ≤ fMOD w then some (illegal c s)
  else if !aligned a (crSize w) then some (coreFault c 2 a s)
  else if 0x4000000 ≤ a.toNat then some (coreFault c 4 a s)
  else none

def doCrr (c : Nat) (w : Word) (s : State) : State :=
  match crFault c w s with
  | some s' => s'
  | none =>
    let a := (coreAddr c w s).toNat
    if bit w 48 then
      let x := regRead64 (reqOf c) a s
      retireCore c (setG (fRD w) x.1) x.2
    else
      let x := regRead (reqOf c) a s
      retireCore c (setG (fRD w) (x.1.zeroExtend 64)) x.2
def execCrr (c : Nat) (s : State) : Res := runCore c 0xB0 none (doCrr c) s

/-- The write comes behind the instruction's own advance: a write of CCCTL that halts the core halts it after the
instruction (R357). -/
def doCrw (c : Nat) (w : Word) (s : State) : State :=
  match crFault c w s with
  | some s' => s'
  | none =>
    let a := (coreAddr c w s).toNat
    let v := getG (getCore s c) (fRD w)
    let s := retireCore c id s
    if bit w 48 then regWrite64 (reqOf c) a v s else regWrite (reqOf c) a (lo32 v) s
def execCrw (c : Nat) (s : State) : Res := runCore c 0xB1 none (doCrw c) s

end Sys2Proof.Machine
end

