-- ==== Sys2Proof/Machine/Dispatch.lean ====
section
/-! DEFINITION. The dispatch: one arm for each command, calling its meaning. -/

namespace Sys2Proof.Machine

def exec (i : Instr) (s : State) : Host.Outcome State Fault Refusal :=
  match i with
  | .registerWrite r addr data => Sys2Proof.Machine.execRegisterWrite r addr data s
  | .lowerHalfRead r addr => Sys2Proof.Machine.execLowerHalfRead r addr s
  | .lowerHalfWrite r addr data => Sys2Proof.Machine.execLowerHalfWrite r addr data s
  | .btimeloRead r => Sys2Proof.Machine.execBtimeloRead r s
  | .doorbell k fn lo hi => Sys2Proof.Machine.execDoorbell k fn lo hi s
  | .doorbellApply k => Sys2Proof.Machine.execDoorbellApply k s
  | .lmUpd8Response n tag resp old => Sys2Proof.Machine.execLmUpd8Response n tag resp old s
  | .pendingScan => Sys2Proof.Machine.execPendingScan s
  | .scanBlockReadDone resp => Sys2Proof.Machine.execScanBlockReadDone resp s
  | .chCtlGo fn => Sys2Proof.Machine.execChCtlGo fn s
  | .chCtlAbort fn => Sys2Proof.Machine.execChCtlAbort fn s
  | .pauseSet fn => Sys2Proof.Machine.execPauseSet fn s
  | .pauseClear fn => Sys2Proof.Machine.execPauseClear fn s
  | .versionRequest fn level => Sys2Proof.Machine.execVersionRequest fn level s
  | .dispatch => Sys2Proof.Machine.execDispatch s
  | .descriptorRead e ahead => Sys2Proof.Machine.execDescriptorRead e ahead s
  | .descriptorReadDone e => Sys2Proof.Machine.execDescriptorReadDone e s
  | .seqCoverQuery e => Sys2Proof.Machine.execSeqCoverQuery e s
  | .resumeDescriptorReadDone e => Sys2Proof.Machine.execResumeDescriptorReadDone e s
  | .lds e => Sys2Proof.Machine.execLds e s
  | .ldd e => Sys2Proof.Machine.execLdd e s
  | .ldn e => Sys2Proof.Machine.execLdn e s
  | .ldk e => Sys2Proof.Machine.execLdk e s
  | .move e => Sys2Proof.Machine.execMove e s
  | .movl e => Sys2Proof.Machine.execMovl e s
  | .waitf e => Sys2Proof.Machine.execWaitf e s
  | .fence e => Sys2Proof.Machine.execFence e s
  | .notify e => Sys2Proof.Machine.execNotify e s
  | .brk e => Sys2Proof.Machine.execBrk e s
  | .atom e => Sys2Proof.Machine.execAtom e s
  | .lock e => Sys2Proof.Machine.execLock e s
  | .unlk e => Sys2Proof.Machine.execUnlk e s
  | .br e => Sys2Proof.Machine.execBr e s
  | .link e => Sys2Proof.Machine.execLink e s
  | .endd e => Sys2Proof.Machine.execEndd e s
  | .tins e rd => Sys2Proof.Machine.execTins e rd s
  | .tdel e rd => Sys2Proof.Machine.execTdel e rd s
  | .tmov e rd => Sys2Proof.Machine.execTmov e rd s
  | .tage e rd => Sys2Proof.Machine.execTage e rd s
  | .tepoRead e => Sys2Proof.Machine.execTepoRead e s
  | .tepoBegin e => Sys2Proof.Machine.execTepoBegin e s
  | .tepoArm e => Sys2Proof.Machine.execTepoArm e s
  | .tsvAnswer e => Sys2Proof.Machine.execTsvAnswer e s
  | .level1MoveDescriptor e => Sys2Proof.Machine.execLevel1MoveDescriptor e s
  | .level1LinkDescriptor e => Sys2Proof.Machine.execLevel1LinkDescriptor e s
  | .sourceBurstIssue e => Sys2Proof.Machine.execSourceBurstIssue e s
  | .lmReadData n tag resp data => Sys2Proof.Machine.execLmReadData n tag resp data s
  | .lmWriteResponse n tag resp => Sys2Proof.Machine.execLmWriteResponse n tag resp s
  | .movlListReadDone e => Sys2Proof.Machine.execMovlListReadDone e s
  | .hostCompletionPiece h piece => Sys2Proof.Machine.execHostCompletionPiece h piece s
  | .completionTimeout h slot => Sys2Proof.Machine.execCompletionTimeout h slot s
  | .quarantineExpiry h slot => Sys2Proof.Machine.execQuarantineExpiry h slot s
  | .directMoveComplete e => Sys2Proof.Machine.execDirectMoveComplete e s
  | .wdogExpiry e => Sys2Proof.Machine.execWdogExpiry e s
  | .paceholdExpiry e => Sys2Proof.Machine.execPaceholdExpiry e s
  | .pacingWake => Sys2Proof.Machine.execPacingWake s
  | .pauseStopDone e => Sys2Proof.Machine.execPauseStopDone e s
  | .abortStop e => Sys2Proof.Machine.execAbortStop e s
  | .ctxEccError c => Sys2Proof.Machine.execCtxEccError c s
  | .quiesceRequest r => Sys2Proof.Machine.execQuiesceRequest r s
  | .quiesceRelease r => Sys2Proof.Machine.execQuiesceRelease r s
  | .leaseExpiry addr => Sys2Proof.Machine.execLeaseExpiry addr s
  | .lockBreakCommand r => Sys2Proof.Machine.execLockBreakCommand r s
  | .xbarDecision => Sys2Proof.Machine.execXbarDecision s
  | .clusterDecision k => Sys2Proof.Machine.execClusterDecision k s
  | .laneDrop lane => Sys2Proof.Machine.execLaneDrop lane s
  | .xbarRepresent j => Sys2Proof.Machine.execXbarRepresent j s
  | .slotBoundary => Sys2Proof.Machine.execSlotBoundary s
  | .xbarFreeze r on => Sys2Proof.Machine.execXbarFreeze r on s
  | .clusterFreeze r k on => Sys2Proof.Machine.execClusterFreeze r k on s
  | .seam => Sys2Proof.Machine.execSeam s
  | .sharm r mask => Sys2Proof.Machine.execSharm r mask s
  | .gateRuleWrite r rule word value => Sys2Proof.Machine.execGateRuleWrite r rule word value s
  | .gateBarrierArm r => Sys2Proof.Machine.execGateBarrierArm r s
  | .barrierFlushReadDone h slot => Sys2Proof.Machine.execBarrierFlushReadDone h slot s
  | .bufferedWriteLeave t => Sys2Proof.Machine.execBufferedWriteLeave t s
  | .vlogrdWrite r v => Sys2Proof.Machine.execVlogrdWrite r v s
  | .functionMirrorUpdate fn m => Sys2Proof.Machine.execFunctionMirrorUpdate fn m s
  | .bmeFall fn => Sys2Proof.Machine.execBmeFall fn s
  | .bmeRise fn => Sys2Proof.Machine.execBmeRise fn s
  | .flrRequest fn => Sys2Proof.Machine.execFlrRequest fn s
  | .contextSweep => Sys2Proof.Machine.execContextSweep s
  | .flrAck r h v => Sys2Proof.Machine.execFlrAck r h v s
  | .flrTimeout fn => Sys2Proof.Machine.execFlrTimeout fn s
  | .intxSend fn => Sys2Proof.Machine.execIntxSend fn s
  | .hostTargetAccess h a => Sys2Proof.Machine.execHostTargetAccess h a s
  | .linkEnable r p => Sys2Proof.Machine.execLinkEnable r p s
  | .linkDisable r p => Sys2Proof.Machine.execLinkDisable r p s
  | .linkRetrain p cause => Sys2Proof.Machine.execLinkRetrain p cause s
  | .linkResetDone p => Sys2Proof.Machine.execLinkResetDone p s
  | .portVersion p first rest => Sys2Proof.Machine.execPortVersion p first rest s
  | .versionTimeout p => Sys2Proof.Machine.execVersionTimeout p s
  | .portRdata p ts => Sys2Proof.Machine.execPortRdata p ts s
  | .tsvmsg p first rest => Sys2Proof.Machine.execTsvmsg p first rest s
  | .portWriteAccepted p => Sys2Proof.Machine.execPortWriteAccepted p s
  | .filli p level => Sys2Proof.Machine.execFilli p level s
  | .fillo p level => Sys2Proof.Machine.execFillo p level s
  | .classByte p x => Sys2Proof.Machine.execClassByte p x s
  | .brkMarker p inTransfer => Sys2Proof.Machine.execBrkMarker p inTransfer s
  | .lerr p => Sys2Proof.Machine.execLerr p s
  | .handshakeTimeout p => Sys2Proof.Machine.execHandshakeTimeout p s
  | .linkIdleTimer p => Sys2Proof.Machine.execLinkIdleTimer p s
  | .linkDozeTimer p => Sys2Proof.Machine.execLinkDozeTimer p s
  | .linkDeepTimer p => Sys2Proof.Machine.execLinkDeepTimer p s
  | .linkWake p => Sys2Proof.Machine.execLinkWake p s
  | .learn rd => Sys2Proof.Machine.execLearn rd s
  | .touch rd => Sys2Proof.Machine.execTouch rd s
  | .relocationStashWriteDone j resp => Sys2Proof.Machine.execRelocationStashWriteDone j resp s
  | .ageTick j => Sys2Proof.Machine.execAgeTick j s
  | .ageSweepVisit j rd => Sys2Proof.Machine.execAgeSweepVisit j rd s
  | .tableEnable r j => Sys2Proof.Machine.execTableEnable r j s
  | .tableInitDone j => Sys2Proof.Machine.execTableInitDone j s
  | .tableDisable r j => Sys2Proof.Machine.execTableDisable r j s
  | .rebuildZero j => Sys2Proof.Machine.execRebuildZero j s
  | .copydone j => Sys2Proof.Machine.execCopydone j s
  | .tevrdWrite r v => Sys2Proof.Machine.execTevrdWrite r v s
  | .bootGo r selftest => Sys2Proof.Machine.execBootGo r selftest s
  | .imageVerifyDone im bpb => Sys2Proof.Machine.execImageVerifyDone im bpb s
  | .startupZeroDone => Sys2Proof.Machine.execStartupZeroDone s
  | .mailboxPost r m => Sys2Proof.Machine.execMailboxPost r m s
  | .mailboxAnswer r m => Sys2Proof.Machine.execMailboxAnswer r m s
  | .gateRule m => Sys2Proof.Machine.execGateRule m s
  | .gateCommit m => Sys2Proof.Machine.execGateCommit m s
  | .lockBreak m => Sys2Proof.Machine.execLockBreak m s
  | .hostSet m => Sys2Proof.Machine.execHostSet m s
  | .tsvPlace m => Sys2Proof.Machine.execTsvPlace m s
  | .tsvRing m => Sys2Proof.Machine.execTsvRing m s
  | .selftest m => Sys2Proof.Machine.execSelftest m s
  | .vlogNext m => Sys2Proof.Machine.execVlogNext m s
  | .ready m => Sys2Proof.Machine.execReady m s
  | .screeLoad m => Sys2Proof.Machine.execScreeLoad m s
  | .screeRestart m => Sys2Proof.Machine.execScreeRestart m s
  | .cairnSet m => Sys2Proof.Machine.execCairnSet m s
  | .updateTimeout => Sys2Proof.Machine.execUpdateTimeout s
  | .ccctlWrite r v => Sys2Proof.Machine.execCcctlWrite r v s
  | .ld c => Sys2Proof.Machine.execLd c s
  | .st c => Sys2Proof.Machine.execSt c s
  | .ldi c => Sys2Proof.Machine.execLdi c s
  | .amo c => Sys2Proof.Machine.execAmo c s
  | .alu c => Sys2Proof.Machine.execAlu c s
  | .bfx c => Sys2Proof.Machine.execBfx c s
  | .b c => Sys2Proof.Machine.execB c s
  | .jal c => Sys2Proof.Machine.execJal c s
  | .crr c => Sys2Proof.Machine.execCrr c s
  | .crw c => Sys2Proof.Machine.execCrw c s
  | .lcr c => Sys2Proof.Machine.execLcr c s
  | .wfe c => Sys2Proof.Machine.execWfe c s
  | .wfeWake c => Sys2Proof.Machine.execWfeWake c s
  | .mbxSend c => Sys2Proof.Machine.execMbxSend c s
  | .mbxTake c => Sys2Proof.Machine.execMbxTake c s
  | .mbxAnswer c => Sys2Proof.Machine.execMbxAnswer c s
  | .mbxCollect c => Sys2Proof.Machine.execMbxCollect c s
  | .svcIssue c => Sys2Proof.Machine.execSvcIssue c s
  | .svcResult c => Sys2Proof.Machine.execSvcResult c s
  | .svcRelease c => Sys2Proof.Machine.execSvcRelease c s
  | .svcCancel c => Sys2Proof.Machine.execSvcCancel c s
  | .movework c slot => Sys2Proof.Machine.execMovework c slot s
  | .ctxread c slot => Sys2Proof.Machine.execCtxread c slot s
  | .ctxwrite c slot => Sys2Proof.Machine.execCtxwrite c slot s
  | .owncopyWriteDone resp old => Sys2Proof.Machine.execOwncopyWriteDone resp old s
  | .evpost c slot => Sys2Proof.Machine.execEvpost c slot s
  | .timer c => Sys2Proof.Machine.execTimer c s
  | .railSample code => Sys2Proof.Machine.execRailSample code s
  | .drainEnd => Sys2Proof.Machine.execDrainEnd s
  | .cairnHostCopyDone => Sys2Proof.Machine.execCairnHostCopyDone s
  | .islandClkstop j => Sys2Proof.Machine.execIslandClkstop j s
  | .islandRetain j => Sys2Proof.Machine.execIslandRetain j s
  | .islandWake j => Sys2Proof.Machine.execIslandWake j s
  | .refclkLoss => Sys2Proof.Machine.execRefclkLoss s
  | .pgoodFall => Sys2Proof.Machine.execPgoodFall s
  | .brstFall => Sys2Proof.Machine.execBrstFall s
  | .resetRelease => Sys2Proof.Machine.execResetRelease s
  | .logicTest r target => Sys2Proof.Machine.execLogicTest r target s
  | .memoryTest r target => Sys2Proof.Machine.execMemoryTest r target s
  | .infieldTest r target => Sys2Proof.Machine.execInfieldTest r target s
  | .selftestDone rep => Sys2Proof.Machine.execSelftestDone rep s
  | .agingMeasure j slow => Sys2Proof.Machine.execAgingMeasure j slow s
  | .bufferedWriteAck t => Sys2Proof.Machine.execBufferedWriteAck t s
  | .controlMemoryReadData e => Sys2Proof.Machine.execControlMemoryReadData e s
  | .ignoredSidebandByte p byte => Sys2Proof.Machine.execIgnoredSidebandByte p byte s
  | .testAccessPortTest island => Sys2Proof.Machine.execTestAccessPortTest island s

end Sys2Proof.Machine
end

