-- ==== Sys2Proof/Safety.lean ====
section
/-! DEFINITION. What a safe state is, and the part of a state that few commands change: the terms in which the statements
speak of the whole block. -/

namespace Sys2Proof.Machine

/-- The byte stores are in canonical form: rising addresses, no entry that equals what an unlisted byte reads as. -/
def memOk (s : State) : Bool := Memory.wf s.cmem && Memory.wf s.kram && Memory.wf s.rsram

/-- The parts of a state that only a few commands change: the queue, the configuration, the block's RAMs, the rules in
force, the settings in force, READY, WARN and CUT. -/
structure Durable where
  pending : List Instr
  cfg : Cfg
  cmem : List Host.Cell
  kram : List Host.Cell
  rsram : List Host.Cell
  rules : Tbl Rule
  shales : Shale
  ready : Bool
  warn : Bool
  cut : Bool
  deriving DecidableEq, Repr

/-- The durable part of a state. -/
def durable (s : State) : Durable :=
  ⟨s.pending, s.cfg, s.cmem, s.kram, s.rsram, s.gate.active, s.active, s.ctl.ready, s.pf.warn, s.pf.cut⟩

/-- Bedrock serves, mailbox m has its turn, and the well-formed request of a command stands there (14 R351, R355). -/
def asked (s : State) (m cmd : Nat) : Bool :=
  bedServes s && decide (m ≤ 8) && nextMbx s == some m &&
    fld (reqWord s m 0) 0 8 == cmd && fld (reqWord s m 0) 8 8 == 0 && fld (reqWord s m 0) 32 32 == 0

/-- Core c runs and fetches the word w, which leaves the state u (15 R340, R361). -/
def fetches (s : State) (c : Nat) (w : Word) (u : State) : Bool :=
  coreRuns s c && (match coreFetch c (getCore s c).pc s with
    | .bytes d v => wordAt d 0 == w && v == u
    | .fault _ _ => false)

/-- Every granule of an access passes its gate, and in a host space its function has bus master enable (10 R245, R246, 11 R282). -/
def passes (s : State) (w : Who) (sp : BitVec 4) (a : Word) (len : Nat) (n : Need) : Bool :=
  !(hostSpace s sp && !bmeOf s (hostFn s w (sp.toNat - 1))) && (gateCheck s (gateOf s sp a) w n a len false).ok

/-- The commands of the control profile, for a core. -/
def coreCommands (c : Nat) : List Instr :=
  [.ld c, .st c, .ldi c, .amo c, .alu c, .bfx c, .b c, .jal c, .crr c, .crw c, .lcr c, .wfe c, .mbxSend c, .mbxTake c,
   .mbxAnswer c, .mbxCollect c, .svcIssue c, .svcResult c, .svcRelease c, .svcCancel c]

end Sys2Proof.Machine
end

