-- ==== Sys2Proof/WellFormed.lean ====
section
/-! DEFINITION. Which operands a command may have: the ranges the spec gives the engines, ports, functions, instances and
slots of Briet-F (00_scope.md R3). A command outside them names nothing the block has; its meaning then has no effect. -/

namespace Sys2Proof

/-- A requester the register fabric knows: cores 0 to 7, host ports 0 to 3, functions 0 to 4,095 (14 R342, 00 R3). -/
def Requester.ok : Requester → Bool
  | .kc => true
  | .cc n => decide (n < 8)
  | .mp => true
  | .host h fn => decide (h < 4) && decide (fn < 4096)

/-- A buffered target: engine port 0 to 1,023 or control memory (10 R254). -/
def BufTarget.ok : BufTarget → Bool
  | .port p => decide (p < 1024)
  | .ctl => true

/-- Data of at most n bytes. -/
def dataOk (n : Nat) (d : List Byte) : Bool := decide (d.length ≤ n)

/-- The operands of a command lie in the ranges the spec gives. -/
def Instr.wf : Instr → Bool
  | .registerWrite r a _ => r.ok && a % 4 == 0
  | .lowerHalfRead r a => r.ok && a % 4 == 0
  | .lowerHalfWrite r a _ => r.ok && a % 4 == 0
  | .btimeloRead r => r.ok
  | .doorbell k fn _ _ => decide (k < 5) && decide (fn < 4096)
  | .doorbellApply k => decide (k < 5)
  | .lmUpd8Response n t _ _ => decide (n < 2) && decide (t < 1024)
  | .chCtlGo fn | .chCtlAbort fn | .pauseSet fn | .pauseClear fn => decide (fn < 4096)
  | .versionRequest fn _ => decide (fn < 4096)
  | .descriptorRead e _ => decide (e < 32)
  | .descriptorReadDone e | .seqCoverQuery e | .resumeDescriptorReadDone e => decide (e < 32)
  | .lds e | .ldd e | .ldn e | .ldk e | .move e | .movl e | .waitf e | .fence e | .notify e | .brk e | .atom e
  | .lock e | .unlk e | .br e | .link e | .endd e | .tins e _ | .tdel e _ | .tmov e _ | .tage e _ | .tepoRead e
  | .tepoBegin e | .tepoArm e | .tsvAnswer e | .level1MoveDescriptor e | .level1LinkDescriptor e
  | .sourceBurstIssue e | .movlListReadDone e | .directMoveComplete e | .wdogExpiry e | .paceholdExpiry e
  | .pauseStopDone e | .abortStop e | .controlMemoryReadData e => decide (e < 32)
  | .lmReadData n t _ d => decide (n < 2) && decide (t < 1024) && dataOk 128 d
  | .lmWriteResponse n t _ => decide (n < 2) && decide (t < 1024)
  | .hostCompletionPiece h p => decide (h < 4) && dataOk 512 p.data
  | .completionTimeout h s | .quarantineExpiry h s | .barrierFlushReadDone h s => decide (h < 4) && decide (s < 4096)
  | .ctxEccError c => decide (c < 8388608)
  | .quiesceRequest r | .quiesceRelease r | .lockBreakCommand r | .gateBarrierArm r => r.ok
  | .leaseExpiry a => a.toNat % 8 == 0
  | .clusterDecision k => decide (k < 64)
  | .laneDrop l => decide (l < 44)
  | .xbarRepresent i => decide (i < 128)
  | .xbarFreeze r _ => r.ok
  | .clusterFreeze r k _ => r.ok && decide (k < 64)
  | .sharm r _ => r.ok
  | .gateRuleWrite r k w _ => r.ok && decide (k < 64) && decide (w < 4)
  | .bufferedWriteLeave t | .bufferedWriteAck t => t.ok
  | .vlogrdWrite r _ | .tevrdWrite r _ | .ccctlWrite r _ => r.ok
  | .functionMirrorUpdate fn _ | .bmeFall fn | .bmeRise fn | .flrRequest fn | .flrTimeout fn | .intxSend fn =>
      decide (fn < 4096)
  | .flrAck r h _ => r.ok && decide (h < 4)
  | .hostTargetAccess h a => decide (h < 4) && a.off.toNat % 4 == 0 && (!a.size8 || a.off.toNat % 8 == 0)
  | .linkEnable r p | .linkDisable r p => r.ok && decide (p < 1024)
  | .linkRetrain p _ | .linkResetDone p | .portVersion p _ _ | .versionTimeout p | .portWriteAccepted p | .filli p _
  | .fillo p _ | .classByte p _ | .brkMarker p _ | .lerr p | .handshakeTimeout p | .linkIdleTimer p
  | .linkDozeTimer p | .linkDeepTimer p | .linkWake p | .ignoredSidebandByte p _
  | .portRdata p _ | .tsvmsg p _ _ => decide (p < 1024)
  | .relocationStashWriteDone i _ | .ageTick i | .ageSweepVisit i _ => decide (i < 16)
  | .tableInitDone x | .rebuildZero x | .copydone x => decide (x.inst < 16)
  | .tableEnable r i | .tableDisable r i => r.ok && decide (i < 16)
  | .bootGo r _ => r.ok
  | .imageVerifyDone im _ => im.header.length == 256
  | .mailboxPost r m | .mailboxAnswer r m => r.ok && decide (m < 11)
  | .gateRule m | .gateCommit m | .lockBreak m | .hostSet m | .tsvPlace m | .tsvRing m | .selftest m | .vlogNext m
  | .ready m | .screeLoad m | .screeRestart m | .cairnSet m => decide (m < 11)
  | .ld c | .st c | .ldi c | .amo c | .alu c | .bfx c | .b c | .jal c | .crr c | .crw c | .lcr c | .wfe c | .wfeWake c
  | .mbxSend c | .mbxTake c | .mbxAnswer c | .mbxCollect c | .svcIssue c | .svcResult c | .svcRelease c
  | .svcCancel c | .timer c => decide (c < 9)
  | .movework c s | .ctxread c s | .ctxwrite c s | .evpost c s => decide (c < 9) && decide (s < 4)
  | .islandClkstop i | .islandRetain i | .islandWake i => decide (i < 82)
  | .agingMeasure i _ => decide (i < 82)
  | .logicTest r _ | .memoryTest r _ | .infieldTest r _ => r.ok
  | .pendingScan | .scanBlockReadDone _ | .dispatch | .pacingWake | .xbarDecision | .slotBoundary | .seam
  | .contextSweep | .learn _ | .touch _ | .startupZeroDone | .updateTimeout
  | .owncopyWriteDone _ _ | .railSample _ | .drainEnd | .cairnHostCopyDone | .refclkLoss | .pgoodFall | .brstFall
  | .resetRelease | .selftestDone _ | .testAccessPortTest _ => true

end Sys2Proof
end

