-- ==== Sys2Proof/Certificates/Slice0/Obligations.lean ====
section
/-! DEFINITION. The statements for the provers. Each says what commands do in every state that meets its hypotheses; those that
rest on a choice of the model name it. -/

open Sys2Proof Sys2Proof.Machine

/-- R39, R40: a write of DOORBELL's bytes 0 to 3 alone latches them and does nothing else; a write that includes bytes 4
to 7 puts one doorbell behind those that wait at its intake, where there is room; a function that has been reset and
has not negotiated a level since has its doorbell dropped and counted (R284, R290). R44: where the FIFO is full the
intake presents the compare-and-write of the fold word, or drops the doorbell where there is nothing to fold it into.
A page write ends what its host port's holding register latches (log entry 34). R41 to R43: what DSP does with the
doorbell at the head of an intake's FIFO. -/
def Obligations.Doorbells : Prop :=
  (∀ (s : State) (k fn : Nat) (lo hi : Half),
     s.inReset = false → fn < nFns s → k < 5 →
     let u := if k < 4 then access (.host k fn) s else s
     let c := fld (join32 lo hi) 0 23
     exec (.doorbell k fn (some lo) none) s = .next (modFn fn (fun f => { f with dbLow := lo }) u) ∧
     ((getFn s fn).noBell = true → exec (.doorbell k fn (some lo) (some hi)) s =
       .next (bumpDbdrop k (modFn fn (fun f => { f with dbLow := lo }) u))) ∧
     ((getFn s fn).noBell = false → fifoDepth k ≤ (fifoOf s k).length →
       ∃ t, exec (.doorbell k fn (some lo) (some hi)) s = .next t ∧ durable t = durable s ∧ t.dsp.fifo = s.dsp.fifo ∧
         (chanPresent s c = false ∨ (getFn s fn).level = 0 ∨ drives s = false →
           t.lm = s.lm ∧ t.dsp = { s.dsp with dbdrop := tmod 0 s.dsp.dbdrop k (· + 1) }) ∧
         (chanPresent s c = true → (getFn s fn).level ≠ 0 → drives s = true →
           t.dsp = s.dsp ∧ ∃ r, t.lm = s.lm ++ [r] ∧ r.op = .upd8 ∧ r.addr = foldAddr s c ∧ r.compare = w64 (fn + 0x1000) ∧
             r.cmask = 0x1FFF ∧ r.value = put 64 (bits (join32 lo hi) 40 24 : BitVec 24) 40 ||| (1 : Word) <<< 39 ∧
             r.wmask = 0xFFFFFF8000000000 ∧ r.add = 0 ∧ r.purpose = .fold k c)) ∧
     ((getFn s fn).noBell = false → (fifoOf s k).length < fifoDepth k →
       (∃ t, exec (.doorbell k fn (some lo) (some hi)) s = .next t ∧
         fifoOf t k = fifoOf s k ++ [{ fn := fn, seq := bits (join32 lo hi) 40 24, chan := fld (join32 lo hi) 0 23 }] ∧
         (∀ j, j ≠ k → fifoOf t j = fifoOf s j) ∧ t.dsp.ctx = s.dsp.ctx ∧ t.lm = s.lm ∧ durable t = durable s) ∧
       (∃ t, exec (.doorbell k fn none (some hi)) s = .next t ∧
         fifoOf t k = fifoOf s k ++
           [{ fn := fn, seq := bits (join32 (getFn s fn).dbLow hi) 40 24, chan := fld (join32 (getFn s fn).dbLow hi) 0 23 }] ∧
         t.dsp.ctx = s.dsp.ctx ∧ t.lm = s.lm ∧ durable t = durable s))) ∧
  (∀ (s : State) (k : Nat) (d : Doorbell) (rest : List Doorbell),
     s.inReset = false → s.pf.stage = .normal → tested s islDsp = false → fifoOf s k = d :: rest →
     (∀ w ∈ s.dsp.ctxwr, w.chan ≠ d.chan) →
     ∃ t, exec (.doorbellApply k) s = .next t ∧ fifoOf t k = rest ∧ durable t = durable s ∧
       ((getFn s d.fn).level = 0 ∨ ¬ chanPresent s d.chan ∨ (getCtx s d.chan).ov = false ∨
           (getCtx s d.chan).owner.toNat ≠ d.fn →
         t.dsp.dbdrop = tmod 0 s.dsp.dbdrop k (· + 1) ∧ t.dsp.dbacc = s.dsp.dbacc ∧ t.dsp.dbstale = s.dsp.dbstale ∧
         t.dsp.ctx = s.dsp.ctx) ∧
       ((getFn s d.fn).level ≠ 0 → owns s d.fn d.chan = true → seqAhead d.seq (getCtx s d.chan).seqseen = false →
         t.dsp.dbstale = tmod 0 s.dsp.dbstale k (· + 1) ∧ t.dsp.dbacc = s.dsp.dbacc ∧ t.dsp.dbdrop = s.dsp.dbdrop ∧
         t.dsp.ctx = s.dsp.ctx) ∧
       ((getFn s d.fn).level ≠ 0 → owns s d.fn d.chan = true → seqAhead d.seq (getCtx s d.chan).seqseen = true →
         taskPending s d.chan = false →
         t.dsp.dbacc = tmod 0 s.dsp.dbacc k (· + 1) ∧ t.dsp.dbdrop = s.dsp.dbdrop ∧ t.dsp.dbstale = s.dsp.dbstale ∧
         (getCtx t d.chan).seqseen = d.seq ∧
         (getCtx t d.chan).st =
           (match (getCtx s d.chan).st with
            | .idle => if (getCtx s d.chan).pcv then (if (getCtx s d.chan).pause then .paused else .ready) else .idle
            | .waiting =>
              if (getCtx s d.chan).pacing.isNone && seqCovers d.seq (getCtx s d.chan).seqexp then
                (if (getCtx s d.chan).pause then .paused else .ready)
              else .waiting
            | x => x)))

/-- R54, R204: GO. A refused GO sets GOREF and changes no context; an accepted one clears GOREF and does what the row of
the table says, and READY is PAUSED where PAUSE is 1; a direct move that a context error has left there is over
(R36). One that comes behind a CTXWRITE to the channel which waits for its OWNCOPY write is taken after it (the
model's reading of R27 and R379; log entry 45). The page access ends what its host port's holding register latches
(log entry 34). -/
def Obligations.GoTable : Prop :=
  ∀ (s : State) (fn : Nat), live s = true → fn < nFns s →
    let f := getFn s fn
    let c := f.chsel.toNat
    let x := getCtx s c
    let rest : ChState := if x.pause then .paused else .ready
    let y : Ctx := if x.direct then { x with direct := false, resume := x.resumeProg, resumeProg := false } else x
    (ctxWaits s c = true → exec (.chCtlGo fn) s = .next (putBehind (.go fn f) (access (pageReq fn) s))) ∧
    (ctxWaits s c = false →
    (f.level = 0 ∨ ¬ owns s fn c ∨ s.dsp.qreq = true ∨ ¬ (x.st = .idle ∨ x.st = .stopped) ∨
        (f.direct = false ∧ f.loadpc = true ∧ f.stS.toNat % 8 ≠ 0) ∨ (f.direct = false ∧ f.loadpc = false ∧ x.pcv = false)) →
      ∃ t, exec (.chCtlGo fn) s = .next t ∧ (getFn t fn).goref = true ∧ t.dsp = s.dsp ∧ durable t = durable s) ∧
    (ctxWaits s c = false → f.level ≠ 0 → owns s fn c = true → s.dsp.qreq = false → (x.st = .idle ∨ x.st = .stopped) →
      (f.direct = true →
        ∃ t, exec (.chCtlGo fn) s = .next t ∧ (getFn t fn).goref = false ∧ durable t = durable s ∧
          (∀ j, j ≠ c → getCtx t j = getCtx s j) ∧
          getCtx t c = { y with
            st := rest, go := true, direct := true, ntfy := f.ntfy, resume := false, pacing := none, zeroGo := f.stN == 0
            resumeProg := y.mid && y.resume
            regs := { x.regs with s := f.stS, d := f.stD, n := f.stN, sspace := f.sspace, dspace := f.dspace, sinc := f.sinc,
                                  dinc := f.dinc, swap := f.swap } }) ∧
      (f.direct = false → f.loadpc = true → f.stS.toNat % 8 = 0 →
        ∃ t, exec (.chCtlGo fn) s = .next t ∧ (getFn t fn).goref = false ∧ durable t = durable s ∧
          (∀ j, j ≠ c → getCtx t j = getCtx s j) ∧
          (getCtx t c).st = (if x.pause then .paused else .waiting) ∧ (getCtx t c).pcv = true ∧ (getCtx t c).go = true ∧
          (getCtx t c).regs.pc = f.stS ∧ (getCtx t c).regs.pspace = f.sspace ∧ (getCtx t c).regs.s = x.regs.s ∧
          (getCtx t c).regs.d = x.regs.d ∧ (getCtx t c).regs.n = x.regs.n ∧ (getCtx t c).direct = false ∧
          (getCtx t c).seqexp = bits f.stN 0 24 ∧ (getCtx t c).seqseen = bits f.stN 0 24 - 1) ∧
      (f.direct = false → f.loadpc = false → x.pcv = true →
        ∃ t, exec (.chCtlGo fn) s = .next t ∧ (getFn t fn).goref = false ∧ durable t = durable s ∧
          (∀ j, j ≠ c → getCtx t j = getCtx s j) ∧ getCtx t c = { y with st := rest, go := true }))

/-- R53: PAUSE and ABORT of a page reach only a channel that is present and owned by the function; for any other the
commands change nothing but what the page's holding register latches (log entry 34). R190, R194, R197, R200, R201 for
an owned channel with no abort write-back task, before WARN: what PAUSE 1, PAUSE 0 and ABORT do to its context; an
engine that has met a failure ends with that, and one that clears its island for an in-field test is stopped by that
first (R415). A running engine that loses its pause goes on (R194). The other contexts stay as they were. R59, R60,
R204, R286, R349: a VERSION request is refused, and leaves LEVEL, when the level is above LVLCAP or above 3, when a
channel of the function is not at rest, during a quiesce, during the function's context sweep and before READY; else
it is granted, and doorbells are taken again after a reset (R290). Nothing else changes but what the page's holding
register latches (log entry 34). -/
def Obligations.PageRequests : Prop :=
  (∀ (s : State) (fn : Nat), ¬ owns s fn (getFn s fn).chsel.toNat →
     let t := if live s && decide (fn < nFns s) then access (pageReq fn) s else s
     exec (.chCtlAbort fn) s = .next t ∧ exec (.pauseSet fn) s = .next t ∧ exec (.pauseClear fn) s = .next t) ∧
  (∀ (s : State) (fn : Nat), live s = true → s.pf.stage = .normal → fn < nFns s →
     let c := (getFn s fn).chsel.toNat
     let x := getCtx s c
     owns s fn c = true → taskPending s c = false →
     (∃ t, exec (.pauseSet fn) s = .next t ∧ (getCtx t c).pause = true ∧ durable t = durable s ∧
       (∀ j, j ≠ c → getCtx t j = getCtx s j) ∧
       (getCtx t c).st = (match x.st with
         | .ready | .waiting => .paused
         | y => y) ∧
       (x.st = .ready → ∀ r ∈ t.dsp.ready, r.chan ≠ c)) ∧
     (∃ t, exec (.pauseClear fn) s = .next t ∧ durable t = durable s ∧
       ((∀ e, x.st = .running → engOf s c = some e →
           (getEng s e).stop ≠ .pause ∨ (getEng s e).stopping = true ∨ (getEng s e).forced = true) →
         (getCtx t c).pause = false ∧ (∀ j, j ≠ c → getCtx t j = getCtx s j) ∧
         (getCtx t c).st = (if x.st = .paused then .ready else x.st)) ∧
       (∀ e, x.st = .running → engOf s c = some e →
         (getEng s e).stop = .pause → (getEng s e).stopping = false → (getEng s e).forced = false →
         t = engAfter e (modEng e (fun g => { g with stop := .none })
           (modCtx c (fun x => { x with pause := false }) (cacheUse c true (access (pageReq fn) s)))))) ∧
     ((x.st = .idle ∨ x.st = .stopped) → exec (.chCtlAbort fn) s = .next (access (pageReq fn) s)) ∧
     ((x.st = .ready ∨ x.st = .waiting ∨ x.st = .paused) → midWork s c = false → s.dsp.qreq = false →
       ∃ t, exec (.chCtlAbort fn) s = .next t ∧ durable t = durable s ∧ (getCtx t c).st = .stopped ∧
         (getCtx t c).abort = false ∧ (getCtx t c).direct = false ∧ (getCtx t c).lastcode = 0x30 ∧
         (∀ j, j ≠ c → getCtx t j = getCtx s j)) ∧
     (∀ e, x.st = .running → engOf s c = some e → (getEng s e).stop = .none →
       ∃ t, exec (.chCtlAbort fn) s = .next t ∧ durable t = durable s ∧ (getCtx t c).abort = true ∧
         (getCtx t c).st = .running ∧ (getEng t e).stop = if failSeen (getEng s e) || clearing s e then .none else .abort)) ∧
  (∀ (s : State) (fn : Nat) (l : BitVec 4), live s = true → fn < nFns s →
     ((3 < l.toNat ∨ (getFn s fn).lvlcap.toNat < l.toNat ∨ busyChan s fn = true ∨ s.dsp.qreq = true ∨
         (getFn s fn).sweeping = true ∨ s.ctl.ready = false) →
       exec (.versionRequest fn l) s = .next (modFn fn (fun f => { f with refused := true }) (access (pageReq fn) s))) ∧
     (l.toNat ≤ 3 → l.toNat ≤ (getFn s fn).lvlcap.toNat → busyChan s fn = false → s.dsp.qreq = false →
         (getFn s fn).sweeping = false → s.ctl.ready = true →
       exec (.versionRequest fn l) s =
         .next (modFn fn (fun f => { f with level := l, refused := false, noBell := false }) (access (pageReq fn) s))))

/-- R46: with a summary bit set and no scan in progress, the scan takes the first block: its summary bit is cleared and
its 256 bytes are read. A read that fails sets the summary bit again, behind every other; one that succeeds hands the
block's set bits to the scan, which clears the first with an atomic AND. The AND's answer lets the fold word's FV be
read and cleared; a failure of either leaves the block for a later pass. What FV brings is applied as a doorbell of
its function, and a READY channel that waits for room in the ready store is enqueued or marked again (R172). R44,
R47, R435: the answers to a fold's two accesses. A compare-and-write that fails or is answered with an error drops
the doorbell; one that succeeds writes word 15 and presents the atomic OR of the bitmap bit. The OR's answer marks
the bitmap and the summary and counts the fold, or counts a drop and marks neither. Where no request may leave the
block any more, the doorbell is dropped in place of the OR (R398, R399; log entry 72). -/
def Obligations.PendingDoorbells : Prop :=
  ((∀ (s : State) (b : Nat) (rest : List Nat), s.inReset = false → mayRead s = true → tested s islDsp = false →
     s.dsp.scan = none → s.dsp.summary = b :: rest →
     ∃ t, exec .pendingScan s = .next t ∧ durable t = durable s ∧
       t.dsp = { s.dsp with summary := rest, scan := some { blk := b, chans := [] } } ∧
       ∃ r, t.lm = s.lm ++ [r] ∧ r.op = .read ∧ r.len = 256 ∧ r.purpose = .scanBlock b ∧
         r.addr = w64 (s.dsp.psbase.toNat / 4096 * 4096 + b * 256)) ∧
   (∀ (s : State) (r : LmReq) (x : Scan) (resp : MResp), s.inReset = false → mayRead s = true →
     tested s islDsp = false → s.dsp.scan = some x → scanRead s = some r →
     (resp ≠ .ok → ∃ t, exec (.scanBlockReadDone resp) s = .next t ∧ durable t = durable s ∧
       t.dsp = { s.dsp with scan := none, summary := s.dsp.summary.filter (· != x.blk) ++ [x.blk] }) ∧
     (∀ c cs, s.dsp.bitmap.filter (fun c => bitmapBlock c == x.blk) = c :: cs →
       ∃ t, exec (.scanBlockReadDone .ok) s = .next t ∧ durable t = durable s ∧
         t.dsp = { s.dsp with scan := some { x with chans := cs } } ∧
         ∃ q ∈ t.lm, q.op = .upd8 ∧ q.addr = bitmapAddr s c ∧ q.wmask = bitmapBit c ∧ q.value = 0 ∧ q.cmask = 0)) ∧
   (∀ (s : State) (n tag c : Nat) (resp : MResp) (old : Word) (r : LmReq), s.inReset = false → mayRead s = true →
     tested s (islLmp n) = false → tested s islDsp = false → lmFind s n tag = some r → r.op = .upd8 →
     ((r.purpose = .scanAnd c ∨ r.purpose = .scanFv c) → resp ≠ .ok →
       ∃ t, exec (.lmUpd8Response n tag resp old) s = .next t ∧ durable t = durable s ∧ bitmapBlock c ∈ t.dsp.summary) ∧
     (r.purpose = .scanAnd c → resp = .ok → ∃ t, exec (.lmUpd8Response n tag resp old) s = .next t ∧ durable t = durable s ∧
       t.dsp = { s.dsp with bitmap := setDel c s.dsp.bitmap } ∧
       ∃ q ∈ t.lm, q.op = .upd8 ∧ q.addr = foldAddr s c ∧ q.wmask = (1 : Word) <<< 39 ∧ q.value = 0 ∧ q.cmask = 0 ∧ q.add = 0 ∧
         q.purpose = .scanFv c) ∧
     (r.purpose = .scanFv c → resp = .ok →
       let u := modCtx c (fun x => { x with fold := upd8 old r.compare r.cmask r.value r.wmask r.add }) (lmRetire r.port r.tag s)
       let v := if bit old 39 then
           (if ctxWaits u c then putBehind (.bell (fld old 0 12) c (bits old 40 24)) u
            else applyDoorbell (hptOf (fld old 0 12)) (fld old 0 12) (bits old 40 24) c u) else u
       let w := if readyUnqueued u c && readyUnqueued v c then
           (if v.dsp.ready.length < 65536 then enqueue c v else bitmapOr c (.ovfOr c) v) else v
       exec (.lmUpd8Response n tag resp old) s = .next (barrierStep (scanNext w)) ∧ durable w = durable s))) ∧
  (∀ (s : State) (n tag k c : Nat) (resp : MResp) (old : Word) (r : LmReq), s.inReset = false →
     tested s (islLmp n) = false → tested s islDsp = false → lmFind s n tag = some r → r.op = .upd8 →
     (r.purpose = .fold k c →
       (resp ≠ .ok ∨ old &&& r.cmask ≠ r.compare &&& r.cmask →
         ∃ t, exec (.lmUpd8Response n tag resp old) s = .next t ∧ durable t = durable s ∧
           t.dsp = { s.dsp with dbdrop := tmod 0 s.dsp.dbdrop k (· + 1) }) ∧
       (resp = .ok → old &&& r.cmask = r.compare &&& r.cmask →
         ∃ t, exec (.lmUpd8Response n tag resp old) s = .next t ∧ durable t = durable s ∧
           (getCtx t c).fold = upd8 old r.compare r.cmask r.value r.wmask r.add ∧ t.dsp.dbfold = s.dsp.dbfold ∧
           (drives s = true → t.dsp.dbdrop = s.dsp.dbdrop ∧
             ∃ q ∈ t.lm, q.op = .upd8 ∧ q.addr = bitmapAddr s c ∧ q.value = bitmapBit c ∧ q.wmask = bitmapBit c) ∧
           (drives s = false → t.dsp.dbdrop = tmod 0 s.dsp.dbdrop k (· + 1)))) ∧
     (r.purpose = .foldOr k c →
       (resp ≠ .ok → ∃ t, exec (.lmUpd8Response n tag resp old) s = .next t ∧ durable t = durable s ∧
         t.dsp = { s.dsp with dbdrop := tmod 0 s.dsp.dbdrop k (· + 1) }) ∧
       (resp = .ok → ∃ t, exec (.lmUpd8Response n tag resp old) s = .next t ∧ durable t = durable s ∧
         t.dsp.dbfold = tmod 0 s.dsp.dbfold k (· + 1) ∧ t.dsp.dbdrop = s.dsp.dbdrop ∧
         t.dsp.bitmap = setAdd c s.dsp.bitmap ∧ bitmapBlock c ∈ t.dsp.summary)))

/-- R77, R78: LDS and LDD set a register and its space by FORM: OPD zero-extended, the second word, the register plus OPD
sign-extended, or a K register; they retire with their length, and a FORM 1 whose second word is no program word
fails with status 0x13, a reserved bit with 0x12. R78, R79: LDN takes N from OPD[31:0] or from a K register whose
upper half is 0; LDK takes a K register from OPD, the second word, the register plus OPD, or S, D, N or a K register;
a reserved FORM, a reserved bit, and a K register with an upper half fail with ILLEGAL_OP. Arming a pacing word that
differs makes the pacing state FLOWING (R181), on a speculative run once it is accepted. -/
def Obligations.RegisterLoads : Prop :=
  (∀ (s : State) (e : Nat) (w : Word),
     let r := (thr s e).regs
     let f := fld w 52 2
     let good := fld w 54 2 = 0 ∧ (f = 1 → fld w 0 48 = 0) ∧ (f = 3 → fld w 2 46 = 0)
     let value (cur : Word) : Word :=
       if f = 0 then w64 (fld w 0 48) else if f = 1 then nextWord s e else if f = 2 then cur + sext 48 w else getK r (fld w 0 2)
     (due s e 0x10 = .run w →
       (good → (f = 1 → straddles s e = false) →
         exec (.lds e) s = .next (engAfter e (retire e (if f = 1 then 2 else 1)
           (modRegs e (fun x => { x with s := value r.s, sspace := bits w 48 4 }) s)))) ∧
       (good → f = 1 → straddles s e = true → exec (.lds e) s = .next (engAfter e (failInstr e 0x13 s))) ∧
       (¬ good → exec (.lds e) s = .next (engAfter e (failInstr e 0x12 s)))) ∧
     (due s e 0x11 = .run w →
       (good → (f = 1 → straddles s e = false) →
         exec (.ldd e) s = .next (engAfter e (retire e (if f = 1 then 2 else 1)
           (modRegs e (fun x => { x with d := value r.d, dspace := bits w 48 4 }) s)))) ∧
       (good → f = 1 → straddles s e = true → exec (.ldd e) s = .next (engAfter e (failInstr e 0x13 s))) ∧
       (¬ good → exec (.ldd e) s = .next (engAfter e (failInstr e 0x12 s))))) ∧
  (∀ (s : State) (e : Nat) (w : Word),
     let r := (thr s e).regs
     let f := fld w 52 2
     (due s e 0x12 = .run w →
       let k := getK r (fld w 0 2)
       let good := fld w 48 4 = 0 ∧ fld w 54 2 = 0 ∧ (f = 0 ∧ fld w 32 16 = 0 ∨ f = 3 ∧ fld w 2 46 = 0 ∧ fld k 32 32 = 0)
       (good → exec (.ldn e) s =
         .next (engAfter e (retire e 1 (modRegs e (fun x => { x with n := if f = 0 then bits w 0 32 else bits k 0 32 }) s)))) ∧
       (¬ good → exec (.ldn e) s = .next (engAfter e (failInstr e 0x12 s)))) ∧
     (due s e 0x13 = .run w →
       let d := fld w 48 2
       let good := fld w 50 2 = 0 ∧ fld w 54 2 = 0 ∧ (f = 1 → fld w 0 48 = 0) ∧ (f = 3 → fld w 3 45 = 0 ∧ fld w 0 3 ≠ 3)
       let ldk (len : Nat) (v : Word) : State :=
         engAfter e (retire e len (modRegs e (fun x => setK x d v)
           (if !(d == 3 && paceOn v && v != r.k3) then s
            else if onSpec s e then modThr e (fun t => { t with rearmed := true }) s
            else modEng e (fun x => { x with held := false }) s)))
       (good → f = 0 → exec (.ldk e) s = .next (ldk 1 (w64 (fld w 0 48)))) ∧
       (good → f = 1 → straddles s e = false → exec (.ldk e) s = .next (ldk 2 (nextWord s e))) ∧
       (good → f = 1 → straddles s e = true → exec (.ldk e) s = .next (engAfter e (failInstr e 0x13 s))) ∧
       (good → f = 2 → exec (.ldk e) s = .next (ldk 1 (getK r d + sext 48 w))) ∧
       (good → f = 3 → exec (.ldk e) s = .next (ldk 1
         (match fld w 0 3 with
          | 0 => r.s | 1 => r.d | 2 => r.n.zeroExtend 64 | n => getK r (n - 4)))) ∧
       (¬ good → exec (.ldk e) s = .next (engAfter e (failInstr e 0x12 s)))))

/-- R80, R81, R108 to R113, R127: MOVE takes SINC, DINC and SWAP from its word and begins where the checks pass, with the
source, the destination and the count of the thread; it ends with the first failing check's status where they do not.
A word with a reserved bit, or NOSPEC below level 3, ends with 0x12. R83, R108 to R113, R127: a word with a reserved
bit ends the MOVL and writes nothing. Otherwise the word's SINC, DINC and SWAP are taken into the registers: SCAT
names the destination as the list side, which is incrementing, and CINC is the contiguous side's; that they stand
before the checks is the model's reading (log entry 67). MOVL then begins where the checks pass, from S, D, N, K0 and
K1 as they stand, or retires at once where N is 0, and ends with the first failing check's status where they do not.
-/
def Obligations.MovesBegin : Prop :=
  (∀ (s : State) (e : Nat) (w : Word), due s e 0x20 = .run w →
     let s1 := modRegs e (fun r => { r with sinc := bit w 48, dinc := bit w 49, swap := bits w 50 2 }) s
     let r := { (thr s e).regs with sinc := bit w 48, dinc := bit w 49, swap := bits w 50 2 }
     (fld w 0 48 ≠ 0 ∨ (bit w 54 = true ∧ lvlOf s e < 3) → exec (.move e) s = .next (engAfter e (failInstr e 0x12 s))) ∧
     (fld w 0 48 = 0 → (bit w 54 = true → 3 ≤ lvlOf s e) →
       (∀ code, moveCheck s1 e r = some code → exec (.move e) s = .next (engAfter e (failInstr e code s1))) ∧
       (moveCheck s1 e r = none →
         exec (.move e) s = .next (engAfter e (beginMove e
           { n0 := r.n.toNat, s0 := r.s, d0 := r.d, sinc := bit w 48, dinc := bit w 49, swap := bits w 50 2, sspace := r.sspace,
             dspace := r.dspace, ord := bits w 52 2, nospec := bit w 54, brkb := bit w 55 } s1))))) ∧
  (∀ (s : State) (e : Nat) (w : Word), due s e 0x21 = .run w →
     let scat := bit w 48
     let s1 := modRegs e (fun r => { r with
       sinc := if scat then bit w 49 else true, dinc := if scat then true else bit w 49, swap := bits w 50 2 }) s
     let r := (thr s1 e).regs
     r = { (thr s e).regs with
       sinc := if scat then bit w 49 else true, dinc := if scat then true else bit w 49, swap := bits w 50 2 } ∧
     (fld w 0 48 ≠ 0 → exec (.movl e) s = .next (engAfter e (failInstr e 0x12 s))) ∧
     (fld w 0 48 = 0 →
       (∀ code, movlCheck s1 e r scat (bits w 52 4) = some code →
         exec (.movl e) s = .next (engAfter e (failInstr e code s1))) ∧
       (movlCheck s1 e r scat (bits w 52 4) = none → r.n = 0 → exec (.movl e) s = .next (engAfter e (retire e 1 s1))) ∧
       (movlCheck s1 e r scat (bits w 52 4) = none → r.n ≠ 0 →
         exec (.movl e) s = .next (engAfter e (beginMove e
           { n0 := r.n.toNat, s0 := r.s, d0 := r.d, sinc := r.sinc, dinc := r.dinc, swap := r.swap, sspace := r.sspace,
             dspace := r.dspace, list := some (newList r scat (bits w 52 4)) } s1)))))

/-- R86, R87, R180, R181: WAITF writes its pacing word to K3, DIS clearing it; the pacing state starts from FLOWING where
the word is new. FLOWING retires, HELD holds the engine at the instruction. It is illegal in movement work. R89, R91:
FENCE without W only retires, with R = 1 too (the model's choice; log entry 77); with W the engine waits at it until
its writes are confirmed. BRK marks a break point and retires. -/
def Obligations.PacesAndFences : Prop :=
  (∀ (s : State) (e : Nat) (w : Word), due s e 0x30 = .run w →
     let k := pacingWord w
     let old := (getEng s e).main.regs.k3
     let held := if k = old then (getEng s e).held else false
     let s1 := modEng e (fun x => { x with held := held, main := { x.main with regs := { x.main.regs with k3 := k } } }) s
     ((isWork s e = true ∨ waitfOk s w = false) → exec (.waitf e) s = .next (engAfter e (failInstr e 0x12 s))) ∧
     (isWork s e = false → waitfOk s w = true →
       (paceEval s k held = false →
         exec (.waitf e) s = .next (engAfter e (retire e 1 (modEng e (fun x => { x with held := false }) s1)))) ∧
       (paceEval s k held = true →
         exec (.waitf e) s = .next (engAfter e (modEng e (fun x => { x with
           held := true, holdAt := s.time, main := { x.main with phase := .hold } }) s1))))) ∧
  (∀ (s : State) (e : Nat) (w : Word),
     (due s e 0x31 = .run w →
       let bad := fld w 0 48 ≠ 0 ∨ fld w 50 6 ≠ 0 ∨ (bit w 49 = true ∧ lvlOf s e < 3)
       (bad → exec (.fence e) s = .next (engAfter e (failInstr e 0x12 s))) ∧
       (¬ bad → bit w 48 = false → exec (.fence e) s = .next (engAfter e (retire e 1 s))) ∧
       (¬ bad → bit w 48 = true → exec (.fence e) s =
         .next (engAfter e (modMain e (fun t => { t with phase := .fence, fenceR := bit w 49, flushedPorts := [] }) s)))) ∧
     (due s e 0x33 = .run w →
       (fld w 0 56 ≠ 0 → exec (.brk e) s = .next (engAfter e (failInstr e 0x12 s))) ∧
       (fld w 0 56 = 0 → exec (.brk e) s = .next (engAfter e (retire e 1 (xbreak e s))))))

/-- R90: NOTIFY writes eight bytes to the address in a K register: the status so far, the second word, or a K register.
It fails, without an access, on a reserved bit or a space that is no list space (ILLEGAL_OP), on a second word that
is no program word (BAD_DESC) and on an address that is no multiple of 8 (MISALIGNED); a denied write is GATE_DENIED.
-/
def Obligations.NotifyWrites : Prop :=
  ∀ (s : State) (e : Nat) (w : Word), due s e 0x32 = .run w →
    let f := fld w 52 2
    let a := getK (thr s e).regs (fld w 0 2)
    let sp : BitVec 4 := bits w 48 4
    let bad := fld w 4 44 ≠ 0 ∨ fld w 54 2 ≠ 0 ∨ f = 3
    let req : WrReq := { who := whoOf s e, space := sp, addr := a, data := bytesOf (notifyValue s e w) 8, purpose := .notify e }
    (bad → exec (.notify e) s = .next (engAfter e (failInstr e 0x12 s))) ∧
    (¬ bad → f = 1 → straddles s e = true → exec (.notify e) s = .next (engAfter e (failInstr e 0x13 s))) ∧
    (¬ bad → (f = 1 → straddles s e = false) →
      (listSpaceOk s sp = false → exec (.notify e) s = .next (engAfter e (failInstr e 0x12 s))) ∧
      (listSpaceOk s sp = true → aligned a 8 = false → exec (.notify e) s = .next (engAfter e (failInstr e 0x10 s))) ∧
      (listSpaceOk s sp = true → aligned a 8 = true →
        (∀ u, engWrite e req s = (.denied, u) → exec (.notify e) s = .next (engAfter e (failInstr e 0x20 u))) ∧
        (∀ u, engWrite e req s = (.go, u) →
          exec (.notify e) s =
            .next (engAfter e (retire e (if f = 1 then 2 else 1) (modMain e (fun t => { t with accessed := true, flushedPorts := [] }) u)))) ∧
        (mayIssue s = true → sp ≠ 5 → sp ≠ 6 → passes s (whoOf s e) sp a 8 .wr = true → exec (.notify e) s =
          .next (engAfter e (retire e (if f = 1 then 2 else 1)
            (modMain e (fun t => { t with accessed := true, flushedPorts := [] }) (engWrite e req s).2))))))

/-- R92, R93, R206, R208, R209, R434: ATOM, LOCK and UNLK check their word (ILLEGAL_OP for a reserved bit, a lease
outside R94, and LOCK or UNLK in movement work), then the address (MISALIGNED, WINDOW), then the gate (GATE_DENIED),
and wait for the answer of one UPD8: ADD or compare-and-swap; an acquired entry with its lease, a renewed one before
the access; a release, whose entry is freed where the gate denies the access. A lock that is not this channel's is
only read. R92, R93, R206, R208, R209, R434: an ATOM, LOCK or UNLK whose checks hold and whose gate gives the right
to read and write presents its one update and waits; the answer retires it: ATOM with the old value in K(RD) and Z
and C of the sum or the comparison, LOCK with Z = 1 where the lock is the channel's (and B set where the word showed
it broken or held), Z = 0 where it is another's; UNLK with Z = 1 and the entry freed, or Z = 0 where the channel held
none. -/
def Obligations.AtomicInstructions : Prop :=
  (∀ (s : State) (e : Nat) (w : Word),
     let r := (thr s e).regs
     let a := getK r (fld w 0 2)
     let c := chanOf s e
     let waits (u : State) : State := engAfter e (modMain e (fun t => { t with phase := .atomic, accessed := true }) u)
     let fails (code : Byte) (u : State) : State := engAfter e (failInstr e code u)
     (due s e 0x40 = .run w →
       (fld w 8 40 ≠ 0 ∨ fld w 49 7 ≠ 0 ∨ (bit w 48 = true ∧ fld w 4 2 ≠ 0) → exec (.atom e) s = .next (fails 0x12 s)) ∧
       (fld w 8 40 = 0 → fld w 49 7 = 0 → (bit w 48 = true → fld w 4 2 = 0) →
         (∀ code, lockAddr s e a = some code → exec (.atom e) s = .next (fails code s)) ∧
         (lockAddr s e a = none →
           (bit w 48 = true → ∀ u,
             (engUpd8 e a 0 0 0 0 (getK r (fld w 2 2)) (.atom e) s = (.go, u) → exec (.atom e) s = .next (waits u)) ∧
             (engUpd8 e a 0 0 0 0 (getK r (fld w 2 2)) (.atom e) s = (.denied, u) → exec (.atom e) s = .next (fails 0x20 u))) ∧
           (bit w 48 = false → ∀ u,
             (engUpd8 e a (getK r (fld w 2 2)) 0xFFFFFFFFFFFFFFFF (getK r (fld w 4 2)) 0xFFFFFFFFFFFFFFFF 0 (.atom e) s = (.go, u) →
               exec (.atom e) s = .next (waits u)) ∧
             (engUpd8 e a (getK r (fld w 2 2)) 0xFFFFFFFFFFFFFFFF (getK r (fld w 4 2)) 0xFFFFFFFFFFFFFFFF 0 (.atom e) s =
               (.denied, u) → exec (.atom e) s = .next (fails 0x20 u)))))) ∧
     (due s e 0x41 = .run w →
       (isWork s e = true ∨ fld w 2 30 ≠ 0 ∨ fld w 44 12 ≠ 0 ∨ leaseOf w = none → exec (.lock e) s = .next (fails 0x12 s)) ∧
       (isWork s e = false → fld w 2 30 = 0 → fld w 44 12 = 0 → ∀ lease, leaseOf w = some lease →
         (∀ code, lockAddr s e a = some code → exec (.lock e) s = .next (fails code s)) ∧
         (lockAddr s e a = none →
           (lockAt s a = none → s.lock.entries.length < 4096 → ∀ u,
             (engUpd8 e a 0 0 (lockOwn s e) lockMask 0x0001000000000000 (.lockTake e) s = (.go, u) →
               exec (.lock e) s = .next (waits (modLock (fun l => { l with
                 entries := l.entries ++ [{ addr := a, chan := c, fn := fnOf s e, expiry := s.time + w64 lease }] }) u))) ∧
             (engUpd8 e a 0 0 (lockOwn s e) lockMask 0x0001000000000000 (.lockTake e) s = (.denied, u) →
               exec (.lock e) s = .next (fails 0x20 u))) ∧
           (lockAt s a = none → 4096 ≤ s.lock.entries.length →
             exec (.lock e) s = .next (fails 0x14 (modLock (fun l => { l with full := inc32 l.full }) s))) ∧
           (∀ y, lockAt s a = some y → y.chan = c → y.releasing = false → ∀ u,
             let s' := modLock (fun l => { l with
               entries := l.entries.map (fun z => if z.addr == a then { z with expiry := s.time + w64 lease } else z) }) s
             (engUpd8 e a 0 0 (lockOwn s e) lockMask 0 (.lockRenew e) s' = (.go, u) → exec (.lock e) s = .next (waits u)) ∧
             (engUpd8 e a 0 0 (lockOwn s e) lockMask 0 (.lockRenew e) s' = (.denied, u) → exec (.lock e) s = .next (fails 0x20 u))) ∧
           (∀ y, lockAt s a = some y → (y.chan ≠ c ∨ y.releasing = true) → ∀ u,
             (engUpd8 e a 0 0 0 0 0 (.lockBusy e) s = (.go, u) → exec (.lock e) s = .next (waits u)) ∧
             (engUpd8 e a 0 0 0 0 0 (.lockBusy e) s = (.denied, u) → exec (.lock e) s = .next (fails 0x20 u)))))) ∧
     (due s e 0x42 = .run w →
       (isWork s e = true ∨ fld w 2 54 ≠ 0 → exec (.unlk e) s = .next (fails 0x12 s)) ∧
       (isWork s e = false → fld w 2 54 = 0 →
         (∀ code, lockAddr s e a = some code → exec (.unlk e) s = .next (fails code s)) ∧
         (lockAddr s e a = none →
           ((∀ x ∈ s.lock.entries, x.addr = a → x.chan = c → x.releasing = true) → ∀ u,
             (engUpd8 e a 0 0 0 0 0 (.unlkNone e) s = (.go, u) → exec (.unlk e) s = .next (waits u)) ∧
             (engUpd8 e a 0 0 0 0 0 (.unlkNone e) s = (.denied, u) → exec (.unlk e) s = .next (fails 0x20 u))) ∧
           ((∃ x ∈ s.lock.entries, x.addr = a ∧ x.chan = c ∧ x.releasing = false) → ∀ u,
             (engUpd8 e a 0 0 0 ((1 : Word) <<< 40) 0 (.unlkRelease e) s = (.go, u) →
               exec (.unlk e) s = .next (waits (modLock (fun l => { l with
                 entries := l.entries.map (fun z => if z.addr == a then { z with releasing := true } else z)
                 waiting := l.waiting.filter (fun z => z.addr != a) }) u))) ∧
             (engUpd8 e a 0 0 0 ((1 : Word) <<< 40) 0 (.unlkRelease e) s = (.denied, u) → exec (.unlk e) s = .next (fails 0x20 (lockFree a u)))))))) ∧
  (∀ (s : State) (e : Nat) (w old : Word) (q : LmReq),
     let r := (thr s e).regs
     let a := getK r (fld w 0 2)
     let c := chanOf s e
     let waits (u : State) : State := engAfter e (modMain e (fun t => { t with phase := .atomic, accessed := true }) u)
     let y := getK (thr s e).regs (fld (wordHere s e) 2 2)
     let retired (f : Regs → Regs) (u : State) : State := retire e 1 (modMain e (fun t => { t with regs := f t.regs }) u)
     (mayIssue s = true → lockAddr s e a = none → passes s (whoOf s e) 0 a 8 .both = true →
       (due s e 0x40 = .run w → fld w 8 40 = 0 → fld w 49 7 = 0 →
         (bit w 48 = true → fld w 4 2 = 0 →
           exec (.atom e) s = .next (waits (engUpd8 e a 0 0 0 0 (getK r (fld w 2 2)) (.atom e) s).2)) ∧
         (bit w 48 = false → exec (.atom e) s = .next (waits
           (engUpd8 e a (getK r (fld w 2 2)) 0xFFFFFFFFFFFFFFFF (getK r (fld w 4 2)) 0xFFFFFFFFFFFFFFFF 0 (.atom e) s).2))) ∧
       (due s e 0x41 = .run w → isWork s e = false → fld w 2 30 = 0 → fld w 44 12 = 0 → ∀ lease, leaseOf w = some lease →
         (lockAt s a = none → s.lock.entries.length < 4096 →
           exec (.lock e) s = .next (waits (modLock (fun l => { l with
             entries := l.entries ++ [{ addr := a, chan := c, fn := fnOf s e, expiry := s.time + w64 lease }] })
             (engUpd8 e a 0 0 (lockOwn s e) lockMask 0x0001000000000000 (.lockTake e) s).2))) ∧
         (∀ x, lockAt s a = some x → x.chan = c → x.releasing = false →
           exec (.lock e) s = .next (waits (engUpd8 e a 0 0 (lockOwn s e) lockMask 0 (.lockRenew e) (modLock (fun l => { l with
             entries := l.entries.map (fun z => if z.addr == a then { z with expiry := s.time + w64 lease } else z) }) s)).2)) ∧
         (∀ x, lockAt s a = some x → x.chan ≠ c ∨ x.releasing = true →
           exec (.lock e) s = .next (waits (engUpd8 e a 0 0 0 0 0 (.lockBusy e) s).2))) ∧
       (due s e 0x42 = .run w → isWork s e = false → fld w 2 54 = 0 →
         ((∀ x ∈ s.lock.entries, x.addr = a → x.chan = c → x.releasing = true) →
           exec (.unlk e) s = .next (waits (engUpd8 e a 0 0 0 0 0 (.unlkNone e) s).2)) ∧
         ((∃ x ∈ s.lock.entries, x.addr = a ∧ x.chan = c ∧ x.releasing = false) →
           exec (.unlk e) s = .next (waits (modLock (fun l => { l with
             entries := l.entries.map (fun z => if z.addr == a then { z with releasing := true } else z)
             waiting := l.waiting.filter (fun z => z.addr != a) })
             (engUpd8 e a 0 0 0 ((1 : Word) <<< 40) 0 (.unlkRelease e) s).2))))) ∧
     (q.purpose = .lockTake e → engUpd8Ends q e .ok old s =
       retired (fun x => { x with z := true, b := x.b || bit old 40 || bit old 41 }) s) ∧
     (q.purpose = .lockRenew e → engUpd8Ends q e .ok old s = retired (fun x => { x with z := true }) s) ∧
     (q.purpose = .lockBusy e ∨ q.purpose = .unlkNone e → engUpd8Ends q e .ok old s = retired (fun x => { x with z := false }) s) ∧
     (q.purpose = .unlkRelease e → engUpd8Ends q e .ok old s = retired (fun x => { x with z := true }) (lockFree q.addr s)) ∧
     (q.purpose = .atom e → onSpec s e = false → ∃ f, engUpd8Ends q e .ok old s = retired f s ∧
       getK (f r) (fld (wordHere s e) 6 2) = old ∧
       (∀ k, k < 4 → k ≠ fld (wordHere s e) 6 2 → getK (f r) k = getK r k) ∧
       (bit (wordHere s e) 48 = true → (f r).z = (old + y == 0) ∧ (f r).c = decide (2 ^ 64 ≤ old.toNat + y.toNat)) ∧
       (bit (wordHere s e) 48 = false → (f r).z = (old == y) ∧ (f r).c = false)))

/-- R96, R97: BR takes its branch on the condition that COND names, at PC := A + 8·TARGET with no register but PC (and
K(KSEL) for DECNZ) changed; a branch that is not taken retires. A TARGET of 0 or 7 or above the program length, a
reserved condition or bit fails with ILLEGAL_OP. -/
def Obligations.Branches : Prop :=
  ∀ (s : State) (e : Nat) (w : Word), due s e 0x50 = .run w →
    let r := (thr s e).regs
    let c := fld w 48 4
    let k := getK r (fld w 4 2)
    let target := fld w 0 3
    let good := fld w 3 1 = 0 ∧ fld w 6 42 = 0 ∧ fld w 52 4 = 0 ∧ c < 13 ∧ target ≠ 0 ∧ target ≠ 7 ∧
      target ≤ progLen (lvlOf s e) (thr s e).words ∧ (isWork s e = true → c < 10)
    let taken := c = 0 ∨ (c = 1 ∧ r.z = true) ∨ (c = 2 ∧ r.z = false) ∨ (c = 3 ∧ r.c = true) ∨ (c = 4 ∧ r.c = false) ∨
      (c = 5 ∧ r.b = true) ∨ (c = 6 ∧ r.b = false) ∨ (c = 7 ∧ k = 0) ∨ (c = 8 ∧ k ≠ 0) ∨ (c = 9 ∧ k - 1 ≠ 0) ∨
      (c = 10 ∧ onSpec s e = false ∧ (thr s e).resumed = true) ∨ (c = 11 ∧ lastOk s e = true) ∨ (c = 12 ∧ lastOk s e = false)
    let s1 := if c = 9 then modRegs e (fun x => setK x (fld w 4 2) (getK x (fld w 4 2) - 1)) s else s
    (good → taken →
      exec (.br e) s = .next (engAfter e (modRegs e (fun x => { x with pc := (thr s e).a + w64 (8 * target) }) s1))) ∧
    (good → ¬ taken → exec (.br e) s = .next (engAfter e (retire e 1 s1))) ∧
    (¬ good → exec (.br e) s = .next (engAfter e (failInstr e 0x12 s)))

/-- R98: LINK ends the descriptor at the address of its second word or of K(KL), in SPACE; R99: END ends it behind
itself. On a thread whose ownership is confirmed the descriptor completes with what R74 gives: DONE, or DONE_EMPTY
where the program made no access. A reserved bit, a space that holds no lists and, for LINK, movement work fail with
ILLEGAL_OP, a second word that is no program word with BAD_DESCRIPTOR, and an address that is no multiple of 64 with
MISALIGNED. -/
def Obligations.EndsOfPrograms : Prop :=
  ∀ (s : State) (e : Nat) (w : Word),
    let imm := bit w 52 = false
    let a := if imm then nextWord s e else getK (thr s e).regs (fld w 0 2)
    let sp : BitVec 4 := bits w 48 4
    let good := isWork s e = false ∧ fld w 2 46 = 0 ∧ fld w 53 3 = 0 ∧ (imm → fld w 0 2 = 0)
    (due s e 0x51 = .run w →
      (¬ good → exec (.link e) s = .next (engAfter e (failInstr e 0x12 s))) ∧
      (good → imm → straddles s e = true → exec (.link e) s = .next (engAfter e (failInstr e 0x13 s))) ∧
      (good → (imm → straddles s e = false) →
        (listSpaceOk s sp = false → exec (.link e) s = .next (engAfter e (failInstr e 0x12 s))) ∧
        (listSpaceOk s sp = true → aligned a 64 = false → exec (.link e) s = .next (engAfter e (failInstr e 0x10 s))) ∧
        (listSpaceOk s sp = true → aligned a 64 = true → onSpec s e = false →
          exec (.link e) s = .next (engAfter e (beginComplete e
            (if ((getEng (discardPath e a sp s) e).main.accessed || (getEng (discardPath e a sp s) e).main.resumed) = true then 0 else 1)
            (a, sp) (discardPath e a sp s)))) ∧
        (listSpaceOk s sp = true → aligned a 64 = true → onSpec s e = true →
          exec (.link e) s = .next (engAfter e
            (modThr e (fun t => { t with phase := .complete, regs := { t.regs with pc := a, pspace := sp } }) s))))) ∧
    (due s e 0x5F = .run w →
      (fld w 0 56 ≠ 0 → exec (.endd e) s = .next (engAfter e (failInstr e 0x12 s))) ∧
      (fld w 0 56 = 0 → onSpec s e = false → exec (.endd e) s = .next (engAfter e (endDescr e
        (if ((getEng s e).main.accessed || (getEng s e).main.resumed) = true then 0 else 1) s))) ∧
      (fld w 0 56 = 0 → onSpec s e = true → exec (.endd e) s = .next (engAfter e (modThr e (fun t => { t with
        phase := .complete, regs := { t.regs with pc := t.a + w64 (descSize (lvlOf s e)), pspace := t.aspace } }) s))))

/-- R100, R101: a table instruction that passes its checks is handed to TSV, and its engine waits; one that breaks a
check, or names an instance that is not configured or not its function's, fails with ILLEGAL_OP. TDEL and TAGE take
the identifier from K0[31:0]; TEPO's TOP chooses READ, BEGIN or ARM. An operation on a bucket with a relocation or a
write in progress waits (R323), and so does one whose way to TSV a freeze closes (R235). R101, R327: TINS and TMOV
read 32 bytes at S first (behind an earlier host read of the engine that still waits to leave, R274), and hand them
to TSV once they are in hand and the bucket is free. -/
def Obligations.TableInstructions : Prop :=
  (∀ (s : State) (e : Nat) (w : Word) (rd : MResp),
     let i := fld w 0 4
     let id : Half := bits (thr s e).regs.k0 0 32
     let ok := fld w 4 44 = 0 ∧ fld w 50 6 = 0 ∧ tabAllowed s e i = true
     let u := wakeIsl islTsv (xEng e 0 (modMain e (fun t => { t with phase := .table, accessed := true, answer := none }) s))
     (due s e 0x61 = .run w →
       (¬ (ok ∧ fld w 48 2 = 0 ∧ idFits (getInst s i) id = true) → exec (.tdel e rd) s = .next (engAfter e (failInstr e 0x12 s))) ∧
       (ok → fld w 48 2 = 0 → idFits (getInst s i) id = true → bucketBusy s i id = false → tabWay s e = true →
         exec (.tdel e rd) s = .next (engAfter e (opFound rd e i id (fun _ => {}) u))) ∧
       (ok → fld w 48 2 = 0 → idFits (getInst s i) id = true → bucketBusy s i id = true ∨ tabWay s e = false →
         exec (.tdel e rd) s = .next (engAfter e s))) ∧
     (due s e 0x63 = .run w →
       (¬ (ok ∧ fld w 48 2 = 0 ∧ idFits (getInst s i) id = true) → exec (.tage e rd) s = .next (engAfter e (failInstr e 0x12 s))) ∧
       (ok → fld w 48 2 = 0 → idFits (getInst s i) id = true → bucketBusy s i id = false → tabWay s e = true →
         exec (.tage e rd) s = .next (engAfter e (opFound rd e i id (touched (getInst s i).agecnt) u))) ∧
       (ok → fld w 48 2 = 0 → idFits (getInst s i) id = true → bucketBusy s i id = true ∨ tabWay s e = false →
         exec (.tage e rd) s = .next (engAfter e s))) ∧
     (due s e 0x64 = .run w →
       (¬ ok ∨ fld w 48 2 = 3 → exec (.tepoRead e) s = .next (engAfter e (failInstr e 0x12 s))) ∧
       (ok → fld w 48 2 = 0 → tabWay s e = true → exec (.tepoRead e) s = .next (engAfter e (opRead e i u))) ∧
       (ok → fld w 48 2 = 1 → tabWay s e = true → exec (.tepoBegin e) s = .next (engAfter e (opBegin e i u))) ∧
       (ok → fld w 48 2 = 2 → tabWay s e = true → exec (.tepoArm e) s = .next (engAfter e (opArm e i u))) ∧
       (ok → fld w 48 2 ≠ 3 → tabWay s e = false →
         ∀ c, c = .tepoRead e ∨ c = .tepoBegin e ∨ c = .tepoArm e → exec c s = .next (engAfter e s)))) ∧
  (∀ (s : State) (e : Nat) (w : Word) (rd : MResp), wordHere s e = w →
     let r := (thr s e).regs
     let c := getCtx s (chanOf s e)
     let i := fld w 0 4
     let ok := fld w 4 44 = 0 ∧ fld w 48 8 = 0 ∧ tabAllowed s e i = true ∧ listSpaceOk s r.sspace = true
     let req : RdReq := { who := whoOf s e, space := r.sspace, addr := r.s, len := 32, purpose := .image e }
     let inside := isWork s e = true ∨ windowOk r.sspace c.swspace c.swbase c.swlimit r.s 32 true = true
     let u := wakeIsl islTsv (xEng e 0 (modMain e (fun t => { t with phase := .table, accessed := true, answer := none }) s))
     (∀ i', (i' = .tins e rd ∧ due s e 0x60 = .run w) ∨ (i' = .tmov e rd ∧ due s e 0x62 = .run w) →
       (¬ ok → exec i' s = .next (engAfter e (failInstr e 0x12 s))) ∧
       (ok → aligned r.s 32 = false → exec i' s = .next (engAfter e (failInstr e 0x10 s))) ∧
       (ok → aligned r.s 32 = true → ¬ inside → exec i' s = .next (engAfter e (failInstr e 0x11 s))) ∧
       (ok → aligned r.s 32 = true → inside → hostBlocked s e = true → exec i' s = .next (engAfter e s)) ∧
       (ok → aligned r.s 32 = true → inside → hostBlocked s e = false → ∀ v, engRead e req s = (.go, v) →
         exec i' s = .next (engAfter e (modMain e (fun t => { t with phase := .image, accessed := true }) v)))) ∧
     (onSpec s e = false → imageReady s e = true → tabAllowed s e i = true →
       (opc w = 0x60 → exec (.tins e rd) s = .next (engAfter e (opTins rd e i (getEng s e).main.image u))) ∧
       (opc w = 0x62 → exec (.tmov e rd) s = .next (engAfter e (opTmov rd e i (getEng s e).main.image u)))))

/-- R101: what TSV answers. An absent identifier answers Z = 0 to TDEL and TAGE and nothing changes; READ answers Z for a
rebuild in progress and the generation, zero-extended, in K0; BEGIN answers Z = 0 where a rebuild is in progress, ARM
where none is; ARM after the copy pass arms the swap and answers Z = 1. R101, R327: what TINS, TMOV, TDEL and TAGE do
once their bucket is read, outside a rebuild. TDEL and TAGE replace a found entry in one write and answer Z = 1; TMOV
rewrites it with the image's values, CH = 1, PORT 0, AGECNT and the time; TINS leaves a present identifier alone with
Z = 0 and C = 0 and places an absent one, with C = 1 where that relocated or evicted a way; an image with reserved
bits or an identifier too wide is ILLEGAL_OP. R100, R101: with TSV's answer in hand the operation retires: Z as
answered, C and K0 where the answer gives them; an answer that is a failure ends the descriptor with its status. -/
def Obligations.TableAnswers : Prop :=
  (∀ (s : State) (e i : Nat) (id : Half) (f : Entry → Entry) (rd : MResp), (getEng s e).main.phase = .table →
     let x := getInst s i
     let ans (t : State) := (getEng t e).main.answer
     (∀ u, bucketRead i (activeEp x) id rd s = (true, u) →
       (findId (activeEp x) id = none → ans (opFound rd e i id f s) = some {} ∧
         (∀ j, getInst (opFound rd e i id f s) j = getInst u j))) ∧
     (ans (opRead e i s) = some { z := x.st == .rebuild, k0 := some (x.gen.zeroExtend 64) } ∧
       (∀ j, getInst (opRead e i s) j = getInst s j)) ∧
     (x.st = .rebuild → ans (opBegin e i s) = some {} ∧ (∀ j, getInst (opBegin e i s) j = getInst s j)) ∧
     (x.st ≠ .rebuild → ans (opArm e i s) = some {} ∧ (∀ j, getInst (opArm e i s) j = getInst s j)) ∧
     (x.st = .rebuild → x.copydone = true → x.armed = false → ans (opArm e i s) = some { z := true } ∧
       (getInst (opArm e i s) i).armed = true)) ∧
  (∀ (s u : State) (e i : Nat) (id : Half) (f : Entry → Entry) (rd : MResp) (img : List Byte), (getEng s e).main.phase = .table →
     let x := getInst s i
     let ep := activeEp x
     let ans (t : State) := (getEng t e).main.answer
     let y := newEntry id x.agecnt 0 true (wordAt img 8) (bits (wordAt img 16) 0 32) (nowUs s) (bits (wordAt img 24) 0 8)
     let imageOk := zeroAt (wordAt img 24) 8 56 = true ∧ idFits x (bits (wordAt img 0) 0 32) = true
     let allowed (p : Place) := (gateCheck u (68 + lmPortOf u (placeAddr ep p)) tsvWho .wr (placeAddr ep p) 32 false).ok = true
     let put := fun (t : State) (p : Place) (z : Entry) => entAt (activeEp (getInst t i)) p = z ∧
       (∀ q, q ≠ p → entAt (activeEp (getInst t i)) q = entAt ep q) ∧ (∀ j, j ≠ i → getInst t j = getInst s j) ∧
       ans t = some { z := true } ∧ durable t = durable s
     (¬ imageOk → ans (opTins rd e i img s) = some { code := 0x12 } ∧ ans (opTmov rd e i img s) = some { code := 0x12 }) ∧
     (bucketRead i ep id rd s = (true, u) → x.mirroring = false → x.st ≠ .fault →
       (∀ p z, findId ep id = some (p, z) → allowed p → put (opFound rd e i id f s) p (f z)) ∧
       (imageOk → bits (wordAt img 0) 0 32 = id →
         (findId ep id = none → ans (opTmov rd e i img s) = some {} ∧ (∀ j, getInst (opTmov rd e i img s) j = getInst s j)) ∧
         (∀ p z, findId ep id = some (p, z) →
           (allowed p → put (opTmov rd e i img s) p y) ∧
           ans (opTins rd e i img s) = some { z := false, c := some false } ∧
           (∀ j, getInst (opTins rd e i img s) j = getInst s j)) ∧
         (findId ep id = none → ∀ c wait v, placeNew i x.act y { engine := some e, mirror := false } u = ((c, wait), v) →
           inFault v i = false →
           (wait = true → opTins rd e i img s = v) ∧
           (wait = false → opTins rd e i img s = tsvAnswerTo e { z := true, c := some c } v))))) ∧
  (∀ (s : State) (e : Nat) (a : TableAnswer), live s = true → engFree s e = false → (getEng s e).main.phase = .table →
     (getEng s e).main.answer = some a → a.waitCopy = false →
     (a.code ≠ 0 → exec (.tsvAnswer e) s = .next (engAfter e (failInstr e a.code s))) ∧
     (a.code = 0 → exec (.tsvAnswer e) s = .next (engAfter e (retire e 1 (modMain e (fun t => { t with
       answer := none, image := []
       regs := { t.regs with z := a.z, c := a.c.getD t.regs.c, k0 := a.k0.getD t.regs.k0 } }) s)))))

/-- R105, R106: a level 1 descriptor. Reserved bits that are not 0 end it with BAD_DESCRIPTOR; a move takes S, D, N, the
spaces and the modes from its words and begins as MOVE does, or ends with the first failing check; a link goes to its
source address with a residual of 0, which it leaves in N too (log entry 15), when its space holds lists and the
address is a multiple of 32. -/
def Obligations.Level1Descriptors : Prop :=
  ∀ (s : State) (e : Nat),
    let ws := (thr s e).words
    let w2 := nthWord ws 2
    let ok := fld w2 45 19 = 0 ∧ fld (nthWord ws 3) 60 3 = 0
    let s1 := modRegs e (fun r => { r with
      s := nthWord ws 0, d := nthWord ws 1, n := bits w2 0 32, sspace := bits w2 32 4, dspace := bits w2 36 4
      sinc := bit w2 40, dinc := bit w2 41, swap := bits w2 42 2 }) (modThr e (fun t => { t with l1 := true }) s)
    let r := (thr s1 e).regs
    let sp : BitVec 4 := bits w2 32 4
    (level1Due s e false = true →
      (¬ ok → exec (.level1MoveDescriptor e) s = .next (engAfter e (failInstr e 0x13 s))) ∧
      (ok → ∀ code, moveCheck s1 e r = some code →
        exec (.level1MoveDescriptor e) s = .next (engAfter e (failInstr e code s1))) ∧
      (ok → moveCheck s1 e r = none → exec (.level1MoveDescriptor e) s = .next (engAfter e (beginMove e
        { n0 := r.n.toNat, s0 := r.s, d0 := r.d, sinc := r.sinc, dinc := r.dinc, swap := r.swap, sspace := r.sspace
          dspace := r.dspace, ord := 0, nospec := false, brkb := false, list := none } s1)))) ∧
    (level1Due s e true = true →
      (¬ ok → exec (.level1LinkDescriptor e) s = .next (engAfter e (failInstr e 0x13 s))) ∧
      (ok → listSpaceOk s sp = false → exec (.level1LinkDescriptor e) s = .next (engAfter e (failInstr e 0x12 s))) ∧
      (ok → listSpaceOk s sp = true → aligned (nthWord ws 0) 32 = false →
        exec (.level1LinkDescriptor e) s = .next (engAfter e (failInstr e 0x10 s))) ∧
      (ok → listSpaceOk s sp = true → aligned (nthWord ws 0) 32 = true →
        exec (.level1LinkDescriptor e) s =
          .next (engAfter e (linkTo e (nthWord ws 0) sp (modRegs e (fun x => { x with n := 0 }) s)))))

/-- R80, R84, R124, R130, R156, R160, R180, R217: a source burst leaves when the move of the engine is due for it after
the pacing evaluation of the burst boundary; the bytes presented count as read (a burst that R165 reads again leaves
the list of those), a denied or failed burst is the move's failure with its status, a held one waits, and with BRKB
the boundary behind a burst that is not speculative is a break point. Where the next burst waits for a list block
whose read has not gone out, that read is tried. Nothing leaves where no burst is due. R56, R57, R84: a list block
that has come back is taken up, the oldest first: the move goes on with the entries it brings. Step 3 of a direct
move follows its confirmed notify word: with a failed write the block records a write-back fault; with CODE 0x00 or
0x01 the channel is IDLE with that status, an abort that came meanwhile (R201) stops it with ABORTED, and another
code or a context error stops it. -/
def Obligations.MovesRun : Prop :=
  (∀ (s : State) (e : Nat) (m : Move), (thr (evalPace e s) e).mv = some m →
     let v := evalPace e s
     (listWaits v e m = true → exec (.sourceBurstIssue e) s = .next (engAfter e (listStep e v))) ∧
     (listWaits v e m = false → burstDue v e m = false → exec (.sourceBurstIssue e) s = .next s) ∧
     (listWaits v e m = false → burstDue v e m = true → ∀ n iss u, presentBursts e m v = (n, iss, u) →
       let spec := onSpec u e
       let read := if n = 0 then u else modThr e (fun t => { t with accessed := true })
         (modMv e (fun m => if m.again.isEmpty then { m with
             srcNext := m.srcNext + n, specBytes := if spec then m.specBytes + n else 0 }
           else { m with again := m.again.tail }) u)
       let next (m : Move) : Nat := match m.again with
         | [] => m.srcNext
         | x :: _ => x.1
       let after := match iss with
         | .denied => modMv e (fun m => addFail (next m) 0x20 true m) read
         | .failed c => modMv e (fun m => addFail (next m) c true m) read
         | .held => modDsp (fun d => { d with specheld := inc32 d.specheld }) (modMv e (fun m => { m with held := true }) read)
         | _ => read
       exec (.sourceBurstIssue e) s = .next (engAfter e (listStep e after))) ∧
     (∀ off k u, nextBursts v e m = [(off, k)] → readBurst e m off k v = (.go, u) →
       presentBursts e m v = (k, .go, if m.brkb = true ∧ onSpec u e = false then xbreak e u else u))) ∧
  ((∀ (s : State) (e : Nat) (l : ListSide) (old : List ListBlock) (b : ListBlock) (newer : List ListBlock),
     live s = true → engFree s e = false → (thr s e).mv.bind (·.list) = some l → l.blocks = old ++ b :: newer →
     (∀ x ∈ old, x.got = none ∨ x.ready = true) → b.got.isSome = true → b.ready = false →
     exec (.movlListReadDone e) s = .next (engAfter e (listStep e (modMv e (fun m => { m with list := m.list.map takeUpBlock }) s))) ∧
     (takeUpBlock l).blocks = old ++ { b with ready := true } :: newer) ∧
   (∀ (s : State) (e : Nat), live s = true → (getEng s e).main.phase = .dnotify → (getEng s e).stop ≠ .fn →
     engFree s e = false → descSettled s e = true →
     let x := getEng s e
     let t := x.main
     let c := chanOf s e
     let moved (u : State) := modCtx c (fun x => if x.direct then { x with
       direct := false, resume := x.resumeProg, resumeProg := false } else x) u
     (∀ code, t.wrFail = some code → exec (.directMoveComplete e) s = .next (wbFault e code s)) ∧
     (t.wrFail = none → (t.code = 0 ∨ t.code = 1) → x.ecc = false → x.stop ≠ .abort →
       exec (.directMoveComplete e) s = .next (moved (modCtx c (fun x => { x with
         st := .idle, lastcode := t.code, lastflags := t.flags, abort := false }) (breakOnLeave c none (leaveEng e s))))) ∧
     (t.wrFail = none → (t.code = 0 ∨ t.code = 1) → x.ecc = false → x.stop = .abort →
       ∀ fl u, takeFlags e false false s = (fl, u) →
         exec (.directMoveComplete e) s = .next (moved (stopEng e 0x30 (some fl) u))) ∧
     (t.wrFail = none → ((t.code ≠ 0 ∧ t.code ≠ 1) ∨ x.ecc = true) →
       exec (.directMoveComplete e) s = .next (moved (stopEng e t.code (some t.flags) s)))))

/-- R178: past WDLIMIT microseconds on one descriptor or direct move the watchdog fires once: the context's flag, the
count, the record of channel and engine and the event; the program goes on. R181: once PACEHOLD times 16 ns have
passed at a WAITF that is still HELD, the engine begins to release its channel. R182: a wake takes the channel's
watch entries away; a channel in a pacing wait becomes READY, or PAUSED under its PAUSE bit. -/
def Obligations.WatchdogsAndPacing : Prop :=
  (∀ (s : State) (e : Nat), live s = true → wdogRuns s e = true →
     let l := s.active.disp.wdlimit.toNat
     let c := chanOf s e
     (l = 0 ∨ (s.time - (getEng s e).wdStart).toNat ≤ l * 1000 → exec (.wdogExpiry e) s = .next s) ∧
     (l ≠ 0 → l * 1000 < (s.time - (getEng s e).wdStart).toNat →
       exec (.wdogExpiry e) s = .next (evWdog (fnOf s e) (modDsp (fun d => { d with
         wdcount := inc32 d.wdcount, wdchan := BitVec.ofNat 23 c, wdeng := BitVec.ofNat 5 e })
         (modCtx c (fun x => { x with wdog := true }) (modEng e (fun x => { x with wdFired := true }) s)))))) ∧
  ((∀ (s : State) (e : Nat), live s = true → s.pf.stage = .normal → (getEng s e).main.phase = .hold → (getEng s e).stop = .none →
     let held := (s.time - (getEng s e).holdAt).toNat
     (held < s.active.disp.pacehold.toNat * 16 → exec (.paceholdExpiry e) s = .next s) ∧
     (s.active.disp.pacehold.toNat * 16 ≤ held →
       exec (.paceholdExpiry e) s = .next (engAfter e (modMain e (fun t => { t with phase := .release, flushedPorts := [] }) s)))) ∧
   (∀ (s : State) (c : Nat) (l : List Nat), live s = true → s.pf.stage = .normal → tested s islDsp = false →
     s.dsp.wakes = c :: l →
     let s1 := modDsp (fun d => { d with wakes := l }) s
     let woken := cacheUse c true (unwatch c s1)
     ((getCtx s c).st ≠ .waiting ∨ (getCtx s c).pacing = none → exec .pacingWake s = .next s1) ∧
     ((getCtx s c).st = .waiting → (getCtx s c).pacing ≠ none → ((getCtx s c).pause = true →
         exec .pacingWake s = .next (modCtx c (fun x => { x with st := .paused }) woken)) ∧
       ((getCtx s c).pause = false →
         exec .pacingWake s = .next (enqueue c (modCtx c (fun x => { x with st := .ready }) woken))))))

/-- R136, R155, R195: an engine reads the descriptor at PC, with the sequence it has seen, or the one it resumes; a PC
that is not aligned or whose space holds no lists is read by nobody and the engine decides at once; a denied read is
kept as its failure. A read ahead changes no context. R141: what an engine does with the header it has read, in the
order of the rows: a list space, the alignment, the read's own failure, a header it does not hold, the sequence it
has seen, and OWN with the expected SEQ. A refused header stops the channel and no status is written. -/
def Obligations.DescriptorDecisions : Prop :=
  (∀ (s : State) (e : Nat), mayRead s = true → holdsChan s e = true ∨ isTask s e = true → (getEng s e).stop = .none →
     hostBlocked s e = false →
     let t := (getEng s e).main
     let size := descSize (lvlOf s e)
     let atPc : RdReq := { who := whoOf s e, space := t.regs.pspace, addr := t.regs.pc, len := size,
                           purpose := .desc e (getCtx s (chanOf s e)).seqseen }
     let again : RdReq := { who := whoOf s e, space := t.aspace, addr := t.a, len := size, purpose := .resume e }
     (t.phase = .fetch → ∀ ahead,
       (listSpaceOk s t.regs.pspace = false ∨ aligned t.regs.pc size = false →
         exec (.descriptorRead e ahead) s = .next (modMain e (fun t => { t with phase := .fetched, readErr := none }) s)) ∧
       (listSpaceOk s t.regs.pspace = true → aligned t.regs.pc size = true →
         ahead = false ∨ extendedLen s e size t.regs.pspace t.regs.pc ≤ size →
         (∀ u, engRead e atPc s = (.go, u) → exec (.descriptorRead e ahead) s =
           .next (modMain e (fun t => { t with phase := .fetchWait, readErr := none }) u)) ∧
         (passes s (whoOf s e) t.regs.pspace t.regs.pc size .rd = true → exec (.descriptorRead e ahead) s =
           .next (modMain e (fun t => { t with phase := .fetchWait, readErr := none }) (engRead e atPc s).2)) ∧
         (∀ u, engRead e atPc s = (.denied, u) → exec (.descriptorRead e ahead) s =
           .next (modMain e (fun t => { t with phase := .fetched, readErr := some 0x20 }) u)))) ∧
     (t.phase = .resume → ∀ ahead,
       (∀ u, engRead e again s = (.go, u) → exec (.descriptorRead e ahead) s =
         .next (modMain e (fun t => { t with phase := .resumeWait, readErr := none }) u)) ∧
       (t.aspace ≠ 5 → passes s (whoOf s e) t.aspace t.a size .rd = true → exec (.descriptorRead e ahead) s =
         .next (modMain e (fun t => { t with phase := .resumeWait, readErr := none }) (engRead e again s).2)) ∧
       (∀ u, engRead e again s = (.denied, u) → exec (.descriptorRead e ahead) s =
         .next (modMain e (fun t => { t with phase := .resumed, readErr := some 0x20 }) u))) ∧
     (t.phase ≠ .fetch → t.phase ≠ .resume →
       exec (.descriptorRead e true) s = .next (fetchAhead e s) ∧ (fetchAhead e s).dsp.ctx = s.dsp.ctx ∧
       exec (.descriptorRead e false) s = .next s)) ∧
  (∀ (s : State) (e : Nat), live s = true → s.pf.stage = .normal → holdsChan s e = true → (getEng s e).stop = .none →
     (getEng s e).main.phase = .fetched →
     let t := (getEng s e).main
     let c := getCtx s (chanOf s e)
     let l := lvlOf s e
     let space := listSpaceOk s t.regs.pspace
     let al := aligned t.regs.pc (descSize l)
     (space = false → exec (.descriptorReadDone e) s = .next (refuseHeader e 0x12 s)) ∧
     (space = true → al = false → exec (.descriptorReadDone e) s = .next (refuseHeader e 0x10 s)) ∧
     (space = true → al = true → ∀ code, t.readErr = some code → exec (.descriptorReadDone e) s = .next (refuseHeader e code s)) ∧
     (space = true → al = true → t.readErr = none → heldAt s e t.regs.pspace t.regs.pc = none →
       exec (.descriptorReadDone e) s = .next (modMain e (fun t => { t with phase := .fetch }) s)) ∧
     (space = true → al = true → t.readErr = none → ∀ h, heldAt s e t.regs.pspace t.regs.pc = some h →
       (seqCovers h.seen c.seqexp = false → exec (.descriptorReadDone e) s = .next (modMain e (fun t => { t with phase := .query }) s)) ∧
       (seqCovers h.seen c.seqexp = true → hdrOwn l h.words = true → hdrSeq l h.words = c.seqexp →
         exec (.descriptorReadDone e) s = .next (engAfter e (acceptHeader e h s))) ∧
       (seqCovers h.seen c.seqexp = true → hdrOwn l h.words = false ∨ hdrSeq l h.words ≠ c.seqexp →
         exec (.descriptorReadDone e) s = .next (evDescFault (fnOf s e) (refuseHeader e 0x13 s)))) ∧
     (∀ code, (getCtx (refuseHeader e code s) (chanOf s e)).st = .stopped ∧ (getEng (refuseHeader e code s) e).hold = .none ∧
       ((getEng s e).ecc = false → (getCtx (refuseHeader e code s) (chanOf s e)).lastcode = code)))

/-- R142: a header not yet covered. Where SEQSEEN has come to cover it the engine reads again; else the channel is
WAITING and its engine is free. R106, R184, R195, R199: the re-read of a descriptor that is part done. A channel
whose read failed stops; a write-back task's failed read is a failed write-back; a task's descriptor ends with
ABORTED; a program goes on, or ends where its last word lies behind it; a level 1 descriptor that had loaded its
registers goes on from them, or ends with the check they fail, and one that had not begins. -/
def Obligations.CoverageAndResuming : Prop :=
  (∀ (s : State) (e : Nat), live s = true → holdsChan s e = true → (getEng s e).stop = .none →
     (getEng s e).main.phase = .query →
     let c := chanOf s e
     (seqCovers (getCtx s c).seqseen (getCtx s c).seqexp = true →
       exec (.seqCoverQuery e) s =
         .next (modMain e (fun t => { t with phase := .fetch }) (unhold e (getEng s e).main.regs.pspace (getEng s e).main.regs.pc s))) ∧
     (seqCovers (getCtx s c).seqseen (getCtx s c).seqexp = false →
       ∃ t, exec (.seqCoverQuery e) s = .next t ∧ (getCtx t c).st = .waiting ∧ (getEng t e).hold = .none)) ∧
  (∀ (s : State) (e : Nat), live s = true → holdsChan s e = true ∨ isTask s e = true → (getEng s e).stop = .none →
     (getEng s e).main.phase = .resumed →
     let t := (getEng s e).main
     let l1 := isTask s e = false ∧ lvlOf s e = 1
     let s1 := modMain e (fun t => { t with phase := .exec }) s
     (∀ code, t.readErr = some code → isTask s e = false →
       exec (.resumeDescriptorReadDone e) s = .next (barrierStep (stopEng e code none s))) ∧
     (∀ code, t.readErr = some code → isTask s e = true →
       exec (.resumeDescriptorReadDone e) s = .next (taskFault e code s)) ∧
     (t.readErr = none → isTask s e = true → exec (.resumeDescriptorReadDone e) s = .next (engAfter e (endDescr e 0x30 s))) ∧
     (t.readErr = none → l1 → t.l1 = false → exec (.resumeDescriptorReadDone e) s = .next (engAfter e s1)) ∧
     (t.readErr = none → l1 → t.l1 = true → ∀ code, moveCheck s e t.regs = some code →
       exec (.resumeDescriptorReadDone e) s = .next (engAfter e (endDescr e code s))) ∧
     (t.readErr = none → l1 → t.l1 = true → moveCheck s e t.regs = none →
       exec (.resumeDescriptorReadDone e) s = .next (engAfter e (modMain e (fun t => { t with
         phase := .moving, mv := some (newMove t.regs 0 false false none) }) s))) ∧
     (t.readErr = none → isTask s e = false → lvlOf s e ≠ 1 → pastEnd s1 e (getEng s1 e).main = false →
       exec (.resumeDescriptorReadDone e) s = .next s1) ∧
     (t.readErr = none → isTask s e = false → lvlOf s e ≠ 1 → pastEnd s1 e (getEng s1 e).main = true →
       exec (.resumeDescriptorReadDone e) s = .next (engAfter e (endProgram e s1))))

/-- R170, R173, R199, R376: one decision of DSP. The lowest free engine that may take something takes a write-back task
first, else the best of its candidates, an over-age entry ahead of the others, then the earliest deadline, the older
ready stamp, work ahead of a channel, the lower number (where their times lie within half the range of the 32-bit
compare): a channel, which becomes RUNNING without its GO and pacing marks, or a piece of movement work. A direct
move begins at once, and a task on a direct move ends it at once. With nothing to take, and with DSP under a LOGIC
test (log entry 83), nothing changes. -/
def Obligations.Dispatching : Prop :=
  ∀ (s : State), s.inReset = false → s.pf.stage = .normal →
    (tested s islDsp = true → exec .dispatch s = .next s) ∧ (tested s islDsp = false →
    let may (e : Nat) := e < nEngines s ∧ engPresent s e = true ∧ engFree s e = true ∧ testedEng s e = false
    ((∀ e, may e → takeOf s e = none) → exec .dispatch s = .next s) ∧
    (∀ e, (∀ c, taskFor s e = some c → takeOf s e = some (.task c)) ∧
      (taskFor s e = none → workCands s e ++ chanCands s e = [] → takeOf s e = none) ∧
      (taskFor s e = none → workCands s e ++ chanCands s e ≠ [] →
        ∃ x ∈ workCands s e ++ chanCands s e, takeOf s e = some (.cand x) ∧
          ((∃ d b : Half, ∀ y ∈ workCands s e ++ chanCands s e, (y.dl - d).toNat < 2 ^ 31 ∧ (y.stamp - b).toNat < 2 ^ 31) →
            ∀ y ∈ workCands s e ++ chanCands s e,
              (x.aged = true ∧ y.aged = false) ∨ (x.aged = y.aged ∧ (before32 x.dl y.dl = true ∨ (x.dl = y.dl ∧
                (before32 x.stamp y.stamp = true ∨ (x.stamp = y.stamp ∧
                  ((x.work = true ∧ y.work = false) ∨ (x.work = y.work ∧ x.id ≤ y.id)))))))))) ∧
    (∀ e, may e → (∀ e' < e, may e' → takeOf s e' = none) →
      (∀ c, takeOf s e = some (.task c) → (getCtx s c).direct = false →
        ∃ t, exec .dispatch s = .next t ∧ (getEng t e).hold = .task c ∧ (getEng t e).main.phase = .resume ∧
          (getEng t e).taken = s.time ∧ t.dsp.wbTasks = s.dsp.wbTasks.filter (· != c) ∧ durable t = durable s) ∧
      (∀ x, takeOf s e = some (.cand x) → x.work = true →
        ∃ t, exec .dispatch s = .next t ∧ (getEng t e).hold = .work x.id x.slot ∧ (getEng t e).main.phase = .exec ∧
          (getEng t e).main.regs.pc = 8 ∧ t.dsp.ctx = s.dsp.ctx ∧ durable t = durable s) ∧
      (∀ x, takeOf s e = some (.cand x) → x.work = false → (getCtx s x.id).direct = false →
        ∃ t, exec .dispatch s = .next t ∧ (getEng t e).hold = .chan x.id ∧ (getEng t e).main.regs = (getCtx s x.id).regs ∧
          (getEng t e).main.phase = (if (getCtx s x.id).mid then .resume else .fetch) ∧ (getEng t e).taken = s.time ∧
          (getCtx t x.id).st = .running ∧ (getCtx t x.id).go = false ∧ (getCtx t x.id).pacing = none ∧ durable t = durable s) ∧
      (∀ x, takeOf s e = some (.cand x) → x.work = false → (getCtx s x.id).direct = true →
        exec .dispatch s = .next (takeChan e x.id s) ∧ durable (takeChan e x.id s) = durable s) ∧
      (∀ c, takeOf s e = some (.task c) → (getCtx s c).direct = true →
        exec .dispatch s = .next (takeTask e c s) ∧ durable (takeTask e c s) = durable s)))

/-- R189, R191, R192, R203: at a stop point of a pause or quiesce, once every write of its descriptor is confirmed, the
engine is free, and the channel is QUIESCED, PAUSED or READY. A write that failed ends the descriptor with its status
instead, and a descriptor read or re-read that failed stops the channel with its own. Inside a move the engine first
moves on as far as it can, and stops, with the progress in its registers, once no read is outstanding and every byte
it has written is settled. R198, R199, R36: an engine that meets an abort. Between descriptors the channel stops with
ABORTED and the engine is free; inside a program or a move the reads are abandoned, nothing more is written, the
writes issued are confirmed, and the descriptor ends with ABORTED. That it does so even where one of those writes
failed, and that a channel which is being taken up again becomes a write-back task, are the model's reading (log
entry 36). A cancelled piece of movement work ends with CODE ABORTED. An uncorrectable context error stops a channel
off the engines with TARGET_ERROR at once; otherwise it is a mark on which the engine stops its channel in the same
way, writing no status. -/
def Obligations.StopPoints : Prop :=
  (∀ (s : State) (e : Nat), live s = true → s.pf.stage = .normal → (getEng s e).stop = .pause → holdsChan s e = true →
     let c := chanOf s e
     let s1 := modEng e (fun x => { x with stopping := true }) s
     let t := (getEng s e).main
     let failed := (t.phase = .fetched ∨ t.phase = .resumed) ∧ t.readErr ≠ none
     (t.phase ∈ [.fetch, .fetched, .query, .resume, .resumed, .exec, .hold, .release, .imageHere] →
       (¬ failed → descSettled s1 e = true → t.wrFail = none →
         ∃ u, exec (.pauseStopDone e) s = .next u ∧ (getEng u e).hold = .none ∧ durable u = durable s ∧
           (s.dsp.qreq = true → (getCtx u c).st = .quiesced) ∧
           (s.dsp.qreq = false → (getCtx s c).abort = false → (getCtx u c).st = (if (getCtx s c).pause then .paused else .ready))) ∧
       (¬ failed → descSettled s1 e = true → ∀ code, t.wrFail = some code → exec (.pauseStopDone e) s =
         .next (barrierStep (engAfter e (endDescr e code (modMain e (fun t => { t with wrFail := none }) s1))))) ∧
       (¬ failed → descSettled s1 e = false → exec (.pauseStopDone e) s = .next (barrierStep (flushDesc e s1))) ∧
       (t.phase = .fetched → ∀ code, t.readErr = some code →
         exec (.pauseStopDone e) s = .next (barrierStep (refuseHeader e code s1))) ∧
       (t.phase = .resumed → ∀ code, t.readErr = some code →
         exec (.pauseStopDone e) s = .next (barrierStep (stopEng e code none s1)))) ∧
     (t.phase = .moving → onSpec s e = false →
       ∀ s2, engAfter e (listStep e (modMv e (fun m => { m with list := m.list.map takeUpBlocks }) s1)) = s2 →
       (((getEng s2 e).main.phase ≠ .moving ∨ (getEng s2 e).main.mv = none) → exec (.pauseStopDone e) s = .next (barrierStep s2)) ∧
       (∀ m, (getEng s2 e).main.phase = .moving → (getEng s2 e).main.mv = some m →
         (moveQuiet s2 e m = false → exec (.pauseStopDone e) s = .next (barrierStep s2)) ∧
         (moveQuiet s2 e m = true → descSettled (saveMove e s2) e = false →
           exec (.pauseStopDone e) s = .next (barrierStep (flushDesc e (saveMove e s2)))) ∧
         (moveQuiet s2 e m = true → descSettled (saveMove e s2) e = true → (getEng (saveMove e s2) e).main.wrFail = none →
           ∃ u, exec (.pauseStopDone e) s = .next u ∧ (getEng u e).hold = .none)))) ∧
  (∀ (s : State) (e c : Nat),
     (live s = true → s.pf.stage = .normal → (getEng s e).stop = .abort → holdsChan s e = true →
       ((getEng s e).main.phase ∈ [.fetch, .fetchWait, .fetched, .query] →
         ∃ t, exec (.abortStop e) s = .next t ∧ (getCtx t (chanOf s e)).st = .stopped ∧
           (getCtx t (chanOf s e)).lastcode = (if (getEng s e).ecc then 0x21 else 0x30) ∧ (getCtx t (chanOf s e)).abort = false ∧ (getEng t e).hold = .none) ∧
       ((getEng s e).main.phase ∈ [.exec, .hold, .release, .image, .imageHere] →
         let s1 := abandonReads e s
         (descSettled s1 e = true → exec (.abortStop e) s =
           .next (barrierStep (engAfter e (endDescr e 0x30 (modMain e (fun t => { t with wrFail := none }) s1))))) ∧
         (descSettled s1 e = false → exec (.abortStop e) s = .next (barrierStep (flushDesc e s1)))) ∧
       ((getEng s e).main.phase = .moving → ∀ s2, engAfter e (dropStaged e (abandonReads e s)) = s2 →
         (((getEng s2 e).main.phase ≠ .moving ∨ (getEng s2 e).main.mv = none) → exec (.abortStop e) s = .next (barrierStep s2)) ∧
         (∀ m, (getEng s2 e).main.phase = .moving → (getEng s2 e).main.mv = some m →
           (dstSettled s2 e m m.dstNext = false → exec (.abortStop e) s = .next (barrierStep s2)) ∧
           (dstSettled s2 e m m.dstNext = true → descSettled s2 e = false →
             exec (.abortStop e) s = .next (barrierStep (flushDesc e s2))) ∧
           (dstSettled s2 e m m.dstNext = true → descSettled s2 e = true → (getEng s2 e).stop = .abort →
             exec (.abortStop e) s = .next (barrierStep (engAfter e (endDescr e 0x30
               (modMain e (fun t => { t with wrFail := none }) (dropMove e (saveMove e s2))))))))) ∧
       ((getEng s e).main.phase ∈ [.resume, .resumeWait, .resumed] →
         exec (.abortStop e) s = .next
           (barrierStep (modEng e (fun x => { x with hold := .task (chanOf s e), stop := .none, stopping := false }) s)))) ∧
     (live s = true → s.pf.stage = .normal → (getEng s e).stop = .ecc → holdsChan s e = true →
       (getEng s e).main.phase ∈ [.resume, .resumeWait, .resumed] →
       exec (.abortStop e) s = .next (barrierStep (stopEng e 0x21 none s))) ∧
     (live s = true → s.pf.stage = .normal → (getEng s e).stop = .abort → isWork s e = true →
       (getEng s e).main.phase ∈ [.exec, .hold, .release, .image, .imageHere] →
       exec (.abortStop e) s = .next (barrierStep (engAfter e (endWork e 0x30 (abandonReads e s))))) ∧
     (live s = true → chanPresent s c = true → engOf s c = none →
       ∃ t, exec (.ctxEccError c) s = .next t ∧ (getCtx t c).st = .stopped ∧ (getCtx t c).lastcode = 0x21 ∧
         durable t = durable s) ∧
     (live s = true → chanPresent s c = true → ∀ x, engOf s c = some x →
       ∃ t, exec (.ctxEccError c) s = .next t ∧ (getCtx t c).lastcode = 0x21 ∧ (getCtx t c).st = (getCtx s c).st ∧
         (getEng t x).stop = (if (getEng s x).stop = .fn then .fn else .ecc) ∧
         ((getEng s x).stop ≠ .fn → (getEng t x).ecc = true) ∧ durable t = durable s))

/-- R202 to R204: QREQ. Setting it tells every engine that holds a channel to stop at its next stop point, and QDONE
becomes 1 at once where no engine holds a channel or a task; taking it back clears both, lets every QUIESCED channel
be READY or PAUSED again and changes the context of no other channel. A write of the value QREQ has changes nothing.
-/
def Obligations.Quiescing : Prop :=
  ∀ (s : State) (r : Requester), live s = true → isFirmware r = true →
    (s.dsp.qreq = true → exec (.quiesceRequest r) s = .next (access r s)) ∧
    (s.dsp.qreq = false → exec (.quiesceRelease r) s = .next (access r s)) ∧
    (s.pf.stage ≠ .normal → exec (.quiesceRequest r) s = .next (access r s) ∧
      exec (.quiesceRelease r) s = .next (access r s)) ∧
    (s.pf.stage = .normal → s.dsp.qreq = false → ∃ t, exec (.quiesceRequest r) s = .next t ∧ t.dsp.qreq = true ∧ t.dsp.ctx = s.dsp.ctx ∧
      (∀ e c, (getEng s e).hold = .chan c → (getEng s e).stop = .none → (getEng t e).stop = .pause) ∧
      (∀ e, (getEng t e).main = (getEng s e).main ∧ (getEng t e).hold = (getEng s e).hold) ∧
      ((∀ x ∈ s.eng, x.2.hold = .none ∨ ∃ a b, x.2.hold = .work a b) → t.dsp.qdone = true ∧ t.dsp.qseam = s.seam) ∧
      durable t = durable s) ∧
    (s.pf.stage = .normal → s.dsp.qreq = true → s.dsp.recAborts = [] → ∃ t, exec (.quiesceRelease r) s = .next t ∧ t.dsp.qreq = false ∧
      t.dsp.qdone = false ∧ (∀ c, (getCtx s c).st ≠ .quiesced → getCtx t c = getCtx s c) ∧
      (∀ c, (getCtx s c).st = .quiesced →
        getCtx t c = { getCtx s c with st := if (getCtx s c).pause then .paused else .ready }) ∧ durable t = durable s)

/-- R210 to R214: a lease that has ended breaks its lock: the entry goes, the word is written by one 8-byte update that
sets HELD to 0 and BROKEN to 1 and no other bit, where the gate of its memory port allows that, the break is counted
and recorded with its cause, the first that applied, and LOCK_BREAK is raised. A write of BREAK clears FOUND; it
leaves a word without an entry alone, an entry that is being released and one whose break already waits. It breaks
the lock of the command's address with cause 4 and sets FOUND, at once where the owner is on no engine and none of
its writes to local memory is unanswered; else the break waits. That it waits for those writes too is the model's
reading (log entry 18). -/
def Obligations.LockBreaks : Prop :=
  ∀ (s : State) (a : Word) (x : LockEntry) (r : Requester), mayIssue s = true →
    let w := alignDown s.lock.lbcmdadr 8
    let s0 := modLock (fun l => { l with found := false, cmd := w }) (access r s)
    let waits := ∃ y ∈ s.lock.waiting, y.addr = x.addr
    let who : Who := { cls := 2, engine := 9, core := true }
    let ok := (gateCheck s (68 + lmPortOf s x.addr) who .both x.addr 8 false).ok
    let broken := fun (t : State) (cause : BitVec 3) =>
      (∀ y ∈ t.lock.entries, y.addr ≠ x.addr) ∧ t.lock.brkcnt = inc32 s.lock.brkcnt ∧ t.lock.lbladdr = x.addr ∧
      t.lock.lblchan.toNat = x.chan % 2 ^ 23 ∧ t.lock.lblcause = cause ∧
      (ok = true → ∃ q, t.lm = s.lm ++ [q] ∧ q.op = .upd8 ∧ q.addr = x.addr ∧ q.len = 8 ∧ q.value = (1 : Word) <<< 41 ∧ q.wmask = (3 : Word) <<< 40 ∧
        q.cmask = 0 ∧ q.add = 0 ∧ q.purpose = .breakWord) ∧
      (ok = false → t.lm = s.lm) ∧
      t.ctl.evpends.getLsbD 8 = true ∧ (getFn t (familyOf t x.fn)).evcause.getLsbD 4 = true
    (tested s islDsp = false → lockAt s a = some x → x.releasing = true ∨ s.time.toNat < x.expiry.toNat →
      exec (.leaseExpiry a) s = .next s) ∧
    (tested s islDsp = false → lockAt s a = some x → x.releasing = false → x.expiry.toNat ≤ s.time.toNat → s.lock.waiting = [] →
      ∃ t, exec (.leaseExpiry a) s = .next t ∧ broken t 0 ∧ t.dsp.ctx = s.dsp.ctx ∧ durable t = durable s) ∧
    (tested s islDsp = false → lockAt s a = some x → x.releasing = false → x.expiry.toNat ≤ s.time.toNat →
      ∃ t k, exec (.leaseExpiry a) s = .next t ∧ broken t k ∧ t.dsp.ctx = s.dsp.ctx ∧ durable t = durable s) ∧
    (isKc r = true → lockAt s w = none → exec (.lockBreakCommand r) s = .next s0) ∧
    (isKc r = true → lockAt s w = some x → x.releasing = true ∨ waits → exec (.lockBreakCommand r) s = .next s0) ∧
    (isKc r = true → lockAt s w = some x → x.releasing = false → ¬ waits → engOf s x.chan = none → orphanOut s x.chan = false →
      ∃ t, exec (.lockBreakCommand r) s = .next t ∧ broken t 4 ∧ t.lock.found = true ∧ durable t = durable s) ∧
    (isKc r = true → lockAt s w = some x → x.releasing = false → ¬ waits → engOf s x.chan = none → orphanOut s x.chan = true →
      ∃ t, exec (.lockBreakCommand r) s = .next t ∧ t.lock.entries = s.lock.entries ∧
        t.lock.waiting = s.lock.waiting ++ [{ addr := x.addr, cause := 4, after := true }] ∧ durable t = durable s) ∧
    (isKc r = true → lockAt s w = some x → x.releasing = false → ¬ waits → (engOf s x.chan).isSome = true →
      ∃ t, exec (.lockBreakCommand r) s = .next t ∧ t.lock.entries = s.lock.entries ∧
        t.lock.waiting = s.lock.waiting ++ [{ addr := x.addr, cause := 4 }] ∧ durable t = durable s)

/-- R216, R217, R219, R222, R223, R225, R235: one decision of the crossbar. A beat passes on every held lane first, and a
holder with nothing left drops its lane. The candidate that ranks ahead of every other then gets the lowest free
lane; where none is free the lowest that is parked on another requester; where none is parked the lane, of those at a
break point whose holder does not rank ahead of it, whose holder ranks last. A lane at no break point keeps its
holder. No requester comes to hold more lanes than its limit, it takes in every request presented since the last one,
and the pending queue never passes 256 entries; a frozen crossbar grants nothing, and its holders at a break point
lose their lanes. R222, R231: how two requests rank, step by step. R223: the lane a displaced holder loses. R227,
R228, R224, R226, R235: one decision of a cluster, at the end of a transfer where the uplink is held. With a frozen
cluster nothing is granted. With nothing waiting the uplink stays free, and the cluster's request at the crossbar is
withdrawn; else the port that ranks ahead of every other owns it, and the cluster's request carries the earliest
deadline of its ports. A port that owns the uplink sends its oldest transfer; behind its last one it drops the
uplink, which stays parked on it where no other port asks. At a break point of its own the uplink passes to the best
other port if that ranks ahead of its next transfer, and is kept elsewhere. R219, R224, R225, R232: a lane whose
holder has no further transfer is parked on it, or free where a request that may still hold a lane waits; a request
told "not parked" is presented again once its time has come, and takes a lane parked on its requester where nothing
competes; a slot's end begins the next, at its first nanosecond, but for the last of the frame. The order in which
requests are counted and presented at the crossbar is the model's (log entry 20). -/
def Obligations.Arbitration : Prop :=
  (∀ (s : State), live s = true → tested s islXbr = false →
     let u := dropEmpty (passBeats (slotCount s))
     let c := candidates u
     (∀ i < nLanes s, ∀ r b, passBeat (laneAt s i) = .held r b →
       (reqEmpty s r = true → laneAt u i = .free ∨ laneAt u i = .parked r.idx r.ord) ∧
       (reqEmpty s r = false → laneAt u i = .held r b)) ∧
     ∃ t, exec .xbarDecision s = .next t ∧ t.xbar.fresh = [] ∧
       ((∀ i, lanesHeldBy s i ≤ laneLimit i) → ∀ i, lanesHeldBy t i ≤ laneLimit i) ∧
       (s.xbar.pend.length ≤ 256 → t.xbar.pend.length ≤ 256) ∧
       (s.xbar.freeze = true → ∀ i, i < nLanes s →
         (∀ r, passBeat (laneAt s i) = .held r false → reqEmpty s r = false → laneAt t i = .held r false) ∧
         (∀ r b, passBeat (laneAt s i) = .held r b → (b = true ∨ reqEmpty s r = true) → laneAt t i = .free)) ∧
       (s.xbar.freeze = false → ∀ i, i < nLanes s →
         ∀ r, passBeat (laneAt s i) = .held r false → reqEmpty s r = false → laneAt t i = .held r false) ∧
       (s.xbar.freeze = false → ∀ q ∈ c, (∀ p ∈ c, p = q ∨ (xahead u q p = true ∧ xahead u p q = false)) →
         (∀ i, firstLane u (fun l => l == .free) = some i → laneAt t i = granted q) ∧
         ((∀ n < nLanes u, laneAt u n ≠ .free) → ∀ i < nLanes u, ∀ x y, laneAt u i = .parked x y → x ≠ q.idx →
           (∀ n < i, ∀ x y, laneAt u n = .parked x y → x = q.idx) → laneAt t i = granted q) ∧
         ((∀ n < nLanes u, laneAt u n ≠ .free ∧ ∀ x y, laneAt u n = .parked x y → x = q.idx) →
           ∀ i r, weakestLane u q = some (i, r) → laneAt t i = granted q ∧
             (c = [q] → t.xbar.preempts = inc32 s.xbar.preempts)) ∧
         ((∀ n < nLanes u, laneAt u n ≠ .free ∧ ∀ x y, laneAt u n = .parked x y → x = q.idx) →
           weakestLane u q = none → t.xbar.lanes = (clearBreaks u).xbar.lanes ∧ t.xbar.preempts = s.xbar.preempts)) ∧
       t.dsp = s.dsp ∧ t.eng = s.eng ∧ t.time = s.time ∧ durable t = durable s) ∧
  (∀ (s : State) (a b : XReq),
     (isReserved s a ≠ isReserved s b → xahead s a b = isReserved s a) ∧
     (isReserved s a = isReserved s b →
       (a.overdue ≠ b.overdue → xahead s a b = a.overdue) ∧
       (a.overdue = false → b.overdue = false → dlAhead a.deadline b.deadline = true → xahead s a b = true) ∧
       (a.overdue = false → b.overdue = false → dlAhead a.deadline b.deadline = false → dlAhead b.deadline a.deadline = true →
         xahead s a b = false) ∧
       (a.overdue = b.overdue → (a.overdue = true ∨ (dlAhead a.deadline b.deadline = false ∧ dlAhead b.deadline a.deadline = false)) →
         (a.stamp ≠ b.stamp → xahead s a b = decide (a.stamp.toNat < b.stamp.toNat)) ∧
         (a.stamp = b.stamp → a.idx ≠ b.idx → xahead s a b = decide (a.idx < b.idx)) ∧
         (a.stamp = b.stamp → a.idx = b.idx → xahead s a b = decide (a.ord < b.ord)))) ∧
     (isReserved s a = true ↔ (slotEntry s).getLsbD 7 = true ∧ reqPresent s (fld (slotEntry s) 0 7) = true ∧
       fld (slotEntry s) 0 7 = a.idx) ∧
     (∀ i r, weakestLane s a = some (i, r) → laneAt s i = .held r true ∧ xahead s r a = false) ∧
     (∀ i r, i < nLanes s → laneAt s i = .held r true → xahead s r a = false →
       (∀ j r', j < nLanes s → laneAt s j = .held r' true → xahead s r' a = false → j = i ∨ (xahead s r' r = true ∧ xahead s r r' = false)) →
       weakestLane s a = some (i, r))) ∧
  (∀ (s : State) (k : Nat), live s = true → k < nClusters s → tested s (18 + k) = false →
     let c := getClu s k
     let own := 16 * k + c.owner.toNat
     (c.granted = false → c.freeze = true → ∃ t, exec (.clusterDecision k) s = .next t ∧ getClu t k = c ∧
       (∀ p, (getPort t p).inq = (getPort s p).inq) ∧ durable t = durable s) ∧
     (c.granted = false → clusterReqs s k none = [] → ∃ t, exec (.clusterDecision k) s = .next t ∧ getClu t k = c ∧
       (∀ r ∈ waitingReqs t, r.idx ≠ k) ∧ durable t = durable s) ∧
     (c.granted = false → c.freeze = false → ∀ q ∈ clusterReqs s k none,
       (∀ p ∈ clusterReqs s k none, p = q ∨ (cahead q p = true ∧ cahead p q = false)) →
       ∃ t, exec (.clusterDecision k) s = .next t ∧ (getClu t k).granted = true ∧
         (getClu t k).owner = BitVec.ofNat 4 q.idx ∧
         (∃ r ∈ allReqs t, r.idx = k ∧ earliest ((clusterReqs s k none).map (·.deadline)) = some r.deadline) ∧ durable t = durable s) ∧
     (c.granted = true → (getPort s own).inq = [] → c.quern = false →
       ∃ t, exec (.clusterDecision k) s = .next t ∧ (getClu t k).granted = false ∧ durable t = durable s) ∧
     (c.granted = true → ∀ x rest, (getPort s own).inq = x :: rest →
       ∃ t, exec (.clusterDecision k) s = .next t ∧ (getPort t own).inq = rest ∧ durable t = durable s ∧
         (rest = [] → c.quern = false → (getClu t k).granted = false ∧
           (c.freeze = false → (getClu t k).parked = (clusterReqs s k (some c.owner.toNat)).isEmpty)) ∧
         (rest ≠ [] → x.brk = false → (getClu t k).granted = true ∧ (getClu t k).owner = c.owner) ∧
         (rest ≠ [] → x.brk = true → c.freeze = true → (getClu t k).granted = false) ∧
         (∀ y l, rest = y :: l → x.brk = true → c.freeze = false →
           let o : XReq := { idx := c.owner.toNat, ord := 0, deadline := y.deadline, stamp := (getPort s own).ask.stamp, overdue := (getPort s own).ask.overdue }
           (∀ q ∈ clusterReqs s k (some c.owner.toNat), cahead q o = true →
             (∀ p ∈ clusterReqs s k (some c.owner.toNat), p = q ∨ (cahead q p = true ∧ cahead p q = false)) →
             (getClu t k).granted = true ∧ (getClu t k).owner = BitVec.ofNat 4 q.idx ∧ (getClu t k).preempts = inc32 c.preempts) ∧
           ((∀ q ∈ clusterReqs s k (some c.owner.toNat), cahead q o = false) →
             (getClu t k).granted = true ∧ (getClu t k).owner = c.owner)))) ∧
  (∀ (s : State) (lane i : Nat), live s = true → tested s islXbr = false →
     (∀ r b, laneAt s lane = .held r b →
       let s1 := slotCount s
       let waits := ∃ q ∈ s.xbar.fresh ++ s.xbar.pend, lanesHeldBy s q.idx < laneLimit q.idx ∨ q.idx = r.idx
       (reqEmpty s r = false → exec (.laneDrop lane) s = .next s) ∧
       (reqEmpty s r = true → waits ∨ s.xbar.freeze = true → exec (.laneDrop lane) s = .next (setLane lane .free s1)) ∧
       (reqEmpty s r = true → ¬ waits → s.xbar.freeze = false →
         exec (.laneDrop lane) s = .next (setLane lane (.parked r.idx r.ord) s1))) ∧
     (∀ r t, s.xbar.unparked[i]? = some (r, t) → t.toNat ≤ s.time.toNat →
       ∃ u, exec (.xbarRepresent i) s = .next u ∧ u.xbar.unparked = s.xbar.unparked.eraseIdx i ∧ u.xbar.pend = s.xbar.pend ∧
         ((s.xbar.freeze = true ∨ (∀ n, n < nLanes s → ∀ o, laneAt s n ≠ .parked r.idx o)) →
           u.xbar.fresh = s.xbar.fresh ++ [r] ∧ u.xbar.lanes = s.xbar.lanes) ∧
         (s.xbar.freeze = false → candidates s = [] → ∀ n o, n < nLanes s → laneAt s n = .parked r.idx o →
           (∀ m < n, ∀ o', laneAt s m ≠ .parked r.idx o') → laneAt u n = granted r ∧ u.xbar.fresh = s.xbar.fresh) ∧
         durable u = durable s) ∧
     (lastSlot s ≤ s.xbar.slot.toNat → exec .slotBoundary s = .next s) ∧
     (s.xbar.slot.toNat < lastSlot s → ∃ t, exec .slotBoundary s = .next t ∧ t.xbar.slot = s.xbar.slot + 1 ∧
       t.time = later s.time (slotStart s (s.xbar.slot.toNat + 1)) ∧ t.xbar.lanes = s.xbar.lanes ∧ t.dsp = s.dsp ∧ durable t = durable s))

/-- R384, R385, R396: a seam. Block time goes to the next multiple of 2,560 ns and SEAM counts it; outside the stops of a
power failure every armed group's active settings become its shadow settings, all at once, SHPEND reads 0 and SHSEAM
is the seam. After WARN nothing is swapped. That the command takes block time on to the seam at once is the model's
choice (log entry 10). R261 to R263, R265, R396: the barrier at a seam. An armed barrier copies the shadow rules of
its gates to the active rules in that seam, and in no other way; the other gates keep theirs. Without an armed
barrier, or after WARN, every active rule stays. An armed table instance swaps its epochs there and counts its
generation; that no epoch is swapped after WARN is the model's reading (log entry 37). -/
def Obligations.SeamSwaps : Prop :=
  (∀ (s : State), s.inReset = false →
     ∃ t, exec .seam s = .next t ∧ t.seam = inc32 s.seam ∧ t.time = w64 ((s.time.toNat / 2560 + 1) * 2560) ∧
       t.shadow = s.shadow ∧ t.cfg = s.cfg ∧ t.cmem = s.cmem ∧ t.kram = s.kram ∧ t.rsram = s.rsram ∧
       (s.pf.stage = .normal → t.active = swapped s.shpend s.active s.shadow ∧ t.shpend = 0 ∧
         (s.shpend ≠ 0 → t.shseam = inc32 s.seam)) ∧
       (s.pf.stage ≠ .normal → t.active = s.active ∧ t.shpend = s.shpend ∧ t.shseam = s.shseam)) ∧
  (∀ (s : State), s.inReset = false →
     ∃ t, exec .seam s = .next t ∧
       (∀ m, s.pf.stage = .normal → s.gate.armed = true → s.gate.latched = some m →
         t.gate.barseam = inc32 s.seam ∧
         (∀ x : Nat × Rule, x ∈ t.gate.active ↔ (x ∈ s.gate.active ∧ inMask s m (x.1 / 64) = false) ∨
           (x ∈ s.gate.shadow ∧ inMask s m (x.1 / 64) = true))) ∧
       (s.gate.armed = false ∨ s.pf.stage ≠ .normal → t.gate.active = s.gate.active ∧ t.gate.barseam = s.gate.barseam) ∧
       (∀ i, i < 16 → s.pf.stage = .normal → (getInst s i).armed = true →
         (getInst t i).act = !(getInst s i).act ∧ (getInst t i).gen = inc32 (getInst s i).gen ∧
         (getInst t i).armed = false ∧ (getInst t i).retiredAt = some t.time) ∧
       (∀ i, s.pf.stage ≠ .normal → getInst t i = getInst s i))

/-- R235, R259, R260, R265, R266, R385, R406: what firmware arms and writes. SHARM adds groups to those pending and
changes no setting; a rule's word goes to the shadow rule alone, and is refused with WREF while its gate waits to
swap; arming a barrier latches its mask, or sets ERR with the first malformed rule; VLOGRD moves only within the log;
a freeze takes effect at once, and where it ends, the requests and the answers that stood behind it go on. -/
def Obligations.ArmingAndFreezing : Prop :=
  ∀ (s : State) (r : Requester), live s = true →
    let a := access r s
    (isFirmware r = true →
      (∀ mask, exec (.sharm r mask) s = .next { a with shpend := s.shpend ||| bits mask 0 7 }) ∧
      (∀ on, let u := modXbar (fun x => { x with freeze := on }) (wakeIsl islXbr (slotCount a))
        exec (.xbarFreeze r on) s = .next (if s.xbar.freeze && !on then answersGo (requestsGo u) else u) ∧
        u.xbar.fresh = s.xbar.fresh ∧ u.xbar.pend = s.xbar.pend ∧ u.xbar.lanes = s.xbar.lanes ∧ u.dsp = s.dsp ∧
        durable u = durable s) ∧
      (∀ k on, k < nClusters s → let u := modClu k (fun c => { c with freeze := on }) (wakeIsl (18 + k) a)
        exec (.clusterFreeze r k on) s = .next (if (getClu s k).freeze && !on then answersGo u else u) ∧
        (getClu u k).freeze = on ∧ (getClu u k).parked = (getClu s k).parked ∧ (getClu u k).owner = (getClu s k).owner ∧
        (∀ j, j ≠ k → getClu u j = getClu s j) ∧ durable u = durable s) ∧
      (∀ u, u.xback = [] → answersGo u = u)) ∧
    (isKc r = true →
      (∀ rule word v, rule < 64 → gatePresent s s.gate.gsel.toNat = true →
        let k := 64 * s.gate.gsel.toNat + rule
        (ruleLocked s s.gate.gsel.toNat = true →
          exec (.gateRuleWrite r rule word v) s = .next (modGate (fun x => { x with wref := true }) a)) ∧
        (ruleLocked s s.gate.gsel.toNat = false → ∃ t, exec (.gateRuleWrite r rule word v) s = .next t ∧
          tget {} t.gate.shadow k = setRuleWord word v (tget {} s.gate.shadow k) ∧
          (∀ j, j ≠ k → tget {} t.gate.shadow j = tget {} s.gate.shadow j) ∧ t.gate.active = s.gate.active ∧
          durable t = durable s)) ∧
      (s.gate.latched = none → badRule s (gateMask s.gate) = none →
        exec (.gateBarrierArm r) s = .next (modGate (fun g => { g with
          armed := true, done := false, err := false, wref := false, latched := some (gateMask s.gate) }) a)) ∧
      (s.gate.latched = none → ∀ k, badRule s (gateMask s.gate) = some k →
        exec (.gateBarrierArm r) s = .next (modGate (fun g => { g with
          err := true, errgate := BitVec.ofNat 7 (k / 64), errrule := BitVec.ofNat 6 (k % 64) }) a)) ∧
      (s.gate.latched ≠ none → exec (.gateBarrierArm r) s = .next (modGate (fun g => { g with err := true, errgate := 0x7F }) a)) ∧
      (∀ v, (v - s.gate.vlogrd).toNat ≤ (s.gate.vlogwr - s.gate.vlogrd).toNat →
        exec (.vlogrdWrite r v) s = .next (modGate (fun g => { g with vlogrd := v }) a)) ∧
      (∀ v, (s.gate.vlogwr - s.gate.vlogrd).toNat < (v - s.gate.vlogrd).toNat → exec (.vlogrdWrite r v) s = .next a))

/-- R92, R208, R209, R235, R432, R434, R436: the answers of a memory port. An answer crosses to its requester, but for
what DSP issued for itself; behind a frozen crossbar it stands where its port has no lane. Read data of a request
join what has arrived; the last of them, or an answer of failure without data, ends the request with the bytes before
the failure, and its tag is free again. A write's response ends it with status 0 or TARGET_ERROR; the answer to an
update is its requester's. That the answers to what DSP issued for itself cross no lane is the model's choice (log
entry 20); the clauses are for ports and units under no test. -/
def Obligations.MemoryAnswers : Prop :=
  ∀ (s : State) (n tag : Nat) (resp : MResp) (data : List Byte) (old : Word) (r : LmReq), s.inReset = false →
    tested s (islLmp n) = false → answerWaits s r.purpose = false → lmFind s n tag = some r →
    let d := r.got ++ data.take (r.len - r.got.length)
    let code := if r.bad = 0 then (match resp with
      | .ok => (0 : Byte)
      | .err => 0x21
      | .poison => 0x23) else r.bad
    let sound := if code = 0 then d.length else if r.bad = 0 then r.got.length else r.badAt
    let past (k : Nat) := if ownAccess r.purpose = true then s else xLm r.port r.dl k s
    let crosses (k : Nat) := ownAccess r.purpose = true ∨ xstands (past k) (76 + n) 0 = false
    (r.op = .read → readElsewhere r.purpose = false → crosses data.length →
      ((d.length = r.len ∨ (code ≠ 0 ∧ data = [])) → exec (.lmReadData n tag resp data) s =
        .next (afterRead r.purpose (readEnds r.purpose r.addr code (d.take sound) (lmRetire r.port r.tag (past data.length))))) ∧
      (d.length ≠ r.len → (code = 0 ∨ data ≠ []) → exec (.lmReadData n tag resp data) s =
        .next { past data.length with
          lm := replaceFirst (fun x => x.port == r.port && x.tag == r.tag) (fun x => { x with
            got := d, bad := code, badAt := if x.bad == 0 && code != 0 then x.got.length else x.badAt }) (past data.length).lm })) ∧
    (r.op ≠ .read → r.op ≠ .upd8 → writeElsewhere r.purpose = false → crosses 0 →
      let c : Byte := if resp = .ok then 0 else 0x21
      exec (.lmWriteResponse n tag resp) s = .next (afterWrite r.purpose (writeEnds r.purpose r.len c
        (tsvWriteEnds r.purpose r.addr c (lmRetire r.port r.tag (past 0)))))) ∧
    (r.op = .upd8 → r.purpose ≠ .owncopy → crosses 8 →
      let u := lmRetire r.port r.tag (past 8)
      (∀ e, purposeEng r.purpose = some e →
        exec (.lmUpd8Response n tag resp old) s = .next (barrierStep (engAfter e (engUpd8Ends r e resp old u)))) ∧
      (purposeEng r.purpose = none →
        exec (.lmUpd8Response n tag resp old) s = .next (barrierStep (dspUpd8Ends r resp old u)))) ∧
    (ownAccess r.purpose = false →
      (r.op = .read → xstands (past data.length) (76 + n) 0 = true → exec (.lmReadData n tag resp data) s =
        .next { past data.length with xback := (past data.length).xback ++ [.lmRead n tag resp data] }) ∧
      (r.op ≠ .read → r.op ≠ .upd8 → writeElsewhere r.purpose = false → xstands (past 0) (76 + n) 0 = true →
        exec (.lmWriteResponse n tag resp) s = .next { past 0 with xback := (past 0).xback ++ [.lmWrite n tag resp] }) ∧
      (r.op = .upd8 → xstands (past 8) (76 + n) 0 = true → exec (.lmUpd8Response n tag resp old) s =
        .next { past 8 with xback := (past 8).xback ++ [.lmUpd8 n tag resp old] }))

/-- R235, R275 to R280: a completion piece. One for no allocated slot, or for a quarantined one, is logged as late; data
for a read that is still used cross to it, or stand behind a frozen crossbar; one that fits is added to its read,
which ends with the last byte; a status or a piece that breaks the order ends the read with TARGET_ERROR, the latter
quarantining the slot; a piece for a discarded read is counted where an abort, a function stop or a reset discarded
it. A timeout, and COMPLETION_TIMEOUT past the slot's limit, quarantine the slot and end the read with READ_TIMEOUT;
a quarantine ends when its time has passed; a barrier's flush read ends as any completion. That the answers of a
barrier's and of Cairn's reads have commands of their own (log entry 24) and that a timeout comes behind the pieces
that came before (log entry 66) are the model's choices. R124, R155, R162, R277, R279: what a timeout and a late
completion do. The slot of a read that times out is quarantined until twice its CTO has passed; CPLTOCNT counts one
and CPL_TIMEOUT is posted, but for a read ahead, of which nothing is told, and a speculative read, which tells it
when its descriptor is confirmed; the read ends with READ_TIMEOUT from its first missing byte on. A late or
unexpected completion is logged with its tag, counted and reported. -/
def Obligations.HostCompletions : Prop :=
  (∀ (s : State) (h i : Nat) (x : Slot) (p : Piece), s.inReset = false → h < nHosts s → tested s (islHpt h) = false →
     let used := x.disc = .no ∧ answeredElsewhere x.purpose = false
     let u := xHost h x.fn x.dl p.data.length s
     (taggedSlot s h p.tag = none → exec (.hostCompletionPiece h p) s =
       .next (if p.timeout then s else lateLog h p.tag none s)) ∧
     (taggedSlot s h p.tag = some (i, x) → x.quarUntil.isSome = true → exec (.hostCompletionPiece h p) s =
       .next (if p.timeout then s else pieceGone h i x p false (lateLog h p.tag (some x.fn) s))) ∧
     (taggedSlot s h p.tag = some (i, x) → x.quarUntil = none →
       (p.timeout = true → ¬ used ∨ piecesBehind s h p.tag = [] →
         exec (.hostCompletionPiece h p) s = .next (timeoutSlot h i x s)) ∧
       (p.timeout = false → answeredElsewhere x.purpose = true → exec (.hostCompletionPiece h p) s = .next s) ∧
       (p.timeout = false → answeredElsewhere x.purpose = false → x.disc ≠ .no →
         exec (.hostCompletionPiece h p) s = .next (pieceGone h i x p (x.disc == .stop) s)) ∧
       (p.timeout = false → used → xstands u (72 + h) 0 = true → exec (.hostCompletionPiece h p) s =
         .next { u with xback := u.xback ++ [.piece h p] }) ∧
       (p.timeout = false → used → xstands u (72 + h) 0 = false →
         (p.status ≠ 0 → exec (.hostCompletionPiece h p) s = .next (slotDone h i x 0x21 u)) ∧
         (p.status = 0 → pieceBad x p = true →
           exec (.hostCompletionPiece h p) s = .next (hostEnds h x 0x21 (quarantine h i u))) ∧
         (p.status = 0 → pieceBad x p = false →
           let y := { x with got := x.got ++ p.data, poisonAt := if p.poison then some (x.poisonAt.getD x.got.length) else x.poisonAt }
           let v := hostStage x p.data p.poison u
           ((x.got ++ p.data).length = x.len → exec (.hostCompletionPiece h p) s = .next (slotDone h i y 0 v)) ∧
           ((x.got ++ p.data).length ≠ x.len → exec (.hostCompletionPiece h p) s =
             .next (match x.purpose with
               | .src e _ => engAfter e (modSlot h i (fun _ => y) v)
               | _ => modSlot h i (fun _ => y) v))))) ∧
     (getSlot s h i = some x → taggedSlot s h (timeoutPiece i x).tag = some (i, x) → x.quarUntil = none →
       x.cto ≤ (s.time - x.issued).toNat → piecesBehind s h (timeoutPiece i x).tag = [] → x.got.length < x.len →
       exec (.completionTimeout h i) s = .next (timeoutSlot h i x s)) ∧
     (getSlot s h i = some x → behindEnds s h i x = true → exec (.completionTimeout h i) s = .next s) ∧
     (getSlot s h i = some x → x.quarUntil.isSome = true ∨ (s.time - x.issued).toNat < x.cto →
       exec (.completionTimeout h i) s = .next s) ∧
     (getSlot s h i = some x → ∀ t, x.quarUntil = some t → t.toNat ≤ s.time.toNat →
       exec (.quarantineExpiry h i) s = .next (slotFree h i s)) ∧
     (getSlot s h i = some x → x.quarUntil = none → ∀ fn, x.purpose = .barrier fn →
       exec (.barrierFlushReadDone h i) s = .next (barrierStep (barrierReadEnds h fn x.wseq (slotFree h i s))))) ∧
  (∀ (s : State) (h i : Nat) (x : Slot) (tag : BitVec 14),
     (getSlot s h i = some x →
       let q := quarantine h i s
       getSlot q h i = some { x with quarUntil := some (s.time + w64 (2 * x.cto)), purpose := .dropped } ∧
       timeoutSlot h i x s = (if x.disc = .no ∧ x.purpose ≠ .dropped then hostEnds h x 0x22 (timeoutTold h x q)
         else barrierStep (timeoutTold h x q))) ∧
     (∀ e y l z, x.purpose = .ahead e y l z → timeoutTold h x s = s) ∧
     (∀ e off, x.purpose = .src e off →
       (onSpec s e = true → timeoutTold h x s = modThr e (fun t => { t with timeouts := t.timeouts ++ [x.fn] }) s) ∧
       (onSpec s e = false → timeoutTold h x s = reportTimeout h x.fn s) ∧
       hostEnds h x 0x22 s = afterRead x.purpose (srcFails e (off + x.got.length) 0x22 s)) ∧
     (isFlush x.purpose = true → x.disc = .no → timeoutTold h x s = reportTimeout h x.fn s ∧
       hostEnds h x 0x22 s = afterWrite x.purpose (flushEnds x.purpose h x.fn x.wseq 0x22 s)) ∧
     (let t := reportTimeout h x.fn s
      (getHp t h).cpltocnt = inc32 (getHp s h).cpltocnt ∧ t.ctl.evpends.getLsbD 10 = true ∧
       (getFn t (familyOf t x.fn)).evcause.getLsbD 6 = true ∧ t.dsp = s.dsp ∧ t.eng = s.eng ∧ durable t = durable s) ∧
     (∀ f, let t := lateLog h tag f s
       (getHp t h).lateTag = tag ∧ (getHp t h).lateUnexp = f.isNone ∧ (getHp t h).lateSeam = s.seam ∧
       (getHp t h).latecnt = (if f.isSome then inc32 (getHp s h).latecnt else (getHp s h).latecnt) ∧
       (getHp t h).unexcnt = (if f.isNone then inc32 (getHp s h).unexcnt else (getHp s h).unexcnt) ∧
       t.ctl.evpends.getLsbD 11 = true ∧ durable t = durable s))

/-- R254, R255, R262, R296, R299, R339, R376: buffered writes. The oldest waiting write enters its buffer where there is
room and is confirmed, but for one at or above the end of control memory, which has TARGET_ERROR; the oldest of a
buffer leaves it behind the reads that came before: to a port that is up, or into control memory, if the gate allows
it; else it is dropped with a log entry or one more in VLOGLOST, NOTICECNT counts it, and its function's notice bit
and GATE_NOTICE are set; a write that was checked before its link trained again keeps its verdict; at a port that is
down it is counted and dropped; the port's acceptance frees the port; control memory answers a read of movement work
with the bytes that stand in it. That a speculative read below v3 holds up no later write is the model's choice (log
entry 85). -/
def Obligations.BufferedTargets : Prop :=
  ∀ (s : State) (p e : Nat) (w : BufWrite) (rest : List BufWrite), mayIssue s = true → tested s (islPort p) = false →
    ((getPort s p).wwait = w :: rest → w.xheld = false → (getPort s p).wbuf.length < 4 →
      exec (.bufferedWriteAck (.port p)) s = .next (ackWrite w (modPort p (fun k => { k with
        wwait := rest, wbuf := k.wbuf ++ [{ w with ord := k.ord }], ord := k.ord + 1 }) s))) ∧
    (s.cwait = w :: rest → w.xheld = false → cbufBytes s + w.data.length ≤ 4096 →
      (w.addr.toNat < 0x1000000 →
        exec (.bufferedWriteAck .ctl) s = .next (ackWrite w (undefJoin { s with cwait := rest, cbuf := s.cbuf ++ [w] }))) ∧
      (0x1000000 ≤ w.addr.toNat → exec (.bufferedWriteAck .ctl) s =
        .next (afterWrite w.purpose (writeEnds w.purpose w.data.length 0x21 (undefJoin { s with cwait := rest }))))) ∧
    ((getPort s p).wbuf = w :: rest →
      let v := gateCheck s (p / 16) (whoBuf w) .wr w.addr w.data.length w.fix
      let gone := modPort p (fun k => { k with wbuf := rest }) s
      (portDown (getPort s p) = true → exec (.bufferedWriteLeave (.port p)) s =
        .next (modPort p (fun k => { k with ldrop := inc32 k.ldrop }) gone)) ∧
      (portDown (getPort s p) = false → (getPort s p).lstate = .up → (getPort s p).sending = none →
        (∀ r ∈ (getPort s p).rwait, w.ord ≤ r.ord ∨ (r.spec = true ∧ (getPort s p).ver ≠ 3)) →
        (w.checked = true ∨ v.ok = true → exec (.bufferedWriteLeave (.port p)) s =
          .next (sendLane p (writeTokens w) (modPort p (fun k => { k with sending := some { w with checked := true } }) gone))) ∧
        (w.checked = false → v.ok = false → exec (.bufferedWriteLeave (.port p)) s =
          .next (portPump p (denyNotice (p / 16) (whoBuf w) w.addr w.data.length v gone))))) ∧
    ((∀ x ∈ s.cwait.head?, x.undef = false) → undefJoin s = s) ∧
    (s.cbuf = w :: rest → w.undef = false →
      let v := gateCheck s 70 (whoBuf w) .wr (alignDown w.addr 4) (max w.data.length 4) w.fix
      (v.ok = true → exec (.bufferedWriteLeave .ctl) s = .next (barrierStep
        (eccMend w.addr.toNat (if w.fix then 4 else w.data.length) { s with cbuf := rest, cmem := cmemPut w s.cmem }))) ∧
      (v.ok = false → let t := barrierStep (denyNotice 70 (whoBuf w) (alignDown w.addr 4) (max w.data.length 4) v { s with cbuf := rest })
        exec (.bufferedWriteLeave .ctl) s = .next t ∧ t.cmem = s.cmem)) ∧
    (∀ g who a n v, let t := denyNotice g who a n v s
      t.gate.noticecnt = inc32 s.gate.noticecnt ∧ t.gate.denycnt = s.gate.denycnt ∧ t.gate.vlogrd = s.gate.vlogrd ∧
      (s.gate.vlogwr - s.gate.vlogrd = 256 → t.gate.vloglost = inc32 s.gate.vloglost ∧ t.gate.vlog = s.gate.vlog) ∧
      (s.gate.vlogwr - s.gate.vlogrd ≠ 256 → t.gate.vlogwr = inc32 s.gate.vlogwr ∧ t.gate.vloglost = s.gate.vloglost ∧
        tget {} t.gate.vlog (s.gate.vlogwr.toNat % 256) = logEntry s g who .wr a n v false) ∧
      (who.cls = 0 → (getFn t who.fn).notice = true ∧ t.ctl.evpends.getLsbD 9 = true ∧
        (getFn t (familyOf t who.fn)).evcause.getLsbD 5 = true) ∧
      (who.cls ≠ 0 → t.fn = s.fn ∧ t.ctl.evpendk.getLsbD 8 = true) ∧ durable t = durable s) ∧
    ((getPort s p).sending = some w → exec (.portWriteAccepted p) s =
      .next (barrierStep (portPump p (modPort p (fun k => { k with sending := none, reqAt := none }) (stir p s))))) ∧
    (∀ r others, ctlReadOf s e = some (r, others) → r.fix = false →
      let u := xCtlData r.dl r.len s
      let a := r.addr.toNat
      (xstands u 79 0 = true → exec (.controlMemoryReadData e) s = .next { u with xback := u.xback ++ [.ctlRead e] }) ∧
      (xstands u 79 0 = false → eccAt s a r.len = false → a + r.len ≤ 0x1000000 → exec (.controlMemoryReadData e) s =
        .next (afterRead r.purpose (readEnds r.purpose r.addr 0 (memRead s.cmem a r.len) (softRead 11 a r.len { u with cread := others })))) ∧
      (xstands u 79 0 = false → eccAt s a r.len = false → 0x1000000 < a + r.len → exec (.controlMemoryReadData e) s =
        .next (afterRead r.purpose (readEnds r.purpose r.addr 0x21 [] (softRead 11 a r.len { u with cread := others })))))

/-- R270, R271, R282 to R284: the configuration mirror of a function. A mirror in which bus master enable does not fall
and FLRREQ does not rise is stored, and only reads that wait for a slot may take one that a new TAGW opens; a fall of
bus master enable stops the function with lock-break cause 2; a rise of FLRREQ starts a function level reset, which
takes its level, its notice bit, its event page and its waiting doorbells, and sweeps its contexts. R147, R211, R280,
R282: the steps of a function stop. The function's waiting requests are dropped, its outstanding reads are discarded;
every engine that runs a channel of it, or work for it, is told to stop, and its reads at the crossbar are withdrawn;
each of its locks is broken at once or once its owner's engine and writes are done, with the cause given; FN_STOP is
posted where an engine is told anew; and an engine with nothing unanswered stops its channel: STOPPED with
FUNCTION_STOPPED and OWN as it is. Whether the completions of speculative reads count in DISCNT is the model's choice
(log entry 86). -/
def Obligations.FunctionMirrors : Prop :=
  (∀ (s : State) (fn : Nat) (m : Mirror), s.inReset = false → fn < nFns s → tested s (islHpt (hptOf fn)) = false →
     let old := (getFn s fn).mir
     ((bmeOf s fn = false ∨ (m.present = true ∧ m.bme = true)) → (old.flrreq = true ∨ m.flrreq = false) →
       let t := modFn fn (fun f => { f with mir := m }) s
       exec (.functionMirrorUpdate fn m) s = .next (if m.tagw = old.tagw then t else hostServe (hptOf fn) t)) ∧
     (exec (.bmeRise fn) s = .next (modFn fn (fun f => { f with mir := { f.mir with bme := true } }) s)) ∧
     (bmeOf s fn = false →
       exec (.bmeFall fn) s = .next (modFn fn (fun f => { f with mir := { f.mir with bme := false } }) s)) ∧
     (bmeOf s fn = true →
       exec (.bmeFall fn) s = .next (stopFn fn 2 (modFn fn (fun f => { f with mir := { f.mir with bme := false } }) s))) ∧
     (old.flrreq = false → (getFn s fn).flrAt = none → ∃ t, exec (.flrRequest fn) s = .next t ∧
       (getFn t fn).mir.flrreq = true ∧ (getFn t fn).flrAt = some s.time ∧ (getFn t fn).sweeping = true ∧
       (getFn t fn).noBell = true ∧ (getFn t fn).level = 0 ∧ (getFn t fn).notice = false ∧ (getFn t fn).evmask = 0 ∧ (getFn t fn).evcause = 0 ∧
       fifoOf t (hptOf fn) = (fifoOf s (hptOf fn)).filter (fun d => d.fn != fn) ∧ durable t = durable s)) ∧
  (∀ (s : State) (fn : Nat) (cause : BitVec 3),
     (∀ es, es = fnEngines s fn → ∀ ws, ws = fnWorks s fn → ∀ u, u = breakFn fn cause (forAll (es ++ ws) fnTell (fnDiscard fn s)) →
       ((∀ e ∈ es, (getEng s e).stop = .fn) → stopFn fn cause s = barrierStep (forAll (es ++ ws) fnStopTry u)) ∧
       ((∃ e ∈ es, (getEng s e).stop ≠ .fn) → stopFn fn cause s = barrierStep (forAll (es ++ ws) fnStopTry (evFnStop fn u)))) ∧
     (let t := fnDiscard fn s
      let h := hptOf fn
      (∀ w ∈ (getHp t h).wait, w.fn ≠ fn) ∧
      (∀ i x, getSlot s h i = some x → x.fn = fn → x.quarUntil = none →
        ∃ y, getSlot t h i = some y ∧ y.purpose = .dropped ∧ y.disc ≠ .no ∧ y.got = x.got ∧ y.quarUntil = none) ∧
      (∀ i x, getSlot s h i = some x → (x.fn ≠ fn ∨ x.quarUntil.isSome = true) → getSlot t h i = some x) ∧
      t.eng = s.eng ∧ t.dsp = s.dsp ∧ t.lm = s.lm ∧ t.lock = s.lock ∧ durable t = durable s) ∧
     (∀ e, let t := fnTell e s
       (getEng t e).stop = .fn ∧ (getEng t e).stopping = true ∧ (getEng t e).main = (getEng s e).main ∧
       (∀ r ∈ waitingReqs t, r.idx = 64 + e / 4 → r.ord = e → ∀ b ∈ r.q, b.read = false) ∧ durable t = durable s) ∧
     (∀ x k, let t := breakOrWait x k s
       (x.releasing = true ∨ (∃ y ∈ s.lock.waiting, y.addr = x.addr) → t = s) ∧
       (x.releasing = false → (∀ y ∈ s.lock.waiting, y.addr ≠ x.addr) →
         (engOf s x.chan = none → orphanOut s x.chan = false → t = breakEntry x k s) ∧
         ((engOf s x.chan).isSome = true →
           t = modLock (fun l => { l with waiting := l.waiting ++ [{ addr := x.addr, cause := k }] }) s))) ∧
     (breakFn fn cause s = forAll (s.lock.entries.filter (fun x => x.fn == fn)) (fun x s => breakOrWait x cause s) s) ∧
     ((evFnStop fn s).ctl.evpends.getLsbD 12 = true ∧ (getFn (evFnStop fn s) (familyOf s fn)).evcause.getLsbD 8 = true) ∧
     (∀ e, (getEng s e).stop = .fn → fnStopReady s e = true → holdsChan s e = true → (getCtx s (chanOf s e)).direct = false →
       let t := fnStopTry e s
       (getCtx t (chanOf s e)).st = .stopped ∧ (getCtx t (chanOf s e)).lastcode = 0x31 ∧ (getEng t e).hold = .none ∧
         durable t = durable s) ∧
     (∀ e, (getEng s e).stop ≠ .fn ∨ fnStopReady s e = false → fnStopTry e s = s))

/-- R63, R286: one pass of the context sweep. A channel of a function under reset that no engine holds is IDLE with its
marks cleared, keeping its owner, class, windows, addresses and sequences; a channel on an engine is left for the
next pass; every other context is untouched. R285, R287: reset-done and interrupts. An acknowledgement takes its
function from the queue, and with no slot of the function outstanding its reset is done and reported; 1 ms without
one counts as late and ends the reset likewise; INTX_SEND sends the level of a physical function's interrupt when it
has changed. -/
def Obligations.ResetsOfFunctions : Prop :=
  (∀ (s : State), live s = true → tested s islDsp = false → ∃ t, exec .contextSweep s = .next t ∧ durable t = durable s ∧
     (∀ c, let x := getCtx s c
       (x.ov = true ∧ (getFn s x.owner.toNat).sweeping = true ∧ chanPresent s c = true ∧ engOf s c = none →
         getCtx t c = { x with st := .idle, pause := false, abort := false, go := false, pcv := false, direct := false
                               wdog := false, mid := false, l1 := false, resume := false, resumeProg := false, pacing := none, zeroGo := false }) ∧
       ((∀ y ∈ s.dsp.ctx, y.1 = c → y.2.ov = false ∨ (getFn s y.2.owner.toNat).sweeping = false) ∨ chanPresent s c = false ∨
           (engOf s c).isSome = true → getCtx t c = x)) ∧
     (∀ f, (getFn s f).sweeping = false → getFn t f = getFn s f) ∧
     (∀ f, (getFn s f).sweeping = true → (∀ c, engOf s c ≠ none → (getCtx s c).owner.toNat ≠ f) →
       (getFn t f).sweeping = false)) ∧
  (∀ (s : State) (fn : Nat), s.inReset = false →
     let free := ∀ x ∈ (getHp s (hptOf fn)).slots, x.2.fn = fn → x.2.quarUntil.isSome = true
     (∀ r h v, isKc r = true → h < nHosts s → h * 1024 + fld v 0 10 = fn →
       (free → s.pf.cut = false → (getFn s fn).flrAt.isSome = true → ∃ t, exec (.flrAck r h v) s = .next t ∧ (getFn t fn).flrAt = none ∧
         (∀ x ∈ (getHp t h).flrq, x ≠ fn) ∧ t.out.hr = s.out.hr ++ [(hptOf fn, localOf fn)] ∧ durable t = durable s) ∧
       ((getFn s fn).flrAt = none → exec (.flrAck r h v) s =
         .next (modHp h (fun p => { p with flrq := p.flrq.filter (fun x => x != fn) }) (access r s)))) ∧
     (∀ t0, (getFn s fn).flrAt = some t0 → (getFn s fn).flrAcked = false → (getFn s fn).flrTimed = false →
       1000000 ≤ (s.time - t0).toNat → free → tested s (islHpt (hptOf fn)) = false → s.pf.cut = false → ∃ t, exec (.flrTimeout fn) s = .next t ∧ (getFn t fn).flrAt = none ∧
         (getHp t (hptOf fn)).flrlate = inc32 (getHp s (hptOf fn)).flrlate ∧
         t.out.hr = s.out.hr ++ [(hptOf fn, localOf fn)] ∧ durable t = durable s) ∧
     (let f := getFn s fn
      let level := f.evcause &&& f.evmask != 0 && !f.mir.intdis
      live s = true → s.pf.cut = false → tested s (islHpt (hptOf fn)) = false → f.mir.pf = true →
       (f.intSent = level → exec (.intxSend fn) s = .next s) ∧
       (f.intSent ≠ level → exec (.intxSend fn) s = .next (modOut (fun o => { o with hi := o.hi ++ [(hptOf fn, localOf fn, level)] })
         (modFn fn (fun f => { f with intSent := level }) s)))))

/-- R292, R305, R309, R310, R312: LCTL and bring-up. Enabling a link that was not enabled puts it in RESET, PRST_N low,
with its count of failed attempts 0; one that is enabled is left alone. Disabling closes it: DOWN, with its buffered
writes dropped and counted and its reads failed. RETRAIN takes a link that is UP or in bring-up to RESET and leaves
one that is DOWN or FAILED; an in-sideband byte with bad parity is counted and retrains a link that is UP, and fails
the attempt of one that negotiates. 1 µs of RESET leads to NEGOTIATE: PRST_N rises, and VERSION goes out with the
offer of this attempt. Retraining begins RESET, counts in LRETRAIN, raises LINK, puts a write partly sent back in
front of the buffer and fails every read that has a TID with TARGET_ERROR. That RETRAIN in bring-up is no failed
attempt (log entry 40), and that bad sideband parity fails one in NEGOTIATE (log entry 92), are the model's reading.
-/
def Obligations.LinkControl : Prop :=
  ∀ (s : State) (r : Requester) (p : Nat), live s = true → p < nPorts s → tested s (islPort p) = false →
    let k := getPort s p
    let a := access r s
    (isFirmware r = true → k.en = true → exec (.linkEnable r p) s = .next a) ∧
    (isFirmware r = true → k.en = false → ∃ t, exec (.linkEnable r p) s = .next t ∧ (getPort t p).lstate = .reset ∧
      (getPort t p).en = true ∧ (getPort t p).fails = 0 ∧ (getPort t p).ver = 0 ∧ (getPort t p).prst = false ∧
      (getPort t p).stepAt = s.time ∧ (∀ q, q ≠ p → getPort t q = getPort s q) ∧ t.dsp = s.dsp ∧ durable t = durable s) ∧
    (isFirmware r = true → k.en = false → exec (.linkDisable r p) s = .next a) ∧
    (isFirmware r = true → k.en = true → exec (.linkDisable r p) s =
      .next (portClose p .down (modPort p (fun k => { k with en := false, prst := false }) a))) ∧
    (isFirmware r = true → k.en = true → k.reads = [] → k.rwait = [] → ∃ t, exec (.linkDisable r p) s = .next t ∧
      (getPort t p).lstate = .down ∧ (getPort t p).en = false ∧ (getPort t p).wbuf = [] ∧ (getPort t p).sending = none ∧
      (getPort t p).ldrop = k.ldrop + BitVec.ofNat 32 (k.wbuf.length + (if k.sending.isSome then 1 else 0)) ∧
      durable t = durable s) ∧
    (isFirmware r = true → k.lstate ∈ [.up, .reset, .negotiate, .retrain] →
      exec (.linkRetrain p (.written r)) s = .next (retrain p a)) ∧
    (isFirmware r = true → k.lstate = .down ∨ k.lstate = .failed → exec (.linkRetrain p (.written r)) s = .next a) ∧
    (∀ b isp, isp ≠ oddParity b →
      (k.lstate = .up → exec (.linkRetrain p (.sideband b isp)) s = .next (retrain p (addPerr p (portEvent p s)))) ∧
      (k.lstate = .negotiate → exec (.linkRetrain p (.sideband b isp)) s = .next (attemptFails p (addPerr p (portEvent p s))))) ∧
    (∀ u : State, ∃ v, retrain p u = barrierStep (forAll (getPort u p).reads (failRead 0x21) v) ∧
      getPort v p = { getPort u p with
        lstate := .reset, ver := 0, pwr := 0, stepAt := u.time, prst := false, reqAt := none, sideAt := none, xferCls := none, reads := []
        sending := none, wbuf := (getPort u p).sending.toList ++ (getPort u p).wbuf, lretrain := inc32 (getPort u p).lretrain } ∧
      v.ctl.evpends = u.ctl.evpends ||| (1 : BitVec 17) <<< 3 ∧ v.eng = u.eng ∧ v.dsp = u.dsp ∧ durable v = durable u ∧
      ∀ x w, failRead 0x21 x w = afterRead x.purpose (readEnds x.purpose 0 0x21 [] w)) ∧
    (s.pf.cut = false → k.lstate = .reset → 1000 ≤ (s.time - k.stepAt).toNat →
      let v : BitVec 2 := if k.vermax = 0 then 1 else k.vermax
      exec (.linkResetDone p) s = .next (sendLane p (versionTokens v) (modPort p (fun k => { k with
        lstate := .negotiate, stepAt := s.time, prst := true, offer := v }) s)))

/-- R295, R304, R305, R307 to R310: the version exchange and its failures. A VERSION transfer of 1 or more brings the
link UP at the lower of the port's offer and the block's own, at most 3, ACTIVE and without a class, and at v3 sends
TGEN for every configured instance; an offer of 0, a transfer with bad parity in its control bytes, another transfer,
or no offer within 10 µs counts as an error of its kind, and the attempt has failed: the third in a row closes the
link in FAILED with the LINK event. A request event of the out-lane or of the out-sideband without an acknowledge in
10 µs (not counting wake time), and a port's own error report, retrain a link that is UP and fail an attempt. That
errors other than those R305 names fail an attempt (log entry 92) and how long a request event waits for its
acknowledge (log entry 42) are the model's readings. -/
def Obligations.LinkVersions : Prop :=
  ∀ (s : State) (p : Nat), live s = true → tested s (islPort p) = false →
    let k := getPort s p
    let late := (∃ t0, k.reqAt = some t0 ∧ t0.toNat + 10000 ≤ s.time.toNat) ∨ (∃ t0, k.sideAt = some t0 ∧ t0.toNat + 10000 ≤ s.time.toNat)
    (k.lstate = .negotiate → ∀ first rest,
      (∀ offer, readLane (first :: rest) = .version offer → offer ≠ 0 → ∃ t, exec (.portVersion p first rest) s = .next t ∧
        (getPort t p).lstate = .up ∧ (getPort t p).ver.toNat = min k.offer.toNat (min offer.toNat 3) ∧
        (getPort t p).fails = 0 ∧ (getPort t p).clsSeen = false ∧ (getPort t p).pwr = 0 ∧
        t.out.os = s.out.os ++ (if (getPort t p).ver = 3 ∧ s.pf.cut = false then
          ((List.range 16).filter (fun i => (getInst s i).en)).flatMap (fun i =>
            let b : Byte := 0x80 ||| BitVec.ofNat 8 i
            let g := bits (getInst s i).gen 0 8
            [(p, b, oddParity b), (p, g, oddParity g)]) else []) ∧ durable t = durable s) ∧
      (readLane (first :: rest) = .version 0 → exec (.portVersion p first rest) s = .next (attemptFails p (addProto p s))) ∧
      (readLane (first :: rest) = .parity → exec (.portVersion p first rest) s = .next (attemptFails p (addPerr p s))) ∧
      (readLane (first :: rest) ≠ .parity → (∀ offer, readLane (first :: rest) ≠ .version offer) →
        exec (.portVersion p first rest) s = .next (attemptFails p (addProto p s)))) ∧
    (k.lstate = .negotiate → 10000 ≤ (s.time - k.stepAt).toNat →
      exec (.versionTimeout p) s = .next (attemptFails p (addProto p s))) ∧
    (k.lstate = .up → late → exec (.handshakeTimeout p) s = .next (retrain p (addProto p s))) ∧
    (k.lstate = .negotiate → late → exec (.handshakeTimeout p) s = .next (attemptFails p (addProto p s))) ∧
    (k.lstate = .up → exec (.lerr p) s =
      .next (retrain p (modPort p (fun k => { k with sending := none }) (addPerr p (portEvent p s))))) ∧
    (k.lstate = .negotiate → exec (.lerr p) s =
      .next (attemptFails p (modPort p (fun k => { k with sending := none }) (addPerr p (portEvent p s))))) ∧
    (3 ≤ k.fails + 1 → attemptFails p s =
      evLink (portClose p .failed (modPort p (fun k => { k with fails := k.fails + 1 }) s))) ∧
    (k.fails + 1 < 3 → attemptFails p s = retrain p (modPort p (fun k => { k with fails := k.fails + 1 }) s))

/-- R295, R296, R297, R308, R311, R320 to R322: transfers from a port whose in-lane is open. Its header says what a
transfer is: one with bad parity in its control bytes, and one that no header describes, are errors of their kinds
and retrain the link. An answer with a TID no read holds is counted late; one of the read's length, or with ERR or
bad data parity, ends its read; another length is a protocol error (the model's reading, log entry 43). A message
crosses to TSV, or stands behind a frozen arbiter (R235); TSV puts its records before a malformed one into the queue,
and where they do not fit, or another waits, the message waits. The class that was kept for a transfer in whose
course CLASS came is used up with it. -/
def Obligations.PortTransfers : Prop :=
  ∀ (s : State) (p : Nat) (first : Token) (rest : List Token), inlaneOpen s p = true →
    let ts := first :: rest
    let s1 := portEvent p s
    let done (u : State) := modPort p (fun k => { k with xferCls := none }) u
    exec (.portRdata p ts) s = exec (.tsvmsg p first rest) s ∧
    (readLane ts = .parity → exec (.tsvmsg p first rest) s = .next (done (linkError p (addPerr p s1)))) ∧
    ((readLane ts = .protocol ∨ ∃ v, readLane ts = .version v) →
      exec (.tsvmsg p first rest) s = .next (done (linkError p (addProto p s1)))) ∧
    (∀ x, readLane ts = .rdata x →
      let s2 := if x.badData then addPerr p s1 else s1
      let found := (getPort s p).reads.find? (fun r => r.tid == x.tid.toNat)
      (found = none → exec (.portRdata p ts) s = .next (done (modPort p (fun k => { k with llate := inc32 k.llate }) s2))) ∧
      (∀ r, found = some r → x.badData = false → x.err = false → x.data.length ≠ r.len →
        exec (.portRdata p ts) s = .next (done (linkError p (addProto p s2)))) ∧
      (∀ r, found = some r → x.badData = true ∨ x.err = true ∨ x.data.length = r.len →
        exec (.portRdata p ts) s = .next (done (rdataFor p r x s2)))) ∧
    (∀ d, readLane ts = .msg d →
      let c := clusterArrive p (deadlineNow s1 (xferClass s1 p)) s1
      let w := wakeIsl islTsv c
      let x := parseRecords w p 64 d
      let waits := (∃ k ∈ w.port, k.2.msgWait ≠ []) ∨ 4096 < w.tsv.queue.length + x.1.length ∨ tested w islTsv = true
      (upStands c p = true →
        exec (.tsvmsg p first rest) s = .next (done { c with xback := c.xback ++ [.msg p d] })) ∧
      (upStands c p = false → waits →
        exec (.tsvmsg p first rest) s = .next (done (modPort p (fun k => { k with msgWait := k.msgWait ++ [d] }) w))) ∧
      (upStands c p = false → ¬ waits → exec (.tsvmsg p first rest) s =
        .next (done (modTsv (fun t => { t with
          queue := t.queue ++ x.1, tmalform := if x.2 then inc32 t.tmalform else t.tmalform }) w))))

/-- R300 to R303, R308: sideband bytes of a port whose link is UP. FILLI and FILLO set their level; CLASS sets the class
at v2 and v3 and is a protocol error at v1 or with upper bits; one in the course of a transfer leaves that transfer
its class; a break marker between transfers at v3 marks the last complete transfer and is a protocol error elsewhere;
a reserved byte is a protocol error and nothing else. Each ends a power state. R306, R307: link power states. A link
that is UP and has been quiet for its idle, doze or deep time goes to that state where its policy allows it and it is
deeper than its present one, DOZE and DEEP with their announcement, with its parity, on the sideband; any token or
sideband byte makes it ACTIVE, and the wake time is not counted against its handshakes. -/
def Obligations.PortSidebands : Prop :=
  (∀ (s : State) (p : Nat), sideOpen s p = true →
     let k := getPort s p
     let s1 := portEvent p s
     let bad := modPort p (fun k => { k with lproto := inc32 k.lproto }) s1
     (∀ v, ∃ t, exec (.filli p v) s = .next t ∧ (getPort t p).filli = v ∧ (getPort t p).fillo = k.fillo ∧
       (getPort t p).pwr = 0 ∧ durable t = durable s) ∧
     (∀ v, ∃ t, exec (.fillo p v) s = .next t ∧ (getPort t p).fillo = v ∧ (getPort t p).filli = k.filli ∧
       (getPort t p).pwr = 0 ∧ durable t = durable s) ∧
     (∀ x : ClassByte, k.ver ≠ 1 → fld x.payload 4 2 = 0 → exec (.classByte p x) s =
       .next (modPort p (fun k => { k with cls := bits x.payload 0 4, clsSeen := true
                                           xferCls := if x.inTransfer then some (xferClass s p) else none }) s1)) ∧
     (∀ x : ClassByte, k.ver = 1 ∨ fld x.payload 4 2 ≠ 0 → exec (.classByte p x) s = .next bad) ∧
     (k.ver = 3 → exec (.brkMarker p false) s = .next (modPort p (fun k => { k with inq := markLast k.inq }) s1)) ∧
     (∀ b, k.ver ≠ 3 ∨ b = true → exec (.brkMarker p b) s = .next bad) ∧
     (∀ b, byteIgnored k.ver b = true → exec (.ignoredSidebandByte p b) s = .next bad)) ∧
  (∀ (s : State) (p : Nat), live s = true → s.pf.cut = false → tested s (islPort p) = false →
     let k := getPort s p
     let quiet := (s.time - k.lastAct).toNat
     let ns1 := (tget (8 : Byte) s.active.link.idlet (p / 16)).toNat * 8
     let ns2 := (tget (16 : BitVec 16) s.active.link.dozet (p / 16)).toNat * 1000
     let ns3 := (tget (4000 : BitVec 24) s.active.link.deept (p / 16)).toNat * 1000
     (k.lstate = .up → k.sending = none → k.pwr < 1 → 1 ≤ pwrmaxOf s p → ns1 ≠ 0 → ns1 ≤ quiet →
       exec (.linkIdleTimer p) s = .next (modPort p (fun k => { k with pwr := 1 }) s)) ∧
     (k.lstate = .up → k.sending = none → k.pwr < 2 → 2 ≤ pwrmaxOf s p → ns2 ≠ 0 → ns2 ≤ quiet →
       ∃ t, exec (.linkDozeTimer p) s = .next t ∧ getPort t p = { k with pwr := 2, sideAt := some (reqFrom s.time (getPort (stir p s) p)) } ∧
         t.out.os = s.out.os ++ [(p, 0xC0, true)] ∧ (∀ q, q ≠ p → getPort t q = getPort s q) ∧ durable t = durable s) ∧
     (k.lstate = .up → k.sending = none → k.pwr < 3 → 3 ≤ pwrmaxOf s p → ns3 ≠ 0 → ns3 ≤ quiet →
       ∃ t, exec (.linkDeepTimer p) s = .next t ∧ getPort t p = { k with pwr := 3, sideAt := some (reqFrom s.time (getPort (stir p s) p)) } ∧
         t.out.os = s.out.os ++ [(p, 0xC1, false)] ∧ (∀ q, q ≠ p → getPort t q = getPort s q) ∧ durable t = durable s) ∧
     (k.pwr ≠ 0 → let w := wakeIsl (islPort p) s
       exec (.linkWake p) s = .next (modPort p (fun k => { k with
         pwr := 0, lastAct := s.time, awakeAt := (getIsl w (islPort p)).awakeAt + w64 (wakeNs k.pwr) }) w)) ∧
     (k.pwr = 0 → exec (.linkWake p) s = .next s))

/-- R321, R323, R324, R326, R333: TSV takes the oldest record of its queue, LEARN or TOUCH by its kind. One its port's
LRNMASK bars is rejected, one for an instance that does not run is dropped, each counted; a touch that repeats one of
the present tick is coalesced; a record of a bucket with work in progress waits; the others are applied once their
bucket is read, and a read that a gate denies or that fails is a fault of the instance. R319, R324, R325: where an
entry that a bucket and the stash do not hold is placed. The lowest free way takes it; in a full bucket the victim
that POLICY chooses is copied to the lowest free slot of the stash, and its way waits for the response to that write;
with a full stash the entry replaces the victim in place, EVICTS counts one and an event is written. OLDEST takes the
way with the largest age, the lowest of several; RANDOM the low two bits of the LFSR, which goes on. R314, R324,
R326: what a LEARN and a TOUCH do to the active epoch outside a rebuild. An absent identifier is placed, and the
learn counts, once the entry stands; a found one on the record's port, or outside the flap window, is rewritten in
place with the record's values, AGECNT and the time, and counts; inside the window a learn from another port changes
nothing, and FLAPS and an event tell of it. A touch gives a found entry the present age and no other change, counts,
and is remembered in its filter entry. -/
def Obligations.TableRecords : Prop :=
  (∀ (s : State) (r : Record) (rest : List Record) (rd : MResp), tsvMay s = true → s.tsv.queue = r :: rest →
     let cmd : Instr := if r.touch then .touch rd else .learn rd
     let u := takeRecord s
     let a := wayAddr (activeEp (getInst u r.inst)) (4 * bucketOf (activeEp (getInst u r.inst)) r.id)
     let g := 68 + lmPortOf u a
     let v := gateCheck u g tsvWho .rd a 128 false
     (bucketBusy s r.inst r.id = true → exec cmd s = .next s) ∧
     (bucketBusy s r.inst r.id = false →
       (bit (getPort u r.port).lrnmask r.inst = false →
         exec cmd s = .next (modTsv (fun t => { t with treject := inc32 t.treject }) u)) ∧
       (bit (getPort u r.port).lrnmask r.inst = true → instRuns (getInst u r.inst) = false →
         exec cmd s = .next (modTsv (fun t => { t with tdrop := inc32 t.tdrop }) u)) ∧
       (bit (getPort u r.port).lrnmask r.inst = true → instRuns (getInst u r.inst) = true →
         (r.touch = true → touchRepeats u r = true →
           exec cmd s = .next (modTsv (fun t => { t with tcoalesce := inc32 t.tcoalesce }) u)) ∧
         (r.touch = false ∨ touchRepeats u r = false →
           (v.ok = true → rd = .ok →
             exec cmd s = .next (if r.touch then applyTouch r (xTsvRead a 128 u) else applyLearn r (xTsvRead a 128 u))) ∧
           (v.ok = true → rd ≠ .ok → exec cmd s = .next (tsvFault r.inst a (xTsvRead a 0 u))) ∧
           (v.ok = false → exec cmd s = .next (tsvFault r.inst a (denyPrecise g tsvWho .rd a 128 v u)))) ∧
         (v.ok = true → r.touch = false → exec (.learn .ok) s = .next (applyLearn r (xTsvRead a 128 u))) ∧
         (v.ok = true → r.touch = true → touchRepeats u r = false → exec (.touch .ok) s = .next (applyTouch r (xTsvRead a 128 u)))))) ∧
  (∀ (s : State) (i : Nat) (e : Bool) (y : Entry) (r : Reloc),
     let x := getInst s i
     let ep := epochOf x e
     let b := 4 * bucketOf ep (entId y)
     let t := (placeNew i e y r s).2
     let tx := getInst t i
     let tep := epochOf tx e
     let allowed (a : Word) := (gateCheck s (68 + lmPortOf s a) tsvWho .wr a 32 false).ok = true
     (∀ w, w < 4 → entValid (wayAt ep (b + w)) = false → (∀ v < w, entValid (wayAt ep (b + v)) = true) → allowed (wayAddr ep (b + w)) →
       (placeNew i e y r s).1 = (false, false) ∧ wayAt tep (b + w) = y ∧ (∀ k, k ≠ b + w → wayAt tep k = wayAt ep k) ∧
       tep.stash = ep.stash ∧ tx.relocating = x.relocating ∧ tx.relocs = x.relocs ∧ tx.evicts = x.evicts ∧ durable t = durable s) ∧
     ((∀ w < 4, entValid (wayAt ep (b + w)) = true) → ∃ w < 4,
       (x.policy = false → ∀ v < 4, ageOf x (wayAt ep (b + v)) ≤ ageOf x (wayAt ep (b + w)) ∧
         (v < w → ageOf x (wayAt ep (b + v)) < ageOf x (wayAt ep (b + w)))) ∧
       (x.policy = true → w = s.tsv.lfsr.toNat % 4 ∧ t.tsv.lfsr = Config.lfsrNext s.tsv.lfsr) ∧
       (∀ k < 256, entValid (slotAt ep k) = false → (∀ j < k, entValid (slotAt ep j) = true) → allowed (stashAddr ep k) →
         (placeNew i e y r s).1 = (true, true) ∧ slotAt tep k = wayAt ep (b + w) ∧ (∀ j, j ≠ k → slotAt tep j = slotAt ep j) ∧
         tep.ways = ep.ways ∧ tx.relocating = x.relocating ++ [{ r with epoch := e, key := b + w, entry := y }] ∧
         tx.relocs = x.relocs ∧ ∃ q, t.lm = s.lm ++ [q] ∧ q.addr = stashAddr ep k ∧ q.data = entBytes (wayAt ep (b + w)) ∧
           q.purpose = .stash i (b + w) e) ∧
       ((∀ k < 256, entValid (slotAt ep k) = true) → x.st ≠ .fault → allowed (wayAddr ep (b + w)) →
         (placeNew i e y r s).1 = (true, false) ∧ wayAt tep (b + w) = y ∧ (∀ k, k ≠ b + w → wayAt tep k = wayAt ep k) ∧
         tep.stash = ep.stash ∧ tx.evicts = inc32 x.evicts ∧ t.ctl.evpends.getLsbD 4 = true ∧ durable t = durable s))) ∧
  (∀ (s : State) (r : Record),
     let i := r.inst
     let x := getInst s i
     let ep := activeEp x
     let y := newEntry r.id x.agecnt r.port false r.vlo r.vhi (nowUs s) r.uflags
     let allowed (p : Place) := (gateCheck s (68 + lmPortOf s (placeAddr ep p)) tsvWho .wr (placeAddr ep p) 32 false).ok = true
     let put := fun (t : State) (p : Place) (z : Entry) => entAt (activeEp (getInst t i)) p = z ∧
       (∀ q, q ≠ p → entAt (activeEp (getInst t i)) q = entAt ep q) ∧ (∀ j, j ≠ i → getInst t j = getInst s j) ∧ durable t = durable s
     let placed := placeNew i x.act y { learn := true, mirror := x.mirroring } s
     let l := applyLearn r s
     let t := applyTouch r s
     (findId ep r.id = none →
       (placed.1.2 = true → l = placed.2) ∧ (placed.1.2 = false → l = learned i y placed.2)) ∧
     (∀ u, inFault u i = false → (getInst u i).mirroring = false →
       learned i y u = modInst i (fun x => { x with learns := inc32 x.learns }) u) ∧
     (∀ p old, findId ep r.id = some (p, old) →
       let other := entCh old = true ∨ entPort old ≠ r.port
       let recent := (nowUs s - entLtime old).toNat < (tget (1000 : BitVec 16) s.active.tsv.flapwin i).toNat
       (other → recent → (getInst l i).flaps = inc32 x.flaps ∧ (getInst l i).learns = x.learns ∧ (getInst l i).ep0 = x.ep0 ∧
         (getInst l i).ep1 = x.ep1 ∧ l.ctl.evpends.getLsbD 4 = true ∧ durable l = durable s) ∧
       (¬ (other ∧ recent) → x.mirroring = false → x.st ≠ .fault → allowed p →
         put l p y ∧ (getInst l i).learns = inc32 x.learns ∧ (getInst l i).flaps = x.flaps)) ∧
     (entValid y = true ∧ entId y = r.id ∧ entAge y = x.agecnt ∧ entPort y = r.port % 1024 ∧ entCh y = false ∧ y.w1 = r.vlo ∧
       bits y.w2 0 32 = r.vhi ∧ entLtime y = nowUs s ∧ bits y.w3 0 8 = r.uflags) ∧
     (findId ep r.id = none → t = s) ∧
     (∀ p old, findId ep r.id = some (p, old) → x.mirroring = false → x.st ≠ .fault → allowed p →
       put t p (touched x.agecnt old) ∧ (getInst t i).touches = inc32 x.touches ∧
       tget {} t.tsv.filter ((r.id.toNat % 4096) ^^^ i) = { inst := i, id := r.id, cnt := x.agecnt, valid := true }) ∧
     (∀ z : Entry, entAge (touched x.agecnt z) = x.agecnt ∧ entValid (touched x.agecnt z) = entValid z ∧
       entId (touched x.agecnt z) = entId z ∧ entPort (touched x.agecnt z) = entPort z ∧ entCh (touched x.agecnt z) = entCh z ∧
       (touched x.agecnt z).w1 = z.w1 ∧ (touched x.agecnt z).w2 = z.w2 ∧ (touched x.agecnt z).w3 = z.w3))

/-- R235, R319, R324, R333, R334: the response to a relocation's stash write crosses to TSV, or stands behind a frozen
crossbar. The way it came from is then overwritten by the entry that displaced it, the relocation counts, and the
learn it served; a mirrored one is written in the other epoch too, and the operation that waited is answered Z = 1, C
= 1; a failed stash write, or a way that the gate does not let be written, is a fault of the instance. That LEARNS
and RELOCS count at that write, in the shadow epoch too, is the model's reading (log entry 44). R328, R329: aging. A
tick of an enabled instance whose period has passed counts AGECNT and sets the next tick a period on; a visit of the
sweep reads its bucket or stash slots, clears the valid entries older than AGELIM and goes on to the next place,
behind the last to the first, or is a fault of the instance where the gate denies the read or it is answered with an
error; a clearing write that the gate allows frees its place and counts in AGED; a visit of a place with work in
progress waits, and AGELIM 0 sweeps nothing. That a visit is one unit is the model's choice (log entry 23). -/
def Obligations.TableUpkeep : Prop :=
  (∀ (s : State) (i : Nat) (resp : MResp) (q : LmReq) (key : Nat) (e : Bool), s.inReset = false → tested s islTsv = false →
     tested s (islLmp q.port) = false →
     (stashOf s i = some q → stashKey i q.purpose = some (key, e) →
       let u := xLm q.port q.dl 0 s
       let v := lmRetire q.port q.tag u
       (xstands u (76 + q.port) 0 = true → exec (.relocationStashWriteDone i resp) s =
         .next { u with xback := u.xback ++ [.stash q.port i resp] }) ∧
       (xstands u (76 + q.port) 0 = false →
         (resp = .ok → exec (.relocationStashWriteDone i resp) s = .next (barrierStep (relocate i key e v))) ∧
         (resp ≠ .ok → exec (.relocationStashWriteDone i resp) s = .next (barrierStep (stashFails i key e q.addr v))))) ∧
     (∀ r rest, relocOf (getInst s i) key e = some (r, rest) →
       let x := getInst s i
       let a := wayAddr (epochOf x e) key
       let v := gateCheck s (68 + lmPortOf s a) tsvWho .wr a 32 false
       let t := relocate i key e s
       (v.ok = true → r.mirror = false → wayAt (epochOf (getInst t i) e) key = r.entry ∧
         (∀ k, k ≠ key → wayAt (epochOf (getInst t i) e) k = wayAt (epochOf x e) k) ∧
         epochOf (getInst t i) (!e) = epochOf x !e ∧ (getInst t i).relocating = rest ∧ (getInst t i).relocs = inc32 x.relocs ∧
         (getInst t i).learns = (if r.learn then inc32 x.learns else x.learns) ∧
         (∀ g, r.engine = some g → x.st ≠ .fault → (getEng s g).main.phase = .table →
           (getEng t g).main.answer = some { z := true, c := some true }) ∧ durable t = durable s) ∧
       (v.ok = true → r.mirror = true → r.engine = none → ∃ w, t = mirrorInto i (!e) r.entry w ∧
         wayAt (epochOf (getInst w i) e) key = r.entry ∧ (getInst w i).relocs = inc32 x.relocs) ∧
       (v.ok = false → x.st ≠ .off → (getInst t i).st = .fault) ∧
       (x.st ≠ .off → (getInst (stashFails i key e a s) i).st = .fault))) ∧
  (∀ (s : State) (i : Nat),
     let x := getInst s i
     (live s = true → tested s islTsv = false → x.en = true → tickNs s i ≤ (s.time - x.tickAt).toNat →
       ∃ t, exec (.ageTick i) s = .next t ∧ (getInst t i).agecnt = x.agecnt + 1 ∧
         (getInst t i).tickAt = x.tickAt + w64 (tickNs s i) ∧ (∀ j, j ≠ i → getInst t j = getInst s j) ∧ durable t = durable s) ∧
     (live s = true → (s.time - x.tickAt).toNat < tickNs s i → exec (.ageTick i) s = .next s) ∧
     (tsvMay s = true → instRuns x = true →
       (∀ rd, agelimOf s i = 0 → exec (.ageSweepVisit i rd) s = .next s) ∧
       (∀ rd, agelimOf s i ≠ 0 → sweepBusy s i (sweepPlaces (activeEp x) (sweepAt x)) = true →
         exec (.ageSweepVisit i rd) s = .next s) ∧
       (∀ p rest, agelimOf s i ≠ 0 → sweepPlaces (activeEp x) (sweepAt x) = p :: rest →
         sweepBusy s i (sweepPlaces (activeEp x) (sweepAt x)) = false →
         let a := placeAddr (activeEp x) p
         let n := 32 * (rest.length + 1)
         let v := gateCheck s (68 + lmPortOf s a) tsvWho .rd a n false
         (v.ok = true → exec (.ageSweepVisit i .ok) s = .next (modInst i (fun y => { y with sweep := sweepAt x + 1 })
           (forAll (p :: rest) (fun p u => ageOut i p (entAt (activeEp x) p) u) (xTsvRead a n s)))) ∧
         (∀ rd, v.ok = true → rd ≠ .ok → exec (.ageSweepVisit i rd) s = .next (tsvFault i a (xTsvRead a 0 s))) ∧
         (∀ rd, v.ok = false → exec (.ageSweepVisit i rd) s =
           .next (tsvFault i a (denyPrecise (68 + lmPortOf s a) tsvWho .rd a n v s)))) ∧
       (∀ p y, (entValid y = false ∨ ageOf x y ≤ agelimOf s i → ageOut i p y s = s) ∧
         (entValid y = true → agelimOf s i < ageOf x y → let a := placeAddr (activeEp x) p
           (gateCheck s (68 + lmPortOf s a) tsvWho .wr a 32 false).ok = true →
           entAt (epochOf (getInst (ageOut i p y s) i) x.act) p = {} ∧ (getInst (ageOut i p y s) i).aged = inc32 x.aged ∧
           durable (ageOut i p y s) = durable s))))

/-- R323, R331 to R334: an instance's life. Enabling one that is disabled begins INIT with AGECNT 0, generation 1 and
epoch 0 active; once the work begun before has ended, epoch 0 is zeroed, the header is written and it runs; disabling
ends it and a rebuild with it; in a rebuild, once the shadow epoch is free it is zeroed and mirrors; the copy pass
goes on as far as no bucket has work in progress, presenting its reads, and its end sets COPYDONE and arms the swap a
TEPO ARM waits for. What a fault of the instance does is stated. TEVRD moves only within the log. That the writes of
zeroes are not issued one by one is the model's choice (log entry 23). -/
def Obligations.TableLifecycle : Prop :=
  ∀ (s : State) (r : Requester) (i : Nat),
    let x := getInst s i
    (live s = true → isFirmware r = true → i < 16 → x.en = false →
      ∃ t, exec (.tableEnable r i) s = .next t ∧ (getInst t i).en = true ∧ (getInst t i).agecnt = 0 ∧ (getInst t i).gen = 1 ∧
        (getInst t i).act = false ∧ (getInst t i).st = .init ∧ (getInst t i).relocating = x.relocating) ∧
    (live s = true → isFirmware r = true → i < 16 → x.en = true → exec (.tableEnable r i) s = .next (access r s)) ∧
    (live s = true → isFirmware r = true → i < 16 → x.en = true →
      ∃ t, exec (.tableDisable r i) s = .next t ∧ (getInst t i).en = false ∧ (getInst t i).st = .off ∧
        (getInst t i).armed = false ∧ (getInst t i).mirroring = false ∧ (getInst t i).ep0 = x.ep0 ∧ (getInst t i).ep1 = x.ep1) ∧
    (∀ resp, tsvMay s = true → x.st = .init →
      let z := zeroEpoch i false s
      (workLeft s i = true → exec (.tableInitDone { inst := i, resp := resp }) s = .next s) ∧
      (workLeft s i = false → (getInst z i).st = .init →
        (resp ≠ .ok → exec (.tableInitDone { inst := i, resp := resp }) s = .next (tsvFault i (wayAddr (getInst z i).ep0 0) z)) ∧
        (resp = .ok → (getInst (writeHeader i z) i).st = .init →
          exec (.tableInitDone { inst := i, resp := resp }) s = .next (modInst i (fun x => { x with st := .run }) (writeHeader i z))) ∧
        (resp = .ok → (getInst (writeHeader i z) i).st ≠ .init →
          exec (.tableInitDone { inst := i, resp := resp }) s = .next (writeHeader i z)))) ∧
    (∀ resp, tsvMay s = true → x.st = .rebuild → x.mirroring = false → x.copydone = false → holdOver s x = true →
      (getInst (zeroEpoch i (!x.act) s) i).st = .rebuild →
      (resp = .ok → exec (.rebuildZero { inst := i, resp := resp }) s =
        .next (modInst i (fun x => { x with mirroring := true, copyAt := 0 }) (zeroEpoch i (!x.act) s))) ∧
      (resp ≠ .ok → exec (.rebuildZero { inst := i, resp := resp }) s =
        .next (tsvFault i (wayAddr (epochOf x !x.act) 0) (zeroEpoch i (!x.act) s)))) ∧
    (∀ resp, tsvMay s = true → x.st = .rebuild → x.mirroring = true → x.copydone = false →
      let pass := copyPass i (epochEntries (activeEp x)) s
      let next := if pass.1 = true then copyLast x else (getInst pass.2 i).copyAt
      let u := copyReads x x.copyAt next (modInst i (fun x => { x with copyAt := next }) pass.2)
      let ends := pass.1 = true ∧ (getInst u i).st = .rebuild ∧ (getInst u i).relocating = []
      (∀ a n, copyDenied s x = some (a, n) → exec (.copydone { inst := i, resp := resp }) s = .next (regionFault i .rd n a s)) ∧
      (copyDenied s x = none → resp ≠ .ok → exec (.copydone { inst := i, resp := resp }) s =
        .next (tsvFault i (wayAddr (activeEp x) (x.copyAt / 4 * 4)) s)) ∧
      (copyDenied s x = none → resp = .ok → ¬ ends → exec (.copydone { inst := i, resp := resp }) s = .next u) ∧
      (copyDenied s x = none → resp = .ok → ends → exec (.copydone { inst := i, resp := resp }) s = .next (copyEnds i u))) ∧
    (∀ u : State, (getInst (copyEnds i u) i).copydone = true ∧
      (armWaiters (tsvEvent { type := 4, inst := i } (modInst i (fun x => { x with copydone := true }) u)) i ≠ [] →
        (getInst (copyEnds i u) i).armed = true)) ∧
    (∀ a : Word,
      (x.st = .fault ∨ x.st = .off → tsvFault i a s = s) ∧
      (x.st ≠ .fault → x.st ≠ .off → let y := getInst (tsvFault i a s) i
        y.st = .fault ∧ y.armed = false ∧ y.mirroring = false ∧ y.relocating = [] ∧ y.ep0 = x.ep0 ∧ y.ep1 = x.ep1)) ∧
    (∀ e, let u := zeroEpoch i e s
      (regionDenied s .wr (arrayBase (epochOf x e)) (128 * 2 ^ (epochOf x e).log2b.toNat) 256 = none →
        regionDenied s .wr (stashAddr (epochOf x e) 0).toNat 8192 256 = none →
        (epochOf (getInst u i) e).ways = [] ∧ (epochOf (getInst u i) e).stash = [] ∧
        epochOf (getInst u i) (!e) = epochOf x (!e) ∧ (getInst u i).st = x.st)) ∧
    (live s = true → isFirmware r = true → ∀ v, let u := access r s
      ((v - u.tsv.tevrd).toNat ≤ (u.tsv.tevwr - u.tsv.tevrd).toNat →
        exec (.tevrdWrite r v) s = .next (modTsv (fun t => { t with tevrd := v }) u)) ∧
      ((u.tsv.tevwr - u.tsv.tevrd).toNat < (v - u.tsv.tevrd).toNat → exec (.tevrdWrite r v) s = .next u))

/-- R347: the start-up steps that wait for a command of their own. GO is taken from the management processor in PHASE 1,
or in PHASE 9 behind a refused image; the Bedrock image that fails R345 halts start-up with its ERR; one that
verifies is copied, and then the self-test runs, its first test being LOGIC of island 1 (log entry 29), or Bedrock
starts, reads the BPB, and arms the first barrier over every gate, or halts with 0x09. R344, R345: the verifier's
checks in their order, on the header fields R344 lays out: the read, the form (MAGIC, FMT and the reserved bytes),
TYPE, ISAREV and the configuration bit, the lengths, the key that KEYIDX names, the signature by that key over
SHA-384 of the header bytes 0x00 to 0x7F and the body (log entry 80), and SVN against MINSVN. R410, R413: the
start-up self-test goes through LOGIC of every island present but island 0 and MEMORY of every group present, in an
order the spec leaves open (log entry 29). A test that ends FAIL halts start-up in PHASE 9 with ERR 0x0C; behind
another comes the next, and behind the last what was tested is reset and Bedrock starts. That an image that cannot be
read fails before the other checks is the model's order (log entry 52). -/
def Obligations.StartUp : Prop :=
  (∀ (s : State) (im : Image) (b : Bpb), live s = true → s.pf.stage = .normal →
     (∀ st, s.ctl.phase = 1 ∨ (s.ctl.phase = 9 ∧ 1 ≤ s.ctl.err.toNat ∧ s.ctl.err.toNat ≤ 8) →
       exec (.bootGo .mp st) s = .next (modCtl (fun c => { c with selftest := st, phase := 2 }) (access .mp s))) ∧
     (∀ r st, isMp r = false → exec (.bootGo r st) s = .next (access r s)) ∧
     (s.ctl.phase = 2 →
       (∀ e, verifyErr s 1 im = some e →
         ∃ t, exec (.imageVerifyDone im b) s = .next t ∧ t.ctl = { s.ctl with phase := 9, err := e } ∧ t.cmem = s.cmem ∧
           t.dsp = s.dsp ∧ t.core = s.core ∧ t.gate = s.gate) ∧
       (verifyErr s 1 im = none →
         ∃ t, exec (.imageVerifyDone im b) s = .next t ∧
           t.kram = memWrite s.kram 0 (im.header.take 256 ++ imBody im) ∧ t.cmem = s.cmem ∧
           (s.ctl.selftest = true → t.ctl.phase = 3 ∧ t.ctl.bedrock = some (imSvn im, imMinsvn im, imEntry im, b) ∧
             t.st.busy = true ∧ t.st.done = false ∧ t.st.lkind = 0 ∧ t.st.ltarget = 1 ∧ t.core = s.core) ∧
           (s.ctl.selftest = false → ∃ u, t = startBedrock u ∧ u.ctl.bedrock = some (imSvn im, imMinsvn im, imEntry im, b) ∧
             u.gate = s.gate ∧ u.dsp = s.dsp ∧ u.cfg = s.cfg))) ∧
     (∀ (u : State) (sv mi en : Half), u.ctl.bedrock = some (sv, mi, en, b) → let t := startBedrock u
       t.ctl.bedsvn = sv ∧ t.ctl.minsvn = mi ∧ t.ctl.bedrock = none ∧ t.ctl.bedrockRan = true ∧ t.kram = u.kram ∧ t.cmem = u.cmem ∧
       (getCore t 8).pc = w64 (0x80010100 + en.toNat) ∧ (getCore t 8).g = [] ∧
       (bpbOk u b = false → t.ctl.phase = 9 ∧ t.ctl.err = 0x09 ∧ t.dsp = u.dsp ∧ t.gate = u.gate) ∧
       (bpbOk u b = true → t.ctl.phase = 4 ∧ t.dsp.ctxbase = b.w0 ∧ t.dsp.log2cnt = bits b.w2 0 5 ∧
         t.dsp.psbase = b.w1 ∧ t.ctl.tsvbase = b.w3 ∧ t.ctl.tsvsize = b.w4 ∧ t.ctl.loading = (b.w5 != 0) ∧
         t.gate.active = u.gate.active ∧
         (u.gate.latched = none → t.gate.armed = true ∧ t.gate.latched = some (BitVec.allOnes 71)))) ∧
     (s.ctl.phase ≠ 2 → (s.ctl.phase = 5 → s.ctl.loading = false) → (∀ m, s.ctl.update ≠ some (.verify m)) →
       exec (.imageVerifyDone im b) s = .next s)) ∧
  (∀ (s : State) (ty : Byte) (im : Image),
     let form := hdrNat im 0 4 = 0x48545256 ∧ hdrNat im 4 2 = 1 ∧ hdrNat im 0x0A 2 = 0 ∧ hdrNat im 0x28 88 = 0 ∧ hdrNat im 0xE0 32 = 0
     let config := (hdrNat im 9 1).testBit (if s.cfg.compact then 1 else 0)
     let limit := if ty = 1 then 0x10000 else 0x400000
     let len := hdrNat im 0x10 4
     let entry := hdrNat im 0x14 4 % 2 ^ 32
     let key := hdrNat im 7 1
     let block := 256 + natOfBytes (memRead s.kram 0x1C 4) + 96 * key
     let keyed := if ty = 1 then key < 2
       else key < 4 ∧ block + 96 ≤ 256 + natOfBytes (memRead s.kram 0x10 4) ∧ (memRead s.kram block 96).any (· != 0) = true
     let pub := if ty = 1 then bigBytes (if key = 0 then s.cfg.rom0 else s.cfg.rom1).toNat 96 else memRead s.kram block 96
     (sigOk s ty im = ecdsaOk pub ((im.header.drop 0x80).take 96) (sha384 (im.header.take 0x80 ++ im.body.take len))) ∧
     (im.readOk = false → verifyErr s ty im = some 0x08) ∧
     (im.readOk = true →
       (¬form → verifyErr s ty im = some 0x01) ∧
       (form →
         (hdrNat im 6 1 ≠ ty.toNat → verifyErr s ty im = some 0x02) ∧
         (hdrNat im 6 1 = ty.toNat →
           ((hdrNat im 8 1 ≠ 0x03 ∨ config = false) → verifyErr s ty im = some 0x03) ∧
           (hdrNat im 8 1 = 0x03 → config = true →
             ((limit < 256 + len ∨ len ≤ entry) → verifyErr s ty im = some 0x04) ∧
             (256 + len ≤ limit → entry < len →
               (¬keyed → verifyErr s ty im = some 0x05) ∧
               (keyed →
                 (sigOk s ty im = false → verifyErr s ty im = some 0x06) ∧
                 (sigOk s ty im = true →
                   verifyErr s ty im = if ty = 2 ∧ hdrNat im 0x0C 4 % 2 ^ 32 < s.ctl.minsvn.toNat then some 0x07 else none)))))))) ∧
  (∀ (s : State) (rep : TestReport),
     (∀ n, ((false, n) ∈ startTests s ↔ n < 82 ∧ n ≠ 0 ∧ islPresent s n = true) ∧
       ((true, n) ∈ startTests s ↔ n < 17 ∧ groupPresent s n = true)) ∧
     (live s = true → s.pf.stage = .normal → s.st.busy = true → islandClear s = true → s.ctl.phase = 3 → s.ctl.testFor = none →
       let r := testResult rep s
       let v := testOver r.2
       let w := evK 7 { v with st := { v.st with done := true, outcome := r.1, failed := v.st.failed || r.1 == 3 } }
       w.ctl.phase = 3 → w.ctl.testFor = none →
       (r.1 = 3 → exec (.selftestDone rep) s =
         .next (modCtl (fun c => { c with tests := [], phase := 9, err := 0x0C }) w)) ∧
       (r.1 ≠ 3 → ∀ mem k l, w.ctl.tests = (mem, k) :: l → ∃ t, exec (.selftestDone rep) s = .next t ∧
         t.ctl.tests = l ∧ t.ctl.phase = 3 ∧ t.st.busy = true ∧ t.st.done = false ∧ t.st.abandoned = false ∧
         t.st.lkind = (if mem = true then 1 else 0) ∧ t.st.ltarget = BitVec.ofNat 7 k ∧ t.dsp = w.dsp ∧ t.eng = w.eng) ∧
       (r.1 ≠ 3 → w.ctl.tests = [] → exec (.selftestDone rep) s = .next (startBedrock (resetAll (startTests w) w)))))

/-- R347 steps 9 and 10, R353, R413: a Scree image that start-up or SCREE_LOAD had read. One that fails R345 sets ERR and
PHASE 6, or is answered VERIFY_FAILED with the ERR; one that verifies lies in its bank, and Scree starts at once with
all eight cores if the zeroing has ended and no test has failed, or waits for that; behind PHASE 6 the UPDATE notice
is asked of Scree. R347 step 8, R403, R353 step 3, R357, R359: the zeroing of start-up has ended: every context, the
bitmap and the Scree data region are zero, the retention record is in its window, and a Scree that waited starts; an
UPDATE notice that Scree left unanswered for 100 ms abandons the update; KC's write of CCCTL starts and halts the
cores whose RUN bits change. That an image which fits is copied into its bank before its checks end is the model's
order. -/
def Obligations.ScreeStarts : Prop :=
  (∀ (s : State) (im : Image) (b : Bpb), live s = true → s.pf.stage = .normal → s.ctl.phase ≠ 2 →
     (s.ctl.phase = 5 → s.ctl.loading = true →
       (∀ e, verifyErr s 2 im = some e → ∃ t, exec (.imageVerifyDone im b) s = .next t ∧
         t.ctl = { s.ctl with loading := false, phase := 6, err := e } ∧ t.core = s.core ∧ t.dsp = s.dsp) ∧
       (verifyErr s 2 im = none → ∃ t, exec (.imageVerifyDone im b) s = .next t ∧
         t.cmem = memWrite s.cmem 0 (imBody im) ∧ t.kram = s.kram ∧ t.dsp = s.dsp ∧
         ((s.ctl.zeroed = false ∨ s.st.failed = true) →
           t.ctl = { s.ctl with loading := false, scree := some (imSvn im, imEntry im) } ∧ t.core = s.core) ∧
         (s.ctl.zeroed = true → s.st.failed = false →
           t.ctl.phase = 7 ∧ t.ctl.scrsvn = imSvn im ∧ t.ctl.run = 0xFF ∧ t.ctl.bank = false ∧ t.ctl.cause = 0 ∧
           t.ctl.entry = BitVec.ofNat 24 ((imEntry im).toNat / 8 * 8)))) ∧
     (∀ m, s.ctl.update = some (.verify m) → (s.ctl.phase = 5 → s.ctl.loading = false) →
       (∀ e, verifyErr s 2 im = some e → exec (.imageVerifyDone im b) s = .next (bedAnswer m 0x15 (e.zeroExtend 32) []
         (modCtl (fun c => { c with update := none }) (loadBank (s.ctl.phase != 6 && !s.ctl.bank) im s)))) ∧
       (verifyErr s 2 im = none → s.ctl.phase = 6 → s.ctl.zeroed = true → s.st.failed = false → m ≤ 8 →
         (getMbx s m).busy = true →
         ∃ t, exec (.imageVerifyDone im b) s = .next t ∧ t.ctl.update = none ∧ t.ctl.phase = 7 ∧ t.ctl.scrsvn = imSvn im ∧
           t.ctl.run = 0xFF ∧ t.ctl.cause = 0 ∧ (getMbx t m).busy = false ∧ (getMbx t m).done = true) ∧
       (verifyErr s 2 im = none → (s.ctl.phase = 7 ∨ s.ctl.phase = 8) → s.ctl.notices = [] → s.ctl.noticed = none →
         (getMbx s 9).busy = false →
         ∃ t, exec (.imageVerifyDone im b) s = .next t ∧ t.ctl.update = some (.notice m (imSvn im) (imEntry im) s.time) ∧
           t.cmem = memWrite s.cmem (bankBase (!s.ctl.bank)) (imBody im) ∧ t.ctl.noticed = some .update ∧
           (getMbx t 9).busy = true ∧ fld (reqWord t 9 0) 0 8 = 0x82 ∧ reqWord t 9 1 = (imSvn im).zeroExtend 64 ∧
           reqWord t 9 2 = imBuild im ∧ t.ctl.run = s.ctl.run ∧ t.core = s.core))) ∧
  (∀ (s : State), live s = true →
     (s.pf.stage = .normal → (s.ctl.phase = 5 ∨ s.ctl.phase = 6) → s.ctl.zeroed = false →
       ∃ t, exec .startupZeroDone s = .next t ∧ t.ctl.zeroed = true ∧ (∀ c, getCtx t c = {}) ∧ t.dsp.bitmap = [] ∧
         (∀ a, memByte t.cmem a = if a < 0x800000 then memByte s.cmem a else 0) ∧ t.kram = s.kram ∧ t.rsram = s.rsram ∧
         t.pf.cairnwin = (loadCairn s).pf.cairnwin ∧ t.pf.cairnvalid = (loadCairn s).pf.cairnvalid ∧
         (s.ctl.scree = none → t.ctl = { s.ctl with zeroed := true }) ∧
         (∀ v e, s.ctl.scree = some (v, e) → s.st.failed = false → t.ctl.phase = 7 ∧ t.ctl.run = 0xFF ∧ t.ctl.scrsvn = v)) ∧
     (∀ m v e a, s.pf.stage = .normal → 5 ≤ s.ctl.phase.toNat → s.ctl.phase.toNat ≤ 8 → s.ctl.update = some (.notice m v e a) →
       ((s.time - a).toNat < 100000000 → exec .updateTimeout s = .next s) ∧
       (100000000 ≤ (s.time - a).toNat →
         exec .updateTimeout s = .next (bedAnswer m 0x17 0 [] (modCtl (fun c => { c with update := none }) s)))) ∧
     (∀ v, ∃ t, exec (.ccctlWrite .kc v) s = .next t ∧ t.ctl.run = bits v 0 8 ∧ t.ctl.bank = bit v 8 ∧ t.ctl.cause = bits v 9 2 ∧
       durable t = durable s ∧
       (∀ n, n < 8 →
         (bit v n = true → bit s.ctl.run n = false → getCore t n = startRegs (s.ctl.entry.zeroExtend 64) s.time (getCore s n) ∧
           bit t.ctl.halted n = false ∧ bit t.ctl.fault n = false) ∧
         (bit v n = false → bit s.ctl.run n = true → getCore t n = { getCore s n with wait := none } ∧ bit t.ctl.halted n = true ∧
           bit t.ctl.fault n = bit s.ctl.fault n) ∧
         (bit v n = bit s.ctl.run n → getCore t n = getCore s n ∧ bit t.ctl.halted n = bit s.ctl.halted n ∧
           bit t.ctl.fault n = bit s.ctl.fault n))) ∧
     (∀ r v, isKc r = false → exec (.ccctlWrite r v) s = .next (access r s)))

/-- R350, R351, R356: a mailbox. The sender's POST sets BUSY, once, and raises the receiver's event; the receiver's
ANSWER to a posted request clears BUSY, sets DONE and raises the sender's event; nobody else's does anything.
Bedrock's answer holds RESULT, the TAG echoed and DETAIL in word 0, and its further words from word 1 on. R353 steps
3 to 5, R354: Scree's answer to an UPDATE notice. A RESULT other than 0 ends the update with DECLINED; 0 halts every
core that runs, and the barrier over gate 70 comes next. Behind any answer to an FLR notice the next notice may be
posted. -/
def Obligations.Mailboxes : Prop :=
  (∀ (s : State) (r : Requester) (m : Nat), s.inReset = false → m < 11 →
     (mbxSender m r = true → (getMbx s m).busy = false →
       ∃ t, exec (.mailboxPost r m) s = .next t ∧ getMbx t m = { getMbx s m with busy := true } ∧
         (∀ k, k ≠ m → getMbx t k = getMbx s k) ∧ durable t = durable s ∧ t.core = s.core ∧
         t.ctl = (if m = 9 then { s.ctl with evpends := s.ctl.evpends ||| 2 }
           else if m = 10 then { s.ctl with evpends := s.ctl.evpends ||| 4 }
           else { s.ctl with evpendk := s.ctl.evpendk ||| 1 })) ∧
     (mbxSender m r = true → (getMbx s m).busy = true → exec (.mailboxPost r m) s = .next (access r s)) ∧
     (mbxSender m r = false → exec (.mailboxPost r m) s = .next (access r s)) ∧
     (mbxReceiver m r = true → (getMbx s m).busy = true → m ≠ 9 →
       ∃ t, exec (.mailboxAnswer r m) s = .next t ∧ getMbx t m = { getMbx s m with busy := false, done := true } ∧
         (∀ k, k ≠ m → getMbx t k = getMbx s k) ∧ durable t = durable s ∧ t.core = s.core ∧
         t.ctl = (if m < 8 then { s.ctl with evpends := s.ctl.evpends ||| 1 } else s.ctl)) ∧
     (mbxReceiver m r = true → (getMbx s m).busy = false → exec (.mailboxAnswer r m) s = .next (access r s)) ∧
     (mbxReceiver m r = false → exec (.mailboxAnswer r m) s = .next (access r s)) ∧
     (∀ result detail ws, result < 256 → (getMbx s m).busy = true →
       let t := bedAnswer m result detail ws s
       (getMbx t m).busy = false ∧ (getMbx t m).done = true ∧ (getMbx t m).req = (getMbx s m).req ∧
       fld (rspWord t m 0) 0 8 = result ∧ fld (rspWord t m 0) 16 16 = fld (reqWord s m 0) 16 16 ∧
       bits (rspWord t m 0) 32 32 = detail ∧ (∀ i, i < ws.length → rspWord t m (i + 1) = ws.getD i 0) ∧
       (∀ k, k ≠ m → getMbx t k = getMbx s k) ∧ durable t = durable s)) ∧
  (∀ (s : State) (n m : Nat) (v e : Half) (a : Word), bedServes s = true → (getMbx s 9).busy = true → s.ctl.notices = [] →
     (s.ctl.noticed = some .update → s.ctl.update = some (.notice m v e a) → m ≤ 8 → (getMbx s m).busy = true →
       (fld (rspWord s 9 0) 0 8 ≠ 0 →
         ∃ t, exec (.mailboxAnswer (.cc n) 9) s = .next t ∧ t.ctl.update = none ∧ t.ctl.noticed = none ∧
           (getMbx t 9).busy = false ∧ (getMbx t 9).done = true ∧ (getMbx t m).busy = false ∧ (getMbx t m).done = true ∧
           fld (rspWord t m 0) 0 8 = 0x16 ∧ t.ctl.run = s.ctl.run ∧ t.core = s.core ∧ t.gate = s.gate) ∧
       (fld (rspWord s 9 0) 0 8 = 0 → s.gate.latched ≠ none →
         ∃ t, exec (.mailboxAnswer (.cc n) 9) s = .next t ∧ t.ctl.update = some (.barrier m v e) ∧ t.ctl.run = 0 ∧
           t.ctl.bank = s.ctl.bank ∧ t.ctl.cause = s.ctl.cause ∧
           (∀ k, k < 8 → bit s.ctl.run k = true → bit t.ctl.halted k = true ∧ (getCore t k).wait = none) ∧ t.gate = s.gate)) ∧
     (∀ fn, s.ctl.noticed = some (.flr fn) →
       ∃ t, exec (.mailboxAnswer (.cc n) 9) s = .next t ∧ t.ctl.noticed = none ∧ t.ctl.update = s.ctl.update ∧
         (getMbx t 9).busy = false ∧ (getMbx t 9).done = true ∧ (∀ k, k ≠ 9 → getMbx t k = getMbx s k)))

/-- R351, R352, R355: which request Bedrock takes, and how it meets it before it looks at its arguments. Mailbox 8 is
served first, then 0 to 7 in turn after the last one served; only a posted request not taken yet may be served, a
LOCK_BREAK not while another waits for its break (log entries 30 and 50). That word 0 is checked before NOT_ALLOWED
is the model's order (log entry 50). An undefined command number is answered UNKNOWN_CMD by whichever of the twelve
commands takes it up: the model's choice. -/
def Obligations.RequestChecks : Prop :=
  ∀ (s : State) (m : Nat) (x : (Nat → Instr) × Nat × Bool × Bool),
    x ∈ [(Instr.gateRule, 0x01, true, true), (Instr.gateCommit, 0x02, true, true), (Instr.lockBreak, 0x03, true, true),
         (Instr.hostSet, 0x04, true, true), (Instr.tsvPlace, 0x05, true, true), (Instr.tsvRing, 0x06, true, true),
         (Instr.selftest, 0x07, true, true), (Instr.vlogNext, 0x08, true, true), (Instr.ready, 0x09, true, false),
         (Instr.screeLoad, 0x0A, true, true), (Instr.screeRestart, 0x0B, false, true), (Instr.cairnSet, 0x0C, true, true)] →
    let w := reqWord s m 0
    let t := served m s
    let turn := nextMbx s = some m ∨ s.ctl.lockFor = some m ∧ (getMbx s m).busy = true
    (mayServe s 8 = true → nextMbx s = some 8) ∧
    (∀ k, mayServe s 8 = false → s.ctl.lastServed < 8 → k < 8 → mayServe s ((s.ctl.lastServed + 1 + k) % 8) = true →
      (∀ j, j < k → mayServe s ((s.ctl.lastServed + 1 + j) % 8) = false) → nextMbx s = some ((s.ctl.lastServed + 1 + k) % 8)) ∧
    (∀ k, nextMbx s = some k → k ≤ 8 ∧ (getMbx s k).busy = true ∧ reqTaken s k = false ∧ s.ctl.lockFor ≠ some k ∧
      (s.ctl.lockFor ≠ none → fld (reqWord s k 0) 0 8 ≠ 3)) ∧
    (m < 8 → t.ctl = { s.ctl with lastServed := m }) ∧ (m = 8 → t = s) ∧
    (bedServes s = false ∨ ¬turn → exec (x.1 m) s = .next s) ∧
    (bedServes s = true → turn →
      (fld w 0 8 = 0 ∨ 12 < fld w 0 8 → exec (x.1 m) s = .next (bedAnswer m 0x10 0 [] t)) ∧
      (1 ≤ fld w 0 8 → fld w 0 8 ≤ 12 → fld w 0 8 ≠ x.2.1 → exec (x.1 m) s = .next s) ∧
      (fld w 0 8 = x.2.1 →
        (fld w 8 8 ≠ 0 ∨ fld w 32 32 ≠ 0 → exec (x.1 m) s = .next (bedAnswer m 0x12 0 [] t)) ∧
        (fld w 8 8 = 0 → fld w 32 32 = 0 → (if m = 8 then x.2.2.2 else x.2.2.1) = false →
          exec (x.1 m) s = .next (bedAnswer m 0x11 0 [] t))))

/-- R352, R355: GATE_RULE, GATE_COMMIT and LOCK_BREAK. A rule request is refused by its gate, its number, its form or an
armed barrier, in that order, and else written; a commit that names gate 70 is PROTECTED, one that finds the barrier
free arms it over its gates or is answered HW_ERROR with GBAR, and others wait; a break is answered with FOUND, at
once or when the owner's engine has gone. R352: HOST_SET, TSV_PLACE, TSV_RING and VLOG_NEXT. Each is answered BAD_ARG
with the word at fault or does all it is asked. That commits wait in a queue of Bedrock's and that LOCK_BREAK comes
back to its request are the model's choices (log entry 30). -/
def Obligations.SettingRequests : Prop :=
  (∀ (s₀ : State) (m : Nat),
     let s := served m s₀
     (asked s₀ m 0x01 = true →
       let a := reqWord s m 1
       let g := fld a 0 7
       let i := fld a 8 6
       let r : Rule := { w0 := reqWord s m 2, w1 := reqWord s m 3, w2 := reqWord s m 4, w3 := reqWord s m 5 }
       let free := g ≠ 70 ∧ i ≠ 0 ∧ i ≠ 63 ∧ ¬((g = 68 ∨ g = 69) ∧ i ≤ 7) ∧ bit r.w2 26 = false ∧ bit r.w2 27 = false
       ((fld a 7 1 ≠ 0 ∨ fld a 14 50 ≠ 0 ∨ gatePresent s g = false) →
         exec (.gateRule m) s₀ = .next (bedAnswer m 0x12 1 [] s)) ∧
       (fld a 7 1 = 0 → fld a 14 50 = 0 → gatePresent s g = true →
         (¬ free → exec (.gateRule m) s₀ = .next (bedAnswer m 0x13 0 [] s)) ∧
         (free → ruleBad r = true → ∃ w, 2 ≤ w ∧ w ≤ 5 ∧ exec (.gateRule m) s₀ = .next (bedAnswer m 0x12 (BitVec.ofNat 32 w) [] s)) ∧
         (free → ruleBad r = false → ruleLocked s g = true → exec (.gateRule m) s₀ = .next (bedAnswer m 0x14 0 [] s)) ∧
         (free → ruleBad r = false → ruleLocked s g = false →
           exec (.gateRule m) s₀ = .next (bedAnswer m 0 0 [] (setShadow g i r s))))) ∧
     (asked s₀ m 0x02 = true →
       let b := reqWord s m 2
       let mask : BitVec 71 := put 71 (reqWord s m 1) 0 ||| put 71 (bits b 0 7) 64
       (fld b 7 57 ≠ 0 → exec (.gateCommit m) s₀ = .next (bedAnswer m 0x12 2 [] s)) ∧
       (fld b 7 57 = 0 → bit b 6 = true → exec (.gateCommit m) s₀ = .next (bedAnswer m 0x13 0 [] s)) ∧
       (fld b 7 57 = 0 → bit b 6 = false →
         ((s.gate.latched ≠ none ∨ s.ctl.committing ≠ none) →
           exec (.gateCommit m) s₀ = .next (modCtl (fun c => { c with commits := c.commits ++ [m] }) s)) ∧
         (s.gate.latched = none → s.ctl.committing = none → s.ctl.commits = [] → (∀ k v e, s.ctl.update ≠ some (.barrier k v e)) →
           (badRule s mask = none → exec (.gateCommit m) s₀ = .next (modCtl (fun c => { c with committing := some m })
             (modGate (fun g => { g with
               mask0 := bits mask 0 32, mask1 := bits mask 32 32, mask2 := bits mask 64 7, armed := true, done := false
               err := false, wref := false, latched := some mask }) s))) ∧
           (∀ k, badRule s mask = some k → s.gate.armed = false → ∃ t, exec (.gateCommit m) s₀ = .next t ∧ (getMbx t m).busy = false ∧
             fld (rspWord t m 0) 0 8 = 0x20 ∧ bits (rspWord t m 0) 32 32 = gbarWord t.gate ∧ t.gate.err = true ∧
             t.gate.errgate.toNat = k / 64 % 128 ∧ t.gate.errrule.toNat = k % 64 ∧ t.gate.shadow = s.gate.shadow ∧
             t.ctl.committing = none ∧ t.ctl.commits = [])))) ∧
     (asked s₀ m 0x03 = true →
       let a := reqWord s m 1
       let u := lockCommand (modLock (fun l => { l with lbcmdadr := a }) s)
       (a.toNat % 8 ≠ 0 → exec (.lockBreak m) s₀ = .next (bedAnswer m 0x12 1 [] s)) ∧
       (a.toNat % 8 = 0 →
         (s.ctl.lockFor = none →
           (breakWaits u a = false → exec (.lockBreak m) s₀ = .next (bedAnswer m 0 0 [w64 (b2n u.lock.found)] u)) ∧
           (breakWaits u a = true → exec (.lockBreak m) s₀ = .next (modCtl (fun c => { c with lockFor := some m }) u)) ∧
           u.lock.found = (match lockAt s a with
             | some x => !x.releasing && (engOf s x.chan).isNone && !s.lock.waiting.any (fun y => y.addr == a) && !orphanOut s x.chan
             | none => false)))) ∧
     (bedServes s₀ = true → s₀.ctl.lockFor = some m → (getMbx s₀ m).busy = true → m ≤ 8 →
       fld (reqWord s₀ m 0) 0 8 = 3 → fld (reqWord s₀ m 0) 8 8 = 0 → fld (reqWord s₀ m 0) 32 32 = 0 → (reqWord s₀ m 1).toNat % 8 = 0 →
       (breakWaits s₀ (reqWord s₀ m 1) = true → exec (.lockBreak m) s₀ = .next s) ∧
       (breakWaits s₀ (reqWord s₀ m 1) = false → exec (.lockBreak m) s₀ =
         .next (bedAnswer m 0 0 [w64 (b2n s.lock.found)] (modCtl (fun c => { c with lockFor := none }) s))))) ∧
  (∀ (s₀ : State) (m : Nat),
     let s := served m s₀
     (asked s₀ m 0x04 = true →
       let h := (reqWord s m 1).toNat
       let x := reqWord s m 2
       let y := reqWord s m 3
       let xBad := fld x 3 1 ≠ 0 ∨ fld x 7 1 ≠ 0 ∨ fld x 9 7 ≠ 0 ∨ fld x 28 36 ≠ 0
       let yBad := fld y 10 6 ≠ 0 ∨ fld y 26 5 ≠ 0 ∨ fld y 32 32 ≠ 0 ∨ (getFn s (h * 1024 + fld y 16 10)).mir.pf = false
       (nHosts s ≤ h → exec (.hostSet m) s₀ = .next (bedAnswer m 0x12 1 [] s)) ∧
       (h < nHosts s → xBad → exec (.hostSet m) s₀ = .next (bedAnswer m 0x12 2 [] s)) ∧
       (h < nHosts s → ¬ xBad → yBad → exec (.hostSet m) s₀ = .next (bedAnswer m 0x12 3 [] s)) ∧
       (h < nHosts s → ¬ xBad → ¬ yBad → exec (.hostSet m) s₀ = .next (bedAnswer m 0 0 [] (modHp h (fun p => { p with
         mrrscap := bits x 0 3, mpscap := bits x 4 3, tphen := bit x 8, cto := bits x 16 12,
         ctlfn := bits y 0 10, evglob := bits y 16 10, evgloben := bit y 31 }) s)))) ∧
     (asked s₀ m 0x05 = true →
       let a := reqWord s m 1
       let i := fld a 0 4
       let x := getInst s i
       ((fld a 4 60 ≠ 0 ∨ x.en = true) → exec (.tsvPlace m) s₀ = .next (bedAnswer m 0x12 1 [] s)) ∧
       (fld a 4 60 = 0 → x.en = false →
         (∀ w, badRegion s (ringRegion s ++ otherRegions s i) (askedRegions m x s) = some w →
           2 ≤ w ∧ w ≤ 6 ∧ exec (.tsvPlace m) s₀ = .next (bedAnswer m 0x12 (BitVec.ofNat 32 w) [] s)) ∧
         (badRegion s (ringRegion s ++ otherRegions s i) (askedRegions m x s) = none →
           ∃ t, exec (.tsvPlace m) s₀ = .next t ∧ (getInst t i).hdrbase = reqWord s m 2 ∧ (getInst t i).ep0.ebase = reqWord s m 3 ∧
             (getInst t i).ep0.sbase = reqWord s m 4 ∧ (getInst t i).ep1.ebase = reqWord s m 5 ∧
             (getInst t i).ep1.sbase = reqWord s m 6 ∧ (∀ j, j ≠ i → getInst t j = getInst s j) ∧ (getMbx t m).busy = false ∧
             fld (rspWord t m 0) 0 8 = 0 ∧ durable t = durable s ∧
             (reqWord s m 2).toNat % 32 = 0 ∧ (reqWord s m 4).toNat % 8192 = 0 ∧ (reqWord s m 6).toNat % 8192 = 0 ∧
             (∀ w ∈ [2, 3, 4, 5, 6], s.ctl.tsvbase.toNat ≤ (reqWord s m w).toNat)))) ∧
     (asked s₀ m 0x06 = true →
       let a := (reqWord s m 1).toNat
       let l := reqWord s m 2
       let on := ∃ i, i < 16 ∧ (getInst s i).en = true
       (on → exec (.tsvRing m) s₀ = .next (bedAnswer m 0x12 1 [] s)) ∧
       (¬on → (l.toNat < 12 ∨ 20 < l.toNat) → exec (.tsvRing m) s₀ = .next (bedAnswer m 0x12 2 [] s)) ∧
       (¬on → 12 ≤ l.toNat → l.toNat ≤ 20 →
         (a % 32 ≠ 0 → exec (.tsvRing m) s₀ = .next (bedAnswer m 0x12 1 [] s)) ∧
         (badRegion s (otherRegions s 16) [(1, a, 32 * 2 ^ l.toNat, 32)] = none → exec (.tsvRing m) s₀ =
           .next (bedAnswer m 0 0 [] (modTsv (fun t => { t with tevbase := reqWord s m 1, tevlog := bits l 0 5 }) s))))) ∧
     (asked s₀ m 0x08 = true →
       (s.gate.vlogwr = s.gate.vlogrd → exec (.vlogNext m) s₀ = .next (bedAnswer m 0x01 0 [] s)) ∧
       (s.gate.vlogwr ≠ s.gate.vlogrd →
         let r := tget {} s.gate.vlog (s.gate.vlogrd.toNat % 256)
         exec (.vlogNext m) s₀ = .next (bedAnswer m 0 0 [r.w0, r.w1, r.w2, r.w3]
           (modGate (fun g => { g with vlogrd := inc32 g.vlogrd }) s)))))

/-- R352, R353, R402, R411: SELFTEST, READY, SCREE_LOAD, SCREE_RESTART and CAIRN_SET. BUSY in phases where no image can
be taken is the model's reading. -/
def Obligations.OperationRequests : Prop :=
  ∀ (s₀ : State) (m : Nat),
    let s := served m s₀
    (asked s₀ m 0x07 = true →
      let a := reqWord s m 1
      let kind : BitVec 2 := bits a 0 2
      let t : BitVec 7 := bits a 8 7
      let good := fld a 2 6 = 0 ∧ fld a 15 49 = 0 ∧ testExists s kind t = true
      let may := (kind ≠ 2 → s.ctl.phase = 6 ∧ ¬(kind = 0 ∧ t = 0) ∧ ¬(kind = 1 ∧ t = 11)) ∧ (kind = 2 → otherEngines s t.toNat = true)
      (¬ good → exec (.selftest m) s₀ = .next (bedAnswer m 0x12 1 [] s)) ∧
      (good → ¬ may → exec (.selftest m) s₀ = .next (bedAnswer m 0x11 0 [] s)) ∧
      (good → may → s.st.busy = true → exec (.selftest m) s₀ = .next (bedAnswer m 0x14 0 [] s)) ∧
      (good → may → s.st.busy = false → ∃ u, exec (.selftest m) s₀ = .next u ∧ u.ctl.testFor = some m ∧ u.st.busy = true ∧
        u.st.lkind = kind ∧ u.st.ltarget = t ∧ u.mbx = s.mbx ∧ durable u = durable s ∧
        (kind ≠ 2 → u.eng = s.eng) ∧
        (kind = 2 → ∀ e c, (getEng s e).hold = .chan c → (getEng s e).stop = .none →
          (getEng u e).stop = (if e / 4 + 2 = t.toNat then .pause else .none)))) ∧
    (asked s₀ m 0x09 = true → m < 8 →
      ((s.ctl.zeroed = false ∨ s.ctl.ready = true) → exec (.ready m) s₀ = .next (bedAnswer m 0x14 0 [] s)) ∧
      (s.ctl.zeroed = true → s.ctl.ready = false →
        exec (.ready m) s₀ = .next (bedAnswer m 0 0 [] (modCtl (fun c => { c with ready := true, phase := 8 }) s)))) ∧
    (asked s₀ m 0x0A = true →
      let busy := s.ctl.update ≠ none ∨ s.ctl.loading = true ∨ s.ctl.scree ≠ none
      (busy → exec (.screeLoad m) s₀ = .next (bedAnswer m 0x14 0 [] s)) ∧
      (¬ busy → exec (.screeLoad m) s₀ = .next (modCtl (fun c => { c with update := some (.verify m) }) s))) ∧
    (asked s₀ m 0x0B = true → m = 8 →
      let busy := s.ctl.update ≠ none ∨ s.ctl.loading = true ∨ s.ctl.scree ≠ none ∨ ¬(s.ctl.phase = 7 ∨ s.ctl.phase = 8)
      (busy → exec (.screeRestart m) s₀ = .next (bedAnswer m 0x14 0 [] s)) ∧
      (¬ busy → ∃ t, exec (.screeRestart m) s₀ = .next t ∧ t.ctl.run = 0xFF ∧ t.ctl.cause = 2 ∧ t.ctl.bank = s.ctl.bank ∧
        (∀ n, n < 8 → (getCore t n).pc = s.ctl.entry.zeroExtend 64 ∧ (getCore t n).g = [] ∧ (getCore t n).wait = none ∧
          bit t.ctl.halted n = false) ∧
        (getMbx t m).busy = false ∧ fld (rspWord t m 0) 0 8 = 0 ∧ durable t = durable s)) ∧
    (asked s₀ m 0x0C = true →
      let a := reqWord s m 1
      let b := reqWord s m 2
      let aBad := fld a 1 3 ≠ 0 ∨ fld a 9 55 ≠ 0 ∨ ¬(1 ≤ fld a 4 4 ∧ fld a 4 4 ≤ nHosts s)
      (aBad → exec (.cairnSet m) s₀ = .next (bedAnswer m 0x12 1 [] s)) ∧
      (¬ aBad → b.toNat % 4096 ≠ 0 → exec (.cairnSet m) s₀ = .next (bedAnswer m 0x12 2 [] s)) ∧
      (¬ aBad → b.toNat % 4096 = 0 → ∃ t, exec (.cairnSet m) s₀ = .next t ∧ t.pf.hcen = bit a 0 ∧ t.pf.hspace = bits a 4 4 ∧
        t.pf.haddr = b ∧ fld (rspWord t m 0) 0 8 = 0 ∧ (getMbx t m).busy = false ∧ t.cmem = s.cmem ∧ t.kram = s.kram ∧
        (bit a 8 = false → t.rsram = s.rsram) ∧
        (bit a 8 = true → recordValid t 0 = false ∧ recordValid t 1 = false ∧
          (∀ k, 0x2000 ≤ k → memByte t.rsram k = memByte s.rsram k))))

/-- R338, R340, R356, R359 to R361, R370: a core that does not run takes no instruction; a fetch that fails and an opcode
outside the map are faults of the core. A fetch takes the line the instruction cache holds, reading no memory and
checking no gate; the bytes of another are those a load reads, an uncorrectable error among them is the fault ECC,
and its line is held where gate 70 lets it be (log entry 57). A fault records its cause, the PC and the address,
changes no other register, marks a control core in CCSTAT, which raises its event as the mark appears, and goes to
FVEC, or without one, or in a handler, halts the core: a control core by HALTED, KC by PHASE 9 with ERR 0x0A. G0
reads 0 whatever is written to it, and an address outside the map is a BUS fault. The order of causes is the model's
(log entry 31). -/
def Obligations.CoreFaults : Prop :=
  ∀ (s : State) (c : Nat), c < 9 →
    (∀ i ∈ coreCommands c, coreRuns s c = false → exec i s = .next s) ∧
    (∀ i ∈ coreCommands c, coreRuns s c = true →
      (∀ k u, coreFetch c (getCore s c).pc s = .fault k u → exec i s = .next (coreFault c k (getCore s c).pc u)) ∧
      (∀ w u, fetches s c w u = true → opc w ∉ coreOpcodes → exec i s = .next (coreFault c 1 0 u))) ∧
    (∀ a x, (getCore s c).icache.find? (fun x => x.1 == a.toNat / 64) = some x →
      coreFetch c a s = .bytes ((x.2.drop (a.toNat % 64)).take 8) s) ∧
    (∀ a, (getCore s c).icache.find? (fun x => x.1 == a.toNat / 64) = none →
      (∀ k u, coreRead c a 8 s = .fault k u → coreFetch c a s = .fault k u) ∧
      (∀ d u, coreRead c a 8 s = .bytes d u → ∃ v, coreFetch c a s = .bytes d v ∧ v.cmem = u.cmem ∧ durable v = durable u ∧
        (c = 8 → v = u) ∧ (lineCacheable u c a = false → v = u) ∧ (getCore v c).pc = (getCore u c).pc ∧
        (lineCacheable u c a = true → eccAt u (a.toNat / 64 * 64) 64 = false →
          (getCore v c).icache.head? = some (a.toNat / 64, memRead u.cmem (64 * (a.toNat / 64)) 64)))) ∧
    (∀ (k : BitVec 3) a,
      let t := coreFault c k a s
      let x := getCore s c
      let vector := x.fvec &&& ~~~7
      (∀ j, j ≠ c → getCore t j = getCore s j) ∧ durable t = durable s ∧
      (c < 8 → bit t.ctl.fault c = true ∧
        t.ctl.evpendk = (if bit s.ctl.fault c then s.ctl.evpendk else s.ctl.evpendk ||| 32)) ∧
      (c = 8 → t.ctl.fault = s.ctl.fault ∧ t.ctl.evpendk = s.ctl.evpendk) ∧
      (vector ≠ 0 → x.inh = false → getCore t c = { x with fcause := k, fpc := x.pc, faddr := a, inh := true, pc := vector } ∧
        t.ctl.halted = s.ctl.halted ∧ t.ctl.phase = s.ctl.phase) ∧
      (vector = 0 ∨ x.inh = true →
        (c < 8 → getCore t c = { x with fcause := k, fpc := x.pc, faddr := a, wait := none } ∧ bit t.ctl.halted c = true ∧
          t.ctl.run = s.ctl.run) ∧
        (c = 8 → getCore t c = { x with fcause := k, fpc := x.pc, faddr := a } ∧ t.ctl.phase = 9 ∧ t.ctl.err = 0x0A ∧
          coreRuns t 8 = false))) ∧
    (∀ k r v j, getG (setG r v k) j = if j = 0 then 0 else if j = r then v else getG k j) ∧
    (∀ a n, (c < 8 → 0x1000000 ≤ a.toNat → coreRead c a n s = .fault 4 s) ∧
      (a.toNat < 0x1000000 → eccAt s a.toNat n = true → coreGate c .rd a n s = none → ∃ u, coreRead c a n s = .fault 5 u) ∧
      (c = 8 → 0x80010000 ≤ a.toNat → a.toNat < 0x80030000 → eccAt s a.toNat n = true → coreRead c a n s = .fault 5 s) ∧
      (c = 8 → (0x1000000 ≤ a.toNat ∧ a.toNat < 0x80000000 ∨ 0x80008000 ≤ a.toNat ∧ a.toNat < 0x80010000 ∨
        0x80030000 ≤ a.toNat ∧ a.toNat < 0x80040000 ∨ 0x80044000 ≤ a.toNat ∧ a.toNat < 0x80050000 ∨ 0x80051000 ≤ a.toNat) →
        coreRead c a n s = .fault 4 s))

/-- R367: B and JAL. B goes to PC + 8 × IMM when its condition holds and to the next word when not; JAL writes the link
and goes to its target, which the register form takes from G(RA) as the link left it (log entry 32). The reserved
condition and a field that must be 0 are ILLEGAL, a misaligned target of JAL is MISALIGN with RD not written. -/
def Obligations.CoreJumps : Prop :=
  ∀ (s u : State) (c : Nat) (w : Word), fetches s c w u = true →
    let k := getCore u c
    let a := getG k (fRA w)
    let m := fMOD w
    (opc w = 0xA0 →
      let good := fRD w = 0 ∧ fRA w = 0 ∧ fRB w = 0 ∧ fI w = false ∧ m < 16 ∧ m ≠ 8
      let taken : Bool := match m with
        | 0 => true | 1 => k.z | 2 => k.c | 3 => k.s | 4 => k.v | 5 => k.c && !k.z | 6 => k.s == k.v | 7 => !k.z && k.s == k.v
        | 9 => !k.z | 10 => !k.c | 11 => !k.s | 12 => !k.v | 13 => !k.c || k.z | 14 => k.s != k.v | _ => k.z || k.s != k.v
      (¬ good → exec (.b c) s = .next (coreFault c 1 0 u)) ∧
      (good → exec (.b c) s = .next (modCore c (fun k => { k with pc := if taken then k.pc + 8 * fIMM w else k.pc + 8 }) u))) ∧
    (opc w = 0xA1 →
      let good := fRB w = 0 ∧ fI w = false ∧ m < 2 ∧ (m = 0 → fRA w = 0)
      let t := if m = 0 then k.pc + 8 * fIMM w else (if fRA w = fRD w ∧ fRD w ≠ 0 then k.pc + 8 else a) + fIMM w
      (¬ good → exec (.jal c) s = .next (coreFault c 1 0 u)) ∧
      (good → t.toNat % 8 ≠ 0 → exec (.jal c) s = .next (coreFault c 2 t u)) ∧
      (good → t.toNat % 8 = 0 → exec (.jal c) s = .next (modCore c (fun k => { setG (fRD w) (k.pc + 8) k with pc := t }) u)))

/-- R365, R366, and of R360 and R363 what they say of LDI: the arithmetic of a core. Each writes RD, the flags its row
names and PC, and nothing else; a reserved MOD, a field that must be 0 and a bit-field past bit 63 are ILLEGAL. The
second word of a long LDI is fetched as the first is. -/
def Obligations.CoreArithmetic : Prop :=
  ∀ (s u : State) (c : Nat) (w : Word), fetches s c w u = true →
    let k := getCore u c
    let a := getG k (fRA w)
    let b := if fI w then fIMM w else getG k (fRB w)
    let n := b.toNat % 64
    let m := fMOD w
    (opc w = 0x90 →
      ((fI w = true ∧ fRB w ≠ 0) ∨ 12 ≤ m → exec (.alu c) s = .next (coreFault c 1 0 u)) ∧
      ((fI w = true → fRB w = 0) → m < 12 →
        let r : Word := match m with
          | 0 => a + b | 1 => a - b | 2 => a &&& b | 3 => a ||| b | 4 => a ^^^ b | 5 => a <<< n | 6 => a >>> n
          | 7 => a.sshiftRight n | 8 => a * b | 9 => BitVec.ofNat 64 (a.toNat * b.toNat / 2 ^ 64) | 10 => a - b | _ => a &&& b
        let cy : Bool := match m with
          | 0 => decide (2 ^ 64 ≤ a.toNat + b.toNat) | 1 => decide (b.toNat ≤ a.toNat) | 10 => decide (b.toNat ≤ a.toNat)
          | 5 => decide (0 < n) && a.getLsbD (64 - n) | 6 => decide (0 < n) && a.getLsbD (n - 1)
          | 7 => decide (0 < n) && a.getLsbD (n - 1) | _ => false
        let ov : Bool := match m with
          | 0 => decide ((a + b).toInt ≠ a.toInt + b.toInt) | 1 => decide ((a - b).toInt ≠ a.toInt - b.toInt)
          | 10 => decide ((a - b).toInt ≠ a.toInt - b.toInt) | _ => false
        exec (.alu c) s = .next (modCore c (fun k => { (if m < 10 then setG (fRD w) r k else k) with
          z := decide (r = 0), s := decide (r.toInt < 0), c := cy, v := ov, pc := k.pc + 8 }) u))) ∧
    (opc w = 0x91 →
      let pos := fld w 16 6
      let len := fld w 24 6 + 1
      let good := fRB w = 0 ∧ fI w = false ∧ m < 2 ∧ fld w 22 2 = 0 ∧ fld w 30 18 = 0 ∧ pos + len ≤ 64
      (¬ good → exec (.bfx c) s = .next (coreFault c 1 0 u)) ∧
      (good → ∃ r : Word,
        exec (.bfx c) s = .next (modCore c (fun k => { setG (fRD w) r k with z := decide (r = 0), pc := k.pc + 8 }) u) ∧
        (m = 0 → ∀ i, r.getLsbD i = (decide (i < len) && a.getLsbD (pos + i))) ∧
        (m = 1 → ∀ i, i < 64 → r.getLsbD i =
          if pos ≤ i ∧ i < pos + len then a.getLsbD (i - pos) else (getG k (fRD w)).getLsbD i))) ∧
    (opc w = 0x82 →
      let good := fRA w = 0 ∧ fRB w = 0 ∧ fI w = false ∧ m < 8
      (¬ good ∨ (bit w 48 = true ∧ fIMM w ≠ 0) → exec (.ldi c) s = .next (coreFault c 1 0 u)) ∧
      (good → bit w 48 = false →
        exec (.ldi c) s = .next (modCore c (fun k => { setG (fRD w) (fIMM w) k with pc := k.pc + 8 }) u)) ∧
      (good → bit w 48 = true → fIMM w = 0 →
        (∀ d v, coreFetch c (k.pc + 8) u = .bytes d v → exec (.ldi c) s =
          .next (modCore c (fun k => { setG (fRD w) (wordAt d 0) k with pc := k.pc + 16 }) v)) ∧
        (∀ x v, coreFetch c (k.pc + 8) u = .fault x v → exec (.ldi c) s = .next (coreFault c x (k.pc + 8) v))))

/-- R363, R364, R361, R254: loads, stores and AMO of a core. A load delivers the little-endian value, zero- or
sign-extended; a store to control memory enters the write buffer or waits for room, one to KRAM or the retention SRAM
writes its bytes and no other, one to the boot ROM is a BUS fault; an AMO waits for its own earlier stores, passes
gate 70 for reading and writing at once, and leaves the new word in memory and the old one in RD, or is the fault ECC
on a word with an uncorrectable error (R370). A form with a field that must be 0 is ILLEGAL, a misaligned address
MISALIGN. The order of causes is the model's (log entry 31). -/
def Obligations.CoreMemory : Prop :=
  ∀ (s u : State) (c : Nat) (w : Word), fetches s c w u = true →
    let k := getCore u c
    let n := 2 ^ (fMOD w % 4)
    let a := getG k (fRA w) + fIMM w
    let fields := fRB w = 0 ∧ fI w = false
    (opc w = 0x80 →
      (¬(fields ∧ fMOD w < 8) → exec (.ld c) s = .next (coreFault c 1 0 u)) ∧
      (fields → fMOD w < 8 →
        (a.toNat % n ≠ 0 → exec (.ld c) s = .next (coreFault c 2 a u)) ∧
        (a.toNat % n = 0 →
          (∀ x v, coreRead c a n u = .fault x v → exec (.ld c) s = .next (coreFault c x a v)) ∧
          (∀ d v, coreRead c a n u = .bytes d v → ∃ r : Word,
            exec (.ld c) s = .next (modCore c (fun k => { setG (fRD w) r k with pc := k.pc + 8 }) v) ∧
            (bit w 50 = false → r = BitVec.ofNat 64 (natOfBytes d)) ∧
            (bit w 50 = true → r.toInt = (BitVec.ofNat (8 * n) (natOfBytes d)).toInt)) ∧
          (regionOf c a = .ctl → coreGate c .rd a n u = none → eccAt u a.toNat n = false → ∃ r : Word,
            exec (.ld c) s = .next (modCore c (fun k => { setG (fRD w) r k with pc := k.pc + 8 }) (softRead 11 a.toNat n u)) ∧
            (bit w 50 = false → r = BitVec.ofNat 64 (natOfBytes (memRead u.cmem a.toNat n))) ∧
            (bit w 50 = true → r.toInt = (BitVec.ofNat (8 * n) (natOfBytes (memRead u.cmem a.toNat n))).toInt))))) ∧
    (opc w = 0x81 →
      let d := bytesOf (getG k (fRD w)) n
      let entry : BufWrite := { addr := a, data := d, cls := if c = 8 then 2 else 1, engine := c, core := true, purpose := .dropped }
      (¬(fields ∧ fMOD w < 4) → exec (.st c) s = .next (coreFault c 1 0 u)) ∧
      (fields → fMOD w < 4 →
        (a.toNat % n ≠ 0 → exec (.st c) s = .next (coreFault c 2 a u)) ∧
        (a.toNat % n = 0 →
          (regionOf c a = .ctl → u.cwait = [] → cbufBytes u + n ≤ 4096 → exec (.st c) s =
            .next (modCore c (fun k => { k with pc := k.pc + 8 }) { u with cbuf := u.cbuf ++ [entry] })) ∧
          (regionOf c a = .ctl → u.cwait ≠ [] ∨ 4096 < cbufBytes u + n → exec (.st c) s = .next u) ∧
          (regionOf c a = .kram → ∃ t, exec (.st c) s = .next t ∧
            t = modCore c (fun k => { k with pc := k.pc + 8 }) { eccMend a.toNat n u with kram := t.kram } ∧ ∀ j, memByte t.kram j =
              if a.toNat ≤ j + 0x80010000 ∧ j + 0x80010000 < a.toNat + n then d.getD (j + 0x80010000 - a.toNat) 0 else memByte u.kram j) ∧
          (regionOf c a = .rsram → ∃ t, exec (.st c) s = .next t ∧
            t = modCore c (fun k => { k with pc := k.pc + 8 }) { (if u.pf.cut then u else eccMend a.toNat n u) with rsram := t.rsram } ∧
            (u.pf.cut = true → t.rsram = u.rsram) ∧ (u.pf.cut = false → ∀ j, memByte t.rsram j =
              if a.toNat ≤ j + 0x80040000 ∧ j + 0x80040000 < a.toNat + n then d.getD (j + 0x80040000 - a.toNat) 0
              else memByte u.rsram j)) ∧
          (regionOf c a = .rom ∨ regionOf c a = .none → exec (.st c) s = .next (coreFault c 4 a u))))) ∧
    (opc w = 0x83 →
      let b := getG k (fRA w)
      let m := fMOD w
      let next (old : Word) : Word := if m = 0 then getG k (fRB w) else if m = 1 then old + getG k (fRB w)
        else if old = getG k (fRB w) then getG k (fRD w) else old
      let core (old : Word) : Core := { setG (fRD w) old k with
        z := if m = 2 then decide (old = getG k (fRB w)) else k.z, pc := k.pc + 8 }
      let old := BitVec.ofNat 64 (natOfBytes (memRead u.cmem b.toNat 8))
      let oldK := BitVec.ofNat 64 (natOfBytes (memRead u.kram (b.toNat - 0x80010000) 8))
      let good := fIMM w = 0 ∧ m ≤ 2 ∧ (fI w = true → fRB w = 0)
      (¬good → exec (.amo c) s = .next (coreFault c 1 0 u)) ∧
      (good →
        (b.toNat % 8 ≠ 0 → exec (.amo c) s = .next (coreFault c 2 b u)) ∧
        (b.toNat % 8 = 0 →
          (regionOf c b = .ctl → ownStore u c = true → exec (.amo c) s = .next u) ∧
          (regionOf c b = .ctl → ownStore u c = false →
            (∀ v, coreGate c .both b 8 u = some v → exec (.amo c) s = .next (coreFault c 3 b v)) ∧
            (coreGate c .both b 8 u = none → eccAt u b.toNat 8 = true → exec (.amo c) s = .next (coreFault c 5 b (eccCount 11 u))) ∧
            (coreGate c .both b 8 u = none → eccAt u b.toNat 8 = false → ∃ t, exec (.amo c) s = .next t ∧
              t = modCore c (fun _ => core old) { eccMend b.toNat 8 (softRead 11 b.toNat 8 u) with cmem := t.cmem } ∧ memRead t.cmem b.toNat 8 = bytesOf (next old) 8 ∧
              (∀ j, j < b.toNat ∨ b.toNat + 8 ≤ j → memByte t.cmem j = memByte u.cmem j))) ∧
          (regionOf c b = .kram → eccAt u b.toNat 8 = true → exec (.amo c) s = .next (coreFault c 5 b u)) ∧
          (regionOf c b = .kram → eccAt u b.toNat 8 = false → ∃ t, exec (.amo c) s = .next t ∧
            t = modCore c (fun _ => core oldK) { eccMend b.toNat 8 u with kram := t.kram } ∧ memRead t.kram (b.toNat - 0x80010000) 8 = bytesOf (next oldK) 8) ∧
          (∀ d v, regionOf c b = .rsram → coreRead c b 8 u = .bytes d v → ∃ t, exec (.amo c) s = .next t ∧
            t = modCore c (fun _ => core (BitVec.ofNat 64 (natOfBytes d))) { (if u.pf.cut then v else eccMend b.toNat 8 v) with rsram := t.rsram } ∧
            (u.pf.cut = false → memRead t.rsram (b.toNat - 0x80040000) 8 = bytesOf (next (BitVec.ofNat 64 (natOfBytes d))) 8)) ∧
          (regionOf c b = .rom ∨ regionOf c b = .none ∨ regionOf c b = .crypto →
            exec (.amo c) s = .next (coreFault c 4 b u)))))

/-- R368, R369, R371: the register instructions of a core and its waits. CRR and CRW reach the window at 4 or 8 bytes;
LCR reads and writes the core-local registers, TIMER being set as soon as block time is at TCMP; WFE delivers the
event word E when a bit of its mask is set, clearing none, and else waits until WFE_WAKE finds one. That TIMER is set
again while block time is past TCMP is the model's reading of R369. -/
def Obligations.CoreRegisters : Prop :=
  ∀ (s u : State) (c : Nat) (w : Word), fetches s c w u = true → c < 9 →
    let k := getCore u c
    let a := getG k (fRA w) + fIMM w
    let r : Requester := if c = 8 then .kc else .cc c
    let size := if fMOD w = 1 then 8 else 4
    let fields := fRB w = 0 ∧ fI w = false ∧ fMOD w < 2
    let E (x : State) : Word := (if c = 8 then x.ctl.evpendk.zeroExtend 64
      else if c = x.ctl.evcore.toNat then x.ctl.evpends.zeroExtend 64 else 0) ||| put 64 (getCore x c).lev 32
    (∀ i, (opc w = 0xB0 ∧ i = Instr.crr c) ∨ (opc w = 0xB1 ∧ i = Instr.crw c) →
      (¬ fields → exec i s = .next (coreFault c 1 0 u)) ∧
      (fields → a.toNat % size ≠ 0 → exec i s = .next (coreFault c 2 a u)) ∧
      (fields → a.toNat % size = 0 → 0x4000000 ≤ a.toNat → exec i s = .next (coreFault c 4 a u))) ∧
    (opc w = 0xB0 → fields → a.toNat % size = 0 → a.toNat < 0x4000000 →
      (fMOD w = 0 → exec (.crr c) s = .next (modCore c (fun k =>
        { setG (fRD w) ((regRead r a.toNat u).1.zeroExtend 64) k with pc := k.pc + 8 }) (regRead r a.toNat u).2)) ∧
      (fMOD w = 1 → exec (.crr c) s = .next (modCore c (fun k =>
        { setG (fRD w) (regRead64 r a.toNat u).1 k with pc := k.pc + 8 }) (regRead64 r a.toNat u).2))) ∧
    (opc w = 0xB1 → fields → a.toNat % size = 0 → a.toNat < 0x4000000 →
      let v := modCore c (fun k => { k with pc := k.pc + 8 }) u
      exec (.crw c) s = .next (if fMOD w = 1 then regWrite64 r a.toNat (getG k (fRD w)) v
        else regWrite r a.toNat ((getG k (fRD w)).truncate 32) v)) ∧
    (opc w = 0xB2 →
      let n := fld w 16 8
      let good := fields ∧ fld w 24 24 = 0 ∧ n < 12
      let x := getG k (fRA w)
      (¬ good → exec (.lcr c) s = .next (coreFault c 1 0 u)) ∧
      (good → fMOD w = 0 → ∃ y, exec (.lcr c) s = .next (modCore c (fun k => { setG (fRD w) y k with pc := k.pc + 8 }) u) ∧
        (n = 0 → y.toNat = c) ∧ (n = 1 → y = u.time - k.startAt) ∧ (n = 2 → y = u.time) ∧ (n = 3 → y = k.fvec &&& ~~~7) ∧
        (n = 4 → y.toNat = k.fcause.toNat) ∧ (n = 5 → y = k.fpc) ∧ (n = 6 → y = k.faddr) ∧ (n = 7 → y = if k.inh then 1 else 0) ∧
        (n = 8 → y = k.tcmp) ∧ (n = 9 → y.toNat = k.lev.toNat) ∧ (n = 10 → y = 0) ∧
        (n = 11 → ∀ i, i < 4 → fld y (2 * i) 2 =
          (match (getSvc u c i).st with | .free => 0 | .busy => 1 | .done => 2))) ∧
      (good → fMOD w = 1 → ∃ t, exec (.lcr c) s = .next t ∧ durable t = durable u ∧ t.ctl = u.ctl ∧
        (n ≠ 10 → (∀ j, j ≠ c → getCore t j = getCore u j) ∧
          getCore t c = { k with pc := k.pc + 8
                                 fvec := if n = 3 then x &&& ~~~7 else k.fvec
                                 inh := if n = 7 then bit x 0 else k.inh
                                 tcmp := if n = 8 then x else k.tcmp
                                 lev := if n = 9 then k.lev &&& ~~~(bits x 0 3)
                                   else if n = 8 ∧ x ≠ 0 ∧ x.toNat ≤ u.time.toNat then k.lev ||| 2 else k.lev }) ∧
        (n = 10 → (getCore t c).pc = k.pc + 8 ∧
          ∀ j, (getCore t j).lev = if j < 9 ∧ bit x j = true then (getCore u j).lev ||| 4 else (getCore u j).lev))) ∧
    (opc w = 0xC0 →
      let mask := getG k (fRA w)
      let good := fRB w = 0 ∧ fI w = false ∧ fIMM w = 0 ∧ fMOD w = 0 ∧ mask ≠ 0
      (¬ good → exec (.wfe c) s = .next (coreFault c 1 0 u)) ∧
      (good → E u &&& mask ≠ 0 →
        exec (.wfe c) s = .next (modCore c (fun k => { setG (fRD w) (E u) { k with wait := none } with pc := k.pc + 8 }) u)) ∧
      (good → E u &&& mask = 0 →
        exec (.wfe c) s = .next (modCore c (fun k => { k with wait := some (mask, bits w 0 5) }) u))) ∧
    (∀ (x : State) mask rd, x.inReset = false → (getCore x c).wait = some (mask, rd) →
      (E x &&& mask = 0 → exec (.wfeWake c) x = .next x) ∧
      (E x &&& mask ≠ 0 → exec (.wfeWake c) x = .next (modCore c (fun k =>
        { setG rd.toNat (E x) { k with wait := none } with pc := k.pc + 8 }) x))) ∧
    (∀ x : State, x.inReset = false →
      exec (.timer c) x = .next (if (getCore x c).tcmp ≠ 0 ∧ (getCore x c).tcmp.toNat ≤ x.time.toNat
        then modCore c (fun k => { k with lev := k.lev ||| 2 }) x else x))

/-- R372: MBX. A mailbox above 10, a group outside G1 to G31, a field that must be 0 and an operation its role does not
allow are ILLEGAL; SEND, TAKE, ANSWER and COLLECT move the eight words with Z = 1, or set Z = 0 and change nothing
else. -/
def Obligations.CoreMailboxes : Prop :=
  ∀ (s u : State) (c : Nat) (w : Word), fetches s c w u = true → opc w = 0xC8 →
    let k := getCore u c
    let m := fld w 16 4
    let r := fRD w
    let q : Requester := if c = 8 then .kc else .cc c
    let op := fMOD w
    let i : Instr := if op % 4 = 0 then .mbxSend c else if op % 4 = 1 then .mbxTake c else if op % 4 = 2 then .mbxAnswer c
      else .mbxCollect c
    let role := if op % 4 = 0 ∨ op % 4 = 3 then mbxSender m q else mbxReceiver m q
    let good := fRA w = 0 ∧ fRB w = 0 ∧ fI w = false ∧ fld w 20 28 = 0 ∧ op < 4 ∧ m ≤ 10 ∧ 1 ≤ r ∧ r ≤ 24 ∧ role = true
    let retire (z : Bool) (x : State) : State := modCore c (fun k => { k with z := z, pc := k.pc + 8 }) x
    (¬ good → exec i s = .next (coreFault c 1 0 u)) ∧
    (good → op = 0 → (getMbx u m).busy = true → exec (.mbxSend c) s = .next (retire false u)) ∧
    (good → op = 0 → (getMbx u m).busy = false → ∃ t, exec (.mbxSend c) s = .next t ∧ getCore t c = { k with z := true, pc := k.pc + 8 } ∧
      (getMbx t m).busy = true ∧ (∀ j, j < 8 → reqWord t m j = getG k (r + j)) ∧ (∀ j, j ≠ m → getMbx t j = getMbx u j) ∧
      durable t = durable u) ∧
    (good → op = 1 → (getMbx u m).busy = false → exec (.mbxTake c) s = .next (retire false u)) ∧
    (good → op = 1 → (getMbx u m).busy = true → ∃ t, exec (.mbxTake c) s = .next t ∧ t.mbx = u.mbx ∧ t.ctl = u.ctl ∧ durable t = durable u ∧
      (getCore t c).z = true ∧ (getCore t c).pc = k.pc + 8 ∧ (∀ j, j ≠ c → getCore t j = getCore u j) ∧
      (∀ j, getG (getCore t c) j = if r ≤ j ∧ j < r + 8 then reqWord u m (j - r) else getG k j)) ∧
    (good → op = 2 → (getMbx u m).busy = false → exec (.mbxAnswer c) s = .next (retire false u)) ∧
    (good → op = 2 → (getMbx u m).busy = true → m ≠ 9 → ∃ t, exec (.mbxAnswer c) s = .next t ∧
      getCore t c = { k with z := true, pc := k.pc + 8 } ∧ (getMbx t m).busy = false ∧ (getMbx t m).done = true ∧
      (∀ j, j < 8 → rspWord t m j = getG k (r + j)) ∧ (∀ j, j ≠ m → getMbx t j = getMbx u j) ∧ durable t = durable u) ∧
    (good → op = 2 → (getMbx u m).busy = true → m = 9 → u.ctl.noticed = none → u.ctl.notices = [] →
      ∃ t, exec (.mbxAnswer c) s = .next t ∧ getCore t c = { k with z := true, pc := k.pc + 8 } ∧ (getMbx t m).busy = false ∧
        (getMbx t m).done = true ∧ (∀ j, j < 8 → rspWord t m j = getG k (r + j))) ∧
    (good → op = 3 → (getMbx u m).done = false → exec (.mbxCollect c) s = .next (retire false u)) ∧
    (good → op = 3 → (getMbx u m).done = true → ∃ t, exec (.mbxCollect c) s = .next t ∧ (getMbx t m).done = false ∧ t.ctl = u.ctl ∧
      durable t = durable u ∧ (getCore t c).z = true ∧ (getCore t c).pc = k.pc + 8 ∧
      (∀ j, getG (getCore t c) j = if r ≤ j ∧ j < r + 8 then rspWord u m (j - r) else getG k j))

/-- R373, R374, R375: SVC. ISSUE gives the lowest free slot the eight words of its block, a bad block being answered
BAD_ARG at once, and Z = 0 without a free slot; RESULT reads a result word, RELEASE frees a slot that is DONE, CANCEL
ends movement work: work that no engine has taken at once, with CODE ABORTED, and work on an engine by telling it to
stop. The result of work that was cancelled before an engine took it is the model's (CODE ABORTED, all else 0). -/
def Obligations.ServiceCalls : Prop :=
  ∀ (s u : State) (c : Nat) (w : Word), fetches s c w u = true → opc w = 0xD0 →
    let k := getCore u c
    let op := fMOD w
    let i : Instr := if op % 4 = 0 then .svcIssue c else if op % 4 = 1 then .svcResult c else if op % 4 = 2 then .svcRelease c
      else .svcCancel c
    let slot := fld (getG k (fRA w)) 0 2
    let v := getSvc u c slot
    let good := fRB w = 0 ∧ fI w = false ∧ op < 4 ∧ (op ≠ 1 → fIMM w = 0) ∧ (op = 0 → 1 ≤ fRA w ∧ fRA w ≤ 24) ∧
      (op = 1 → fld w 16 5 ≤ 16 ∧ fld w 21 27 = 0)
    let block := (List.range 8).map (fun j => getG k (fRA w + j))
    let z (b : Bool) (x : State) : State := modCore c (fun k => { k with z := b, pc := k.pc + 8 }) x
    (¬ good → exec i s = .next (coreFault c 1 0 u)) ∧
    (good → op = 0 → (∀ j, j < 4 → (getSvc u c j).st ≠ .free) → exec (.svcIssue c) s = .next (z false u)) ∧
    (∀ n, good → op = 0 → n < 4 → (getSvc u c n).st = .free → (∀ j, j < n → (getSvc u c j).st ≠ .free) →
      let new : Svc := { st := .busy, block := block, stamp := stampNow u }
      ∃ t, exec (.svcIssue c) s = .next t ∧ (getCore t c).z = true ∧ (getCore t c).pc = k.pc + 8 ∧
        getG (getCore t c) (fRD w) = (if fRD w = 0 then 0 else w64 n) ∧
        (∀ j, j ≠ fRD w → getG (getCore t c) j = getG k j) ∧ (∀ j, j < 4 → j ≠ n → getSvc t c j = getSvc u c j) ∧
        (∀ j, j ≠ c → getCore t j = getCore u j) ∧ t.dsp = u.dsp ∧ durable t = durable u ∧
        (blockBad new = false → getSvc t c n = new ∧ (getCore t c).lev = k.lev) ∧
        (blockBad new = true → (getSvc t c n).st = .done ∧ (getSvc t c n).result = [2] ∧ (getCore t c).lev = k.lev ||| 1)) ∧
    (good → op = 1 → exec (.svcResult c) s = .next (modCore c (fun k =>
      { setG (fRD w) (v.result.getD (fld w 16 5) 0) k with pc := k.pc + 8 }) u)) ∧
    (good → op = 2 → v.st ≠ .done → exec (.svcRelease c) s = .next (z false u)) ∧
    (good → op = 2 → v.st = .done → exec (.svcRelease c) s = .next (z true (modSlotSvc c slot (fun v => { v with st := .free }) u))) ∧
    (good → op = 3 → (v.st ≠ .busy ∨ fld (v.block.getD 0 0) 0 4 ≠ 0) → exec (.svcCancel c) s = .next (z false u)) ∧
    (good → op = 3 → v.st = .busy → fld (v.block.getD 0 0) 0 4 = 0 →
      ((∀ x ∈ u.eng, x.2.hold ≠ .work c slot) → ∃ t, exec (.svcCancel c) s = .next t ∧ (getCore t c).z = true ∧ (getCore t c).pc = k.pc + 8 ∧
        (getSvc t c slot).st = .done ∧ (getSvc t c slot).result = [0x3000] ∧ (getCore t c).lev = k.lev ||| 1 ∧
        (∀ x ∈ t.dsp.work, ¬(x.core = c ∧ x.slot = slot)) ∧ t.eng = u.eng ∧ t.lm = u.lm ∧ durable t = durable u) ∧
      (∀ e x, u.eng.find? (fun e => e.2.hold == .work c slot) = some (e, x) → (getEng u e).stop ≠ .fn →
        ∃ t, exec (.svcCancel c) s = .next t ∧ (getCore t c).z = true ∧ (getEng t e).stop = .abort ∧ getSvc t c slot = v ∧
          t.dsp = u.dsp ∧ durable t = durable u))

/-- R374 to R377, R45, R379: what DSP does with a service block. MOVEWORK is queued with its class and stamp; CTXREAD
delivers the sixteen words in any state, with RUN; CTXWRITE refuses an absent channel, a bit it may not write and a
state other than IDLE or STOPPED, writes under its mask, and where OV or OWNER changes first performs the masked
write of word 15, whose answer decides and lets a GO or doorbell that waited for it be taken (R379; log entry 45);
EVPOST sets SCREE on the page of a present function of a page owner. -/
def Obligations.Services : Prop :=
  ∀ (s : State) (c slot : Nat), live s = true → tested s islDsp = false → c < 9 → slot < 4 → (getSvc s c slot).st = .busy → (getSvc s c slot).taken = false →
    let v := getSvc s c slot
    let word (i : Nat) : Word := v.block.getD i 0
    let kind := fld (word 0) 0 4
    let ch := fld (word 1) 0 23
    let x := getCtx s ch
    let answer (t : State) (result : List Word) : Prop := (getSvc t c slot).st = .done ∧ (getSvc t c slot).result = result ∧
      (getCore t c).lev = (getCore s c).lev ||| 1 ∧ (∀ j, j ≠ c → getCore t j = getCore s j) ∧ durable t = durable s
    (kind = 0 → ∃ t, exec (.movework c slot) s = .next t ∧ t.dsp.work = s.dsp.work ++
        [{ core := c, slot := slot, cls := bits (word 0) 4 4, stamp := v.stamp }] ∧ (getSvc t c slot).taken = true ∧
        (getSvc t c slot).st = .busy ∧ t.eng = s.eng ∧ t.dsp.ctx = s.dsp.ctx ∧ durable t = durable s) ∧
    (kind = 1 →
      (chanPresent s ch = false → ∃ t, exec (.ctxread c slot) s = .next t ∧ answer t [2] ∧ t.dsp = s.dsp) ∧
      (chanPresent s ch = true → ∃ t, exec (.ctxread c slot) s = .next t ∧
        answer t (w64 (if (engOf s ch).isSome then 2 ^ 24 else 0) :: ctxWords (shownState s x) x) ∧
        t.dsp.ctx = s.dsp.ctx ∧ t.eng = s.eng)) ∧
    (kind = 2 → s.dsp.ctxwr = [] → mayIssue s = true →
      let i := fld (word 1) 24 4
      let value := word 2
      let mask := word 3
      let lawful := if i = 0 then mask &&& ~~~0x00FFF00000FFFF40 = 0 else if 10 ≤ i ∧ i ≤ 14 then True else mask = 0
      let y := ctxMasked i value mask x
      let v0 := masked (ctxWord0 0 x) value mask
      let moves := y.ov ≠ x.ov ∨ y.owner ≠ x.owner
      ((chanPresent s ch = false ∨ ¬ lawful) → ∃ t, exec (.ctxwrite c slot) s = .next t ∧ answer t [2] ∧ t.dsp = s.dsp) ∧
      (chanPresent s ch = true → lawful → x.st ≠ .idle → x.st ≠ .stopped →
        ∃ t, exec (.ctxwrite c slot) s = .next t ∧ answer t [1] ∧ t.dsp = s.dsp) ∧
      (chanPresent s ch = true → lawful → x.st = .idle ∨ x.st = .stopped →
        (¬ moves → ∃ t, exec (.ctxwrite c slot) s = .next t ∧ answer t [0] ∧ getCtx t ch = y ∧
          (∀ j, j ≠ ch → getCtx t j = getCtx s j) ∧ (i = 14 → y.notify = masked x.notify value mask) ∧
          (i = 10 → y.swbase = masked x.swbase value mask &&& ~~~3) ∧ (i = 11 → y.swlimit = masked x.swlimit value mask &&& ~~~3) ∧
          (i = 12 → y.dwbase = masked x.dwbase value mask &&& ~~~3) ∧ (i = 13 → y.dwlimit = masked x.dwlimit value mask &&& ~~~3) ∧
          (i = 0 → y.ov = bit v0 6 ∧ y.owner = bits v0 8 12 ∧ y.dc = bits v0 20 4 ∧ y.swspace = bits v0 44 4 ∧
            y.dwspace = bits v0 48 4 ∧ y.nspace = bits v0 52 4)) ∧
        (moves → ∃ t, exec (.ctxwrite c slot) s = .next t ∧ t.dsp.ctx = s.dsp.ctx ∧ (getSvc t c slot).st = .busy ∧
          t.dsp.ctxwr = [{ core := c, slot := slot, chan := ch, value := value, mask := mask }] ∧ durable t = durable s))) ∧
    (kind = 3 →
      let fn := fld (word 1) 0 12
      let m := (getFn s fn).mir
      (fn < nFns s → m.present = true → m.pf = true → ∃ t, exec (.evpost c slot) s = .next t ∧ answer t [0] ∧
        getFn t fn = { getFn s fn with evcause := (getFn s fn).evcause ||| 0x400 } ∧ (∀ j, j ≠ fn → getFn t j = getFn s j)) ∧
      ((nFns s ≤ fn ∨ m.present = false ∨ m.pf = false) → ∃ t, exec (.evpost c slot) s = .next t ∧ answer t [2] ∧ t.fn = s.fn)) ∧
    (∀ (q : State) r wr rest resp old, q.inReset = false → tested q islDsp = false →
      q.lm.find? (fun r => r.purpose == .owncopy && decide (r.tag < 1024)) = some r → q.dsp.ctxwr = wr :: rest →
      ∃ u, exec (.owncopyWriteDone resp old) q = .next (takeBehind wr.chan u) ∧ u.dsp.ctxwr = rest ∧ u.dsp.behind = q.dsp.behind ∧
        (getSvc u wr.core wr.slot).st = .done ∧ durable u = durable q ∧ (∀ j, j ≠ wr.chan → getCtx u j = getCtx q j) ∧
        (resp = .ok → (getSvc u wr.core wr.slot).result = [0] ∧
          (getCtx u wr.chan).owner = bits (masked (ctxWord0 0 (getCtx q wr.chan)) wr.value wr.mask) 8 12 ∧
          (getCtx u wr.chan).fold = upd8 old r.compare r.cmask r.value r.wmask r.add) ∧
        (resp ≠ .ok → (getSvc u wr.core wr.slot).result = [3] ∧ getCtx u wr.chan = getCtx q wr.chan)) ∧
    (∀ (u : State) chan, ((∀ b ∈ u.dsp.behind, behindChan b ≠ chan) → takeBehind chan u = u) ∧
      (∀ b, u.dsp.behind = [b] → behindChan b = chan → let z := modDsp (fun d => { d with behind := [] }) u
        takeBehind chan u = (match b with
          | .go fn f => goWith fn f z
          | .bell fn k seq => applyDoorbell (hptOf fn) fn seq k z)))

/-- R392, R393, R396, R397, R399, R415: a sample of the rail is recorded. The WARNCNT-th low sample running raises WARN,
which latches time, seam, sample and QREQ, starts the drain, raises PFWARN, abandons an update and a test, and halts
start-up where Bedrock has not started (PHASE 4); a sample at or below CUTTH raises CUT, with WARN, and abandons a
host copy. Neither is ever taken back, and no memory changes. That samples are recorded while EN is 0, and what WARN
does before Bedrock runs, are the model's readings. -/
def Obligations.RailSamples : Prop :=
  ∀ (s : State) (code : BitVec 10), s.inReset = false →
    let low := if s.pf.en = true ∧ code.toNat ≤ s.pf.warnth.toNat then s.pf.low + 1 else 0
    let warns := s.pf.en = true ∧ max s.pf.warncnt.toNat 1 ≤ low
    let cuts := s.pf.en = true ∧ code.toNat ≤ s.pf.cutth.toNat
    ∃ t, exec (.railSample code) s = .next t ∧ t.pf.sample = code ∧ t.pf.low = low ∧
      t.pf.min = (if code.toNat < s.pf.min.toNat then code else s.pf.min) ∧ t.pf.trace.getLast? = some code ∧
      t.pf.trace.length ≤ 256 ∧ t.cmem = s.cmem ∧ t.kram = s.kram ∧ t.rsram = s.rsram ∧ t.pending = s.pending ∧
      (t.pf.warn = true ↔ s.pf.warn = true ∨ warns ∨ (cuts ∧ s.pf.cut = false)) ∧ (t.pf.cut = true ↔ s.pf.cut = true ∨ cuts) ∧
      (s.pf.warn = false → t.pf.warn = true →
        t.pf.stage = .drain ∧ t.pf.warnTime = s.time ∧ t.pf.warnSeam = s.seam ∧ t.pf.railWarn = code ∧
        t.pf.quiesced = s.dsp.qreq ∧ t.pf.lockuse = s.lock.entries.length ∧ t.out.pfwarn = true ∧ bit t.ctl.evpendk 6 = true ∧
        t.ctl.update = none ∧ t.st.busy = false ∧ (s.st.busy = true → t.st.abandoned = true) ∧
        (s.ctl.bedrockRan = false → t.ctl.phase = 9 ∧ t.ctl.err = 0x0B) ∧ (s.ctl.bedrockRan = true → t.ctl.phase = s.ctl.phase)) ∧
      (s.pf.warn = true → t.pf.cut = s.pf.cut → t.pf.stage = s.pf.stage ∧ t.eng = s.eng ∧ t.ctl = s.ctl) ∧
      (s.pf.warn = true → s.pf.cut = false → t.pf.cut = true →
        t.pf.stage = (if s.pf.stage = .hostcopy then .held else s.pf.stage) ∧ t.eng = s.eng) ∧
      (¬ warns → ¬ cuts → t = { s with pf := t.pf })

/-- R396 steps 4 to 7, R400 to R402: the drain ends when every write of every engine is settled, or at DRAINLIM. Bedrock
then writes a record into the slot that does not hold the newest valid one; the record is valid, bears the next SEQ,
and no other byte of the retention SRAM changes; the host copy follows where it is enabled, CTLFN has bus master
enable and the gate passes each burst: the record's bytes are posted from its address on and a flush read of its last
4 follows, which ends it. Where Bedrock does not run no record is written. -/
def Obligations.DrainAndRecord : Prop :=
  ∀ (s : State), s.inReset = false →
    let ended := drainWaits s = false ∨ min (max s.pf.drainlim.toNat 1) 24 * 1000 ≤ (s.time - s.pf.warnTime).toNat
    (¬(s.pf.stage = .drain ∧ s.pf.cut = false ∧ ended) → exec .drainEnd s = .next s) ∧
    (s.pf.stage = .drain → s.pf.cut = false → ended →
      let up := s.ctl.bedrockRan = true ∧ ¬(s.ctl.phase = 9 ∧ s.ctl.err = 0x0A)
      (¬up →
        exec .drainEnd s = .next (modPf (fun p => { p with
          endTime := s.time, endSeam := s.seam, limit := drainWaits s, stage := .record }) s)) ∧
      (up → s.pf.trace.length ≤ 256 →
        let slot := match bestRecord s with
          | some k => 1 - k
          | none => 0
        let seq : Half := match bestRecord s with
          | some k => recordSeq s k + 1
          | none => 1
        ∃ t, exec .drainEnd s = .next t ∧ t.pf.cairn = true ∧ t.pf.endTime = s.time ∧ t.pf.endSeam = s.seam ∧
          t.pf.limit = drainWaits s ∧ recordValid t slot = true ∧ recordSeq t slot = seq ∧
          (∀ a, a < slot * 0x1000 ∨ slot * 0x1000 + 0x1000 ≤ a → memByte t.rsram a = memByte s.rsram a) ∧
          t.cmem = s.cmem ∧ t.kram = s.kram ∧ t.eng = s.eng ∧
          slotWord t slot 0x10 = s.pf.warnTime ∧ slotWord t slot 0x18 = s.time ∧
          let h := s.pf.hspace.toNat - 1
          let fn := h * 1024 + (getHp s h).ctlfn.toNat
          let copies := s.pf.hcen = true ∧ bmeOf s fn = true ∧ ∀ j, j < 16 →
            (gateCheck s (64 + h) { cls := 2, engine := 8, core := true } .wr (s.pf.haddr + w64 (256 * j)) 256 false).ok = true
          (¬copies → t.pf.stage = .held) ∧
          (copies → t.pf.stage = .hostcopy ∧
            let ws := (getHp t h).posted.drop (getHp s h).posted.length
            ws.flatMap (·.data) = memRead t.rsram (slotBase ((bestRecord t).getD 0)) 4096 ∧
            (∀ x ∈ ws, x.fn = fn ∧ x.purpose = .cairn) ∧ ws.head?.map (·.addr) = some s.pf.haddr ∧
            ((∃ x ∈ (getHp t h).wait, x.purpose = .cairn ∧ x.fn = fn ∧ x.addr = s.pf.haddr + 4092 ∧ x.len = 4) ∨
              ∃ x ∈ (getHp t h).slots, x.2.purpose = .cairn ∧ x.2.fn = fn ∧ x.2.addr = s.pf.haddr + 4092 ∧ x.2.len = 4)))) ∧
    (s.pf.stage = .hostcopy → ∀ i x, (getHp s (s.pf.hspace.toNat - 1)).slots.find?
        (fun x => x.2.purpose == .cairn && x.2.quarUntil.isNone) = some (i, x) →
      ∃ t, exec .cairnHostCopyDone s = .next t ∧ t.pf.stage = .held ∧ durable t = durable s)

/-- R387 to R390, R399, R425, R426: an idle island steps down after its times and no deeper than its policy, and wakes; a
loss of REFCLK and a fall of PGOOD or BRST_N bring every register to its reset value with the retention SRAM kept
while its supply holds (R438; log entry 82), RESET_RELEASE starts the block there, and in reset no other command acts
but a test through the test access port, which leaves the state undefined (R420; log entry 55). -/
def Obligations.IslandsAndResets : Prop :=
  ∀ (s : State) (i : Nat),
    let x := getIsl s i
    let idleFor := (s.time - x.since).toNat
    let may := live s = true ∧ islIdles i = true ∧ islPresent s i = true ∧ islIdle s i = true
    (may → x.pst = 0 → maxstOf s.active.power i ≠ 0 → max (tget (16 : Byte) s.active.power.stopt i).toNat 1 * 8 ≤ idleFor →
      exec (.islandClkstop i) s = .next (modIsl i (fun x => { x with pst := 1, since := s.time }) s)) ∧
    (may → x.pst = 1 → maxstOf s.active.power i = 2 → tget (100 : BitVec 16) s.active.power.rett i ≠ 0 →
      (tget (100 : BitVec 16) s.active.power.rett i).toNat * 1000 ≤ idleFor →
      exec (.islandRetain i) s = .next (modIsl i (fun x => { x with pst := 2, since := s.time }) s)) ∧
    ((islIdle s i = false ∨ maxstOf s.active.power i = 0) →
      exec (.islandClkstop i) s = .next s ∧ exec (.islandRetain i) s = .next s) ∧
    (s.inReset = false → x.pst ≠ 0 → exec (.islandWake i) s = .next (modIsl i (fun x =>
      { x with pst := 0, since := s.time, awakeAt := s.time + (if x.pst = 1 then 16 else 2000) }) s)) ∧
    (i = islXbr → maxstOf s.active.power i ≠ 2) ∧
    (s.inReset = true →
      exec .refclkLoss s = .next s ∧ exec .pgoodFall s = .next { s with pgood := false } ∧ exec .brstFall s = .next s ∧
      ∀ c : Instr, c ≠ .refclkLoss → c ≠ .pgoodFall → c ≠ .brstFall → c ≠ .resetRelease → (∀ n, c ≠ .testAccessPortTest n) →
        exec c s = .next s) ∧
    (let kept (w : Nat) : Bool := s.cfg.standby && decide (0x10008000 ≤ w)
      let down (pgood inReset : Bool) : State := { State.reset with
        pending := s.pending, cfg := s.cfg, free := s.free, rsram := if s.cfg.standby then s.rsram else [], pgood := pgood
        ecc := s.ecc.filter kept, soft := s.soft.filter kept, inReset := inReset
        dsp := { log2cnt := if s.cfg.compact then 21 else 23 } }
      (s.inReset = false → exec .refclkLoss s = .next (down s.pgood true) ∧ exec .pgoodFall s = .next (down false true) ∧
        exec .brstFall s = .next (down s.pgood true)) ∧
      (s.inReset = true → exec .resetRelease s = .next (down true false))) ∧
    (s.inReset = false → exec .resetRelease s = .next s) ∧
    (∀ n : BitVec 7, (s.pgood = false ∨ islPresent s n.toNat = false → exec (.testAccessPortTest n) s = .next s) ∧
      (s.pgood = true → islPresent s n.toNat = true → ∃ t, exec (.testAccessPortTest n) s = .next t ∧ t.pending = s.pending ∧
        t.cfg = s.cfg ∧ t.inReset = s.inReset ∧ t.pgood = true ∧ t.free = s.free + 1))

/-- R410, R411, R413, R416, R417, R421: KC's write of STCMD starts a test unless one runs; the report ends it with its
outcome, SELFTEST is raised, and a request that waited is answered with STSTAT, STSIG and STDETAIL. LOGIC passes only
on the golden signature, MEMORY while spare rows suffice; a failed one on an engine island makes its engines absent,
any other is FAIL. A measurement sets SLOW, and WORN from 48 on, for good, once in every second of block time. A read
counts in ECCCOR the errors it corrects (R418). Outside start-up a test that ends resets what it tested (R410; log
entry 29). -/
def Obligations.SelfTests : Prop :=
  ∀ (s : State) (target : BitVec 7), live s = true → s.pf.stage = .normal →
    (∀ x ∈ [((0 : BitVec 2), Instr.logicTest .kc target), (1, .memoryTest .kc target), (2, .infieldTest .kc target)],
      (s.st.busy = true ∨ testExists s x.1 target = false →
        exec x.2 s = .next { access .kc s with st := { s.st with kind := x.1, target := target } }) ∧
      (s.st.busy = false → testExists s x.1 target = true → ∃ t, exec x.2 s = .next t ∧ t.st.busy = true ∧ t.st.done = false ∧
        t.st.abandoned = false ∧ t.st.lkind = x.1 ∧ t.st.ltarget = target ∧ durable t = durable s ∧ (x.1 ≠ 2 → t.eng = s.eng))) ∧
    (s.st.busy = false →
      (islPresent s target.toNat = true → exec (.logicTest .kc target) s =
        .next (beginTest 0 target { access .kc s with st := { s.st with kind := 0, target := target } })) ∧
      (groupPresent s target.toNat = true → exec (.memoryTest .kc target) s =
        .next (beginTest 1 target { access .kc s with st := { s.st with kind := 1, target := target } })) ∧
      (engIsland target.toNat = true → islPresent s target.toNat = true → exec (.infieldTest .kc target) s =
        .next (beginTest 2 target { access .kc s with st := { s.st with kind := 2, target := target } }))) ∧
    (∀ r, isKc r = false → exec (.logicTest r target) s = .next (access r s) ∧
      exec (.memoryTest r target) s = .next (access r s) ∧ exec (.infieldTest r target) s = .next (access r s)) ∧
    (∀ rep, s.st.busy = false → exec (.selftestDone rep) s = .next s) ∧
    (∀ rep, s.st.busy = true → islandClear s = true →
      let r := testResult rep s
      let v := testOver (resetTested r.2)
      let w := evK 7 { v with st := { v.st with done := true, outcome := r.1, failed := v.st.failed || r.1 == 3 } }
      s.ctl.phase ≠ 3 → w.ctl.phase ≠ 3 → w.st.busy = false ∧ bit w.ctl.evpendk 7 = true ∧
      (w.ctl.testFor = none → exec (.selftestDone rep) s = .next w) ∧
      (∀ m, w.ctl.testFor = some m → exec (.selftestDone rep) s = .next (bedAnswer m 0 0
        [(ststat w.st).zeroExtend 64, w.st.sig.zeroExtend 64, (stdetail w.st).zeroExtend 64]
        (modCtl (fun c => { c with testFor := none }) w)))) ∧
    (∀ u : State, let t := resetTested u
      (u.st.lkind = 0 → durable t = durable u ∧
        (∀ k, engIsland k = true → u.st.ltarget.toNat = k → ∀ x ∈ t.eng, x.1 / 4 ≠ k - 2) ∧
        (u.st.ltarget = 1 → t.dsp.ctx = [] ∧ t.dsp.ready = [] ∧ t.dsp.ctxwr = []) ∧
        (u.st.ltarget = 10 → t.xbar.pend = [] ∧ t.xbar.freeze = u.xbar.freeze)) ∧
      (u.st.lkind = 1 → u.st.ltarget = 0 → t.dsp.ctx = [] ∧ t.dsp.cache = [] ∧ t.cmem = u.cmem) ∧
      (u.st.lkind = 1 → u.st.ltarget = 11 → t.cmem = [] ∧ t.kram = u.kram) ∧
      (u.st.lkind = 1 → u.st.ltarget = 16 → t.gate.active = [] ∧ t.cmem = u.cmem) ∧ (u.st.lkind = 2 → t = u)) ∧
    (∀ rep i, engIsland i = false → (logicResult i rep s).1 = (if rep.sig = golden s.cfg.compact i then 0 else 3)) ∧
    (∀ rep i, engIsland i = true → ((logicResult i rep s).1 = 0 ↔ rep.sig = golden s.cfg.compact i ∧
      ∀ j, j < 5 → rep.slotSigs.getD j 0 = goldenSlot)) ∧
    (∀ rep i, engIsland i = true → rep.sig ≠ golden s.cfg.compact i →
      (logicResult i rep s).1 = 2 ∧ ∀ j, j < 4 → mapAt (getEngIsl (logicResult i rep s).2 (i - 2)) j = 7) ∧
    (∀ g rows, let free := spareRows g - (getGroup s g).spused.toNat
      (rows = 0 → (memoryResult g rows s).1 = 0) ∧ (0 < rows → rows ≤ free → (memoryResult g rows s).1 = 1) ∧
      (free < rows → engGroup g = true → (memoryResult g rows s).1 = 2 ∧
        ∀ j, j < 4 → mapAt (getEngIsl (memoryResult g rows s).2 (g - 3)) j = 7) ∧
      (free < rows → engGroup g = false → (memoryResult g rows s).1 = 3)) ∧
    (∀ (u : State) (g a n : Nat), let hit := u.soft.filter (fun w => decide (a < 8 * w + 8) && decide (8 * w < a + n))
      (hit = [] → softRead g a n u = u) ∧
      (∀ w, hit = [w] → softRead g a n u = modGroup g (fun x => { x with ecccor := inc32 x.ecccor }) u)) ∧
    (∀ i slow, (getIsl s i).agedAt = some (secondOf s) → exec (.agingMeasure i slow) s = .next s) ∧
    (∀ i slow, islPresent s i = true → (getIsl s i).agedAt ≠ some (s.time.toNat / 1000000000) →
      ∃ t, exec (.agingMeasure i slow) s = .next t ∧ (getIsl t i).slow = slow ∧ (getIsl t i).agedAt = some (s.time.toNat / 1000000000) ∧
      ((getIsl t i).worn = true ↔ (getIsl s i).worn = true ∨ 48 ≤ slow.toNat) ∧
      ((getIsl t i).flag = true ↔ (getIsl s i).flag = true ∨ (islTrims i = false ∧ 16 ≤ slow.toNat)) ∧
      (getIsl t i).pst = (getIsl s i).pst ∧ (∀ j, j ≠ i → getIsl t j = getIsl s j) ∧ durable t = durable s)

/-- R444, R406, R428, R9: 64-bit registers by halves. A write of the lower half is held and changes nothing; the upper
half then writes both, with a lower half held by that requester or the one the register holds; a read of the lower
half returns it and latches the upper half of the same moment, which a later read of the upper half returns. BTIMELO
latches block time so. R9, R281, R342, R384, R441 to R443: who reaches what. No register write changes a setting in
force, the rules in force, a memory or READY; what a requester may not reach reads 0 and ignores the write; a host
reaches its own page alone, at 4 or 8 bytes, its DOORBELL goes to its intake whole; a read only register keeps its
value, a W1C field drops the bits written 1. That any other access empties the holding register is the model's (log
entry 34). -/
def Obligations.RegisterAccesses : Prop :=
  (∀ (s : State) (r : Requester) (a : Nat) (v : Half), s.inReset = false → reqOk s r = true → a % 8 = 0 → a < 0x4000000 →
     isDoorbell s a = false → mayReadReg s r a = true →
     (∀ w, wideRead a s = some w →
       let held : State := setLatch r { addr := a, write := true, data := v, full := true } s
       let latched : State := setLatch r { addr := a, write := false, data := hi32 w, full := true } s
       exec (.lowerHalfWrite r a v) s = .next held ∧ exec (.registerWrite r a v) s = .next held ∧
       getLatch held r = { addr := a, write := true, data := v, full := true } ∧ (∀ q, latchKey q ≠ latchKey r → getLatch held q = getLatch s q) ∧
       exec (.lowerHalfRead r a) s = .next (answerRead r ((lo32 w).zeroExtend 64) latched)) ∧
     (wideRead a s = none → exec (.lowerHalfWrite r a v) s = .next s ∧
       exec (.registerWrite r a v) s = .next (narrowWrite r a v (dropLatch r s)) ∧
       exec (.lowerHalfRead r a) s = .next (answerRead r ((narrowRead a s).zeroExtend 64) (dropLatch r s))) ∧
     (∀ old, wideHeld a s = some old → isDoorbell s (a + 4) = false → mayReadReg s r (a + 4) = true →
       (∀ h, getLatch s r = { addr := a, write := true, data := h, full := true } →
         exec (.registerWrite r (a + 4) v) s = .next (wideWrite r a (join32 h v) (dropLatch r s))) ∧
       ((getLatch s r).full = false ∨ (getLatch s r).addr ≠ a ∨ (getLatch s r).write = false →
         exec (.registerWrite r (a + 4) v) s = .next (wideWrite r a (join32 (lo32 old) v) (dropLatch r s)))) ∧
     (∀ w, wideRead a s = some w → mayReadReg s r (a + 4) = true →
       (∀ h, getLatch s r = { addr := a, write := false, data := h, full := true } →
         exec (.lowerHalfRead r (a + 4)) s = .next (answerRead r (h.zeroExtend 64) s)) ∧
       ((getLatch s r).full = false ∨ (getLatch s r).addr ≠ a ∨ (getLatch s r).write = true →
         exec (.lowerHalfRead r (a + 4)) s = .next (answerRead r ((hi32 w).zeroExtend 64) (dropLatch r s)))) ∧
     (∃ t, exec (.btimeloRead .mp) s = .next t ∧ t.out.rp = lo32 s.time ∧ t.time = s.time ∧
       getLatch t .mp = { addr := 0x60000, write := false, data := hi32 s.time, full := true } ∧ durable t = durable s)) ∧
  (∀ (s : State), s.inReset = false →
     (∀ r a v t, exec (.registerWrite r a v) s = .next t → t.active = s.active ∧ t.gate.active = s.gate.active ∧ t.cmem = s.cmem ∧
       t.kram = s.kram ∧ t.rsram = s.rsram ∧ t.ctl.ready = s.ctl.ready ∧ t.pf.warn = s.pf.warn ∧ t.pending = s.pending) ∧
     (∀ r a v, reqOk s r = true → offsetOk a = false ∨ mayReadReg s r a = false →
       exec (.registerWrite r a v) s = .next (dropLatch r s) ∧
       exec (.lowerHalfRead r a) s = .next (answerRead r 0 (dropLatch r s))) ∧
     (∀ r a v, reqOk s r = true → a < 0x10000 → exec (.registerWrite r a v) s = .next (dropLatch r s)) ∧
     (∃ t, exec (.lowerHalfRead .mp 0) s = .next t ∧ t.out.rp = 0x0B710F3D ∧ durable t = durable s) ∧
     (∀ v, exec (.registerWrite .kc 0x80040 v) s =
       .next (modCtl (fun c => { c with evpendk := c.evpendk &&& ~~~(bits v 0 9) }) (dropLatch .kc s))) ∧
     (∀ v, exec (.registerWrite .kc 0x10008 v) s = .next (modShadow (fun x =>
       { x with xarb := { x.xarb with starvth := bits v 0 8 } }) (dropLatch .kc s))) ∧
     (∀ v, exec (.registerWrite .mp 0x10008 v) s = .next (dropLatch .mp s)) ∧
     (∀ v, (s.ctl.phase ≠ 1 → s.ctl.phase ≠ 9 → exec (.registerWrite .mp 0x60040 v) s = .next (dropLatch .mp s)) ∧
       (s.ctl.phase = 1 ∨ s.ctl.phase = 9 → exec (.registerWrite .mp 0x60040 v) s = .next (modPf (fun p => { p with
         warnth := bits v 0 10, cutth := bits v 16 10, warncnt := bits v 26 4, en := bit v 31 }) (dropLatch .mp s)))) ∧
     (∀ h (x : HostAccess), h < nHosts s → tested s (islHpt h) = false → h * 1024 + x.fn.toNat < nFns s →
       let fn := h * 1024 + x.fn.toNat
       (x.off.toNat % (if x.size8 then 8 else 4) ≠ 0 → x.write = true → exec (.hostTargetAccess h x) s =
         .next (dropLatch (.host h fn) s)) ∧
       (x.off.toNat % (if x.size8 then 8 else 4) ≠ 0 → x.write = false → exec (.hostTargetAccess h x) s =
         .next (modOut (fun o => { o with ht := tset 0 o.ht h 0 }) (dropLatch (.host h fn) s))) ∧
       (x.write = true → x.size8 = true → x.off = 0 → exec (.hostTargetAccess h x) s =
         .next (writeDoorbell h fn (some (lo32 x.wdata)) (some (hi32 x.wdata)) (dropLatch (.host h fn) s))) ∧
       (x.write = true → x.size8 = false → x.off = 0x00C → exec (.hostTargetAccess h x) s =
         .next (modFn fn (fun f => { f with chsel := bits x.wdata 0 23 }) (dropLatch (.host h fn) s))) ∧
       (x.write = true → x.size8 = true → x.off = 0x010 → ∃ t, exec (.hostTargetAccess h x) s = .next t ∧
         getFn t fn = { getFn s fn with stS := x.wdata } ∧ (∀ j, j ≠ fn → getFn t j = getFn s j) ∧ t.dsp = s.dsp) ∧
       (x.write = false → x.size8 = false → x.off = 0x00C → ∃ t, exec (.hostTargetAccess h x) s = .next t ∧
         tget 0 t.out.ht h = (getFn s fn).chsel.zeroExtend 64 ∧ t.fn = s.fn ∧ durable t = durable s)))

/-- The queue of the block model: the step takes the command at the front and carries it out with the rest of the queue;
with nothing in the queue one nanosecond of block time passes (log entry 35), or in reset nothing. -/
def Obligations.StepRunsFront : Prop :=
  ∀ (s : State) (c : Instr) (rest : List Instr),
    step { s with pending := c :: rest } = exec c { s with pending := rest } ∧
    (s.pending = [] → s.inReset = true → step s = .next s) ∧
    (s.pending = [] → s.inReset = false → ∃ t, step s = .next t ∧ t.time = s.time + 1 ∧
      ((s.time.toNat + 1) % 2560 ≠ 0 → t.seam = s.seam ∧ t.active = s.active ∧ t.gate.active = s.gate.active))

/-- R381, R383, R426, R452 and the reset columns: what reset leaves: block time 0, PHASE 0, no mode or event set, every
core halted, empty buffers, the shale settings at their reset values in both copies, and memory in canonical form. -/
def Obligations.ResetState : Prop :=
  let s := State.reset
  s.pending = [] ∧ s.time = 0 ∧ s.seam = 0 ∧ s.inReset = false ∧ s.ctl.phase = 0 ∧ s.ctl.ready = false ∧ s.ctl.halted = 0xFF ∧
  s.ctl.run = 0 ∧ s.pf.stage = .normal ∧ s.pf.warn = false ∧ s.pf.min = 0x3FF ∧ s.pf.drainlim = 20 ∧ s.shadow = s.active ∧
  s.active.spec.dahead = 4 ∧ s.active.spec.sahead = 16 ∧ s.active.spec.sexec = true ∧ s.active.disp.yield = 0 ∧
  s.active.disp.pacehold = 0x40 ∧ s.active.xarb.starvth = 8 ∧ s.active.tsv.ephold = 100 ∧ s.dsp.log2cnt = 23 ∧
  s.gate.armed = false ∧ s.gate.active = [] ∧ s.tsv.tevlog = 12 ∧ s.lm = [] ∧ s.cbuf = [] ∧ s.lock.entries = [] ∧
  (∀ h, (getHp s h).mrrscap = 5 ∧ (getHp s h).mpscap = 5 ∧ (getHp s h).cto = 625) ∧
  (∀ p, (getPort s p).en = false ∧ (getPort s p).vermax = 3 ∧ (getPort s p).lstate = .down) ∧
  (∀ e, engPresent s e = decide (e < 32)) ∧ memOk s = true

/-- R8 and the canonical form of the model's byte stores: every command and every nanosecond keeps it, from any state
that has it. -/
def Obligations.StepKeepsMemory : Prop :=
  ∀ (s t : State), memOk s = true → step s = .next t → memOk t = true

/-- Carrying out a command never adds to the queue, drops from it or changes the order of what waits, and never changes
which of the two blocks it is; and the block has no fault and no refusal. R349, R393, R398, R452: the marks that only
a reset takes back: over any step other than one that brings a reset or a test through the test access port, READY
stays 1 once it is 1, and WARN and CUT stay raised. -/
def Obligations.CommandsKeep : Prop :=
  (∀ (c : Instr) (s : State), ∃ t, exec c s = .next t ∧ t.pending = s.pending ∧ t.cfg = s.cfg) ∧
  (∀ (s t : State) (c : Instr), exec c s = .next t → c ≠ .refclkLoss → c ≠ .pgoodFall → c ≠ .brstFall → c ≠ .resetRelease →
     (∀ i, c ≠ .testAccessPortTest i) →
     (s.ctl.ready = true → t.ctl.ready = true) ∧ (s.pf.warn = true → t.pf.warn = true) ∧ (s.pf.cut = true → t.pf.cut = true))
end

