-- ==== Sys2Proof/Laws/Tables.lean ====
section
/-! SUPPORT. What a write to a sparse table reads back as, and that every write keeps the canonical form of a table and of a
byte store. -/

namespace Sys2Proof.Machine

variable {α : Type}

theorem tget_terase (d : α) (t : Tbl α) (k j : Nat) : tget d (terase t k) j = if j = k then d else tget d t j := by
  induction t with
  | nil => simp [terase, tget]
  | cons x t ih =>
    obtain ⟨i, v⟩ := x
    simp only [terase, tget]
    split
    · subst_vars; rw [ih]; split <;> rename_i h
      · rfl
      · rw [if_neg (fun h' => h h'.symm)]
    · rename_i h; simp only [tget, ih]; split
      · subst_vars; rw [if_neg h]
      · rfl

theorem tget_tinsert (d : α) (t : Tbl α) (k j : Nat) (v : α) (h : ∀ x ∈ t, x.1 ≠ k) :
    tget d (tinsert k v t) j = if j = k then v else tget d t j := by
  induction t with
  | nil => simp only [tinsert, tget]; split <;> rename_i h1 <;> simp_all [eq_comm]
  | cons x t ih =>
    obtain ⟨i, w⟩ := x
    have hi : i ≠ k := h (i, w) (by simp)
    have ht := ih (fun x hx => h x (by simp [hx]))
    simp only [tinsert]
    split
    · rcases Decidable.em (k = j) with h1 | h1
      · subst h1; simp [tget]
      · simp [tget, h1, Ne.symm h1]
    · simp only [tget, ht]; rcases Decidable.em (i = j) with h1 | h1
      · subst h1; simp [hi]
      · simp [h1]

theorem terase_ne (t : Tbl α) (k : Nat) : ∀ x ∈ terase t k, x.1 ≠ k := by
  induction t with
  | nil => simp [terase]
  | cons x t ih =>
    obtain ⟨i, v⟩ := x
    intro y hy
    simp only [terase] at hy
    split at hy
    · exact ih y hy
    · rcases List.mem_cons.1 hy with rfl | h
      · assumption
      · exact ih y h

/-- A table reads back what was written, and every other place as before. -/
theorem tget_tset [DecidableEq α] (d : α) (t : Tbl α) (k j : Nat) (v : α) :
    tget d (tset d t k v) j = if j = k then v else tget d t j := by
  simp only [tset]
  split
  · rw [tget_terase]; subst_vars; rfl
  · rw [tget_tinsert _ _ _ _ _ (terase_ne t k), tget_terase]; split <;> simp_all

theorem tget_tmod [DecidableEq α] (d : α) (t : Tbl α) (k j : Nat) (f : α → α) :
    tget d (tmod d t k f) j = if j = k then f (tget d t k) else tget d t j := tget_tset _ _ _ _ _

theorem tget_tmap (d : α) (t : Tbl α) (k : Nat) (f : Nat → α → α) (h : ∀ k, f k d = d) :
    tget d (tmap f t) k = f k (tget d t k) := by
  induction t with
  | nil => exact (h k).symm
  | cons x t ih =>
    obtain ⟨i, y⟩ := x
    simp only [tmap, List.map_cons, tget] at ih ⊢
    split
    · subst_vars; rfl
    · exact ih

theorem terase_terase (t : Tbl α) (k : Nat) : terase (terase t k) k = terase t k := by
  induction t with
  | nil => rfl
  | cons x t ih =>
    obtain ⟨i, y⟩ := x
    simp only [terase]
    split
    · exact ih
    · rename_i h; simp [terase, h, ih]

theorem terase_tinsert (t : Tbl α) (k : Nat) (v : α) (h : ∀ x ∈ t, x.1 ≠ k) : terase (tinsert k v t) k = t := by
  have e (u : Tbl α) (h : ∀ x ∈ u, x.1 ≠ k) : terase u k = u := by
    induction u with
    | nil => rfl
    | cons z u ih =>
      obtain ⟨j, q⟩ := z
      have hj := h (j, q) (by simp)
      simp only [terase, if_neg hj, ih (fun x hx => h x (by simp [hx]))]
  induction t with
  | nil => simp [tinsert, terase]
  | cons x u ih =>
    obtain ⟨i, y⟩ := x
    have hi : i ≠ k := h (i, y) (by simp)
    have hu : ∀ x ∈ u, x.1 ≠ k := fun x hx => h x (by simp [hx])
    simp only [tinsert]
    split
    · simp [terase, hi, e u hu]
    · simp [terase, hi, ih hu]

/-- The second of two writes to one place stands. -/
theorem tset_tset [DecidableEq α] (d : α) (t : Tbl α) (k : Nat) (v w : α) : tset d (tset d t k v) k w = tset d t k w := by
  have e : terase (tset d t k v) k = terase t k := by
    simp only [tset]
    split
    · exact terase_terase t k
    · exact terase_tinsert _ k v (terase_ne t k)
  have f (u : Tbl α) : tset d u k w = if w = d then terase u k else tinsert k w (terase u k) := rfl
  rw [f, e, f]

theorem tmod_tmod [DecidableEq α] (d : α) (t : Tbl α) (k : Nat) (f g : α → α) :
    tmod d (tmod d t k g) k f = tmod d t k (fun x => f (g x)) := by
  simp only [tmod, tget_tset, if_true, tset_tset]

/-! ### The canonical form -/

theorem tabove_mono [DecidableEq α] (d : α) (t : Tbl α) {a b : Nat} (h : a ≤ b) (ht : tabove d b t = true) :
    tabove d a t = true := by
  cases t with
  | nil => rfl
  | cons x t =>
    obtain ⟨j, v⟩ := x
    simp only [tabove, Bool.and_eq_true, decide_eq_true_eq] at ht ⊢
    exact ⟨⟨Nat.le_trans h ht.1.1, ht.1.2⟩, ht.2⟩

theorem tabove_terase [DecidableEq α] (d : α) (t : Tbl α) (k a : Nat) (h : tabove d a t = true) :
    tabove d a (terase t k) = true := by
  induction t generalizing a with
  | nil => rfl
  | cons x t ih =>
    obtain ⟨j, v⟩ := x
    simp only [tabove, Bool.and_eq_true, decide_eq_true_eq] at h
    simp only [terase]
    split
    · exact ih a (tabove_mono d t (Nat.le_trans h.1.1 (Nat.le_succ j)) h.2)
    · simp only [tabove, Bool.and_eq_true, decide_eq_true_eq]; exact ⟨h.1, ih _ h.2⟩

theorem tabove_tinsert [DecidableEq α] (d : α) (t : Tbl α) (k a : Nat) (v : α) (hv : v ≠ d) (hk : a ≤ k)
    (hn : ∀ x ∈ t, x.1 ≠ k) (h : tabove d a t = true) : tabove d a (tinsert k v t) = true := by
  induction t generalizing a with
  | nil => simp [tinsert, tabove, hv, hk]
  | cons x t ih =>
    obtain ⟨j, w⟩ := x
    have hj : j ≠ k := hn (j, w) (by simp)
    simp only [tabove, Bool.and_eq_true, decide_eq_true_eq] at h
    simp only [tinsert]
    split <;> simp only [tabove, Bool.and_eq_true, decide_eq_true_eq]
    · exact ⟨⟨hk, hv⟩, ⟨by omega, h.1.2⟩, h.2⟩
    · exact ⟨h.1, ih (j + 1) (by omega) (fun x hx => hn x (by simp [hx])) h.2⟩

/-- A write keeps the canonical form. -/
theorem twf_tset [DecidableEq α] (d : α) (t : Tbl α) (k : Nat) (v : α) (h : twf d t = true) :
    twf d (tset d t k v) = true := by
  simp only [twf] at h ⊢
  simp only [tset]
  split
  · exact tabove_terase d t k 0 h
  · rename_i hv
    exact tabove_tinsert d _ k 0 v hv (Nat.zero_le k) (terase_ne t k) (tabove_terase d t k 0 h)

theorem twf_filter [DecidableEq α] (d : α) (p : Nat × α → Bool) (t : Tbl α) (a : Nat) (h : tabove d a t = true) :
    tabove d a (t.filter p) = true := by
  induction t generalizing a with
  | nil => rfl
  | cons x t ih =>
    obtain ⟨j, v⟩ := x
    simp only [tabove, Bool.and_eq_true, decide_eq_true_eq] at h
    have ht := ih (j + 1) h.2
    rw [List.filter_cons]
    split
    · simp only [tabove, Bool.and_eq_true, decide_eq_true_eq]; exact ⟨h.1, ht⟩
    · exact tabove_mono d _ (Nat.le_trans h.1.1 (Nat.le_succ j)) ht

/-! ### Byte stores -/

theorem wf_memWrite (m : List Host.Cell) (a : Nat) (l : List Byte) (h : Memory.wf m = true) :
    Memory.wf (memWrite m a l) = true := by
  induction l generalizing m a with
  | nil => exact h
  | cons b l ih => exact ih _ _ (twf_tset 0 m a b h)

/-- Reading one byte after a write. -/
theorem memByte_memWrite (m : List Host.Cell) (a : Nat) (l : List Byte) (j : Nat) :
    memByte (memWrite m a l) j = if a ≤ j ∧ j < a + l.length then l.getD (j - a) 0 else memByte m j := by
  induction l generalizing m a with
  | nil => simp [memWrite]
  | cons b l ih =>
    simp only [memWrite, ih, List.length_cons]
    rcases Nat.lt_trichotomy j a with h | h | h
    · rw [if_neg (by omega), if_neg (by omega)]
      simp only [memByte, tget_tset]; rw [if_neg (by omega)]
    · subst h; rw [if_neg (by omega), if_pos (by omega)]
      simp only [memByte, tget_tset, Nat.sub_self, List.getD_cons_zero, if_true]
    · rcases Decidable.em (j < a + (l.length + 1)) with h2 | h2
      · rw [if_pos (by omega), if_pos (by omega)]
        obtain ⟨k, rfl⟩ : ∃ k, j = a + 1 + k := ⟨j - (a + 1), by omega⟩
        rw [show a + 1 + k - (a + 1) = k by omega, show a + 1 + k - a = k + 1 by omega, List.getD_cons_succ]
      · rw [if_neg (by omega), if_neg (by omega)]
        simp only [memByte, tget_tset]; rw [if_neg (by omega)]

/-- Reading n bytes takes them one by one. -/
theorem memRead_eq (m : List Host.Cell) (a n : Nat) : memRead m a n = (List.range n).map (fun i => memByte m (a + i)) := by
  induction n generalizing a with
  | zero => rfl
  | succ n ih =>
    rw [memRead, ih, List.range_succ_eq_map, List.map_cons, List.map_map]
    refine congrArg₂ _ rfl (List.map_congr_left fun i _ => ?_)
    simp only [Function.comp, Nat.succ_eq_add_one]; congr 1; omega

/-- What a write left reads back. -/
theorem memRead_memWrite (m : List Host.Cell) (a : Nat) (l : List Byte) : memRead (memWrite m a l) a l.length = l := by
  rw [memRead_eq]
  refine List.ext_getElem (by simp) fun i h1 h2 => ?_
  simp only [List.getElem_map, List.getElem_range, memByte_memWrite]
  rw [if_pos (by omega), Nat.add_sub_cancel_left, List.getD_eq_getElem?_getD, List.getElem?_eq_getElem h2]; rfl

@[simp] theorem length_bytesOf {w : Nat} (x : BitVec w) (n : Nat) : (bytesOf x n).length = n := by
  induction n generalizing x with
  | zero => rfl
  | succ n ih => simp [bytesOf, ih]

end Sys2Proof.Machine
end

