-- ==== Sys2Proof/Laws/Arbiters.lean ====
section
/-! SUPPORT. The crossbar (09): what granting, parking and freezing keep. -/

namespace Sys2Proof.Machine

/-- Erasing an index lists no more entries that pass a test. -/
theorem filter_terase_le {α} (p : Nat × α → Bool) (t : Tbl α) (k : Nat) : ((terase t k).filter p).length ≤ (t.filter p).length := by
  induction t with
  | nil => simp [terase]
  | cons x t ih =>
    obtain ⟨i, v⟩ := x
    simp only [terase]
    split
    · rw [List.filter_cons]; split
      · simp only [List.length_cons]; omega
      · exact ih
    · rw [List.filter_cons, List.filter_cons]; split
      · simp only [List.length_cons]; omega
      · exact ih

/-- Inserting lists one more, if the entry passes. -/
theorem filter_tinsert {α} (p : Nat × α → Bool) (t : Tbl α) (k : Nat) (v : α) : ((tinsert k v t).filter p).length = (t.filter p).length + (if p (k,v) then 1 else 0) := by
  induction t with
  | nil => simp [tinsert, List.filter_cons]; split <;> simp
  | cons x t ih =>
    obtain ⟨i, w⟩ := x
    simp only [tinsert]
    split
    · simp only [List.filter_cons]; split <;> split <;> simp
    · rw [List.filter_cons, List.filter_cons]; split
      · simp only [List.length_cons]; omega
      · exact ih

/-- One lane changed gives a requester at most one lane more. -/
theorem lanesHeldBy_setLane (i : Nat) (l : Lane) (s : State) (j : Nat) : lanesHeldBy (setLane i l s) j ≤ lanesHeldBy s j + (if (laneReq l).map (·.idx) == some j then 1 else 0) := by
  simp only [lanesHeldBy, setLane, modXbar, tset]
  split
  · exact Nat.le_trans (filter_terase_le _ _ _) (Nat.le_add_right _ _)
  · rw [filter_tinsert]; exact Nat.add_le_add_right (filter_terase_le _ _ _) _

/-- No requester holds more lanes than its limit (R217). -/
def LanesOk (s : State) : Prop := ∀ i, lanesHeldBy s i ≤ laneLimit i

/-- The limits speak of the lanes alone. -/
theorem lanesOk_of_lanes {s t : State} (h : t.xbar.lanes = s.xbar.lanes) : LanesOk s → LanesOk t := by
  intro H i; have := H i; simp only [lanesHeldBy, h] at *; exact this

/-- A grant to a requester below its limit keeps the limits. -/
theorem lanesOk_grant (s : State) (i : Nat) (q : XReq) (H : LanesOk s) (h : lanesHeldBy s q.idx < laneLimit q.idx) (t : State) (ht : t.xbar.lanes = s.xbar.lanes) : LanesOk (setLane i (granted q) t) := by
  intro j
  have := lanesHeldBy_setLane i (granted q) t j
  have e : ∀ k, lanesHeldBy t k = lanesHeldBy s k := by intro k; simp only [lanesHeldBy, ht]
  rw [e] at this
  refine Nat.le_trans this ?_
  have := H j
  simp only [granted, laneReq, Option.map_some]
  rcases Decidable.em (q.idx = j) with hh | hh
  · subst hh; simp; omega
  · simp [hh]; omega

/-- Freeing or parking a lane keeps them. -/
theorem lanesOk_setLane (s : State) (i : Nat) (l : Lane) (hl : laneReq l = none) (H : LanesOk s) : LanesOk (setLane i l s) := by
  intro j
  have := lanesHeldBy_setLane i l s j
  simp [hl] at this
  exact Nat.le_trans this (H j)

/-- A request that joins the pending queue changes no lane. -/
theorem lanes_xpark (r : XReq) (s : State) : (xpark r s).xbar.lanes = s.xbar.lanes := by
  simp only [xpark, modXbar]; split <;> rfl

/-- Nor does one that waits again. -/
theorem lanes_xwaits (r : XReq) (s : State) : (xwaits r s).xbar.lanes = s.xbar.lanes := by
  simp only [xwaits]; split
  · rfl
  · exact lanes_xpark r s

/-- The best request is one of those considered. -/
theorem xbest_mem (s : State) (l : List XReq) (q : XReq) (h : xbest s l = some q) : q ∈ l := by
  induction l generalizing q with
  | nil => simp [xbest] at h
  | cons a t ih =>
    simp only [xbest] at h
    split at h
    · simp_all
    · rename_i b hb
      simp only [Option.some.injEq] at h
      split at h
      · subst h; exact List.mem_cons_of_mem _ (ih _ hb)
      · subst h; exact List.mem_cons_self

/-- Taking a parked lane away keeps them. -/
theorem lanesOk_unparkOver (idx : Nat) (s : State) (H : LanesOk s) : LanesOk (unparkOver idx s) := by
  simp only [unparkOver]
  repeat' split
  · exact lanesOk_setLane _ _ _ rfl H
  · exact H
  · exact H

/-- So does giving a lane to a requester below its limit. -/
theorem lanesOk_giveLane (s : State) (i : Nat) (q : XReq) (H : LanesOk s) (h : lanesHeldBy s q.idx < laneLimit q.idx) :
    LanesOk (giveLane i q s) := lanesOk_unparkOver _ _ (lanesOk_grant s i q H h _ rfl)

/-- One grant of a decision keeps the limits. -/
theorem lanesOk_grantOne (c d : List XReq) (s t : State) (h : grantOne c s = some (d, t)) (H : LanesOk s) : LanesOk t := by
  simp only [grantOne] at h
  split at h
  · cases h
  · rename_i q hq
    have hm := xbest_mem _ _ _ hq
    simp only [List.mem_filter, decide_eq_true_eq] at hm
    split at h
    · cases h; exact lanesOk_giveLane s _ q H hm.2
    · split at h
      · cases h; exact lanesOk_giveLane s _ q H hm.2
      · split at h
        · cases h
        · cases h
          refine lanesOk_of_lanes (lanes_xwaits _ _) ?_
          exact lanesOk_of_lanes (s := giveLane _ q s) rfl (lanesOk_giveLane s _ q H hm.2)

/-- The pending queue never passes 256 entries. -/
theorem pend_xpark (r : XReq) (s : State) (h : s.xbar.pend.length ≤ 256) : (xpark r s).xbar.pend.length ≤ 256 := by
  simp only [xpark, modXbar]; split
  · simp; omega
  · exact h

theorem pend_xwaits (r : XReq) (s : State) (h : s.xbar.pend.length ≤ 256) : (xwaits r s).xbar.pend.length ≤ 256 := by
  simp only [xwaits]; split
  · exact h
  · exact pend_xpark r s h

/-- A lane given takes its request from the queue. -/
theorem pend_giveLane (i : Nat) (q : XReq) (s : State) (h : s.xbar.pend.length ≤ 256) : (giveLane i q s).xbar.pend.length ≤ 256 := by
  have k : (setLane i (granted q) (xremove q s)).xbar.pend.length ≤ 256 := Nat.le_trans (List.length_filter_le _ _) h
  simp only [giveLane, unparkOver]
  repeat' split
  all_goals exact k

/-- One grant keeps that. -/
theorem pend_grantOne (c d : List XReq) (s t : State) (h : grantOne c s = some (d, t)) (H : s.xbar.pend.length ≤ 256) :
    t.xbar.pend.length ≤ 256 := by
  simp only [grantOne] at h
  split at h
  · cases h
  · rename_i q _
    split at h
    · cases h; exact pend_giveLane _ _ _ H
    · split at h
      · cases h; exact pend_giveLane _ _ _ H
      · split at h
        · cases h
        · rename_i a _ _; cases h; exact pend_xwaits _ _ (pend_giveLane a q s H)

/-- What each grant keeps, the grants of a decision keep. -/
theorem grantN_ind (P : State → Prop) (h : ∀ c d s t, grantOne c s = some (d, t) → P s → P t) (n : Nat) (c : List XReq) (s : State) :
    P s → P (grantN n c s) := by
  induction n generalizing c s with
  | zero => exact id
  | succ n ih => intro H; simp only [grantN]; split
                 · exact H
                 · exact ih _ _ (h _ _ _ _ (by assumption) H)

/-- What each pass keeps, the whole loop keeps. -/
theorem forAll_ind {α} (P : State → Prop) (l : List α) (f : α → State → State) (h : ∀ x s, P s → P (f x s)) (s : State) : P s → P (forAll l f s) := by
  induction l generalizing s with
  | nil => exact id
  | cons a l ih => intro H; exact ih _ (h _ _ H)

/-- Counting XSLOTWAIT leaves lanes, queue and freeze. -/
theorem slotCount_keeps (s : State) : (slotCount s).xbar.pend = s.xbar.pend ∧ (slotCount s).xbar.lanes = s.xbar.lanes ∧ (slotCount s).xbar.freeze = s.xbar.freeze ∧ (slotCount s).cfg = s.cfg:= by
  simp only [slotCount, slotCountTo, modXbar, and_self]

/-- What was presented joins the queue within its bound. -/
theorem pend_queueFresh (s : State) (h : s.xbar.pend.length ≤ 256) : (queueFresh s).xbar.pend.length ≤ 256 := by
  simp only [queueFresh]
  exact forAll_ind (fun s => s.xbar.pend.length ≤ 256) _ _ (fun x s h => pend_xpark x s h) _ h

/-- It changes no lane. -/
theorem lanes_queueFresh (s : State) : (queueFresh s).xbar.lanes = s.xbar.lanes := by
  simp only [queueFresh]
  exact forAll_ind (fun t => t.xbar.lanes = s.xbar.lanes) _ _ (fun x t h => (lanes_xpark x t).trans h) _ rfl

/-- Nothing is left presented. -/
theorem fresh_queueFresh (s : State) : (queueFresh s).xbar.fresh = [] := by
  simp only [queueFresh]
  refine forAll_ind (fun t => t.xbar.fresh = []) _ _ (fun x t h => ?_) _ rfl
  simp only [xpark, modXbar]; split <;> exact h

/-- Passing break points keeps the limits. -/
theorem lanesOk_clearBreaks (s : State) (H : LanesOk s) : LanesOk (clearBreaks s) := by
  intro i; have := H i
  simp only [lanesHeldBy, clearBreaks, modXbar, List.filter_map, List.length_map] at *
  refine Nat.le_trans (Nat.le_of_eq ?_) this
  congr 2
  funext ⟨k, l⟩
  cases l <;> rfl

/-- The lanes after the break points of a frozen crossbar. -/
theorem laneAt_frozenBreaks (s : State) (l : List Nat) (hl : l.Nodup) (t : State) (ht : t.xbar.lanes = s.xbar.lanes) (i : Nat) :
    laneAt (forAll l (fun i s => match laneAt s i with
    | .held r b => if b then xwaits r (setLane i .free s) else s
    | _ => s) t) i = if i ∈ l ∧ atBreak (laneAt s i) then .free else laneAt s i := by
  have gen : ∀ (l : List Nat) (hl : l.Nodup) (t : State), laneAt (forAll l (fun i s => match laneAt s i with
    | .held r b => if b then xwaits r (setLane i .free s) else s
    | _ => s) t) i = if i ∈ l ∧ atBreak (laneAt t i) then .free else laneAt t i := by
    intro l hl
    induction l with
    | nil => intro t; simp [forAll]
    | cons a l ih =>
      intro t
      have hn := List.nodup_cons.1 hl
      show laneAt (forAll l _ _) i = _
      rw [ih hn.2]
      have key : laneAt (match laneAt t a with
    | .held r b => if b then xwaits r (setLane a .free t) else t
    | _ => t) i = if i = a ∧ atBreak (laneAt t i) then .free else laneAt t i := by
        have e : ∀ r, laneAt (xwaits r (setLane a .free t)) i = if i = a then .free else laneAt t i := by
          intro r; simp only [laneAt, lanes_xwaits, setLane, modXbar, tget_tset]
        split
        · rename_i r b hh
          split
          · rw [e]
            rcases Decidable.em (i = a) with h | h
            · subst h; simp [hh, atBreak, *]
            · simp [h]
          · rcases Decidable.em (i = a) with h | h
            · subst h; simp [hh, atBreak, *]
            · simp [h]
        · rcases Decidable.em (i = a) with h | h
          · subst h; rename_i hq
            cases hx : laneAt t i <;> simp_all [atBreak]
          · simp [h]
      rw [key]
      rcases Decidable.em (i = a) with h | h
      · subst h; simp [hn.1]
      · simp [h]
  rw [gen l hl, show laneAt t i = laneAt s i by simp only [laneAt, ht]]

/-- They keep the limits. -/
theorem lanesOk_frozenBreaks (s : State) (H : LanesOk s) : LanesOk (frozenBreaks s) := by
  simp only [frozenBreaks]
  refine forAll_ind LanesOk _ _ (fun i t h => ?_) _ H
  split
  · split
    · exact lanesOk_of_lanes (lanes_xwaits _ _) (lanesOk_setLane _ _ _ rfl h)
    · exact h
  · exact h

/-- And the bound of the queue. -/
theorem pend_frozenBreaks (s : State) (H : s.xbar.pend.length ≤ 256) : (frozenBreaks s).xbar.pend.length ≤ 256 := by
  simp only [frozenBreaks]
  refine forAll_ind (fun s => s.xbar.pend.length ≤ 256) _ _ (fun i t h => ?_) _ H
  split
  · split
    · exact pend_xwaits _ _ h
    · exact h
  · exact h

/-- Dropping lanes changes nothing but the lanes. -/
theorem dropLanes_spec (p : XReq → Bool) (s : State) :
    ∃ l, dropLanes p s = { s with xbar := { s.xbar with lanes := l } } := by
  unfold dropLanes
  refine forAll_ind (fun t => ∃ l, t = { s with xbar := { s.xbar with lanes := l } }) _ _ (fun i t h => ?_) _ ⟨_, rfl⟩
  obtain ⟨l, rfl⟩ := h
  split
  · split
    · exact ⟨_, rfl⟩
    · exact ⟨_, rfl⟩
  · exact ⟨_, rfl⟩

/-- What becomes of one lane when some holders drop theirs: theirs is free or parked, every other stands. -/
theorem laneAt_dropLanes (p : XReq → Bool) (s : State) (i : Nat) (hi : i < nLanes s) :
    (∀ r b, laneAt s i = .held r b → p r = true →
      laneAt (dropLanes p s) i = .free ∨ (s.xbar.freeze = false ∧ laneAt (dropLanes p s) i = .parked r.idx r.ord)) ∧
    ((∀ r b, laneAt s i = .held r b → p r = false) → laneAt (dropLanes p s) i = laneAt s i) := by
  have gen : ∀ (F : Nat → State → State), (∀ i s r b, laneAt s i = .held r b → F i s = if p r then dropLane i r s else s) →
      (∀ i s, (∀ r b, laneAt s i ≠ .held r b) → F i s = s) → ∀ (l : List Nat), l.Nodup → ∀ (t : State),
      (laneAt (forAll l F t) i = laneAt t i ∧ (i ∉ l ∨ ∀ r b, laneAt t i = .held r b → p r = false)) ∨
      (i ∈ l ∧ ∃ r b, laneAt t i = .held r b ∧ p r = true ∧ (laneAt (forAll l F t) i = .free ∨
        (t.xbar.freeze = false ∧ laneAt (forAll l F t) i = .parked r.idx r.ord))) := by
    intro F hF1 hF2 l hl
    induction l with
    | nil => intro t; exact Or.inl ⟨rfl, Or.inl List.not_mem_nil⟩
    | cons a l ih =>
      intro t
      have hn := List.nodup_cons.1 hl
      have e : ∀ r, laneAt (dropLane a r t) i = if i = a then (if (t.xbar.fresh ++ t.xbar.pend).any (fun q =>
          decide (lanesHeldBy t q.idx < laneLimit q.idx) || q.idx == r.idx) || t.xbar.freeze then .free else .parked r.idx r.ord)
          else laneAt t i := by
        intro r; simp only [laneAt, dropLane, setLane, modXbar, tget_tset]
      have step : forAll (a :: l) F t = forAll l F (F a t) := rfl
      rw [step]
      have same : F a t = t → (∀ r b, laneAt t a = .held r b → p r = false) →
          (laneAt (forAll l F (F a t)) i = laneAt t i ∧ (i ∉ a :: l ∨ ∀ r b, laneAt t i = .held r b → p r = false)) ∨
          (i ∈ a :: l ∧ ∃ r b, laneAt t i = .held r b ∧ p r = true ∧ (laneAt (forAll l F (F a t)) i = .free ∨
            (t.xbar.freeze = false ∧ laneAt (forAll l F (F a t)) i = .parked r.idx r.ord))) := by
        intro hs hh
        rw [hs]
        rcases ih hn.2 t with ⟨h1, h2⟩ | ⟨h1, r, b, h2, h3, h4⟩
        · refine Or.inl ⟨h1, ?_⟩
          by_cases h : i = a
          · subst h; exact Or.inr hh
          · rcases h2 with h2 | h2
            · exact Or.inl (by simp [h, h2])
            · exact Or.inr h2
        · exact Or.inr ⟨List.mem_cons_of_mem _ h1, r, b, h2, h3, h4⟩
      cases ha : laneAt t a with
      | free => exact same (hF2 _ _ (fun r b h => by rw [ha] at h; cases h)) (fun r b h => by rw [ha] at h; cases h)
      | parked x y => exact same (hF2 _ _ (fun r b h => by rw [ha] at h; cases h)) (fun r b h => by rw [ha] at h; cases h)
      | held r b =>
        have hfa := hF1 a t r b ha
        cases hp : p r with
        | false =>
          exact same (by rw [hfa, hp]; simp) (fun r' b' h => by rw [ha] at h; cases h; exact hp)
        | true =>
          rw [hp, if_pos rfl] at hfa
          rw [hfa]
          by_cases h : i = a
          · subst h
            refine Or.inr ⟨List.mem_cons_self, r, b, ha, hp, ?_⟩
            rcases ih hn.2 (dropLane i r t) with ⟨h1, -⟩ | ⟨h1, -⟩
            · rw [h1, e, if_pos rfl]
              split
              · exact Or.inl rfl
              · rename_i h5
                rw [Bool.or_eq_true, not_or] at h5
                exact Or.inr ⟨by simpa using h5.2, rfl⟩
            · exact absurd h1 hn.1
          · have e' : laneAt (dropLane a r t) i = laneAt t i := by rw [e, if_neg h]
            rcases ih hn.2 (dropLane a r t) with ⟨h1, h2⟩ | ⟨h1, r', b', h2, h3, h4⟩
            · refine Or.inl ⟨h1.trans e', ?_⟩
              rcases h2 with h2 | h2
              · exact Or.inl (by simp [h, h2])
              · exact Or.inr (fun r' b' h => h2 r' b' (by rw [e']; exact h))
            · rw [e'] at h2
              exact Or.inr ⟨List.mem_cons_of_mem _ h1, r', b', h2, h3, h4⟩
  have hg := gen (fun i s => match laneAt s i with
    | .held r _ => if p r then dropLane i r s else s
    | _ => s) (fun i s r b h => by simp only [h]) (fun i s h => by
      split
      · rename_i r b hh; exact absurd hh (h r b)
      · rfl) (List.range (nLanes s)) List.nodup_range s
  rcases hg with ⟨h1, h2⟩ | ⟨_, r, b, h2, h3, h4⟩
  · refine ⟨fun r b h hp => ?_, fun _ => h1⟩
    rcases h2 with h2 | h2
    · exact absurd (List.mem_range.2 hi) h2
    · rw [h2 r b h] at hp; cases hp
  · refine ⟨fun r' b' h hp => ?_, fun h => ?_⟩
    · rw [h2] at h; cases h; exact h4
    · rw [h r b h2] at h3; cases h3

/-- Dropping lanes keeps the limits. -/
theorem lanesOk_dropLanes (p : XReq → Bool) (s : State) (H : LanesOk s) : LanesOk (dropLanes p s) := by
  unfold dropLanes
  refine forAll_ind LanesOk _ _ (fun i t h => ?_) _ H
  split
  · split
    · refine lanesOk_setLane _ _ _ ?_ h
      split <;> rfl
    · exact h
  · exact h

/-- A request that ranks ahead of every other is the best of them. -/
theorem xbest_of_ahead (s : State) (l : List XReq) (q : XReq) (hq : q ∈ l)
    (h : ∀ p ∈ l, p = q ∨ (xahead s q p = true ∧ xahead s p q = false)) : xbest s l = some q := by
  induction l with
  | nil => cases hq
  | cons a t ih =>
    simp only [xbest]
    rcases List.mem_cons.1 hq with rfl | hq'
    · cases hb : xbest s t with
      | none => rfl
      | some b =>
        have hm := xbest_mem _ _ _ hb
        rcases h b (List.mem_cons_of_mem _ hm) with rfl | hh
        · simp
        · simp [hh.2]
    · rw [ih hq' (fun p hp => h p (List.mem_cons_of_mem _ hp))]
      rcases h a List.mem_cons_self with rfl | hh
      · simp
      · simp [hh.1]

/-- A lane parked too many is taken away; every held lane stands. -/
theorem laneAt_unparkOver (idx : Nat) (s : State) (i : Nat) (r : XReq) (b : Bool) (h : laneAt s i = .held r b) :
    laneAt (unparkOver idx s) i = .held r b := by
  unfold unparkOver
  dsimp only
  split
  · split
    · rename_i j hj
      simp only [laneAt, setLane, modXbar, tget_tset]
      split
      · rename_i hh
        have := List.find?_some hj
        subst hh; rw [h] at this; cases this
      · exact h
    · exact h
  · exact h

/-- A lane that is given has its new holder; every other held lane stands. -/
theorem laneAt_giveLane (j : Nat) (q : XReq) (s : State) :
    laneAt (giveLane j q s) j = granted q ∧
    ∀ i r b, i ≠ j → laneAt s i = .held r b → laneAt (giveLane j q s) i = .held r b := by
  have e : ∀ i, laneAt (setLane j (granted q) (xremove q s)) i = if i = j then granted q else laneAt s i := by
    intro i; simp only [laneAt, setLane, modXbar, tget_tset, xremove]
  refine ⟨laneAt_unparkOver _ _ _ _ _ (by rw [e, if_pos rfl]; rfl), fun i r b hij h => ?_⟩
  exact laneAt_unparkOver _ _ _ _ _ (by rw [e, if_neg hij]; exact h)

/-- The lane a displaced holder loses was at a break point. -/
theorem weakestLane_broken (s : State) (q : XReq) (i : Nat) (r : XReq) (h : weakestLane s q = some (i, r)) :
    laneAt s i = .held r true ∧ xahead s r q = false := by
  unfold weakestLane at h
  have gen : ∀ (l : List (Nat × XReq)) (P : Nat × XReq → Prop) (a : Option (Nat × XReq)), (∀ x ∈ l, P x) → (∀ x, a = some x → P x) →
      ∀ x, l.foldl (fun best x => match best with
      | none => some x
      | some y => if xahead s x.2 y.2 then some y else some x) a = some x → P x := by
    intro l P
    induction l with
    | nil => intro a _ ha x hx; exact ha x hx
    | cons y l ih =>
      intro a hl ha x hx
      refine ih _ (fun z hz => hl z (List.mem_cons_of_mem _ hz)) ?_ x hx
      intro z hz
      have hy := hl y List.mem_cons_self
      cases a with
      | none => cases hz; exact hy
      | some w =>
        dsimp only at hz
        split at hz
        · cases hz; exact ha _ rfl
        · cases hz; exact hy
  refine gen _ (fun x => laneAt s x.1 = .held x.2 true ∧ xahead s x.2 q = false) none ?_ (fun _ h => by cases h) _ h
  intro x hx
  obtain ⟨j, -, hj⟩ := List.mem_filterMap.1 hx
  split at hj
  · rename_i r b hl
    split at hj
    · rename_i hh
      cases hj
      simp only [atBreak, Bool.and_eq_true, Bool.not_eq_true'] at hh
      exact ⟨by rw [hl, hh.1], hh.2⟩
    · cases hj
  · cases hj

/-- A lane whose holder is at no break point stands through a grant. -/
theorem laneAt_grantOne (c d : List XReq) (s t : State) (h : grantOne c s = some (d, t)) (i : Nat) (r : XReq)
    (hi : laneAt s i = .held r false) : laneAt t i = .held r false := by
  unfold grantOne at h
  dsimp only at h
  have key : ∀ j q, laneAt s j ≠ .held r false → laneAt (giveLane j q s) i = .held r false := by
    intro j q hj
    exact (laneAt_giveLane j q s).2 i r false (by rintro rfl; exact hj hi) hi
  split at h
  · cases h
  rename_i q _
  split at h
  · rename_i j hj
    cases h
    refine key j q (fun hh => ?_)
    have := List.find?_some hj
    rw [hh] at this; cases this
  split at h
  · rename_i j hj
    cases h
    refine key j q (fun hh => ?_)
    have := List.find?_some hj
    rw [hh] at this; cases this
  split at h
  · cases h
  · rename_i j r' hw
    cases h
    have := (weakestLane_broken _ _ _ _ hw).1
    simp only [laneAt, lanes_xwaits]
    exact key j q (fun hh => by rw [this] at hh; cases hh)

/-- So it does through every grant of a decision. -/
theorem laneAt_grantN (n : Nat) (c : List XReq) (s : State) (i : Nat) (r : XReq) (hi : laneAt s i = .held r false) :
    laneAt (grantN n c s) i = .held r false :=
  grantN_ind (fun t => laneAt t i = .held r false) (fun c d s t h H => laneAt_grantOne c d s t h i r H) n c s hi

end Sys2Proof.Machine
end

