-- ==== Sys2Proof/Laws/State.lean ====
section
/-! SUPPORT. What each update of State leaves of each field, and what each accessor reads after it. All true by unfolding the
update once, so that no proof need unfold one. -/

namespace Sys2Proof.Machine

/-! ### modCtx -/

@[simp] theorem modCtx_pending (c : Nat) (f : Ctx → Ctx) (s : State) : (modCtx c f s).pending = s.pending := rfl
@[simp] theorem modCtx_cfg (c : Nat) (f : Ctx → Ctx) (s : State) : (modCtx c f s).cfg = s.cfg := rfl
@[simp] theorem modCtx_free (c : Nat) (f : Ctx → Ctx) (s : State) : (modCtx c f s).free = s.free := rfl
@[simp] theorem modCtx_time (c : Nat) (f : Ctx → Ctx) (s : State) : (modCtx c f s).time = s.time := rfl
@[simp] theorem modCtx_seam (c : Nat) (f : Ctx → Ctx) (s : State) : (modCtx c f s).seam = s.seam := rfl
@[simp] theorem modCtx_inReset (c : Nat) (f : Ctx → Ctx) (s : State) : (modCtx c f s).inReset = s.inReset := rfl
@[simp] theorem modCtx_shadow (c : Nat) (f : Ctx → Ctx) (s : State) : (modCtx c f s).shadow = s.shadow := rfl
@[simp] theorem modCtx_active (c : Nat) (f : Ctx → Ctx) (s : State) : (modCtx c f s).active = s.active := rfl
@[simp] theorem modCtx_shpend (c : Nat) (f : Ctx → Ctx) (s : State) : (modCtx c f s).shpend = s.shpend := rfl
@[simp] theorem modCtx_shseam (c : Nat) (f : Ctx → Ctx) (s : State) : (modCtx c f s).shseam = s.shseam := rfl
@[simp] theorem modCtx_latch (c : Nat) (f : Ctx → Ctx) (s : State) : (modCtx c f s).latch = s.latch := rfl
@[simp] theorem modCtx_seen (c : Nat) (f : Ctx → Ctx) (s : State) : (modCtx c f s).seen = s.seen := rfl
@[simp] theorem modCtx_crossing (c : Nat) (f : Ctx → Ctx) (s : State) : (modCtx c f s).crossing = s.crossing := rfl
@[simp] theorem modCtx_soft (c : Nat) (f : Ctx → Ctx) (s : State) : (modCtx c f s).soft = s.soft := rfl
@[simp] theorem modCtx_pgood (c : Nat) (f : Ctx → Ctx) (s : State) : (modCtx c f s).pgood = s.pgood := rfl
@[simp] theorem modCtx_out (c : Nat) (f : Ctx → Ctx) (s : State) : (modCtx c f s).out = s.out := rfl
@[simp] theorem modCtx_fn (c : Nat) (f : Ctx → Ctx) (s : State) : (modCtx c f s).fn = s.fn := rfl
@[simp] theorem modCtx_eng (c : Nat) (f : Ctx → Ctx) (s : State) : (modCtx c f s).eng = s.eng := rfl
@[simp] theorem modCtx_lock (c : Nat) (f : Ctx → Ctx) (s : State) : (modCtx c f s).lock = s.lock := rfl
@[simp] theorem modCtx_lm (c : Nat) (f : Ctx → Ctx) (s : State) : (modCtx c f s).lm = s.lm := rfl
@[simp] theorem modCtx_cread (c : Nat) (f : Ctx → Ctx) (s : State) : (modCtx c f s).cread = s.cread := rfl
@[simp] theorem modCtx_cmem (c : Nat) (f : Ctx → Ctx) (s : State) : (modCtx c f s).cmem = s.cmem := rfl
@[simp] theorem modCtx_cbuf (c : Nat) (f : Ctx → Ctx) (s : State) : (modCtx c f s).cbuf = s.cbuf := rfl
@[simp] theorem modCtx_cwait (c : Nat) (f : Ctx → Ctx) (s : State) : (modCtx c f s).cwait = s.cwait := rfl
@[simp] theorem modCtx_kram (c : Nat) (f : Ctx → Ctx) (s : State) : (modCtx c f s).kram = s.kram := rfl
@[simp] theorem modCtx_rsram (c : Nat) (f : Ctx → Ctx) (s : State) : (modCtx c f s).rsram = s.rsram := rfl
@[simp] theorem modCtx_ecc (c : Nat) (f : Ctx → Ctx) (s : State) : (modCtx c f s).ecc = s.ecc := rfl
@[simp] theorem modCtx_xbar (c : Nat) (f : Ctx → Ctx) (s : State) : (modCtx c f s).xbar = s.xbar := rfl
@[simp] theorem modCtx_xback (c : Nat) (f : Ctx → Ctx) (s : State) : (modCtx c f s).xback = s.xback := rfl
@[simp] theorem modCtx_cluster (c : Nat) (f : Ctx → Ctx) (s : State) : (modCtx c f s).cluster = s.cluster := rfl
@[simp] theorem modCtx_gate (c : Nat) (f : Ctx → Ctx) (s : State) : (modCtx c f s).gate = s.gate := rfl
@[simp] theorem modCtx_hp (c : Nat) (f : Ctx → Ctx) (s : State) : (modCtx c f s).hp = s.hp := rfl
@[simp] theorem modCtx_port (c : Nat) (f : Ctx → Ctx) (s : State) : (modCtx c f s).port = s.port := rfl
@[simp] theorem modCtx_tsv (c : Nat) (f : Ctx → Ctx) (s : State) : (modCtx c f s).tsv = s.tsv := rfl
@[simp] theorem modCtx_ctl (c : Nat) (f : Ctx → Ctx) (s : State) : (modCtx c f s).ctl = s.ctl := rfl
@[simp] theorem modCtx_mbx (c : Nat) (f : Ctx → Ctx) (s : State) : (modCtx c f s).mbx = s.mbx := rfl
@[simp] theorem modCtx_core (c : Nat) (f : Ctx → Ctx) (s : State) : (modCtx c f s).core = s.core := rfl
@[simp] theorem modCtx_pf (c : Nat) (f : Ctx → Ctx) (s : State) : (modCtx c f s).pf = s.pf := rfl
@[simp] theorem modCtx_island (c : Nat) (f : Ctx → Ctx) (s : State) : (modCtx c f s).island = s.island := rfl
@[simp] theorem modCtx_st (c : Nat) (f : Ctx → Ctx) (s : State) : (modCtx c f s).st = s.st := rfl
@[simp] theorem modCtx_dsp_cache (c : Nat) (f : Ctx → Ctx) (s : State) : (modCtx c f s).dsp.cache = s.dsp.cache := rfl
@[simp] theorem modCtx_dsp_ctxbase (c : Nat) (f : Ctx → Ctx) (s : State) : (modCtx c f s).dsp.ctxbase = s.dsp.ctxbase := rfl
@[simp] theorem modCtx_dsp_log2cnt (c : Nat) (f : Ctx → Ctx) (s : State) : (modCtx c f s).dsp.log2cnt = s.dsp.log2cnt := rfl
@[simp] theorem modCtx_dsp_psbase (c : Nat) (f : Ctx → Ctx) (s : State) : (modCtx c f s).dsp.psbase = s.dsp.psbase := rfl
@[simp] theorem modCtx_dsp_ready (c : Nat) (f : Ctx → Ctx) (s : State) : (modCtx c f s).dsp.ready = s.dsp.ready := rfl
@[simp] theorem modCtx_dsp_work (c : Nat) (f : Ctx → Ctx) (s : State) : (modCtx c f s).dsp.work = s.dsp.work := rfl
@[simp] theorem modCtx_dsp_wbTasks (c : Nat) (f : Ctx → Ctx) (s : State) : (modCtx c f s).dsp.wbTasks = s.dsp.wbTasks := rfl
@[simp] theorem modCtx_dsp_recAborts (c : Nat) (f : Ctx → Ctx) (s : State) : (modCtx c f s).dsp.recAborts = s.dsp.recAborts := rfl
@[simp] theorem modCtx_dsp_summary (c : Nat) (f : Ctx → Ctx) (s : State) : (modCtx c f s).dsp.summary = s.dsp.summary := rfl
@[simp] theorem modCtx_dsp_bitmap (c : Nat) (f : Ctx → Ctx) (s : State) : (modCtx c f s).dsp.bitmap = s.dsp.bitmap := rfl
@[simp] theorem modCtx_dsp_scan (c : Nat) (f : Ctx → Ctx) (s : State) : (modCtx c f s).dsp.scan = s.dsp.scan := rfl
@[simp] theorem modCtx_dsp_fifo (c : Nat) (f : Ctx → Ctx) (s : State) : (modCtx c f s).dsp.fifo = s.dsp.fifo := rfl
@[simp] theorem modCtx_dsp_dbacc (c : Nat) (f : Ctx → Ctx) (s : State) : (modCtx c f s).dsp.dbacc = s.dsp.dbacc := rfl
@[simp] theorem modCtx_dsp_dbdrop (c : Nat) (f : Ctx → Ctx) (s : State) : (modCtx c f s).dsp.dbdrop = s.dsp.dbdrop := rfl
@[simp] theorem modCtx_dsp_dbstale (c : Nat) (f : Ctx → Ctx) (s : State) : (modCtx c f s).dsp.dbstale = s.dsp.dbstale := rfl
@[simp] theorem modCtx_dsp_dbfold (c : Nat) (f : Ctx → Ctx) (s : State) : (modCtx c f s).dsp.dbfold = s.dsp.dbfold := rfl
@[simp] theorem modCtx_dsp_readyovf (c : Nat) (f : Ctx → Ctx) (s : State) : (modCtx c f s).dsp.readyovf = s.dsp.readyovf := rfl
@[simp] theorem modCtx_dsp_wdcount (c : Nat) (f : Ctx → Ctx) (s : State) : (modCtx c f s).dsp.wdcount = s.dsp.wdcount := rfl
@[simp] theorem modCtx_dsp_wdchan (c : Nat) (f : Ctx → Ctx) (s : State) : (modCtx c f s).dsp.wdchan = s.dsp.wdchan := rfl
@[simp] theorem modCtx_dsp_wdeng (c : Nat) (f : Ctx → Ctx) (s : State) : (modCtx c f s).dsp.wdeng = s.dsp.wdeng := rfl
@[simp] theorem modCtx_dsp_pacefull (c : Nat) (f : Ctx → Ctx) (s : State) : (modCtx c f s).dsp.pacefull = s.dsp.pacefull := rfl
@[simp] theorem modCtx_dsp_yields (c : Nat) (f : Ctx → Ctx) (s : State) : (modCtx c f s).dsp.yields = s.dsp.yields := rfl
@[simp] theorem modCtx_dsp_qreq (c : Nat) (f : Ctx → Ctx) (s : State) : (modCtx c f s).dsp.qreq = s.dsp.qreq := rfl
@[simp] theorem modCtx_dsp_qdone (c : Nat) (f : Ctx → Ctx) (s : State) : (modCtx c f s).dsp.qdone = s.dsp.qdone := rfl
@[simp] theorem modCtx_dsp_qseam (c : Nat) (f : Ctx → Ctx) (s : State) : (modCtx c f s).dsp.qseam = s.dsp.qseam := rfl
@[simp] theorem modCtx_dsp_specdisc (c : Nat) (f : Ctx → Ctx) (s : State) : (modCtx c f s).dsp.specdisc = s.dsp.specdisc := rfl
@[simp] theorem modCtx_dsp_specdrop (c : Nat) (f : Ctx → Ctx) (s : State) : (modCtx c f s).dsp.specdrop = s.dsp.specdrop := rfl
@[simp] theorem modCtx_dsp_specheld (c : Nat) (f : Ctx → Ctx) (s : State) : (modCtx c f s).dsp.specheld = s.dsp.specheld := rfl
@[simp] theorem modCtx_dsp_ctxwr (c : Nat) (f : Ctx → Ctx) (s : State) : (modCtx c f s).dsp.ctxwr = s.dsp.ctxwr := rfl
@[simp] theorem modCtx_dsp_behind (c : Nat) (f : Ctx → Ctx) (s : State) : (modCtx c f s).dsp.behind = s.dsp.behind := rfl
@[simp] theorem modCtx_dsp_wakes (c : Nat) (f : Ctx → Ctx) (s : State) : (modCtx c f s).dsp.wakes = s.dsp.wakes := rfl
@[simp] theorem modCtx_dsp_wbfChan (c : Nat) (f : Ctx → Ctx) (s : State) : (modCtx c f s).dsp.wbfChan = s.dsp.wbfChan := rfl
@[simp] theorem modCtx_dsp_wbfAddr (c : Nat) (f : Ctx → Ctx) (s : State) : (modCtx c f s).dsp.wbfAddr = s.dsp.wbfAddr := rfl
theorem modCtx_modCtx_self (c : Nat) (f g : Ctx → Ctx) (s : State) :
    modCtx c f (modCtx c g s) = modCtx c (fun x => f (g x)) s := by
  simp only [modCtx, tmod_tmod]
@[simp] theorem getCtx_modCtx (c : Nat) (f : Ctx → Ctx) (j : Nat) (s : State) :
    getCtx (modCtx c f s) j = if j = c then f (getCtx s c) else getCtx s j := tget_tmod _ _ _ _ _
@[simp] theorem getFn_modCtx (c : Nat) (f : Ctx → Ctx) (j : Nat) (s : State) : getFn (modCtx c f s) j = getFn s j := rfl
@[simp] theorem getEng_modCtx (c : Nat) (f : Ctx → Ctx) (j : Nat) (s : State) : getEng (modCtx c f s) j = getEng s j := rfl
@[simp] theorem getPort_modCtx (c : Nat) (f : Ctx → Ctx) (j : Nat) (s : State) : getPort (modCtx c f s) j = getPort s j := rfl
@[simp] theorem getHp_modCtx (c : Nat) (f : Ctx → Ctx) (j : Nat) (s : State) : getHp (modCtx c f s) j = getHp s j := rfl
@[simp] theorem getClu_modCtx (c : Nat) (f : Ctx → Ctx) (j : Nat) (s : State) : getClu (modCtx c f s) j = getClu s j := rfl
@[simp] theorem getInst_modCtx (c : Nat) (f : Ctx → Ctx) (j : Nat) (s : State) : getInst (modCtx c f s) j = getInst s j := rfl
@[simp] theorem getCore_modCtx (c : Nat) (f : Ctx → Ctx) (j : Nat) (s : State) : getCore (modCtx c f s) j = getCore s j := rfl
@[simp] theorem getMbx_modCtx (c : Nat) (f : Ctx → Ctx) (j : Nat) (s : State) : getMbx (modCtx c f s) j = getMbx s j := rfl
@[simp] theorem getIsl_modCtx (c : Nat) (f : Ctx → Ctx) (j : Nat) (s : State) : getIsl (modCtx c f s) j = getIsl s j := rfl
@[simp] theorem getEngIsl_modCtx (c : Nat) (f : Ctx → Ctx) (j : Nat) (s : State) : getEngIsl (modCtx c f s) j = getEngIsl s j := rfl

/-! ### modFn -/

@[simp] theorem modFn_pending (n : Nat) (f : Func → Func) (s : State) : (modFn n f s).pending = s.pending := rfl
@[simp] theorem modFn_cfg (n : Nat) (f : Func → Func) (s : State) : (modFn n f s).cfg = s.cfg := rfl
@[simp] theorem modFn_free (n : Nat) (f : Func → Func) (s : State) : (modFn n f s).free = s.free := rfl
@[simp] theorem modFn_time (n : Nat) (f : Func → Func) (s : State) : (modFn n f s).time = s.time := rfl
@[simp] theorem modFn_seam (n : Nat) (f : Func → Func) (s : State) : (modFn n f s).seam = s.seam := rfl
@[simp] theorem modFn_inReset (n : Nat) (f : Func → Func) (s : State) : (modFn n f s).inReset = s.inReset := rfl
@[simp] theorem modFn_shadow (n : Nat) (f : Func → Func) (s : State) : (modFn n f s).shadow = s.shadow := rfl
@[simp] theorem modFn_active (n : Nat) (f : Func → Func) (s : State) : (modFn n f s).active = s.active := rfl
@[simp] theorem modFn_shpend (n : Nat) (f : Func → Func) (s : State) : (modFn n f s).shpend = s.shpend := rfl
@[simp] theorem modFn_shseam (n : Nat) (f : Func → Func) (s : State) : (modFn n f s).shseam = s.shseam := rfl
@[simp] theorem modFn_latch (n : Nat) (f : Func → Func) (s : State) : (modFn n f s).latch = s.latch := rfl
@[simp] theorem modFn_seen (n : Nat) (f : Func → Func) (s : State) : (modFn n f s).seen = s.seen := rfl
@[simp] theorem modFn_crossing (n : Nat) (f : Func → Func) (s : State) : (modFn n f s).crossing = s.crossing := rfl
@[simp] theorem modFn_soft (n : Nat) (f : Func → Func) (s : State) : (modFn n f s).soft = s.soft := rfl
@[simp] theorem modFn_pgood (n : Nat) (f : Func → Func) (s : State) : (modFn n f s).pgood = s.pgood := rfl
@[simp] theorem modFn_out (n : Nat) (f : Func → Func) (s : State) : (modFn n f s).out = s.out := rfl
@[simp] theorem modFn_dsp (n : Nat) (f : Func → Func) (s : State) : (modFn n f s).dsp = s.dsp := rfl
@[simp] theorem modFn_eng (n : Nat) (f : Func → Func) (s : State) : (modFn n f s).eng = s.eng := rfl
@[simp] theorem modFn_lock (n : Nat) (f : Func → Func) (s : State) : (modFn n f s).lock = s.lock := rfl
@[simp] theorem modFn_lm (n : Nat) (f : Func → Func) (s : State) : (modFn n f s).lm = s.lm := rfl
@[simp] theorem modFn_cread (n : Nat) (f : Func → Func) (s : State) : (modFn n f s).cread = s.cread := rfl
@[simp] theorem modFn_cmem (n : Nat) (f : Func → Func) (s : State) : (modFn n f s).cmem = s.cmem := rfl
@[simp] theorem modFn_cbuf (n : Nat) (f : Func → Func) (s : State) : (modFn n f s).cbuf = s.cbuf := rfl
@[simp] theorem modFn_cwait (n : Nat) (f : Func → Func) (s : State) : (modFn n f s).cwait = s.cwait := rfl
@[simp] theorem modFn_kram (n : Nat) (f : Func → Func) (s : State) : (modFn n f s).kram = s.kram := rfl
@[simp] theorem modFn_rsram (n : Nat) (f : Func → Func) (s : State) : (modFn n f s).rsram = s.rsram := rfl
@[simp] theorem modFn_ecc (n : Nat) (f : Func → Func) (s : State) : (modFn n f s).ecc = s.ecc := rfl
@[simp] theorem modFn_xbar (n : Nat) (f : Func → Func) (s : State) : (modFn n f s).xbar = s.xbar := rfl
@[simp] theorem modFn_xback (n : Nat) (f : Func → Func) (s : State) : (modFn n f s).xback = s.xback := rfl
@[simp] theorem modFn_cluster (n : Nat) (f : Func → Func) (s : State) : (modFn n f s).cluster = s.cluster := rfl
@[simp] theorem modFn_gate (n : Nat) (f : Func → Func) (s : State) : (modFn n f s).gate = s.gate := rfl
@[simp] theorem modFn_hp (n : Nat) (f : Func → Func) (s : State) : (modFn n f s).hp = s.hp := rfl
@[simp] theorem modFn_port (n : Nat) (f : Func → Func) (s : State) : (modFn n f s).port = s.port := rfl
@[simp] theorem modFn_tsv (n : Nat) (f : Func → Func) (s : State) : (modFn n f s).tsv = s.tsv := rfl
@[simp] theorem modFn_ctl (n : Nat) (f : Func → Func) (s : State) : (modFn n f s).ctl = s.ctl := rfl
@[simp] theorem modFn_mbx (n : Nat) (f : Func → Func) (s : State) : (modFn n f s).mbx = s.mbx := rfl
@[simp] theorem modFn_core (n : Nat) (f : Func → Func) (s : State) : (modFn n f s).core = s.core := rfl
@[simp] theorem modFn_pf (n : Nat) (f : Func → Func) (s : State) : (modFn n f s).pf = s.pf := rfl
@[simp] theorem modFn_island (n : Nat) (f : Func → Func) (s : State) : (modFn n f s).island = s.island := rfl
@[simp] theorem modFn_st (n : Nat) (f : Func → Func) (s : State) : (modFn n f s).st = s.st := rfl
theorem modFn_modFn_self (n : Nat) (f g : Func → Func) (s : State) :
    modFn n f (modFn n g s) = modFn n (fun x => f (g x)) s := by
  simp only [modFn, tmod_tmod]
@[simp] theorem getFn_modFn (n : Nat) (f : Func → Func) (j : Nat) (s : State) :
    getFn (modFn n f s) j = if j = n then f (getFn s n) else getFn s j := tget_tmod _ _ _ _ _
@[simp] theorem getCtx_modFn (n : Nat) (f : Func → Func) (j : Nat) (s : State) : getCtx (modFn n f s) j = getCtx s j := rfl
@[simp] theorem getEng_modFn (n : Nat) (f : Func → Func) (j : Nat) (s : State) : getEng (modFn n f s) j = getEng s j := rfl
@[simp] theorem getPort_modFn (n : Nat) (f : Func → Func) (j : Nat) (s : State) : getPort (modFn n f s) j = getPort s j := rfl
@[simp] theorem getHp_modFn (n : Nat) (f : Func → Func) (j : Nat) (s : State) : getHp (modFn n f s) j = getHp s j := rfl
@[simp] theorem getClu_modFn (n : Nat) (f : Func → Func) (j : Nat) (s : State) : getClu (modFn n f s) j = getClu s j := rfl
@[simp] theorem getInst_modFn (n : Nat) (f : Func → Func) (j : Nat) (s : State) : getInst (modFn n f s) j = getInst s j := rfl
@[simp] theorem getCore_modFn (n : Nat) (f : Func → Func) (j : Nat) (s : State) : getCore (modFn n f s) j = getCore s j := rfl
@[simp] theorem getMbx_modFn (n : Nat) (f : Func → Func) (j : Nat) (s : State) : getMbx (modFn n f s) j = getMbx s j := rfl
@[simp] theorem getIsl_modFn (n : Nat) (f : Func → Func) (j : Nat) (s : State) : getIsl (modFn n f s) j = getIsl s j := rfl
@[simp] theorem getEngIsl_modFn (n : Nat) (f : Func → Func) (j : Nat) (s : State) : getEngIsl (modFn n f s) j = getEngIsl s j := rfl

/-! ### modEng -/

@[simp] theorem modEng_pending (e : Nat) (f : Engine → Engine) (s : State) : (modEng e f s).pending = s.pending := rfl
@[simp] theorem modEng_cfg (e : Nat) (f : Engine → Engine) (s : State) : (modEng e f s).cfg = s.cfg := rfl
@[simp] theorem modEng_free (e : Nat) (f : Engine → Engine) (s : State) : (modEng e f s).free = s.free := rfl
@[simp] theorem modEng_time (e : Nat) (f : Engine → Engine) (s : State) : (modEng e f s).time = s.time := rfl
@[simp] theorem modEng_seam (e : Nat) (f : Engine → Engine) (s : State) : (modEng e f s).seam = s.seam := rfl
@[simp] theorem modEng_inReset (e : Nat) (f : Engine → Engine) (s : State) : (modEng e f s).inReset = s.inReset := rfl
@[simp] theorem modEng_shadow (e : Nat) (f : Engine → Engine) (s : State) : (modEng e f s).shadow = s.shadow := rfl
@[simp] theorem modEng_active (e : Nat) (f : Engine → Engine) (s : State) : (modEng e f s).active = s.active := rfl
@[simp] theorem modEng_shpend (e : Nat) (f : Engine → Engine) (s : State) : (modEng e f s).shpend = s.shpend := rfl
@[simp] theorem modEng_shseam (e : Nat) (f : Engine → Engine) (s : State) : (modEng e f s).shseam = s.shseam := rfl
@[simp] theorem modEng_latch (e : Nat) (f : Engine → Engine) (s : State) : (modEng e f s).latch = s.latch := rfl
@[simp] theorem modEng_seen (e : Nat) (f : Engine → Engine) (s : State) : (modEng e f s).seen = s.seen := rfl
@[simp] theorem modEng_crossing (e : Nat) (f : Engine → Engine) (s : State) : (modEng e f s).crossing = s.crossing := rfl
@[simp] theorem modEng_soft (e : Nat) (f : Engine → Engine) (s : State) : (modEng e f s).soft = s.soft := rfl
@[simp] theorem modEng_pgood (e : Nat) (f : Engine → Engine) (s : State) : (modEng e f s).pgood = s.pgood := rfl
@[simp] theorem modEng_out (e : Nat) (f : Engine → Engine) (s : State) : (modEng e f s).out = s.out := rfl
@[simp] theorem modEng_dsp (e : Nat) (f : Engine → Engine) (s : State) : (modEng e f s).dsp = s.dsp := rfl
@[simp] theorem modEng_fn (e : Nat) (f : Engine → Engine) (s : State) : (modEng e f s).fn = s.fn := rfl
@[simp] theorem modEng_lock (e : Nat) (f : Engine → Engine) (s : State) : (modEng e f s).lock = s.lock := rfl
@[simp] theorem modEng_lm (e : Nat) (f : Engine → Engine) (s : State) : (modEng e f s).lm = s.lm := rfl
@[simp] theorem modEng_cread (e : Nat) (f : Engine → Engine) (s : State) : (modEng e f s).cread = s.cread := rfl
@[simp] theorem modEng_cmem (e : Nat) (f : Engine → Engine) (s : State) : (modEng e f s).cmem = s.cmem := rfl
@[simp] theorem modEng_cbuf (e : Nat) (f : Engine → Engine) (s : State) : (modEng e f s).cbuf = s.cbuf := rfl
@[simp] theorem modEng_cwait (e : Nat) (f : Engine → Engine) (s : State) : (modEng e f s).cwait = s.cwait := rfl
@[simp] theorem modEng_kram (e : Nat) (f : Engine → Engine) (s : State) : (modEng e f s).kram = s.kram := rfl
@[simp] theorem modEng_rsram (e : Nat) (f : Engine → Engine) (s : State) : (modEng e f s).rsram = s.rsram := rfl
@[simp] theorem modEng_ecc (e : Nat) (f : Engine → Engine) (s : State) : (modEng e f s).ecc = s.ecc := rfl
@[simp] theorem modEng_xbar (e : Nat) (f : Engine → Engine) (s : State) : (modEng e f s).xbar = s.xbar := rfl
@[simp] theorem modEng_xback (e : Nat) (f : Engine → Engine) (s : State) : (modEng e f s).xback = s.xback := rfl
@[simp] theorem modEng_cluster (e : Nat) (f : Engine → Engine) (s : State) : (modEng e f s).cluster = s.cluster := rfl
@[simp] theorem modEng_gate (e : Nat) (f : Engine → Engine) (s : State) : (modEng e f s).gate = s.gate := rfl
@[simp] theorem modEng_hp (e : Nat) (f : Engine → Engine) (s : State) : (modEng e f s).hp = s.hp := rfl
@[simp] theorem modEng_port (e : Nat) (f : Engine → Engine) (s : State) : (modEng e f s).port = s.port := rfl
@[simp] theorem modEng_tsv (e : Nat) (f : Engine → Engine) (s : State) : (modEng e f s).tsv = s.tsv := rfl
@[simp] theorem modEng_ctl (e : Nat) (f : Engine → Engine) (s : State) : (modEng e f s).ctl = s.ctl := rfl
@[simp] theorem modEng_mbx (e : Nat) (f : Engine → Engine) (s : State) : (modEng e f s).mbx = s.mbx := rfl
@[simp] theorem modEng_core (e : Nat) (f : Engine → Engine) (s : State) : (modEng e f s).core = s.core := rfl
@[simp] theorem modEng_pf (e : Nat) (f : Engine → Engine) (s : State) : (modEng e f s).pf = s.pf := rfl
@[simp] theorem modEng_island (e : Nat) (f : Engine → Engine) (s : State) : (modEng e f s).island = s.island := rfl
@[simp] theorem modEng_st (e : Nat) (f : Engine → Engine) (s : State) : (modEng e f s).st = s.st := rfl
theorem modEng_modEng_self (e : Nat) (f g : Engine → Engine) (s : State) :
    modEng e f (modEng e g s) = modEng e (fun x => f (g x)) s := by
  simp only [modEng, tmod_tmod]
@[simp] theorem getEng_modEng (e : Nat) (f : Engine → Engine) (j : Nat) (s : State) :
    getEng (modEng e f s) j = if j = e then f (getEng s e) else getEng s j := tget_tmod _ _ _ _ _
@[simp] theorem getCtx_modEng (e : Nat) (f : Engine → Engine) (j : Nat) (s : State) : getCtx (modEng e f s) j = getCtx s j := rfl
@[simp] theorem getFn_modEng (e : Nat) (f : Engine → Engine) (j : Nat) (s : State) : getFn (modEng e f s) j = getFn s j := rfl
@[simp] theorem getPort_modEng (e : Nat) (f : Engine → Engine) (j : Nat) (s : State) : getPort (modEng e f s) j = getPort s j := rfl
@[simp] theorem getHp_modEng (e : Nat) (f : Engine → Engine) (j : Nat) (s : State) : getHp (modEng e f s) j = getHp s j := rfl
@[simp] theorem getClu_modEng (e : Nat) (f : Engine → Engine) (j : Nat) (s : State) : getClu (modEng e f s) j = getClu s j := rfl
@[simp] theorem getInst_modEng (e : Nat) (f : Engine → Engine) (j : Nat) (s : State) : getInst (modEng e f s) j = getInst s j := rfl
@[simp] theorem getCore_modEng (e : Nat) (f : Engine → Engine) (j : Nat) (s : State) : getCore (modEng e f s) j = getCore s j := rfl
@[simp] theorem getMbx_modEng (e : Nat) (f : Engine → Engine) (j : Nat) (s : State) : getMbx (modEng e f s) j = getMbx s j := rfl
@[simp] theorem getIsl_modEng (e : Nat) (f : Engine → Engine) (j : Nat) (s : State) : getIsl (modEng e f s) j = getIsl s j := rfl
@[simp] theorem getEngIsl_modEng (e : Nat) (f : Engine → Engine) (j : Nat) (s : State) : getEngIsl (modEng e f s) j = getEngIsl s j := rfl

/-! ### modPort -/

@[simp] theorem modPort_pending (p : Nat) (f : Port → Port) (s : State) : (modPort p f s).pending = s.pending := rfl
@[simp] theorem modPort_cfg (p : Nat) (f : Port → Port) (s : State) : (modPort p f s).cfg = s.cfg := rfl
@[simp] theorem modPort_free (p : Nat) (f : Port → Port) (s : State) : (modPort p f s).free = s.free := rfl
@[simp] theorem modPort_time (p : Nat) (f : Port → Port) (s : State) : (modPort p f s).time = s.time := rfl
@[simp] theorem modPort_seam (p : Nat) (f : Port → Port) (s : State) : (modPort p f s).seam = s.seam := rfl
@[simp] theorem modPort_inReset (p : Nat) (f : Port → Port) (s : State) : (modPort p f s).inReset = s.inReset := rfl
@[simp] theorem modPort_shadow (p : Nat) (f : Port → Port) (s : State) : (modPort p f s).shadow = s.shadow := rfl
@[simp] theorem modPort_active (p : Nat) (f : Port → Port) (s : State) : (modPort p f s).active = s.active := rfl
@[simp] theorem modPort_shpend (p : Nat) (f : Port → Port) (s : State) : (modPort p f s).shpend = s.shpend := rfl
@[simp] theorem modPort_shseam (p : Nat) (f : Port → Port) (s : State) : (modPort p f s).shseam = s.shseam := rfl
@[simp] theorem modPort_latch (p : Nat) (f : Port → Port) (s : State) : (modPort p f s).latch = s.latch := rfl
@[simp] theorem modPort_seen (p : Nat) (f : Port → Port) (s : State) : (modPort p f s).seen = s.seen := rfl
@[simp] theorem modPort_crossing (p : Nat) (f : Port → Port) (s : State) : (modPort p f s).crossing = s.crossing := rfl
@[simp] theorem modPort_soft (p : Nat) (f : Port → Port) (s : State) : (modPort p f s).soft = s.soft := rfl
@[simp] theorem modPort_pgood (p : Nat) (f : Port → Port) (s : State) : (modPort p f s).pgood = s.pgood := rfl
@[simp] theorem modPort_out (p : Nat) (f : Port → Port) (s : State) : (modPort p f s).out = s.out := rfl
@[simp] theorem modPort_dsp (p : Nat) (f : Port → Port) (s : State) : (modPort p f s).dsp = s.dsp := rfl
@[simp] theorem modPort_fn (p : Nat) (f : Port → Port) (s : State) : (modPort p f s).fn = s.fn := rfl
@[simp] theorem modPort_eng (p : Nat) (f : Port → Port) (s : State) : (modPort p f s).eng = s.eng := rfl
@[simp] theorem modPort_lock (p : Nat) (f : Port → Port) (s : State) : (modPort p f s).lock = s.lock := rfl
@[simp] theorem modPort_lm (p : Nat) (f : Port → Port) (s : State) : (modPort p f s).lm = s.lm := rfl
@[simp] theorem modPort_cread (p : Nat) (f : Port → Port) (s : State) : (modPort p f s).cread = s.cread := rfl
@[simp] theorem modPort_cmem (p : Nat) (f : Port → Port) (s : State) : (modPort p f s).cmem = s.cmem := rfl
@[simp] theorem modPort_cbuf (p : Nat) (f : Port → Port) (s : State) : (modPort p f s).cbuf = s.cbuf := rfl
@[simp] theorem modPort_cwait (p : Nat) (f : Port → Port) (s : State) : (modPort p f s).cwait = s.cwait := rfl
@[simp] theorem modPort_kram (p : Nat) (f : Port → Port) (s : State) : (modPort p f s).kram = s.kram := rfl
@[simp] theorem modPort_rsram (p : Nat) (f : Port → Port) (s : State) : (modPort p f s).rsram = s.rsram := rfl
@[simp] theorem modPort_ecc (p : Nat) (f : Port → Port) (s : State) : (modPort p f s).ecc = s.ecc := rfl
@[simp] theorem modPort_xbar (p : Nat) (f : Port → Port) (s : State) : (modPort p f s).xbar = s.xbar := rfl
@[simp] theorem modPort_xback (p : Nat) (f : Port → Port) (s : State) : (modPort p f s).xback = s.xback := rfl
@[simp] theorem modPort_cluster (p : Nat) (f : Port → Port) (s : State) : (modPort p f s).cluster = s.cluster := rfl
@[simp] theorem modPort_gate (p : Nat) (f : Port → Port) (s : State) : (modPort p f s).gate = s.gate := rfl
@[simp] theorem modPort_hp (p : Nat) (f : Port → Port) (s : State) : (modPort p f s).hp = s.hp := rfl
@[simp] theorem modPort_tsv (p : Nat) (f : Port → Port) (s : State) : (modPort p f s).tsv = s.tsv := rfl
@[simp] theorem modPort_ctl (p : Nat) (f : Port → Port) (s : State) : (modPort p f s).ctl = s.ctl := rfl
@[simp] theorem modPort_mbx (p : Nat) (f : Port → Port) (s : State) : (modPort p f s).mbx = s.mbx := rfl
@[simp] theorem modPort_core (p : Nat) (f : Port → Port) (s : State) : (modPort p f s).core = s.core := rfl
@[simp] theorem modPort_pf (p : Nat) (f : Port → Port) (s : State) : (modPort p f s).pf = s.pf := rfl
@[simp] theorem modPort_island (p : Nat) (f : Port → Port) (s : State) : (modPort p f s).island = s.island := rfl
@[simp] theorem modPort_st (p : Nat) (f : Port → Port) (s : State) : (modPort p f s).st = s.st := rfl
theorem modPort_modPort_self (p : Nat) (f g : Port → Port) (s : State) :
    modPort p f (modPort p g s) = modPort p (fun x => f (g x)) s := by
  simp only [modPort, tmod_tmod]
@[simp] theorem getPort_modPort (p : Nat) (f : Port → Port) (j : Nat) (s : State) :
    getPort (modPort p f s) j = if j = p then f (getPort s p) else getPort s j := tget_tmod _ _ _ _ _
@[simp] theorem getCtx_modPort (p : Nat) (f : Port → Port) (j : Nat) (s : State) : getCtx (modPort p f s) j = getCtx s j := rfl
@[simp] theorem getFn_modPort (p : Nat) (f : Port → Port) (j : Nat) (s : State) : getFn (modPort p f s) j = getFn s j := rfl
@[simp] theorem getEng_modPort (p : Nat) (f : Port → Port) (j : Nat) (s : State) : getEng (modPort p f s) j = getEng s j := rfl
@[simp] theorem getHp_modPort (p : Nat) (f : Port → Port) (j : Nat) (s : State) : getHp (modPort p f s) j = getHp s j := rfl
@[simp] theorem getClu_modPort (p : Nat) (f : Port → Port) (j : Nat) (s : State) : getClu (modPort p f s) j = getClu s j := rfl
@[simp] theorem getInst_modPort (p : Nat) (f : Port → Port) (j : Nat) (s : State) : getInst (modPort p f s) j = getInst s j := rfl
@[simp] theorem getCore_modPort (p : Nat) (f : Port → Port) (j : Nat) (s : State) : getCore (modPort p f s) j = getCore s j := rfl
@[simp] theorem getMbx_modPort (p : Nat) (f : Port → Port) (j : Nat) (s : State) : getMbx (modPort p f s) j = getMbx s j := rfl
@[simp] theorem getIsl_modPort (p : Nat) (f : Port → Port) (j : Nat) (s : State) : getIsl (modPort p f s) j = getIsl s j := rfl
@[simp] theorem getEngIsl_modPort (p : Nat) (f : Port → Port) (j : Nat) (s : State) : getEngIsl (modPort p f s) j = getEngIsl s j := rfl

/-! ### modHp -/

@[simp] theorem modHp_pending (h : Nat) (f : HostPort → HostPort) (s : State) : (modHp h f s).pending = s.pending := rfl
@[simp] theorem modHp_cfg (h : Nat) (f : HostPort → HostPort) (s : State) : (modHp h f s).cfg = s.cfg := rfl
@[simp] theorem modHp_free (h : Nat) (f : HostPort → HostPort) (s : State) : (modHp h f s).free = s.free := rfl
@[simp] theorem modHp_time (h : Nat) (f : HostPort → HostPort) (s : State) : (modHp h f s).time = s.time := rfl
@[simp] theorem modHp_seam (h : Nat) (f : HostPort → HostPort) (s : State) : (modHp h f s).seam = s.seam := rfl
@[simp] theorem modHp_inReset (h : Nat) (f : HostPort → HostPort) (s : State) : (modHp h f s).inReset = s.inReset := rfl
@[simp] theorem modHp_shadow (h : Nat) (f : HostPort → HostPort) (s : State) : (modHp h f s).shadow = s.shadow := rfl
@[simp] theorem modHp_active (h : Nat) (f : HostPort → HostPort) (s : State) : (modHp h f s).active = s.active := rfl
@[simp] theorem modHp_shpend (h : Nat) (f : HostPort → HostPort) (s : State) : (modHp h f s).shpend = s.shpend := rfl
@[simp] theorem modHp_shseam (h : Nat) (f : HostPort → HostPort) (s : State) : (modHp h f s).shseam = s.shseam := rfl
@[simp] theorem modHp_latch (h : Nat) (f : HostPort → HostPort) (s : State) : (modHp h f s).latch = s.latch := rfl
@[simp] theorem modHp_seen (h : Nat) (f : HostPort → HostPort) (s : State) : (modHp h f s).seen = s.seen := rfl
@[simp] theorem modHp_crossing (h : Nat) (f : HostPort → HostPort) (s : State) : (modHp h f s).crossing = s.crossing := rfl
@[simp] theorem modHp_soft (h : Nat) (f : HostPort → HostPort) (s : State) : (modHp h f s).soft = s.soft := rfl
@[simp] theorem modHp_pgood (h : Nat) (f : HostPort → HostPort) (s : State) : (modHp h f s).pgood = s.pgood := rfl
@[simp] theorem modHp_out (h : Nat) (f : HostPort → HostPort) (s : State) : (modHp h f s).out = s.out := rfl
@[simp] theorem modHp_dsp (h : Nat) (f : HostPort → HostPort) (s : State) : (modHp h f s).dsp = s.dsp := rfl
@[simp] theorem modHp_fn (h : Nat) (f : HostPort → HostPort) (s : State) : (modHp h f s).fn = s.fn := rfl
@[simp] theorem modHp_eng (h : Nat) (f : HostPort → HostPort) (s : State) : (modHp h f s).eng = s.eng := rfl
@[simp] theorem modHp_lock (h : Nat) (f : HostPort → HostPort) (s : State) : (modHp h f s).lock = s.lock := rfl
@[simp] theorem modHp_lm (h : Nat) (f : HostPort → HostPort) (s : State) : (modHp h f s).lm = s.lm := rfl
@[simp] theorem modHp_cread (h : Nat) (f : HostPort → HostPort) (s : State) : (modHp h f s).cread = s.cread := rfl
@[simp] theorem modHp_cmem (h : Nat) (f : HostPort → HostPort) (s : State) : (modHp h f s).cmem = s.cmem := rfl
@[simp] theorem modHp_cbuf (h : Nat) (f : HostPort → HostPort) (s : State) : (modHp h f s).cbuf = s.cbuf := rfl
@[simp] theorem modHp_cwait (h : Nat) (f : HostPort → HostPort) (s : State) : (modHp h f s).cwait = s.cwait := rfl
@[simp] theorem modHp_kram (h : Nat) (f : HostPort → HostPort) (s : State) : (modHp h f s).kram = s.kram := rfl
@[simp] theorem modHp_rsram (h : Nat) (f : HostPort → HostPort) (s : State) : (modHp h f s).rsram = s.rsram := rfl
@[simp] theorem modHp_ecc (h : Nat) (f : HostPort → HostPort) (s : State) : (modHp h f s).ecc = s.ecc := rfl
@[simp] theorem modHp_xbar (h : Nat) (f : HostPort → HostPort) (s : State) : (modHp h f s).xbar = s.xbar := rfl
@[simp] theorem modHp_xback (h : Nat) (f : HostPort → HostPort) (s : State) : (modHp h f s).xback = s.xback := rfl
@[simp] theorem modHp_cluster (h : Nat) (f : HostPort → HostPort) (s : State) : (modHp h f s).cluster = s.cluster := rfl
@[simp] theorem modHp_gate (h : Nat) (f : HostPort → HostPort) (s : State) : (modHp h f s).gate = s.gate := rfl
@[simp] theorem modHp_port (h : Nat) (f : HostPort → HostPort) (s : State) : (modHp h f s).port = s.port := rfl
@[simp] theorem modHp_tsv (h : Nat) (f : HostPort → HostPort) (s : State) : (modHp h f s).tsv = s.tsv := rfl
@[simp] theorem modHp_ctl (h : Nat) (f : HostPort → HostPort) (s : State) : (modHp h f s).ctl = s.ctl := rfl
@[simp] theorem modHp_mbx (h : Nat) (f : HostPort → HostPort) (s : State) : (modHp h f s).mbx = s.mbx := rfl
@[simp] theorem modHp_core (h : Nat) (f : HostPort → HostPort) (s : State) : (modHp h f s).core = s.core := rfl
@[simp] theorem modHp_pf (h : Nat) (f : HostPort → HostPort) (s : State) : (modHp h f s).pf = s.pf := rfl
@[simp] theorem modHp_island (h : Nat) (f : HostPort → HostPort) (s : State) : (modHp h f s).island = s.island := rfl
@[simp] theorem modHp_st (h : Nat) (f : HostPort → HostPort) (s : State) : (modHp h f s).st = s.st := rfl
theorem modHp_modHp_self (h : Nat) (f g : HostPort → HostPort) (s : State) :
    modHp h f (modHp h g s) = modHp h (fun x => f (g x)) s := by
  simp only [modHp, tmod_tmod]
@[simp] theorem getHp_modHp (h : Nat) (f : HostPort → HostPort) (j : Nat) (s : State) :
    getHp (modHp h f s) j = if j = h then f (getHp s h) else getHp s j := tget_tmod _ _ _ _ _
@[simp] theorem getCtx_modHp (h : Nat) (f : HostPort → HostPort) (j : Nat) (s : State) : getCtx (modHp h f s) j = getCtx s j := rfl
@[simp] theorem getFn_modHp (h : Nat) (f : HostPort → HostPort) (j : Nat) (s : State) : getFn (modHp h f s) j = getFn s j := rfl
@[simp] theorem getEng_modHp (h : Nat) (f : HostPort → HostPort) (j : Nat) (s : State) : getEng (modHp h f s) j = getEng s j := rfl
@[simp] theorem getPort_modHp (h : Nat) (f : HostPort → HostPort) (j : Nat) (s : State) : getPort (modHp h f s) j = getPort s j := rfl
@[simp] theorem getClu_modHp (h : Nat) (f : HostPort → HostPort) (j : Nat) (s : State) : getClu (modHp h f s) j = getClu s j := rfl
@[simp] theorem getInst_modHp (h : Nat) (f : HostPort → HostPort) (j : Nat) (s : State) : getInst (modHp h f s) j = getInst s j := rfl
@[simp] theorem getCore_modHp (h : Nat) (f : HostPort → HostPort) (j : Nat) (s : State) : getCore (modHp h f s) j = getCore s j := rfl
@[simp] theorem getMbx_modHp (h : Nat) (f : HostPort → HostPort) (j : Nat) (s : State) : getMbx (modHp h f s) j = getMbx s j := rfl
@[simp] theorem getIsl_modHp (h : Nat) (f : HostPort → HostPort) (j : Nat) (s : State) : getIsl (modHp h f s) j = getIsl s j := rfl
@[simp] theorem getEngIsl_modHp (h : Nat) (f : HostPort → HostPort) (j : Nat) (s : State) : getEngIsl (modHp h f s) j = getEngIsl s j := rfl

/-! ### modClu -/

@[simp] theorem modClu_pending (k : Nat) (f : Cluster → Cluster) (s : State) : (modClu k f s).pending = s.pending := rfl
@[simp] theorem modClu_cfg (k : Nat) (f : Cluster → Cluster) (s : State) : (modClu k f s).cfg = s.cfg := rfl
@[simp] theorem modClu_free (k : Nat) (f : Cluster → Cluster) (s : State) : (modClu k f s).free = s.free := rfl
@[simp] theorem modClu_time (k : Nat) (f : Cluster → Cluster) (s : State) : (modClu k f s).time = s.time := rfl
@[simp] theorem modClu_seam (k : Nat) (f : Cluster → Cluster) (s : State) : (modClu k f s).seam = s.seam := rfl
@[simp] theorem modClu_inReset (k : Nat) (f : Cluster → Cluster) (s : State) : (modClu k f s).inReset = s.inReset := rfl
@[simp] theorem modClu_shadow (k : Nat) (f : Cluster → Cluster) (s : State) : (modClu k f s).shadow = s.shadow := rfl
@[simp] theorem modClu_active (k : Nat) (f : Cluster → Cluster) (s : State) : (modClu k f s).active = s.active := rfl
@[simp] theorem modClu_shpend (k : Nat) (f : Cluster → Cluster) (s : State) : (modClu k f s).shpend = s.shpend := rfl
@[simp] theorem modClu_shseam (k : Nat) (f : Cluster → Cluster) (s : State) : (modClu k f s).shseam = s.shseam := rfl
@[simp] theorem modClu_latch (k : Nat) (f : Cluster → Cluster) (s : State) : (modClu k f s).latch = s.latch := rfl
@[simp] theorem modClu_seen (k : Nat) (f : Cluster → Cluster) (s : State) : (modClu k f s).seen = s.seen := rfl
@[simp] theorem modClu_crossing (k : Nat) (f : Cluster → Cluster) (s : State) : (modClu k f s).crossing = s.crossing := rfl
@[simp] theorem modClu_soft (k : Nat) (f : Cluster → Cluster) (s : State) : (modClu k f s).soft = s.soft := rfl
@[simp] theorem modClu_pgood (k : Nat) (f : Cluster → Cluster) (s : State) : (modClu k f s).pgood = s.pgood := rfl
@[simp] theorem modClu_out (k : Nat) (f : Cluster → Cluster) (s : State) : (modClu k f s).out = s.out := rfl
@[simp] theorem modClu_dsp (k : Nat) (f : Cluster → Cluster) (s : State) : (modClu k f s).dsp = s.dsp := rfl
@[simp] theorem modClu_fn (k : Nat) (f : Cluster → Cluster) (s : State) : (modClu k f s).fn = s.fn := rfl
@[simp] theorem modClu_eng (k : Nat) (f : Cluster → Cluster) (s : State) : (modClu k f s).eng = s.eng := rfl
@[simp] theorem modClu_lock (k : Nat) (f : Cluster → Cluster) (s : State) : (modClu k f s).lock = s.lock := rfl
@[simp] theorem modClu_lm (k : Nat) (f : Cluster → Cluster) (s : State) : (modClu k f s).lm = s.lm := rfl
@[simp] theorem modClu_cread (k : Nat) (f : Cluster → Cluster) (s : State) : (modClu k f s).cread = s.cread := rfl
@[simp] theorem modClu_cmem (k : Nat) (f : Cluster → Cluster) (s : State) : (modClu k f s).cmem = s.cmem := rfl
@[simp] theorem modClu_cbuf (k : Nat) (f : Cluster → Cluster) (s : State) : (modClu k f s).cbuf = s.cbuf := rfl
@[simp] theorem modClu_cwait (k : Nat) (f : Cluster → Cluster) (s : State) : (modClu k f s).cwait = s.cwait := rfl
@[simp] theorem modClu_kram (k : Nat) (f : Cluster → Cluster) (s : State) : (modClu k f s).kram = s.kram := rfl
@[simp] theorem modClu_rsram (k : Nat) (f : Cluster → Cluster) (s : State) : (modClu k f s).rsram = s.rsram := rfl
@[simp] theorem modClu_ecc (k : Nat) (f : Cluster → Cluster) (s : State) : (modClu k f s).ecc = s.ecc := rfl
@[simp] theorem modClu_xbar (k : Nat) (f : Cluster → Cluster) (s : State) : (modClu k f s).xbar = s.xbar := rfl
@[simp] theorem modClu_xback (k : Nat) (f : Cluster → Cluster) (s : State) : (modClu k f s).xback = s.xback := rfl
@[simp] theorem modClu_gate (k : Nat) (f : Cluster → Cluster) (s : State) : (modClu k f s).gate = s.gate := rfl
@[simp] theorem modClu_hp (k : Nat) (f : Cluster → Cluster) (s : State) : (modClu k f s).hp = s.hp := rfl
@[simp] theorem modClu_port (k : Nat) (f : Cluster → Cluster) (s : State) : (modClu k f s).port = s.port := rfl
@[simp] theorem modClu_tsv (k : Nat) (f : Cluster → Cluster) (s : State) : (modClu k f s).tsv = s.tsv := rfl
@[simp] theorem modClu_ctl (k : Nat) (f : Cluster → Cluster) (s : State) : (modClu k f s).ctl = s.ctl := rfl
@[simp] theorem modClu_mbx (k : Nat) (f : Cluster → Cluster) (s : State) : (modClu k f s).mbx = s.mbx := rfl
@[simp] theorem modClu_core (k : Nat) (f : Cluster → Cluster) (s : State) : (modClu k f s).core = s.core := rfl
@[simp] theorem modClu_pf (k : Nat) (f : Cluster → Cluster) (s : State) : (modClu k f s).pf = s.pf := rfl
@[simp] theorem modClu_island (k : Nat) (f : Cluster → Cluster) (s : State) : (modClu k f s).island = s.island := rfl
@[simp] theorem modClu_st (k : Nat) (f : Cluster → Cluster) (s : State) : (modClu k f s).st = s.st := rfl
theorem modClu_modClu_self (k : Nat) (f g : Cluster → Cluster) (s : State) :
    modClu k f (modClu k g s) = modClu k (fun x => f (g x)) s := by
  simp only [modClu, tmod_tmod]
@[simp] theorem getClu_modClu (k : Nat) (f : Cluster → Cluster) (j : Nat) (s : State) :
    getClu (modClu k f s) j = if j = k then f (getClu s k) else getClu s j := tget_tmod _ _ _ _ _
@[simp] theorem getCtx_modClu (k : Nat) (f : Cluster → Cluster) (j : Nat) (s : State) : getCtx (modClu k f s) j = getCtx s j := rfl
@[simp] theorem getFn_modClu (k : Nat) (f : Cluster → Cluster) (j : Nat) (s : State) : getFn (modClu k f s) j = getFn s j := rfl
@[simp] theorem getEng_modClu (k : Nat) (f : Cluster → Cluster) (j : Nat) (s : State) : getEng (modClu k f s) j = getEng s j := rfl
@[simp] theorem getPort_modClu (k : Nat) (f : Cluster → Cluster) (j : Nat) (s : State) : getPort (modClu k f s) j = getPort s j := rfl
@[simp] theorem getHp_modClu (k : Nat) (f : Cluster → Cluster) (j : Nat) (s : State) : getHp (modClu k f s) j = getHp s j := rfl
@[simp] theorem getInst_modClu (k : Nat) (f : Cluster → Cluster) (j : Nat) (s : State) : getInst (modClu k f s) j = getInst s j := rfl
@[simp] theorem getCore_modClu (k : Nat) (f : Cluster → Cluster) (j : Nat) (s : State) : getCore (modClu k f s) j = getCore s j := rfl
@[simp] theorem getMbx_modClu (k : Nat) (f : Cluster → Cluster) (j : Nat) (s : State) : getMbx (modClu k f s) j = getMbx s j := rfl
@[simp] theorem getIsl_modClu (k : Nat) (f : Cluster → Cluster) (j : Nat) (s : State) : getIsl (modClu k f s) j = getIsl s j := rfl
@[simp] theorem getEngIsl_modClu (k : Nat) (f : Cluster → Cluster) (j : Nat) (s : State) : getEngIsl (modClu k f s) j = getEngIsl s j := rfl

/-! ### modInst -/

@[simp] theorem modInst_pending (i : Nat) (f : Inst → Inst) (s : State) : (modInst i f s).pending = s.pending := rfl
@[simp] theorem modInst_cfg (i : Nat) (f : Inst → Inst) (s : State) : (modInst i f s).cfg = s.cfg := rfl
@[simp] theorem modInst_free (i : Nat) (f : Inst → Inst) (s : State) : (modInst i f s).free = s.free := rfl
@[simp] theorem modInst_time (i : Nat) (f : Inst → Inst) (s : State) : (modInst i f s).time = s.time := rfl
@[simp] theorem modInst_seam (i : Nat) (f : Inst → Inst) (s : State) : (modInst i f s).seam = s.seam := rfl
@[simp] theorem modInst_inReset (i : Nat) (f : Inst → Inst) (s : State) : (modInst i f s).inReset = s.inReset := rfl
@[simp] theorem modInst_shadow (i : Nat) (f : Inst → Inst) (s : State) : (modInst i f s).shadow = s.shadow := rfl
@[simp] theorem modInst_active (i : Nat) (f : Inst → Inst) (s : State) : (modInst i f s).active = s.active := rfl
@[simp] theorem modInst_shpend (i : Nat) (f : Inst → Inst) (s : State) : (modInst i f s).shpend = s.shpend := rfl
@[simp] theorem modInst_shseam (i : Nat) (f : Inst → Inst) (s : State) : (modInst i f s).shseam = s.shseam := rfl
@[simp] theorem modInst_latch (i : Nat) (f : Inst → Inst) (s : State) : (modInst i f s).latch = s.latch := rfl
@[simp] theorem modInst_seen (i : Nat) (f : Inst → Inst) (s : State) : (modInst i f s).seen = s.seen := rfl
@[simp] theorem modInst_crossing (i : Nat) (f : Inst → Inst) (s : State) : (modInst i f s).crossing = s.crossing := rfl
@[simp] theorem modInst_soft (i : Nat) (f : Inst → Inst) (s : State) : (modInst i f s).soft = s.soft := rfl
@[simp] theorem modInst_pgood (i : Nat) (f : Inst → Inst) (s : State) : (modInst i f s).pgood = s.pgood := rfl
@[simp] theorem modInst_out (i : Nat) (f : Inst → Inst) (s : State) : (modInst i f s).out = s.out := rfl
@[simp] theorem modInst_dsp (i : Nat) (f : Inst → Inst) (s : State) : (modInst i f s).dsp = s.dsp := rfl
@[simp] theorem modInst_fn (i : Nat) (f : Inst → Inst) (s : State) : (modInst i f s).fn = s.fn := rfl
@[simp] theorem modInst_eng (i : Nat) (f : Inst → Inst) (s : State) : (modInst i f s).eng = s.eng := rfl
@[simp] theorem modInst_lock (i : Nat) (f : Inst → Inst) (s : State) : (modInst i f s).lock = s.lock := rfl
@[simp] theorem modInst_lm (i : Nat) (f : Inst → Inst) (s : State) : (modInst i f s).lm = s.lm := rfl
@[simp] theorem modInst_cread (i : Nat) (f : Inst → Inst) (s : State) : (modInst i f s).cread = s.cread := rfl
@[simp] theorem modInst_cmem (i : Nat) (f : Inst → Inst) (s : State) : (modInst i f s).cmem = s.cmem := rfl
@[simp] theorem modInst_cbuf (i : Nat) (f : Inst → Inst) (s : State) : (modInst i f s).cbuf = s.cbuf := rfl
@[simp] theorem modInst_cwait (i : Nat) (f : Inst → Inst) (s : State) : (modInst i f s).cwait = s.cwait := rfl
@[simp] theorem modInst_kram (i : Nat) (f : Inst → Inst) (s : State) : (modInst i f s).kram = s.kram := rfl
@[simp] theorem modInst_rsram (i : Nat) (f : Inst → Inst) (s : State) : (modInst i f s).rsram = s.rsram := rfl
@[simp] theorem modInst_ecc (i : Nat) (f : Inst → Inst) (s : State) : (modInst i f s).ecc = s.ecc := rfl
@[simp] theorem modInst_xbar (i : Nat) (f : Inst → Inst) (s : State) : (modInst i f s).xbar = s.xbar := rfl
@[simp] theorem modInst_xback (i : Nat) (f : Inst → Inst) (s : State) : (modInst i f s).xback = s.xback := rfl
@[simp] theorem modInst_cluster (i : Nat) (f : Inst → Inst) (s : State) : (modInst i f s).cluster = s.cluster := rfl
@[simp] theorem modInst_gate (i : Nat) (f : Inst → Inst) (s : State) : (modInst i f s).gate = s.gate := rfl
@[simp] theorem modInst_hp (i : Nat) (f : Inst → Inst) (s : State) : (modInst i f s).hp = s.hp := rfl
@[simp] theorem modInst_port (i : Nat) (f : Inst → Inst) (s : State) : (modInst i f s).port = s.port := rfl
@[simp] theorem modInst_ctl (i : Nat) (f : Inst → Inst) (s : State) : (modInst i f s).ctl = s.ctl := rfl
@[simp] theorem modInst_mbx (i : Nat) (f : Inst → Inst) (s : State) : (modInst i f s).mbx = s.mbx := rfl
@[simp] theorem modInst_core (i : Nat) (f : Inst → Inst) (s : State) : (modInst i f s).core = s.core := rfl
@[simp] theorem modInst_pf (i : Nat) (f : Inst → Inst) (s : State) : (modInst i f s).pf = s.pf := rfl
@[simp] theorem modInst_island (i : Nat) (f : Inst → Inst) (s : State) : (modInst i f s).island = s.island := rfl
@[simp] theorem modInst_st (i : Nat) (f : Inst → Inst) (s : State) : (modInst i f s).st = s.st := rfl
@[simp] theorem modInst_tsv_tevbase (i : Nat) (f : Inst → Inst) (s : State) : (modInst i f s).tsv.tevbase = s.tsv.tevbase := rfl
@[simp] theorem modInst_tsv_tevlog (i : Nat) (f : Inst → Inst) (s : State) : (modInst i f s).tsv.tevlog = s.tsv.tevlog := rfl
@[simp] theorem modInst_tsv_tevwr (i : Nat) (f : Inst → Inst) (s : State) : (modInst i f s).tsv.tevwr = s.tsv.tevwr := rfl
@[simp] theorem modInst_tsv_tevrd (i : Nat) (f : Inst → Inst) (s : State) : (modInst i f s).tsv.tevrd = s.tsv.tevrd := rfl
@[simp] theorem modInst_tsv_tevlost (i : Nat) (f : Inst → Inst) (s : State) : (modInst i f s).tsv.tevlost = s.tsv.tevlost := rfl
@[simp] theorem modInst_tsv_tmalform (i : Nat) (f : Inst → Inst) (s : State) : (modInst i f s).tsv.tmalform = s.tsv.tmalform := rfl
@[simp] theorem modInst_tsv_treject (i : Nat) (f : Inst → Inst) (s : State) : (modInst i f s).tsv.treject = s.tsv.treject := rfl
@[simp] theorem modInst_tsv_tdrop (i : Nat) (f : Inst → Inst) (s : State) : (modInst i f s).tsv.tdrop = s.tsv.tdrop := rfl
@[simp] theorem modInst_tsv_tcoalesce (i : Nat) (f : Inst → Inst) (s : State) : (modInst i f s).tsv.tcoalesce = s.tsv.tcoalesce := rfl
@[simp] theorem modInst_tsv_queue (i : Nat) (f : Inst → Inst) (s : State) : (modInst i f s).tsv.queue = s.tsv.queue := rfl
@[simp] theorem modInst_tsv_lfsr (i : Nat) (f : Inst → Inst) (s : State) : (modInst i f s).tsv.lfsr = s.tsv.lfsr := rfl
@[simp] theorem modInst_tsv_filter (i : Nat) (f : Inst → Inst) (s : State) : (modInst i f s).tsv.filter = s.tsv.filter := rfl
theorem modInst_modInst_self (i : Nat) (f g : Inst → Inst) (s : State) :
    modInst i f (modInst i g s) = modInst i (fun x => f (g x)) s := by
  simp only [modInst, tmod_tmod]
@[simp] theorem getInst_modInst (i : Nat) (f : Inst → Inst) (j : Nat) (s : State) :
    getInst (modInst i f s) j = if j = i then f (getInst s i) else getInst s j := tget_tmod _ _ _ _ _
@[simp] theorem getCtx_modInst (i : Nat) (f : Inst → Inst) (j : Nat) (s : State) : getCtx (modInst i f s) j = getCtx s j := rfl
@[simp] theorem getFn_modInst (i : Nat) (f : Inst → Inst) (j : Nat) (s : State) : getFn (modInst i f s) j = getFn s j := rfl
@[simp] theorem getEng_modInst (i : Nat) (f : Inst → Inst) (j : Nat) (s : State) : getEng (modInst i f s) j = getEng s j := rfl
@[simp] theorem getPort_modInst (i : Nat) (f : Inst → Inst) (j : Nat) (s : State) : getPort (modInst i f s) j = getPort s j := rfl
@[simp] theorem getHp_modInst (i : Nat) (f : Inst → Inst) (j : Nat) (s : State) : getHp (modInst i f s) j = getHp s j := rfl
@[simp] theorem getClu_modInst (i : Nat) (f : Inst → Inst) (j : Nat) (s : State) : getClu (modInst i f s) j = getClu s j := rfl
@[simp] theorem getCore_modInst (i : Nat) (f : Inst → Inst) (j : Nat) (s : State) : getCore (modInst i f s) j = getCore s j := rfl
@[simp] theorem getMbx_modInst (i : Nat) (f : Inst → Inst) (j : Nat) (s : State) : getMbx (modInst i f s) j = getMbx s j := rfl
@[simp] theorem getIsl_modInst (i : Nat) (f : Inst → Inst) (j : Nat) (s : State) : getIsl (modInst i f s) j = getIsl s j := rfl
@[simp] theorem getEngIsl_modInst (i : Nat) (f : Inst → Inst) (j : Nat) (s : State) : getEngIsl (modInst i f s) j = getEngIsl s j := rfl

/-! ### modCore -/

@[simp] theorem modCore_pending (c : Nat) (f : Core → Core) (s : State) : (modCore c f s).pending = s.pending := rfl
@[simp] theorem modCore_cfg (c : Nat) (f : Core → Core) (s : State) : (modCore c f s).cfg = s.cfg := rfl
@[simp] theorem modCore_free (c : Nat) (f : Core → Core) (s : State) : (modCore c f s).free = s.free := rfl
@[simp] theorem modCore_time (c : Nat) (f : Core → Core) (s : State) : (modCore c f s).time = s.time := rfl
@[simp] theorem modCore_seam (c : Nat) (f : Core → Core) (s : State) : (modCore c f s).seam = s.seam := rfl
@[simp] theorem modCore_inReset (c : Nat) (f : Core → Core) (s : State) : (modCore c f s).inReset = s.inReset := rfl
@[simp] theorem modCore_shadow (c : Nat) (f : Core → Core) (s : State) : (modCore c f s).shadow = s.shadow := rfl
@[simp] theorem modCore_active (c : Nat) (f : Core → Core) (s : State) : (modCore c f s).active = s.active := rfl
@[simp] theorem modCore_shpend (c : Nat) (f : Core → Core) (s : State) : (modCore c f s).shpend = s.shpend := rfl
@[simp] theorem modCore_shseam (c : Nat) (f : Core → Core) (s : State) : (modCore c f s).shseam = s.shseam := rfl
@[simp] theorem modCore_latch (c : Nat) (f : Core → Core) (s : State) : (modCore c f s).latch = s.latch := rfl
@[simp] theorem modCore_seen (c : Nat) (f : Core → Core) (s : State) : (modCore c f s).seen = s.seen := rfl
@[simp] theorem modCore_crossing (c : Nat) (f : Core → Core) (s : State) : (modCore c f s).crossing = s.crossing := rfl
@[simp] theorem modCore_soft (c : Nat) (f : Core → Core) (s : State) : (modCore c f s).soft = s.soft := rfl
@[simp] theorem modCore_pgood (c : Nat) (f : Core → Core) (s : State) : (modCore c f s).pgood = s.pgood := rfl
@[simp] theorem modCore_out (c : Nat) (f : Core → Core) (s : State) : (modCore c f s).out = s.out := rfl
@[simp] theorem modCore_dsp (c : Nat) (f : Core → Core) (s : State) : (modCore c f s).dsp = s.dsp := rfl
@[simp] theorem modCore_fn (c : Nat) (f : Core → Core) (s : State) : (modCore c f s).fn = s.fn := rfl
@[simp] theorem modCore_eng (c : Nat) (f : Core → Core) (s : State) : (modCore c f s).eng = s.eng := rfl
@[simp] theorem modCore_lock (c : Nat) (f : Core → Core) (s : State) : (modCore c f s).lock = s.lock := rfl
@[simp] theorem modCore_lm (c : Nat) (f : Core → Core) (s : State) : (modCore c f s).lm = s.lm := rfl
@[simp] theorem modCore_cread (c : Nat) (f : Core → Core) (s : State) : (modCore c f s).cread = s.cread := rfl
@[simp] theorem modCore_cmem (c : Nat) (f : Core → Core) (s : State) : (modCore c f s).cmem = s.cmem := rfl
@[simp] theorem modCore_cbuf (c : Nat) (f : Core → Core) (s : State) : (modCore c f s).cbuf = s.cbuf := rfl
@[simp] theorem modCore_cwait (c : Nat) (f : Core → Core) (s : State) : (modCore c f s).cwait = s.cwait := rfl
@[simp] theorem modCore_kram (c : Nat) (f : Core → Core) (s : State) : (modCore c f s).kram = s.kram := rfl
@[simp] theorem modCore_rsram (c : Nat) (f : Core → Core) (s : State) : (modCore c f s).rsram = s.rsram := rfl
@[simp] theorem modCore_ecc (c : Nat) (f : Core → Core) (s : State) : (modCore c f s).ecc = s.ecc := rfl
@[simp] theorem modCore_xbar (c : Nat) (f : Core → Core) (s : State) : (modCore c f s).xbar = s.xbar := rfl
@[simp] theorem modCore_xback (c : Nat) (f : Core → Core) (s : State) : (modCore c f s).xback = s.xback := rfl
@[simp] theorem modCore_cluster (c : Nat) (f : Core → Core) (s : State) : (modCore c f s).cluster = s.cluster := rfl
@[simp] theorem modCore_gate (c : Nat) (f : Core → Core) (s : State) : (modCore c f s).gate = s.gate := rfl
@[simp] theorem modCore_hp (c : Nat) (f : Core → Core) (s : State) : (modCore c f s).hp = s.hp := rfl
@[simp] theorem modCore_port (c : Nat) (f : Core → Core) (s : State) : (modCore c f s).port = s.port := rfl
@[simp] theorem modCore_tsv (c : Nat) (f : Core → Core) (s : State) : (modCore c f s).tsv = s.tsv := rfl
@[simp] theorem modCore_ctl (c : Nat) (f : Core → Core) (s : State) : (modCore c f s).ctl = s.ctl := rfl
@[simp] theorem modCore_mbx (c : Nat) (f : Core → Core) (s : State) : (modCore c f s).mbx = s.mbx := rfl
@[simp] theorem modCore_pf (c : Nat) (f : Core → Core) (s : State) : (modCore c f s).pf = s.pf := rfl
@[simp] theorem modCore_island (c : Nat) (f : Core → Core) (s : State) : (modCore c f s).island = s.island := rfl
@[simp] theorem modCore_st (c : Nat) (f : Core → Core) (s : State) : (modCore c f s).st = s.st := rfl
theorem modCore_modCore_self (c : Nat) (f g : Core → Core) (s : State) :
    modCore c f (modCore c g s) = modCore c (fun x => f (g x)) s := by
  simp only [modCore, tmod_tmod]
@[simp] theorem getCore_modCore (c : Nat) (f : Core → Core) (j : Nat) (s : State) :
    getCore (modCore c f s) j = if j = c then f (getCore s c) else getCore s j := tget_tmod _ _ _ _ _
@[simp] theorem getCtx_modCore (c : Nat) (f : Core → Core) (j : Nat) (s : State) : getCtx (modCore c f s) j = getCtx s j := rfl
@[simp] theorem getFn_modCore (c : Nat) (f : Core → Core) (j : Nat) (s : State) : getFn (modCore c f s) j = getFn s j := rfl
@[simp] theorem getEng_modCore (c : Nat) (f : Core → Core) (j : Nat) (s : State) : getEng (modCore c f s) j = getEng s j := rfl
@[simp] theorem getPort_modCore (c : Nat) (f : Core → Core) (j : Nat) (s : State) : getPort (modCore c f s) j = getPort s j := rfl
@[simp] theorem getHp_modCore (c : Nat) (f : Core → Core) (j : Nat) (s : State) : getHp (modCore c f s) j = getHp s j := rfl
@[simp] theorem getClu_modCore (c : Nat) (f : Core → Core) (j : Nat) (s : State) : getClu (modCore c f s) j = getClu s j := rfl
@[simp] theorem getInst_modCore (c : Nat) (f : Core → Core) (j : Nat) (s : State) : getInst (modCore c f s) j = getInst s j := rfl
@[simp] theorem getMbx_modCore (c : Nat) (f : Core → Core) (j : Nat) (s : State) : getMbx (modCore c f s) j = getMbx s j := rfl
@[simp] theorem getIsl_modCore (c : Nat) (f : Core → Core) (j : Nat) (s : State) : getIsl (modCore c f s) j = getIsl s j := rfl
@[simp] theorem getEngIsl_modCore (c : Nat) (f : Core → Core) (j : Nat) (s : State) : getEngIsl (modCore c f s) j = getEngIsl s j := rfl

/-! ### modMbx -/

@[simp] theorem modMbx_pending (m : Nat) (f : Mailbox → Mailbox) (s : State) : (modMbx m f s).pending = s.pending := rfl
@[simp] theorem modMbx_cfg (m : Nat) (f : Mailbox → Mailbox) (s : State) : (modMbx m f s).cfg = s.cfg := rfl
@[simp] theorem modMbx_free (m : Nat) (f : Mailbox → Mailbox) (s : State) : (modMbx m f s).free = s.free := rfl
@[simp] theorem modMbx_time (m : Nat) (f : Mailbox → Mailbox) (s : State) : (modMbx m f s).time = s.time := rfl
@[simp] theorem modMbx_seam (m : Nat) (f : Mailbox → Mailbox) (s : State) : (modMbx m f s).seam = s.seam := rfl
@[simp] theorem modMbx_inReset (m : Nat) (f : Mailbox → Mailbox) (s : State) : (modMbx m f s).inReset = s.inReset := rfl
@[simp] theorem modMbx_shadow (m : Nat) (f : Mailbox → Mailbox) (s : State) : (modMbx m f s).shadow = s.shadow := rfl
@[simp] theorem modMbx_active (m : Nat) (f : Mailbox → Mailbox) (s : State) : (modMbx m f s).active = s.active := rfl
@[simp] theorem modMbx_shpend (m : Nat) (f : Mailbox → Mailbox) (s : State) : (modMbx m f s).shpend = s.shpend := rfl
@[simp] theorem modMbx_shseam (m : Nat) (f : Mailbox → Mailbox) (s : State) : (modMbx m f s).shseam = s.shseam := rfl
@[simp] theorem modMbx_latch (m : Nat) (f : Mailbox → Mailbox) (s : State) : (modMbx m f s).latch = s.latch := rfl
@[simp] theorem modMbx_seen (m : Nat) (f : Mailbox → Mailbox) (s : State) : (modMbx m f s).seen = s.seen := rfl
@[simp] theorem modMbx_crossing (m : Nat) (f : Mailbox → Mailbox) (s : State) : (modMbx m f s).crossing = s.crossing := rfl
@[simp] theorem modMbx_soft (m : Nat) (f : Mailbox → Mailbox) (s : State) : (modMbx m f s).soft = s.soft := rfl
@[simp] theorem modMbx_pgood (m : Nat) (f : Mailbox → Mailbox) (s : State) : (modMbx m f s).pgood = s.pgood := rfl
@[simp] theorem modMbx_out (m : Nat) (f : Mailbox → Mailbox) (s : State) : (modMbx m f s).out = s.out := rfl
@[simp] theorem modMbx_dsp (m : Nat) (f : Mailbox → Mailbox) (s : State) : (modMbx m f s).dsp = s.dsp := rfl
@[simp] theorem modMbx_fn (m : Nat) (f : Mailbox → Mailbox) (s : State) : (modMbx m f s).fn = s.fn := rfl
@[simp] theorem modMbx_eng (m : Nat) (f : Mailbox → Mailbox) (s : State) : (modMbx m f s).eng = s.eng := rfl
@[simp] theorem modMbx_lock (m : Nat) (f : Mailbox → Mailbox) (s : State) : (modMbx m f s).lock = s.lock := rfl
@[simp] theorem modMbx_lm (m : Nat) (f : Mailbox → Mailbox) (s : State) : (modMbx m f s).lm = s.lm := rfl
@[simp] theorem modMbx_cread (m : Nat) (f : Mailbox → Mailbox) (s : State) : (modMbx m f s).cread = s.cread := rfl
@[simp] theorem modMbx_cmem (m : Nat) (f : Mailbox → Mailbox) (s : State) : (modMbx m f s).cmem = s.cmem := rfl
@[simp] theorem modMbx_cbuf (m : Nat) (f : Mailbox → Mailbox) (s : State) : (modMbx m f s).cbuf = s.cbuf := rfl
@[simp] theorem modMbx_cwait (m : Nat) (f : Mailbox → Mailbox) (s : State) : (modMbx m f s).cwait = s.cwait := rfl
@[simp] theorem modMbx_kram (m : Nat) (f : Mailbox → Mailbox) (s : State) : (modMbx m f s).kram = s.kram := rfl
@[simp] theorem modMbx_rsram (m : Nat) (f : Mailbox → Mailbox) (s : State) : (modMbx m f s).rsram = s.rsram := rfl
@[simp] theorem modMbx_ecc (m : Nat) (f : Mailbox → Mailbox) (s : State) : (modMbx m f s).ecc = s.ecc := rfl
@[simp] theorem modMbx_xbar (m : Nat) (f : Mailbox → Mailbox) (s : State) : (modMbx m f s).xbar = s.xbar := rfl
@[simp] theorem modMbx_xback (m : Nat) (f : Mailbox → Mailbox) (s : State) : (modMbx m f s).xback = s.xback := rfl
@[simp] theorem modMbx_cluster (m : Nat) (f : Mailbox → Mailbox) (s : State) : (modMbx m f s).cluster = s.cluster := rfl
@[simp] theorem modMbx_gate (m : Nat) (f : Mailbox → Mailbox) (s : State) : (modMbx m f s).gate = s.gate := rfl
@[simp] theorem modMbx_hp (m : Nat) (f : Mailbox → Mailbox) (s : State) : (modMbx m f s).hp = s.hp := rfl
@[simp] theorem modMbx_port (m : Nat) (f : Mailbox → Mailbox) (s : State) : (modMbx m f s).port = s.port := rfl
@[simp] theorem modMbx_tsv (m : Nat) (f : Mailbox → Mailbox) (s : State) : (modMbx m f s).tsv = s.tsv := rfl
@[simp] theorem modMbx_ctl (m : Nat) (f : Mailbox → Mailbox) (s : State) : (modMbx m f s).ctl = s.ctl := rfl
@[simp] theorem modMbx_core (m : Nat) (f : Mailbox → Mailbox) (s : State) : (modMbx m f s).core = s.core := rfl
@[simp] theorem modMbx_pf (m : Nat) (f : Mailbox → Mailbox) (s : State) : (modMbx m f s).pf = s.pf := rfl
@[simp] theorem modMbx_island (m : Nat) (f : Mailbox → Mailbox) (s : State) : (modMbx m f s).island = s.island := rfl
@[simp] theorem modMbx_st (m : Nat) (f : Mailbox → Mailbox) (s : State) : (modMbx m f s).st = s.st := rfl
theorem modMbx_modMbx_self (m : Nat) (f g : Mailbox → Mailbox) (s : State) :
    modMbx m f (modMbx m g s) = modMbx m (fun x => f (g x)) s := by
  simp only [modMbx, tmod_tmod]
@[simp] theorem getMbx_modMbx (m : Nat) (f : Mailbox → Mailbox) (j : Nat) (s : State) :
    getMbx (modMbx m f s) j = if j = m then f (getMbx s m) else getMbx s j := tget_tmod _ _ _ _ _
@[simp] theorem getCtx_modMbx (m : Nat) (f : Mailbox → Mailbox) (j : Nat) (s : State) : getCtx (modMbx m f s) j = getCtx s j := rfl
@[simp] theorem getFn_modMbx (m : Nat) (f : Mailbox → Mailbox) (j : Nat) (s : State) : getFn (modMbx m f s) j = getFn s j := rfl
@[simp] theorem getEng_modMbx (m : Nat) (f : Mailbox → Mailbox) (j : Nat) (s : State) : getEng (modMbx m f s) j = getEng s j := rfl
@[simp] theorem getPort_modMbx (m : Nat) (f : Mailbox → Mailbox) (j : Nat) (s : State) : getPort (modMbx m f s) j = getPort s j := rfl
@[simp] theorem getHp_modMbx (m : Nat) (f : Mailbox → Mailbox) (j : Nat) (s : State) : getHp (modMbx m f s) j = getHp s j := rfl
@[simp] theorem getClu_modMbx (m : Nat) (f : Mailbox → Mailbox) (j : Nat) (s : State) : getClu (modMbx m f s) j = getClu s j := rfl
@[simp] theorem getInst_modMbx (m : Nat) (f : Mailbox → Mailbox) (j : Nat) (s : State) : getInst (modMbx m f s) j = getInst s j := rfl
@[simp] theorem getCore_modMbx (m : Nat) (f : Mailbox → Mailbox) (j : Nat) (s : State) : getCore (modMbx m f s) j = getCore s j := rfl
@[simp] theorem getIsl_modMbx (m : Nat) (f : Mailbox → Mailbox) (j : Nat) (s : State) : getIsl (modMbx m f s) j = getIsl s j := rfl
@[simp] theorem getEngIsl_modMbx (m : Nat) (f : Mailbox → Mailbox) (j : Nat) (s : State) : getEngIsl (modMbx m f s) j = getEngIsl s j := rfl

/-! ### modIsl -/

@[simp] theorem modIsl_pending (i : Nat) (f : Island → Island) (s : State) : (modIsl i f s).pending = s.pending := rfl
@[simp] theorem modIsl_cfg (i : Nat) (f : Island → Island) (s : State) : (modIsl i f s).cfg = s.cfg := rfl
@[simp] theorem modIsl_free (i : Nat) (f : Island → Island) (s : State) : (modIsl i f s).free = s.free := rfl
@[simp] theorem modIsl_time (i : Nat) (f : Island → Island) (s : State) : (modIsl i f s).time = s.time := rfl
@[simp] theorem modIsl_seam (i : Nat) (f : Island → Island) (s : State) : (modIsl i f s).seam = s.seam := rfl
@[simp] theorem modIsl_inReset (i : Nat) (f : Island → Island) (s : State) : (modIsl i f s).inReset = s.inReset := rfl
@[simp] theorem modIsl_shadow (i : Nat) (f : Island → Island) (s : State) : (modIsl i f s).shadow = s.shadow := rfl
@[simp] theorem modIsl_active (i : Nat) (f : Island → Island) (s : State) : (modIsl i f s).active = s.active := rfl
@[simp] theorem modIsl_shpend (i : Nat) (f : Island → Island) (s : State) : (modIsl i f s).shpend = s.shpend := rfl
@[simp] theorem modIsl_shseam (i : Nat) (f : Island → Island) (s : State) : (modIsl i f s).shseam = s.shseam := rfl
@[simp] theorem modIsl_latch (i : Nat) (f : Island → Island) (s : State) : (modIsl i f s).latch = s.latch := rfl
@[simp] theorem modIsl_seen (i : Nat) (f : Island → Island) (s : State) : (modIsl i f s).seen = s.seen := rfl
@[simp] theorem modIsl_crossing (i : Nat) (f : Island → Island) (s : State) : (modIsl i f s).crossing = s.crossing := rfl
@[simp] theorem modIsl_soft (i : Nat) (f : Island → Island) (s : State) : (modIsl i f s).soft = s.soft := rfl
@[simp] theorem modIsl_pgood (i : Nat) (f : Island → Island) (s : State) : (modIsl i f s).pgood = s.pgood := rfl
@[simp] theorem modIsl_out (i : Nat) (f : Island → Island) (s : State) : (modIsl i f s).out = s.out := rfl
@[simp] theorem modIsl_dsp (i : Nat) (f : Island → Island) (s : State) : (modIsl i f s).dsp = s.dsp := rfl
@[simp] theorem modIsl_fn (i : Nat) (f : Island → Island) (s : State) : (modIsl i f s).fn = s.fn := rfl
@[simp] theorem modIsl_eng (i : Nat) (f : Island → Island) (s : State) : (modIsl i f s).eng = s.eng := rfl
@[simp] theorem modIsl_lock (i : Nat) (f : Island → Island) (s : State) : (modIsl i f s).lock = s.lock := rfl
@[simp] theorem modIsl_lm (i : Nat) (f : Island → Island) (s : State) : (modIsl i f s).lm = s.lm := rfl
@[simp] theorem modIsl_cread (i : Nat) (f : Island → Island) (s : State) : (modIsl i f s).cread = s.cread := rfl
@[simp] theorem modIsl_cmem (i : Nat) (f : Island → Island) (s : State) : (modIsl i f s).cmem = s.cmem := rfl
@[simp] theorem modIsl_cbuf (i : Nat) (f : Island → Island) (s : State) : (modIsl i f s).cbuf = s.cbuf := rfl
@[simp] theorem modIsl_cwait (i : Nat) (f : Island → Island) (s : State) : (modIsl i f s).cwait = s.cwait := rfl
@[simp] theorem modIsl_kram (i : Nat) (f : Island → Island) (s : State) : (modIsl i f s).kram = s.kram := rfl
@[simp] theorem modIsl_rsram (i : Nat) (f : Island → Island) (s : State) : (modIsl i f s).rsram = s.rsram := rfl
@[simp] theorem modIsl_ecc (i : Nat) (f : Island → Island) (s : State) : (modIsl i f s).ecc = s.ecc := rfl
@[simp] theorem modIsl_xbar (i : Nat) (f : Island → Island) (s : State) : (modIsl i f s).xbar = s.xbar := rfl
@[simp] theorem modIsl_xback (i : Nat) (f : Island → Island) (s : State) : (modIsl i f s).xback = s.xback := rfl
@[simp] theorem modIsl_cluster (i : Nat) (f : Island → Island) (s : State) : (modIsl i f s).cluster = s.cluster := rfl
@[simp] theorem modIsl_gate (i : Nat) (f : Island → Island) (s : State) : (modIsl i f s).gate = s.gate := rfl
@[simp] theorem modIsl_hp (i : Nat) (f : Island → Island) (s : State) : (modIsl i f s).hp = s.hp := rfl
@[simp] theorem modIsl_port (i : Nat) (f : Island → Island) (s : State) : (modIsl i f s).port = s.port := rfl
@[simp] theorem modIsl_tsv (i : Nat) (f : Island → Island) (s : State) : (modIsl i f s).tsv = s.tsv := rfl
@[simp] theorem modIsl_ctl (i : Nat) (f : Island → Island) (s : State) : (modIsl i f s).ctl = s.ctl := rfl
@[simp] theorem modIsl_mbx (i : Nat) (f : Island → Island) (s : State) : (modIsl i f s).mbx = s.mbx := rfl
@[simp] theorem modIsl_core (i : Nat) (f : Island → Island) (s : State) : (modIsl i f s).core = s.core := rfl
@[simp] theorem modIsl_pf (i : Nat) (f : Island → Island) (s : State) : (modIsl i f s).pf = s.pf := rfl
@[simp] theorem modIsl_st (i : Nat) (f : Island → Island) (s : State) : (modIsl i f s).st = s.st := rfl
theorem modIsl_modIsl_self (i : Nat) (f g : Island → Island) (s : State) :
    modIsl i f (modIsl i g s) = modIsl i (fun x => f (g x)) s := by
  simp only [modIsl, tmod_tmod]
@[simp] theorem getIsl_modIsl (i : Nat) (f : Island → Island) (j : Nat) (s : State) :
    getIsl (modIsl i f s) j = if j = i then f (getIsl s i) else getIsl s j := tget_tmod _ _ _ _ _
@[simp] theorem getCtx_modIsl (i : Nat) (f : Island → Island) (j : Nat) (s : State) : getCtx (modIsl i f s) j = getCtx s j := rfl
@[simp] theorem getFn_modIsl (i : Nat) (f : Island → Island) (j : Nat) (s : State) : getFn (modIsl i f s) j = getFn s j := rfl
@[simp] theorem getEng_modIsl (i : Nat) (f : Island → Island) (j : Nat) (s : State) : getEng (modIsl i f s) j = getEng s j := rfl
@[simp] theorem getPort_modIsl (i : Nat) (f : Island → Island) (j : Nat) (s : State) : getPort (modIsl i f s) j = getPort s j := rfl
@[simp] theorem getHp_modIsl (i : Nat) (f : Island → Island) (j : Nat) (s : State) : getHp (modIsl i f s) j = getHp s j := rfl
@[simp] theorem getClu_modIsl (i : Nat) (f : Island → Island) (j : Nat) (s : State) : getClu (modIsl i f s) j = getClu s j := rfl
@[simp] theorem getInst_modIsl (i : Nat) (f : Island → Island) (j : Nat) (s : State) : getInst (modIsl i f s) j = getInst s j := rfl
@[simp] theorem getCore_modIsl (i : Nat) (f : Island → Island) (j : Nat) (s : State) : getCore (modIsl i f s) j = getCore s j := rfl
@[simp] theorem getMbx_modIsl (i : Nat) (f : Island → Island) (j : Nat) (s : State) : getMbx (modIsl i f s) j = getMbx s j := rfl
@[simp] theorem getEngIsl_modIsl (i : Nat) (f : Island → Island) (j : Nat) (s : State) : getEngIsl (modIsl i f s) j = getEngIsl s j := rfl

/-! ### modEngIsl -/

@[simp] theorem modEngIsl_pending (k : Nat) (f : EngIsland → EngIsland) (s : State) : (modEngIsl k f s).pending = s.pending := rfl
@[simp] theorem modEngIsl_cfg (k : Nat) (f : EngIsland → EngIsland) (s : State) : (modEngIsl k f s).cfg = s.cfg := rfl
@[simp] theorem modEngIsl_free (k : Nat) (f : EngIsland → EngIsland) (s : State) : (modEngIsl k f s).free = s.free := rfl
@[simp] theorem modEngIsl_time (k : Nat) (f : EngIsland → EngIsland) (s : State) : (modEngIsl k f s).time = s.time := rfl
@[simp] theorem modEngIsl_seam (k : Nat) (f : EngIsland → EngIsland) (s : State) : (modEngIsl k f s).seam = s.seam := rfl
@[simp] theorem modEngIsl_inReset (k : Nat) (f : EngIsland → EngIsland) (s : State) : (modEngIsl k f s).inReset = s.inReset := rfl
@[simp] theorem modEngIsl_shadow (k : Nat) (f : EngIsland → EngIsland) (s : State) : (modEngIsl k f s).shadow = s.shadow := rfl
@[simp] theorem modEngIsl_active (k : Nat) (f : EngIsland → EngIsland) (s : State) : (modEngIsl k f s).active = s.active := rfl
@[simp] theorem modEngIsl_shpend (k : Nat) (f : EngIsland → EngIsland) (s : State) : (modEngIsl k f s).shpend = s.shpend := rfl
@[simp] theorem modEngIsl_shseam (k : Nat) (f : EngIsland → EngIsland) (s : State) : (modEngIsl k f s).shseam = s.shseam := rfl
@[simp] theorem modEngIsl_latch (k : Nat) (f : EngIsland → EngIsland) (s : State) : (modEngIsl k f s).latch = s.latch := rfl
@[simp] theorem modEngIsl_seen (k : Nat) (f : EngIsland → EngIsland) (s : State) : (modEngIsl k f s).seen = s.seen := rfl
@[simp] theorem modEngIsl_crossing (k : Nat) (f : EngIsland → EngIsland) (s : State) : (modEngIsl k f s).crossing = s.crossing := rfl
@[simp] theorem modEngIsl_soft (k : Nat) (f : EngIsland → EngIsland) (s : State) : (modEngIsl k f s).soft = s.soft := rfl
@[simp] theorem modEngIsl_pgood (k : Nat) (f : EngIsland → EngIsland) (s : State) : (modEngIsl k f s).pgood = s.pgood := rfl
@[simp] theorem modEngIsl_out (k : Nat) (f : EngIsland → EngIsland) (s : State) : (modEngIsl k f s).out = s.out := rfl
@[simp] theorem modEngIsl_dsp (k : Nat) (f : EngIsland → EngIsland) (s : State) : (modEngIsl k f s).dsp = s.dsp := rfl
@[simp] theorem modEngIsl_fn (k : Nat) (f : EngIsland → EngIsland) (s : State) : (modEngIsl k f s).fn = s.fn := rfl
@[simp] theorem modEngIsl_eng (k : Nat) (f : EngIsland → EngIsland) (s : State) : (modEngIsl k f s).eng = s.eng := rfl
@[simp] theorem modEngIsl_lock (k : Nat) (f : EngIsland → EngIsland) (s : State) : (modEngIsl k f s).lock = s.lock := rfl
@[simp] theorem modEngIsl_lm (k : Nat) (f : EngIsland → EngIsland) (s : State) : (modEngIsl k f s).lm = s.lm := rfl
@[simp] theorem modEngIsl_cread (k : Nat) (f : EngIsland → EngIsland) (s : State) : (modEngIsl k f s).cread = s.cread := rfl
@[simp] theorem modEngIsl_cmem (k : Nat) (f : EngIsland → EngIsland) (s : State) : (modEngIsl k f s).cmem = s.cmem := rfl
@[simp] theorem modEngIsl_cbuf (k : Nat) (f : EngIsland → EngIsland) (s : State) : (modEngIsl k f s).cbuf = s.cbuf := rfl
@[simp] theorem modEngIsl_cwait (k : Nat) (f : EngIsland → EngIsland) (s : State) : (modEngIsl k f s).cwait = s.cwait := rfl
@[simp] theorem modEngIsl_kram (k : Nat) (f : EngIsland → EngIsland) (s : State) : (modEngIsl k f s).kram = s.kram := rfl
@[simp] theorem modEngIsl_rsram (k : Nat) (f : EngIsland → EngIsland) (s : State) : (modEngIsl k f s).rsram = s.rsram := rfl
@[simp] theorem modEngIsl_ecc (k : Nat) (f : EngIsland → EngIsland) (s : State) : (modEngIsl k f s).ecc = s.ecc := rfl
@[simp] theorem modEngIsl_xbar (k : Nat) (f : EngIsland → EngIsland) (s : State) : (modEngIsl k f s).xbar = s.xbar := rfl
@[simp] theorem modEngIsl_xback (k : Nat) (f : EngIsland → EngIsland) (s : State) : (modEngIsl k f s).xback = s.xback := rfl
@[simp] theorem modEngIsl_cluster (k : Nat) (f : EngIsland → EngIsland) (s : State) : (modEngIsl k f s).cluster = s.cluster := rfl
@[simp] theorem modEngIsl_gate (k : Nat) (f : EngIsland → EngIsland) (s : State) : (modEngIsl k f s).gate = s.gate := rfl
@[simp] theorem modEngIsl_hp (k : Nat) (f : EngIsland → EngIsland) (s : State) : (modEngIsl k f s).hp = s.hp := rfl
@[simp] theorem modEngIsl_port (k : Nat) (f : EngIsland → EngIsland) (s : State) : (modEngIsl k f s).port = s.port := rfl
@[simp] theorem modEngIsl_tsv (k : Nat) (f : EngIsland → EngIsland) (s : State) : (modEngIsl k f s).tsv = s.tsv := rfl
@[simp] theorem modEngIsl_ctl (k : Nat) (f : EngIsland → EngIsland) (s : State) : (modEngIsl k f s).ctl = s.ctl := rfl
@[simp] theorem modEngIsl_mbx (k : Nat) (f : EngIsland → EngIsland) (s : State) : (modEngIsl k f s).mbx = s.mbx := rfl
@[simp] theorem modEngIsl_core (k : Nat) (f : EngIsland → EngIsland) (s : State) : (modEngIsl k f s).core = s.core := rfl
@[simp] theorem modEngIsl_pf (k : Nat) (f : EngIsland → EngIsland) (s : State) : (modEngIsl k f s).pf = s.pf := rfl
@[simp] theorem modEngIsl_island (k : Nat) (f : EngIsland → EngIsland) (s : State) : (modEngIsl k f s).island = s.island := rfl
@[simp] theorem modEngIsl_st_kind (k : Nat) (f : EngIsland → EngIsland) (s : State) : (modEngIsl k f s).st.kind = s.st.kind := rfl
@[simp] theorem modEngIsl_st_target (k : Nat) (f : EngIsland → EngIsland) (s : State) : (modEngIsl k f s).st.target = s.st.target := rfl
@[simp] theorem modEngIsl_st_busy (k : Nat) (f : EngIsland → EngIsland) (s : State) : (modEngIsl k f s).st.busy = s.st.busy := rfl
@[simp] theorem modEngIsl_st_done (k : Nat) (f : EngIsland → EngIsland) (s : State) : (modEngIsl k f s).st.done = s.st.done := rfl
@[simp] theorem modEngIsl_st_outcome (k : Nat) (f : EngIsland → EngIsland) (s : State) : (modEngIsl k f s).st.outcome = s.st.outcome := rfl
@[simp] theorem modEngIsl_st_lkind (k : Nat) (f : EngIsland → EngIsland) (s : State) : (modEngIsl k f s).st.lkind = s.st.lkind := rfl
@[simp] theorem modEngIsl_st_abandoned (k : Nat) (f : EngIsland → EngIsland) (s : State) : (modEngIsl k f s).st.abandoned = s.st.abandoned := rfl
@[simp] theorem modEngIsl_st_ltarget (k : Nat) (f : EngIsland → EngIsland) (s : State) : (modEngIsl k f s).st.ltarget = s.st.ltarget := rfl
@[simp] theorem modEngIsl_st_sig (k : Nat) (f : EngIsland → EngIsland) (s : State) : (modEngIsl k f s).st.sig = s.st.sig := rfl
@[simp] theorem modEngIsl_st_slotfail (k : Nat) (f : EngIsland → EngIsland) (s : State) : (modEngIsl k f s).st.slotfail = s.st.slotfail := rfl
@[simp] theorem modEngIsl_st_rows (k : Nat) (f : EngIsland → EngIsland) (s : State) : (modEngIsl k f s).st.rows = s.st.rows := rfl
@[simp] theorem modEngIsl_st_group (k : Nat) (f : EngIsland → EngIsland) (s : State) : (modEngIsl k f s).st.group = s.st.group := rfl
@[simp] theorem modEngIsl_st_failed (k : Nat) (f : EngIsland → EngIsland) (s : State) : (modEngIsl k f s).st.failed = s.st.failed := rfl
theorem modEngIsl_modEngIsl_self (k : Nat) (f g : EngIsland → EngIsland) (s : State) :
    modEngIsl k f (modEngIsl k g s) = modEngIsl k (fun x => f (g x)) s := by
  simp only [modEngIsl, tmod_tmod]
@[simp] theorem getEngIsl_modEngIsl (k : Nat) (f : EngIsland → EngIsland) (j : Nat) (s : State) :
    getEngIsl (modEngIsl k f s) j = if j = k then f (getEngIsl s k) else getEngIsl s j := tget_tmod _ _ _ _ _
@[simp] theorem getCtx_modEngIsl (k : Nat) (f : EngIsland → EngIsland) (j : Nat) (s : State) : getCtx (modEngIsl k f s) j = getCtx s j := rfl
@[simp] theorem getFn_modEngIsl (k : Nat) (f : EngIsland → EngIsland) (j : Nat) (s : State) : getFn (modEngIsl k f s) j = getFn s j := rfl
@[simp] theorem getEng_modEngIsl (k : Nat) (f : EngIsland → EngIsland) (j : Nat) (s : State) : getEng (modEngIsl k f s) j = getEng s j := rfl
@[simp] theorem getPort_modEngIsl (k : Nat) (f : EngIsland → EngIsland) (j : Nat) (s : State) : getPort (modEngIsl k f s) j = getPort s j := rfl
@[simp] theorem getHp_modEngIsl (k : Nat) (f : EngIsland → EngIsland) (j : Nat) (s : State) : getHp (modEngIsl k f s) j = getHp s j := rfl
@[simp] theorem getClu_modEngIsl (k : Nat) (f : EngIsland → EngIsland) (j : Nat) (s : State) : getClu (modEngIsl k f s) j = getClu s j := rfl
@[simp] theorem getInst_modEngIsl (k : Nat) (f : EngIsland → EngIsland) (j : Nat) (s : State) : getInst (modEngIsl k f s) j = getInst s j := rfl
@[simp] theorem getCore_modEngIsl (k : Nat) (f : EngIsland → EngIsland) (j : Nat) (s : State) : getCore (modEngIsl k f s) j = getCore s j := rfl
@[simp] theorem getMbx_modEngIsl (k : Nat) (f : EngIsland → EngIsland) (j : Nat) (s : State) : getMbx (modEngIsl k f s) j = getMbx s j := rfl
@[simp] theorem getIsl_modEngIsl (k : Nat) (f : EngIsland → EngIsland) (j : Nat) (s : State) : getIsl (modEngIsl k f s) j = getIsl s j := rfl

/-! ### modDsp -/

@[simp] theorem modDsp_pending (f : Dsp → Dsp) (s : State) : (modDsp f s).pending = s.pending := rfl
@[simp] theorem modDsp_cfg (f : Dsp → Dsp) (s : State) : (modDsp f s).cfg = s.cfg := rfl
@[simp] theorem modDsp_free (f : Dsp → Dsp) (s : State) : (modDsp f s).free = s.free := rfl
@[simp] theorem modDsp_time (f : Dsp → Dsp) (s : State) : (modDsp f s).time = s.time := rfl
@[simp] theorem modDsp_seam (f : Dsp → Dsp) (s : State) : (modDsp f s).seam = s.seam := rfl
@[simp] theorem modDsp_inReset (f : Dsp → Dsp) (s : State) : (modDsp f s).inReset = s.inReset := rfl
@[simp] theorem modDsp_shadow (f : Dsp → Dsp) (s : State) : (modDsp f s).shadow = s.shadow := rfl
@[simp] theorem modDsp_active (f : Dsp → Dsp) (s : State) : (modDsp f s).active = s.active := rfl
@[simp] theorem modDsp_shpend (f : Dsp → Dsp) (s : State) : (modDsp f s).shpend = s.shpend := rfl
@[simp] theorem modDsp_shseam (f : Dsp → Dsp) (s : State) : (modDsp f s).shseam = s.shseam := rfl
@[simp] theorem modDsp_latch (f : Dsp → Dsp) (s : State) : (modDsp f s).latch = s.latch := rfl
@[simp] theorem modDsp_seen (f : Dsp → Dsp) (s : State) : (modDsp f s).seen = s.seen := rfl
@[simp] theorem modDsp_crossing (f : Dsp → Dsp) (s : State) : (modDsp f s).crossing = s.crossing := rfl
@[simp] theorem modDsp_soft (f : Dsp → Dsp) (s : State) : (modDsp f s).soft = s.soft := rfl
@[simp] theorem modDsp_pgood (f : Dsp → Dsp) (s : State) : (modDsp f s).pgood = s.pgood := rfl
@[simp] theorem modDsp_out (f : Dsp → Dsp) (s : State) : (modDsp f s).out = s.out := rfl
@[simp] theorem modDsp_fn (f : Dsp → Dsp) (s : State) : (modDsp f s).fn = s.fn := rfl
@[simp] theorem modDsp_eng (f : Dsp → Dsp) (s : State) : (modDsp f s).eng = s.eng := rfl
@[simp] theorem modDsp_lock (f : Dsp → Dsp) (s : State) : (modDsp f s).lock = s.lock := rfl
@[simp] theorem modDsp_lm (f : Dsp → Dsp) (s : State) : (modDsp f s).lm = s.lm := rfl
@[simp] theorem modDsp_cread (f : Dsp → Dsp) (s : State) : (modDsp f s).cread = s.cread := rfl
@[simp] theorem modDsp_cmem (f : Dsp → Dsp) (s : State) : (modDsp f s).cmem = s.cmem := rfl
@[simp] theorem modDsp_cbuf (f : Dsp → Dsp) (s : State) : (modDsp f s).cbuf = s.cbuf := rfl
@[simp] theorem modDsp_cwait (f : Dsp → Dsp) (s : State) : (modDsp f s).cwait = s.cwait := rfl
@[simp] theorem modDsp_kram (f : Dsp → Dsp) (s : State) : (modDsp f s).kram = s.kram := rfl
@[simp] theorem modDsp_rsram (f : Dsp → Dsp) (s : State) : (modDsp f s).rsram = s.rsram := rfl
@[simp] theorem modDsp_ecc (f : Dsp → Dsp) (s : State) : (modDsp f s).ecc = s.ecc := rfl
@[simp] theorem modDsp_xbar (f : Dsp → Dsp) (s : State) : (modDsp f s).xbar = s.xbar := rfl
@[simp] theorem modDsp_xback (f : Dsp → Dsp) (s : State) : (modDsp f s).xback = s.xback := rfl
@[simp] theorem modDsp_cluster (f : Dsp → Dsp) (s : State) : (modDsp f s).cluster = s.cluster := rfl
@[simp] theorem modDsp_gate (f : Dsp → Dsp) (s : State) : (modDsp f s).gate = s.gate := rfl
@[simp] theorem modDsp_hp (f : Dsp → Dsp) (s : State) : (modDsp f s).hp = s.hp := rfl
@[simp] theorem modDsp_port (f : Dsp → Dsp) (s : State) : (modDsp f s).port = s.port := rfl
@[simp] theorem modDsp_tsv (f : Dsp → Dsp) (s : State) : (modDsp f s).tsv = s.tsv := rfl
@[simp] theorem modDsp_ctl (f : Dsp → Dsp) (s : State) : (modDsp f s).ctl = s.ctl := rfl
@[simp] theorem modDsp_mbx (f : Dsp → Dsp) (s : State) : (modDsp f s).mbx = s.mbx := rfl
@[simp] theorem modDsp_core (f : Dsp → Dsp) (s : State) : (modDsp f s).core = s.core := rfl
@[simp] theorem modDsp_pf (f : Dsp → Dsp) (s : State) : (modDsp f s).pf = s.pf := rfl
@[simp] theorem modDsp_island (f : Dsp → Dsp) (s : State) : (modDsp f s).island = s.island := rfl
@[simp] theorem modDsp_st (f : Dsp → Dsp) (s : State) : (modDsp f s).st = s.st := rfl
@[simp] theorem modDsp_dsp (f : Dsp → Dsp) (s : State) : (modDsp f s).dsp = f s.dsp := rfl
@[simp] theorem getFn_modDsp (f : Dsp → Dsp) (j : Nat) (s : State) : getFn (modDsp f s) j = getFn s j := rfl
@[simp] theorem getEng_modDsp (f : Dsp → Dsp) (j : Nat) (s : State) : getEng (modDsp f s) j = getEng s j := rfl
@[simp] theorem getPort_modDsp (f : Dsp → Dsp) (j : Nat) (s : State) : getPort (modDsp f s) j = getPort s j := rfl
@[simp] theorem getHp_modDsp (f : Dsp → Dsp) (j : Nat) (s : State) : getHp (modDsp f s) j = getHp s j := rfl
@[simp] theorem getClu_modDsp (f : Dsp → Dsp) (j : Nat) (s : State) : getClu (modDsp f s) j = getClu s j := rfl
@[simp] theorem getInst_modDsp (f : Dsp → Dsp) (j : Nat) (s : State) : getInst (modDsp f s) j = getInst s j := rfl
@[simp] theorem getCore_modDsp (f : Dsp → Dsp) (j : Nat) (s : State) : getCore (modDsp f s) j = getCore s j := rfl
@[simp] theorem getMbx_modDsp (f : Dsp → Dsp) (j : Nat) (s : State) : getMbx (modDsp f s) j = getMbx s j := rfl
@[simp] theorem getIsl_modDsp (f : Dsp → Dsp) (j : Nat) (s : State) : getIsl (modDsp f s) j = getIsl s j := rfl
@[simp] theorem getEngIsl_modDsp (f : Dsp → Dsp) (j : Nat) (s : State) : getEngIsl (modDsp f s) j = getEngIsl s j := rfl

/-! ### modCtl -/

@[simp] theorem modCtl_pending (f : Ctl → Ctl) (s : State) : (modCtl f s).pending = s.pending := rfl
@[simp] theorem modCtl_cfg (f : Ctl → Ctl) (s : State) : (modCtl f s).cfg = s.cfg := rfl
@[simp] theorem modCtl_free (f : Ctl → Ctl) (s : State) : (modCtl f s).free = s.free := rfl
@[simp] theorem modCtl_time (f : Ctl → Ctl) (s : State) : (modCtl f s).time = s.time := rfl
@[simp] theorem modCtl_seam (f : Ctl → Ctl) (s : State) : (modCtl f s).seam = s.seam := rfl
@[simp] theorem modCtl_inReset (f : Ctl → Ctl) (s : State) : (modCtl f s).inReset = s.inReset := rfl
@[simp] theorem modCtl_shadow (f : Ctl → Ctl) (s : State) : (modCtl f s).shadow = s.shadow := rfl
@[simp] theorem modCtl_active (f : Ctl → Ctl) (s : State) : (modCtl f s).active = s.active := rfl
@[simp] theorem modCtl_shpend (f : Ctl → Ctl) (s : State) : (modCtl f s).shpend = s.shpend := rfl
@[simp] theorem modCtl_shseam (f : Ctl → Ctl) (s : State) : (modCtl f s).shseam = s.shseam := rfl
@[simp] theorem modCtl_latch (f : Ctl → Ctl) (s : State) : (modCtl f s).latch = s.latch := rfl
@[simp] theorem modCtl_seen (f : Ctl → Ctl) (s : State) : (modCtl f s).seen = s.seen := rfl
@[simp] theorem modCtl_crossing (f : Ctl → Ctl) (s : State) : (modCtl f s).crossing = s.crossing := rfl
@[simp] theorem modCtl_soft (f : Ctl → Ctl) (s : State) : (modCtl f s).soft = s.soft := rfl
@[simp] theorem modCtl_pgood (f : Ctl → Ctl) (s : State) : (modCtl f s).pgood = s.pgood := rfl
@[simp] theorem modCtl_out (f : Ctl → Ctl) (s : State) : (modCtl f s).out = s.out := rfl
@[simp] theorem modCtl_dsp (f : Ctl → Ctl) (s : State) : (modCtl f s).dsp = s.dsp := rfl
@[simp] theorem modCtl_fn (f : Ctl → Ctl) (s : State) : (modCtl f s).fn = s.fn := rfl
@[simp] theorem modCtl_eng (f : Ctl → Ctl) (s : State) : (modCtl f s).eng = s.eng := rfl
@[simp] theorem modCtl_lock (f : Ctl → Ctl) (s : State) : (modCtl f s).lock = s.lock := rfl
@[simp] theorem modCtl_lm (f : Ctl → Ctl) (s : State) : (modCtl f s).lm = s.lm := rfl
@[simp] theorem modCtl_cread (f : Ctl → Ctl) (s : State) : (modCtl f s).cread = s.cread := rfl
@[simp] theorem modCtl_cmem (f : Ctl → Ctl) (s : State) : (modCtl f s).cmem = s.cmem := rfl
@[simp] theorem modCtl_cbuf (f : Ctl → Ctl) (s : State) : (modCtl f s).cbuf = s.cbuf := rfl
@[simp] theorem modCtl_cwait (f : Ctl → Ctl) (s : State) : (modCtl f s).cwait = s.cwait := rfl
@[simp] theorem modCtl_kram (f : Ctl → Ctl) (s : State) : (modCtl f s).kram = s.kram := rfl
@[simp] theorem modCtl_rsram (f : Ctl → Ctl) (s : State) : (modCtl f s).rsram = s.rsram := rfl
@[simp] theorem modCtl_ecc (f : Ctl → Ctl) (s : State) : (modCtl f s).ecc = s.ecc := rfl
@[simp] theorem modCtl_xbar (f : Ctl → Ctl) (s : State) : (modCtl f s).xbar = s.xbar := rfl
@[simp] theorem modCtl_xback (f : Ctl → Ctl) (s : State) : (modCtl f s).xback = s.xback := rfl
@[simp] theorem modCtl_cluster (f : Ctl → Ctl) (s : State) : (modCtl f s).cluster = s.cluster := rfl
@[simp] theorem modCtl_gate (f : Ctl → Ctl) (s : State) : (modCtl f s).gate = s.gate := rfl
@[simp] theorem modCtl_hp (f : Ctl → Ctl) (s : State) : (modCtl f s).hp = s.hp := rfl
@[simp] theorem modCtl_port (f : Ctl → Ctl) (s : State) : (modCtl f s).port = s.port := rfl
@[simp] theorem modCtl_tsv (f : Ctl → Ctl) (s : State) : (modCtl f s).tsv = s.tsv := rfl
@[simp] theorem modCtl_mbx (f : Ctl → Ctl) (s : State) : (modCtl f s).mbx = s.mbx := rfl
@[simp] theorem modCtl_core (f : Ctl → Ctl) (s : State) : (modCtl f s).core = s.core := rfl
@[simp] theorem modCtl_pf (f : Ctl → Ctl) (s : State) : (modCtl f s).pf = s.pf := rfl
@[simp] theorem modCtl_island (f : Ctl → Ctl) (s : State) : (modCtl f s).island = s.island := rfl
@[simp] theorem modCtl_st (f : Ctl → Ctl) (s : State) : (modCtl f s).st = s.st := rfl
@[simp] theorem modCtl_ctl (f : Ctl → Ctl) (s : State) : (modCtl f s).ctl = f s.ctl := rfl
@[simp] theorem getCtx_modCtl (f : Ctl → Ctl) (j : Nat) (s : State) : getCtx (modCtl f s) j = getCtx s j := rfl
@[simp] theorem getFn_modCtl (f : Ctl → Ctl) (j : Nat) (s : State) : getFn (modCtl f s) j = getFn s j := rfl
@[simp] theorem getEng_modCtl (f : Ctl → Ctl) (j : Nat) (s : State) : getEng (modCtl f s) j = getEng s j := rfl
@[simp] theorem getPort_modCtl (f : Ctl → Ctl) (j : Nat) (s : State) : getPort (modCtl f s) j = getPort s j := rfl
@[simp] theorem getHp_modCtl (f : Ctl → Ctl) (j : Nat) (s : State) : getHp (modCtl f s) j = getHp s j := rfl
@[simp] theorem getClu_modCtl (f : Ctl → Ctl) (j : Nat) (s : State) : getClu (modCtl f s) j = getClu s j := rfl
@[simp] theorem getInst_modCtl (f : Ctl → Ctl) (j : Nat) (s : State) : getInst (modCtl f s) j = getInst s j := rfl
@[simp] theorem getCore_modCtl (f : Ctl → Ctl) (j : Nat) (s : State) : getCore (modCtl f s) j = getCore s j := rfl
@[simp] theorem getMbx_modCtl (f : Ctl → Ctl) (j : Nat) (s : State) : getMbx (modCtl f s) j = getMbx s j := rfl
@[simp] theorem getIsl_modCtl (f : Ctl → Ctl) (j : Nat) (s : State) : getIsl (modCtl f s) j = getIsl s j := rfl
@[simp] theorem getEngIsl_modCtl (f : Ctl → Ctl) (j : Nat) (s : State) : getEngIsl (modCtl f s) j = getEngIsl s j := rfl

/-! ### modGate -/

@[simp] theorem modGate_pending (f : Gates → Gates) (s : State) : (modGate f s).pending = s.pending := rfl
@[simp] theorem modGate_cfg (f : Gates → Gates) (s : State) : (modGate f s).cfg = s.cfg := rfl
@[simp] theorem modGate_free (f : Gates → Gates) (s : State) : (modGate f s).free = s.free := rfl
@[simp] theorem modGate_time (f : Gates → Gates) (s : State) : (modGate f s).time = s.time := rfl
@[simp] theorem modGate_seam (f : Gates → Gates) (s : State) : (modGate f s).seam = s.seam := rfl
@[simp] theorem modGate_inReset (f : Gates → Gates) (s : State) : (modGate f s).inReset = s.inReset := rfl
@[simp] theorem modGate_shadow (f : Gates → Gates) (s : State) : (modGate f s).shadow = s.shadow := rfl
@[simp] theorem modGate_active (f : Gates → Gates) (s : State) : (modGate f s).active = s.active := rfl
@[simp] theorem modGate_shpend (f : Gates → Gates) (s : State) : (modGate f s).shpend = s.shpend := rfl
@[simp] theorem modGate_shseam (f : Gates → Gates) (s : State) : (modGate f s).shseam = s.shseam := rfl
@[simp] theorem modGate_latch (f : Gates → Gates) (s : State) : (modGate f s).latch = s.latch := rfl
@[simp] theorem modGate_seen (f : Gates → Gates) (s : State) : (modGate f s).seen = s.seen := rfl
@[simp] theorem modGate_crossing (f : Gates → Gates) (s : State) : (modGate f s).crossing = s.crossing := rfl
@[simp] theorem modGate_soft (f : Gates → Gates) (s : State) : (modGate f s).soft = s.soft := rfl
@[simp] theorem modGate_pgood (f : Gates → Gates) (s : State) : (modGate f s).pgood = s.pgood := rfl
@[simp] theorem modGate_out (f : Gates → Gates) (s : State) : (modGate f s).out = s.out := rfl
@[simp] theorem modGate_dsp (f : Gates → Gates) (s : State) : (modGate f s).dsp = s.dsp := rfl
@[simp] theorem modGate_fn (f : Gates → Gates) (s : State) : (modGate f s).fn = s.fn := rfl
@[simp] theorem modGate_eng (f : Gates → Gates) (s : State) : (modGate f s).eng = s.eng := rfl
@[simp] theorem modGate_lock (f : Gates → Gates) (s : State) : (modGate f s).lock = s.lock := rfl
@[simp] theorem modGate_lm (f : Gates → Gates) (s : State) : (modGate f s).lm = s.lm := rfl
@[simp] theorem modGate_cread (f : Gates → Gates) (s : State) : (modGate f s).cread = s.cread := rfl
@[simp] theorem modGate_cmem (f : Gates → Gates) (s : State) : (modGate f s).cmem = s.cmem := rfl
@[simp] theorem modGate_cbuf (f : Gates → Gates) (s : State) : (modGate f s).cbuf = s.cbuf := rfl
@[simp] theorem modGate_cwait (f : Gates → Gates) (s : State) : (modGate f s).cwait = s.cwait := rfl
@[simp] theorem modGate_kram (f : Gates → Gates) (s : State) : (modGate f s).kram = s.kram := rfl
@[simp] theorem modGate_rsram (f : Gates → Gates) (s : State) : (modGate f s).rsram = s.rsram := rfl
@[simp] theorem modGate_ecc (f : Gates → Gates) (s : State) : (modGate f s).ecc = s.ecc := rfl
@[simp] theorem modGate_xbar (f : Gates → Gates) (s : State) : (modGate f s).xbar = s.xbar := rfl
@[simp] theorem modGate_xback (f : Gates → Gates) (s : State) : (modGate f s).xback = s.xback := rfl
@[simp] theorem modGate_cluster (f : Gates → Gates) (s : State) : (modGate f s).cluster = s.cluster := rfl
@[simp] theorem modGate_hp (f : Gates → Gates) (s : State) : (modGate f s).hp = s.hp := rfl
@[simp] theorem modGate_port (f : Gates → Gates) (s : State) : (modGate f s).port = s.port := rfl
@[simp] theorem modGate_tsv (f : Gates → Gates) (s : State) : (modGate f s).tsv = s.tsv := rfl
@[simp] theorem modGate_ctl (f : Gates → Gates) (s : State) : (modGate f s).ctl = s.ctl := rfl
@[simp] theorem modGate_mbx (f : Gates → Gates) (s : State) : (modGate f s).mbx = s.mbx := rfl
@[simp] theorem modGate_core (f : Gates → Gates) (s : State) : (modGate f s).core = s.core := rfl
@[simp] theorem modGate_pf (f : Gates → Gates) (s : State) : (modGate f s).pf = s.pf := rfl
@[simp] theorem modGate_island (f : Gates → Gates) (s : State) : (modGate f s).island = s.island := rfl
@[simp] theorem modGate_st (f : Gates → Gates) (s : State) : (modGate f s).st = s.st := rfl
@[simp] theorem modGate_gate (f : Gates → Gates) (s : State) : (modGate f s).gate = f s.gate := rfl
@[simp] theorem getCtx_modGate (f : Gates → Gates) (j : Nat) (s : State) : getCtx (modGate f s) j = getCtx s j := rfl
@[simp] theorem getFn_modGate (f : Gates → Gates) (j : Nat) (s : State) : getFn (modGate f s) j = getFn s j := rfl
@[simp] theorem getEng_modGate (f : Gates → Gates) (j : Nat) (s : State) : getEng (modGate f s) j = getEng s j := rfl
@[simp] theorem getPort_modGate (f : Gates → Gates) (j : Nat) (s : State) : getPort (modGate f s) j = getPort s j := rfl
@[simp] theorem getHp_modGate (f : Gates → Gates) (j : Nat) (s : State) : getHp (modGate f s) j = getHp s j := rfl
@[simp] theorem getClu_modGate (f : Gates → Gates) (j : Nat) (s : State) : getClu (modGate f s) j = getClu s j := rfl
@[simp] theorem getInst_modGate (f : Gates → Gates) (j : Nat) (s : State) : getInst (modGate f s) j = getInst s j := rfl
@[simp] theorem getCore_modGate (f : Gates → Gates) (j : Nat) (s : State) : getCore (modGate f s) j = getCore s j := rfl
@[simp] theorem getMbx_modGate (f : Gates → Gates) (j : Nat) (s : State) : getMbx (modGate f s) j = getMbx s j := rfl
@[simp] theorem getIsl_modGate (f : Gates → Gates) (j : Nat) (s : State) : getIsl (modGate f s) j = getIsl s j := rfl
@[simp] theorem getEngIsl_modGate (f : Gates → Gates) (j : Nat) (s : State) : getEngIsl (modGate f s) j = getEngIsl s j := rfl

/-! ### modTsv -/

@[simp] theorem modTsv_pending (f : Tsv → Tsv) (s : State) : (modTsv f s).pending = s.pending := rfl
@[simp] theorem modTsv_cfg (f : Tsv → Tsv) (s : State) : (modTsv f s).cfg = s.cfg := rfl
@[simp] theorem modTsv_free (f : Tsv → Tsv) (s : State) : (modTsv f s).free = s.free := rfl
@[simp] theorem modTsv_time (f : Tsv → Tsv) (s : State) : (modTsv f s).time = s.time := rfl
@[simp] theorem modTsv_seam (f : Tsv → Tsv) (s : State) : (modTsv f s).seam = s.seam := rfl
@[simp] theorem modTsv_inReset (f : Tsv → Tsv) (s : State) : (modTsv f s).inReset = s.inReset := rfl
@[simp] theorem modTsv_shadow (f : Tsv → Tsv) (s : State) : (modTsv f s).shadow = s.shadow := rfl
@[simp] theorem modTsv_active (f : Tsv → Tsv) (s : State) : (modTsv f s).active = s.active := rfl
@[simp] theorem modTsv_shpend (f : Tsv → Tsv) (s : State) : (modTsv f s).shpend = s.shpend := rfl
@[simp] theorem modTsv_shseam (f : Tsv → Tsv) (s : State) : (modTsv f s).shseam = s.shseam := rfl
@[simp] theorem modTsv_latch (f : Tsv → Tsv) (s : State) : (modTsv f s).latch = s.latch := rfl
@[simp] theorem modTsv_seen (f : Tsv → Tsv) (s : State) : (modTsv f s).seen = s.seen := rfl
@[simp] theorem modTsv_crossing (f : Tsv → Tsv) (s : State) : (modTsv f s).crossing = s.crossing := rfl
@[simp] theorem modTsv_soft (f : Tsv → Tsv) (s : State) : (modTsv f s).soft = s.soft := rfl
@[simp] theorem modTsv_pgood (f : Tsv → Tsv) (s : State) : (modTsv f s).pgood = s.pgood := rfl
@[simp] theorem modTsv_out (f : Tsv → Tsv) (s : State) : (modTsv f s).out = s.out := rfl
@[simp] theorem modTsv_dsp (f : Tsv → Tsv) (s : State) : (modTsv f s).dsp = s.dsp := rfl
@[simp] theorem modTsv_fn (f : Tsv → Tsv) (s : State) : (modTsv f s).fn = s.fn := rfl
@[simp] theorem modTsv_eng (f : Tsv → Tsv) (s : State) : (modTsv f s).eng = s.eng := rfl
@[simp] theorem modTsv_lock (f : Tsv → Tsv) (s : State) : (modTsv f s).lock = s.lock := rfl
@[simp] theorem modTsv_lm (f : Tsv → Tsv) (s : State) : (modTsv f s).lm = s.lm := rfl
@[simp] theorem modTsv_cread (f : Tsv → Tsv) (s : State) : (modTsv f s).cread = s.cread := rfl
@[simp] theorem modTsv_cmem (f : Tsv → Tsv) (s : State) : (modTsv f s).cmem = s.cmem := rfl
@[simp] theorem modTsv_cbuf (f : Tsv → Tsv) (s : State) : (modTsv f s).cbuf = s.cbuf := rfl
@[simp] theorem modTsv_cwait (f : Tsv → Tsv) (s : State) : (modTsv f s).cwait = s.cwait := rfl
@[simp] theorem modTsv_kram (f : Tsv → Tsv) (s : State) : (modTsv f s).kram = s.kram := rfl
@[simp] theorem modTsv_rsram (f : Tsv → Tsv) (s : State) : (modTsv f s).rsram = s.rsram := rfl
@[simp] theorem modTsv_ecc (f : Tsv → Tsv) (s : State) : (modTsv f s).ecc = s.ecc := rfl
@[simp] theorem modTsv_xbar (f : Tsv → Tsv) (s : State) : (modTsv f s).xbar = s.xbar := rfl
@[simp] theorem modTsv_xback (f : Tsv → Tsv) (s : State) : (modTsv f s).xback = s.xback := rfl
@[simp] theorem modTsv_cluster (f : Tsv → Tsv) (s : State) : (modTsv f s).cluster = s.cluster := rfl
@[simp] theorem modTsv_gate (f : Tsv → Tsv) (s : State) : (modTsv f s).gate = s.gate := rfl
@[simp] theorem modTsv_hp (f : Tsv → Tsv) (s : State) : (modTsv f s).hp = s.hp := rfl
@[simp] theorem modTsv_port (f : Tsv → Tsv) (s : State) : (modTsv f s).port = s.port := rfl
@[simp] theorem modTsv_ctl (f : Tsv → Tsv) (s : State) : (modTsv f s).ctl = s.ctl := rfl
@[simp] theorem modTsv_mbx (f : Tsv → Tsv) (s : State) : (modTsv f s).mbx = s.mbx := rfl
@[simp] theorem modTsv_core (f : Tsv → Tsv) (s : State) : (modTsv f s).core = s.core := rfl
@[simp] theorem modTsv_pf (f : Tsv → Tsv) (s : State) : (modTsv f s).pf = s.pf := rfl
@[simp] theorem modTsv_island (f : Tsv → Tsv) (s : State) : (modTsv f s).island = s.island := rfl
@[simp] theorem modTsv_st (f : Tsv → Tsv) (s : State) : (modTsv f s).st = s.st := rfl
@[simp] theorem modTsv_tsv (f : Tsv → Tsv) (s : State) : (modTsv f s).tsv = f s.tsv := rfl
@[simp] theorem getCtx_modTsv (f : Tsv → Tsv) (j : Nat) (s : State) : getCtx (modTsv f s) j = getCtx s j := rfl
@[simp] theorem getFn_modTsv (f : Tsv → Tsv) (j : Nat) (s : State) : getFn (modTsv f s) j = getFn s j := rfl
@[simp] theorem getEng_modTsv (f : Tsv → Tsv) (j : Nat) (s : State) : getEng (modTsv f s) j = getEng s j := rfl
@[simp] theorem getPort_modTsv (f : Tsv → Tsv) (j : Nat) (s : State) : getPort (modTsv f s) j = getPort s j := rfl
@[simp] theorem getHp_modTsv (f : Tsv → Tsv) (j : Nat) (s : State) : getHp (modTsv f s) j = getHp s j := rfl
@[simp] theorem getClu_modTsv (f : Tsv → Tsv) (j : Nat) (s : State) : getClu (modTsv f s) j = getClu s j := rfl
@[simp] theorem getCore_modTsv (f : Tsv → Tsv) (j : Nat) (s : State) : getCore (modTsv f s) j = getCore s j := rfl
@[simp] theorem getMbx_modTsv (f : Tsv → Tsv) (j : Nat) (s : State) : getMbx (modTsv f s) j = getMbx s j := rfl
@[simp] theorem getIsl_modTsv (f : Tsv → Tsv) (j : Nat) (s : State) : getIsl (modTsv f s) j = getIsl s j := rfl
@[simp] theorem getEngIsl_modTsv (f : Tsv → Tsv) (j : Nat) (s : State) : getEngIsl (modTsv f s) j = getEngIsl s j := rfl

/-! ### modLock -/

@[simp] theorem modLock_pending (f : Locks → Locks) (s : State) : (modLock f s).pending = s.pending := rfl
@[simp] theorem modLock_cfg (f : Locks → Locks) (s : State) : (modLock f s).cfg = s.cfg := rfl
@[simp] theorem modLock_free (f : Locks → Locks) (s : State) : (modLock f s).free = s.free := rfl
@[simp] theorem modLock_time (f : Locks → Locks) (s : State) : (modLock f s).time = s.time := rfl
@[simp] theorem modLock_seam (f : Locks → Locks) (s : State) : (modLock f s).seam = s.seam := rfl
@[simp] theorem modLock_inReset (f : Locks → Locks) (s : State) : (modLock f s).inReset = s.inReset := rfl
@[simp] theorem modLock_shadow (f : Locks → Locks) (s : State) : (modLock f s).shadow = s.shadow := rfl
@[simp] theorem modLock_active (f : Locks → Locks) (s : State) : (modLock f s).active = s.active := rfl
@[simp] theorem modLock_shpend (f : Locks → Locks) (s : State) : (modLock f s).shpend = s.shpend := rfl
@[simp] theorem modLock_shseam (f : Locks → Locks) (s : State) : (modLock f s).shseam = s.shseam := rfl
@[simp] theorem modLock_latch (f : Locks → Locks) (s : State) : (modLock f s).latch = s.latch := rfl
@[simp] theorem modLock_seen (f : Locks → Locks) (s : State) : (modLock f s).seen = s.seen := rfl
@[simp] theorem modLock_crossing (f : Locks → Locks) (s : State) : (modLock f s).crossing = s.crossing := rfl
@[simp] theorem modLock_soft (f : Locks → Locks) (s : State) : (modLock f s).soft = s.soft := rfl
@[simp] theorem modLock_pgood (f : Locks → Locks) (s : State) : (modLock f s).pgood = s.pgood := rfl
@[simp] theorem modLock_out (f : Locks → Locks) (s : State) : (modLock f s).out = s.out := rfl
@[simp] theorem modLock_dsp (f : Locks → Locks) (s : State) : (modLock f s).dsp = s.dsp := rfl
@[simp] theorem modLock_fn (f : Locks → Locks) (s : State) : (modLock f s).fn = s.fn := rfl
@[simp] theorem modLock_eng (f : Locks → Locks) (s : State) : (modLock f s).eng = s.eng := rfl
@[simp] theorem modLock_lm (f : Locks → Locks) (s : State) : (modLock f s).lm = s.lm := rfl
@[simp] theorem modLock_cread (f : Locks → Locks) (s : State) : (modLock f s).cread = s.cread := rfl
@[simp] theorem modLock_cmem (f : Locks → Locks) (s : State) : (modLock f s).cmem = s.cmem := rfl
@[simp] theorem modLock_cbuf (f : Locks → Locks) (s : State) : (modLock f s).cbuf = s.cbuf := rfl
@[simp] theorem modLock_cwait (f : Locks → Locks) (s : State) : (modLock f s).cwait = s.cwait := rfl
@[simp] theorem modLock_kram (f : Locks → Locks) (s : State) : (modLock f s).kram = s.kram := rfl
@[simp] theorem modLock_rsram (f : Locks → Locks) (s : State) : (modLock f s).rsram = s.rsram := rfl
@[simp] theorem modLock_ecc (f : Locks → Locks) (s : State) : (modLock f s).ecc = s.ecc := rfl
@[simp] theorem modLock_xbar (f : Locks → Locks) (s : State) : (modLock f s).xbar = s.xbar := rfl
@[simp] theorem modLock_xback (f : Locks → Locks) (s : State) : (modLock f s).xback = s.xback := rfl
@[simp] theorem modLock_cluster (f : Locks → Locks) (s : State) : (modLock f s).cluster = s.cluster := rfl
@[simp] theorem modLock_gate (f : Locks → Locks) (s : State) : (modLock f s).gate = s.gate := rfl
@[simp] theorem modLock_hp (f : Locks → Locks) (s : State) : (modLock f s).hp = s.hp := rfl
@[simp] theorem modLock_port (f : Locks → Locks) (s : State) : (modLock f s).port = s.port := rfl
@[simp] theorem modLock_tsv (f : Locks → Locks) (s : State) : (modLock f s).tsv = s.tsv := rfl
@[simp] theorem modLock_ctl (f : Locks → Locks) (s : State) : (modLock f s).ctl = s.ctl := rfl
@[simp] theorem modLock_mbx (f : Locks → Locks) (s : State) : (modLock f s).mbx = s.mbx := rfl
@[simp] theorem modLock_core (f : Locks → Locks) (s : State) : (modLock f s).core = s.core := rfl
@[simp] theorem modLock_pf (f : Locks → Locks) (s : State) : (modLock f s).pf = s.pf := rfl
@[simp] theorem modLock_island (f : Locks → Locks) (s : State) : (modLock f s).island = s.island := rfl
@[simp] theorem modLock_st (f : Locks → Locks) (s : State) : (modLock f s).st = s.st := rfl
@[simp] theorem modLock_lock (f : Locks → Locks) (s : State) : (modLock f s).lock = f s.lock := rfl
@[simp] theorem getCtx_modLock (f : Locks → Locks) (j : Nat) (s : State) : getCtx (modLock f s) j = getCtx s j := rfl
@[simp] theorem getFn_modLock (f : Locks → Locks) (j : Nat) (s : State) : getFn (modLock f s) j = getFn s j := rfl
@[simp] theorem getEng_modLock (f : Locks → Locks) (j : Nat) (s : State) : getEng (modLock f s) j = getEng s j := rfl
@[simp] theorem getPort_modLock (f : Locks → Locks) (j : Nat) (s : State) : getPort (modLock f s) j = getPort s j := rfl
@[simp] theorem getHp_modLock (f : Locks → Locks) (j : Nat) (s : State) : getHp (modLock f s) j = getHp s j := rfl
@[simp] theorem getClu_modLock (f : Locks → Locks) (j : Nat) (s : State) : getClu (modLock f s) j = getClu s j := rfl
@[simp] theorem getInst_modLock (f : Locks → Locks) (j : Nat) (s : State) : getInst (modLock f s) j = getInst s j := rfl
@[simp] theorem getCore_modLock (f : Locks → Locks) (j : Nat) (s : State) : getCore (modLock f s) j = getCore s j := rfl
@[simp] theorem getMbx_modLock (f : Locks → Locks) (j : Nat) (s : State) : getMbx (modLock f s) j = getMbx s j := rfl
@[simp] theorem getIsl_modLock (f : Locks → Locks) (j : Nat) (s : State) : getIsl (modLock f s) j = getIsl s j := rfl
@[simp] theorem getEngIsl_modLock (f : Locks → Locks) (j : Nat) (s : State) : getEngIsl (modLock f s) j = getEngIsl s j := rfl

/-! ### modXbar -/

@[simp] theorem modXbar_pending (f : Xbar → Xbar) (s : State) : (modXbar f s).pending = s.pending := rfl
@[simp] theorem modXbar_cfg (f : Xbar → Xbar) (s : State) : (modXbar f s).cfg = s.cfg := rfl
@[simp] theorem modXbar_free (f : Xbar → Xbar) (s : State) : (modXbar f s).free = s.free := rfl
@[simp] theorem modXbar_time (f : Xbar → Xbar) (s : State) : (modXbar f s).time = s.time := rfl
@[simp] theorem modXbar_seam (f : Xbar → Xbar) (s : State) : (modXbar f s).seam = s.seam := rfl
@[simp] theorem modXbar_inReset (f : Xbar → Xbar) (s : State) : (modXbar f s).inReset = s.inReset := rfl
@[simp] theorem modXbar_shadow (f : Xbar → Xbar) (s : State) : (modXbar f s).shadow = s.shadow := rfl
@[simp] theorem modXbar_active (f : Xbar → Xbar) (s : State) : (modXbar f s).active = s.active := rfl
@[simp] theorem modXbar_shpend (f : Xbar → Xbar) (s : State) : (modXbar f s).shpend = s.shpend := rfl
@[simp] theorem modXbar_shseam (f : Xbar → Xbar) (s : State) : (modXbar f s).shseam = s.shseam := rfl
@[simp] theorem modXbar_latch (f : Xbar → Xbar) (s : State) : (modXbar f s).latch = s.latch := rfl
@[simp] theorem modXbar_seen (f : Xbar → Xbar) (s : State) : (modXbar f s).seen = s.seen := rfl
@[simp] theorem modXbar_crossing (f : Xbar → Xbar) (s : State) : (modXbar f s).crossing = s.crossing := rfl
@[simp] theorem modXbar_soft (f : Xbar → Xbar) (s : State) : (modXbar f s).soft = s.soft := rfl
@[simp] theorem modXbar_pgood (f : Xbar → Xbar) (s : State) : (modXbar f s).pgood = s.pgood := rfl
@[simp] theorem modXbar_out (f : Xbar → Xbar) (s : State) : (modXbar f s).out = s.out := rfl
@[simp] theorem modXbar_dsp (f : Xbar → Xbar) (s : State) : (modXbar f s).dsp = s.dsp := rfl
@[simp] theorem modXbar_fn (f : Xbar → Xbar) (s : State) : (modXbar f s).fn = s.fn := rfl
@[simp] theorem modXbar_eng (f : Xbar → Xbar) (s : State) : (modXbar f s).eng = s.eng := rfl
@[simp] theorem modXbar_lock (f : Xbar → Xbar) (s : State) : (modXbar f s).lock = s.lock := rfl
@[simp] theorem modXbar_lm (f : Xbar → Xbar) (s : State) : (modXbar f s).lm = s.lm := rfl
@[simp] theorem modXbar_cread (f : Xbar → Xbar) (s : State) : (modXbar f s).cread = s.cread := rfl
@[simp] theorem modXbar_cmem (f : Xbar → Xbar) (s : State) : (modXbar f s).cmem = s.cmem := rfl
@[simp] theorem modXbar_cbuf (f : Xbar → Xbar) (s : State) : (modXbar f s).cbuf = s.cbuf := rfl
@[simp] theorem modXbar_cwait (f : Xbar → Xbar) (s : State) : (modXbar f s).cwait = s.cwait := rfl
@[simp] theorem modXbar_kram (f : Xbar → Xbar) (s : State) : (modXbar f s).kram = s.kram := rfl
@[simp] theorem modXbar_rsram (f : Xbar → Xbar) (s : State) : (modXbar f s).rsram = s.rsram := rfl
@[simp] theorem modXbar_ecc (f : Xbar → Xbar) (s : State) : (modXbar f s).ecc = s.ecc := rfl
@[simp] theorem modXbar_xback (f : Xbar → Xbar) (s : State) : (modXbar f s).xback = s.xback := rfl
@[simp] theorem modXbar_cluster (f : Xbar → Xbar) (s : State) : (modXbar f s).cluster = s.cluster := rfl
@[simp] theorem modXbar_gate (f : Xbar → Xbar) (s : State) : (modXbar f s).gate = s.gate := rfl
@[simp] theorem modXbar_hp (f : Xbar → Xbar) (s : State) : (modXbar f s).hp = s.hp := rfl
@[simp] theorem modXbar_port (f : Xbar → Xbar) (s : State) : (modXbar f s).port = s.port := rfl
@[simp] theorem modXbar_tsv (f : Xbar → Xbar) (s : State) : (modXbar f s).tsv = s.tsv := rfl
@[simp] theorem modXbar_ctl (f : Xbar → Xbar) (s : State) : (modXbar f s).ctl = s.ctl := rfl
@[simp] theorem modXbar_mbx (f : Xbar → Xbar) (s : State) : (modXbar f s).mbx = s.mbx := rfl
@[simp] theorem modXbar_core (f : Xbar → Xbar) (s : State) : (modXbar f s).core = s.core := rfl
@[simp] theorem modXbar_pf (f : Xbar → Xbar) (s : State) : (modXbar f s).pf = s.pf := rfl
@[simp] theorem modXbar_island (f : Xbar → Xbar) (s : State) : (modXbar f s).island = s.island := rfl
@[simp] theorem modXbar_st (f : Xbar → Xbar) (s : State) : (modXbar f s).st = s.st := rfl
@[simp] theorem modXbar_xbar (f : Xbar → Xbar) (s : State) : (modXbar f s).xbar = f s.xbar := rfl
@[simp] theorem getCtx_modXbar (f : Xbar → Xbar) (j : Nat) (s : State) : getCtx (modXbar f s) j = getCtx s j := rfl
@[simp] theorem getFn_modXbar (f : Xbar → Xbar) (j : Nat) (s : State) : getFn (modXbar f s) j = getFn s j := rfl
@[simp] theorem getEng_modXbar (f : Xbar → Xbar) (j : Nat) (s : State) : getEng (modXbar f s) j = getEng s j := rfl
@[simp] theorem getPort_modXbar (f : Xbar → Xbar) (j : Nat) (s : State) : getPort (modXbar f s) j = getPort s j := rfl
@[simp] theorem getHp_modXbar (f : Xbar → Xbar) (j : Nat) (s : State) : getHp (modXbar f s) j = getHp s j := rfl
@[simp] theorem getClu_modXbar (f : Xbar → Xbar) (j : Nat) (s : State) : getClu (modXbar f s) j = getClu s j := rfl
@[simp] theorem getInst_modXbar (f : Xbar → Xbar) (j : Nat) (s : State) : getInst (modXbar f s) j = getInst s j := rfl
@[simp] theorem getCore_modXbar (f : Xbar → Xbar) (j : Nat) (s : State) : getCore (modXbar f s) j = getCore s j := rfl
@[simp] theorem getMbx_modXbar (f : Xbar → Xbar) (j : Nat) (s : State) : getMbx (modXbar f s) j = getMbx s j := rfl
@[simp] theorem getIsl_modXbar (f : Xbar → Xbar) (j : Nat) (s : State) : getIsl (modXbar f s) j = getIsl s j := rfl
@[simp] theorem getEngIsl_modXbar (f : Xbar → Xbar) (j : Nat) (s : State) : getEngIsl (modXbar f s) j = getEngIsl s j := rfl

/-! ### modPf -/

@[simp] theorem modPf_pending (f : PowerFail → PowerFail) (s : State) : (modPf f s).pending = s.pending := rfl
@[simp] theorem modPf_cfg (f : PowerFail → PowerFail) (s : State) : (modPf f s).cfg = s.cfg := rfl
@[simp] theorem modPf_free (f : PowerFail → PowerFail) (s : State) : (modPf f s).free = s.free := rfl
@[simp] theorem modPf_time (f : PowerFail → PowerFail) (s : State) : (modPf f s).time = s.time := rfl
@[simp] theorem modPf_seam (f : PowerFail → PowerFail) (s : State) : (modPf f s).seam = s.seam := rfl
@[simp] theorem modPf_inReset (f : PowerFail → PowerFail) (s : State) : (modPf f s).inReset = s.inReset := rfl
@[simp] theorem modPf_shadow (f : PowerFail → PowerFail) (s : State) : (modPf f s).shadow = s.shadow := rfl
@[simp] theorem modPf_active (f : PowerFail → PowerFail) (s : State) : (modPf f s).active = s.active := rfl
@[simp] theorem modPf_shpend (f : PowerFail → PowerFail) (s : State) : (modPf f s).shpend = s.shpend := rfl
@[simp] theorem modPf_shseam (f : PowerFail → PowerFail) (s : State) : (modPf f s).shseam = s.shseam := rfl
@[simp] theorem modPf_latch (f : PowerFail → PowerFail) (s : State) : (modPf f s).latch = s.latch := rfl
@[simp] theorem modPf_seen (f : PowerFail → PowerFail) (s : State) : (modPf f s).seen = s.seen := rfl
@[simp] theorem modPf_crossing (f : PowerFail → PowerFail) (s : State) : (modPf f s).crossing = s.crossing := rfl
@[simp] theorem modPf_soft (f : PowerFail → PowerFail) (s : State) : (modPf f s).soft = s.soft := rfl
@[simp] theorem modPf_pgood (f : PowerFail → PowerFail) (s : State) : (modPf f s).pgood = s.pgood := rfl
@[simp] theorem modPf_out (f : PowerFail → PowerFail) (s : State) : (modPf f s).out = s.out := rfl
@[simp] theorem modPf_dsp (f : PowerFail → PowerFail) (s : State) : (modPf f s).dsp = s.dsp := rfl
@[simp] theorem modPf_fn (f : PowerFail → PowerFail) (s : State) : (modPf f s).fn = s.fn := rfl
@[simp] theorem modPf_eng (f : PowerFail → PowerFail) (s : State) : (modPf f s).eng = s.eng := rfl
@[simp] theorem modPf_lock (f : PowerFail → PowerFail) (s : State) : (modPf f s).lock = s.lock := rfl
@[simp] theorem modPf_lm (f : PowerFail → PowerFail) (s : State) : (modPf f s).lm = s.lm := rfl
@[simp] theorem modPf_cread (f : PowerFail → PowerFail) (s : State) : (modPf f s).cread = s.cread := rfl
@[simp] theorem modPf_cmem (f : PowerFail → PowerFail) (s : State) : (modPf f s).cmem = s.cmem := rfl
@[simp] theorem modPf_cbuf (f : PowerFail → PowerFail) (s : State) : (modPf f s).cbuf = s.cbuf := rfl
@[simp] theorem modPf_cwait (f : PowerFail → PowerFail) (s : State) : (modPf f s).cwait = s.cwait := rfl
@[simp] theorem modPf_kram (f : PowerFail → PowerFail) (s : State) : (modPf f s).kram = s.kram := rfl
@[simp] theorem modPf_rsram (f : PowerFail → PowerFail) (s : State) : (modPf f s).rsram = s.rsram := rfl
@[simp] theorem modPf_ecc (f : PowerFail → PowerFail) (s : State) : (modPf f s).ecc = s.ecc := rfl
@[simp] theorem modPf_xbar (f : PowerFail → PowerFail) (s : State) : (modPf f s).xbar = s.xbar := rfl
@[simp] theorem modPf_xback (f : PowerFail → PowerFail) (s : State) : (modPf f s).xback = s.xback := rfl
@[simp] theorem modPf_cluster (f : PowerFail → PowerFail) (s : State) : (modPf f s).cluster = s.cluster := rfl
@[simp] theorem modPf_gate (f : PowerFail → PowerFail) (s : State) : (modPf f s).gate = s.gate := rfl
@[simp] theorem modPf_hp (f : PowerFail → PowerFail) (s : State) : (modPf f s).hp = s.hp := rfl
@[simp] theorem modPf_port (f : PowerFail → PowerFail) (s : State) : (modPf f s).port = s.port := rfl
@[simp] theorem modPf_tsv (f : PowerFail → PowerFail) (s : State) : (modPf f s).tsv = s.tsv := rfl
@[simp] theorem modPf_ctl (f : PowerFail → PowerFail) (s : State) : (modPf f s).ctl = s.ctl := rfl
@[simp] theorem modPf_mbx (f : PowerFail → PowerFail) (s : State) : (modPf f s).mbx = s.mbx := rfl
@[simp] theorem modPf_core (f : PowerFail → PowerFail) (s : State) : (modPf f s).core = s.core := rfl
@[simp] theorem modPf_island (f : PowerFail → PowerFail) (s : State) : (modPf f s).island = s.island := rfl
@[simp] theorem modPf_st (f : PowerFail → PowerFail) (s : State) : (modPf f s).st = s.st := rfl
@[simp] theorem modPf_pf (f : PowerFail → PowerFail) (s : State) : (modPf f s).pf = f s.pf := rfl
@[simp] theorem getCtx_modPf (f : PowerFail → PowerFail) (j : Nat) (s : State) : getCtx (modPf f s) j = getCtx s j := rfl
@[simp] theorem getFn_modPf (f : PowerFail → PowerFail) (j : Nat) (s : State) : getFn (modPf f s) j = getFn s j := rfl
@[simp] theorem getEng_modPf (f : PowerFail → PowerFail) (j : Nat) (s : State) : getEng (modPf f s) j = getEng s j := rfl
@[simp] theorem getPort_modPf (f : PowerFail → PowerFail) (j : Nat) (s : State) : getPort (modPf f s) j = getPort s j := rfl
@[simp] theorem getHp_modPf (f : PowerFail → PowerFail) (j : Nat) (s : State) : getHp (modPf f s) j = getHp s j := rfl
@[simp] theorem getClu_modPf (f : PowerFail → PowerFail) (j : Nat) (s : State) : getClu (modPf f s) j = getClu s j := rfl
@[simp] theorem getInst_modPf (f : PowerFail → PowerFail) (j : Nat) (s : State) : getInst (modPf f s) j = getInst s j := rfl
@[simp] theorem getCore_modPf (f : PowerFail → PowerFail) (j : Nat) (s : State) : getCore (modPf f s) j = getCore s j := rfl
@[simp] theorem getMbx_modPf (f : PowerFail → PowerFail) (j : Nat) (s : State) : getMbx (modPf f s) j = getMbx s j := rfl
@[simp] theorem getIsl_modPf (f : PowerFail → PowerFail) (j : Nat) (s : State) : getIsl (modPf f s) j = getIsl s j := rfl
@[simp] theorem getEngIsl_modPf (f : PowerFail → PowerFail) (j : Nat) (s : State) : getEngIsl (modPf f s) j = getEngIsl s j := rfl

/-! ### modOut -/

@[simp] theorem modOut_pending (f : Outputs → Outputs) (s : State) : (modOut f s).pending = s.pending := rfl
@[simp] theorem modOut_cfg (f : Outputs → Outputs) (s : State) : (modOut f s).cfg = s.cfg := rfl
@[simp] theorem modOut_free (f : Outputs → Outputs) (s : State) : (modOut f s).free = s.free := rfl
@[simp] theorem modOut_time (f : Outputs → Outputs) (s : State) : (modOut f s).time = s.time := rfl
@[simp] theorem modOut_seam (f : Outputs → Outputs) (s : State) : (modOut f s).seam = s.seam := rfl
@[simp] theorem modOut_inReset (f : Outputs → Outputs) (s : State) : (modOut f s).inReset = s.inReset := rfl
@[simp] theorem modOut_shadow (f : Outputs → Outputs) (s : State) : (modOut f s).shadow = s.shadow := rfl
@[simp] theorem modOut_active (f : Outputs → Outputs) (s : State) : (modOut f s).active = s.active := rfl
@[simp] theorem modOut_shpend (f : Outputs → Outputs) (s : State) : (modOut f s).shpend = s.shpend := rfl
@[simp] theorem modOut_shseam (f : Outputs → Outputs) (s : State) : (modOut f s).shseam = s.shseam := rfl
@[simp] theorem modOut_latch (f : Outputs → Outputs) (s : State) : (modOut f s).latch = s.latch := rfl
@[simp] theorem modOut_seen (f : Outputs → Outputs) (s : State) : (modOut f s).seen = s.seen := rfl
@[simp] theorem modOut_crossing (f : Outputs → Outputs) (s : State) : (modOut f s).crossing = s.crossing := rfl
@[simp] theorem modOut_soft (f : Outputs → Outputs) (s : State) : (modOut f s).soft = s.soft := rfl
@[simp] theorem modOut_pgood (f : Outputs → Outputs) (s : State) : (modOut f s).pgood = s.pgood := rfl
@[simp] theorem modOut_dsp (f : Outputs → Outputs) (s : State) : (modOut f s).dsp = s.dsp := rfl
@[simp] theorem modOut_fn (f : Outputs → Outputs) (s : State) : (modOut f s).fn = s.fn := rfl
@[simp] theorem modOut_eng (f : Outputs → Outputs) (s : State) : (modOut f s).eng = s.eng := rfl
@[simp] theorem modOut_lock (f : Outputs → Outputs) (s : State) : (modOut f s).lock = s.lock := rfl
@[simp] theorem modOut_lm (f : Outputs → Outputs) (s : State) : (modOut f s).lm = s.lm := rfl
@[simp] theorem modOut_cread (f : Outputs → Outputs) (s : State) : (modOut f s).cread = s.cread := rfl
@[simp] theorem modOut_cmem (f : Outputs → Outputs) (s : State) : (modOut f s).cmem = s.cmem := rfl
@[simp] theorem modOut_cbuf (f : Outputs → Outputs) (s : State) : (modOut f s).cbuf = s.cbuf := rfl
@[simp] theorem modOut_cwait (f : Outputs → Outputs) (s : State) : (modOut f s).cwait = s.cwait := rfl
@[simp] theorem modOut_kram (f : Outputs → Outputs) (s : State) : (modOut f s).kram = s.kram := rfl
@[simp] theorem modOut_rsram (f : Outputs → Outputs) (s : State) : (modOut f s).rsram = s.rsram := rfl
@[simp] theorem modOut_ecc (f : Outputs → Outputs) (s : State) : (modOut f s).ecc = s.ecc := rfl
@[simp] theorem modOut_xbar (f : Outputs → Outputs) (s : State) : (modOut f s).xbar = s.xbar := rfl
@[simp] theorem modOut_xback (f : Outputs → Outputs) (s : State) : (modOut f s).xback = s.xback := rfl
@[simp] theorem modOut_cluster (f : Outputs → Outputs) (s : State) : (modOut f s).cluster = s.cluster := rfl
@[simp] theorem modOut_gate (f : Outputs → Outputs) (s : State) : (modOut f s).gate = s.gate := rfl
@[simp] theorem modOut_hp (f : Outputs → Outputs) (s : State) : (modOut f s).hp = s.hp := rfl
@[simp] theorem modOut_port (f : Outputs → Outputs) (s : State) : (modOut f s).port = s.port := rfl
@[simp] theorem modOut_tsv (f : Outputs → Outputs) (s : State) : (modOut f s).tsv = s.tsv := rfl
@[simp] theorem modOut_ctl (f : Outputs → Outputs) (s : State) : (modOut f s).ctl = s.ctl := rfl
@[simp] theorem modOut_mbx (f : Outputs → Outputs) (s : State) : (modOut f s).mbx = s.mbx := rfl
@[simp] theorem modOut_core (f : Outputs → Outputs) (s : State) : (modOut f s).core = s.core := rfl
@[simp] theorem modOut_pf (f : Outputs → Outputs) (s : State) : (modOut f s).pf = s.pf := rfl
@[simp] theorem modOut_island (f : Outputs → Outputs) (s : State) : (modOut f s).island = s.island := rfl
@[simp] theorem modOut_st (f : Outputs → Outputs) (s : State) : (modOut f s).st = s.st := rfl
@[simp] theorem modOut_out (f : Outputs → Outputs) (s : State) : (modOut f s).out = f s.out := rfl
@[simp] theorem getCtx_modOut (f : Outputs → Outputs) (j : Nat) (s : State) : getCtx (modOut f s) j = getCtx s j := rfl
@[simp] theorem getFn_modOut (f : Outputs → Outputs) (j : Nat) (s : State) : getFn (modOut f s) j = getFn s j := rfl
@[simp] theorem getEng_modOut (f : Outputs → Outputs) (j : Nat) (s : State) : getEng (modOut f s) j = getEng s j := rfl
@[simp] theorem getPort_modOut (f : Outputs → Outputs) (j : Nat) (s : State) : getPort (modOut f s) j = getPort s j := rfl
@[simp] theorem getHp_modOut (f : Outputs → Outputs) (j : Nat) (s : State) : getHp (modOut f s) j = getHp s j := rfl
@[simp] theorem getClu_modOut (f : Outputs → Outputs) (j : Nat) (s : State) : getClu (modOut f s) j = getClu s j := rfl
@[simp] theorem getInst_modOut (f : Outputs → Outputs) (j : Nat) (s : State) : getInst (modOut f s) j = getInst s j := rfl
@[simp] theorem getCore_modOut (f : Outputs → Outputs) (j : Nat) (s : State) : getCore (modOut f s) j = getCore s j := rfl
@[simp] theorem getMbx_modOut (f : Outputs → Outputs) (j : Nat) (s : State) : getMbx (modOut f s) j = getMbx s j := rfl
@[simp] theorem getIsl_modOut (f : Outputs → Outputs) (j : Nat) (s : State) : getIsl (modOut f s) j = getIsl s j := rfl
@[simp] theorem getEngIsl_modOut (f : Outputs → Outputs) (j : Nat) (s : State) : getEngIsl (modOut f s) j = getEngIsl s j := rfl

/-! ### Holding registers -/

@[simp] theorem setLatch_pending (r : Requester) (x : Latch) (s : State) : (setLatch r x s).pending = s.pending := rfl
@[simp] theorem setLatch_cfg (r : Requester) (x : Latch) (s : State) : (setLatch r x s).cfg = s.cfg := rfl
@[simp] theorem setLatch_free (r : Requester) (x : Latch) (s : State) : (setLatch r x s).free = s.free := rfl
@[simp] theorem setLatch_time (r : Requester) (x : Latch) (s : State) : (setLatch r x s).time = s.time := rfl
@[simp] theorem setLatch_seam (r : Requester) (x : Latch) (s : State) : (setLatch r x s).seam = s.seam := rfl
@[simp] theorem setLatch_inReset (r : Requester) (x : Latch) (s : State) : (setLatch r x s).inReset = s.inReset := rfl
@[simp] theorem setLatch_pgood (r : Requester) (x : Latch) (s : State) : (setLatch r x s).pgood = s.pgood := rfl
@[simp] theorem setLatch_shadow (r : Requester) (x : Latch) (s : State) : (setLatch r x s).shadow = s.shadow := rfl
@[simp] theorem setLatch_active (r : Requester) (x : Latch) (s : State) : (setLatch r x s).active = s.active := rfl
@[simp] theorem setLatch_shpend (r : Requester) (x : Latch) (s : State) : (setLatch r x s).shpend = s.shpend := rfl
@[simp] theorem setLatch_shseam (r : Requester) (x : Latch) (s : State) : (setLatch r x s).shseam = s.shseam := rfl
@[simp] theorem setLatch_seen (r : Requester) (x : Latch) (s : State) : (setLatch r x s).seen = s.seen := rfl
@[simp] theorem setLatch_crossing (r : Requester) (x : Latch) (s : State) : (setLatch r x s).crossing = s.crossing := rfl
@[simp] theorem setLatch_out (r : Requester) (x : Latch) (s : State) : (setLatch r x s).out = s.out := rfl
@[simp] theorem setLatch_dsp (r : Requester) (x : Latch) (s : State) : (setLatch r x s).dsp = s.dsp := rfl
@[simp] theorem setLatch_fn (r : Requester) (x : Latch) (s : State) : (setLatch r x s).fn = s.fn := rfl
@[simp] theorem setLatch_eng (r : Requester) (x : Latch) (s : State) : (setLatch r x s).eng = s.eng := rfl
@[simp] theorem setLatch_lock (r : Requester) (x : Latch) (s : State) : (setLatch r x s).lock = s.lock := rfl
@[simp] theorem setLatch_lm (r : Requester) (x : Latch) (s : State) : (setLatch r x s).lm = s.lm := rfl
@[simp] theorem setLatch_cread (r : Requester) (x : Latch) (s : State) : (setLatch r x s).cread = s.cread := rfl
@[simp] theorem setLatch_cmem (r : Requester) (x : Latch) (s : State) : (setLatch r x s).cmem = s.cmem := rfl
@[simp] theorem setLatch_cbuf (r : Requester) (x : Latch) (s : State) : (setLatch r x s).cbuf = s.cbuf := rfl
@[simp] theorem setLatch_cwait (r : Requester) (x : Latch) (s : State) : (setLatch r x s).cwait = s.cwait := rfl
@[simp] theorem setLatch_kram (r : Requester) (x : Latch) (s : State) : (setLatch r x s).kram = s.kram := rfl
@[simp] theorem setLatch_rsram (r : Requester) (x : Latch) (s : State) : (setLatch r x s).rsram = s.rsram := rfl
@[simp] theorem setLatch_ecc (r : Requester) (x : Latch) (s : State) : (setLatch r x s).ecc = s.ecc := rfl
@[simp] theorem setLatch_soft (r : Requester) (x : Latch) (s : State) : (setLatch r x s).soft = s.soft := rfl
@[simp] theorem setLatch_xbar (r : Requester) (x : Latch) (s : State) : (setLatch r x s).xbar = s.xbar := rfl
@[simp] theorem setLatch_xback (r : Requester) (x : Latch) (s : State) : (setLatch r x s).xback = s.xback := rfl
@[simp] theorem setLatch_cluster (r : Requester) (x : Latch) (s : State) : (setLatch r x s).cluster = s.cluster := rfl
@[simp] theorem setLatch_gate (r : Requester) (x : Latch) (s : State) : (setLatch r x s).gate = s.gate := rfl
@[simp] theorem setLatch_hp (r : Requester) (x : Latch) (s : State) : (setLatch r x s).hp = s.hp := rfl
@[simp] theorem setLatch_port (r : Requester) (x : Latch) (s : State) : (setLatch r x s).port = s.port := rfl
@[simp] theorem setLatch_tsv (r : Requester) (x : Latch) (s : State) : (setLatch r x s).tsv = s.tsv := rfl
@[simp] theorem setLatch_ctl (r : Requester) (x : Latch) (s : State) : (setLatch r x s).ctl = s.ctl := rfl
@[simp] theorem setLatch_mbx (r : Requester) (x : Latch) (s : State) : (setLatch r x s).mbx = s.mbx := rfl
@[simp] theorem setLatch_core (r : Requester) (x : Latch) (s : State) : (setLatch r x s).core = s.core := rfl
@[simp] theorem setLatch_pf (r : Requester) (x : Latch) (s : State) : (setLatch r x s).pf = s.pf := rfl
@[simp] theorem setLatch_island (r : Requester) (x : Latch) (s : State) : (setLatch r x s).island = s.island := rfl
@[simp] theorem setLatch_st (r : Requester) (x : Latch) (s : State) : (setLatch r x s).st = s.st := rfl

/-! ### access -/

@[simp] theorem access_pending (r : Requester) (s : State) : (access r s).pending = s.pending := by unfold access; split <;> rfl
@[simp] theorem access_cfg (r : Requester) (s : State) : (access r s).cfg = s.cfg := by unfold access; split <;> rfl
@[simp] theorem access_free (r : Requester) (s : State) : (access r s).free = s.free := by unfold access; split <;> rfl
@[simp] theorem access_time (r : Requester) (s : State) : (access r s).time = s.time := by unfold access; split <;> rfl
@[simp] theorem access_seam (r : Requester) (s : State) : (access r s).seam = s.seam := by unfold access; split <;> rfl
@[simp] theorem access_inReset (r : Requester) (s : State) : (access r s).inReset = s.inReset := by unfold access; split <;> rfl
@[simp] theorem access_pgood (r : Requester) (s : State) : (access r s).pgood = s.pgood := by unfold access; split <;> rfl
@[simp] theorem access_shadow (r : Requester) (s : State) : (access r s).shadow = s.shadow := by unfold access; split <;> rfl
@[simp] theorem access_active (r : Requester) (s : State) : (access r s).active = s.active := by unfold access; split <;> rfl
@[simp] theorem access_shpend (r : Requester) (s : State) : (access r s).shpend = s.shpend := by unfold access; split <;> rfl
@[simp] theorem access_shseam (r : Requester) (s : State) : (access r s).shseam = s.shseam := by unfold access; split <;> rfl
@[simp] theorem access_seen (r : Requester) (s : State) : (access r s).seen = s.seen := by unfold access; split <;> rfl
@[simp] theorem access_crossing (r : Requester) (s : State) : (access r s).crossing = s.crossing := by
  unfold access; split <;> rfl
@[simp] theorem access_out (r : Requester) (s : State) : (access r s).out = s.out := by unfold access; split <;> rfl
@[simp] theorem access_dsp (r : Requester) (s : State) : (access r s).dsp = s.dsp := by unfold access; split <;> rfl
@[simp] theorem access_fn (r : Requester) (s : State) : (access r s).fn = s.fn := by unfold access; split <;> rfl
@[simp] theorem access_eng (r : Requester) (s : State) : (access r s).eng = s.eng := by unfold access; split <;> rfl
@[simp] theorem access_lock (r : Requester) (s : State) : (access r s).lock = s.lock := by unfold access; split <;> rfl
@[simp] theorem access_lm (r : Requester) (s : State) : (access r s).lm = s.lm := by unfold access; split <;> rfl
@[simp] theorem access_cread (r : Requester) (s : State) : (access r s).cread = s.cread := by unfold access; split <;> rfl
@[simp] theorem access_cmem (r : Requester) (s : State) : (access r s).cmem = s.cmem := by unfold access; split <;> rfl
@[simp] theorem access_cbuf (r : Requester) (s : State) : (access r s).cbuf = s.cbuf := by unfold access; split <;> rfl
@[simp] theorem access_cwait (r : Requester) (s : State) : (access r s).cwait = s.cwait := by unfold access; split <;> rfl
@[simp] theorem access_kram (r : Requester) (s : State) : (access r s).kram = s.kram := by unfold access; split <;> rfl
@[simp] theorem access_rsram (r : Requester) (s : State) : (access r s).rsram = s.rsram := by unfold access; split <;> rfl
@[simp] theorem access_ecc (r : Requester) (s : State) : (access r s).ecc = s.ecc := by unfold access; split <;> rfl
@[simp] theorem access_soft (r : Requester) (s : State) : (access r s).soft = s.soft := by unfold access; split <;> rfl
@[simp] theorem access_xbar (r : Requester) (s : State) : (access r s).xbar = s.xbar := by unfold access; split <;> rfl
@[simp] theorem access_xback (r : Requester) (s : State) : (access r s).xback = s.xback := by unfold access; split <;> rfl
@[simp] theorem access_cluster (r : Requester) (s : State) : (access r s).cluster = s.cluster := by unfold access; split <;> rfl
@[simp] theorem access_gate (r : Requester) (s : State) : (access r s).gate = s.gate := by unfold access; split <;> rfl
@[simp] theorem access_hp (r : Requester) (s : State) : (access r s).hp = s.hp := by unfold access; split <;> rfl
@[simp] theorem access_port (r : Requester) (s : State) : (access r s).port = s.port := by unfold access; split <;> rfl
@[simp] theorem access_tsv (r : Requester) (s : State) : (access r s).tsv = s.tsv := by unfold access; split <;> rfl
@[simp] theorem access_ctl (r : Requester) (s : State) : (access r s).ctl = s.ctl := by unfold access; split <;> rfl
@[simp] theorem access_mbx (r : Requester) (s : State) : (access r s).mbx = s.mbx := by unfold access; split <;> rfl
@[simp] theorem access_core (r : Requester) (s : State) : (access r s).core = s.core := by unfold access; split <;> rfl
@[simp] theorem access_pf (r : Requester) (s : State) : (access r s).pf = s.pf := by unfold access; split <;> rfl
@[simp] theorem access_island (r : Requester) (s : State) : (access r s).island = s.island := by unfold access; split <;> rfl
@[simp] theorem access_st (r : Requester) (s : State) : (access r s).st = s.st := by unfold access; split <;> rfl
@[simp] theorem getCtx_access (r : Requester) (j : Nat) (s : State) : getCtx (access r s) j = getCtx s j := by
  unfold access; split <;> rfl
@[simp] theorem getFn_access (r : Requester) (j : Nat) (s : State) : getFn (access r s) j = getFn s j := by
  unfold access; split <;> rfl
@[simp] theorem getEng_access (r : Requester) (j : Nat) (s : State) : getEng (access r s) j = getEng s j := by
  unfold access; split <;> rfl
@[simp] theorem getPort_access (r : Requester) (j : Nat) (s : State) : getPort (access r s) j = getPort s j := by
  unfold access; split <;> rfl
@[simp] theorem getHp_access (r : Requester) (j : Nat) (s : State) : getHp (access r s) j = getHp s j := by
  unfold access; split <;> rfl
@[simp] theorem getClu_access (r : Requester) (j : Nat) (s : State) : getClu (access r s) j = getClu s j := by
  unfold access; split <;> rfl
@[simp] theorem getInst_access (r : Requester) (j : Nat) (s : State) : getInst (access r s) j = getInst s j := by
  unfold access; split <;> rfl
@[simp] theorem getCore_access (r : Requester) (j : Nat) (s : State) : getCore (access r s) j = getCore s j := by
  unfold access; split <;> rfl
@[simp] theorem getMbx_access (r : Requester) (j : Nat) (s : State) : getMbx (access r s) j = getMbx s j := by
  unfold access; split <;> rfl
@[simp] theorem getIsl_access (r : Requester) (j : Nat) (s : State) : getIsl (access r s) j = getIsl s j := by
  unfold access; split <;> rfl
@[simp] theorem getEngIsl_access (r : Requester) (j : Nat) (s : State) : getEngIsl (access r s) j = getEngIsl s j := by
  unfold access; split <;> rfl

/-! ### Accessors through the updates of a whole part -/

@[simp] theorem getCtx_modDsp (f : Dsp → Dsp) (j : Nat) (s : State) (h : (f s.dsp).ctx = s.dsp.ctx) :
    getCtx (modDsp f s) j = getCtx s j := by simp only [getCtx, modDsp_dsp, h]
@[simp] theorem getInst_modTsv (f : Tsv → Tsv) (j : Nat) (s : State) (h : (f s.tsv).inst = s.tsv.inst) :
    getInst (modTsv f s) j = getInst s j := by simp only [getInst, modTsv_tsv, h]

end Sys2Proof.Machine
end

