-- ==== Sys2Proof/Laws/Channels.lean ====
section
/-! SUPPORT. What the shared operations of DSP can do (02, 07): one lemma per operation names every field it may change. -/

namespace Sys2Proof.Machine

/-! ### Behind an access that ends what a holding register latches -/

@[simp] theorem log2Eff_access (r : Requester) (s : State) : log2Eff (access r s) = log2Eff s := by simp [log2Eff, log2Max]
@[simp] theorem owns_access (r : Requester) (s : State) (f c : Nat) : owns (access r s) f c = owns s f c := by
  simp only [owns, chanPresent, log2Eff_access, getCtx_access]
@[simp] theorem taskPending_access (r : Requester) (s : State) (c : Nat) : taskPending (access r s) c = taskPending s c := by
  simp [taskPending]
@[simp] theorem engOf_access (r : Requester) (s : State) (c : Nat) : engOf (access r s) c = engOf s c := by simp [engOf]
@[simp] theorem ctxWaits_access (r : Requester) (s : State) (c : Nat) : ctxWaits (access r s) c = ctxWaits s c := by
  simp [ctxWaits]
@[simp] theorem midWork_access (r : Requester) (s : State) (c : Nat) : midWork (access r s) c = midWork s c := by simp [midWork]
@[simp] theorem clearing_access (r : Requester) (s : State) (e : Nat) : clearing (access r s) e = clearing s e := by
  simp [clearing]
@[simp] theorem live_access (r : Requester) (s : State) : live (access r s) = live s := by simp [live]

/-- Retiring a request touches the requests at the memory ports alone. -/
theorem lmRetire_spec (p t : Nat) (s : State) : ∃ lm, lmRetire p t s = { s with lm := lm } := by
  unfold lmRetire lmPromote
  split
  · exact ⟨_, rfl⟩
  · exact ⟨_, rfl⟩

/-- A write-back adds one request at a memory port. -/
theorem writeBack_spec (c : Nat) (s : State) : ∃ lm, writeBack c s = { s with lm := lm } := ⟨_, rfl⟩

/-- Using a context changes the cache and may present one write-back (R33). -/
theorem cacheUse_spec (c : Nat) (b : Bool) (s : State) :
    ∃ cache lm, cacheUse c b s = { s with dsp := { s.dsp with cache := cache }, lm := lm } := by
  unfold cacheUse
  dsimp only
  repeat' split
  all_goals first
    | exact ⟨_, _, rfl⟩
    | exact ⟨s.dsp.cache, s.lm, rfl⟩

/-- A bitmap OR adds one request at a memory port. -/
theorem bitmapOr_spec (c : Nat) (pu : Purpose) (s : State) : ∃ lm, bitmapOr c pu s = { s with lm := lm } := ⟨_, rfl⟩

/-- Entering a ready queue appends an entry with the class and the time; a full store counts and marks instead (R172). -/
theorem enqueue_spec (c : Nat) (s : State) :
    ∃ ready ovf lm, enqueue c s = { s with dsp := { s.dsp with ready := ready, readyovf := ovf }, lm := lm } ∧
      (s.dsp.ready.length < 65536 →
        ready = s.dsp.ready ++ [{ cls := (getCtx s c).dc, chan := c, stamp := stampNow s }] ∧ ovf = s.dsp.readyovf ∧
        lm = s.lm) := by
  unfold enqueue
  split
  · exact ⟨_, s.dsp.readyovf, s.lm, rfl, fun _ => ⟨rfl, rfl, rfl⟩⟩
  · rename_i h
    exact ⟨s.dsp.ready, _, _, rfl, fun h' => absurd h' h⟩

/-- Leaving the ready queues changes nothing else. -/
theorem unqueue_spec (c : Nat) (s : State) :
    unqueue c s = { s with dsp := { s.dsp with ready := s.dsp.ready.filter (fun r => r.chan != c) } } := rfl

/-! ### Field by field -/

@[simp] theorem cacheUse_time (c : Nat) (b : Bool) (s : State) : (cacheUse c b s).time = s.time := by
  obtain ⟨x, y, h⟩ := cacheUse_spec c b s; rw [h]
@[simp] theorem cacheUse_seam (c : Nat) (b : Bool) (s : State) : (cacheUse c b s).seam = s.seam := by
  obtain ⟨x, y, h⟩ := cacheUse_spec c b s; rw [h]
@[simp] theorem cacheUse_inReset (c : Nat) (b : Bool) (s : State) : (cacheUse c b s).inReset = s.inReset := by
  obtain ⟨x, y, h⟩ := cacheUse_spec c b s; rw [h]
@[simp] theorem cacheUse_shadow (c : Nat) (b : Bool) (s : State) : (cacheUse c b s).shadow = s.shadow := by
  obtain ⟨x, y, h⟩ := cacheUse_spec c b s; rw [h]
@[simp] theorem cacheUse_active (c : Nat) (b : Bool) (s : State) : (cacheUse c b s).active = s.active := by
  obtain ⟨x, y, h⟩ := cacheUse_spec c b s; rw [h]
@[simp] theorem cacheUse_fn (c : Nat) (b : Bool) (s : State) : (cacheUse c b s).fn = s.fn := by
  obtain ⟨x, y, h⟩ := cacheUse_spec c b s; rw [h]
@[simp] theorem cacheUse_eng (c : Nat) (b : Bool) (s : State) : (cacheUse c b s).eng = s.eng := by
  obtain ⟨x, y, h⟩ := cacheUse_spec c b s; rw [h]
@[simp] theorem cacheUse_lock (c : Nat) (b : Bool) (s : State) : (cacheUse c b s).lock = s.lock := by
  obtain ⟨x, y, h⟩ := cacheUse_spec c b s; rw [h]
@[simp] theorem cacheUse_gate (c : Nat) (b : Bool) (s : State) : (cacheUse c b s).gate = s.gate := by
  obtain ⟨x, y, h⟩ := cacheUse_spec c b s; rw [h]
@[simp] theorem cacheUse_ctl (c : Nat) (b : Bool) (s : State) : (cacheUse c b s).ctl = s.ctl := by
  obtain ⟨x, y, h⟩ := cacheUse_spec c b s; rw [h]
@[simp] theorem cacheUse_pf (c : Nat) (b : Bool) (s : State) : (cacheUse c b s).pf = s.pf := by
  obtain ⟨x, y, h⟩ := cacheUse_spec c b s; rw [h]
@[simp] theorem cacheUse_free (c : Nat) (b : Bool) (s : State) : (cacheUse c b s).free = s.free := by
  obtain ⟨x, y, h⟩ := cacheUse_spec c b s; rw [h]
@[simp] theorem cacheUse_out (c : Nat) (b : Bool) (s : State) : (cacheUse c b s).out = s.out := by
  obtain ⟨x, y, h⟩ := cacheUse_spec c b s; rw [h]
@[simp] theorem cacheUse_port (c : Nat) (b : Bool) (s : State) : (cacheUse c b s).port = s.port := by
  obtain ⟨x, y, h⟩ := cacheUse_spec c b s; rw [h]
@[simp] theorem cacheUse_cfg (c : Nat) (b : Bool) (s : State) : (cacheUse c b s).cfg = s.cfg := by
  obtain ⟨x, y, h⟩ := cacheUse_spec c b s; rw [h]
@[simp] theorem cacheUse_pending (c : Nat) (b : Bool) (s : State) : (cacheUse c b s).pending = s.pending := by
  obtain ⟨x, y, h⟩ := cacheUse_spec c b s; rw [h]
@[simp] theorem cacheUse_dsp_ctx (c : Nat) (b : Bool) (s : State) : (cacheUse c b s).dsp.ctx = s.dsp.ctx := by
  obtain ⟨x, y, h⟩ := cacheUse_spec c b s; rw [h]
@[simp] theorem cacheUse_dsp_fifo (c : Nat) (b : Bool) (s : State) : (cacheUse c b s).dsp.fifo = s.dsp.fifo := by
  obtain ⟨x, y, h⟩ := cacheUse_spec c b s; rw [h]
@[simp] theorem cacheUse_dsp_dbacc (c : Nat) (b : Bool) (s : State) : (cacheUse c b s).dsp.dbacc = s.dsp.dbacc := by
  obtain ⟨x, y, h⟩ := cacheUse_spec c b s; rw [h]
@[simp] theorem cacheUse_dsp_dbdrop (c : Nat) (b : Bool) (s : State) : (cacheUse c b s).dsp.dbdrop = s.dsp.dbdrop := by
  obtain ⟨x, y, h⟩ := cacheUse_spec c b s; rw [h]
@[simp] theorem cacheUse_dsp_dbstale (c : Nat) (b : Bool) (s : State) : (cacheUse c b s).dsp.dbstale = s.dsp.dbstale := by
  obtain ⟨x, y, h⟩ := cacheUse_spec c b s; rw [h]
@[simp] theorem cacheUse_dsp_dbfold (c : Nat) (b : Bool) (s : State) : (cacheUse c b s).dsp.dbfold = s.dsp.dbfold := by
  obtain ⟨x, y, h⟩ := cacheUse_spec c b s; rw [h]
@[simp] theorem cacheUse_dsp_ready (c : Nat) (b : Bool) (s : State) : (cacheUse c b s).dsp.ready = s.dsp.ready := by
  obtain ⟨x, y, h⟩ := cacheUse_spec c b s; rw [h]
@[simp] theorem cacheUse_dsp_wbTasks (c : Nat) (b : Bool) (s : State) : (cacheUse c b s).dsp.wbTasks = s.dsp.wbTasks := by
  obtain ⟨x, y, h⟩ := cacheUse_spec c b s; rw [h]
@[simp] theorem cacheUse_dsp_recAborts (c : Nat) (b : Bool) (s : State) : (cacheUse c b s).dsp.recAborts = s.dsp.recAborts := by
  obtain ⟨x, y, h⟩ := cacheUse_spec c b s; rw [h]
@[simp] theorem cacheUse_dsp_summary (c : Nat) (b : Bool) (s : State) : (cacheUse c b s).dsp.summary = s.dsp.summary := by
  obtain ⟨x, y, h⟩ := cacheUse_spec c b s; rw [h]
@[simp] theorem cacheUse_dsp_bitmap (c : Nat) (b : Bool) (s : State) : (cacheUse c b s).dsp.bitmap = s.dsp.bitmap := by
  obtain ⟨x, y, h⟩ := cacheUse_spec c b s; rw [h]
@[simp] theorem cacheUse_dsp_ctxwr (c : Nat) (b : Bool) (s : State) : (cacheUse c b s).dsp.ctxwr = s.dsp.ctxwr := by
  obtain ⟨x, y, h⟩ := cacheUse_spec c b s; rw [h]
@[simp] theorem cacheUse_dsp_qreq (c : Nat) (b : Bool) (s : State) : (cacheUse c b s).dsp.qreq = s.dsp.qreq := by
  obtain ⟨x, y, h⟩ := cacheUse_spec c b s; rw [h]

@[simp] theorem enqueue_time (c : Nat) (s : State) : (enqueue c s).time = s.time := by
  obtain ⟨x, y, z, h, -⟩ := enqueue_spec c s; rw [h]
@[simp] theorem enqueue_seam (c : Nat) (s : State) : (enqueue c s).seam = s.seam := by
  obtain ⟨x, y, z, h, -⟩ := enqueue_spec c s; rw [h]
@[simp] theorem enqueue_inReset (c : Nat) (s : State) : (enqueue c s).inReset = s.inReset := by
  obtain ⟨x, y, z, h, -⟩ := enqueue_spec c s; rw [h]
@[simp] theorem enqueue_shadow (c : Nat) (s : State) : (enqueue c s).shadow = s.shadow := by
  obtain ⟨x, y, z, h, -⟩ := enqueue_spec c s; rw [h]
@[simp] theorem enqueue_active (c : Nat) (s : State) : (enqueue c s).active = s.active := by
  obtain ⟨x, y, z, h, -⟩ := enqueue_spec c s; rw [h]
@[simp] theorem enqueue_fn (c : Nat) (s : State) : (enqueue c s).fn = s.fn := by
  obtain ⟨x, y, z, h, -⟩ := enqueue_spec c s; rw [h]
@[simp] theorem enqueue_eng (c : Nat) (s : State) : (enqueue c s).eng = s.eng := by
  obtain ⟨x, y, z, h, -⟩ := enqueue_spec c s; rw [h]
@[simp] theorem enqueue_lock (c : Nat) (s : State) : (enqueue c s).lock = s.lock := by
  obtain ⟨x, y, z, h, -⟩ := enqueue_spec c s; rw [h]
@[simp] theorem enqueue_gate (c : Nat) (s : State) : (enqueue c s).gate = s.gate := by
  obtain ⟨x, y, z, h, -⟩ := enqueue_spec c s; rw [h]
@[simp] theorem enqueue_ctl (c : Nat) (s : State) : (enqueue c s).ctl = s.ctl := by
  obtain ⟨x, y, z, h, -⟩ := enqueue_spec c s; rw [h]
@[simp] theorem enqueue_pf (c : Nat) (s : State) : (enqueue c s).pf = s.pf := by
  obtain ⟨x, y, z, h, -⟩ := enqueue_spec c s; rw [h]
@[simp] theorem enqueue_free (c : Nat) (s : State) : (enqueue c s).free = s.free := by
  obtain ⟨x, y, z, h, -⟩ := enqueue_spec c s; rw [h]
@[simp] theorem enqueue_out (c : Nat) (s : State) : (enqueue c s).out = s.out := by
  obtain ⟨x, y, z, h, -⟩ := enqueue_spec c s; rw [h]
@[simp] theorem enqueue_port (c : Nat) (s : State) : (enqueue c s).port = s.port := by
  obtain ⟨x, y, z, h, -⟩ := enqueue_spec c s; rw [h]
@[simp] theorem enqueue_cfg (c : Nat) (s : State) : (enqueue c s).cfg = s.cfg := by
  obtain ⟨x, y, z, h, -⟩ := enqueue_spec c s; rw [h]
@[simp] theorem enqueue_pending (c : Nat) (s : State) : (enqueue c s).pending = s.pending := by
  obtain ⟨x, y, z, h, -⟩ := enqueue_spec c s; rw [h]
@[simp] theorem enqueue_dsp_ctx (c : Nat) (s : State) : (enqueue c s).dsp.ctx = s.dsp.ctx := by
  obtain ⟨x, y, z, h, -⟩ := enqueue_spec c s; rw [h]
@[simp] theorem enqueue_dsp_fifo (c : Nat) (s : State) : (enqueue c s).dsp.fifo = s.dsp.fifo := by
  obtain ⟨x, y, z, h, -⟩ := enqueue_spec c s; rw [h]
@[simp] theorem enqueue_dsp_dbacc (c : Nat) (s : State) : (enqueue c s).dsp.dbacc = s.dsp.dbacc := by
  obtain ⟨x, y, z, h, -⟩ := enqueue_spec c s; rw [h]
@[simp] theorem enqueue_dsp_dbdrop (c : Nat) (s : State) : (enqueue c s).dsp.dbdrop = s.dsp.dbdrop := by
  obtain ⟨x, y, z, h, -⟩ := enqueue_spec c s; rw [h]
@[simp] theorem enqueue_dsp_dbstale (c : Nat) (s : State) : (enqueue c s).dsp.dbstale = s.dsp.dbstale := by
  obtain ⟨x, y, z, h, -⟩ := enqueue_spec c s; rw [h]
@[simp] theorem enqueue_dsp_dbfold (c : Nat) (s : State) : (enqueue c s).dsp.dbfold = s.dsp.dbfold := by
  obtain ⟨x, y, z, h, -⟩ := enqueue_spec c s; rw [h]
@[simp] theorem enqueue_dsp_wbTasks (c : Nat) (s : State) : (enqueue c s).dsp.wbTasks = s.dsp.wbTasks := by
  obtain ⟨x, y, z, h, -⟩ := enqueue_spec c s; rw [h]
@[simp] theorem enqueue_dsp_recAborts (c : Nat) (s : State) : (enqueue c s).dsp.recAborts = s.dsp.recAborts := by
  obtain ⟨x, y, z, h, -⟩ := enqueue_spec c s; rw [h]
@[simp] theorem enqueue_dsp_summary (c : Nat) (s : State) : (enqueue c s).dsp.summary = s.dsp.summary := by
  obtain ⟨x, y, z, h, -⟩ := enqueue_spec c s; rw [h]
@[simp] theorem enqueue_dsp_bitmap (c : Nat) (s : State) : (enqueue c s).dsp.bitmap = s.dsp.bitmap := by
  obtain ⟨x, y, z, h, -⟩ := enqueue_spec c s; rw [h]
@[simp] theorem enqueue_dsp_ctxwr (c : Nat) (s : State) : (enqueue c s).dsp.ctxwr = s.dsp.ctxwr := by
  obtain ⟨x, y, z, h, -⟩ := enqueue_spec c s; rw [h]
@[simp] theorem enqueue_dsp_qreq (c : Nat) (s : State) : (enqueue c s).dsp.qreq = s.dsp.qreq := by
  obtain ⟨x, y, z, h, -⟩ := enqueue_spec c s; rw [h]
@[simp] theorem enqueue_dsp_cache (c : Nat) (s : State) : (enqueue c s).dsp.cache = s.dsp.cache := by
  obtain ⟨x, y, z, h, -⟩ := enqueue_spec c s; rw [h]

@[simp] theorem toReady_time (c : Nat) (s : State) : (toReady c s).time = s.time := by
  unfold toReady; dsimp only; split <;> simp
@[simp] theorem toReady_seam (c : Nat) (s : State) : (toReady c s).seam = s.seam := by
  unfold toReady; dsimp only; split <;> simp
@[simp] theorem toReady_inReset (c : Nat) (s : State) : (toReady c s).inReset = s.inReset := by
  unfold toReady; dsimp only; split <;> simp
@[simp] theorem toReady_shadow (c : Nat) (s : State) : (toReady c s).shadow = s.shadow := by
  unfold toReady; dsimp only; split <;> simp
@[simp] theorem toReady_active (c : Nat) (s : State) : (toReady c s).active = s.active := by
  unfold toReady; dsimp only; split <;> simp
@[simp] theorem toReady_fn (c : Nat) (s : State) : (toReady c s).fn = s.fn := by
  unfold toReady; dsimp only; split <;> simp
@[simp] theorem toReady_eng (c : Nat) (s : State) : (toReady c s).eng = s.eng := by
  unfold toReady; dsimp only; split <;> simp
@[simp] theorem toReady_lock (c : Nat) (s : State) : (toReady c s).lock = s.lock := by
  unfold toReady; dsimp only; split <;> simp
@[simp] theorem toReady_gate (c : Nat) (s : State) : (toReady c s).gate = s.gate := by
  unfold toReady; dsimp only; split <;> simp
@[simp] theorem toReady_ctl (c : Nat) (s : State) : (toReady c s).ctl = s.ctl := by
  unfold toReady; dsimp only; split <;> simp
@[simp] theorem toReady_pf (c : Nat) (s : State) : (toReady c s).pf = s.pf := by
  unfold toReady; dsimp only; split <;> simp
@[simp] theorem toReady_free (c : Nat) (s : State) : (toReady c s).free = s.free := by
  unfold toReady; dsimp only; split <;> simp
@[simp] theorem toReady_out (c : Nat) (s : State) : (toReady c s).out = s.out := by
  unfold toReady; dsimp only; split <;> simp
@[simp] theorem toReady_port (c : Nat) (s : State) : (toReady c s).port = s.port := by
  unfold toReady; dsimp only; split <;> simp
@[simp] theorem toReady_cfg (c : Nat) (s : State) : (toReady c s).cfg = s.cfg := by
  unfold toReady; dsimp only; split <;> simp
@[simp] theorem toReady_pending (c : Nat) (s : State) : (toReady c s).pending = s.pending := by
  unfold toReady; dsimp only; split <;> simp
@[simp] theorem toReady_dsp_fifo (c : Nat) (s : State) : (toReady c s).dsp.fifo = s.dsp.fifo := by
  unfold toReady; dsimp only; split <;> simp
@[simp] theorem toReady_dsp_dbacc (c : Nat) (s : State) : (toReady c s).dsp.dbacc = s.dsp.dbacc := by
  unfold toReady; dsimp only; split <;> simp
@[simp] theorem toReady_dsp_dbdrop (c : Nat) (s : State) : (toReady c s).dsp.dbdrop = s.dsp.dbdrop := by
  unfold toReady; dsimp only; split <;> simp
@[simp] theorem toReady_dsp_dbstale (c : Nat) (s : State) : (toReady c s).dsp.dbstale = s.dsp.dbstale := by
  unfold toReady; dsimp only; split <;> simp
@[simp] theorem toReady_dsp_dbfold (c : Nat) (s : State) : (toReady c s).dsp.dbfold = s.dsp.dbfold := by
  unfold toReady; dsimp only; split <;> simp
@[simp] theorem toReady_dsp_wbTasks (c : Nat) (s : State) : (toReady c s).dsp.wbTasks = s.dsp.wbTasks := by
  unfold toReady; dsimp only; split <;> simp
@[simp] theorem toReady_dsp_recAborts (c : Nat) (s : State) : (toReady c s).dsp.recAborts = s.dsp.recAborts := by
  unfold toReady; dsimp only; split <;> simp
@[simp] theorem toReady_dsp_summary (c : Nat) (s : State) : (toReady c s).dsp.summary = s.dsp.summary := by
  unfold toReady; dsimp only; split <;> simp
@[simp] theorem toReady_dsp_bitmap (c : Nat) (s : State) : (toReady c s).dsp.bitmap = s.dsp.bitmap := by
  unfold toReady; dsimp only; split <;> simp
@[simp] theorem toReady_dsp_ctxwr (c : Nat) (s : State) : (toReady c s).dsp.ctxwr = s.dsp.ctxwr := by
  unfold toReady; dsimp only; split <;> simp
@[simp] theorem toReady_dsp_qreq (c : Nat) (s : State) : (toReady c s).dsp.qreq = s.dsp.qreq := by
  unfold toReady; dsimp only; split <;> simp

@[simp] theorem doorbellState_time (c : Nat) (s : State) : (doorbellState c s).time = s.time := by
  unfold doorbellState; dsimp only; repeat' split
  all_goals simp
@[simp] theorem doorbellState_seam (c : Nat) (s : State) : (doorbellState c s).seam = s.seam := by
  unfold doorbellState; dsimp only; repeat' split
  all_goals simp
@[simp] theorem doorbellState_inReset (c : Nat) (s : State) : (doorbellState c s).inReset = s.inReset := by
  unfold doorbellState; dsimp only; repeat' split
  all_goals simp
@[simp] theorem doorbellState_shadow (c : Nat) (s : State) : (doorbellState c s).shadow = s.shadow := by
  unfold doorbellState; dsimp only; repeat' split
  all_goals simp
@[simp] theorem doorbellState_active (c : Nat) (s : State) : (doorbellState c s).active = s.active := by
  unfold doorbellState; dsimp only; repeat' split
  all_goals simp
@[simp] theorem doorbellState_fn (c : Nat) (s : State) : (doorbellState c s).fn = s.fn := by
  unfold doorbellState; dsimp only; repeat' split
  all_goals simp
@[simp] theorem doorbellState_eng (c : Nat) (s : State) : (doorbellState c s).eng = s.eng := by
  unfold doorbellState; dsimp only; repeat' split
  all_goals simp
@[simp] theorem doorbellState_lock (c : Nat) (s : State) : (doorbellState c s).lock = s.lock := by
  unfold doorbellState; dsimp only; repeat' split
  all_goals simp
@[simp] theorem doorbellState_gate (c : Nat) (s : State) : (doorbellState c s).gate = s.gate := by
  unfold doorbellState; dsimp only; repeat' split
  all_goals simp
@[simp] theorem doorbellState_ctl (c : Nat) (s : State) : (doorbellState c s).ctl = s.ctl := by
  unfold doorbellState; dsimp only; repeat' split
  all_goals simp
@[simp] theorem doorbellState_pf (c : Nat) (s : State) : (doorbellState c s).pf = s.pf := by
  unfold doorbellState; dsimp only; repeat' split
  all_goals simp
@[simp] theorem doorbellState_free (c : Nat) (s : State) : (doorbellState c s).free = s.free := by
  unfold doorbellState; dsimp only; repeat' split
  all_goals simp
@[simp] theorem doorbellState_out (c : Nat) (s : State) : (doorbellState c s).out = s.out := by
  unfold doorbellState; dsimp only; repeat' split
  all_goals simp
@[simp] theorem doorbellState_port (c : Nat) (s : State) : (doorbellState c s).port = s.port := by
  unfold doorbellState; dsimp only; repeat' split
  all_goals simp
@[simp] theorem doorbellState_cfg (c : Nat) (s : State) : (doorbellState c s).cfg = s.cfg := by
  unfold doorbellState; dsimp only; repeat' split
  all_goals simp
@[simp] theorem doorbellState_pending (c : Nat) (s : State) : (doorbellState c s).pending = s.pending := by
  unfold doorbellState; dsimp only; repeat' split
  all_goals simp
@[simp] theorem doorbellState_dsp_fifo (c : Nat) (s : State) : (doorbellState c s).dsp.fifo = s.dsp.fifo := by
  unfold doorbellState; dsimp only; repeat' split
  all_goals simp
@[simp] theorem doorbellState_dsp_dbacc (c : Nat) (s : State) : (doorbellState c s).dsp.dbacc = s.dsp.dbacc := by
  unfold doorbellState; dsimp only; repeat' split
  all_goals simp
@[simp] theorem doorbellState_dsp_dbdrop (c : Nat) (s : State) : (doorbellState c s).dsp.dbdrop = s.dsp.dbdrop := by
  unfold doorbellState; dsimp only; repeat' split
  all_goals simp
@[simp] theorem doorbellState_dsp_dbstale (c : Nat) (s : State) : (doorbellState c s).dsp.dbstale = s.dsp.dbstale := by
  unfold doorbellState; dsimp only; repeat' split
  all_goals simp
@[simp] theorem doorbellState_dsp_dbfold (c : Nat) (s : State) : (doorbellState c s).dsp.dbfold = s.dsp.dbfold := by
  unfold doorbellState; dsimp only; repeat' split
  all_goals simp
@[simp] theorem doorbellState_dsp_wbTasks (c : Nat) (s : State) : (doorbellState c s).dsp.wbTasks = s.dsp.wbTasks := by
  unfold doorbellState; dsimp only; repeat' split
  all_goals simp
@[simp] theorem doorbellState_dsp_recAborts (c : Nat) (s : State) : (doorbellState c s).dsp.recAborts = s.dsp.recAborts := by
  unfold doorbellState; dsimp only; repeat' split
  all_goals simp
@[simp] theorem doorbellState_dsp_summary (c : Nat) (s : State) : (doorbellState c s).dsp.summary = s.dsp.summary := by
  unfold doorbellState; dsimp only; repeat' split
  all_goals simp
@[simp] theorem doorbellState_dsp_bitmap (c : Nat) (s : State) : (doorbellState c s).dsp.bitmap = s.dsp.bitmap := by
  unfold doorbellState; dsimp only; repeat' split
  all_goals simp
@[simp] theorem doorbellState_dsp_ctxwr (c : Nat) (s : State) : (doorbellState c s).dsp.ctxwr = s.dsp.ctxwr := by
  unfold doorbellState; dsimp only; repeat' split
  all_goals simp
@[simp] theorem doorbellState_dsp_qreq (c : Nat) (s : State) : (doorbellState c s).dsp.qreq = s.dsp.qreq := by
  unfold doorbellState; dsimp only; repeat' split
  all_goals simp

@[simp] theorem getCtx_cacheUse (c : Nat) (b : Bool) (j : Nat) (s : State) : getCtx (cacheUse c b s) j = getCtx s j := by
  rw [getCtx, cacheUse_dsp_ctx, ← getCtx]
@[simp] theorem toReady_ctx (c j : Nat) (s : State) :
    getCtx (toReady c s) j =
      if j = c then { getCtx s c with st := if (getCtx s c).pause then .paused else .ready } else getCtx s j := by
  unfold toReady
  dsimp only
  simp only [getCtx_cacheUse]
  split
  · rename_i h; simp [h]
  · rename_i h; rw [getCtx, enqueue_dsp_ctx, ← getCtx]; simp [h]
@[simp] theorem getFn_cacheUse (c : Nat) (b : Bool) (j : Nat) (s : State) : getFn (cacheUse c b s) j = getFn s j := by
  rw [getFn, cacheUse_fn, ← getFn]
@[simp] theorem getFn_toReady (c : Nat) (j : Nat) (s : State) : getFn (toReady c s) j = getFn s j := by
  rw [getFn, toReady_fn, ← getFn]
/-- What a doorbell does to the context of its channel (R43). -/
theorem getCtx_doorbellState (c j : Nat) (s : State) :
    getCtx (doorbellState c s) j =
      if j = c ∧ taskPending s c = false ∧
          ((getCtx s c).st = .idle ∧ (getCtx s c).pcv = true ∨
           (getCtx s c).st = .waiting ∧ (getCtx s c).pacing = none ∧ seqCovers (getCtx s c).seqseen (getCtx s c).seqexp = true) then
        { getCtx s c with st := if (getCtx s c).pause then .paused else .ready }
      else getCtx s j := by
  unfold doorbellState
  dsimp only
  repeat' split
  all_goals simp_all
  all_goals grind

end Sys2Proof.Machine
end

