-- ==== Sys2Proof/Laws/DurableOps.lean ====
section
/-! SUPPORT. What the shared operations leave of the durable part of a state (Safety.lean): each keeps it. One lemma per operation. -/

namespace Sys2Proof.Machine

theorem durable_mk x_pending x_cfg x_free x_time x_seam x_inReset x_pgood x_shadow x_active x_shpend x_shseam x_latch x_seen x_crossing x_out x_dsp x_fn x_eng x_lock x_lm x_cread x_cmem x_cbuf x_cwait x_kram x_rsram x_ecc x_soft x_xbar x_xback x_cluster x_gate x_hp x_port x_tsv x_ctl x_mbx x_core x_pf x_island x_st :
    durable (State.mk x_pending x_cfg x_free x_time x_seam x_inReset x_pgood x_shadow x_active x_shpend x_shseam x_latch x_seen x_crossing x_out x_dsp x_fn x_eng x_lock x_lm x_cread x_cmem x_cbuf x_cwait x_kram x_rsram x_ecc x_soft x_xbar x_xback x_cluster x_gate x_hp x_port x_tsv x_ctl x_mbx x_core x_pf x_island x_st) =
      ⟨x_pending, x_cfg, x_cmem, x_kram, x_rsram, x_gate.active, x_active, x_ctl.ready, x_pf.warn, x_pf.cut⟩ := rfl

theorem durable_fold (s : State) :
    Durable.mk s.pending s.cfg s.cmem s.kram s.rsram s.gate.active s.active s.ctl.ready s.pf.warn s.pf.cut = durable s := rfl

@[simp] theorem durable_ite (c : Prop) [Decidable c] (a b : State) :
    durable (if c then a else b) = if c then durable a else durable b := apply_ite _ _ _ _

theorem durable_foldl {α : Type} (l : List α) (f : State → α → State) (h : ∀ s x, durable (f s x) = durable s)
    (s : State) : durable (l.foldl f s) = durable s := by
  induction l generalizing s with
  | nil => rfl
  | cons x t ih => simp only [List.foldl_cons, ih, h]

/-! ### Ops -/

@[simp] theorem durable_modCtx (c : Nat) (f : Ctx → Ctx) (s : State) :
    durable (modCtx c f s) = durable s := (rfl)

@[simp] theorem durable_modFn (fn : Nat) (f : Func → Func) (s : State) :
    durable (modFn fn f s) = durable s := (rfl)

@[simp] theorem durable_modEng (e : Nat) (f : Engine → Engine) (s : State) :
    durable (modEng e f s) = durable s := (rfl)

@[simp] theorem durable_modPort (p : Nat) (f : Port → Port) (s : State) :
    durable (modPort p f s) = durable s := (rfl)

@[simp] theorem durable_modHp (h : Nat) (f : HostPort → HostPort) (s : State) :
    durable (modHp h f s) = durable s := (rfl)

@[simp] theorem durable_modClu (k : Nat) (f : Cluster → Cluster) (s : State) :
    durable (modClu k f s) = durable s := (rfl)

@[simp] theorem durable_modInst (i : Nat) (f : Inst → Inst) (s : State) :
    durable (modInst i f s) = durable s := (rfl)

@[simp] theorem durable_modCore (c : Nat) (f : Core → Core) (s : State) :
    durable (modCore c f s) = durable s := (rfl)

@[simp] theorem durable_modMbx (m : Nat) (f : Mailbox → Mailbox) (s : State) :
    durable (modMbx m f s) = durable s := (rfl)

@[simp] theorem durable_modIsl (i : Nat) (f : Island → Island) (s : State) :
    durable (modIsl i f s) = durable s := (rfl)

@[simp] theorem durable_modEngIsl (k : Nat) (f : EngIsland → EngIsland) (s : State) :
    durable (modEngIsl k f s) = durable s := (rfl)

@[simp] theorem durable_modDsp (f : Dsp → Dsp) (s : State) :
    durable (modDsp f s) = durable s := (rfl)

@[simp] theorem durable_modCtl (f : Ctl → Ctl) (h : ∀ g, (f g).ready = g.ready) (s : State) : durable
    (modCtl f s) = durable s := by
  unfold modCtl; simp only [durable_mk, h]; rfl

@[simp] theorem durable_modGate (f : Gates → Gates) (h : ∀ g, (f g).active = g.active) (s : State) : durable
    (modGate f s) = durable s := by
  unfold modGate; simp only [durable_mk, h]; rfl

@[simp] theorem durable_modTsv (f : Tsv → Tsv) (s : State) :
    durable (modTsv f s) = durable s := (rfl)

@[simp] theorem durable_modLock (f : Locks → Locks) (s : State) :
    durable (modLock f s) = durable s := (rfl)

@[simp] theorem durable_modXbar (f : Xbar → Xbar) (s : State) :
    durable (modXbar f s) = durable s := (rfl)

@[simp] theorem durable_modPf (f : PowerFail → PowerFail) (h : ∀ g, (f g).warn = g.warn) (h' : ∀ g,
    (f g).cut = g.cut) (s : State) : durable (modPf f s) = durable s := by
  unfold modPf; simp only [durable_mk, h, h']; rfl

@[simp] theorem durable_modOut (f : Outputs → Outputs) (s : State) :
    durable (modOut f s) = durable s := (rfl)

@[simp] theorem durable_forAll {α : Type} (l : List α) (f : α → State → State) (h : ∀ x s, durable
    (f x s) = durable s) (s : State) :
    durable (forAll l f s) = durable s := by unfold forAll; exact durable_foldl l _ (fun s x => h x s) s

@[simp] theorem durable_drawFree (s : State) :
    durable (drawFree s).2 = durable s := (rfl)
theorem durable_drawFree_pair {s : State} {b' : Word} {t' : State}
    (hh : drawFree s = (b', t')) : durable t' = durable s :=
  (congrArg (fun p => durable p.2) hh).symm.trans (durable_drawFree s )

@[simp] theorem durable_drawBytes (n : Nat) (s : State) : durable (drawBytes n s).2 = durable s := by
  induction n generalizing s with
  | zero => rfl
  | succ n ih => simp only [drawBytes, ih]; exact durable_drawFree _

theorem durable_drawBytes_pair {n : Nat} {s : State} {b : List Byte} {t : State} (hh : drawBytes n s =
    (b, t)) : durable t = durable s :=
  (congrArg (fun p => durable p.2) hh).symm.trans (durable_drawBytes n s)

@[simp] theorem durable_setLatch (r : Requester) (x : Latch) (s : State) :
    durable (setLatch r x s) = durable s := (rfl)

@[simp] theorem durable_dropLatch (r : Requester) (s : State) :
    durable (dropLatch r s) = durable s := by
  simp only [dropLatch, durable_setLatch]

@[simp] theorem durable_access (r : Requester) (s : State) :
    durable (access r s) = durable s := by
  simp only [access, durable_dropLatch, apply_ite durable, ite_self]

@[simp] theorem durable_evK (i : Nat) (s : State) :
    durable (evK i s) = durable s := by
  unfold evK
  repeat' split
  all_goals first | rfl | simp only [durable_modCtl, apply_ite durable, ite_self]

@[simp] theorem durable_evS (i : Nat) (s : State) :
    durable (evS i s) = durable s := by
  unfold evS
  repeat' split
  all_goals first | rfl | simp only [durable_modCtl, apply_ite durable, ite_self]

@[simp] theorem durable_postCause (i fn : Nat) (s : State) :
    durable (postCause i fn s) = durable s := by
  simp only [postCause, durable_modFn]

@[simp] theorem durable_postBlockAt (h : Nat) (s : State) :
    durable (postBlockAt h s) = durable s := by
  simp only [postBlockAt, durable_modFn, apply_ite durable, ite_self]

@[simp] theorem durable_postBlock (s : State) :
    durable (postBlock s) = durable s := by
  unfold postBlock
  repeat' split
  all_goals first | with_reducible rfl | (simp only [durable_postBlockAt, durable_foldl, apply_ite durable, ite_self, eq_self, durable_fold, durable_mk, implies_true, apply_ite Gates.active, apply_ite Ctl.ready, apply_ite PowerFail.warn, apply_ite PowerFail.cut]; done) | (((first | apply durable_forAll | apply durable_foldl); intros; (try dsimp only); repeat' split) <;> first | with_reducible rfl | (simp only [durable_postBlockAt, durable_foldl, apply_ite durable, ite_self, eq_self, durable_fold, durable_mk, implies_true, apply_ite Gates.active, apply_ite Ctl.ready, apply_ite PowerFail.warn, apply_ite PowerFail.cut]; done)) | ((refine (durable_forAll _ _ ?_ _).trans ?_ <;> intros <;> (try dsimp only) <;> repeat' split) <;> first | with_reducible rfl | (simp only [durable_postBlockAt, durable_foldl, apply_ite durable, ite_self, eq_self, durable_fold, durable_mk, implies_true, apply_ite Gates.active, apply_ite Ctl.ready, apply_ite PowerFail.warn, apply_ite PowerFail.cut]; done))

@[simp] theorem durable_evDescFault (fn : Nat) (s : State) :
    durable (evDescFault fn s) = durable s := by
  simp only [evDescFault, durable_evS, durable_postCause]

@[simp] theorem durable_evWbFault (fn c : Nat) (a : Word) (s : State) :
    durable (evWbFault fn c a s) = durable s := by
  simp only [evWbFault, durable_evS, durable_modDsp, durable_postCause]

@[simp] theorem durable_evWdog (fn : Nat) (s : State) :
    durable (evWdog fn s) = durable s := by
  simp only [evWdog, durable_evS, durable_postCause]

@[simp] theorem durable_evLockBreak (fn : Nat) (s : State) :
    durable (evLockBreak fn s) = durable s := by
  simp only [evLockBreak, durable_evS, durable_postCause]

@[simp] theorem durable_evCplTimeout (fn : Nat) (s : State) :
    durable (evCplTimeout fn s) = durable s := by
  simp only [evCplTimeout, durable_evS, durable_postCause]

@[simp] theorem durable_reportTimeout (h fn : Nat) (s : State) :
    durable (reportTimeout h fn s) = durable s := by
  simp only [reportTimeout, durable_evCplTimeout, durable_modHp]

@[simp] theorem durable_evFnStop (fn : Nat) (s : State) :
    durable (evFnStop fn s) = durable s := by
  simp only [evFnStop, durable_evS, durable_postCause]

@[simp] theorem durable_evCtxEcc (fn : Nat) (s : State) :
    durable (evCtxEcc fn s) = durable s := by
  simp only [evCtxEcc, durable_evK, durable_evS, durable_postCause]

@[simp] theorem durable_modSlotSvc (core slot : Nat) (f : Svc → Svc) (s : State) :
    durable (modSlotSvc core slot f s) = durable s := by
  simp only [modSlotSvc, durable_modCore]

@[simp] theorem durable_wakeIsl (i : Nat) (s : State) :
    durable (wakeIsl i s) = durable s := by
  simp only [wakeIsl, durable_modIsl]

@[simp] theorem durable_modGroup (g : Nat) (f : MemGroup → MemGroup) (s : State) :
    durable (modGroup g f s) = durable s := (rfl)

@[simp] theorem durable_corCount (g : Nat) (s : State) :
    durable (corCount g s) = durable s := by
  simp only [corCount, durable_modGroup]

@[simp] theorem durable_softRead (g a n : Nat) (s : State) :
    durable (softRead g a n s) = durable s := by
  unfold softRead
  repeat' split
  all_goals simp

@[simp] theorem durable_eccCount (g : Nat) (s : State) :
    durable (eccCount g s) = durable s := by
  simp only [eccCount, durable_modGroup]

@[simp] theorem durable_eccMend (a n : Nat) (s : State) :
    durable (eccMend a n s) = durable s := (rfl)

@[simp] theorem durable_lmIssue (r : LmReq) (s : State) :
    durable (lmIssue r s) = durable s := (rfl)

@[simp] theorem durable_lmPromote (port tag : Nat) (s : State) :
    durable (lmPromote port tag s) = durable s := by
  unfold lmPromote; split <;> rfl

@[simp] theorem durable_lmServe (port : Nat) (s : State) :
    durable (lmServe port s) = durable s := by
  unfold lmServe
  repeat' split
  all_goals simp

@[simp] theorem durable_lmRetire (port tag : Nat) (s : State) :
    durable (lmRetire port tag s) = durable s := by
  unfold lmRetire
  repeat' split
  all_goals first | with_reducible rfl | (simp only [durable_lmPromote, apply_ite durable, ite_self, eq_self, durable_fold, durable_mk, implies_true, apply_ite Gates.active, apply_ite Ctl.ready, apply_ite PowerFail.warn, apply_ite PowerFail.cut]; done)

@[simp] theorem durable_dspUpd8 (addr compare cmask value wmask add : Word) (pu : Purpose) (s : State) :
    durable (dspUpd8 addr compare cmask value wmask add pu s) = durable s := by
  simp only [dspUpd8, durable_lmIssue]

@[simp] theorem durable_svcDone (core slot : Nat) (result : List Word) (s : State) :
    durable (svcDone core slot result s) = durable s := by
  simp only [svcDone, durable_modCore, durable_modSlotSvc]

@[simp] theorem durable_bitmapOr (c : Nat) (pu : Purpose) (s : State) :
    durable (bitmapOr c pu s) = durable s := by
  simp only [bitmapOr, durable_dspUpd8]

/-! ### GateOps -/

@[simp] theorem durable_vlogPut (x : Rule) (s : State) :
    durable (vlogPut x s) = durable s := by
  unfold vlogPut
  repeat' split
  all_goals first | with_reducible rfl | (simp only [durable_modGate, apply_ite durable, ite_self, eq_self, durable_fold, durable_mk, implies_true, apply_ite Gates.active, apply_ite Ctl.ready, apply_ite PowerFail.warn, apply_ite PowerFail.cut]; done)

@[simp] theorem durable_denyPrecise (g : Nat) (w : Who) (n : Need) (a : Word) (len : Nat) (v : Verdict) (s : State) :
    durable (denyPrecise g w n a len v s) = durable s := by
  unfold denyPrecise
  repeat' split
  all_goals simp

@[simp] theorem durable_evNotice (w : Who) (s : State) :
    durable (evNotice w s) = durable s := by
  simp only [evNotice, durable_evK, durable_evS, durable_modFn, durable_postCause, apply_ite durable, ite_self]

@[simp] theorem durable_denyNotice (g : Nat) (w : Who) (a : Word) (len : Nat) (v : Verdict) (s : State) :
    durable (denyNotice g w a len v s) = durable s := by
  unfold denyNotice
  repeat' split
  all_goals simp

/-! ### Lanes -/

@[simp] theorem durable_stir (p : Nat) (s : State) :
    durable (stir p s) = durable s := by
  simp only [stir, durable_modPort, durable_wakeIsl]

@[simp] theorem durable_sendLane (p : Nat) (ts : List Token) (s : State) :
    durable (sendLane p ts s) = durable s := by
  simp only [sendLane, durable_modOut, durable_modPort, durable_stir]

@[simp] theorem durable_sendOs (p : Nat) (b : Byte) (s : State) :
    durable (sendOs p b s) = durable s := by
  simp only [sendOs, durable_modOut, durable_modPort, durable_stir]

/-! ### XbarOps -/

@[simp] theorem durable_setLane (i : Nat) (l : Lane) (s : State) :
    durable (setLane i l s) = durable s := by
  simp only [setLane, durable_modXbar]

@[simp] theorem durable_slotCountTo (now : Word) (s : State) :
    durable (slotCountTo now s) = durable s := by
  simp only [slotCountTo, durable_modXbar]

@[simp] theorem durable_slotCount (s : State) :
    durable (slotCount s) = durable s := by
  simp only [slotCount, durable_slotCountTo]

@[simp] theorem durable_slotsTo (k n : Nat) (s : State) : durable (slotsTo k n s) = durable s := by
  induction k generalizing s with
  | zero => rfl
  | succ k ih =>
    simp only [slotsTo]
    split
    · rfl
    · rw [ih]; simp only [durable_modXbar, durable_slotCountTo]

@[simp] theorem durable_frameEnd (t : Word) (s : State) :
    durable (frameEnd t s) = durable s := by
  simp only [frameEnd, durable_slotCountTo, durable_slotsTo]

@[simp] theorem durable_modReq (p : XReq → Bool) (f : XReq → XReq) (s : State) :
    durable (modReq p f s) = durable s := by
  simp only [modReq, durable_modXbar]

@[simp] theorem durable_xask (r : XReq) (s : State) :
    durable (xask r s) = durable s := by
  simp only [xask, durable_modXbar, durable_setLane, apply_ite durable, ite_self]

@[simp] theorem durable_xpresentAll (idx ord : Nat) (dl : BitVec 20) (bs : List XBurst) (s : State) :
    durable (xpresentAll idx ord dl bs s) = durable s := by
  simp only [xpresentAll, durable_modReq, durable_slotCount, durable_wakeIsl, durable_xask, apply_ite durable,
      ite_self]

@[simp] theorem durable_xpresent (idx ord : Nat) (b : XBurst) (s : State) :
    durable (xpresent idx ord b s) = durable s := by
  simp only [xpresent, durable_xpresentAll]

@[simp] theorem durable_xEng (e n : Nat) (s : State) :
    durable (xEng e n s) = durable s := by
  simp only [xEng, durable_wakeIsl, durable_xpresent]

@[simp] theorem durable_xEngRead (e : Nat) (s : State) :
    durable (xEngRead e s) = durable s := by
  simp only [xEngRead, durable_wakeIsl, durable_xpresent]

@[simp] theorem durable_xHost (h fn : Nat) (dl : BitVec 20) (n : Nat) (s : State) :
    durable (xHost h fn dl n s) = durable s := by
  simp only [xHost, durable_xpresentAll]

@[simp] theorem durable_xLm (k : Nat) (dl : BitVec 20) (n : Nat) (s : State) :
    durable (xLm k dl n s) = durable s := by
  simp only [xLm, durable_xpresentAll]

@[simp] theorem durable_xTsv (n : Nat) (s : State) :
    durable (xTsv n s) = durable s := by
  simp only [xTsv, durable_wakeIsl, durable_xpresent]

@[simp] theorem durable_xCtl (n : Nat) (s : State) :
    durable (xCtl n s) = durable s := by
  simp only [xCtl, durable_xpresent]

@[simp] theorem durable_xCtlData (dl : BitVec 20) (n : Nat) (s : State) :
    durable (xCtlData dl n s) = durable s := by
  simp only [xCtlData, durable_xpresent]

@[simp] theorem durable_xTsvRead (a : Word) (n : Nat) (s : State) :
    durable (xTsvRead a n s) = durable s := by
  simp only [xTsvRead, durable_xLm, durable_xTsv]

@[simp] theorem durable_xTsvMany (write : Bool) (a : Word) (n count : Nat) (s : State) :
    durable (xTsvMany write a n count s) = durable s := by
  simp only [xTsvMany, durable_wakeIsl, durable_xpresentAll, apply_ite durable, ite_self]

@[simp] theorem durable_xbreak (e : Nat) (s : State) :
    durable (xbreak e s) = durable s := by
  simp only [xbreak, durable_modReq, durable_modXbar]

@[simp] theorem durable_dropLane (lane : Nat) (r : XReq) (s : State) :
    durable (dropLane lane r s) = durable s := by
  simp only [dropLane, durable_setLane]

@[simp] theorem durable_dropLanes (p : XReq → Bool) (s : State) :
    durable (dropLanes p s) = durable s := by
  unfold dropLanes
  repeat' split
  all_goals first | with_reducible rfl | (simp only [durable_dropLane, durable_forAll, apply_ite durable, ite_self, eq_self, durable_fold, durable_mk, implies_true, apply_ite Gates.active, apply_ite Ctl.ready, apply_ite PowerFail.warn, apply_ite PowerFail.cut]; done) | (((first | apply durable_forAll | apply durable_foldl); intros; (try dsimp only); repeat' split) <;> first | with_reducible rfl | (simp only [durable_dropLane, durable_forAll, apply_ite durable, ite_self, eq_self, durable_fold, durable_mk, implies_true, apply_ite Gates.active, apply_ite Ctl.ready, apply_ite PowerFail.warn, apply_ite PowerFail.cut]; done)) | ((refine (durable_forAll _ _ ?_ _).trans ?_ <;> intros <;> (try dsimp only) <;> repeat' split) <;> first | with_reducible rfl | (simp only [durable_dropLane, durable_forAll, apply_ite durable, ite_self, eq_self, durable_fold, durable_mk, implies_true, apply_ite Gates.active, apply_ite Ctl.ready, apply_ite PowerFail.warn, apply_ite PowerFail.cut]; done))

@[simp] theorem durable_xwithdrawIf (p : XReq → Bool) (s : State) :
    durable (xwithdrawIf p s) = durable s := by
  simp only [xwithdrawIf, durable_dropLanes, durable_modXbar, durable_slotCount]

@[simp] theorem durable_xwithdraw (idx ord : Nat) (s : State) :
    durable (xwithdraw idx ord s) = durable s := by
  simp only [xwithdraw, durable_xwithdrawIf]

@[simp] theorem durable_xstrip (p : XReq → Bool) (gone : XBurst → Bool) (s : State) :
    durable (xstrip p gone s) = durable s := by
  simp only [xstrip, durable_modReq, durable_xwithdrawIf]

@[simp] theorem durable_xdiscard (h fn : Nat) (s : State) :
    durable (xdiscard h fn s) = durable s := by
  simp only [xdiscard, durable_xstrip]

@[simp] theorem durable_xabandon (e : Nat) (s : State) :
    durable (xabandon e s) = durable s := by
  simp only [xabandon, durable_xstrip]

@[simp] theorem durable_xpark (r : XReq) (s : State) :
    durable (xpark r s) = durable s := by
  simp only [xpark, durable_modXbar]

@[simp] theorem durable_xwaits (r : XReq) (s : State) :
    durable (xwaits r s) = durable s := by
  simp only [xwaits, durable_xpark, apply_ite durable, ite_self]

@[simp] theorem durable_xremove (r : XReq) (s : State) :
    durable (xremove r s) = durable s := by
  simp only [xremove, durable_modXbar]

@[simp] theorem durable_unparkOver (idx : Nat) (s : State) :
    durable (unparkOver idx s) = durable s := by
  unfold unparkOver
  dsimp only
  repeat' split
  all_goals simp

@[simp] theorem durable_giveLane (i : Nat) (q : XReq) (s : State) :
    durable (giveLane i q s) = durable s := by
  simp only [giveLane, durable_setLane, durable_unparkOver, durable_xremove]

theorem durable_grantOne {cand : List XReq} {s : State} {p : List XReq × State}
    (hh : grantOne cand s = some p) : durable p.2 = durable s := by
  unfold grantOne at hh
  extract_lets c r at hh
  clear_value c
  repeat' split at hh
  all_goals first
    | (injection hh with hh; subst hh; simp only [durable_giveLane, durable_xwaits, durable_modXbar]; done)
    | (cases hh; done)

@[simp] theorem durable_grantN (n : Nat) (cand : List XReq) (s : State) : durable (grantN n cand s) = durable s := by
  induction n generalizing cand s with
  | zero => simp only [grantN]
  | succ n ih =>
    simp only [grantN]
    split
    · rfl
    · rw [ih]; exact durable_grantOne (p := (_, _)) (by assumption)

@[simp] theorem durable_passBeats (s : State) :
    durable (passBeats s) = durable s := by
  simp only [passBeats, durable_modXbar]

@[simp] theorem durable_dropEmpty (s : State) :
    durable (dropEmpty s) = durable s := by
  simp only [dropEmpty, durable_dropLanes]

@[simp] theorem durable_clearBreaks (s : State) :
    durable (clearBreaks s) = durable s := by
  simp only [clearBreaks, durable_modXbar]

@[simp] theorem durable_frozenBreaks (s : State) :
    durable (frozenBreaks s) = durable s := by
  unfold frozenBreaks
  repeat' split
  all_goals first | with_reducible rfl | (simp only [durable_forAll, durable_setLane, durable_xwaits, apply_ite durable, ite_self, eq_self, durable_fold, durable_mk, implies_true, apply_ite Gates.active, apply_ite Ctl.ready, apply_ite PowerFail.warn, apply_ite PowerFail.cut]; done) | (((first | apply durable_forAll | apply durable_foldl); intros; (try dsimp only); repeat' split) <;> first | with_reducible rfl | (simp only [durable_forAll, durable_setLane, durable_xwaits, apply_ite durable, ite_self, eq_self, durable_fold, durable_mk, implies_true, apply_ite Gates.active, apply_ite Ctl.ready, apply_ite PowerFail.warn, apply_ite PowerFail.cut]; done)) | ((refine (durable_forAll _ _ ?_ _).trans ?_ <;> intros <;> (try dsimp only) <;> repeat' split) <;> first | with_reducible rfl | (simp only [durable_forAll, durable_setLane, durable_xwaits, apply_ite durable, ite_self, eq_self, durable_fold, durable_mk, implies_true, apply_ite Gates.active, apply_ite Ctl.ready, apply_ite PowerFail.warn, apply_ite PowerFail.cut]; done))

@[simp] theorem durable_queueFresh (s : State) :
    durable (queueFresh s) = durable s := by
  unfold queueFresh
  repeat' split
  all_goals simp

theorem durable_execXbarDecision {s : State} {t' : State}
    (hh : execXbarDecision s = .next t') : durable t' = durable s := by
  unfold execXbarDecision at hh
  dsimp only at hh
  repeat' split at hh
  all_goals (cases hh; simp)

theorem durable_execLaneDrop {lane : Nat} {s : State} {t' : State}
    (hh : execLaneDrop lane s = .next t') : durable t' = durable s := by
  unfold execLaneDrop at hh
  repeat' split at hh
  all_goals (cases hh; first | rfl | simp only [durable_dropLane, durable_slotCount, apply_ite durable, ite_self])

theorem durable_execXbarRepresent {i : Nat} {s : State} {t' : State}
    (hh : execXbarRepresent i s = .next t') : durable t' = durable s := by
  unfold execXbarRepresent at hh
  repeat' split at hh
  all_goals (cases hh; first | rfl | simp only [durable_modXbar, durable_slotCount, durable_wakeIsl, durable_xask, apply_ite durable, ite_self])

@[simp] theorem durable_clusterPresent (k : Nat) (s : State) :
    durable (clusterPresent k s) = durable s := by
  unfold clusterPresent
  repeat' split
  all_goals first | rfl | simp only [durable_modReq, durable_slotCount, durable_wakeIsl, durable_xask,
      apply_ite durable, ite_self]

@[simp] theorem durable_clusterSettle (k : Nat) (s : State) :
    durable (clusterSettle k s) = durable s := by
  simp only [clusterSettle, durable_clusterPresent, durable_modXbar, durable_slotCount, apply_ite durable, ite_self]

@[simp] theorem durable_clusterDrop (k : Nat) (s : State) :
    durable (clusterDrop k s) = durable s := by
  simp only [clusterDrop, durable_modClu]

@[simp] theorem durable_clusterSend (k : Nat) (s : State) :
    durable (clusterSend k s).2 = durable s := by
  unfold clusterSend
  dsimp only
  repeat' split
  all_goals simp
theorem durable_clusterSend_pair {k : Nat} {s : State} {b' : Bool} {t' : State}
    (hh : clusterSend k s = (b', t')) : durable t' = durable s :=
  (congrArg (fun p => durable p.2) hh).symm.trans (durable_clusterSend k s )

@[simp] theorem durable_laneBreak (k : Nat) (s : State) :
    durable (laneBreak k s) = durable s := by
  simp only [laneBreak, durable_modXbar]

@[simp] theorem durable_clusterGrant (k i : Nat) (s : State) :
    durable (clusterGrant k i s) = durable s := by
  simp only [clusterGrant, durable_laneBreak, durable_modClu, durable_modPort, apply_ite durable, ite_self]

@[simp] theorem durable_clusterGive (k : Nat) (s : State) :
    durable (clusterGive k s) = durable s := by
  unfold clusterGive; split <;> first | rfl | simp only [durable_clusterGrant]

@[simp] theorem durable_clusterBreak (k : Nat) (s : State) :
    durable (clusterBreak k s) = durable s := by
  unfold clusterBreak
  dsimp only
  repeat' split
  all_goals simp

@[simp] theorem durable_clusterDecide (k : Nat) (s : State) :
    durable (clusterDecide k s) = durable s := by
  simp only [clusterDecide, durable_clusterBreak, durable_clusterGive, durable_clusterSend, durable_laneBreak,
      durable_modClu, apply_ite durable, ite_self]

theorem durable_execClusterDecision {k : Nat} {s : State} {t' : State}
    (hh : execClusterDecision k s = .next t') : durable t' = durable s := by
  unfold execClusterDecision at hh
  try dsimp only at hh
  repeat' split at hh
  all_goals first
    | (injection hh with hh; subst hh; first | with_reducible rfl | (simp only [durable_clusterDecide, durable_clusterSettle, apply_ite durable, ite_self, eq_self, durable_fold, durable_mk, implies_true, apply_ite Gates.active, apply_ite Ctl.ready, apply_ite PowerFail.warn, apply_ite PowerFail.cut]; done) | ((simp only [durable_clusterDecide, durable_clusterSettle, apply_ite durable, ite_self, eq_self, durable_fold, durable_mk, implies_true, apply_ite Gates.active, apply_ite Ctl.ready, apply_ite PowerFail.warn, apply_ite PowerFail.cut]; repeat' split) <;> first | with_reducible rfl | (simp only [durable_clusterDecide, durable_clusterSettle, apply_ite durable, ite_self, eq_self, durable_fold, durable_mk, implies_true, apply_ite Gates.active, apply_ite Ctl.ready, apply_ite PowerFail.warn, apply_ite PowerFail.cut]; done)))
    | exact absurd hh (by simp)

@[simp] theorem durable_clusterArrive (p : Nat) (dl : BitVec 20) (s : State) :
    durable (clusterArrive p dl s) = durable s := by
  simp only [clusterArrive, durable_clusterGrant, durable_clusterPresent, durable_modPort, durable_wakeIsl,
      apply_ite durable, ite_self]

@[simp] theorem durable_crossing (a : Answer) (f : State → State) (s : State) (hf : ∀  s, durable
    (f  s) = durable s) :
    durable (crossing a f s) = durable s := by
  unfold crossing; split <;> first | rfl | simp only [hf]

/-! ### Targets -/

@[simp] theorem durable_hqPut (h : Nat) (x : BitVec 128) (s : State) :
    durable (hqPut h x s) = durable s := by
  simp only [hqPut, durable_modOut]

theorem durable_hostTake {h : Nat} {w : HostWait} {s : State} {t' : State}
    (hh : hostTake h w s = .some t') : durable t' = durable s := by
  unfold hostTake at hh
  try dsimp only at hh
  repeat' split at hh
  all_goals first
    | (injection hh with hh; subst hh; first | with_reducible rfl | (simp only [durable_hqPut, apply_ite durable, ite_self, eq_self, durable_fold, durable_mk, implies_true, apply_ite Gates.active, apply_ite Ctl.ready, apply_ite PowerFail.warn, apply_ite PowerFail.cut]; done) | ((simp only [durable_hqPut, apply_ite durable, ite_self, eq_self, durable_fold, durable_mk, implies_true, apply_ite Gates.active, apply_ite Ctl.ready, apply_ite PowerFail.warn, apply_ite PowerFail.cut]; repeat' split) <;> first | with_reducible rfl | (simp only [durable_hqPut, apply_ite durable, ite_self, eq_self, durable_fold, durable_mk, implies_true, apply_ite Gates.active, apply_ite Ctl.ready, apply_ite PowerFail.warn, apply_ite PowerFail.cut]; done)))
    | exact absurd hh (by simp)

@[simp] theorem durable_hostTry (h : Nat) (w : HostWait) (s : State) : durable (hostTry h w s) = durable s := by
  unfold hostTry
  split
  · rename_i hh
    split at hh
    · cases hh
    · exact durable_hostTake hh
  · exact durable_modHp _ _ _

@[simp] theorem durable_hostRead (h : Nat) (w : HostWait) (s : State) :
    durable (hostRead h w s) = durable s := by
  simp only [hostRead, durable_hostTry]

@[simp] theorem durable_hostServe (h : Nat) (s : State) :
    durable (hostServe h s) = durable s := by
  unfold hostServe
  repeat' split
  all_goals first | with_reducible rfl | (simp only [durable_hostTry, durable_modHp, durable_foldl, apply_ite durable, ite_self, eq_self, durable_fold, durable_mk, implies_true, apply_ite Gates.active, apply_ite Ctl.ready, apply_ite PowerFail.warn, apply_ite PowerFail.cut]; done) | (((first | apply durable_forAll | apply durable_foldl); intros; (try dsimp only); repeat' split) <;> first | with_reducible rfl | (simp only [durable_hostTry, durable_modHp, durable_foldl, apply_ite durable, ite_self, eq_self, durable_fold, durable_mk, implies_true, apply_ite Gates.active, apply_ite Ctl.ready, apply_ite PowerFail.warn, apply_ite PowerFail.cut]; done)) | ((refine (durable_forAll _ _ ?_ _).trans ?_ <;> intros <;> (try dsimp only) <;> repeat' split) <;> first | with_reducible rfl | (simp only [durable_hostTry, durable_modHp, durable_foldl, apply_ite durable, ite_self, eq_self, durable_fold, durable_mk, implies_true, apply_ite Gates.active, apply_ite Ctl.ready, apply_ite PowerFail.warn, apply_ite PowerFail.cut]; done))

@[simp] theorem durable_resetDone (fn : Nat) (s : State) :
    durable (resetDone fn s) = durable s := by
  simp only [resetDone, durable_modFn, durable_modOut, apply_ite durable, ite_self]

@[simp] theorem durable_resetsDone (h : Nat) (s : State) :
    durable (resetsDone h s) = durable s := by
  unfold resetsDone
  repeat' split
  all_goals simp

@[simp] theorem durable_slotFree (h i : Nat) (s : State) :
    durable (slotFree h i s) = durable s := by
  simp only [slotFree, durable_hostServe, durable_modHp, durable_resetsDone]

@[simp] theorem durable_modSlot (h i : Nat) (f : Slot → Slot) (s : State) :
    durable (modSlot h i f s) = durable s := by
  simp only [modSlot, durable_modHp]

@[simp] theorem durable_hostPost (h fn : Nat) (a : Word) (d : List Byte) (o : Order) (cach : Bool) (pu : Purpose)
    (s : State) :
    durable (hostPost h fn a d o cach pu s) = durable s := by
  simp only [hostPost, durable_hqPut, durable_modHp, apply_ite durable, ite_self]

@[simp] theorem durable_hostWrite (h fn : Nat) (a : Word) (d : List Byte) (fix : Bool) (o : Order) (cach : Bool)
    (pu : Purpose) (s : State) :
    durable (hostWrite h fn a d fix o cach pu s) = durable s := by
  unfold hostWrite
  repeat' split
  all_goals first | with_reducible rfl | (simp only [durable_hostPost, durable_foldl, apply_ite durable, ite_self, eq_self, durable_fold, durable_mk, implies_true, apply_ite Gates.active, apply_ite Ctl.ready, apply_ite PowerFail.warn, apply_ite PowerFail.cut]; done) | (((first | apply durable_forAll | apply durable_foldl); intros; (try dsimp only); repeat' split) <;> first | with_reducible rfl | (simp only [durable_hostPost, durable_foldl, apply_ite durable, ite_self, eq_self, durable_fold, durable_mk, implies_true, apply_ite Gates.active, apply_ite Ctl.ready, apply_ite PowerFail.warn, apply_ite PowerFail.cut]; done)) | ((refine (durable_forAll _ _ ?_ _).trans ?_ <;> intros <;> (try dsimp only) <;> repeat' split) <;> first | with_reducible rfl | (simp only [durable_hostPost, durable_foldl, apply_ite durable, ite_self, eq_self, durable_fold, durable_mk, implies_true, apply_ite Gates.active, apply_ite Ctl.ready, apply_ite PowerFail.warn, apply_ite PowerFail.cut]; done))

theorem durable_sendNext {k : Nat} {s : State} {t' : State}
    (hh : sendNext k s = .some t') : durable t' = durable s := by
  unfold sendNext at hh
  try dsimp only at hh
  repeat' split at hh
  all_goals first
    | (injection hh with hh; subst hh; first | with_reducible rfl | (simp only [durable_modPort, durable_sendLane, apply_ite durable, ite_self, eq_self, durable_fold, durable_mk, implies_true, apply_ite Gates.active, apply_ite Ctl.ready, apply_ite PowerFail.warn, apply_ite PowerFail.cut]; done) | ((simp only [durable_modPort, durable_sendLane, apply_ite durable, ite_self, eq_self, durable_fold, durable_mk, implies_true, apply_ite Gates.active, apply_ite Ctl.ready, apply_ite PowerFail.warn, apply_ite PowerFail.cut]; repeat' split) <;> first | with_reducible rfl | (simp only [durable_modPort, durable_sendLane, apply_ite durable, ite_self, eq_self, durable_fold, durable_mk, implies_true, apply_ite Gates.active, apply_ite Ctl.ready, apply_ite PowerFail.warn, apply_ite PowerFail.cut]; done)))
    | exact absurd hh (by simp)

@[simp] theorem durable_portPumpN (k n : Nat) (s : State) : durable (portPumpN k n s) = durable s := by
  induction n generalizing s with
  | zero => rfl
  | succ n ih =>
    simp only [portPumpN]
    repeat' split
    all_goals first
      | rfl
      | exact (ih _).trans (durable_sendNext (by assumption))
      | exact durable_sendNext (by assumption)
      | simp only [ih]

@[simp] theorem durable_portPump (k : Nat) (s : State) :
    durable (portPump k s) = durable s := by
  simp only [portPump, durable_portPumpN]

@[simp] theorem durable_portRead (k : Nat) (r : PortRead) (s : State) :
    durable (portRead k r s) = durable s := by
  simp only [portRead, durable_modPort, durable_portPump, durable_wakeIsl]

@[simp] theorem durable_portWrite (k : Nat) (w : BufWrite) (s : State) :
    durable (portWrite k w s) = durable s := by
  simp only [portWrite, durable_modPort, durable_wakeIsl]

@[simp] theorem durable_sendRead (r : RdReq) (v : Verdict) (s : State) :
    durable (sendRead r v s) = durable s := by
  unfold sendRead; split <;> first | rfl | simp only [durable_hostRead, durable_lmIssue, durable_portRead]

@[simp] theorem durable_issueReadBy (f : RdReq → Verdict → State → State) (r : RdReq) (s : State)
    (hf : ∀ a0 a1 s, durable (f a0 a1 s) = durable s) :
    durable (issueReadBy f r s).2 = durable s := by
  unfold issueReadBy
  repeat' split
  all_goals first | with_reducible rfl | (simp only [durable_denyPrecise, hf, apply_ite durable, ite_self, eq_self, durable_fold, durable_mk, implies_true, apply_ite Gates.active, apply_ite Ctl.ready, apply_ite PowerFail.warn, apply_ite PowerFail.cut]; done) | ((simp only [durable_denyPrecise, hf, apply_ite durable, ite_self, eq_self, durable_fold, durable_mk, implies_true, apply_ite Gates.active, apply_ite Ctl.ready, apply_ite PowerFail.warn, apply_ite PowerFail.cut]; repeat' split) <;> first | with_reducible rfl | (simp only [durable_denyPrecise, hf, apply_ite durable, ite_self, eq_self, durable_fold, durable_mk, implies_true, apply_ite Gates.active, apply_ite Ctl.ready, apply_ite PowerFail.warn, apply_ite PowerFail.cut]; done))
theorem durable_issueReadBy_pair {f : RdReq → Verdict → State → State} {r : RdReq} {s : State}
    (hf : ∀ a0 a1 s, durable (f a0 a1 s) = durable s) {b' : Iss} {t' : State}
    (hh : issueReadBy f r s = (b', t')) : durable t' = durable s :=
  (congrArg (fun p => durable p.2) hh).symm.trans (durable_issueReadBy f r s hf)

@[simp] theorem durable_issueRead (r : RdReq) (s : State) :
    durable (issueRead r s).2 = durable s := by
  unfold issueRead
  repeat' split
  all_goals first | with_reducible rfl | (simp only [durable_issueReadBy, durable_sendRead, apply_ite durable, ite_self, eq_self, durable_fold, durable_mk, implies_true, apply_ite Gates.active, apply_ite Ctl.ready, apply_ite PowerFail.warn, apply_ite PowerFail.cut]; done)
theorem durable_issueRead_pair {r : RdReq} {s : State} {b' : Iss} {t' : State}
    (hh : issueRead r s = (b', t')) : durable t' = durable s :=
  (congrArg (fun p => durable p.2) hh).symm.trans (durable_issueRead r s )

@[simp] theorem durable_sendWrite (w : WrReq) (v : Verdict) (s : State) :
    durable (sendWrite w v s) = durable s := by
  unfold sendWrite; split <;> first | rfl | simp only [durable_hostWrite, durable_lmIssue]

@[simp] theorem durable_issueWrite (w : WrReq) (s : State) :
    durable (issueWrite w s).2 = durable s := by
  unfold issueWrite
  repeat' split
  all_goals first | with_reducible rfl | (simp only [durable_denyPrecise, durable_portWrite, durable_sendWrite, apply_ite durable, ite_self, eq_self, durable_fold, durable_mk, implies_true, apply_ite Gates.active, apply_ite Ctl.ready, apply_ite PowerFail.warn, apply_ite PowerFail.cut]; done) | ((simp only [durable_denyPrecise, durable_portWrite, durable_sendWrite, apply_ite durable, ite_self, eq_self, durable_fold, durable_mk, implies_true, apply_ite Gates.active, apply_ite Ctl.ready, apply_ite PowerFail.warn, apply_ite PowerFail.cut]; repeat' split) <;> first | with_reducible rfl | (simp only [durable_denyPrecise, durable_portWrite, durable_sendWrite, apply_ite durable, ite_self, eq_self, durable_fold, durable_mk, implies_true, apply_ite Gates.active, apply_ite Ctl.ready, apply_ite PowerFail.warn, apply_ite PowerFail.cut]; done))
theorem durable_issueWrite_pair {w : WrReq} {s : State} {b' : Iss} {t' : State}
    (hh : issueWrite w s = (b', t')) : durable t' = durable s :=
  (congrArg (fun p => durable p.2) hh).symm.trans (durable_issueWrite w s )

@[simp] theorem durable_issueUpd8 (who : Who) (addr compare cmask value wmask add : Word) (pu : Purpose) (s : State) :
    durable (issueUpd8 who addr compare cmask value wmask add pu s).2 = durable s := by
  unfold issueUpd8
  dsimp only
  repeat' split
  all_goals simp
theorem durable_issueUpd8_pair {who : Who} {addr compare cmask value wmask add : Word} {pu : Purpose} {s : State} {b' : Iss} {t' : State}
    (hh : issueUpd8 who addr compare cmask value wmask add pu s = (b', t')) : durable t' = durable s :=
  (congrArg (fun p => durable p.2) hh).symm.trans (durable_issueUpd8 who addr compare cmask value wmask add pu s )

@[simp] theorem durable_issueFlush (h fn : Nat) (a : Word) (ido : Bool) (pu : Purpose) (s : State) :
    durable (issueFlush h fn a ido pu s) = durable s := by
  simp only [issueFlush, durable_hostRead, apply_ite durable, ite_self]

@[simp] theorem durable_undefJoinN  (n : Nat) (s : State) :
    durable (undefJoinN  n s) = durable s := by
  induction n generalizing s with
  | zero => rfl
  | succ n ih =>
    simp only [undefJoinN]
    repeat' split
    all_goals first | rfl | simp only [ih, apply_ite durable, ite_self, eq_self, durable_fold, durable_mk,
        implies_true, apply_ite Gates.active, apply_ite Ctl.ready, apply_ite PowerFail.warn, apply_ite PowerFail.cut]

@[simp] theorem durable_undefJoin (s : State) :
    durable (undefJoin s) = durable s := by
  simp only [undefJoin, durable_undefJoinN]

@[simp] theorem durable_dropIf (k : Discard) (p : Purpose → Bool) (s : State) :
    durable (dropIf k p s) = durable s := (rfl)

@[simp] theorem durable_disown (e c : Nat) (s : State) :
    durable (disown e c s) = durable s := by
  unfold disown
  repeat' split
  all_goals first | rfl | simp only [durable_dropIf, apply_ite durable, ite_self]

/-! ### MailOps -/

@[simp] theorem durable_gbarArm (s : State) :
    durable (gbarArm s) = durable s := by
  unfold gbarArm
  dsimp only
  repeat' split
  all_goals simp

@[simp] theorem durable_setShadow (g i : Nat) (r : Rule) (s : State) :
    durable (setShadow g i r s) = durable s := by
  unfold setShadow
  repeat' split
  all_goals first | rfl | simp only [durable_modGate, apply_ite durable, ite_self]

@[simp] theorem durable_installStart (s : State) :
    durable (installStart s) = durable s := by
  unfold installStart
  repeat' split
  all_goals simp

@[simp] theorem durable_installLm (g : Nat) (s : State) :
    durable (installLm g s) = durable s := by
  simp only [installLm, durable_setShadow, apply_ite durable, ite_self]

@[simp] theorem durable_armMask (m : BitVec 71) (s : State) :
    durable (armMask m s) = durable s := by
  unfold armMask
  repeat' split
  all_goals simp

@[simp] theorem durable_haltCore (n : Nat) (s : State) :
    durable (haltCore n s) = durable s := by
  unfold haltCore
  repeat' split
  all_goals first | rfl | simp only [durable_modCore, durable_modCtl, apply_ite durable, ite_self]

@[simp] theorem durable_startCore (n : Nat) (s : State) :
    durable (startCore n s) = durable s := by
  unfold startCore
  repeat' split
  all_goals first | rfl | simp only [durable_modCore, durable_modCtl, apply_ite durable, ite_self]

@[simp] theorem durable_writeCcctl (v : Half) (s : State) :
    durable (writeCcctl v s) = durable s := by
  unfold writeCcctl
  repeat' split
  all_goals simp

@[simp] theorem durable_startScree (bank : Bool) (entry : Half) (cause : BitVec 2) (s : State) :
    durable (startScree bank entry cause s) = durable s := by
  unfold startScree
  repeat' split
  all_goals simp

@[simp] theorem durable_mbxPost (m : Nat) (s : State) :
    durable (mbxPost m s) = durable s := by
  simp only [mbxPost, durable_evK, durable_evS, durable_modMbx, apply_ite durable, ite_self]

@[simp] theorem durable_mbxDone (m : Nat) (s : State) :
    durable (mbxDone m s) = durable s := by
  simp only [mbxDone, durable_evK, durable_evS, durable_modMbx, apply_ite durable, ite_self]

@[simp] theorem durable_bedAnswer (m result : Nat) (detail : Half) (ws : List Word) (s : State) :
    durable (bedAnswer m result detail ws s) = durable s := by
  simp only [bedAnswer, durable_mbxDone, durable_modMbx]

@[simp] theorem durable_postNotice (cmd : Nat) (r1 r2 : Word) (s : State) :
    durable (postNotice cmd r1 r2 s) = durable s := by
  simp only [postNotice, durable_drawFree, durable_mbxPost, durable_modMbx]

@[simp] theorem durable_nextNotice (s : State) :
    durable (nextNotice s) = durable s := by
  unfold nextNotice
  dsimp only
  repeat' split
  all_goals simp

@[simp] theorem durable_armNext  (n : Nat) (s : State) :
    durable (armNext  n s) = durable s := by
  induction n generalizing s with
  | zero => rfl
  | succ n ih =>
    simp only [armNext]
    repeat' split
    all_goals first | rfl | simp only [ih, durable_armMask, durable_bedAnswer, durable_modCtl, durable_setShadow,
        apply_ite durable, ite_self, eq_self, durable_fold, durable_mk, implies_true, apply_ite Gates.active,
        apply_ite Ctl.ready, apply_ite PowerFail.warn, apply_ite PowerFail.cut]

@[simp] theorem durable_screeGo (s : State) :
    durable (screeGo s) = durable s := by
  unfold screeGo
  dsimp only
  repeat' split
  all_goals simp

@[simp] theorem durable_barrierDone (s : State) :
    durable (barrierDone s) = durable s := by
  unfold barrierDone
  repeat' split
  all_goals simp

/-! ### ChanOps -/

@[simp] theorem durable_writeBack (c : Nat) (s : State) :
    durable (writeBack c s) = durable s := by
  simp only [writeBack, durable_lmIssue]

@[simp] theorem durable_cacheUse (c : Nat) (changed : Bool) (s : State) :
    durable (cacheUse c changed s) = durable s := by
  unfold cacheUse
  dsimp only
  repeat' split
  all_goals simp

@[simp] theorem durable_enqueue (c : Nat) (s : State) :
    durable (enqueue c s) = durable s := by
  simp only [enqueue, durable_bitmapOr, durable_modDsp, apply_ite durable, ite_self]

@[simp] theorem durable_toReady (c : Nat) (s : State) :
    durable (toReady c s) = durable s := by
  simp only [toReady, durable_cacheUse, durable_enqueue, durable_modCtx, apply_ite durable, ite_self]

@[simp] theorem durable_unqueue (c : Nat) (s : State) :
    durable (unqueue c s) = durable s := by
  simp only [unqueue, durable_modDsp]

@[simp] theorem durable_unwatch (c : Nat) (s : State) :
    durable (unwatch c s) = durable s := (rfl)

@[simp] theorem durable_breakEntry (x : LockEntry) (cause : BitVec 3) (s : State) :
    durable (breakEntry x cause s) = durable s := by
  simp only [breakEntry, durable_evLockBreak, durable_issueUpd8, durable_modLock, durable_xCtl, apply_ite durable,
      ite_self]

@[simp] theorem durable_breakSoon (x : LockEntry) (cause : BitVec 3) (s : State) :
    durable (breakSoon x cause s) = durable s := by
  simp only [breakSoon, durable_breakEntry, durable_modLock, apply_ite durable, ite_self]

@[simp] theorem durable_breakOrWait (x : LockEntry) (cause : BitVec 3) (s : State) :
    durable (breakOrWait x cause s) = durable s := by
  simp only [breakOrWait, durable_breakSoon, durable_modLock, apply_ite durable, ite_self]

@[simp] theorem durable_breakOnLeave (c : Nat) (cause : Option (BitVec 3)) (s : State) :
    durable (breakOnLeave c cause s) = durable s := by
  unfold breakOnLeave
  repeat' split
  all_goals first | with_reducible rfl | (simp only [durable_breakSoon, durable_forAll, apply_ite durable, ite_self, eq_self, durable_fold, durable_mk, implies_true, apply_ite Gates.active, apply_ite Ctl.ready, apply_ite PowerFail.warn, apply_ite PowerFail.cut]; done) | (((first | apply durable_forAll | apply durable_foldl); intros; (try dsimp only); repeat' split) <;> first | with_reducible rfl | (simp only [durable_breakSoon, durable_forAll, apply_ite durable, ite_self, eq_self, durable_fold, durable_mk, implies_true, apply_ite Gates.active, apply_ite Ctl.ready, apply_ite PowerFail.warn, apply_ite PowerFail.cut]; done)) | ((refine (durable_forAll _ _ ?_ _).trans ?_ <;> intros <;> (try dsimp only) <;> repeat' split) <;> first | with_reducible rfl | (simp only [durable_breakSoon, durable_forAll, apply_ite durable, ite_self, eq_self, durable_fold, durable_mk, implies_true, apply_ite Gates.active, apply_ite Ctl.ready, apply_ite PowerFail.warn, apply_ite PowerFail.cut]; done))

@[simp] theorem durable_breakAfter (c : Nat) (s : State) :
    durable (breakAfter c s) = durable s := by
  unfold breakAfter
  repeat' split
  all_goals first | with_reducible rfl | (simp only [durable_breakEntry, durable_forAll, apply_ite durable, ite_self, eq_self, durable_fold, durable_mk, implies_true, apply_ite Gates.active, apply_ite Ctl.ready, apply_ite PowerFail.warn, apply_ite PowerFail.cut]; done) | (((first | apply durable_forAll | apply durable_foldl); intros; (try dsimp only); repeat' split) <;> first | with_reducible rfl | (simp only [durable_breakEntry, durable_forAll, apply_ite durable, ite_self, eq_self, durable_fold, durable_mk, implies_true, apply_ite Gates.active, apply_ite Ctl.ready, apply_ite PowerFail.warn, apply_ite PowerFail.cut]; done)) | ((refine (durable_forAll _ _ ?_ _).trans ?_ <;> intros <;> (try dsimp only) <;> repeat' split) <;> first | with_reducible rfl | (simp only [durable_breakEntry, durable_forAll, apply_ite durable, ite_self, eq_self, durable_fold, durable_mk, implies_true, apply_ite Gates.active, apply_ite Ctl.ready, apply_ite PowerFail.warn, apply_ite PowerFail.cut]; done))

@[simp] theorem durable_breakFn (fn : Nat) (cause : BitVec 3) (s : State) :
    durable (breakFn fn cause s) = durable s := by
  unfold breakFn
  repeat' split
  all_goals simp

@[simp] theorem durable_lockFree (a : Word) (s : State) :
    durable (lockFree a s) = durable s := by
  simp only [lockFree, durable_modLock]

@[simp] theorem durable_noticeClear (fn : Nat) (s : State) :
    durable (noticeClear fn s) = durable s := by
  simp only [noticeClear, durable_modFn]

@[simp] theorem durable_dropTasks (c : Nat) (s : State) :
    durable (dropTasks c s) = durable s := by
  simp only [dropTasks, durable_modDsp]

@[simp] theorem durable_stopCtx (c : Nat) (code : Byte) (flags : Option Byte) (s : State) :
    durable (stopCtx c code flags s) = durable s := by
  simp only [stopCtx, durable_breakOnLeave, durable_cacheUse, durable_dropTasks, durable_modCtx, durable_unqueue,
      durable_unwatch]

@[simp] theorem durable_directOver (c : Nat) (s : State) :
    durable (directOver c s) = durable s := by
  simp only [directOver, durable_modCtx]

@[simp] theorem durable_abortIdle (c : Nat) (s : State) :
    durable (abortIdle c s) = durable s := by
  simp only [abortIdle, durable_directOver, durable_modCtx, durable_noticeClear, durable_stopCtx]

@[simp] theorem durable_abortOff (c : Nat) (s : State) :
    durable (abortOff c s) = durable s := by
  simp only [abortOff, durable_abortIdle, durable_modDsp, durable_unqueue, durable_unwatch, apply_ite durable,
      ite_self]

/-! ### EngOps -/

@[simp] theorem durable_modThr (e : Nat) (f : Thread → Thread) (s : State) :
    durable (modThr e f s) = durable s := by
  simp only [modThr, durable_modEng]

@[simp] theorem durable_modMain (e : Nat) (f : Thread → Thread) (s : State) :
    durable (modMain e f s) = durable s := by
  simp only [modMain, durable_modEng]

@[simp] theorem durable_modRegs (e : Nat) (f : Regs → Regs) (s : State) :
    durable (modRegs e f s) = durable s := by
  simp only [modRegs, durable_modThr]

@[simp] theorem durable_flushAt (h : Nat) (p : Purpose → Bool) (pu : Purpose) (s : State) :
    durable (flushAt h p pu s) = durable s := by
  unfold flushAt
  repeat' split
  all_goals first | rfl | simp only [durable_issueFlush, durable_xEng, apply_ite durable, ite_self]

@[simp] theorem durable_flushDesc (e : Nat) (s : State) :
    durable (flushDesc e s) = durable s := by
  unfold flushDesc
  repeat' split
  all_goals first | with_reducible rfl | (simp only [durable_flushAt, durable_forAll, durable_modMain, apply_ite durable, ite_self, eq_self, durable_fold, durable_mk, implies_true, apply_ite Gates.active, apply_ite Ctl.ready, apply_ite PowerFail.warn, apply_ite PowerFail.cut]; done) | (((first | apply durable_forAll | apply durable_foldl); intros; (try dsimp only); repeat' split) <;> first | with_reducible rfl | (simp only [durable_flushAt, durable_forAll, durable_modMain, apply_ite durable, ite_self, eq_self, durable_fold, durable_mk, implies_true, apply_ite Gates.active, apply_ite Ctl.ready, apply_ite PowerFail.warn, apply_ite PowerFail.cut]; done)) | ((refine (durable_forAll _ _ ?_ _).trans ?_ <;> intros <;> (try dsimp only) <;> repeat' split) <;> first | with_reducible rfl | (simp only [durable_flushAt, durable_forAll, durable_modMain, apply_ite durable, ite_self, eq_self, durable_fold, durable_mk, implies_true, apply_ite Gates.active, apply_ite Ctl.ready, apply_ite PowerFail.warn, apply_ite PowerFail.cut]; done))

@[simp] theorem durable_dropReads (k : Discard) (e : Nat) (s : State) :
    durable (dropReads k e s) = durable s := by
  simp only [dropReads, durable_dropIf]

@[simp] theorem durable_dropSpec (e : Nat) (s : State) :
    durable (dropSpec e s) = durable s := by
  simp only [dropSpec, durable_dropReads, durable_modDsp, durable_modEng]

@[simp] theorem durable_discardSpec (e : Nat) (s : State) :
    durable (discardSpec e s) = durable s := by
  simp only [discardSpec, durable_dropIf, durable_modCtx, durable_modDsp, durable_modEng, apply_ite durable, ite_self]

@[simp] theorem durable_discardPath (e : Nat) (target : Word) (sp : BitVec 4) (s : State) :
    durable (discardPath e target sp s) = durable s := by
  simp only [discardPath, durable_dropIf, durable_modCtx, durable_modDsp, durable_modEng, apply_ite durable, ite_self]

@[simp] theorem durable_quiesceStep (s : State) :
    durable (quiesceStep s) = durable s := by
  simp only [quiesceStep, durable_modDsp, apply_ite durable, ite_self]

@[simp] theorem durable_keepEntry (e : Nat) (s : State) :
    durable (keepEntry e s) = durable s := by
  unfold keepEntry; split <;> first | rfl | simp only [durable_modPf]

@[simp] theorem durable_leaveEng (e : Nat) (s : State) :
    durable (leaveEng e s) = durable s := by
  simp only [leaveEng, durable_disown, durable_dropSpec, durable_keepEntry, durable_modCtx, durable_modEng,
      durable_quiesceStep]

@[simp] theorem durable_stopEng (e : Nat) (code : Byte) (flags : Option Byte) (s : State) :
    durable (stopEng e code flags s) = durable s := by
  simp only [stopEng, durable_leaveEng, durable_stopCtx]

@[simp] theorem durable_trySpec (e : Nat) (s : State) :
    durable (trySpec e s) = durable s := by
  unfold trySpec
  dsimp only
  repeat' split
  all_goals simp

@[simp] theorem durable_wbFault (e : Nat) (code : Byte) (s : State) :
    durable (wbFault e code s) = durable s := by
  simp only [wbFault, durable_directOver, durable_evWbFault, durable_modCtx, durable_stopEng]

@[simp] theorem durable_xCount (f : State → State) (hf : ∀  s, durable (f  s) = durable s) (p : Iss × State) :
    durable (xCount f p).2 = durable p.2 := by
  unfold xCount; split <;> first | rfl | simp only [hf]

@[simp] theorem durable_engRead (e : Nat) (r : RdReq) (s : State) :
    durable (engRead e r s).2 = durable s := by
  unfold engRead
  repeat' split
  all_goals simp
theorem durable_engRead_pair {e : Nat} {r : RdReq} {s : State} {b' : Iss} {t' : State}
    (hh : engRead e r s = (b', t')) : durable t' = durable s :=
  (congrArg (fun p => durable p.2) hh).symm.trans (durable_engRead e r s )

@[simp] theorem durable_engWrite (e : Nat) (w : WrReq) (s : State) :
    durable (engWrite e w s).2 = durable s := by
  unfold engWrite
  repeat' split
  all_goals simp
theorem durable_engWrite_pair {e : Nat} {w : WrReq} {s : State} {b' : Iss} {t' : State}
    (hh : engWrite e w s = (b', t')) : durable t' = durable s :=
  (congrArg (fun p => durable p.2) hh).symm.trans (durable_engWrite e w s )

@[simp] theorem durable_wbWrite (e : Nat) (sp : BitVec 4) (a v : Word) (pu : Purpose) (s : State) :
    durable (wbWrite e sp a v pu s).2 = durable s := by
  unfold wbWrite
  repeat' split
  all_goals first | with_reducible rfl | (simp only [durable_engWrite, durable_wbFault, apply_ite durable, ite_self, eq_self, durable_fold, durable_mk, implies_true, apply_ite Gates.active, apply_ite Ctl.ready, apply_ite PowerFail.warn, apply_ite PowerFail.cut]; done) | ((try have q0 := durable_engWrite_pair (by assumption)); simp only [durable_engWrite, durable_wbFault, apply_ite durable, ite_self, eq_self, durable_fold, durable_mk, implies_true, apply_ite Gates.active, apply_ite Ctl.ready, apply_ite PowerFail.warn, apply_ite PowerFail.cut, *]; done)
theorem durable_wbWrite_pair {e : Nat} {sp : BitVec 4} {a v : Word} {pu : Purpose} {s : State} {b' : Bool} {t' : State}
    (hh : wbWrite e sp a v pu s = (b', t')) : durable t' = durable s :=
  (congrArg (fun p => durable p.2) hh).symm.trans (durable_wbWrite e sp a v pu s )

@[simp] theorem durable_statusWrite (e : Nat) (s : State) :
    durable (statusWrite e s) = durable s := by
  unfold statusWrite
  dsimp only
  repeat' split
  all_goals first
    | (simp; done)
    | (have h := durable_wbWrite_pair (by assumption); simp [h]; done)

@[simp] theorem durable_takeFlags (e : Nat) (b r : Bool) (s : State) :
    durable (takeFlags e b r s).2 = durable s := by
  simp only [takeFlags, durable_modCtx, durable_noticeClear]
theorem durable_takeFlags_pair {e : Nat} {b r : Bool} {s : State} {b' : Byte} {t' : State}
    (hh : takeFlags e b r s = (b', t')) : durable t' = durable s :=
  (congrArg (fun p => durable p.2) hh).symm.trans (durable_takeFlags e b r s )

@[simp] theorem durable_beginComplete (e : Nat) (code : Byte) (next : Word × BitVec 4) (s : State) :
    durable (beginComplete e code next s) = durable s := by
  simp only [beginComplete, durable_modMain, durable_statusWrite, durable_takeFlags, durable_trySpec]

@[simp] theorem durable_nextDesc (e : Nat) (s : State) :
    durable (nextDesc e s) = durable s := by
  simp only [nextDesc, durable_modMain]

@[simp] theorem durable_yieldOrNext (e : Nat) (s : State) :
    durable (yieldOrNext e s) = durable s := by
  simp only [yieldOrNext, durable_breakOnLeave, durable_leaveEng, durable_modDsp, durable_nextDesc,
      durable_toReady, apply_ite durable, ite_self]

@[simp] theorem durable_finishComplete (e : Nat) (s : State) :
    durable (finishComplete e s) = durable s := by
  unfold finishComplete
  dsimp only
  repeat' split
  all_goals first
    | (simp; done)
    | (have h := durable_wbWrite_pair (by assumption); simp [h]; done)

@[simp] theorem durable_endDirect (e : Nat) (code : Byte) (noNotify : Bool) (s : State) :
    durable (endDirect e code noNotify s) = durable s := by
  simp only [endDirect, durable_modMain, durable_takeFlags, durable_wbWrite, apply_ite durable, ite_self]

@[simp] theorem durable_finishDirect (e : Nat) (s : State) :
    durable (finishDirect e s) = durable s := by
  unfold finishDirect
  dsimp only
  repeat' split
  all_goals simp

@[simp] theorem durable_endWork (e : Nat) (code : Byte) (s : State) :
    durable (endWork e code s) = durable s := by
  simp only [endWork, durable_modMain]

@[simp] theorem durable_finishWork (e : Nat) (s : State) :
    durable (finishWork e s) = durable s := by
  unfold finishWork
  split
  · simp only [durable_modEng, durable_svcDone, apply_ite durable, ite_self]
  · rfl

@[simp] theorem durable_endDescr (e : Nat) (code : Byte) (s : State) :
    durable (endDescr e code s) = durable s := by
  simp only [endDescr, durable_beginComplete, durable_endDirect, durable_endWork, durable_modMain,
      apply_ite durable, ite_self]

@[simp] theorem durable_failInstr (e : Nat) (code : Byte) (s : State) :
    durable (failInstr e code s) = durable s := by
  simp only [failInstr, durable_endDescr, durable_modThr, apply_ite durable, ite_self]

@[simp] theorem durable_endProgram (e : Nat) (s : State) :
    durable (endProgram e s) = durable s := by
  simp only [endProgram, durable_endDescr, durable_modThr, apply_ite durable, ite_self]

@[simp] theorem durable_retire (e n : Nat) (s : State) :
    durable (retire e n s) = durable s := by
  simp only [retire, durable_endProgram, durable_modThr, apply_ite durable, ite_self]

@[simp] theorem durable_retireMove (e : Nat) (s : State) :
    durable (retireMove e s) = durable s := by
  simp only [retireMove, durable_endDirect, durable_retire, apply_ite durable, ite_self]

end Sys2Proof.Machine
end

