-- ==== Sys2Proof/Laws/DurableMoves.lean ====
section
/-! SUPPORT. What the engines' operations leave of the durable part of a state (Safety.lean): each keeps it. One lemma per operation. -/

namespace Sys2Proof.Machine

/-! ### MoveOps -/

@[simp] theorem durable_modMv (e : Nat) (f : Move → Move) (s : State) :
    durable (modMv e f s) = durable s := by
  simp only [modMv, durable_modThr]

@[simp] theorem durable_fetchList (e : Nat) (s : State) :
    durable (fetchList e s) = durable s := by
  unfold fetchList
  repeat' split
  all_goals first | with_reducible rfl | (simp only [durable_engRead, durable_modDsp, durable_modMv, durable_modThr, apply_ite durable, ite_self, eq_self, durable_fold, durable_mk, implies_true, apply_ite Gates.active, apply_ite Ctl.ready, apply_ite PowerFail.warn, apply_ite PowerFail.cut]; done) | ((try have q0 := durable_engRead_pair (by assumption)); simp only [durable_engRead, durable_modDsp, durable_modMv, durable_modThr, apply_ite durable, ite_self, eq_self, durable_fold, durable_mk, implies_true, apply_ite Gates.active, apply_ite Ctl.ready, apply_ite PowerFail.warn, apply_ite PowerFail.cut, *]; done)

@[simp] theorem durable_overlapLate (old m : Move) (s : State) :
    durable (overlapLate old m s) = durable s := by
  unfold overlapLate
  repeat' split
  all_goals first | with_reducible rfl | (simp only [durable_drawBytes, durable_undefJoin, apply_ite durable, ite_self, eq_self, durable_fold, durable_mk, implies_true, apply_ite Gates.active, apply_ite Ctl.ready, apply_ite PowerFail.warn, apply_ite PowerFail.cut]; done) | ((try have q0 := durable_drawBytes_pair (by assumption)); simp only [durable_drawBytes, durable_undefJoin, apply_ite durable, ite_self, eq_self, durable_fold, durable_mk, implies_true, apply_ite Gates.active, apply_ite Ctl.ready, apply_ite PowerFail.warn, apply_ite PowerFail.cut, *]; done)

@[simp] theorem durable_listStep (e : Nat) (s : State) :
    durable (listStep e s) = durable s := by
  unfold listStep
  dsimp only
  repeat' split
  all_goals simp

@[simp] theorem durable_readBurst (e : Nat) (m : Move) (off n : Nat) (s : State) :
    durable (readBurst e m off n s).2 = durable s := by
  unfold readBurst
  dsimp only
  repeat' split
  all_goals first
    | (simp; done)
    | (have h := durable_engRead_pair (by assumption); simp [h]; done)
theorem durable_readBurst_pair {e : Nat} {m : Move} {off n : Nat} {s : State} {b' : Iss} {t' : State}
    (hh : readBurst e m off n s = (b', t')) : durable t' = durable s :=
  (congrArg (fun p => durable p.2) hh).symm.trans (durable_readBurst e m off n s )

@[simp] theorem durable_burstBreak (e : Nat) (m : Move) (s : State) :
    durable (burstBreak e m s) = durable s := by
  simp only [burstBreak, durable_xbreak, apply_ite durable, ite_self]

@[simp] theorem durable_presentBursts (e : Nat) (m : Move) (s : State) :
    durable (presentBursts e m s).2.2 = durable s := by
  unfold presentBursts
  dsimp only
  repeat' split
  all_goals first
    | (simp; done)
    | (have h := durable_readBurst_pair (by assumption); simp [h]; done)

@[simp] theorem durable_evalPace (e : Nat) (s : State) :
    durable (evalPace e s) = durable s := by
  unfold evalPace
  repeat' split
  all_goals first | rfl | simp only [durable_modEng, apply_ite durable, ite_self]

@[simp] theorem durable_burstData (m : Move) (off : Nat) (d : List Byte) (s : State) :
    durable (burstData m off d s).2 = durable s := by
  unfold burstData
  dsimp only
  repeat' split
  all_goals simp
theorem durable_burstData_pair {m : Move} {off : Nat} {d : List Byte} {s : State} {b' : List Byte} {t' : State}
    (hh : burstData m off d s = (b', t')) : durable t' = durable s :=
  (congrArg (fun p => durable p.2) hh).symm.trans (durable_burstData m off d s )

@[simp] theorem durable_sramStaged (e : Nat) (m : Move) (n : Nat) (s : State) :
    durable (sramStaged e m n s).2 = durable s := by
  unfold sramStaged
  dsimp only
  repeat' split
  all_goals simp
theorem durable_sramStaged_pair {e : Nat} {m : Move} {n : Nat} {s : State} {b' : Bool} {t' : State}
    (hh : sramStaged e m n s = (b', t')) : durable t' = durable s :=
  (congrArg (fun p => durable p.2) hh).symm.trans (durable_sramStaged e m n s )

@[simp] theorem durable_destBurst (e : Nat) (m : Move) (d : List Byte) (s : State) :
    durable (destBurst e m d s) = durable s := by
  unfold destBurst
  dsimp only
  repeat' split
  all_goals first
    | (simp; done)
    | (have h := durable_burstData_pair (by assumption); simp [h]; done)
    | (have h := durable_engWrite_pair (by assumption); simp [h]; done)

@[simp] theorem durable_flushIf (due : Move → Bool) (e : Nat) (s : State) :
    durable (flushIf due e s) = durable s := by
  unfold flushIf
  repeat' split
  all_goals first | rfl | simp only [durable_flushAt, durable_modMv, apply_ite durable, ite_self]

@[simp] theorem durable_flush64 (e : Nat) (s : State) :
    durable (flush64 e s) = durable s := by
  simp only [flush64, durable_flushIf]

@[simp] theorem durable_drainN (e : Nat) (n : Nat) (s : State) :
    durable (drainN e n s) = durable s := by
  induction n generalizing s with
  | zero => rfl
  | succ n ih =>
    simp only [drainN]
    repeat' split
    all_goals first | rfl | ((try have q0 := durable_sramStaged_pair (by assumption)); simp only [ih, durable_destBurst, durable_evalPace, durable_flush64, durable_sramStaged, apply_ite durable, ite_self, eq_self, durable_fold, durable_mk, implies_true, apply_ite Gates.active, apply_ite Ctl.ready, apply_ite PowerFail.warn, apply_ite PowerFail.cut, *]; done) | simp only [ih, durable_destBurst, durable_evalPace, durable_flush64, durable_sramStaged, apply_ite durable, ite_self, eq_self, durable_fold, durable_mk, implies_true, apply_ite Gates.active, apply_ite Ctl.ready, apply_ite PowerFail.warn, apply_ite PowerFail.cut]

@[simp] theorem durable_flushMove (e : Nat) (s : State) :
    durable (flushMove e s) = durable s := by
  simp only [flushMove, durable_flushIf]

@[simp] theorem durable_dropMove (e : Nat) (s : State) :
    durable (dropMove e s) = durable s := by
  simp only [dropMove, durable_dropIf]

@[simp] theorem durable_saveMove (e : Nat) (s : State) :
    durable (saveMove e s) = durable s := by
  simp only [saveMove, durable_modThr]

@[simp] theorem durable_settleMove (e : Nat) (s : State) :
    durable (settleMove e s) = durable s := by
  unfold settleMove
  repeat' split
  all_goals first | rfl | simp only [durable_dropMove, durable_failInstr, durable_retireMove, durable_saveMove,
      apply_ite durable, ite_self]

@[simp] theorem durable_paceRelease (e : Nat) (s : State) :
    durable (paceRelease e s) = durable s := by
  simp only [paceRelease, durable_breakOnLeave, durable_leaveEng, durable_modCtx, durable_modDsp, durable_modEng,
      durable_modPort, apply_ite durable, ite_self]

@[simp] theorem durable_mainRound (e : Nat) (s : State) :
    durable (mainRound e s) = durable s := by
  unfold mainRound
  repeat' split
  all_goals first | rfl | simp only [durable_finishComplete, durable_finishWork, durable_flushDesc,
      apply_ite durable, ite_self]

@[simp] theorem durable_instrRound (e : Nat) (s : State) :
    durable (instrRound e s) = durable s := by
  unfold instrRound
  dsimp only
  repeat' split
  all_goals simp

@[simp] theorem durable_engRound (e : Nat) (s : State) :
    durable (engRound e s) = durable s := by
  simp only [engRound, durable_instrRound, durable_mainRound]

@[simp] theorem durable_engStep (e : Nat) (s : State) :
    durable (engStep e s) = durable s := by
  simp only [engStep, durable_engRound, apply_ite durable, ite_self]

/-! ### AnswerOps -/

@[simp] theorem durable_fnStopEnd (e : Nat) (s : State) :
    durable (fnStopEnd e s) = durable s := by
  unfold fnStopEnd
  dsimp only
  repeat' split
  all_goals simp

@[simp] theorem durable_fnStopTry (e : Nat) (s : State) :
    durable (fnStopTry e s) = durable s := by
  simp only [fnStopTry, durable_fnStopEnd, apply_ite durable, ite_self]

@[simp] theorem durable_settleOldPosted (s : State) :
    durable (settleOldPosted s) = durable s := (rfl)

@[simp] theorem durable_barrierStep (s : State) :
    durable (barrierStep s) = durable s := by
  unfold barrierStep
  repeat' split
  all_goals simp

@[simp] theorem durable_engAfter (e : Nat) (s : State) :
    durable (engAfter e s) = durable s := by
  simp only [engAfter, durable_barrierStep, durable_engStep, durable_fnStopTry]

@[simp] theorem durable_srcBytes (e off : Nat) (d : List Byte) (s : State) :
    durable (srcBytes e off d s) = durable s := by
  unfold srcBytes
  repeat' split
  all_goals first | rfl | simp only [durable_modMv, durable_modPf, apply_ite durable, ite_self]

@[simp] theorem durable_srcFails (e off : Nat) (code : Byte) (s : State) :
    durable (srcFails e off code s) = durable s := by
  simp only [srcFails, durable_modMv]

@[simp] theorem durable_holdAll (e : Nat) (hs : List Held) (s : State) :
    durable (holdAll e hs s) = durable s := by
  simp only [holdAll, durable_modEng]

@[simp] theorem durable_listBlock (e : Nat) (addr : Word) (code : Byte) (ws : List Word) (s : State) :
    durable (listBlock e addr code ws s) = durable s := by
  simp only [listBlock, durable_modMv]

@[simp] theorem durable_readEnds (pu : Purpose) (addr : Word) (code : Byte) (data : List Byte) (s : State) :
    durable (readEnds pu addr code data s) = durable s := by
  unfold readEnds
  repeat' split
  all_goals first | rfl | simp only [durable_failInstr, durable_holdAll, durable_listBlock, durable_modMain,
      durable_srcBytes, durable_srcFails, durable_trySpec, apply_ite durable, ite_self]

@[simp] theorem durable_afterRead (pu : Purpose) (s : State) :
    durable (afterRead pu s) = durable s := by
  unfold afterRead; split <;> first | rfl | simp only [durable_barrierStep, durable_engAfter]

@[simp] theorem durable_writeEnds (pu : Purpose) (len : Nat) (code : Byte) (s : State) :
    durable (writeEnds pu len code s) = durable s := by
  unfold writeEnds
  repeat' split
  all_goals first | rfl | simp only [durable_modMain, durable_modMv, apply_ite durable, ite_self]

@[simp] theorem durable_afterWrite (pu : Purpose) (s : State) :
    durable (afterWrite pu s) = durable s := by
  unfold afterWrite
  repeat' split
  all_goals first | rfl | simp only [durable_barrierStep, durable_breakAfter, durable_engAfter, apply_ite durable,
      ite_self]

@[simp] theorem durable_settlePosted (h fn wseq : Nat) (mine : Purpose → Bool) (s : State) :
    durable (settlePosted h fn wseq mine s) = durable s := by
  simp only [settlePosted, durable_modHp]

@[simp] theorem durable_abandonPosted (h fn wseq : Nat) (mine : Purpose → Bool) (s : State) :
    durable (abandonPosted h fn wseq mine s) = durable s := by
  simp only [abandonPosted, durable_modHp]

@[simp] theorem durable_flushEnds (pu : Purpose) (h fn wseq : Nat) (code : Byte) (s : State) :
    durable (flushEnds pu h fn wseq code s) = durable s := by
  unfold flushEnds
  repeat' split
  all_goals first | rfl | simp only [durable_abandonPosted, durable_modMain, durable_modMv, durable_settlePosted,
      apply_ite durable, ite_self]

/-! ### TableOps -/

@[simp] theorem durable_tsvWrite (a : Word) (d : List Byte) (pu : Purpose) (s : State) :
    durable (tsvWrite a d pu s).2 = durable s := by
  unfold tsvWrite
  dsimp only
  repeat' split
  all_goals simp
theorem durable_tsvWrite_pair {a : Word} {d : List Byte} {pu : Purpose} {s : State} {b' : Bool} {t' : State}
    (hh : tsvWrite a d pu s = (b', t')) : durable t' = durable s :=
  (congrArg (fun p => durable p.2) hh).symm.trans (durable_tsvWrite a d pu s )

@[simp] theorem durable_tsvEvent (x : TabEvent) (s : State) :
    durable (tsvEvent x s) = durable s := by
  simp only [tsvEvent, durable_evS, durable_modTsv, durable_tsvWrite, apply_ite durable, ite_self]

@[simp] theorem durable_tsvAnswerTo (e : Nat) (a : TableAnswer) (s : State) :
    durable (tsvAnswerTo e a s) = durable s := by
  simp only [tsvAnswerTo, durable_modMain]

@[simp] theorem durable_abandonRebuild (i : Nat) (s : State) :
    durable (abandonRebuild i s) = durable s := by
  unfold abandonRebuild
  repeat' split
  all_goals simp

@[simp] theorem durable_stashLeft (i : Nat) (s : State) :
    durable (stashLeft i s) = durable s := (rfl)

@[simp] theorem durable_tsvFault (i : Nat) (a : Word) (s : State) :
    durable (tsvFault i a s) = durable s := by
  unfold tsvFault
  repeat' split
  all_goals first | with_reducible rfl | (simp only [durable_abandonRebuild, durable_forAll, durable_modInst, durable_stashLeft, durable_tsvAnswerTo, durable_tsvEvent, apply_ite durable, ite_self, eq_self, durable_fold, durable_mk, implies_true, apply_ite Gates.active, apply_ite Ctl.ready, apply_ite PowerFail.warn, apply_ite PowerFail.cut]; done) | (((first | apply durable_forAll | apply durable_foldl); intros; (try dsimp only); repeat' split) <;> first | with_reducible rfl | (simp only [durable_abandonRebuild, durable_forAll, durable_modInst, durable_stashLeft, durable_tsvAnswerTo, durable_tsvEvent, apply_ite durable, ite_self, eq_self, durable_fold, durable_mk, implies_true, apply_ite Gates.active, apply_ite Ctl.ready, apply_ite PowerFail.warn, apply_ite PowerFail.cut]; done)) | ((refine (durable_forAll _ _ ?_ _).trans ?_ <;> intros <;> (try dsimp only) <;> repeat' split) <;> first | with_reducible rfl | (simp only [durable_abandonRebuild, durable_forAll, durable_modInst, durable_stashLeft, durable_tsvAnswerTo, durable_tsvEvent, apply_ite durable, ite_self, eq_self, durable_fold, durable_mk, implies_true, apply_ite Gates.active, apply_ite Ctl.ready, apply_ite PowerFail.warn, apply_ite PowerFail.cut]; done)) | ((simp only [durable_abandonRebuild, durable_forAll, durable_modInst, durable_stashLeft, durable_tsvAnswerTo, durable_tsvEvent, apply_ite durable, ite_self, eq_self, durable_fold, durable_mk, implies_true, apply_ite Gates.active, apply_ite Ctl.ready, apply_ite PowerFail.warn, apply_ite PowerFail.cut]; repeat' split) <;> first | with_reducible rfl | (simp only [durable_abandonRebuild, durable_forAll, durable_modInst, durable_stashLeft, durable_tsvAnswerTo, durable_tsvEvent, apply_ite durable, ite_self, eq_self, durable_fold, durable_mk, implies_true, apply_ite Gates.active, apply_ite Ctl.ready, apply_ite PowerFail.warn, apply_ite PowerFail.cut]; done) | (((first | apply durable_forAll | apply durable_foldl); intros; (try dsimp only); repeat' split) <;> first | with_reducible rfl | (simp only [durable_abandonRebuild, durable_forAll, durable_modInst, durable_stashLeft, durable_tsvAnswerTo, durable_tsvEvent, apply_ite durable, ite_self, eq_self, durable_fold, durable_mk, implies_true, apply_ite Gates.active, apply_ite Ctl.ready, apply_ite PowerFail.warn, apply_ite PowerFail.cut]; done)) | ((refine (durable_forAll _ _ ?_ _).trans ?_ <;> intros <;> (try dsimp only) <;> repeat' split) <;> first | with_reducible rfl | (simp only [durable_abandonRebuild, durable_forAll, durable_modInst, durable_stashLeft, durable_tsvAnswerTo, durable_tsvEvent, apply_ite durable, ite_self, eq_self, durable_fold, durable_mk, implies_true, apply_ite Gates.active, apply_ite Ctl.ready, apply_ite PowerFail.warn, apply_ite PowerFail.cut]; done)))

@[simp] theorem durable_instWrite (i : Nat) (a : Word) (d : List Byte) (pu : Purpose) (s : State) :
    durable (instWrite i a d pu s) = durable s := by
  unfold instWrite
  repeat' split
  all_goals first | with_reducible rfl | (simp only [durable_tsvFault, durable_tsvWrite, apply_ite durable, ite_self, eq_self, durable_fold, durable_mk, implies_true, apply_ite Gates.active, apply_ite Ctl.ready, apply_ite PowerFail.warn, apply_ite PowerFail.cut]; done) | ((try have q0 := durable_tsvWrite_pair (by assumption)); simp only [durable_tsvFault, durable_tsvWrite, apply_ite durable, ite_self, eq_self, durable_fold, durable_mk, implies_true, apply_ite Gates.active, apply_ite Ctl.ready, apply_ite PowerFail.warn, apply_ite PowerFail.cut, *]; done)

@[simp] theorem durable_bucketRead (i : Nat) (ep : Epoch) (id : Half) (rd : MResp) (s : State) :
    durable (bucketRead i ep id rd s).2 = durable s := by
  unfold bucketRead
  dsimp only
  repeat' split
  all_goals simp
theorem durable_bucketRead_pair {i : Nat} {ep : Epoch} {id : Half} {rd : MResp} {s : State} {b' : Bool} {t' : State}
    (hh : bucketRead i ep id rd s = (b', t')) : durable t' = durable s :=
  (congrArg (fun p => durable p.2) hh).symm.trans (durable_bucketRead i ep id rd s )

@[simp] theorem durable_writeHeader (i : Nat) (s : State) :
    durable (writeHeader i s) = durable s := by
  simp only [writeHeader, durable_instWrite]

@[simp] theorem durable_tryPut (i : Nat) (e : Bool) (p : Place) (x : Entry) (s : State) :
    durable (tryPut i e p x s).2 = durable s := by
  unfold tryPut
  dsimp only
  repeat' split
  all_goals first
    | (simp; done)
    | (have h := durable_tsvWrite_pair (by assumption); simp [h]; done)
theorem durable_tryPut_pair {i : Nat} {e : Bool} {p : Place} {x : Entry} {s : State} {b' : Bool} {t' : State}
    (hh : tryPut i e p x s = (b', t')) : durable t' = durable s :=
  (congrArg (fun p => durable p.2) hh).symm.trans (durable_tryPut i e p x s )

@[simp] theorem durable_putEntry (i : Nat) (e : Bool) (p : Place) (x : Entry) (s : State) :
    durable (putEntry i e p x s) = durable s := by
  simp only [putEntry, durable_tryPut]

@[simp] theorem durable_chooseVictim (i : Nat) (ep : Epoch) (id : Half) (s : State) :
    durable (chooseVictim i ep id s).2 = durable s := by
  unfold chooseVictim
  dsimp only
  repeat' split
  all_goals simp
theorem durable_chooseVictim_pair {i : Nat} {ep : Epoch} {id : Half} {s : State} {b' : Nat} {t' : State}
    (hh : chooseVictim i ep id s = (b', t')) : durable t' = durable s :=
  (congrArg (fun p => durable p.2) hh).symm.trans (durable_chooseVictim i ep id s )

@[simp] theorem durable_placeNew (i : Nat) (e : Bool) (y : Entry) (r : Reloc) (s : State) :
    durable (placeNew i e y r s).2 = durable s := by
  unfold placeNew
  dsimp only
  repeat' split
  all_goals first
    | (simp; done)
    | (have h := durable_chooseVictim_pair (by assumption); simp [h]; done)
    | (have h := durable_tsvWrite_pair (by assumption); simp [h]; done)
theorem durable_placeNew_pair {i : Nat} {e : Bool} {y : Entry} {r : Reloc} {s : State} {b' :
    (Bool × Bool)} {t' : State}
    (hh : placeNew i e y r s = (b', t')) : durable t' = durable s :=
  (congrArg (fun p => durable p.2) hh).symm.trans (durable_placeNew i e y r s )

@[simp] theorem durable_mirrorInto (i : Nat) (e : Bool) (y : Entry) (s : State) :
    durable (mirrorInto i e y s) = durable s := by
  unfold mirrorInto; split <;> first | rfl | simp only [durable_placeNew, durable_putEntry]

@[simp] theorem durable_mirrorWrite (i : Nat) (y : Entry) (s : State) :
    durable (mirrorWrite i y s) = durable s := by
  unfold mirrorWrite
  dsimp only
  repeat' split
  all_goals simp

@[simp] theorem durable_mirrorFound (i : Nat) (id : Half) (f : Entry → Entry) (s : State) :
    durable (mirrorFound i id f s) = durable s := by
  unfold mirrorFound
  dsimp only
  repeat' split
  all_goals simp

@[simp] theorem durable_acceptMsg (p : Nat) (d : List Byte) (s : State) :
    durable (acceptMsg p d s) = durable s := by
  simp only [acceptMsg, durable_modTsv]

@[simp] theorem durable_pullMessages  (n : Nat) (s : State) :
    durable (pullMessages  n s) = durable s := by
  induction n generalizing s with
  | zero => rfl
  | succ n ih =>
    simp only [pullMessages]
    repeat' split
    all_goals first | rfl | simp only [ih, durable_acceptMsg, durable_modPort, apply_ite durable, ite_self,
        eq_self, durable_fold, durable_mk, implies_true, apply_ite Gates.active, apply_ite Ctl.ready,
        apply_ite PowerFail.warn, apply_ite PowerFail.cut]

@[simp] theorem durable_takeRecord (s : State) :
    durable (takeRecord s) = durable s := by
  simp only [takeRecord, durable_modTsv, durable_pullMessages]

theorem durable_recordRefused {r : Record} {s : State} {t' : State}
    (hh : recordRefused r s = .some t') : durable t' = durable s := by
  unfold recordRefused at hh
  try dsimp only at hh
  repeat' split at hh
  all_goals first
    | (injection hh with hh; subst hh; first | with_reducible rfl | (simp only [durable_modTsv, apply_ite durable, ite_self, eq_self, durable_fold, durable_mk, implies_true, apply_ite Gates.active, apply_ite Ctl.ready, apply_ite PowerFail.warn, apply_ite PowerFail.cut]; done) | ((simp only [durable_modTsv, apply_ite durable, ite_self, eq_self, durable_fold, durable_mk, implies_true, apply_ite Gates.active, apply_ite Ctl.ready, apply_ite PowerFail.warn, apply_ite PowerFail.cut]; repeat' split) <;> first | with_reducible rfl | (simp only [durable_modTsv, apply_ite durable, ite_self, eq_self, durable_fold, durable_mk, implies_true, apply_ite Gates.active, apply_ite Ctl.ready, apply_ite PowerFail.warn, apply_ite PowerFail.cut]; done)))
    | exact absurd hh (by simp)

@[simp] theorem durable_learned (i : Nat) (y : Entry) (s : State) :
    durable (learned i y s) = durable s := by
  simp only [learned, durable_mirrorWrite, durable_modInst, apply_ite durable, ite_self]

@[simp] theorem durable_applyLearn (r : Record) (s : State) :
    durable (applyLearn r s) = durable s := by
  unfold applyLearn
  dsimp only
  repeat' split
  all_goals first
    | (simp; done)
    | (have h := durable_placeNew_pair (by assumption); simp [h]; done)

@[simp] theorem durable_applyTouch (r : Record) (s : State) :
    durable (applyTouch r s) = durable s := by
  unfold applyTouch
  dsimp only
  repeat' split
  all_goals simp

@[simp] theorem durable_opTins (rd : MResp) (e i : Nat) (img : List Byte) (s : State) :
    durable (opTins rd e i img s) = durable s := by
  unfold opTins
  dsimp only
  repeat' split
  all_goals first
    | (simp; done)
    | (have h := durable_bucketRead_pair (by assumption); simp [h]; done)
    | (have h := durable_placeNew_pair (by assumption); simp [h]; done)

@[simp] theorem durable_opTmov (rd : MResp) (e i : Nat) (img : List Byte) (s : State) :
    durable (opTmov rd e i img s) = durable s := by
  unfold opTmov
  dsimp only
  repeat' split
  all_goals first
    | (simp; done)
    | (have h := durable_bucketRead_pair (by assumption); simp [h]; done)

@[simp] theorem durable_opFound (rd : MResp) (e i : Nat) (id : Half) (f : Entry → Entry) (s : State) :
    durable (opFound rd e i id f s) = durable s := by
  unfold opFound
  dsimp only
  repeat' split
  all_goals first
    | (simp; done)
    | (have h := durable_bucketRead_pair (by assumption); simp [h]; done)

@[simp] theorem durable_opRead (e i : Nat) (s : State) :
    durable (opRead e i s) = durable s := by
  simp only [opRead, durable_tsvAnswerTo]

@[simp] theorem durable_opBegin (e i : Nat) (s : State) :
    durable (opBegin e i s) = durable s := by
  simp only [opBegin, durable_modInst, durable_tsvAnswerTo, durable_writeHeader, apply_ite durable, ite_self]

@[simp] theorem durable_opArm (e i : Nat) (s : State) :
    durable (opArm e i s) = durable s := by
  simp only [opArm, durable_modInst, durable_tsvAnswerTo, apply_ite durable, ite_self]

@[simp] theorem durable_regionFault (i : Nat) (n : Need) (unit a : Nat) (s : State) :
    durable (regionFault i n unit a s) = durable s := by
  simp only [regionFault, durable_denyPrecise, durable_tsvFault]

@[simp] theorem durable_zeroEpoch (i : Nat) (e : Bool) (s : State) :
    durable (zeroEpoch i e s) = durable s := by
  unfold zeroEpoch
  dsimp only
  repeat' split
  all_goals simp

end Sys2Proof.Machine
end

