-- ==== Sys2Proof/Laws/DurableEngine.lean ====
section
/-! SUPPORT. What channels, descriptors and the movement profile leave of the durable part of a state (Safety.lean): each keeps it. One lemma per operation. -/

namespace Sys2Proof.Machine

/-! ### Channels -/

@[simp] theorem durable_bumpDbacc (k : Nat) (s : State) :
    durable (bumpDbacc k s) = durable s := by
  simp only [bumpDbacc, durable_modDsp]

@[simp] theorem durable_bumpDbdrop (k : Nat) (s : State) :
    durable (bumpDbdrop k s) = durable s := by
  simp only [bumpDbdrop, durable_modDsp]

@[simp] theorem durable_bumpDbstale (k : Nat) (s : State) :
    durable (bumpDbstale k s) = durable s := by
  simp only [bumpDbstale, durable_modDsp]

@[simp] theorem durable_bumpDbfold (k : Nat) (s : State) :
    durable (bumpDbfold k s) = durable s := by
  simp only [bumpDbfold, durable_modDsp]

@[simp] theorem durable_doorbellState (c : Nat) (s : State) :
    durable (doorbellState c s) = durable s := by
  unfold doorbellState
  dsimp only
  repeat' split
  all_goals simp

@[simp] theorem durable_applyDoorbell (k fn : Nat) (seq : BitVec 24) (c : Nat) (s : State) :
    durable (applyDoorbell k fn seq c s) = durable s := by
  simp only [applyDoorbell, durable_bumpDbacc, durable_bumpDbdrop, durable_bumpDbstale, durable_cacheUse,
      durable_doorbellState, durable_modCtx, apply_ite durable, ite_self]

@[simp] theorem durable_foldDoorbell (k fn : Nat) (seq : BitVec 24) (c : Nat) (s : State) :
    durable (foldDoorbell k fn seq c s) = durable s := by
  simp only [foldDoorbell, durable_bumpDbdrop, durable_dspUpd8, apply_ite durable, ite_self]

@[simp] theorem durable_ringDoorbell (k fn : Nat) (v : Word) (s : State) :
    durable (ringDoorbell k fn v s) = durable s := by
  simp only [ringDoorbell, durable_bumpDbdrop, durable_foldDoorbell, durable_modDsp, apply_ite durable, ite_self]

@[simp] theorem durable_writeDoorbell (k fn : Nat) (lo hi : Option Half) (s : State) :
    durable (writeDoorbell k fn lo hi s) = durable s := by
  unfold writeDoorbell; split <;> first | rfl | simp only [durable_modFn, durable_ringDoorbell]

theorem durable_execDoorbell {k fn : Nat} {lo hi : Option Half} {s : State} {t' : State}
    (hh : execDoorbell k fn lo hi s = .next t') : durable t' = durable s := by
  unfold execDoorbell at hh
  repeat' split at hh
  all_goals (cases hh; first | rfl | simp only [durable_access, durable_writeDoorbell, apply_ite durable, ite_self])

@[simp] theorem durable_putBehind (x : Behind) (s : State) :
    durable (putBehind x s) = durable s := by
  simp only [putBehind, durable_modDsp]

theorem durable_execDoorbellApply {k : Nat} {s : State} {t' : State}
    (hh : execDoorbellApply k s = .next t') : durable t' = durable s := by
  unfold execDoorbellApply at hh
  repeat' split at hh
  all_goals (cases hh; first | rfl | simp only [durable_applyDoorbell, durable_modDsp, apply_ite durable, ite_self])

@[simp] theorem durable_summarySet (blk : Nat) (s : State) :
    durable (summarySet blk s) = durable s := by
  simp only [summarySet, durable_modDsp]

@[simp] theorem durable_summaryAgain (blk : Nat) (s : State) :
    durable (summaryAgain blk s) = durable s := by
  simp only [summaryAgain, durable_modDsp]

@[simp] theorem durable_scanNext (s : State) :
    durable (scanNext s) = durable s := by
  unfold scanNext
  repeat' split
  all_goals first | rfl | simp only [durable_dspUpd8, durable_modDsp, apply_ite durable, ite_self]

theorem durable_execPendingScan {s : State} {t' : State}
    (hh : execPendingScan s = .next t') : durable t' = durable s := by
  unfold execPendingScan at hh
  repeat' split at hh
  all_goals (cases hh; first | rfl | simp only [durable_lmIssue, durable_modDsp, apply_ite durable, ite_self])

theorem durable_execScanBlockReadDone {resp : MResp} {s : State} {t' : State}
    (hh : execScanBlockReadDone resp s = .next t') : durable t' = durable s := by
  unfold execScanBlockReadDone at hh
  repeat' split at hh
  all_goals (cases hh; first | rfl | simp only [durable_lmRetire, durable_modDsp, durable_scanNext, durable_summaryAgain, apply_ite durable, ite_self])

@[simp] theorem durable_markBitmap (c : Nat) (s : State) :
    durable (markBitmap c s) = durable s := by
  simp only [markBitmap, durable_modDsp, durable_summarySet]

@[simp] theorem durable_enqueueAgain (c : Nat) (s : State) :
    durable (enqueueAgain c s) = durable s := by
  simp only [enqueueAgain, durable_bitmapOr, durable_enqueue, apply_ite durable, ite_self]

@[simp] theorem durable_scanApply (c : Nat) (old : Word) (s : State) :
    durable (scanApply c old s) = durable s := by
  simp only [scanApply, durable_applyDoorbell, durable_enqueueAgain, durable_putBehind, durable_scanNext,
      apply_ite durable, ite_self]

@[simp] theorem durable_acceptGo (fn : Nat) (f : Func) (s : State) :
    durable (acceptGo fn f s) = durable s := by
  simp only [acceptGo, durable_cacheUse, durable_directOver, durable_modCtx, durable_modFn, durable_toReady,
      apply_ite durable, ite_self]

@[simp] theorem durable_goWith (fn : Nat) (f : Func) (s : State) :
    durable (goWith fn f s) = durable s := by
  simp only [goWith, durable_acceptGo, durable_modFn, apply_ite durable, ite_self]

@[simp] theorem durable_doGo (fn : Nat) (s : State) :
    durable (doGo fn s) = durable s := by
  simp only [doGo, durable_goWith, durable_putBehind, apply_ite durable, ite_self]

@[simp] theorem durable_tellStop (c : Nat) (k : Stop) (s : State) :
    durable (tellStop c k s) = durable s := by
  unfold tellStop
  repeat' split
  all_goals first | rfl | simp only [durable_modEng, apply_ite durable, ite_self]

@[simp] theorem durable_doAbort (fn : Nat) (s : State) :
    durable (doAbort fn s) = durable s := by
  simp only [doAbort, durable_abortOff, durable_cacheUse, durable_modCtx, durable_modDsp, durable_tellStop,
      apply_ite durable, ite_self]

@[simp] theorem durable_doPause (fn : Nat) (s : State) :
    durable (doPause fn s) = durable s := by
  unfold doPause
  dsimp only
  repeat' split
  all_goals simp

@[simp] theorem durable_doUnpause (fn : Nat) (s : State) :
    durable (doUnpause fn s) = durable s := by
  unfold doUnpause
  dsimp only
  repeat' split
  all_goals simp

theorem durable_execChCtlGo {fn : Nat} {s : State} {t' : State}
    (hh : execChCtlGo fn s = .next t') : durable t' = durable s := by
  unfold execChCtlGo at hh; split at hh <;> cases hh <;> first | rfl | simp only [durable_access, durable_doGo]

theorem durable_execChCtlAbort {fn : Nat} {s : State} {t' : State}
    (hh : execChCtlAbort fn s = .next t') : durable t' = durable s := by
  unfold execChCtlAbort at hh; split at hh <;> cases hh <;> first | rfl | simp only [durable_access, durable_doAbort]

theorem durable_execPauseSet {fn : Nat} {s : State} {t' : State}
    (hh : execPauseSet fn s = .next t') : durable t' = durable s := by
  unfold execPauseSet at hh; split at hh <;> cases hh <;> first | rfl | simp only [durable_access, durable_doPause]

theorem durable_execPauseClear {fn : Nat} {s : State} {t' : State}
    (hh : execPauseClear fn s = .next t') : durable t' = durable s := by
  unfold execPauseClear at hh; split at hh <;> cases hh <;> first | rfl | simp only [durable_access,
      durable_doUnpause]

@[simp] theorem durable_doVersion (fn : Nat) (l : BitVec 4) (s : State) :
    durable (doVersion fn l s) = durable s := by
  simp only [doVersion, durable_modFn, apply_ite durable, ite_self]

theorem durable_execVersionRequest {fn : Nat} {level : BitVec 4} {s : State} {t' : State}
    (hh : execVersionRequest fn level s = .next t') : durable t' = durable s := by
  unfold execVersionRequest at hh; split at hh <;> cases hh <;> first | rfl | simp only [durable_access,
      durable_doVersion]

/-! ### Descriptors -/

@[simp] theorem durable_startDirect (e c : Nat) (s : State) :
    durable (startDirect e c s) = durable s := by
  unfold startDirect
  dsimp only
  repeat' split
  all_goals simp

@[simp] theorem durable_takeChan (e c : Nat) (s : State) :
    durable (takeChan e c s) = durable s := by
  simp only [takeChan, durable_cacheUse, durable_modCtx, durable_modEng, durable_startDirect, durable_unqueue,
      durable_wakeIsl, apply_ite durable, ite_self]

@[simp] theorem durable_takeTask (e c : Nat) (s : State) :
    durable (takeTask e c s) = durable s := by
  simp only [takeTask, durable_cacheUse, durable_endDirect, durable_engAfter, durable_modDsp, durable_modEng,
      durable_wakeIsl, apply_ite durable, ite_self]

@[simp] theorem durable_takeWork (e core slot : Nat) (s : State) :
    durable (takeWork e core slot s) = durable s := by
  simp only [takeWork, durable_modDsp, durable_modEng, durable_wakeIsl]

theorem durable_execDispatch {s : State} {t' : State}
    (hh : execDispatch s = .next t') : durable t' = durable s := by
  unfold execDispatch at hh
  repeat' split at hh
  all_goals (cases hh; first | rfl | simp only [durable_takeChan, durable_takeTask, durable_takeWork, apply_ite durable, ite_self])

@[simp] theorem durable_fetchOutcome (e : Nat) (go done : Phase) (p : Iss × State) :
    durable (fetchOutcome e go done p) = durable p.2 := by
  unfold fetchOutcome; split <;> first | rfl | simp only [durable_modMain]

@[simp] theorem durable_fetchAtPc (e : Nat) (ahead : Bool) (s : State) :
    durable (fetchAtPc e ahead s) = durable s := by
  unfold fetchAtPc
  dsimp only
  repeat' split
  all_goals first
    | (simp; done)
    | (have h := durable_engRead_pair (by assumption); simp [h]; done)

@[simp] theorem durable_fetchResume (e : Nat) (s : State) :
    durable (fetchResume e s) = durable s := by
  simp only [fetchResume, durable_engRead, durable_fetchOutcome]

@[simp] theorem durable_fetchAhead (e : Nat) (s : State) :
    durable (fetchAhead e s) = durable s := by
  unfold fetchAhead
  repeat' split
  all_goals first | rfl | simp only [durable_engRead, apply_ite durable, ite_self]

theorem durable_execDescriptorRead {e : Nat} {ahead : Bool} {s : State} {t' : State}
    (hh : execDescriptorRead e ahead s = .next t') : durable t' = durable s := by
  unfold execDescriptorRead at hh
  repeat' split at hh
  all_goals (cases hh; first | rfl | simp only [durable_fetchAhead, durable_fetchAtPc, durable_fetchResume, apply_ite durable, ite_self])

@[simp] theorem durable_unhold (e : Nat) (sp : BitVec 4) (a : Word) (s : State) :
    durable (unhold e sp a s) = durable s := by
  simp only [unhold, durable_modEng]

@[simp] theorem durable_refuseHeader (e : Nat) (code : Byte) (s : State) :
    durable (refuseHeader e code s) = durable s := by
  simp only [refuseHeader, durable_barrierStep, durable_discardSpec, durable_stopEng, durable_unhold]

@[simp] theorem durable_portReadsReal (e : Nat) (s : State) :
    durable (portReadsReal e s) = durable s := by
  unfold portReadsReal
  repeat' split
  all_goals simp

@[simp] theorem durable_keepSpec (e : Nat) (t : Thread) (s : State) :
    durable (keepSpec e t s) = durable s := by
  unfold keepSpec
  repeat' split
  all_goals simp

@[simp] theorem durable_freshHeader (e : Nat) (h : Held) (r : Regs) (l : Nat) (s : State) :
    durable (freshHeader e h r l s) = durable s := by
  simp only [freshHeader, durable_endDescr, durable_modMain, apply_ite durable, ite_self]

@[simp] theorem durable_acceptHeader (e : Nat) (h : Held) (s : State) :
    durable (acceptHeader e h s) = durable s := by
  unfold acceptHeader
  dsimp only
  repeat' split
  all_goals simp

theorem durable_execDescriptorReadDone {e : Nat} {s : State} {t' : State}
    (hh : execDescriptorReadDone e s = .next t') : durable t' = durable s := by
  unfold execDescriptorReadDone at hh
  dsimp only at hh
  repeat' split at hh
  all_goals (cases hh; simp)

theorem durable_execSeqCoverQuery {e : Nat} {s : State} {t' : State}
    (hh : execSeqCoverQuery e s = .next t') : durable t' = durable s := by
  unfold execSeqCoverQuery at hh
  dsimp only at hh
  repeat' split at hh
  all_goals (cases hh; simp)

@[simp] theorem durable_taskFault (e : Nat) (code : Byte) (s : State) :
    durable (taskFault e code s) = durable s := by
  simp only [taskFault, durable_barrierStep, durable_evWbFault, durable_modCtx, durable_modMain, durable_stopEng]

@[simp] theorem durable_resumeLevel1 (e : Nat) (s : State) :
    durable (resumeLevel1 e s) = durable s := by
  unfold resumeLevel1
  dsimp only
  repeat' split
  all_goals simp

theorem durable_execResumeDescriptorReadDone {e : Nat} {s : State} {t' : State}
    (hh : execResumeDescriptorReadDone e s = .next t') : durable t' = durable s := by
  unfold execResumeDescriptorReadDone at hh
  dsimp only at hh
  repeat' split at hh
  all_goals (cases hh; simp)

/-! ### Program -/

theorem durable_runOp {e o : Nat} {f : Word → State → State} {s : State} (hf : ∀ a0 s, durable
    (f a0 s) = durable s) {t' : State}
    (hh : runOp e o f s = .next t') : durable t' = durable s := by
  unfold runOp at hh; split at hh <;> cases hh <;> first | rfl | simp only [durable_engAfter, durable_failInstr, hf]

@[simp] theorem durable_doLds (e : Nat) (w : Word) (s : State) :
    durable (doLds e w s) = durable s := by
  unfold doLds; split <;> first | rfl | simp only [durable_failInstr, durable_modRegs, durable_retire]

theorem durable_execLds {e : Nat} {s : State} {t' : State}
    (hh : execLds e s = .next t') : durable t' = durable s := 
  durable_runOp (fun _ _ => by simp only [durable_doLds]) hh

@[simp] theorem durable_doLdd (e : Nat) (w : Word) (s : State) :
    durable (doLdd e w s) = durable s := by
  unfold doLdd; split <;> first | rfl | simp only [durable_failInstr, durable_modRegs, durable_retire]

theorem durable_execLdd {e : Nat} {s : State} {t' : State}
    (hh : execLdd e s = .next t') : durable t' = durable s := 
  durable_runOp (fun _ _ => by simp only [durable_doLdd]) hh

@[simp] theorem durable_doLdn (e : Nat) (w : Word) (s : State) :
    durable (doLdn e w s) = durable s := by
  simp only [doLdn, durable_failInstr, durable_modRegs, durable_retire, apply_ite durable, ite_self]

theorem durable_execLdn {e : Nat} {s : State} {t' : State}
    (hh : execLdn e s = .next t') : durable t' = durable s := 
  durable_runOp (fun _ _ => by simp only [durable_doLdn]) hh

@[simp] theorem durable_doLdk (e : Nat) (w : Word) (s : State) :
    durable (doLdk e w s) = durable s := by
  simp only [doLdk, durable_failInstr, durable_modEng, durable_modRegs, durable_modThr, durable_retire,
      apply_ite durable, ite_self]

theorem durable_execLdk {e : Nat} {s : State} {t' : State}
    (hh : execLdk e s = .next t') : durable t' = durable s := 
  durable_runOp (fun _ _ => by simp only [durable_doLdk]) hh

@[simp] theorem durable_beginMove (e : Nat) (m : Move) (s : State) :
    durable (beginMove e m s) = durable s := by
  simp only [beginMove, durable_listStep, durable_modThr]

@[simp] theorem durable_doMove (e : Nat) (w : Word) (s : State) :
    durable (doMove e w s) = durable s := by
  unfold doMove
  dsimp only
  repeat' split
  all_goals simp

theorem durable_execMove {e : Nat} {s : State} {t' : State}
    (hh : execMove e s = .next t') : durable t' = durable s := 
  durable_runOp (fun _ _ => by simp only [durable_doMove]) hh

@[simp] theorem durable_doMovl (e : Nat) (w : Word) (s : State) :
    durable (doMovl e w s) = durable s := by
  unfold doMovl
  dsimp only
  repeat' split
  all_goals simp

theorem durable_execMovl {e : Nat} {s : State} {t' : State}
    (hh : execMovl e s = .next t') : durable t' = durable s := 
  durable_runOp (fun _ _ => by simp only [durable_doMovl]) hh

@[simp] theorem durable_paceWait (e : Nat) (s : State) :
    durable (paceWait e s) = durable s := by
  simp only [paceWait, durable_modEng, durable_retire, apply_ite durable, ite_self]

@[simp] theorem durable_doWaitf (e : Nat) (w : Word) (s : State) :
    durable (doWaitf e w s) = durable s := by
  simp only [doWaitf, durable_failInstr, durable_modEng, durable_paceWait, apply_ite durable, ite_self]

theorem durable_execWaitf {e : Nat} {s : State} {t' : State}
    (hh : execWaitf e s = .next t') : durable t' = durable s := 
  durable_runOp (fun _ _ => by simp only [durable_doWaitf]) hh

@[simp] theorem durable_repace (e : Nat) (s : State) :
    durable (repace e s) = durable s := by
  simp only [repace, durable_engAfter, durable_evalPace, durable_modEng, durable_modMain, durable_retire,
      apply_ite durable, ite_self]

@[simp] theorem durable_doFence (e : Nat) (w : Word) (s : State) :
    durable (doFence e w s) = durable s := by
  simp only [doFence, durable_failInstr, durable_modMain, durable_retire, apply_ite durable, ite_self]

theorem durable_execFence {e : Nat} {s : State} {t' : State}
    (hh : execFence e s = .next t') : durable t' = durable s := 
  durable_runOp (fun _ _ => by simp only [durable_doFence]) hh

@[simp] theorem durable_doNotify (e : Nat) (w : Word) (s : State) :
    durable (doNotify e w s) = durable s := by
  unfold doNotify
  dsimp only
  repeat' split
  all_goals first
    | (simp; done)
    | (have h := durable_engWrite_pair (by assumption); simp [h]; done)

theorem durable_execNotify {e : Nat} {s : State} {t' : State}
    (hh : execNotify e s = .next t') : durable t' = durable s := 
  durable_runOp (fun _ _ => by simp only [durable_doNotify]) hh

@[simp] theorem durable_doBrk (e : Nat) (w : Word) (s : State) :
    durable (doBrk e w s) = durable s := by
  simp only [doBrk, durable_failInstr, durable_retire, durable_xbreak, apply_ite durable, ite_self]

theorem durable_execBrk {e : Nat} {s : State} {t' : State}
    (hh : execBrk e s = .next t') : durable t' = durable s := 
  durable_runOp (fun _ _ => by simp only [durable_doBrk]) hh

@[simp] theorem durable_engUpd8 (e : Nat) (a compare cmask value wmask add : Word) (pu : Purpose) (s : State) :
    durable (engUpd8 e a compare cmask value wmask add pu s).2 = durable s := by
  unfold engUpd8
  repeat' split
  all_goals simp
theorem durable_engUpd8_pair {e : Nat} {a compare cmask value wmask add : Word} {pu : Purpose} {s : State} {b' : Iss} {t' : State}
    (hh : engUpd8 e a compare cmask value wmask add pu s = (b', t')) : durable t' = durable s :=
  (congrArg (fun p => durable p.2) hh).symm.trans (durable_engUpd8 e a compare cmask value wmask add pu s )

@[simp] theorem durable_atomWait (e : Nat) (p : Iss × State) :
    durable (atomWait e p) = durable p.2 := by
  unfold atomWait; split <;> first | rfl | simp only [durable_failInstr, durable_modMain]

@[simp] theorem durable_doAtom (e : Nat) (w : Word) (s : State) :
    durable (doAtom e w s) = durable s := by
  unfold doAtom
  dsimp only
  repeat' split
  all_goals simp

theorem durable_execAtom {e : Nat} {s : State} {t' : State}
    (hh : execAtom e s = .next t') : durable t' = durable s := 
  durable_runOp (fun _ _ => by simp only [durable_doAtom]) hh

@[simp] theorem durable_takeLock (e : Nat) (a : Word) (lease : Nat) (s : State) :
    durable (takeLock e a lease s) = durable s := by
  unfold takeLock
  dsimp only
  repeat' split
  all_goals first
    | (simp; done)
    | (have h := durable_engUpd8_pair (by assumption); simp [h]; done)

@[simp] theorem durable_doLock (e : Nat) (w : Word) (s : State) :
    durable (doLock e w s) = durable s := by
  unfold doLock
  dsimp only
  repeat' split
  all_goals simp

theorem durable_execLock {e : Nat} {s : State} {t' : State}
    (hh : execLock e s = .next t') : durable t' = durable s := 
  durable_runOp (fun _ _ => by simp only [durable_doLock]) hh

@[simp] theorem durable_doUnlk (e : Nat) (w : Word) (s : State) :
    durable (doUnlk e w s) = durable s := by
  unfold doUnlk
  dsimp only
  repeat' split
  all_goals first
    | (simp; done)
    | (have h := durable_engUpd8_pair (by assumption); simp [h]; done)

theorem durable_execUnlk {e : Nat} {s : State} {t' : State}
    (hh : execUnlk e s = .next t') : durable t' = durable s := 
  durable_runOp (fun _ _ => by simp only [durable_doUnlk]) hh

@[simp] theorem durable_doBr (e : Nat) (w : Word) (s : State) :
    durable (doBr e w s) = durable s := by
  simp only [doBr, durable_failInstr, durable_modRegs, durable_retire, apply_ite durable, ite_self]

theorem durable_execBr {e : Nat} {s : State} {t' : State}
    (hh : execBr e s = .next t') : durable t' = durable s := 
  durable_runOp (fun _ _ => by simp only [durable_doBr]) hh

@[simp] theorem durable_linkTo (e : Nat) (a : Word) (sp : BitVec 4) (s : State) :
    durable (linkTo e a sp s) = durable s := by
  simp only [linkTo, durable_beginComplete, durable_discardPath, durable_modThr, apply_ite durable, ite_self]

@[simp] theorem durable_doLink (e : Nat) (w : Word) (s : State) :
    durable (doLink e w s) = durable s := by
  simp only [doLink, durable_failInstr, durable_linkTo, apply_ite durable, ite_self]

theorem durable_execLink {e : Nat} {s : State} {t' : State}
    (hh : execLink e s = .next t') : durable t' = durable s := 
  durable_runOp (fun _ _ => by simp only [durable_doLink]) hh

@[simp] theorem durable_doEnd (e : Nat) (w : Word) (s : State) :
    durable (doEnd e w s) = durable s := by
  simp only [doEnd, durable_endProgram, durable_failInstr, apply_ite durable, ite_self]

theorem durable_execEndd {e : Nat} {s : State} {t' : State}
    (hh : execEndd e s = .next t') : durable t' = durable s := 
  durable_runOp (fun _ _ => by simp only [durable_doEnd]) hh

@[simp] theorem durable_tabIssue (e : Nat) (op : State → State) (s : State) (hop : ∀  s, durable
    (op  s) = durable s) :
    durable (tabIssue e op s) = durable s := by
  simp only [tabIssue, durable_modMain, durable_wakeIsl, durable_xEng, hop]

@[simp] theorem durable_tabImage (e : Nat) (w : Word) (s : State) :
    durable (tabImage e w s) = durable s := by
  unfold tabImage
  dsimp only
  repeat' split
  all_goals first
    | (simp; done)
    | (have h := durable_engRead_pair (by assumption); simp [h]; done)

@[simp] theorem durable_imageOp (e : Nat) (op : Nat → List Byte → State → State) (s : State)
    (hop : ∀ a0 a1 s, durable (op a0 a1 s) = durable s) :
    durable (imageOp e op s) = durable s := by
  unfold imageOp
  repeat' split
  all_goals first | with_reducible rfl | (simp only [durable_failInstr, durable_tabIssue, hop, apply_ite durable, ite_self, eq_self, durable_fold, durable_mk, implies_true, apply_ite Gates.active, apply_ite Ctl.ready, apply_ite PowerFail.warn, apply_ite PowerFail.cut]; done)

theorem durable_execTins {e : Nat} {rd : MResp} {s : State} {t' : State}
    (hh : execTins e rd s = .next t') : durable t' = durable s := by
  unfold execTins at hh
  try dsimp only at hh
  repeat' split at hh
  all_goals first
    | (injection hh with hh; subst hh; first | with_reducible rfl | (simp only [durable_engAfter, durable_imageOp, durable_opTins, durable_tabImage, apply_ite durable, ite_self, eq_self, durable_fold, durable_mk, implies_true, apply_ite Gates.active, apply_ite Ctl.ready, apply_ite PowerFail.warn, apply_ite PowerFail.cut]; done) | ((simp only [durable_engAfter, durable_imageOp, durable_opTins, durable_tabImage, apply_ite durable, ite_self, eq_self, durable_fold, durable_mk, implies_true, apply_ite Gates.active, apply_ite Ctl.ready, apply_ite PowerFail.warn, apply_ite PowerFail.cut]; repeat' split) <;> first | with_reducible rfl | (simp only [durable_engAfter, durable_imageOp, durable_opTins, durable_tabImage, apply_ite durable, ite_self, eq_self, durable_fold, durable_mk, implies_true, apply_ite Gates.active, apply_ite Ctl.ready, apply_ite PowerFail.warn, apply_ite PowerFail.cut]; done)))
    | (refine (durable_runOp ?_ hh).trans ?_ <;> intros <;> first | with_reducible rfl | (simp only [durable_engAfter, durable_imageOp, durable_opTins, durable_tabImage, apply_ite durable, ite_self, eq_self, durable_fold, durable_mk, implies_true, apply_ite Gates.active, apply_ite Ctl.ready, apply_ite PowerFail.warn, apply_ite PowerFail.cut]; done) | ((try dsimp only); repeat' split) <;> first | with_reducible rfl | (simp only [durable_engAfter, durable_imageOp, durable_opTins, durable_tabImage, apply_ite durable, ite_self, eq_self, durable_fold, durable_mk, implies_true, apply_ite Gates.active, apply_ite Ctl.ready, apply_ite PowerFail.warn, apply_ite PowerFail.cut]; done))
    | exact absurd hh (by simp)

theorem durable_execTmov {e : Nat} {rd : MResp} {s : State} {t' : State}
    (hh : execTmov e rd s = .next t') : durable t' = durable s := by
  unfold execTmov at hh
  try dsimp only at hh
  repeat' split at hh
  all_goals first
    | (injection hh with hh; subst hh; first | with_reducible rfl | (simp only [durable_engAfter, durable_imageOp, durable_opTmov, durable_tabImage, apply_ite durable, ite_self, eq_self, durable_fold, durable_mk, implies_true, apply_ite Gates.active, apply_ite Ctl.ready, apply_ite PowerFail.warn, apply_ite PowerFail.cut]; done) | ((simp only [durable_engAfter, durable_imageOp, durable_opTmov, durable_tabImage, apply_ite durable, ite_self, eq_self, durable_fold, durable_mk, implies_true, apply_ite Gates.active, apply_ite Ctl.ready, apply_ite PowerFail.warn, apply_ite PowerFail.cut]; repeat' split) <;> first | with_reducible rfl | (simp only [durable_engAfter, durable_imageOp, durable_opTmov, durable_tabImage, apply_ite durable, ite_self, eq_self, durable_fold, durable_mk, implies_true, apply_ite Gates.active, apply_ite Ctl.ready, apply_ite PowerFail.warn, apply_ite PowerFail.cut]; done)))
    | (refine (durable_runOp ?_ hh).trans ?_ <;> intros <;> first | with_reducible rfl | (simp only [durable_engAfter, durable_imageOp, durable_opTmov, durable_tabImage, apply_ite durable, ite_self, eq_self, durable_fold, durable_mk, implies_true, apply_ite Gates.active, apply_ite Ctl.ready, apply_ite PowerFail.warn, apply_ite PowerFail.cut]; done) | ((try dsimp only); repeat' split) <;> first | with_reducible rfl | (simp only [durable_engAfter, durable_imageOp, durable_opTmov, durable_tabImage, apply_ite durable, ite_self, eq_self, durable_fold, durable_mk, implies_true, apply_ite Gates.active, apply_ite Ctl.ready, apply_ite PowerFail.warn, apply_ite PowerFail.cut]; done))
    | exact absurd hh (by simp)

@[simp] theorem durable_tabFound (rd : MResp) (e : Nat) (f : Inst → Entry → Entry) (w : Word) (s : State) :
    durable (tabFound rd e f w s) = durable s := by
  unfold tabFound
  repeat' split
  all_goals simp

theorem durable_execTdel {e : Nat} {rd : MResp} {s : State} {t' : State}
    (hh : execTdel e rd s = .next t') : durable t' = durable s := 
  durable_runOp (fun _ _ => by simp only [durable_tabFound]) hh

theorem durable_execTage {e : Nat} {rd : MResp} {s : State} {t' : State}
    (hh : execTage e rd s = .next t') : durable t' = durable s := 
  durable_runOp (fun _ _ => by simp only [durable_tabFound]) hh

@[simp] theorem durable_tepo (e top : Nat) (op : Nat → Nat → State → State) (w : Word) (s : State)
    (hop : ∀ a0 a1 s, durable (op a0 a1 s) = durable s) :
    durable (tepo e top op w s) = durable s := by
  unfold tepo
  repeat' split
  all_goals first | with_reducible rfl | (simp only [durable_failInstr, durable_tabIssue, hop, apply_ite durable, ite_self, eq_self, durable_fold, durable_mk, implies_true, apply_ite Gates.active, apply_ite Ctl.ready, apply_ite PowerFail.warn, apply_ite PowerFail.cut]; done)

theorem durable_execTepoRead {e : Nat} {s : State} {t' : State}
    (hh : execTepoRead e s = .next t') : durable t' = durable s := by
  unfold execTepoRead at hh
  refine durable_runOp ?_ hh <;> intros <;> (try dsimp only) <;> (repeat' split) <;> first | rfl | simp only [durable_opRead, durable_tepo, apply_ite durable, ite_self, eq_self, durable_fold, durable_mk, implies_true, apply_ite Gates.active, apply_ite Ctl.ready, apply_ite PowerFail.warn, apply_ite PowerFail.cut]

theorem durable_execTepoBegin {e : Nat} {s : State} {t' : State}
    (hh : execTepoBegin e s = .next t') : durable t' = durable s := by
  unfold execTepoBegin at hh
  refine durable_runOp ?_ hh <;> intros <;> (try dsimp only) <;> (repeat' split) <;> first | rfl | simp only [durable_opBegin, durable_tepo, apply_ite durable, ite_self, eq_self, durable_fold, durable_mk, implies_true, apply_ite Gates.active, apply_ite Ctl.ready, apply_ite PowerFail.warn, apply_ite PowerFail.cut]

theorem durable_execTepoArm {e : Nat} {s : State} {t' : State}
    (hh : execTepoArm e s = .next t') : durable t' = durable s := by
  unfold execTepoArm at hh
  refine durable_runOp ?_ hh <;> intros <;> (try dsimp only) <;> (repeat' split) <;> first | rfl | simp only [durable_opArm, durable_tepo, apply_ite durable, ite_self, eq_self, durable_fold, durable_mk, implies_true, apply_ite Gates.active, apply_ite Ctl.ready, apply_ite PowerFail.warn, apply_ite PowerFail.cut]

@[simp] theorem durable_tabRetire (e : Nat) (a : TableAnswer) (s : State) :
    durable (tabRetire e a s) = durable s := by
  simp only [tabRetire, durable_failInstr, durable_modMain, durable_retire, apply_ite durable, ite_self]

theorem durable_execTsvAnswer {e : Nat} {s : State} {t' : State}
    (hh : execTsvAnswer e s = .next t') : durable t' = durable s := by
  unfold execTsvAnswer at hh
  dsimp only at hh
  repeat' split at hh
  all_goals (cases hh; simp)

@[simp] theorem durable_doLevel1Move (e : Nat) (s : State) :
    durable (doLevel1Move e s) = durable s := by
  unfold doLevel1Move
  dsimp only
  repeat' split
  all_goals simp

theorem durable_execLevel1MoveDescriptor {e : Nat} {s : State} {t' : State}
    (hh : execLevel1MoveDescriptor e s = .next t') : durable t' = durable s := by
  unfold execLevel1MoveDescriptor at hh; split at hh <;> cases hh <;> first | rfl | simp only [durable_doLevel1Move, durable_engAfter]

@[simp] theorem durable_doLevel1Link (e : Nat) (s : State) :
    durable (doLevel1Link e s) = durable s := by
  simp only [doLevel1Link, durable_failInstr, durable_linkTo, durable_modRegs, apply_ite durable, ite_self]

theorem durable_execLevel1LinkDescriptor {e : Nat} {s : State} {t' : State}
    (hh : execLevel1LinkDescriptor e s = .next t') : durable t' = durable s := by
  unfold execLevel1LinkDescriptor at hh; split at hh <;> cases hh <;> first | rfl | simp only [durable_doLevel1Link, durable_engAfter]

/-! ### Moves -/

@[simp] theorem durable_afterBurst (e n : Nat) (iss : Iss) (s : State) :
    durable (afterBurst e n iss s) = durable s := by
  unfold afterBurst
  repeat' split
  all_goals simp

theorem durable_execSourceBurstIssue {e : Nat} {s : State} {t' : State}
    (hh : execSourceBurstIssue e s = .next t') : durable t' = durable s := by
  unfold execSourceBurstIssue at hh
  dsimp only at hh
  repeat' split at hh
  all_goals (cases hh; simp)

theorem durable_execMovlListReadDone {e : Nat} {s : State} {t' : State}
    (hh : execMovlListReadDone e s = .next t') : durable t' = durable s := by
  unfold execMovlListReadDone at hh
  repeat' split at hh
  all_goals (cases hh; simp)

theorem durable_execDirectMoveComplete {e : Nat} {s : State} {t' : State}
    (hh : execDirectMoveComplete e s = .next t') : durable t' = durable s := by
  unfold execDirectMoveComplete at hh; split at hh <;> cases hh <;> first | rfl | simp only [durable_finishDirect]

@[simp] theorem durable_wdogFire (e : Nat) (s : State) :
    durable (wdogFire e s) = durable s := by
  simp only [wdogFire, durable_evWdog, durable_modCtx, durable_modDsp, durable_modEng]

theorem durable_execWdogExpiry {e : Nat} {s : State} {t' : State}
    (hh : execWdogExpiry e s = .next t') : durable t' = durable s := by
  unfold execWdogExpiry at hh
  dsimp only at hh
  repeat' split at hh
  all_goals (cases hh; simp)

theorem durable_execPaceholdExpiry {e : Nat} {s : State} {t' : State}
    (hh : execPaceholdExpiry e s = .next t') : durable t' = durable s := by
  unfold execPaceholdExpiry at hh
  dsimp only at hh
  repeat' split at hh
  all_goals (cases hh; simp)

theorem durable_execPacingWake {s : State} {t' : State}
    (hh : execPacingWake s = .next t') : durable t' = durable s := by
  unfold execPacingWake at hh
  dsimp only at hh
  repeat' split at hh
  all_goals (cases hh; simp)

/-! ### Answers -/

@[simp] theorem durable_lmAnswer (r : LmReq) (n : Nat) (a : Answer) (f : State → State) (s : State)
    (hf : ∀  s, durable (f  s) = durable s) :
    durable (lmAnswer r n a f s) = durable s := by
  unfold lmAnswer
  repeat' split
  all_goals first | with_reducible rfl | (simp only [durable_crossing, durable_xLm, hf, apply_ite durable, ite_self, eq_self, durable_fold, durable_mk, implies_true, apply_ite Gates.active, apply_ite Ctl.ready, apply_ite PowerFail.warn, apply_ite PowerFail.cut]; done)

@[simp] theorem durable_lmReadEnds (r : LmReq) (code : Byte) (d : List Byte) (s : State) :
    durable (lmReadEnds r code d s) = durable s := by
  simp only [lmReadEnds, durable_afterRead, durable_lmRetire, durable_readEnds]

@[simp] theorem durable_lmKeep (r : LmReq) (code : Byte) (d : List Byte) (s : State) :
    durable (lmKeep r code d s) = durable s := (rfl)

@[simp] theorem durable_lmReadData (n tag : Nat) (resp : MResp) (data : List Byte) (s : State) :
    durable (lmReadData n tag resp data s) = durable s := by
  unfold lmReadData
  repeat' split
  all_goals first | rfl | simp only [durable_lmKeep, durable_lmReadEnds, apply_ite durable, ite_self]

theorem durable_execLmReadData {n tag : Nat} {resp : MResp} {data : List Byte} {s : State} {t' : State}
    (hh : execLmReadData n tag resp data s = .next t') : durable t' = durable s := by
  unfold execLmReadData at hh
  try dsimp only at hh
  repeat' split at hh
  all_goals first
    | (injection hh with hh; subst hh; first | with_reducible rfl | (simp only [durable_lmAnswer, durable_lmReadData, apply_ite durable, ite_self, eq_self, durable_fold, durable_mk, implies_true, apply_ite Gates.active, apply_ite Ctl.ready, apply_ite PowerFail.warn, apply_ite PowerFail.cut]; done) | ((simp only [durable_lmAnswer, durable_lmReadData, apply_ite durable, ite_self, eq_self, durable_fold, durable_mk, implies_true, apply_ite Gates.active, apply_ite Ctl.ready, apply_ite PowerFail.warn, apply_ite PowerFail.cut]; repeat' split) <;> first | with_reducible rfl | (simp only [durable_lmAnswer, durable_lmReadData, apply_ite durable, ite_self, eq_self, durable_fold, durable_mk, implies_true, apply_ite Gates.active, apply_ite Ctl.ready, apply_ite PowerFail.warn, apply_ite PowerFail.cut]; done)))
    | exact absurd hh (by simp)

@[simp] theorem durable_tsvWriteEnds (pu : Purpose) (a : Word) (code : Byte) (s : State) :
    durable (tsvWriteEnds pu a code s) = durable s := by
  unfold tsvWriteEnds
  repeat' split
  all_goals first | rfl | simp only [durable_tsvFault, apply_ite durable, ite_self]

@[simp] theorem durable_lmWriteResp (n tag : Nat) (resp : MResp) (s : State) :
    durable (lmWriteResp n tag resp s) = durable s := by
  unfold lmWriteResp; split <;> first | rfl | simp only [durable_afterWrite, durable_lmRetire,
      durable_tsvWriteEnds, durable_writeEnds]

theorem durable_execLmWriteResponse {n tag : Nat} {resp : MResp} {s : State} {t' : State}
    (hh : execLmWriteResponse n tag resp s = .next t') : durable t' = durable s := by
  unfold execLmWriteResponse at hh
  repeat' split at hh
  all_goals (cases hh; simp)

@[simp] theorem durable_atomRetire (e : Nat) (f : Regs → Regs) (s : State) :
    durable (atomRetire e f s) = durable s := by
  simp only [atomRetire, durable_modMain, durable_retire]

@[simp] theorem durable_lockUndo (e : Nat) (a : Word) (s : State) :
    durable (lockUndo e a s) = durable s := by
  simp only [lockUndo, durable_lockFree, apply_ite durable, ite_self]

@[simp] theorem durable_engUpd8Ends (r : LmReq) (e : Nat) (resp : MResp) (old : Word) (s : State) :
    durable (engUpd8Ends r e resp old s) = durable s := by
  unfold engUpd8Ends
  repeat' split
  all_goals first | rfl | simp only [durable_atomRetire, durable_failInstr, durable_lockFree, durable_lockUndo,
      apply_ite durable, ite_self]

@[simp] theorem durable_dspUpd8Ends (r : LmReq) (resp : MResp) (old : Word) (s : State) :
    durable (dspUpd8Ends r resp old s) = durable s := by
  unfold dspUpd8Ends
  repeat' split
  all_goals first | rfl | simp only [durable_bitmapOr, durable_bumpDbdrop, durable_bumpDbfold, durable_dspUpd8,
      durable_markBitmap, durable_modCtx, durable_modDsp, durable_scanApply, durable_scanNext,
      durable_summaryAgain, apply_ite durable, ite_self]

@[simp] theorem durable_lmUpd8Resp (n tag : Nat) (resp : MResp) (old : Word) (s : State) :
    durable (lmUpd8Resp n tag resp old s) = durable s := by
  unfold lmUpd8Resp
  repeat' split
  all_goals first | rfl | simp only [durable_barrierStep, durable_dspUpd8Ends, durable_engAfter,
      durable_engUpd8Ends, durable_lmRetire, apply_ite durable, ite_self]

theorem durable_execLmUpd8Response {n tag : Nat} {resp : MResp} {old : Word} {s : State} {t' : State}
    (hh : execLmUpd8Response n tag resp old s = .next t') : durable t' = durable s := by
  unfold execLmUpd8Response at hh
  repeat' split at hh
  all_goals (cases hh; simp)

@[simp] theorem durable_lateLog (h : Nat) (t : BitVec 14) (fn : Option Nat) (s : State) :
    durable (lateLog h t fn s) = durable s := by
  unfold lateLog
  repeat' split
  all_goals simp

@[simp] theorem durable_quarantine (h i : Nat) (s : State) :
    durable (quarantine h i s) = durable s := by
  simp only [quarantine, durable_modSlot, durable_resetsDone]

@[simp] theorem durable_barrierReadEnds (h fn wseq : Nat) (s : State) :
    durable (barrierReadEnds h fn wseq s) = durable s := by
  simp only [barrierReadEnds, durable_modHp]

@[simp] theorem durable_hostEnds (h : Nat) (x : Slot) (code : Byte) (s : State) :
    durable (hostEnds h x code s) = durable s := by
  unfold hostEnds
  repeat' split
  all_goals first | rfl | simp only [durable_afterRead, durable_afterWrite, durable_barrierReadEnds,
      durable_barrierStep, durable_flushEnds, durable_modPf, durable_readEnds, durable_srcFails, apply_ite durable,
      ite_self]

@[simp] theorem durable_hostStage (x : Slot) (d : List Byte) (poison : Bool) (s : State) :
    durable (hostStage x d poison s) = durable s := by
  unfold hostStage
  repeat' split
  all_goals first | rfl | simp only [durable_srcBytes, durable_srcFails, apply_ite durable, ite_self]

@[simp] theorem durable_slotDone (h i : Nat) (x : Slot) (code : Byte) (s : State) :
    durable (slotDone h i x code s) = durable s := by
  simp only [slotDone, durable_hostEnds, durable_slotFree]

@[simp] theorem durable_pieceLive (h i : Nat) (x : Slot) (p : Piece) (s : State) :
    durable (pieceLive h i x p s) = durable s := by
  unfold pieceLive
  repeat' split
  all_goals first | rfl | simp only [durable_engAfter, durable_hostEnds, durable_hostStage, durable_modSlot,
      durable_quarantine, durable_slotDone, apply_ite durable, ite_self]

@[simp] theorem durable_pieceGone (h i : Nat) (x : Slot) (p : Piece) (count : Bool) (s : State) :
    durable (pieceGone h i x p count s) = durable s := by
  simp only [pieceGone, durable_barrierStep, durable_modHp, durable_modSlot, durable_slotFree, apply_ite durable,
      ite_self]

@[simp] theorem durable_timeoutTold (h : Nat) (x : Slot) (s : State) :
    durable (timeoutTold h x s) = durable s := by
  unfold timeoutTold
  repeat' split
  all_goals simp

@[simp] theorem durable_timeoutSlot (h i : Nat) (x : Slot) (s : State) :
    durable (timeoutSlot h i x s) = durable s := by
  simp only [timeoutSlot, durable_barrierStep, durable_hostEnds, durable_quarantine, durable_timeoutTold,
      apply_ite durable, ite_self]

@[simp] theorem durable_hostPiece (h : Nat) (piece : Piece) (s : State) :
    durable (hostPiece h piece s) = durable s := by
  unfold hostPiece
  repeat' split
  all_goals first | rfl | simp only [durable_lateLog, durable_pieceGone, durable_pieceLive, durable_timeoutSlot,
      apply_ite durable, ite_self]

@[simp] theorem durable_pieceIn (h : Nat) (piece : Piece) (s : State) :
    durable (pieceIn h piece s) = durable s := by
  unfold pieceIn
  repeat' split
  all_goals simp

theorem durable_execHostCompletionPiece {h : Nat} {piece : Piece} {s : State} {t' : State}
    (hh : execHostCompletionPiece h piece s = .next t') : durable t' = durable s := by
  unfold execHostCompletionPiece at hh; split at hh <;> cases hh <;> first | rfl | simp only [durable_pieceIn]

theorem durable_execCompletionTimeout {h slot : Nat} {s : State} {t' : State}
    (hh : execCompletionTimeout h slot s = .next t') : durable t' = durable s := by
  unfold execCompletionTimeout at hh
  repeat' split at hh
  all_goals (cases hh; first | rfl | simp only [durable_pieceIn, apply_ite durable, ite_self])

theorem durable_execQuarantineExpiry {h slot : Nat} {s : State} {t' : State}
    (hh : execQuarantineExpiry h slot s = .next t') : durable t' = durable s := by
  unfold execQuarantineExpiry at hh
  repeat' split at hh
  all_goals (cases hh; first | rfl | simp only [durable_slotFree, apply_ite durable, ite_self])

theorem durable_execBarrierFlushReadDone {h slot : Nat} {s : State} {t' : State}
    (hh : execBarrierFlushReadDone h slot s = .next t') : durable t' = durable s := by
  unfold execBarrierFlushReadDone at hh
  repeat' split at hh
  all_goals (cases hh; first | rfl | simp only [durable_slotDone, apply_ite durable, ite_self])

@[simp] theorem durable_ackWrite (w : BufWrite) (s : State) :
    durable (ackWrite w s) = durable s := by
  simp only [ackWrite, durable_afterWrite, durable_writeEnds]

theorem durable_execBufferedWriteAck {t : BufTarget} {s : State} {t' : State}
    (hh : execBufferedWriteAck t s = .next t') : durable t' = durable s := by
  unfold execBufferedWriteAck at hh
  try dsimp only at hh
  repeat' split at hh
  all_goals first
    | (injection hh with hh; subst hh; first | with_reducible rfl | (simp only [durable_ackWrite, durable_afterWrite, durable_modPort, durable_undefJoin, durable_writeEnds, apply_ite durable, ite_self, eq_self, durable_fold, durable_mk, implies_true, apply_ite Gates.active, apply_ite Ctl.ready, apply_ite PowerFail.warn, apply_ite PowerFail.cut]; done) | ((simp only [durable_ackWrite, durable_afterWrite, durable_modPort, durable_undefJoin, durable_writeEnds, apply_ite durable, ite_self, eq_self, durable_fold, durable_mk, implies_true, apply_ite Gates.active, apply_ite Ctl.ready, apply_ite PowerFail.warn, apply_ite PowerFail.cut]; repeat' split) <;> first | with_reducible rfl | (simp only [durable_ackWrite, durable_afterWrite, durable_modPort, durable_undefJoin, durable_writeEnds, apply_ite durable, ite_self, eq_self, durable_fold, durable_mk, implies_true, apply_ite Gates.active, apply_ite Ctl.ready, apply_ite PowerFail.warn, apply_ite PowerFail.cut]; done)))
    | exact absurd hh (by simp)

theorem durable_execPortWriteAccepted {p : Nat} {s : State} {t' : State}
    (hh : execPortWriteAccepted p s = .next t') : durable t' = durable s := by
  unfold execPortWriteAccepted at hh
  repeat' split at hh
  all_goals (cases hh; first | rfl | simp only [durable_barrierStep, durable_modPort, durable_portPump, durable_stir, apply_ite durable, ite_self])

@[simp] theorem durable_ctlReadData (e : Nat) (s : State) :
    durable (ctlReadData e s) = durable s := by
  unfold ctlReadData
  repeat' split
  all_goals first | with_reducible rfl | (simp only [durable_afterRead, durable_eccCount, durable_readEnds, durable_softRead, apply_ite durable, ite_self, eq_self, durable_fold, durable_mk, implies_true, apply_ite Gates.active, apply_ite Ctl.ready, apply_ite PowerFail.warn, apply_ite PowerFail.cut]; done)

theorem durable_execControlMemoryReadData {e : Nat} {s : State} {t' : State}
    (hh : execControlMemoryReadData e s = .next t') : durable t' = durable s := by
  unfold execControlMemoryReadData at hh
  repeat' split at hh
  all_goals (cases hh; simp)

/-! ### Stops -/

@[simp] theorem durable_leavePause (e : Nat) (s : State) :
    durable (leavePause e s) = durable s := by
  simp only [leavePause, durable_abortOff, durable_breakOnLeave, durable_leaveEng, durable_modCtx, durable_modDsp,
      durable_toReady, apply_ite durable, ite_self]

@[simp] theorem durable_pauseHere (e : Nat) (s : State) :
    durable (pauseHere e s) = durable s := by
  unfold pauseHere
  repeat' split
  all_goals first | rfl | simp only [durable_endDescr, durable_engAfter, durable_flushDesc, durable_leavePause,
      durable_modMain, apply_ite durable, ite_self]

@[simp] theorem durable_pauseRound (e : Nat) (s : State) :
    durable (pauseRound e s) = durable s := by
  unfold pauseRound
  dsimp only
  repeat' split
  all_goals simp

theorem durable_execPauseStopDone {e : Nat} {s : State} {t' : State}
    (hh : execPauseStopDone e s = .next t') : durable t' = durable s := by
  unfold execPauseStopDone at hh; split at hh <;> cases hh <;> first | rfl | simp only [durable_barrierStep,
      durable_pauseRound]

@[simp] theorem durable_abandonReads (e : Nat) (s : State) :
    durable (abandonReads e s) = durable s := by
  simp only [abandonReads, durable_dropReads, durable_modEng, durable_xabandon]

@[simp] theorem durable_dropStaged (e : Nat) (s : State) :
    durable (dropStaged e s) = durable s := by
  simp only [dropStaged, durable_modMain]

@[simp] theorem durable_abortMid (e : Nat) (s : State) :
    durable (abortMid e s) = durable s := by
  simp only [abortMid, durable_endDescr, durable_engAfter, durable_stopEng, apply_ite durable, ite_self]

@[simp] theorem durable_abortHere (e : Nat) (f : State → State) (s : State) (hf : ∀  s, durable (f  s) = durable s) :
    durable (abortHere e f s) = durable s := by
  simp only [abortHere, durable_abortMid, durable_flushDesc, durable_modMain, hf, apply_ite durable, ite_self]

@[simp] theorem durable_abortBetween (e : Nat) (s : State) :
    durable (abortBetween e s) = durable s := by
  simp only [abortBetween, durable_abortMid, durable_stopEng, durable_takeFlags, apply_ite durable, ite_self]

@[simp] theorem durable_abortResume (e : Nat) (s : State) :
    durable (abortResume e s) = durable s := by
  simp only [abortResume, durable_abortMid, durable_modEng, apply_ite durable, ite_self]

@[simp] theorem durable_abortRound (e : Nat) (s : State) :
    durable (abortRound e s) = durable s := by
  unfold abortRound
  dsimp only
  repeat' split
  all_goals simp

@[simp] theorem durable_cancelRound (e : Nat) (s : State) :
    durable (cancelRound e s) = durable s := by
  unfold cancelRound
  dsimp only
  repeat' split
  all_goals simp

@[simp] theorem durable_stopRound (e : Nat) (s : State) :
    durable (stopRound e s) = durable s := by
  simp only [stopRound, durable_abandonReads, durable_abortMid, durable_abortRound, durable_cancelRound,
      apply_ite durable, ite_self]

theorem durable_execAbortStop {e : Nat} {s : State} {t' : State}
    (hh : execAbortStop e s = .next t') : durable t' = durable s := by
  unfold execAbortStop at hh
  dsimp only at hh
  repeat' split at hh
  all_goals (cases hh; simp)

@[simp] theorem durable_ctxEcc (c : Nat) (s : State) :
    durable (ctxEcc c s) = durable s := by
  unfold ctxEcc
  dsimp only
  repeat' split
  all_goals simp

theorem durable_execCtxEccError {c : Nat} {s : State} {t' : State}
    (hh : execCtxEccError c s = .next t') : durable t' = durable s := by
  unfold execCtxEccError at hh; split at hh <;> cases hh <;> first | rfl | simp only [durable_ctxEcc,
      durable_eccCount]

@[simp] theorem durable_quiesceOn (s : State) :
    durable (quiesceOn s) = durable s := by
  unfold quiesceOn
  repeat' split
  all_goals first | with_reducible rfl | (simp only [durable_quiesceStep, apply_ite durable, ite_self, eq_self, durable_fold, durable_mk, implies_true, apply_ite Gates.active, apply_ite Ctl.ready, apply_ite PowerFail.warn, apply_ite PowerFail.cut]; done)

@[simp] theorem durable_releaseChan (c : Nat) (s : State) :
    durable (releaseChan c s) = durable s := by
  simp only [releaseChan, durable_toReady, apply_ite durable, ite_self]

@[simp] theorem durable_quiesceOff (s : State) :
    durable (quiesceOff s) = durable s := by
  unfold quiesceOff
  repeat' split
  all_goals simp

@[simp] theorem durable_writeQctl (on : Bool) (s : State) :
    durable (writeQctl on s) = durable s := by
  simp only [writeQctl, durable_quiesceOff, durable_quiesceOn, apply_ite durable, ite_self]

theorem durable_execQuiesceRequest {r : Requester} {s : State} {t' : State}
    (hh : execQuiesceRequest r s = .next t') : durable t' = durable s := by
  unfold execQuiesceRequest at hh; split at hh <;> cases hh <;> first | rfl | simp only [durable_access,
      durable_writeQctl]

theorem durable_execQuiesceRelease {r : Requester} {s : State} {t' : State}
    (hh : execQuiesceRelease r s = .next t') : durable t' = durable s := by
  unfold execQuiesceRelease at hh; split at hh <;> cases hh <;> first | rfl | simp only [durable_access,
      durable_writeQctl]

@[simp] theorem durable_leaseEnds (x : LockEntry) (s : State) :
    durable (leaseEnds x s) = durable s := by
  simp only [leaseEnds, durable_breakEntry]

theorem durable_execLeaseExpiry {addr : Word} {s : State} {t' : State}
    (hh : execLeaseExpiry addr s = .next t') : durable t' = durable s := by
  unfold execLeaseExpiry at hh
  repeat' split at hh
  all_goals (cases hh; first | rfl | simp only [durable_leaseEnds, apply_ite durable, ite_self])

@[simp] theorem durable_lockCommand (s : State) :
    durable (lockCommand s) = durable s := by
  unfold lockCommand
  dsimp only
  repeat' split
  all_goals simp

theorem durable_execLockBreakCommand {r : Requester} {s : State} {t' : State}
    (hh : execLockBreakCommand r s = .next t') : durable t' = durable s := by
  unfold execLockBreakCommand at hh; split at hh <;> cases hh <;> first | rfl | simp only [durable_access,
      durable_lockCommand]

end Sys2Proof.Machine
end

