-- ==== Sys2Proof/Laws/DurableBlock.lean ====
section
/-! SUPPORT. What seams, gates, functions, links, tables, self-test leave of the durable part of a state (Safety.lean): each keeps it. One lemma per operation. -/

namespace Sys2Proof.Machine

/-! ### Islands -/

@[simp] theorem durable_mirrorTo (t : Word) (s : State) :
    durable (mirrorTo t s) = durable s := by
  unfold mirrorTo
  repeat' split
  all_goals first | rfl | simp only [durable_crossing, apply_ite durable, ite_self]

@[simp] theorem durable_timeTo (t : Word) (s : State) :
    durable (timeTo t s) = durable s := by
  unfold timeTo
  repeat' split
  all_goals first | with_reducible rfl | (simp only [durable_forAll, durable_mirrorTo, durable_modIsl, apply_ite durable, ite_self, eq_self, durable_fold, durable_mk, implies_true, apply_ite Gates.active, apply_ite Ctl.ready, apply_ite PowerFail.warn, apply_ite PowerFail.cut]; done) | (((first | apply durable_forAll | apply durable_foldl); intros; (try dsimp only); repeat' split) <;> first | with_reducible rfl | (simp only [durable_forAll, durable_mirrorTo, durable_modIsl, apply_ite durable, ite_self, eq_self, durable_fold, durable_mk, implies_true, apply_ite Gates.active, apply_ite Ctl.ready, apply_ite PowerFail.warn, apply_ite PowerFail.cut]; done)) | ((refine (durable_forAll _ _ ?_ _).trans ?_ <;> intros <;> (try dsimp only) <;> repeat' split) <;> first | with_reducible rfl | (simp only [durable_forAll, durable_mirrorTo, durable_modIsl, apply_ite durable, ite_self, eq_self, durable_fold, durable_mk, implies_true, apply_ite Gates.active, apply_ite Ctl.ready, apply_ite PowerFail.warn, apply_ite PowerFail.cut]; done))

/-! ### Seams -/

@[simp] theorem durable_wakeDeep (s : State) :
    durable (wakeDeep s) = durable s := (rfl)

@[simp] theorem durable_wakePaced (old : State) (s : State) :
    durable (wakePaced old s) = durable s := by
  unfold wakePaced
  repeat' split
  all_goals simp

@[simp] theorem durable_xstarve (r : XReq) (s : State) :
    durable (xstarve r s) = durable s := by
  simp only [xstarve, durable_evS, durable_modXbar, durable_postBlock]

@[simp] theorem durable_xbarSeam (s : State) :
    durable (xbarSeam s) = durable s := by
  unfold xbarSeam
  repeat' split
  all_goals simp

@[simp] theorem durable_cstarve (p : Nat) (s : State) :
    durable (cstarve p s) = durable s := by
  simp only [cstarve, durable_evS, durable_modClu, durable_postBlock]

@[simp] theorem durable_portSeam (p : Nat) (s : State) :
    durable (portSeam p s) = durable s := by
  unfold portSeam
  dsimp only
  repeat' split
  all_goals simp

@[simp] theorem durable_quernSeam (s : State) :
    durable (quernSeam s) = durable s := by
  unfold quernSeam
  repeat' split
  all_goals simp

@[simp] theorem durable_dspSeam (s : State) :
    durable (dspSeam s) = durable s := by
  simp only [dspSeam, durable_evS, durable_postBlock, apply_ite durable, ite_self]

@[simp] theorem durable_markOld (m : BitVec 71) (s : State) :
    durable (markOld m s) = durable s := (rfl)

@[simp] theorem durable_barrierFlush (h fn : Nat) (s : State) :
    durable (barrierFlush h fn s) = durable s := by
  unfold barrierFlush; split <;> first | rfl | simp only [durable_issueFlush]

@[simp] theorem durable_barrierFlushes (h : Nat) (s : State) :
    durable (barrierFlushes h s) = durable s := by
  unfold barrierFlushes
  repeat' split
  all_goals simp

@[simp] theorem durable_specSeam (m : BitVec 71) (e : Nat) (s : State) :
    durable (specSeam m e s) = durable s := by
  unfold specSeam
  dsimp only
  repeat' split
  all_goals simp

@[simp] theorem durable_tgenTo (p i : Nat) (gen : Half) (s : State) :
    durable (tgenTo p i gen s) = durable s := by
  simp only [tgenTo, durable_sendOs]

@[simp] theorem durable_sendTgen (i : Nat) (gen : Half) (s : State) :
    durable (sendTgen i gen s) = durable s := by
  unfold sendTgen
  repeat' split
  all_goals simp

@[simp] theorem durable_epochSeam (i : Nat) (s : State) :
    durable (epochSeam i s) = durable s := by
  simp only [epochSeam, durable_modInst, durable_sendTgen, durable_tsvEvent, durable_writeHeader,
      apply_ite durable, ite_self]

@[simp] theorem durable_trimSeam (s : State) :
    durable (trimSeam s) = durable s := (rfl)

@[simp] theorem durable_romStep (s : State) :
    durable (romStep s) = durable s := by
  unfold romStep; split <;> first | rfl | simp only [durable_modCtl]

@[simp] theorem durable_slotTo (n : Nat) (s : State) :
    durable (slotTo n s) = durable s := by
  simp only [slotTo, durable_modXbar, durable_slotCount, apply_ite durable, ite_self]

theorem durable_execSlotBoundary {s : State} {t' : State}
    (hh : execSlotBoundary s = .next t') : durable t' = durable s := by
  unfold execSlotBoundary at hh
  repeat' split at hh
  all_goals (cases hh; first | rfl | simp only [durable_modXbar, durable_slotCount, durable_timeTo, apply_ite durable, ite_self])

@[simp] theorem durable_writeSharm (mask : Half) (s : State) :
    durable (writeSharm mask s) = durable s := (rfl)

theorem durable_execSharm {r : Requester} {mask : Half} {s : State} {t' : State}
    (hh : execSharm r mask s = .next t') : durable t' = durable s := by
  unfold execSharm at hh; split at hh <;> cases hh <;> first | rfl | simp only [durable_access, durable_writeSharm]

@[simp] theorem durable_writeRule (i w : Nat) (v : Word) (s : State) :
    durable (writeRule i w v s) = durable s := by
  unfold writeRule
  repeat' split
  all_goals simp

theorem durable_execGateRuleWrite {r : Requester} {rule word : Nat} {value : Word} {s : State} {t' : State}
    (hh : execGateRuleWrite r rule word value s = .next t') : durable t' = durable s := by
  unfold execGateRuleWrite at hh; split at hh <;> cases hh <;> first | rfl | simp only [durable_access,
      durable_writeRule]

theorem durable_execGateBarrierArm {r : Requester} {s : State} {t' : State}
    (hh : execGateBarrierArm r s = .next t') : durable t' = durable s := by
  unfold execGateBarrierArm at hh; split at hh <;> cases hh <;> first | rfl | simp only [durable_access,
      durable_gbarArm]

@[simp] theorem durable_writeVlogrd (v : Half) (s : State) :
    durable (writeVlogrd v s) = durable s := by
  unfold writeVlogrd; split <;> first | rfl | simp only [durable_modGate]

theorem durable_execVlogrdWrite {r : Requester} {v : Half} {s : State} {t' : State}
    (hh : execVlogrdWrite r v s = .next t') : durable t' = durable s := by
  unfold execVlogrdWrite at hh; split at hh <;> cases hh <;> first | rfl | simp only [durable_access,
      durable_writeVlogrd]

/-! ### Links -/

@[simp] theorem durable_evLink (s : State) :
    durable (evLink s) = durable s := by
  simp only [evLink, durable_evS]

@[simp] theorem durable_failRead (code : Byte) (r : PortRead) (s : State) :
    durable (failRead code r s) = durable s := by
  simp only [failRead, durable_afterRead, durable_readEnds]

@[simp] theorem durable_failReads (p : Nat) (s : State) :
    durable (failReads p s) = durable s := by
  unfold failReads
  repeat' split
  all_goals simp

@[simp] theorem durable_wakeWatch (p : Nat) (f : Watch → Bool) (s : State) :
    durable (wakeWatch p f s) = durable s := by
  simp only [wakeWatch, durable_modDsp]

@[simp] theorem durable_portClose (p : Nat) (l : LState) (s : State) :
    durable (portClose p l s) = durable s := by
  unfold portClose
  repeat' split
  all_goals simp

@[simp] theorem durable_linkReset (p : Nat) (s : State) :
    durable (linkReset p s) = durable s := by
  simp only [linkReset, durable_modPort, durable_wakeIsl]

@[simp] theorem durable_retrain (p : Nat) (s : State) :
    durable (retrain p s) = durable s := by
  simp only [retrain, durable_evLink, durable_failReads, durable_linkReset, durable_modPort]

@[simp] theorem durable_attemptFails (p : Nat) (s : State) :
    durable (attemptFails p s) = durable s := by
  simp only [attemptFails, durable_evLink, durable_modPort, durable_portClose, durable_retrain, apply_ite durable,
      ite_self]

@[simp] theorem durable_linkError (p : Nat) (s : State) :
    durable (linkError p s) = durable s := by
  unfold linkError; split <;> first | rfl | simp only [durable_attemptFails, durable_retrain]

@[simp] theorem durable_portEvent (p : Nat) (s : State) :
    durable (portEvent p s) = durable s := by
  simp only [portEvent, durable_stir]

@[simp] theorem durable_addPerr (p : Nat) (s : State) :
    durable (addPerr p s) = durable s := by
  simp only [addPerr, durable_modPort]

@[simp] theorem durable_addProto (p : Nat) (s : State) :
    durable (addProto p s) = durable s := by
  simp only [addProto, durable_modPort]

@[simp] theorem durable_enableLink (p : Nat) (s : State) :
    durable (enableLink p s) = durable s := by
  simp only [enableLink, durable_linkReset, durable_modPort, apply_ite durable, ite_self]

@[simp] theorem durable_disableLink (p : Nat) (s : State) :
    durable (disableLink p s) = durable s := by
  simp only [disableLink, durable_modPort, durable_portClose, apply_ite durable, ite_self]

@[simp] theorem durable_retrainLink (p : Nat) (s : State) :
    durable (retrainLink p s) = durable s := by
  unfold retrainLink; split <;> first | rfl | simp only [durable_retrain]

theorem durable_execLinkEnable {r : Requester} {p : Nat} {s : State} {t' : State}
    (hh : execLinkEnable r p s = .next t') : durable t' = durable s := by
  unfold execLinkEnable at hh; split at hh <;> cases hh <;> first | rfl | simp only [durable_access,
      durable_enableLink]

theorem durable_execLinkDisable {r : Requester} {p : Nat} {s : State} {t' : State}
    (hh : execLinkDisable r p s = .next t') : durable t' = durable s := by
  unfold execLinkDisable at hh; split at hh <;> cases hh <;> first | rfl | simp only [durable_access,
      durable_disableLink]

theorem durable_execLinkRetrain {p : Nat} {cause : RetrainCause} {s : State} {t' : State}
    (hh : execLinkRetrain p cause s = .next t') : durable t' = durable s := by
  unfold execLinkRetrain at hh
  repeat' split at hh
  all_goals (cases hh; first | rfl | simp only [durable_access, durable_addPerr, durable_linkError, durable_portEvent, durable_retrainLink, apply_ite durable, ite_self])

theorem durable_execLinkResetDone {p : Nat} {s : State} {t' : State}
    (hh : execLinkResetDone p s = .next t') : durable t' = durable s := by
  unfold execLinkResetDone at hh
  dsimp only at hh
  repeat' split at hh
  all_goals (cases hh; simp)

@[simp] theorem durable_linkUp (p : Nat) (v : BitVec 2) (s : State) :
    durable (linkUp p v s) = durable s := by
  unfold linkUp
  repeat' split
  all_goals simp

@[simp] theorem durable_takeVersion (p : Nat) (offer : BitVec 4) (s : State) :
    durable (takeVersion p offer s) = durable s := by
  simp only [takeVersion, durable_addProto, durable_attemptFails, durable_linkUp, apply_ite durable, ite_self]

theorem durable_execPortVersion {p : Nat} {first : Token} {rest : List Token} {s : State} {t' : State}
    (hh : execPortVersion p first rest s = .next t') : durable t' = durable s := by
  unfold execPortVersion at hh
  repeat' split at hh
  all_goals (cases hh; first | rfl | simp only [durable_addPerr, durable_addProto, durable_attemptFails, durable_takeVersion, apply_ite durable, ite_self])

theorem durable_execVersionTimeout {p : Nat} {s : State} {t' : State}
    (hh : execVersionTimeout p s = .next t') : durable t' = durable s := by
  unfold execVersionTimeout at hh
  dsimp only at hh
  repeat' split at hh
  all_goals (cases hh; simp)

@[simp] theorem durable_rdataEnds (r : PortRead) (x : Rdata) (s : State) :
    durable (rdataEnds r x s) = durable s := by
  simp only [rdataEnds, durable_afterRead, durable_readEnds]

@[simp] theorem durable_rdataFor (p : Nat) (r : PortRead) (x : Rdata) (s : State) :
    durable (rdataFor p r x s) = durable s := by
  unfold rdataFor
  repeat' split
  all_goals simp

@[simp] theorem durable_takeRdata (p : Nat) (x : Rdata) (s : State) :
    durable (takeRdata p x s) = durable s := by
  unfold takeRdata
  dsimp only
  repeat' split
  all_goals simp

@[simp] theorem durable_msgEnds (p : Nat) (d : List Byte) (s : State) :
    durable (msgEnds p d s) = durable s := by
  simp only [msgEnds, durable_acceptMsg, durable_modPort, durable_wakeIsl, apply_ite durable, ite_self]

@[simp] theorem durable_takeMsg (p : Nat) (d : List Byte) (s : State) :
    durable (takeMsg p d s) = durable s := by
  unfold takeMsg
  repeat' split
  all_goals simp

@[simp] theorem durable_takeXfer (p : Nat) (ts : List Token) (s : State) :
    durable (takeXfer p ts s) = durable s := by
  unfold takeXfer; split <;> first | rfl | simp only [durable_addPerr, durable_addProto, durable_linkError,
      durable_modPort, durable_portEvent, durable_takeMsg, durable_takeRdata]

theorem durable_execPortRdata {p : Nat} {ts : List Token} {s : State} {t' : State}
    (hh : execPortRdata p ts s = .next t') : durable t' = durable s := by
  unfold execPortRdata at hh; split at hh <;> cases hh <;> first | rfl | simp only [durable_takeXfer]

theorem durable_execTsvmsg {p : Nat} {first : Token} {rest : List Token} {s : State} {t' : State}
    (hh : execTsvmsg p first rest s = .next t') : durable t' = durable s := by
  unfold execTsvmsg at hh; split at hh <;> cases hh <;> first | rfl | simp only [durable_takeXfer]

@[simp] theorem durable_newLevel (p : Nat) (s : State) :
    durable (newLevel p s) = durable s := by
  unfold newLevel
  repeat' split
  all_goals simp

theorem durable_execFilli {p : Nat} {level : BitVec 6} {s : State} {t' : State}
    (hh : execFilli p level s = .next t') : durable t' = durable s := by
  unfold execFilli at hh; split at hh <;> cases hh <;> first | rfl | simp only [durable_modPort, durable_newLevel,
      durable_portEvent]

theorem durable_execFillo {p : Nat} {level : BitVec 6} {s : State} {t' : State}
    (hh : execFillo p level s = .next t') : durable t' = durable s := by
  unfold execFillo at hh; split at hh <;> cases hh <;> first | rfl | simp only [durable_modPort, durable_newLevel,
      durable_portEvent]

theorem durable_execClassByte {p : Nat} {x : ClassByte} {s : State} {t' : State}
    (hh : execClassByte p x s = .next t') : durable t' = durable s := by
  unfold execClassByte at hh
  repeat' split at hh
  all_goals (cases hh; simp)

theorem durable_execBrkMarker {p : Nat} {inTransfer : Bool} {s : State} {t' : State}
    (hh : execBrkMarker p inTransfer s = .next t') : durable t' = durable s := by
  unfold execBrkMarker at hh
  repeat' split at hh
  all_goals (cases hh; simp)

theorem durable_execLerr {p : Nat} {s : State} {t' : State}
    (hh : execLerr p s = .next t') : durable t' = durable s := by
  unfold execLerr at hh
  repeat' split at hh
  all_goals (cases hh; simp)

theorem durable_execIgnoredSidebandByte {p : Nat} {byte : Byte} {s : State} {t' : State}
    (hh : execIgnoredSidebandByte p byte s = .next t') : durable t' = durable s := by
  unfold execIgnoredSidebandByte at hh; split at hh <;> cases hh <;> first | rfl | simp only [durable_addProto,
      durable_portEvent]

theorem durable_execHandshakeTimeout {p : Nat} {s : State} {t' : State}
    (hh : execHandshakeTimeout p s = .next t') : durable t' = durable s := by
  unfold execHandshakeTimeout at hh
  dsimp only at hh
  repeat' split at hh
  all_goals (cases hh; simp)

@[simp] theorem durable_announce (p : Nat) (b : Byte) (deep : BitVec 2) (s : State) :
    durable (announce p b deep s) = durable s := by
  simp only [announce, durable_modPort, durable_sendOs]

theorem durable_execLinkIdleTimer {p : Nat} {s : State} {t' : State}
    (hh : execLinkIdleTimer p s = .next t') : durable t' = durable s := by
  unfold execLinkIdleTimer at hh; split at hh <;> cases hh <;> first | rfl | simp only [durable_modPort]

theorem durable_execLinkDozeTimer {p : Nat} {s : State} {t' : State}
    (hh : execLinkDozeTimer p s = .next t') : durable t' = durable s := by
  unfold execLinkDozeTimer at hh
  repeat' split at hh
  all_goals (cases hh; simp)

theorem durable_execLinkDeepTimer {p : Nat} {s : State} {t' : State}
    (hh : execLinkDeepTimer p s = .next t') : durable t' = durable s := by
  unfold execLinkDeepTimer at hh
  repeat' split at hh
  all_goals (cases hh; simp)

theorem durable_execLinkWake {p : Nat} {s : State} {t' : State}
    (hh : execLinkWake p s = .next t') : durable t' = durable s := by
  unfold execLinkWake at hh; split at hh <;> cases hh <;> first | rfl | simp only [durable_portEvent]

/-! ### Functions -/

@[simp] theorem durable_fnDiscard (fn : Nat) (s : State) :
    durable (fnDiscard fn s) = durable s := by
  simp only [fnDiscard, durable_modHp, durable_xdiscard]

@[simp] theorem durable_fnTell (e : Nat) (s : State) :
    durable (fnTell e s) = durable s := by
  simp only [fnTell, durable_modEng, durable_xabandon]

@[simp] theorem durable_stopFn (fn : Nat) (cause : BitVec 3) (s : State) :
    durable (stopFn fn cause s) = durable s := by
  unfold stopFn
  repeat' split
  all_goals simp

@[simp] theorem durable_dropDoorbells (fn : Nat) (s : State) :
    durable (dropDoorbells fn s) = durable s := by
  simp only [dropDoorbells, durable_modDsp]

@[simp] theorem durable_dropBehind (fn : Nat) (s : State) :
    durable (dropBehind fn s) = durable s := by
  unfold dropBehind
  repeat' split
  all_goals first | with_reducible rfl | (simp only [durable_applyDoorbell, durable_forAll, durable_goWith, durable_modDsp, apply_ite durable, ite_self, eq_self, durable_fold, durable_mk, implies_true, apply_ite Gates.active, apply_ite Ctl.ready, apply_ite PowerFail.warn, apply_ite PowerFail.cut]; done) | (((first | apply durable_forAll | apply durable_foldl); intros; (try dsimp only); repeat' split) <;> first | with_reducible rfl | (simp only [durable_applyDoorbell, durable_forAll, durable_goWith, durable_modDsp, apply_ite durable, ite_self, eq_self, durable_fold, durable_mk, implies_true, apply_ite Gates.active, apply_ite Ctl.ready, apply_ite PowerFail.warn, apply_ite PowerFail.cut]; done)) | ((refine (durable_forAll _ _ ?_ _).trans ?_ <;> intros <;> (try dsimp only) <;> repeat' split) <;> first | with_reducible rfl | (simp only [durable_applyDoorbell, durable_forAll, durable_goWith, durable_modDsp, apply_ite durable, ite_self, eq_self, durable_fold, durable_mk, implies_true, apply_ite Gates.active, apply_ite Ctl.ready, apply_ite PowerFail.warn, apply_ite PowerFail.cut]; done))

@[simp] theorem durable_doFlr (fn : Nat) (s : State) :
    durable (doFlr fn s) = durable s := by
  unfold doFlr
  repeat' split
  all_goals simp

@[simp] theorem durable_setMirror (fn : Nat) (m : Mirror) (s : State) :
    durable (setMirror fn m s) = durable s := by
  simp only [setMirror, durable_doFlr, durable_hostServe, durable_modFn, durable_stopFn, apply_ite durable, ite_self]

theorem durable_execFunctionMirrorUpdate {fn : Nat} {m : Mirror} {s : State} {t' : State}
    (hh : execFunctionMirrorUpdate fn m s = .next t') : durable t' = durable s := by
  unfold execFunctionMirrorUpdate at hh; split at hh <;> cases hh <;> first | rfl | simp only [durable_setMirror]

theorem durable_execBmeFall {fn : Nat} {s : State} {t' : State}
    (hh : execBmeFall fn s = .next t') : durable t' = durable s := by
  unfold execBmeFall at hh; split at hh <;> cases hh <;> first | rfl | simp only [durable_setMirror]

theorem durable_execBmeRise {fn : Nat} {s : State} {t' : State}
    (hh : execBmeRise fn s = .next t') : durable t' = durable s := by
  unfold execBmeRise at hh; split at hh <;> cases hh <;> first | rfl | simp only [durable_setMirror]

theorem durable_execFlrRequest {fn : Nat} {s : State} {t' : State}
    (hh : execFlrRequest fn s = .next t') : durable t' = durable s := by
  unfold execFlrRequest at hh; split at hh <;> cases hh <;> first | rfl | simp only [durable_setMirror]

@[simp] theorem durable_resetCtx (c : Nat) (s : State) :
    durable (resetCtx c s) = durable s := by
  simp only [resetCtx, durable_cacheUse, durable_dropTasks, durable_modCtx, durable_unqueue, durable_unwatch]

@[simp] theorem durable_doSweep (s : State) :
    durable (doSweep s) = durable s := by
  unfold doSweep
  repeat' split
  all_goals first | with_reducible rfl | (simp only [durable_forAll, durable_resetCtx, apply_ite durable, ite_self, eq_self, durable_fold, durable_mk, implies_true, apply_ite Gates.active, apply_ite Ctl.ready, apply_ite PowerFail.warn, apply_ite PowerFail.cut]; done) | (((first | apply durable_forAll | apply durable_foldl); intros; (try dsimp only); repeat' split) <;> first | with_reducible rfl | (simp only [durable_forAll, durable_resetCtx, apply_ite durable, ite_self, eq_self, durable_fold, durable_mk, implies_true, apply_ite Gates.active, apply_ite Ctl.ready, apply_ite PowerFail.warn, apply_ite PowerFail.cut]; done)) | ((refine (durable_forAll _ _ ?_ _).trans ?_ <;> intros <;> (try dsimp only) <;> repeat' split) <;> first | with_reducible rfl | (simp only [durable_forAll, durable_resetCtx, apply_ite durable, ite_self, eq_self, durable_fold, durable_mk, implies_true, apply_ite Gates.active, apply_ite Ctl.ready, apply_ite PowerFail.warn, apply_ite PowerFail.cut]; done))

theorem durable_execContextSweep {s : State} {t' : State}
    (hh : execContextSweep s = .next t') : durable t' = durable s := by
  unfold execContextSweep at hh; split at hh <;> cases hh <;> first | rfl | simp only [durable_doSweep]

@[simp] theorem durable_flrAckWrite (h : Nat) (v : Half) (s : State) :
    durable (flrAckWrite h v s) = durable s := by
  simp only [flrAckWrite, durable_modFn, durable_modHp, durable_resetDone, apply_ite durable, ite_self]

theorem durable_execFlrAck {r : Requester} {h : Nat} {v : Half} {s : State} {t' : State}
    (hh : execFlrAck r h v s = .next t') : durable t' = durable s := by
  unfold execFlrAck at hh; split at hh <;> cases hh <;> first | rfl | simp only [durable_access, durable_flrAckWrite]

theorem durable_execFlrTimeout {fn : Nat} {s : State} {t' : State}
    (hh : execFlrTimeout fn s = .next t') : durable t' = durable s := by
  unfold execFlrTimeout at hh
  dsimp only at hh
  repeat' split at hh
  all_goals (cases hh; simp)

theorem durable_execIntxSend {fn : Nat} {s : State} {t' : State}
    (hh : execIntxSend fn s = .next t') : durable t' = durable s := by
  unfold execIntxSend at hh
  dsimp only at hh
  repeat' split at hh
  all_goals (cases hh; simp)

/-! ### TableWork -/

@[simp] theorem durable_takeUp (touch : Bool) (rd : MResp) (f : Record → State → State) (s : State)
    (hf : ∀ a0 s, durable (f a0 s) = durable s) :
    durable (takeUp touch rd f s) = durable s := by
  unfold takeUp
  repeat' split
  all_goals first | with_reducible rfl | (simp only [durable_bucketRead, durable_modTsv, durable_takeRecord, hf, apply_ite durable, ite_self, eq_self, durable_fold, durable_mk, implies_true, apply_ite Gates.active, apply_ite Ctl.ready, apply_ite PowerFail.warn, apply_ite PowerFail.cut]; done) | exact (durable_recordRefused (by assumption)).trans (by first | rfl | simp only [durable_bucketRead, durable_modTsv, durable_takeRecord, hf, apply_ite durable, ite_self, eq_self, durable_fold, durable_mk, implies_true, apply_ite Gates.active, apply_ite Ctl.ready, apply_ite PowerFail.warn, apply_ite PowerFail.cut]) | ((try have q0 := durable_bucketRead_pair (by assumption)); (try have q1 := durable_recordRefused (by assumption)); simp only [durable_bucketRead, durable_modTsv, durable_takeRecord, hf, apply_ite durable, ite_self, eq_self, durable_fold, durable_mk, implies_true, apply_ite Gates.active, apply_ite Ctl.ready, apply_ite PowerFail.warn, apply_ite PowerFail.cut, *]; done) | ((simp only [durable_bucketRead, durable_modTsv, durable_takeRecord, hf, apply_ite durable, ite_self, eq_self, durable_fold, durable_mk, implies_true, apply_ite Gates.active, apply_ite Ctl.ready, apply_ite PowerFail.warn, apply_ite PowerFail.cut]; repeat' split) <;> first | with_reducible rfl | (simp only [durable_bucketRead, durable_modTsv, durable_takeRecord, hf, apply_ite durable, ite_self, eq_self, durable_fold, durable_mk, implies_true, apply_ite Gates.active, apply_ite Ctl.ready, apply_ite PowerFail.warn, apply_ite PowerFail.cut]; done) | exact (durable_recordRefused (by assumption)).trans (by first | rfl | simp only [durable_bucketRead, durable_modTsv, durable_takeRecord, hf, apply_ite durable, ite_self, eq_self, durable_fold, durable_mk, implies_true, apply_ite Gates.active, apply_ite Ctl.ready, apply_ite PowerFail.warn, apply_ite PowerFail.cut]) | ((try have q0 := durable_bucketRead_pair (by assumption)); (try have q1 := durable_recordRefused (by assumption)); simp only [durable_bucketRead, durable_modTsv, durable_takeRecord, hf, apply_ite durable, ite_self, eq_self, durable_fold, durable_mk, implies_true, apply_ite Gates.active, apply_ite Ctl.ready, apply_ite PowerFail.warn, apply_ite PowerFail.cut, *]; done))

theorem durable_execLearn {rd : MResp} {s : State} {t' : State}
    (hh : execLearn rd s = .next t') : durable t' = durable s := by
  unfold execLearn at hh
  repeat' split at hh
  all_goals (cases hh; simp)

theorem durable_execTouch {rd : MResp} {s : State} {t' : State}
    (hh : execTouch rd s = .next t') : durable t' = durable s := by
  unfold execTouch at hh
  repeat' split at hh
  all_goals (cases hh; simp)

@[simp] theorem durable_relocate (i key : Nat) (e : Bool) (s : State) :
    durable (relocate i key e s) = durable s := by
  unfold relocate
  dsimp only
  repeat' split
  all_goals simp

@[simp] theorem durable_stashFails (i key : Nat) (e : Bool) (a : Word) (s : State) :
    durable (stashFails i key e a s) = durable s := by
  unfold stashFails
  dsimp only
  repeat' split
  all_goals simp

@[simp] theorem durable_stashDone (i : Nat) (resp : MResp) (s : State) :
    durable (stashDone i resp s) = durable s := by
  unfold stashDone
  repeat' split
  all_goals first | rfl | simp only [durable_barrierStep, durable_lmRetire, durable_relocate, durable_stashFails,
      apply_ite durable, ite_self]

theorem durable_execRelocationStashWriteDone {i : Nat} {resp : MResp} {s : State} {t' : State}
    (hh : execRelocationStashWriteDone i resp s = .next t') : durable t' = durable s := by
  unfold execRelocationStashWriteDone at hh
  repeat' split at hh
  all_goals (cases hh; simp)

theorem durable_execAgeTick {i : Nat} {s : State} {t' : State}
    (hh : execAgeTick i s = .next t') : durable t' = durable s := by
  unfold execAgeTick at hh
  dsimp only at hh
  repeat' split at hh
  all_goals (cases hh; simp)

@[simp] theorem durable_ageOut (i : Nat) (p : Place) (y : Entry) (s : State) :
    durable (ageOut i p y s) = durable s := by
  simp only [ageOut, durable_mirrorFound, durable_modInst, durable_putEntry, durable_tsvEvent, apply_ite durable,
      ite_self]

@[simp] theorem durable_sweepVisit (rd : MResp) (i : Nat) (s : State) :
    durable (sweepVisit rd i s) = durable s := by
  unfold sweepVisit
  repeat' split
  all_goals simp

theorem durable_execAgeSweepVisit {i : Nat} {rd : MResp} {s : State} {t' : State}
    (hh : execAgeSweepVisit i rd s = .next t') : durable t' = durable s := by
  unfold execAgeSweepVisit at hh; split at hh <;> cases hh <;> first | rfl | simp only [durable_sweepVisit]

@[simp] theorem durable_enableTable (i : Nat) (s : State) :
    durable (enableTable i s) = durable s := by
  simp only [enableTable, durable_modInst, durable_wakeIsl, apply_ite durable, ite_self]

@[simp] theorem durable_disableTable (i : Nat) (s : State) :
    durable (disableTable i s) = durable s := by
  simp only [disableTable, durable_abandonRebuild, durable_modInst, durable_wakeIsl, apply_ite durable, ite_self]

theorem durable_execTableEnable {r : Requester} {i : Nat} {s : State} {t' : State}
    (hh : execTableEnable r i s = .next t') : durable t' = durable s := by
  unfold execTableEnable at hh; split at hh <;> cases hh <;> first | rfl | simp only [durable_access,
      durable_enableTable]

theorem durable_execTableDisable {r : Requester} {i : Nat} {s : State} {t' : State}
    (hh : execTableDisable r i s = .next t') : durable t' = durable s := by
  unfold execTableDisable at hh; split at hh <;> cases hh <;> first | rfl | simp only [durable_access,
      durable_disableTable]

theorem durable_execTableInitDone {d : TableEnd} {s : State} {t' : State}
    (hh : execTableInitDone d s = .next t') : durable t' = durable s := by
  unfold execTableInitDone at hh
  dsimp only at hh
  repeat' split at hh
  all_goals (cases hh; simp)

theorem durable_execRebuildZero {d : TableEnd} {s : State} {t' : State}
    (hh : execRebuildZero d s = .next t') : durable t' = durable s := by
  unfold execRebuildZero at hh
  dsimp only at hh
  repeat' split at hh
  all_goals (cases hh; simp)

@[simp] theorem durable_copyEntry (i k : Nat) (y : Entry) (s : State) :
    durable (copyEntry i k y s) = durable s := by
  simp only [copyEntry, durable_modInst, durable_placeNew, apply_ite durable, ite_self]

@[simp] theorem durable_copyPass (i : Nat) (l : List (Nat × Entry)) (s : State) : durable
    (copyPass i l s).2 = durable s := by
  induction l generalizing s with
  | nil => rfl
  | cons x l ih =>
    simp only [copyPass]
    repeat' split
    all_goals first | rfl | simp only [ih, durable_copyEntry]

theorem durable_copyPass_pair {i : Nat} {l : List (Nat × Entry)} {s : State} {b : Bool} {t : State}
    (hh : copyPass i l s = (b, t)) : durable t = durable s :=
  (congrArg (fun p => durable p.2) hh).symm.trans (durable_copyPass i l s)

@[simp] theorem durable_copyReads (x : Inst) (lo hi : Nat) (s : State) :
    durable (copyReads x lo hi s) = durable s := by
  simp only [copyReads, durable_xTsvMany]

@[simp] theorem durable_copyEnds (i : Nat) (s : State) :
    durable (copyEnds i s) = durable s := by
  unfold copyEnds
  repeat' split
  all_goals simp

theorem durable_execCopydone {d : TableEnd} {s : State} {t' : State}
    (hh : execCopydone d s = .next t') : durable t' = durable s := by
  unfold execCopydone at hh
  dsimp only at hh
  repeat' split at hh
  all_goals (cases hh; simp)

@[simp] theorem durable_writeTevrd (v : Half) (s : State) :
    durable (writeTevrd v s) = durable s := by
  simp only [writeTevrd, durable_modTsv, apply_ite durable, ite_self]

theorem durable_execTevrdWrite {r : Requester} {v : Half} {s : State} {t' : State}
    (hh : execTevrdWrite r v s = .next t') : durable t' = durable s := by
  unfold execTevrdWrite at hh; split at hh <;> cases hh <;> first | rfl | simp only [durable_access,
      durable_writeTevrd]

/-! ### Freeze -/

@[simp] theorem durable_crossed (a : Answer) (s : State) : durable (crossed a s) = durable s := by
  cases a <;> simp only [crossed, durable_lmReadData, durable_lmWriteResp, durable_lmUpd8Resp, durable_stashDone,
      durable_hostPiece, durable_rdataEnds, durable_msgEnds, durable_ctlReadData]

@[simp] theorem durable_answersGo (s : State) :
    durable (answersGo s) = durable s := by
  unfold answersGo
  repeat' split
  all_goals first | with_reducible rfl | (simp only [durable_crossed, durable_crossing, durable_forAll, apply_ite durable, ite_self, eq_self, durable_fold, durable_mk, implies_true, apply_ite Gates.active, apply_ite Ctl.ready, apply_ite PowerFail.warn, apply_ite PowerFail.cut]; done) | (((first | apply durable_forAll | apply durable_foldl); intros; (try dsimp only); repeat' split) <;> first | with_reducible rfl | (simp only [durable_crossed, durable_crossing, durable_forAll, apply_ite durable, ite_self, eq_self, durable_fold, durable_mk, implies_true, apply_ite Gates.active, apply_ite Ctl.ready, apply_ite PowerFail.warn, apply_ite PowerFail.cut]; done)) | ((refine (durable_forAll _ _ ?_ _).trans ?_ <;> intros <;> (try dsimp only) <;> repeat' split) <;> first | with_reducible rfl | (simp only [durable_crossed, durable_crossing, durable_forAll, apply_ite durable, ite_self, eq_self, durable_fold, durable_mk, implies_true, apply_ite Gates.active, apply_ite Ctl.ready, apply_ite PowerFail.warn, apply_ite PowerFail.cut]; done))

@[simp] theorem durable_lmGoN  (n : Nat) (s : State) :
    durable (lmGoN  n s) = durable s := by
  induction n generalizing s with
  | zero => rfl
  | succ n ih =>
    simp only [lmGoN]
    repeat' split
    all_goals first | rfl | simp only [ih, apply_ite durable, ite_self, eq_self, durable_fold, durable_mk,
        implies_true, apply_ite Gates.active, apply_ite Ctl.ready, apply_ite PowerFail.warn, apply_ite PowerFail.cut]

@[simp] theorem durable_lmGo (s : State) :
    durable (lmGo s) = durable s := by
  simp only [lmGo, durable_lmGoN]

@[simp] theorem durable_ctlGo (s : State) :
    durable (ctlGo s) = durable s := (rfl)

@[simp] theorem durable_portGo (p : Nat) (s : State) :
    durable (portGo p s) = durable s := by
  simp only [portGo, durable_modPort, durable_portPump]

@[simp] theorem durable_hostGo (h : Nat) (s : State) :
    durable (hostGo h s) = durable s := by
  unfold hostGo
  repeat' split
  all_goals simp

@[simp] theorem durable_requestsGo (s : State) :
    durable (requestsGo s) = durable s := by
  unfold requestsGo
  repeat' split
  all_goals simp

@[simp] theorem durable_writeXfreeze (on : Bool) (s : State) :
    durable (writeXfreeze on s) = durable s := by
  simp only [writeXfreeze, durable_answersGo, durable_modXbar, durable_requestsGo, durable_slotCount,
      durable_wakeIsl, apply_ite durable, ite_self]

theorem durable_execXbarFreeze {r : Requester} {on : Bool} {s : State} {t' : State}
    (hh : execXbarFreeze r on s = .next t') : durable t' = durable s := by
  unfold execXbarFreeze at hh; split at hh <;> cases hh <;> first | rfl | simp only [durable_access,
      durable_writeXfreeze]

@[simp] theorem durable_writeCfreeze (k : Nat) (on : Bool) (s : State) :
    durable (writeCfreeze k on s) = durable s := by
  simp only [writeCfreeze, durable_answersGo, durable_modClu, durable_wakeIsl, apply_ite durable, ite_self]

theorem durable_execClusterFreeze {r : Requester} {k : Nat} {on : Bool} {s : State} {t' : State}
    (hh : execClusterFreeze r k on s = .next t') : durable t' = durable s := by
  unfold execClusterFreeze at hh; split at hh <;> cases hh <;> first | rfl | simp only [durable_access,
      durable_writeCfreeze]

/-! ### SelfTest -/

@[simp] theorem durable_clearIsland (k : Nat) (s : State) :
    durable (clearIsland k s) = durable s := (rfl)

@[simp] theorem durable_beginTest (kind : BitVec 2) (target : BitVec 7) (s : State) :
    durable (beginTest kind target s) = durable s := by
  unfold beginTest; split <;> first | rfl | simp only [durable_clearIsland]

@[simp] theorem durable_startTest (kind : BitVec 2) (target : BitVec 7) (s : State) :
    durable (startTest kind target s) = durable s := by
  unfold startTest
  repeat' split
  all_goals first | with_reducible rfl | (simp only [durable_beginTest, apply_ite durable, ite_self, eq_self, durable_fold, durable_mk, implies_true, apply_ite Gates.active, apply_ite Ctl.ready, apply_ite PowerFail.warn, apply_ite PowerFail.cut]; done)

@[simp] theorem durable_logicEngine (k : Nat) (sig : Half) (sigs : List Half) (s : State) :
    durable (logicEngine k sig sigs s).2 = durable s := by
  unfold logicEngine
  repeat' split
  all_goals first | rfl | simp only [durable_modEngIsl, durable_foldl, apply_ite durable, ite_self]
theorem durable_logicEngine_pair {k : Nat} {sig : Half} {sigs : List Half} {s : State} {b' : BitVec 2} {t' : State}
    (hh : logicEngine k sig sigs s = (b', t')) : durable t' = durable s :=
  (congrArg (fun p => durable p.2) hh).symm.trans (durable_logicEngine k sig sigs s )

@[simp] theorem durable_logicResult (i : Nat) (rep : TestReport) (s : State) :
    durable (logicResult i rep s).2 = durable s := by
  unfold logicResult
  repeat' split
  all_goals first | with_reducible rfl | (simp only [durable_logicEngine, durable_modIsl, apply_ite durable, ite_self, eq_self, durable_fold, durable_mk, implies_true, apply_ite Gates.active, apply_ite Ctl.ready, apply_ite PowerFail.warn, apply_ite PowerFail.cut]; done) | ((try have q0 := durable_logicEngine_pair (by assumption)); simp only [durable_logicEngine, durable_modIsl, apply_ite durable, ite_self, eq_self, durable_fold, durable_mk, implies_true, apply_ite Gates.active, apply_ite Ctl.ready, apply_ite PowerFail.warn, apply_ite PowerFail.cut, *]; done)
theorem durable_logicResult_pair {i : Nat} {rep : TestReport} {s : State} {b' : BitVec 2} {t' : State}
    (hh : logicResult i rep s = (b', t')) : durable t' = durable s :=
  (congrArg (fun p => durable p.2) hh).symm.trans (durable_logicResult i rep s )

@[simp] theorem durable_memoryResult (g rows : Nat) (s : State) :
    durable (memoryResult g rows s).2 = durable s := by
  unfold memoryResult
  repeat' split
  all_goals first | with_reducible rfl | (simp only [durable_modEngIsl, durable_modGroup, apply_ite durable, ite_self, eq_self, durable_fold, durable_mk, implies_true, apply_ite Gates.active, apply_ite Ctl.ready, apply_ite PowerFail.warn, apply_ite PowerFail.cut]; done) | ((simp only [durable_modEngIsl, durable_modGroup, apply_ite durable, ite_self, eq_self, durable_fold, durable_mk, implies_true, apply_ite Gates.active, apply_ite Ctl.ready, apply_ite PowerFail.warn, apply_ite PowerFail.cut]; repeat' split) <;> first | with_reducible rfl | (simp only [durable_modEngIsl, durable_modGroup, apply_ite durable, ite_self, eq_self, durable_fold, durable_mk, implies_true, apply_ite Gates.active, apply_ite Ctl.ready, apply_ite PowerFail.warn, apply_ite PowerFail.cut]; done))
theorem durable_memoryResult_pair {g rows : Nat} {s : State} {b' : BitVec 2} {t' : State}
    (hh : memoryResult g rows s = (b', t')) : durable t' = durable s :=
  (congrArg (fun p => durable p.2) hh).symm.trans (durable_memoryResult g rows s )

@[simp] theorem durable_testResult (rep : TestReport) (s : State) :
    durable (testResult rep s).2 = durable s := by
  unfold testResult
  repeat' split
  all_goals first | with_reducible rfl | (simp only [durable_logicResult, durable_memoryResult, apply_ite durable, ite_self, eq_self, durable_fold, durable_mk, implies_true, apply_ite Gates.active, apply_ite Ctl.ready, apply_ite PowerFail.warn, apply_ite PowerFail.cut]; done) | ((try have q0 := durable_logicResult_pair (by assumption)); (try have q1 := durable_memoryResult_pair (by assumption)); simp only [durable_logicResult, durable_memoryResult, apply_ite durable, ite_self, eq_self, durable_fold, durable_mk, implies_true, apply_ite Gates.active, apply_ite Ctl.ready, apply_ite PowerFail.warn, apply_ite PowerFail.cut, *]; done)
theorem durable_testResult_pair {rep : TestReport} {s : State} {b' : BitVec 2} {t' : State}
    (hh : testResult rep s = (b', t')) : durable t' = durable s :=
  (congrArg (fun p => durable p.2) hh).symm.trans (durable_testResult rep s )

/-! ### TestEnd -/

@[simp] theorem durable_resetDsp (s : State) :
    durable (resetDsp s) = durable s := by
  unfold resetDsp
  repeat' split
  all_goals first | rfl | simp only [durable_dropIf, apply_ite durable, ite_self]

@[simp] theorem durable_resetEngs (k : Nat) (s : State) :
    durable (resetEngs k s) = durable s := by
  unfold resetEngs
  repeat' split
  all_goals first | rfl | simp only [durable_dropIf, apply_ite durable, ite_self]

@[simp] theorem durable_resetXbr (s : State) :
    durable (resetXbr s) = durable s := by
  simp only [resetXbr, durable_modXbar]

@[simp] theorem durable_resetTsv (s : State) :
    durable (resetTsv s) = durable s := by
  simp only [resetTsv, durable_dropIf, durable_modTsv]

@[simp] theorem durable_resetHost (h : Nat) (s : State) :
    durable (resetHost h s) = durable s := by
  simp only [resetHost, durable_modDsp, durable_modHp]

@[simp] theorem durable_resetLmp (n : Nat) (s : State) :
    durable (resetLmp n s) = durable s := (rfl)

@[simp] theorem durable_resetPort (p : Nat) (s : State) :
    durable (resetPort p s) = durable s := by
  simp only [resetPort, durable_linkReset, durable_modPort, durable_portClose, apply_ite durable, ite_self]

@[simp] theorem durable_resetCluster (k : Nat) (s : State) :
    durable (resetCluster k s) = durable s := by
  unfold resetCluster
  repeat' split
  all_goals simp

@[simp] theorem durable_resetIsland (i : Nat) (s : State) :
    durable (resetIsland i s) = durable s := by
  simp only [resetIsland, durable_resetCluster, durable_resetDsp, durable_resetEngs, durable_resetHost,
      durable_resetLmp, durable_resetTsv, durable_resetXbr, apply_ite durable, ite_self]

@[simp] theorem durable_resumeWaiting (s : State) :
    durable (resumeWaiting s) = durable s := by
  unfold resumeWaiting
  repeat' split
  all_goals simp

@[simp] theorem durable_testOver (s : State) :
    durable (testOver s) = durable s := by
  unfold testOver
  repeat' split
  all_goals first | with_reducible rfl | (simp only [durable_modIsl, durable_resumeWaiting, apply_ite durable, ite_self, eq_self, durable_fold, durable_mk, implies_true, apply_ite Gates.active, apply_ite Ctl.ready, apply_ite PowerFail.warn, apply_ite PowerFail.cut]; done)

@[simp] theorem durable_abandonTest (s : State) :
    durable (abandonTest s) = durable s := by
  unfold abandonTest
  repeat' split
  all_goals first | with_reducible rfl | (simp only [durable_testOver, apply_ite durable, ite_self, eq_self, durable_fold, durable_mk, implies_true, apply_ite Gates.active, apply_ite Ctl.ready, apply_ite PowerFail.warn, apply_ite PowerFail.cut]; done)

/-! ### Cairn -/

@[simp] theorem durable_loadCairn (s : State) :
    durable (loadCairn s) = durable s := by
  unfold loadCairn
  repeat' split
  all_goals simp

end Sys2Proof.Machine
end

