-- ==== Sys2Proof/Laws/DurableCores.lean ====
section
/-! SUPPORT. What firmware, power, cores, services and registers leave of the durable part of a state (Safety.lean): each keeps it. One lemma per operation. -/

namespace Sys2Proof.Machine

/-! ### Firmware -/

@[simp] theorem durable_bootHalt (err : Byte) (s : State) :
    durable (bootHalt err s) = durable s := by
  unfold bootHalt
  repeat' split
  all_goals first | rfl | simp only [durable_modCtl, apply_ite durable, ite_self]

@[simp] theorem durable_startBedrock (s : State) :
    durable (startBedrock s) = durable s := by
  unfold startBedrock
  repeat' split
  all_goals first | with_reducible rfl | (simp only [durable_armMask, durable_bootHalt, durable_installStart, durable_modCore, durable_modCtl, apply_ite durable, ite_self, eq_self, durable_fold, durable_mk, implies_true, apply_ite Gates.active, apply_ite Ctl.ready, apply_ite PowerFail.warn, apply_ite PowerFail.cut]; done)

@[simp] theorem durable_bootGo (selftest : Bool) (s : State) :
    durable (bootGo selftest s) = durable s := by
  unfold bootGo
  repeat' split
  all_goals simp

theorem durable_execBootGo {r : Requester} {selftest : Bool} {s : State} {t' : State}
    (hh : execBootGo r selftest s = .next t') : durable t' = durable s := by
  unfold execBootGo at hh; split at hh <;> cases hh <;> first | rfl | simp only [durable_access, durable_bootGo]

@[simp] theorem durable_noticeAnswered (s : State) :
    durable (noticeAnswered s) = durable s := by
  unfold noticeAnswered
  dsimp only
  repeat' split
  all_goals simp

@[simp] theorem durable_answerMbx (m : Nat) (s : State) :
    durable (answerMbx m s) = durable s := by
  simp only [answerMbx, durable_mbxDone, durable_noticeAnswered, apply_ite durable, ite_self]

theorem durable_execMailboxPost {r : Requester} {m : Nat} {s : State} {t' : State}
    (hh : execMailboxPost r m s = .next t') : durable t' = durable s := by
  unfold execMailboxPost at hh; split at hh <;> cases hh <;> first | rfl | simp only [durable_access, durable_mbxPost]

theorem durable_execMailboxAnswer {r : Requester} {m : Nat} {s : State} {t' : State}
    (hh : execMailboxAnswer r m s = .next t') : durable t' = durable s := by
  unfold execMailboxAnswer at hh; split at hh <;> cases hh <;> first | rfl | simp only [durable_access,
      durable_answerMbx]

@[simp] theorem durable_badArg (m w : Nat) (s : State) :
    durable (badArg m w s) = durable s := by
  simp only [badArg, durable_bedAnswer]

@[simp] theorem durable_served (m : Nat) (s : State) :
    durable (served m s) = durable s := by
  unfold served; split <;> first | rfl | simp only [durable_modCtl]

@[simp] theorem durable_serve (m cmd : Nat) (scree mp : Bool) (f : State → State) (s : State) (hf : ∀  s, durable
    (f  s) = durable s) :
    durable (serve m cmd scree mp f s) = durable s := by
  simp only [serve, durable_badArg, durable_bedAnswer, durable_served, hf, apply_ite durable, ite_self]

@[simp] theorem durable_serveGateRule (m : Nat) (s : State) :
    durable (serveGateRule m s) = durable s := by
  simp only [serveGateRule, durable_badArg, durable_bedAnswer, durable_setShadow, apply_ite durable, ite_self]

theorem durable_execGateRule {m : Nat} {s : State} {t' : State}
    (hh : execGateRule m s = .next t') : durable t' = durable s := by
  unfold execGateRule at hh
  repeat' split at hh
  all_goals (cases hh; simp)

@[simp] theorem durable_serveGateCommit (m : Nat) (s : State) :
    durable (serveGateCommit m s) = durable s := by
  unfold serveGateCommit
  repeat' split
  all_goals simp

theorem durable_execGateCommit {m : Nat} {s : State} {t' : State}
    (hh : execGateCommit m s = .next t') : durable t' = durable s := by
  unfold execGateCommit at hh
  repeat' split at hh
  all_goals (cases hh; simp)

@[simp] theorem durable_serveLockBreak (m : Nat) (s : State) :
    durable (serveLockBreak m s) = durable s := by
  unfold serveLockBreak
  repeat' split
  all_goals simp

theorem durable_execLockBreak {m : Nat} {s : State} {t' : State}
    (hh : execLockBreak m s = .next t') : durable t' = durable s := by
  unfold execLockBreak at hh
  repeat' split at hh
  all_goals (cases hh; simp)

@[simp] theorem durable_setHpctl (h : Nat) (v : Half) (s : State) :
    durable (setHpctl h v s) = durable s := by
  simp only [setHpctl, durable_modHp]

@[simp] theorem durable_setHpctl2 (h : Nat) (v : Half) (s : State) :
    durable (setHpctl2 h v s) = durable s := by
  simp only [setHpctl2, durable_modHp]

@[simp] theorem durable_serveHostSet (m : Nat) (s : State) :
    durable (serveHostSet m s) = durable s := by
  simp only [serveHostSet, durable_badArg, durable_bedAnswer, durable_setHpctl, durable_setHpctl2,
      apply_ite durable, ite_self]

theorem durable_execHostSet {m : Nat} {s : State} {t' : State}
    (hh : execHostSet m s = .next t') : durable t' = durable s := by
  unfold execHostSet at hh
  repeat' split at hh
  all_goals (cases hh; simp)

@[simp] theorem durable_serveTsvPlace (m : Nat) (s : State) :
    durable (serveTsvPlace m s) = durable s := by
  unfold serveTsvPlace
  dsimp only
  repeat' split
  all_goals simp

theorem durable_execTsvPlace {m : Nat} {s : State} {t' : State}
    (hh : execTsvPlace m s = .next t') : durable t' = durable s := by
  unfold execTsvPlace at hh
  repeat' split at hh
  all_goals (cases hh; simp)

@[simp] theorem durable_serveTsvRing (m : Nat) (s : State) :
    durable (serveTsvRing m s) = durable s := by
  unfold serveTsvRing
  dsimp only
  repeat' split
  all_goals simp

theorem durable_execTsvRing {m : Nat} {s : State} {t' : State}
    (hh : execTsvRing m s = .next t') : durable t' = durable s := by
  unfold execTsvRing at hh
  repeat' split at hh
  all_goals (cases hh; simp)

@[simp] theorem durable_serveSelftest (m : Nat) (s : State) :
    durable (serveSelftest m s) = durable s := by
  unfold serveSelftest
  repeat' split
  all_goals simp

theorem durable_execSelftest {m : Nat} {s : State} {t' : State}
    (hh : execSelftest m s = .next t') : durable t' = durable s := by
  unfold execSelftest at hh
  repeat' split at hh
  all_goals (cases hh; simp)

@[simp] theorem durable_serveVlogNext (m : Nat) (s : State) :
    durable (serveVlogNext m s) = durable s := by
  unfold serveVlogNext
  repeat' split
  all_goals simp

theorem durable_execVlogNext {m : Nat} {s : State} {t' : State}
    (hh : execVlogNext m s = .next t') : durable t' = durable s := by
  unfold execVlogNext at hh
  repeat' split at hh
  all_goals (cases hh; simp)

@[simp] theorem durable_serveScreeLoad (m : Nat) (s : State) :
    durable (serveScreeLoad m s) = durable s := by
  unfold serveScreeLoad; split <;> first | rfl | simp only [durable_bedAnswer, durable_modCtl]

theorem durable_execScreeLoad {m : Nat} {s : State} {t' : State}
    (hh : execScreeLoad m s = .next t') : durable t' = durable s := by
  unfold execScreeLoad at hh
  repeat' split at hh
  all_goals (cases hh; simp)

@[simp] theorem durable_restartScree (s : State) :
    durable (restartScree s) = durable s := by
  simp only [restartScree, durable_writeCcctl]

@[simp] theorem durable_serveScreeRestart (m : Nat) (s : State) :
    durable (serveScreeRestart m s) = durable s := by
  simp only [serveScreeRestart, durable_bedAnswer, durable_restartScree, apply_ite durable, ite_self]

theorem durable_execScreeRestart {m : Nat} {s : State} {t' : State}
    (hh : execScreeRestart m s = .next t') : durable t' = durable s := by
  unfold execScreeRestart at hh
  repeat' split at hh
  all_goals (cases hh; simp)

theorem durable_execUpdateTimeout {s : State} {t' : State}
    (hh : execUpdateTimeout s = .next t') : durable t' = durable s := by
  unfold execUpdateTimeout at hh
  repeat' split at hh
  all_goals (cases hh; simp)

theorem durable_execCcctlWrite {r : Requester} {v : Half} {s : State} {t' : State}
    (hh : execCcctlWrite r v s = .next t') : durable t' = durable s := by
  unfold execCcctlWrite at hh; split at hh <;> cases hh <;> first | rfl | simp only [durable_access,
      durable_writeCcctl]

/-! ### Power -/

@[simp] theorem durable_dropAllStaged (s : State) :
    durable (dropAllStaged s) = durable s := by
  unfold dropAllStaged
  repeat' split
  all_goals first | rfl | simp only [durable_modPf, durable_foldl, apply_ite durable, ite_self]

@[simp] theorem durable_cutSpec (e : Nat) (s : State) :
    durable (cutSpec e s) = durable s := by
  simp only [cutSpec, durable_dropIf, durable_modDsp, durable_modEng]

@[simp] theorem durable_takeSample (code : BitVec 10) (s : State) :
    durable (takeSample code s) = durable s := by
  unfold takeSample
  repeat' split
  all_goals first | rfl | simp only [durable_modPf, apply_ite durable, ite_self]

@[simp] theorem durable_copyBursts (n h fn : Nat) (w : Who) (d : List Byte) (s : State) : durable
    (copyBursts n h fn w d s).2 = durable s := by
  induction n generalizing d s with
  | zero => rfl
  | succ n ih =>
    simp only [copyBursts]
    split
    · simp only [durable_denyPrecise]
    · simp only [ih, durable_xCtl, durable_hostWrite]

theorem durable_copyBursts_pair {n h fn : Nat} {w : Who} {d : List Byte} {s : State} {b : Bool} {t : State}
    (hh : copyBursts n h fn w d s = (b, t)) : durable t = durable s :=
  (congrArg (fun p => durable p.2) hh).symm.trans (durable_copyBursts n h fn w d s)

@[simp] theorem durable_hostCopy (s : State) :
    durable (hostCopy s) = durable s := by
  unfold hostCopy
  repeat' split
  all_goals simp

theorem durable_execCairnHostCopyDone {s : State} {t' : State}
    (hh : execCairnHostCopyDone s = .next t') : durable t' = durable s := by
  unfold execCairnHostCopyDone at hh
  dsimp only at hh
  repeat' split at hh
  all_goals (cases hh; simp)

@[simp] theorem durable_setPst (i : Nat) (v : BitVec 2) (s : State) :
    durable (setPst i v s) = durable s := by
  simp only [setPst, durable_modIsl]

theorem durable_execIslandClkstop {i : Nat} {s : State} {t' : State}
    (hh : execIslandClkstop i s = .next t') : durable t' = durable s := by
  unfold execIslandClkstop at hh
  dsimp only at hh
  repeat' split at hh
  all_goals (cases hh; simp)

theorem durable_execIslandRetain {i : Nat} {s : State} {t' : State}
    (hh : execIslandRetain i s = .next t') : durable t' = durable s := by
  unfold execIslandRetain at hh
  dsimp only at hh
  repeat' split at hh
  all_goals (cases hh; simp)

theorem durable_execIslandWake {i : Nat} {s : State} {t' : State}
    (hh : execIslandWake i s = .next t') : durable t' = durable s := by
  unfold execIslandWake at hh; split at hh <;> cases hh <;> first | rfl | simp only [durable_wakeIsl]

theorem durable_execLogicTest {r : Requester} {target : BitVec 7} {s : State} {t' : State}
    (hh : execLogicTest r target s = .next t') : durable t' = durable s := by
  unfold execLogicTest at hh; split at hh <;> cases hh <;> first | rfl | simp only [durable_access, durable_startTest]

theorem durable_execMemoryTest {r : Requester} {target : BitVec 7} {s : State} {t' : State}
    (hh : execMemoryTest r target s = .next t') : durable t' = durable s := by
  unfold execMemoryTest at hh; split at hh <;> cases hh <;> first | rfl | simp only [durable_access,
      durable_startTest]

theorem durable_execInfieldTest {r : Requester} {target : BitVec 7} {s : State} {t' : State}
    (hh : execInfieldTest r target s = .next t') : durable t' = durable s := by
  unfold execInfieldTest at hh; split at hh <;> cases hh <;> first | rfl | simp only [durable_access,
      durable_startTest]

theorem durable_execAgingMeasure {i : Nat} {slow : BitVec 6} {s : State} {t' : State}
    (hh : execAgingMeasure i slow s = .next t') : durable t' = durable s := by
  unfold execAgingMeasure at hh; split at hh <;> cases hh <;> first | rfl | simp only [durable_modIsl]

/-! ### CoreOps -/

theorem durable_coreGate {c : Nat} {n : Need} {a : Word} {len : Nat} {s : State} {t' : State}
    (hh : coreGate c n a len s = .some t') : durable t' = durable s := by
  unfold coreGate at hh
  try dsimp only at hh
  repeat' split at hh
  all_goals first
    | (injection hh with hh; subst hh; first | with_reducible rfl | (simp only [durable_denyPrecise, apply_ite durable, ite_self, eq_self, durable_fold, durable_mk, implies_true, apply_ite Gates.active, apply_ite Ctl.ready, apply_ite PowerFail.warn, apply_ite PowerFail.cut]; done) | ((simp only [durable_denyPrecise, apply_ite durable, ite_self, eq_self, durable_fold, durable_mk, implies_true, apply_ite Gates.active, apply_ite Ctl.ready, apply_ite PowerFail.warn, apply_ite PowerFail.cut]; repeat' split) <;> first | with_reducible rfl | (simp only [durable_denyPrecise, apply_ite durable, ite_self, eq_self, durable_fold, durable_mk, implies_true, apply_ite Gates.active, apply_ite Ctl.ready, apply_ite PowerFail.warn, apply_ite PowerFail.cut]; done)))
    | exact absurd hh (by simp)

@[simp] theorem durable_fillLine (c : Nat) (a : Word) (s : State) :
    durable (fillLine c a s) = durable s := by
  simp only [fillLine, durable_modCore, durable_softRead]

@[simp] theorem durable_coreFault (c : Nat) (cause : BitVec 3) (addr : Word) (s : State) :
    durable (coreFault c cause addr s) = durable s := by
  unfold coreFault
  repeat' split
  all_goals simp

@[simp] theorem durable_illegal (c : Nat) (s : State) :
    durable (illegal c s) = durable s := by
  simp only [illegal, durable_coreFault]

theorem durable_coreRead (c : Nat) (a : Word) (n : Nat) (s : State) :
    match coreRead c a n s with
    | .bytes _ t => durable t = durable s
    | .fault _ t => durable t = durable s := by
  unfold coreRead freeBytes sramRead
  repeat' split
  all_goals first
    | rfl
    | (rename_i h; (repeat' split at h) <;> first
        | (injection h with _ h; subst h; (try split) <;> first | rfl | exact durable_eccCount _ _ | exact durable_softRead _ _ _ _ | exact durable_drawFree _ | exact durable_coreGate (by assumption))
        | (injection h; done))
theorem durable_coreRead_bytes {c : Nat} {a : Word} {n : Nat} {s : State} {d t}
    (hh : coreRead c a n s = .bytes d t) : durable t = durable s := by
  have h := durable_coreRead c a n s; rw [hh] at h; exact h
theorem durable_coreRead_fault {c : Nat} {a : Word} {n : Nat} {s : State} {d t}
    (hh : coreRead c a n s = .fault d t) : durable t = durable s := by
  have h := durable_coreRead c a n s; rw [hh] at h; exact h
theorem durable_sramRead_bytes {r : Region} {a : Word} {n : Nat} {b : List Byte} {s : State} {d t}
    (hh : sramRead r a n b s = .bytes d t) : durable t = durable s := by
  unfold sramRead at hh; split at hh <;> cases hh; split <;> first | rfl | exact durable_softRead _ _ _ _
theorem durable_sramRead_fault {r : Region} {a : Word} {n : Nat} {b : List Byte} {s : State} {d t}
    (hh : sramRead r a n b s = .fault d t) : durable t = durable s := by
  unfold sramRead at hh; split at hh <;> cases hh; split <;> first | rfl | exact durable_eccCount _ _
theorem durable_coreFetch_bytes {c : Nat} {a : Word} {s : State} {d t}
    (hh : coreFetch c a s = .bytes d t) : durable t = durable s := by
  unfold coreFetch at hh
  repeat' split at hh
  all_goals first
    | (injection hh with _ hh; subst hh; (try split) <;> first | rfl | exact (durable_fillLine _ _ _).trans (durable_coreRead_bytes (by assumption)) | exact durable_coreRead_bytes (by assumption))
    | (injection hh; done)
theorem durable_coreFetch_fault {c : Nat} {a : Word} {s : State} {d t}
    (hh : coreFetch c a s = .fault d t) : durable t = durable s := by
  unfold coreFetch at hh
  repeat' split at hh
  all_goals first
    | (injection hh with _ hh; subst hh; exact durable_coreRead_fault (by assumption))
    | (injection hh; done)
theorem durable_runCore_aux (c o : Nat) (sub : Option Nat) (f : Word → State → State) (s : State)
    (hf : ∀ a0 s, durable (f a0 s) = durable s) (tt : State)
    (hh : runCore c o sub f s = .next tt) : durable tt = durable s := by
  unfold runCore at hh
  dsimp only at hh
  repeat' split at hh
  all_goals (injection hh with hh; subst hh)
  · rfl
  · exact (durable_coreFault _ _ _ _).trans (durable_coreFetch_fault (by assumption))
  · exact (durable_illegal _ _).trans (durable_coreFetch_bytes (by assumption))
  · exact (hf _ _).trans (durable_coreFetch_bytes (by assumption))
  · rfl
theorem durable_runCore {c o : Nat} {sub : Option Nat} {f : Word → State → State} {s : State} (hf : ∀ a0 s, durable
    (f a0 s) = durable s) {tt : State}
    (hh : runCore c o sub f s = .next tt) : durable tt = durable s := durable_runCore_aux c o sub f s hf tt hh

@[simp] theorem durable_retireCore (c : Nat) (f : Core → Core) (s : State) :
    durable (retireCore c f s) = durable s := by
  simp only [retireCore, durable_modCore]

/-! ### Cores -/

@[simp] theorem durable_doLd (c : Nat) (w : Word) (s : State) :
    durable (doLd c w s) = durable s := by
  unfold doLd
  repeat' split
  all_goals first | with_reducible rfl | (simp only [durable_coreFault, durable_illegal, durable_retireCore, apply_ite durable, ite_self, eq_self, durable_fold, durable_mk, implies_true, apply_ite Gates.active, apply_ite Ctl.ready, apply_ite PowerFail.warn, apply_ite PowerFail.cut]; done) | (simp only [durable_coreFault, durable_illegal, durable_retireCore, apply_ite durable, ite_self, eq_self, durable_fold, durable_mk, implies_true, apply_ite Gates.active, apply_ite Ctl.ready, apply_ite PowerFail.warn, apply_ite PowerFail.cut]; first | exact durable_coreRead_bytes (by assumption) | exact durable_coreRead_fault (by assumption) | exact durable_coreFetch_bytes (by assumption) | exact durable_coreFetch_fault (by assumption) | exact durable_sramRead_bytes (by assumption) | exact durable_sramRead_fault (by assumption)) | ((simp only [durable_coreFault, durable_illegal, durable_retireCore, apply_ite durable, ite_self, eq_self, durable_fold, durable_mk, implies_true, apply_ite Gates.active, apply_ite Ctl.ready, apply_ite PowerFail.warn, apply_ite PowerFail.cut]; repeat' split) <;> first | with_reducible rfl | (simp only [durable_coreFault, durable_illegal, durable_retireCore, apply_ite durable, ite_self, eq_self, durable_fold, durable_mk, implies_true, apply_ite Gates.active, apply_ite Ctl.ready, apply_ite PowerFail.warn, apply_ite PowerFail.cut]; done) | (simp only [durable_coreFault, durable_illegal, durable_retireCore, apply_ite durable, ite_self, eq_self, durable_fold, durable_mk, implies_true, apply_ite Gates.active, apply_ite Ctl.ready, apply_ite PowerFail.warn, apply_ite PowerFail.cut]; first | exact durable_coreRead_bytes (by assumption) | exact durable_coreRead_fault (by assumption) | exact durable_coreFetch_bytes (by assumption) | exact durable_coreFetch_fault (by assumption) | exact durable_sramRead_bytes (by assumption) | exact durable_sramRead_fault (by assumption)))

theorem durable_execLd {c : Nat} {s : State} {t' : State}
    (hh : execLd c s = .next t') : durable t' = durable s := 
  durable_runCore (fun _ _ => by simp only [durable_doLd]) hh

@[simp] theorem durable_doLdi (c : Nat) (w : Word) (s : State) :
    durable (doLdi c w s) = durable s := by
  unfold doLdi
  repeat' split
  all_goals first | with_reducible rfl | (simp only [durable_coreFault, durable_illegal, durable_modCore, durable_retireCore, apply_ite durable, ite_self, eq_self, durable_fold, durable_mk, implies_true, apply_ite Gates.active, apply_ite Ctl.ready, apply_ite PowerFail.warn, apply_ite PowerFail.cut]; done) | (simp only [durable_coreFault, durable_illegal, durable_modCore, durable_retireCore, apply_ite durable, ite_self, eq_self, durable_fold, durable_mk, implies_true, apply_ite Gates.active, apply_ite Ctl.ready, apply_ite PowerFail.warn, apply_ite PowerFail.cut]; first | exact durable_coreRead_bytes (by assumption) | exact durable_coreRead_fault (by assumption) | exact durable_coreFetch_bytes (by assumption) | exact durable_coreFetch_fault (by assumption) | exact durable_sramRead_bytes (by assumption) | exact durable_sramRead_fault (by assumption)) | ((simp only [durable_coreFault, durable_illegal, durable_modCore, durable_retireCore, apply_ite durable, ite_self, eq_self, durable_fold, durable_mk, implies_true, apply_ite Gates.active, apply_ite Ctl.ready, apply_ite PowerFail.warn, apply_ite PowerFail.cut]; repeat' split) <;> first | with_reducible rfl | (simp only [durable_coreFault, durable_illegal, durable_modCore, durable_retireCore, apply_ite durable, ite_self, eq_self, durable_fold, durable_mk, implies_true, apply_ite Gates.active, apply_ite Ctl.ready, apply_ite PowerFail.warn, apply_ite PowerFail.cut]; done) | (simp only [durable_coreFault, durable_illegal, durable_modCore, durable_retireCore, apply_ite durable, ite_self, eq_self, durable_fold, durable_mk, implies_true, apply_ite Gates.active, apply_ite Ctl.ready, apply_ite PowerFail.warn, apply_ite PowerFail.cut]; first | exact durable_coreRead_bytes (by assumption) | exact durable_coreRead_fault (by assumption) | exact durable_coreFetch_bytes (by assumption) | exact durable_coreFetch_fault (by assumption) | exact durable_sramRead_bytes (by assumption) | exact durable_sramRead_fault (by assumption)))

theorem durable_execLdi {c : Nat} {s : State} {t' : State}
    (hh : execLdi c s = .next t') : durable t' = durable s := 
  durable_runCore (fun _ _ => by simp only [durable_doLdi]) hh

@[simp] theorem durable_amoAt (c : Nat) (w a old : Word) (put : List Byte → State → State) (s : State)
    (hput : ∀ a0 s, durable (put a0 s) = durable s) :
    durable (amoAt c w a old put s) = durable s := by
  simp only [amoAt, durable_retireCore, hput]

@[simp] theorem durable_doAlu (c : Nat) (w : Word) (s : State) :
    durable (doAlu c w s) = durable s := by
  unfold doAlu
  dsimp only
  repeat' split
  all_goals simp

theorem durable_execAlu {c : Nat} {s : State} {t' : State}
    (hh : execAlu c s = .next t') : durable t' = durable s := 
  durable_runCore (fun _ _ => by simp only [durable_doAlu]) hh

@[simp] theorem durable_doBfx (c : Nat) (w : Word) (s : State) :
    durable (doBfx c w s) = durable s := by
  simp only [doBfx, durable_illegal, durable_retireCore, apply_ite durable, ite_self]

theorem durable_execBfx {c : Nat} {s : State} {t' : State}
    (hh : execBfx c s = .next t') : durable t' = durable s := 
  durable_runCore (fun _ _ => by simp only [durable_doBfx]) hh

@[simp] theorem durable_doB (c : Nat) (w : Word) (s : State) :
    durable (doB c w s) = durable s := by
  simp only [doB, durable_illegal, durable_modCore, apply_ite durable, ite_self]

theorem durable_execB {c : Nat} {s : State} {t' : State}
    (hh : execB c s = .next t') : durable t' = durable s := 
  durable_runCore (fun _ _ => by simp only [durable_doB]) hh

@[simp] theorem durable_doJal (c : Nat) (w : Word) (s : State) :
    durable (doJal c w s) = durable s := by
  simp only [doJal, durable_coreFault, durable_illegal, durable_modCore, apply_ite durable, ite_self]

theorem durable_execJal {c : Nat} {s : State} {t' : State}
    (hh : execJal c s = .next t') : durable t' = durable s := 
  durable_runCore (fun _ _ => by simp only [durable_doJal]) hh

@[simp] theorem durable_timerCheck (c : Nat) (s : State) :
    durable (timerCheck c s) = durable s := by
  simp only [timerCheck, durable_modCore, apply_ite durable, ite_self]

@[simp] theorem durable_signal (v : Word) (s : State) :
    durable (signal v s) = durable s := by
  unfold signal
  repeat' split
  all_goals simp

@[simp] theorem durable_lcrWrite (c n : Nat) (v : Word) (s : State) :
    durable (lcrWrite c n v s) = durable s := by
  unfold lcrWrite; split <;> first | rfl | simp only [durable_modCore, durable_signal, durable_timerCheck]

@[simp] theorem durable_doLcr (c : Nat) (w : Word) (s : State) :
    durable (doLcr c w s) = durable s := by
  unfold doLcr
  dsimp only
  repeat' split
  all_goals simp

theorem durable_execLcr {c : Nat} {s : State} {t' : State}
    (hh : execLcr c s = .next t') : durable t' = durable s := 
  durable_runCore (fun _ _ => by simp only [durable_doLcr]) hh

theorem durable_execTimer {c : Nat} {s : State} {t' : State}
    (hh : execTimer c s = .next t') : durable t' = durable s := by
  unfold execTimer at hh; split at hh <;> cases hh <;> first | rfl | simp only [durable_timerCheck]

@[simp] theorem durable_wakeCore (c rd : Nat) (s : State) :
    durable (wakeCore c rd s) = durable s := by
  simp only [wakeCore, durable_modCore]

@[simp] theorem durable_doWfe (c : Nat) (w : Word) (s : State) :
    durable (doWfe c w s) = durable s := by
  simp only [doWfe, durable_illegal, durable_modCore, durable_wakeCore, apply_ite durable, ite_self]

theorem durable_execWfe {c : Nat} {s : State} {t' : State}
    (hh : execWfe c s = .next t') : durable t' = durable s := 
  durable_runCore (fun _ _ => by simp only [durable_doWfe]) hh

theorem durable_execWfeWake {c : Nat} {s : State} {t' : State}
    (hh : execWfeWake c s = .next t') : durable t' = durable s := by
  unfold execWfeWake at hh
  repeat' split at hh
  all_goals (cases hh; first | rfl | simp only [durable_wakeCore, apply_ite durable, ite_self])

@[simp] theorem durable_mbxOp (c : Nat) (role : Nat → Requester → Bool) (f : Nat → Nat → State → State) (w : Word)
    (s : State) (hf : ∀ a0 a1 s, durable (f a0 a1 s) = durable s) :
    durable (mbxOp c role f w s) = durable s := by
  simp only [mbxOp, durable_illegal, hf, apply_ite durable, ite_self]

@[simp] theorem durable_setZ (c : Nat) (z : Bool) (s : State) :
    durable (setZ c z s) = durable s := by
  simp only [setZ, durable_retireCore]

@[simp] theorem durable_mbxSend (c m r : Nat) (s : State) :
    durable (mbxSend c m r s) = durable s := by
  simp only [mbxSend, durable_mbxPost, durable_modMbx, durable_setZ, apply_ite durable, ite_self]

@[simp] theorem durable_mbxTake (c m r : Nat) (s : State) :
    durable (mbxTake c m r s) = durable s := by
  simp only [mbxTake, durable_modCore, durable_setZ, apply_ite durable, ite_self]

@[simp] theorem durable_mbxAns (c m r : Nat) (s : State) :
    durable (mbxAns c m r s) = durable s := by
  simp only [mbxAns, durable_answerMbx, durable_modMbx, durable_setZ, apply_ite durable, ite_self]

@[simp] theorem durable_mbxCollect (c m r : Nat) (s : State) :
    durable (mbxCollect c m r s) = durable s := by
  simp only [mbxCollect, durable_modCore, durable_modMbx, durable_setZ, apply_ite durable, ite_self]

theorem durable_execMbxSend {c : Nat} {s : State} {t' : State}
    (hh : execMbxSend c s = .next t') : durable t' = durable s := by
  unfold execMbxSend at hh
  refine durable_runCore ?_ hh <;> intros <;> (try dsimp only) <;> (repeat' split) <;> first | rfl | simp only [durable_mbxOp, durable_mbxSend, apply_ite durable, ite_self, eq_self, durable_fold, durable_mk, implies_true, apply_ite Gates.active, apply_ite Ctl.ready, apply_ite PowerFail.warn, apply_ite PowerFail.cut]

theorem durable_execMbxTake {c : Nat} {s : State} {t' : State}
    (hh : execMbxTake c s = .next t') : durable t' = durable s := by
  unfold execMbxTake at hh
  refine durable_runCore ?_ hh <;> intros <;> (try dsimp only) <;> (repeat' split) <;> first | rfl | simp only [durable_mbxOp, durable_mbxTake, apply_ite durable, ite_self, eq_self, durable_fold, durable_mk, implies_true, apply_ite Gates.active, apply_ite Ctl.ready, apply_ite PowerFail.warn, apply_ite PowerFail.cut]

theorem durable_execMbxAnswer {c : Nat} {s : State} {t' : State}
    (hh : execMbxAnswer c s = .next t') : durable t' = durable s := by
  unfold execMbxAnswer at hh
  refine durable_runCore ?_ hh <;> intros <;> (try dsimp only) <;> (repeat' split) <;> first | rfl | simp only [durable_mbxAns, durable_mbxOp, apply_ite durable, ite_self, eq_self, durable_fold, durable_mk, implies_true, apply_ite Gates.active, apply_ite Ctl.ready, apply_ite PowerFail.warn, apply_ite PowerFail.cut]

theorem durable_execMbxCollect {c : Nat} {s : State} {t' : State}
    (hh : execMbxCollect c s = .next t') : durable t' = durable s := by
  unfold execMbxCollect at hh
  refine durable_runCore ?_ hh <;> intros <;> (try dsimp only) <;> (repeat' split) <;> first | rfl | simp only [durable_mbxCollect, durable_mbxOp, apply_ite durable, ite_self, eq_self, durable_fold, durable_mk, implies_true, apply_ite Gates.active, apply_ite Ctl.ready, apply_ite PowerFail.warn, apply_ite PowerFail.cut]

/-! ### Services -/

@[simp] theorem durable_takeBlock (c slot : Nat) (b : List Word) (s : State) :
    durable (takeBlock c slot b s) = durable s := by
  simp only [takeBlock, durable_modSlotSvc, durable_svcDone, apply_ite durable, ite_self]

@[simp] theorem durable_doSvcIssue (c : Nat) (w : Word) (s : State) :
    durable (doSvcIssue c w s) = durable s := by
  unfold doSvcIssue
  repeat' split
  all_goals first | rfl | simp only [durable_illegal, durable_retireCore, durable_setZ, durable_takeBlock,
      apply_ite durable, ite_self]

theorem durable_execSvcIssue {c : Nat} {s : State} {t' : State}
    (hh : execSvcIssue c s = .next t') : durable t' = durable s := 
  durable_runCore (fun _ _ => by simp only [durable_doSvcIssue]) hh

@[simp] theorem durable_doSvcResult (c : Nat) (w : Word) (s : State) :
    durable (doSvcResult c w s) = durable s := by
  simp only [doSvcResult, durable_illegal, durable_retireCore, apply_ite durable, ite_self]

theorem durable_execSvcResult {c : Nat} {s : State} {t' : State}
    (hh : execSvcResult c s = .next t') : durable t' = durable s := 
  durable_runCore (fun _ _ => by simp only [durable_doSvcResult]) hh

@[simp] theorem durable_doSvcRelease (c : Nat) (w : Word) (s : State) :
    durable (doSvcRelease c w s) = durable s := by
  simp only [doSvcRelease, durable_illegal, durable_modSlotSvc, durable_setZ, apply_ite durable, ite_self]

theorem durable_execSvcRelease {c : Nat} {s : State} {t' : State}
    (hh : execSvcRelease c s = .next t') : durable t' = durable s := 
  durable_runCore (fun _ _ => by simp only [durable_doSvcRelease]) hh

@[simp] theorem durable_cancelWork (c slot : Nat) (s : State) :
    durable (cancelWork c slot s) = durable s := by
  unfold cancelWork; split <;> first | rfl | simp only [durable_modDsp, durable_modEng, durable_svcDone]

@[simp] theorem durable_doSvcCancel (c : Nat) (w : Word) (s : State) :
    durable (doSvcCancel c w s) = durable s := by
  simp only [doSvcCancel, durable_cancelWork, durable_illegal, durable_setZ, apply_ite durable, ite_self]

theorem durable_execSvcCancel {c : Nat} {s : State} {t' : State}
    (hh : execSvcCancel c s = .next t') : durable t' = durable s := 
  durable_runCore (fun _ _ => by simp only [durable_doSvcCancel]) hh

@[simp] theorem durable_queueWork (c slot : Nat) (s : State) :
    durable (queueWork c slot s) = durable s := by
  simp only [queueWork, durable_modDsp, durable_modSlotSvc]

theorem durable_execMovework {c slot : Nat} {s : State} {t' : State}
    (hh : execMovework c slot s = .next t') : durable t' = durable s := by
  unfold execMovework at hh; split at hh <;> cases hh <;> first | rfl | simp only [durable_queueWork]

@[simp] theorem durable_ctxRead (c slot : Nat) (s : State) :
    durable (ctxRead c slot s) = durable s := by
  simp only [ctxRead, durable_cacheUse, durable_modSlotSvc, durable_svcDone, apply_ite durable, ite_self]

theorem durable_execCtxread {c slot : Nat} {s : State} {t' : State}
    (hh : execCtxread c slot s = .next t') : durable t' = durable s := by
  unfold execCtxread at hh; split at hh <;> cases hh <;> first | rfl | simp only [durable_ctxRead]

@[simp] theorem durable_ctxApply (c slot ch i : Nat) (value mask : Word) (s : State) :
    durable (ctxApply c slot ch i value mask s) = durable s := by
  simp only [ctxApply, durable_cacheUse, durable_modCtx, durable_svcDone]

@[simp] theorem durable_ctxWrite (c slot : Nat) (s : State) :
    durable (ctxWrite c slot s) = durable s := by
  simp only [ctxWrite, durable_ctxApply, durable_dspUpd8, durable_modDsp, durable_modSlotSvc, durable_svcDone,
      apply_ite durable, ite_self]

theorem durable_execCtxwrite {c slot : Nat} {s : State} {t' : State}
    (hh : execCtxwrite c slot s = .next t') : durable t' = durable s := by
  unfold execCtxwrite at hh; split at hh <;> cases hh <;> first | rfl | simp only [durable_ctxWrite]

@[simp] theorem durable_takeBehind (c : Nat) (s : State) :
    durable (takeBehind c s) = durable s := by
  unfold takeBehind
  repeat' split
  all_goals first | with_reducible rfl | (simp only [durable_applyDoorbell, durable_forAll, durable_goWith, durable_modDsp, apply_ite durable, ite_self, eq_self, durable_fold, durable_mk, implies_true, apply_ite Gates.active, apply_ite Ctl.ready, apply_ite PowerFail.warn, apply_ite PowerFail.cut]; done) | (((first | apply durable_forAll | apply durable_foldl); intros; (try dsimp only); repeat' split) <;> first | with_reducible rfl | (simp only [durable_applyDoorbell, durable_forAll, durable_goWith, durable_modDsp, apply_ite durable, ite_self, eq_self, durable_fold, durable_mk, implies_true, apply_ite Gates.active, apply_ite Ctl.ready, apply_ite PowerFail.warn, apply_ite PowerFail.cut]; done)) | ((refine (durable_forAll _ _ ?_ _).trans ?_ <;> intros <;> (try dsimp only) <;> repeat' split) <;> first | with_reducible rfl | (simp only [durable_applyDoorbell, durable_forAll, durable_goWith, durable_modDsp, apply_ite durable, ite_self, eq_self, durable_fold, durable_mk, implies_true, apply_ite Gates.active, apply_ite Ctl.ready, apply_ite PowerFail.warn, apply_ite PowerFail.cut]; done))

@[simp] theorem durable_owncopyEnds (resp : MResp) (old : Word) (r : LmReq) (w : CtxWrite) (s : State) :
    durable (owncopyEnds resp old r w s) = durable s := by
  simp only [owncopyEnds, durable_ctxApply, durable_lmRetire, durable_modCtx, durable_modDsp, durable_svcDone,
      durable_takeBehind, apply_ite durable, ite_self]

theorem durable_execOwncopyWriteDone {resp : MResp} {old : Word} {s : State} {t' : State}
    (hh : execOwncopyWriteDone resp old s = .next t') : durable t' = durable s := by
  unfold execOwncopyWriteDone at hh
  repeat' split at hh
  all_goals (cases hh; first | rfl | simp only [durable_owncopyEnds, apply_ite durable, ite_self])

@[simp] theorem durable_evPost (c slot : Nat) (s : State) :
    durable (evPost c slot s) = durable s := by
  simp only [evPost, durable_modFn, durable_modSlotSvc, durable_svcDone, apply_ite durable, ite_self]

theorem durable_execEvpost {c slot : Nat} {s : State} {t' : State}
    (hh : execEvpost c slot s = .next t') : durable t' = durable s := by
  unfold execEvpost at hh; split at hh <;> cases hh <;> first | rfl | simp only [durable_evPost]

/-! ### RegWrite -/

@[simp] theorem durable_whenLive (s : State) (f : State → State) (hf : ∀  s, durable (f  s) = durable s) :
    durable (whenLive s f) = durable s := by
  simp only [whenLive, hf, apply_ite durable, ite_self]

@[simp] theorem durable_modShadow (f : Shale → Shale) (s : State) :
    durable (modShadow f s) = durable s := (rfl)

@[simp] theorem durable_modSt (f : SelfTest → SelfTest) (s : State) :
    durable (modSt f s) = durable s := (rfl)

@[simp] theorem durable_writeArb (a : Nat) (v : Half) (s : State) :
    durable (writeArb a v s) = durable s := by
  unfold writeArb
  repeat' split
  all_goals simp

@[simp] theorem durable_writeGate (a : Nat) (v : Half) (s : State) :
    durable (writeGate a v s) = durable s := by
  unfold writeGate
  repeat' split
  all_goals simp

@[simp] theorem durable_writeHost (a : Nat) (v : Half) (s : State) :
    durable (writeHost a v s) = durable s := by
  unfold writeHost
  repeat' split
  all_goals simp

@[simp] theorem durable_writeLctl (p : Nat) (v : Half) (s : State) :
    durable (writeLctl p v s) = durable s := by
  unfold writeLctl
  repeat' split
  all_goals simp

@[simp] theorem durable_writeLink (a : Nat) (v : Half) (s : State) :
    durable (writeLink a v s) = durable s := by
  unfold writeLink
  dsimp only
  repeat' split
  all_goals simp

@[simp] theorem durable_writeTictl (i : Nat) (v : Half) (s : State) :
    durable (writeTictl i v s) = durable s := by
  unfold writeTictl
  repeat' split
  all_goals simp

@[simp] theorem durable_writeTsv (a : Nat) (v : Half) (s : State) :
    durable (writeTsv a v s) = durable s := by
  unfold writeTsv
  repeat' split
  all_goals first | rfl | simp only [durable_modInst, durable_modPort, durable_modShadow, durable_modTsv,
      durable_writeTevrd, durable_writeTictl, apply_ite durable, ite_self]

@[simp] theorem durable_writeTsvWide (a : Nat) (v : Word) (s : State) :
    durable (writeTsvWide a v s) = durable s := by
  unfold writeTsvWide
  repeat' split
  all_goals first | rfl | simp only [durable_modInst, durable_modTsv, apply_ite durable, ite_self]

@[simp] theorem durable_writePolicy (i : Nat) (v : Half) (s : State) :
    durable (writePolicy i v s) = durable s := by
  simp only [writePolicy, durable_modShadow]

@[simp] theorem durable_writeTime (r : Requester) (a : Nat) (v : Half) (s : State) :
    durable (writeTime r a v s) = durable s := by
  unfold writeTime
  repeat' split
  all_goals simp

@[simp] theorem durable_writeTest (a : Nat) (v : Half) (s : State) :
    durable (writeTest a v s) = durable s := by
  unfold writeTest
  repeat' split
  all_goals simp

@[simp] theorem durable_writeBootctl (v : Half) (s : State) :
    durable (writeBootctl v s) = durable s := by
  unfold writeBootctl
  repeat' split
  all_goals simp

@[simp] theorem durable_writeCtl (r : Requester) (a : Nat) (v : Half) (s : State) :
    durable (writeCtl r a v s) = durable s := by
  unfold writeCtl
  repeat' split
  all_goals simp

@[simp] theorem durable_writeDsp (r : Requester) (a : Nat) (v : Half) (s : State) :
    durable (writeDsp r a v s) = durable s := by
  unfold writeDsp
  repeat' split
  all_goals simp

@[simp] theorem durable_writeLvl (a : Nat) (v : Half) (s : State) :
    durable (writeLvl a v s) = durable s := by
  unfold writeLvl
  repeat' split
  all_goals simp

@[simp] theorem durable_writeCtlWide (r : Requester) (a : Nat) (v : Word) (s : State) :
    durable (writeCtlWide r a v s) = durable s := by
  unfold writeCtlWide
  repeat' split
  all_goals first | rfl | simp only [durable_modCtl, durable_modDsp, durable_modLock, apply_ite durable, ite_self]

@[simp] theorem durable_writeMbctl (r : Requester) (m : Nat) (v : Half) (s : State) :
    durable (writeMbctl r m v s) = durable s := by
  simp only [writeMbctl, durable_answerMbx, durable_mbxPost, durable_modMbx, apply_ite durable, ite_self]

@[simp] theorem durable_writeMbx (r : Requester) (a : Nat) (v : Half) (s : State) :
    durable (writeMbx r a v s) = durable s := by
  simp only [writeMbx, durable_writeMbctl, apply_ite durable, ite_self]

@[simp] theorem durable_writeMbxWide (r : Requester) (a : Nat) (v : Word) (s : State) :
    durable (writeMbxWide r a v s) = durable s := by
  simp only [writeMbxWide, durable_modMbx, apply_ite durable, ite_self]

@[simp] theorem durable_writeChCtl (fn : Nat) (v : Half) (s : State) :
    durable (writeChCtl fn v s) = durable s := by
  unfold writeChCtl
  repeat' split
  all_goals simp

@[simp] theorem durable_writePage (a : Nat) (v : Half) (s : State) :
    durable (writePage a v s) = durable s := by
  unfold writePage
  repeat' split
  all_goals simp

@[simp] theorem durable_writePageWide (a : Nat) (v : Word) (s : State) :
    durable (writePageWide a v s) = durable s := by
  unfold writePageWide; split <;> first | rfl | simp only [durable_modFn]

@[simp] theorem durable_wideWrite (r : Requester) (a : Nat) (v : Word) (s : State) :
    durable (wideWrite r a v s) = durable s := by
  simp only [wideWrite, durable_writeCtlWide, durable_writeMbxWide, durable_writePageWide, durable_writeRule,
      durable_writeTsvWide, apply_ite durable, ite_self]

@[simp] theorem durable_narrowWrite (r : Requester) (a : Nat) (v : Half) (s : State) :
    durable (narrowWrite r a v s) = durable s := by
  simp only [narrowWrite, durable_writeArb, durable_writeCtl, durable_writeDsp, durable_writeGate,
      durable_writeHost, durable_writeLink, durable_writeLvl, durable_writeMbx, durable_writePage,
      durable_writeTest, durable_writeTime, durable_writeTsv, apply_ite durable, ite_self]

/-! ### Registers -/

@[simp] theorem durable_regRead (r : Requester) (a : Nat) (s : State) :
    durable (regRead r a s).2 = durable s := by
  unfold regRead
  repeat' split
  all_goals first | rfl | simp only [durable_dropLatch, durable_setLatch, apply_ite durable, ite_self]
theorem durable_regRead_pair {r : Requester} {a : Nat} {s : State} {b' : Half} {t' : State}
    (hh : regRead r a s = (b', t')) : durable t' = durable s :=
  (congrArg (fun p => durable p.2) hh).symm.trans (durable_regRead r a s )

@[simp] theorem durable_regWrite (r : Requester) (a : Nat) (v : Half) (s : State) :
    durable (regWrite r a v s) = durable s := by
  unfold regWrite
  repeat' split
  all_goals first | rfl | simp only [durable_dropLatch, durable_narrowWrite, durable_setLatch, durable_wideWrite,
      durable_writeDoorbell, apply_ite durable, ite_self]

@[simp] theorem durable_regRead64 (r : Requester) (a : Nat) (s : State) :
    durable (regRead64 r a s).2 = durable s := by
  simp only [regRead64, durable_dropLatch, durable_regRead]
theorem durable_regRead64_pair {r : Requester} {a : Nat} {s : State} {b' : Word} {t' : State}
    (hh : regRead64 r a s = (b', t')) : durable t' = durable s :=
  (congrArg (fun p => durable p.2) hh).symm.trans (durable_regRead64 r a s )

@[simp] theorem durable_regWrite64 (r : Requester) (a : Nat) (v : Word) (s : State) :
    durable (regWrite64 r a v s) = durable s := by
  simp only [regWrite64, durable_dropLatch, durable_regWrite, durable_writeDoorbell, apply_ite durable, ite_self]

@[simp] theorem durable_answerRead (r : Requester) (v : Word) (s : State) :
    durable (answerRead r v s) = durable s := by
  unfold answerRead; split <;> first | rfl | simp only [durable_modOut]

theorem durable_execRegisterWrite {r : Requester} {addr : Nat} {data : Half} {s : State} {t' : State}
    (hh : execRegisterWrite r addr data s = .next t') : durable t' = durable s := by
  unfold execRegisterWrite at hh; split at hh <;> cases hh <;> first | rfl | simp only [durable_regWrite]

@[simp] theorem durable_doLowerRead (r : Requester) (addr : Nat) (s : State) :
    durable (doLowerRead r addr s) = durable s := by
  simp only [doLowerRead, durable_answerRead, durable_regRead]

theorem durable_execLowerHalfRead {r : Requester} {addr : Nat} {s : State} {t' : State}
    (hh : execLowerHalfRead r addr s = .next t') : durable t' = durable s := by
  unfold execLowerHalfRead at hh; split at hh <;> cases hh <;> first | rfl | simp only [durable_doLowerRead]

theorem durable_execLowerHalfWrite {r : Requester} {addr : Nat} {data : Half} {s : State} {t' : State}
    (hh : execLowerHalfWrite r addr data s = .next t') : durable t' = durable s := by
  unfold execLowerHalfWrite at hh; split at hh <;> cases hh <;> first | rfl | simp only [durable_regWrite]

theorem durable_execBtimeloRead {r : Requester} {s : State} {t' : State}
    (hh : execBtimeloRead r s = .next t') : durable t' = durable s := by
  unfold execBtimeloRead at hh; split at hh <;> cases hh <;> first | rfl | simp only [durable_doLowerRead]

@[simp] theorem durable_hostAccess (h : Nat) (a : HostAccess) (s : State) :
    durable (hostAccess h a s) = durable s := by
  simp only [hostAccess, durable_answerRead, durable_doLowerRead, durable_dropLatch, durable_regRead64,
      durable_regWrite, durable_regWrite64, apply_ite durable, ite_self]

theorem durable_execHostTargetAccess {h : Nat} {a : HostAccess} {s : State} {t' : State}
    (hh : execHostTargetAccess h a s = .next t') : durable t' = durable s := by
  unfold execHostTargetAccess at hh; split at hh <;> cases hh <;> first | rfl | simp only [durable_hostAccess]

theorem durable_crFault {c : Nat} {w : Word} {s : State} {t' : State}
    (hh : crFault c w s = .some t') : durable t' = durable s := by
  unfold crFault at hh
  try dsimp only at hh
  repeat' split at hh
  all_goals first
    | (injection hh with hh; subst hh; first | with_reducible rfl | (simp only [durable_coreFault, durable_illegal, apply_ite durable, ite_self, eq_self, durable_fold, durable_mk, implies_true, apply_ite Gates.active, apply_ite Ctl.ready, apply_ite PowerFail.warn, apply_ite PowerFail.cut]; done) | ((simp only [durable_coreFault, durable_illegal, apply_ite durable, ite_self, eq_self, durable_fold, durable_mk, implies_true, apply_ite Gates.active, apply_ite Ctl.ready, apply_ite PowerFail.warn, apply_ite PowerFail.cut]; repeat' split) <;> first | with_reducible rfl | (simp only [durable_coreFault, durable_illegal, apply_ite durable, ite_self, eq_self, durable_fold, durable_mk, implies_true, apply_ite Gates.active, apply_ite Ctl.ready, apply_ite PowerFail.warn, apply_ite PowerFail.cut]; done)))
    | exact absurd hh (by simp)

@[simp] theorem durable_doCrr (c : Nat) (w : Word) (s : State) :
    durable (doCrr c w s) = durable s := by
  unfold doCrr
  dsimp only
  repeat' split
  all_goals first
    | (simp; done)
    | (have h := durable_crFault (by assumption); simp [h]; done)
    | (have h := durable_regRead_pair (by assumption); simp [h]; done)
    | (have h := durable_regRead64_pair (by assumption); simp [h]; done)

theorem durable_execCrr {c : Nat} {s : State} {t' : State}
    (hh : execCrr c s = .next t') : durable t' = durable s := 
  durable_runCore (fun _ _ => by simp only [durable_doCrr]) hh

@[simp] theorem durable_doCrw (c : Nat) (w : Word) (s : State) :
    durable (doCrw c w s) = durable s := by
  unfold doCrw
  dsimp only
  repeat' split
  all_goals first
    | (simp; done)
    | (have h := durable_crFault (by assumption); simp [h]; done)

theorem durable_execCrw {c : Nat} {s : State} {t' : State}
    (hh : execCrw c s = .next t') : durable t' = durable s := 
  durable_runCore (fun _ _ => by simp only [durable_doCrw]) hh

end Sys2Proof.Machine
end

