-- ==== Sys2Proof/Laws/Cores.lean ====
section
/-! SUPPORT. The control cores (15): how a fetched word reaches its meaning, and what writing registers, RAM and service slots
leaves. -/

namespace Sys2Proof.Machine

/-- A core that fetches a word of an opcode carries out its meaning. -/
theorem run_fetched {s u : State} {c : Nat} {w : Word} (h : fetches s c w u = true) {o : Nat} (ho : opc w = o) (hm : o ∈ coreOpcodes)
    (f : Word → State → State) : runCore c o none f s = .next (f w u) := by
  simp only [fetches, Bool.and_eq_true] at h
  obtain ⟨h1, h2⟩ := h
  unfold runCore
  simp only [h1, Bool.not_true, Bool.false_eq_true, if_false]
  revert h2
  cases hr : coreFetch c (getCore s c).pc s with
  | fault k v => simp
  | bytes d v =>
    intro h2
    simp only [Bool.and_eq_true, beq_iff_eq] at h2
    obtain ⟨h3, h4⟩ := h2
    subst h4
    simp only [h3, ho, hm, not_true_eq_false, if_false, names, beq_self_eq_true, Bool.and_self, if_true]

/-- The same for an opcode whose MOD names the command. -/
theorem run_fetchedSub {s u : State} {c : Nat} {w : Word} (h : fetches s c w u = true) {o k : Nat} (ho : opc w = o) (hk : fMOD w % 4 = k)
    (hm : o ∈ coreOpcodes)
    (f : Word → State → State) : runCore c o (some k) f s = .next (f w u) := by
  simp only [fetches, Bool.and_eq_true] at h
  obtain ⟨h1, h2⟩ := h
  unfold runCore
  simp only [h1, Bool.not_true, Bool.false_eq_true, if_false]
  revert h2
  cases hr : coreFetch c (getCore s c).pc s with
  | fault k v => simp
  | bytes d v =>
    intro h2
    simp only [Bool.and_eq_true, beq_iff_eq] at h2
    obtain ⟨h3, h4⟩ := h2
    subst h4
    simp only [h3, ho, hk, hm, not_true_eq_false, if_false, names, beq_self_eq_true, Bool.and_self, if_true]

/-- Two updates that agree on a core leave the same state. -/
theorem modCore_congr {c : Nat} {f g : Core → Core} {u : State} (h : f (getCore u c) = g (getCore u c)) : modCore c f u = modCore c g u := by
  simp only [modCore, tmod]; unfold getCore at h; rw [h]

/-- The core that was changed. -/
theorem getCore_modCore_self (c : Nat) (f : Core → Core) (s : State) : getCore (modCore c f s) c = f (getCore s c) := by
  simp [getCore, modCore, tmod, tget_tset]

/-- A register after a write; G0 reads 0. -/
theorem getG_setG (r : Nat) (v : Word) (k : Core) (j : Nat) : getG (setG r v k) j = if j = 0 then 0 else if j = r then v else getG k j := by
  unfold getG setG
  by_cases hj : j = 0
  · simp [hj]
  · by_cases hr : r = 0
    · subst hr; simp [hj]
    · simp [hj, hr, tget_tset]

/-- What a write of consecutive registers leaves. -/
theorem setGroup_spec (vs : List Word) (r : Nat) (hr : 1 ≤ r) (k : Core) :
    (∀ j, getG (setGroup r vs k) j = if r ≤ j ∧ j < r + vs.length then vs.getD (j - r) 0 else getG k j) ∧
    (setGroup r vs k).pc = k.pc := by
  induction vs generalizing r k with
  | nil => simp [setGroup]
  | cons v vs ih =>
    obtain ⟨h1, h2⟩ := ih (r + 1) (by omega) (setG r v k)
    refine ⟨fun j => ?_, ?_⟩
    · simp only [setGroup, h1, List.length_cons, getG_setG]
      rcases Nat.lt_trichotomy j r with h | h | h
      · rw [if_neg (by omega), if_neg (by omega : ¬ (r ≤ j ∧ _))]
        by_cases h0 : j = 0
        · simp [h0, getG]
        · rw [if_neg h0, if_neg (by omega)]
      · subst h; rw [if_neg (by omega), if_neg (by omega), if_pos rfl, if_pos (by omega)]; simp
      · obtain ⟨i, rfl⟩ : ∃ i, j = r + 1 + i := ⟨j - (r + 1), by omega⟩
        by_cases hk : r + 1 + i < r + (vs.length + 1)
        · rw [if_pos (by omega), if_pos (by omega), show r + 1 + i - (r + 1) = i by omega, show r + 1 + i - r = i + 1 by omega,
            List.getD_cons_succ]
        · rw [if_neg (by omega), if_neg (by omega), if_neg (by omega), if_neg (by omega)]
    · simp only [setGroup, h2]; simp only [setG]; split <;> rfl

/-- A group of eight registers holds them in order. -/
theorem group8 (k : Core) (r i : Nat) (h : i < 8) : (group k r).getD i 0 = getG k (r + i) := by
  simp [group, h]

/-- A read of n bytes gives n bytes. -/
theorem length_memRead (m : List Host.Cell) (a n : Nat) : (memRead m a n).length = n := by rw [memRead_eq]; simp

/-- A store into a byte store, addressed from a base. -/
theorem store_at (m : List Host.Cell) (A n B : Nat) (d : List Byte) (hA : B ≤ A) (hd : d.length = n) (j : Nat) :
    memByte (memWrite m (A - B) d) j = if A ≤ j + B ∧ j + B < A + n then d.getD (j + B - A) 0 else memByte m j := by
  rw [memByte_memWrite, hd]
  by_cases hj : A ≤ j + B ∧ j + B < A + n
  · rw [if_pos (by omega), if_pos hj]; congr 1; omega
  · rw [if_neg (by omega), if_neg hj]

/-- The sign bit of a word. -/
theorem bit63 (a : Word) : bit a 63 = decide (2 ^ 63 ≤ a.toNat) := by
  simp only [bit, BitVec.getLsbD, Nat.testBit_eq_decide_div_mod_eq]
  have := a.isLt
  congr 1; rw [eq_iff_iff]; omega

/-- The signed value of a word. -/
theorem toInt64 (a : Word) : a.toInt = if a.toNat < 2 ^ 63 then (a.toNat : Int) else a.toNat - 2 ^ 64 := by
  rw [BitVec.toInt_eq_toNat_cond]; have := a.isLt; split <;> split <;> omega

/-- V of an addition: the signed sum does not fit. -/
theorem addOver_eq (a b : Word) : addOver a b = decide ((a + b).toInt ≠ a.toInt + b.toInt) := by
  rw [Bool.eq_iff_iff]
  simp only [addOver, bit63, toInt64, BitVec.toNat_add]
  simp only [Bool.and_eq_true, beq_iff_eq, bne_iff_ne, ne_eq, decide_eq_true_eq, decide_eq_decide]
  have := a.isLt; have := b.isLt
  split <;> split <;> split <;> omega

/-- V of a subtraction. -/
theorem subOver_eq (a b : Word) : subOver a b = decide ((a - b).toInt ≠ a.toInt - b.toInt) := by
  rw [Bool.eq_iff_iff]
  simp only [subOver, bit63, toInt64, BitVec.toNat_sub]
  simp only [Bool.and_eq_true, beq_iff_eq, bne_iff_ne, ne_eq, decide_eq_true_eq, decide_eq_decide]
  have := a.isLt; have := b.isLt
  split <;> split <;> split <;> omega

/-- S: the word is negative. -/
theorem neg_eq (a : Word) : bit a 63 = decide (a.toInt < 0) := by
  rw [bit63, toInt64]; congr 1; rw [eq_iff_iff]; have := a.isLt; split <;> omega

/-- A service slot after a change of one. -/
theorem getSvc_modSlotSvc (c i : Nat) (f : Svc → Svc) (s : State) (d j : Nat) :
    getSvc (modSlotSvc c i f s) d j = if d = c ∧ j % 4 = i % 4 then f (getSvc s c i) else getSvc s d j := by
  have hi : i % 4 < 4 := Nat.mod_lt _ (by decide)
  have hj : j % 4 < 4 := Nat.mod_lt _ (by decide)
  unfold getSvc modSlotSvc
  simp only [getCore_modCore]
  generalize i % 4 = a at *
  generalize j % 4 = b at *
  by_cases hd : d = c
  · subst hd
    simp only [if_true, true_and]
    have ha : a = 0 ∨ a = 1 ∨ a = 2 ∨ a = 3 := by omega
    have hb : b = 0 ∨ b = 1 ∨ b = 2 ∨ b = 3 := by omega
    rcases ha with e | e | e | e <;> rcases hb with g | g | g | g <;> subst e <;> subst g <;> simp
  · simp [hd]

/-- A change of a service slot leaves the other cores. -/
theorem getCore_modSlotSvc_ne (c i : Nat) (f : Svc → Svc) (s : State) (j : Nat) (h : j ≠ c) : getCore (modSlotSvc c i f s) j = getCore s j := by
  simp [modSlotSvc, h]

/-- It leaves the registers. -/
theorem getG_svc (c i : Nat) (f : Svc → Svc) (s : State) (j : Nat) :
    getG (getCore (modSlotSvc c i f s) c) j = getG (getCore s c) j := by
  simp only [modSlotSvc, getCore_modCore, if_true]; split <;> rfl

/-- It leaves the events, the flags and PC. -/
theorem part_svc (c i : Nat) (f : Svc → Svc) (s : State) : (getCore (modSlotSvc c i f s) c).lev = (getCore s c).lev ∧
    (getCore (modSlotSvc c i f s) c).z = (getCore s c).z ∧ (getCore (modSlotSvc c i f s) c).pc = (getCore s c).pc := by
  simp only [modSlotSvc, getCore_modCore, if_true]; split <;> exact ⟨rfl, rfl, rfl⟩

/-- A change of a core that leaves its service slots. -/
theorem getSvc_modCore (c : Nat) (f : Core → Core) (s : State) (d j : Nat)
    (h : ∀ x, (f x).svc0 = x.svc0 ∧ (f x).svc1 = x.svc1 ∧ (f x).svc2 = x.svc2 ∧ (f x).svc3 = x.svc3) :
    getSvc (modCore c f s) d j = getSvc s d j := by
  obtain ⟨h0, h1, h2, h3⟩ := h (getCore s c)
  simp only [getSvc, getCore_modCore]
  by_cases hd : d = c
  · subst hd; simp only [if_true, h0, h1, h2, h3]
  · simp only [hd, if_false]

/-- What a finished service leaves. -/
theorem svcDone_spec (c i : Nat) (res : List Word) (s : State) :
    let t := svcDone c i res s
    (∀ d j, getSvc t d j = if d = c ∧ j % 4 = i % 4 then { getSvc s c i with st := .done, result := res } else getSvc s d j) ∧
    (getCore t c).lev = (getCore s c).lev ||| 1 ∧ (getCore t c).z = (getCore s c).z ∧ (getCore t c).pc = (getCore s c).pc ∧
    (∀ j, getG (getCore t c) j = getG (getCore s c) j) ∧
    (∀ j, j ≠ c → getCore t j = getCore s j) ∧ t.dsp = s.dsp ∧ t.eng = s.eng ∧ t.lm = s.lm ∧ t.fn = s.fn ∧ durable t = durable s := by
  intro t
  have hp := part_svc c i (fun v => { v with st := .done, result := res }) s
  refine ⟨fun d j => ?_, ?_, ?_, ?_, fun j => ?_, fun j hj => ?_, rfl, rfl, rfl, rfl, ?_⟩
  · simp only [t, svcDone]
    rw [getSvc_modCore c (fun c => { c with lev := c.lev ||| 1 }) _ _ _ (fun x => ⟨rfl, rfl, rfl, rfl⟩), getSvc_modSlotSvc]
  · simp only [t, svcDone, getCore_modCore, if_true, hp.1]
  · simp only [t, svcDone, getCore_modCore, if_true]; exact hp.2.1
  · simp only [t, svcDone, getCore_modCore, if_true]; exact hp.2.2
  · simp only [t, svcDone, getCore_modCore, if_true]
    exact getG_svc c i (fun v => { v with st := .done, result := res }) s j
  · simp only [t, svcDone, getCore_modCore, hj, if_false]; exact getCore_modSlotSvc_ne _ _ _ _ _ hj
  · simp [t]

end Sys2Proof.Machine
end

