-- ==== Sys2Proof/Laws/Parts.lean ====
section
/-! SUPPORT. Operations that leave one part of a state alone, part by part: one lemma per operation. -/

namespace Sys2Proof.Machine

/-! ### chans -/

/-- The part `s.dsp.ctx` of a state, for lemmas that say an operation leaves it. -/
def chans (s : State) : Tbl Ctx := s.dsp.ctx

theorem chans_eq (s : State) : chans s = s.dsp.ctx := rfl

theorem chans_foldl {α : Type} (l : List α) (f : State → α → State) (h : ∀ s x, chans (f s x) = chans s)
    (s : State) : chans (l.foldl f s) = chans s := by
  induction l generalizing s with
  | nil => rfl
  | cons x t ih => simp only [List.foldl_cons, ih, h]

@[simp] theorem chans_ite (c : Prop) [Decidable c] (a b : State) :
    chans (if c then a else b) = if c then chans a else chans b := apply_ite _ _ _ _

@[simp] theorem chans_modFn (fn : Nat) (f : Func → Func) (s : State) :
    chans (modFn fn f s) = chans s := (rfl)

@[simp] theorem chans_modEng (e : Nat) (f : Engine → Engine) (s : State) :
    chans (modEng e f s) = chans s := (rfl)

@[simp] theorem chans_modPort (p : Nat) (f : Port → Port) (s : State) :
    chans (modPort p f s) = chans s := (rfl)

@[simp] theorem chans_modHp (h : Nat) (f : HostPort → HostPort) (s : State) :
    chans (modHp h f s) = chans s := (rfl)

@[simp] theorem chans_modCore (c : Nat) (f : Core → Core) (s : State) :
    chans (modCore c f s) = chans s := (rfl)

@[simp] theorem chans_modMbx (m : Nat) (f : Mailbox → Mailbox) (s : State) :
    chans (modMbx m f s) = chans s := (rfl)

@[simp] theorem chans_modIsl (i : Nat) (f : Island → Island) (s : State) :
    chans (modIsl i f s) = chans s := (rfl)

@[simp] theorem chans_modCtl (f : Ctl → Ctl) (s : State) :
    chans (modCtl f s) = chans s := (rfl)

@[simp] theorem chans_modGate (f : Gates → Gates) (s : State) :
    chans (modGate f s) = chans s := (rfl)

@[simp] theorem chans_modLock (f : Locks → Locks) (s : State) :
    chans (modLock f s) = chans s := (rfl)

@[simp] theorem chans_modXbar (f : Xbar → Xbar) (s : State) :
    chans (modXbar f s) = chans s := (rfl)

@[simp] theorem chans_modOut (f : Outputs → Outputs) (s : State) :
    chans (modOut f s) = chans s := (rfl)

@[simp] theorem chans_forAll {α : Type} (l : List α) (f : α → State → State) (h : ∀ x s, chans (f x s) = chans s)
    (s : State) :
    chans (forAll l f s) = chans s := by unfold forAll; exact chans_foldl l _ (fun s x => h x s) s

@[simp] theorem chans_drawFree (s : State) :
    chans (drawFree s).2 = chans s := (rfl)
theorem chans_drawFree_pair {s : State} {b' : Word} {t' : State}
    (hh : drawFree s = (b', t')) : chans t' = chans s :=
  (congrArg (fun p => chans p.2) hh).symm.trans (chans_drawFree s )

@[simp] theorem chans_evK (i : Nat) (s : State) :
    chans (evK i s) = chans s := by
  simp only [evK, chans_modCtl]

@[simp] theorem chans_evS (i : Nat) (s : State) :
    chans (evS i s) = chans s := by
  simp only [evS, chans_modCtl]

@[simp] theorem chans_postCause (i fn : Nat) (s : State) :
    chans (postCause i fn s) = chans s := by
  simp only [postCause, chans_modFn]

@[simp] theorem chans_evDescFault (fn : Nat) (s : State) :
    chans (evDescFault fn s) = chans s := by
  simp only [evDescFault, chans_evS, chans_postCause]

@[simp] theorem chans_evLockBreak (fn : Nat) (s : State) :
    chans (evLockBreak fn s) = chans s := by
  simp only [evLockBreak, chans_evS, chans_postCause]

@[simp] theorem chans_evCtxEcc (fn : Nat) (s : State) :
    chans (evCtxEcc fn s) = chans s := by
  simp only [evCtxEcc, chans_evK, chans_evS, chans_postCause]

@[simp] theorem chans_wakeIsl (i : Nat) (s : State) :
    chans (wakeIsl i s) = chans s := by
  simp only [wakeIsl, chans_modIsl]

@[simp] theorem chans_lmIssue (r : LmReq) (s : State) :
    chans (lmIssue r s) = chans s := (rfl)

@[simp] theorem chans_lmPromote (port tag : Nat) (s : State) :
    chans (lmPromote port tag s) = chans s := by
  unfold lmPromote; split <;> rfl

@[simp] theorem chans_lmRetire (port tag : Nat) (s : State) :
    chans (lmRetire port tag s) = chans s := by
  unfold lmRetire lmPromote; split <;> rfl

@[simp] theorem chans_dspUpd8 (addr compare cmask value wmask add : Word) (pu : Purpose) (s : State) :
    chans (dspUpd8 addr compare cmask value wmask add pu s) = chans s := by
  simp only [dspUpd8, chans_lmIssue]

@[simp] theorem chans_bitmapOr (c : Nat) (pu : Purpose) (s : State) :
    chans (bitmapOr c pu s) = chans s := by
  simp only [bitmapOr, chans_dspUpd8]

@[simp] theorem chans_vlogPut (x : Rule) (s : State) :
    chans (vlogPut x s) = chans s := by
  simp only [vlogPut, chans_modGate]

@[simp] theorem chans_denyPrecise (g : Nat) (w : Who) (n : Need) (a : Word) (len : Nat) (v : Verdict) (s : State) :
    chans (denyPrecise g w n a len v s) = chans s := by
  simp only [denyPrecise, chans_modGate, chans_vlogPut]

@[simp] theorem chans_stir (p : Nat) (s : State) :
    chans (stir p s) = chans s := by
  simp only [stir, chans_modPort, chans_wakeIsl]

@[simp] theorem chans_sendLane (p : Nat) (ts : List Token) (s : State) :
    chans (sendLane p ts s) = chans s := by
  simp only [sendLane, chans_modOut, chans_modPort, chans_stir]

@[simp] theorem chans_setLane (i : Nat) (l : Lane) (s : State) :
    chans (setLane i l s) = chans s := by
  simp only [setLane, chans_modXbar]

@[simp] theorem chans_slotCountTo (now : Word) (s : State) :
    chans (slotCountTo now s) = chans s := by
  simp only [slotCountTo, chans_modXbar]

@[simp] theorem chans_slotCount (s : State) :
    chans (slotCount s) = chans s := by
  simp only [slotCount, chans_slotCountTo]

@[simp] theorem chans_modReq (p : XReq → Bool) (f : XReq → XReq) (s : State) :
    chans (modReq p f s) = chans s := by
  simp only [modReq, chans_modXbar]

@[simp] theorem chans_xask (r : XReq) (s : State) :
    chans (xask r s) = chans s := by
  simp only [xask, chans_modXbar, chans_setLane, apply_ite chans, ite_self]

@[simp] theorem chans_xpresentAll (idx ord : Nat) (dl : BitVec 20) (bs : List XBurst) (s : State) :
    chans (xpresentAll idx ord dl bs s) = chans s := by
  simp only [xpresentAll, chans_modReq, chans_slotCount, chans_wakeIsl, chans_xask, apply_ite chans, ite_self]

@[simp] theorem chans_xpresent (idx ord : Nat) (b : XBurst) (s : State) :
    chans (xpresent idx ord b s) = chans s := by
  simp only [xpresent, chans_xpresentAll]

@[simp] theorem chans_xEngRead (e : Nat) (s : State) :
    chans (xEngRead e s) = chans s := by
  simp only [xEngRead, chans_wakeIsl, chans_xpresent]

@[simp] theorem chans_xCtl (n : Nat) (s : State) :
    chans (xCtl n s) = chans s := by
  simp only [xCtl, chans_xpresent]

@[simp] theorem chans_dropLane (lane : Nat) (r : XReq) (s : State) :
    chans (dropLane lane r s) = chans s := by
  simp only [dropLane, chans_setLane]

@[simp] theorem chans_dropLanes (p : XReq → Bool) (s : State) :
    chans (dropLanes p s) = chans s := by
  unfold dropLanes
  repeat' split
  all_goals first | with_reducible rfl | (simp only [chans_dropLane, chans_forAll, apply_ite chans, ite_self, eq_self, implies_true]; done) | (((first | apply chans_forAll | apply chans_foldl); intros; (try dsimp only); repeat' split) <;> first | with_reducible rfl | (simp only [chans_dropLane, chans_forAll, apply_ite chans, ite_self, eq_self, implies_true]; done)) | ((refine (chans_forAll _ _ ?_ _).trans ?_ <;> intros <;> (try dsimp only) <;> repeat' split) <;> first | with_reducible rfl | (simp only [chans_dropLane, chans_forAll, apply_ite chans, ite_self, eq_self, implies_true]; done))

@[simp] theorem chans_xwithdrawIf (p : XReq → Bool) (s : State) :
    chans (xwithdrawIf p s) = chans s := by
  simp only [xwithdrawIf, chans_dropLanes, chans_modXbar, chans_slotCount]

@[simp] theorem chans_xwithdraw (idx ord : Nat) (s : State) :
    chans (xwithdraw idx ord s) = chans s := by
  simp only [xwithdraw, chans_xwithdrawIf]

@[simp] theorem chans_hqPut (h : Nat) (x : BitVec 128) (s : State) :
    chans (hqPut h x s) = chans s := by
  simp only [hqPut, chans_modOut]

theorem chans_sendNext {k : Nat} {s : State} {t' : State}
    (hh : sendNext k s = .some t') : chans t' = chans s := by
  unfold sendNext at hh
  try dsimp only at hh
  repeat' split at hh
  all_goals first
    | (injection hh with hh; subst hh; first | with_reducible rfl | (simp only [chans_modPort, chans_sendLane, apply_ite chans, ite_self, eq_self, implies_true]; done) | ((simp only [chans_modPort, chans_sendLane, apply_ite chans, ite_self, eq_self, implies_true]; repeat' split) <;> first | with_reducible rfl | (simp only [chans_modPort, chans_sendLane, apply_ite chans, ite_self, eq_self, implies_true]; done)))
    | exact absurd hh (by simp)

@[simp] theorem chans_portPumpN (k : Nat) (n : Nat) (s : State) :
    chans (portPumpN k n s) = chans s := by
  induction n generalizing s with
  | zero => rfl
  | succ n ih =>
    simp only [portPumpN]
    repeat' split
    all_goals first | rfl | ((try have q0 := chans_sendNext (by assumption)); simp only [ih, apply_ite chans, ite_self, eq_self, implies_true, *]; done) | simp only [ih, apply_ite chans, ite_self, eq_self, implies_true]

@[simp] theorem chans_portPump (k : Nat) (s : State) :
    chans (portPump k s) = chans s := by
  simp only [portPump, chans_portPumpN]

@[simp] theorem chans_portRead (k : Nat) (r : PortRead) (s : State) :
    chans (portRead k r s) = chans s := by
  simp only [portRead, chans_modPort, chans_portPump, chans_wakeIsl]

@[simp] theorem chans_issueReadBy (f : RdReq → Verdict → State → State) (r : RdReq) (s : State)
    (hf : ∀ a0 a1 s, chans (f a0 a1 s) = chans s) :
    chans (issueReadBy f r s).2 = chans s := by
  unfold issueReadBy
  repeat' split
  all_goals first | with_reducible rfl | (simp only [chans_denyPrecise, hf, apply_ite chans, ite_self, eq_self, implies_true]; done) | ((simp only [chans_denyPrecise, hf, apply_ite chans, ite_self, eq_self, implies_true]; repeat' split) <;> first | with_reducible rfl | (simp only [chans_denyPrecise, hf, apply_ite chans, ite_self, eq_self, implies_true]; done))
theorem chans_issueReadBy_pair {f : RdReq → Verdict → State → State} {r : RdReq} {s : State} (hf : ∀ a0 a1 s, chans
    (f a0 a1 s) = chans s) {b' : Iss} {t' : State}
    (hh : issueReadBy f r s = (b', t')) : chans t' = chans s :=
  (congrArg (fun p => chans p.2) hh).symm.trans (chans_issueReadBy f r s hf)

@[simp] theorem chans_issueUpd8 (who : Who) (addr compare cmask value wmask add : Word) (pu : Purpose) (s : State) :
    chans (issueUpd8 who addr compare cmask value wmask add pu s).2 = chans s := by
  unfold issueUpd8
  dsimp only
  repeat' split
  all_goals simp
theorem chans_issueUpd8_pair {who : Who} {addr compare cmask value wmask add : Word} {pu : Purpose} {s : State} {b' : Iss} {t' : State}
    (hh : issueUpd8 who addr compare cmask value wmask add pu s = (b', t')) : chans t' = chans s :=
  (congrArg (fun p => chans p.2) hh).symm.trans (chans_issueUpd8 who addr compare cmask value wmask add pu s )

@[simp] theorem chans_dropIf (k : Discard) (p : Purpose → Bool) (s : State) :
    chans (dropIf k p s) = chans s := (rfl)

@[simp] theorem chans_gbarArm (s : State) :
    chans (gbarArm s) = chans s := by
  unfold gbarArm
  dsimp only
  repeat' split
  all_goals simp

@[simp] theorem chans_setShadow (g i : Nat) (r : Rule) (s : State) :
    chans (setShadow g i r s) = chans s := by
  simp only [setShadow, chans_modGate]

@[simp] theorem chans_installLm (g : Nat) (s : State) :
    chans (installLm g s) = chans s := by
  simp only [installLm, chans_setShadow, apply_ite chans, ite_self]

@[simp] theorem chans_armMask (m : BitVec 71) (s : State) :
    chans (armMask m s) = chans s := by
  simp only [armMask, chans_gbarArm, chans_modGate]

@[simp] theorem chans_haltCore (n : Nat) (s : State) :
    chans (haltCore n s) = chans s := by
  simp only [haltCore, chans_modCore, chans_modCtl]

@[simp] theorem chans_startCore (n : Nat) (s : State) :
    chans (startCore n s) = chans s := by
  simp only [startCore, chans_modCore, chans_modCtl]

@[simp] theorem chans_writeCcctl (v : Half) (s : State) :
    chans (writeCcctl v s) = chans s := by
  unfold writeCcctl
  repeat' split
  all_goals simp

@[simp] theorem chans_startScree (bank : Bool) (entry : Half) (cause : BitVec 2) (s : State) :
    chans (startScree bank entry cause s) = chans s := by
  simp only [startScree, chans_modCtl, chans_writeCcctl]

@[simp] theorem chans_mbxPost (m : Nat) (s : State) :
    chans (mbxPost m s) = chans s := by
  simp only [mbxPost, chans_evK, chans_evS, chans_modMbx, apply_ite chans, ite_self]

@[simp] theorem chans_mbxDone (m : Nat) (s : State) :
    chans (mbxDone m s) = chans s := by
  simp only [mbxDone, chans_evK, chans_evS, chans_modMbx, apply_ite chans, ite_self]

@[simp] theorem chans_bedAnswer (m result : Nat) (detail : Half) (ws : List Word) (s : State) :
    chans (bedAnswer m result detail ws s) = chans s := by
  simp only [bedAnswer, chans_mbxDone, chans_modMbx]

@[simp] theorem chans_postNotice (cmd : Nat) (r1 r2 : Word) (s : State) :
    chans (postNotice cmd r1 r2 s) = chans s := by
  simp only [postNotice, chans_drawFree, chans_mbxPost, chans_modMbx]

@[simp] theorem chans_nextNotice (s : State) :
    chans (nextNotice s) = chans s := by
  unfold nextNotice
  dsimp only
  repeat' split
  all_goals simp

@[simp] theorem chans_armNext  (n : Nat) (s : State) :
    chans (armNext  n s) = chans s := by
  induction n generalizing s with
  | zero => rfl
  | succ n ih =>
    simp only [armNext]
    repeat' split
    all_goals first | rfl | simp only [ih, chans_armMask, chans_bedAnswer, chans_modCtl, chans_setShadow,
        apply_ite chans, ite_self, eq_self, implies_true]

@[simp] theorem chans_barrierDone (s : State) :
    chans (barrierDone s) = chans s := by
  unfold barrierDone
  repeat' split
  all_goals first | rfl | simp only [chans_armMask, chans_armNext, chans_bedAnswer, chans_installLm, chans_modCtl,
      chans_nextNotice, chans_startScree, apply_ite chans, ite_self]

@[simp] theorem chans_unwatch (c : Nat) (s : State) :
    chans (unwatch c s) = chans s := (rfl)

@[simp] theorem chans_breakEntry (x : LockEntry) (cause : BitVec 3) (s : State) :
    chans (breakEntry x cause s) = chans s := by
  simp only [breakEntry, chans_evLockBreak, chans_issueUpd8, chans_modLock, chans_xCtl, apply_ite chans, ite_self]

@[simp] theorem chans_breakSoon (x : LockEntry) (cause : BitVec 3) (s : State) :
    chans (breakSoon x cause s) = chans s := by
  simp only [breakSoon, chans_breakEntry, chans_modLock, apply_ite chans, ite_self]

@[simp] theorem chans_breakOrWait (x : LockEntry) (cause : BitVec 3) (s : State) :
    chans (breakOrWait x cause s) = chans s := by
  simp only [breakOrWait, chans_breakSoon, chans_modLock, apply_ite chans, ite_self]

@[simp] theorem chans_breakOnLeave (c : Nat) (cause : Option (BitVec 3)) (s : State) :
    chans (breakOnLeave c cause s) = chans s := by
  unfold breakOnLeave
  repeat' split
  all_goals first | with_reducible rfl | (simp only [chans_breakSoon, chans_forAll, apply_ite chans, ite_self, eq_self, implies_true]; done) | (((first | apply chans_forAll | apply chans_foldl); intros; (try dsimp only); repeat' split) <;> first | with_reducible rfl | (simp only [chans_breakSoon, chans_forAll, apply_ite chans, ite_self, eq_self, implies_true]; done)) | ((refine (chans_forAll _ _ ?_ _).trans ?_ <;> intros <;> (try dsimp only) <;> repeat' split) <;> first | with_reducible rfl | (simp only [chans_breakSoon, chans_forAll, apply_ite chans, ite_self, eq_self, implies_true]; done))

@[simp] theorem chans_breakAfter (c : Nat) (s : State) :
    chans (breakAfter c s) = chans s := by
  unfold breakAfter
  repeat' split
  all_goals first | with_reducible rfl | (simp only [chans_breakEntry, chans_forAll, apply_ite chans, ite_self, eq_self, implies_true]; done) | (((first | apply chans_forAll | apply chans_foldl); intros; (try dsimp only); repeat' split) <;> first | with_reducible rfl | (simp only [chans_breakEntry, chans_forAll, apply_ite chans, ite_self, eq_self, implies_true]; done)) | ((refine (chans_forAll _ _ ?_ _).trans ?_ <;> intros <;> (try dsimp only) <;> repeat' split) <;> first | with_reducible rfl | (simp only [chans_breakEntry, chans_forAll, apply_ite chans, ite_self, eq_self, implies_true]; done))

@[simp] theorem chans_breakFn (fn : Nat) (cause : BitVec 3) (s : State) :
    chans (breakFn fn cause s) = chans s := by
  unfold breakFn
  repeat' split
  all_goals simp

@[simp] theorem chans_lockFree (a : Word) (s : State) :
    chans (lockFree a s) = chans s := by
  simp only [lockFree, chans_modLock]

@[simp] theorem chans_noticeClear (fn : Nat) (s : State) :
    chans (noticeClear fn s) = chans s := by
  simp only [noticeClear, chans_modFn]

@[simp] theorem chans_dropReads (k : Discard) (e : Nat) (s : State) :
    chans (dropReads k e s) = chans s := by
  simp only [dropReads, chans_dropIf]

@[simp] theorem chans_xCount (f : State → State) (hf : ∀  s, chans (f  s) = chans s) (p : Iss × State) :
    chans (xCount f p).2 = chans p.2 := by
  unfold xCount; split <;> first | rfl | simp only [hf]

@[simp] theorem chans_settleOldPosted (s : State) :
    chans (settleOldPosted s) = chans s := (rfl)

@[simp] theorem chans_barrierStep (s : State) :
    chans (barrierStep s) = chans s := by
  simp only [barrierStep, chans_barrierDone, chans_evK, chans_modGate, chans_settleOldPosted, apply_ite chans,
      ite_self]

@[simp] theorem chans_unhold (e : Nat) (sp : BitVec 4) (a : Word) (s : State) :
    chans (unhold e sp a s) = chans s := by
  simp only [unhold, chans_modEng]

/-! ### dspPart -/

/-- The part `s.dsp` of a state, for lemmas that say an operation leaves it. -/
def dspPart (s : State) : Dsp := s.dsp

theorem dspPart_eq (s : State) : dspPart s = s.dsp := rfl

theorem dspPart_foldl {α : Type} (l : List α) (f : State → α → State) (h : ∀ s x, dspPart (f s x) = dspPart s)
    (s : State) : dspPart (l.foldl f s) = dspPart s := by
  induction l generalizing s with
  | nil => rfl
  | cons x t ih => simp only [List.foldl_cons, ih, h]

@[simp] theorem dspPart_ite (c : Prop) [Decidable c] (a b : State) :
    dspPart (if c then a else b) = if c then dspPart a else dspPart b := apply_ite _ _ _ _

@[simp] theorem dspPart_modFn (fn : Nat) (f : Func → Func) (s : State) :
    dspPart (modFn fn f s) = dspPart s := (rfl)

@[simp] theorem dspPart_modCore (c : Nat) (f : Core → Core) (s : State) :
    dspPart (modCore c f s) = dspPart s := (rfl)

@[simp] theorem dspPart_modMbx (m : Nat) (f : Mailbox → Mailbox) (s : State) :
    dspPart (modMbx m f s) = dspPart s := (rfl)

@[simp] theorem dspPart_modIsl (i : Nat) (f : Island → Island) (s : State) :
    dspPart (modIsl i f s) = dspPart s := (rfl)

@[simp] theorem dspPart_modCtl (f : Ctl → Ctl) (s : State) :
    dspPart (modCtl f s) = dspPart s := (rfl)

@[simp] theorem dspPart_modGate (f : Gates → Gates) (s : State) :
    dspPart (modGate f s) = dspPart s := (rfl)

@[simp] theorem dspPart_modLock (f : Locks → Locks) (s : State) :
    dspPart (modLock f s) = dspPart s := (rfl)

@[simp] theorem dspPart_modXbar (f : Xbar → Xbar) (s : State) :
    dspPart (modXbar f s) = dspPart s := (rfl)

@[simp] theorem dspPart_forAll {α : Type} (l : List α) (f : α → State → State) (h : ∀ x s, dspPart
    (f x s) = dspPart s) (s : State) :
    dspPart (forAll l f s) = dspPart s := by unfold forAll; exact dspPart_foldl l _ (fun s x => h x s) s

@[simp] theorem dspPart_drawFree (s : State) :
    dspPart (drawFree s).2 = dspPart s := (rfl)
theorem dspPart_drawFree_pair {s : State} {b' : Word} {t' : State}
    (hh : drawFree s = (b', t')) : dspPart t' = dspPart s :=
  (congrArg (fun p => dspPart p.2) hh).symm.trans (dspPart_drawFree s )

@[simp] theorem dspPart_evK (i : Nat) (s : State) :
    dspPart (evK i s) = dspPart s := by
  simp only [evK, dspPart_modCtl]

@[simp] theorem dspPart_evS (i : Nat) (s : State) :
    dspPart (evS i s) = dspPart s := by
  simp only [evS, dspPart_modCtl]

@[simp] theorem dspPart_postCause (i fn : Nat) (s : State) :
    dspPart (postCause i fn s) = dspPart s := by
  simp only [postCause, dspPart_modFn]

@[simp] theorem dspPart_evLockBreak (fn : Nat) (s : State) :
    dspPart (evLockBreak fn s) = dspPart s := by
  simp only [evLockBreak, dspPart_evS, dspPart_postCause]

@[simp] theorem dspPart_wakeIsl (i : Nat) (s : State) :
    dspPart (wakeIsl i s) = dspPart s := by
  simp only [wakeIsl, dspPart_modIsl]

@[simp] theorem dspPart_lmIssue (r : LmReq) (s : State) :
    dspPart (lmIssue r s) = dspPart s := (rfl)

@[simp] theorem dspPart_lmPromote (port tag : Nat) (s : State) :
    dspPart (lmPromote port tag s) = dspPart s := by
  unfold lmPromote; split <;> rfl

@[simp] theorem dspPart_lmRetire (port tag : Nat) (s : State) :
    dspPart (lmRetire port tag s) = dspPart s := by
  unfold lmRetire lmPromote; split <;> rfl

@[simp] theorem dspPart_vlogPut (x : Rule) (s : State) :
    dspPart (vlogPut x s) = dspPart s := by
  simp only [vlogPut, dspPart_modGate]

@[simp] theorem dspPart_denyPrecise (g : Nat) (w : Who) (n : Need) (a : Word) (len : Nat) (v : Verdict) (s : State) :
    dspPart (denyPrecise g w n a len v s) = dspPart s := by
  simp only [denyPrecise, dspPart_modGate, dspPart_vlogPut]

@[simp] theorem dspPart_setLane (i : Nat) (l : Lane) (s : State) :
    dspPart (setLane i l s) = dspPart s := by
  simp only [setLane, dspPart_modXbar]

@[simp] theorem dspPart_slotCountTo (now : Word) (s : State) :
    dspPart (slotCountTo now s) = dspPart s := by
  simp only [slotCountTo, dspPart_modXbar]

@[simp] theorem dspPart_slotCount (s : State) :
    dspPart (slotCount s) = dspPart s := by
  simp only [slotCount, dspPart_slotCountTo]

@[simp] theorem dspPart_modReq (p : XReq → Bool) (f : XReq → XReq) (s : State) :
    dspPart (modReq p f s) = dspPart s := by
  simp only [modReq, dspPart_modXbar]

@[simp] theorem dspPart_xask (r : XReq) (s : State) :
    dspPart (xask r s) = dspPart s := by
  simp only [xask, dspPart_modXbar, dspPart_setLane, apply_ite dspPart, ite_self]

@[simp] theorem dspPart_xpresentAll (idx ord : Nat) (dl : BitVec 20) (bs : List XBurst) (s : State) :
    dspPart (xpresentAll idx ord dl bs s) = dspPart s := by
  simp only [xpresentAll, dspPart_modReq, dspPart_slotCount, dspPart_wakeIsl, dspPart_xask, apply_ite dspPart,
      ite_self]

@[simp] theorem dspPart_xpresent (idx ord : Nat) (b : XBurst) (s : State) :
    dspPart (xpresent idx ord b s) = dspPart s := by
  simp only [xpresent, dspPart_xpresentAll]

@[simp] theorem dspPart_xLm (k : Nat) (dl : BitVec 20) (n : Nat) (s : State) :
    dspPart (xLm k dl n s) = dspPart s := by
  simp only [xLm, dspPart_xpresentAll]

@[simp] theorem dspPart_xCtl (n : Nat) (s : State) :
    dspPart (xCtl n s) = dspPart s := by
  simp only [xCtl, dspPart_xpresent]

@[simp] theorem dspPart_issueUpd8 (who : Who) (addr compare cmask value wmask add : Word) (pu : Purpose) (s : State) :
    dspPart (issueUpd8 who addr compare cmask value wmask add pu s).2 = dspPart s := by
  unfold issueUpd8
  dsimp only
  repeat' split
  all_goals simp
theorem dspPart_issueUpd8_pair {who : Who} {addr compare cmask value wmask add : Word} {pu : Purpose} {s : State} {b' : Iss} {t' : State}
    (hh : issueUpd8 who addr compare cmask value wmask add pu s = (b', t')) : dspPart t' = dspPart s :=
  (congrArg (fun p => dspPart p.2) hh).symm.trans (dspPart_issueUpd8 who addr compare cmask value wmask add pu s )

@[simp] theorem dspPart_dropIf (k : Discard) (p : Purpose → Bool) (s : State) :
    dspPart (dropIf k p s) = dspPart s := (rfl)

@[simp] theorem dspPart_gbarArm (s : State) :
    dspPart (gbarArm s) = dspPart s := by
  unfold gbarArm
  dsimp only
  repeat' split
  all_goals simp

@[simp] theorem dspPart_setShadow (g i : Nat) (r : Rule) (s : State) :
    dspPart (setShadow g i r s) = dspPart s := by
  simp only [setShadow, dspPart_modGate]

@[simp] theorem dspPart_installLm (g : Nat) (s : State) :
    dspPart (installLm g s) = dspPart s := by
  simp only [installLm, dspPart_setShadow, apply_ite dspPart, ite_self]

@[simp] theorem dspPart_armMask (m : BitVec 71) (s : State) :
    dspPart (armMask m s) = dspPart s := by
  simp only [armMask, dspPart_gbarArm, dspPart_modGate]

@[simp] theorem dspPart_haltCore (n : Nat) (s : State) :
    dspPart (haltCore n s) = dspPart s := by
  simp only [haltCore, dspPart_modCore, dspPart_modCtl]

@[simp] theorem dspPart_startCore (n : Nat) (s : State) :
    dspPart (startCore n s) = dspPart s := by
  simp only [startCore, dspPart_modCore, dspPart_modCtl]

@[simp] theorem dspPart_writeCcctl (v : Half) (s : State) :
    dspPart (writeCcctl v s) = dspPart s := by
  unfold writeCcctl
  repeat' split
  all_goals simp

@[simp] theorem dspPart_startScree (bank : Bool) (entry : Half) (cause : BitVec 2) (s : State) :
    dspPart (startScree bank entry cause s) = dspPart s := by
  simp only [startScree, dspPart_modCtl, dspPart_writeCcctl]

@[simp] theorem dspPart_mbxPost (m : Nat) (s : State) :
    dspPart (mbxPost m s) = dspPart s := by
  simp only [mbxPost, dspPart_evK, dspPart_evS, dspPart_modMbx, apply_ite dspPart, ite_self]

@[simp] theorem dspPart_mbxDone (m : Nat) (s : State) :
    dspPart (mbxDone m s) = dspPart s := by
  simp only [mbxDone, dspPart_evK, dspPart_evS, dspPart_modMbx, apply_ite dspPart, ite_self]

@[simp] theorem dspPart_bedAnswer (m result : Nat) (detail : Half) (ws : List Word) (s : State) :
    dspPart (bedAnswer m result detail ws s) = dspPart s := by
  simp only [bedAnswer, dspPart_mbxDone, dspPart_modMbx]

@[simp] theorem dspPart_postNotice (cmd : Nat) (r1 r2 : Word) (s : State) :
    dspPart (postNotice cmd r1 r2 s) = dspPart s := by
  simp only [postNotice, dspPart_drawFree, dspPart_mbxPost, dspPart_modMbx]

@[simp] theorem dspPart_nextNotice (s : State) :
    dspPart (nextNotice s) = dspPart s := by
  unfold nextNotice
  dsimp only
  repeat' split
  all_goals simp

@[simp] theorem dspPart_armNext  (n : Nat) (s : State) :
    dspPart (armNext  n s) = dspPart s := by
  induction n generalizing s with
  | zero => rfl
  | succ n ih =>
    simp only [armNext]
    repeat' split
    all_goals first | rfl | simp only [ih, dspPart_armMask, dspPart_bedAnswer, dspPart_modCtl, dspPart_setShadow,
        apply_ite dspPart, ite_self, eq_self, implies_true]

@[simp] theorem dspPart_barrierDone (s : State) :
    dspPart (barrierDone s) = dspPart s := by
  unfold barrierDone
  repeat' split
  all_goals first | rfl | simp only [dspPart_armMask, dspPart_armNext, dspPart_bedAnswer, dspPart_installLm,
      dspPart_modCtl, dspPart_nextNotice, dspPart_startScree, apply_ite dspPart, ite_self]

@[simp] theorem dspPart_breakEntry (x : LockEntry) (cause : BitVec 3) (s : State) :
    dspPart (breakEntry x cause s) = dspPart s := by
  simp only [breakEntry, dspPart_evLockBreak, dspPart_issueUpd8, dspPart_modLock, dspPart_xCtl, apply_ite dspPart,
      ite_self]

@[simp] theorem dspPart_breakSoon (x : LockEntry) (cause : BitVec 3) (s : State) :
    dspPart (breakSoon x cause s) = dspPart s := by
  simp only [breakSoon, dspPart_breakEntry, dspPart_modLock, apply_ite dspPart, ite_self]

@[simp] theorem dspPart_breakOnLeave (c : Nat) (cause : Option (BitVec 3)) (s : State) :
    dspPart (breakOnLeave c cause s) = dspPart s := by
  unfold breakOnLeave
  repeat' split
  all_goals first | with_reducible rfl | (simp only [dspPart_breakSoon, dspPart_forAll, apply_ite dspPart, ite_self, eq_self, implies_true]; done) | (((first | apply dspPart_forAll | apply dspPart_foldl); intros; (try dsimp only); repeat' split) <;> first | with_reducible rfl | (simp only [dspPart_breakSoon, dspPart_forAll, apply_ite dspPart, ite_self, eq_self, implies_true]; done)) | ((refine (dspPart_forAll _ _ ?_ _).trans ?_ <;> intros <;> (try dsimp only) <;> repeat' split) <;> first | with_reducible rfl | (simp only [dspPart_breakSoon, dspPart_forAll, apply_ite dspPart, ite_self, eq_self, implies_true]; done))

@[simp] theorem dspPart_noticeClear (fn : Nat) (s : State) :
    dspPart (noticeClear fn s) = dspPart s := by
  simp only [noticeClear, dspPart_modFn]

@[simp] theorem dspPart_dropReads (k : Discard) (e : Nat) (s : State) :
    dspPart (dropReads k e s) = dspPart s := by
  simp only [dropReads, dspPart_dropIf]

@[simp] theorem dspPart_settleOldPosted (s : State) :
    dspPart (settleOldPosted s) = dspPart s := (rfl)

@[simp] theorem dspPart_barrierStep (s : State) :
    dspPart (barrierStep s) = dspPart s := by
  simp only [barrierStep, dspPart_barrierDone, dspPart_evK, dspPart_modGate, dspPart_settleOldPosted,
      apply_ite dspPart, ite_self]

/-! ### lmPart -/

/-- The part `s.lm` of a state, for lemmas that say an operation leaves it. -/
def lmPart (s : State) : List LmReq := s.lm

theorem lmPart_eq (s : State) : lmPart s = s.lm := rfl

theorem lmPart_foldl {α : Type} (l : List α) (f : State → α → State) (h : ∀ s x, lmPart (f s x) = lmPart s)
    (s : State) : lmPart (l.foldl f s) = lmPart s := by
  induction l generalizing s with
  | nil => rfl
  | cons x t ih => simp only [List.foldl_cons, ih, h]

@[simp] theorem lmPart_ite (c : Prop) [Decidable c] (a b : State) :
    lmPart (if c then a else b) = if c then lmPart a else lmPart b := apply_ite _ _ _ _

@[simp] theorem lmPart_modFn (fn : Nat) (f : Func → Func) (s : State) :
    lmPart (modFn fn f s) = lmPart s := (rfl)

@[simp] theorem lmPart_modCore (c : Nat) (f : Core → Core) (s : State) :
    lmPart (modCore c f s) = lmPart s := (rfl)

@[simp] theorem lmPart_modMbx (m : Nat) (f : Mailbox → Mailbox) (s : State) :
    lmPart (modMbx m f s) = lmPart s := (rfl)

@[simp] theorem lmPart_modIsl (i : Nat) (f : Island → Island) (s : State) :
    lmPart (modIsl i f s) = lmPart s := (rfl)

@[simp] theorem lmPart_modDsp (f : Dsp → Dsp) (s : State) :
    lmPart (modDsp f s) = lmPart s := (rfl)

@[simp] theorem lmPart_modCtl (f : Ctl → Ctl) (s : State) :
    lmPart (modCtl f s) = lmPart s := (rfl)

@[simp] theorem lmPart_modGate (f : Gates → Gates) (s : State) :
    lmPart (modGate f s) = lmPart s := (rfl)

@[simp] theorem lmPart_modXbar (f : Xbar → Xbar) (s : State) :
    lmPart (modXbar f s) = lmPart s := (rfl)

@[simp] theorem lmPart_forAll {α : Type} (l : List α) (f : α → State → State) (h : ∀ x s, lmPart
    (f x s) = lmPart s) (s : State) :
    lmPart (forAll l f s) = lmPart s := by unfold forAll; exact lmPart_foldl l _ (fun s x => h x s) s

@[simp] theorem lmPart_drawFree (s : State) :
    lmPart (drawFree s).2 = lmPart s := (rfl)
theorem lmPart_drawFree_pair {s : State} {b' : Word} {t' : State}
    (hh : drawFree s = (b', t')) : lmPart t' = lmPart s :=
  (congrArg (fun p => lmPart p.2) hh).symm.trans (lmPart_drawFree s )

@[simp] theorem lmPart_evK (i : Nat) (s : State) :
    lmPart (evK i s) = lmPart s := by
  simp only [evK, lmPart_modCtl]

@[simp] theorem lmPart_evS (i : Nat) (s : State) :
    lmPart (evS i s) = lmPart s := by
  simp only [evS, lmPart_modCtl]

@[simp] theorem lmPart_postCause (i fn : Nat) (s : State) :
    lmPart (postCause i fn s) = lmPart s := by
  simp only [postCause, lmPart_modFn]

@[simp] theorem lmPart_evLockBreak (fn : Nat) (s : State) :
    lmPart (evLockBreak fn s) = lmPart s := by
  simp only [evLockBreak, lmPart_evS, lmPart_postCause]

@[simp] theorem lmPart_wakeIsl (i : Nat) (s : State) :
    lmPart (wakeIsl i s) = lmPart s := by
  simp only [wakeIsl, lmPart_modIsl]

@[simp] theorem lmPart_setLane (i : Nat) (l : Lane) (s : State) :
    lmPart (setLane i l s) = lmPart s := by
  simp only [setLane, lmPart_modXbar]

@[simp] theorem lmPart_slotCountTo (now : Word) (s : State) :
    lmPart (slotCountTo now s) = lmPart s := by
  simp only [slotCountTo, lmPart_modXbar]

@[simp] theorem lmPart_slotCount (s : State) :
    lmPart (slotCount s) = lmPart s := by
  simp only [slotCount, lmPart_slotCountTo]

@[simp] theorem lmPart_modReq (p : XReq → Bool) (f : XReq → XReq) (s : State) :
    lmPart (modReq p f s) = lmPart s := by
  simp only [modReq, lmPart_modXbar]

@[simp] theorem lmPart_xask (r : XReq) (s : State) :
    lmPart (xask r s) = lmPart s := by
  simp only [xask, lmPart_modXbar, lmPart_setLane, apply_ite lmPart, ite_self]

@[simp] theorem lmPart_xpresentAll (idx ord : Nat) (dl : BitVec 20) (bs : List XBurst) (s : State) :
    lmPart (xpresentAll idx ord dl bs s) = lmPart s := by
  simp only [xpresentAll, lmPart_modReq, lmPart_slotCount, lmPart_wakeIsl, lmPart_xask, apply_ite lmPart, ite_self]

@[simp] theorem lmPart_xpresent (idx ord : Nat) (b : XBurst) (s : State) :
    lmPart (xpresent idx ord b s) = lmPart s := by
  simp only [xpresent, lmPart_xpresentAll]

@[simp] theorem lmPart_xLm (k : Nat) (dl : BitVec 20) (n : Nat) (s : State) :
    lmPart (xLm k dl n s) = lmPart s := by
  simp only [xLm, lmPart_xpresentAll]

@[simp] theorem lmPart_xCtl (n : Nat) (s : State) :
    lmPart (xCtl n s) = lmPart s := by
  simp only [xCtl, lmPart_xpresent]

@[simp] theorem lmPart_gbarArm (s : State) :
    lmPart (gbarArm s) = lmPart s := by
  unfold gbarArm
  dsimp only
  repeat' split
  all_goals simp

@[simp] theorem lmPart_setShadow (g i : Nat) (r : Rule) (s : State) :
    lmPart (setShadow g i r s) = lmPart s := by
  simp only [setShadow, lmPart_modGate]

@[simp] theorem lmPart_installLm (g : Nat) (s : State) :
    lmPart (installLm g s) = lmPart s := by
  simp only [installLm, lmPart_setShadow, apply_ite lmPart, ite_self]

@[simp] theorem lmPart_armMask (m : BitVec 71) (s : State) :
    lmPart (armMask m s) = lmPart s := by
  simp only [armMask, lmPart_gbarArm, lmPart_modGate]

@[simp] theorem lmPart_haltCore (n : Nat) (s : State) :
    lmPart (haltCore n s) = lmPart s := by
  simp only [haltCore, lmPart_modCore, lmPart_modCtl]

@[simp] theorem lmPart_startCore (n : Nat) (s : State) :
    lmPart (startCore n s) = lmPart s := by
  simp only [startCore, lmPart_modCore, lmPart_modCtl]

@[simp] theorem lmPart_writeCcctl (v : Half) (s : State) :
    lmPart (writeCcctl v s) = lmPart s := by
  unfold writeCcctl
  repeat' split
  all_goals simp

@[simp] theorem lmPart_startScree (bank : Bool) (entry : Half) (cause : BitVec 2) (s : State) :
    lmPart (startScree bank entry cause s) = lmPart s := by
  simp only [startScree, lmPart_modCtl, lmPart_writeCcctl]

@[simp] theorem lmPart_mbxPost (m : Nat) (s : State) :
    lmPart (mbxPost m s) = lmPart s := by
  simp only [mbxPost, lmPart_evK, lmPart_evS, lmPart_modMbx, apply_ite lmPart, ite_self]

@[simp] theorem lmPart_mbxDone (m : Nat) (s : State) :
    lmPart (mbxDone m s) = lmPart s := by
  simp only [mbxDone, lmPart_evK, lmPart_evS, lmPart_modMbx, apply_ite lmPart, ite_self]

@[simp] theorem lmPart_bedAnswer (m result : Nat) (detail : Half) (ws : List Word) (s : State) :
    lmPart (bedAnswer m result detail ws s) = lmPart s := by
  simp only [bedAnswer, lmPart_mbxDone, lmPart_modMbx]

@[simp] theorem lmPart_postNotice (cmd : Nat) (r1 r2 : Word) (s : State) :
    lmPart (postNotice cmd r1 r2 s) = lmPart s := by
  simp only [postNotice, lmPart_drawFree, lmPart_mbxPost, lmPart_modMbx]

@[simp] theorem lmPart_nextNotice (s : State) :
    lmPart (nextNotice s) = lmPart s := by
  unfold nextNotice
  dsimp only
  repeat' split
  all_goals simp

@[simp] theorem lmPart_armNext  (n : Nat) (s : State) :
    lmPart (armNext  n s) = lmPart s := by
  induction n generalizing s with
  | zero => rfl
  | succ n ih =>
    simp only [armNext]
    repeat' split
    all_goals first | rfl | simp only [ih, lmPart_armMask, lmPart_bedAnswer, lmPart_modCtl, lmPart_setShadow,
        apply_ite lmPart, ite_self, eq_self, implies_true]

@[simp] theorem lmPart_barrierDone (s : State) :
    lmPart (barrierDone s) = lmPart s := by
  unfold barrierDone
  repeat' split
  all_goals first | rfl | simp only [lmPart_armMask, lmPart_armNext, lmPart_bedAnswer, lmPart_installLm,
      lmPart_modCtl, lmPart_nextNotice, lmPart_startScree, apply_ite lmPart, ite_self]

@[simp] theorem lmPart_settleOldPosted (s : State) :
    lmPart (settleOldPosted s) = lmPart s := (rfl)

@[simp] theorem lmPart_barrierStep (s : State) :
    lmPart (barrierStep s) = lmPart s := by
  simp only [barrierStep, lmPart_barrierDone, lmPart_evK, lmPart_modGate, lmPart_settleOldPosted, apply_ite lmPart,
      ite_self]

/-! ### engs -/

/-- The part `s.eng` of a state, for lemmas that say an operation leaves it. -/
def engs (s : State) : Tbl Engine := s.eng

theorem engs_eq (s : State) : engs s = s.eng := rfl

theorem engs_foldl {α : Type} (l : List α) (f : State → α → State) (h : ∀ s x, engs (f s x) = engs s)
    (s : State) : engs (l.foldl f s) = engs s := by
  induction l generalizing s with
  | nil => rfl
  | cons x t ih => simp only [List.foldl_cons, ih, h]

@[simp] theorem engs_ite (c : Prop) [Decidable c] (a b : State) :
    engs (if c then a else b) = if c then engs a else engs b := apply_ite _ _ _ _

@[simp] theorem engs_modCtx (c : Nat) (f : Ctx → Ctx) (s : State) :
    engs (modCtx c f s) = engs s := (rfl)

@[simp] theorem engs_modFn (fn : Nat) (f : Func → Func) (s : State) :
    engs (modFn fn f s) = engs s := (rfl)

@[simp] theorem engs_modCore (c : Nat) (f : Core → Core) (s : State) :
    engs (modCore c f s) = engs s := (rfl)

@[simp] theorem engs_modMbx (m : Nat) (f : Mailbox → Mailbox) (s : State) :
    engs (modMbx m f s) = engs s := (rfl)

@[simp] theorem engs_modIsl (i : Nat) (f : Island → Island) (s : State) :
    engs (modIsl i f s) = engs s := (rfl)

@[simp] theorem engs_modDsp (f : Dsp → Dsp) (s : State) :
    engs (modDsp f s) = engs s := (rfl)

@[simp] theorem engs_modCtl (f : Ctl → Ctl) (s : State) :
    engs (modCtl f s) = engs s := (rfl)

@[simp] theorem engs_modGate (f : Gates → Gates) (s : State) :
    engs (modGate f s) = engs s := (rfl)

@[simp] theorem engs_modLock (f : Locks → Locks) (s : State) :
    engs (modLock f s) = engs s := (rfl)

@[simp] theorem engs_modXbar (f : Xbar → Xbar) (s : State) :
    engs (modXbar f s) = engs s := (rfl)

@[simp] theorem engs_forAll {α : Type} (l : List α) (f : α → State → State) (h : ∀ x s, engs (f x s) = engs s)
    (s : State) :
    engs (forAll l f s) = engs s := by unfold forAll; exact engs_foldl l _ (fun s x => h x s) s

@[simp] theorem engs_drawFree (s : State) :
    engs (drawFree s).2 = engs s := (rfl)
theorem engs_drawFree_pair {s : State} {b' : Word} {t' : State}
    (hh : drawFree s = (b', t')) : engs t' = engs s :=
  (congrArg (fun p => engs p.2) hh).symm.trans (engs_drawFree s )

@[simp] theorem engs_evK (i : Nat) (s : State) :
    engs (evK i s) = engs s := by
  simp only [evK, engs_modCtl]

@[simp] theorem engs_evS (i : Nat) (s : State) :
    engs (evS i s) = engs s := by
  simp only [evS, engs_modCtl]

@[simp] theorem engs_postCause (i fn : Nat) (s : State) :
    engs (postCause i fn s) = engs s := by
  simp only [postCause, engs_modFn]

@[simp] theorem engs_evDescFault (fn : Nat) (s : State) :
    engs (evDescFault fn s) = engs s := by
  simp only [evDescFault, engs_evS, engs_postCause]

@[simp] theorem engs_evWbFault (fn c : Nat) (a : Word) (s : State) :
    engs (evWbFault fn c a s) = engs s := by
  simp only [evWbFault, engs_evS, engs_modDsp, engs_postCause]

@[simp] theorem engs_evLockBreak (fn : Nat) (s : State) :
    engs (evLockBreak fn s) = engs s := by
  simp only [evLockBreak, engs_evS, engs_postCause]

@[simp] theorem engs_evCtxEcc (fn : Nat) (s : State) :
    engs (evCtxEcc fn s) = engs s := by
  simp only [evCtxEcc, engs_evK, engs_evS, engs_postCause]

@[simp] theorem engs_wakeIsl (i : Nat) (s : State) :
    engs (wakeIsl i s) = engs s := by
  simp only [wakeIsl, engs_modIsl]

@[simp] theorem engs_lmIssue (r : LmReq) (s : State) :
    engs (lmIssue r s) = engs s := (rfl)

@[simp] theorem engs_dspUpd8 (addr compare cmask value wmask add : Word) (pu : Purpose) (s : State) :
    engs (dspUpd8 addr compare cmask value wmask add pu s) = engs s := by
  simp only [dspUpd8, engs_lmIssue]

@[simp] theorem engs_bitmapOr (c : Nat) (pu : Purpose) (s : State) :
    engs (bitmapOr c pu s) = engs s := by
  simp only [bitmapOr, engs_dspUpd8]

@[simp] theorem engs_vlogPut (x : Rule) (s : State) :
    engs (vlogPut x s) = engs s := by
  simp only [vlogPut, engs_modGate]

@[simp] theorem engs_denyPrecise (g : Nat) (w : Who) (n : Need) (a : Word) (len : Nat) (v : Verdict) (s : State) :
    engs (denyPrecise g w n a len v s) = engs s := by
  simp only [denyPrecise, engs_modGate, engs_vlogPut]

@[simp] theorem engs_setLane (i : Nat) (l : Lane) (s : State) :
    engs (setLane i l s) = engs s := by
  simp only [setLane, engs_modXbar]

@[simp] theorem engs_slotCountTo (now : Word) (s : State) :
    engs (slotCountTo now s) = engs s := by
  simp only [slotCountTo, engs_modXbar]

@[simp] theorem engs_slotCount (s : State) :
    engs (slotCount s) = engs s := by
  simp only [slotCount, engs_slotCountTo]

@[simp] theorem engs_modReq (p : XReq → Bool) (f : XReq → XReq) (s : State) :
    engs (modReq p f s) = engs s := by
  simp only [modReq, engs_modXbar]

@[simp] theorem engs_xask (r : XReq) (s : State) :
    engs (xask r s) = engs s := by
  simp only [xask, engs_modXbar, engs_setLane, apply_ite engs, ite_self]

@[simp] theorem engs_xpresentAll (idx ord : Nat) (dl : BitVec 20) (bs : List XBurst) (s : State) :
    engs (xpresentAll idx ord dl bs s) = engs s := by
  simp only [xpresentAll, engs_modReq, engs_slotCount, engs_wakeIsl, engs_xask, apply_ite engs, ite_self]

@[simp] theorem engs_xpresent (idx ord : Nat) (b : XBurst) (s : State) :
    engs (xpresent idx ord b s) = engs s := by
  simp only [xpresent, engs_xpresentAll]

@[simp] theorem engs_xCtl (n : Nat) (s : State) :
    engs (xCtl n s) = engs s := by
  simp only [xCtl, engs_xpresent]

@[simp] theorem engs_dropLane (lane : Nat) (r : XReq) (s : State) :
    engs (dropLane lane r s) = engs s := by
  simp only [dropLane, engs_setLane]

@[simp] theorem engs_dropLanes (p : XReq → Bool) (s : State) :
    engs (dropLanes p s) = engs s := by
  unfold dropLanes
  repeat' split
  all_goals first | with_reducible rfl | (simp only [engs_dropLane, engs_forAll, apply_ite engs, ite_self, eq_self, implies_true]; done) | (((first | apply engs_forAll | apply engs_foldl); intros; (try dsimp only); repeat' split) <;> first | with_reducible rfl | (simp only [engs_dropLane, engs_forAll, apply_ite engs, ite_self, eq_self, implies_true]; done)) | ((refine (engs_forAll _ _ ?_ _).trans ?_ <;> intros <;> (try dsimp only) <;> repeat' split) <;> first | with_reducible rfl | (simp only [engs_dropLane, engs_forAll, apply_ite engs, ite_self, eq_self, implies_true]; done))

@[simp] theorem engs_xwithdrawIf (p : XReq → Bool) (s : State) :
    engs (xwithdrawIf p s) = engs s := by
  simp only [xwithdrawIf, engs_dropLanes, engs_modXbar, engs_slotCount]

@[simp] theorem engs_xwithdraw (idx ord : Nat) (s : State) :
    engs (xwithdraw idx ord s) = engs s := by
  simp only [xwithdraw, engs_xwithdrawIf]

@[simp] theorem engs_xstrip (p : XReq → Bool) (gone : XBurst → Bool) (s : State) :
    engs (xstrip p gone s) = engs s := by
  simp only [xstrip, engs_modReq, engs_xwithdrawIf]

@[simp] theorem engs_xabandon (e : Nat) (s : State) :
    engs (xabandon e s) = engs s := by
  simp only [xabandon, engs_xstrip]

@[simp] theorem engs_issueUpd8 (who : Who) (addr compare cmask value wmask add : Word) (pu : Purpose) (s : State) :
    engs (issueUpd8 who addr compare cmask value wmask add pu s).2 = engs s := by
  unfold issueUpd8
  dsimp only
  repeat' split
  all_goals simp
theorem engs_issueUpd8_pair {who : Who} {addr compare cmask value wmask add : Word} {pu : Purpose} {s : State} {b' : Iss} {t' : State}
    (hh : issueUpd8 who addr compare cmask value wmask add pu s = (b', t')) : engs t' = engs s :=
  (congrArg (fun p => engs p.2) hh).symm.trans (engs_issueUpd8 who addr compare cmask value wmask add pu s )

@[simp] theorem engs_dropIf (k : Discard) (p : Purpose → Bool) (s : State) :
    engs (dropIf k p s) = engs s := (rfl)

@[simp] theorem engs_gbarArm (s : State) :
    engs (gbarArm s) = engs s := by
  unfold gbarArm
  dsimp only
  repeat' split
  all_goals simp

@[simp] theorem engs_setShadow (g i : Nat) (r : Rule) (s : State) :
    engs (setShadow g i r s) = engs s := by
  simp only [setShadow, engs_modGate]

@[simp] theorem engs_installLm (g : Nat) (s : State) :
    engs (installLm g s) = engs s := by
  simp only [installLm, engs_setShadow, apply_ite engs, ite_self]

@[simp] theorem engs_armMask (m : BitVec 71) (s : State) :
    engs (armMask m s) = engs s := by
  simp only [armMask, engs_gbarArm, engs_modGate]

@[simp] theorem engs_haltCore (n : Nat) (s : State) :
    engs (haltCore n s) = engs s := by
  simp only [haltCore, engs_modCore, engs_modCtl]

@[simp] theorem engs_startCore (n : Nat) (s : State) :
    engs (startCore n s) = engs s := by
  simp only [startCore, engs_modCore, engs_modCtl]

@[simp] theorem engs_writeCcctl (v : Half) (s : State) :
    engs (writeCcctl v s) = engs s := by
  unfold writeCcctl
  repeat' split
  all_goals simp

@[simp] theorem engs_startScree (bank : Bool) (entry : Half) (cause : BitVec 2) (s : State) :
    engs (startScree bank entry cause s) = engs s := by
  simp only [startScree, engs_modCtl, engs_writeCcctl]

@[simp] theorem engs_mbxPost (m : Nat) (s : State) :
    engs (mbxPost m s) = engs s := by
  simp only [mbxPost, engs_evK, engs_evS, engs_modMbx, apply_ite engs, ite_self]

@[simp] theorem engs_mbxDone (m : Nat) (s : State) :
    engs (mbxDone m s) = engs s := by
  simp only [mbxDone, engs_evK, engs_evS, engs_modMbx, apply_ite engs, ite_self]

@[simp] theorem engs_bedAnswer (m result : Nat) (detail : Half) (ws : List Word) (s : State) :
    engs (bedAnswer m result detail ws s) = engs s := by
  simp only [bedAnswer, engs_mbxDone, engs_modMbx]

@[simp] theorem engs_postNotice (cmd : Nat) (r1 r2 : Word) (s : State) :
    engs (postNotice cmd r1 r2 s) = engs s := by
  simp only [postNotice, engs_drawFree, engs_mbxPost, engs_modMbx]

@[simp] theorem engs_nextNotice (s : State) :
    engs (nextNotice s) = engs s := by
  unfold nextNotice
  dsimp only
  repeat' split
  all_goals simp

@[simp] theorem engs_armNext  (n : Nat) (s : State) :
    engs (armNext  n s) = engs s := by
  induction n generalizing s with
  | zero => rfl
  | succ n ih =>
    simp only [armNext]
    repeat' split
    all_goals first | rfl | simp only [ih, engs_armMask, engs_bedAnswer, engs_modCtl, engs_setShadow,
        apply_ite engs, ite_self, eq_self, implies_true]

@[simp] theorem engs_barrierDone (s : State) :
    engs (barrierDone s) = engs s := by
  unfold barrierDone
  repeat' split
  all_goals first | rfl | simp only [engs_armMask, engs_armNext, engs_bedAnswer, engs_installLm, engs_modCtl,
      engs_nextNotice, engs_startScree, apply_ite engs, ite_self]

@[simp] theorem engs_writeBack (c : Nat) (s : State) :
    engs (writeBack c s) = engs s := by
  simp only [writeBack, engs_lmIssue]

@[simp] theorem engs_cacheUse (c : Nat) (changed : Bool) (s : State) :
    engs (cacheUse c changed s) = engs s := by
  unfold cacheUse
  dsimp only
  repeat' split
  all_goals simp

@[simp] theorem engs_enqueue (c : Nat) (s : State) :
    engs (enqueue c s) = engs s := by
  simp only [enqueue, engs_bitmapOr, engs_modDsp, apply_ite engs, ite_self]

@[simp] theorem engs_toReady (c : Nat) (s : State) :
    engs (toReady c s) = engs s := by
  simp only [toReady, engs_cacheUse, engs_enqueue, engs_modCtx, apply_ite engs, ite_self]

@[simp] theorem engs_unqueue (c : Nat) (s : State) :
    engs (unqueue c s) = engs s := by
  simp only [unqueue, engs_modDsp]

@[simp] theorem engs_unwatch (c : Nat) (s : State) :
    engs (unwatch c s) = engs s := (rfl)

@[simp] theorem engs_breakEntry (x : LockEntry) (cause : BitVec 3) (s : State) :
    engs (breakEntry x cause s) = engs s := by
  simp only [breakEntry, engs_evLockBreak, engs_issueUpd8, engs_modLock, engs_xCtl, apply_ite engs, ite_self]

@[simp] theorem engs_breakSoon (x : LockEntry) (cause : BitVec 3) (s : State) :
    engs (breakSoon x cause s) = engs s := by
  simp only [breakSoon, engs_breakEntry, engs_modLock, apply_ite engs, ite_self]

@[simp] theorem engs_breakOrWait (x : LockEntry) (cause : BitVec 3) (s : State) :
    engs (breakOrWait x cause s) = engs s := by
  simp only [breakOrWait, engs_breakSoon, engs_modLock, apply_ite engs, ite_self]

@[simp] theorem engs_breakOnLeave (c : Nat) (cause : Option (BitVec 3)) (s : State) :
    engs (breakOnLeave c cause s) = engs s := by
  unfold breakOnLeave
  repeat' split
  all_goals first | with_reducible rfl | (simp only [engs_breakSoon, engs_forAll, apply_ite engs, ite_self, eq_self, implies_true]; done) | (((first | apply engs_forAll | apply engs_foldl); intros; (try dsimp only); repeat' split) <;> first | with_reducible rfl | (simp only [engs_breakSoon, engs_forAll, apply_ite engs, ite_self, eq_self, implies_true]; done)) | ((refine (engs_forAll _ _ ?_ _).trans ?_ <;> intros <;> (try dsimp only) <;> repeat' split) <;> first | with_reducible rfl | (simp only [engs_breakSoon, engs_forAll, apply_ite engs, ite_self, eq_self, implies_true]; done))

@[simp] theorem engs_breakFn (fn : Nat) (cause : BitVec 3) (s : State) :
    engs (breakFn fn cause s) = engs s := by
  unfold breakFn
  repeat' split
  all_goals simp

@[simp] theorem engs_noticeClear (fn : Nat) (s : State) :
    engs (noticeClear fn s) = engs s := by
  simp only [noticeClear, engs_modFn]

@[simp] theorem engs_dropTasks (c : Nat) (s : State) :
    engs (dropTasks c s) = engs s := by
  simp only [dropTasks, engs_modDsp]

@[simp] theorem engs_stopCtx (c : Nat) (code : Byte) (flags : Option Byte) (s : State) :
    engs (stopCtx c code flags s) = engs s := by
  simp only [stopCtx, engs_breakOnLeave, engs_cacheUse, engs_dropTasks, engs_modCtx, engs_unqueue, engs_unwatch]

@[simp] theorem engs_directOver (c : Nat) (s : State) :
    engs (directOver c s) = engs s := by
  simp only [directOver, engs_modCtx]

@[simp] theorem engs_abortIdle (c : Nat) (s : State) :
    engs (abortIdle c s) = engs s := by
  simp only [abortIdle, engs_directOver, engs_modCtx, engs_noticeClear, engs_stopCtx]

@[simp] theorem engs_abortOff (c : Nat) (s : State) :
    engs (abortOff c s) = engs s := by
  simp only [abortOff, engs_abortIdle, engs_modDsp, engs_unqueue, engs_unwatch, apply_ite engs, ite_self]

@[simp] theorem engs_dropReads (k : Discard) (e : Nat) (s : State) :
    engs (dropReads k e s) = engs s := by
  simp only [dropReads, engs_dropIf]

@[simp] theorem engs_settleOldPosted (s : State) :
    engs (settleOldPosted s) = engs s := (rfl)

@[simp] theorem engs_barrierStep (s : State) :
    engs (barrierStep s) = engs s := by
  simp only [barrierStep, engs_barrierDone, engs_evK, engs_modGate, engs_settleOldPosted, apply_ite engs, ite_self]

/-! ### locks -/

/-- The part `s.lock` of a state, for lemmas that say an operation leaves it. -/
def locks (s : State) : Locks := s.lock

theorem locks_eq (s : State) : locks s = s.lock := rfl

theorem locks_foldl {α : Type} (l : List α) (f : State → α → State) (h : ∀ s x, locks (f s x) = locks s)
    (s : State) : locks (l.foldl f s) = locks s := by
  induction l generalizing s with
  | nil => rfl
  | cons x t ih => simp only [List.foldl_cons, ih, h]

@[simp] theorem locks_ite (c : Prop) [Decidable c] (a b : State) :
    locks (if c then a else b) = if c then locks a else locks b := apply_ite _ _ _ _

@[simp] theorem locks_modCtx (c : Nat) (f : Ctx → Ctx) (s : State) :
    locks (modCtx c f s) = locks s := (rfl)

@[simp] theorem locks_modFn (fn : Nat) (f : Func → Func) (s : State) :
    locks (modFn fn f s) = locks s := (rfl)

@[simp] theorem locks_modIsl (i : Nat) (f : Island → Island) (s : State) :
    locks (modIsl i f s) = locks s := (rfl)

@[simp] theorem locks_modDsp (f : Dsp → Dsp) (s : State) :
    locks (modDsp f s) = locks s := (rfl)

@[simp] theorem locks_modCtl (f : Ctl → Ctl) (s : State) :
    locks (modCtl f s) = locks s := (rfl)

@[simp] theorem locks_modGate (f : Gates → Gates) (s : State) :
    locks (modGate f s) = locks s := (rfl)

@[simp] theorem locks_modXbar (f : Xbar → Xbar) (s : State) :
    locks (modXbar f s) = locks s := (rfl)

@[simp] theorem locks_evS (i : Nat) (s : State) :
    locks (evS i s) = locks s := by
  simp only [evS, locks_modCtl]

@[simp] theorem locks_postCause (i fn : Nat) (s : State) :
    locks (postCause i fn s) = locks s := by
  simp only [postCause, locks_modFn]

@[simp] theorem locks_evLockBreak (fn : Nat) (s : State) :
    locks (evLockBreak fn s) = locks s := by
  simp only [evLockBreak, locks_evS, locks_postCause]

@[simp] theorem locks_wakeIsl (i : Nat) (s : State) :
    locks (wakeIsl i s) = locks s := by
  simp only [wakeIsl, locks_modIsl]

@[simp] theorem locks_lmIssue (r : LmReq) (s : State) :
    locks (lmIssue r s) = locks s := (rfl)

@[simp] theorem locks_dspUpd8 (addr compare cmask value wmask add : Word) (pu : Purpose) (s : State) :
    locks (dspUpd8 addr compare cmask value wmask add pu s) = locks s := by
  simp only [dspUpd8, locks_lmIssue]

@[simp] theorem locks_bitmapOr (c : Nat) (pu : Purpose) (s : State) :
    locks (bitmapOr c pu s) = locks s := by
  simp only [bitmapOr, locks_dspUpd8]

@[simp] theorem locks_vlogPut (x : Rule) (s : State) :
    locks (vlogPut x s) = locks s := by
  simp only [vlogPut, locks_modGate]

@[simp] theorem locks_denyPrecise (g : Nat) (w : Who) (n : Need) (a : Word) (len : Nat) (v : Verdict) (s : State) :
    locks (denyPrecise g w n a len v s) = locks s := by
  simp only [denyPrecise, locks_modGate, locks_vlogPut]

@[simp] theorem locks_setLane (i : Nat) (l : Lane) (s : State) :
    locks (setLane i l s) = locks s := by
  simp only [setLane, locks_modXbar]

@[simp] theorem locks_slotCountTo (now : Word) (s : State) :
    locks (slotCountTo now s) = locks s := by
  simp only [slotCountTo, locks_modXbar]

@[simp] theorem locks_slotCount (s : State) :
    locks (slotCount s) = locks s := by
  simp only [slotCount, locks_slotCountTo]

@[simp] theorem locks_modReq (p : XReq → Bool) (f : XReq → XReq) (s : State) :
    locks (modReq p f s) = locks s := by
  simp only [modReq, locks_modXbar]

@[simp] theorem locks_xask (r : XReq) (s : State) :
    locks (xask r s) = locks s := by
  simp only [xask, locks_modXbar, locks_setLane, apply_ite locks, ite_self]

@[simp] theorem locks_xpresentAll (idx ord : Nat) (dl : BitVec 20) (bs : List XBurst) (s : State) :
    locks (xpresentAll idx ord dl bs s) = locks s := by
  simp only [xpresentAll, locks_modReq, locks_slotCount, locks_wakeIsl, locks_xask, apply_ite locks, ite_self]

@[simp] theorem locks_xpresent (idx ord : Nat) (b : XBurst) (s : State) :
    locks (xpresent idx ord b s) = locks s := by
  simp only [xpresent, locks_xpresentAll]

@[simp] theorem locks_xCtl (n : Nat) (s : State) :
    locks (xCtl n s) = locks s := by
  simp only [xCtl, locks_xpresent]

@[simp] theorem locks_issueUpd8 (who : Who) (addr compare cmask value wmask add : Word) (pu : Purpose) (s : State) :
    locks (issueUpd8 who addr compare cmask value wmask add pu s).2 = locks s := by
  unfold issueUpd8
  dsimp only
  repeat' split
  all_goals simp
theorem locks_issueUpd8_pair {who : Who} {addr compare cmask value wmask add : Word} {pu : Purpose} {s : State} {b' : Iss} {t' : State}
    (hh : issueUpd8 who addr compare cmask value wmask add pu s = (b', t')) : locks t' = locks s :=
  (congrArg (fun p => locks p.2) hh).symm.trans (locks_issueUpd8 who addr compare cmask value wmask add pu s )

@[simp] theorem locks_dropIf (k : Discard) (p : Purpose → Bool) (s : State) :
    locks (dropIf k p s) = locks s := (rfl)

@[simp] theorem locks_writeBack (c : Nat) (s : State) :
    locks (writeBack c s) = locks s := by
  simp only [writeBack, locks_lmIssue]

@[simp] theorem locks_cacheUse (c : Nat) (changed : Bool) (s : State) :
    locks (cacheUse c changed s) = locks s := by
  unfold cacheUse
  dsimp only
  repeat' split
  all_goals simp

@[simp] theorem locks_enqueue (c : Nat) (s : State) :
    locks (enqueue c s) = locks s := by
  simp only [enqueue, locks_bitmapOr, locks_modDsp, apply_ite locks, ite_self]

@[simp] theorem locks_toReady (c : Nat) (s : State) :
    locks (toReady c s) = locks s := by
  simp only [toReady, locks_cacheUse, locks_enqueue, locks_modCtx, apply_ite locks, ite_self]

@[simp] theorem locks_unwatch (c : Nat) (s : State) :
    locks (unwatch c s) = locks s := (rfl)

@[simp] theorem locks_noticeClear (fn : Nat) (s : State) :
    locks (noticeClear fn s) = locks s := by
  simp only [noticeClear, locks_modFn]

@[simp] theorem locks_dropReads (k : Discard) (e : Nat) (s : State) :
    locks (dropReads k e s) = locks s := by
  simp only [dropReads, locks_dropIf]

end Sys2Proof.Machine
end

