-- ==== Sys2Proof/Laws/Engines.lean ====
section
/-! SUPPORT. What leaving an engine, stopping a channel and breaking its locks do: one lemma for each operation's effect. -/

namespace Sys2Proof.Machine

theorem getEng_of_engs {s t : State} (h : engs s = engs t) (e : Nat) : getEng s e = getEng t e := by
  simp only [engs] at h; simp only [getEng, h]

theorem getCtx_of_chans {s t : State} (h : chans s = chans t) (c : Nat) : getCtx s c = getCtx t c := by
  simp only [chans] at h; simp only [getCtx, h]

theorem quiesceStep_ctx (s : State) : chans (quiesceStep s) = chans s := by
  unfold quiesceStep; split <;> rfl

theorem quiesceStep_eng (s : State) : engs (quiesceStep s) = engs s := by
  unfold quiesceStep; split <;> rfl

theorem dropSpec_ctx (e : Nat) (s : State) : chans (dropSpec e s) = chans s := by
  unfold dropSpec; exact chans_dropReads .plain e s

theorem disown_ctx (e c : Nat) (s : State) : chans (disown e c s) = chans s := by
  unfold disown; exact chans_dropIf ..

/-- The entry that the record keeps of an engine (R404) touches nothing but power failure. -/
theorem keepEntry_dsp (e : Nat) (s : State) : (keepEntry e s).dsp = s.dsp := by unfold keepEntry; split <;> rfl

/-- The engine is free behind `leaveEng`. -/
theorem leaveEng_eng (e : Nat) (s : State) : getEng (leaveEng e s) e = {} := by
  unfold leaveEng
  rw [getEng_of_engs (quiesceStep_eng _)]
  simp

/-- Every other channel keeps its context behind `leaveEng`; the engine's own keeps all but its registers and marks. -/
theorem leaveEng_ctx (e : Nat) (s : State) (c : Nat) :
    (getCtx (leaveEng e s) c).st = (getCtx s c).st ∧ (getCtx (leaveEng e s) c).seqexp = (getCtx s c).seqexp ∧
    (getCtx (leaveEng e s) c).lastcode = (getCtx s c).lastcode ∧ (getCtx (leaveEng e s) c).pause = (getCtx s c).pause := by
  unfold leaveEng
  rw [getCtx_of_chans (quiesceStep_ctx _)]
  simp only [getCtx_modEng]
  have h := getCtx_of_chans ((disown_ctx e (chanOf s e) (dropSpec e (keepEntry e s))).trans (dropSpec_ctx e _)) c
  rw [getCtx_of_chans (s := keepEntry e s) (t := s) (congrArg Dsp.ctx (keepEntry_dsp e s)) c] at h
  by_cases hc : c = chanOf s e
  · subst hc; simp [h]
  · simp [hc, h]

/-- A stopped channel's context (R38). -/
theorem stopCtx_ctx (c : Nat) (code : Byte) (fl : Option Byte) (s : State) :
    (getCtx (stopCtx c code fl s) c).st = .stopped ∧ (getCtx (stopCtx c code fl s) c).lastcode = code ∧
    (getCtx (stopCtx c code fl s) c).lastflags = fl.getD (getCtx s c).lastflags ∧
    (getCtx (stopCtx c code fl s) c).abort = false ∧ (getCtx (stopCtx c code fl s) c).seqexp = (getCtx s c).seqexp := by
  unfold stopCtx
  rw [getCtx_of_chans (chans_breakOnLeave ..)]
  have : ∀ s : State, getCtx (dropTasks c (unwatch c (unqueue c s))) c = getCtx s c := fun _ => rfl
  simp [this]

theorem stopEng_ctx (e : Nat) (code : Byte) (fl : Option Byte) (s : State) :
    (getCtx (stopEng e code fl s) (chanOf s e)).st = .stopped ∧
    (getCtx (stopEng e code fl s) (chanOf s e)).lastcode = (if (getEng s e).ecc then 0x21 else code) := by
  unfold stopEng
  exact ⟨(stopCtx_ctx ..).1, (stopCtx_ctx ..).2.1⟩

theorem stopEng_eng (e : Nat) (code : Byte) (fl : Option Byte) (s : State) : getEng (stopEng e code fl s) e = {} := by
  unfold stopEng
  rw [getEng_of_engs (engs_stopCtx ..), leaveEng_eng]

theorem engOf_of_engs {s t : State} (h : engs s = engs t) (c : Nat) : engOf s c = engOf t c := by
  simp only [engs] at h; simp only [engOf, h]

/-- QREQ does not depend on who leaves an engine. -/
theorem leaveEng_qreq (e : Nat) (s : State) : (leaveEng e s).dsp.qreq = s.dsp.qreq := by
  unfold leaveEng quiesceStep
  have h : (dropSpec e (keepEntry e s)).dsp.qreq = s.dsp.qreq := by
    have := congrArg Dsp.qreq ((dspPart_dropReads .plain e (keepEntry e s)).trans (keepEntry_dsp e s))
    unfold dropSpec; exact this
  have h : (disown e (chanOf s e) (dropSpec e (keepEntry e s))).dsp.qreq = s.dsp.qreq := by
    refine Eq.trans ?_ h
    unfold disown; exact congrArg Dsp.qreq (dspPart_dropIf ..)
  dsimp only
  split <;> exact h

theorem breakOnLeave_qreq (c : Nat) (k : Option (BitVec 3)) (s : State) :
    (breakOnLeave c k s).dsp.qreq = s.dsp.qreq := congrArg Dsp.qreq (dspPart_breakOnLeave c k s)

theorem engs_xEng (e n : Nat) (s : State) : engs (xEng e n s) = engs s := by simp [xEng]
theorem engs_xTsv (n : Nat) (s : State) : engs (xTsv n s) = engs s := by simp [xTsv]

end Sys2Proof.Machine
end

