-- ==== Sys2Proof/Laws/Kept.lean ====
section
/-! SUPPORT. What the operations keep that do change the durable part of a state (a RAM, the rules or settings in force, READY,
WARN, CUT): the queue, the configuration, the canonical form of the byte stores, and each mark that is set. -/

namespace Sys2Proof.Machine

/-- From s to t the queue and the configuration stay, the byte stores stay canonical, and READY, WARN and CUT stay set. -/
def Kept (s t : State) : Prop :=
  t.pending = s.pending ∧ t.cfg = s.cfg ∧ (memOk s = true → memOk t = true) ∧
  (s.ctl.ready = true → t.ctl.ready = true) ∧ (s.pf.warn = true → t.pf.warn = true) ∧ (s.pf.cut = true → t.pf.cut = true)

theorem Kept.refl (s : State) : Kept s s := ⟨rfl, rfl, id, id, id, id⟩

theorem Kept.trans {s t u : State} (h : Kept s t) (k : Kept t u) : Kept s u :=
  ⟨k.1.trans h.1, k.2.1.trans h.2.1, k.2.2.1 ∘ h.2.2.1, k.2.2.2.1 ∘ h.2.2.2.1, k.2.2.2.2.1 ∘ h.2.2.2.2.1,
    k.2.2.2.2.2 ∘ h.2.2.2.2.2⟩

theorem Kept.of_durable {s t : State} (h : durable t = durable s) : Kept s t := by
  simp only [durable, Durable.mk.injEq] at h
  obtain ⟨h1, h2, h3, h4, h5, -, -, h6, h7, h8⟩ := h
  refine ⟨h1, h2, ?_, ?_, ?_, ?_⟩ <;> simp_all [memOk]

/-- An update of anything but the six. -/
theorem Kept.of_eq {s t : State} (h1 : t.pending = s.pending) (h2 : t.cfg = s.cfg) (h3 : t.cmem = s.cmem) (h4 : t.kram = s.kram)
    (h5 : t.rsram = s.rsram) (h6 : t.ctl.ready = s.ctl.ready) (h7 : t.pf.warn = s.pf.warn) (h8 : t.pf.cut = s.pf.cut) :
    Kept s t := by
  refine ⟨h1, h2, ?_, ?_, ?_, ?_⟩ <;> simp_all [memOk]

theorem Kept.before {s t u : State} (h : durable s = durable t) (k : Kept t u) : Kept s u :=
  (Kept.of_durable h.symm).trans k

theorem Kept.after {s t u : State} (k : Kept s t) (h : durable u = durable t) : Kept s u :=
  k.trans (Kept.of_durable h)

theorem kept_ite (p : Prop) [Decidable p] {z x y : State} (hx : Kept z x) (hy : Kept z y) : Kept z (if p then x else y) := by
  split <;> assumption

/-! ### The RAMs -/

theorem kept_cmem (s : State) (m : List Host.Cell) (h : Memory.wf s.cmem = true → Memory.wf m = true) :
    Kept s { s with cmem := m } :=
  ⟨rfl, rfl, by simp only [memOk]; intro k; simp_all, id, id, id⟩

theorem kept_kram (s : State) (m : List Host.Cell) (h : Memory.wf s.kram = true → Memory.wf m = true) :
    Kept s { s with kram := m } :=
  ⟨rfl, rfl, by simp only [memOk]; intro k; simp_all, id, id, id⟩

theorem kept_rsram (s : State) (m : List Host.Cell) (h : Memory.wf s.rsram = true → Memory.wf m = true) :
    Kept s { s with rsram := m } :=
  ⟨rfl, rfl, by simp only [memOk]; intro k; simp_all, id, id, id⟩

theorem wf_filter (p : Nat × Byte → Bool) (m : List Host.Cell) (h : Memory.wf m = true) : Memory.wf (m.filter p) = true :=
  twf_filter 0 p m 0 h

theorem wf_storeOf (l : List Host.Cell) : Memory.wf (storeOf l) = true := by
  have key : ∀ (l m : List Host.Cell), Memory.wf m = true → Memory.wf (l.foldl (fun m c => tset 0 m c.1 c.2) m) = true := by
    intro l
    induction l with
    | nil => exact fun m h => h
    | cons x l ih => exact fun m h => ih _ (twf_tset 0 m x.1 x.2 h)
  exact key l [] rfl

theorem wf_cmemPut (w : BufWrite) (m : List Host.Cell) (h : Memory.wf m = true) : Memory.wf (cmemPut w m) = true := by
  have key : ∀ (l : List (Word × List Byte)) (m : List Host.Cell), Memory.wf m = true →
      Memory.wf (l.foldl (fun m x => memWrite m w.addr.toNat x.2) m) = true := by
    intro l
    induction l with
    | nil => exact fun m h => h
    | cons x l ih => exact fun m h => ih _ (wf_memWrite m _ _ h)
  unfold cmemPut
  split
  · exact key _ m h
  · exact wf_memWrite m _ _ h

theorem kept_localWrite (r : Region) (a : Word) (d : List Byte) (s : State) : Kept s (localWrite r a d s) := by
  unfold localWrite
  split
  · exact (kept_kram s _ (wf_memWrite _ _ _)).after (durable_eccMend _ _ _)
  · split
    · exact Kept.refl s
    · exact (kept_rsram s _ (wf_memWrite _ _ _)).after (durable_eccMend _ _ _)
  · exact Kept.refl s

theorem kept_loadKram (im : Image) (s : State) : Kept s (loadKram im s) := by
  unfold loadKram
  split
  · exact (kept_kram s _ (wf_memWrite _ _ _)).after (durable_eccMend _ _ _)
  · exact Kept.refl s

theorem kept_loadBank (b : Bool) (im : Image) (s : State) : Kept s (loadBank b im s) := by
  unfold loadBank
  split
  · exact (kept_cmem s _ (wf_memWrite _ _ _)).after (durable_eccMend _ _ _)
  · exact Kept.refl s

theorem kept_clearRecords (s : State) : Kept s (clearRecords s) := kept_rsram s _ (wf_memWrite _ _ _)

theorem kept_writeRecord (s : State) : Kept s (writeRecord s) := by
  have key : ∀ (k : Nat) (b : List Byte) (n : Nat),
      Kept s (modPf (fun p => { p with cairn := true }) { s with rsram := memWrite s.rsram k b, free := n }) := by
    intro k b n
    have hw := wf_memWrite s.rsram k b
    generalize memWrite s.rsram k b = m at hw
    exact (kept_rsram s m hw).trans (Kept.of_eq rfl rfl rfl rfl rfl rfl rfl rfl)
  exact key _ _ _

theorem kept_undefLand : ∀ (l : List BufWrite) (s : State), Kept s (undefLand l s)
  | [], s => Kept.of_eq rfl rfl rfl rfl rfl rfl rfl rfl
  | w :: t, s => by
    unfold undefLand
    split
    · exact (kept_cmem s _ (wf_cmemPut w s.cmem)).trans (kept_undefLand t _)
    · exact Kept.of_eq rfl rfl rfl rfl rfl rfl rfl rfl

theorem kept_forAll {α : Type} (f : α → State → State) (h : ∀ x s, Kept s (f x s)) : ∀ (l : List α) (s : State), Kept s (forAll l f s)
  | [], s => Kept.refl s
  | x :: l, s => (h x s).trans (kept_forAll f h l (f x s))

/-! ### The end of a test -/

theorem kept_resetGroup (g : Nat) (s : State) : Kept s (resetGroup g s) := by
  unfold resetGroup
  split
  case h_4 => exact (kept_cmem s [] (fun _ => rfl)).after (durable_eccMend _ _ _)
  case h_9 => exact Kept.of_eq rfl rfl rfl rfl rfl rfl rfl rfl
  case h_10 =>
    split
    · exact Kept.of_durable (durable_resetEngs _ _)
    · exact Kept.refl s
  all_goals exact Kept.of_eq rfl rfl rfl rfl rfl rfl rfl rfl

theorem kept_resetAll (l : List (Bool × Nat)) (s : State) : Kept s (resetAll l s) := by
  unfold resetAll
  refine kept_forAll _ (fun x s => ?_) l s
  exact kept_ite _ (kept_resetGroup x.2 s) (Kept.of_durable (durable_resetIsland x.2 s))

theorem kept_resetTested (s : State) : Kept s (resetTested s) := by
  unfold resetTested
  dsimp only
  split
  · exact Kept.of_durable (durable_resetIsland _ _)
  · exact kept_resetGroup _ s
  · exact Kept.refl s

theorem kept_nextTest (s : State) : Kept s (nextTest s) := by
  unfold nextTest
  split
  · exact (kept_resetAll _ s).after (durable_startBedrock _)
  · exact Kept.of_durable (by simp)

theorem kept_afterTest (b : Bool) (s : State) : Kept s (afterTest b s) := by
  have h : ∀ u : State, Kept s u → Kept s (if u.ctl.phase == 3 then
      if b then bootHalt 0x0C (modCtl (fun c => { c with tests := [] }) u) else nextTest u else u) := fun u hu =>
    kept_ite _ (kept_ite _ (hu.after (by simp)) (hu.trans (kept_nextTest u))) hu
  unfold afterTest
  dsimp only
  refine h _ ?_
  split
  · exact Kept.of_durable (by simp)
  · exact Kept.refl s

theorem kept_testEnds (r : TestReport) (s : State) : Kept s (testEnds r s) := by
  have h : ∀ v : State, durable (evK 7 { v with st := { v.st with
      done := true, outcome := (testResult r s).1, failed := v.st.failed || (testResult r s).1 == 3 } }) = durable v :=
    fun v => (durable_evK 7 _).trans rfl
  unfold testEnds
  dsimp only
  refine Kept.trans (Kept.after ?_ (h _)) (kept_afterTest _ _)
  refine Kept.after ?_ (durable_testOver _)
  have hr : Kept s (testResult r s).2 := Kept.of_durable (durable_testResult r s)
  exact kept_ite _ hr (hr.trans (kept_resetTested _))

theorem kept_execSelftestDone {rep : TestReport} {s t : State} (h : execSelftestDone rep s = .next t) : Kept s t := by
  unfold execSelftestDone at h
  split at h
  · rw [← Host.Outcome.next.inj h]
    exact kept_testEnds rep s
  · rw [← Host.Outcome.next.inj h]
    exact Kept.refl s

/-! ### Start-up, images and requests -/

theorem kept_bedrockVerified (im : Image) (b : Bpb) (s : State) : Kept s (bedrockVerified im b s) := by
  unfold bedrockVerified
  dsimp only
  split
  · exact (kept_loadKram im s).after (by simp)
  · refine (kept_loadKram im s).trans (kept_ite _ ((Kept.of_durable ?_).trans (kept_nextTest _)) (Kept.of_durable ?_)) <;> simp

theorem kept_screeVerified (im : Image) (s : State) : Kept s (screeVerified im s) := by
  unfold screeVerified
  dsimp only
  split <;> exact (kept_loadBank false im s).after (by simp)

theorem kept_updateVerified (m : Nat) (im : Image) (s : State) : Kept s (updateVerified m im s) := by
  have h := kept_loadBank (!(s.ctl.phase == 6) && !s.ctl.bank) im s
  unfold updateVerified
  dsimp only
  split
  · exact h.after (by simp)
  · split <;> exact h.after (by simp)

theorem kept_execImageVerifyDone {im : Image} {b : Bpb} {s t : State} (h : execImageVerifyDone im b s = .next t) : Kept s t := by
  unfold execImageVerifyDone at h
  repeat' split at h
  all_goals cases h
  · exact Kept.refl s
  · exact kept_bedrockVerified im b s
  · exact kept_screeVerified im s
  · exact kept_updateVerified _ im s
  · exact Kept.refl s

theorem kept_zeroed (d : Dsp) (m : List Host.Cell) (s : State) (h : Memory.wf s.cmem = true → Memory.wf m = true) :
    Kept s (screeGo (modCtl (fun c => { c with zeroed := true }) (loadCairn (eccMend 0x800000 0x800000 { s with dsp := d, cmem := m })))) := by
  have h1 : Kept s { s with dsp := d, cmem := m } :=
    (kept_cmem s m h).trans (Kept.of_eq rfl rfl rfl rfl rfl rfl rfl rfl)
  exact h1.after (by simp only [durable_screeGo, durable_loadCairn, durable_eccMend, durable_modCtl, implies_true])

theorem kept_zeroEnds (s : State) : Kept s (zeroEnds s) := by
  have hw : ∀ p : Nat × Byte → Bool, Memory.wf s.cmem = true → Memory.wf (s.cmem.filter p) = true := fun p => wf_filter p _
  unfold zeroEnds
  dsimp only
  apply kept_zeroed
  apply hw

theorem kept_execStartupZeroDone {s t : State} (h : execStartupZeroDone s = .next t) : Kept s t := by
  unfold execStartupZeroDone at h
  split at h
  · rw [← Host.Outcome.next.inj h]; exact kept_zeroEnds s
  · rw [← Host.Outcome.next.inj h]; exact Kept.refl s

/-- A request that Bedrock serves keeps what its operation keeps. -/
theorem kept_serve (m cmd : Nat) (a b : Bool) (f : State → State) (s : State) (h : Kept (served m s) (f (served m s))) :
    Kept s (serve m cmd a b f s) := by
  have h0 : Kept s (served m s) := Kept.of_durable (durable_served m s)
  have hb : ∀ r d, Kept s (bedAnswer m r d [] (served m s)) := fun r d => h0.after (durable_bedAnswer _ _ _ _ _)
  replace h := h0.trans h
  have hi : ∀ (p : Prop) [Decidable p] (x y : State), Kept s x → Kept s y → Kept s (if p then x else y) := by
    intro p _ x y hx hy; split <;> assumption
  unfold serve
  dsimp only
  exact hi _ _ _ (Kept.refl s) (hi _ _ _ (hb _ _) (hi _ _ _ (Kept.refl s) (hi _ _ _ (hb _ _) (hi _ _ _ (hb _ _) h))))

theorem kept_execReady {m : Nat} {s t : State} (h : execReady m s = .next t) : Kept s t := by
  cases h
  apply kept_serve
  generalize served m s = s
  unfold serveReady
  split
  · exact Kept.of_durable (by simp)
  · exact Kept.after (t := modCtl (fun c => { c with ready := true, phase := 8 }) s)
      ⟨rfl, rfl, id, fun _ => rfl, id, id⟩ (by simp)

theorem kept_execCairnSet {m : Nat} {s t : State} (h : execCairnSet m s = .next t) : Kept s t := by
  cases h
  apply kept_serve
  generalize served m s = s
  unfold serveCairnSet
  dsimp only
  split
  · exact Kept.of_durable (by simp)
  · split
    · exact Kept.of_durable (by simp)
    · refine Kept.after (t := if bit (reqWord s m 1) 8 then clearRecords (modPf (fun p => { p with
        hcen := bit (reqWord s m 1) 0, hspace := bits (reqWord s m 1) 4 4, haddr := reqWord s m 2 }) s) else modPf (fun p => { p with
        hcen := bit (reqWord s m 1) 0, hspace := bits (reqWord s m 1) 4 4, haddr := reqWord s m 2 }) s) ?_ (by simp)
      have h1 : Kept s (modPf (fun p => { p with
        hcen := bit (reqWord s m 1) 0, hspace := bits (reqWord s m 1) 4 4, haddr := reqWord s m 2 }) s) :=
        Kept.of_eq rfl rfl rfl rfl rfl rfl rfl rfl
      split
      · exact h1.trans (kept_clearRecords _)
      · exact h1

/-! ### Buffered writes -/

theorem kept_execBufferedWriteLeave {b : BufTarget} {s t : State} (h : execBufferedWriteLeave b s = .next t) : Kept s t := by
  unfold execBufferedWriteLeave at h
  cases b with
  | port p =>
    dsimp only at h
    split at h
    · cases h; exact Kept.refl s
    split at h
    · cases h; exact Kept.refl s
    split at h
    · cases h; exact Kept.of_durable (by simp)
    split at h
    · cases h; exact Kept.refl s
    repeat' split at h
    all_goals (rw [← Host.Outcome.next.inj h]; exact Kept.of_durable (by simp))
  | ctl =>
    dsimp only at h
    split at h
    · cases h; exact Kept.refl s
    have hu := kept_undefLand s.cbuf s
    generalize undefLand s.cbuf s = s at *
    split at h
    · cases h; exact hu
    rename_i w rest _
    refine hu.trans ?_
    split at h
    · cases h
      exact Kept.after (t := { s with cbuf := rest }) (Kept.of_eq rfl rfl rfl rfl rfl rfl rfl rfl) (by simp)
    · cases h
      refine Kept.after (t := { s with cbuf := rest, cmem := cmemPut w s.cmem }) ?_
        ((durable_barrierStep _).trans (durable_eccMend _ _ _))
      exact (kept_cmem s _ (wf_cmemPut w s.cmem)).trans (Kept.of_eq rfl rfl rfl rfl rfl rfl rfl rfl)

/-! ### Seams -/

/-- An update of the settings, the rules, SEAMCNT, block time or anything of that kind. -/
theorem kept_swapShale (s : State) : Kept s (swapShale s) := by
  have h : ∀ (a : Shale) (n : BitVec 7) (q : Half), Kept s { s with active := a, shpend := n, shseam := q } :=
    fun a n q => Kept.of_eq rfl rfl rfl rfl rfl rfl rfl rfl
  unfold swapShale
  dsimp only
  refine kept_ite _ (Kept.refl s) ?_
  have h1 := h (swapped s.shpend s.active s.shadow) 0 s.seam
  generalize ({ s with active := swapped s.shpend s.active s.shadow, shpend := 0, shseam := s.seam } : State) = u at h1
  refine h1.after ?_
  rw [durable_wakeDeep]
  split
  · exact durable_wakePaced _ _
  · rfl

theorem kept_gateSeam (s : State) : Kept s (gateSeam s) := by
  unfold gateSeam
  split
  · rename_i m _ _
    have h : Kept s (modGate (swapRules (markOld m s) m) (markOld m s)) :=
      (Kept.of_durable (durable_markOld m s)).trans (Kept.of_eq rfl rfl rfl rfl rfl rfl rfl rfl)
    dsimp only
    refine h.after ?_
    rw [durable_barrierStep, durable_forAll _ _ (fun x s => durable_barrierFlushes x s),
      durable_forAll _ _ (fun x s => durable_specSeam m x s)]
  · exact Kept.refl s

theorem kept_seamRest (u : State) : Kept u (quernSeam (dspSeam (forAll ((xbarSeam u).port.map (·.1)) portSeam (xbarSeam u)))) := by
  refine Kept.of_durable ?_
  rw [durable_quernSeam, durable_dspSeam, durable_forAll _ _ (fun x s => durable_portSeam x s), durable_xbarSeam]

theorem kept_seamRules (u : State) : Kept u (forAll (List.range 16) epochSeam (gateSeam u)) :=
  (kept_gateSeam u).after (by rw [durable_forAll _ _ (fun x s => durable_epochSeam x s)])

theorem kept_doSeam (s : State) : Kept s (doSeam s) := by
  have h0 : ∀ (t : State) (b : Half), Kept t { t with seam := b } := fun t b => Kept.of_eq rfl rfl rfl rfl rfl rfl rfl rfl
  have h1 : ∀ t : Word, Kept s (timeTo t (if live s then frameEnd t (romStep s) else romStep s)) := by
    intro t
    refine Kept.of_durable ?_
    rw [durable_timeTo]
    split
    · exact (durable_frameEnd _ _).trans (durable_romStep s)
    · exact durable_romStep s
  have h2 : ∀ u : State, Kept u (trimSeam (
      let v := if u.pf.stage == .normal then swapShale u else u
      let w := quernSeam (dspSeam (forAll ((xbarSeam v).port.map (·.1)) portSeam (xbarSeam v)))
      if w.pf.stage == .normal then forAll (List.range 16) epochSeam (gateSeam w) else w)) := by
    intro u
    refine Kept.after ?_ (durable_trimSeam _)
    have h3 : Kept u (if u.pf.stage == .normal then swapShale u else u) := kept_ite _ (kept_swapShale u) (Kept.refl u)
    generalize (if u.pf.stage == .normal then swapShale u else u) = v at h3
    have h4 := h3.trans (kept_seamRest v)
    dsimp only
    generalize quernSeam (dspSeam (forAll ((xbarSeam v).port.map (·.1)) portSeam (xbarSeam v))) = w at h4
    exact kept_ite _ (h4.trans (kept_seamRules w)) h4
  have h3 := h1 (w64 ((s.time.toNat / 2560 + 1) * 2560))
  have h4 := h3.trans (h0 _ (inc32 (timeTo (w64 ((s.time.toNat / 2560 + 1) * 2560))
    (if live s then frameEnd (w64 ((s.time.toNat / 2560 + 1) * 2560)) (romStep s) else romStep s)).seam))
  exact kept_ite _ h4 (h4.trans (h2 _))

theorem kept_tick (s : State) : Kept s (tick s) := by
  unfold tick
  split
  · exact Kept.refl s
  split
  · exact kept_doSeam s
  · dsimp only
    exact Kept.of_durable (by rw [durable_slotTo, durable_romStep, durable_timeTo])

theorem kept_execSeam {s t : State} (h : execSeam s = .next t) : Kept s t := by
  unfold execSeam at h
  split at h
  · rw [← Host.Outcome.next.inj h]; exact Kept.refl s
  · rw [← Host.Outcome.next.inj h]; exact kept_doSeam s

/-! ### Power -/

theorem kept_raiseWarn (code : BitVec 10) (s : State) : Kept s (raiseWarn code s) := by
  have h0 : ∀ f : PowerFail → PowerFail, (∀ p, (f p).warn = true) → (∀ p, (f p).cut = p.cut) → Kept s (modPf f s) := by
    intro f hf hg
    exact ⟨rfl, rfl, id, id, fun _ => hf _, fun h => (hg _).trans h⟩
  unfold raiseWarn
  dsimp only
  refine (h0 (fun p => { p with
    warn := true, stage := .drain, warnTime := s.time, warnSeam := s.seam, railWarn := code, quiesced := s.dsp.qreq
    lockuse := s.lock.entries.length }) (fun _ => rfl) (fun _ => rfl)).after ?_
  rw [durable_barrierStep, durable_forAll _ _ (fun x s => durable_engAfter x s), durable_forAll _ _ (fun x s => durable_cutSpec x s)]
  have hd : ∀ v : State, durable (dropAllStaged v) = durable v := by intro v; simp
  rw [hd]
  split <;> simp

theorem kept_raiseCut (code : BitVec 10) (s : State) : Kept s (raiseCut code s) := by
  have h0 : ∀ v : State, Kept v (modPf (fun p => { p with stage := if p.stage == .hostcopy then .held else p.stage })
      (modPf (fun p => { p with cut := true }) v)) := fun v => ⟨rfl, rfl, id, id, id, fun _ => rfl⟩
  unfold raiseCut
  dsimp only
  split
  · exact h0 s
  · exact (kept_raiseWarn code s).trans (h0 _)

theorem kept_railEvents (code : BitVec 10) (u : State) : Kept u (railEvents code u) := by
  have h3 : Kept u (if !u.pf.warn && decide (max u.pf.warncnt.toNat 1 ≤ u.pf.low) then raiseWarn code u else u) :=
    kept_ite _ (kept_raiseWarn code u) (Kept.refl u)
  unfold railEvents
  refine kept_ite _ (Kept.refl u) ?_
  generalize (if !u.pf.warn && decide (max u.pf.warncnt.toNat 1 ≤ u.pf.low) then raiseWarn code u else u) = v at h3
  exact kept_ite _ (h3.trans (kept_raiseCut code v)) h3

theorem kept_execRailSample {code : BitVec 10} {s t : State} (h : execRailSample code s = .next t) : Kept s t := by
  unfold execRailSample at h
  split at h
  · rw [← Host.Outcome.next.inj h]; exact Kept.refl s
  · rw [← Host.Outcome.next.inj h]
    exact (Kept.of_durable (durable_takeSample code s)).trans (kept_railEvents code _)

theorem kept_drainEnds (s : State) : Kept s (drainEnds s) := by
  have h0 : ∀ f : PowerFail → PowerFail, (∀ p, (f p).warn = p.warn) → (∀ p, (f p).cut = p.cut) → ∀ s, Kept s (modPf f s) := by
    intro f hf hg s
    exact ⟨rfl, rfl, id, id, fun h => (hf _).trans h, fun h => (hg _).trans h⟩
  have h1 := h0 (fun p => { p with endTime := s.time, endSeam := s.seam, limit := drainWaits s, stage := .record })
    (fun _ => rfl) (fun _ => rfl) s
  have h2 : ∀ u : State, Kept u (if (writeRecord u).pf.hcen then hostCopy (writeRecord u)
      else modPf (fun p => { p with stage := .held }) (writeRecord u)) := by
    intro u
    have h := kept_writeRecord u
    generalize writeRecord u = v at h
    exact kept_ite _ (h.after (durable_hostCopy v)) (h.trans (h0 _ (fun _ => rfl) (fun _ => rfl) v))
  unfold drainEnds
  exact kept_ite _ h1 (h1.trans (h2 _))

theorem kept_execDrainEnd {s t : State} (h : execDrainEnd s = .next t) : Kept s t := by
  unfold execDrainEnd at h
  split at h
  · rw [← Host.Outcome.next.inj h]; exact kept_drainEnds s
  · rw [← Host.Outcome.next.inj h]; exact Kept.refl s

/-! ### Stores of a core -/

/-- A core's instruction keeps what its own effect keeps. -/
theorem kept_runCore {c o : Nat} {sub : Option Nat} {f : Word → State → State} {s t : State} (hf : ∀ w u, Kept u (f w u))
    (h : runCore c o sub f s = .next t) : Kept s t := by
  unfold runCore at h
  dsimp only at h
  split at h
  · rw [← Host.Outcome.next.inj h]; exact Kept.refl s
  split at h
  · rw [← Host.Outcome.next.inj h]
    exact Kept.of_durable ((durable_coreFault _ _ _ _).trans (durable_coreFetch_fault (by assumption)))
  · split at h
    · rw [← Host.Outcome.next.inj h]
      exact Kept.of_durable ((durable_illegal _ _).trans (durable_coreFetch_bytes (by assumption)))
    · split at h
      · rw [← Host.Outcome.next.inj h]
        exact (Kept.of_durable (durable_coreFetch_bytes (by assumption))).trans (hf _ _)
      · rw [← Host.Outcome.next.inj h]; exact Kept.refl s

theorem kept_doSt (c : Nat) (w : Word) (s : State) : Kept s (doSt c w s) := by
  have hl : ∀ r a d, Kept s (retireCore c id (localWrite r a d s)) := fun r a d =>
    (kept_localWrite r a d s).after (durable_retireCore _ _ _)
  have hd : ∀ v : State, durable v = durable s → Kept s v := fun v h => Kept.of_durable h
  unfold doSt
  dsimp only
  split
  · exact hd _ (durable_illegal _ _)
  split
  · exact hd _ (durable_coreFault _ _ _ _)
  split
  · split
    · have h : ∀ b, Kept s { s with cbuf := b } := fun b => Kept.of_eq rfl rfl rfl rfl rfl rfl rfl rfl
      exact (h _).after (durable_retireCore _ _ _)
    · exact Kept.refl s
  · exact hl _ _ _
  · exact hl _ _ _
  · exact hd _ (durable_retireCore _ _ _)
  · exact hd _ (durable_coreFault _ _ _ _)

theorem kept_execSt {c : Nat} {s t : State} (h : execSt c s = .next t) : Kept s t := kept_runCore (fun w u => kept_doSt c w u) h

theorem kept_doAmo (c : Nat) (w : Word) (s : State) : Kept s (doAmo c w s) := by
  have hm : ∀ m : List Host.Cell, (Memory.wf s.cmem = true → Memory.wf m = true) → Kept s { s with cmem := m } := kept_cmem s
  have ha : ∀ (a old : Word) (p : List Byte → State → State) (u : State), (∀ d, Kept u (p d u)) → Kept u (amoAt c w a old p u) := by
    intro a old p u hp
    unfold amoAt
    exact (hp _).after (durable_retireCore _ _ _)
  unfold doAmo
  dsimp only
  split
  · exact Kept.of_durable (durable_illegal _ _)
  split
  · exact Kept.of_durable (durable_coreFault _ _ _ _)
  split
  · split
    · exact Kept.refl s
    split
    · exact Kept.of_durable ((durable_coreFault _ _ _ _).trans (durable_coreGate (by assumption)))
    · split
      · exact (Kept.of_durable (durable_sramRead_bytes (by assumption))).trans
          (ha _ _ _ _ (fun d => (kept_cmem _ _ (wf_memWrite _ _ _)).after (durable_eccMend _ _ _)))
      · exact Kept.of_durable ((durable_coreFault _ _ _ _).trans (durable_sramRead_fault (by assumption)))
  · split
    · exact (Kept.of_durable (durable_coreRead_bytes (by assumption))).trans (ha _ _ _ _ (fun d => kept_localWrite _ _ d _))
    · exact Kept.of_durable ((durable_coreFault _ _ _ _).trans (durable_coreRead_fault (by assumption)))
  · split
    · exact (Kept.of_durable (durable_coreRead_bytes (by assumption))).trans (ha _ _ _ _ (fun d => kept_localWrite _ _ d _))
    · exact Kept.of_durable ((durable_coreFault _ _ _ _).trans (durable_coreRead_fault (by assumption)))
  · exact Kept.of_durable (durable_coreFault _ _ _ _)

theorem kept_execAmo {c : Nat} {s t : State} (h : execAmo c s = .next t) : Kept s t := kept_runCore (fun w u => kept_doAmo c w u) h

/-! ### Reset -/

/-- A reset keeps the queue, the configuration and the canonical form; the marks go. -/
theorem resetState_kept (b : Bool) (s : State) :
    (resetState s b).pending = s.pending ∧ (resetState s b).cfg = s.cfg ∧ (memOk s = true → memOk (resetState s b) = true) := by
  refine ⟨rfl, rfl, fun h => ?_⟩
  simp only [memOk, Bool.and_eq_true] at h
  have : memOk (resetState s b) = (Memory.wf ([] : List Host.Cell) && Memory.wf ([] : List Host.Cell) &&
      Memory.wf (if s.cfg.standby then s.rsram else [])) := rfl
  rw [this]
  split
  · rw [h.2]; rfl
  · rfl

/-- The state a test through the test access port leaves keeps the queue and the configuration, in canonical form. -/
theorem undefState_kept (s : State) :
    (undefState s).pending = s.pending ∧ (undefState s).cfg = s.cfg ∧ memOk (undefState s) = true := by
  refine ⟨rfl, rfl, ?_⟩
  show (Memory.wf (storeOf _) && Memory.wf (storeOf _) && Memory.wf (storeOf _)) = true
  simp only [wf_storeOf, Bool.and_self]

end Sys2Proof.Machine
end

