-- ==== Sys2Proof/Laws/Mail.lean ====
section
/-! SUPPORT. What the mailbox operations leave: POST, ANSWER, Bedrock's answer, and the words they move. -/

namespace Sys2Proof.Machine

/-- The words put from a word number on, and the others. -/
theorem tget_putWords (ws : List Word) (w : Nat) (t : Tbl Word) (j : Nat) :
    tget 0 (putWords w ws t) j = if w ≤ j ∧ j < w + ws.length then ws.getD (j - w) 0 else tget 0 t j := by
  induction ws generalizing w t with
  | nil => simp [putWords]
  | cons v vs ih =>
    simp only [putWords, ih, List.length_cons, tget_tset]
    rcases Nat.lt_trichotomy j w with h | h | h
    · rw [if_neg (by omega), if_neg (by omega), if_neg (by omega)]
    · subst h; rw [if_neg (by omega), if_pos rfl, if_pos (by omega)]; simp
    · obtain ⟨k, rfl⟩ : ∃ k, j = w + 1 + k := ⟨j - (w + 1), by omega⟩
      by_cases hk : w + 1 + k < w + (vs.length + 1)
      · rw [if_pos (by omega), if_pos (by omega), show w + 1 + k - (w + 1) = k by omega, show w + 1 + k - w = k + 1 by omega,
          List.getD_cons_succ]
      · rw [if_neg (by omega), if_neg (by omega), if_neg (by omega)]

theorem getMbx_mbxPost (m k : Nat) (s : State) : getMbx (mbxPost m s) k = if k = m then { getMbx s m with busy := true } else getMbx s k := by
  unfold mbxPost
  split
  · rename_i h
    by_cases hk : k = m
    · subst hk; simp only [if_true]; rw [← h]
    · simp [hk]
  · dsimp only; (repeat' split) <;> simp_all [evS, evK]

theorem ctl_mbxPost (m : Nat) (s : State) : (mbxPost m s).ctl = if (getMbx s m).busy then s.ctl
    else if m = 9 then { s.ctl with evpends := s.ctl.evpends ||| 2 }
    else if m = 10 then { s.ctl with evpends := s.ctl.evpends ||| 4 } else { s.ctl with evpendk := s.ctl.evpendk ||| 1 } := by
  unfold mbxPost; dsimp only
  (repeat' split) <;> simp_all [evS, evK] <;> rfl

@[simp] theorem core_mbxPost (m : Nat) (s : State) : (mbxPost m s).core = s.core := by
  unfold mbxPost; dsimp only; (repeat' split) <;> rfl

/-- An answer to a posted request ends BUSY and sets DONE; to another nothing. -/
theorem getMbx_mbxDone (m k : Nat) (s : State) : getMbx (mbxDone m s) k =
    if k = m ∧ (getMbx s m).busy = true then { getMbx s m with busy := false, done := true } else getMbx s k := by
  unfold mbxDone
  split
  · simp_all
  · dsimp only; by_cases hk : k = m <;> (repeat' split) <;> simp_all [evS, evK]

theorem ctl_mbxDone (m : Nat) (s : State) (h : (getMbx s m).busy = true) : (mbxDone m s).ctl =
    if m = 9 then { s.ctl with evpendk := s.ctl.evpendk ||| 2 }
    else if m < 8 then { s.ctl with evpends := s.ctl.evpends ||| 1 } else s.ctl := by
  unfold mbxDone; dsimp only
  simp only [h]
  (repeat' split) <;> simp_all [evS, evK] <;> rfl

@[simp] theorem core_mbxDone (m : Nat) (s : State) : (mbxDone m s).core = s.core := by
  unfold mbxDone; dsimp only; (repeat' split) <;> rfl
@[simp] theorem gate_mbxDone (m : Nat) (s : State) : (mbxDone m s).gate = s.gate := by
  unfold mbxDone; dsimp only; (repeat' split) <;> rfl

/-- Bedrock's answer to a posted request. -/
theorem getMbx_bedAnswer (m result : Nat) (detail : Half) (ws : List Word) (s : State) (h : (getMbx s m).busy = true) (k : Nat) :
    getMbx (bedAnswer m result detail ws s) k = if k = m then { getMbx s m with
      busy := false, done := true
      rsp := putWords 1 ws (tset 0 (getMbx s m).rsp 0
        (w64 result ||| w64 (fld (reqWord s m 0) 16 16 * 2 ^ 16) ||| put 64 detail 32)) } else getMbx s k := by
  unfold bedAnswer; dsimp only
  rw [getMbx_mbxDone]
  by_cases hk : k = m <;> simp [hk, h]

@[simp] theorem core_bedAnswer (m result : Nat) (detail : Half) (ws : List Word) (s : State) : (bedAnswer m result detail ws s).core = s.core := by
  unfold bedAnswer; simp
@[simp] theorem gate_bedAnswer (m result : Nat) (detail : Half) (ws : List Word) (s : State) : (bedAnswer m result detail ws s).gate = s.gate := by
  unfold bedAnswer; simp

/-- RESULT, TAG and DETAIL of Bedrock's answer. -/
theorem rsp_bedAnswer (m result : Nat) (detail : Half) (ws : List Word) (s : State) (h : (getMbx s m).busy = true) (hr : result < 256) :
    let t := bedAnswer m result detail ws s
    fld (rspWord t m 0) 0 8 = result ∧ fld (rspWord t m 0) 16 16 = fld (reqWord s m 0) 16 16 ∧ bits (rspWord t m 0) 32 32 = detail ∧
      (∀ i, i < ws.length → rspWord t m (i + 1) = ws.getD i 0) := by
  intro t
  have h0 : ∀ j, rspWord t m j = tget 0 (putWords 1 ws (tset 0 (getMbx s m).rsp 0
      (w64 result ||| w64 (fld (reqWord s m 0) 16 16 * 2 ^ 16) ||| put 64 detail 32))) j := by
    intro j; simp only [t, rspWord, getMbx_bedAnswer m result detail ws s h, if_true]
  have h1 : rspWord t m 0 = w64 result ||| w64 (fld (reqWord s m 0) 16 16 * 2 ^ 16) ||| put 64 detail 32 := by
    rw [h0, tget_putWords, if_neg (by omega), tget_tset, if_pos rfl]
  have hf : fld (reqWord s m 0) 16 16 < 65536 := Nat.mod_lt _ (by decide)
  generalize fld (reqWord s m 0) 16 16 = g at h1 hf ⊢
  obtain ⟨r, rfl⟩ : ∃ r : BitVec 8, r.toNat = result := ⟨BitVec.ofNat 8 result, by simp; omega⟩
  obtain ⟨g', rfl⟩ : ∃ r : BitVec 16, r.toNat = g := ⟨BitVec.ofNat 16 g, by simp; omega⟩
  have e1 : w64 r.toNat = r.zeroExtend 64 := by
    apply BitVec.eq_of_toNat_eq; simp [w64]
  have e2 : w64 (g'.toNat * 2 ^ 16) = (g'.zeroExtend 64) <<< 16 := by
    apply BitVec.eq_of_toNat_eq; simp [w64, Nat.shiftLeft_eq]
  have hb : ∀ i, (rspWord t m 0).getLsbD i = (r.getLsbD i || (decide (16 ≤ i) && decide (i < 64) && g'.getLsbD (i - 16)) || (decide (32 ≤ i) && decide (i < 64) && detail.getLsbD (i - 32))) := by
    intro i
    rw [h1, e1, e2, put]
    simp only [BitVec.getLsbD_or, BitVec.getLsbD_shiftLeft, BitVec.truncate_eq_setWidth, BitVec.getLsbD_setWidth]
    by_cases a1 : i < 64
    · have : i - 16 < 64 := by omega
      have : i - 32 < 64 := by omega
      have b1 : (!decide (i < 16)) = decide (16 ≤ i) := by rw [Bool.eq_iff_iff]; simp
      have b2 : (!decide (i < 32)) = decide (32 ≤ i) := by rw [Bool.eq_iff_iff]; simp
      simp only [a1, this, b1, b2, decide_true, Bool.true_and, Bool.and_true]
      have c1 : i - 16 < 64 := by omega
      simp only [c1, decide_true, Bool.true_and]
    · have e8 : r.getLsbD i = false := BitVec.getLsbD_of_ge _ _ (by omega)
      simp [a1, e8]
  have key : ∀ (n lo : Nat) (x : BitVec n), (∀ i, i < n → (rspWord t m 0).getLsbD (lo + i) = x.getLsbD i) → fld (rspWord t m 0) lo n = x.toNat := by
    intro n lo x hx
    have : BitVec.extractLsb' lo n (rspWord t m 0) = x := by
      apply BitVec.eq_of_getLsbD_eq; intro i hi; simp [BitVec.getLsbD_extractLsb', hi, hx]
    rw [← this]; simp [fld, BitVec.extractLsb'_toNat]
  refine ⟨key 8 0 r ?_, key 16 16 g' ?_, ?_, fun i hi => ?_⟩
  · intro i hi; rw [hb]; simp; rw [decide_eq_false (by omega : ¬ 16 ≤ i), decide_eq_false (by omega : ¬ 32 ≤ i)]; simp
  · intro i hi; rw [hb]
    have : r.getLsbD (16 + i) = false := BitVec.getLsbD_of_ge _ _ (by omega)
    have e : ¬ (32 ≤ 16 + i) := by omega
    have e' : 16 + i < 64 := by omega
    simp [this, e, e']
  · apply BitVec.eq_of_getLsbD_eq; intro i hi
    simp only [bits, BitVec.getLsbD_extractLsb', hi, decide_true, Bool.true_and]; rw [hb]
    have : r.getLsbD (32 + i) = false := BitVec.getLsbD_of_ge _ _ (by omega)
    have e3 : g'.getLsbD (32 + i - 16) = false := BitVec.getLsbD_of_ge _ _ (by omega)
    have e' : 32 + i < 64 := by omega
    simp [this, e', e3]
  · rw [h0, tget_putWords, if_pos (by omega)]; simp

end Sys2Proof.Machine
end

