-- ==== Sys2Proof/Tests/Slice0.lean ====
section
/-! SUPPORT. The model's own checks: ill-formed operands that WellFormed refuses; the spec's worked examples, one step each;
and, for each statement of Certificates/Slice0/Obligations.lean, states and operands that meet the hypotheses of its clauses. -/

namespace Sys2Proof.Tests

open Sys2Proof.Machine

section
set_option Elab.async false

/-- The block READY, Bedrock and Scree running. -/
def up : State := modCtl (fun c => { c with phase := 8, ready := true, zeroed := true, run := 0xFF, halted := 0 }) State.reset
/-- Function 1 at a level, with channel 2 its own. -/
def chan (l : BitVec 4) (x : Ctx) : State :=
  modCtx 2 (fun _ => { x with ov := true, owner := 1 }) (modFn 1 (fun f => { f with level := l, chsel := 2, mir := { present := true, pf := true, bme := true } }) up)
/-- Engine 0 at the first word of a program. -/
def prog (l : BitVec 4) (r : Regs) (ws : List Word) : State :=
  modEng 0 (fun x => { x with hold := .chan 2, main :=
    { phase := .exec, words := w64 (ws.length * 2 ^ 56) :: ws, regs := { r with pc := 8 } } }) (chan l { st := .running, swlimit := w64 (2 ^ 64 - 1), dwlimit := w64 (2 ^ 64 - 1) })
/-- The same on its speculative thread. -/
def ahead (s : State) : State := modEng 0 (fun x => { x with spec := some x.main }) s
/-- The same for movement work of KC. -/
def work (s : State) : State := modEng 0 (fun x => { x with hold := .work 8 0 }) s
/-- An instruction word: opcode, upper bits from bit 48, OPD. -/
def ins (op hi opd : Nat) : Word := w64 (op * 2 ^ 56 + hi * 2 ^ 48 + opd)
/-- Engine 0 at a level 1 descriptor. -/
def quern (ws : List Word) : State := modMain 0 (fun t => { t with words := ws }) (prog 1 {} [])
/-- Instance 15 runs, owned by function 1. -/
def tab (s : State) : State := modInst 15 (fun x => { x with st := .run, en := true, ownv := true, owner := 1 }) s
/-- Engine 0 with its main thread in a phase. -/
def atPhase (p : Phase) (l : BitVec 4) : State := modMain 0 (fun t => { t with phase := p }) (prog l {} [])
/-- A move in progress on engine 0, of 8 bytes from S to D in local memory. -/
def moving : Move := { n0 := 8, s0 := 0, d0 := 64, sinc := true, dinc := true, swap := 0, sspace := 0, dspace := 0 }
def atMove (m : Move) : State := modMain 0 (fun t => { t with mv := some m }) (atPhase .moving 3)
/-- A word of the control profile: opcode, MOD, IMM from bit 16, and the low 16 bits (I, RB, RA, RD). -/
def cw (op m imm lo : Nat) : Word := w64 (op * 2 ^ 56 + m * 2 ^ 48 + imm * 2 ^ 16 + lo)
/-- Core c at the words ws in control memory. -/
def cpu (c : Nat) (x : Core) (ws : List Word) : State :=
  { up with cmem := memWrite [] 0x1000 (bytesOfWords ws), core := [(c, { x with pc := 0x1000 })] }
/-- The state after core c has fetched. -/
def fetched (s : State) (c : Nat) : State := match coreFetch c (getCore s c).pc s with | .bytes _ v => v | .fault _ v => v
/-- An image: type, ISAREV, CONFIG, BODYLEN as given, the other fields sound. -/
def imageOf (magic ty rev cfg bodylen : Nat) (readOk : Bool) : Image :=
  { header := bytesOf (w64 magic) 4 ++ [1, 0, BitVec.ofNat 8 ty, 0, BitVec.ofNat 8 rev, BitVec.ofNat 8 cfg, 0, 0, 1, 0, 0, 0] ++
      bytesOf (w64 bodylen) 4 ++ List.replicate 236 0, body := [0, 0, 0, 0, 0, 0, 0, 0], readOk := readOk }
/-- The sound image of a type, signed with the private key 1. -/
def signedImage (ty : Nat) : Image :=
  let i := imageOf 0x48545256 ty 3 3 8 true
  { i with header := i.header.take 128 ++ bigBytes (if ty = 1 then
      0x7AE9E1DB1160794C70C1EF071BE5191F6C66240F4608FBE8A44ECD36C3ED5DB97500F2E4D84E3FB45850FD6F4303302BDDA7FA4296D9E4C49F770103EB0E262166B58F87E97AB1569FF1B278118D1022B9AF415A8301FAADC6EF671201D8FE1B
    else
      0x7AE9E1DB1160794C70C1EF071BE5191F6C66240F4608FBE8A44ECD36C3ED5DB97500F2E4D84E3FB45850FD6F4303302B3B6204C5B3BC2F23530BDA6A9DED5FE007909E567472B1AA853D0793D0E84490BC21C0ADAFBBA8688D6DD2636E9CEB74) 96 ++
    List.replicate 32 0 }
/-- Key 0 stands in the key block of KRAM. -/
def keyed (s : State) : State := { s with kram := memWrite (memWrite [] 0x10 [96, 0, 0, 0]) 256 (bigBytes romKey.toNat 96) }

/-! ### WellFormed: an ill-formed term for each check, refused -/

theorem test_wf_refuses_requesters_and_offsets :
    [Instr.registerWrite (.cc 8) 0 0, .registerWrite .mp 2 0, .lowerHalfRead (.host 4 0) 0, .lowerHalfRead .mp 1,
     .lowerHalfWrite (.host 0 4096) 0 0, .lowerHalfWrite .kc 6 0, .btimeloRead (.cc 9), .quiesceRequest (.cc 8),
     .lockBreakCommand (.cc 8), .gateBarrierArm (.cc 8), .xbarFreeze (.cc 8) true, .sharm (.cc 8) 0, .vlogrdWrite (.cc 8) 0,
     .tevrdWrite (.cc 8) 0, .ccctlWrite (.cc 8) 0, .bootGo (.cc 8) true, .logicTest (.cc 8) 0, .memoryTest (.cc 8) 0,
     .infieldTest (.cc 8) 0, .quiesceRelease (.cc 8)].all (fun i => !i.wf) = true := by decide
theorem test_wf_refuses_channels_and_engines :
    [Instr.doorbell 5 0 none none, .doorbell 0 4096 none none, .doorbellApply 5, .lmUpd8Response 2 0 .ok 0,
     .lmUpd8Response 0 1024 .ok 0, .chCtlGo 4096, .versionRequest 4096 1, .descriptorRead 32 true, .descriptorReadDone 32,
     .lds 32, .tins 32 .ok, .sourceBurstIssue 32, .controlMemoryReadData 32, .lmReadData 2 0 .ok [], .lmReadData 0 1024 .ok [],
     .lmReadData 0 0 .ok (List.replicate 129 0), .lmWriteResponse 2 0 .ok, .lmWriteResponse 0 1024 .ok, .ctxEccError 8388608,
     .leaseExpiry 4].all (fun i => !i.wf) = true := by decide +kernel
theorem test_wf_refuses_ports_and_arbiters :
    [Instr.hostCompletionPiece 4 ⟨0, 0, false, false, 0, []⟩, .hostCompletionPiece 0 ⟨0, 0, false, false, 0, List.replicate 513 0⟩,
     .completionTimeout 4 0, .completionTimeout 0 4096, .clusterDecision 64, .laneDrop 44, .xbarRepresent 128,
     .clusterFreeze .kc 64 true, .clusterFreeze (.cc 8) 0 true, .gateRuleWrite .kc 64 0 0, .gateRuleWrite .kc 0 4 0,
     .gateRuleWrite (.cc 8) 0 0 0, .bufferedWriteLeave (.port 1024), .bufferedWriteAck (.port 1024), .functionMirrorUpdate 4096 {},
     .intxSend 4096, .flrAck .kc 4 0, .flrAck (.cc 8) 0 0, .hostTargetAccess 4 ⟨0, 0, true, false, 0⟩,
     .hostTargetAccess 0 ⟨0, 2, true, false, 0⟩, .hostTargetAccess 0 ⟨0, 4, true, true, 0⟩, .linkEnable .kc 1024,
     .linkEnable (.cc 8) 0, .linkRetrain 1024 (.written .kc), .ignoredSidebandByte 1024 0, .portRdata 1024 [],
     .tsvmsg 1024 default [],
     .portVersion 1024 default []].all (fun i => !i.wf) = true := by decide +kernel
theorem test_wf_refuses_tables_and_control :
    [Instr.ageTick 16, .relocationStashWriteDone 16 .ok, .tableEnable .kc 16, .tableEnable (.cc 8) 0, .mailboxPost .kc 11,
     .mailboxAnswer (.cc 8) 0, .gateRule 11, .cairnSet 11, .ld 9, .timer 9, .movework 9 0, .movework 0 4, .evpost 0 4,
     .islandClkstop 82, .agingMeasure 82 0].all (fun i => !i.wf) = true := by decide
theorem test_wf_accepts :
    [Instr.registerWrite (.host 3 4095) 0x140A024 0, .lmReadData 1 1023 .ok (List.replicate 128 0), .timer 8, .lds 31,
     .hostTargetAccess 3 ⟨1023, 0x10, true, true, 0⟩, .tsvmsg 1023 default (List.replicate 63 default)].all (·.wf) = true := by
  decide +kernel

/-! ### Tests: expected values from the spec's worked examples and register tables -/

/-- The state a command leaves. -/
def run (c : Instr) (s : State) : State :=
  match exec c s with
  | .next t => t
  | _ => s
/-- What a port of four-byte reads answers to the management processor. -/
def peek (a : Nat) (s : State) : Half := (run (.lowerHalfRead .mp a) s).out.rp

/-- 02, example of a direct-mode move: the context of channel 0x7C01 and the page of function 0x40A. -/
def direct : State :=
  modCtx 0x7C01 (fun x => { x with ov := true, owner := 0x40A, swspace := 2, swbase := 0x80000000, swlimit := 0x8000FFFC,
                                   dwbase := 0x100000000, dwlimit := 0x1000FFFFC, nspace := 2, notify := 0x80010000 })
    (modFn 0x40A (fun f => { f with level := 2, chsel := 0x7C01, stS := 0x80000200, stD := 0x100004000, stN := 0x800,
                                    mir := { present := true, pf := true, bme := true } }) up)
theorem test_go_direct :
    let c := getCtx (run (.registerWrite (.host 1 0x40A) 0x140A024 0x20E9) direct) 0x7C01
    c.st = .ready ∧ c.direct = true ∧ c.ntfy = true ∧ c.regs.s = 0x80000200 ∧ c.regs.d = 0x100004000 ∧ c.regs.n = 0x800 ∧
      c.regs.sinc = true ∧ c.regs.dinc = true ∧ c.regs.sspace = 2 ∧ c.regs.dspace = 0 := by decide +kernel
theorem test_dispatch_lowest_engine :
    let t := run .dispatch (run (.registerWrite (.host 1 0x40A) 0x140A024 0x20E9) direct)
    (getEng t 0).hold = .chan 0x7C01 ∧ (getCtx t 0x7C01).st = .running := by decide +kernel

/-- 05, the append race: function 0x0C3 owns channel 0x02_0040, running with SEQSEEN 0x10. -/
def race : State :=
  modDsp (fun d => { d with fifo := [(0, [⟨0x0C3, 0x11, 0x020040⟩])] })
    (modCtx 0x020040 (fun x => { x with ov := true, owner := 0x0C3, st := .running, pcv := true, seqseen := 0x10, seqexp := 0x11 })
      (modFn 0x0C3 (fun f => { f with level := 2, mir := { present := true, pf := true, bme := true } }) up))
theorem test_doorbell_word :
    fifoOf (run (.doorbell 0 0x0C3 (some 0x00020040) (some 0x00001100)) up) 0 = [⟨0x0C3, 0x11, 0x020040⟩] := by decide +kernel
theorem test_doorbell_seen :
    let c := getCtx (run (.doorbellApply 0) race) 0x020040
    c.seqseen = 0x11 ∧ c.st = .running := by decide +kernel

/-- 18, a doorbell fold: the FIFO of HPT0 is full. -/
def folding : State :=
  modDsp (fun d => { d with ctxbase := 0x1000000000, psbase := 0x1400000000, fifo := [(0, List.replicate 4096 ⟨0, 0, 0⟩)] })
    (modFn 0x0C3 (fun f => { f with level := 2, mir := { present := true, pf := true, bme := true } }) up)
theorem test_fold_request :
    (run (.doorbell 0 0x0C3 (some 0x00031000) (some 0x00002500)) folding).lm.map
      (fun r => [r.addr, r.compare, r.cmask, r.value, r.wmask, r.add]) =
      [[0x1001880078, 0x10C3, 0x1FFF, 0x258000000000, 0xFFFFFF8000000000, 0]] := by decide +kernel
theorem test_fold_value : upd8 0x2400000010C3 0x10C3 0x1FFF 0x258000000000 0xFFFFFF8000000000 0 = 0x2580000010C3 := by decide

/-- 03, one descriptor assembled: its program on engine 0, from a given word. -/
def assembled (k : Nat) (r : Regs) : State :=
  modEng 0 (fun x => { x with hold := .chan 2, main :=
    { phase := .exec, regs := { r with pc := w64 (0x1030000000 + 8 * k), pspace := 1 }, a := 0x1030000000, aspace := 1, seen := 7, accessed := true
      words := [0x86000007000000A1, 0x1300001040100000, 0x1001001040000000, 0x1100000200000000, 0x1200000000001000,
                0x200B000000000000, 0x3201000000000000] } })
    (chan 2 { st := .running, pcv := true, swspace := 1, swbase := 0x1040000000, swlimit := 0x1040000FFC, dwbase := 0x200000000
              dwlimit := 0x200000FFC, seqseen := 7, seqexp := 7 })
/-- The registers of engine 0. -/
def r0 (s : State) : Regs := (getEng s 0).main.regs
theorem test_ldk : (r0 (run (.ldk 0) (assembled 1 {}))).k0 = 0x1040100000 := by decide +kernel
theorem test_lds :
    let r := r0 (run (.lds 0) (assembled 2 {}))
    r.s = 0x1040000000 ∧ r.sspace = 1 := by decide +kernel
theorem test_ldd :
    let r := r0 (run (.ldd 0) (assembled 3 {}))
    r.d = 0x200000000 ∧ r.dspace = 0 := by decide +kernel
theorem test_ldn : (r0 (run (.ldn 0) (assembled 4 {}))).n = 4096 := by decide +kernel
theorem test_move :
    ((getEng (run (.move 0) (assembled 5 { s := 0x1040000000, sspace := 1, d := 0x200000000, n := 4096 })) 0).main.mv).map
      (fun m => (m.n0, m.s0, m.d0, m.sinc, m.dinc, m.swap)) = some (4096, 0x1040000000, 0x200000000, true, true, 2) := by
  decide +kernel
theorem test_notify :
    ((getHp (run (.notify 0) (assembled 6 { k0 := 0x1040100000 })) 0).posted).head?.map (fun w => (w.fn, w.addr, w.data)) =
      some (1, 0x1040100000, [0, 0, 0, 0, 0, 0, 0, 0]) := by decide +kernel

/-- 08, a lease that ends during a pause: the words of the lock. -/
def locked : State :=
  modLock (fun l => { l with entries := [⟨0x700000040, 0x3300, 0x101, 100000, false⟩] }) { up with time := 100400 }
theorem test_lease_break :
    let t := run (.leaseExpiry 0x700000040) locked
    t.lock.lbladdr = 0x700000040 ∧ t.lock.lblchan = 0x3300 ∧ t.lock.lblcause = 0 ∧
      t.lm.map (fun r => upd8 0x0005010101003300 r.compare r.cmask r.value r.wmask r.add) = [0x0005020101003300] := by
  decide +kernel

/-- 09, a break marker: port 88 reports DC1 and a message ends at cycle 100. -/
def urgent : State :=
  modPort 88 (fun p => { p with lstate := .up, ver := 2, cls := 1, clsSeen := true }) { up with time := 20000100 }
theorem test_port_deadline :
    ((getPort (run (.tsvmsg 88 ⟨true, 1, 1, parityOf 1 1⟩ [⟨false, 0, 0, parityOf 0 0⟩]) urgent) 88).inq).map (·.deadline) = [0x62DAC] := by decide +kernel

/-- 11, a read that times out and is answered late: slot 0xA37 of HPT2, in quarantine. -/
def late : State :=
  modHp 2 (fun h => { h with slots := [(0xA37, { fn := 0x812, addr := 0x4000000000, len := 512, purpose := .dropped,
                                                 issued := 40000000, cto := 160000, quarUntil := some 40480600 })] })
    { up with time := 40250000, seam := 0x3D6A }
theorem test_late_completion :
    let h := getHp (run (.hostCompletionPiece 2 ⟨0x1A37, 0, false, false, 0, List.replicate 256 0⟩) late) 2
    latelog h = 0x00003D6A00121A37 ∧ h.latecnt = 1 := by decide +kernel

/-- 12, bring-up at v2: port 517. -/
def bringUp : State :=
  modShadow (fun x => { x with carb := { x.carb with pdc := [(517, 7)] } })
    (modPort 517 (fun p => { p with en := true, offer := 3, lstate := .negotiate }) up) |> fun s => { s with active := s.shadow }
theorem test_lctl :
    let p := getPort (run (.registerWrite (.cc 0) 0x481A0 0x3D) up) 517
    p.en = true ∧ p.vermax = 3 ∧ p.lstate = .reset := by decide +kernel
theorem test_version :
    let p := getPort (run (.portVersion 517 ⟨true, 0x0F, 0, parityOf 0x0F 0⟩ [⟨false, 2, 0, parityOf 2 0⟩]) bringUp) 517
    p.ver = 2 ∧ p.lstate = .up := by decide +kernel
theorem test_lstat :
    peek 0x481A4 (timeTo 10 (modPort 517 (fun p => { p with lstate := .up, ver := 2, filli := 1 }) bringUp)) = 0x00380093 := by
  decide +kernel

/-- 13, a relocation followed by a flap: instance 2, with its entries in bucket 0xA7C, and a record taken up at a time. -/
def table (ways : Tbl Entry) (r : Record) (t : Nat) : State :=
  modTsv (fun v => { v with tevbase := 0x900000000, tevwr := 0x410, tevrd := 0x410, queue := [r] })
    (modInst 2 (fun x => { x with
      en := true, st := .run, agecnt := 0x123
      ep0 := { ebase := 0x800000000, log2b := 12, sbase := 0x800080000, ways := ways
               stash := (List.range 5).map (fun k => (k, { w0 := w64 (0x8000012000000001 + k) })) } })
      (modPort 88 (fun p => { p with lrnmask := 4 }) (modPort 91 (fun p => { p with lrnmask := 4 })
        { up with time := w64 t, seam := 0x2E63 })))
def before : Tbl Entry :=
  [(4 * 0xA7C, { w0 := 0x8000012000002A7C }), (4 * 0xA7C + 1, { w0 := 0x8053010000012A7C }),
   (4 * 0xA7C + 2, { w0 := 0x8000011F00022A7C }), (4 * 0xA7C + 3, { w0 := 0x8000012200032A7C })]
def learned : Entry := { w0 := 0x8058012300503A7C, w1 := 0x0000002A00000058, w2 := 0x0000753000000001 }
theorem test_learn_relocates :
    let t := run (.learn .ok) (table before ⟨false, 88, 2, 0, 0x00503A7C, 0x0000002A00000058, 1⟩ 30000000)
    slotAt (getInst t 2).ep0 5 = { w0 := 0x8053010000012A7C } ∧ t.lm.map (·.addr) = [0x8000800A0] ∧
      (getInst t 2).relocating.map (fun r => (r.key, r.entry)) = [(4 * 0xA7C + 1, learned)] := by decide +kernel
theorem test_relocation_write :
    let s := run (.learn .ok) (table before ⟨false, 88, 2, 0, 0x00503A7C, 0x0000002A00000058, 1⟩ 30000000)
    let t := run (.relocationStashWriteDone 2 .ok) s
    wayAt (getInst t 2).ep0 (4 * 0xA7C + 1) = learned ∧ t.lm.map (·.addr) = [0x800053E20] := by decide +kernel
theorem test_flap :
    let t := run (.learn .ok) (table [(4 * 0xA7C + 1, learned)] ⟨false, 91, 2, 0, 0x00503A7C, 0x0000002B0000005B, 1⟩ 30400500)
    wayAt (getInst t 2).ep0 (4 * 0xA7C + 1) = learned ∧ (getInst t 2).flaps = 1 ∧ t.tsv.tevwr = 0x411 ∧
      t.lm.map (fun r => (r.addr, wordAt r.data 0, wordAt r.data 8, wordAt r.data 16)) =
        [(0x900008200, 0x00503A7C01605B22, 0x0000002B0000005B, 0x00002E6300000001)] := by decide +kernel

/-- 16, a power-fail timeline: WARNTH 0x180, CUTTH 0x100, WARNCNT 2. -/
def rail (low : Nat) : State :=
  modPf (fun p => { p with warnth := 0x180, cutth := 0x100, warncnt := 2, en := true, low := low }) up
theorem test_rail_first : (run (.railSample 0x17F) (rail 0)).pf.warn = false := by decide +kernel
theorem test_rail_second :
    let t := run (.railSample 0x17B) (rail 1)
    t.pf.warn = true ∧ t.pf.stage = .drain ∧ t.out.pfwarn = true ∧ t.pf.railWarn = 0x17B ∧ t.pf.cut = false := by decide +kernel
theorem test_rail_cut : (run (.railSample 0x0FF) (rail 0)).pf.cut = true := by decide +kernel

/-- 17, an in-field test that replaces a slot: island 4. -/
def infield : State :=
  modSt (fun t => { t with kind := 2, target := 4, busy := true, lkind := 2, ltarget := 4 }) up
theorem test_infield :
    let t := run (.selftestDone ⟨0x0B6F3D29, [0xE4A87C10, 0x64A87C10, 0xE4A87C10, 0xE4A87C10, 0xE4A87C10], 0⟩) infield
    peek 0x70308 t = 0x26A0 ∧ peek 0x70004 (timeTo 10 t) = 0x0426 ∧ t.st.sig = 0x0B6F3D29 ∧ stdetail t.st = 2 := by decide +kernel

/-- 19, reading a Briet-C after a repair. -/
def repaired : State :=
  { modEngIsl 1 (fun x => { x with m0 := 4, m1 := 1, m2 := 7, m3 := 3 }) up with cfg := { compact := true } }
theorem test_identity :
    peek 0 repaired = 0x0B710F3D ∧ peek 4 repaired = 0x000301B2 ∧ peek 8 repaired = 0x01111133 ∧
      peek 0x10 repaired = 0x132C8135 ∧ peek 0x14 repaired = 0x0005C082 ∧ peek 0x20 repaired = 0xBF ∧ peek 0x100 repaired = 1 := by
  decide +kernel
theorem test_half_latch :
    let s := run (.lowerHalfRead .mp 0x80610) (modLock (fun l => { l with lbladdr := 0x700000040 }) up)
    s.out.rp = 0x40 ∧
      (run (.lowerHalfRead .mp 0x80614) (modLock (fun l => { l with lbladdr := 0x900000080 }) s)).out.rp = 7 := by decide +kernel

/-- 15, assigning a channel to a function. -/
theorem test_svc_issue :
    let t := run (.svcIssue 3) (cpu 3 { g := [(8, 2), (9, 0x7C01), (10, 0x340A40), (11, 0xFFFF40)] } [0xD000000000000107])
    getG (getCore t 3) 7 = 0 ∧ (getCore t 3).z = true ∧ (getSvc t 3 0).st = .busy ∧
      (getSvc t 3 0).block = [2, 0x7C01, 0x340A40, 0xFFFF40, 0, 0, 0, 0] := by decide +kernel
theorem test_owncopy_done :
    let s : State := { modDsp (fun d => { d with ctxwr := [⟨3, 0, 0x7C01, 0x340A40, 0xFFFF40⟩] }) up with
      core := [(3, { svc0 := { st := .busy, block := [2, 0x7C01, 0x340A40, 0xFFFF40], taken := true } })]
      lm := [{ port := 0, tag := 0, op := .upd8, addr := 0, len := 8, value := 0x140A, wmask := 0x1FFF, purpose := .owncopy }] }
    let t := run (.owncopyWriteDone .ok 0) s
    ctxWord0 0 (getCtx t 0x7C01) = 0x00340A40 ∧ (getCtx t 0x7C01).fold = 0x140A ∧ (getSvc t 3 0).st = .done ∧
      (getCore t 3).lev = 1 := by decide +kernel
/-- R365: the flags of SUB where it borrows, and of ADD where it overflows. -/
theorem test_alu_sub :
    let k := getCore (run (.alu 0) (cpu 0 { g := [(1, 3)] } [cw 0x90 1 5 (32768 + 32 + 2)])) 0
    getG k 2 = w64 (2 ^ 64 - 2) ∧ k.s = true ∧ k.c = false ∧ k.z = false ∧ k.v = false := by decide +kernel
theorem test_alu_add :
    let k := getCore (run (.alu 0) (cpu 0 { g := [(1, w64 (2 ^ 63 - 1))] } [cw 0x90 0 1 (32768 + 32 + 2)])) 0
    getG k 2 = w64 (2 ^ 63) ∧ k.s = true ∧ k.c = false ∧ k.v = true := by decide +kernel
theorem test_core_illegal :
    let k := getCore (run (.alu 0) (cpu 0 { fvec := 0x2000 } [cw 0x9F 0 0 0])) 0
    k.fcause = 1 ∧ k.fpc = 0x1000 ∧ k.pc = 0x2000 ∧ k.inh = true := by decide +kernel
theorem test_jal_links : getG (getCore (run (.jal 0) (cpu 0 {} [cw 0xA1 0 2 1])) 0) 1 = 0x1008 ∧
    (getCore (run (.jal 0) (cpu 0 {} [cw 0xA1 0 2 1])) 0).pc = 0x1010 := by decide +kernel

/-! Reset values (19). -/
theorem test_reset_lfsr : State.reset.tsv.lfsr = 1 := by decide
theorem test_reset_shale :
    tget (16 : Byte) State.reset.active.power.stopt 2 = 16 ∧ State.reset.active.disp.wdlimit = 0x3E8 ∧
      State.reset.active.xarb.starvth = 8 := by decide
theorem test_seam : (run .seam up).seam = 1 ∧ (run .seam up).time = 2560 := by decide +kernel
theorem test_reset_release : (run .resetRelease { up with inReset := true }).ctl.ready = false := by decide +kernel

/-- 16, the first words of the record of the power-fail timeline: SEQ 7, a host copy asked, no entry and no backlog. -/
theorem test_cairn_record :
    (recordBody (modPf (fun p => { p with warnTime := 3600000000000, warnSeam := 1406250000, railWarn := 0x17B, min := 0x16B
                                          endTime := 3600000004200, endSeam := 1406250001, hcen := true }) up) 7).take 6 =
      [0x000000014E524143, 0x000000B200000007, 0x0000034630B8A000, 0x0000034630B8B068, 0x53D1AC1153D1AC10,
       0x00000002116B017B] := by decide +kernel

/-- 04, an error on the last burst: bursts 0 to 2 are confirmed, the write of burst 3 fails. -/
def lastBurst : State :=
  { modMain 0 (fun t => { t with mv := some { n0 := 1024, s0 := 0x300000100, d0 := 0x400000000, sinc := true, dinc := true, swap := 0
                                              sspace := 0, dspace := 0, srcNext := 1024, dstNext := 1024, pfx := 768, conf := [] }
                                 regs := { t.regs with n := 256 } }) (atPhase .moving 2) with
    lm := [{ port := 0, tag := 9, op := .write, addr := 0x400000300, len := 256, purpose := .dst 0 768 }] }
theorem test_last_burst :
    let t := (getEng (run (.lmWriteResponse 0 9 .err) lastBurst) 0).main
    t.regs.n = 256 ∧ t.code = 0x21 ∧ t.mv = none := by decide +kernel

/-- 08, the lock is taken again: the word that the break left becomes GEN 6, with B. -/
def relock : State :=
  { modMain 0 (fun t => { t with phase := .atomic }) (prog 3 {} [ins 0x41 0 0, 0]) with
    lm := [{ port := 0, tag := 9, op := .upd8, addr := 0x700000040, len := 8, purpose := .lockTake 0 }] }
theorem test_lock_broken_flag :
    let r := r0 (run (.lmUpd8Response 0 9 .ok 0x0005020101003300) relock)
    r.z = true ∧ r.b = true := by decide +kernel
theorem test_lblinfo :
    peek 0x80618 (run (.leaseExpiry 0x700000040) locked) = 0x3300 := by decide +kernel

/-! ### Witnesses: each statement's hypotheses are met; the comment names the statement -/

/-- Doorbells. -/
theorem wit_doorbell_intake :
  (∃ (s : State) (k : Nat) (fn : Nat),
    s.inReset = false ∧ fn < nFns s ∧ k < 5 ∧ (getFn s fn).noBell = true) ∧
  (∃ (s : State) (k : Nat) (fn : Nat),
    s.inReset = false ∧ fn < nFns s ∧ k < 5 ∧ (getFn s fn).noBell = false ∧ fifoDepth k ≤ (fifoOf s k).length) ∧
  (∃ (s : State) (k : Nat) (fn : Nat),
    s.inReset = false ∧ fn < nFns s ∧ k < 5 ∧ (getFn s fn).noBell = false ∧ (fifoOf s k).length < fifoDepth k) :=
  ⟨⟨modFn 1 (fun f => { f with noBell := true }) up, 4, 1, by decide +kernel⟩,
   ⟨modDsp (fun d => { d with fifo := [(4, List.replicate 256 (default : Doorbell))] }) up, 4, 4095, by decide +kernel⟩,
   ⟨up, 4, 4095, by decide +kernel⟩⟩

/-- Doorbells. -/
theorem wit_doorbell_decision :
  (∃ (s : State) (k : Nat) (d : Doorbell) (rest : List Doorbell),
    s.inReset = false ∧ s.pf.stage = .normal ∧ tested s islDsp = false ∧ fifoOf s k = d :: rest ∧
    (∀ w ∈ s.dsp.ctxwr, w.chan ≠ d.chan)) :=
  ⟨modDsp (fun d => { d with fifo := [(4, [⟨1, 5, 2⟩])] }) (chan 2 {}), 4, ⟨1, 5, 2⟩, [], by decide +kernel⟩

/-- GoTable. -/
theorem wit_go_table :
  (∃ (s : State) (fn : Nat),
    let f := getFn s fn
    let c := f.chsel.toNat
    live s = true ∧ fn < nFns s ∧ ctxWaits s c = true) ∧
  (∃ (s : State) (fn : Nat),
    let f := getFn s fn
    let c := f.chsel.toNat
    let x := getCtx s c
    live s = true ∧ fn < nFns s ∧ ctxWaits s c = false ∧
    (f.level = 0 ∨ ¬ owns s fn c ∨ s.dsp.qreq = true ∨ ¬ (x.st = .idle ∨ x.st = .stopped) ∨ (f.direct = false ∧ f.loadpc = true ∧ f.stS.toNat % 8 ≠ 0) ∨ (f.direct = false ∧ f.loadpc = false ∧ x.pcv = false))) ∧
  (∃ (s : State) (fn : Nat),
    let f := getFn s fn
    let c := f.chsel.toNat
    let x := getCtx s c
    live s = true ∧ fn < nFns s ∧ ctxWaits s c = false ∧ f.level ≠ 0 ∧ owns s fn c = true ∧ s.dsp.qreq = false ∧
    (x.st = .idle ∨ x.st = .stopped) ∧ f.direct = true) ∧
  (∃ (s : State) (fn : Nat),
    let f := getFn s fn
    let c := f.chsel.toNat
    let x := getCtx s c
    live s = true ∧ fn < nFns s ∧ ctxWaits s c = false ∧ f.level ≠ 0 ∧ owns s fn c = true ∧ s.dsp.qreq = false ∧
    (x.st = .idle ∨ x.st = .stopped) ∧ f.direct = false ∧ f.loadpc = true ∧ f.stS.toNat % 8 = 0) ∧
  (∃ (s : State) (fn : Nat),
    let f := getFn s fn
    let c := f.chsel.toNat
    let x := getCtx s c
    live s = true ∧ fn < nFns s ∧ ctxWaits s c = false ∧ f.level ≠ 0 ∧ owns s fn c = true ∧ s.dsp.qreq = false ∧
    (x.st = .idle ∨ x.st = .stopped) ∧ f.direct = false ∧ f.loadpc = false ∧ x.pcv = true) :=
  ⟨⟨modDsp (fun d => { d with ctxwr := [⟨0, 0, 2, 0, 0⟩] }) (chan 2 {}), 1, by dsimp only; decide +kernel⟩,
   ⟨chan 0 {}, 1, by dsimp only; decide +kernel⟩,
   ⟨modFn 1 (fun f => { f with direct := true }) (chan 2 {}), 1, by dsimp only; decide +kernel⟩,
   ⟨modFn 1 (fun f => { f with loadpc := true, stS := 8 }) (chan 2 { st := .stopped }), 1, by dsimp only; decide +kernel⟩,
   ⟨chan 2 { pcv := true }, 1, by dsimp only; decide +kernel⟩⟩

/-- PageRequests. -/
theorem wit_stops_need_ownership :
  (∃ (s : State) (fn : Nat),
    ¬ owns s fn (getFn s fn).chsel.toNat) :=
  ⟨up, 0, by decide +kernel⟩

/-- PageRequests. -/
theorem wit_pause_and_abort :
  (∃ (s : State) (fn : Nat),
    let c := (getFn s fn).chsel.toNat
    let x := getCtx s c
    live s = true ∧ s.pf.stage = .normal ∧ fn < nFns s ∧ owns s fn c = true ∧ taskPending s c = false ∧
    (x.st = .idle ∨ x.st = .stopped)) ∧
  (∃ (s : State) (fn : Nat),
    let c := (getFn s fn).chsel.toNat
    let x := getCtx s c
    live s = true ∧ s.pf.stage = .normal ∧ fn < nFns s ∧ owns s fn c = true ∧ taskPending s c = false ∧
    (x.st = .ready ∨ x.st = .waiting ∨ x.st = .paused) ∧ midWork s c = false ∧ s.dsp.qreq = false) ∧
  (∃ (s : State) (fn : Nat) (e : _),
    let c := (getFn s fn).chsel.toNat
    let x := getCtx s c
    live s = true ∧ s.pf.stage = .normal ∧ fn < nFns s ∧ owns s fn c = true ∧ taskPending s c = false ∧ x.st = .running ∧
    engOf s c = some e ∧ (getEng s e).stop = .none) :=
  ⟨⟨chan 2 {}, 1, by dsimp only; decide +kernel⟩,
   ⟨chan 2 { st := .waiting }, 1, by dsimp only; decide +kernel⟩,
   ⟨prog 2 {} [], 1, 0, by dsimp only; decide +kernel⟩⟩

/-- PageRequests. -/
theorem wit_version_decision :
  (∃ (s : State) (fn : Nat) (l : BitVec 4),
    live s = true ∧ fn < nFns s ∧
    (3 < l.toNat ∨ (getFn s fn).lvlcap.toNat < l.toNat ∨ busyChan s fn = true ∨ s.dsp.qreq = true ∨ (getFn s fn).sweeping = true ∨ s.ctl.ready = false)) ∧
  (∃ (s : State) (fn : Nat) (l : BitVec 4),
    live s = true ∧ fn < nFns s ∧ l.toNat ≤ 3 ∧ l.toNat ≤ (getFn s fn).lvlcap.toNat ∧ busyChan s fn = false ∧
    s.dsp.qreq = false ∧ (getFn s fn).sweeping = false ∧ s.ctl.ready = true) :=
  ⟨⟨up, 1, 4, by decide +kernel⟩,
   ⟨up, 1, 3, by decide +kernel⟩⟩

/-- PendingDoorbells. -/
theorem wit_pending_scan_steps :
  (∃ (s : State) (b : Nat) (rest : List Nat),
    s.inReset = false ∧ mayRead s = true ∧ tested s islDsp = false ∧ s.dsp.scan = none ∧ s.dsp.summary = b :: rest) ∧
  (∃ (s : State) (r : LmReq) (x : Scan) (resp : MResp),
    s.inReset = false ∧ mayRead s = true ∧ tested s islDsp = false ∧ s.dsp.scan = some x ∧ scanRead s = some r ∧ resp ≠ .ok) ∧
  (∃ (s : State) (r : LmReq) (x : Scan) (c : _) (cs : _),
    s.inReset = false ∧ mayRead s = true ∧ tested s islDsp = false ∧ s.dsp.scan = some x ∧ scanRead s = some r ∧
    s.dsp.bitmap.filter (fun c => bitmapBlock c == x.blk) = c :: cs) ∧
  (∃ (s : State) (n : Nat) (tag : Nat) (c : Nat) (resp : MResp) (r : LmReq),
    s.inReset = false ∧ mayRead s = true ∧ tested s (islLmp n) = false ∧ tested s islDsp = false ∧
    lmFind s n tag = some r ∧ r.op = .upd8 ∧ (r.purpose = .scanAnd c ∨ r.purpose = .scanFv c) ∧ resp ≠ .ok) ∧
  (∃ (s : State) (n : Nat) (tag : Nat) (c : Nat) (resp : MResp) (r : LmReq),
    s.inReset = false ∧ mayRead s = true ∧ tested s (islLmp n) = false ∧ tested s islDsp = false ∧
    lmFind s n tag = some r ∧ r.op = .upd8 ∧ r.purpose = .scanAnd c ∧ resp = .ok) ∧
  (∃ (s : State) (n : Nat) (tag : Nat) (c : Nat) (resp : MResp) (r : LmReq),
    s.inReset = false ∧ mayRead s = true ∧ tested s (islLmp n) = false ∧ tested s islDsp = false ∧
    lmFind s n tag = some r ∧ r.op = .upd8 ∧ r.purpose = .scanFv c ∧ resp = .ok) :=
  ⟨⟨modDsp (fun d => { d with summary := [4095] }) up, 4095, [], by decide +kernel⟩,
   ⟨modDsp (fun d => { d with scan := some ⟨1, []⟩ }) (lmIssue { port := 0, tag := 0, op := .read, addr := 256, len := 256, purpose := .scanBlock 1 } up), ((scanRead (modDsp (fun d => { d with scan := some ⟨1, []⟩ }) (lmIssue { port := 0, tag := 0, op := .read, addr := 256, len := 256, purpose := .scanBlock 1 } up))).getD default), ⟨1, []⟩, .err, by decide +kernel⟩,
   ⟨modDsp (fun d => { d with scan := some ⟨1, []⟩, bitmap := [2048, 4095] }) (lmIssue { port := 0, tag := 0, op := .read, addr := 256, len := 256, purpose := .scanBlock 1 } up), ((scanRead (modDsp (fun d => { d with scan := some ⟨1, []⟩, bitmap := [2048, 4095] }) (lmIssue { port := 0, tag := 0, op := .read, addr := 256, len := 256, purpose := .scanBlock 1 } up))).getD default), ⟨1, []⟩, 2048, [4095], by decide +kernel⟩,
   ⟨lmIssue { port := 0, tag := 0, op := .upd8, addr := 256, len := 8, purpose := .scanAnd 5 } up, 0, 0, 5, .err, ((lmFind (lmIssue { port := 0, tag := 0, op := .upd8, addr := 256, len := 8, purpose := .scanAnd 5 } up) 0 0).getD default), by decide +kernel⟩,
   ⟨lmIssue { port := 0, tag := 0, op := .upd8, addr := 256, len := 8, purpose := .scanAnd 5 } up, 0, 0, 5, .ok, ((lmFind (lmIssue { port := 0, tag := 0, op := .upd8, addr := 256, len := 8, purpose := .scanAnd 5 } up) 0 0).getD default), by decide +kernel⟩,
   ⟨lmIssue { port := 0, tag := 0, op := .upd8, addr := 256, len := 8, purpose := .scanFv 5 } up, 0, 0, 5, .ok, ((lmFind (lmIssue { port := 0, tag := 0, op := .upd8, addr := 256, len := 8, purpose := .scanFv 5 } up) 0 0).getD default), by decide +kernel⟩⟩

/-- PendingDoorbells. -/
theorem wit_fold_answers :
  (∃ (s : State) (n : Nat) (tag : Nat) (k : Nat) (c : Nat) (resp : MResp) (old : Word) (r : LmReq),
    s.inReset = false ∧ tested s (islLmp n) = false ∧ tested s islDsp = false ∧ lmFind s n tag = some r ∧ r.op = .upd8 ∧
    r.purpose = .fold k c ∧ (resp ≠ .ok ∨ old &&& r.cmask ≠ r.compare &&& r.cmask)) ∧
  (∃ (s : State) (n : Nat) (tag : Nat) (k : Nat) (c : Nat) (resp : MResp) (old : Word) (r : LmReq),
    s.inReset = false ∧ tested s (islLmp n) = false ∧ tested s islDsp = false ∧ lmFind s n tag = some r ∧ r.op = .upd8 ∧
    r.purpose = .fold k c ∧ resp = .ok ∧ old &&& r.cmask = r.compare &&& r.cmask) ∧
  (∃ (s : State) (n : Nat) (tag : Nat) (k : Nat) (c : Nat) (resp : MResp) (r : LmReq),
    s.inReset = false ∧ tested s (islLmp n) = false ∧ tested s islDsp = false ∧ lmFind s n tag = some r ∧ r.op = .upd8 ∧
    r.purpose = .foldOr k c ∧ resp ≠ .ok) ∧
  (∃ (s : State) (n : Nat) (tag : Nat) (k : Nat) (c : Nat) (resp : MResp) (r : LmReq),
    s.inReset = false ∧ tested s (islLmp n) = false ∧ tested s islDsp = false ∧ lmFind s n tag = some r ∧ r.op = .upd8 ∧
    r.purpose = .foldOr k c ∧ resp = .ok) :=
  ⟨⟨dspUpd8 64 1 3 0 0 0 (.fold 4 2) up, 0, 0, 4, 2, .ok, 2, { port := 0, tag := 0, op := .upd8, addr := 64, len := 8, compare := 1, cmask := 3, purpose := .fold 4 2, gated := false, dl := dlOf up (.fold 4 2) }, by decide +kernel⟩,
   ⟨dspUpd8 64 1 3 0 0 0 (.fold 4 2) up, 0, 0, 4, 2, .ok, 5, { port := 0, tag := 0, op := .upd8, addr := 64, len := 8, compare := 1, cmask := 3, purpose := .fold 4 2, gated := false, dl := dlOf up (.fold 4 2) }, by decide +kernel⟩,
   ⟨dspUpd8 64 1 3 0 0 0 (.foldOr 4 2) up, 0, 0, 4, 2, .err, { port := 0, tag := 0, op := .upd8, addr := 64, len := 8, compare := 1, cmask := 3, purpose := .foldOr 4 2, gated := false, dl := dlOf up (.foldOr 4 2) }, by decide +kernel⟩,
   ⟨dspUpd8 64 1 3 0 0 0 (.foldOr 4 2) up, 0, 0, 4, 2, .ok, { port := 0, tag := 0, op := .upd8, addr := 64, len := 8, compare := 1, cmask := 3, purpose := .foldOr 4 2, gated := false, dl := dlOf up (.foldOr 4 2) }, by decide +kernel⟩⟩

/-- RegisterLoads. -/
theorem wit_address_loads :
  (∃ (s : State) (e : Nat) (w : Word),
    let f := fld w 52 2
    let good := fld w 54 2 = 0 ∧ (f = 1 → fld w 0 48 = 0) ∧ (f = 3 → fld w 2 46 = 0)
    due s e 0x10 = .run w ∧ good ∧ (f = 1 → straddles s e = false)) ∧
  (∃ (s : State) (e : Nat) (w : Word),
    let f := fld w 52 2
    let good := fld w 54 2 = 0 ∧ (f = 1 → fld w 0 48 = 0) ∧ (f = 3 → fld w 2 46 = 0)
    due s e 0x10 = .run w ∧ good ∧ f = 1 ∧ straddles s e = true) ∧
  (∃ (s : State) (e : Nat) (w : Word),
    let f := fld w 52 2
    let good := fld w 54 2 = 0 ∧ (f = 1 → fld w 0 48 = 0) ∧ (f = 3 → fld w 2 46 = 0)
    due s e 0x10 = .run w ∧ ¬ good) ∧
  (∃ (s : State) (e : Nat) (w : Word),
    let f := fld w 52 2
    let good := fld w 54 2 = 0 ∧ (f = 1 → fld w 0 48 = 0) ∧ (f = 3 → fld w 2 46 = 0)
    due s e 0x11 = .run w ∧ good ∧ (f = 1 → straddles s e = false)) ∧
  (∃ (s : State) (e : Nat) (w : Word),
    let f := fld w 52 2
    let good := fld w 54 2 = 0 ∧ (f = 1 → fld w 0 48 = 0) ∧ (f = 3 → fld w 2 46 = 0)
    due s e 0x11 = .run w ∧ good ∧ f = 1 ∧ straddles s e = true) ∧
  (∃ (s : State) (e : Nat) (w : Word),
    let f := fld w 52 2
    let good := fld w 54 2 = 0 ∧ (f = 1 → fld w 0 48 = 0) ∧ (f = 3 → fld w 2 46 = 0)
    due s e 0x11 = .run w ∧ ¬ good) :=
  ⟨⟨prog 2 {} [ins 0x10 0x35 3], 0, ins 0x10 0x35 3, by dsimp only; decide +kernel⟩,
   ⟨prog 3 {} [ins 0x10 0x10 0], 0, ins 0x10 0x10 0, by dsimp only; decide +kernel⟩,
   ⟨prog 3 {} [ins 0x10 0x40 0], 0, ins 0x10 0x40 0, by dsimp only; decide +kernel⟩,
   ⟨prog 3 {} [ins 0x11 0x10 0, 9], 0, ins 0x11 0x10 0, by dsimp only; decide +kernel⟩,
   ⟨prog 3 {} [ins 0x11 0x1F 0], 0, ins 0x11 0x1F 0, by dsimp only; decide +kernel⟩,
   ⟨prog 3 {} [ins 0x11 0x30 4], 0, ins 0x11 0x30 4, by dsimp only; decide +kernel⟩⟩

/-- RegisterLoads. -/
theorem wit_count_and_scratch_loads :
  (∃ (s : State) (e : Nat) (w : Word),
    let r := (thr s e).regs
    let f := fld w 52 2
    let k := getK r (fld w 0 2)
    let good := fld w 48 4 = 0 ∧ fld w 54 2 = 0 ∧ (f = 0 ∧ fld w 32 16 = 0 ∨ f = 3 ∧ fld w 2 46 = 0 ∧ fld k 32 32 = 0)
    due s e 0x12 = .run w ∧ good) ∧
  (∃ (s : State) (e : Nat) (w : Word),
    let r := (thr s e).regs
    let f := fld w 52 2
    let k := getK r (fld w 0 2)
    let good := fld w 48 4 = 0 ∧ fld w 54 2 = 0 ∧ (f = 0 ∧ fld w 32 16 = 0 ∨ f = 3 ∧ fld w 2 46 = 0 ∧ fld k 32 32 = 0)
    due s e 0x12 = .run w ∧ ¬ good) ∧
  (∃ (s : State) (e : Nat) (w : Word),
    let f := fld w 52 2
    let good := fld w 50 2 = 0 ∧ fld w 54 2 = 0 ∧ (f = 1 → fld w 0 48 = 0) ∧ (f = 3 → fld w 3 45 = 0 ∧ fld w 0 3 ≠ 3)
    due s e 0x13 = .run w ∧ good ∧ f = 0) ∧
  (∃ (s : State) (e : Nat) (w : Word),
    let f := fld w 52 2
    let good := fld w 50 2 = 0 ∧ fld w 54 2 = 0 ∧ (f = 1 → fld w 0 48 = 0) ∧ (f = 3 → fld w 3 45 = 0 ∧ fld w 0 3 ≠ 3)
    due s e 0x13 = .run w ∧ good ∧ f = 1 ∧ straddles s e = false) ∧
  (∃ (s : State) (e : Nat) (w : Word),
    let f := fld w 52 2
    let good := fld w 50 2 = 0 ∧ fld w 54 2 = 0 ∧ (f = 1 → fld w 0 48 = 0) ∧ (f = 3 → fld w 3 45 = 0 ∧ fld w 0 3 ≠ 3)
    due s e 0x13 = .run w ∧ good ∧ f = 1 ∧ straddles s e = true) ∧
  (∃ (s : State) (e : Nat) (w : Word),
    let f := fld w 52 2
    let good := fld w 50 2 = 0 ∧ fld w 54 2 = 0 ∧ (f = 1 → fld w 0 48 = 0) ∧ (f = 3 → fld w 3 45 = 0 ∧ fld w 0 3 ≠ 3)
    due s e 0x13 = .run w ∧ good ∧ f = 2) ∧
  (∃ (s : State) (e : Nat) (w : Word),
    let f := fld w 52 2
    let good := fld w 50 2 = 0 ∧ fld w 54 2 = 0 ∧ (f = 1 → fld w 0 48 = 0) ∧ (f = 3 → fld w 3 45 = 0 ∧ fld w 0 3 ≠ 3)
    due s e 0x13 = .run w ∧ good ∧ f = 3) ∧
  (∃ (s : State) (e : Nat) (w : Word),
    let f := fld w 52 2
    let good := fld w 50 2 = 0 ∧ fld w 54 2 = 0 ∧ (f = 1 → fld w 0 48 = 0) ∧ (f = 3 → fld w 3 45 = 0 ∧ fld w 0 3 ≠ 3)
    due s e 0x13 = .run w ∧ ¬ good) :=
  ⟨⟨prog 3 { k3 := 0xFFFFFFFF } [ins 0x12 0x30 3], 0, ins 0x12 0x30 3, by dsimp only; decide +kernel⟩,
   ⟨prog 3 { k3 := 0x100000000 } [ins 0x12 0x30 3], 0, ins 0x12 0x30 3, by dsimp only; decide +kernel⟩,
   ⟨prog 3 {} [ins 0x13 0x03 (2 ^ 48 - 1)], 0, ins 0x13 0x03 (2 ^ 48 - 1), by dsimp only; decide +kernel⟩,
   ⟨prog 3 {} [ins 0x13 0x10 0, 7], 0, ins 0x13 0x10 0, by dsimp only; decide +kernel⟩,
   ⟨prog 3 {} [ins 0x13 0x10 0], 0, ins 0x13 0x10 0, by dsimp only; decide +kernel⟩,
   ⟨prog 3 {} [ins 0x13 0x22 5], 0, ins 0x13 0x22 5, by dsimp only; decide +kernel⟩,
   ⟨prog 3 {} [ins 0x13 0x31 7], 0, ins 0x13 0x31 7, by dsimp only; decide +kernel⟩,
   ⟨prog 3 {} [ins 0x13 0x31 3], 0, ins 0x13 0x31 3, by dsimp only; decide +kernel⟩⟩

/-- MovesBegin. -/
theorem wit_movl_begins :
  (∃ (s : State) (e : Nat) (w : Word),
    due s e 0x21 = .run w ∧ fld w 0 48 ≠ 0) ∧
  (∃ (s : State) (e : Nat) (w : Word) (code : _),
    let scat := bit w 48
    let s1 := modRegs e (fun r => { r with
     sinc := if scat then bit w 49 else true, dinc := if scat then true else bit w 49, swap := bits w 50 2 }) s
    let r := (thr s1 e).regs
    due s e 0x21 = .run w ∧ fld w 0 48 = 0 ∧ movlCheck s1 e r scat (bits w 52 4) = some code) ∧
  (∃ (s : State) (e : Nat) (w : Word),
    let scat := bit w 48
    let s1 := modRegs e (fun r => { r with
     sinc := if scat then bit w 49 else true, dinc := if scat then true else bit w 49, swap := bits w 50 2 }) s
    let r := (thr s1 e).regs
    due s e 0x21 = .run w ∧ fld w 0 48 = 0 ∧ movlCheck s1 e r scat (bits w 52 4) = none ∧ r.n = 0) ∧
  (∃ (s : State) (e : Nat) (w : Word),
    let scat := bit w 48
    let s1 := modRegs e (fun r => { r with
     sinc := if scat then bit w 49 else true, dinc := if scat then true else bit w 49, swap := bits w 50 2 }) s
    let r := (thr s1 e).regs
    due s e 0x21 = .run w ∧ fld w 0 48 = 0 ∧ movlCheck s1 e r scat (bits w 52 4) = none ∧ r.n ≠ 0) :=
  ⟨⟨prog 3 {} [ins 0x21 0x00 1], 0, ins 0x21 0x00 1, by decide +kernel⟩,
   ⟨prog 3 {} [ins 0x21 0x51 0], 0, ins 0x21 0x51 0, 0x12, by dsimp only; decide +kernel⟩,
   ⟨prog 3 { k1 := 4 } [ins 0x21 0x00 0], 0, ins 0x21 0x00 0, by dsimp only; decide +kernel⟩,
   ⟨prog 3 { n := 4 } [ins 0x21 0x00 0], 0, ins 0x21 0x00 0, by dsimp only; decide +kernel⟩⟩

/-- PacesAndFences. -/
theorem wit_waitf_paces :
  (∃ (s : State) (e : Nat) (w : Word),
    due s e 0x30 = .run w ∧ (isWork s e = true ∨ waitfOk s w = false)) ∧
  (∃ (s : State) (e : Nat) (w : Word),
    let k := pacingWord w
    let old := (getEng s e).main.regs.k3
    let held := if k = old then (getEng s e).held else false
    due s e 0x30 = .run w ∧ isWork s e = false ∧ waitfOk s w = true ∧ paceEval s k held = false) ∧
  (∃ (s : State) (e : Nat) (w : Word),
    let k := pacingWord w
    let old := (getEng s e).main.regs.k3
    let held := if k = old then (getEng s e).held else false
    due s e 0x30 = .run w ∧ isWork s e = false ∧ waitfOk s w = true ∧ paceEval s k held = true) :=
  ⟨⟨prog 3 {} [ins 0x30 0x00 (2 * 2 ^ 24 + 2 * 2 ^ 16)], 0, ins 0x30 0x00 (2 * 2 ^ 24 + 2 * 2 ^ 16), by decide +kernel⟩,
   ⟨prog 3 {} [ins 0x30 0x00 (2 * 2 ^ 24 + 3 * 2 ^ 16)], 0, ins 0x30 0x00 (2 * 2 ^ 24 + 3 * 2 ^ 16), by dsimp only; decide +kernel⟩,
   ⟨modPort 1023 (fun p => { p with filli := 3 }) (prog 3 {} [ins 0x30 0x00 (2 * 2 ^ 24 + 3 * 2 ^ 16 + 1023)]), 0, ins 0x30 0x00 (2 * 2 ^ 24 + 3 * 2 ^ 16 + 1023), by dsimp only; decide +kernel⟩⟩

/-- PacesAndFences. -/
theorem wit_fence_and_break :
  (∃ (s : State) (e : Nat) (w : Word),
    let bad := fld w 0 48 ≠ 0 ∨ fld w 50 6 ≠ 0 ∨ (bit w 49 = true ∧ lvlOf s e < 3)
    due s e 0x31 = .run w ∧ bad) ∧
  (∃ (s : State) (e : Nat) (w : Word),
    let bad := fld w 0 48 ≠ 0 ∨ fld w 50 6 ≠ 0 ∨ (bit w 49 = true ∧ lvlOf s e < 3)
    due s e 0x31 = .run w ∧ ¬ bad ∧ bit w 48 = false) ∧
  (∃ (s : State) (e : Nat) (w : Word),
    let bad := fld w 0 48 ≠ 0 ∨ fld w 50 6 ≠ 0 ∨ (bit w 49 = true ∧ lvlOf s e < 3)
    due s e 0x31 = .run w ∧ ¬ bad ∧ bit w 48 = true) ∧
  (∃ (s : State) (e : Nat) (w : Word),
    due s e 0x33 = .run w ∧ fld w 0 56 ≠ 0) ∧
  (∃ (s : State) (e : Nat) (w : Word),
    due s e 0x33 = .run w ∧ fld w 0 56 = 0) :=
  ⟨⟨prog 2 {} [ins 0x31 0x02 0], 0, ins 0x31 0x02 0, by dsimp only; decide +kernel⟩,
   ⟨prog 3 {} [ins 0x31 0x02 0], 0, ins 0x31 0x02 0, by dsimp only; decide +kernel⟩,
   ⟨prog 3 {} [ins 0x31 0x03 0], 0, ins 0x31 0x03 0, by dsimp only; decide +kernel⟩,
   ⟨prog 3 {} [ins 0x33 0x00 1], 0, ins 0x33 0x00 1, by decide +kernel⟩,
   ⟨prog 3 {} [ins 0x33 0x00 0], 0, ins 0x33 0x00 0, by decide +kernel⟩⟩

/-- NotifyWrites. -/
theorem wit_notify_writes :
  (∃ (s : State) (e : Nat) (w : Word),
    let f := fld w 52 2
    let bad := fld w 4 44 ≠ 0 ∨ fld w 54 2 ≠ 0 ∨ f = 3
    due s e 0x32 = .run w ∧ bad) ∧
  (∃ (s : State) (e : Nat) (w : Word),
    let f := fld w 52 2
    let bad := fld w 4 44 ≠ 0 ∨ fld w 54 2 ≠ 0 ∨ f = 3
    due s e 0x32 = .run w ∧ ¬ bad ∧ f = 1 ∧ straddles s e = true) ∧
  (∃ (s : State) (e : Nat) (w : Word),
    let f := fld w 52 2
    let sp : BitVec 4 := bits w 48 4
    let bad := fld w 4 44 ≠ 0 ∨ fld w 54 2 ≠ 0 ∨ f = 3
    due s e 0x32 = .run w ∧ ¬ bad ∧ (f = 1 → straddles s e = false) ∧ listSpaceOk s sp = false) ∧
  (∃ (s : State) (e : Nat) (w : Word),
    let f := fld w 52 2
    let a := getK (thr s e).regs (fld w 0 2)
    let sp : BitVec 4 := bits w 48 4
    let bad := fld w 4 44 ≠ 0 ∨ fld w 54 2 ≠ 0 ∨ f = 3
    due s e 0x32 = .run w ∧ ¬ bad ∧ (f = 1 → straddles s e = false) ∧ listSpaceOk s sp = true ∧ aligned a 8 = false) ∧
  (∃ (s : State) (e : Nat) (w : Word),
    let f := fld w 52 2
    let a := getK (thr s e).regs (fld w 0 2)
    let sp : BitVec 4 := bits w 48 4
    let bad := fld w 4 44 ≠ 0 ∨ fld w 54 2 ≠ 0 ∨ f = 3
    let req : WrReq := { who := whoOf s e, space := sp, addr := a, data := bytesOf (notifyValue s e w) 8, purpose := .notify e }
    due s e 0x32 = .run w ∧ ¬ bad ∧ (f = 1 → straddles s e = false) ∧ listSpaceOk s sp = true ∧ aligned a 8 = true ∧
    (engWrite e req s).1 = .denied) ∧
  (∃ (s : State) (e : Nat) (w : Word),
    let f := fld w 52 2
    let a := getK (thr s e).regs (fld w 0 2)
    let sp : BitVec 4 := bits w 48 4
    let bad := fld w 4 44 ≠ 0 ∨ fld w 54 2 ≠ 0 ∨ f = 3
    let req : WrReq := { who := whoOf s e, space := sp, addr := a, data := bytesOf (notifyValue s e w) 8, purpose := .notify e }
    due s e 0x32 = .run w ∧ ¬ bad ∧ (f = 1 → straddles s e = false) ∧ listSpaceOk s sp = true ∧ aligned a 8 = true ∧
    (engWrite e req s).1 = .go) ∧
  (∃ (s : State) (e : Nat) (w : Word),
    let f := fld w 52 2
    let a := getK (thr s e).regs (fld w 0 2)
    let sp : BitVec 4 := bits w 48 4
    let bad := fld w 4 44 ≠ 0 ∨ fld w 54 2 ≠ 0 ∨ f = 3
    due s e 0x32 = .run w ∧ ¬ bad ∧ (f = 1 → straddles s e = false) ∧ listSpaceOk s sp = true ∧ aligned a 8 = true ∧
    mayIssue s = true ∧ sp ≠ 5 ∧ sp ≠ 6 ∧ passes s (whoOf s e) sp a 8 .wr = true) :=
  ⟨⟨prog 3 {} [ins 0x32 0x30 0], 0, ins 0x32 0x30 0, by dsimp only; decide +kernel⟩,
   ⟨prog 3 {} [ins 0x32 0x10 0], 0, ins 0x32 0x10 0, by dsimp only; decide +kernel⟩,
   ⟨prog 3 {} [ins 0x32 0x05 0], 0, ins 0x32 0x05 0, by dsimp only; decide +kernel⟩,
   ⟨prog 3 { k0 := 4 } [ins 0x32 0x00 0], 0, ins 0x32 0x00 0, by dsimp only; decide +kernel⟩,
   ⟨modGate (fun g => { g with active := [(64 * 68, ruleDenyAll)] }) (prog 3 { k1 := 8 } [ins 0x32 0x00 1]), 0, ins 0x32 0x00 1, by dsimp only; decide +kernel⟩,
   ⟨prog 3 { k1 := 8 } [ins 0x32 0x00 1], 0, ins 0x32 0x00 1, by dsimp only; decide +kernel⟩,
   ⟨prog 3 { k1 := 8 } [ins 0x32 0x00 1], 0, ins 0x32 0x00 1, by dsimp only; decide +kernel⟩⟩

/-- AtomicInstructions. -/
theorem wit_atomic_instructions :
  (∃ (s : State) (e : Nat) (w : Word),
    due s e 0x40 = .run w ∧ (fld w 8 40 ≠ 0 ∨ fld w 49 7 ≠ 0 ∨ (bit w 48 = true ∧ fld w 4 2 ≠ 0))) ∧
  (∃ (s : State) (e : Nat) (w : Word) (code : _),
    let r := (thr s e).regs
    let a := getK r (fld w 0 2)
    due s e 0x40 = .run w ∧ fld w 8 40 = 0 ∧ fld w 49 7 = 0 ∧ (bit w 48 = true → fld w 4 2 = 0) ∧
    lockAddr s e a = some code) ∧
  (∃ (s : State) (e : Nat) (w : Word),
    let r := (thr s e).regs
    let a := getK r (fld w 0 2)
    due s e 0x40 = .run w ∧ fld w 8 40 = 0 ∧ fld w 49 7 = 0 ∧ (bit w 48 = true → fld w 4 2 = 0) ∧ lockAddr s e a = none ∧
    bit w 48 = true ∧ (engUpd8 e a 0 0 0 0 (getK r (fld w 2 2)) (.atom e) s).1 = .go) ∧
  (∃ (s : State) (e : Nat) (w : Word),
    let r := (thr s e).regs
    let a := getK r (fld w 0 2)
    due s e 0x40 = .run w ∧ fld w 8 40 = 0 ∧ fld w 49 7 = 0 ∧ (bit w 48 = true → fld w 4 2 = 0) ∧ lockAddr s e a = none ∧
    bit w 48 = true ∧ (engUpd8 e a 0 0 0 0 (getK r (fld w 2 2)) (.atom e) s).1 = .denied) ∧
  (∃ (s : State) (e : Nat) (w : Word),
    let r := (thr s e).regs
    let a := getK r (fld w 0 2)
    due s e 0x40 = .run w ∧ fld w 8 40 = 0 ∧ fld w 49 7 = 0 ∧ (bit w 48 = true → fld w 4 2 = 0) ∧ lockAddr s e a = none ∧
    bit w 48 = false ∧
    (engUpd8 e a (getK r (fld w 2 2)) 0xFFFFFFFFFFFFFFFF (getK r (fld w 4 2)) 0xFFFFFFFFFFFFFFFF 0 (.atom e) s).1 = .go) ∧
  (∃ (s : State) (e : Nat) (w : Word),
    let r := (thr s e).regs
    let a := getK r (fld w 0 2)
    due s e 0x40 = .run w ∧ fld w 8 40 = 0 ∧ fld w 49 7 = 0 ∧ (bit w 48 = true → fld w 4 2 = 0) ∧ lockAddr s e a = none ∧
    bit w 48 = false ∧
    (engUpd8 e a (getK r (fld w 2 2)) 0xFFFFFFFFFFFFFFFF (getK r (fld w 4 2)) 0xFFFFFFFFFFFFFFFF 0 (.atom e) s).1 = .denied) ∧
  (∃ (s : State) (e : Nat) (w : Word),
    due s e 0x41 = .run w ∧ (isWork s e = true ∨ fld w 2 30 ≠ 0 ∨ fld w 44 12 ≠ 0 ∨ leaseOf w = none)) ∧
  (∃ (s : State) (e : Nat) (w : Word) (lease : _) (code : _),
    let r := (thr s e).regs
    let a := getK r (fld w 0 2)
    due s e 0x41 = .run w ∧ isWork s e = false ∧ fld w 2 30 = 0 ∧ fld w 44 12 = 0 ∧ leaseOf w = some lease ∧
    lockAddr s e a = some code) ∧
  (∃ (s : State) (e : Nat) (w : Word) (lease : _),
    let r := (thr s e).regs
    let a := getK r (fld w 0 2)
    due s e 0x41 = .run w ∧ isWork s e = false ∧ fld w 2 30 = 0 ∧ fld w 44 12 = 0 ∧ leaseOf w = some lease ∧
    lockAddr s e a = none ∧ lockAt s a = none ∧ s.lock.entries.length < 4096 ∧
    (engUpd8 e a 0 0 (lockOwn s e) lockMask 0x0001000000000000 (.lockTake e) s).1 = .go) ∧
  (∃ (s : State) (e : Nat) (w : Word) (lease : _),
    let r := (thr s e).regs
    let a := getK r (fld w 0 2)
    due s e 0x41 = .run w ∧ isWork s e = false ∧ fld w 2 30 = 0 ∧ fld w 44 12 = 0 ∧ leaseOf w = some lease ∧
    lockAddr s e a = none ∧ lockAt s a = none ∧ s.lock.entries.length < 4096 ∧
    (engUpd8 e a 0 0 (lockOwn s e) lockMask 0x0001000000000000 (.lockTake e) s).1 = .denied) ∧
  (∃ (s : State) (e : Nat) (w : Word) (lease : _),
    let r := (thr s e).regs
    let a := getK r (fld w 0 2)
    due s e 0x41 = .run w ∧ isWork s e = false ∧ fld w 2 30 = 0 ∧ fld w 44 12 = 0 ∧ leaseOf w = some lease ∧
    lockAddr s e a = none ∧ lockAt s a = none ∧ 4096 ≤ s.lock.entries.length) ∧
  (∃ (s : State) (e : Nat) (w : Word) (lease : _) (y : _),
    let r := (thr s e).regs
    let a := getK r (fld w 0 2)
    let c := chanOf s e
    due s e 0x41 = .run w ∧ isWork s e = false ∧ fld w 2 30 = 0 ∧ fld w 44 12 = 0 ∧ leaseOf w = some lease ∧
    lockAddr s e a = none ∧ lockAt s a = some y ∧ y.chan = c ∧ y.releasing = false) ∧
  (∃ (s : State) (e : Nat) (w : Word) (lease : _) (y : _),
    let r := (thr s e).regs
    let a := getK r (fld w 0 2)
    let c := chanOf s e
    due s e 0x41 = .run w ∧ isWork s e = false ∧ fld w 2 30 = 0 ∧ fld w 44 12 = 0 ∧ leaseOf w = some lease ∧
    lockAddr s e a = none ∧ lockAt s a = some y ∧ (y.chan ≠ c ∨ y.releasing = true) ∧
    (engUpd8 e a 0 0 0 0 0 (.lockBusy e) s).1 = .go) ∧
  (∃ (s : State) (e : Nat) (w : Word) (lease : _) (y : _),
    let r := (thr s e).regs
    let a := getK r (fld w 0 2)
    let c := chanOf s e
    due s e 0x41 = .run w ∧ isWork s e = false ∧ fld w 2 30 = 0 ∧ fld w 44 12 = 0 ∧ leaseOf w = some lease ∧
    lockAddr s e a = none ∧ lockAt s a = some y ∧ (y.chan ≠ c ∨ y.releasing = true) ∧
    (engUpd8 e a 0 0 0 0 0 (.lockBusy e) s).1 = .denied) ∧
  (∃ (s : State) (e : Nat) (w : Word),
    due s e 0x42 = .run w ∧ (isWork s e = true ∨ fld w 2 54 ≠ 0)) ∧
  (∃ (s : State) (e : Nat) (w : Word) (code : _),
    let r := (thr s e).regs
    let a := getK r (fld w 0 2)
    due s e 0x42 = .run w ∧ isWork s e = false ∧ fld w 2 54 = 0 ∧ lockAddr s e a = some code) ∧
  (∃ (s : State) (e : Nat) (w : Word),
    let r := (thr s e).regs
    let a := getK r (fld w 0 2)
    let c := chanOf s e
    due s e 0x42 = .run w ∧ isWork s e = false ∧ fld w 2 54 = 0 ∧ lockAddr s e a = none ∧
    (∀ x ∈ s.lock.entries, x.addr = a → x.chan = c → x.releasing = true) ∧ (engUpd8 e a 0 0 0 0 0 (.unlkNone e) s).1 = .go) ∧
  (∃ (s : State) (e : Nat) (w : Word),
    let r := (thr s e).regs
    let a := getK r (fld w 0 2)
    let c := chanOf s e
    due s e 0x42 = .run w ∧ isWork s e = false ∧ fld w 2 54 = 0 ∧ lockAddr s e a = none ∧
    (∀ x ∈ s.lock.entries, x.addr = a → x.chan = c → x.releasing = true) ∧
    (engUpd8 e a 0 0 0 0 0 (.unlkNone e) s).1 = .denied) ∧
  (∃ (s : State) (e : Nat) (w : Word),
    let r := (thr s e).regs
    let a := getK r (fld w 0 2)
    let c := chanOf s e
    due s e 0x42 = .run w ∧ isWork s e = false ∧ fld w 2 54 = 0 ∧ lockAddr s e a = none ∧
    (∃ x ∈ s.lock.entries, x.addr = a ∧ x.chan = c ∧ x.releasing = false) ∧
    (engUpd8 e a 0 0 0 ((1 : Word) <<< 40) 0 (.unlkRelease e) s).1 = .go) ∧
  (∃ (s : State) (e : Nat) (w : Word),
    let r := (thr s e).regs
    let a := getK r (fld w 0 2)
    let c := chanOf s e
    due s e 0x42 = .run w ∧ isWork s e = false ∧ fld w 2 54 = 0 ∧ lockAddr s e a = none ∧
    (∃ x ∈ s.lock.entries, x.addr = a ∧ x.chan = c ∧ x.releasing = false) ∧
    (engUpd8 e a 0 0 0 ((1 : Word) <<< 40) 0 (.unlkRelease e) s).1 = .denied) :=
  ⟨⟨prog 3 { k0 := 8, k1 := 4 } [ins 0x40 0x00 (2 ^ 20)], 0, ins 0x40 0x00 (2 ^ 20), by decide +kernel⟩,
   ⟨prog 3 { k0 := 8, k1 := 4 } [ins 0x40 0x01 1], 0, ins 0x40 0x01 1, 0x10, by dsimp only; decide +kernel⟩,
   ⟨prog 3 { k0 := 8, k1 := 4 } [ins 0x40 0x01 (2 * 4)], 0, ins 0x40 0x01 (2 * 4), by dsimp only; decide +kernel⟩,
   ⟨modGate (fun g => { g with active := [(64 * 68, ruleDenyAll)] }) (prog 3 { k0 := 8, k1 := 4 } [ins 0x40 0x01 (2 * 4)]), 0, ins 0x40 0x01 (2 * 4), by dsimp only; decide +kernel⟩,
   ⟨prog 3 { k0 := 8, k1 := 4 } [ins 0x40 0x00 (2 * 4)], 0, ins 0x40 0x00 (2 * 4), by dsimp only; decide +kernel⟩,
   ⟨modGate (fun g => { g with active := [(64 * 68, ruleDenyAll)] }) (prog 3 { k0 := 8, k1 := 4 } [ins 0x40 0x00 (2 * 4)]), 0, ins 0x40 0x00 (2 * 4), by dsimp only; decide +kernel⟩,
   ⟨prog 3 { k0 := 8, k1 := 4 } [ins 0x41 0x00 0], 0, ins 0x41 0x00 0, by decide +kernel⟩,
   ⟨prog 3 { k0 := 8, k1 := 4 } [ins 0x41 0x00 (5 * 2 ^ 32 + 1)], 0, ins 0x41 0x00 (5 * 2 ^ 32 + 1), 5000, 0x10, by dsimp only; decide +kernel⟩,
   ⟨prog 3 { k0 := 8, k1 := 4 } [ins 0x41 0x00 (5 * 2 ^ 32)], 0, ins 0x41 0x00 (5 * 2 ^ 32), 5000, by dsimp only; decide +kernel⟩,
   ⟨modGate (fun g => { g with active := [(64 * 68, ruleDenyAll)] }) (prog 3 { k0 := 8, k1 := 4 } [ins 0x41 0x00 (5 * 2 ^ 32)]), 0, ins 0x41 0x00 (5 * 2 ^ 32), 5000, by dsimp only; decide +kernel⟩,
   ⟨modLock (fun l => { l with entries := List.replicate 4096 ⟨16, 2, 1, 0, false⟩ }) (prog 3 { k0 := 8, k1 := 4 } [ins 0x41 0x00 (5 * 2 ^ 32)]), 0, ins 0x41 0x00 (5 * 2 ^ 32), 5000, by dsimp only; decide +kernel⟩,
   ⟨modLock (fun l => { l with entries := [⟨8, 2, 1, 0, false⟩] }) (prog 3 { k0 := 8, k1 := 4 } [ins 0x41 0x00 (5 * 2 ^ 32)]), 0, ins 0x41 0x00 (5 * 2 ^ 32), 5000, ⟨8, 2, 1, 0, false⟩, by dsimp only; decide +kernel⟩,
   ⟨modLock (fun l => { l with entries := [⟨8, 3, 1, 0, false⟩] }) (prog 3 { k0 := 8, k1 := 4 } [ins 0x41 0x00 (5 * 2 ^ 32)]), 0, ins 0x41 0x00 (5 * 2 ^ 32), 5000, ⟨8, 3, 1, 0, false⟩, by dsimp only; decide +kernel⟩,
   ⟨modGate (fun g => { g with active := [(64 * 68, ruleDenyAll)] }) <| modLock (fun l => { l with entries := [⟨8, 3, 1, 0, false⟩] }) (prog 3 { k0 := 8, k1 := 4 } [ins 0x41 0x00 (5 * 2 ^ 32)]), 0, ins 0x41 0x00 (5 * 2 ^ 32), 5000, ⟨8, 3, 1, 0, false⟩, by dsimp only; decide +kernel⟩,
   ⟨prog 3 { k0 := 8, k1 := 4 } [ins 0x42 0x00 4], 0, ins 0x42 0x00 4, by decide +kernel⟩,
   ⟨prog 3 { k0 := 8, k1 := 4 } [ins 0x42 0x00 1], 0, ins 0x42 0x00 1, 0x10, by dsimp only; decide +kernel⟩,
   ⟨modLock (fun l => { l with entries := [⟨8, 2, 1, 0, true⟩] }) (prog 3 { k0 := 8, k1 := 4 } [ins 0x42 0x00 0]), 0, ins 0x42 0x00 0, by dsimp only; decide +kernel⟩,
   ⟨modGate (fun g => { g with active := [(64 * 68, ruleDenyAll)] }) <| modLock (fun l => { l with entries := [⟨8, 2, 1, 0, true⟩] }) (prog 3 { k0 := 8, k1 := 4 } [ins 0x42 0x00 0]), 0, ins 0x42 0x00 0, by dsimp only; decide +kernel⟩,
   ⟨modLock (fun l => { l with entries := [⟨8, 2, 1, 0, false⟩] }) (prog 3 { k0 := 8, k1 := 4 } [ins 0x42 0x00 0]), 0, ins 0x42 0x00 0, by dsimp only; decide +kernel⟩,
   ⟨modGate (fun g => { g with active := [(64 * 68, ruleDenyAll)] }) <| modLock (fun l => { l with entries := [⟨8, 2, 1, 0, false⟩] }) (prog 3 { k0 := 8, k1 := 4 } [ins 0x42 0x00 0]), 0, ins 0x42 0x00 0, by dsimp only; decide +kernel⟩⟩

/-- AtomicInstructions. -/
theorem wit_atomics_complete :
  (∃ (s : State) (e : Nat) (w : Word),
    let r := (thr s e).regs
    let a := getK r (fld w 0 2)
    mayIssue s = true ∧ lockAddr s e a = none ∧ passes s (whoOf s e) 0 a 8 .both = true ∧ due s e 0x40 = .run w ∧
    fld w 8 40 = 0 ∧ fld w 49 7 = 0 ∧ bit w 48 = true ∧ fld w 4 2 = 0) ∧
  (∃ (s : State) (e : Nat) (w : Word),
    let r := (thr s e).regs
    let a := getK r (fld w 0 2)
    mayIssue s = true ∧ lockAddr s e a = none ∧ passes s (whoOf s e) 0 a 8 .both = true ∧ due s e 0x40 = .run w ∧
    fld w 8 40 = 0 ∧ fld w 49 7 = 0 ∧ bit w 48 = false) ∧
  (∃ (s : State) (e : Nat) (w : Word) (lease : _),
    let r := (thr s e).regs
    let a := getK r (fld w 0 2)
    mayIssue s = true ∧ lockAddr s e a = none ∧ passes s (whoOf s e) 0 a 8 .both = true ∧ due s e 0x41 = .run w ∧
    isWork s e = false ∧ fld w 2 30 = 0 ∧ fld w 44 12 = 0 ∧ leaseOf w = some lease ∧ lockAt s a = none ∧
    s.lock.entries.length < 4096) ∧
  (∃ (s : State) (e : Nat) (w : Word) (lease : _) (x : _),
    let r := (thr s e).regs
    let a := getK r (fld w 0 2)
    let c := chanOf s e
    mayIssue s = true ∧ lockAddr s e a = none ∧ passes s (whoOf s e) 0 a 8 .both = true ∧ due s e 0x41 = .run w ∧
    isWork s e = false ∧ fld w 2 30 = 0 ∧ fld w 44 12 = 0 ∧ leaseOf w = some lease ∧ lockAt s a = some x ∧ x.chan = c ∧
    x.releasing = false) ∧
  (∃ (s : State) (e : Nat) (w : Word) (lease : _) (x : _),
    let r := (thr s e).regs
    let a := getK r (fld w 0 2)
    let c := chanOf s e
    mayIssue s = true ∧ lockAddr s e a = none ∧ passes s (whoOf s e) 0 a 8 .both = true ∧ due s e 0x41 = .run w ∧
    isWork s e = false ∧ fld w 2 30 = 0 ∧ fld w 44 12 = 0 ∧ leaseOf w = some lease ∧ lockAt s a = some x ∧
    (x.chan ≠ c ∨ x.releasing = true)) ∧
  (∃ (s : State) (e : Nat) (w : Word),
    let r := (thr s e).regs
    let a := getK r (fld w 0 2)
    let c := chanOf s e
    mayIssue s = true ∧ lockAddr s e a = none ∧ passes s (whoOf s e) 0 a 8 .both = true ∧ due s e 0x42 = .run w ∧
    isWork s e = false ∧ fld w 2 54 = 0 ∧ (∀ x ∈ s.lock.entries, x.addr = a → x.chan = c → x.releasing = true)) ∧
  (∃ (s : State) (e : Nat) (w : Word),
    let r := (thr s e).regs
    let a := getK r (fld w 0 2)
    let c := chanOf s e
    mayIssue s = true ∧ lockAddr s e a = none ∧ passes s (whoOf s e) 0 a 8 .both = true ∧ due s e 0x42 = .run w ∧
    isWork s e = false ∧ fld w 2 54 = 0 ∧ (∃ x ∈ s.lock.entries, x.addr = a ∧ x.chan = c ∧ x.releasing = false)) ∧
  (∃ (e : Nat) (q : LmReq),
    q.purpose = .lockTake e) ∧
  (∃ (e : Nat) (q : LmReq),
    q.purpose = .lockRenew e) ∧
  (∃ (e : Nat) (q : LmReq),
    (q.purpose = .lockBusy e ∨ q.purpose = .unlkNone e)) ∧
  (∃ (e : Nat) (q : LmReq),
    q.purpose = .unlkRelease e) ∧
  (∃ (s : State) (e : Nat) (q : LmReq),
    q.purpose = .atom e ∧ onSpec s e = false) :=
  ⟨⟨prog 3 { k0 := 8, k1 := 4 } [ins 0x40 0x01 (2 * 4)], 0, ins 0x40 0x01 (2 * 4), by dsimp only; decide +kernel⟩,
   ⟨prog 3 { k0 := 8, k1 := 4 } [ins 0x40 0x00 (2 * 4)], 0, ins 0x40 0x00 (2 * 4), by dsimp only; decide +kernel⟩,
   ⟨prog 3 { k0 := 8, k1 := 4 } [ins 0x41 0x00 (5 * 2 ^ 32)], 0, ins 0x41 0x00 (5 * 2 ^ 32), 5000, by dsimp only; decide +kernel⟩,
   ⟨modLock (fun l => { l with entries := [⟨8, 2, 1, 0, false⟩] }) (prog 3 { k0 := 8, k1 := 4 } [ins 0x41 0x00 (5 * 2 ^ 32)]), 0, ins 0x41 0x00 (5 * 2 ^ 32), 5000, ⟨8, 2, 1, 0, false⟩, by dsimp only; decide +kernel⟩,
   ⟨modLock (fun l => { l with entries := [⟨8, 3, 1, 0, false⟩] }) (prog 3 { k0 := 8, k1 := 4 } [ins 0x41 0x00 (5 * 2 ^ 32)]), 0, ins 0x41 0x00 (5 * 2 ^ 32), 5000, ⟨8, 3, 1, 0, false⟩, by dsimp only; decide +kernel⟩,
   ⟨modLock (fun l => { l with entries := [⟨8, 2, 1, 0, true⟩] }) (prog 3 { k0 := 8, k1 := 4 } [ins 0x42 0x00 0]), 0, ins 0x42 0x00 0, by dsimp only; decide +kernel⟩,
   ⟨modLock (fun l => { l with entries := [⟨8, 2, 1, 0, false⟩] }) (prog 3 { k0 := 8, k1 := 4 } [ins 0x42 0x00 0]), 0, ins 0x42 0x00 0, by dsimp only; decide +kernel⟩,
   ⟨0, { port := 0, tag := 0, op := .upd8, addr := 8, len := 8, purpose := .lockTake 0 }, by decide +kernel⟩,
   ⟨0, { port := 0, tag := 0, op := .upd8, addr := 8, len := 8, purpose := .lockRenew 0 }, by decide +kernel⟩,
   ⟨0, { port := 0, tag := 0, op := .upd8, addr := 8, len := 8, purpose := .unlkNone 0 }, by decide +kernel⟩,
   ⟨0, { port := 0, tag := 0, op := .upd8, addr := 8, len := 8, purpose := .unlkRelease 0 }, by decide +kernel⟩,
   ⟨prog 3 {} [], 0, { port := 0, tag := 0, op := .upd8, addr := 8, len := 8, purpose := .atom 0 }, by decide +kernel⟩⟩

/-- Branches. -/
theorem wit_branches :
  (∃ (s : State) (e : Nat) (w : Word),
    let r := (thr s e).regs
    let c := fld w 48 4
    let k := getK r (fld w 4 2)
    let target := fld w 0 3
    let good := fld w 3 1 = 0 ∧ fld w 6 42 = 0 ∧ fld w 52 4 = 0 ∧ c < 13 ∧ target ≠ 0 ∧ target ≠ 7 ∧
     target ≤ progLen (lvlOf s e) (thr s e).words ∧ (isWork s e = true → c < 10)
    let taken := c = 0 ∨ (c = 1 ∧ r.z = true) ∨ (c = 2 ∧ r.z = false) ∨ (c = 3 ∧ r.c = true) ∨ (c = 4 ∧ r.c = false) ∨
     (c = 5 ∧ r.b = true) ∨ (c = 6 ∧ r.b = false) ∨ (c = 7 ∧ k = 0) ∨ (c = 8 ∧ k ≠ 0) ∨ (c = 9 ∧ k - 1 ≠ 0) ∨
     (c = 10 ∧ onSpec s e = false ∧ (thr s e).resumed = true) ∨ (c = 11 ∧ lastOk s e = true) ∨ (c = 12 ∧ lastOk s e = false)
    due s e 0x50 = .run w ∧ good ∧ taken) ∧
  (∃ (s : State) (e : Nat) (w : Word),
    let r := (thr s e).regs
    let c := fld w 48 4
    let k := getK r (fld w 4 2)
    let target := fld w 0 3
    let good := fld w 3 1 = 0 ∧ fld w 6 42 = 0 ∧ fld w 52 4 = 0 ∧ c < 13 ∧ target ≠ 0 ∧ target ≠ 7 ∧
     target ≤ progLen (lvlOf s e) (thr s e).words ∧ (isWork s e = true → c < 10)
    let taken := c = 0 ∨ (c = 1 ∧ r.z = true) ∨ (c = 2 ∧ r.z = false) ∨ (c = 3 ∧ r.c = true) ∨ (c = 4 ∧ r.c = false) ∨
     (c = 5 ∧ r.b = true) ∨ (c = 6 ∧ r.b = false) ∨ (c = 7 ∧ k = 0) ∨ (c = 8 ∧ k ≠ 0) ∨ (c = 9 ∧ k - 1 ≠ 0) ∨
     (c = 10 ∧ onSpec s e = false ∧ (thr s e).resumed = true) ∨ (c = 11 ∧ lastOk s e = true) ∨ (c = 12 ∧ lastOk s e = false)
    due s e 0x50 = .run w ∧ good ∧ ¬ taken) ∧
  (∃ (s : State) (e : Nat) (w : Word),
    let c := fld w 48 4
    let target := fld w 0 3
    let good := fld w 3 1 = 0 ∧ fld w 6 42 = 0 ∧ fld w 52 4 = 0 ∧ c < 13 ∧ target ≠ 0 ∧ target ≠ 7 ∧
     target ≤ progLen (lvlOf s e) (thr s e).words ∧ (isWork s e = true → c < 10)
    due s e 0x50 = .run w ∧ ¬ good) :=
  ⟨⟨prog 2 {} [0, 0, 0, 0, 0, ins 0x50 0 6] |> modMain 0 (fun t => { t with regs := { t.regs with pc := 48 } }), 0, ins 0x50 0 6, by dsimp only; decide +kernel⟩,
   ⟨prog 2 {} [ins 0x50 0x01 1], 0, ins 0x50 0x01 1, by dsimp only; decide +kernel⟩,
   ⟨prog 3 {} [ins 0x50 0x00 7], 0, ins 0x50 0x00 7, by dsimp only; decide +kernel⟩⟩

/-- EndsOfPrograms. -/
theorem wit_ends_of_programs :
  (∃ (s : State) (e : Nat) (w : Word),
    let imm := bit w 52 = false
    let good := isWork s e = false ∧ fld w 2 46 = 0 ∧ fld w 53 3 = 0 ∧ (imm → fld w 0 2 = 0)
    due s e 0x51 = .run w ∧ ¬ good) ∧
  (∃ (s : State) (e : Nat) (w : Word),
    let imm := bit w 52 = false
    let good := isWork s e = false ∧ fld w 2 46 = 0 ∧ fld w 53 3 = 0 ∧ (imm → fld w 0 2 = 0)
    due s e 0x51 = .run w ∧ good ∧ imm ∧ straddles s e = true) ∧
  (∃ (s : State) (e : Nat) (w : Word),
    let imm := bit w 52 = false
    let sp : BitVec 4 := bits w 48 4
    let good := isWork s e = false ∧ fld w 2 46 = 0 ∧ fld w 53 3 = 0 ∧ (imm → fld w 0 2 = 0)
    due s e 0x51 = .run w ∧ good ∧ (imm → straddles s e = false) ∧ listSpaceOk s sp = false) ∧
  (∃ (s : State) (e : Nat) (w : Word),
    let imm := bit w 52 = false
    let a := if imm then nextWord s e else getK (thr s e).regs (fld w 0 2)
    let sp : BitVec 4 := bits w 48 4
    let good := isWork s e = false ∧ fld w 2 46 = 0 ∧ fld w 53 3 = 0 ∧ (imm → fld w 0 2 = 0)
    due s e 0x51 = .run w ∧ good ∧ (imm → straddles s e = false) ∧ listSpaceOk s sp = true ∧ aligned a 64 = false) ∧
  (∃ (s : State) (e : Nat) (w : Word),
    let imm := bit w 52 = false
    let a := if imm then nextWord s e else getK (thr s e).regs (fld w 0 2)
    let sp : BitVec 4 := bits w 48 4
    let good := isWork s e = false ∧ fld w 2 46 = 0 ∧ fld w 53 3 = 0 ∧ (imm → fld w 0 2 = 0)
    due s e 0x51 = .run w ∧ good ∧ (imm → straddles s e = false) ∧ listSpaceOk s sp = true ∧ aligned a 64 = true ∧
    onSpec s e = false) ∧
  (∃ (s : State) (e : Nat) (w : Word),
    let imm := bit w 52 = false
    let a := if imm then nextWord s e else getK (thr s e).regs (fld w 0 2)
    let sp : BitVec 4 := bits w 48 4
    let good := isWork s e = false ∧ fld w 2 46 = 0 ∧ fld w 53 3 = 0 ∧ (imm → fld w 0 2 = 0)
    due s e 0x51 = .run w ∧ good ∧ (imm → straddles s e = false) ∧ listSpaceOk s sp = true ∧ aligned a 64 = true ∧
    onSpec s e = true) ∧
  (∃ (s : State) (e : Nat) (w : Word),
    due s e 0x5F = .run w ∧ fld w 0 56 ≠ 0) ∧
  (∃ (s : State) (e : Nat) (w : Word),
    due s e 0x5F = .run w ∧ fld w 0 56 = 0 ∧ onSpec s e = false) ∧
  (∃ (s : State) (e : Nat) (w : Word),
    due s e 0x5F = .run w ∧ fld w 0 56 = 0 ∧ onSpec s e = true) :=
  ⟨⟨prog 3 {} [ins 0x51 0x20 0], 0, ins 0x51 0x20 0, by dsimp only; decide +kernel⟩,
   ⟨prog 3 {} [ins 0x51 0x00 0], 0, ins 0x51 0x00 0, by dsimp only; decide +kernel⟩,
   ⟨prog 3 {} [ins 0x51 0x15 0], 0, ins 0x51 0x15 0, by dsimp only; decide +kernel⟩,
   ⟨prog 3 { k0 := 32 } [ins 0x51 0x10 0], 0, ins 0x51 0x10 0, by dsimp only; decide +kernel⟩,
   ⟨prog 3 { k3 := 64 } [ins 0x51 0x10 3], 0, ins 0x51 0x10 3, by dsimp only; decide +kernel⟩,
   ⟨ahead (prog 3 { k3 := 64 } [ins 0x51 0x10 3]), 0, ins 0x51 0x10 3, by dsimp only; decide +kernel⟩,
   ⟨prog 3 {} [ins 0x5F 0x00 1], 0, ins 0x5F 0x00 1, by decide +kernel⟩,
   ⟨prog 3 {} [ins 0x5F 0x00 0], 0, ins 0x5F 0x00 0, by decide +kernel⟩,
   ⟨ahead (prog 3 {} [ins 0x5F 0x00 0]), 0, ins 0x5F 0x00 0, by decide +kernel⟩⟩

/-- TableInstructions. -/
theorem wit_table_instructions :
  (∃ (s : State) (e : Nat) (w : Word),
    let i := fld w 0 4
    let id : Half := bits (thr s e).regs.k0 0 32
    let ok := fld w 4 44 = 0 ∧ fld w 50 6 = 0 ∧ tabAllowed s e i = true
    due s e 0x61 = .run w ∧ ¬ (ok ∧ fld w 48 2 = 0 ∧ idFits (getInst s i) id = true)) ∧
  (∃ (s : State) (e : Nat) (w : Word),
    let i := fld w 0 4
    let id : Half := bits (thr s e).regs.k0 0 32
    let ok := fld w 4 44 = 0 ∧ fld w 50 6 = 0 ∧ tabAllowed s e i = true
    due s e 0x61 = .run w ∧ ok ∧ fld w 48 2 = 0 ∧ idFits (getInst s i) id = true ∧ bucketBusy s i id = false ∧
    tabWay s e = true) ∧
  (∃ (s : State) (e : Nat) (w : Word),
    let i := fld w 0 4
    let id : Half := bits (thr s e).regs.k0 0 32
    let ok := fld w 4 44 = 0 ∧ fld w 50 6 = 0 ∧ tabAllowed s e i = true
    due s e 0x61 = .run w ∧ ok ∧ fld w 48 2 = 0 ∧ idFits (getInst s i) id = true ∧
    (bucketBusy s i id = true ∨ tabWay s e = false)) ∧
  (∃ (s : State) (e : Nat) (w : Word),
    let i := fld w 0 4
    let id : Half := bits (thr s e).regs.k0 0 32
    let ok := fld w 4 44 = 0 ∧ fld w 50 6 = 0 ∧ tabAllowed s e i = true
    due s e 0x63 = .run w ∧ ¬ (ok ∧ fld w 48 2 = 0 ∧ idFits (getInst s i) id = true)) ∧
  (∃ (s : State) (e : Nat) (w : Word),
    let i := fld w 0 4
    let id : Half := bits (thr s e).regs.k0 0 32
    let ok := fld w 4 44 = 0 ∧ fld w 50 6 = 0 ∧ tabAllowed s e i = true
    due s e 0x63 = .run w ∧ ok ∧ fld w 48 2 = 0 ∧ idFits (getInst s i) id = true ∧ bucketBusy s i id = false ∧
    tabWay s e = true) ∧
  (∃ (s : State) (e : Nat) (w : Word),
    let i := fld w 0 4
    let id : Half := bits (thr s e).regs.k0 0 32
    let ok := fld w 4 44 = 0 ∧ fld w 50 6 = 0 ∧ tabAllowed s e i = true
    due s e 0x63 = .run w ∧ ok ∧ fld w 48 2 = 0 ∧ idFits (getInst s i) id = true ∧
    (bucketBusy s i id = true ∨ tabWay s e = false)) ∧
  (∃ (s : State) (e : Nat) (w : Word),
    let i := fld w 0 4
    let ok := fld w 4 44 = 0 ∧ fld w 50 6 = 0 ∧ tabAllowed s e i = true
    due s e 0x64 = .run w ∧ (¬ ok ∨ fld w 48 2 = 3)) ∧
  (∃ (s : State) (e : Nat) (w : Word),
    let i := fld w 0 4
    let ok := fld w 4 44 = 0 ∧ fld w 50 6 = 0 ∧ tabAllowed s e i = true
    due s e 0x64 = .run w ∧ ok ∧ fld w 48 2 = 0 ∧ tabWay s e = true) ∧
  (∃ (s : State) (e : Nat) (w : Word),
    let i := fld w 0 4
    let ok := fld w 4 44 = 0 ∧ fld w 50 6 = 0 ∧ tabAllowed s e i = true
    due s e 0x64 = .run w ∧ ok ∧ fld w 48 2 = 1 ∧ tabWay s e = true) ∧
  (∃ (s : State) (e : Nat) (w : Word),
    let i := fld w 0 4
    let ok := fld w 4 44 = 0 ∧ fld w 50 6 = 0 ∧ tabAllowed s e i = true
    due s e 0x64 = .run w ∧ ok ∧ fld w 48 2 = 2 ∧ tabWay s e = true) ∧
  (∃ (s : State) (e : Nat) (w : Word) (c : Instr),
    let i := fld w 0 4
    let ok := fld w 4 44 = 0 ∧ fld w 50 6 = 0 ∧ tabAllowed s e i = true
    due s e 0x64 = .run w ∧ ok ∧ fld w 48 2 ≠ 3 ∧ tabWay s e = false ∧
    (c = .tepoRead e ∨ c = .tepoBegin e ∨ c = .tepoArm e)) :=
  ⟨⟨prog 3 {} [ins 0x61 0x00 15], 0, ins 0x61 0x00 15, by dsimp only; decide +kernel⟩,
   ⟨tab (prog 3 {} [ins 0x61 0x00 15]), 0, ins 0x61 0x00 15, by dsimp only; decide +kernel⟩,
   ⟨modInst 15 (fun x => { x with relocating := [⟨false, 0, {}, none, false, false⟩] }) <| tab (prog 3 {} [ins 0x61 0x00 15]), 0, ins 0x61 0x00 15, by dsimp only; decide +kernel⟩,
   ⟨prog 3 {} [ins 0x63 0x00 15], 0, ins 0x63 0x00 15, by dsimp only; decide +kernel⟩,
   ⟨tab (prog 3 {} [ins 0x63 0x00 15]), 0, ins 0x63 0x00 15, by dsimp only; decide +kernel⟩,
   ⟨modInst 15 (fun x => { x with relocating := [⟨false, 0, {}, none, false, false⟩] }) <| tab (prog 3 {} [ins 0x63 0x00 15]), 0, ins 0x63 0x00 15, by dsimp only; decide +kernel⟩,
   ⟨tab (prog 3 {} [ins 0x64 0x03 15]), 0, ins 0x64 0x03 15, by dsimp only; decide +kernel⟩,
   ⟨tab (prog 3 {} [ins 0x64 0x00 15]), 0, ins 0x64 0x00 15, by dsimp only; decide +kernel⟩,
   ⟨tab (prog 3 {} [ins 0x64 0x01 15]), 0, ins 0x64 0x01 15, by dsimp only; decide +kernel⟩,
   ⟨tab (prog 3 {} [ins 0x64 0x02 15]), 0, ins 0x64 0x02 15, by dsimp only; decide +kernel⟩,
   ⟨modXbar (fun x => { x with freeze := true }) <| tab (prog 3 {} [ins 0x64 0x01 15]), 0, ins 0x64 0x01 15, .tepoBegin 0, by dsimp only; decide +kernel⟩⟩

/-- TableAnswers. -/
theorem wit_table_outcomes :
  (∃ (s : State) (e : Nat) (i : Nat) (id : Half) (rd : MResp),
    let x := getInst s i
    (getEng s e).main.phase = .table ∧ (bucketRead i (activeEp x) id rd s).1 = true ∧ findId (activeEp x) id = none) ∧
  (∃ (s : State) (e : Nat) (i : Nat),
    let x := getInst s i
    (getEng s e).main.phase = .table ∧ x.st = .rebuild) ∧
  (∃ (s : State) (e : Nat) (i : Nat),
    let x := getInst s i
    (getEng s e).main.phase = .table ∧ x.st ≠ .rebuild) ∧
  (∃ (s : State) (e : Nat) (i : Nat),
    let x := getInst s i
    (getEng s e).main.phase = .table ∧ x.st = .rebuild ∧ x.copydone = true ∧ x.armed = false) :=
  ⟨⟨modMain 0 (fun t => { t with phase := .table }) (modInst 15 (fun x => { x with ageev := false }) (tab (prog 3 {} []))), 0, 15, 7, .ok, by dsimp only; decide +kernel⟩,
   ⟨modMain 0 (fun t => { t with phase := .table }) (modInst 15 (fun x => { x with st := .rebuild }) (tab (prog 3 {} []))), 0, 15, by dsimp only; decide +kernel⟩,
   ⟨modMain 0 (fun t => { t with phase := .table }) (modInst 15 (fun x => { x with ageev := false }) (tab (prog 3 {} []))), 0, 15, by dsimp only; decide +kernel⟩,
   ⟨modMain 0 (fun t => { t with phase := .table }) (modInst 15 (fun x => { x with st := .rebuild, copydone := true }) (tab (prog 3 {} []))), 0, 15, by dsimp only; decide +kernel⟩⟩

/-- TableAnswers. -/
theorem wit_table_answer_retires :
  (∃ (s : State) (e : Nat) (a : TableAnswer),
    live s = true ∧ engFree s e = false ∧ (getEng s e).main.phase = .table ∧ (getEng s e).main.answer = some a ∧
    a.waitCopy = false ∧ a.code ≠ 0) ∧
  (∃ (s : State) (e : Nat) (a : TableAnswer),
    live s = true ∧ engFree s e = false ∧ (getEng s e).main.phase = .table ∧ (getEng s e).main.answer = some a ∧
    a.waitCopy = false ∧ a.code = 0) :=
  ⟨⟨modMain 0 (fun t => { t with phase := .table, answer := some { code := 0x12 } }) (prog 3 {} []), 0, { code := 0x12 }, by decide +kernel⟩,
   ⟨modMain 0 (fun t => { t with phase := .table, answer := some { code := 0 } }) (prog 3 {} []), 0, { code := 0 }, by decide +kernel⟩⟩

/-- TableInstructions. -/
theorem wit_table_images :
  (∃ (s : State) (e : Nat) (w : Word) (rd : MResp) (i' : Instr),
    let r := (thr s e).regs
    let i := fld w 0 4
    let ok := fld w 4 44 = 0 ∧ fld w 48 8 = 0 ∧ tabAllowed s e i = true ∧ listSpaceOk s r.sspace = true
    wordHere s e = w ∧ ((i' = .tins e rd ∧ due s e 0x60 = .run w) ∨ (i' = .tmov e rd ∧ due s e 0x62 = .run w)) ∧ ¬ ok) ∧
  (∃ (s : State) (e : Nat) (w : Word) (rd : MResp) (i' : Instr),
    let r := (thr s e).regs
    let i := fld w 0 4
    let ok := fld w 4 44 = 0 ∧ fld w 48 8 = 0 ∧ tabAllowed s e i = true ∧ listSpaceOk s r.sspace = true
    wordHere s e = w ∧ ((i' = .tins e rd ∧ due s e 0x60 = .run w) ∨ (i' = .tmov e rd ∧ due s e 0x62 = .run w)) ∧ ok ∧
    aligned r.s 32 = false) ∧
  (∃ (s : State) (e : Nat) (w : Word) (rd : MResp) (i' : Instr),
    let r := (thr s e).regs
    let c := getCtx s (chanOf s e)
    let i := fld w 0 4
    let ok := fld w 4 44 = 0 ∧ fld w 48 8 = 0 ∧ tabAllowed s e i = true ∧ listSpaceOk s r.sspace = true
    let inside := isWork s e = true ∨ windowOk r.sspace c.swspace c.swbase c.swlimit r.s 32 true = true
    wordHere s e = w ∧ ((i' = .tins e rd ∧ due s e 0x60 = .run w) ∨ (i' = .tmov e rd ∧ due s e 0x62 = .run w)) ∧ ok ∧
    aligned r.s 32 = true ∧ ¬ inside) ∧
  (∃ (s : State) (e : Nat) (w : Word) (rd : MResp) (i' : Instr),
    let r := (thr s e).regs
    let c := getCtx s (chanOf s e)
    let i := fld w 0 4
    let ok := fld w 4 44 = 0 ∧ fld w 48 8 = 0 ∧ tabAllowed s e i = true ∧ listSpaceOk s r.sspace = true
    let inside := isWork s e = true ∨ windowOk r.sspace c.swspace c.swbase c.swlimit r.s 32 true = true
    wordHere s e = w ∧ ((i' = .tins e rd ∧ due s e 0x60 = .run w) ∨ (i' = .tmov e rd ∧ due s e 0x62 = .run w)) ∧ ok ∧
    aligned r.s 32 = true ∧ inside ∧ hostBlocked s e = true) ∧
  (∃ (s : State) (e : Nat) (w : Word) (rd : MResp) (i' : Instr),
    let r := (thr s e).regs
    let c := getCtx s (chanOf s e)
    let i := fld w 0 4
    let ok := fld w 4 44 = 0 ∧ fld w 48 8 = 0 ∧ tabAllowed s e i = true ∧ listSpaceOk s r.sspace = true
    let req : RdReq := { who := whoOf s e, space := r.sspace, addr := r.s, len := 32, purpose := .image e }
    let inside := isWork s e = true ∨ windowOk r.sspace c.swspace c.swbase c.swlimit r.s 32 true = true
    wordHere s e = w ∧ ((i' = .tins e rd ∧ due s e 0x60 = .run w) ∨ (i' = .tmov e rd ∧ due s e 0x62 = .run w)) ∧ ok ∧
    aligned r.s 32 = true ∧ inside ∧ hostBlocked s e = false ∧ (engRead e req s).1 = .go) ∧
  (∃ (s : State) (e : Nat) (w : Word),
    let i := fld w 0 4
    wordHere s e = w ∧ onSpec s e = false ∧ imageReady s e = true ∧ tabAllowed s e i = true ∧ opc w = 0x60) ∧
  (∃ (s : State) (e : Nat) (w : Word),
    let i := fld w 0 4
    wordHere s e = w ∧ onSpec s e = false ∧ imageReady s e = true ∧ tabAllowed s e i = true ∧ opc w = 0x62) :=
  ⟨⟨tab (prog 3 { s := 32 } [ins 0x62 0x00 14]), 0, ins 0x62 0x00 14, .ok, .tmov 0 .ok, by dsimp only; decide +kernel⟩,
   ⟨tab (prog 3 { s := 16 } [ins 0x60 0x00 15]), 0, ins 0x60 0x00 15, .ok, .tins 0 .ok, by dsimp only; decide +kernel⟩,
   ⟨modCtx 2 (fun c => { c with swlimit := 59 }) (tab (prog 3 { s := 32 } [ins 0x60 0x00 15])), 0, ins 0x60 0x00 15, .ok, .tins 0 .ok, by dsimp only; decide +kernel⟩,
   ⟨modHp 0 (fun h => { h with wait := [{ fn := 1, addr := 0, len := 4, purpose := .desc 0 0 }] }) (tab (prog 3 { s := 32 } [ins 0x60 0x00 15])), 0, ins 0x60 0x00 15, .ok, .tins 0 .ok, by dsimp only; decide +kernel⟩,
   ⟨tab (prog 3 { s := 32 } [ins 0x60 0x00 15]), 0, ins 0x60 0x00 15, .ok, .tins 0 .ok, by dsimp only; decide +kernel⟩,
   ⟨modMain 0 (fun t => { t with phase := .imageHere }) (tab (prog 3 {} [ins 0x60 0x00 15])), 0, ins 0x60 0x00 15, by dsimp only; decide +kernel⟩,
   ⟨modMain 0 (fun t => { t with phase := .imageHere }) (tab (prog 3 {} [ins 0x62 0x00 15])), 0, ins 0x62 0x00 15, by dsimp only; decide +kernel⟩⟩

/-- Level1Descriptors. -/
theorem wit_level1_descriptors :
  (∃ (s : State) (e : Nat),
    let ws := (thr s e).words
    let w2 := nthWord ws 2
    let ok := fld w2 45 19 = 0 ∧ fld (nthWord ws 3) 60 3 = 0
    level1Due s e false = true ∧ ¬ ok) ∧
  (∃ (s : State) (e : Nat) (code : _),
    let ws := (thr s e).words
    let w2 := nthWord ws 2
    let ok := fld w2 45 19 = 0 ∧ fld (nthWord ws 3) 60 3 = 0
    let s1 := modRegs e (fun r => { r with
     s := nthWord ws 0, d := nthWord ws 1, n := bits w2 0 32, sspace := bits w2 32 4, dspace := bits w2 36 4
     sinc := bit w2 40, dinc := bit w2 41, swap := bits w2 42 2 }) (modThr e (fun t => { t with l1 := true }) s)
    let r := (thr s1 e).regs
    level1Due s e false = true ∧ ok ∧ moveCheck s1 e r = some code) ∧
  (∃ (s : State) (e : Nat),
    let ws := (thr s e).words
    let w2 := nthWord ws 2
    let ok := fld w2 45 19 = 0 ∧ fld (nthWord ws 3) 60 3 = 0
    let s1 := modRegs e (fun r => { r with
     s := nthWord ws 0, d := nthWord ws 1, n := bits w2 0 32, sspace := bits w2 32 4, dspace := bits w2 36 4
     sinc := bit w2 40, dinc := bit w2 41, swap := bits w2 42 2 }) (modThr e (fun t => { t with l1 := true }) s)
    let r := (thr s1 e).regs
    level1Due s e false = true ∧ ok ∧ moveCheck s1 e r = none) ∧
  (∃ (s : State) (e : Nat),
    let ws := (thr s e).words
    let w2 := nthWord ws 2
    let ok := fld w2 45 19 = 0 ∧ fld (nthWord ws 3) 60 3 = 0
    level1Due s e true = true ∧ ¬ ok) ∧
  (∃ (s : State) (e : Nat),
    let ws := (thr s e).words
    let w2 := nthWord ws 2
    let ok := fld w2 45 19 = 0 ∧ fld (nthWord ws 3) 60 3 = 0
    let sp : BitVec 4 := bits w2 32 4
    level1Due s e true = true ∧ ok ∧ listSpaceOk s sp = false) ∧
  (∃ (s : State) (e : Nat),
    let ws := (thr s e).words
    let w2 := nthWord ws 2
    let ok := fld w2 45 19 = 0 ∧ fld (nthWord ws 3) 60 3 = 0
    let sp : BitVec 4 := bits w2 32 4
    level1Due s e true = true ∧ ok ∧ listSpaceOk s sp = true ∧ aligned (nthWord ws 0) 32 = false) ∧
  (∃ (s : State) (e : Nat),
    let ws := (thr s e).words
    let w2 := nthWord ws 2
    let ok := fld w2 45 19 = 0 ∧ fld (nthWord ws 3) 60 3 = 0
    let sp : BitVec 4 := bits w2 32 4
    level1Due s e true = true ∧ ok ∧ listSpaceOk s sp = true ∧ aligned (nthWord ws 0) 32 = true) :=
  ⟨⟨quern [0, 0, w64 (2 ^ 63)], 0, by dsimp only; decide +kernel⟩,
   ⟨quern [2, 0, 4], 0, 0x10, by dsimp only; decide +kernel⟩,
   ⟨quern [0, 4, w64 (3 * 2 ^ 40 + 4)], 0, by dsimp only; decide +kernel⟩,
   ⟨quern [0, 0, w64 (2 ^ 44), w64 (2 ^ 60)], 0, by dsimp only; decide +kernel⟩,
   ⟨quern [32, 0, w64 (2 ^ 44 + 5 * 2 ^ 32)], 0, by dsimp only; decide +kernel⟩,
   ⟨quern [16, 0, w64 (2 ^ 44)], 0, by dsimp only; decide +kernel⟩,
   ⟨quern [32, 0, w64 (2 ^ 44)], 0, by dsimp only; decide +kernel⟩⟩

/-- MovesBegin. -/
theorem wit_move_begins :
  (∃ (s : State) (e : Nat) (w : Word),
    due s e 0x20 = .run w ∧ (fld w 0 48 ≠ 0 ∨ (bit w 54 = true ∧ lvlOf s e < 3))) ∧
  (∃ (s : State) (e : Nat) (w : Word) (code : _),
    let s1 := modRegs e (fun r => { r with sinc := bit w 48, dinc := bit w 49, swap := bits w 50 2 }) s
    let r := { (thr s e).regs with sinc := bit w 48, dinc := bit w 49, swap := bits w 50 2 }
    due s e 0x20 = .run w ∧ fld w 0 48 = 0 ∧ (bit w 54 = true → 3 ≤ lvlOf s e) ∧ moveCheck s1 e r = some code) ∧
  (∃ (s : State) (e : Nat) (w : Word),
    let s1 := modRegs e (fun r => { r with sinc := bit w 48, dinc := bit w 49, swap := bits w 50 2 }) s
    let r := { (thr s e).regs with sinc := bit w 48, dinc := bit w 49, swap := bits w 50 2 }
    due s e 0x20 = .run w ∧ fld w 0 48 = 0 ∧ (bit w 54 = true → 3 ≤ lvlOf s e) ∧ moveCheck s1 e r = none) :=
  ⟨⟨prog 2 {} [ins 0x20 0x40 0], 0, ins 0x20 0x40 0, by decide +kernel⟩,
   ⟨prog 3 { n := 1 } [ins 0x20 0x40 0], 0, ins 0x20 0x40 0, 0x10, by dsimp only; decide +kernel⟩,
   ⟨prog 3 { n := 4 } [ins 0x20 0x03 0], 0, ins 0x20 0x03 0, by dsimp only; decide +kernel⟩⟩

/-- MovesRun. -/
theorem wit_source_bursts :
  (∃ (s : State) (e : Nat) (m : Move),
    let v := evalPace e s
    (thr (evalPace e s) e).mv = some m ∧ listWaits v e m = true) ∧
  (∃ (s : State) (e : Nat) (m : Move),
    let v := evalPace e s
    (thr (evalPace e s) e).mv = some m ∧ listWaits v e m = false ∧ burstDue v e m = false) ∧
  (∃ (s : State) (e : Nat) (m : Move) (n : _) (iss : _) (u : _),
    let v := evalPace e s
    (thr (evalPace e s) e).mv = some m ∧ listWaits v e m = false ∧ burstDue v e m = true ∧
    presentBursts e m v = (n, iss, u)) ∧
  (∃ (s : State) (e : Nat) (m : Move) (off : _) (k : _),
    let v := evalPace e s
    (thr (evalPace e s) e).mv = some m ∧ nextBursts v e m = [(off, k)] ∧ (readBurst e m off k v).1 = .go) :=
  ⟨⟨atMove { moving with list := some { scatter := false, lspace := 0, next := 0, covered := 0, blocks := [], k0 := 0, reg0 := 0, k1 := 0 } }, 0, { moving with list := some { scatter := false, lspace := 0, next := 0, covered := 0, blocks := [], k0 := 0, reg0 := 0, k1 := 0 } }, by dsimp only; decide +kernel⟩,
   ⟨atMove { moving with srcNext := 8 }, 0, { moving with srcNext := 8 }, by dsimp only; decide +kernel⟩,
   ⟨atMove moving, 0, moving, (presentBursts 0 moving (evalPace 0 (atMove moving))).1, (presentBursts 0 moving (evalPace 0 (atMove moving))).2.1, (presentBursts 0 moving (evalPace 0 (atMove moving))).2.2, by dsimp only; decide +kernel⟩,
   ⟨atMove moving, 0, moving, 0, 8, by dsimp only; decide +kernel⟩⟩

/-- MovesRun. -/
theorem wit_lists_and_direct_moves :
  (∃ (s : State) (e : Nat) (l : ListSide) (old : List ListBlock) (b : ListBlock) (newer : List ListBlock),
    live s = true ∧ engFree s e = false ∧ (thr s e).mv.bind (·.list) = some l ∧ l.blocks = old ++ b :: newer ∧
    (∀ x ∈ old, x.got = none ∨ x.ready = true) ∧ b.got.isSome = true ∧ b.ready = false) ∧
  (∃ (s : State) (e : Nat) (code : _),
    let x := getEng s e
    let t := x.main
    live s = true ∧ (getEng s e).main.phase = .dnotify ∧ (getEng s e).stop ≠ .fn ∧ engFree s e = false ∧
    descSettled s e = true ∧ t.wrFail = some code) ∧
  (∃ (s : State) (e : Nat),
    let x := getEng s e
    let t := x.main
    live s = true ∧ (getEng s e).main.phase = .dnotify ∧ (getEng s e).stop ≠ .fn ∧ engFree s e = false ∧
    descSettled s e = true ∧ t.wrFail = none ∧ (t.code = 0 ∨ t.code = 1) ∧ x.ecc = false ∧ x.stop ≠ .abort) ∧
  (∃ (s : State) (e : Nat) (fl : _),
    let x := getEng s e
    let t := x.main
    live s = true ∧ (getEng s e).main.phase = .dnotify ∧ (getEng s e).stop ≠ .fn ∧ engFree s e = false ∧
    descSettled s e = true ∧ t.wrFail = none ∧ (t.code = 0 ∨ t.code = 1) ∧ x.ecc = false ∧ x.stop = .abort ∧
    (takeFlags e false false s).1 = fl) ∧
  (∃ (s : State) (e : Nat),
    let x := getEng s e
    let t := x.main
    live s = true ∧ (getEng s e).main.phase = .dnotify ∧ (getEng s e).stop ≠ .fn ∧ engFree s e = false ∧
    descSettled s e = true ∧ t.wrFail = none ∧ ((t.code ≠ 0 ∧ t.code ≠ 1) ∨ x.ecc = true)) :=
  ⟨⟨atMove { moving with list := some { scatter := false, lspace := 0, next := 0, covered := 0, blocks := [{ addr := 64, got := some (0, []) }], k0 := 0, reg0 := 0, k1 := 0 } }, 0, { scatter := false, lspace := 0, next := 0, covered := 0, blocks := [{ addr := 64, got := some (0, []) }], k0 := 0, reg0 := 0, k1 := 0 }, [], { addr := 64, got := some (0, []) }, [], by decide +kernel⟩,
   ⟨modMain 0 (fun t => { t with wrFail := some 0x21 }) (atPhase .dnotify 2), 0, 0x21, by dsimp only; decide +kernel⟩,
   ⟨modMain 0 (fun t => { t with code := 1 }) (atPhase .dnotify 2), 0, by dsimp only; decide +kernel⟩,
   ⟨modEng 0 (fun x => { x with stop := .abort }) (modMain 0 (fun t => { t with code := 1 }) (atPhase .dnotify 2)), 0, 0, by dsimp only; decide +kernel⟩,
   ⟨modMain 0 (fun t => { t with code := 0x20 }) (atPhase .dnotify 2), 0, by dsimp only; decide +kernel⟩⟩

/-- WatchdogsAndPacing. -/
theorem wit_watchdog_fires :
  (∃ (s : State) (e : Nat),
    let l := s.active.disp.wdlimit.toNat
    live s = true ∧ wdogRuns s e = true ∧ (l = 0 ∨ (s.time - (getEng s e).wdStart).toNat ≤ l * 1000)) ∧
  (∃ (s : State) (e : Nat),
    let l := s.active.disp.wdlimit.toNat
    live s = true ∧ wdogRuns s e = true ∧ l ≠ 0 ∧ l * 1000 < (s.time - (getEng s e).wdStart).toNat) :=
  ⟨⟨{ prog 2 {} [0] with time := 1000000 }, 0, by dsimp only; decide +kernel⟩,
   ⟨{ prog 2 {} [0] with time := 1000001 }, 0, by dsimp only; decide +kernel⟩⟩

/-- WatchdogsAndPacing. -/
theorem wit_pacing_releases :
  (∃ (s : State) (e : Nat),
    let held := (s.time - (getEng s e).holdAt).toNat
    live s = true ∧ s.pf.stage = .normal ∧ (getEng s e).main.phase = .hold ∧ (getEng s e).stop = .none ∧
    held < s.active.disp.pacehold.toNat * 16) ∧
  (∃ (s : State) (e : Nat),
    let held := (s.time - (getEng s e).holdAt).toNat
    live s = true ∧ s.pf.stage = .normal ∧ (getEng s e).main.phase = .hold ∧ (getEng s e).stop = .none ∧
    s.active.disp.pacehold.toNat * 16 ≤ held) ∧
  (∃ (s : State) (c : Nat) (l : List Nat),
    live s = true ∧ s.pf.stage = .normal ∧ tested s islDsp = false ∧ s.dsp.wakes = c :: l ∧
    ((getCtx s c).st ≠ .waiting ∨ (getCtx s c).pacing = none)) ∧
  (∃ (s : State) (c : Nat) (l : List Nat),
    live s = true ∧ s.pf.stage = .normal ∧ tested s islDsp = false ∧ s.dsp.wakes = c :: l ∧ (getCtx s c).st = .waiting ∧
    (getCtx s c).pacing ≠ none ∧ (getCtx s c).pause = true) ∧
  (∃ (s : State) (c : Nat) (l : List Nat),
    live s = true ∧ s.pf.stage = .normal ∧ tested s islDsp = false ∧ s.dsp.wakes = c :: l ∧ (getCtx s c).st = .waiting ∧
    (getCtx s c).pacing ≠ none ∧ (getCtx s c).pause = false) :=
  ⟨⟨{ atPhase .hold 2 with time := 1023 }, 0, by dsimp only; decide +kernel⟩,
   ⟨{ atPhase .hold 2 with time := 1024 }, 0, by dsimp only; decide +kernel⟩,
   ⟨modDsp (fun d => { d with wakes := [2] }) (chan 2 {}), 2, [], by decide +kernel⟩,
   ⟨modDsp (fun d => { d with wakes := [2] }) (chan 2 { st := .waiting, pacing := some 0, pause := true }), 2, [], by decide +kernel⟩,
   ⟨modDsp (fun d => { d with wakes := [2] }) (chan 2 { st := .waiting, pacing := some 0 }), 2, [], by decide +kernel⟩⟩

/-- DescriptorDecisions. -/
theorem wit_descriptor_reads :
  (∃ (s : State) (e : Nat),
    let t := (getEng s e).main
    let size := descSize (lvlOf s e)
    mayRead s = true ∧ (holdsChan s e = true ∨ isTask s e = true) ∧ (getEng s e).stop = .none ∧ hostBlocked s e = false ∧
    t.phase = .fetch ∧ (listSpaceOk s t.regs.pspace = false ∨ aligned t.regs.pc size = false)) ∧
  (∃ (s : State) (e : Nat) (ahead : _),
    let t := (getEng s e).main
    let size := descSize (lvlOf s e)
    let atPc : RdReq := { who := whoOf s e, space := t.regs.pspace, addr := t.regs.pc, len := size, purpose := .desc e (getCtx s (chanOf s e)).seqseen }
    mayRead s = true ∧ (holdsChan s e = true ∨ isTask s e = true) ∧ (getEng s e).stop = .none ∧ hostBlocked s e = false ∧
    t.phase = .fetch ∧ listSpaceOk s t.regs.pspace = true ∧ aligned t.regs.pc size = true ∧
    (ahead = false ∨ extendedLen s e size t.regs.pspace t.regs.pc ≤ size) ∧ (engRead e atPc s).1 = .go) ∧
  (∃ (s : State) (e : Nat) (ahead : _),
    let t := (getEng s e).main
    let size := descSize (lvlOf s e)
    mayRead s = true ∧ (holdsChan s e = true ∨ isTask s e = true) ∧ (getEng s e).stop = .none ∧ hostBlocked s e = false ∧
    t.phase = .fetch ∧ listSpaceOk s t.regs.pspace = true ∧ aligned t.regs.pc size = true ∧
    (ahead = false ∨ extendedLen s e size t.regs.pspace t.regs.pc ≤ size) ∧
    passes s (whoOf s e) t.regs.pspace t.regs.pc size .rd = true) ∧
  (∃ (s : State) (e : Nat) (ahead : _),
    let t := (getEng s e).main
    let size := descSize (lvlOf s e)
    let atPc : RdReq := { who := whoOf s e, space := t.regs.pspace, addr := t.regs.pc, len := size, purpose := .desc e (getCtx s (chanOf s e)).seqseen }
    mayRead s = true ∧ (holdsChan s e = true ∨ isTask s e = true) ∧ (getEng s e).stop = .none ∧ hostBlocked s e = false ∧
    t.phase = .fetch ∧ listSpaceOk s t.regs.pspace = true ∧ aligned t.regs.pc size = true ∧
    (ahead = false ∨ extendedLen s e size t.regs.pspace t.regs.pc ≤ size) ∧ (engRead e atPc s).1 = .denied) ∧
  (∃ (s : State) (e : Nat),
    let t := (getEng s e).main
    let size := descSize (lvlOf s e)
    let again : RdReq := { who := whoOf s e, space := t.aspace, addr := t.a, len := size, purpose := .resume e }
    mayRead s = true ∧ (holdsChan s e = true ∨ isTask s e = true) ∧ (getEng s e).stop = .none ∧ hostBlocked s e = false ∧
    t.phase = .resume ∧ (engRead e again s).1 = .go) ∧
  (∃ (s : State) (e : Nat),
    let t := (getEng s e).main
    let size := descSize (lvlOf s e)
    mayRead s = true ∧ (holdsChan s e = true ∨ isTask s e = true) ∧ (getEng s e).stop = .none ∧ hostBlocked s e = false ∧
    t.phase = .resume ∧ t.aspace ≠ 5 ∧ passes s (whoOf s e) t.aspace t.a size .rd = true) ∧
  (∃ (s : State) (e : Nat),
    let t := (getEng s e).main
    let size := descSize (lvlOf s e)
    let again : RdReq := { who := whoOf s e, space := t.aspace, addr := t.a, len := size, purpose := .resume e }
    mayRead s = true ∧ (holdsChan s e = true ∨ isTask s e = true) ∧ (getEng s e).stop = .none ∧ hostBlocked s e = false ∧
    t.phase = .resume ∧ (engRead e again s).1 = .denied) ∧
  (∃ (s : State) (e : Nat),
    let t := (getEng s e).main
    mayRead s = true ∧ (holdsChan s e = true ∨ isTask s e = true) ∧ (getEng s e).stop = .none ∧ hostBlocked s e = false ∧
    t.phase ≠ .fetch ∧ t.phase ≠ .resume) :=
  ⟨⟨modMain 0 (fun t => { t with regs := { pc := 32 } }) (atPhase .fetch 2), 0, by dsimp only; decide +kernel⟩,
   ⟨modMain 0 (fun t => { t with regs := { pc := 32 } }) (atPhase .fetch 1), 0, false, by dsimp only; decide +kernel⟩,
   ⟨modMain 0 (fun t => { t with regs := { pc := 64 } }) (atPhase .fetch 2), 0, false, by dsimp only; decide +kernel⟩,
   ⟨modGate (fun g => { g with active := [(64 * 68, ruleDenyAll)] }) (modMain 0 (fun t => { t with regs := { pc := 64 } }) (atPhase .fetch 2)), 0, false, by dsimp only; decide +kernel⟩,
   ⟨atPhase .resume 2, 0, by dsimp only; decide +kernel⟩,
   ⟨modMain 0 (fun t => { t with a := 64 }) (atPhase .resume 2), 0, by dsimp only; decide +kernel⟩,
   ⟨modGate (fun g => { g with active := [(64 * 68, ruleDenyAll)] }) (atPhase .resume 2), 0, by dsimp only; decide +kernel⟩,
   ⟨atPhase .exec 2, 0, by dsimp only; decide +kernel⟩⟩

/-- DescriptorDecisions. -/
theorem wit_header_decisions :
  (∃ (s : State) (e : Nat),
    let t := (getEng s e).main
    let space := listSpaceOk s t.regs.pspace
    live s = true ∧ s.pf.stage = .normal ∧ holdsChan s e = true ∧ (getEng s e).stop = .none ∧
    (getEng s e).main.phase = .fetched ∧ space = false) ∧
  (∃ (s : State) (e : Nat),
    let t := (getEng s e).main
    let l := lvlOf s e
    let space := listSpaceOk s t.regs.pspace
    let al := aligned t.regs.pc (descSize l)
    live s = true ∧ s.pf.stage = .normal ∧ holdsChan s e = true ∧ (getEng s e).stop = .none ∧
    (getEng s e).main.phase = .fetched ∧ space = true ∧ al = false) ∧
  (∃ (s : State) (e : Nat) (code : _),
    let t := (getEng s e).main
    let l := lvlOf s e
    let space := listSpaceOk s t.regs.pspace
    let al := aligned t.regs.pc (descSize l)
    live s = true ∧ s.pf.stage = .normal ∧ holdsChan s e = true ∧ (getEng s e).stop = .none ∧
    (getEng s e).main.phase = .fetched ∧ space = true ∧ al = true ∧ t.readErr = some code) ∧
  (∃ (s : State) (e : Nat),
    let t := (getEng s e).main
    let l := lvlOf s e
    let space := listSpaceOk s t.regs.pspace
    let al := aligned t.regs.pc (descSize l)
    live s = true ∧ s.pf.stage = .normal ∧ holdsChan s e = true ∧ (getEng s e).stop = .none ∧
    (getEng s e).main.phase = .fetched ∧ space = true ∧ al = true ∧ t.readErr = none ∧
    heldAt s e t.regs.pspace t.regs.pc = none) ∧
  (∃ (s : State) (e : Nat) (h : _),
    let t := (getEng s e).main
    let c := getCtx s (chanOf s e)
    let l := lvlOf s e
    let space := listSpaceOk s t.regs.pspace
    let al := aligned t.regs.pc (descSize l)
    live s = true ∧ s.pf.stage = .normal ∧ holdsChan s e = true ∧ (getEng s e).stop = .none ∧
    (getEng s e).main.phase = .fetched ∧ space = true ∧ al = true ∧ t.readErr = none ∧
    heldAt s e t.regs.pspace t.regs.pc = some h ∧ seqCovers h.seen c.seqexp = false) ∧
  (∃ (s : State) (e : Nat) (h : _),
    let t := (getEng s e).main
    let c := getCtx s (chanOf s e)
    let l := lvlOf s e
    let space := listSpaceOk s t.regs.pspace
    let al := aligned t.regs.pc (descSize l)
    live s = true ∧ s.pf.stage = .normal ∧ holdsChan s e = true ∧ (getEng s e).stop = .none ∧
    (getEng s e).main.phase = .fetched ∧ space = true ∧ al = true ∧ t.readErr = none ∧
    heldAt s e t.regs.pspace t.regs.pc = some h ∧ seqCovers h.seen c.seqexp = true ∧ hdrOwn l h.words = true ∧
    hdrSeq l h.words = c.seqexp) ∧
  (∃ (s : State) (e : Nat) (h : _),
    let t := (getEng s e).main
    let c := getCtx s (chanOf s e)
    let l := lvlOf s e
    let space := listSpaceOk s t.regs.pspace
    let al := aligned t.regs.pc (descSize l)
    live s = true ∧ s.pf.stage = .normal ∧ holdsChan s e = true ∧ (getEng s e).stop = .none ∧
    (getEng s e).main.phase = .fetched ∧ space = true ∧ al = true ∧ t.readErr = none ∧
    heldAt s e t.regs.pspace t.regs.pc = some h ∧ seqCovers h.seen c.seqexp = true ∧
    (hdrOwn l h.words = false ∨ hdrSeq l h.words ≠ c.seqexp)) :=
  ⟨⟨modMain 0 (fun t => { t with regs := { pspace := 5 } }) (atPhase .fetched 2), 0, by dsimp only; decide +kernel⟩,
   ⟨modMain 0 (fun t => { t with regs := { pc := 32 } }) (atPhase .fetched 2), 0, by dsimp only; decide +kernel⟩,
   ⟨modMain 0 (fun t => { t with regs := { pc := 0 }, readErr := some 0x20 }) (atPhase .fetched 1), 0, 0x20, by dsimp only; decide +kernel⟩,
   ⟨modMain 0 (fun t => { t with regs := { pc := 64 } }) (atPhase .fetched 2), 0, by dsimp only; decide +kernel⟩,
   ⟨modCtx 2 (fun c => { c with seqexp := 5 }) (modEng 0 (fun x => { x with ahead := [⟨0, 0, [], 4, false⟩] }) (modMain 0 (fun t => { t with regs := { pc := 0 } }) (atPhase .fetched 2))), 0, ⟨0, 0, [], 4, false⟩, by dsimp only; decide +kernel⟩,
   ⟨modCtx 2 (fun c => { c with seqexp := 5 }) (modEng 0 (fun x => { x with ahead := [⟨0, 0, [w64 (2 ^ 63 + 5 * 2 ^ 32 + 2 ^ 56)], 5, false⟩] }) (modMain 0 (fun t => { t with regs := { pc := 0 } }) (atPhase .fetched 2))), 0, ⟨0, 0, [w64 (2 ^ 63 + 5 * 2 ^ 32 + 2 ^ 56)], 5, false⟩, by dsimp only; decide +kernel⟩,
   ⟨modCtx 2 (fun c => { c with seqexp := 5 }) (modEng 0 (fun x => { x with ahead := [⟨0, 0, [w64 (2 ^ 63)], 5, false⟩] }) (modMain 0 (fun t => { t with regs := { pc := 0 } }) (atPhase .fetched 2))), 0, ⟨0, 0, [w64 (2 ^ 63)], 5, false⟩, by dsimp only; decide +kernel⟩⟩

/-- CoverageAndResuming. -/
theorem wit_cover_query :
  (∃ (s : State) (e : Nat),
    let c := chanOf s e
    live s = true ∧ holdsChan s e = true ∧ (getEng s e).stop = .none ∧ (getEng s e).main.phase = .query ∧
    seqCovers (getCtx s c).seqseen (getCtx s c).seqexp = true) ∧
  (∃ (s : State) (e : Nat),
    let c := chanOf s e
    live s = true ∧ holdsChan s e = true ∧ (getEng s e).stop = .none ∧ (getEng s e).main.phase = .query ∧
    seqCovers (getCtx s c).seqseen (getCtx s c).seqexp = false) :=
  ⟨⟨modCtx 2 (fun c => { c with seqseen := 5, seqexp := 5 }) (atPhase .query 2), 0, by dsimp only; decide +kernel⟩,
   ⟨modCtx 2 (fun c => { c with seqseen := 5, seqexp := 6 }) (atPhase .query 2), 0, by dsimp only; decide +kernel⟩⟩

/-- CoverageAndResuming. -/
theorem wit_resumed_descriptors :
  (∃ (s : State) (e : Nat) (code : _),
    let t := (getEng s e).main
    live s = true ∧ (holdsChan s e = true ∨ isTask s e = true) ∧ (getEng s e).stop = .none ∧
    (getEng s e).main.phase = .resumed ∧ t.readErr = some code ∧ isTask s e = false) ∧
  (∃ (s : State) (e : Nat) (code : _),
    let t := (getEng s e).main
    live s = true ∧ (holdsChan s e = true ∨ isTask s e = true) ∧ (getEng s e).stop = .none ∧
    (getEng s e).main.phase = .resumed ∧ t.readErr = some code ∧ isTask s e = true) ∧
  (∃ (s : State) (e : Nat),
    let t := (getEng s e).main
    live s = true ∧ (holdsChan s e = true ∨ isTask s e = true) ∧ (getEng s e).stop = .none ∧
    (getEng s e).main.phase = .resumed ∧ t.readErr = none ∧ isTask s e = true) ∧
  (∃ (s : State) (e : Nat),
    let t := (getEng s e).main
    let l1 := isTask s e = false ∧ lvlOf s e = 1
    live s = true ∧ (holdsChan s e = true ∨ isTask s e = true) ∧ (getEng s e).stop = .none ∧
    (getEng s e).main.phase = .resumed ∧ t.readErr = none ∧ l1 ∧ t.l1 = false) ∧
  (∃ (s : State) (e : Nat) (code : _),
    let t := (getEng s e).main
    let l1 := isTask s e = false ∧ lvlOf s e = 1
    live s = true ∧ (holdsChan s e = true ∨ isTask s e = true) ∧ (getEng s e).stop = .none ∧
    (getEng s e).main.phase = .resumed ∧ t.readErr = none ∧ l1 ∧ t.l1 = true ∧ moveCheck s e t.regs = some code) ∧
  (∃ (s : State) (e : Nat),
    let t := (getEng s e).main
    let l1 := isTask s e = false ∧ lvlOf s e = 1
    live s = true ∧ (holdsChan s e = true ∨ isTask s e = true) ∧ (getEng s e).stop = .none ∧
    (getEng s e).main.phase = .resumed ∧ t.readErr = none ∧ l1 ∧ t.l1 = true ∧ moveCheck s e t.regs = none) ∧
  (∃ (s : State) (e : Nat),
    let t := (getEng s e).main
    let s1 := modMain e (fun t => { t with phase := .exec }) s
    live s = true ∧ (holdsChan s e = true ∨ isTask s e = true) ∧ (getEng s e).stop = .none ∧
    (getEng s e).main.phase = .resumed ∧ t.readErr = none ∧ isTask s e = false ∧ lvlOf s e ≠ 1 ∧
    pastEnd s1 e (getEng s1 e).main = false) ∧
  (∃ (s : State) (e : Nat),
    let t := (getEng s e).main
    let s1 := modMain e (fun t => { t with phase := .exec }) s
    live s = true ∧ (holdsChan s e = true ∨ isTask s e = true) ∧ (getEng s e).stop = .none ∧
    (getEng s e).main.phase = .resumed ∧ t.readErr = none ∧ isTask s e = false ∧ lvlOf s e ≠ 1 ∧
    pastEnd s1 e (getEng s1 e).main = true) :=
  ⟨⟨modMain 0 (fun t => { t with readErr := some 0x21 }) (atPhase .resumed 2), 0, 0x21, by dsimp only; decide +kernel⟩,
   ⟨modEng 0 (fun x => { x with hold := .task 2 }) (modMain 0 (fun t => { t with readErr := some 0x21 }) (atPhase .resumed 2)), 0, 0x21, by dsimp only; decide +kernel⟩,
   ⟨modEng 0 (fun x => { x with hold := .task 2 }) (atPhase .resumed 2), 0, by dsimp only; decide +kernel⟩,
   ⟨atPhase .resumed 1, 0, by dsimp only; decide +kernel⟩,
   ⟨modMain 0 (fun t => { t with l1 := true, regs := { n := 1, dspace := 3, d := 1 } }) (atPhase .resumed 1), 0, 0x10, by dsimp only; decide +kernel⟩,
   ⟨modMain 0 (fun t => { t with l1 := true }) (atPhase .resumed 1), 0, by dsimp only; decide +kernel⟩,
   ⟨modMain 0 (fun t => { t with phase := .resumed }) (prog 2 {} [0]), 0, by dsimp only; decide +kernel⟩,
   ⟨atPhase .resumed 2, 0, by dsimp only; decide +kernel⟩⟩

/-- Dispatching. -/
theorem wit_dispatching :
  (∃ (s : State),
    s.inReset = false ∧ s.pf.stage = .normal ∧ tested s islDsp = true) ∧
  (∃ (s : State),
    let may (e : Nat) := e < nEngines s ∧ engPresent s e = true ∧ engFree s e = true ∧ testedEng s e = false
    s.inReset = false ∧ s.pf.stage = .normal ∧ tested s islDsp = false ∧ (∀ e, may e → takeOf s e = none)) ∧
  (∃ (s : State) (e : _) (c : _),
    s.inReset = false ∧ s.pf.stage = .normal ∧ tested s islDsp = false ∧ taskFor s e = some c) ∧
  (∃ (s : State) (e : _),
    s.inReset = false ∧ s.pf.stage = .normal ∧ tested s islDsp = false ∧ taskFor s e = none ∧
    workCands s e ++ chanCands s e = []) ∧
  (∃ (s : State) (e : _),
    s.inReset = false ∧ s.pf.stage = .normal ∧ tested s islDsp = false ∧ taskFor s e = none ∧
    workCands s e ++ chanCands s e ≠ []) ∧
  (∃ (s : State) (e : _) (c : _),
    let may (e : Nat) := e < nEngines s ∧ engPresent s e = true ∧ engFree s e = true ∧ testedEng s e = false
    s.inReset = false ∧ s.pf.stage = .normal ∧ tested s islDsp = false ∧ may e ∧ (∀ e' < e, may e' → takeOf s e' = none) ∧
    takeOf s e = some (.task c) ∧ (getCtx s c).direct = false) ∧
  (∃ (s : State) (e : _) (x : _),
    let may (e : Nat) := e < nEngines s ∧ engPresent s e = true ∧ engFree s e = true ∧ testedEng s e = false
    s.inReset = false ∧ s.pf.stage = .normal ∧ tested s islDsp = false ∧ may e ∧ (∀ e' < e, may e' → takeOf s e' = none) ∧
    takeOf s e = some (.cand x) ∧ x.work = true) ∧
  (∃ (s : State) (e : _) (x : _),
    let may (e : Nat) := e < nEngines s ∧ engPresent s e = true ∧ engFree s e = true ∧ testedEng s e = false
    s.inReset = false ∧ s.pf.stage = .normal ∧ tested s islDsp = false ∧ may e ∧ (∀ e' < e, may e' → takeOf s e' = none) ∧
    takeOf s e = some (.cand x) ∧ x.work = false ∧ (getCtx s x.id).direct = false) ∧
  (∃ (s : State) (e : _) (x : _),
    let may (e : Nat) := e < nEngines s ∧ engPresent s e = true ∧ engFree s e = true ∧ testedEng s e = false
    s.inReset = false ∧ s.pf.stage = .normal ∧ tested s islDsp = false ∧ may e ∧ (∀ e' < e, may e' → takeOf s e' = none) ∧
    takeOf s e = some (.cand x) ∧ x.work = false ∧ (getCtx s x.id).direct = true) ∧
  (∃ (s : State) (e : _) (c : _),
    let may (e : Nat) := e < nEngines s ∧ engPresent s e = true ∧ engFree s e = true ∧ testedEng s e = false
    s.inReset = false ∧ s.pf.stage = .normal ∧ tested s islDsp = false ∧ may e ∧ (∀ e' < e, may e' → takeOf s e' = none) ∧
    takeOf s e = some (.task c) ∧ (getCtx s c).direct = true) :=
  ⟨⟨{ up with st := { up.st with busy := true, lkind := 0, ltarget := 1 } }, by decide +kernel⟩,
   ⟨chan 2 {}, by
    have h : ∀ e, e < nEngines (chan 2 {}) → takeOf (chan 2 {}) e = none := by decide +kernel
    dsimp only
    exact ⟨by decide +kernel, by decide +kernel, by decide +kernel, fun e x => h e x.1⟩⟩,
   ⟨modDsp (fun d => { d with wbTasks := [2] }) (chan 2 {}), 0, 2, by decide +kernel⟩,
   ⟨chan 2 {}, 0, by decide +kernel⟩,
   ⟨modDsp (fun d => { d with work := [⟨8, 0, 15, 0⟩] }) up, 0, by decide +kernel⟩,
   ⟨modDsp (fun d => { d with wbTasks := [2] }) (chan 2 {}), 0, 2, by dsimp only; decide +kernel⟩,
   ⟨modDsp (fun d => { d with work := [⟨8, 0, 15, 0⟩] }) up, 0, { aged := false, dl := 0x4000, stamp := 0, work := true, id := 8, slot := 0 }, by dsimp only; decide +kernel⟩,
   ⟨modDsp (fun d => { d with ready := [⟨15, 2, 0⟩] }) (chan 2 { st := .ready, dc := 15 }), 0, { aged := false, dl := 0x4000, stamp := 0, work := false, id := 2 }, by dsimp only; decide +kernel⟩,
   ⟨modDsp (fun d => { d with ready := [⟨15, 2, 0⟩] }) (chan 2 { st := .ready, dc := 15, direct := true }), 0, { aged := false, dl := 0x4000, stamp := 0, work := false, id := 2 }, by dsimp only; decide +kernel⟩,
   ⟨modDsp (fun d => { d with wbTasks := [2] }) (chan 2 { direct := true }), 0, 2, by dsimp only; decide +kernel⟩⟩

/-- StopPoints. -/
theorem wit_pause_stops :
  (∃ (s : State) (e : Nat),
    let s1 := modEng e (fun x => { x with stopping := true }) s
    let t := (getEng s e).main
    let failed := (t.phase = .fetched ∨ t.phase = .resumed) ∧ t.readErr ≠ none
    live s = true ∧ s.pf.stage = .normal ∧ (getEng s e).stop = .pause ∧ holdsChan s e = true ∧
    t.phase ∈ [.fetch, .fetched, .query, .resume, .resumed, .exec, .hold, .release, .imageHere] ∧ ¬ failed ∧
    descSettled s1 e = true ∧ t.wrFail = none) ∧
  (∃ (s : State) (e : Nat) (code : _),
    let s1 := modEng e (fun x => { x with stopping := true }) s
    let t := (getEng s e).main
    let failed := (t.phase = .fetched ∨ t.phase = .resumed) ∧ t.readErr ≠ none
    live s = true ∧ s.pf.stage = .normal ∧ (getEng s e).stop = .pause ∧ holdsChan s e = true ∧
    t.phase ∈ [.fetch, .fetched, .query, .resume, .resumed, .exec, .hold, .release, .imageHere] ∧ ¬ failed ∧
    descSettled s1 e = true ∧ t.wrFail = some code) ∧
  (∃ (s : State) (e : Nat),
    let s1 := modEng e (fun x => { x with stopping := true }) s
    let t := (getEng s e).main
    let failed := (t.phase = .fetched ∨ t.phase = .resumed) ∧ t.readErr ≠ none
    live s = true ∧ s.pf.stage = .normal ∧ (getEng s e).stop = .pause ∧ holdsChan s e = true ∧
    t.phase ∈ [.fetch, .fetched, .query, .resume, .resumed, .exec, .hold, .release, .imageHere] ∧ ¬ failed ∧
    descSettled s1 e = false) ∧
  (∃ (s : State) (e : Nat) (code : _),
    let t := (getEng s e).main
    live s = true ∧ s.pf.stage = .normal ∧ (getEng s e).stop = .pause ∧ holdsChan s e = true ∧
    t.phase ∈ [.fetch, .fetched, .query, .resume, .resumed, .exec, .hold, .release, .imageHere] ∧ t.phase = .fetched ∧
    t.readErr = some code) ∧
  (∃ (s : State) (e : Nat) (code : _),
    let t := (getEng s e).main
    live s = true ∧ s.pf.stage = .normal ∧ (getEng s e).stop = .pause ∧ holdsChan s e = true ∧
    t.phase ∈ [.fetch, .fetched, .query, .resume, .resumed, .exec, .hold, .release, .imageHere] ∧ t.phase = .resumed ∧
    t.readErr = some code) ∧
  (∃ (s : State) (e : Nat) (s2 : _),
    let s1 := modEng e (fun x => { x with stopping := true }) s
    let t := (getEng s e).main
    live s = true ∧ s.pf.stage = .normal ∧ (getEng s e).stop = .pause ∧ holdsChan s e = true ∧ t.phase = .moving ∧
    onSpec s e = false ∧ engAfter e (listStep e (modMv e (fun m => { m with list := m.list.map takeUpBlocks }) s1)) = s2 ∧
    ((getEng s2 e).main.phase ≠ .moving ∨ (getEng s2 e).main.mv = none)) ∧
  (∃ (s : State) (e : Nat) (s2 : _) (m : _),
    let s1 := modEng e (fun x => { x with stopping := true }) s
    let t := (getEng s e).main
    live s = true ∧ s.pf.stage = .normal ∧ (getEng s e).stop = .pause ∧ holdsChan s e = true ∧ t.phase = .moving ∧
    onSpec s e = false ∧ engAfter e (listStep e (modMv e (fun m => { m with list := m.list.map takeUpBlocks }) s1)) = s2 ∧
    (getEng s2 e).main.phase = .moving ∧ (getEng s2 e).main.mv = some m ∧ moveQuiet s2 e m = false) ∧
  (∃ (s : State) (e : Nat) (s2 : _) (m : _),
    let s1 := modEng e (fun x => { x with stopping := true }) s
    let t := (getEng s e).main
    live s = true ∧ s.pf.stage = .normal ∧ (getEng s e).stop = .pause ∧ holdsChan s e = true ∧ t.phase = .moving ∧
    onSpec s e = false ∧ engAfter e (listStep e (modMv e (fun m => { m with list := m.list.map takeUpBlocks }) s1)) = s2 ∧
    (getEng s2 e).main.phase = .moving ∧ (getEng s2 e).main.mv = some m ∧ moveQuiet s2 e m = true ∧
    descSettled (saveMove e s2) e = false) ∧
  (∃ (s : State) (e : Nat) (s2 : _) (m : _),
    let s1 := modEng e (fun x => { x with stopping := true }) s
    let t := (getEng s e).main
    live s = true ∧ s.pf.stage = .normal ∧ (getEng s e).stop = .pause ∧ holdsChan s e = true ∧ t.phase = .moving ∧
    onSpec s e = false ∧ engAfter e (listStep e (modMv e (fun m => { m with list := m.list.map takeUpBlocks }) s1)) = s2 ∧
    (getEng s2 e).main.phase = .moving ∧ (getEng s2 e).main.mv = some m ∧ moveQuiet s2 e m = true ∧
    descSettled (saveMove e s2) e = true ∧ (getEng (saveMove e s2) e).main.wrFail = none) :=
  ⟨⟨modEng 0 (fun x => { x with stop := .pause }) (atPhase .exec 2), 0, by dsimp only; decide +kernel⟩,
   ⟨modEng 0 (fun x => { x with stop := .pause }) (modMain 0 (fun t => { t with wrFail := some 0x21 }) (atPhase .fetch 2)), 0, 0x21, by dsimp only; decide +kernel⟩,
   ⟨modHp 0 (fun p => { p with posted := [{ fn := 1, addr := 0, data := [], purpose := .notify 0 }] }) (modEng 0 (fun x => { x with stop := .pause }) (atPhase .exec 2)), 0, by dsimp only; decide +kernel⟩,
   ⟨modEng 0 (fun x => { x with stop := .pause }) (modMain 0 (fun t => { t with readErr := some 0x21 }) (atPhase .fetched 2)), 0, 0x21, by dsimp only; decide +kernel⟩,
   ⟨modEng 0 (fun x => { x with stop := .pause }) (modMain 0 (fun t => { t with readErr := some 0x21 }) (atPhase .resumed 2)), 0, 0x21, by dsimp only; decide +kernel⟩,
   ⟨modEng 0 (fun x => { x with stop := .pause, main := { x.main with phase := .moving, mv := none } }) (prog 3 {} []), 0, engAfter 0 (listStep 0 (modMv 0 (fun m => { m with list := m.list.map takeUpBlocks }) (modEng 0 (fun x => { x with stopping := true }) (modEng 0 (fun x => { x with stop := .pause, main := { x.main with phase := .moving, mv := none } }) (prog 3 {} []))))), by dsimp only; decide +kernel⟩,
   ⟨modEng 0 (fun x => { x with stop := .pause, main := { x.main with phase := .moving, mv := some { moving with srcNext := 8, staged := [(0, bytesOf (0 : Word) 8)] } } }) (prog 3 {} []), 0, engAfter 0 (listStep 0 (modMv 0 (fun m => { m with list := m.list.map takeUpBlocks }) (modEng 0 (fun x => { x with stopping := true }) (modEng 0 (fun x => { x with stop := .pause, main := { x.main with phase := .moving, mv := some { moving with srcNext := 8, staged := [(0, bytesOf (0 : Word) 8)] } } }) (prog 3 {} []))))), ((getEng (engAfter 0 (listStep 0 (modMv 0 (fun m => { m with list := m.list.map takeUpBlocks }) (modEng 0 (fun x => { x with stopping := true }) (modEng 0 (fun x => { x with stop := .pause, main := { x.main with phase := .moving, mv := some { moving with srcNext := 8, staged := [(0, bytesOf (0 : Word) 8)] } } }) (prog 3 {} [])))))) 0).main.mv.getD default), by dsimp only; decide +kernel⟩,
   ⟨modHp 0 (fun p => { p with posted := [{ fn := 1, addr := 0, data := [], purpose := .notify 0 }] }) (modEng 0 (fun x => { x with stop := .pause, main := { x.main with phase := .moving, mv := some { moving with n0 := 8, srcNext := 0 } } }) (prog 3 {} [])), 0, engAfter 0 (listStep 0 (modMv 0 (fun m => { m with list := m.list.map takeUpBlocks }) (modEng 0 (fun x => { x with stopping := true }) (modHp 0 (fun p => { p with posted := [{ fn := 1, addr := 0, data := [], purpose := .notify 0 }] }) (modEng 0 (fun x => { x with stop := .pause, main := { x.main with phase := .moving, mv := some { moving with n0 := 8, srcNext := 0 } } }) (prog 3 {} [])))))), ((getEng (engAfter 0 (listStep 0 (modMv 0 (fun m => { m with list := m.list.map takeUpBlocks }) (modEng 0 (fun x => { x with stopping := true }) (modHp 0 (fun p => { p with posted := [{ fn := 1, addr := 0, data := [], purpose := .notify 0 }] }) (modEng 0 (fun x => { x with stop := .pause, main := { x.main with phase := .moving, mv := some { moving with n0 := 8, srcNext := 0 } } }) (prog 3 {} []))))))) 0).main.mv.getD default), by dsimp only; decide +kernel⟩,
   ⟨modEng 0 (fun x => { x with stop := .pause, main := { x.main with phase := .moving, mv := some { moving with n0 := 8, srcNext := 0 } } }) (prog 3 {} []), 0, engAfter 0 (listStep 0 (modMv 0 (fun m => { m with list := m.list.map takeUpBlocks }) (modEng 0 (fun x => { x with stopping := true }) (modEng 0 (fun x => { x with stop := .pause, main := { x.main with phase := .moving, mv := some { moving with n0 := 8, srcNext := 0 } } }) (prog 3 {} []))))), ((getEng (engAfter 0 (listStep 0 (modMv 0 (fun m => { m with list := m.list.map takeUpBlocks }) (modEng 0 (fun x => { x with stopping := true }) (modEng 0 (fun x => { x with stop := .pause, main := { x.main with phase := .moving, mv := some { moving with n0 := 8, srcNext := 0 } } }) (prog 3 {} [])))))) 0).main.mv.getD default), by dsimp only; decide +kernel⟩⟩

/-- StopPoints. -/
theorem wit_abort_and_context_errors :
  (∃ (s : State) (e : Nat),
    live s = true ∧ s.pf.stage = .normal ∧ (getEng s e).stop = .abort ∧ holdsChan s e = true ∧
    (getEng s e).main.phase ∈ [.fetch, .fetchWait, .fetched, .query]) ∧
  (∃ (s : State) (e : Nat),
    let s1 := abandonReads e s
    live s = true ∧ s.pf.stage = .normal ∧ (getEng s e).stop = .abort ∧ holdsChan s e = true ∧
    (getEng s e).main.phase ∈ [.exec, .hold, .release, .image, .imageHere] ∧ descSettled s1 e = true) ∧
  (∃ (s : State) (e : Nat),
    let s1 := abandonReads e s
    live s = true ∧ s.pf.stage = .normal ∧ (getEng s e).stop = .abort ∧ holdsChan s e = true ∧
    (getEng s e).main.phase ∈ [.exec, .hold, .release, .image, .imageHere] ∧ descSettled s1 e = false) ∧
  (∃ (s : State) (e : Nat) (s2 : _),
    live s = true ∧ s.pf.stage = .normal ∧ (getEng s e).stop = .abort ∧ holdsChan s e = true ∧
    (getEng s e).main.phase = .moving ∧ engAfter e (dropStaged e (abandonReads e s)) = s2 ∧
    ((getEng s2 e).main.phase ≠ .moving ∨ (getEng s2 e).main.mv = none)) ∧
  (∃ (s : State) (e : Nat) (s2 : _) (m : _),
    live s = true ∧ s.pf.stage = .normal ∧ (getEng s e).stop = .abort ∧ holdsChan s e = true ∧
    (getEng s e).main.phase = .moving ∧ engAfter e (dropStaged e (abandonReads e s)) = s2 ∧
    (getEng s2 e).main.phase = .moving ∧ (getEng s2 e).main.mv = some m ∧ dstSettled s2 e m m.dstNext = false) ∧
  (∃ (s : State) (e : Nat) (s2 : _) (m : _),
    live s = true ∧ s.pf.stage = .normal ∧ (getEng s e).stop = .abort ∧ holdsChan s e = true ∧
    (getEng s e).main.phase = .moving ∧ engAfter e (dropStaged e (abandonReads e s)) = s2 ∧
    (getEng s2 e).main.phase = .moving ∧ (getEng s2 e).main.mv = some m ∧ dstSettled s2 e m m.dstNext = true ∧
    descSettled s2 e = false) ∧
  (∃ (s : State) (e : Nat) (s2 : _) (m : _),
    live s = true ∧ s.pf.stage = .normal ∧ (getEng s e).stop = .abort ∧ holdsChan s e = true ∧
    (getEng s e).main.phase = .moving ∧ engAfter e (dropStaged e (abandonReads e s)) = s2 ∧
    (getEng s2 e).main.phase = .moving ∧ (getEng s2 e).main.mv = some m ∧ dstSettled s2 e m m.dstNext = true ∧
    descSettled s2 e = true ∧ (getEng s2 e).stop = .abort) ∧
  (∃ (s : State) (e : Nat),
    live s = true ∧ s.pf.stage = .normal ∧ (getEng s e).stop = .abort ∧ holdsChan s e = true ∧
    (getEng s e).main.phase ∈ [.resume, .resumeWait, .resumed]) ∧
  (∃ (s : State) (e : Nat),
    live s = true ∧ s.pf.stage = .normal ∧ (getEng s e).stop = .ecc ∧ holdsChan s e = true ∧
    (getEng s e).main.phase ∈ [.resume, .resumeWait, .resumed]) ∧
  (∃ (s : State) (e : Nat),
    live s = true ∧ s.pf.stage = .normal ∧ (getEng s e).stop = .abort ∧ isWork s e = true ∧
    (getEng s e).main.phase ∈ [.exec, .hold, .release, .image, .imageHere]) ∧
  (∃ (s : State) (c : Nat),
    live s = true ∧ chanPresent s c = true ∧ engOf s c = none) ∧
  (∃ (s : State) (c : Nat) (x : _),
    live s = true ∧ chanPresent s c = true ∧ engOf s c = some x) :=
  ⟨⟨modEng 0 (fun x => { x with stop := .abort }) (atPhase .fetch 2), 0, by decide +kernel⟩,
   ⟨modEng 0 (fun x => { x with stop := .abort }) (atPhase .imageHere 2), 0, by dsimp only; decide +kernel⟩,
   ⟨modHp 0 (fun p => { p with posted := [{ fn := 1, addr := 0, data := [], purpose := .notify 0 }] }) (modEng 0 (fun x => { x with stop := .abort }) (atPhase .imageHere 2)), 0, by dsimp only; decide +kernel⟩,
   ⟨modEng 0 (fun x => { x with stop := .abort, main := { x.main with phase := .moving, mv := none } }) (prog 3 {} []), 0, engAfter 0 (dropStaged 0 (abandonReads 0 (modEng 0 (fun x => { x with stop := .abort, main := { x.main with phase := .moving, mv := none } }) (prog 3 {} [])))), by decide +kernel⟩,
   ⟨{ (modEng 0 (fun x => { x with stop := .abort, main := { x.main with phase := .moving, mv := some { moving with srcNext := 8, dstNext := 8 } } }) (prog 3 {} [])) with lm := [{ port := 0, tag := 0, op := .write, addr := 64, len := 8, purpose := .dst 0 0 }] }, 0, engAfter 0 (dropStaged 0 (abandonReads 0 ({ (modEng 0 (fun x => { x with stop := .abort, main := { x.main with phase := .moving, mv := some { moving with srcNext := 8, dstNext := 8 } } }) (prog 3 {} [])) with lm := [{ port := 0, tag := 0, op := .write, addr := 64, len := 8, purpose := .dst 0 0 }] }))), ((getEng (engAfter 0 (dropStaged 0 (abandonReads 0 ({ (modEng 0 (fun x => { x with stop := .abort, main := { x.main with phase := .moving, mv := some { moving with srcNext := 8, dstNext := 8 } } }) (prog 3 {} [])) with lm := [{ port := 0, tag := 0, op := .write, addr := 64, len := 8, purpose := .dst 0 0 }] })))) 0).main.mv.getD default), by decide +kernel⟩,
   ⟨modHp 0 (fun p => { p with posted := [{ fn := 1, addr := 0, data := [], purpose := .notify 0 }] }) (modEng 0 (fun x => { x with stop := .abort, main := { x.main with phase := .moving, mv := some moving } }) (prog 3 {} [])), 0, engAfter 0 (dropStaged 0 (abandonReads 0 (modHp 0 (fun p => { p with posted := [{ fn := 1, addr := 0, data := [], purpose := .notify 0 }] }) (modEng 0 (fun x => { x with stop := .abort, main := { x.main with phase := .moving, mv := some moving } }) (prog 3 {} []))))), ((getEng (engAfter 0 (dropStaged 0 (abandonReads 0 (modHp 0 (fun p => { p with posted := [{ fn := 1, addr := 0, data := [], purpose := .notify 0 }] }) (modEng 0 (fun x => { x with stop := .abort, main := { x.main with phase := .moving, mv := some moving } }) (prog 3 {} [])))))) 0).main.mv.getD default), by decide +kernel⟩,
   ⟨modEng 0 (fun x => { x with stop := .abort, main := { x.main with phase := .moving, mv := some moving } }) (prog 3 {} []), 0, engAfter 0 (dropStaged 0 (abandonReads 0 (modEng 0 (fun x => { x with stop := .abort, main := { x.main with phase := .moving, mv := some moving } }) (prog 3 {} [])))), ((getEng (engAfter 0 (dropStaged 0 (abandonReads 0 (modEng 0 (fun x => { x with stop := .abort, main := { x.main with phase := .moving, mv := some moving } }) (prog 3 {} []))))) 0).main.mv.getD default), by decide +kernel⟩,
   ⟨modEng 0 (fun x => { x with stop := .abort }) (atPhase .resumed 2), 0, by decide +kernel⟩,
   ⟨modEng 0 (fun x => { x with stop := .ecc }) (atPhase .resumed 2), 0, by decide +kernel⟩,
   ⟨modEng 0 (fun x => { x with stop := .abort }) (work (atPhase .exec 2)), 0, by decide +kernel⟩,
   ⟨chan 2 {}, 2, by decide +kernel⟩,
   ⟨prog 2 {} [], 2, 0, by decide +kernel⟩⟩

/-- Quiescing. -/
theorem wit_quiescing :
  (∃ (s : State) (r : Requester),
    live s = true ∧ isFirmware r = true ∧ s.pf.stage ≠ .normal) ∧
  (∃ (s : State) (r : Requester),
    live s = true ∧ isFirmware r = true ∧ s.pf.stage = .normal ∧ s.dsp.qreq = false) ∧
  (∃ (s : State) (r : Requester),
    live s = true ∧ isFirmware r = true ∧ s.pf.stage = .normal ∧ s.dsp.qreq = true ∧ s.dsp.recAborts = []) :=
  ⟨⟨{ up with pf := { up.pf with stage := .drain } }, .kc, by decide +kernel⟩,
   ⟨up, .kc, by decide +kernel⟩,
   ⟨modDsp (fun d => { d with qreq := true }) up, .kc, by decide +kernel⟩⟩

/-- LockBreaks. -/
theorem wit_lock_breaks :
  (∃ (s : State) (x : LockEntry),
    let who : Who := { cls := 2, engine := 9, core := true }
    let ok := (gateCheck s (68 + lmPortOf s x.addr) who .both x.addr 8 false).ok
    mayIssue s = true ∧ ok = true) ∧
  (∃ (s : State) (x : LockEntry),
    let who : Who := { cls := 2, engine := 9, core := true }
    let ok := (gateCheck s (68 + lmPortOf s x.addr) who .both x.addr 8 false).ok
    mayIssue s = true ∧ ok = false) ∧
  (∃ (s : State) (a : Word) (x : LockEntry),
    mayIssue s = true ∧ tested s islDsp = false ∧ lockAt s a = some x ∧ x.releasing = false ∧
    x.expiry.toNat ≤ s.time.toNat ∧ s.lock.waiting = []) ∧
  (∃ (s : State) (r : Requester),
    let w := alignDown s.lock.lbcmdadr 8
    mayIssue s = true ∧ isKc r = true ∧ lockAt s w = none) ∧
  (∃ (s : State) (x : LockEntry) (r : Requester),
    let w := alignDown s.lock.lbcmdadr 8
    let waits := ∃ y ∈ s.lock.waiting, y.addr = x.addr
    mayIssue s = true ∧ isKc r = true ∧ lockAt s w = some x ∧ (x.releasing = true ∨ waits)) ∧
  (∃ (s : State) (x : LockEntry) (r : Requester),
    let w := alignDown s.lock.lbcmdadr 8
    let waits := ∃ y ∈ s.lock.waiting, y.addr = x.addr
    mayIssue s = true ∧ isKc r = true ∧ lockAt s w = some x ∧ x.releasing = false ∧ ¬ waits ∧ engOf s x.chan = none ∧
    orphanOut s x.chan = false) ∧
  (∃ (s : State) (x : LockEntry) (r : Requester),
    let w := alignDown s.lock.lbcmdadr 8
    let waits := ∃ y ∈ s.lock.waiting, y.addr = x.addr
    mayIssue s = true ∧ isKc r = true ∧ lockAt s w = some x ∧ x.releasing = false ∧ ¬ waits ∧ engOf s x.chan = none ∧
    orphanOut s x.chan = true) ∧
  (∃ (s : State) (x : LockEntry) (r : Requester),
    let w := alignDown s.lock.lbcmdadr 8
    let waits := ∃ y ∈ s.lock.waiting, y.addr = x.addr
    mayIssue s = true ∧ isKc r = true ∧ lockAt s w = some x ∧ x.releasing = false ∧ ¬ waits ∧
    (engOf s x.chan).isSome = true) :=
  ⟨⟨up, ⟨8, 2, 1, 0, false⟩, by dsimp only; decide +kernel⟩,
   ⟨modGate (fun g => { g with active := [(64 * 68, ruleDenyAll)] }) up, ⟨8, 2, 1, 0, false⟩, by dsimp only; decide +kernel⟩,
   ⟨modLock (fun l => { l with entries := [⟨8, 2, 1, 0, false⟩], lbcmdadr := 15 }) (up), 8, ⟨8, 2, 1, 0, false⟩, by decide +kernel⟩,
   ⟨up, .kc, by dsimp only; decide +kernel⟩,
   ⟨modLock (fun l => { l with entries := [⟨8, 2, 1, 0, true⟩], lbcmdadr := 15 }) (up), ⟨8, 2, 1, 0, true⟩, .kc, by dsimp only; decide +kernel⟩,
   ⟨modLock (fun l => { l with entries := [⟨8, 2, 1, 0, false⟩], lbcmdadr := 15 }) (up), ⟨8, 2, 1, 0, false⟩, .kc, by dsimp only; decide +kernel⟩,
   ⟨{ (modLock (fun l => { l with entries := [⟨8, 2, 1, 0, false⟩], lbcmdadr := 15 }) (up)) with lm := [{ port := 0, tag := 7, op := .write, addr := 64, len := 8, purpose := .orphan 2 }] }, ⟨8, 2, 1, 0, false⟩, .kc, by dsimp only; decide +kernel⟩,
   ⟨modLock (fun l => { l with entries := [⟨8, 2, 1, 0, false⟩], lbcmdadr := 15 }) (prog 2 {} []), ⟨8, 2, 1, 0, false⟩, .kc, by dsimp only; decide +kernel⟩⟩

/-- Arbitration. -/
theorem wit_crossbar_decisions :
  (∃ (s : State),
    live s = true ∧ tested s islXbr = false) :=
  ⟨up, by decide +kernel⟩

/-- Arbitration. -/
theorem wit_ranking :
  (∃ (s : State) (a : XReq) (b : XReq),
    isReserved s a ≠ isReserved s b) ∧
  (∃ (s : State) (a : XReq) (b : XReq),
    isReserved s a = isReserved s b ∧ a.overdue ≠ b.overdue) ∧
  (∃ (s : State) (a : XReq) (b : XReq),
    isReserved s a = isReserved s b ∧ a.overdue = false ∧ b.overdue = false ∧ dlAhead a.deadline b.deadline = true) ∧
  (∃ (s : State) (a : XReq) (b : XReq),
    isReserved s a = isReserved s b ∧ a.overdue = false ∧ b.overdue = false ∧ dlAhead a.deadline b.deadline = false ∧
    dlAhead b.deadline a.deadline = true) ∧
  (∃ (s : State) (a : XReq) (b : XReq),
    isReserved s a = isReserved s b ∧ a.overdue = b.overdue ∧
    (a.overdue = true ∨ (dlAhead a.deadline b.deadline = false ∧ dlAhead b.deadline a.deadline = false)) ∧
    a.stamp ≠ b.stamp) ∧
  (∃ (s : State) (a : XReq) (b : XReq),
    isReserved s a = isReserved s b ∧ a.overdue = b.overdue ∧
    (a.overdue = true ∨ (dlAhead a.deadline b.deadline = false ∧ dlAhead b.deadline a.deadline = false)) ∧
    a.stamp = b.stamp ∧ a.idx ≠ b.idx) ∧
  (∃ (s : State) (a : XReq) (b : XReq),
    isReserved s a = isReserved s b ∧ a.overdue = b.overdue ∧
    (a.overdue = true ∨ (dlAhead a.deadline b.deadline = false ∧ dlAhead b.deadline a.deadline = false)) ∧
    a.stamp = b.stamp ∧ a.idx = b.idx) ∧
  (∃ (s : State) (a : XReq) (i : _) (r : _),
    weakestLane s a = some (i, r)) :=
  ⟨⟨{ modXbar (fun x => { x with slot := 0 }) up with active := { up.active with xarb := { slot := [(0, 129)] } } }, { idx := 1, ord := 0, deadline := 5, stamp := 0 }, { idx := 2, ord := 0, deadline := 5, stamp := 0 }, by decide +kernel⟩,
   ⟨up, { idx := 3, ord := 0, deadline := 5, stamp := 0, overdue := true }, { idx := 4, ord := 0, deadline := 5, stamp := 0 }, by decide +kernel⟩,
   ⟨up, { idx := 3, ord := 0, deadline := 5, stamp := 0 }, { idx := 4, ord := 0, deadline := 9, stamp := 0 }, by decide +kernel⟩,
   ⟨up, { idx := 3, ord := 0, deadline := 9, stamp := 0 }, { idx := 4, ord := 0, deadline := 5, stamp := 0 }, by decide +kernel⟩,
   ⟨up, { idx := 3, ord := 0, deadline := 5, stamp := 0 }, { idx := 4, ord := 0, deadline := 5, stamp := 1 }, by decide +kernel⟩,
   ⟨up, { idx := 3, ord := 0, deadline := 5, stamp := 0 }, { idx := 4, ord := 0, deadline := 5, stamp := 0 }, by decide +kernel⟩,
   ⟨up, { idx := 3, ord := 0, deadline := 5, stamp := 0 }, { idx := 3, ord := 0, deadline := 5, stamp := 0 }, by decide +kernel⟩,
   ⟨modXbar (fun x => { x with lanes := [(2, .held { idx := 4, ord := 0, deadline := 9, stamp := 0 } true)] }) up, { idx := 3, ord := 0, deadline := 5, stamp := 0 }, 2, { idx := 4, ord := 0, deadline := 9, stamp := 0 }, by decide +kernel⟩⟩

/-- Arbitration. -/
theorem wit_cluster_decisions :
  (∃ (s : State) (k : Nat),
    let c := getClu s k
    live s = true ∧ k < nClusters s ∧ tested s (18 + k) = false ∧ c.granted = false ∧ c.freeze = true) ∧
  (∃ (s : State) (k : Nat),
    let c := getClu s k
    live s = true ∧ k < nClusters s ∧ tested s (18 + k) = false ∧ c.granted = false ∧ clusterReqs s k none = []) ∧
  (∃ (s : State) (k : Nat) (q : _),
    let c := getClu s k
    live s = true ∧ k < nClusters s ∧ tested s (18 + k) = false ∧ c.granted = false ∧ c.freeze = false ∧
    q ∈ clusterReqs s k none ∧ (∀ p ∈ clusterReqs s k none, p = q ∨ (cahead q p = true ∧ cahead p q = false))) ∧
  (∃ (s : State) (k : Nat),
    let c := getClu s k
    let own := 16 * k + c.owner.toNat
    live s = true ∧ k < nClusters s ∧ tested s (18 + k) = false ∧ c.granted = true ∧ (getPort s own).inq = [] ∧
    c.quern = false) ∧
  (∃ (s : State) (k : Nat) (x : _) (rest : _),
    let c := getClu s k
    let own := 16 * k + c.owner.toNat
    live s = true ∧ k < nClusters s ∧ tested s (18 + k) = false ∧ c.granted = true ∧ (getPort s own).inq = x :: rest) :=
  ⟨⟨modClu 2 (fun c => { c with freeze := true }) (up), 2, by dsimp only; decide +kernel⟩,
   ⟨up, 2, by dsimp only; decide +kernel⟩,
   ⟨modPort 33 (fun k => { k with inq := [⟨5, false⟩] }) (up), 2, ((clusterBest (modPort 33 (fun k => { k with inq := [⟨5, false⟩] }) (up)) 2 none).getD default), by dsimp only; decide +kernel⟩,
   ⟨modClu 2 (fun c => { c with granted := true, owner := 1 }) up, 2, by dsimp only; decide +kernel⟩,
   ⟨modClu 2 (fun c => { c with granted := true, owner := 1 }) (modPort 33 (fun k => { k with inq := [⟨5, false⟩] }) (up)), 2, ⟨5, false⟩, [], by dsimp only; decide +kernel⟩⟩

/-- Arbitration. -/
theorem wit_lanes_and_slots :
  (∃ (s : State) (lane : Nat) (r : _) (b : _),
    live s = true ∧ tested s islXbr = false ∧ laneAt s lane = .held r b ∧ reqEmpty s r = false) ∧
  (∃ (s : State) (lane : Nat) (r : _) (b : _),
    let waits := ∃ q ∈ s.xbar.fresh ++ s.xbar.pend, lanesHeldBy s q.idx < laneLimit q.idx ∨ q.idx = r.idx
    live s = true ∧ tested s islXbr = false ∧ laneAt s lane = .held r b ∧ reqEmpty s r = true ∧
    (waits ∨ s.xbar.freeze = true)) ∧
  (∃ (s : State) (lane : Nat) (r : _) (b : _),
    let waits := ∃ q ∈ s.xbar.fresh ++ s.xbar.pend, lanesHeldBy s q.idx < laneLimit q.idx ∨ q.idx = r.idx
    live s = true ∧ tested s islXbr = false ∧ laneAt s lane = .held r b ∧ reqEmpty s r = true ∧ ¬ waits ∧
    s.xbar.freeze = false) ∧
  (∃ (s : State) (i : Nat) (r : _) (t : _),
    live s = true ∧ tested s islXbr = false ∧ s.xbar.unparked[i]? = some (r, t) ∧ t.toNat ≤ s.time.toNat) ∧
  (∃ (s : State),
    live s = true ∧ tested s islXbr = false ∧ lastSlot s ≤ s.xbar.slot.toNat) ∧
  (∃ (s : State),
    live s = true ∧ tested s islXbr = false ∧ s.xbar.slot.toNat < lastSlot s) :=
  ⟨⟨modXbar (fun x => { x with lanes := [(2, .held { idx := 70, ord := 0, deadline := 5, stamp := 0, q := [{ deadline := 5, beats := 1 }] } true)] }) (up), 2, { idx := 70, ord := 0, deadline := 5, stamp := 0, q := [{ deadline := 5, beats := 1 }] }, true, by decide +kernel⟩,
   ⟨modXbar (fun x => { x with lanes := [(2, .held { idx := 3, ord := 0, deadline := 5, stamp := 0 } true)], freeze := true }) (up), 2, { idx := 3, ord := 0, deadline := 5, stamp := 0 }, true, by dsimp only; decide +kernel⟩,
   ⟨modXbar (fun x => { x with lanes := [(2, .held { idx := 3, ord := 0, deadline := 5, stamp := 0 } true)] }) (up), 2, { idx := 3, ord := 0, deadline := 5, stamp := 0 }, true, by dsimp only; decide +kernel⟩,
   ⟨modXbar (fun x => { x with unparked := [({ idx := 3, ord := 0, deadline := 5, stamp := 0 }, 0)] }) (up), 0, { idx := 3, ord := 0, deadline := 5, stamp := 0 }, 0, by decide +kernel⟩,
   ⟨modXbar (fun x => { x with slot := 63 }) up, by decide +kernel⟩,
   ⟨up, by decide +kernel⟩⟩

/-- SeamSwaps. -/
theorem wit_seam_swaps_settings :
  (∃ (s : State),
    s.inReset = false) :=
  ⟨up, by decide +kernel⟩

/-- SeamSwaps. -/
theorem wit_seam_swaps_rules_and_epochs :
  (∃ (s : State),
    s.inReset = false) :=
  ⟨up, by decide +kernel⟩

/-- ArmingAndFreezing. -/
theorem wit_arming_and_freezing :
  (∃ (s : State) (r : Requester),
    live s = true ∧ isFirmware r = true) ∧
  (∃ (s : State) (r : Requester),
    live s = true ∧ isFirmware r = true) ∧
  (∃ (s : State) (r : Requester) (k : _) (j : _),
    live s = true ∧ isFirmware r = true ∧ k < nClusters s ∧ j ≠ k) ∧
  (∃ (s : State) (r : Requester) (u : State),
    live s = true ∧ isFirmware r = true ∧ u.xback = []) ∧
  (∃ (s : State) (r : Requester) (rule : _),
    live s = true ∧ isKc r = true ∧ rule < 64 ∧ gatePresent s s.gate.gsel.toNat = true ∧
    ruleLocked s s.gate.gsel.toNat = true) ∧
  (∃ (s : State) (r : Requester) (rule : _),
    live s = true ∧ isKc r = true ∧ rule < 64 ∧ gatePresent s s.gate.gsel.toNat = true ∧
    ruleLocked s s.gate.gsel.toNat = false) ∧
  (∃ (s : State) (r : Requester),
    live s = true ∧ isKc r = true ∧ s.gate.latched = none ∧ badRule s (gateMask s.gate) = none) ∧
  (∃ (s : State) (r : Requester) (k : _),
    live s = true ∧ isKc r = true ∧ s.gate.latched = none ∧ badRule s (gateMask s.gate) = some k) ∧
  (∃ (s : State) (r : Requester),
    live s = true ∧ isKc r = true ∧ s.gate.latched ≠ none) ∧
  (∃ (s : State) (r : Requester) (v : _),
    live s = true ∧ isKc r = true ∧ (v - s.gate.vlogrd).toNat ≤ (s.gate.vlogwr - s.gate.vlogrd).toNat) ∧
  (∃ (s : State) (r : Requester) (v : _),
    live s = true ∧ isKc r = true ∧ (s.gate.vlogwr - s.gate.vlogrd).toNat < (v - s.gate.vlogrd).toNat) :=
  ⟨⟨up, .kc, by decide +kernel⟩,
   ⟨up, .kc, by decide +kernel⟩,
   ⟨up, .kc, 2, 3, by decide +kernel⟩,
   ⟨up, .kc, up, by decide +kernel⟩,
   ⟨modGate (fun g => { g with armed := true, latched := some 1 }) (up), .kc, 63, by decide +kernel⟩,
   ⟨up, .kc, 63, by decide +kernel⟩,
   ⟨up, .kc, by decide +kernel⟩,
   ⟨modGate (fun g => { g with mask0 := 1, shadow := [(5, { w2 := w64 (2 ^ 63), w0 := 1 })] }) (up), .kc, 5, by decide +kernel⟩,
   ⟨modGate (fun g => { g with latched := some 1 }) (up), .kc, by decide +kernel⟩,
   ⟨modGate (fun g => { g with vlogwr := 5 }) (up), .kc, 5, by decide +kernel⟩,
   ⟨modGate (fun g => { g with vlogwr := 5 }) (up), .kc, 6, by decide +kernel⟩⟩

/-- MemoryAnswers. -/
theorem wit_memory_answers :
  (∃ (s : State) (n : Nat) (tag : Nat) (resp : MResp) (data : List Byte) (r : LmReq),
    let d := r.got ++ data.take (r.len - r.got.length)
    let code := if r.bad = 0 then (match resp with
     | .ok => (0 : Byte)
     | .err => 0x21
     | .poison => 0x23) else r.bad
    let past (k : Nat) := if ownAccess r.purpose = true then s else xLm r.port r.dl k s
    let crosses (k : Nat) := ownAccess r.purpose = true ∨ xstands (past k) (76 + n) 0 = false
    s.inReset = false ∧ tested s (islLmp n) = false ∧ answerWaits s r.purpose = false ∧ lmFind s n tag = some r ∧
    r.op = .read ∧ readElsewhere r.purpose = false ∧ crosses data.length ∧ (d.length = r.len ∨ (code ≠ 0 ∧ data = []))) ∧
  (∃ (s : State) (n : Nat) (tag : Nat) (resp : MResp) (data : List Byte) (r : LmReq),
    let d := r.got ++ data.take (r.len - r.got.length)
    let code := if r.bad = 0 then (match resp with
     | .ok => (0 : Byte)
     | .err => 0x21
     | .poison => 0x23) else r.bad
    let past (k : Nat) := if ownAccess r.purpose = true then s else xLm r.port r.dl k s
    let crosses (k : Nat) := ownAccess r.purpose = true ∨ xstands (past k) (76 + n) 0 = false
    s.inReset = false ∧ tested s (islLmp n) = false ∧ answerWaits s r.purpose = false ∧ lmFind s n tag = some r ∧
    r.op = .read ∧ readElsewhere r.purpose = false ∧ crosses data.length ∧ d.length ≠ r.len ∧ (code = 0 ∨ data ≠ [])) ∧
  (∃ (s : State) (n : Nat) (tag : Nat) (r : LmReq),
    let past (k : Nat) := if ownAccess r.purpose = true then s else xLm r.port r.dl k s
    let crosses (k : Nat) := ownAccess r.purpose = true ∨ xstands (past k) (76 + n) 0 = false
    s.inReset = false ∧ tested s (islLmp n) = false ∧ answerWaits s r.purpose = false ∧ lmFind s n tag = some r ∧
    r.op ≠ .read ∧ r.op ≠ .upd8 ∧ writeElsewhere r.purpose = false ∧ crosses 0) ∧
  (∃ (s : State) (n : Nat) (tag : Nat) (r : LmReq) (e : _),
    let past (k : Nat) := if ownAccess r.purpose = true then s else xLm r.port r.dl k s
    let crosses (k : Nat) := ownAccess r.purpose = true ∨ xstands (past k) (76 + n) 0 = false
    s.inReset = false ∧ tested s (islLmp n) = false ∧ answerWaits s r.purpose = false ∧ lmFind s n tag = some r ∧
    r.op = .upd8 ∧ r.purpose ≠ .owncopy ∧ crosses 8 ∧ purposeEng r.purpose = some e) ∧
  (∃ (s : State) (n : Nat) (tag : Nat) (r : LmReq),
    let past (k : Nat) := if ownAccess r.purpose = true then s else xLm r.port r.dl k s
    let crosses (k : Nat) := ownAccess r.purpose = true ∨ xstands (past k) (76 + n) 0 = false
    s.inReset = false ∧ tested s (islLmp n) = false ∧ answerWaits s r.purpose = false ∧ lmFind s n tag = some r ∧
    r.op = .upd8 ∧ r.purpose ≠ .owncopy ∧ crosses 8 ∧ purposeEng r.purpose = none) ∧
  (∃ (s : State) (n : Nat) (tag : Nat) (data : List Byte) (r : LmReq),
    let past (k : Nat) := if ownAccess r.purpose = true then s else xLm r.port r.dl k s
    s.inReset = false ∧ tested s (islLmp n) = false ∧ answerWaits s r.purpose = false ∧ lmFind s n tag = some r ∧
    ownAccess r.purpose = false ∧ r.op = .read ∧ xstands (past data.length) (76 + n) 0 = true) ∧
  (∃ (s : State) (n : Nat) (tag : Nat) (r : LmReq),
    let past (k : Nat) := if ownAccess r.purpose = true then s else xLm r.port r.dl k s
    s.inReset = false ∧ tested s (islLmp n) = false ∧ answerWaits s r.purpose = false ∧ lmFind s n tag = some r ∧
    ownAccess r.purpose = false ∧ r.op ≠ .read ∧ r.op ≠ .upd8 ∧ writeElsewhere r.purpose = false ∧
    xstands (past 0) (76 + n) 0 = true) ∧
  (∃ (s : State) (n : Nat) (tag : Nat) (r : LmReq),
    let past (k : Nat) := if ownAccess r.purpose = true then s else xLm r.port r.dl k s
    s.inReset = false ∧ tested s (islLmp n) = false ∧ answerWaits s r.purpose = false ∧ lmFind s n tag = some r ∧
    ownAccess r.purpose = false ∧ r.op = .upd8 ∧ xstands (past 8) (76 + n) 0 = true) :=
  ⟨⟨{ (up) with lm := [{ port := 0, tag := 7, op := .read, addr := 64, len := 8, purpose := .list 0 }] }, 0, 7, .ok, [0, 0, 0, 0, 0, 0, 0, 0], { port := 0, tag := 7, op := .read, addr := 64, len := 8, purpose := .list 0 }, by dsimp only; decide +kernel⟩,
   ⟨{ (up) with lm := [{ port := 0, tag := 7, op := .read, addr := 64, len := 16, purpose := .list 0 }] }, 0, 7, .ok, [0, 0, 0, 0, 0, 0, 0, 0], { port := 0, tag := 7, op := .read, addr := 64, len := 16, purpose := .list 0 }, by dsimp only; decide +kernel⟩,
   ⟨{ (up) with lm := [{ port := 0, tag := 7, op := .write, addr := 64, len := 8, purpose := .notify 0 }] }, 0, 7, { port := 0, tag := 7, op := .write, addr := 64, len := 8, purpose := .notify 0 }, by dsimp only; decide +kernel⟩,
   ⟨{ (up) with lm := [{ port := 0, tag := 7, op := .upd8, addr := 64, len := 8, purpose := .atom 0 }] }, 0, 7, { port := 0, tag := 7, op := .upd8, addr := 64, len := 8, purpose := .atom 0 }, 0, by dsimp only; decide +kernel⟩,
   ⟨{ (up) with lm := [{ port := 0, tag := 7, op := .upd8, addr := 64, len := 8, purpose := .fold 4 2 }] }, 0, 7, { port := 0, tag := 7, op := .upd8, addr := 64, len := 8, purpose := .fold 4 2 }, by dsimp only; decide +kernel⟩,
   ⟨{ (modXbar (fun x => { x with freeze := true }) up) with lm := [{ port := 0, tag := 7, op := .read, addr := 64, len := 8, purpose := .list 0 }] }, 0, 7, [0, 0, 0, 0, 0, 0, 0, 0], { port := 0, tag := 7, op := .read, addr := 64, len := 8, purpose := .list 0 }, by dsimp only; decide +kernel⟩,
   ⟨{ (modXbar (fun x => { x with freeze := true }) up) with lm := [{ port := 0, tag := 7, op := .write, addr := 64, len := 8, purpose := .notify 0 }] }, 0, 7, { port := 0, tag := 7, op := .write, addr := 64, len := 8, purpose := .notify 0 }, by dsimp only; decide +kernel⟩,
   ⟨{ (modXbar (fun x => { x with freeze := true }) up) with lm := [{ port := 0, tag := 7, op := .upd8, addr := 64, len := 8, purpose := .atom 0 }] }, 0, 7, { port := 0, tag := 7, op := .upd8, addr := 64, len := 8, purpose := .atom 0 }, by dsimp only; decide +kernel⟩⟩

/-- HostCompletions. -/
theorem wit_host_completions :
  (∃ (s : State) (h : Nat) (p : Piece),
    s.inReset = false ∧ h < nHosts s ∧ tested s (islHpt h) = false ∧ taggedSlot s h p.tag = none) ∧
  (∃ (s : State) (h : Nat) (i : Nat) (x : Slot) (p : Piece),
    s.inReset = false ∧ h < nHosts s ∧ tested s (islHpt h) = false ∧ taggedSlot s h p.tag = some (i, x) ∧
    x.quarUntil.isSome = true) ∧
  (∃ (s : State) (h : Nat) (i : Nat) (x : Slot) (p : Piece),
    let used := x.disc = .no ∧ answeredElsewhere x.purpose = false
    s.inReset = false ∧ h < nHosts s ∧ tested s (islHpt h) = false ∧ taggedSlot s h p.tag = some (i, x) ∧
    x.quarUntil = none ∧ p.timeout = true ∧ (¬ used ∨ piecesBehind s h p.tag = [])) ∧
  (∃ (s : State) (h : Nat) (i : Nat) (x : Slot) (p : Piece),
    s.inReset = false ∧ h < nHosts s ∧ tested s (islHpt h) = false ∧ taggedSlot s h p.tag = some (i, x) ∧
    x.quarUntil = none ∧ p.timeout = false ∧ answeredElsewhere x.purpose = true) ∧
  (∃ (s : State) (h : Nat) (i : Nat) (x : Slot) (p : Piece),
    s.inReset = false ∧ h < nHosts s ∧ tested s (islHpt h) = false ∧ taggedSlot s h p.tag = some (i, x) ∧
    x.quarUntil = none ∧ p.timeout = false ∧ answeredElsewhere x.purpose = false ∧ x.disc ≠ .no) ∧
  (∃ (s : State) (h : Nat) (i : Nat) (x : Slot) (p : Piece),
    let used := x.disc = .no ∧ answeredElsewhere x.purpose = false
    let u := xHost h x.fn x.dl p.data.length s
    s.inReset = false ∧ h < nHosts s ∧ tested s (islHpt h) = false ∧ taggedSlot s h p.tag = some (i, x) ∧
    x.quarUntil = none ∧ p.timeout = false ∧ used ∧ xstands u (72 + h) 0 = true) ∧
  (∃ (s : State) (h : Nat) (i : Nat) (x : Slot) (p : Piece),
    let used := x.disc = .no ∧ answeredElsewhere x.purpose = false
    let u := xHost h x.fn x.dl p.data.length s
    s.inReset = false ∧ h < nHosts s ∧ tested s (islHpt h) = false ∧ taggedSlot s h p.tag = some (i, x) ∧
    x.quarUntil = none ∧ p.timeout = false ∧ used ∧ xstands u (72 + h) 0 = false ∧ p.status ≠ 0) ∧
  (∃ (s : State) (h : Nat) (i : Nat) (x : Slot) (p : Piece),
    let used := x.disc = .no ∧ answeredElsewhere x.purpose = false
    let u := xHost h x.fn x.dl p.data.length s
    s.inReset = false ∧ h < nHosts s ∧ tested s (islHpt h) = false ∧ taggedSlot s h p.tag = some (i, x) ∧
    x.quarUntil = none ∧ p.timeout = false ∧ used ∧ xstands u (72 + h) 0 = false ∧ p.status = 0 ∧ pieceBad x p = true) ∧
  (∃ (s : State) (h : Nat) (i : Nat) (x : Slot) (p : Piece),
    let used := x.disc = .no ∧ answeredElsewhere x.purpose = false
    let u := xHost h x.fn x.dl p.data.length s
    s.inReset = false ∧ h < nHosts s ∧ tested s (islHpt h) = false ∧ taggedSlot s h p.tag = some (i, x) ∧
    x.quarUntil = none ∧ p.timeout = false ∧ used ∧ xstands u (72 + h) 0 = false ∧ p.status = 0 ∧ pieceBad x p = false ∧
    (x.got ++ p.data).length = x.len) ∧
  (∃ (s : State) (h : Nat) (i : Nat) (x : Slot) (p : Piece),
    let used := x.disc = .no ∧ answeredElsewhere x.purpose = false
    let u := xHost h x.fn x.dl p.data.length s
    s.inReset = false ∧ h < nHosts s ∧ tested s (islHpt h) = false ∧ taggedSlot s h p.tag = some (i, x) ∧
    x.quarUntil = none ∧ p.timeout = false ∧ used ∧ xstands u (72 + h) 0 = false ∧ p.status = 0 ∧ pieceBad x p = false ∧
    (x.got ++ p.data).length ≠ x.len) ∧
  (∃ (s : State) (h : Nat) (i : Nat) (x : Slot),
    s.inReset = false ∧ h < nHosts s ∧ tested s (islHpt h) = false ∧ getSlot s h i = some x ∧
    taggedSlot s h (timeoutPiece i x).tag = some (i, x) ∧ x.quarUntil = none ∧ x.cto ≤ (s.time - x.issued).toNat ∧
    piecesBehind s h (timeoutPiece i x).tag = [] ∧ x.got.length < x.len) ∧
  (∃ (s : State) (h : Nat) (i : Nat) (x : Slot),
    s.inReset = false ∧ h < nHosts s ∧ tested s (islHpt h) = false ∧ getSlot s h i = some x ∧ behindEnds s h i x = true) ∧
  (∃ (s : State) (h : Nat) (i : Nat) (x : Slot),
    s.inReset = false ∧ h < nHosts s ∧ tested s (islHpt h) = false ∧ getSlot s h i = some x ∧
    (x.quarUntil.isSome = true ∨ (s.time - x.issued).toNat < x.cto)) ∧
  (∃ (s : State) (h : Nat) (i : Nat) (x : Slot) (t : _),
    s.inReset = false ∧ h < nHosts s ∧ tested s (islHpt h) = false ∧ getSlot s h i = some x ∧ x.quarUntil = some t ∧
    t.toNat ≤ s.time.toNat) ∧
  (∃ (s : State) (h : Nat) (i : Nat) (x : Slot) (fn : _),
    s.inReset = false ∧ h < nHosts s ∧ tested s (islHpt h) = false ∧ getSlot s h i = some x ∧ x.quarUntil = none ∧
    x.purpose = .barrier fn) :=
  ⟨⟨up, 0, ⟨4099, 0, false, false, 0, [0, 0, 0, 0, 0, 0, 0, 0]⟩, by decide +kernel⟩,
   ⟨modHp 0 (fun h => { h with slots := [(3, { fn := 1, addr := 64, len := 8, purpose := .list 0, issued := 0, cto := 1000, quarUntil := some 5 })] }) (up), 0, 3, { fn := 1, addr := 64, len := 8, purpose := .list 0, issued := 0, cto := 1000, quarUntil := some 5 }, ⟨4099, 0, false, false, 0, [0, 0, 0, 0, 0, 0, 0, 0]⟩, by decide +kernel⟩,
   ⟨modHp 0 (fun h => { h with slots := [(3, { fn := 1, addr := 64, len := 8, purpose := .list 0, issued := 0, cto := 1000 })] }) (up), 0, 3, { fn := 1, addr := 64, len := 8, purpose := .list 0, issued := 0, cto := 1000 }, ⟨4099, 0, false, true, 0, [0, 0, 0, 0, 0, 0, 0, 0]⟩, by dsimp only; decide +kernel⟩,
   ⟨modHp 0 (fun h => { h with slots := [(3, { fn := 1, addr := 64, len := 8, purpose := .cairn, issued := 0, cto := 1000 })] }) (up), 0, 3, { fn := 1, addr := 64, len := 8, purpose := .cairn, issued := 0, cto := 1000 }, ⟨4099, 0, false, false, 0, [0, 0, 0, 0, 0, 0, 0, 0]⟩, by decide +kernel⟩,
   ⟨modHp 0 (fun h => { h with slots := [(3, { fn := 1, addr := 64, len := 8, purpose := .list 0, issued := 0, cto := 1000, disc := .stop })] }) (up), 0, 3, { fn := 1, addr := 64, len := 8, purpose := .list 0, issued := 0, cto := 1000, disc := .stop }, ⟨4099, 0, false, false, 0, [0, 0, 0, 0, 0, 0, 0, 0]⟩, by decide +kernel⟩,
   ⟨modHp 0 (fun h => { h with slots := [(3, { fn := 1, addr := 64, len := 8, purpose := .list 0, issued := 0, cto := 1000 })] }) (modXbar (fun x => { x with freeze := true }) up), 0, 3, { fn := 1, addr := 64, len := 8, purpose := .list 0, issued := 0, cto := 1000 }, ⟨4099, 0, false, false, 0, [0, 0, 0, 0, 0, 0, 0, 0]⟩, by dsimp only; decide +kernel⟩,
   ⟨modHp 0 (fun h => { h with slots := [(3, { fn := 1, addr := 64, len := 8, purpose := .list 0, issued := 0, cto := 1000 })] }) (up), 0, 3, { fn := 1, addr := 64, len := 8, purpose := .list 0, issued := 0, cto := 1000 }, ⟨4099, 1, false, false, 0, [0, 0, 0, 0, 0, 0, 0, 0]⟩, by dsimp only; decide +kernel⟩,
   ⟨modHp 0 (fun h => { h with slots := [(3, { fn := 1, addr := 64, len := 8, purpose := .list 0, issued := 0, cto := 1000 })] }) (up), 0, 3, { fn := 1, addr := 64, len := 8, purpose := .list 0, issued := 0, cto := 1000 }, ⟨4099, 0, false, false, 8, [0, 0, 0, 0, 0, 0, 0, 0]⟩, by dsimp only; decide +kernel⟩,
   ⟨modHp 0 (fun h => { h with slots := [(3, { fn := 1, addr := 64, len := 8, purpose := .list 0, issued := 0, cto := 1000 })] }) (up), 0, 3, { fn := 1, addr := 64, len := 8, purpose := .list 0, issued := 0, cto := 1000 }, ⟨4099, 0, false, false, 0, [0, 0, 0, 0, 0, 0, 0, 0]⟩, by dsimp only; decide +kernel⟩,
   ⟨modHp 0 (fun h => { h with slots := [(3, { fn := 1, addr := 64, len := 8, purpose := .list 0, issued := 0, cto := 1000 })] }) (up), 0, 3, { fn := 1, addr := 64, len := 8, purpose := .list 0, issued := 0, cto := 1000 }, ⟨4099, 0, false, false, 0, [0, 0]⟩, by dsimp only; decide +kernel⟩,
   ⟨modHp 0 (fun h => { h with slots := [(3, { fn := 1, addr := 64, len := 8, purpose := .list 0, issued := 0, cto := 1000 })] }) ({ up with time := 1000 }), 0, 3, { fn := 1, addr := 64, len := 8, purpose := .list 0, issued := 0, cto := 1000 }, by decide +kernel⟩,
   ⟨{ (modHp 0 (fun h => { h with slots := [(3, { fn := 1, addr := 64, len := 8, purpose := .list 0, issued := 0, cto := 1000 })] }) ({ up with time := 1000 })) with xback := [.piece 0 ⟨4099, 0, false, false, 0, [0, 0, 0, 0, 0, 0, 0, 0]⟩] }, 0, 3, { fn := 1, addr := 64, len := 8, purpose := .list 0, issued := 0, cto := 1000 }, by decide +kernel⟩,
   ⟨modHp 0 (fun h => { h with slots := [(3, { fn := 1, addr := 64, len := 8, purpose := .list 0, issued := 0, cto := 1000 })] }) (up), 0, 3, { fn := 1, addr := 64, len := 8, purpose := .list 0, issued := 0, cto := 1000 }, by decide +kernel⟩,
   ⟨modHp 0 (fun h => { h with slots := [(3, { fn := 1, addr := 64, len := 8, purpose := .list 0, issued := 0, cto := 1000, quarUntil := some 5 })] }) ({ up with time := 5 }), 0, 3, { fn := 1, addr := 64, len := 8, purpose := .list 0, issued := 0, cto := 1000, quarUntil := some 5 }, 5, by decide +kernel⟩,
   ⟨modHp 0 (fun h => { h with slots := [(3, { fn := 1, addr := 64, len := 8, purpose := .barrier 1, issued := 0, cto := 1000 })] }) (up), 0, 3, { fn := 1, addr := 64, len := 8, purpose := .barrier 1, issued := 0, cto := 1000 }, 1, by decide +kernel⟩⟩

/-- HostCompletions. -/
theorem wit_timeouts_and_late_log :
  (∃ (s : State) (h : Nat) (i : Nat) (x : Slot),
    getSlot s h i = some x) ∧
  (∃ (x : Slot) (e : _) (y : _) (l : _) (z : _),
    x.purpose = .ahead e y l z) ∧
  (∃ (s : State) (x : Slot) (e : _) (off : _),
    x.purpose = .src e off ∧ onSpec s e = true) ∧
  (∃ (s : State) (x : Slot) (e : _) (off : _),
    x.purpose = .src e off ∧ onSpec s e = false) ∧
  (∃ (x : Slot),
    isFlush x.purpose = true ∧ x.disc = .no) :=
  ⟨⟨modHp 0 (fun h => { h with slots := [(3, { fn := 1, addr := 64, len := 8, purpose := .list 0, issued := 0, cto := 1000 })] }) (up), 0, 3, { fn := 1, addr := 64, len := 8, purpose := .list 0, issued := 0, cto := 1000 }, by decide +kernel⟩,
   ⟨{ fn := 1, addr := 64, len := 8, purpose := .ahead 0 0 0 0, issued := 0, cto := 1000 }, 0, 0, 0, 0, by decide +kernel⟩,
   ⟨ahead (atMove moving), { fn := 1, addr := 64, len := 8, purpose := .src 0 0, issued := 0, cto := 1000 }, 0, 0, by decide +kernel⟩,
   ⟨up, { fn := 1, addr := 64, len := 8, purpose := .src 0 0, issued := 0, cto := 1000 }, 0, 0, by decide +kernel⟩,
   ⟨{ fn := 1, addr := 64, len := 8, purpose := .flushAll 0, issued := 0, cto := 1000 }, by decide +kernel⟩⟩

/-- BufferedTargets. -/
theorem wit_buffered_targets :
  (∃ (s : State) (p : Nat) (w : BufWrite) (rest : List BufWrite),
    mayIssue s = true ∧ tested s (islPort p) = false ∧ (getPort s p).wwait = w :: rest ∧ w.xheld = false ∧
    (getPort s p).wbuf.length < 4) ∧
  (∃ (s : State) (p : Nat) (w : BufWrite) (rest : List BufWrite),
    mayIssue s = true ∧ tested s (islPort p) = false ∧ s.cwait = w :: rest ∧ w.xheld = false ∧
    cbufBytes s + w.data.length ≤ 4096 ∧ w.addr.toNat < 0x1000000) ∧
  (∃ (s : State) (p : Nat) (w : BufWrite) (rest : List BufWrite),
    mayIssue s = true ∧ tested s (islPort p) = false ∧ s.cwait = w :: rest ∧ w.xheld = false ∧
    cbufBytes s + w.data.length ≤ 4096 ∧ 0x1000000 ≤ w.addr.toNat) ∧
  (∃ (s : State) (p : Nat) (w : BufWrite) (rest : List BufWrite),
    mayIssue s = true ∧ tested s (islPort p) = false ∧ (getPort s p).wbuf = w :: rest ∧ portDown (getPort s p) = true) ∧
  (∃ (s : State) (p : Nat) (w : BufWrite) (rest : List BufWrite),
    let v := gateCheck s (p / 16) (whoBuf w) .wr w.addr w.data.length w.fix
    mayIssue s = true ∧ tested s (islPort p) = false ∧ (getPort s p).wbuf = w :: rest ∧ portDown (getPort s p) = false ∧
    (getPort s p).lstate = .up ∧ (getPort s p).sending = none ∧
    (∀ r ∈ (getPort s p).rwait, w.ord ≤ r.ord ∨ (r.spec = true ∧ (getPort s p).ver ≠ 3)) ∧ (w.checked = true ∨ v.ok = true)) ∧
  (∃ (s : State) (p : Nat) (w : BufWrite) (rest : List BufWrite),
    let v := gateCheck s (p / 16) (whoBuf w) .wr w.addr w.data.length w.fix
    mayIssue s = true ∧ tested s (islPort p) = false ∧ (getPort s p).wbuf = w :: rest ∧ portDown (getPort s p) = false ∧
    (getPort s p).lstate = .up ∧ (getPort s p).sending = none ∧
    (∀ r ∈ (getPort s p).rwait, w.ord ≤ r.ord ∨ (r.spec = true ∧ (getPort s p).ver ≠ 3)) ∧ w.checked = false ∧ v.ok = false) ∧
  (∃ (s : State) (p : Nat),
    mayIssue s = true ∧ tested s (islPort p) = false ∧ (∀ x ∈ s.cwait.head?, x.undef = false)) ∧
  (∃ (s : State) (p : Nat) (w : BufWrite) (rest : List BufWrite),
    let v := gateCheck s 70 (whoBuf w) .wr (alignDown w.addr 4) (max w.data.length 4) w.fix
    mayIssue s = true ∧ tested s (islPort p) = false ∧ s.cbuf = w :: rest ∧ w.undef = false ∧ v.ok = true) ∧
  (∃ (s : State) (p : Nat) (w : BufWrite) (rest : List BufWrite),
    let v := gateCheck s 70 (whoBuf w) .wr (alignDown w.addr 4) (max w.data.length 4) w.fix
    mayIssue s = true ∧ tested s (islPort p) = false ∧ s.cbuf = w :: rest ∧ w.undef = false ∧ v.ok = false) ∧
  (∃ (s : State) (p : Nat),
    mayIssue s = true ∧ tested s (islPort p) = false ∧ s.gate.vlogwr - s.gate.vlogrd = 256) ∧
  (∃ (s : State) (p : Nat),
    mayIssue s = true ∧ tested s (islPort p) = false ∧ s.gate.vlogwr - s.gate.vlogrd ≠ 256) ∧
  (∃ (s : State) (p : Nat) (who : Who),
    mayIssue s = true ∧ tested s (islPort p) = false ∧ who.cls = 0) ∧
  (∃ (s : State) (p : Nat) (who : Who),
    mayIssue s = true ∧ tested s (islPort p) = false ∧ who.cls ≠ 0) ∧
  (∃ (s : State) (p : Nat) (w : BufWrite),
    mayIssue s = true ∧ tested s (islPort p) = false ∧ (getPort s p).sending = some w) ∧
  (∃ (s : State) (p : Nat) (e : Nat) (r : _) (others : _),
    let u := xCtlData r.dl r.len s
    mayIssue s = true ∧ tested s (islPort p) = false ∧ ctlReadOf s e = some (r, others) ∧ r.fix = false ∧
    xstands u 79 0 = true) ∧
  (∃ (s : State) (p : Nat) (e : Nat) (r : _) (others : _),
    let u := xCtlData r.dl r.len s
    let a := r.addr.toNat
    mayIssue s = true ∧ tested s (islPort p) = false ∧ ctlReadOf s e = some (r, others) ∧ r.fix = false ∧
    xstands u 79 0 = false ∧ eccAt s a r.len = false ∧ a + r.len ≤ 0x1000000) ∧
  (∃ (s : State) (p : Nat) (e : Nat) (r : _) (others : _),
    let u := xCtlData r.dl r.len s
    let a := r.addr.toNat
    mayIssue s = true ∧ tested s (islPort p) = false ∧ ctlReadOf s e = some (r, others) ∧ r.fix = false ∧
    xstands u 79 0 = false ∧ eccAt s a r.len = false ∧ 0x1000000 < a + r.len) :=
  ⟨⟨modPort 33 (fun k => { k with wwait := [{ addr := 64, data := [1, 2, 3, 4], purpose := .notify 0 }] }) (up), 33, { addr := 64, data := [1, 2, 3, 4], purpose := .notify 0 }, [], by decide +kernel⟩,
   ⟨{ up with cwait := [{ addr := 64, data := [1, 2, 3, 4], purpose := .notify 0 }] }, 33, { addr := 64, data := [1, 2, 3, 4], purpose := .notify 0 }, [], by decide +kernel⟩,
   ⟨{ up with cwait := [{ addr := 0x1000000, data := [1, 2, 3, 4], purpose := .notify 0 }] }, 33, { addr := 0x1000000, data := [1, 2, 3, 4], purpose := .notify 0 }, [], by decide +kernel⟩,
   ⟨modPort 33 (fun k => { k with wbuf := [{ addr := 64, data := [1, 2, 3, 4], purpose := .notify 0 }] }) (up), 33, { addr := 64, data := [1, 2, 3, 4], purpose := .notify 0 }, [], by decide +kernel⟩,
   ⟨modPort 33 (fun k => { k with wbuf := [{ addr := 64, data := [1, 2, 3, 4], purpose := .notify 0 }], lstate := .up }) (up), 33, { addr := 64, data := [1, 2, 3, 4], purpose := .notify 0 }, [], by dsimp only; decide +kernel⟩,
   ⟨modPort 33 (fun k => { k with wbuf := [{ addr := 64, data := [1, 2, 3, 4], purpose := .notify 0 }], lstate := .up }) (modGate (fun g => { g with active := [(64 * 2, ruleDenyAll), (64 * 70, ruleDenyAll)] }) (up)), 33, { addr := 64, data := [1, 2, 3, 4], purpose := .notify 0 }, [], by dsimp only; decide +kernel⟩,
   ⟨up, 33, by decide +kernel⟩,
   ⟨{ up with cbuf := [{ addr := 64, data := [1, 2, 3, 4], purpose := .notify 0 }] }, 33, { addr := 64, data := [1, 2, 3, 4], purpose := .notify 0 }, [], by dsimp only; decide +kernel⟩,
   ⟨{ (modGate (fun g => { g with active := [(64 * 2, ruleDenyAll), (64 * 70, ruleDenyAll)] }) (up)) with cbuf := [{ addr := 64, data := [1, 2, 3, 4], purpose := .notify 0 }] }, 33, { addr := 64, data := [1, 2, 3, 4], purpose := .notify 0 }, [], by dsimp only; decide +kernel⟩,
   ⟨modGate (fun g => { g with vlogwr := 256 }) up, 33, by decide +kernel⟩,
   ⟨up, 33, by decide +kernel⟩,
   ⟨up, 33, { cls := 0 }, by decide +kernel⟩,
   ⟨up, 33, { cls := 1 }, by decide +kernel⟩,
   ⟨modPort 33 (fun k => { k with sending := some { addr := 64, data := [1, 2, 3, 4], purpose := .notify 0 } }) (up), 33, { addr := 64, data := [1, 2, 3, 4], purpose := .notify 0 }, by decide +kernel⟩,
   ⟨{ (modXbar (fun x => { x with freeze := true }) up) with cread := [{ addr := 64, len := 8, purpose := .src 0 0 }] }, 33, 0, { addr := 64, len := 8, purpose := .src 0 0 }, [], by dsimp only; decide +kernel⟩,
   ⟨{ (up) with cread := [{ addr := 64, len := 8, purpose := .src 0 0 }] }, 33, 0, { addr := 64, len := 8, purpose := .src 0 0 }, [], by dsimp only; decide +kernel⟩,
   ⟨{ (up) with cread := [{ addr := 0xFFFFFC, len := 8, purpose := .src 0 0 }] }, 33, 0, { addr := 0xFFFFFC, len := 8, purpose := .src 0 0 }, [], by dsimp only; decide +kernel⟩⟩

/-- FunctionMirrors. -/
theorem wit_function_mirrors :
  (∃ (s : State) (fn : Nat) (m : Mirror),
    let old := (getFn s fn).mir
    s.inReset = false ∧ fn < nFns s ∧ tested s (islHpt (hptOf fn)) = false ∧
    (bmeOf s fn = false ∨ (m.present = true ∧ m.bme = true)) ∧ (old.flrreq = true ∨ m.flrreq = false)) ∧
  (∃ (s : State) (fn : Nat),
    s.inReset = false ∧ fn < nFns s ∧ tested s (islHpt (hptOf fn)) = false ∧ bmeOf s fn = false) ∧
  (∃ (s : State) (fn : Nat),
    s.inReset = false ∧ fn < nFns s ∧ tested s (islHpt (hptOf fn)) = false ∧ bmeOf s fn = true) ∧
  (∃ (s : State) (fn : Nat),
    let old := (getFn s fn).mir
    s.inReset = false ∧ fn < nFns s ∧ tested s (islHpt (hptOf fn)) = false ∧ old.flrreq = false ∧ (getFn s fn).flrAt = none) :=
  ⟨⟨up, 1, {}, by dsimp only; decide +kernel⟩,
   ⟨up, 1, by decide +kernel⟩,
   ⟨modFn 1 (fun f => { f with mir := { present := true, bme := true } }) (up), 1, by decide +kernel⟩,
   ⟨up, 1, by dsimp only; decide +kernel⟩⟩

/-- FunctionMirrors. -/
theorem wit_function_stops :
  (∃ (s : State) (fn : Nat) (cause : BitVec 3) (es : _) (ws : _) (u : _),
    es = fnEngines s fn ∧ ws = fnWorks s fn ∧ u = breakFn fn cause (forAll (es ++ ws) fnTell (fnDiscard fn s)) ∧
    (∀ e ∈ es, (getEng s e).stop = .fn)) ∧
  (∃ (s : State) (fn : Nat) (cause : BitVec 3) (es : _) (ws : _) (u : _),
    es = fnEngines s fn ∧ ws = fnWorks s fn ∧ u = breakFn fn cause (forAll (es ++ ws) fnTell (fnDiscard fn s)) ∧
    (∃ e ∈ es, (getEng s e).stop ≠ .fn)) ∧
  (∃ (s : State) (fn : Nat) (w : _),
    let t := fnDiscard fn s
    let h := hptOf fn
    w ∈ (getHp t h).wait) ∧
  (∃ (s : State) (fn : Nat) (i : _) (x : _),
    let h := hptOf fn
    getSlot s h i = some x ∧ x.fn = fn ∧ x.quarUntil = none) ∧
  (∃ (s : State) (fn : Nat) (i : _) (x : _),
    let h := hptOf fn
    getSlot s h i = some x ∧ (x.fn ≠ fn ∨ x.quarUntil.isSome = true)) ∧
  (∃ (s : State) (e : _) (r : _) (b : _),
    let t := fnTell e s
    r ∈ waitingReqs t ∧ r.idx = 64 + e / 4 ∧ r.ord = e ∧ b ∈ r.q) ∧
  (∃ (s : State) (x : LockEntry),
    (x.releasing = true ∨ (∃ y ∈ s.lock.waiting, y.addr = x.addr))) ∧
  (∃ (s : State) (x : LockEntry),
    x.releasing = false ∧ (∀ y ∈ s.lock.waiting, y.addr ≠ x.addr) ∧ engOf s x.chan = none ∧ orphanOut s x.chan = false) ∧
  (∃ (s : State) (x : LockEntry),
    x.releasing = false ∧ (∀ y ∈ s.lock.waiting, y.addr ≠ x.addr) ∧ (engOf s x.chan).isSome = true) ∧
  (∃ (s : State) (e : _),
    (getEng s e).stop = .fn ∧ fnStopReady s e = true ∧ holdsChan s e = true ∧ (getCtx s (chanOf s e)).direct = false) ∧
  (∃ (s : State) (e : _),
    ((getEng s e).stop ≠ .fn ∨ fnStopReady s e = false)) :=
  ⟨⟨modEng 0 (fun x => { x with hold := .task 2, stop := .fn }) (chan 2 {}), 1, 0, fnEngines (modEng 0 (fun x => { x with hold := .task 2, stop := .fn }) (chan 2 {})) 1, fnWorks (modEng 0 (fun x => { x with hold := .task 2, stop := .fn }) (chan 2 {})) 1, breakFn 1 0 (forAll (fnEngines (modEng 0 (fun x => { x with hold := .task 2, stop := .fn }) (chan 2 {})) 1 ++ fnWorks (modEng 0 (fun x => { x with hold := .task 2, stop := .fn }) (chan 2 {})) 1) fnTell (fnDiscard 1 (modEng 0 (fun x => { x with hold := .task 2, stop := .fn }) (chan 2 {})))), by decide +kernel⟩,
   ⟨prog 2 {} [], 1, 0, fnEngines (prog 2 {} []) 1, fnWorks (prog 2 {} []) 1, breakFn 1 0 (forAll (fnEngines (prog 2 {} []) 1 ++ fnWorks (prog 2 {} []) 1) fnTell (fnDiscard 1 (prog 2 {} []))), by decide +kernel⟩,
   ⟨modHp 0 (fun h => { h with wait := [{ fn := 2, addr := 0, len := 4, purpose := .desc 0 0 }] }) up, 1, { fn := 2, addr := 0, len := 4, purpose := .desc 0 0 }, by dsimp only; decide +kernel⟩,
   ⟨modHp 0 (fun h => { h with slots := [(3, { fn := 1, addr := 64, len := 8, purpose := .list 0, issued := 0, cto := 1000 })] }) (up), 1, 3, { fn := 1, addr := 64, len := 8, purpose := .list 0, issued := 0, cto := 1000 }, by dsimp only; decide +kernel⟩,
   ⟨modHp 0 (fun h => { h with slots := [(3, { fn := 2, addr := 64, len := 8, purpose := .list 0, issued := 0, cto := 1000 })] }) (up), 1, 3, { fn := 2, addr := 64, len := 8, purpose := .list 0, issued := 0, cto := 1000 }, by dsimp only; decide +kernel⟩,
   ⟨modXbar (fun x => { x with fresh := [{ idx := 64, ord := 0, deadline := 5, stamp := 0, q := [{ deadline := 5, beats := 1 }] }] }) up, 0, { idx := 64, ord := 0, deadline := 5, stamp := 0, q := [{ deadline := 5, beats := 1 }] }, { deadline := 5, beats := 1 }, by dsimp only; decide +kernel⟩,
   ⟨up, ⟨8, 2, 1, 0, true⟩, by decide +kernel⟩,
   ⟨up, ⟨8, 2, 1, 0, false⟩, by decide +kernel⟩,
   ⟨prog 2 {} [], ⟨8, 2, 1, 0, false⟩, by decide +kernel⟩,
   ⟨modEng 0 (fun x => { x with stop := .fn }) (atPhase .exec 2), 0, by decide +kernel⟩,
   ⟨up, 0, by decide +kernel⟩⟩

/-- ResetsOfFunctions. -/
theorem wit_context_sweeps :
  (∃ (s : State),
    live s = true ∧ tested s islDsp = false) :=
  ⟨up, by decide +kernel⟩

/-- ResetsOfFunctions. -/
theorem wit_reset_done_and_interrupts :
  (∃ (s : State) (fn : Nat) (r : _) (h : _) (v : Half),
    let free := ∀ x ∈ (getHp s (hptOf fn)).slots, x.2.fn = fn → x.2.quarUntil.isSome = true
    s.inReset = false ∧ isKc r = true ∧ h < nHosts s ∧ h * 1024 + fld v 0 10 = fn ∧ free ∧ s.pf.cut = false ∧
    (getFn s fn).flrAt.isSome = true) ∧
  (∃ (s : State) (fn : Nat) (r : _) (h : _) (v : Half),
    s.inReset = false ∧ isKc r = true ∧ h < nHosts s ∧ h * 1024 + fld v 0 10 = fn ∧ (getFn s fn).flrAt = none) ∧
  (∃ (s : State) (fn : Nat) (t0 : _),
    let free := ∀ x ∈ (getHp s (hptOf fn)).slots, x.2.fn = fn → x.2.quarUntil.isSome = true
    s.inReset = false ∧ (getFn s fn).flrAt = some t0 ∧ (getFn s fn).flrAcked = false ∧ (getFn s fn).flrTimed = false ∧
    1000000 ≤ (s.time - t0).toNat ∧ free ∧ tested s (islHpt (hptOf fn)) = false ∧ s.pf.cut = false) ∧
  (∃ (s : State) (fn : Nat),
    let f := getFn s fn
    let level := f.evcause &&& f.evmask != 0 && !f.mir.intdis
    s.inReset = false ∧ live s = true ∧ s.pf.cut = false ∧ tested s (islHpt (hptOf fn)) = false ∧ f.mir.pf = true ∧
    f.intSent = level) ∧
  (∃ (s : State) (fn : Nat),
    let f := getFn s fn
    let level := f.evcause &&& f.evmask != 0 && !f.mir.intdis
    s.inReset = false ∧ live s = true ∧ s.pf.cut = false ∧ tested s (islHpt (hptOf fn)) = false ∧ f.mir.pf = true ∧
    f.intSent ≠ level) :=
  ⟨⟨modFn 1 (fun f => { f with flrAt := some 0 }) (up), 1, .kc, 0, 1, by dsimp only; decide +kernel⟩,
   ⟨up, 1, .kc, 0, 1, by decide +kernel⟩,
   ⟨modFn 1 (fun f => { f with flrAt := some 0 }) ({ up with time := 1000000 }), 1, 0, by dsimp only; decide +kernel⟩,
   ⟨modFn 1 (fun f => { f with mir := { pf := true } }) (up), 1, by dsimp only; decide +kernel⟩,
   ⟨modFn 1 (fun f => { f with mir := { pf := true }, evcause := 4, evmask := 4 }) (up), 1, by dsimp only; decide +kernel⟩⟩

/-- LinkControl. -/
theorem wit_link_control :
  (∃ (s : State) (r : Requester) (p : Nat),
    let k := getPort s p
    live s = true ∧ p < nPorts s ∧ tested s (islPort p) = false ∧ isFirmware r = true ∧ k.en = false) ∧
  (∃ (s : State) (r : Requester) (p : Nat),
    let k := getPort s p
    live s = true ∧ p < nPorts s ∧ tested s (islPort p) = false ∧ isFirmware r = true ∧ k.en = true ∧ k.reads = [] ∧
    k.rwait = []) ∧
  (∃ (s : State) (r : Requester) (p : Nat),
    let k := getPort s p
    live s = true ∧ p < nPorts s ∧ tested s (islPort p) = false ∧ isFirmware r = true ∧
    k.lstate ∈ [.up, .reset, .negotiate, .retrain]) ∧
  (∃ (s : State) (r : Requester) (p : Nat),
    let k := getPort s p
    live s = true ∧ p < nPorts s ∧ tested s (islPort p) = false ∧ isFirmware r = true ∧
    (k.lstate = .down ∨ k.lstate = .failed)) ∧
  (∃ (s : State) (p : Nat) (b : _) (isp : _),
    let k := getPort s p
    live s = true ∧ p < nPorts s ∧ tested s (islPort p) = false ∧ isp ≠ oddParity b ∧ k.lstate = .up) ∧
  (∃ (s : State) (p : Nat) (b : _) (isp : _),
    let k := getPort s p
    live s = true ∧ p < nPorts s ∧ tested s (islPort p) = false ∧ isp ≠ oddParity b ∧ k.lstate = .negotiate) ∧
  (∃ (s : State) (p : Nat),
    let k := getPort s p
    live s = true ∧ p < nPorts s ∧ tested s (islPort p) = false ∧ s.pf.cut = false ∧ k.lstate = .reset ∧
    1000 ≤ (s.time - k.stepAt).toNat) :=
  ⟨⟨up, .kc, 33, by dsimp only; decide +kernel⟩,
   ⟨modPort 33 (fun k => { k with en := true }) (up), .kc, 33, by dsimp only; decide +kernel⟩,
   ⟨modPort 33 (fun k => { k with lstate := .up }) (up), .kc, 33, by dsimp only; decide +kernel⟩,
   ⟨up, .kc, 33, by dsimp only; decide +kernel⟩,
   ⟨modPort 33 (fun k => { k with lstate := .up }) (up), 33, 0, false, by dsimp only; decide +kernel⟩,
   ⟨modPort 33 (fun k => { k with lstate := .negotiate }) (up), 33, 0, false, by dsimp only; decide +kernel⟩,
   ⟨modPort 33 (fun k => { k with lstate := .reset }) ({ up with time := 1000 }), 33, by dsimp only; decide +kernel⟩⟩

/-- LinkVersions. -/
theorem wit_link_versions :
  (∃ (s : State) (p : Nat) (first : Token) (rest : List Token) (offer : _),
    let k := getPort s p
    live s = true ∧ tested s (islPort p) = false ∧ k.lstate = .negotiate ∧ readLane (first :: rest) = .version offer ∧
    offer ≠ 0) ∧
  (∃ (s : State) (p : Nat) (first : Token) (rest : List Token),
    let k := getPort s p
    live s = true ∧ tested s (islPort p) = false ∧ k.lstate = .negotiate ∧ readLane (first :: rest) = .version 0) ∧
  (∃ (s : State) (p : Nat) (first : Token) (rest : List Token),
    let k := getPort s p
    live s = true ∧ tested s (islPort p) = false ∧ k.lstate = .negotiate ∧ readLane (first :: rest) = .parity) ∧
  (∃ (s : State) (p : Nat) (first : Token) (rest : List Token),
    let k := getPort s p
    live s = true ∧ tested s (islPort p) = false ∧ k.lstate = .negotiate ∧ readLane (first :: rest) ≠ .parity ∧
    (∀ offer, readLane (first :: rest) ≠ .version offer)) ∧
  (∃ (s : State) (p : Nat),
    let k := getPort s p
    live s = true ∧ tested s (islPort p) = false ∧ k.lstate = .negotiate ∧ 10000 ≤ (s.time - k.stepAt).toNat) ∧
  (∃ (s : State) (p : Nat),
    let k := getPort s p
    let late := (∃ t0, k.reqAt = some t0 ∧ t0.toNat + 10000 ≤ s.time.toNat) ∨ (∃ t0, k.sideAt = some t0 ∧ t0.toNat + 10000 ≤ s.time.toNat)
    live s = true ∧ tested s (islPort p) = false ∧ k.lstate = .up ∧ late) ∧
  (∃ (s : State) (p : Nat),
    let k := getPort s p
    let late := (∃ t0, k.reqAt = some t0 ∧ t0.toNat + 10000 ≤ s.time.toNat) ∨ (∃ t0, k.sideAt = some t0 ∧ t0.toNat + 10000 ≤ s.time.toNat)
    live s = true ∧ tested s (islPort p) = false ∧ k.lstate = .negotiate ∧ late) ∧
  (∃ (s : State) (p : Nat),
    let k := getPort s p
    live s = true ∧ tested s (islPort p) = false ∧ 3 ≤ k.fails + 1) ∧
  (∃ (s : State) (p : Nat),
    let k := getPort s p
    live s = true ∧ tested s (islPort p) = false ∧ k.fails + 1 < 3) :=
  ⟨⟨modPort 33 (fun k => { k with lstate := .negotiate }) (up), 33, (tokensOf [0x0F, 3] []).headD default, (tokensOf [0x0F, 3] []).tail, 3, by dsimp only; decide +kernel⟩,
   ⟨modPort 33 (fun k => { k with lstate := .negotiate }) (up), 33, (tokensOf [0x0F, 0] []).headD default, (tokensOf [0x0F, 0] []).tail, by dsimp only; decide +kernel⟩,
   ⟨modPort 33 (fun k => { k with lstate := .negotiate }) (up), 33, ⟨true, 0x0F, 0, 0⟩, [⟨false, 3, 0, 0⟩], by dsimp only; decide +kernel⟩,
   ⟨modPort 33 (fun k => { k with lstate := .negotiate }) (up), 33, (tokensOf [0x02, 0] []).headD default, (tokensOf [0x02, 0] []).tail, by
    have h : readLane ((tokensOf [0x02, 0] []).headD default :: (tokensOf [0x02, 0] []).tail) = .protocol := by decide +kernel
    exact ⟨by decide +kernel, by decide +kernel, by decide +kernel, by decide +kernel, fun o h' => nomatch h.symm.trans h'⟩⟩,
   ⟨modPort 33 (fun k => { k with lstate := .negotiate }) ({ up with time := 10000 }), 33, by dsimp only; decide +kernel⟩,
   ⟨modPort 33 (fun k => { k with lstate := .up, reqAt := some 0 }) ({ up with time := 10000 }), 33, ⟨by decide +kernel, by decide +kernel, by decide +kernel, Or.inl ⟨0, by decide +kernel, by decide +kernel⟩⟩⟩,
   ⟨modPort 33 (fun k => { k with lstate := .negotiate, sideAt := some 0 }) ({ up with time := 10000 }), 33, ⟨by decide +kernel, by decide +kernel, by decide +kernel, Or.inr ⟨0, by decide +kernel, by decide +kernel⟩⟩⟩,
   ⟨modPort 33 (fun k => { k with fails := 2 }) (up), 33, by dsimp only; decide +kernel⟩,
   ⟨up, 33, by dsimp only; decide +kernel⟩⟩

/-- PortTransfers. -/
theorem wit_port_transfers :
  (∃ (s : State) (p : Nat) (first : Token) (rest : List Token),
    let ts := first :: rest
    inlaneOpen s p = true ∧ readLane ts = .parity) ∧
  (∃ (s : State) (p : Nat) (first : Token) (rest : List Token),
    let ts := first :: rest
    inlaneOpen s p = true ∧ (readLane ts = .protocol ∨ ∃ v, readLane ts = .version v)) ∧
  (∃ (s : State) (p : Nat) (first : Token) (rest : List Token) (x : Rdata),
    let ts := first :: rest
    let found := (getPort s p).reads.find? (fun r => r.tid == x.tid.toNat)
    inlaneOpen s p = true ∧ readLane ts = .rdata x ∧ found = none) ∧
  (∃ (s : State) (p : Nat) (first : Token) (rest : List Token) (x : Rdata) (r : PortRead),
    let ts := first :: rest
    let found := (getPort s p).reads.find? (fun r => r.tid == x.tid.toNat)
    inlaneOpen s p = true ∧ readLane ts = .rdata x ∧ found = some r ∧ x.badData = false ∧ x.err = false ∧
    x.data.length ≠ r.len) ∧
  (∃ (s : State) (p : Nat) (first : Token) (rest : List Token) (x : Rdata) (r : PortRead),
    let ts := first :: rest
    let found := (getPort s p).reads.find? (fun r => r.tid == x.tid.toNat)
    inlaneOpen s p = true ∧ readLane ts = .rdata x ∧ found = some r ∧
    (x.badData = true ∨ x.err = true ∨ x.data.length = r.len)) ∧
  (∃ (s : State) (p : Nat) (first : Token) (rest : List Token) (d : List Byte),
    let ts := first :: rest
    let s1 := portEvent p s
    let c := clusterArrive p (deadlineNow s1 (xferClass s1 p)) s1
    inlaneOpen s p = true ∧ readLane ts = .msg d ∧ upStands c p = true) ∧
  (∃ (s : State) (p : Nat) (first : Token) (rest : List Token) (d : List Byte),
    let ts := first :: rest
    let s1 := portEvent p s
    let c := clusterArrive p (deadlineNow s1 (xferClass s1 p)) s1
    let w := wakeIsl islTsv c
    let x := parseRecords w p 64 d
    let waits := (∃ k ∈ w.port, k.2.msgWait ≠ []) ∨ 4096 < w.tsv.queue.length + x.1.length ∨ tested w islTsv = true
    inlaneOpen s p = true ∧ readLane ts = .msg d ∧ upStands c p = false ∧ waits) ∧
  (∃ (s : State) (p : Nat) (first : Token) (rest : List Token) (d : List Byte),
    let ts := first :: rest
    let s1 := portEvent p s
    let c := clusterArrive p (deadlineNow s1 (xferClass s1 p)) s1
    let w := wakeIsl islTsv c
    let x := parseRecords w p 64 d
    let waits := (∃ k ∈ w.port, k.2.msgWait ≠ []) ∨ 4096 < w.tsv.queue.length + x.1.length ∨ tested w islTsv = true
    inlaneOpen s p = true ∧ readLane ts = .msg d ∧ upStands c p = false ∧ ¬ waits) :=
  ⟨⟨modPort 33 (fun k => { k with lstate := .up }) (up), 33, ⟨true, 0x0F, 0, 0⟩, [⟨false, 3, 0, 0⟩], by dsimp only; decide +kernel⟩,
   ⟨modPort 33 (fun k => { k with lstate := .up }) (up), 33, (tokensOf [0x02, 0] []).headD default, (tokensOf [0x02, 0] []).tail, by dsimp only; decide +kernel⟩,
   ⟨modPort 33 (fun k => { k with lstate := .up }) (up), 33, (tokensOf [0x50, 1] (bytesOf (0 : Word) 8)).headD default, (tokensOf [0x50, 1] (bytesOf (0 : Word) 8)).tail, { tid := 5, err := false, poison := false, data := [0, 0, 0, 0, 0, 0, 0, 0], badData := false }, by dsimp only; decide +kernel⟩,
   ⟨modPort 33 (fun k => { k with lstate := .up, reads := [{ tid := 5, off := 0, len := 4, purpose := .list 0 }] }) (up), 33, (tokensOf [0x50, 1] (bytesOf (0 : Word) 8)).headD default, (tokensOf [0x50, 1] (bytesOf (0 : Word) 8)).tail, { tid := 5, err := false, poison := false, data := [0, 0, 0, 0, 0, 0, 0, 0], badData := false }, { tid := 5, off := 0, len := 4, purpose := .list 0 }, by dsimp only; decide +kernel⟩,
   ⟨modPort 33 (fun k => { k with lstate := .up, reads := [{ tid := 5, off := 0, len := 8, purpose := .list 0 }] }) (up), 33, (tokensOf [0x50, 1] (bytesOf (0 : Word) 8)).headD default, (tokensOf [0x50, 1] (bytesOf (0 : Word) 8)).tail, { tid := 5, err := false, poison := false, data := [0, 0, 0, 0, 0, 0, 0, 0], badData := false }, { tid := 5, off := 0, len := 8, purpose := .list 0 }, by dsimp only; decide +kernel⟩,
   ⟨modPort 33 (fun k => { k with lstate := .up }) (modXbar (fun x => { x with freeze := true }) up), 33, (tokensOf [0x01, 1] (bytesOf (0 : Word) 8)).headD default, (tokensOf [0x01, 1] (bytesOf (0 : Word) 8)).tail, (bytesOf (0 : Word) 8), by dsimp only; decide +kernel⟩,
   ⟨modPort 34 (fun k => { k with msgWait := [[0]] }) <| modPort 33 (fun k => { k with lstate := .up }) (up), 33, (tokensOf [0x01, 1] (bytesOf (0 : Word) 8)).headD default, (tokensOf [0x01, 1] (bytesOf (0 : Word) 8)).tail, (bytesOf (0 : Word) 8), by dsimp only; decide +kernel⟩,
   ⟨modPort 33 (fun k => { k with lstate := .up }) (up), 33, (tokensOf [0x01, 1] (bytesOf (0 : Word) 8)).headD default, (tokensOf [0x01, 1] (bytesOf (0 : Word) 8)).tail, (bytesOf (0 : Word) 8), by dsimp only; decide +kernel⟩⟩

/-- PortSidebands. -/
theorem wit_sideband_bytes :
  (∃ (s : State) (p : Nat),
    sideOpen s p = true) ∧
  (∃ (s : State) (p : Nat) (x : ClassByte),
    let k := getPort s p
    sideOpen s p = true ∧ k.ver ≠ 1 ∧ fld x.payload 4 2 = 0) ∧
  (∃ (s : State) (p : Nat) (x : ClassByte),
    let k := getPort s p
    sideOpen s p = true ∧ (k.ver = 1 ∨ fld x.payload 4 2 ≠ 0)) ∧
  (∃ (s : State) (p : Nat),
    let k := getPort s p
    sideOpen s p = true ∧ k.ver = 3) ∧
  (∃ (s : State) (p : Nat) (b : _),
    let k := getPort s p
    sideOpen s p = true ∧ (k.ver ≠ 3 ∨ b = true)) ∧
  (∃ (s : State) (p : Nat) (b : _),
    let k := getPort s p
    sideOpen s p = true ∧ byteIgnored k.ver b = true) :=
  ⟨⟨modPort 33 (fun k => { k with lstate := .up }) (up), 33, by decide +kernel⟩,
   ⟨modPort 33 (fun k => { k with lstate := .up }) (up), 33, ⟨15, false⟩, by dsimp only; decide +kernel⟩,
   ⟨modPort 33 (fun k => { k with lstate := .up }) (up), 33, ⟨16, false⟩, by dsimp only; decide +kernel⟩,
   ⟨modPort 33 (fun k => { k with lstate := .up, ver := 3 }) (up), 33, by dsimp only; decide +kernel⟩,
   ⟨modPort 33 (fun k => { k with lstate := .up }) (up), 33, true, by dsimp only; decide +kernel⟩,
   ⟨modPort 33 (fun k => { k with lstate := .up }) (up), 33, 0xC5, by dsimp only; decide +kernel⟩⟩

/-- PortSidebands. -/
theorem wit_link_power_states :
  (∃ (s : State) (p : Nat),
    let k := getPort s p
    let quiet := (s.time - k.lastAct).toNat
    let ns1 := (tget (8 : Byte) s.active.link.idlet (p / 16)).toNat * 8
    live s = true ∧ s.pf.cut = false ∧ tested s (islPort p) = false ∧ k.lstate = .up ∧ k.sending = none ∧ k.pwr < 1 ∧
    1 ≤ pwrmaxOf s p ∧ ns1 ≠ 0 ∧ ns1 ≤ quiet) ∧
  (∃ (s : State) (p : Nat),
    let k := getPort s p
    let quiet := (s.time - k.lastAct).toNat
    let ns2 := (tget (16 : BitVec 16) s.active.link.dozet (p / 16)).toNat * 1000
    live s = true ∧ s.pf.cut = false ∧ tested s (islPort p) = false ∧ k.lstate = .up ∧ k.sending = none ∧ k.pwr < 2 ∧
    2 ≤ pwrmaxOf s p ∧ ns2 ≠ 0 ∧ ns2 ≤ quiet) ∧
  (∃ (s : State) (p : Nat),
    let k := getPort s p
    let quiet := (s.time - k.lastAct).toNat
    let ns3 := (tget (4000 : BitVec 24) s.active.link.deept (p / 16)).toNat * 1000
    live s = true ∧ s.pf.cut = false ∧ tested s (islPort p) = false ∧ k.lstate = .up ∧ k.sending = none ∧ k.pwr < 3 ∧
    3 ≤ pwrmaxOf s p ∧ ns3 ≠ 0 ∧ ns3 ≤ quiet) ∧
  (∃ (s : State) (p : Nat),
    let k := getPort s p
    live s = true ∧ s.pf.cut = false ∧ tested s (islPort p) = false ∧ k.pwr ≠ 0) ∧
  (∃ (s : State) (p : Nat),
    let k := getPort s p
    live s = true ∧ s.pf.cut = false ∧ tested s (islPort p) = false ∧ k.pwr = 0) :=
  ⟨⟨modPort 33 (fun k => { k with lstate := .up }) ({ up with time := 64 }), 33, by dsimp only; decide +kernel⟩,
   ⟨modPort 33 (fun k => { k with lstate := .up }) ({ up with time := 16000 }), 33, by dsimp only; decide +kernel⟩,
   ⟨modPort 33 (fun k => { k with lstate := .up }) ({ up with time := 4000000 }), 33, by dsimp only; decide +kernel⟩,
   ⟨modPort 33 (fun k => { k with lstate := .up, pwr := 2 }) (up), 33, by dsimp only; decide +kernel⟩,
   ⟨modPort 33 (fun k => { k with lstate := .up }) (up), 33, by dsimp only; decide +kernel⟩⟩

/-- TableRecords. -/
theorem wit_table_records :
  (∃ (s : State) (r : Record) (rest : List Record),
    tsvMay s = true ∧ s.tsv.queue = r :: rest ∧ bucketBusy s r.inst r.id = true) ∧
  (∃ (s : State) (r : Record) (rest : List Record),
    let u := takeRecord s
    tsvMay s = true ∧ s.tsv.queue = r :: rest ∧ bucketBusy s r.inst r.id = false ∧
    bit (getPort u r.port).lrnmask r.inst = false) ∧
  (∃ (s : State) (r : Record) (rest : List Record),
    let u := takeRecord s
    tsvMay s = true ∧ s.tsv.queue = r :: rest ∧ bucketBusy s r.inst r.id = false ∧
    bit (getPort u r.port).lrnmask r.inst = true ∧ instRuns (getInst u r.inst) = false) ∧
  (∃ (s : State) (r : Record) (rest : List Record),
    let u := takeRecord s
    tsvMay s = true ∧ s.tsv.queue = r :: rest ∧ bucketBusy s r.inst r.id = false ∧
    bit (getPort u r.port).lrnmask r.inst = true ∧ instRuns (getInst u r.inst) = true ∧ r.touch = true ∧
    touchRepeats u r = true) ∧
  (∃ (s : State) (r : Record) (rest : List Record) (rd : MResp),
    let u := takeRecord s
    let a := wayAddr (activeEp (getInst u r.inst)) (4 * bucketOf (activeEp (getInst u r.inst)) r.id)
    let g := 68 + lmPortOf u a
    let v := gateCheck u g tsvWho .rd a 128 false
    tsvMay s = true ∧ s.tsv.queue = r :: rest ∧ bucketBusy s r.inst r.id = false ∧
    bit (getPort u r.port).lrnmask r.inst = true ∧ instRuns (getInst u r.inst) = true ∧
    (r.touch = false ∨ touchRepeats u r = false) ∧ v.ok = true ∧ rd = .ok) ∧
  (∃ (s : State) (r : Record) (rest : List Record) (rd : MResp),
    let u := takeRecord s
    let a := wayAddr (activeEp (getInst u r.inst)) (4 * bucketOf (activeEp (getInst u r.inst)) r.id)
    let g := 68 + lmPortOf u a
    let v := gateCheck u g tsvWho .rd a 128 false
    tsvMay s = true ∧ s.tsv.queue = r :: rest ∧ bucketBusy s r.inst r.id = false ∧
    bit (getPort u r.port).lrnmask r.inst = true ∧ instRuns (getInst u r.inst) = true ∧
    (r.touch = false ∨ touchRepeats u r = false) ∧ v.ok = true ∧ rd ≠ .ok) ∧
  (∃ (s : State) (r : Record) (rest : List Record),
    let u := takeRecord s
    let a := wayAddr (activeEp (getInst u r.inst)) (4 * bucketOf (activeEp (getInst u r.inst)) r.id)
    let g := 68 + lmPortOf u a
    let v := gateCheck u g tsvWho .rd a 128 false
    tsvMay s = true ∧ s.tsv.queue = r :: rest ∧ bucketBusy s r.inst r.id = false ∧
    bit (getPort u r.port).lrnmask r.inst = true ∧ instRuns (getInst u r.inst) = true ∧
    (r.touch = false ∨ touchRepeats u r = false) ∧ v.ok = false) ∧
  (∃ (s : State) (r : Record) (rest : List Record),
    let u := takeRecord s
    let a := wayAddr (activeEp (getInst u r.inst)) (4 * bucketOf (activeEp (getInst u r.inst)) r.id)
    let g := 68 + lmPortOf u a
    let v := gateCheck u g tsvWho .rd a 128 false
    tsvMay s = true ∧ s.tsv.queue = r :: rest ∧ bucketBusy s r.inst r.id = false ∧
    bit (getPort u r.port).lrnmask r.inst = true ∧ instRuns (getInst u r.inst) = true ∧ v.ok = true ∧ r.touch = false) ∧
  (∃ (s : State) (r : Record) (rest : List Record),
    let u := takeRecord s
    let a := wayAddr (activeEp (getInst u r.inst)) (4 * bucketOf (activeEp (getInst u r.inst)) r.id)
    let g := 68 + lmPortOf u a
    let v := gateCheck u g tsvWho .rd a 128 false
    tsvMay s = true ∧ s.tsv.queue = r :: rest ∧ bucketBusy s r.inst r.id = false ∧
    bit (getPort u r.port).lrnmask r.inst = true ∧ instRuns (getInst u r.inst) = true ∧ v.ok = true ∧ r.touch = true ∧
    touchRepeats u r = false) :=
  ⟨⟨modTsv (fun t => { t with queue := [⟨false, 33, 15, 0, 7, 0, 0⟩] }) (modInst 15 (fun x => { x with relocating := [⟨false, 4 * bucketOf {} 7, {}, none, false, false⟩] }) up), ⟨false, 33, 15, 0, 7, 0, 0⟩, [], by decide +kernel⟩,
   ⟨modTsv (fun t => { t with queue := [⟨false, 33, 15, 0, 7, 0, 0⟩] }) (up), ⟨false, 33, 15, 0, 7, 0, 0⟩, [], by dsimp only; decide +kernel⟩,
   ⟨modTsv (fun t => { t with queue := [⟨false, 33, 15, 0, 7, 0, 0⟩] }) ((modPort 33 (fun k => { k with lrnmask := 0x8000 }) (up))), ⟨false, 33, 15, 0, 7, 0, 0⟩, [], by dsimp only; decide +kernel⟩,
   ⟨modTsv (fun t => { t with queue := [⟨true, 33, 15, 0, 7, 0, 0⟩] }) (modTsv (fun t => { t with filter := tset {} t.filter (filterIdx ⟨true, 33, 15, 0, 7, 0, 0⟩) ⟨15, 7, 0, true⟩ }) (tab (modPort 33 (fun k => { k with lrnmask := 0x8000 }) (up)))), ⟨true, 33, 15, 0, 7, 0, 0⟩, [], by dsimp only; decide +kernel⟩,
   ⟨modTsv (fun t => { t with queue := [⟨false, 33, 15, 0, 7, 0, 0⟩] }) (tab (modPort 33 (fun k => { k with lrnmask := 0x8000 }) (up))), ⟨false, 33, 15, 0, 7, 0, 0⟩, [], .ok, by dsimp only; decide +kernel⟩,
   ⟨modTsv (fun t => { t with queue := [⟨false, 33, 15, 0, 7, 0, 0⟩] }) (tab (modPort 33 (fun k => { k with lrnmask := 0x8000 }) (up))), ⟨false, 33, 15, 0, 7, 0, 0⟩, [], .err, by dsimp only; decide +kernel⟩,
   ⟨modTsv (fun t => { t with queue := [⟨false, 33, 15, 0, 7, 0, 0⟩] }) (modGate (fun g => { g with active := [(64 * 68, ruleDenyAll)] }) (tab (modPort 33 (fun k => { k with lrnmask := 0x8000 }) (up)))), ⟨false, 33, 15, 0, 7, 0, 0⟩, [], by dsimp only; decide +kernel⟩,
   ⟨modTsv (fun t => { t with queue := [⟨false, 33, 15, 0, 7, 0, 0⟩] }) (tab (modPort 33 (fun k => { k with lrnmask := 0x8000 }) (up))), ⟨false, 33, 15, 0, 7, 0, 0⟩, [], by dsimp only; decide +kernel⟩,
   ⟨modTsv (fun t => { t with queue := [⟨true, 33, 15, 0, 7, 0, 0⟩] }) (tab (modPort 33 (fun k => { k with lrnmask := 0x8000 }) (up))), ⟨true, 33, 15, 0, 7, 0, 0⟩, [], by dsimp only; decide +kernel⟩⟩

/-- TableRecords. -/
theorem wit_placement :
  (∃ (s : State) (i : Nat) (e : Bool) (y : Entry) (w : _) (k : _),
    let x := getInst s i
    let ep := epochOf x e
    let b := 4 * bucketOf ep (entId y)
    let allowed (a : Word) := (gateCheck s (68 + lmPortOf s a) tsvWho .wr a 32 false).ok = true
    w < 4 ∧ entValid (wayAt ep (b + w)) = false ∧ (∀ v < w, entValid (wayAt ep (b + v)) = true) ∧
    allowed (wayAddr ep (b + w)) ∧ k ≠ b + w) ∧
  (∃ (s : State) (i : Nat) (e : Bool) (y : Entry),
    let x := getInst s i
    let ep := epochOf x e
    let b := 4 * bucketOf ep (entId y)
    (∀ w < 4, entValid (wayAt ep (b + w)) = true)) :=
  ⟨⟨tab up, 15, false, newEntry 7 0 33 false 0 0 0 0, 0, 1000, by dsimp only; decide +kernel⟩,
   ⟨modInst 15 (fun x => { x with st := .run, ep0 := { x.ep0 with ways := [(4 * 7 + 0, newEntry 7 0 33 false 0 0 0 0), (4 * 7 + 1, newEntry 1031 0 33 false 0 0 0 0), (4 * 7 + 2, newEntry 2055 0 33 false 0 0 0 0), (4 * 7 + 3, newEntry 3079 0 33 false 0 0 0 0)] } }) (tab up), 15, false, newEntry 4103 0 33 false 0 0 0 0, by dsimp only; decide +kernel⟩⟩

/-- TableRecords. -/
theorem wit_learns_and_touches :
  (∃ (s : State) (r : Record),
    let i := r.inst
    let x := getInst s i
    let ep := activeEp x
    let y := newEntry r.id x.agecnt r.port false r.vlo r.vhi (nowUs s) r.uflags
    let placed := placeNew i x.act y { learn := true, mirror := x.mirroring } s
    findId ep r.id = none ∧ placed.1.2 = true) ∧
  (∃ (s : State) (r : Record),
    let i := r.inst
    let x := getInst s i
    let ep := activeEp x
    let y := newEntry r.id x.agecnt r.port false r.vlo r.vhi (nowUs s) r.uflags
    let placed := placeNew i x.act y { learn := true, mirror := x.mirroring } s
    findId ep r.id = none ∧ placed.1.2 = false) ∧
  (∃ (r : Record) (u : _),
    let i := r.inst
    inFault u i = false ∧ (getInst u i).mirroring = false) ∧
  (∃ (s : State) (r : Record) (p : _) (old : _),
    let i := r.inst
    let x := getInst s i
    let ep := activeEp x
    let other := entCh old = true ∨ entPort old ≠ r.port
    let recent := (nowUs s - entLtime old).toNat < (tget (1000 : BitVec 16) s.active.tsv.flapwin i).toNat
    findId ep r.id = some (p, old) ∧ other ∧ recent) ∧
  (∃ (s : State) (r : Record) (p : _) (old : _),
    let i := r.inst
    let x := getInst s i
    let ep := activeEp x
    let allowed (p : Place) := (gateCheck s (68 + lmPortOf s (placeAddr ep p)) tsvWho .wr (placeAddr ep p) 32 false).ok = true
    let other := entCh old = true ∨ entPort old ≠ r.port
    let recent := (nowUs s - entLtime old).toNat < (tget (1000 : BitVec 16) s.active.tsv.flapwin i).toNat
    findId ep r.id = some (p, old) ∧ ¬ (other ∧ recent) ∧ x.mirroring = false ∧ x.st ≠ .fault ∧ allowed p) :=
  ⟨⟨modInst 15 (fun x => { x with st := .run, ep0 := { x.ep0 with ways := [(4 * 7 + 0, newEntry 7 0 33 false 0 0 0 0), (4 * 7 + 1, newEntry 1031 0 33 false 0 0 0 0), (4 * 7 + 2, newEntry 2055 0 33 false 0 0 0 0), (4 * 7 + 3, newEntry 3079 0 33 false 0 0 0 0)] } }) (tab up), ⟨false, 33, 15, 0, 4103, 0, 0⟩, by dsimp only; decide +kernel⟩,
   ⟨tab up, ⟨false, 33, 15, 0, 7, 0, 0⟩, by dsimp only; decide +kernel⟩,
   ⟨⟨false, 33, 15, 0, 7, 0, 0⟩, up, by dsimp only; decide +kernel⟩,
   ⟨{ (modInst 15 (fun x => { x with st := .run, ep0 := { x.ep0 with ways := [(4 * 7 + 0, newEntry 7 0 34 false 0 0 0 0)] } }) (tab up)) with time := 5 }, ⟨false, 33, 15, 0, 7, 0, 0⟩, (.way 28), newEntry 7 0 34 false 0 0 0 0, by dsimp only; decide +kernel⟩,
   ⟨modInst 15 (fun x => { x with st := .run, ep0 := { x.ep0 with ways := [(4 * 7 + 0, newEntry 7 0 33 false 0 0 0 0)] } }) (tab up), ⟨false, 33, 15, 0, 7, 0, 0⟩, (.way 28), newEntry 7 0 33 false 0 0 0 0, by dsimp only; decide +kernel⟩⟩

/-- TableAnswers. -/
theorem wit_table_entry_changes :
  (∃ (s : State) (e : Nat) (i : Nat) (img : List Byte),
    let x := getInst s i
    let imageOk := zeroAt (wordAt img 24) 8 56 = true ∧ idFits x (bits (wordAt img 0) 0 32) = true
    (getEng s e).main.phase = .table ∧ ¬ imageOk) ∧
  (∃ (s : State) (u : State) (e : Nat) (i : Nat) (id : Half) (rd : MResp) (p : _) (z : _),
    let x := getInst s i
    let ep := activeEp x
    let allowed (p : Place) := (gateCheck u (68 + lmPortOf u (placeAddr ep p)) tsvWho .wr (placeAddr ep p) 32 false).ok = true
    (getEng s e).main.phase = .table ∧ bucketRead i ep id rd s = (true, u) ∧ x.mirroring = false ∧ x.st ≠ .fault ∧
    findId ep id = some (p, z) ∧ allowed p) ∧
  (∃ (s : State) (u : State) (e : Nat) (i : Nat) (id : Half) (rd : MResp) (img : List Byte) (p : _) (z : _),
    let x := getInst s i
    let ep := activeEp x
    let imageOk := zeroAt (wordAt img 24) 8 56 = true ∧ idFits x (bits (wordAt img 0) 0 32) = true
    (getEng s e).main.phase = .table ∧ bucketRead i ep id rd s = (true, u) ∧ x.mirroring = false ∧ x.st ≠ .fault ∧
    imageOk ∧ bits (wordAt img 0) 0 32 = id ∧ findId ep id = some (p, z)) ∧
  (∃ (s : State) (u : State) (e : Nat) (i : Nat) (id : Half) (rd : MResp) (img : List Byte) (c : _) (wait : _) (v : _),
    let x := getInst s i
    let ep := activeEp x
    let y := newEntry id x.agecnt 0 true (wordAt img 8) (bits (wordAt img 16) 0 32) (nowUs s) (bits (wordAt img 24) 0 8)
    let imageOk := zeroAt (wordAt img 24) 8 56 = true ∧ idFits x (bits (wordAt img 0) 0 32) = true
    (getEng s e).main.phase = .table ∧ bucketRead i ep id rd s = (true, u) ∧ x.mirroring = false ∧ x.st ≠ .fault ∧
    imageOk ∧ bits (wordAt img 0) 0 32 = id ∧ findId ep id = none ∧
    placeNew i x.act y { engine := some e, mirror := false } u = ((c, wait), v) ∧ inFault v i = false ∧ wait = true) ∧
  (∃ (s : State) (u : State) (e : Nat) (i : Nat) (id : Half) (rd : MResp) (img : List Byte) (c : _) (wait : _) (v : _),
    let x := getInst s i
    let ep := activeEp x
    let y := newEntry id x.agecnt 0 true (wordAt img 8) (bits (wordAt img 16) 0 32) (nowUs s) (bits (wordAt img 24) 0 8)
    let imageOk := zeroAt (wordAt img 24) 8 56 = true ∧ idFits x (bits (wordAt img 0) 0 32) = true
    (getEng s e).main.phase = .table ∧ bucketRead i ep id rd s = (true, u) ∧ x.mirroring = false ∧ x.st ≠ .fault ∧
    imageOk ∧ bits (wordAt img 0) 0 32 = id ∧ findId ep id = none ∧
    placeNew i x.act y { engine := some e, mirror := false } u = ((c, wait), v) ∧ inFault v i = false ∧ wait = false) :=
  ⟨⟨(modMain 0 (fun t => { t with phase := .table }) (modEng 0 (fun x => { x with hold := .chan 2 }) (tab up))), 0, 15, List.replicate 32 255, by dsimp only; decide +kernel⟩,
   ⟨(modMain 0 (fun t => { t with phase := .table }) (modEng 0 (fun x => { x with hold := .chan 2 }) (modInst 15 (fun x => { x with st := .run, ep0 := { x.ep0 with ways := [(4 * 7 + 0, newEntry 7 0 33 false 0 0 0 0)] } }) (tab up)))), (bucketRead 15 (activeEp (getInst (modMain 0 (fun t => { t with phase := .table }) (modEng 0 (fun x => { x with hold := .chan 2 }) (modInst 15 (fun x => { x with st := .run, ep0 := { x.ep0 with ways := [(4 * 7 + 0, newEntry 7 0 33 false 0 0 0 0)] } }) (tab up)))) 15)) 7 .ok (modMain 0 (fun t => { t with phase := .table }) (modEng 0 (fun x => { x with hold := .chan 2 }) (modInst 15 (fun x => { x with st := .run, ep0 := { x.ep0 with ways := [(4 * 7 + 0, newEntry 7 0 33 false 0 0 0 0)] } }) (tab up))))).2, 0, 15, 7, .ok, (.way 28), newEntry 7 0 33 false 0 0 0 0, by dsimp only; decide +kernel⟩,
   ⟨(modMain 0 (fun t => { t with phase := .table }) (modEng 0 (fun x => { x with hold := .chan 2 }) (modInst 15 (fun x => { x with st := .run, ep0 := { x.ep0 with ways := [(4 * 7 + 0, newEntry 7 0 33 false 0 0 0 0)] } }) (tab up)))), (bucketRead 15 (activeEp (getInst (modMain 0 (fun t => { t with phase := .table }) (modEng 0 (fun x => { x with hold := .chan 2 }) (modInst 15 (fun x => { x with st := .run, ep0 := { x.ep0 with ways := [(4 * 7 + 0, newEntry 7 0 33 false 0 0 0 0)] } }) (tab up)))) 15)) 7 .ok (modMain 0 (fun t => { t with phase := .table }) (modEng 0 (fun x => { x with hold := .chan 2 }) (modInst 15 (fun x => { x with st := .run, ep0 := { x.ep0 with ways := [(4 * 7 + 0, newEntry 7 0 33 false 0 0 0 0)] } }) (tab up))))).2, 0, 15, 7, .ok, (bytesOf (w64 7) 8 ++ List.replicate 24 0), (.way 28), newEntry 7 0 33 false 0 0 0 0, by dsimp only; decide +kernel⟩,
   ⟨(modMain 0 (fun t => { t with phase := .table }) (modEng 0 (fun x => { x with hold := .chan 2 }) (modInst 15 (fun x => { x with st := .run, ep0 := { x.ep0 with ways := [(4 * 7 + 0, newEntry 7 0 33 false 0 0 0 0), (4 * 7 + 1, newEntry 1031 0 33 false 0 0 0 0), (4 * 7 + 2, newEntry 2055 0 33 false 0 0 0 0), (4 * 7 + 3, newEntry 3079 0 33 false 0 0 0 0)] } }) (tab up)))), (bucketRead 15 (activeEp (getInst (modMain 0 (fun t => { t with phase := .table }) (modEng 0 (fun x => { x with hold := .chan 2 }) (modInst 15 (fun x => { x with st := .run, ep0 := { x.ep0 with ways := [(4 * 7 + 0, newEntry 7 0 33 false 0 0 0 0), (4 * 7 + 1, newEntry 1031 0 33 false 0 0 0 0), (4 * 7 + 2, newEntry 2055 0 33 false 0 0 0 0), (4 * 7 + 3, newEntry 3079 0 33 false 0 0 0 0)] } }) (tab up)))) 15)) 4103 .ok (modMain 0 (fun t => { t with phase := .table }) (modEng 0 (fun x => { x with hold := .chan 2 }) (modInst 15 (fun x => { x with st := .run, ep0 := { x.ep0 with ways := [(4 * 7 + 0, newEntry 7 0 33 false 0 0 0 0), (4 * 7 + 1, newEntry 1031 0 33 false 0 0 0 0), (4 * 7 + 2, newEntry 2055 0 33 false 0 0 0 0), (4 * 7 + 3, newEntry 3079 0 33 false 0 0 0 0)] } }) (tab up))))).2, 0, 15, 4103, .ok, (bytesOf (w64 4103) 8 ++ List.replicate 24 0), (placeNew 15 false (newEntry 4103 (getInst (modMain 0 (fun t => { t with phase := .table }) (modEng 0 (fun x => { x with hold := .chan 2 }) (modInst 15 (fun x => { x with st := .run, ep0 := { x.ep0 with ways := [(4 * 7 + 0, newEntry 7 0 33 false 0 0 0 0), (4 * 7 + 1, newEntry 1031 0 33 false 0 0 0 0), (4 * 7 + 2, newEntry 2055 0 33 false 0 0 0 0), (4 * 7 + 3, newEntry 3079 0 33 false 0 0 0 0)] } }) (tab up)))) 15).agecnt 0 true (wordAt (bytesOf (w64 4103) 8 ++ List.replicate 24 0) 8) (bits (wordAt (bytesOf (w64 4103) 8 ++ List.replicate 24 0) 16) 0 32) (nowUs (modMain 0 (fun t => { t with phase := .table }) (modEng 0 (fun x => { x with hold := .chan 2 }) (modInst 15 (fun x => { x with st := .run, ep0 := { x.ep0 with ways := [(4 * 7 + 0, newEntry 7 0 33 false 0 0 0 0), (4 * 7 + 1, newEntry 1031 0 33 false 0 0 0 0), (4 * 7 + 2, newEntry 2055 0 33 false 0 0 0 0), (4 * 7 + 3, newEntry 3079 0 33 false 0 0 0 0)] } }) (tab up))))) (bits (wordAt (bytesOf (w64 4103) 8 ++ List.replicate 24 0) 24) 0 8)) { engine := some 0, mirror := false } (bucketRead 15 (activeEp (getInst (modMain 0 (fun t => { t with phase := .table }) (modEng 0 (fun x => { x with hold := .chan 2 }) (modInst 15 (fun x => { x with st := .run, ep0 := { x.ep0 with ways := [(4 * 7 + 0, newEntry 7 0 33 false 0 0 0 0), (4 * 7 + 1, newEntry 1031 0 33 false 0 0 0 0), (4 * 7 + 2, newEntry 2055 0 33 false 0 0 0 0), (4 * 7 + 3, newEntry 3079 0 33 false 0 0 0 0)] } }) (tab up)))) 15)) 4103 .ok (modMain 0 (fun t => { t with phase := .table }) (modEng 0 (fun x => { x with hold := .chan 2 }) (modInst 15 (fun x => { x with st := .run, ep0 := { x.ep0 with ways := [(4 * 7 + 0, newEntry 7 0 33 false 0 0 0 0), (4 * 7 + 1, newEntry 1031 0 33 false 0 0 0 0), (4 * 7 + 2, newEntry 2055 0 33 false 0 0 0 0), (4 * 7 + 3, newEntry 3079 0 33 false 0 0 0 0)] } }) (tab up))))).2).1.1, true, (placeNew 15 false (newEntry 4103 (getInst (modMain 0 (fun t => { t with phase := .table }) (modEng 0 (fun x => { x with hold := .chan 2 }) (modInst 15 (fun x => { x with st := .run, ep0 := { x.ep0 with ways := [(4 * 7 + 0, newEntry 7 0 33 false 0 0 0 0), (4 * 7 + 1, newEntry 1031 0 33 false 0 0 0 0), (4 * 7 + 2, newEntry 2055 0 33 false 0 0 0 0), (4 * 7 + 3, newEntry 3079 0 33 false 0 0 0 0)] } }) (tab up)))) 15).agecnt 0 true (wordAt (bytesOf (w64 4103) 8 ++ List.replicate 24 0) 8) (bits (wordAt (bytesOf (w64 4103) 8 ++ List.replicate 24 0) 16) 0 32) (nowUs (modMain 0 (fun t => { t with phase := .table }) (modEng 0 (fun x => { x with hold := .chan 2 }) (modInst 15 (fun x => { x with st := .run, ep0 := { x.ep0 with ways := [(4 * 7 + 0, newEntry 7 0 33 false 0 0 0 0), (4 * 7 + 1, newEntry 1031 0 33 false 0 0 0 0), (4 * 7 + 2, newEntry 2055 0 33 false 0 0 0 0), (4 * 7 + 3, newEntry 3079 0 33 false 0 0 0 0)] } }) (tab up))))) (bits (wordAt (bytesOf (w64 4103) 8 ++ List.replicate 24 0) 24) 0 8)) { engine := some 0, mirror := false } (bucketRead 15 (activeEp (getInst (modMain 0 (fun t => { t with phase := .table }) (modEng 0 (fun x => { x with hold := .chan 2 }) (modInst 15 (fun x => { x with st := .run, ep0 := { x.ep0 with ways := [(4 * 7 + 0, newEntry 7 0 33 false 0 0 0 0), (4 * 7 + 1, newEntry 1031 0 33 false 0 0 0 0), (4 * 7 + 2, newEntry 2055 0 33 false 0 0 0 0), (4 * 7 + 3, newEntry 3079 0 33 false 0 0 0 0)] } }) (tab up)))) 15)) 4103 .ok (modMain 0 (fun t => { t with phase := .table }) (modEng 0 (fun x => { x with hold := .chan 2 }) (modInst 15 (fun x => { x with st := .run, ep0 := { x.ep0 with ways := [(4 * 7 + 0, newEntry 7 0 33 false 0 0 0 0), (4 * 7 + 1, newEntry 1031 0 33 false 0 0 0 0), (4 * 7 + 2, newEntry 2055 0 33 false 0 0 0 0), (4 * 7 + 3, newEntry 3079 0 33 false 0 0 0 0)] } }) (tab up))))).2).2, by dsimp only; decide +kernel⟩,
   ⟨(modMain 0 (fun t => { t with phase := .table }) (modEng 0 (fun x => { x with hold := .chan 2 }) (modInst 15 (fun x => { x with ep0 := { x.ep0 with stash := (List.range 256).map (fun k => (k, newEntry (BitVec.ofNat 32 (7 + 1024 * (10 + k))) 0 33 false 0 0 0 0)) } }) (modInst 15 (fun x => { x with st := .run, ep0 := { x.ep0 with ways := [(4 * 7 + 0, newEntry 7 0 33 false 0 0 0 0), (4 * 7 + 1, newEntry 1031 0 33 false 0 0 0 0), (4 * 7 + 2, newEntry 2055 0 33 false 0 0 0 0), (4 * 7 + 3, newEntry 3079 0 33 false 0 0 0 0)] } }) (tab up))))), (bucketRead 15 (activeEp (getInst (modMain 0 (fun t => { t with phase := .table }) (modEng 0 (fun x => { x with hold := .chan 2 }) (modInst 15 (fun x => { x with ep0 := { x.ep0 with stash := (List.range 256).map (fun k => (k, newEntry (BitVec.ofNat 32 (7 + 1024 * (10 + k))) 0 33 false 0 0 0 0)) } }) (modInst 15 (fun x => { x with st := .run, ep0 := { x.ep0 with ways := [(4 * 7 + 0, newEntry 7 0 33 false 0 0 0 0), (4 * 7 + 1, newEntry 1031 0 33 false 0 0 0 0), (4 * 7 + 2, newEntry 2055 0 33 false 0 0 0 0), (4 * 7 + 3, newEntry 3079 0 33 false 0 0 0 0)] } }) (tab up))))) 15)) 4103 .ok (modMain 0 (fun t => { t with phase := .table }) (modEng 0 (fun x => { x with hold := .chan 2 }) (modInst 15 (fun x => { x with ep0 := { x.ep0 with stash := (List.range 256).map (fun k => (k, newEntry (BitVec.ofNat 32 (7 + 1024 * (10 + k))) 0 33 false 0 0 0 0)) } }) (modInst 15 (fun x => { x with st := .run, ep0 := { x.ep0 with ways := [(4 * 7 + 0, newEntry 7 0 33 false 0 0 0 0), (4 * 7 + 1, newEntry 1031 0 33 false 0 0 0 0), (4 * 7 + 2, newEntry 2055 0 33 false 0 0 0 0), (4 * 7 + 3, newEntry 3079 0 33 false 0 0 0 0)] } }) (tab up)))))).2, 0, 15, 4103, .ok, (bytesOf (w64 4103) 8 ++ List.replicate 24 0), (placeNew 15 false (newEntry 4103 (getInst (modMain 0 (fun t => { t with phase := .table }) (modEng 0 (fun x => { x with hold := .chan 2 }) (modInst 15 (fun x => { x with ep0 := { x.ep0 with stash := (List.range 256).map (fun k => (k, newEntry (BitVec.ofNat 32 (7 + 1024 * (10 + k))) 0 33 false 0 0 0 0)) } }) (modInst 15 (fun x => { x with st := .run, ep0 := { x.ep0 with ways := [(4 * 7 + 0, newEntry 7 0 33 false 0 0 0 0), (4 * 7 + 1, newEntry 1031 0 33 false 0 0 0 0), (4 * 7 + 2, newEntry 2055 0 33 false 0 0 0 0), (4 * 7 + 3, newEntry 3079 0 33 false 0 0 0 0)] } }) (tab up))))) 15).agecnt 0 true (wordAt (bytesOf (w64 4103) 8 ++ List.replicate 24 0) 8) (bits (wordAt (bytesOf (w64 4103) 8 ++ List.replicate 24 0) 16) 0 32) (nowUs (modMain 0 (fun t => { t with phase := .table }) (modEng 0 (fun x => { x with hold := .chan 2 }) (modInst 15 (fun x => { x with ep0 := { x.ep0 with stash := (List.range 256).map (fun k => (k, newEntry (BitVec.ofNat 32 (7 + 1024 * (10 + k))) 0 33 false 0 0 0 0)) } }) (modInst 15 (fun x => { x with st := .run, ep0 := { x.ep0 with ways := [(4 * 7 + 0, newEntry 7 0 33 false 0 0 0 0), (4 * 7 + 1, newEntry 1031 0 33 false 0 0 0 0), (4 * 7 + 2, newEntry 2055 0 33 false 0 0 0 0), (4 * 7 + 3, newEntry 3079 0 33 false 0 0 0 0)] } }) (tab up)))))) (bits (wordAt (bytesOf (w64 4103) 8 ++ List.replicate 24 0) 24) 0 8)) { engine := some 0, mirror := false } (bucketRead 15 (activeEp (getInst (modMain 0 (fun t => { t with phase := .table }) (modEng 0 (fun x => { x with hold := .chan 2 }) (modInst 15 (fun x => { x with ep0 := { x.ep0 with stash := (List.range 256).map (fun k => (k, newEntry (BitVec.ofNat 32 (7 + 1024 * (10 + k))) 0 33 false 0 0 0 0)) } }) (modInst 15 (fun x => { x with st := .run, ep0 := { x.ep0 with ways := [(4 * 7 + 0, newEntry 7 0 33 false 0 0 0 0), (4 * 7 + 1, newEntry 1031 0 33 false 0 0 0 0), (4 * 7 + 2, newEntry 2055 0 33 false 0 0 0 0), (4 * 7 + 3, newEntry 3079 0 33 false 0 0 0 0)] } }) (tab up))))) 15)) 4103 .ok (modMain 0 (fun t => { t with phase := .table }) (modEng 0 (fun x => { x with hold := .chan 2 }) (modInst 15 (fun x => { x with ep0 := { x.ep0 with stash := (List.range 256).map (fun k => (k, newEntry (BitVec.ofNat 32 (7 + 1024 * (10 + k))) 0 33 false 0 0 0 0)) } }) (modInst 15 (fun x => { x with st := .run, ep0 := { x.ep0 with ways := [(4 * 7 + 0, newEntry 7 0 33 false 0 0 0 0), (4 * 7 + 1, newEntry 1031 0 33 false 0 0 0 0), (4 * 7 + 2, newEntry 2055 0 33 false 0 0 0 0), (4 * 7 + 3, newEntry 3079 0 33 false 0 0 0 0)] } }) (tab up)))))).2).1.1, false, (placeNew 15 false (newEntry 4103 (getInst (modMain 0 (fun t => { t with phase := .table }) (modEng 0 (fun x => { x with hold := .chan 2 }) (modInst 15 (fun x => { x with ep0 := { x.ep0 with stash := (List.range 256).map (fun k => (k, newEntry (BitVec.ofNat 32 (7 + 1024 * (10 + k))) 0 33 false 0 0 0 0)) } }) (modInst 15 (fun x => { x with st := .run, ep0 := { x.ep0 with ways := [(4 * 7 + 0, newEntry 7 0 33 false 0 0 0 0), (4 * 7 + 1, newEntry 1031 0 33 false 0 0 0 0), (4 * 7 + 2, newEntry 2055 0 33 false 0 0 0 0), (4 * 7 + 3, newEntry 3079 0 33 false 0 0 0 0)] } }) (tab up))))) 15).agecnt 0 true (wordAt (bytesOf (w64 4103) 8 ++ List.replicate 24 0) 8) (bits (wordAt (bytesOf (w64 4103) 8 ++ List.replicate 24 0) 16) 0 32) (nowUs (modMain 0 (fun t => { t with phase := .table }) (modEng 0 (fun x => { x with hold := .chan 2 }) (modInst 15 (fun x => { x with ep0 := { x.ep0 with stash := (List.range 256).map (fun k => (k, newEntry (BitVec.ofNat 32 (7 + 1024 * (10 + k))) 0 33 false 0 0 0 0)) } }) (modInst 15 (fun x => { x with st := .run, ep0 := { x.ep0 with ways := [(4 * 7 + 0, newEntry 7 0 33 false 0 0 0 0), (4 * 7 + 1, newEntry 1031 0 33 false 0 0 0 0), (4 * 7 + 2, newEntry 2055 0 33 false 0 0 0 0), (4 * 7 + 3, newEntry 3079 0 33 false 0 0 0 0)] } }) (tab up)))))) (bits (wordAt (bytesOf (w64 4103) 8 ++ List.replicate 24 0) 24) 0 8)) { engine := some 0, mirror := false } (bucketRead 15 (activeEp (getInst (modMain 0 (fun t => { t with phase := .table }) (modEng 0 (fun x => { x with hold := .chan 2 }) (modInst 15 (fun x => { x with ep0 := { x.ep0 with stash := (List.range 256).map (fun k => (k, newEntry (BitVec.ofNat 32 (7 + 1024 * (10 + k))) 0 33 false 0 0 0 0)) } }) (modInst 15 (fun x => { x with st := .run, ep0 := { x.ep0 with ways := [(4 * 7 + 0, newEntry 7 0 33 false 0 0 0 0), (4 * 7 + 1, newEntry 1031 0 33 false 0 0 0 0), (4 * 7 + 2, newEntry 2055 0 33 false 0 0 0 0), (4 * 7 + 3, newEntry 3079 0 33 false 0 0 0 0)] } }) (tab up))))) 15)) 4103 .ok (modMain 0 (fun t => { t with phase := .table }) (modEng 0 (fun x => { x with hold := .chan 2 }) (modInst 15 (fun x => { x with ep0 := { x.ep0 with stash := (List.range 256).map (fun k => (k, newEntry (BitVec.ofNat 32 (7 + 1024 * (10 + k))) 0 33 false 0 0 0 0)) } }) (modInst 15 (fun x => { x with st := .run, ep0 := { x.ep0 with ways := [(4 * 7 + 0, newEntry 7 0 33 false 0 0 0 0), (4 * 7 + 1, newEntry 1031 0 33 false 0 0 0 0), (4 * 7 + 2, newEntry 2055 0 33 false 0 0 0 0), (4 * 7 + 3, newEntry 3079 0 33 false 0 0 0 0)] } }) (tab up)))))).2).2, by dsimp only; decide +kernel⟩⟩

/-- TableUpkeep. -/
theorem wit_relocation_ends :
  (∃ (s : State) (i : Nat) (q : LmReq) (key : Nat) (e : Bool),
    let u := xLm q.port q.dl 0 s
    s.inReset = false ∧ tested s islTsv = false ∧ tested s (islLmp q.port) = false ∧ stashOf s i = some q ∧
    stashKey i q.purpose = some (key, e) ∧ xstands u (76 + q.port) 0 = true) ∧
  (∃ (s : State) (i : Nat) (resp : MResp) (q : LmReq) (key : Nat) (e : Bool),
    let u := xLm q.port q.dl 0 s
    s.inReset = false ∧ tested s islTsv = false ∧ tested s (islLmp q.port) = false ∧ stashOf s i = some q ∧
    stashKey i q.purpose = some (key, e) ∧ xstands u (76 + q.port) 0 = false ∧ resp = .ok) ∧
  (∃ (s : State) (i : Nat) (resp : MResp) (q : LmReq) (key : Nat) (e : Bool),
    let u := xLm q.port q.dl 0 s
    s.inReset = false ∧ tested s islTsv = false ∧ tested s (islLmp q.port) = false ∧ stashOf s i = some q ∧
    stashKey i q.purpose = some (key, e) ∧ xstands u (76 + q.port) 0 = false ∧ resp ≠ .ok) ∧
  (∃ (s : State) (i : Nat) (q : LmReq) (key : Nat) (e : Bool) (r : _) (rest : _) (k : _),
    let x := getInst s i
    let a := wayAddr (epochOf x e) key
    let v := gateCheck s (68 + lmPortOf s a) tsvWho .wr a 32 false
    s.inReset = false ∧ tested s islTsv = false ∧ tested s (islLmp q.port) = false ∧
    relocOf (getInst s i) key e = some (r, rest) ∧ v.ok = true ∧ r.mirror = false ∧ k ≠ key) ∧
  (∃ (s : State) (i : Nat) (q : LmReq) (key : Nat) (e : Bool) (r : _) (rest : _) (g : _),
    let x := getInst s i
    let a := wayAddr (epochOf x e) key
    let v := gateCheck s (68 + lmPortOf s a) tsvWho .wr a 32 false
    s.inReset = false ∧ tested s islTsv = false ∧ tested s (islLmp q.port) = false ∧
    relocOf (getInst s i) key e = some (r, rest) ∧ v.ok = true ∧ r.mirror = false ∧ r.engine = some g ∧ x.st ≠ .fault ∧
    (getEng s g).main.phase = .table) ∧
  (∃ (s : State) (i : Nat) (q : LmReq) (key : Nat) (e : Bool) (r : _) (rest : _),
    let x := getInst s i
    let a := wayAddr (epochOf x e) key
    let v := gateCheck s (68 + lmPortOf s a) tsvWho .wr a 32 false
    s.inReset = false ∧ tested s islTsv = false ∧ tested s (islLmp q.port) = false ∧
    relocOf (getInst s i) key e = some (r, rest) ∧ v.ok = true ∧ r.mirror = true ∧ r.engine = none) ∧
  (∃ (s : State) (i : Nat) (q : LmReq) (key : Nat) (e : Bool) (r : _) (rest : _),
    let x := getInst s i
    let a := wayAddr (epochOf x e) key
    let v := gateCheck s (68 + lmPortOf s a) tsvWho .wr a 32 false
    s.inReset = false ∧ tested s islTsv = false ∧ tested s (islLmp q.port) = false ∧
    relocOf (getInst s i) key e = some (r, rest) ∧ v.ok = false ∧ x.st ≠ .off) :=
  ⟨⟨{ (modXbar (fun x => { x with freeze := true }) up) with lm := [{ port := 0, tag := 7, op := .write, addr := 64, len := 32, purpose := .stash 15 4 false }] }, 15, { port := 0, tag := 7, op := .write, addr := 64, len := 32, purpose := .stash 15 4 false }, 4, false, by dsimp only; decide +kernel⟩,
   ⟨{ (up) with lm := [{ port := 0, tag := 7, op := .write, addr := 64, len := 32, purpose := .stash 15 4 false }] }, 15, .ok, { port := 0, tag := 7, op := .write, addr := 64, len := 32, purpose := .stash 15 4 false }, 4, false, by dsimp only; decide +kernel⟩,
   ⟨{ (up) with lm := [{ port := 0, tag := 7, op := .write, addr := 64, len := 32, purpose := .stash 15 4 false }] }, 15, .err, { port := 0, tag := 7, op := .write, addr := 64, len := 32, purpose := .stash 15 4 false }, 4, false, by dsimp only; decide +kernel⟩,
   ⟨modInst 15 (fun x => { x with st := .run, relocating := [⟨false, 4, {}, none, false, false⟩] }) ({ (up) with lm := [{ port := 0, tag := 7, op := .write, addr := 64, len := 32, purpose := .stash 15 4 false }] }), 15, { port := 0, tag := 7, op := .write, addr := 64, len := 32, purpose := .stash 15 4 false }, 4, false, ⟨false, 4, {}, none, false, false⟩, [], 5, by dsimp only; decide +kernel⟩,
   ⟨modInst 15 (fun x => { x with st := .run, relocating := [⟨false, 4, {}, (some 0), false, false⟩] }) ({ (modMain 0 (fun t => { t with phase := .table }) up) with lm := [{ port := 0, tag := 7, op := .write, addr := 64, len := 32, purpose := .stash 15 4 false }] }), 15, { port := 0, tag := 7, op := .write, addr := 64, len := 32, purpose := .stash 15 4 false }, 4, false, ⟨false, 4, {}, (some 0), false, false⟩, [], 0, by dsimp only; decide +kernel⟩,
   ⟨modInst 15 (fun x => { x with st := .run, relocating := [⟨false, 4, {}, none, false, true⟩] }) ({ (up) with lm := [{ port := 0, tag := 7, op := .write, addr := 64, len := 32, purpose := .stash 15 4 false }] }), 15, { port := 0, tag := 7, op := .write, addr := 64, len := 32, purpose := .stash 15 4 false }, 4, false, ⟨false, 4, {}, none, false, true⟩, [], by dsimp only; decide +kernel⟩,
   ⟨modInst 15 (fun x => { x with st := .run, relocating := [⟨false, 4, {}, none, false, false⟩] }) ({ (modGate (fun g => { g with active := [(64 * 68, ruleDenyAll)] }) up) with lm := [{ port := 0, tag := 7, op := .write, addr := 64, len := 32, purpose := .stash 15 4 false }] }), 15, { port := 0, tag := 7, op := .write, addr := 64, len := 32, purpose := .stash 15 4 false }, 4, false, ⟨false, 4, {}, none, false, false⟩, [], by dsimp only; decide +kernel⟩⟩

/-- TableUpkeep. -/
theorem wit_table_aging :
  (∃ (s : State) (i : Nat),
    let x := getInst s i
    live s = true ∧ tested s islTsv = false ∧ x.en = true ∧ tickNs s i ≤ (s.time - x.tickAt).toNat) ∧
  (∃ (s : State) (i : Nat),
    let x := getInst s i
    live s = true ∧ (s.time - x.tickAt).toNat < tickNs s i) ∧
  (∃ (s : State) (i : Nat),
    let x := getInst s i
    tsvMay s = true ∧ instRuns x = true ∧ agelimOf s i = 0) ∧
  (∃ (s : State) (i : Nat),
    let x := getInst s i
    tsvMay s = true ∧ instRuns x = true ∧ agelimOf s i ≠ 0 ∧ sweepBusy s i (sweepPlaces (activeEp x) (sweepAt x)) = true) ∧
  (∃ (s : State) (i : Nat) (p : _) (rest : _) (rd : MResp),
    let x := getInst s i
    let a := placeAddr (activeEp x) p
    let n := 32 * (rest.length + 1)
    let v := gateCheck s (68 + lmPortOf s a) tsvWho .rd a n false
    tsvMay s = true ∧ instRuns x = true ∧ agelimOf s i ≠ 0 ∧ sweepPlaces (activeEp x) (sweepAt x) = p :: rest ∧
    sweepBusy s i (sweepPlaces (activeEp x) (sweepAt x)) = false ∧ v.ok = true ∧ rd ≠ .ok) ∧
  (∃ (s : State) (i : Nat) (p : _) (rest : _),
    let x := getInst s i
    let a := placeAddr (activeEp x) p
    let n := 32 * (rest.length + 1)
    let v := gateCheck s (68 + lmPortOf s a) tsvWho .rd a n false
    tsvMay s = true ∧ instRuns x = true ∧ agelimOf s i ≠ 0 ∧ sweepPlaces (activeEp x) (sweepAt x) = p :: rest ∧
    sweepBusy s i (sweepPlaces (activeEp x) (sweepAt x)) = false ∧ v.ok = false) ∧
  (∃ (s : State) (i : Nat) (y : _),
    let x := getInst s i
    tsvMay s = true ∧ instRuns x = true ∧ (entValid y = false ∨ ageOf x y ≤ agelimOf s i)) ∧
  (∃ (s : State) (i : Nat) (p : _) (y : _),
    let x := getInst s i
    let a := placeAddr (activeEp x) p
    tsvMay s = true ∧ instRuns x = true ∧ entValid y = true ∧ agelimOf s i < ageOf x y ∧
    (gateCheck s (68 + lmPortOf s a) tsvWho .wr a 32 false).ok = true) :=
  ⟨⟨modInst 15 (fun x => { x with en := true }) ({ up with time := 1024000000 }), 15, by dsimp only; decide +kernel⟩,
   ⟨up, 15, by dsimp only; decide +kernel⟩,
   ⟨(modInst 15 (fun x => { x with st := .run, en := true }) (up)) |> (fun s => { s with active := { s.active with tsv := { agelim := [(15, 0)] } } }), 15, by dsimp only; decide +kernel⟩,
   ⟨(modInst 15 (fun x => { x with st := .run, en := true, ep0 := { ways := [(1, { w0 := w64 (2 ^ 63) })] }, relocating := [⟨false, 4 * bucketOf { } 0, {}, none, false, false⟩] }) (up)) |> (fun s => { s with pending := [] }), 15, by dsimp only; decide +kernel⟩,
   ⟨modInst 15 (fun x => { x with st := .run, en := true }) (up), 15, .way 0, [.way 1, .way 2, .way 3], .err, by dsimp only; decide +kernel⟩,
   ⟨modInst 15 (fun x => { x with st := .run, en := true }) (modGate (fun g => { g with active := [(64 * 68, ruleDenyAll)] }) (up)), 15, .way 0, [.way 1, .way 2, .way 3], by dsimp only; decide +kernel⟩,
   ⟨modInst 15 (fun x => { x with st := .run, en := true }) (up), 15, {}, by dsimp only; decide +kernel⟩,
   ⟨modInst 15 (fun x => { x with st := .run, en := true, agecnt := 400 }) (up), 15, .way 0, { w0 := w64 (2 ^ 63) }, by dsimp only; decide +kernel⟩⟩

/-- TableLifecycle. -/
theorem wit_table_lifecycle :
  (∃ (s : State) (r : Requester) (i : Nat),
    let x := getInst s i
    live s = true ∧ isFirmware r = true ∧ i < 16 ∧ x.en = false) ∧
  (∃ (s : State) (r : Requester) (i : Nat),
    let x := getInst s i
    live s = true ∧ isFirmware r = true ∧ i < 16 ∧ x.en = true) ∧
  (∃ (s : State) (i : Nat),
    let x := getInst s i
    tsvMay s = true ∧ x.st = .init ∧ workLeft s i = true) ∧
  (∃ (s : State) (i : Nat) (resp : MResp),
    let x := getInst s i
    let z := zeroEpoch i false s
    tsvMay s = true ∧ x.st = .init ∧ workLeft s i = false ∧ (getInst z i).st = .init ∧ resp ≠ .ok) ∧
  (∃ (s : State) (i : Nat) (resp : MResp),
    let x := getInst s i
    let z := zeroEpoch i false s
    tsvMay s = true ∧ x.st = .init ∧ workLeft s i = false ∧ (getInst z i).st = .init ∧ resp = .ok ∧
    (getInst (writeHeader i z) i).st = .init) ∧
  (∃ (s : State) (i : Nat) (resp : MResp),
    let x := getInst s i
    let z := zeroEpoch i false s
    tsvMay s = true ∧ x.st = .init ∧ workLeft s i = false ∧ (getInst z i).st = .init ∧ resp = .ok ∧
    (getInst (writeHeader i z) i).st ≠ .init) ∧
  (∃ (s : State) (i : Nat) (resp : MResp),
    let x := getInst s i
    tsvMay s = true ∧ x.st = .rebuild ∧ x.mirroring = false ∧ x.copydone = false ∧ holdOver s x = true ∧
    (getInst (zeroEpoch i (!x.act) s) i).st = .rebuild ∧ resp = .ok) ∧
  (∃ (s : State) (i : Nat) (resp : MResp),
    let x := getInst s i
    tsvMay s = true ∧ x.st = .rebuild ∧ x.mirroring = false ∧ x.copydone = false ∧ holdOver s x = true ∧
    (getInst (zeroEpoch i (!x.act) s) i).st = .rebuild ∧ resp ≠ .ok) ∧
  (∃ (s : State) (i : Nat) (a : _) (n : _),
    let x := getInst s i
    tsvMay s = true ∧ x.st = .rebuild ∧ x.mirroring = true ∧ x.copydone = false ∧ copyDenied s x = some (a, n)) ∧
  (∃ (s : State) (i : Nat) (resp : MResp),
    let x := getInst s i
    tsvMay s = true ∧ x.st = .rebuild ∧ x.mirroring = true ∧ x.copydone = false ∧ copyDenied s x = none ∧ resp ≠ .ok) ∧
  (∃ (s : State) (i : Nat) (resp : MResp),
    let x := getInst s i
    let pass := copyPass i (epochEntries (activeEp x)) s
    let next := if pass.1 = true then copyLast x else (getInst pass.2 i).copyAt
    let u := copyReads x x.copyAt next (modInst i (fun x => { x with copyAt := next }) pass.2)
    let ends := pass.1 = true ∧ (getInst u i).st = .rebuild ∧ (getInst u i).relocating = []
    tsvMay s = true ∧ x.st = .rebuild ∧ x.mirroring = true ∧ x.copydone = false ∧ copyDenied s x = none ∧ resp = .ok ∧
    ¬ ends) ∧
  (∃ (s : State) (i : Nat) (resp : MResp),
    let x := getInst s i
    let pass := copyPass i (epochEntries (activeEp x)) s
    let next := if pass.1 = true then copyLast x else (getInst pass.2 i).copyAt
    let u := copyReads x x.copyAt next (modInst i (fun x => { x with copyAt := next }) pass.2)
    let ends := pass.1 = true ∧ (getInst u i).st = .rebuild ∧ (getInst u i).relocating = []
    tsvMay s = true ∧ x.st = .rebuild ∧ x.mirroring = true ∧ x.copydone = false ∧ copyDenied s x = none ∧ resp = .ok ∧ ends) ∧
  (∃ (s : State) (i : Nat) (u : State),
    let x := getInst s i
    armWaiters (tsvEvent { type := 4, inst := i } (modInst i (fun x => { x with copydone := true }) u)) i ≠ []) ∧
  (∃ (s : State) (i : Nat),
    let x := getInst s i
    (x.st = .fault ∨ x.st = .off)) ∧
  (∃ (s : State) (i : Nat),
    let x := getInst s i
    x.st ≠ .fault ∧ x.st ≠ .off) ∧
  (∃ (s : State) (i : Nat) (e : _),
    let x := getInst s i
    regionDenied s .wr (arrayBase (epochOf x e)) (128 * 2 ^ (epochOf x e).log2b.toNat) 256 = none ∧
    regionDenied s .wr (stashAddr (epochOf x e) 0).toNat 8192 256 = none) ∧
  (∃ (s : State) (r : Requester) (v : _),
    let u := access r s
    live s = true ∧ isFirmware r = true ∧ (v - u.tsv.tevrd).toNat ≤ (u.tsv.tevwr - u.tsv.tevrd).toNat) ∧
  (∃ (s : State) (r : Requester) (v : _),
    let u := access r s
    live s = true ∧ isFirmware r = true ∧ (u.tsv.tevwr - u.tsv.tevrd).toNat < (v - u.tsv.tevrd).toNat) :=
  ⟨⟨up, .kc, 15, by dsimp only; decide +kernel⟩,
   ⟨modInst 15 (fun x => { x with en := true }) (up), .kc, 15, by dsimp only; decide +kernel⟩,
   ⟨modInst 15 (fun x => { x with st := .init, relocating := [⟨false, 4, {}, none, false, false⟩] }) (up), 15, by dsimp only; decide +kernel⟩,
   ⟨modInst 15 (fun x => { x with st := .init }) (up), 15, .err, by dsimp only; decide +kernel⟩,
   ⟨modInst 15 (fun x => { x with st := .init }) (up), 15, .ok, by dsimp only; decide +kernel⟩,
   ⟨modInst 15 (fun x => { x with st := .init, hdrbase := 0x2000000000 }) (modGate (fun g => { g with active := [(64 * 68, ruleFor 0x2000000000 0x1000 true true true true false false false)] }) up), 15, .ok, by dsimp only; decide +kernel⟩,
   ⟨modInst 15 (fun x => { x with st := .rebuild }) (up), 15, .ok, by dsimp only; decide +kernel⟩,
   ⟨modInst 15 (fun x => { x with st := .rebuild }) (up), 15, .err, by dsimp only; decide +kernel⟩,
   ⟨modInst 15 (fun x => { x with st := .rebuild, mirroring := true }) (modGate (fun g => { g with active := [(64 * 68, ruleDenyAll)] }) up), 15, ((copyDenied (modInst 15 (fun x => { x with st := .rebuild, mirroring := true }) (modGate (fun g => { g with active := [(64 * 68, ruleDenyAll)] }) up)) (getInst (modInst 15 (fun x => { x with st := .rebuild, mirroring := true }) (modGate (fun g => { g with active := [(64 * 68, ruleDenyAll)] }) up)) 15)).getD (0, 0)).1, ((copyDenied (modInst 15 (fun x => { x with st := .rebuild, mirroring := true }) (modGate (fun g => { g with active := [(64 * 68, ruleDenyAll)] }) up)) (getInst (modInst 15 (fun x => { x with st := .rebuild, mirroring := true }) (modGate (fun g => { g with active := [(64 * 68, ruleDenyAll)] }) up)) 15)).getD (0, 0)).2, by dsimp only; decide +kernel⟩,
   ⟨modInst 15 (fun x => { x with st := .rebuild, mirroring := true }) (up), 15, .err, by dsimp only; decide +kernel⟩,
   ⟨modInst 15 (fun x => { x with st := .rebuild, mirroring := true, relocating := [⟨false, 0, {}, none, false, false⟩] }) (up), 15, .ok, by dsimp only; decide +kernel⟩,
   ⟨modInst 15 (fun x => { x with st := .rebuild, mirroring := true }) (up), 15, .ok, by dsimp only; decide +kernel⟩,
   ⟨up, 15, modMain 0 (fun t => { t with phase := .table, answer := some { code := 0, waitCopy := true, inst := 15 } }) (prog 3 {} []), by dsimp only; decide +kernel⟩,
   ⟨modInst 15 (fun x => { x with st := .fault }) (up), 15, by dsimp only; decide +kernel⟩,
   ⟨up |> tab, 15, by dsimp only; decide +kernel⟩,
   ⟨up, 15, false, by dsimp only; decide +kernel⟩,
   ⟨modTsv (fun t => { t with tevwr := 5 }) up, .kc, 5, by dsimp only; decide +kernel⟩,
   ⟨up, .kc, 1, by dsimp only; decide +kernel⟩⟩

/-- StartUp. -/
theorem wit_start_up :
  (∃ (s : State),
    live s = true ∧ s.pf.stage = .normal ∧
    (s.ctl.phase = 1 ∨ (s.ctl.phase = 9 ∧ 1 ≤ s.ctl.err.toNat ∧ s.ctl.err.toNat ≤ 8))) ∧
  (∃ (s : State) (r : _),
    live s = true ∧ s.pf.stage = .normal ∧ isMp r = false) ∧
  (∃ (s : State) (im : Image) (e : _),
    live s = true ∧ s.pf.stage = .normal ∧ s.ctl.phase = 2 ∧ verifyErr s 1 im = some e) ∧
  (∃ (s : State) (im : Image),
    live s = true ∧ s.pf.stage = .normal ∧ s.ctl.phase = 2 ∧ verifyErr s 1 im = none) ∧
  (∃ (s : State) (b : Bpb) (u : State) (sv : Half) (mi : Half) (en : Half),
    live s = true ∧ s.pf.stage = .normal ∧ u.ctl.bedrock = some (sv, mi, en, b) ∧ bpbOk u b = false) ∧
  (∃ (s : State) (b : Bpb) (u : State) (sv : Half) (mi : Half) (en : Half),
    live s = true ∧ s.pf.stage = .normal ∧ u.ctl.bedrock = some (sv, mi, en, b) ∧ bpbOk u b = true ∧ u.gate.latched = none) ∧
  (∃ (s : State),
    live s = true ∧ s.pf.stage = .normal ∧ s.ctl.phase ≠ 2 ∧ (s.ctl.phase = 5 → s.ctl.loading = false) ∧
    (∀ m, s.ctl.update ≠ some (.verify m))) :=
  ⟨⟨modCtl (fun c => { c with phase := 1 }) (up), by decide +kernel⟩,
   ⟨up, .kc, by decide +kernel⟩,
   ⟨modCtl (fun c => { c with phase := 2 }) (up), (imageOf 0 1 3 3 8 true), 1, by decide +kernel⟩,
   ⟨modCtl (fun c => { c with phase := 2 }) (up), (signedImage 1), by decide +kernel⟩,
   ⟨up, { w2 := 1 }, modCtl (fun c => { c with bedrock := some (0, 0, 0, { w2 := 1 }) }) up, 0, 0, 0, by decide +kernel⟩,
   ⟨up, { w0 := 0x1000000000, w1 := 0x1400000000, w2 := 23, w3 := 0x1800000000, w4 := 0x40000000, w5 := 0x200000 }, modCtl (fun c => { c with bedrock := some (0, 0, 0, { w0 := 0x1000000000, w1 := 0x1400000000, w2 := 23, w3 := 0x1800000000, w4 := 0x40000000, w5 := 0x200000 }) }) up, 0, 0, 0, by decide +kernel⟩,
   ⟨modCtl (fun c => { c with phase := 5 }) (up), by refine ⟨?_, ?_, ?_, ?_, ?_⟩ <;> first | decide +kernel | exact fun _ => nofun⟩⟩

/-- StartUp. -/
theorem wit_verifier_order :
  (∃ (im : Image),
    im.readOk = false) ∧
  (∃ (im : Image),
    let form := hdrNat im 0 4 = 0x48545256 ∧ hdrNat im 4 2 = 1 ∧ hdrNat im 0x0A 2 = 0 ∧ hdrNat im 0x28 88 = 0 ∧ hdrNat im 0xE0 32 = 0
    im.readOk = true ∧ ¬form) ∧
  (∃ (ty : Byte) (im : Image),
    let form := hdrNat im 0 4 = 0x48545256 ∧ hdrNat im 4 2 = 1 ∧ hdrNat im 0x0A 2 = 0 ∧ hdrNat im 0x28 88 = 0 ∧ hdrNat im 0xE0 32 = 0
    im.readOk = true ∧ form ∧ hdrNat im 6 1 ≠ ty.toNat) ∧
  (∃ (s : State) (ty : Byte) (im : Image),
    let form := hdrNat im 0 4 = 0x48545256 ∧ hdrNat im 4 2 = 1 ∧ hdrNat im 0x0A 2 = 0 ∧ hdrNat im 0x28 88 = 0 ∧ hdrNat im 0xE0 32 = 0
    let config := (hdrNat im 9 1).testBit (if s.cfg.compact then 1 else 0)
    im.readOk = true ∧ form ∧ hdrNat im 6 1 = ty.toNat ∧ (hdrNat im 8 1 ≠ 0x03 ∨ config = false)) ∧
  (∃ (s : State) (ty : Byte) (im : Image),
    let form := hdrNat im 0 4 = 0x48545256 ∧ hdrNat im 4 2 = 1 ∧ hdrNat im 0x0A 2 = 0 ∧ hdrNat im 0x28 88 = 0 ∧ hdrNat im 0xE0 32 = 0
    let config := (hdrNat im 9 1).testBit (if s.cfg.compact then 1 else 0)
    let limit := if ty = 1 then 0x10000 else 0x400000
    let len := hdrNat im 0x10 4
    let entry := hdrNat im 0x14 4 % 2 ^ 32
    im.readOk = true ∧ form ∧ hdrNat im 6 1 = ty.toNat ∧ hdrNat im 8 1 = 0x03 ∧ config = true ∧
    (limit < 256 + len ∨ len ≤ entry)) ∧
  (∃ (s : State) (ty : Byte) (im : Image),
    let form := hdrNat im 0 4 = 0x48545256 ∧ hdrNat im 4 2 = 1 ∧ hdrNat im 0x0A 2 = 0 ∧ hdrNat im 0x28 88 = 0 ∧ hdrNat im 0xE0 32 = 0
    let config := (hdrNat im 9 1).testBit (if s.cfg.compact then 1 else 0)
    let limit := if ty = 1 then 0x10000 else 0x400000
    let len := hdrNat im 0x10 4
    let entry := hdrNat im 0x14 4 % 2 ^ 32
    let key := hdrNat im 7 1
    let block := 256 + natOfBytes (memRead s.kram 0x1C 4) + 96 * key
    let keyed := if ty = 1 then key < 2
     else key < 4 ∧ block + 96 ≤ 256 + natOfBytes (memRead s.kram 0x10 4) ∧ (memRead s.kram block 96).any (· != 0) = true
    im.readOk = true ∧ form ∧ hdrNat im 6 1 = ty.toNat ∧ hdrNat im 8 1 = 0x03 ∧ config = true ∧ 256 + len ≤ limit ∧
    entry < len ∧ ¬keyed) ∧
  (∃ (s : State) (ty : Byte) (im : Image),
    let form := hdrNat im 0 4 = 0x48545256 ∧ hdrNat im 4 2 = 1 ∧ hdrNat im 0x0A 2 = 0 ∧ hdrNat im 0x28 88 = 0 ∧ hdrNat im 0xE0 32 = 0
    let config := (hdrNat im 9 1).testBit (if s.cfg.compact then 1 else 0)
    let limit := if ty = 1 then 0x10000 else 0x400000
    let len := hdrNat im 0x10 4
    let entry := hdrNat im 0x14 4 % 2 ^ 32
    let key := hdrNat im 7 1
    let block := 256 + natOfBytes (memRead s.kram 0x1C 4) + 96 * key
    let keyed := if ty = 1 then key < 2
     else key < 4 ∧ block + 96 ≤ 256 + natOfBytes (memRead s.kram 0x10 4) ∧ (memRead s.kram block 96).any (· != 0) = true
    im.readOk = true ∧ form ∧ hdrNat im 6 1 = ty.toNat ∧ hdrNat im 8 1 = 0x03 ∧ config = true ∧ 256 + len ≤ limit ∧
    entry < len ∧ keyed ∧ sigOk s ty im = false) ∧
  (∃ (s : State) (ty : Byte) (im : Image),
    let form := hdrNat im 0 4 = 0x48545256 ∧ hdrNat im 4 2 = 1 ∧ hdrNat im 0x0A 2 = 0 ∧ hdrNat im 0x28 88 = 0 ∧ hdrNat im 0xE0 32 = 0
    let config := (hdrNat im 9 1).testBit (if s.cfg.compact then 1 else 0)
    let limit := if ty = 1 then 0x10000 else 0x400000
    let len := hdrNat im 0x10 4
    let entry := hdrNat im 0x14 4 % 2 ^ 32
    let key := hdrNat im 7 1
    let block := 256 + natOfBytes (memRead s.kram 0x1C 4) + 96 * key
    let keyed := if ty = 1 then key < 2
     else key < 4 ∧ block + 96 ≤ 256 + natOfBytes (memRead s.kram 0x10 4) ∧ (memRead s.kram block 96).any (· != 0) = true
    im.readOk = true ∧ form ∧ hdrNat im 6 1 = ty.toNat ∧ hdrNat im 8 1 = 0x03 ∧ config = true ∧ 256 + len ≤ limit ∧
    entry < len ∧ keyed ∧ sigOk s ty im = true) :=
  ⟨⟨(imageOf 0x48545256 1 3 3 8 false), by decide +kernel⟩,
   ⟨(imageOf 0 1 3 3 8 true), by dsimp only; decide +kernel⟩,
   ⟨1, (imageOf 0x48545256 2 3 3 8 true), by dsimp only; decide +kernel⟩,
   ⟨up, 1, (imageOf 0x48545256 1 2 3 8 true), by dsimp only; decide +kernel⟩,
   ⟨up, 1, (imageOf 0x48545256 1 3 3 0 true), by dsimp only; decide +kernel⟩,
   ⟨up, 2, (imageOf 0x48545256 2 3 3 8 true), by dsimp only; decide +kernel⟩,
   ⟨up, 1, (imageOf 0x48545256 1 3 3 8 true), by dsimp only; decide +kernel⟩,
   ⟨up, 1, (signedImage 1), by dsimp only; decide +kernel⟩⟩

/-- StartUp. -/
theorem wit_start_up_tests :
  (∃ (s : State) (rep : TestReport),
    let r := testResult rep s
    let v := testOver r.2
    let w := evK 7 { v with st := { v.st with done := true, outcome := r.1, failed := v.st.failed || r.1 == 3 } }
    live s = true ∧ s.pf.stage = .normal ∧ s.st.busy = true ∧ islandClear s = true ∧ s.ctl.phase = 3 ∧
    s.ctl.testFor = none ∧ w.ctl.phase = 3 ∧ w.ctl.testFor = none ∧ r.1 = 3) ∧
  (∃ (s : State) (rep : TestReport) (mem : _) (k : _) (l : _),
    let r := testResult rep s
    let v := testOver r.2
    let w := evK 7 { v with st := { v.st with done := true, outcome := r.1, failed := v.st.failed || r.1 == 3 } }
    live s = true ∧ s.pf.stage = .normal ∧ s.st.busy = true ∧ islandClear s = true ∧ s.ctl.phase = 3 ∧
    s.ctl.testFor = none ∧ w.ctl.phase = 3 ∧ w.ctl.testFor = none ∧ r.1 ≠ 3 ∧ w.ctl.tests = (mem, k) :: l) ∧
  (∃ (s : State) (rep : TestReport),
    let r := testResult rep s
    let v := testOver r.2
    let w := evK 7 { v with st := { v.st with done := true, outcome := r.1, failed := v.st.failed || r.1 == 3 } }
    live s = true ∧ s.pf.stage = .normal ∧ s.st.busy = true ∧ islandClear s = true ∧ s.ctl.phase = 3 ∧
    s.ctl.testFor = none ∧ w.ctl.phase = 3 ∧ w.ctl.testFor = none ∧ r.1 ≠ 3 ∧ w.ctl.tests = []) :=
  ⟨⟨modCtl (fun c => { c with phase := 3, tests := [] }) (modSt (fun t => { t with busy := true }) up), ⟨0, [], 0⟩, by dsimp only; decide +kernel⟩,
   ⟨modCtl (fun c => { c with phase := 3, tests := [(true, 0)] }) (modSt (fun t => { t with busy := true }) up), ⟨golden false 0, [], 0⟩, true, 0, [], by dsimp only; decide +kernel⟩,
   ⟨modCtl (fun c => { c with phase := 3, tests := [] }) (modSt (fun t => { t with busy := true }) up), ⟨golden false 0, [], 0⟩, by dsimp only; decide +kernel⟩⟩

/-- ScreeStarts. -/
theorem wit_scree_images :
  (∃ (s : State) (im : Image) (e : _),
    live s = true ∧ s.pf.stage = .normal ∧ s.ctl.phase ≠ 2 ∧ s.ctl.phase = 5 ∧ s.ctl.loading = true ∧
    verifyErr s 2 im = some e) ∧
  (∃ (s : State) (im : Image),
    live s = true ∧ s.pf.stage = .normal ∧ s.ctl.phase ≠ 2 ∧ s.ctl.phase = 5 ∧ s.ctl.loading = true ∧
    verifyErr s 2 im = none) ∧
  (∃ (s : State) (im : Image) (m : _) (e : _),
    live s = true ∧ s.pf.stage = .normal ∧ s.ctl.phase ≠ 2 ∧ s.ctl.update = some (.verify m) ∧
    (s.ctl.phase = 5 → s.ctl.loading = false) ∧ verifyErr s 2 im = some e) ∧
  (∃ (s : State) (im : Image) (m : _),
    live s = true ∧ s.pf.stage = .normal ∧ s.ctl.phase ≠ 2 ∧ s.ctl.update = some (.verify m) ∧
    (s.ctl.phase = 5 → s.ctl.loading = false) ∧ verifyErr s 2 im = none ∧ s.ctl.phase = 6 ∧ s.ctl.zeroed = true ∧
    s.st.failed = false ∧ m ≤ 8 ∧ (getMbx s m).busy = true) ∧
  (∃ (s : State) (im : Image) (m : _),
    live s = true ∧ s.pf.stage = .normal ∧ s.ctl.phase ≠ 2 ∧ s.ctl.update = some (.verify m) ∧
    (s.ctl.phase = 5 → s.ctl.loading = false) ∧ verifyErr s 2 im = none ∧ (s.ctl.phase = 7 ∨ s.ctl.phase = 8) ∧
    s.ctl.notices = [] ∧ s.ctl.noticed = none ∧ (getMbx s 9).busy = false) :=
  ⟨⟨modCtl (fun c => { c with phase := 5, loading := true, minsvn := 0 }) (up), (imageOf 0 2 3 3 8 true), 1, by decide +kernel⟩,
   ⟨keyed <| modCtl (fun c => { c with phase := 5, loading := true, minsvn := 0 }) (up), (signedImage 2), by decide +kernel⟩,
   ⟨modCtl (fun c => { c with update := some (.verify 3) }) (up), (imageOf 0 2 3 3 8 true), 3, 1, by decide +kernel⟩,
   ⟨keyed <| modMbx 3 (fun m => { m with busy := true }) (modCtl (fun c => { c with phase := 6, update := some (.verify 3) }) (up)), (signedImage 2), 3, by decide +kernel⟩,
   ⟨keyed <| modCtl (fun c => { c with update := some (.verify 3) }) (up), (signedImage 2), 3, by decide +kernel⟩⟩

/-- ScreeStarts. -/
theorem wit_core_starts :
  (∃ (s : State),
    live s = true ∧ s.pf.stage = .normal ∧ (s.ctl.phase = 5 ∨ s.ctl.phase = 6) ∧ s.ctl.zeroed = false) ∧
  (∃ (s : State) (m : _) (v : _) (e : _) (a : _),
    live s = true ∧ s.pf.stage = .normal ∧ 5 ≤ s.ctl.phase.toNat ∧ s.ctl.phase.toNat ≤ 8 ∧
    s.ctl.update = some (.notice m v e a) ∧ (s.time - a).toNat < 100000000) ∧
  (∃ (s : State) (m : _) (v : _) (e : _) (a : _),
    live s = true ∧ s.pf.stage = .normal ∧ 5 ≤ s.ctl.phase.toNat ∧ s.ctl.phase.toNat ≤ 8 ∧
    s.ctl.update = some (.notice m v e a) ∧ 100000000 ≤ (s.time - a).toNat) ∧
  (∃ (s : State),
    live s = true) ∧
  (∃ (s : State) (r : _),
    live s = true ∧ isKc r = false) :=
  ⟨⟨modCtl (fun c => { c with phase := 5, zeroed := false }) (up), by decide +kernel⟩,
   ⟨modCtl (fun c => { c with update := some (.notice 3 1 0 0) }) (up), 3, 1, 0, 0, by decide +kernel⟩,
   ⟨{ (modCtl (fun c => { c with update := some (.notice 3 1 0 0) }) (up)) with time := 100000000 }, 3, 1, 0, 0, by decide +kernel⟩,
   ⟨up, by decide +kernel⟩,
   ⟨up, .mp, by decide +kernel⟩⟩

/-- Mailboxes. -/
theorem wit_mailbox_transfers :
  (∃ (s : State) (r : Requester) (m : Nat),
    s.inReset = false ∧ m < 11 ∧ mbxSender m r = true ∧ (getMbx s m).busy = false) ∧
  (∃ (s : State) (r : Requester) (m : Nat),
    s.inReset = false ∧ m < 11 ∧ mbxSender m r = true ∧ (getMbx s m).busy = true) ∧
  (∃ (s : State) (r : Requester) (m : Nat),
    s.inReset = false ∧ m < 11 ∧ mbxSender m r = false) ∧
  (∃ (s : State) (r : Requester) (m : Nat),
    s.inReset = false ∧ m < 11 ∧ mbxReceiver m r = true ∧ (getMbx s m).busy = true ∧ m ≠ 9) ∧
  (∃ (s : State) (r : Requester) (m : Nat),
    s.inReset = false ∧ m < 11 ∧ mbxReceiver m r = true ∧ (getMbx s m).busy = false) ∧
  (∃ (s : State) (r : Requester) (m : Nat),
    s.inReset = false ∧ m < 11 ∧ mbxReceiver m r = false) ∧
  (∃ (s : State) (m : Nat) (result : _) (ws : List Word) (i : _),
    s.inReset = false ∧ m < 11 ∧ result < 256 ∧ (getMbx s m).busy = true ∧ i < ws.length) ∧
  (∃ (s : State) (m : Nat) (result : _) (k : _),
    s.inReset = false ∧ m < 11 ∧ result < 256 ∧ (getMbx s m).busy = true ∧ k ≠ m) :=
  ⟨⟨up, .cc 0, 0, by decide +kernel⟩,
   ⟨modMbx 0 (fun m => { m with busy := true }) (up), .cc 0, 0, by decide +kernel⟩,
   ⟨up, .mp, 0, by decide +kernel⟩,
   ⟨modMbx 0 (fun m => { m with busy := true }) (up), .kc, 0, by decide +kernel⟩,
   ⟨up, .kc, 0, by decide +kernel⟩,
   ⟨up, .mp, 0, by decide +kernel⟩,
   ⟨modMbx 0 (fun m => { m with busy := true }) (up), 0, 0, [5], 0, by decide +kernel⟩,
   ⟨modMbx 0 (fun m => { m with busy := true }) (up), 0, 1, 1, by decide +kernel⟩⟩

/-- Mailboxes. -/
theorem wit_notice_answers :
  (∃ (s : State) (m : Nat) (v : Half) (e : Half) (a : Word),
    bedServes s = true ∧ (getMbx s 9).busy = true ∧ s.ctl.notices = [] ∧ s.ctl.noticed = some .update ∧
    s.ctl.update = some (.notice m v e a) ∧ m ≤ 8 ∧ (getMbx s m).busy = true ∧ fld (rspWord s 9 0) 0 8 ≠ 0) ∧
  (∃ (s : State) (m : Nat) (v : Half) (e : Half) (a : Word),
    bedServes s = true ∧ (getMbx s 9).busy = true ∧ s.ctl.notices = [] ∧ s.ctl.noticed = some .update ∧
    s.ctl.update = some (.notice m v e a) ∧ m ≤ 8 ∧ (getMbx s m).busy = true ∧ fld (rspWord s 9 0) 0 8 = 0 ∧
    s.gate.latched ≠ none) ∧
  (∃ (s : State) (fn : _),
    bedServes s = true ∧ (getMbx s 9).busy = true ∧ s.ctl.notices = [] ∧ s.ctl.noticed = some (.flr fn)) :=
  ⟨⟨modMbx 9 (fun m => { m with rsp := [(0, 1)] }) (modMbx 3 (fun m => { m with busy := true }) (modMbx 9 (fun m => { m with busy := true }) (modCtl (fun c => { c with noticed := some .update, update := some (.notice 3 1 0 0) }) (up)))), 3, 1, 0, 0, by decide +kernel⟩,
   ⟨modMbx 3 (fun m => { m with busy := true }) (modMbx 9 (fun m => { m with busy := true }) (modGate (fun g => { g with latched := some 1 }) (modCtl (fun c => { c with noticed := some .update, update := some (.notice 3 1 0 0) }) (up)))), 3, 1, 0, 0, by decide +kernel⟩,
   ⟨modMbx 9 (fun m => { m with busy := true }) (modCtl (fun c => { c with noticed := some (.flr 1) }) (up)), 1, by decide +kernel⟩⟩

/-- RequestChecks. -/
theorem wit_request_checks :
  (∃ (s : State) (x : (Nat → Instr) × Nat × Bool × Bool),
    x ∈ [(Instr.gateRule, 0x01, true, true), (Instr.gateCommit, 0x02, true, true), (Instr.lockBreak, 0x03, true, true), (Instr.hostSet, 0x04, true, true), (Instr.tsvPlace, 0x05, true, true), (Instr.tsvRing, 0x06, true, true), (Instr.selftest, 0x07, true, true), (Instr.vlogNext, 0x08, true, true), (Instr.ready, 0x09, true, false), (Instr.screeLoad, 0x0A, true, true), (Instr.screeRestart, 0x0B, false, true), (Instr.cairnSet, 0x0C, true, true)] ∧
    mayServe s 8 = true) ∧
  (∃ (s : State) (x : (Nat → Instr) × Nat × Bool × Bool) (k : _),
    x ∈ [(Instr.gateRule, 0x01, true, true), (Instr.gateCommit, 0x02, true, true), (Instr.lockBreak, 0x03, true, true), (Instr.hostSet, 0x04, true, true), (Instr.tsvPlace, 0x05, true, true), (Instr.tsvRing, 0x06, true, true), (Instr.selftest, 0x07, true, true), (Instr.vlogNext, 0x08, true, true), (Instr.ready, 0x09, true, false), (Instr.screeLoad, 0x0A, true, true), (Instr.screeRestart, 0x0B, false, true), (Instr.cairnSet, 0x0C, true, true)] ∧
    mayServe s 8 = false ∧ s.ctl.lastServed < 8 ∧ k < 8 ∧ mayServe s ((s.ctl.lastServed + 1 + k) % 8) = true ∧
    (∀ j, j < k → mayServe s ((s.ctl.lastServed + 1 + j) % 8) = false)) ∧
  (∃ (s : State) (x : (Nat → Instr) × Nat × Bool × Bool) (k : _),
    x ∈ [(Instr.gateRule, 0x01, true, true), (Instr.gateCommit, 0x02, true, true), (Instr.lockBreak, 0x03, true, true), (Instr.hostSet, 0x04, true, true), (Instr.tsvPlace, 0x05, true, true), (Instr.tsvRing, 0x06, true, true), (Instr.selftest, 0x07, true, true), (Instr.vlogNext, 0x08, true, true), (Instr.ready, 0x09, true, false), (Instr.screeLoad, 0x0A, true, true), (Instr.screeRestart, 0x0B, false, true), (Instr.cairnSet, 0x0C, true, true)] ∧
    nextMbx s = some k ∧ s.ctl.lockFor ≠ none) ∧
  (∃ (m : Nat) (x : (Nat → Instr) × Nat × Bool × Bool),
    x ∈ [(Instr.gateRule, 0x01, true, true), (Instr.gateCommit, 0x02, true, true), (Instr.lockBreak, 0x03, true, true), (Instr.hostSet, 0x04, true, true), (Instr.tsvPlace, 0x05, true, true), (Instr.tsvRing, 0x06, true, true), (Instr.selftest, 0x07, true, true), (Instr.vlogNext, 0x08, true, true), (Instr.ready, 0x09, true, false), (Instr.screeLoad, 0x0A, true, true), (Instr.screeRestart, 0x0B, false, true), (Instr.cairnSet, 0x0C, true, true)] ∧
    m < 8) ∧
  (∃ (m : Nat) (x : (Nat → Instr) × Nat × Bool × Bool),
    x ∈ [(Instr.gateRule, 0x01, true, true), (Instr.gateCommit, 0x02, true, true), (Instr.lockBreak, 0x03, true, true), (Instr.hostSet, 0x04, true, true), (Instr.tsvPlace, 0x05, true, true), (Instr.tsvRing, 0x06, true, true), (Instr.selftest, 0x07, true, true), (Instr.vlogNext, 0x08, true, true), (Instr.ready, 0x09, true, false), (Instr.screeLoad, 0x0A, true, true), (Instr.screeRestart, 0x0B, false, true), (Instr.cairnSet, 0x0C, true, true)] ∧
    m = 8) ∧
  (∃ (s : State) (m : Nat) (x : (Nat → Instr) × Nat × Bool × Bool),
    let turn := nextMbx s = some m ∨ s.ctl.lockFor = some m ∧ (getMbx s m).busy = true
    x ∈ [(Instr.gateRule, 0x01, true, true), (Instr.gateCommit, 0x02, true, true), (Instr.lockBreak, 0x03, true, true), (Instr.hostSet, 0x04, true, true), (Instr.tsvPlace, 0x05, true, true), (Instr.tsvRing, 0x06, true, true), (Instr.selftest, 0x07, true, true), (Instr.vlogNext, 0x08, true, true), (Instr.ready, 0x09, true, false), (Instr.screeLoad, 0x0A, true, true), (Instr.screeRestart, 0x0B, false, true), (Instr.cairnSet, 0x0C, true, true)] ∧
    (bedServes s = false ∨ ¬turn)) ∧
  (∃ (s : State) (m : Nat) (x : (Nat → Instr) × Nat × Bool × Bool),
    let w := reqWord s m 0
    let turn := nextMbx s = some m ∨ s.ctl.lockFor = some m ∧ (getMbx s m).busy = true
    x ∈ [(Instr.gateRule, 0x01, true, true), (Instr.gateCommit, 0x02, true, true), (Instr.lockBreak, 0x03, true, true), (Instr.hostSet, 0x04, true, true), (Instr.tsvPlace, 0x05, true, true), (Instr.tsvRing, 0x06, true, true), (Instr.selftest, 0x07, true, true), (Instr.vlogNext, 0x08, true, true), (Instr.ready, 0x09, true, false), (Instr.screeLoad, 0x0A, true, true), (Instr.screeRestart, 0x0B, false, true), (Instr.cairnSet, 0x0C, true, true)] ∧
    bedServes s = true ∧ turn ∧ (fld w 0 8 = 0 ∨ 12 < fld w 0 8)) ∧
  (∃ (s : State) (m : Nat) (x : (Nat → Instr) × Nat × Bool × Bool),
    let w := reqWord s m 0
    let turn := nextMbx s = some m ∨ s.ctl.lockFor = some m ∧ (getMbx s m).busy = true
    x ∈ [(Instr.gateRule, 0x01, true, true), (Instr.gateCommit, 0x02, true, true), (Instr.lockBreak, 0x03, true, true), (Instr.hostSet, 0x04, true, true), (Instr.tsvPlace, 0x05, true, true), (Instr.tsvRing, 0x06, true, true), (Instr.selftest, 0x07, true, true), (Instr.vlogNext, 0x08, true, true), (Instr.ready, 0x09, true, false), (Instr.screeLoad, 0x0A, true, true), (Instr.screeRestart, 0x0B, false, true), (Instr.cairnSet, 0x0C, true, true)] ∧
    bedServes s = true ∧ turn ∧ 1 ≤ fld w 0 8 ∧ fld w 0 8 ≤ 12 ∧ fld w 0 8 ≠ x.2.1) ∧
  (∃ (s : State) (m : Nat) (x : (Nat → Instr) × Nat × Bool × Bool),
    let w := reqWord s m 0
    let turn := nextMbx s = some m ∨ s.ctl.lockFor = some m ∧ (getMbx s m).busy = true
    x ∈ [(Instr.gateRule, 0x01, true, true), (Instr.gateCommit, 0x02, true, true), (Instr.lockBreak, 0x03, true, true), (Instr.hostSet, 0x04, true, true), (Instr.tsvPlace, 0x05, true, true), (Instr.tsvRing, 0x06, true, true), (Instr.selftest, 0x07, true, true), (Instr.vlogNext, 0x08, true, true), (Instr.ready, 0x09, true, false), (Instr.screeLoad, 0x0A, true, true), (Instr.screeRestart, 0x0B, false, true), (Instr.cairnSet, 0x0C, true, true)] ∧
    bedServes s = true ∧ turn ∧ fld w 0 8 = x.2.1 ∧ (fld w 8 8 ≠ 0 ∨ fld w 32 32 ≠ 0)) ∧
  (∃ (s : State) (m : Nat) (x : (Nat → Instr) × Nat × Bool × Bool),
    let w := reqWord s m 0
    let turn := nextMbx s = some m ∨ s.ctl.lockFor = some m ∧ (getMbx s m).busy = true
    x ∈ [(Instr.gateRule, 0x01, true, true), (Instr.gateCommit, 0x02, true, true), (Instr.lockBreak, 0x03, true, true), (Instr.hostSet, 0x04, true, true), (Instr.tsvPlace, 0x05, true, true), (Instr.tsvRing, 0x06, true, true), (Instr.selftest, 0x07, true, true), (Instr.vlogNext, 0x08, true, true), (Instr.ready, 0x09, true, false), (Instr.screeLoad, 0x0A, true, true), (Instr.screeRestart, 0x0B, false, true), (Instr.cairnSet, 0x0C, true, true)] ∧
    bedServes s = true ∧ turn ∧ fld w 0 8 = x.2.1 ∧ fld w 8 8 = 0 ∧ fld w 32 32 = 0 ∧
    (if m = 8 then x.2.2.2 else x.2.2.1) = false) :=
  ⟨⟨modMbx 8 (fun m => { m with busy := true }) (up), (.gateRule, 0x01, true, true), by refine ⟨?_, ?_⟩ <;> first | decide +kernel | simp⟩,
   ⟨modMbx 3 (fun m => { m with busy := true, req := [(0, w64 (1))] }) (up), (.gateRule, 0x01, true, true), 3, by refine ⟨?_, ?_, ?_, ?_, ?_, ?_⟩ <;> first | decide +kernel | simp⟩,
   ⟨modMbx 3 (fun m => { m with busy := true, req := [(0, w64 (1))] }) (modCtl (fun c => { c with lockFor := some 4 }) (up)), (.gateRule, 0x01, true, true), 3, by refine ⟨?_, ?_, ?_⟩ <;> first | decide +kernel | simp⟩,
   ⟨3, (.gateRule, 0x01, true, true), by refine ⟨?_, ?_⟩ <;> first | decide +kernel | simp⟩,
   ⟨8, (.gateRule, 0x01, true, true), by refine ⟨?_, ?_⟩ <;> first | decide +kernel | simp⟩,
   ⟨up, 3, (.gateRule, 0x01, true, true), by refine ⟨?_, ?_⟩ <;> first | decide +kernel | simp⟩,
   ⟨modMbx 3 (fun m => { m with busy := true, req := [(0, w64 (13))] }) (up), 3, (.gateRule, 0x01, true, true), by refine ⟨?_, ?_, ?_, ?_⟩ <;> first | decide +kernel | simp⟩,
   ⟨modMbx 3 (fun m => { m with busy := true, req := [(0, w64 (2))] }) (up), 3, (.gateRule, 0x01, true, true), by refine ⟨?_, ?_, ?_, ?_, ?_, ?_⟩ <;> first | decide +kernel | simp⟩,
   ⟨modMbx 3 (fun m => { m with busy := true, req := [(0, w64 (1 + 2 ^ 8))] }) (up), 3, (.gateRule, 0x01, true, true), by refine ⟨?_, ?_, ?_, ?_, ?_⟩ <;> first | decide +kernel | simp⟩,
   ⟨modMbx 8 (fun m => { m with busy := true, req := [(0, w64 (9))] }) (up), 8, (.ready, 0x09, true, false), by refine ⟨?_, ?_, ?_, ?_, ?_, ?_, ?_⟩ <;> first | decide +kernel | simp⟩⟩

/-- SettingRequests. -/
theorem wit_gate_and_lock_requests :
  (∃ (s₀ : State) (m : Nat),
    let s := served m s₀
    let a := reqWord s m 1
    let g := fld a 0 7
    asked s₀ m 0x01 = true ∧ (fld a 7 1 ≠ 0 ∨ fld a 14 50 ≠ 0 ∨ gatePresent s g = false)) ∧
  (∃ (s₀ : State) (m : Nat),
    let s := served m s₀
    let a := reqWord s m 1
    let g := fld a 0 7
    let i := fld a 8 6
    let r : Rule := { w0 := reqWord s m 2, w1 := reqWord s m 3, w2 := reqWord s m 4, w3 := reqWord s m 5 }
    let free := g ≠ 70 ∧ i ≠ 0 ∧ i ≠ 63 ∧ ¬((g = 68 ∨ g = 69) ∧ i ≤ 7) ∧ bit r.w2 26 = false ∧ bit r.w2 27 = false
    asked s₀ m 0x01 = true ∧ fld a 7 1 = 0 ∧ fld a 14 50 = 0 ∧ gatePresent s g = true ∧ ¬ free) ∧
  (∃ (s₀ : State) (m : Nat),
    let s := served m s₀
    let a := reqWord s m 1
    let g := fld a 0 7
    let i := fld a 8 6
    let r : Rule := { w0 := reqWord s m 2, w1 := reqWord s m 3, w2 := reqWord s m 4, w3 := reqWord s m 5 }
    let free := g ≠ 70 ∧ i ≠ 0 ∧ i ≠ 63 ∧ ¬((g = 68 ∨ g = 69) ∧ i ≤ 7) ∧ bit r.w2 26 = false ∧ bit r.w2 27 = false
    asked s₀ m 0x01 = true ∧ fld a 7 1 = 0 ∧ fld a 14 50 = 0 ∧ gatePresent s g = true ∧ free ∧ ruleBad r = true) ∧
  (∃ (s₀ : State) (m : Nat),
    let s := served m s₀
    let a := reqWord s m 1
    let g := fld a 0 7
    let i := fld a 8 6
    let r : Rule := { w0 := reqWord s m 2, w1 := reqWord s m 3, w2 := reqWord s m 4, w3 := reqWord s m 5 }
    let free := g ≠ 70 ∧ i ≠ 0 ∧ i ≠ 63 ∧ ¬((g = 68 ∨ g = 69) ∧ i ≤ 7) ∧ bit r.w2 26 = false ∧ bit r.w2 27 = false
    asked s₀ m 0x01 = true ∧ fld a 7 1 = 0 ∧ fld a 14 50 = 0 ∧ gatePresent s g = true ∧ free ∧ ruleBad r = false ∧
    ruleLocked s g = true) ∧
  (∃ (s₀ : State) (m : Nat),
    let s := served m s₀
    let a := reqWord s m 1
    let g := fld a 0 7
    let i := fld a 8 6
    let r : Rule := { w0 := reqWord s m 2, w1 := reqWord s m 3, w2 := reqWord s m 4, w3 := reqWord s m 5 }
    let free := g ≠ 70 ∧ i ≠ 0 ∧ i ≠ 63 ∧ ¬((g = 68 ∨ g = 69) ∧ i ≤ 7) ∧ bit r.w2 26 = false ∧ bit r.w2 27 = false
    asked s₀ m 0x01 = true ∧ fld a 7 1 = 0 ∧ fld a 14 50 = 0 ∧ gatePresent s g = true ∧ free ∧ ruleBad r = false ∧
    ruleLocked s g = false) ∧
  (∃ (s₀ : State) (m : Nat),
    let s := served m s₀
    let b := reqWord s m 2
    asked s₀ m 0x02 = true ∧ fld b 7 57 ≠ 0) ∧
  (∃ (s₀ : State) (m : Nat),
    let s := served m s₀
    let b := reqWord s m 2
    asked s₀ m 0x02 = true ∧ fld b 7 57 = 0 ∧ bit b 6 = true) ∧
  (∃ (s₀ : State) (m : Nat),
    let s := served m s₀
    let b := reqWord s m 2
    asked s₀ m 0x02 = true ∧ fld b 7 57 = 0 ∧ bit b 6 = false ∧ (s.gate.latched ≠ none ∨ s.ctl.committing ≠ none)) ∧
  (∃ (s₀ : State) (m : Nat),
    let s := served m s₀
    let b := reqWord s m 2
    let mask : BitVec 71 := put 71 (reqWord s m 1) 0 ||| put 71 (bits b 0 7) 64
    asked s₀ m 0x02 = true ∧ fld b 7 57 = 0 ∧ bit b 6 = false ∧ s.gate.latched = none ∧ s.ctl.committing = none ∧
    s.ctl.commits = [] ∧ (∀ k v e, s.ctl.update ≠ some (.barrier k v e)) ∧ badRule s mask = none) ∧
  (∃ (s₀ : State) (m : Nat) (k : _),
    let s := served m s₀
    let b := reqWord s m 2
    let mask : BitVec 71 := put 71 (reqWord s m 1) 0 ||| put 71 (bits b 0 7) 64
    asked s₀ m 0x02 = true ∧ fld b 7 57 = 0 ∧ bit b 6 = false ∧ s.gate.latched = none ∧ s.ctl.committing = none ∧
    s.ctl.commits = [] ∧ (∀ k v e, s.ctl.update ≠ some (.barrier k v e)) ∧ badRule s mask = some k ∧ s.gate.armed = false) ∧
  (∃ (s₀ : State) (m : Nat),
    let s := served m s₀
    let a := reqWord s m 1
    asked s₀ m 0x03 = true ∧ a.toNat % 8 ≠ 0) ∧
  (∃ (s₀ : State) (m : Nat),
    let s := served m s₀
    let a := reqWord s m 1
    let u := lockCommand (modLock (fun l => { l with lbcmdadr := a }) s)
    asked s₀ m 0x03 = true ∧ a.toNat % 8 = 0 ∧ s.ctl.lockFor = none ∧ breakWaits u a = false) ∧
  (∃ (s₀ : State) (m : Nat),
    let s := served m s₀
    let a := reqWord s m 1
    let u := lockCommand (modLock (fun l => { l with lbcmdadr := a }) s)
    asked s₀ m 0x03 = true ∧ a.toNat % 8 = 0 ∧ s.ctl.lockFor = none ∧ breakWaits u a = true) ∧
  (∃ (s₀ : State) (m : Nat),
    bedServes s₀ = true ∧ s₀.ctl.lockFor = some m ∧ (getMbx s₀ m).busy = true ∧ m ≤ 8 ∧ fld (reqWord s₀ m 0) 0 8 = 3 ∧
    fld (reqWord s₀ m 0) 8 8 = 0 ∧ fld (reqWord s₀ m 0) 32 32 = 0 ∧ (reqWord s₀ m 1).toNat % 8 = 0 ∧
    breakWaits s₀ (reqWord s₀ m 1) = true) ∧
  (∃ (s₀ : State) (m : Nat),
    bedServes s₀ = true ∧ s₀.ctl.lockFor = some m ∧ (getMbx s₀ m).busy = true ∧ m ≤ 8 ∧ fld (reqWord s₀ m 0) 0 8 = 3 ∧
    fld (reqWord s₀ m 0) 8 8 = 0 ∧ fld (reqWord s₀ m 0) 32 32 = 0 ∧ (reqWord s₀ m 1).toNat % 8 = 0 ∧
    breakWaits s₀ (reqWord s₀ m 1) = false) :=
  ⟨⟨modMbx 3 (fun m => { m with busy := true, req := [(0, w64 (1)), (1, w64 (2 ^ 7))] }) (up), 3, by dsimp only; decide +kernel⟩,
   ⟨modMbx 3 (fun m => { m with busy := true, req := [(0, w64 (1))] }) (up), 3, by dsimp only; decide +kernel⟩,
   ⟨modMbx 3 (fun m => { m with busy := true, req := [(0, w64 (1)), (1, w64 (1280)), (2, w64 (1)), (3, w64 (0)), (4, w64 (2 ^ 63))] }) (up), 3, by dsimp only; decide +kernel⟩,
   ⟨modMbx 3 (fun m => { m with busy := true, req := [(0, w64 (1)), (1, w64 (1280))] }) (modGate (fun g => { g with armed := true, latched := some 1 }) (up)), 3, by dsimp only; decide +kernel⟩,
   ⟨modMbx 3 (fun m => { m with busy := true, req := [(0, w64 (1)), (1, w64 (1280))] }) (up), 3, by dsimp only; decide +kernel⟩,
   ⟨modMbx 3 (fun m => { m with busy := true, req := [(0, w64 (2)), (1, w64 (0)), (2, w64 (2 ^ 7))] }) (up), 3, by dsimp only; decide +kernel⟩,
   ⟨modMbx 3 (fun m => { m with busy := true, req := [(0, w64 (2)), (1, w64 (0)), (2, w64 (2 ^ 6))] }) (up), 3, by dsimp only; decide +kernel⟩,
   ⟨modMbx 3 (fun m => { m with busy := true, req := [(0, w64 (2)), (1, w64 (1))] }) (modGate (fun g => { g with latched := some 1 }) (up)), 3, by dsimp only; decide +kernel⟩,
   ⟨modMbx 3 (fun m => { m with busy := true, req := [(0, w64 (2)), (1, w64 (1))] }) (up), 3, by refine ⟨?_, ?_, ?_, ?_, ?_, ?_, ?_, ?_⟩ <;> first | decide +kernel | exact fun _ => nofun⟩,
   ⟨modMbx 3 (fun m => { m with busy := true, req := [(0, w64 (2)), (1, w64 (1))] }) (modGate (fun g => { g with shadow := [(5, { w2 := w64 (2 ^ 63), w0 := 1 })] }) (up)), 3, 5, by refine ⟨?_, ?_, ?_, ?_, ?_, ?_, ?_, ?_, ?_⟩ <;> first | decide +kernel | exact fun _ => nofun⟩,
   ⟨modMbx 3 (fun m => { m with busy := true, req := [(0, w64 (3)), (1, w64 (1))] }) (up), 3, by dsimp only; decide +kernel⟩,
   ⟨modMbx 3 (fun m => { m with busy := true, req := [(0, w64 (3)), (1, w64 (8))] }) (up), 3, by dsimp only; decide +kernel⟩,
   ⟨modMbx 3 (fun m => { m with busy := true, req := [(0, w64 (3)), (1, w64 (8))] }) (modLock (fun l => { l with entries := [⟨8, 2, 1, 0, false⟩] }) (prog 2 {} [])), 3, by dsimp only; decide +kernel⟩,
   ⟨modMbx 3 (fun m => { m with busy := true, req := [(0, w64 (3)), (1, w64 (8))] }) (modLock (fun l => { l with waiting := [⟨8, 4, false⟩] }) (modCtl (fun c => { c with lockFor := some 3 }) (up))), 3, by decide +kernel⟩,
   ⟨modMbx 3 (fun m => { m with busy := true, req := [(0, w64 (3)), (1, w64 (8))] }) (modCtl (fun c => { c with lockFor := some 3 }) (up)), 3, by decide +kernel⟩⟩

/-- SettingRequests. -/
theorem wit_setting_requests :
  (∃ (s₀ : State) (m : Nat),
    let s := served m s₀
    let h := (reqWord s m 1).toNat
    asked s₀ m 0x04 = true ∧ nHosts s ≤ h) ∧
  (∃ (s₀ : State) (m : Nat),
    let s := served m s₀
    let h := (reqWord s m 1).toNat
    let x := reqWord s m 2
    let xBad := fld x 3 1 ≠ 0 ∨ fld x 7 1 ≠ 0 ∨ fld x 9 7 ≠ 0 ∨ fld x 28 36 ≠ 0
    asked s₀ m 0x04 = true ∧ h < nHosts s ∧ xBad) ∧
  (∃ (s₀ : State) (m : Nat),
    let s := served m s₀
    let h := (reqWord s m 1).toNat
    let x := reqWord s m 2
    let y := reqWord s m 3
    let xBad := fld x 3 1 ≠ 0 ∨ fld x 7 1 ≠ 0 ∨ fld x 9 7 ≠ 0 ∨ fld x 28 36 ≠ 0
    let yBad := fld y 10 6 ≠ 0 ∨ fld y 26 5 ≠ 0 ∨ fld y 32 32 ≠ 0 ∨ (getFn s (h * 1024 + fld y 16 10)).mir.pf = false
    asked s₀ m 0x04 = true ∧ h < nHosts s ∧ ¬ xBad ∧ yBad) ∧
  (∃ (s₀ : State) (m : Nat),
    let s := served m s₀
    let h := (reqWord s m 1).toNat
    let x := reqWord s m 2
    let y := reqWord s m 3
    let xBad := fld x 3 1 ≠ 0 ∨ fld x 7 1 ≠ 0 ∨ fld x 9 7 ≠ 0 ∨ fld x 28 36 ≠ 0
    let yBad := fld y 10 6 ≠ 0 ∨ fld y 26 5 ≠ 0 ∨ fld y 32 32 ≠ 0 ∨ (getFn s (h * 1024 + fld y 16 10)).mir.pf = false
    asked s₀ m 0x04 = true ∧ h < nHosts s ∧ ¬ xBad ∧ ¬ yBad) ∧
  (∃ (s₀ : State) (m : Nat),
    let s := served m s₀
    let a := reqWord s m 1
    let i := fld a 0 4
    let x := getInst s i
    asked s₀ m 0x05 = true ∧ (fld a 4 60 ≠ 0 ∨ x.en = true)) ∧
  (∃ (s₀ : State) (m : Nat) (w : _),
    let s := served m s₀
    let a := reqWord s m 1
    let i := fld a 0 4
    let x := getInst s i
    asked s₀ m 0x05 = true ∧ fld a 4 60 = 0 ∧ x.en = false ∧
    badRegion s (ringRegion s ++ otherRegions s i) (askedRegions m x s) = some w) ∧
  (∃ (s₀ : State) (m : Nat),
    let s := served m s₀
    let a := reqWord s m 1
    let i := fld a 0 4
    let x := getInst s i
    asked s₀ m 0x05 = true ∧ fld a 4 60 = 0 ∧ x.en = false ∧
    badRegion s (ringRegion s ++ otherRegions s i) (askedRegions m x s) = none) ∧
  (∃ (s₀ : State) (m : Nat),
    let s := served m s₀
    let on := ∃ i, i < 16 ∧ (getInst s i).en = true
    asked s₀ m 0x06 = true ∧ on) ∧
  (∃ (s₀ : State) (m : Nat),
    let s := served m s₀
    let l := reqWord s m 2
    let on := ∃ i, i < 16 ∧ (getInst s i).en = true
    asked s₀ m 0x06 = true ∧ ¬on ∧ (l.toNat < 12 ∨ 20 < l.toNat)) ∧
  (∃ (s₀ : State) (m : Nat),
    let s := served m s₀
    let a := (reqWord s m 1).toNat
    let l := reqWord s m 2
    let on := ∃ i, i < 16 ∧ (getInst s i).en = true
    asked s₀ m 0x06 = true ∧ ¬on ∧ 12 ≤ l.toNat ∧ l.toNat ≤ 20 ∧ a % 32 ≠ 0) ∧
  (∃ (s₀ : State) (m : Nat),
    let s := served m s₀
    let a := (reqWord s m 1).toNat
    let l := reqWord s m 2
    let on := ∃ i, i < 16 ∧ (getInst s i).en = true
    asked s₀ m 0x06 = true ∧ ¬on ∧ 12 ≤ l.toNat ∧ l.toNat ≤ 20 ∧
    badRegion s (otherRegions s 16) [(1, a, 32 * 2 ^ l.toNat, 32)] = none) ∧
  (∃ (s₀ : State) (m : Nat),
    let s := served m s₀
    asked s₀ m 0x08 = true ∧ s.gate.vlogwr = s.gate.vlogrd) ∧
  (∃ (s₀ : State) (m : Nat),
    let s := served m s₀
    asked s₀ m 0x08 = true ∧ s.gate.vlogwr ≠ s.gate.vlogrd) :=
  ⟨⟨modMbx 3 (fun m => { m with busy := true, req := [(0, w64 (4)), (1, w64 (4))] }) (up), 3, by dsimp only; decide +kernel⟩,
   ⟨modMbx 3 (fun m => { m with busy := true, req := [(0, w64 (4)), (1, w64 (0)), (2, w64 (8))] }) (up), 3, by dsimp only; decide +kernel⟩,
   ⟨modMbx 3 (fun m => { m with busy := true, req := [(0, w64 (4)), (1, w64 (0)), (2, w64 (0)), (3, w64 (2 ^ 10))] }) (up), 3, by dsimp only; decide +kernel⟩,
   ⟨modMbx 3 (fun m => { m with busy := true, req := [(0, w64 (4)), (1, w64 (0)), (2, w64 (0)), (3, w64 (0))] }) (modFn 0 (fun f => { f with mir := { pf := true } }) (up)), 3, by dsimp only; decide +kernel⟩,
   ⟨modMbx 3 (fun m => { m with busy := true, req := [(0, w64 (5)), (1, w64 (16))] }) (up), 3, by dsimp only; decide +kernel⟩,
   ⟨modMbx 3 (fun m => { m with busy := true, req := [(0, w64 (5)), (1, w64 (15)), (2, w64 (1))] }) (up), 3, 2, by dsimp only; decide +kernel⟩,
   ⟨modMbx 3 (fun m => { m with busy := true, req := [(0, w64 (5)), (1, w64 (15)), (2, w64 (2 ^ 20)), (3, w64 (2 ^ 21)), (4, w64 (2 ^ 22)), (5, w64 (2 ^ 23)), (6, w64 (2 ^ 24))] }) (modCtl (fun c => { c with tsvsize := w64 (2 ^ 40) }) (up)), 3, by dsimp only; decide +kernel⟩,
   ⟨modMbx 3 (fun m => { m with busy := true, req := [(0, w64 (6)), (1, w64 (0)), (2, w64 (12))] }) (modInst 15 (fun x => { x with en := true }) (up)), 3, by dsimp only; decide +kernel⟩,
   ⟨modMbx 3 (fun m => { m with busy := true, req := [(0, w64 (6)), (1, w64 (0)), (2, w64 (11))] }) (up), 3, by dsimp only; decide +kernel⟩,
   ⟨modMbx 3 (fun m => { m with busy := true, req := [(0, w64 (6)), (1, w64 (1)), (2, w64 (12))] }) (up), 3, by dsimp only; decide +kernel⟩,
   ⟨modMbx 3 (fun m => { m with busy := true, req := [(0, w64 (6)), (1, w64 (2 ^ 25)), (2, w64 (20))] }) (modCtl (fun c => { c with tsvsize := w64 (2 ^ 40) }) (up)), 3, by dsimp only; decide +kernel⟩,
   ⟨modMbx 3 (fun m => { m with busy := true, req := [(0, w64 (8))] }) (up), 3, by dsimp only; decide +kernel⟩,
   ⟨modMbx 3 (fun m => { m with busy := true, req := [(0, w64 (8))] }) (modGate (fun g => { g with vlogwr := 5 }) (up)), 3, by dsimp only; decide +kernel⟩⟩

/-- OperationRequests. -/
theorem wit_operation_requests :
  (∃ (s₀ : State) (m : Nat),
    let s := served m s₀
    let a := reqWord s m 1
    let kind : BitVec 2 := bits a 0 2
    let t : BitVec 7 := bits a 8 7
    let good := fld a 2 6 = 0 ∧ fld a 15 49 = 0 ∧ testExists s kind t = true
    asked s₀ m 0x07 = true ∧ ¬ good) ∧
  (∃ (s₀ : State) (m : Nat),
    let s := served m s₀
    let a := reqWord s m 1
    let kind : BitVec 2 := bits a 0 2
    let t : BitVec 7 := bits a 8 7
    let good := fld a 2 6 = 0 ∧ fld a 15 49 = 0 ∧ testExists s kind t = true
    let may := (kind ≠ 2 → s.ctl.phase = 6 ∧ ¬(kind = 0 ∧ t = 0) ∧ ¬(kind = 1 ∧ t = 11)) ∧ (kind = 2 → otherEngines s t.toNat = true)
    asked s₀ m 0x07 = true ∧ good ∧ ¬ may) ∧
  (∃ (s₀ : State) (m : Nat),
    let s := served m s₀
    let a := reqWord s m 1
    let kind : BitVec 2 := bits a 0 2
    let t : BitVec 7 := bits a 8 7
    let good := fld a 2 6 = 0 ∧ fld a 15 49 = 0 ∧ testExists s kind t = true
    let may := (kind ≠ 2 → s.ctl.phase = 6 ∧ ¬(kind = 0 ∧ t = 0) ∧ ¬(kind = 1 ∧ t = 11)) ∧ (kind = 2 → otherEngines s t.toNat = true)
    asked s₀ m 0x07 = true ∧ good ∧ may ∧ s.st.busy = true) ∧
  (∃ (s₀ : State) (m : Nat),
    let s := served m s₀
    let a := reqWord s m 1
    let kind : BitVec 2 := bits a 0 2
    let t : BitVec 7 := bits a 8 7
    let good := fld a 2 6 = 0 ∧ fld a 15 49 = 0 ∧ testExists s kind t = true
    let may := (kind ≠ 2 → s.ctl.phase = 6 ∧ ¬(kind = 0 ∧ t = 0) ∧ ¬(kind = 1 ∧ t = 11)) ∧ (kind = 2 → otherEngines s t.toNat = true)
    asked s₀ m 0x07 = true ∧ good ∧ may ∧ s.st.busy = false) ∧
  (∃ (s₀ : State) (m : Nat),
    let s := served m s₀
    asked s₀ m 0x09 = true ∧ m < 8 ∧ (s.ctl.zeroed = false ∨ s.ctl.ready = true)) ∧
  (∃ (s₀ : State) (m : Nat),
    let s := served m s₀
    asked s₀ m 0x09 = true ∧ m < 8 ∧ s.ctl.zeroed = true ∧ s.ctl.ready = false) ∧
  (∃ (s₀ : State) (m : Nat),
    let s := served m s₀
    let busy := s.ctl.update ≠ none ∨ s.ctl.loading = true ∨ s.ctl.scree ≠ none
    asked s₀ m 0x0A = true ∧ busy) ∧
  (∃ (s₀ : State) (m : Nat),
    let s := served m s₀
    let busy := s.ctl.update ≠ none ∨ s.ctl.loading = true ∨ s.ctl.scree ≠ none
    asked s₀ m 0x0A = true ∧ ¬ busy) ∧
  (∃ (s₀ : State) (m : Nat),
    let s := served m s₀
    let busy := s.ctl.update ≠ none ∨ s.ctl.loading = true ∨ s.ctl.scree ≠ none ∨ ¬(s.ctl.phase = 7 ∨ s.ctl.phase = 8)
    asked s₀ m 0x0B = true ∧ m = 8 ∧ busy) ∧
  (∃ (s₀ : State) (m : Nat),
    let s := served m s₀
    let busy := s.ctl.update ≠ none ∨ s.ctl.loading = true ∨ s.ctl.scree ≠ none ∨ ¬(s.ctl.phase = 7 ∨ s.ctl.phase = 8)
    asked s₀ m 0x0B = true ∧ m = 8 ∧ ¬ busy) ∧
  (∃ (s₀ : State) (m : Nat),
    let s := served m s₀
    let a := reqWord s m 1
    let aBad := fld a 1 3 ≠ 0 ∨ fld a 9 55 ≠ 0 ∨ ¬(1 ≤ fld a 4 4 ∧ fld a 4 4 ≤ nHosts s)
    asked s₀ m 0x0C = true ∧ aBad) ∧
  (∃ (s₀ : State) (m : Nat),
    let s := served m s₀
    let a := reqWord s m 1
    let b := reqWord s m 2
    let aBad := fld a 1 3 ≠ 0 ∨ fld a 9 55 ≠ 0 ∨ ¬(1 ≤ fld a 4 4 ∧ fld a 4 4 ≤ nHosts s)
    asked s₀ m 0x0C = true ∧ ¬ aBad ∧ b.toNat % 4096 ≠ 0) ∧
  (∃ (s₀ : State) (m : Nat),
    let s := served m s₀
    let a := reqWord s m 1
    let b := reqWord s m 2
    let aBad := fld a 1 3 ≠ 0 ∨ fld a 9 55 ≠ 0 ∨ ¬(1 ≤ fld a 4 4 ∧ fld a 4 4 ≤ nHosts s)
    asked s₀ m 0x0C = true ∧ ¬ aBad ∧ b.toNat % 4096 = 0) :=
  ⟨⟨modMbx 3 (fun m => { m with busy := true, req := [(0, w64 (7)), (1, w64 (3))] }) (up), 3, by dsimp only; decide +kernel⟩,
   ⟨modMbx 3 (fun m => { m with busy := true, req := [(0, w64 (7)), (1, w64 (256))] }) (up), 3, by dsimp only; decide +kernel⟩,
   ⟨modMbx 3 (fun m => { m with busy := true, req := [(0, w64 (7)), (1, w64 (256))] }) (modSt (fun t => { t with busy := true }) (modCtl (fun c => { c with phase := 6 }) (up))), 3, by dsimp only; decide +kernel⟩,
   ⟨modMbx 3 (fun m => { m with busy := true, req := [(0, w64 (7)), (1, w64 (256))] }) (modCtl (fun c => { c with phase := 6 }) (up)), 3, by dsimp only; decide +kernel⟩,
   ⟨modMbx 3 (fun m => { m with busy := true, req := [(0, w64 (9))] }) (up), 3, by dsimp only; decide +kernel⟩,
   ⟨modMbx 3 (fun m => { m with busy := true, req := [(0, w64 (9))] }) (modCtl (fun c => { c with ready := false }) (up)), 3, by dsimp only; decide +kernel⟩,
   ⟨modMbx 3 (fun m => { m with busy := true, req := [(0, w64 (10))] }) (modCtl (fun c => { c with loading := true }) (up)), 3, by dsimp only; decide +kernel⟩,
   ⟨modMbx 3 (fun m => { m with busy := true, req := [(0, w64 (10))] }) (up), 3, by dsimp only; decide +kernel⟩,
   ⟨modMbx 8 (fun m => { m with busy := true, req := [(0, w64 (11))] }) (modCtl (fun c => { c with loading := true }) (up)), 8, by dsimp only; decide +kernel⟩,
   ⟨modMbx 8 (fun m => { m with busy := true, req := [(0, w64 (11))] }) (up), 8, by dsimp only; decide +kernel⟩,
   ⟨modMbx 3 (fun m => { m with busy := true, req := [(0, w64 (12)), (1, w64 (2))] }) (up), 3, by dsimp only; decide +kernel⟩,
   ⟨modMbx 3 (fun m => { m with busy := true, req := [(0, w64 (12)), (1, w64 (16)), (2, w64 (1))] }) (up), 3, by dsimp only; decide +kernel⟩,
   ⟨modMbx 3 (fun m => { m with busy := true, req := [(0, w64 (12)), (1, w64 (16)), (2, w64 (4096))] }) (up), 3, by dsimp only; decide +kernel⟩⟩

/-- CoreFaults. -/
theorem wit_core_faults :
  (∃ (s : State) (c : Nat) (i : _),
    c < 9 ∧ i ∈ coreCommands c ∧ coreRuns s c = false) ∧
  (∃ (s : State) (c : Nat) (i : _) (k : _) (u : _),
    c < 9 ∧ i ∈ coreCommands c ∧ coreRuns s c = true ∧ coreFetch c (getCore s c).pc s = .fault k u) ∧
  (∃ (s : State) (c : Nat) (i : _) (w : _) (u : _),
    c < 9 ∧ i ∈ coreCommands c ∧ coreRuns s c = true ∧ fetches s c w u = true ∧ opc w ∉ coreOpcodes) ∧
  (∃ (s : State) (c : Nat) (a : Word) (x : _),
    c < 9 ∧ (getCore s c).icache.find? (fun x => x.1 == a.toNat / 64) = some x) ∧
  (∃ (s : State) (c : Nat) (a : Word) (k : _) (u : _),
    c < 9 ∧ (getCore s c).icache.find? (fun x => x.1 == a.toNat / 64) = none ∧ coreRead c a 8 s = .fault k u) ∧
  (∃ (s : State) (c : Nat) (a : Word) (d : _) (u : _),
    c < 9 ∧ (getCore s c).icache.find? (fun x => x.1 == a.toNat / 64) = none ∧ coreRead c a 8 s = .bytes d u) ∧
  (∃ (c : Nat) (j : _),
    c < 9 ∧ j ≠ c) ∧
  (∃ (s : State) (c : Nat),
    let x := getCore s c
    let vector := x.fvec &&& ~~~7
    c < 9 ∧ vector ≠ 0 ∧ x.inh = false) ∧
  (∃ (s : State) (c : Nat),
    let x := getCore s c
    let vector := x.fvec &&& ~~~7
    c < 9 ∧ (vector = 0 ∨ x.inh = true) ∧ c < 8) ∧
  (∃ (s : State) (c : Nat),
    let x := getCore s c
    let vector := x.fvec &&& ~~~7
    c < 9 ∧ (vector = 0 ∨ x.inh = true) ∧ c = 8) ∧
  (∃ (c : Nat) (a : Word),
    c < 9 ∧ c < 8 ∧ 0x1000000 ≤ a.toNat) ∧
  (∃ (s : State) (c : Nat) (a : Word) (n : _),
    c < 9 ∧ a.toNat < 0x1000000 ∧ eccAt s a.toNat n = true ∧ coreGate c .rd a n s = none) ∧
  (∃ (s : State) (c : Nat) (a : Word) (n : _),
    c < 9 ∧ c = 8 ∧ 0x80010000 ≤ a.toNat ∧ a.toNat < 0x80030000 ∧ eccAt s a.toNat n = true) ∧
  (∃ (c : Nat) (a : Word),
    c < 9 ∧ c = 8 ∧
    (0x1000000 ≤ a.toNat ∧ a.toNat < 0x80000000 ∨ 0x80008000 ≤ a.toNat ∧ a.toNat < 0x80010000 ∨ 0x80030000 ≤ a.toNat ∧ a.toNat < 0x80040000 ∨ 0x80044000 ≤ a.toNat ∧ a.toNat < 0x80050000 ∨ 0x80051000 ≤ a.toNat)) :=
  ⟨⟨modCtl (fun c => { c with halted := 0xFF }) (up), 0, .ld 0, by decide +kernel⟩,
   ⟨(modGate (fun g => { g with active := [(64 * 70, ruleDenyAll)] }) (cpu 0 {} [0])), 0, .ld 0, 3, (denyPrecise 70 (coreWho 0) .rd 0x1000 8 (gateCheck ((modGate (fun g => { g with active := [(64 * 70, ruleDenyAll)] }) (cpu 0 {} [0]))) 70 (coreWho 0) .rd 0x1000 8 false) ((modGate (fun g => { g with active := [(64 * 70, ruleDenyAll)] }) (cpu 0 {} [0])))), by decide +kernel⟩,
   ⟨cpu 0 {} [0], 0, .ld 0, 0, fetched (cpu 0 {} [0]) 0, by decide +kernel⟩,
   ⟨cpu 0 { icache := [(64, [])] } [], 0, 0x1000, (64, []), by decide +kernel⟩,
   ⟨(modGate (fun g => { g with active := [(64 * 70, ruleDenyAll)] }) (cpu 0 {} [0])), 0, 0x1000, 3, (denyPrecise 70 (coreWho 0) .rd 0x1000 8 (gateCheck ((modGate (fun g => { g with active := [(64 * 70, ruleDenyAll)] }) (cpu 0 {} [0]))) 70 (coreWho 0) .rd 0x1000 8 false) ((modGate (fun g => { g with active := [(64 * 70, ruleDenyAll)] }) (cpu 0 {} [0])))), by decide +kernel⟩,
   ⟨cpu 0 {} [0], 0, 0x1000, bytesOf (0 : Word) 8, cpu 0 {} [0], by decide +kernel⟩,
   ⟨0, 1, by decide +kernel⟩,
   ⟨cpu 0 { fvec := 0x2000 } [0], 0, by dsimp only; decide +kernel⟩,
   ⟨cpu 0 {} [0], 0, by dsimp only; decide +kernel⟩,
   ⟨cpu 8 {} [0], 8, by dsimp only; decide +kernel⟩,
   ⟨0, 0x1000000, by decide +kernel⟩,
   ⟨{ up with ecc := [8] }, 0, 64, 8, by decide +kernel⟩,
   ⟨{ up with ecc := [0x10002000] }, 8, 0x80010000, 8, by decide +kernel⟩,
   ⟨8, 0x80008000, by decide +kernel⟩⟩

/-- CoreArithmetic. -/
theorem wit_core_arithmetic :
  (∃ (s : State) (u : State) (c : Nat) (w : Word),
    let m := fMOD w
    fetches s c w u = true ∧ opc w = 0x90 ∧ ((fI w = true ∧ fRB w ≠ 0) ∨ 12 ≤ m)) ∧
  (∃ (s : State) (u : State) (c : Nat) (w : Word),
    let m := fMOD w
    fetches s c w u = true ∧ opc w = 0x90 ∧ (fI w = true → fRB w = 0) ∧ m < 12) ∧
  (∃ (s : State) (u : State) (c : Nat) (w : Word),
    let m := fMOD w
    let pos := fld w 16 6
    let len := fld w 24 6 + 1
    let good := fRB w = 0 ∧ fI w = false ∧ m < 2 ∧ fld w 22 2 = 0 ∧ fld w 30 18 = 0 ∧ pos + len ≤ 64
    fetches s c w u = true ∧ opc w = 0x91 ∧ ¬ good) ∧
  (∃ (s : State) (u : State) (c : Nat) (w : Word),
    let m := fMOD w
    let pos := fld w 16 6
    let len := fld w 24 6 + 1
    let good := fRB w = 0 ∧ fI w = false ∧ m < 2 ∧ fld w 22 2 = 0 ∧ fld w 30 18 = 0 ∧ pos + len ≤ 64
    fetches s c w u = true ∧ opc w = 0x91 ∧ good) ∧
  (∃ (s : State) (u : State) (c : Nat) (w : Word),
    let m := fMOD w
    let good := fRA w = 0 ∧ fRB w = 0 ∧ fI w = false ∧ m < 8
    fetches s c w u = true ∧ opc w = 0x82 ∧ (¬ good ∨ (bit w 48 = true ∧ fIMM w ≠ 0))) ∧
  (∃ (s : State) (u : State) (c : Nat) (w : Word),
    let m := fMOD w
    let good := fRA w = 0 ∧ fRB w = 0 ∧ fI w = false ∧ m < 8
    fetches s c w u = true ∧ opc w = 0x82 ∧ good ∧ bit w 48 = false) ∧
  (∃ (s : State) (u : State) (c : Nat) (w : Word) (d : _) (v : _),
    let k := getCore u c
    let m := fMOD w
    let good := fRA w = 0 ∧ fRB w = 0 ∧ fI w = false ∧ m < 8
    fetches s c w u = true ∧ opc w = 0x82 ∧ good ∧ bit w 48 = true ∧ fIMM w = 0 ∧ coreFetch c (k.pc + 8) u = .bytes d v) :=
  ⟨⟨(cpu 0 {  } [cw 0x90 12 (0) 0]), fetched ((cpu 0 {  } [cw 0x90 12 (0) 0])) 0, 0, cw 0x90 12 (0) 0, by dsimp only; decide +kernel⟩,
   ⟨(cpu 0 {  } [cw 0x90 11 (0) 3]), fetched ((cpu 0 {  } [cw 0x90 11 (0) 3])) 0, 0, cw 0x90 11 (0) 3, by dsimp only; decide +kernel⟩,
   ⟨(cpu 0 {  } [cw 0x91 2 (0) 0]), fetched ((cpu 0 {  } [cw 0x91 2 (0) 0])) 0, 0, cw 0x91 2 (0) 0, by dsimp only; decide +kernel⟩,
   ⟨(cpu 0 {  } [cw 0x91 1 (63 * 256) 3]), fetched ((cpu 0 {  } [cw 0x91 1 (63 * 256) 3])) 0, 0, cw 0x91 1 (63 * 256) 3, by dsimp only; decide +kernel⟩,
   ⟨(cpu 0 {  } [cw 0x82 0 (5) 32]), fetched ((cpu 0 {  } [cw 0x82 0 (5) 32])) 0, 0, cw 0x82 0 (5) 32, by dsimp only; decide +kernel⟩,
   ⟨(cpu 0 {  } [cw 0x82 0 (2 ^ 32 - 1) 3]), fetched ((cpu 0 {  } [cw 0x82 0 (2 ^ 32 - 1) 3])) 0, 0, cw 0x82 0 (2 ^ 32 - 1) 3, by dsimp only; decide +kernel⟩,
   ⟨(cpu 0 {  } [cw 0x82 1 (0) 3, 7]), fetched ((cpu 0 {  } [cw 0x82 1 (0) 3, 7])) 0, 0, cw 0x82 1 (0) 3, bytesOf (7 : Word) 8, cpu 0 { } [cw 0x82 1 (0) 3, 7], by dsimp only; decide +kernel⟩⟩

/-- CoreJumps. -/
theorem wit_core_jumps :
  (∃ (s : State) (u : State) (c : Nat) (w : Word),
    let m := fMOD w
    let good := fRD w = 0 ∧ fRA w = 0 ∧ fRB w = 0 ∧ fI w = false ∧ m < 16 ∧ m ≠ 8
    fetches s c w u = true ∧ opc w = 0xA0 ∧ ¬ good) ∧
  (∃ (s : State) (u : State) (c : Nat) (w : Word),
    let m := fMOD w
    let good := fRD w = 0 ∧ fRA w = 0 ∧ fRB w = 0 ∧ fI w = false ∧ m < 16 ∧ m ≠ 8
    fetches s c w u = true ∧ opc w = 0xA0 ∧ good) ∧
  (∃ (s : State) (u : State) (c : Nat) (w : Word),
    let m := fMOD w
    let good := fRB w = 0 ∧ fI w = false ∧ m < 2 ∧ (m = 0 → fRA w = 0)
    fetches s c w u = true ∧ opc w = 0xA1 ∧ ¬ good) ∧
  (∃ (s : State) (u : State) (c : Nat) (w : Word),
    let k := getCore u c
    let a := getG k (fRA w)
    let m := fMOD w
    let good := fRB w = 0 ∧ fI w = false ∧ m < 2 ∧ (m = 0 → fRA w = 0)
    let t := if m = 0 then k.pc + 8 * fIMM w else (if fRA w = fRD w ∧ fRD w ≠ 0 then k.pc + 8 else a) + fIMM w
    fetches s c w u = true ∧ opc w = 0xA1 ∧ good ∧ t.toNat % 8 ≠ 0) ∧
  (∃ (s : State) (u : State) (c : Nat) (w : Word),
    let k := getCore u c
    let a := getG k (fRA w)
    let m := fMOD w
    let good := fRB w = 0 ∧ fI w = false ∧ m < 2 ∧ (m = 0 → fRA w = 0)
    let t := if m = 0 then k.pc + 8 * fIMM w else (if fRA w = fRD w ∧ fRD w ≠ 0 then k.pc + 8 else a) + fIMM w
    fetches s c w u = true ∧ opc w = 0xA1 ∧ good ∧ t.toNat % 8 = 0) :=
  ⟨⟨(cpu 0 {  } [cw 0xA0 8 (0) 0]), fetched ((cpu 0 {  } [cw 0xA0 8 (0) 0])) 0, 0, cw 0xA0 8 (0) 0, by dsimp only; decide +kernel⟩,
   ⟨(cpu 0 {  } [cw 0xA0 15 (0) 0]), fetched ((cpu 0 {  } [cw 0xA0 15 (0) 0])) 0, 0, cw 0xA0 15 (0) 0, by dsimp only; decide +kernel⟩,
   ⟨(cpu 0 {  } [cw 0xA1 2 (0) 0]), fetched ((cpu 0 {  } [cw 0xA1 2 (0) 0])) 0, 0, cw 0xA1 2 (0) 0, by dsimp only; decide +kernel⟩,
   ⟨(cpu 0 {  } [cw 0xA1 1 (4) 0]), fetched ((cpu 0 {  } [cw 0xA1 1 (4) 0])) 0, 0, cw 0xA1 1 (4) 0, by dsimp only; decide +kernel⟩,
   ⟨(cpu 0 {  } [cw 0xA1 0 (5) 0]), fetched ((cpu 0 {  } [cw 0xA1 0 (5) 0])) 0, 0, cw 0xA1 0 (5) 0, by dsimp only; decide +kernel⟩⟩

/-- CoreMemory. -/
theorem wit_core_memory :
  (∃ (s : State) (u : State) (c : Nat) (w : Word),
    let fields := fRB w = 0 ∧ fI w = false
    fetches s c w u = true ∧ opc w = 0x80 ∧ ¬(fields ∧ fMOD w < 8)) ∧
  (∃ (s : State) (u : State) (c : Nat) (w : Word),
    let k := getCore u c
    let n := 2 ^ (fMOD w % 4)
    let a := getG k (fRA w) + fIMM w
    let fields := fRB w = 0 ∧ fI w = false
    fetches s c w u = true ∧ opc w = 0x80 ∧ fields ∧ fMOD w < 8 ∧ a.toNat % n ≠ 0) ∧
  (∃ (s : State) (u : State) (c : Nat) (w : Word) (x : _) (v : _),
    let k := getCore u c
    let n := 2 ^ (fMOD w % 4)
    let a := getG k (fRA w) + fIMM w
    let fields := fRB w = 0 ∧ fI w = false
    fetches s c w u = true ∧ opc w = 0x80 ∧ fields ∧ fMOD w < 8 ∧ a.toNat % n = 0 ∧ coreRead c a n u = .fault x v) ∧
  (∃ (s : State) (u : State) (c : Nat) (w : Word) (d : _) (v : _),
    let k := getCore u c
    let n := 2 ^ (fMOD w % 4)
    let a := getG k (fRA w) + fIMM w
    let fields := fRB w = 0 ∧ fI w = false
    fetches s c w u = true ∧ opc w = 0x80 ∧ fields ∧ fMOD w < 8 ∧ a.toNat % n = 0 ∧ coreRead c a n u = .bytes d v) ∧
  (∃ (s : State) (u : State) (c : Nat) (w : Word),
    let k := getCore u c
    let n := 2 ^ (fMOD w % 4)
    let a := getG k (fRA w) + fIMM w
    let fields := fRB w = 0 ∧ fI w = false
    fetches s c w u = true ∧ opc w = 0x80 ∧ fields ∧ fMOD w < 8 ∧ a.toNat % n = 0 ∧ regionOf c a = .ctl ∧
    coreGate c .rd a n u = none ∧ eccAt u a.toNat n = false) ∧
  (∃ (s : State) (u : State) (c : Nat) (w : Word),
    let fields := fRB w = 0 ∧ fI w = false
    fetches s c w u = true ∧ opc w = 0x81 ∧ ¬(fields ∧ fMOD w < 4)) ∧
  (∃ (s : State) (u : State) (c : Nat) (w : Word),
    let k := getCore u c
    let n := 2 ^ (fMOD w % 4)
    let a := getG k (fRA w) + fIMM w
    let fields := fRB w = 0 ∧ fI w = false
    fetches s c w u = true ∧ opc w = 0x81 ∧ fields ∧ fMOD w < 4 ∧ a.toNat % n ≠ 0) ∧
  (∃ (s : State) (u : State) (c : Nat) (w : Word),
    let k := getCore u c
    let n := 2 ^ (fMOD w % 4)
    let a := getG k (fRA w) + fIMM w
    let fields := fRB w = 0 ∧ fI w = false
    fetches s c w u = true ∧ opc w = 0x81 ∧ fields ∧ fMOD w < 4 ∧ a.toNat % n = 0 ∧ regionOf c a = .ctl ∧ u.cwait = [] ∧
    cbufBytes u + n ≤ 4096) ∧
  (∃ (s : State) (u : State) (c : Nat) (w : Word),
    let k := getCore u c
    let n := 2 ^ (fMOD w % 4)
    let a := getG k (fRA w) + fIMM w
    let fields := fRB w = 0 ∧ fI w = false
    fetches s c w u = true ∧ opc w = 0x81 ∧ fields ∧ fMOD w < 4 ∧ a.toNat % n = 0 ∧ regionOf c a = .ctl ∧
    (u.cwait ≠ [] ∨ 4096 < cbufBytes u + n)) ∧
  (∃ (s : State) (u : State) (c : Nat) (w : Word),
    let k := getCore u c
    let n := 2 ^ (fMOD w % 4)
    let a := getG k (fRA w) + fIMM w
    let fields := fRB w = 0 ∧ fI w = false
    fetches s c w u = true ∧ opc w = 0x81 ∧ fields ∧ fMOD w < 4 ∧ a.toNat % n = 0 ∧ regionOf c a = .kram) ∧
  (∃ (s : State) (u : State) (c : Nat) (w : Word),
    let k := getCore u c
    let n := 2 ^ (fMOD w % 4)
    let a := getG k (fRA w) + fIMM w
    let fields := fRB w = 0 ∧ fI w = false
    fetches s c w u = true ∧ opc w = 0x81 ∧ fields ∧ fMOD w < 4 ∧ a.toNat % n = 0 ∧ regionOf c a = .rsram) ∧
  (∃ (s : State) (u : State) (c : Nat) (w : Word),
    let k := getCore u c
    let n := 2 ^ (fMOD w % 4)
    let a := getG k (fRA w) + fIMM w
    let fields := fRB w = 0 ∧ fI w = false
    fetches s c w u = true ∧ opc w = 0x81 ∧ fields ∧ fMOD w < 4 ∧ a.toNat % n = 0 ∧
    (regionOf c a = .rom ∨ regionOf c a = .none)) ∧
  (∃ (s : State) (u : State) (c : Nat) (w : Word),
    let m := fMOD w
    let good := fIMM w = 0 ∧ m ≤ 2 ∧ (fI w = true → fRB w = 0)
    fetches s c w u = true ∧ opc w = 0x83 ∧ ¬good) ∧
  (∃ (s : State) (u : State) (c : Nat) (w : Word),
    let k := getCore u c
    let b := getG k (fRA w)
    let m := fMOD w
    let good := fIMM w = 0 ∧ m ≤ 2 ∧ (fI w = true → fRB w = 0)
    fetches s c w u = true ∧ opc w = 0x83 ∧ good ∧ b.toNat % 8 ≠ 0) ∧
  (∃ (s : State) (u : State) (c : Nat) (w : Word),
    let k := getCore u c
    let b := getG k (fRA w)
    let m := fMOD w
    let good := fIMM w = 0 ∧ m ≤ 2 ∧ (fI w = true → fRB w = 0)
    fetches s c w u = true ∧ opc w = 0x83 ∧ good ∧ b.toNat % 8 = 0 ∧ regionOf c b = .ctl ∧ ownStore u c = true) ∧
  (∃ (s : State) (u : State) (c : Nat) (w : Word) (v : _),
    let k := getCore u c
    let b := getG k (fRA w)
    let m := fMOD w
    let good := fIMM w = 0 ∧ m ≤ 2 ∧ (fI w = true → fRB w = 0)
    fetches s c w u = true ∧ opc w = 0x83 ∧ good ∧ b.toNat % 8 = 0 ∧ regionOf c b = .ctl ∧ ownStore u c = false ∧
    coreGate c .both b 8 u = some v) ∧
  (∃ (s : State) (u : State) (c : Nat) (w : Word),
    let k := getCore u c
    let b := getG k (fRA w)
    let m := fMOD w
    let good := fIMM w = 0 ∧ m ≤ 2 ∧ (fI w = true → fRB w = 0)
    fetches s c w u = true ∧ opc w = 0x83 ∧ good ∧ b.toNat % 8 = 0 ∧ regionOf c b = .ctl ∧ ownStore u c = false ∧
    coreGate c .both b 8 u = none ∧ eccAt u b.toNat 8 = true) ∧
  (∃ (s : State) (u : State) (c : Nat) (w : Word),
    let k := getCore u c
    let b := getG k (fRA w)
    let m := fMOD w
    let good := fIMM w = 0 ∧ m ≤ 2 ∧ (fI w = true → fRB w = 0)
    fetches s c w u = true ∧ opc w = 0x83 ∧ good ∧ b.toNat % 8 = 0 ∧ regionOf c b = .ctl ∧ ownStore u c = false ∧
    coreGate c .both b 8 u = none ∧ eccAt u b.toNat 8 = false) ∧
  (∃ (s : State) (u : State) (c : Nat) (w : Word),
    let k := getCore u c
    let b := getG k (fRA w)
    let m := fMOD w
    let good := fIMM w = 0 ∧ m ≤ 2 ∧ (fI w = true → fRB w = 0)
    fetches s c w u = true ∧ opc w = 0x83 ∧ good ∧ b.toNat % 8 = 0 ∧ regionOf c b = .kram ∧ eccAt u b.toNat 8 = true) ∧
  (∃ (s : State) (u : State) (c : Nat) (w : Word),
    let k := getCore u c
    let b := getG k (fRA w)
    let m := fMOD w
    let good := fIMM w = 0 ∧ m ≤ 2 ∧ (fI w = true → fRB w = 0)
    fetches s c w u = true ∧ opc w = 0x83 ∧ good ∧ b.toNat % 8 = 0 ∧ regionOf c b = .kram ∧ eccAt u b.toNat 8 = false) ∧
  (∃ (s : State) (u : State) (c : Nat) (w : Word) (d : _) (v : _),
    let k := getCore u c
    let b := getG k (fRA w)
    let m := fMOD w
    let good := fIMM w = 0 ∧ m ≤ 2 ∧ (fI w = true → fRB w = 0)
    fetches s c w u = true ∧ opc w = 0x83 ∧ good ∧ b.toNat % 8 = 0 ∧ regionOf c b = .rsram ∧ coreRead c b 8 u = .bytes d v) ∧
  (∃ (s : State) (u : State) (c : Nat) (w : Word),
    let k := getCore u c
    let b := getG k (fRA w)
    let m := fMOD w
    let good := fIMM w = 0 ∧ m ≤ 2 ∧ (fI w = true → fRB w = 0)
    fetches s c w u = true ∧ opc w = 0x83 ∧ good ∧ b.toNat % 8 = 0 ∧
    (regionOf c b = .rom ∨ regionOf c b = .none ∨ regionOf c b = .crypto)) :=
  ⟨⟨(cpu 0 {  } [cw 0x80 8 (0) 0]), fetched ((cpu 0 {  } [cw 0x80 8 (0) 0])) 0, 0, cw 0x80 8 (0) 0, by dsimp only; decide +kernel⟩,
   ⟨(cpu 0 {  } [cw 0x80 3 (4) 0]), fetched ((cpu 0 {  } [cw 0x80 3 (4) 0])) 0, 0, cw 0x80 3 (4) 0, by dsimp only; decide +kernel⟩,
   ⟨(cpu 0 {  } [cw 0x80 3 (16777216) 0]), fetched ((cpu 0 {  } [cw 0x80 3 (16777216) 0])) 0, 0, cw 0x80 3 (16777216) 0, 4, fetched (cpu 0 { } [cw 0x80 3 (16777216) 0]) 0, by dsimp only; decide +kernel⟩,
   ⟨(cpu 0 {  } [cw 0x80 3 (8) 0]), fetched ((cpu 0 {  } [cw 0x80 3 (8) 0])) 0, 0, cw 0x80 3 (8) 0, [0, 0, 0, 0, 0, 0, 0, 0], fetched (cpu 0 { } [cw 0x80 3 (8) 0]) 0, by dsimp only; decide +kernel⟩,
   ⟨(cpu 0 {  } [cw 0x80 3 (8) 0]), fetched ((cpu 0 {  } [cw 0x80 3 (8) 0])) 0, 0, cw 0x80 3 (8) 0, by dsimp only; decide +kernel⟩,
   ⟨(cpu 0 {  } [cw 0x81 4 (0) 0]), fetched ((cpu 0 {  } [cw 0x81 4 (0) 0])) 0, 0, cw 0x81 4 (0) 0, by dsimp only; decide +kernel⟩,
   ⟨(cpu 0 {  } [cw 0x81 3 (4) 0]), fetched ((cpu 0 {  } [cw 0x81 3 (4) 0])) 0, 0, cw 0x81 3 (4) 0, by dsimp only; decide +kernel⟩,
   ⟨(cpu 0 {  } [cw 0x81 3 (8) 0]), fetched ((cpu 0 {  } [cw 0x81 3 (8) 0])) 0, 0, cw 0x81 3 (8) 0, by dsimp only; decide +kernel⟩,
   ⟨{ (cpu 0 {  } [cw 0x81 3 (8) 0]) with cwait := [{ addr := 0, data := [], purpose := .dropped }] }, fetched ({ (cpu 0 {  } [cw 0x81 3 (8) 0]) with cwait := [{ addr := 0, data := [], purpose := .dropped }] }) 0, 0, cw 0x81 3 (8) 0, by dsimp only; decide +kernel⟩,
   ⟨(cpu 8 { g := [(1, 0x80010000)] } [cw 0x81 3 (8) 32]), fetched ((cpu 8 { g := [(1, 0x80010000)] } [cw 0x81 3 (8) 32])) 8, 8, cw 0x81 3 (8) 32, by dsimp only; decide +kernel⟩,
   ⟨(cpu 8 { g := [(1, 0x80040000)] } [cw 0x81 3 (8) 32]), fetched ((cpu 8 { g := [(1, 0x80040000)] } [cw 0x81 3 (8) 32])) 8, 8, cw 0x81 3 (8) 32, by dsimp only; decide +kernel⟩,
   ⟨(cpu 8 { g := [(1, 0x80000000)] } [cw 0x81 3 (8) 32]), fetched ((cpu 8 { g := [(1, 0x80000000)] } [cw 0x81 3 (8) 32])) 8, 8, cw 0x81 3 (8) 32, by dsimp only; decide +kernel⟩,
   ⟨(cpu 0 { g := [(1, 0x2000)] } [cw 0x83 3 (0) 33]), fetched ((cpu 0 { g := [(1, 0x2000)] } [cw 0x83 3 (0) 33])) 0, 0, cw 0x83 3 (0) 33, by dsimp only; decide +kernel⟩,
   ⟨(cpu 0 { g := [(1, 0x2004)] } [cw 0x83 0 (0) 33]), fetched ((cpu 0 { g := [(1, 0x2004)] } [cw 0x83 0 (0) 33])) 0, 0, cw 0x83 0 (0) 33, by dsimp only; decide +kernel⟩,
   ⟨{ (cpu 0 { g := [(1, 0x2000)] } [cw 0x83 0 (0) 33]) with cbuf := [{ addr := 0x3000, data := [1], cls := 1, core := true, engine := 0, purpose := .dropped }] }, fetched ({ (cpu 0 { g := [(1, 0x2000)] } [cw 0x83 0 (0) 33]) with cbuf := [{ addr := 0x3000, data := [1], cls := 1, core := true, engine := 0, purpose := .dropped }] }) 0, 0, cw 0x83 0 (0) 33, by dsimp only; decide +kernel⟩,
   ⟨(modGate (fun g => { g with active := [(64 * 70, ruleFor 0x2000 0x1000 true true true true false false false)] }) (cpu 0 { g := [(1, 0x2000)] } [cw 0x83 0 (0) 33])), fetched ((modGate (fun g => { g with active := [(64 * 70, ruleFor 0x2000 0x1000 true true true true false false false)] }) (cpu 0 { g := [(1, 0x2000)] } [cw 0x83 0 (0) 33]))) 0, 0, cw 0x83 0 (0) 33, (denyPrecise 70 (coreWho 0) .both 0x2000 8 (gateCheck (fetched (modGate (fun g => { g with active := [(64 * 70, ruleFor 0x2000 0x1000 true true true true false false false)] }) (cpu 0 { g := [(1, 0x2000)] } [cw 0x83 0 (0) 33])) 0) 70 (coreWho 0) .both 0x2000 8 false) (fetched (modGate (fun g => { g with active := [(64 * 70, ruleFor 0x2000 0x1000 true true true true false false false)] }) (cpu 0 { g := [(1, 0x2000)] } [cw 0x83 0 (0) 33])) 0)), by dsimp only; decide +kernel⟩,
   ⟨({ (cpu 0 { g := [(1, 0x2000)] } [cw 0x83 0 (0) 33]) with ecc := [0x400] }), fetched ({ (cpu 0 { g := [(1, 0x2000)] } [cw 0x83 0 (0) 33]) with ecc := [0x400] }) 0, 0, cw 0x83 0 (0) 33, by dsimp only; decide +kernel⟩,
   ⟨(cpu 0 { g := [(1, 0x2000)] } [cw 0x83 0 (0) 33]), fetched ((cpu 0 { g := [(1, 0x2000)] } [cw 0x83 0 (0) 33])) 0, 0, cw 0x83 0 (0) 33, by dsimp only; decide +kernel⟩,
   ⟨({ (cpu 8 { g := [(1, 0x80010000)] } [cw 0x83 0 (0) 33]) with ecc := [0x10002000] }), fetched ({ (cpu 8 { g := [(1, 0x80010000)] } [cw 0x83 0 (0) 33]) with ecc := [0x10002000] }) 8, 8, cw 0x83 0 (0) 33, by dsimp only; decide +kernel⟩,
   ⟨(cpu 8 { g := [(1, 0x80010000)] } [cw 0x83 0 (0) 33]), fetched ((cpu 8 { g := [(1, 0x80010000)] } [cw 0x83 0 (0) 33])) 8, 8, cw 0x83 0 (0) 33, by dsimp only; decide +kernel⟩,
   ⟨(cpu 8 { g := [(1, 0x80040000)] } [cw 0x83 0 (0) 33]), fetched ((cpu 8 { g := [(1, 0x80040000)] } [cw 0x83 0 (0) 33])) 8, 8, cw 0x83 0 (0) 33, [0, 0, 0, 0, 0, 0, 0, 0], (cpu 8 { g := [(1, 0x80040000)] } [cw 0x83 0 (0) 33]), by dsimp only; decide +kernel⟩,
   ⟨(cpu 8 { g := [(1, 0x80000000)] } [cw 0x83 0 (0) 33]), fetched ((cpu 8 { g := [(1, 0x80000000)] } [cw 0x83 0 (0) 33])) 8, 8, cw 0x83 0 (0) 33, by dsimp only; decide +kernel⟩⟩

/-- CoreRegisters. -/
theorem wit_core_registers :
  (∃ (s : State) (u : State) (c : Nat) (w : Word) (i : _),
    let fields := fRB w = 0 ∧ fI w = false ∧ fMOD w < 2
    fetches s c w u = true ∧ c < 9 ∧ ((opc w = 0xB0 ∧ i = Instr.crr c) ∨ (opc w = 0xB1 ∧ i = Instr.crw c)) ∧ ¬ fields) ∧
  (∃ (s : State) (u : State) (c : Nat) (w : Word) (i : _),
    let k := getCore u c
    let a := getG k (fRA w) + fIMM w
    let size := if fMOD w = 1 then 8 else 4
    let fields := fRB w = 0 ∧ fI w = false ∧ fMOD w < 2
    fetches s c w u = true ∧ c < 9 ∧ ((opc w = 0xB0 ∧ i = Instr.crr c) ∨ (opc w = 0xB1 ∧ i = Instr.crw c)) ∧ fields ∧
    a.toNat % size ≠ 0) ∧
  (∃ (s : State) (u : State) (c : Nat) (w : Word) (i : _),
    let k := getCore u c
    let a := getG k (fRA w) + fIMM w
    let size := if fMOD w = 1 then 8 else 4
    let fields := fRB w = 0 ∧ fI w = false ∧ fMOD w < 2
    fetches s c w u = true ∧ c < 9 ∧ ((opc w = 0xB0 ∧ i = Instr.crr c) ∨ (opc w = 0xB1 ∧ i = Instr.crw c)) ∧ fields ∧
    a.toNat % size = 0 ∧ 0x4000000 ≤ a.toNat) ∧
  (∃ (s : State) (u : State) (c : Nat) (w : Word),
    let k := getCore u c
    let a := getG k (fRA w) + fIMM w
    let size := if fMOD w = 1 then 8 else 4
    let fields := fRB w = 0 ∧ fI w = false ∧ fMOD w < 2
    fetches s c w u = true ∧ c < 9 ∧ opc w = 0xB0 ∧ fields ∧ a.toNat % size = 0 ∧ a.toNat < 0x4000000 ∧ fMOD w = 0) ∧
  (∃ (s : State) (u : State) (c : Nat) (w : Word),
    let k := getCore u c
    let a := getG k (fRA w) + fIMM w
    let size := if fMOD w = 1 then 8 else 4
    let fields := fRB w = 0 ∧ fI w = false ∧ fMOD w < 2
    fetches s c w u = true ∧ c < 9 ∧ opc w = 0xB0 ∧ fields ∧ a.toNat % size = 0 ∧ a.toNat < 0x4000000 ∧ fMOD w = 1) ∧
  (∃ (s : State) (u : State) (c : Nat) (w : Word),
    let k := getCore u c
    let a := getG k (fRA w) + fIMM w
    let size := if fMOD w = 1 then 8 else 4
    let fields := fRB w = 0 ∧ fI w = false ∧ fMOD w < 2
    fetches s c w u = true ∧ c < 9 ∧ opc w = 0xB1 ∧ fields ∧ a.toNat % size = 0 ∧ a.toNat < 0x4000000) ∧
  (∃ (s : State) (u : State) (c : Nat) (w : Word),
    let fields := fRB w = 0 ∧ fI w = false ∧ fMOD w < 2
    let n := fld w 16 8
    let good := fields ∧ fld w 24 24 = 0 ∧ n < 12
    fetches s c w u = true ∧ c < 9 ∧ opc w = 0xB2 ∧ ¬ good) ∧
  (∃ (s : State) (u : State) (c : Nat) (w : Word),
    let fields := fRB w = 0 ∧ fI w = false ∧ fMOD w < 2
    let n := fld w 16 8
    let good := fields ∧ fld w 24 24 = 0 ∧ n < 12
    fetches s c w u = true ∧ c < 9 ∧ opc w = 0xB2 ∧ good ∧ fMOD w = 0) ∧
  (∃ (s : State) (u : State) (c : Nat) (w : Word),
    let fields := fRB w = 0 ∧ fI w = false ∧ fMOD w < 2
    let n := fld w 16 8
    let good := fields ∧ fld w 24 24 = 0 ∧ n < 12
    fetches s c w u = true ∧ c < 9 ∧ opc w = 0xB2 ∧ good ∧ fMOD w = 1) ∧
  (∃ (s : State) (u : State) (c : Nat) (w : Word),
    let k := getCore u c
    let mask := getG k (fRA w)
    let good := fRB w = 0 ∧ fI w = false ∧ fIMM w = 0 ∧ fMOD w = 0 ∧ mask ≠ 0
    fetches s c w u = true ∧ c < 9 ∧ opc w = 0xC0 ∧ ¬ good) ∧
  (∃ (s : State) (u : State) (c : Nat) (w : Word),
    let k := getCore u c
    let E (x : State) : Word := (if c = 8 then x.ctl.evpendk.zeroExtend 64
     else if c = x.ctl.evcore.toNat then x.ctl.evpends.zeroExtend 64 else 0) ||| put 64 (getCore x c).lev 32
    let mask := getG k (fRA w)
    let good := fRB w = 0 ∧ fI w = false ∧ fIMM w = 0 ∧ fMOD w = 0 ∧ mask ≠ 0
    fetches s c w u = true ∧ c < 9 ∧ opc w = 0xC0 ∧ good ∧ E u &&& mask ≠ 0) ∧
  (∃ (s : State) (u : State) (c : Nat) (w : Word),
    let k := getCore u c
    let E (x : State) : Word := (if c = 8 then x.ctl.evpendk.zeroExtend 64
     else if c = x.ctl.evcore.toNat then x.ctl.evpends.zeroExtend 64 else 0) ||| put 64 (getCore x c).lev 32
    let mask := getG k (fRA w)
    let good := fRB w = 0 ∧ fI w = false ∧ fIMM w = 0 ∧ fMOD w = 0 ∧ mask ≠ 0
    fetches s c w u = true ∧ c < 9 ∧ opc w = 0xC0 ∧ good ∧ E u &&& mask = 0) ∧
  (∃ (s : State) (u : State) (c : Nat) (w : Word) (x : State) (mask : _) (rd : _),
    let E (x : State) : Word := (if c = 8 then x.ctl.evpendk.zeroExtend 64
     else if c = x.ctl.evcore.toNat then x.ctl.evpends.zeroExtend 64 else 0) ||| put 64 (getCore x c).lev 32
    fetches s c w u = true ∧ c < 9 ∧ x.inReset = false ∧ (getCore x c).wait = some (mask, rd) ∧ E x &&& mask = 0) ∧
  (∃ (s : State) (u : State) (c : Nat) (w : Word) (x : State) (mask : _) (rd : _),
    let E (x : State) : Word := (if c = 8 then x.ctl.evpendk.zeroExtend 64
     else if c = x.ctl.evcore.toNat then x.ctl.evpends.zeroExtend 64 else 0) ||| put 64 (getCore x c).lev 32
    fetches s c w u = true ∧ c < 9 ∧ x.inReset = false ∧ (getCore x c).wait = some (mask, rd) ∧ E x &&& mask ≠ 0) ∧
  (∃ (s : State) (u : State) (c : Nat) (w : Word) (x : State),
    fetches s c w u = true ∧ c < 9 ∧ x.inReset = false) :=
  ⟨⟨(cpu 0 {  } [cw 0xB0 2 (0) 3]), fetched ((cpu 0 {  } [cw 0xB0 2 (0) 3])) 0, 0, cw 0xB0 2 (0) 3, .crr 0, by dsimp only; decide +kernel⟩,
   ⟨(cpu 0 {  } [cw 0xB0 0 (2) 3]), fetched ((cpu 0 {  } [cw 0xB0 0 (2) 3])) 0, 0, cw 0xB0 0 (2) 3, .crr 0, by dsimp only; decide +kernel⟩,
   ⟨(cpu 0 {  } [cw 0xB0 0 (67108864) 3]), fetched ((cpu 0 {  } [cw 0xB0 0 (67108864) 3])) 0, 0, cw 0xB0 0 (67108864) 3, .crr 0, by dsimp only; decide +kernel⟩,
   ⟨(cpu 0 {  } [cw 0xB0 0 (0) 3]), fetched ((cpu 0 {  } [cw 0xB0 0 (0) 3])) 0, 0, cw 0xB0 0 (0) 3, by dsimp only; decide +kernel⟩,
   ⟨(cpu 0 {  } [cw 0xB0 1 (0) 3]), fetched ((cpu 0 {  } [cw 0xB0 1 (0) 3])) 0, 0, cw 0xB0 1 (0) 3, by dsimp only; decide +kernel⟩,
   ⟨(cpu 0 {  } [cw 0xB1 0 (0) 3]), fetched ((cpu 0 {  } [cw 0xB1 0 (0) 3])) 0, 0, cw 0xB1 0 (0) 3, by dsimp only; decide +kernel⟩,
   ⟨(cpu 0 {  } [cw 0xB2 0 (12) 3]), fetched ((cpu 0 {  } [cw 0xB2 0 (12) 3])) 0, 0, cw 0xB2 0 (12) 3, by dsimp only; decide +kernel⟩,
   ⟨(cpu 0 {  } [cw 0xB2 0 (0) 3]), fetched ((cpu 0 {  } [cw 0xB2 0 (0) 3])) 0, 0, cw 0xB2 0 (0) 3, by dsimp only; decide +kernel⟩,
   ⟨(cpu 0 {  } [cw 0xB2 1 (0) 3]), fetched ((cpu 0 {  } [cw 0xB2 1 (0) 3])) 0, 0, cw 0xB2 1 (0) 3, by dsimp only; decide +kernel⟩,
   ⟨(cpu 0 {  } [cw 0xC0 0 (0) 3]), fetched ((cpu 0 {  } [cw 0xC0 0 (0) 3])) 0, 0, cw 0xC0 0 (0) 3, by dsimp only; decide +kernel⟩,
   ⟨(cpu 0 { g := [(1, 0x100000000)], lev := 1 } [cw 0xC0 0 (0) 32]), fetched ((cpu 0 { g := [(1, 0x100000000)], lev := 1 } [cw 0xC0 0 (0) 32])) 0, 0, cw 0xC0 0 (0) 32, by dsimp only; decide +kernel⟩,
   ⟨(cpu 0 { g := [(1, 0x100000000)] } [cw 0xC0 0 (0) 32]), fetched ((cpu 0 { g := [(1, 0x100000000)] } [cw 0xC0 0 (0) 32])) 0, 0, cw 0xC0 0 (0) 32, by dsimp only; decide +kernel⟩,
   ⟨(cpu 0 {  } [cw 0xB0 0 (0) 0]), fetched ((cpu 0 {  } [cw 0xB0 0 (0) 0])) 0, 0, cw 0xB0 0 (0) 0, cpu 0 { wait := some (1, 3) } [], 1, 3, by dsimp only; decide +kernel⟩,
   ⟨(cpu 0 {  } [cw 0xB0 0 (0) 0]), fetched ((cpu 0 {  } [cw 0xB0 0 (0) 0])) 0, 0, cw 0xB0 0 (0) 0, cpu 0 { wait := some (0x100000000, 3), lev := 1 } [], 0x100000000, 3, by dsimp only; decide +kernel⟩,
   ⟨(cpu 0 {  } [cw 0xB0 0 (0) 0]), fetched ((cpu 0 {  } [cw 0xB0 0 (0) 0])) 0, 0, cw 0xB0 0 (0) 0, up, by decide +kernel⟩⟩

/-- CoreMailboxes. -/
theorem wit_core_mailboxes :
  (∃ (s : State) (u : State) (c : Nat) (w : Word),
    let m := fld w 16 4
    let r := fRD w
    let q : Requester := if c = 8 then .kc else .cc c
    let op := fMOD w
    let role := if op % 4 = 0 ∨ op % 4 = 3 then mbxSender m q else mbxReceiver m q
    let good := fRA w = 0 ∧ fRB w = 0 ∧ fI w = false ∧ fld w 20 28 = 0 ∧ op < 4 ∧ m ≤ 10 ∧ 1 ≤ r ∧ r ≤ 24 ∧ role = true
    fetches s c w u = true ∧ opc w = 0xC8 ∧ ¬ good) ∧
  (∃ (s : State) (u : State) (c : Nat) (w : Word),
    let m := fld w 16 4
    let r := fRD w
    let q : Requester := if c = 8 then .kc else .cc c
    let op := fMOD w
    let role := if op % 4 = 0 ∨ op % 4 = 3 then mbxSender m q else mbxReceiver m q
    let good := fRA w = 0 ∧ fRB w = 0 ∧ fI w = false ∧ fld w 20 28 = 0 ∧ op < 4 ∧ m ≤ 10 ∧ 1 ≤ r ∧ r ≤ 24 ∧ role = true
    fetches s c w u = true ∧ opc w = 0xC8 ∧ good ∧ op = 0 ∧ (getMbx u m).busy = true) ∧
  (∃ (s : State) (u : State) (c : Nat) (w : Word),
    let m := fld w 16 4
    let r := fRD w
    let q : Requester := if c = 8 then .kc else .cc c
    let op := fMOD w
    let role := if op % 4 = 0 ∨ op % 4 = 3 then mbxSender m q else mbxReceiver m q
    let good := fRA w = 0 ∧ fRB w = 0 ∧ fI w = false ∧ fld w 20 28 = 0 ∧ op < 4 ∧ m ≤ 10 ∧ 1 ≤ r ∧ r ≤ 24 ∧ role = true
    fetches s c w u = true ∧ opc w = 0xC8 ∧ good ∧ op = 0 ∧ (getMbx u m).busy = false) ∧
  (∃ (s : State) (u : State) (c : Nat) (w : Word),
    let m := fld w 16 4
    let r := fRD w
    let q : Requester := if c = 8 then .kc else .cc c
    let op := fMOD w
    let role := if op % 4 = 0 ∨ op % 4 = 3 then mbxSender m q else mbxReceiver m q
    let good := fRA w = 0 ∧ fRB w = 0 ∧ fI w = false ∧ fld w 20 28 = 0 ∧ op < 4 ∧ m ≤ 10 ∧ 1 ≤ r ∧ r ≤ 24 ∧ role = true
    fetches s c w u = true ∧ opc w = 0xC8 ∧ good ∧ op = 1 ∧ (getMbx u m).busy = false) ∧
  (∃ (s : State) (u : State) (c : Nat) (w : Word),
    let m := fld w 16 4
    let r := fRD w
    let q : Requester := if c = 8 then .kc else .cc c
    let op := fMOD w
    let role := if op % 4 = 0 ∨ op % 4 = 3 then mbxSender m q else mbxReceiver m q
    let good := fRA w = 0 ∧ fRB w = 0 ∧ fI w = false ∧ fld w 20 28 = 0 ∧ op < 4 ∧ m ≤ 10 ∧ 1 ≤ r ∧ r ≤ 24 ∧ role = true
    fetches s c w u = true ∧ opc w = 0xC8 ∧ good ∧ op = 1 ∧ (getMbx u m).busy = true) ∧
  (∃ (s : State) (u : State) (c : Nat) (w : Word),
    let m := fld w 16 4
    let r := fRD w
    let q : Requester := if c = 8 then .kc else .cc c
    let op := fMOD w
    let role := if op % 4 = 0 ∨ op % 4 = 3 then mbxSender m q else mbxReceiver m q
    let good := fRA w = 0 ∧ fRB w = 0 ∧ fI w = false ∧ fld w 20 28 = 0 ∧ op < 4 ∧ m ≤ 10 ∧ 1 ≤ r ∧ r ≤ 24 ∧ role = true
    fetches s c w u = true ∧ opc w = 0xC8 ∧ good ∧ op = 2 ∧ (getMbx u m).busy = false) ∧
  (∃ (s : State) (u : State) (c : Nat) (w : Word),
    let m := fld w 16 4
    let r := fRD w
    let q : Requester := if c = 8 then .kc else .cc c
    let op := fMOD w
    let role := if op % 4 = 0 ∨ op % 4 = 3 then mbxSender m q else mbxReceiver m q
    let good := fRA w = 0 ∧ fRB w = 0 ∧ fI w = false ∧ fld w 20 28 = 0 ∧ op < 4 ∧ m ≤ 10 ∧ 1 ≤ r ∧ r ≤ 24 ∧ role = true
    fetches s c w u = true ∧ opc w = 0xC8 ∧ good ∧ op = 2 ∧ (getMbx u m).busy = true ∧ m ≠ 9) ∧
  (∃ (s : State) (u : State) (c : Nat) (w : Word),
    let m := fld w 16 4
    let r := fRD w
    let q : Requester := if c = 8 then .kc else .cc c
    let op := fMOD w
    let role := if op % 4 = 0 ∨ op % 4 = 3 then mbxSender m q else mbxReceiver m q
    let good := fRA w = 0 ∧ fRB w = 0 ∧ fI w = false ∧ fld w 20 28 = 0 ∧ op < 4 ∧ m ≤ 10 ∧ 1 ≤ r ∧ r ≤ 24 ∧ role = true
    fetches s c w u = true ∧ opc w = 0xC8 ∧ good ∧ op = 2 ∧ (getMbx u m).busy = true ∧ m = 9 ∧ u.ctl.noticed = none ∧
    u.ctl.notices = []) ∧
  (∃ (s : State) (u : State) (c : Nat) (w : Word),
    let m := fld w 16 4
    let r := fRD w
    let q : Requester := if c = 8 then .kc else .cc c
    let op := fMOD w
    let role := if op % 4 = 0 ∨ op % 4 = 3 then mbxSender m q else mbxReceiver m q
    let good := fRA w = 0 ∧ fRB w = 0 ∧ fI w = false ∧ fld w 20 28 = 0 ∧ op < 4 ∧ m ≤ 10 ∧ 1 ≤ r ∧ r ≤ 24 ∧ role = true
    fetches s c w u = true ∧ opc w = 0xC8 ∧ good ∧ op = 3 ∧ (getMbx u m).done = false) ∧
  (∃ (s : State) (u : State) (c : Nat) (w : Word),
    let m := fld w 16 4
    let r := fRD w
    let q : Requester := if c = 8 then .kc else .cc c
    let op := fMOD w
    let role := if op % 4 = 0 ∨ op % 4 = 3 then mbxSender m q else mbxReceiver m q
    let good := fRA w = 0 ∧ fRB w = 0 ∧ fI w = false ∧ fld w 20 28 = 0 ∧ op < 4 ∧ m ≤ 10 ∧ 1 ≤ r ∧ r ≤ 24 ∧ role = true
    fetches s c w u = true ∧ opc w = 0xC8 ∧ good ∧ op = 3 ∧ (getMbx u m).done = true) :=
  ⟨⟨(cpu 0 {  } [cw 0xC8 0 (0) 0]), fetched ((cpu 0 {  } [cw 0xC8 0 (0) 0])) 0, 0, cw 0xC8 0 (0) 0, by dsimp only; decide +kernel⟩,
   ⟨(modMbx 0 (fun m => { m with busy := true }) (cpu 0 {  } [cw 0xC8 0 (0) 1])), fetched ((modMbx 0 (fun m => { m with busy := true }) (cpu 0 {  } [cw 0xC8 0 (0) 1]))) 0, 0, cw 0xC8 0 (0) 1, by dsimp only; decide +kernel⟩,
   ⟨(cpu 0 {  } [cw 0xC8 0 (0) 1]), fetched ((cpu 0 {  } [cw 0xC8 0 (0) 1])) 0, 0, cw 0xC8 0 (0) 1, by dsimp only; decide +kernel⟩,
   ⟨(cpu 0 {  } [cw 0xC8 1 (9) 1]), fetched ((cpu 0 {  } [cw 0xC8 1 (9) 1])) 0, 0, cw 0xC8 1 (9) 1, by dsimp only; decide +kernel⟩,
   ⟨(modMbx 9 (fun m => { m with busy := true }) (cpu 0 {  } [cw 0xC8 1 (9) 1])), fetched ((modMbx 9 (fun m => { m with busy := true }) (cpu 0 {  } [cw 0xC8 1 (9) 1]))) 0, 0, cw 0xC8 1 (9) 1, by dsimp only; decide +kernel⟩,
   ⟨(cpu 0 {  } [cw 0xC8 2 (9) 1]), fetched ((cpu 0 {  } [cw 0xC8 2 (9) 1])) 0, 0, cw 0xC8 2 (9) 1, by dsimp only; decide +kernel⟩,
   ⟨(modMbx 10 (fun m => { m with busy := true }) (cpu 0 {  } [cw 0xC8 2 (10) 1])), fetched ((modMbx 10 (fun m => { m with busy := true }) (cpu 0 {  } [cw 0xC8 2 (10) 1]))) 0, 0, cw 0xC8 2 (10) 1, by dsimp only; decide +kernel⟩,
   ⟨(modMbx 9 (fun m => { m with busy := true }) (cpu 0 {  } [cw 0xC8 2 (9) 1])), fetched ((modMbx 9 (fun m => { m with busy := true }) (cpu 0 {  } [cw 0xC8 2 (9) 1]))) 0, 0, cw 0xC8 2 (9) 1, by dsimp only; decide +kernel⟩,
   ⟨(cpu 0 {  } [cw 0xC8 3 (0) 1]), fetched ((cpu 0 {  } [cw 0xC8 3 (0) 1])) 0, 0, cw 0xC8 3 (0) 1, by dsimp only; decide +kernel⟩,
   ⟨(modMbx 0 (fun m => { m with done := true }) (cpu 0 {  } [cw 0xC8 3 (0) 1])), fetched ((modMbx 0 (fun m => { m with done := true }) (cpu 0 {  } [cw 0xC8 3 (0) 1]))) 0, 0, cw 0xC8 3 (0) 1, by dsimp only; decide +kernel⟩⟩

/-- ServiceCalls. -/
theorem wit_service_calls :
  (∃ (s : State) (u : State) (c : Nat) (w : Word),
    let op := fMOD w
    let good := fRB w = 0 ∧ fI w = false ∧ op < 4 ∧ (op ≠ 1 → fIMM w = 0) ∧ (op = 0 → 1 ≤ fRA w ∧ fRA w ≤ 24) ∧
     (op = 1 → fld w 16 5 ≤ 16 ∧ fld w 21 27 = 0)
    fetches s c w u = true ∧ opc w = 0xD0 ∧ ¬ good) ∧
  (∃ (s : State) (u : State) (c : Nat) (w : Word),
    let op := fMOD w
    let good := fRB w = 0 ∧ fI w = false ∧ op < 4 ∧ (op ≠ 1 → fIMM w = 0) ∧ (op = 0 → 1 ≤ fRA w ∧ fRA w ≤ 24) ∧
     (op = 1 → fld w 16 5 ≤ 16 ∧ fld w 21 27 = 0)
    fetches s c w u = true ∧ opc w = 0xD0 ∧ good ∧ op = 0 ∧ (∀ j, j < 4 → (getSvc u c j).st ≠ .free)) ∧
  (∃ (s : State) (u : State) (c : Nat) (w : Word) (n : _),
    let op := fMOD w
    let good := fRB w = 0 ∧ fI w = false ∧ op < 4 ∧ (op ≠ 1 → fIMM w = 0) ∧ (op = 0 → 1 ≤ fRA w ∧ fRA w ≤ 24) ∧
     (op = 1 → fld w 16 5 ≤ 16 ∧ fld w 21 27 = 0)
    fetches s c w u = true ∧ opc w = 0xD0 ∧ good ∧ op = 0 ∧ n < 4 ∧ (getSvc u c n).st = .free ∧
    (∀ j, j < n → (getSvc u c j).st ≠ .free)) ∧
  (∃ (s : State) (u : State) (c : Nat) (w : Word),
    let op := fMOD w
    let good := fRB w = 0 ∧ fI w = false ∧ op < 4 ∧ (op ≠ 1 → fIMM w = 0) ∧ (op = 0 → 1 ≤ fRA w ∧ fRA w ≤ 24) ∧
     (op = 1 → fld w 16 5 ≤ 16 ∧ fld w 21 27 = 0)
    fetches s c w u = true ∧ opc w = 0xD0 ∧ good ∧ op = 1) ∧
  (∃ (s : State) (u : State) (c : Nat) (w : Word),
    let k := getCore u c
    let op := fMOD w
    let slot := fld (getG k (fRA w)) 0 2
    let v := getSvc u c slot
    let good := fRB w = 0 ∧ fI w = false ∧ op < 4 ∧ (op ≠ 1 → fIMM w = 0) ∧ (op = 0 → 1 ≤ fRA w ∧ fRA w ≤ 24) ∧
     (op = 1 → fld w 16 5 ≤ 16 ∧ fld w 21 27 = 0)
    fetches s c w u = true ∧ opc w = 0xD0 ∧ good ∧ op = 2 ∧ v.st ≠ .done) ∧
  (∃ (s : State) (u : State) (c : Nat) (w : Word),
    let k := getCore u c
    let op := fMOD w
    let slot := fld (getG k (fRA w)) 0 2
    let v := getSvc u c slot
    let good := fRB w = 0 ∧ fI w = false ∧ op < 4 ∧ (op ≠ 1 → fIMM w = 0) ∧ (op = 0 → 1 ≤ fRA w ∧ fRA w ≤ 24) ∧
     (op = 1 → fld w 16 5 ≤ 16 ∧ fld w 21 27 = 0)
    fetches s c w u = true ∧ opc w = 0xD0 ∧ good ∧ op = 2 ∧ v.st = .done) ∧
  (∃ (s : State) (u : State) (c : Nat) (w : Word),
    let k := getCore u c
    let op := fMOD w
    let slot := fld (getG k (fRA w)) 0 2
    let v := getSvc u c slot
    let good := fRB w = 0 ∧ fI w = false ∧ op < 4 ∧ (op ≠ 1 → fIMM w = 0) ∧ (op = 0 → 1 ≤ fRA w ∧ fRA w ≤ 24) ∧
     (op = 1 → fld w 16 5 ≤ 16 ∧ fld w 21 27 = 0)
    fetches s c w u = true ∧ opc w = 0xD0 ∧ good ∧ op = 3 ∧ (v.st ≠ .busy ∨ fld (v.block.getD 0 0) 0 4 ≠ 0)) ∧
  (∃ (s : State) (u : State) (c : Nat) (w : Word),
    let k := getCore u c
    let op := fMOD w
    let slot := fld (getG k (fRA w)) 0 2
    let v := getSvc u c slot
    let good := fRB w = 0 ∧ fI w = false ∧ op < 4 ∧ (op ≠ 1 → fIMM w = 0) ∧ (op = 0 → 1 ≤ fRA w ∧ fRA w ≤ 24) ∧
     (op = 1 → fld w 16 5 ≤ 16 ∧ fld w 21 27 = 0)
    fetches s c w u = true ∧ opc w = 0xD0 ∧ good ∧ op = 3 ∧ v.st = .busy ∧ fld (v.block.getD 0 0) 0 4 = 0 ∧
    (∀ x ∈ u.eng, x.2.hold ≠ .work c slot)) ∧
  (∃ (s : State) (u : State) (c : Nat) (w : Word) (e : _) (x : _),
    let k := getCore u c
    let op := fMOD w
    let slot := fld (getG k (fRA w)) 0 2
    let v := getSvc u c slot
    let good := fRB w = 0 ∧ fI w = false ∧ op < 4 ∧ (op ≠ 1 → fIMM w = 0) ∧ (op = 0 → 1 ≤ fRA w ∧ fRA w ≤ 24) ∧
     (op = 1 → fld w 16 5 ≤ 16 ∧ fld w 21 27 = 0)
    fetches s c w u = true ∧ opc w = 0xD0 ∧ good ∧ op = 3 ∧ v.st = .busy ∧ fld (v.block.getD 0 0) 0 4 = 0 ∧
    u.eng.find? (fun e => e.2.hold == .work c slot) = some (e, x) ∧ (getEng u e).stop ≠ .fn) :=
  ⟨⟨(cpu 0 {  } [cw 0xD0 4 (0) 32]), fetched ((cpu 0 {  } [cw 0xD0 4 (0) 32])) 0, 0, cw 0xD0 4 (0) 32, by dsimp only; decide +kernel⟩,
   ⟨(cpu 0 { svc0 := { st := .busy }, svc1 := { st := .busy }, svc2 := { st := .busy }, svc3 := { st := .busy } } [cw 0xD0 0 (0) 32]), fetched ((cpu 0 { svc0 := { st := .busy }, svc1 := { st := .busy }, svc2 := { st := .busy }, svc3 := { st := .busy } } [cw 0xD0 0 (0) 32])) 0, 0, cw 0xD0 0 (0) 32, by dsimp only; decide +kernel⟩,
   ⟨(cpu 0 {  } [cw 0xD0 0 (0) 32]), fetched ((cpu 0 {  } [cw 0xD0 0 (0) 32])) 0, 0, cw 0xD0 0 (0) 32, 0, by dsimp only; decide +kernel⟩,
   ⟨(cpu 0 {  } [cw 0xD0 1 (16) 32]), fetched ((cpu 0 {  } [cw 0xD0 1 (16) 32])) 0, 0, cw 0xD0 1 (16) 32, by dsimp only; decide +kernel⟩,
   ⟨(cpu 0 {  } [cw 0xD0 2 (0) 32]), fetched ((cpu 0 {  } [cw 0xD0 2 (0) 32])) 0, 0, cw 0xD0 2 (0) 32, by dsimp only; decide +kernel⟩,
   ⟨(cpu 0 { svc0 := { st := .done } } [cw 0xD0 2 (0) 32]), fetched ((cpu 0 { svc0 := { st := .done } } [cw 0xD0 2 (0) 32])) 0, 0, cw 0xD0 2 (0) 32, by dsimp only; decide +kernel⟩,
   ⟨(cpu 0 {  } [cw 0xD0 3 (0) 32]), fetched ((cpu 0 {  } [cw 0xD0 3 (0) 32])) 0, 0, cw 0xD0 3 (0) 32, by dsimp only; decide +kernel⟩,
   ⟨(cpu 0 { svc0 := { st := .busy } } [cw 0xD0 3 (0) 32]), fetched ((cpu 0 { svc0 := { st := .busy } } [cw 0xD0 3 (0) 32])) 0, 0, cw 0xD0 3 (0) 32, by dsimp only; decide +kernel⟩,
   ⟨(modEng 5 (fun x => { x with hold := .work 0 0 }) (cpu 0 { svc0 := { st := .busy } } [cw 0xD0 3 (0) 32])), fetched ((modEng 5 (fun x => { x with hold := .work 0 0 }) (cpu 0 { svc0 := { st := .busy } } [cw 0xD0 3 (0) 32]))) 0, 0, cw 0xD0 3 (0) 32, 5, getEng ((modEng 5 (fun x => { x with hold := .work 0 0 }) (cpu 0 { svc0 := { st := .busy } } [cw 0xD0 3 (0) 32]))) 5, by dsimp only; decide +kernel⟩⟩

/-- Services. -/
theorem wit_services :
  (∃ (s : State) (c : Nat) (slot : Nat),
    let v := getSvc s c slot
    let word (i : Nat) : Word := v.block.getD i 0
    let kind := fld (word 0) 0 4
    live s = true ∧ tested s islDsp = false ∧ c < 9 ∧ slot < 4 ∧ (getSvc s c slot).st = .busy ∧
    (getSvc s c slot).taken = false ∧ kind = 0) ∧
  (∃ (s : State) (c : Nat) (slot : Nat),
    let v := getSvc s c slot
    let word (i : Nat) : Word := v.block.getD i 0
    let kind := fld (word 0) 0 4
    let ch := fld (word 1) 0 23
    live s = true ∧ tested s islDsp = false ∧ c < 9 ∧ slot < 4 ∧ (getSvc s c slot).st = .busy ∧
    (getSvc s c slot).taken = false ∧ kind = 1 ∧ chanPresent s ch = false) ∧
  (∃ (s : State) (c : Nat) (slot : Nat),
    let v := getSvc s c slot
    let word (i : Nat) : Word := v.block.getD i 0
    let kind := fld (word 0) 0 4
    let ch := fld (word 1) 0 23
    live s = true ∧ tested s islDsp = false ∧ c < 9 ∧ slot < 4 ∧ (getSvc s c slot).st = .busy ∧
    (getSvc s c slot).taken = false ∧ kind = 1 ∧ chanPresent s ch = true) ∧
  (∃ (s : State) (c : Nat) (slot : Nat),
    let v := getSvc s c slot
    let word (i : Nat) : Word := v.block.getD i 0
    let kind := fld (word 0) 0 4
    let ch := fld (word 1) 0 23
    let i := fld (word 1) 24 4
    let mask := word 3
    let lawful := if i = 0 then mask &&& ~~~0x00FFF00000FFFF40 = 0 else if 10 ≤ i ∧ i ≤ 14 then True else mask = 0
    live s = true ∧ tested s islDsp = false ∧ c < 9 ∧ slot < 4 ∧ (getSvc s c slot).st = .busy ∧
    (getSvc s c slot).taken = false ∧ kind = 2 ∧ s.dsp.ctxwr = [] ∧ mayIssue s = true ∧
    (chanPresent s ch = false ∨ ¬ lawful)) ∧
  (∃ (s : State) (c : Nat) (slot : Nat),
    let v := getSvc s c slot
    let word (i : Nat) : Word := v.block.getD i 0
    let kind := fld (word 0) 0 4
    let ch := fld (word 1) 0 23
    let x := getCtx s ch
    let i := fld (word 1) 24 4
    let mask := word 3
    let lawful := if i = 0 then mask &&& ~~~0x00FFF00000FFFF40 = 0 else if 10 ≤ i ∧ i ≤ 14 then True else mask = 0
    live s = true ∧ tested s islDsp = false ∧ c < 9 ∧ slot < 4 ∧ (getSvc s c slot).st = .busy ∧
    (getSvc s c slot).taken = false ∧ kind = 2 ∧ s.dsp.ctxwr = [] ∧ mayIssue s = true ∧ chanPresent s ch = true ∧ lawful ∧
    x.st ≠ .idle ∧ x.st ≠ .stopped) ∧
  (∃ (s : State) (c : Nat) (slot : Nat),
    let v := getSvc s c slot
    let word (i : Nat) : Word := v.block.getD i 0
    let kind := fld (word 0) 0 4
    let ch := fld (word 1) 0 23
    let x := getCtx s ch
    let i := fld (word 1) 24 4
    let value := word 2
    let mask := word 3
    let lawful := if i = 0 then mask &&& ~~~0x00FFF00000FFFF40 = 0 else if 10 ≤ i ∧ i ≤ 14 then True else mask = 0
    let y := ctxMasked i value mask x
    let moves := y.ov ≠ x.ov ∨ y.owner ≠ x.owner
    live s = true ∧ tested s islDsp = false ∧ c < 9 ∧ slot < 4 ∧ (getSvc s c slot).st = .busy ∧
    (getSvc s c slot).taken = false ∧ kind = 2 ∧ s.dsp.ctxwr = [] ∧ mayIssue s = true ∧ chanPresent s ch = true ∧ lawful ∧
    (x.st = .idle ∨ x.st = .stopped) ∧ ¬ moves) ∧
  (∃ (s : State) (c : Nat) (slot : Nat),
    let v := getSvc s c slot
    let word (i : Nat) : Word := v.block.getD i 0
    let kind := fld (word 0) 0 4
    let ch := fld (word 1) 0 23
    let x := getCtx s ch
    let i := fld (word 1) 24 4
    let value := word 2
    let mask := word 3
    let lawful := if i = 0 then mask &&& ~~~0x00FFF00000FFFF40 = 0 else if 10 ≤ i ∧ i ≤ 14 then True else mask = 0
    let y := ctxMasked i value mask x
    let moves := y.ov ≠ x.ov ∨ y.owner ≠ x.owner
    live s = true ∧ tested s islDsp = false ∧ c < 9 ∧ slot < 4 ∧ (getSvc s c slot).st = .busy ∧
    (getSvc s c slot).taken = false ∧ kind = 2 ∧ s.dsp.ctxwr = [] ∧ mayIssue s = true ∧ chanPresent s ch = true ∧ lawful ∧
    (x.st = .idle ∨ x.st = .stopped) ∧ moves) ∧
  (∃ (s : State) (c : Nat) (slot : Nat),
    let v := getSvc s c slot
    let word (i : Nat) : Word := v.block.getD i 0
    let kind := fld (word 0) 0 4
    let fn := fld (word 1) 0 12
    let m := (getFn s fn).mir
    live s = true ∧ tested s islDsp = false ∧ c < 9 ∧ slot < 4 ∧ (getSvc s c slot).st = .busy ∧
    (getSvc s c slot).taken = false ∧ kind = 3 ∧ fn < nFns s ∧ m.present = true ∧ m.pf = true) ∧
  (∃ (s : State) (c : Nat) (slot : Nat),
    let v := getSvc s c slot
    let word (i : Nat) : Word := v.block.getD i 0
    let kind := fld (word 0) 0 4
    let fn := fld (word 1) 0 12
    let m := (getFn s fn).mir
    live s = true ∧ tested s islDsp = false ∧ c < 9 ∧ slot < 4 ∧ (getSvc s c slot).st = .busy ∧
    (getSvc s c slot).taken = false ∧ kind = 3 ∧ (nFns s ≤ fn ∨ m.present = false ∨ m.pf = false)) ∧
  (∃ (s : State) (c : Nat) (slot : Nat) (q : State) (r : _) (wr : _) (rest : _),
    live s = true ∧ tested s islDsp = false ∧ c < 9 ∧ slot < 4 ∧ (getSvc s c slot).st = .busy ∧
    (getSvc s c slot).taken = false ∧ q.inReset = false ∧ tested q islDsp = false ∧
    q.lm.find? (fun r => r.purpose == .owncopy && decide (r.tag < 1024)) = some r ∧ q.dsp.ctxwr = wr :: rest) ∧
  (∃ (s : State) (c : Nat) (slot : Nat) (u : State) (chan : _),
    live s = true ∧ tested s islDsp = false ∧ c < 9 ∧ slot < 4 ∧ (getSvc s c slot).st = .busy ∧
    (getSvc s c slot).taken = false ∧ (∀ b ∈ u.dsp.behind, behindChan b ≠ chan)) ∧
  (∃ (s : State) (c : Nat) (slot : Nat) (u : State) (chan : _) (b : _),
    live s = true ∧ tested s islDsp = false ∧ c < 9 ∧ slot < 4 ∧ (getSvc s c slot).st = .busy ∧
    (getSvc s c slot).taken = false ∧ u.dsp.behind = [b] ∧ behindChan b = chan) :=
  ⟨⟨(cpu 0 { svc0 := { st := .busy, block := [0] } } []), 0, 0, by dsimp only; decide +kernel⟩,
   ⟨{ (cpu 0 { svc0 := { st := .busy, block := [1, 0x7FFFFF] } } []) with cfg := { compact := true } }, 0, 0, by dsimp only; decide +kernel⟩,
   ⟨(cpu 0 { svc0 := { st := .busy, block := [1, 2] } } []), 0, 0, by dsimp only; decide +kernel⟩,
   ⟨(cpu 0 { svc0 := { st := .busy, block := [2, 2, 0, 1] } } []), 0, 0, by dsimp only; decide +kernel⟩,
   ⟨(modCtx 2 (fun c => { c with st := .running }) (cpu 0 { svc0 := { st := .busy, block := [2, 2] } } [])), 0, 0, by dsimp only; decide +kernel⟩,
   ⟨(cpu 0 { svc0 := { st := .busy, block := [2, 2] } } []), 0, 0, by dsimp only; decide +kernel⟩,
   ⟨(cpu 0 { svc0 := { st := .busy, block := [2, 2, 256, 256] } } []), 0, 0, by dsimp only; decide +kernel⟩,
   ⟨(modFn 0 (fun f => { f with mir := { present := true, pf := true } }) (cpu 0 { svc0 := { st := .busy, block := [3] } } [])), 0, 0, by dsimp only; decide +kernel⟩,
   ⟨(cpu 0 { svc0 := { st := .busy, block := [3] } } []), 0, 0, by dsimp only; decide +kernel⟩,
   ⟨up |> (fun s => { s with core := [(0, { svc0 := { st := .busy } })] }), 0, 0, { modDsp (fun d => { d with ctxwr := [⟨0, 0, 2, 0, 0⟩] }) up with lm := [{ port := 0, tag := 7, op := .write, addr := 64, len := 8, purpose := .owncopy }] }, { port := 0, tag := 7, op := .write, addr := 64, len := 8, purpose := .owncopy }, ⟨0, 0, 2, 0, 0⟩, [], by decide +kernel⟩,
   ⟨(cpu 0 { svc0 := { st := .busy, block := [0] } } []), 0, 0, up, 2, by decide +kernel⟩,
   ⟨(cpu 0 { svc0 := { st := .busy, block := [0] } } []), 0, 0, modDsp (fun d => { d with behind := [.bell 1 2 5] }) up, 2, .bell 1 2 5, by decide +kernel⟩⟩

/-- RailSamples. -/
theorem wit_rail_samples :
  (∃ (s : State),
    s.inReset = false) :=
  ⟨up, by decide +kernel⟩

/-- DrainAndRecord. -/
theorem wit_drain_and_record :
  (∃ (s : State),
    let ended := drainWaits s = false ∨ min (max s.pf.drainlim.toNat 1) 24 * 1000 ≤ (s.time - s.pf.warnTime).toNat
    s.inReset = false ∧ ¬(s.pf.stage = .drain ∧ s.pf.cut = false ∧ ended)) ∧
  (∃ (s : State),
    let ended := drainWaits s = false ∨ min (max s.pf.drainlim.toNat 1) 24 * 1000 ≤ (s.time - s.pf.warnTime).toNat
    let up := s.ctl.bedrockRan = true ∧ ¬(s.ctl.phase = 9 ∧ s.ctl.err = 0x0A)
    s.inReset = false ∧ s.pf.stage = .drain ∧ s.pf.cut = false ∧ ended ∧ ¬up) ∧
  (∃ (s : State),
    let ended := drainWaits s = false ∨ min (max s.pf.drainlim.toNat 1) 24 * 1000 ≤ (s.time - s.pf.warnTime).toNat
    let up := s.ctl.bedrockRan = true ∧ ¬(s.ctl.phase = 9 ∧ s.ctl.err = 0x0A)
    s.inReset = false ∧ s.pf.stage = .drain ∧ s.pf.cut = false ∧ ended ∧ up ∧ s.pf.trace.length ≤ 256) ∧
  (∃ (s : State) (i : _) (x : _),
    s.inReset = false ∧ s.pf.stage = .hostcopy ∧
    (getHp s (s.pf.hspace.toNat - 1)).slots.find? (fun x => x.2.purpose == .cairn && x.2.quarUntil.isNone) = some (i, x)) :=
  ⟨⟨up, by dsimp only; decide +kernel⟩,
   ⟨modPf (fun p => { p with stage := .drain }) (modCtl (fun c => { c with phase := 3 }) ({ up with time := 24000 })), by dsimp only; decide +kernel⟩,
   ⟨modPf (fun p => { p with stage := .drain }) (modCtl (fun c => { c with bedrockRan := true }) ({ up with time := 24000 })), by dsimp only; decide +kernel⟩,
   ⟨modHp 0 (fun h => { h with slots := [(3, { fn := 1, addr := 64, len := 8, purpose := .cairn, issued := 0, cto := 1000 })] }) (modPf (fun p => { p with stage := .hostcopy, hspace := 1 }) (up)), 3, { fn := 1, addr := 64, len := 8, purpose := .cairn, issued := 0, cto := 1000 }, by decide +kernel⟩⟩

/-- IslandsAndResets. -/
theorem wit_islands_and_resets :
  (∃ (s : State) (i : Nat),
    let x := getIsl s i
    let idleFor := (s.time - x.since).toNat
    let may := live s = true ∧ islIdles i = true ∧ islPresent s i = true ∧ islIdle s i = true
    may ∧ x.pst = 0 ∧ maxstOf s.active.power i ≠ 0 ∧ max (tget (16 : Byte) s.active.power.stopt i).toNat 1 * 8 ≤ idleFor) ∧
  (∃ (s : State) (i : Nat),
    let x := getIsl s i
    let idleFor := (s.time - x.since).toNat
    let may := live s = true ∧ islIdles i = true ∧ islPresent s i = true ∧ islIdle s i = true
    may ∧ x.pst = 1 ∧ maxstOf s.active.power i = 2 ∧ tget (100 : BitVec 16) s.active.power.rett i ≠ 0 ∧
    (tget (100 : BitVec 16) s.active.power.rett i).toNat * 1000 ≤ idleFor) ∧
  (∃ (s : State) (i : Nat),
    (islIdle s i = false ∨ maxstOf s.active.power i = 0)) ∧
  (∃ (s : State) (i : Nat),
    let x := getIsl s i
    s.inReset = false ∧ x.pst ≠ 0) ∧
  (∃ (i : Nat),
    i = islXbr) ∧
  (∃ (s : State) (c : Instr),
    s.inReset = true ∧ c ≠ .refclkLoss ∧ c ≠ .pgoodFall ∧ c ≠ .brstFall ∧ c ≠ .resetRelease ∧
    (∀ n, c ≠ .testAccessPortTest n)) ∧
  (∃ (s : State) (n : BitVec 7),
    (s.pgood = false ∨ islPresent s n.toNat = false)) ∧
  (∃ (s : State) (n : BitVec 7),
    s.pgood = true ∧ islPresent s n.toNat = true) :=
  ⟨⟨{ up with time := 128 }, 11, by dsimp only; decide +kernel⟩,
   ⟨modIsl 11 (fun x => { x with pst := 1 }) ({ up with time := 100000 }), 11, by dsimp only; decide +kernel⟩,
   ⟨modTsv (fun t => { t with queue := [⟨true, 33, 15, 0, 7, 0, 0⟩] }) up, 11, by decide +kernel⟩,
   ⟨modIsl 11 (fun x => { x with pst := 1 }) (up), 11, by dsimp only; decide +kernel⟩,
   ⟨10, by decide +kernel⟩,
   ⟨{ up with inReset := true }, .slotBoundary, by decide +kernel⟩,
   ⟨{ up with pgood := false }, 11, by decide +kernel⟩,
   ⟨up, 11, by decide +kernel⟩⟩

/-- SelfTests. -/
theorem wit_self_tests :
  (∃ (s : State) (target : BitVec 7) (x : _),
    live s = true ∧ s.pf.stage = .normal ∧
    x ∈ [((0 : BitVec 2), Instr.logicTest .kc target), (1, .memoryTest .kc target), (2, .infieldTest .kc target)] ∧
    (s.st.busy = true ∨ testExists s x.1 target = false)) ∧
  (∃ (s : State) (target : BitVec 7) (x : _),
    live s = true ∧ s.pf.stage = .normal ∧
    x ∈ [((0 : BitVec 2), Instr.logicTest .kc target), (1, .memoryTest .kc target), (2, .infieldTest .kc target)] ∧
    s.st.busy = false ∧ testExists s x.1 target = true) ∧
  (∃ (s : State) (target : BitVec 7),
    live s = true ∧ s.pf.stage = .normal ∧ s.st.busy = false ∧ groupPresent s target.toNat = true) ∧
  (∃ (s : State) (target : BitVec 7),
    live s = true ∧ s.pf.stage = .normal ∧ s.st.busy = false ∧ engIsland target.toNat = true ∧
    islPresent s target.toNat = true) ∧
  (∃ (s : State) (r : _),
    live s = true ∧ s.pf.stage = .normal ∧ isKc r = false) ∧
  (∃ (s : State),
    live s = true ∧ s.pf.stage = .normal ∧ s.st.busy = false) ∧
  (∃ (s : State) (rep : TestReport),
    let r := testResult rep s
    let v := testOver (resetTested r.2)
    let w := evK 7 { v with st := { v.st with done := true, outcome := r.1, failed := v.st.failed || r.1 == 3 } }
    live s = true ∧ s.pf.stage = .normal ∧ s.st.busy = true ∧ islandClear s = true ∧ s.ctl.phase ≠ 3 ∧ w.ctl.phase ≠ 3 ∧
    w.ctl.testFor = none) ∧
  (∃ (s : State) (rep : TestReport) (m : _),
    let r := testResult rep s
    let v := testOver (resetTested r.2)
    let w := evK 7 { v with st := { v.st with done := true, outcome := r.1, failed := v.st.failed || r.1 == 3 } }
    live s = true ∧ s.pf.stage = .normal ∧ s.st.busy = true ∧ islandClear s = true ∧ s.ctl.phase ≠ 3 ∧ w.ctl.phase ≠ 3 ∧
    w.ctl.testFor = some m) ∧
  (∃ (s : State) (u : State) (k : _) (x : _),
    let t := resetTested u
    live s = true ∧ s.pf.stage = .normal ∧ u.st.lkind = 0 ∧ engIsland k = true ∧ u.st.ltarget.toNat = k ∧ x ∈ t.eng) ∧
  (∃ (s : State) (u : State),
    live s = true ∧ s.pf.stage = .normal ∧ u.st.lkind = 0 ∧ u.st.ltarget = 1) ∧
  (∃ (s : State) (u : State),
    live s = true ∧ s.pf.stage = .normal ∧ u.st.lkind = 0 ∧ u.st.ltarget = 10) ∧
  (∃ (s : State) (u : State),
    live s = true ∧ s.pf.stage = .normal ∧ u.st.lkind = 1 ∧ u.st.ltarget = 0) ∧
  (∃ (s : State) (u : State),
    live s = true ∧ s.pf.stage = .normal ∧ u.st.lkind = 1 ∧ u.st.ltarget = 11) ∧
  (∃ (s : State) (u : State),
    live s = true ∧ s.pf.stage = .normal ∧ u.st.lkind = 1 ∧ u.st.ltarget = 16) ∧
  (∃ (s : State) (u : State),
    live s = true ∧ s.pf.stage = .normal ∧ u.st.lkind = 2) ∧
  (∃ (s : State) (i : _),
    live s = true ∧ s.pf.stage = .normal ∧ engIsland i = false) ∧
  (∃ (s : State) (rep : TestReport) (i : _) (j : _),
    live s = true ∧ s.pf.stage = .normal ∧ engIsland i = true ∧ rep.sig ≠ golden s.cfg.compact i ∧ j < 4) ∧
  (∃ (s : State) (rows : _),
    live s = true ∧ s.pf.stage = .normal ∧ rows = 0) ∧
  (∃ (s : State) (g : _) (rows : _),
    let free := spareRows g - (getGroup s g).spused.toNat
    live s = true ∧ s.pf.stage = .normal ∧ 0 < rows ∧ rows ≤ free) ∧
  (∃ (s : State) (g : _) (rows : _) (j : _),
    let free := spareRows g - (getGroup s g).spused.toNat
    live s = true ∧ s.pf.stage = .normal ∧ free < rows ∧ engGroup g = true ∧ j < 4) ∧
  (∃ (s : State) (g : _) (rows : _),
    let free := spareRows g - (getGroup s g).spused.toNat
    live s = true ∧ s.pf.stage = .normal ∧ free < rows ∧ engGroup g = false) ∧
  (∃ (s : State) (u : State) (a : Nat) (n : Nat),
    let hit := u.soft.filter (fun w => decide (a < 8 * w + 8) && decide (8 * w < a + n))
    live s = true ∧ s.pf.stage = .normal ∧ hit = []) ∧
  (∃ (s : State) (u : State) (a : Nat) (n : Nat) (w : _),
    let hit := u.soft.filter (fun w => decide (a < 8 * w + 8) && decide (8 * w < a + n))
    live s = true ∧ s.pf.stage = .normal ∧ hit = [w]) ∧
  (∃ (s : State) (i : _),
    live s = true ∧ s.pf.stage = .normal ∧ (getIsl s i).agedAt = some (secondOf s)) ∧
  (∃ (s : State) (i : _),
    live s = true ∧ s.pf.stage = .normal ∧ islPresent s i = true ∧ (getIsl s i).agedAt ≠ some (s.time.toNat / 1000000000)) :=
  ⟨⟨up, 82, (0, .logicTest .kc 82), by decide +kernel⟩,
   ⟨up, 5, (2, .infieldTest .kc 5), by decide +kernel⟩,
   ⟨up, 5, by decide +kernel⟩,
   ⟨up, 5, by decide +kernel⟩,
   ⟨up, .mp, by decide +kernel⟩,
   ⟨up, by decide +kernel⟩,
   ⟨modSt (fun t => { t with busy := true }) up, ⟨0, [], 0⟩, by dsimp only; decide +kernel⟩,
   ⟨modCtl (fun c => { c with testFor := some 3 }) (modSt (fun t => { t with busy := true }) up), ⟨0, [], 0⟩, 3, by dsimp only; decide +kernel⟩,
   ⟨up, modSt (fun t => { t with lkind := 0, ltarget := 2 }) (modEng 20 (fun x => { x with hold := .chan 2 }) up), 2, (resetTested (modSt (fun t => { t with lkind := 0, ltarget := 2 }) (modEng 20 (fun x => { x with hold := .chan 2 }) up))).eng.headD default, by dsimp only; decide +kernel⟩,
   ⟨up, modSt (fun t => { t with lkind := 0, ltarget := 1 }) (up), by decide +kernel⟩,
   ⟨up, modSt (fun t => { t with lkind := 0, ltarget := 10 }) (up), by decide +kernel⟩,
   ⟨up, modSt (fun t => { t with lkind := 1, ltarget := 0 }) (up), by decide +kernel⟩,
   ⟨up, modSt (fun t => { t with lkind := 1, ltarget := 11 }) (up), by decide +kernel⟩,
   ⟨up, modSt (fun t => { t with lkind := 1, ltarget := 16 }) (up), by decide +kernel⟩,
   ⟨up, modSt (fun t => { t with lkind := 2, ltarget := 3 }) (up), by decide +kernel⟩,
   ⟨up, 10, by decide +kernel⟩,
   ⟨up, ⟨0, [], 0⟩, 2, 3, by decide +kernel⟩,
   ⟨up, 0, by decide +kernel⟩,
   ⟨up, 0, 256, by dsimp only; decide +kernel⟩,
   ⟨up, 3, 100000, 3, by dsimp only; decide +kernel⟩,
   ⟨up, 0, 257, by dsimp only; decide +kernel⟩,
   ⟨up, up, 0, 8, by dsimp only; decide +kernel⟩,
   ⟨up, { up with soft := [1] }, 8, 8, 1, by dsimp only; decide +kernel⟩,
   ⟨modIsl 11 (fun x => { x with agedAt := some (secondOf up) }) up, 11, by decide +kernel⟩,
   ⟨up, 11, by decide +kernel⟩⟩

/-- RegisterAccesses. -/
theorem wit_holding_registers :
  (∃ (s : State) (r : Requester) (a : Nat) (w : _) (q : Requester),
    s.inReset = false ∧ reqOk s r = true ∧ a % 8 = 0 ∧ a < 0x4000000 ∧ isDoorbell s a = false ∧ mayReadReg s r a = true ∧
    wideRead a s = some w ∧ latchKey q ≠ latchKey r) ∧
  (∃ (s : State) (r : Requester) (a : Nat),
    s.inReset = false ∧ reqOk s r = true ∧ a % 8 = 0 ∧ a < 0x4000000 ∧ isDoorbell s a = false ∧ mayReadReg s r a = true ∧
    wideRead a s = none) ∧
  (∃ (s : State) (r : Requester) (a : Nat) (old : _) (h : _),
    s.inReset = false ∧ reqOk s r = true ∧ a % 8 = 0 ∧ a < 0x4000000 ∧ isDoorbell s a = false ∧ mayReadReg s r a = true ∧
    wideHeld a s = some old ∧ isDoorbell s (a + 4) = false ∧ mayReadReg s r (a + 4) = true ∧
    getLatch s r = { addr := a, write := true, data := h, full := true }) ∧
  (∃ (s : State) (r : Requester) (a : Nat) (old : _),
    s.inReset = false ∧ reqOk s r = true ∧ a % 8 = 0 ∧ a < 0x4000000 ∧ isDoorbell s a = false ∧ mayReadReg s r a = true ∧
    wideHeld a s = some old ∧ isDoorbell s (a + 4) = false ∧ mayReadReg s r (a + 4) = true ∧
    ((getLatch s r).full = false ∨ (getLatch s r).addr ≠ a ∨ (getLatch s r).write = false)) ∧
  (∃ (s : State) (r : Requester) (a : Nat) (w : _) (h : _),
    s.inReset = false ∧ reqOk s r = true ∧ a % 8 = 0 ∧ a < 0x4000000 ∧ isDoorbell s a = false ∧ mayReadReg s r a = true ∧
    wideRead a s = some w ∧ mayReadReg s r (a + 4) = true ∧
    getLatch s r = { addr := a, write := false, data := h, full := true }) ∧
  (∃ (s : State) (r : Requester) (a : Nat) (w : _),
    s.inReset = false ∧ reqOk s r = true ∧ a % 8 = 0 ∧ a < 0x4000000 ∧ isDoorbell s a = false ∧ mayReadReg s r a = true ∧
    wideRead a s = some w ∧ mayReadReg s r (a + 4) = true ∧
    ((getLatch s r).full = false ∨ (getLatch s r).addr ≠ a ∨ (getLatch s r).write = true)) :=
  ⟨⟨up, .kc, 0x21000, 0, .mp, by decide +kernel⟩,
   ⟨up, .kc, 0, by decide +kernel⟩,
   ⟨setLatch .kc ⟨0x21000, true, 5, true⟩ up, .kc, 0x21000, 0, 5, by decide +kernel⟩,
   ⟨up, .kc, 0x21000, 0, by decide +kernel⟩,
   ⟨setLatch .kc ⟨0x21000, false, 5, true⟩ up, .kc, 0x21000, 0, 5, by decide +kernel⟩,
   ⟨up, .kc, 0x21000, 0, by decide +kernel⟩⟩

/-- RegisterAccesses. -/
theorem wit_register_window :
  (∃ (s : State) (r : _) (a : _) (v : _) (t : _),
    s.inReset = false ∧ exec (.registerWrite r a v) s = .next t) ∧
  (∃ (s : State) (r : _) (a : _),
    s.inReset = false ∧ reqOk s r = true ∧ (offsetOk a = false ∨ mayReadReg s r a = false)) ∧
  (∃ (s : State) (r : _) (a : _),
    s.inReset = false ∧ reqOk s r = true ∧ a < 0x10000) ∧
  (∃ (s : State),
    s.inReset = false ∧ s.ctl.phase ≠ 1 ∧ s.ctl.phase ≠ 9) ∧
  (∃ (s : State),
    s.inReset = false ∧ (s.ctl.phase = 1 ∨ s.ctl.phase = 9)) ∧
  (∃ (s : State) (h : Nat) (x : HostAccess),
    s.inReset = false ∧ h < nHosts s ∧ tested s (islHpt h) = false ∧ h * 1024 + x.fn.toNat < nFns s ∧
    x.off.toNat % (if x.size8 then 8 else 4) ≠ 0 ∧ x.write = true) ∧
  (∃ (s : State) (h : Nat) (x : HostAccess),
    s.inReset = false ∧ h < nHosts s ∧ tested s (islHpt h) = false ∧ h * 1024 + x.fn.toNat < nFns s ∧
    x.off.toNat % (if x.size8 then 8 else 4) ≠ 0 ∧ x.write = false) ∧
  (∃ (s : State) (h : Nat) (x : HostAccess),
    s.inReset = false ∧ h < nHosts s ∧ tested s (islHpt h) = false ∧ h * 1024 + x.fn.toNat < nFns s ∧ x.write = true ∧
    x.size8 = true ∧ x.off = 0) ∧
  (∃ (s : State) (h : Nat) (x : HostAccess),
    s.inReset = false ∧ h < nHosts s ∧ tested s (islHpt h) = false ∧ h * 1024 + x.fn.toNat < nFns s ∧ x.write = true ∧
    x.size8 = false ∧ x.off = 0x00C) ∧
  (∃ (s : State) (h : Nat) (x : HostAccess),
    s.inReset = false ∧ h < nHosts s ∧ tested s (islHpt h) = false ∧ h * 1024 + x.fn.toNat < nFns s ∧ x.write = true ∧
    x.size8 = true ∧ x.off = 0x010) ∧
  (∃ (s : State) (h : Nat) (x : HostAccess),
    s.inReset = false ∧ h < nHosts s ∧ tested s (islHpt h) = false ∧ h * 1024 + x.fn.toNat < nFns s ∧ x.write = false ∧
    x.size8 = false ∧ x.off = 0x00C) :=
  ⟨⟨up, .mp, 0, 0, (match exec (.registerWrite .mp 0 0) (up) with | .next t => t | _ => up), by refine ⟨?_, ?_⟩ <;> first | decide +kernel | rfl⟩,
   ⟨up, .mp, 1, by decide +kernel⟩,
   ⟨up, .mp, 0, by decide +kernel⟩,
   ⟨up, by decide +kernel⟩,
   ⟨modCtl (fun c => { c with phase := 9 }) (up), by decide +kernel⟩,
   ⟨up, 0, ⟨0, 2, true, false, 0⟩, by decide +kernel⟩,
   ⟨up, 0, ⟨0, 4, false, true, 0⟩, by decide +kernel⟩,
   ⟨up, 0, ⟨1, 0, true, true, 5⟩, by decide +kernel⟩,
   ⟨up, 0, ⟨1, 0x00C, true, false, 5⟩, by decide +kernel⟩,
   ⟨up, 3, ⟨1023, 0x010, true, true, 5⟩, by decide +kernel⟩,
   ⟨up, 0, ⟨1, 0x00C, false, false, 0⟩, by decide +kernel⟩⟩

/-- StepRunsFront. -/
theorem wit_step_runs_front :
  (∃ (s : State),
    s.pending = [] ∧ s.inReset = true) ∧
  (∃ (s : State),
    s.pending = [] ∧ s.inReset = false) :=
  ⟨⟨{ up with inReset := true }, by decide +kernel⟩,
   ⟨up, by decide +kernel⟩⟩

/-- StepKeepsMemory. -/
theorem wit_step_keeps_memory :
  (∃ (s : State) (t : State),
    memOk s = true ∧ step s = .next t) :=
  ⟨up, (match step (up) with | .next t => t | _ => up), by refine ⟨?_, ?_⟩ <;> first | decide +kernel | rfl⟩

/-- CommandsKeep. -/
theorem wit_latched_marks :
  (∃ (s : State) (t : State) (c : Instr),
    exec c s = .next t ∧ c ≠ .refclkLoss ∧ c ≠ .pgoodFall ∧ c ≠ .brstFall ∧ c ≠ .resetRelease ∧
    (∀ i, c ≠ .testAccessPortTest i) ∧ s.ctl.ready = true) ∧
  (∃ (s : State) (t : State) (c : Instr),
    exec c s = .next t ∧ c ≠ .refclkLoss ∧ c ≠ .pgoodFall ∧ c ≠ .brstFall ∧ c ≠ .resetRelease ∧
    (∀ i, c ≠ .testAccessPortTest i) ∧ s.pf.warn = true) ∧
  (∃ (s : State) (t : State) (c : Instr),
    exec c s = .next t ∧ c ≠ .refclkLoss ∧ c ≠ .pgoodFall ∧ c ≠ .brstFall ∧ c ≠ .resetRelease ∧
    (∀ i, c ≠ .testAccessPortTest i) ∧ s.pf.cut = true) :=
  ⟨⟨{ State.reset with ctl := { ready := true }, pf := { warn := true, cut := true } }, (match exec (.quiesceRelease .mp) ({ State.reset with ctl := { ready := true }, pf := { warn := true, cut := true } }) with | .next t => t | _ => up), .quiesceRelease .mp, by refine ⟨?_, ?_, ?_, ?_, ?_, ?_, ?_⟩ <;> first | decide +kernel | rfl⟩,
   ⟨{ State.reset with ctl := { ready := true }, pf := { warn := true, cut := true } }, (match exec (.quiesceRelease .mp) ({ State.reset with ctl := { ready := true }, pf := { warn := true, cut := true } }) with | .next t => t | _ => up), .quiesceRelease .mp, by refine ⟨?_, ?_, ?_, ?_, ?_, ?_, ?_⟩ <;> first | decide +kernel | rfl⟩,
   ⟨{ State.reset with ctl := { ready := true }, pf := { warn := true, cut := true } }, (match exec (.quiesceRelease .mp) ({ State.reset with ctl := { ready := true }, pf := { warn := true, cut := true } }) with | .next t => t | _ => up), .quiesceRelease .mp, by refine ⟨?_, ?_, ?_, ?_, ?_, ?_, ?_⟩ <;> first | decide +kernel | rfl⟩⟩

/-! The clauses that stand inside a conclusion. -/

/-- Doorbells: not owned; owned and stale; owned and ahead with no task. -/
theorem wit_doorbell_cases :
    (getFn up 0x0C3).level = 0 ∧
    ((getFn race 0x0C3).level ≠ 0 ∧ owns race 0x0C3 0x020040 = true ∧ seqAhead 0x10 (getCtx race 0x020040).seqseen = false) ∧
    (seqAhead 0x11 (getCtx race 0x020040).seqseen = true ∧ taskPending race 0x020040 = false) := by decide +kernel
/-- SeamSwaps: an armed group, an armed barrier, an armed epoch; and a state after WARN. -/
theorem wit_seam_cases :
    (∃ s : State, s.inReset = false ∧ s.pf.stage = .normal ∧ s.shpend ≠ 0 ∧ s.gate.armed = true ∧ s.gate.latched = some 1 ∧
      (getInst s 15).armed = true) ∧
    (∃ s : State, s.inReset = false ∧ s.pf.stage ≠ .normal) :=
  ⟨⟨{ modInst 15 (fun x => { x with armed := true }) (modGate (fun g => { g with armed := true, latched := some 1 }) up) with
      shpend := 1 }, by decide +kernel⟩, ⟨modPf (fun p => { p with stage := .drain }) up, by decide +kernel⟩⟩
/-- RailSamples: WARN by the count, CUT, a sample after WARN, and one that does neither. -/
theorem wit_rail_cases :
    max (rail 1).pf.warncnt.toNat 1 ≤ (rail 1).pf.low + 1 ∧ (0x17B : BitVec 10).toNat ≤ (rail 1).pf.warnth.toNat ∧
    (0x0FF : BitVec 10).toNat ≤ (rail 0).pf.cutth.toNat ∧ (rail 0).pf.warnth.toNat < (0x181 : BitVec 10).toNat ∧
    (run (.railSample 0x0FF) (rail 0)).pf.warn = true := by decide +kernel
/-- StartUp: a boot parameter block that is lawful and one that is not. -/
theorem wit_bpb_cases :
    (∃ b : Bpb, bpbOk up b = true) ∧ (∃ b : Bpb, bpbOk up b = false) :=
  ⟨⟨{ w0 := 0x1000000000, w1 := 0x1400000000, w2 := 23, w3 := 0x1800000000, w4 := 0x40000000, w5 := 0x200000 }, by decide +kernel⟩,
   ⟨{ w2 := 1 }, by decide +kernel⟩⟩
/-- Quiescing: with QREQ set and no abort recorded, a QUIESCED channel and one that is not. -/
theorem wit_quiesced_cases :
    ∃ s : State, live s = true ∧ s.dsp.qreq = true ∧ s.dsp.recAborts = [] ∧ (getCtx s 2).st = .quiesced ∧ (getCtx s 3).st ≠ .quiesced :=
  ⟨modDsp (fun d => { d with qreq := true }) (chan 2 { st := .quiesced }), by decide +kernel⟩

end

end Sys2Proof.Tests
end

namespace Sys2Proof.Machine

/-! ### What every step keeps -/

/-- The commands that bring a reset (R425 to R427, R452) or a test through the test access port (R420); what a state holds
does not outlive them. -/
def endsState : Instr → Bool
  | .refclkLoss | .pgoodFall | .brstFall | .resetRelease | .testAccessPortTest _ => true
  | _ => false

/-- One line for each command: most leave the durable part of the state alone, and of the others Laws/Kept.lean says what
they keep. -/
theorem kept_exec {s t : State} : ∀ {c : Instr}, endsState c = false → exec c s = .next t → Kept s t
  | .registerWrite .., _, h => .of_durable (durable_execRegisterWrite h)
  | .lowerHalfRead .., _, h => .of_durable (durable_execLowerHalfRead h)
  | .lowerHalfWrite .., _, h => .of_durable (durable_execLowerHalfWrite h)
  | .btimeloRead .., _, h => .of_durable (durable_execBtimeloRead h)
  | .doorbell .., _, h => .of_durable (durable_execDoorbell h)
  | .doorbellApply .., _, h => .of_durable (durable_execDoorbellApply h)
  | .lmUpd8Response .., _, h => .of_durable (durable_execLmUpd8Response h)
  | .pendingScan, _, h => .of_durable (durable_execPendingScan h)
  | .scanBlockReadDone .., _, h => .of_durable (durable_execScanBlockReadDone h)
  | .chCtlGo .., _, h => .of_durable (durable_execChCtlGo h)
  | .chCtlAbort .., _, h => .of_durable (durable_execChCtlAbort h)
  | .pauseSet .., _, h => .of_durable (durable_execPauseSet h)
  | .pauseClear .., _, h => .of_durable (durable_execPauseClear h)
  | .versionRequest .., _, h => .of_durable (durable_execVersionRequest h)
  | .dispatch, _, h => .of_durable (durable_execDispatch h)
  | .descriptorRead .., _, h => .of_durable (durable_execDescriptorRead h)
  | .descriptorReadDone .., _, h => .of_durable (durable_execDescriptorReadDone h)
  | .seqCoverQuery .., _, h => .of_durable (durable_execSeqCoverQuery h)
  | .resumeDescriptorReadDone .., _, h => .of_durable (durable_execResumeDescriptorReadDone h)
  | .lds .., _, h => .of_durable (durable_execLds h)
  | .ldd .., _, h => .of_durable (durable_execLdd h)
  | .ldn .., _, h => .of_durable (durable_execLdn h)
  | .ldk .., _, h => .of_durable (durable_execLdk h)
  | .move .., _, h => .of_durable (durable_execMove h)
  | .movl .., _, h => .of_durable (durable_execMovl h)
  | .waitf .., _, h => .of_durable (durable_execWaitf h)
  | .fence .., _, h => .of_durable (durable_execFence h)
  | .notify .., _, h => .of_durable (durable_execNotify h)
  | .brk .., _, h => .of_durable (durable_execBrk h)
  | .atom .., _, h => .of_durable (durable_execAtom h)
  | .lock .., _, h => .of_durable (durable_execLock h)
  | .unlk .., _, h => .of_durable (durable_execUnlk h)
  | .br .., _, h => .of_durable (durable_execBr h)
  | .link .., _, h => .of_durable (durable_execLink h)
  | .endd .., _, h => .of_durable (durable_execEndd h)
  | .tins .., _, h => .of_durable (durable_execTins h)
  | .tdel .., _, h => .of_durable (durable_execTdel h)
  | .tmov .., _, h => .of_durable (durable_execTmov h)
  | .tage .., _, h => .of_durable (durable_execTage h)
  | .tepoRead .., _, h => .of_durable (durable_execTepoRead h)
  | .tepoBegin .., _, h => .of_durable (durable_execTepoBegin h)
  | .tepoArm .., _, h => .of_durable (durable_execTepoArm h)
  | .tsvAnswer .., _, h => .of_durable (durable_execTsvAnswer h)
  | .level1MoveDescriptor .., _, h => .of_durable (durable_execLevel1MoveDescriptor h)
  | .level1LinkDescriptor .., _, h => .of_durable (durable_execLevel1LinkDescriptor h)
  | .sourceBurstIssue .., _, h => .of_durable (durable_execSourceBurstIssue h)
  | .lmReadData .., _, h => .of_durable (durable_execLmReadData h)
  | .lmWriteResponse .., _, h => .of_durable (durable_execLmWriteResponse h)
  | .movlListReadDone .., _, h => .of_durable (durable_execMovlListReadDone h)
  | .hostCompletionPiece .., _, h => .of_durable (durable_execHostCompletionPiece h)
  | .completionTimeout .., _, h => .of_durable (durable_execCompletionTimeout h)
  | .quarantineExpiry .., _, h => .of_durable (durable_execQuarantineExpiry h)
  | .directMoveComplete .., _, h => .of_durable (durable_execDirectMoveComplete h)
  | .wdogExpiry .., _, h => .of_durable (durable_execWdogExpiry h)
  | .paceholdExpiry .., _, h => .of_durable (durable_execPaceholdExpiry h)
  | .pacingWake, _, h => .of_durable (durable_execPacingWake h)
  | .pauseStopDone .., _, h => .of_durable (durable_execPauseStopDone h)
  | .abortStop .., _, h => .of_durable (durable_execAbortStop h)
  | .ctxEccError .., _, h => .of_durable (durable_execCtxEccError h)
  | .quiesceRequest .., _, h => .of_durable (durable_execQuiesceRequest h)
  | .quiesceRelease .., _, h => .of_durable (durable_execQuiesceRelease h)
  | .leaseExpiry .., _, h => .of_durable (durable_execLeaseExpiry h)
  | .lockBreakCommand .., _, h => .of_durable (durable_execLockBreakCommand h)
  | .xbarDecision, _, h => .of_durable (durable_execXbarDecision h)
  | .clusterDecision .., _, h => .of_durable (durable_execClusterDecision h)
  | .laneDrop .., _, h => .of_durable (durable_execLaneDrop h)
  | .xbarRepresent .., _, h => .of_durable (durable_execXbarRepresent h)
  | .slotBoundary, _, h => .of_durable (durable_execSlotBoundary h)
  | .xbarFreeze .., _, h => .of_durable (durable_execXbarFreeze h)
  | .clusterFreeze .., _, h => .of_durable (durable_execClusterFreeze h)
  | .seam, _, h => kept_execSeam h
  | .sharm .., _, h => .of_durable (durable_execSharm h)
  | .gateRuleWrite .., _, h => .of_durable (durable_execGateRuleWrite h)
  | .gateBarrierArm .., _, h => .of_durable (durable_execGateBarrierArm h)
  | .barrierFlushReadDone .., _, h => .of_durable (durable_execBarrierFlushReadDone h)
  | .bufferedWriteLeave .., _, h => kept_execBufferedWriteLeave h
  | .vlogrdWrite .., _, h => .of_durable (durable_execVlogrdWrite h)
  | .functionMirrorUpdate .., _, h => .of_durable (durable_execFunctionMirrorUpdate h)
  | .bmeFall .., _, h => .of_durable (durable_execBmeFall h)
  | .bmeRise .., _, h => .of_durable (durable_execBmeRise h)
  | .flrRequest .., _, h => .of_durable (durable_execFlrRequest h)
  | .contextSweep, _, h => .of_durable (durable_execContextSweep h)
  | .flrAck .., _, h => .of_durable (durable_execFlrAck h)
  | .flrTimeout .., _, h => .of_durable (durable_execFlrTimeout h)
  | .intxSend .., _, h => .of_durable (durable_execIntxSend h)
  | .hostTargetAccess .., _, h => .of_durable (durable_execHostTargetAccess h)
  | .linkEnable .., _, h => .of_durable (durable_execLinkEnable h)
  | .linkDisable .., _, h => .of_durable (durable_execLinkDisable h)
  | .linkRetrain .., _, h => .of_durable (durable_execLinkRetrain h)
  | .linkResetDone .., _, h => .of_durable (durable_execLinkResetDone h)
  | .portVersion .., _, h => .of_durable (durable_execPortVersion h)
  | .versionTimeout .., _, h => .of_durable (durable_execVersionTimeout h)
  | .portRdata .., _, h => .of_durable (durable_execPortRdata h)
  | .tsvmsg .., _, h => .of_durable (durable_execTsvmsg h)
  | .portWriteAccepted .., _, h => .of_durable (durable_execPortWriteAccepted h)
  | .filli .., _, h => .of_durable (durable_execFilli h)
  | .fillo .., _, h => .of_durable (durable_execFillo h)
  | .classByte .., _, h => .of_durable (durable_execClassByte h)
  | .brkMarker .., _, h => .of_durable (durable_execBrkMarker h)
  | .lerr .., _, h => .of_durable (durable_execLerr h)
  | .handshakeTimeout .., _, h => .of_durable (durable_execHandshakeTimeout h)
  | .linkIdleTimer .., _, h => .of_durable (durable_execLinkIdleTimer h)
  | .linkDozeTimer .., _, h => .of_durable (durable_execLinkDozeTimer h)
  | .linkDeepTimer .., _, h => .of_durable (durable_execLinkDeepTimer h)
  | .linkWake .., _, h => .of_durable (durable_execLinkWake h)
  | .learn .., _, h => .of_durable (durable_execLearn h)
  | .touch .., _, h => .of_durable (durable_execTouch h)
  | .relocationStashWriteDone .., _, h => .of_durable (durable_execRelocationStashWriteDone h)
  | .ageTick .., _, h => .of_durable (durable_execAgeTick h)
  | .ageSweepVisit .., _, h => .of_durable (durable_execAgeSweepVisit h)
  | .tableEnable .., _, h => .of_durable (durable_execTableEnable h)
  | .tableInitDone .., _, h => .of_durable (durable_execTableInitDone h)
  | .tableDisable .., _, h => .of_durable (durable_execTableDisable h)
  | .rebuildZero .., _, h => .of_durable (durable_execRebuildZero h)
  | .copydone .., _, h => .of_durable (durable_execCopydone h)
  | .tevrdWrite .., _, h => .of_durable (durable_execTevrdWrite h)
  | .bootGo .., _, h => .of_durable (durable_execBootGo h)
  | .imageVerifyDone .., _, h => kept_execImageVerifyDone h
  | .startupZeroDone, _, h => kept_execStartupZeroDone h
  | .mailboxPost .., _, h => .of_durable (durable_execMailboxPost h)
  | .mailboxAnswer .., _, h => .of_durable (durable_execMailboxAnswer h)
  | .gateRule .., _, h => .of_durable (durable_execGateRule h)
  | .gateCommit .., _, h => .of_durable (durable_execGateCommit h)
  | .lockBreak .., _, h => .of_durable (durable_execLockBreak h)
  | .hostSet .., _, h => .of_durable (durable_execHostSet h)
  | .tsvPlace .., _, h => .of_durable (durable_execTsvPlace h)
  | .tsvRing .., _, h => .of_durable (durable_execTsvRing h)
  | .selftest .., _, h => .of_durable (durable_execSelftest h)
  | .vlogNext .., _, h => .of_durable (durable_execVlogNext h)
  | .ready .., _, h => kept_execReady h
  | .screeLoad .., _, h => .of_durable (durable_execScreeLoad h)
  | .screeRestart .., _, h => .of_durable (durable_execScreeRestart h)
  | .cairnSet .., _, h => kept_execCairnSet h
  | .updateTimeout, _, h => .of_durable (durable_execUpdateTimeout h)
  | .ccctlWrite .., _, h => .of_durable (durable_execCcctlWrite h)
  | .ld .., _, h => .of_durable (durable_execLd h)
  | .st .., _, h => kept_execSt h
  | .ldi .., _, h => .of_durable (durable_execLdi h)
  | .amo .., _, h => kept_execAmo h
  | .alu .., _, h => .of_durable (durable_execAlu h)
  | .bfx .., _, h => .of_durable (durable_execBfx h)
  | .b .., _, h => .of_durable (durable_execB h)
  | .jal .., _, h => .of_durable (durable_execJal h)
  | .crr .., _, h => .of_durable (durable_execCrr h)
  | .crw .., _, h => .of_durable (durable_execCrw h)
  | .lcr .., _, h => .of_durable (durable_execLcr h)
  | .wfe .., _, h => .of_durable (durable_execWfe h)
  | .wfeWake .., _, h => .of_durable (durable_execWfeWake h)
  | .mbxSend .., _, h => .of_durable (durable_execMbxSend h)
  | .mbxTake .., _, h => .of_durable (durable_execMbxTake h)
  | .mbxAnswer .., _, h => .of_durable (durable_execMbxAnswer h)
  | .mbxCollect .., _, h => .of_durable (durable_execMbxCollect h)
  | .svcIssue .., _, h => .of_durable (durable_execSvcIssue h)
  | .svcResult .., _, h => .of_durable (durable_execSvcResult h)
  | .svcRelease .., _, h => .of_durable (durable_execSvcRelease h)
  | .svcCancel .., _, h => .of_durable (durable_execSvcCancel h)
  | .movework .., _, h => .of_durable (durable_execMovework h)
  | .ctxread .., _, h => .of_durable (durable_execCtxread h)
  | .ctxwrite .., _, h => .of_durable (durable_execCtxwrite h)
  | .owncopyWriteDone .., _, h => .of_durable (durable_execOwncopyWriteDone h)
  | .evpost .., _, h => .of_durable (durable_execEvpost h)
  | .timer .., _, h => .of_durable (durable_execTimer h)
  | .railSample .., _, h => kept_execRailSample h
  | .drainEnd, _, h => kept_execDrainEnd h
  | .cairnHostCopyDone, _, h => .of_durable (durable_execCairnHostCopyDone h)
  | .islandClkstop .., _, h => .of_durable (durable_execIslandClkstop h)
  | .islandRetain .., _, h => .of_durable (durable_execIslandRetain h)
  | .islandWake .., _, h => .of_durable (durable_execIslandWake h)
  | .logicTest .., _, h => .of_durable (durable_execLogicTest h)
  | .memoryTest .., _, h => .of_durable (durable_execMemoryTest h)
  | .infieldTest .., _, h => .of_durable (durable_execInfieldTest h)
  | .selftestDone .., _, h => kept_execSelftestDone h
  | .agingMeasure .., _, h => .of_durable (durable_execAgingMeasure h)
  | .bufferedWriteAck .., _, h => .of_durable (durable_execBufferedWriteAck h)
  | .controlMemoryReadData .., _, h => .of_durable (durable_execControlMemoryReadData h)
  | .ignoredSidebandByte .., _, h => .of_durable (durable_execIgnoredSidebandByte h)

theorem memOk_enterReset {s : State} (hm : memOk s = true) : memOk (enterReset s) = true := by
  unfold enterReset
  split
  · exact hm
  · exact (resetState_kept true s).2.2 hm

/-- The commands that end a state leave RAMs that are empty, or the retention SRAM as it was, or free contents in canonical
form. -/
theorem memOk_exec_of_endsState {s t : State} (hm : memOk s = true) :
    ∀ {c : Instr}, endsState c = true → exec c s = .next t → memOk t = true
  | .refclkLoss, _, h | .brstFall, _, h | .pgoodFall, _, h => by
    cases h
    exact memOk_enterReset hm
  | .resetRelease, _, h => by
    change execResetRelease s = .next t at h
    unfold execResetRelease at h
    split at h <;> cases h
    · exact (resetState_kept false s).2.2 hm
    · exact hm
  | .testAccessPortTest island, _, h => by
    change execTestAccessPortTest island s = .next t at h
    unfold execTestAccessPortTest at h
    split at h <;> cases h
    · exact hm
    · exact (undefState_kept s).2.2

theorem memOk_exec {c : Instr} {s t : State} (hm : memOk s = true) (h : exec c s = .next t) : memOk t = true := by
  cases hc : endsState c with
  | true => exact memOk_exec_of_endsState hm hc h
  | false =>
    obtain ⟨-, -, hmem, -⟩ := kept_exec hc h
    exact hmem hm

/-- Settles O59: a step is one command, which keeps the canonical form whatever it is, or one nanosecond, which keeps it
too. -/
theorem stepKeepsMemory : Obligations.StepKeepsMemory := by
  intro s t hm h
  unfold step at h
  split at h
  case h_1 =>
    cases h
    obtain ⟨-, -, hmem, -⟩ := kept_tick s
    exact hmem hm
  case h_2 c rest _ => exact memOk_exec (s := { s with pending := rest }) hm h

end Sys2Proof.Machine

namespace Sys2Proof.Machine

/-! ### Holding registers (R444) -/

theorem getLatch_setLatch (r q : Requester) (x : Latch) (s : State) :
    getLatch (setLatch r x s) q = if latchKey q = latchKey r then x else getLatch s q := tget_tset _ _ _ _ _

@[simp] theorem getFn_dropLatch (r : Requester) (s : State) (j : Nat) : getFn (dropLatch r s) j = getFn s j := rfl

@[simp] theorem getLatch_answerRead (r q : Requester) (v : Word) (s : State) : getLatch (answerRead q v s) r = getLatch s r := by
  cases q <;> rfl

theorem setLatch_setLatch (r : Requester) (x y : Latch) (s : State) : setLatch r y (setLatch r x s) = setLatch r y s := by
  simp only [setLatch, tset_tset]

theorem latched_of_getLatch {s : State} {r : Requester} {a : Nat} {w : Bool} {h : Half}
    (hl : getLatch s r = { addr := a, write := w, data := h, full := true }) : latched s r a w = some h := by
  simp [latched, hl]

theorem latched_eq_none {s : State} {r : Requester} {a : Nat} {w : Bool}
    (hl : (getLatch s r).full = false ∨ (getLatch s r).addr ≠ a ∨ (getLatch s r).write = !w) : latched s r a w = none := by
  have : ¬ ((getLatch s r).full = true ∧ (getLatch s r).addr = a ∧ (getLatch s r).write = w) := by
    rintro ⟨hf, ha, hw⟩
    simp [hf, ha, hw] at hl
  simp [latched, and_assoc, this]

/-! ### Halves, fields and mirrored copies of a register -/

theorem lo32_zeroExtend (x : Half) : lo32 (x.zeroExtend 64) = x := by
  simp [lo32]

theorem join32_lo32_hi32 (w : Word) : join32 (lo32 w) (hi32 w) = w := by
  ext i hi
  rcases Nat.lt_or_ge i 32 with h | h
  · simp [join32, put, lo32, hi32, h, BitVec.getLsbD_eq_getElem hi]
  · have : i - 32 < 32 := by omega
    simp [join32, put, lo32, hi32, Nat.not_lt.2 h, this, Nat.add_sub_cancel' h, BitVec.getLsbD_eq_getElem hi]

/-- A field of 23 bits lies in the lower half whole. -/
theorem bits_lo32 (w : Word) : bits (lo32 w) 0 23 = bits w 0 23 := by
  ext i hi
  have : i < 32 := by omega
  simp [bits, lo32, this]

theorem mirrored_of_mirMask_eq_zero {s : State} {a : Nat} {x : Half} (h : mirMask a = 0) : mirrored s a x = x := by
  have h0 : mirShown a = 0 := by simp [mirShown, h]
  rw [mirrored, h0]
  change x &&& BitVec.allOnes 32 ||| _ &&& 0#32 = x
  rw [BitVec.and_allOnes, BitVec.and_zero, BitVec.or_zero]

theorem narrowRead_of_mirMask_eq_zero {s : State} {a : Nat} (h : mirMask a = 0) : narrowRead a s = narrowNow a s := by
  simp [narrowRead, mirrored_of_mirMask_eq_zero h, hasPend, h, putb]

theorem wideRead_of_mirMask_eq_zero {s : State} {a : Nat} (h : mirMask a = 0) : wideRead a s = wideNow a s := by
  simp [wideRead, h]

/-! ### Which register stands at an offset -/

theorem offsetOk_of_lt {a : Nat} (h4 : a % 4 = 0) (hlt : a < 0x4000000) : offsetOk a = true := by
  simp [offsetOk, h4, hlt]

theorem wideRead_of_misaligned {s : State} {a : Nat} (h : a % 8 ≠ 0) : wideRead a s = none := by
  simp [wideRead, wideNow, h]

theorem wideRead_of_lt {s : State} {a : Nat} (h : a < 0x20000) : wideRead a s = none := by
  simp [wideRead, wideNow, h]

theorem isPage_of_lt {s : State} {a : Nat} (h : a < 0x1000000) : isPage s a = false := by
  simp [isPage, h]

theorem isDoorbell_of_lt {s : State} {a : Nat} (h : a < 0x1000000) : isDoorbell s a = false := by
  simp [isDoorbell, isPage_of_lt h]

theorem wideHeld_of_lt {s : State} {a : Nat} (h : a < 0x1000000) : wideHeld a s = wideRead a s := by
  simp [wideHeld, isPage_of_lt h]

/-! ### The accesses, once they have reached the window -/

section
variable {s : State} {r : Requester}

theorem exec_registerWrite (hs : s.inReset = false) (hr : reqOk s r = true) (a : Nat) (v : Half) :
    exec (.registerWrite r a v) s = .next (regWrite r a v s) := by
  change execRegisterWrite r a v s = _
  simp [execRegisterWrite, hs, hr]

theorem exec_lowerHalfRead (hs : s.inReset = false) (hr : reqOk s r = true) {a : Nat} {x : Half} {t : State}
    (h : regRead r a s = (x, t)) : exec (.lowerHalfRead r a) s = .next (answerRead r (x.zeroExtend 64) t) := by
  change execLowerHalfRead r a s = _
  simp [execLowerHalfRead, hs, hr, doLowerRead, h]

theorem exec_lowerHalfWrite_of_wide (hs : s.inReset = false) (hr : reqOk s r = true) {a : Nat} {w : Word}
    (hw : wideRead a s = some w) (v : Half) : exec (.lowerHalfWrite r a v) s = .next (regWrite r a v s) := by
  change execLowerHalfWrite r a v s = _
  simp [execLowerHalfWrite, hs, hr, hw]

theorem exec_lowerHalfWrite_of_narrow {a : Nat} (hw : wideRead a s = none) (v : Half) :
    exec (.lowerHalfWrite r a v) s = .next s := by
  change execLowerHalfWrite r a v s = _
  simp [execLowerHalfWrite, hw]

/-! ### Reads (R444) -/

theorem regRead_refused {a : Nat} (h : offsetOk a = false ∨ mayReadReg s r a = false) : regRead r a s = (0, dropLatch r s) := by
  have : (!offsetOk a || !mayReadReg s r a) = true := by simpa using h
  simp [regRead, this]

theorem regRead_wide {a : Nat} {w : Word} (ho : offsetOk a = true) (hm : mayReadReg s r a = true)
    (hw : wideRead a s = some w) :
    regRead r a s = (lo32 w, setLatch r { addr := a, write := false, data := hi32 w, full := true } s) := by
  simp [regRead, ho, hm, hw]

theorem regRead_narrow {a : Nat} (ho : offsetOk a = true) (hm : mayReadReg s r a = true) (hw : wideRead a s = none)
    (hu : a % 8 = 4 → wideRead (a - 4) s = none) : regRead r a s = (narrowRead a s, dropLatch r s) := by
  rcases Decidable.em (a % 8 = 4) with h | h
  · simp [regRead, ho, hm, hw, h, hu h]
  · simp [regRead, ho, hm, hw, h]

theorem regRead_upper_latched {a : Nat} {w : Word} {h : Half} (ho : offsetOk (a + 4) = true)
    (hm : mayReadReg s r (a + 4) = true) (ha : a % 8 = 0) (hw : wideRead a s = some w) (hl : latched s r a false = some h) :
    regRead r (a + 4) s = (h, s) := by
  have hu : (a + 4) % 8 = 4 := by omega
  have hn : wideRead (a + 4) s = none := wideRead_of_misaligned (by omega)
  simp [regRead, ho, hm, hn, hu, hw, hl]

theorem regRead_upper_now {a : Nat} {w : Word} (ho : offsetOk (a + 4) = true)
    (hm : mayReadReg s r (a + 4) = true) (ha : a % 8 = 0) (hw : wideRead a s = some w) (hl : latched s r a false = none) :
    regRead r (a + 4) s = (hi32 w, dropLatch r s) := by
  have hu : (a + 4) % 8 = 4 := by omega
  have hn : wideRead (a + 4) s = none := wideRead_of_misaligned (by omega)
  simp [regRead, ho, hm, hn, hu, hw, hl]

/-! ### Writes (R444) -/

theorem regWrite_refused {a : Nat} (h : offsetOk a = false ∨ mayReadReg s r a = false) (v : Half) :
    regWrite r a v s = dropLatch r s := by
  have : (!offsetOk a || !mayReadReg s r a) = true := by simpa using h
  simp [regWrite, this]

theorem regWrite_lower {a : Nat} {w : Word} (ho : offsetOk a = true) (hm : mayReadReg s r a = true)
    (hd : isDoorbell s a = false) (ha : a % 8 = 0) (hw : wideRead a s = some w) (v : Half) :
    regWrite r a v s = setLatch r { addr := a, write := true, data := v, full := true } s := by
  simp [regWrite, ho, hm, hd, ha, hw]

theorem regWrite_upper {a : Nat} {old : Word} (ho : offsetOk (a + 4) = true) (hm : mayReadReg s r (a + 4) = true)
    (hd : isDoorbell s (a + 4) = false) (ha : a % 8 = 0) (hw : wideHeld a s = some old) (v : Half) :
    regWrite r (a + 4) v s =
      wideWrite r a (join32 ((latched s r a true).getD (lo32 old)) v) (dropLatch r s) := by
  have hu : (a + 4) % 8 ≠ 0 := by omega
  simp [regWrite, ho, hm, hd, hu, hw]

theorem regWrite_upper_held {a : Nat} {old : Word} {h : Half} (ho : offsetOk (a + 4) = true)
    (hm : mayReadReg s r (a + 4) = true) (hd : isDoorbell s (a + 4) = false) (ha : a % 8 = 0) (hw : wideHeld a s = some old)
    (hl : latched s r a true = some h) (v : Half) :
    regWrite r (a + 4) v s = wideWrite r a (join32 h v) (dropLatch r s) := by
  rw [regWrite_upper ho hm hd ha hw, hl, Option.getD_some]

theorem regWrite_upper_alone {a : Nat} {old : Word} (ho : offsetOk (a + 4) = true)
    (hm : mayReadReg s r (a + 4) = true) (hd : isDoorbell s (a + 4) = false) (ha : a % 8 = 0) (hw : wideHeld a s = some old)
    (hl : latched s r a true = none) (v : Half) :
    regWrite r (a + 4) v s = wideWrite r a (join32 (lo32 old) v) (dropLatch r s) := by
  rw [regWrite_upper ho hm hd ha hw, hl, Option.getD_none]

theorem regWrite_narrow {a : Nat} (ho : offsetOk a = true) (hm : mayReadReg s r a = true) (hd : isDoorbell s a = false)
    (hl : a % 8 = 0 → wideRead a s = none) (hu : a % 8 ≠ 0 → wideHeld (a - 4) s = none) (v : Half) :
    regWrite r a v s = narrowWrite r a v (dropLatch r s) := by
  rcases Decidable.em (a % 8 = 0) with h | h
  · simp [regWrite, ho, hm, hd, h, hl h]
  · simp [regWrite, ho, hm, hd, h, hu h]

end

/-! ### Single registers below the pages -/

/-- A read of BTIMELO latches BTIMEHI of the same moment (R406). -/
theorem exec_btimeloRead_mp {s : State} (hs : s.inReset = false) :
    exec (.btimeloRead .mp) s = .next (answerRead .mp ((lo32 s.time).zeroExtend 64)
      (setLatch .mp { addr := 0x60000, write := false, data := hi32 s.time, full := true } s)) := by
  have hw : wideRead 0x60000 s = some s.time := wideRead_of_mirMask_eq_zero rfl
  have hx := regRead_wide (s := s) (r := .mp) (a := 0x60000) rfl rfl hw
  change execBtimeloRead .mp s = _
  simp [execBtimeloRead, hs, reqOk, doLowerRead, hx]

/-- Identity and global status are read only (R446 to R450). -/
theorem regWrite_of_lt {s : State} {r : Requester} {a : Nat} (ha : a < 0x10000) (v : Half) :
    regWrite r a v s = dropLatch r s := by
  by_cases h : offsetOk a = false ∨ mayReadReg s r a = false
  · exact regWrite_refused h v
  · simp only [not_or, Bool.not_eq_false] at h
    obtain ⟨ho, hm⟩ := h
    rw [regWrite_narrow ho hm (isDoorbell_of_lt (by omega)) (fun _ => wideRead_of_lt (by omega))
      (fun _ => by rw [wideHeld_of_lt (by omega), wideRead_of_lt (by omega)])]
    simp [narrowWrite, ha]

/-- A 32-bit register below the pages whose offset is a multiple of 8. -/
theorem regWrite_register {s : State} {r : Requester} {a : Nat} (ho : offsetOk a = true) (hlt : a < 0x1000000)
    (ha : a % 8 = 0) (hm : mayReadReg s r a = true) (hw : wideRead a s = none) (v : Half) :
    regWrite r a v s = narrowWrite r a v (dropLatch r s) :=
  regWrite_narrow ho hm (isDoorbell_of_lt hlt) (fun _ => hw) (fun h => absurd ha h) v

/-- EVPENDK is W1C (R9, R356). -/
theorem exec_write_evpendk_kc {s : State} (hs : s.inReset = false) (v : Half) : exec (.registerWrite .kc 0x80040 v) s =
    .next (modCtl (fun c => { c with evpendk := c.evpendk &&& ~~~(bits v 0 9) }) (dropLatch .kc s)) := by
  rw [exec_registerWrite hs rfl, regWrite_register rfl (by omega) rfl rfl rfl]
  rfl

theorem exec_write_xstarvth_kc {s : State} (hs : s.inReset = false) (v : Half) : exec (.registerWrite .kc 0x10008 v) s =
    .next (modShadow (fun x => { x with xarb := { x.xarb with starvth := bits v 0 8 } }) (dropLatch .kc s)) := by
  rw [exec_registerWrite hs rfl, regWrite_register rfl (by omega) rfl rfl rfl]
  rfl

theorem exec_write_xstarvth_mp {s : State} (hs : s.inReset = false) (v : Half) :
    exec (.registerWrite .mp 0x10008 v) s = .next (dropLatch .mp s) := by
  rw [exec_registerWrite hs rfl, regWrite_register rfl (by omega) rfl rfl rfl]
  rfl

/-- RAILCFG is the management processor's in PHASE 1 and 9 (R394). -/
theorem exec_write_railcfg_mp {s : State} (hs : s.inReset = false) (v : Half) : exec (.registerWrite .mp 0x60040 v) s =
    .next (if s.ctl.phase = 1 ∨ s.ctl.phase = 9 then
      modPf (fun p => { p with warnth := bits v 0 10, cutth := bits v 16 10, warncnt := bits v 26 4, en := bit v 31 })
        (dropLatch .mp s)
    else dropLatch .mp s) := by
  rw [exec_registerWrite hs rfl, regWrite_register rfl (by omega) rfl rfl rfl]
  simp [narrowWrite, writeTime, bootWriter, isMp, dropLatch]

theorem exec_read_id_mp {s : State} (hs : s.inReset = false) :
    exec (.lowerHalfRead .mp 0) s = .next (answerRead .mp ((0x0B710F3D : Half).zeroExtend 64) (dropLatch .mp s)) := by
  have hx := regRead_narrow (s := s) (r := .mp) (a := 0) rfl rfl rfl (fun _ => rfl)
  rw [narrowRead_of_mirMask_eq_zero rfl] at hx
  exact exec_lowerHalfRead hs rfl hx

/-! ### The page of a function (R281, R442) -/

theorem nFns_le (s : State) : nFns s ≤ 4096 := by
  unfold nFns
  split <;> omega

@[simp] theorem nFns_setLatch (r : Requester) (x : Latch) (s : State) : nFns (setLatch r x s) = nFns s := rfl

theorem le_of_isPage {s : State} {a : Nat} (hp : isPage s a = true) : 0x1000000 ≤ a := by
  simp only [isPage, Bool.and_eq_true, decide_eq_true_eq] at hp
  exact hp.1

theorem narrowWrite_of_isPage {s : State} {a : Nat} (hp : isPage s a = true) (r : Requester) (v : Half) :
    narrowWrite r a v s = writePage a v s := by
  have h := le_of_isPage hp
  simp (disch := omega) only [narrowWrite, hp, if_neg, if_true]

theorem wideWrite_of_isPage {s : State} {a : Nat} (hp : isPage s a = true) (r : Requester) (v : Word) :
    wideWrite r a v s = writePageWide a v s := by
  have h := le_of_isPage hp
  have hm : ¬ isMbx a = true := by
    simp only [isMbx, Bool.and_eq_true, decide_eq_true_eq]
    omega
  simp (disch := omega) only [wideWrite, hp, if_neg hm, if_neg, if_true]

theorem narrowNow_of_isPage {s : State} {a : Nat} (hp : isPage s a = true) : narrowNow a s = readPage a s := by
  have h := le_of_isPage hp
  simp (disch := omega) only [narrowNow, hp, if_neg, if_true]

theorem wideNow_of_isPage {s : State} {a : Nat} (hp : isPage s a = true) (h8 : a % 8 = 0) : wideNow a s = pageWide a s := by
  have h := le_of_isPage hp
  simp (disch := omega) only [wideNow, if_neg]

section
variable {s : State} {fn o : Nat}

theorem page_mod (ho : o < 0x1000) : (pageBase fn + o) % 0x1000 = o := by
  simp only [pageBase]
  omega

theorem page_mod_eight : (pageBase fn + o) % 8 = o % 8 := by
  simp only [pageBase]
  omega

theorem pageFn_page (ho : o < 0x1000) : pageFn (pageBase fn + o) = fn := by
  simp only [pageFn, pageBase]
  omega

theorem isPage_page (hfn : fn < nFns s) (ho : o < 0x1000) : isPage s (pageBase fn + o) = true := by
  have h1 : 0x1000000 ≤ pageBase fn + o ∧ pageBase fn + o < 0x1000000 + 0x1000 * nFns s := by
    simp only [pageBase]
    omega
  simp only [isPage, h1, decide_true, Bool.and_self]

theorem isDoorbell_page (hfn : fn < nFns s) (ho : o < 0x1000) : isDoorbell s (pageBase fn + o) = (o == 0 || o == 4) := by
  simp only [isDoorbell, isPage_page hfn ho, page_mod ho, Bool.true_and]

theorem offsetOk_page (hfn : fn < nFns s) (ho : o < 0x1000) (h4 : o % 4 = 0) : offsetOk (pageBase fn + o) = true := by
  have hle := nFns_le s
  apply offsetOk_of_lt <;> rw [pageBase] <;> omega

theorem mayReadReg_page {h : Nat} (hh : hptOf fn = h) (hfn : fn < nFns s) (ho : o < 0x1000) :
    mayReadReg s (.host h fn) (pageBase fn + o) = true := by
  simp [mayReadReg, ownPage, hh, hfn, ho]

/-- The only 64-bit registers of a page besides DOORBELL are CH_S and CH_D. -/
theorem wideRead_page_eq_none (ho : o < 0x1000) (hS : o ≠ 0x10) (hD : o ≠ 0x18) (hfn : fn < nFns s) :
    wideRead (pageBase fn + o) s = none := by
  rcases Decidable.em ((pageBase fn + o) % 8 = 0) with h8 | h8
  · simp [wideRead, wideNow_of_isPage (isPage_page hfn ho) h8, pageWide, isPage_page hfn ho, page_mod ho]
  · exact wideRead_of_misaligned h8

theorem wideRead_page_chS (hfn : fn < nFns s) : ∃ w, wideRead (pageBase fn + 0x10) s = some w := by
  have hp : isPage s (pageBase fn + 0x10) = true := isPage_page hfn (by omega)
  have h8 : (pageBase fn + 0x10) % 8 = 0 := by rw [page_mod_eight]
  simp [wideRead, wideNow_of_isPage hp h8, pageWide, hp, page_mod (fn := fn) (o := 0x10) (by omega)]

theorem wideHeld_page_chS (hfn : fn < nFns s) : wideHeld (pageBase fn + 0x10) s = some (getFn s fn).stS := by
  simp [wideHeld, isPage_page hfn (o := 0x10) (by omega), page_mod (fn := fn) (o := 0x10) (by omega),
    pageFn_page (fn := fn) (o := 0x10) (by omega)]

theorem wideHeld_page_eq_none (ho : o < 0x1000) (hS : o ≠ 0x10) (hD : o ≠ 0x18) (hfn : fn < nFns s) :
    wideHeld (pageBase fn + o) s = none := by
  simp [wideHeld, isPage_page hfn ho, page_mod ho]

end

section
variable {s : State} {h fn : Nat}

/-- CHSEL stands in the upper half of its eight bytes and in 32 bits. -/
theorem regWrite_chsel (hh : hptOf fn = h) (hfn : fn < nFns s) (v : Half) : regWrite (.host h fn) (pageBase fn + 0x00C) v s =
    modFn fn (fun f => { f with chsel := bits v 0 23 }) (dropLatch (.host h fn) s) := by
  have hp : isPage (dropLatch (.host h fn) s) (pageBase fn + 0x00C) = true := isPage_page hfn (by omega)
  have h8 : (pageBase fn + 0x00C) % 8 ≠ 0 := by
    rw [page_mod_eight]
    decide
  rw [regWrite_narrow (offsetOk_page hfn (by omega) rfl) (mayReadReg_page hh hfn (by omega)) (isDoorbell_page hfn (by omega))
    (fun h => absurd h h8) (fun _ => wideHeld_page_eq_none (o := 0x008) (by omega) (by omega) (by omega) hfn),
    narrowWrite_of_isPage hp]
  simp [writePage, page_mod (fn := fn) (o := 0x00C) (by omega), pageFn_page (fn := fn) (o := 0x00C) (by omega)]

theorem mirMask_chsel (fn : Nat) : mirMask (pageBase fn + 0x00C) = 0 := by
  have hb : 0x1000000 ≤ pageBase fn + 0x00C := by
    rw [pageBase]
    omega
  simp only [mirMask, hb, if_true, page_mod (fn := fn) (o := 0x00C) (by omega)]
  rfl

theorem regRead_chsel (hh : hptOf fn = h) (hfn : fn < nFns s) : regRead (.host h fn) (pageBase fn + 0x00C) s =
    (put 32 (getFn s fn).chsel 0, dropLatch (.host h fn) s) := by
  rw [regRead_narrow (offsetOk_page hfn (by omega) rfl) (mayReadReg_page hh hfn (by omega))
    (wideRead_page_eq_none (by omega) (by omega) (by omega) hfn)
    (fun _ => wideRead_page_eq_none (o := 0x008) (by omega) (by omega) (by omega) hfn),
    narrowRead_of_mirMask_eq_zero (mirMask_chsel fn), narrowNow_of_isPage (isPage_page hfn (by omega))]
  simp [readPage, page_mod (fn := fn) (o := 0x00C) (by omega), pageFn_page (fn := fn) (o := 0x00C) (by omega)]

/-- The two halves of CH_S reach the staging copy together. -/
theorem regWrite64_chS (hh : hptOf fn = h) (hfn : fn < nFns s) (w : Word) : regWrite64 (.host h fn) (pageBase fn + 0x010) w s =
    modFn fn (fun f => { f with stS := w }) (dropLatch (.host h fn) s) := by
  obtain ⟨old, hold⟩ := wideRead_page_chS hfn
  have h8 : (pageBase fn + 0x010) % 8 = 0 := by rw [page_mod_eight]
  have hd : isDoorbell s (pageBase fn + 0x010) = false := isDoorbell_page hfn (by omega)
  have hp : isPage (dropLatch (.host h fn) s) (pageBase fn + 0x010) = true := isPage_page hfn (by omega)
  have hlow := regWrite_lower (offsetOk_page hfn (by omega) rfl) (mayReadReg_page hh hfn (by omega)) hd h8 hold (lo32 w)
  generalize ht : setLatch (.host h fn) { addr := pageBase fn + 0x010, write := true, data := lo32 w, full := true } s = t at hlow
  have hfnt : fn < nFns t := by rw [← ht, nFns_setLatch]; exact hfn
  have hl : getLatch t (.host h fn) = { addr := pageBase fn + 0x010, write := true, data := lo32 w, full := true } := by
    rw [← ht, getLatch_setLatch, if_pos rfl]
  have hup : regWrite (.host h fn) (pageBase fn + 0x010 + 4) (hi32 w) t =
      wideWrite (.host h fn) (pageBase fn + 0x010) (join32 (lo32 w) (hi32 w)) (dropLatch (.host h fn) t) := by
    refine regWrite_upper_held ?_ ?_ ?_ h8 (wideHeld_page_chS hfnt) (latched_of_getLatch hl) _ <;> rw [Nat.add_assoc]
    · exact offsetOk_page hfn (by omega) rfl
    · exact mayReadReg_page hh hfnt (by omega)
    · exact isDoorbell_page hfnt (by omega)
  rw [regWrite64, hd, if_neg Bool.false_ne_true, hlow, hup, join32_lo32_hi32, ← ht, dropLatch, setLatch_setLatch, ← dropLatch,
    wideWrite_of_isPage hp]
  simp [writePageWide, page_mod (fn := fn) (o := 0x010) (by omega), pageFn_page (fn := fn) (o := 0x010) (by omega)]

end

/-- A field at bit 0 of a 32-bit register keeps its value in the 64 bits of a read. -/
theorem zeroExtend_put_zero {n : Nat} (x : BitVec n) (hn : n ≤ 32) : (put 32 x 0).zeroExtend 64 = x.zeroExtend 64 := by
  have h32 : x.toNat < 4294967296 := lt_of_lt_of_le x.isLt (Nat.pow_le_pow_right (by omega) hn)
  apply BitVec.eq_of_toNat_eq
  simp [put, Nat.mod_eq_of_lt h32]

/-! ### Accesses of a host to its page (R281, R431) -/

section
variable {s : State} {h : Nat} {x : HostAccess}

theorem exec_hostTargetAccess (hs : s.inReset = false) (hh : h < nHosts s) (ht : tested s (islHpt h) = false) :
    exec (.hostTargetAccess h x) s = .next (hostAccess h x s) := by
  change execHostTargetAccess h x s = _
  simp [execHostTargetAccess, hs, ht, hh]

theorem hptOf_local (h : Nat) (n : BitVec 10) : hptOf (h * 1024 + n.toNat) = h := by
  have := n.isLt
  simp only [hptOf]
  omega

theorem hostAccess_misaligned_write (hm : x.off.toNat % (if x.size8 then 8 else 4) ≠ 0) (hw : x.write = true) :
    hostAccess h x s = dropLatch (.host h (h * 1024 + x.fn.toNat)) s := by
  simp [hostAccess, hm, hw]

theorem hostAccess_misaligned_read (hm : x.off.toNat % (if x.size8 then 8 else 4) ≠ 0) (hw : x.write = false) :
    hostAccess h x s =
      answerRead (.host h (h * 1024 + x.fn.toNat)) 0 (dropLatch (.host h (h * 1024 + x.fn.toNat)) s) := by
  simp [hostAccess, hm, hw]

theorem hostAccess_write8 (hm : x.off.toNat % 8 = 0) (hw : x.write = true) (h8 : x.size8 = true) :
    hostAccess h x s = regWrite64 (.host h (h * 1024 + x.fn.toNat)) (pageBase (h * 1024 + x.fn.toNat) + x.off.toNat) x.wdata s := by
  simp [hostAccess, hm, hw, h8]

theorem hostAccess_write4 (hm : x.off.toNat % 4 = 0) (hw : x.write = true) (h8 : x.size8 = false) :
    hostAccess h x s =
      regWrite (.host h (h * 1024 + x.fn.toNat)) (pageBase (h * 1024 + x.fn.toNat) + x.off.toNat) (lo32 x.wdata) s := by
  simp [hostAccess, hm, hw, h8]

theorem hostAccess_read4 (hm : x.off.toNat % 4 = 0) (hw : x.write = false) (h8 : x.size8 = false) :
    hostAccess h x s = doLowerRead (.host h (h * 1024 + x.fn.toNat)) (pageBase (h * 1024 + x.fn.toNat) + x.off.toNat) s := by
  simp [hostAccess, hm, hw, h8]

section
variable (hfn : h * 1024 + x.fn.toNat < nFns s)
include hfn

theorem hostAccess_doorbell (hw : x.write = true) (h8 : x.size8 = true) (ho : x.off = 0) : hostAccess h x s =
    writeDoorbell h (h * 1024 + x.fn.toNat) (some (lo32 x.wdata)) (some (hi32 x.wdata))
      (dropLatch (.host h (h * 1024 + x.fn.toNat)) s) := by
  have hd : isDoorbell s (pageBase (h * 1024 + x.fn.toNat) + 0) = true := isDoorbell_page hfn (by omega)
  have hf : pageFn (pageBase (h * 1024 + x.fn.toNat) + 0) = h * 1024 + x.fn.toNat := pageFn_page (by omega)
  rw [hostAccess_write8 (by rw [ho]; rfl) hw h8, ho]
  change regWrite64 _ (pageBase _ + 0) _ _ = _
  rw [regWrite64, if_pos hd, hf]
  rfl

theorem hostAccess_write_chsel (hw : x.write = true) (h8 : x.size8 = false) (ho : x.off = 0x00C) : hostAccess h x s =
    modFn (h * 1024 + x.fn.toNat) (fun f => { f with chsel := bits x.wdata 0 23 })
      (dropLatch (.host h (h * 1024 + x.fn.toNat)) s) := by
  rw [hostAccess_write4 (by rw [ho]; rfl) hw h8, ho, ← bits_lo32]
  exact regWrite_chsel (hptOf_local h x.fn) hfn _

theorem hostAccess_write_chS (hw : x.write = true) (h8 : x.size8 = true) (ho : x.off = 0x010) : hostAccess h x s =
    modFn (h * 1024 + x.fn.toNat) (fun f => { f with stS := x.wdata }) (dropLatch (.host h (h * 1024 + x.fn.toNat)) s) := by
  rw [hostAccess_write8 (by rw [ho]; rfl) hw h8, ho]
  exact regWrite64_chS (hptOf_local h x.fn) hfn _

theorem hostAccess_read_chsel (hw : x.write = false) (h8 : x.size8 = false) (ho : x.off = 0x00C) : hostAccess h x s =
    answerRead (.host h (h * 1024 + x.fn.toNat)) ((getFn s (h * 1024 + x.fn.toNat)).chsel.zeroExtend 64)
      (dropLatch (.host h (h * 1024 + x.fn.toNat)) s) := by
  have hx := regRead_chsel (hptOf_local h x.fn) hfn
  rw [hostAccess_read4 (by rw [ho]; rfl) hw h8, ho, ← zeroExtend_put_zero _ (by omega)]
  change doLowerRead _ (pageBase _ + 0x00C) _ = _
  rw [doLowerRead, hx]

end
end

/-- Settles O56. First part: the two halves of a 64-bit register, by what stands at the offset and what the requester's
holding register has for it. Second part: the frame over the durable state, then the single registers, then a host's accesses
to its page. -/
theorem registerAccesses : Obligations.RegisterAccesses := by
  refine ⟨fun s r a v hs hr ha hlt hd hm => ?_, fun s hs => ?_⟩
  · have ho : offsetOk a = true := offsetOk_of_lt (by omega) hlt
    have ho4 : offsetOk (a + 4) = true := offsetOk_of_lt (by omega) (by omega)
    refine ⟨fun w hw => ?_, fun hw => ?_, fun old hw hd4 hm4 => ⟨fun h hl => ?_, fun hl => ?_⟩,
      fun w hw hm4 => ⟨fun h hl => ?_, fun hl => ?_⟩, ?_⟩
    · have hl := regWrite_lower ho hm hd ha hw v
      refine ⟨?_, ?_, ?_, fun q hq => ?_, exec_lowerHalfRead hs hr (regRead_wide ho hm hw)⟩
      · rw [exec_lowerHalfWrite_of_wide hs hr hw, hl]
      · rw [exec_registerWrite hs hr, hl]
      · rw [getLatch_setLatch, if_pos rfl]
      · rw [getLatch_setLatch, if_neg hq]
    · refine ⟨exec_lowerHalfWrite_of_narrow hw v, ?_,
        exec_lowerHalfRead hs hr (regRead_narrow ho hm hw (fun h => by omega))⟩
      rw [exec_registerWrite hs hr, regWrite_narrow ho hm hd (fun _ => hw) (fun h => absurd ha h)]
    · rw [exec_registerWrite hs hr, regWrite_upper_held ho4 hm4 hd4 ha hw (latched_of_getLatch hl)]
    · rw [exec_registerWrite hs hr, regWrite_upper_alone ho4 hm4 hd4 ha hw (latched_eq_none hl)]
    · exact exec_lowerHalfRead hs hr (regRead_upper_latched ho4 hm4 ha hw (latched_of_getLatch hl))
    · exact exec_lowerHalfRead hs hr (regRead_upper_now ho4 hm4 ha hw (latched_eq_none hl))
    · refine ⟨_, exec_btimeloRead_mp hs, lo32_zeroExtend _, rfl, ?_, by simp⟩
      rw [getLatch_answerRead, getLatch_setLatch, if_pos rfl]
  · refine ⟨fun r a v t h => ?_, fun r a v hr h => ⟨?_, exec_lowerHalfRead hs hr (regRead_refused h)⟩, fun r a v hr ha => ?_,
      ⟨_, exec_read_id_mp hs, lo32_zeroExtend _, by simp⟩, exec_write_evpendk_kc hs, exec_write_xstarvth_kc hs,
      exec_write_xstarvth_mp hs, fun v => ⟨fun h1 h9 => ?_, fun h => ?_⟩, fun h x hh ht hfn => ?_⟩
    · have hd := durable_execRegisterWrite h
      simp only [durable, Durable.mk.injEq] at hd
      obtain ⟨hpending, -, hcmem, hkram, hrsram, hrules, hactive, hready, hwarn, -⟩ := hd
      exact ⟨hactive, hrules, hcmem, hkram, hrsram, hready, hwarn, hpending⟩
    · rw [exec_registerWrite hs hr, regWrite_refused h]
    · rw [exec_registerWrite hs hr, regWrite_of_lt ha]
    · rw [exec_write_railcfg_mp hs, if_neg (not_or.2 ⟨h1, h9⟩)]
    · rw [exec_write_railcfg_mp hs, if_pos h]
    · simp only [exec_hostTargetAccess hs hh ht]
      refine ⟨fun hm hw => ?_, fun hm hw => ?_, fun hw h8 ho => ?_, fun hw h8 ho => ?_, fun hw h8 ho => ?_, fun hw h8 ho => ?_⟩
      · rw [hostAccess_misaligned_write hm hw]
      · rw [hostAccess_misaligned_read hm hw, answerRead]
      · rw [hostAccess_doorbell hfn hw h8 ho]
      · rw [hostAccess_write_chsel hfn hw h8 ho]
      · refine ⟨_, congrArg _ (hostAccess_write_chS hfn hw h8 ho), ?_, fun j hj => ?_, rfl⟩
        · rw [getFn_modFn, if_pos rfl, getFn_dropLatch]
        · rw [getFn_modFn, if_neg hj, getFn_dropLatch]
      · refine ⟨_, congrArg _ (hostAccess_read_chsel hfn hw h8 ho), ?_, rfl, by simp⟩
        simp [answerRead, tget_tset]

end Sys2Proof.Machine

namespace Sys2Proof.Machine

/-! ### Fields of an instruction word (R64) -/

@[simp] theorem zeroAt_eq_true {w : Word} {lo n : Nat} : zeroAt w lo n = true ↔ fld w lo n = 0 := by simp [zeroAt]

@[simp] theorem zeroAt_eq_false {w : Word} {lo n : Nat} : zeroAt w lo n = false ↔ fld w lo n ≠ 0 := by simp [zeroAt]

theorem fld_lt {k : Nat} (x : BitVec k) (lo n : Nat) : fld x lo n < 2 ^ n := Nat.mod_lt _ (by positivity)

/-! ### An instruction that is due (R66, R72) -/

section
variable {s : State} {e o : Nat} {w : Word}

theorem runOp_of_due (h : due s e o = .run w) (f : Word → State → State) : runOp e o f s = .next (engAfter e (f w s)) := by
  simp only [runOp, h]

/-- What `due` has found out where it lets an instruction run. -/
theorem due_eq_run (h : due s e o = .run w) :
    mayExec s e = true ∧ wordHere s e = w ∧ opc w = o ∧ ¬ (onSpec s e = true ∧ classH o = true) := by
  unfold due at h
  dsimp only at h
  split at h
  · cases h
  split at h
  · cases h
  split at h
  · cases h
  · rename_i hm _ ho
    cases h
    simp_all

theorem onSpec_of_due (h : due s e o = .run w) (hc : classH o = true) : onSpec s e = false := by
  obtain ⟨-, -, -, hs⟩ := due_eq_run h
  simpa [hc] using hs

theorem thr_of_onSpec (h : onSpec s e = false) : thr s e = (getEng s e).main := by
  simp only [onSpec, Option.isSome_eq_false_iff, Option.isNone_iff_eq_none] at h
  simp only [thr, h, Option.getD_none]

end

/-! ### Register loads (R77 to R79) -/

section
variable {s : State} {e : Nat} {w : Word}

/-- No reserved bit of LDS and LDD is set, under the form that the word gives (R77). -/
def LoadOk (w : Word) : Prop := fld w 54 2 = 0 ∧ (fld w 52 2 = 1 → fld w 0 48 = 0) ∧ (fld w 52 2 = 3 → fld w 2 46 = 0)

theorem ldCheck_of_not_ok (h : ¬ LoadOk w) : ldCheck s e w = some 0x12 := by
  unfold ldCheck
  rw [if_pos]
  simp [LoadOk] at h ⊢
  tauto

theorem ldCheck_of_ok (h : LoadOk w) :
    ldCheck s e w = if fld w 52 2 = 1 ∧ straddles s e = true then some 0x13 else none := by
  unfold ldCheck
  rw [if_neg]
  · simp
  · obtain ⟨h54, h1, h3⟩ := h
    simp [h54]
    tauto

theorem loadLen_eq : loadLen w = if fld w 52 2 = 1 then 2 else 1 := by simp [loadLen]

theorem loadValue_eq (cur third : Word) : loadValue s e w cur third =
    if fld w 52 2 = 0 then w64 (fld w 0 48) else if fld w 52 2 = 1 then nextWord s e
    else if fld w 52 2 = 2 then cur + sext 48 w else third := by
  unfold loadValue
  split <;> simp_all [opdZext, opdSext]

theorem doLds_of_fails {c : Byte} (h : ldCheck s e w = some c) : doLds e w s = failInstr e c s := by simp only [doLds, h]

theorem doLds_of_ok (h : ldCheck s e w = none) : doLds e w s = retire e (loadLen w) (modRegs e (fun x => { x with
    s := loadValue s e w (thr s e).regs.s (getK (thr s e).regs (fld w 0 2)), sspace := bits w 48 4 }) s) := by
  simp only [doLds, h]

theorem doLdd_of_fails {c : Byte} (h : ldCheck s e w = some c) : doLdd e w s = failInstr e c s := by simp only [doLdd, h]

theorem doLdd_of_ok (h : ldCheck s e w = none) : doLdd e w s = retire e (loadLen w) (modRegs e (fun x => { x with
    d := loadValue s e w (thr s e).regs.d (getK (thr s e).regs (fld w 0 2)), dspace := bits w 48 4 }) s) := by
  simp only [doLdd, h]

/-- LDN takes forms 0 and 3 only, and N from a K register only where its upper half is 0 (R78). -/
def LdnOk (w k : Word) : Prop :=
  fld w 48 4 = 0 ∧ fld w 54 2 = 0 ∧ (fld w 52 2 = 0 ∧ fld w 32 16 = 0 ∨ fld w 52 2 = 3 ∧ fld w 2 46 = 0 ∧ fld k 32 32 = 0)

theorem doLdn_of_ok (h : LdnOk w (getK (thr s e).regs (fld w 0 2))) : doLdn e w s = retire e 1 (modRegs e (fun x => { x with
    n := if fld w 52 2 = 0 then bits w 0 32 else bits (getK (thr s e).regs (fld w 0 2)) 0 32 }) s) := by
  obtain ⟨h48, h54, ⟨hf, h32⟩ | ⟨hf, h2, hk⟩⟩ := h
  · simp [doLdn, h48, h54, hf, h32]
  · simp [doLdn, h48, h54, hf, h2, hk]

theorem doLdn_of_not_ok (h : ¬ LdnOk w (getK (thr s e).regs (fld w 0 2))) : doLdn e w s = failInstr e 0x12 s := by
  unfold doLdn
  dsimp only
  split
  · rfl
  split
  · rfl
  · have := fld_lt w 52 2
    have hf : fld w 52 2 = 0 ∨ fld w 52 2 = 1 ∨ fld w 52 2 = 2 ∨ fld w 52 2 = 3 := by omega
    rcases hf with hf | hf | hf | hf <;> simp_all [LdnOk]

/-- No reserved bit and no reserved source of LDK (R79). -/
def LdkOk (w : Word) : Prop :=
  fld w 50 2 = 0 ∧ fld w 54 2 = 0 ∧ (fld w 52 2 = 1 → fld w 0 48 = 0) ∧
    (fld w 52 2 = 3 → fld w 3 45 = 0 ∧ fld w 0 3 ≠ 3)

/-- LDK writes K(d); a pacing word that arms and differs leaves the pacing state FLOWING behind it, on a speculative run once
the descriptor is accepted (R181). -/
def loadK (e d len : Nat) (v : Word) (s : State) : State :=
  retire e len (modRegs e (fun x => setK x d v)
    (if !(d == 3 && paceOn v && v != (thr s e).regs.k3) then s
     else if onSpec s e then modThr e (fun t => { t with rearmed := true }) s
     else modEng e (fun x => { x with held := false }) s))

theorem doLdk_of_not_ok (h : ¬ LdkOk w) : doLdk e w s = failInstr e 0x12 s := by
  unfold doLdk
  dsimp only
  rw [if_pos]
  simp [LdkOk] at h ⊢
  tauto

theorem doLdk_of_ok (h : LdkOk w) : doLdk e w s =
    if fld w 52 2 = 1 ∧ straddles s e = true then failInstr e 0x13 s
    else loadK e (fld w 48 2) (loadLen w)
      (loadValue s e w (getK (thr s e).regs (fld w 48 2)) (ldkSource (thr s e).regs (fld w 0 3))) s := by
  unfold doLdk
  dsimp only
  rw [if_neg]
  · simp only [Bool.and_eq_true, beq_iff_eq, loadK]
  · obtain ⟨h50, h54, h1, h3⟩ := h
    simp [h50, h54]
    tauto

end

/-- Settles O5. Each load is taken by its reserved bits, then by its form. -/
theorem registerLoads : Obligations.RegisterLoads := by
  refine ⟨fun s e w => ⟨fun h => ⟨fun hg hs => ?_, fun hg h1 hs => ?_, fun hg => ?_⟩,
      fun h => ⟨fun hg hs => ?_, fun hg h1 hs => ?_, fun hg => ?_⟩⟩,
    fun s e w => ⟨fun h => ⟨fun hg => ?_, fun hg => ?_⟩, fun h =>
      ⟨fun hg hf => ?_, fun hg hf hs => ?_, fun hg hf hs => ?_, fun hg hf => ?_, fun hg hf => ?_, fun hg => ?_⟩⟩⟩ <;>
    refine (runOp_of_due h _).trans ?_
  · rw [doLds_of_ok, loadLen_eq, loadValue_eq]
    rw [ldCheck_of_ok hg, if_neg]
    rintro ⟨h1, ht⟩
    simp [hs h1] at ht
  · rw [doLds_of_fails]
    rw [ldCheck_of_ok hg, if_pos ⟨h1, hs⟩]
  · rw [doLds_of_fails (ldCheck_of_not_ok hg)]
  · rw [doLdd_of_ok, loadLen_eq, loadValue_eq]
    rw [ldCheck_of_ok hg, if_neg]
    rintro ⟨h1, ht⟩
    simp [hs h1] at ht
  · rw [doLdd_of_fails]
    rw [ldCheck_of_ok hg, if_pos ⟨h1, hs⟩]
  · rw [doLdd_of_fails (ldCheck_of_not_ok hg)]
  · rw [doLdn_of_ok hg]
  · rw [doLdn_of_not_ok hg]
  · rw [doLdk_of_ok hg, loadLen_eq, loadValue_eq]
    simp only [hf, if_true, if_false, loadK, Nat.reduceEqDiff, zero_ne_one, false_and]
  · rw [doLdk_of_ok hg, loadLen_eq, loadValue_eq]
    simp [hf, loadK, hs]
  · rw [doLdk_of_ok hg, if_pos ⟨hf, hs⟩]
  · rw [doLdk_of_ok hg, loadLen_eq, loadValue_eq]
    simp [hf, loadK]
  · rw [doLdk_of_ok hg, loadLen_eq, loadValue_eq]
    obtain ⟨-, -, -, h3⟩ := hg
    obtain ⟨-, h3⟩ := h3 hf
    have hlt := fld_lt w 0 3
    generalize fld w 0 3 = n at h3 hlt ⊢
    have hn : n = 0 ∨ n = 1 ∨ n = 2 ∨ n = 4 ∨ n = 5 ∨ n = 6 ∨ n = 7 := by omega
    rcases hn with rfl | rfl | rfl | rfl | rfl | rfl | rfl <;> simp [hf, loadK, ldkSource, getK]
  · rw [doLdk_of_not_ok hg]

end Sys2Proof.Machine

namespace Sys2Proof.Machine

/-! ### The thread of an engine behind a change -/

theorem modEng_congr {e : Nat} {f g : Engine → Engine} {s : State} (h : f (getEng s e) = g (getEng s e)) :
    modEng e f s = modEng e g s := by
  simp only [getEng] at h
  simp only [modEng, tmod, h]

@[simp] theorem thr_modThr (e : Nat) (f : Thread → Thread) (s : State) : thr (modThr e f s) e = f (thr s e) := by
  simp only [thr, modThr, getEng_modEng, if_true]
  cases (getEng s e).spec <;> rfl

@[simp] theorem regs_thr_modRegs (e : Nat) (f : Regs → Regs) (s : State) :
    (thr (modRegs e f s) e).regs = f (thr s e).regs := by
  simp only [modRegs, thr_modThr]

/-! ### MOVE and MOVL (R80 to R85) -/

section
variable {s : State} {e : Nat} {w : Word}

/-- The state with the modes of a MOVE in its registers (R81). -/
def moveModes (e : Nat) (w : Word) (s : State) : State :=
  modRegs e (fun r => { r with sinc := bit w 48, dinc := bit w 49, swap := bits w 50 2 }) s

theorem doMove_of_reserved (h : fld w 0 48 ≠ 0 ∨ (bit w 54 = true ∧ lvlOf s e < 3)) :
    doMove e w s = failInstr e 0x12 s := by
  unfold doMove
  rw [if_pos]
  simpa using h

theorem doMove_of_ok (h : fld w 0 48 = 0) (h3 : bit w 54 = true → 3 ≤ lvlOf s e) : doMove e w s =
    match moveCheck (moveModes e w s) e (thr (moveModes e w s) e).regs with
    | some c => failInstr e c (moveModes e w s)
    | none => beginMove e (newMove (thr (moveModes e w s) e).regs (bits w 52 2) (bit w 54) (bit w 55) none)
        (moveModes e w s) :=
  if_neg (by simpa [h] using h3)

/-- The state with the modes of a MOVL in its registers: the list side is incrementing (R84). -/
def movlModes (e : Nat) (w : Word) (s : State) : State :=
  modRegs e (fun r => { r with
    sinc := if bit w 48 then bit w 49 else true, dinc := if bit w 48 then true else bit w 49, swap := bits w 50 2 }) s

theorem doMovl_of_reserved (h : fld w 0 48 ≠ 0) : doMovl e w s = failInstr e 0x12 s := by
  unfold doMovl
  rw [if_pos]
  simpa using h

theorem doMovl_of_ok (h : fld w 0 48 = 0) : doMovl e w s =
    match movlCheck (movlModes e w s) e (thr (movlModes e w s) e).regs (bit w 48) (bits w 52 4) with
    | some c => failInstr e c (movlModes e w s)
    | none =>
      if (thr (movlModes e w s) e).regs.n = 0 then retire e 1 (movlModes e w s)
      else beginMove e (newMove (thr (movlModes e w s) e).regs 0 false false
        (some (newList (thr (movlModes e w s) e).regs (bit w 48) (bits w 52 4)))) (movlModes e w s) := by
  unfold doMovl
  rw [if_neg]
  · simp only [beq_iff_eq] <;> rfl
  · simpa using h

end

/-- Settles O6. The modes of the word stand in the registers before the checks; what the check answers decides. -/
theorem movesBegin : Obligations.MovesBegin := by
  refine ⟨fun s e w h => ?_, fun s e w h => ?_⟩
  · have hr : (thr (moveModes e w s) e).regs =
        { (thr s e).regs with sinc := bit w 48, dinc := bit w 49, swap := bits w 50 2 } := regs_thr_modRegs ..
    refine ⟨fun hb => ?_, fun h0 h3 => ⟨fun code hc => ?_, fun hc => ?_⟩⟩ <;> refine (runOp_of_due h _).trans ?_
    · rw [doMove_of_reserved hb]
    · rw [doMove_of_ok h0 h3, hr]
      simp only [moveModes, hc]
    · rw [doMove_of_ok h0 h3, hr]
      simp only [moveModes, hc]
      rfl
  · refine ⟨regs_thr_modRegs .., fun hb => ?_, fun h0 => ⟨fun code hc => ?_, fun hc hn => ?_, fun hc hn => ?_⟩⟩ <;>
      refine (runOp_of_due h _).trans ?_
    · rw [doMovl_of_reserved hb]
    · rw [doMovl_of_ok h0]
      simp only [movlModes, hc]
    · rw [doMovl_of_ok h0]
      simp only [movlModes, hc, hn, if_true]
    · rw [doMovl_of_ok h0]
      simp only [movlModes, hc, hn, if_false]
      rfl

/-! ### WAITF, FENCE, BRK (R86 to R91) -/

section
variable {s : State} {e : Nat} {w : Word}

/-- The state with the pacing word of a WAITF in K3; a word that is new begins from FLOWING (R181). -/
def armPace (e : Nat) (w : Word) (s : State) : State :=
  modEng e (fun x => { x with
    held := if pacingWord w = (getEng s e).main.regs.k3 then (getEng s e).held else false
    main := { x.main with regs := { x.main.regs with k3 := pacingWord w } } }) s

theorem doWaitf_of_reserved (h : isWork s e = true ∨ waitfOk s w = false) : doWaitf e w s = failInstr e 0x12 s := by
  unfold doWaitf
  rw [if_pos]
  simpa using h

theorem doWaitf_of_ok (hw : isWork s e = false) (hok : waitfOk s w = true) : doWaitf e w s = paceWait e (armPace e w s) := by
  unfold doWaitf
  rw [if_neg (by simp [hw, hok])]
  refine congrArg (paceWait e) (modEng_congr ?_)
  by_cases hk : pacingWord w = (getEng s e).main.regs.k3 <;> simp [hk]

theorem paceWait_armPace (e : Nat) (w : Word) (s : State) : paceWait e (armPace e w s) =
    if paceEval s (pacingWord w) (if pacingWord w = (getEng s e).main.regs.k3 then (getEng s e).held else false) = true then
      modEng e (fun x => { x with held := true, holdAt := s.time, main := { x.main with phase := .hold } }) (armPace e w s)
    else retire e 1 (modEng e (fun x => { x with held := false }) (armPace e w s)) := by
  have heval : paceEval (armPace e w s) (getEng (armPace e w s) e).main.regs.k3 (getEng (armPace e w s) e).held =
      paceEval s (pacingWord w) (if pacingWord w = (getEng s e).main.regs.k3 then (getEng s e).held else false) := by
    simp only [armPace, getEng_modEng, if_true]
    rfl
  unfold paceWait
  simp only [heval]
  generalize paceEval s (pacingWord w) _ = h
  cases h
  · rfl
  · simp only [if_true, modEng_modEng_self]
    rfl

theorem doFence_of_reserved (h : fld w 0 48 ≠ 0 ∨ fld w 50 6 ≠ 0 ∨ (bit w 49 = true ∧ lvlOf s e < 3)) :
    doFence e w s = failInstr e 0x12 s := by
  unfold doFence
  rw [if_pos]
  simpa [or_assoc] using h

theorem doFence_of_ok (h : ¬ (fld w 0 48 ≠ 0 ∨ fld w 50 6 ≠ 0 ∨ (bit w 49 = true ∧ lvlOf s e < 3))) : doFence e w s =
    if bit w 48 = true then modMain e (fun t => { t with phase := .fence, fenceR := bit w 49, flushedPorts := [] }) s
    else retire e 1 s := by
  unfold doFence
  rw [if_neg (by simpa [or_assoc] using h)]
  cases bit w 48 <;> rfl

theorem doBrk_eq : doBrk e w s = if fld w 0 56 = 0 then retire e 1 (xbreak e s) else failInstr e 0x12 s := by
  unfold doBrk
  by_cases h : fld w 0 56 = 0 <;> simp [h]

end

/-- Settles O7. WAITF by its checks and then by the evaluation of its pacing word, FENCE by its checks and W, BRK by its
checks. -/
theorem pacesAndFences : Obligations.PacesAndFences := by
  refine ⟨fun s e w h => ⟨fun hb => ?_, fun hw hok => ⟨fun hp => ?_, fun hp => ?_⟩⟩,
    fun s e w => ⟨fun h => ⟨fun hb => ?_, fun hb hw => ?_, fun hb hw => ?_⟩, fun h => ⟨fun h0 => ?_, fun h0 => ?_⟩⟩⟩ <;>
    refine (runOp_of_due h _).trans ?_
  · rw [doWaitf_of_reserved hb]
  · rw [doWaitf_of_ok hw hok, paceWait_armPace, if_neg (Bool.eq_false_iff.1 hp)]
    rfl
  · rw [doWaitf_of_ok hw hok, paceWait_armPace, if_pos hp]
    rfl
  · rw [doFence_of_reserved hb]
  · rw [doFence_of_ok hb, if_neg (by simp [hw])]
  · rw [doFence_of_ok hb, if_pos hw]
  · rw [doBrk_eq, if_neg h0]
  · rw [doBrk_eq, if_pos h0]

end Sys2Proof.Machine

namespace Sys2Proof.Machine

/-! ### NOTIFY (R90) -/

section
variable {s : State} {e : Nat} {w : Word}

/-- A write that no rule, no bus master enable and no stage bars leaves (R245, R246, R282). -/
theorem issueWrite_of_passes {q : WrReq} (hs : mayIssue s = true) (h5 : q.space ≠ 5) (h6 : q.space ≠ 6)
    (hfix : q.fix = false) (hp : passes s q.who q.space q.addr q.data.length .wr = true) : (issueWrite q s).1 = .go := by
  simp only [passes, Bool.and_eq_true, Bool.not_eq_true'] at hp
  obtain ⟨hb, hv⟩ := hp
  unfold issueWrite
  rw [if_neg (by simp [hs]), if_neg (by simpa using h5), if_neg (by simpa using h6), if_neg (Bool.eq_false_iff.1 hb)]
  simp [hfix, hv]

@[simp] theorem fst_xCount (f : State → State) (p : Iss × State) : (xCount f p).1 = p.1 := by
  unfold xCount
  split <;> rfl

theorem engWrite_of_passes {q : WrReq} (hs : mayIssue s = true) (h5 : q.space ≠ 5) (h6 : q.space ≠ 6)
    (hfix : q.fix = false) (hp : passes s q.who q.space q.addr q.data.length .wr = true) :
    engWrite e q s = (.go, (engWrite e q s).2) :=
  Prod.ext ((fst_xCount ..).trans (issueWrite_of_passes hs h5 h6 hfix hp)) rfl

/-- No reserved bit and no reserved form of NOTIFY (R90). -/
def NotifyOk (w : Word) : Prop := ¬ (fld w 4 44 ≠ 0 ∨ fld w 54 2 ≠ 0 ∨ fld w 52 2 = 3)

/-- The write that a NOTIFY makes. -/
def notifyReq (s : State) (e : Nat) (w : Word) : WrReq :=
  { who := whoOf s e, space := bits w 48 4, addr := getK (thr s e).regs (fld w 0 2), data := bytesOf (notifyValue s e w) 8
    purpose := .notify e }

theorem doNotify_of_reserved (h : ¬ NotifyOk w) : doNotify e w s = failInstr e 0x12 s := by
  unfold doNotify
  dsimp only
  rw [if_pos]
  simpa [NotifyOk, or_assoc, -not_or] using not_not.1 h

theorem doNotify_of_straddle (h : NotifyOk w) (hf : fld w 52 2 = 1) (hs : straddles s e = true) :
    doNotify e w s = failInstr e 0x13 s := by
  unfold doNotify
  dsimp only
  rw [if_neg (by simpa [NotifyOk, and_assoc] using h), if_pos (by simp [hf, hs])]

/-- Behind the checks of the word: the space, the alignment, then what the write meets. -/
theorem doNotify_of_ok (h : NotifyOk w) (hs : fld w 52 2 = 1 → straddles s e = false) : doNotify e w s =
    if listSpaceOk s (bits w 48 4) = false then failInstr e 0x12 s
    else if aligned (getK (thr s e).regs (fld w 0 2)) 8 = false then failInstr e 0x10 s
    else match engWrite e (notifyReq s e w) s with
      | (.denied, u) => failInstr e 0x20 u
      | (.go, u) => retire e (if fld w 52 2 = 1 then 2 else 1) (modMain e (fun t => { t with accessed := true, flushedPorts := [] }) u)
      | (_, u) => u := by
  unfold doNotify
  dsimp only
  rw [if_neg (by simpa [NotifyOk, and_assoc] using h), if_neg (by simpa using hs)]
  simp only [Bool.not_eq_true', beq_iff_eq] <;> rfl

end

/-- Settles O8. The checks of the word, of the space and of the address in their order, then the gate's answer. -/
theorem notifyWrites : Obligations.NotifyWrites := by
  refine fun s e w h => ⟨fun hb => ?_, fun hb hf hs => ?_, fun hb hs => ⟨fun hl => ?_, fun hl ha => ?_, fun hl ha =>
    ⟨fun u hu => ?_, fun u hu => ?_, fun hm h5 h6 hp => ?_⟩⟩⟩ <;> refine (runOp_of_due h _).trans ?_
  · rw [doNotify_of_reserved (not_not.2 hb)]
  · rw [doNotify_of_straddle hb hf hs]
  · rw [doNotify_of_ok hb hs, if_pos hl]
  · rw [doNotify_of_ok hb hs, if_neg (by simp [hl]), if_pos ha]
  · rw [doNotify_of_ok hb hs, if_neg (by simp [hl]), if_neg (by simp [ha])]
    simp only [notifyReq, hu]
  · rw [doNotify_of_ok hb hs, if_neg (by simp [hl]), if_neg (by simp [ha])]
    simp only [notifyReq, hu]
  · have hgo : engWrite e (notifyReq s e w) s = (.go, (engWrite e (notifyReq s e w) s).2) :=
      engWrite_of_passes hm h5 h6 rfl (by simpa only [notifyReq, length_bytesOf] using hp)
    rw [doNotify_of_ok hb hs, if_neg (by simp [hl]), if_neg (by simp [ha]), hgo]
    rfl

/-! ### BR, LINK, END (R96 to R99) -/

section
variable {s : State} {e : Nat} {w : Word}

/-- No reserved bit, condition or target of BR (R96, R97). -/
def BranchOk (s : State) (e : Nat) (w : Word) : Prop :=
  fld w 3 1 = 0 ∧ fld w 6 42 = 0 ∧ fld w 52 4 = 0 ∧ fld w 48 4 < 13 ∧ fld w 0 3 ≠ 0 ∧ fld w 0 3 ≠ 7 ∧
    fld w 0 3 ≤ progLen (lvlOf s e) (thr s e).words ∧ (isWork s e = true → fld w 48 4 < 10)

/-- The state with the count of a DECNZ taken (R96). -/
def branchCount (e : Nat) (w : Word) (s : State) : State :=
  if fld w 48 4 = 9 then modRegs e (fun x => setK x (fld w 4 2) (getK x (fld w 4 2) - 1)) s else s

theorem doBr_of_not_ok (h : ¬ BranchOk s e w) : doBr e w s = failInstr e 0x12 s := by
  unfold doBr
  dsimp only
  rw [if_pos]
  by_contra hc
  exact h (by simpa [BranchOk, and_assoc] using hc)

theorem doBr_of_ok (h : BranchOk s e w) : doBr e w s = if brTaken s e w (thr s e).regs = true then
      modRegs e (fun x => { x with pc := (thr s e).a + w64 (8 * fld w 0 3) }) (branchCount e w s)
    else retire e 1 (branchCount e w s) := by
  unfold doBr
  dsimp only
  rw [if_neg]
  · simp only [branchCount, beq_iff_eq]
  · obtain ⟨h3, h6, h52, hc, h0, h7, hp, hw⟩ := h
    simp [h3, h6, h52, hc, h0, h7, hp]
    exact hw

/-- The conditions of R96 by number. -/
theorem brTaken_iff (r : Regs) : brTaken s e w r = true ↔
    (fld w 48 4 = 0 ∨ (fld w 48 4 = 1 ∧ r.z = true) ∨ (fld w 48 4 = 2 ∧ r.z = false) ∨ (fld w 48 4 = 3 ∧ r.c = true) ∨
      (fld w 48 4 = 4 ∧ r.c = false) ∨ (fld w 48 4 = 5 ∧ r.b = true) ∨ (fld w 48 4 = 6 ∧ r.b = false) ∨
      (fld w 48 4 = 7 ∧ getK r (fld w 4 2) = 0) ∨ (fld w 48 4 = 8 ∧ getK r (fld w 4 2) ≠ 0) ∨
      (fld w 48 4 = 9 ∧ getK r (fld w 4 2) - 1 ≠ 0) ∨ (fld w 48 4 = 10 ∧ onSpec s e = false ∧ (thr s e).resumed = true) ∨
      (fld w 48 4 = 11 ∧ lastOk s e = true) ∨ (fld w 48 4 = 12 ∧ lastOk s e = false)) := by
  unfold brTaken
  dsimp only
  have hlt := fld_lt w 48 4
  generalize fld w 48 4 = c at hlt ⊢
  interval_cases c <;> simp

end

/-- Settles O10. -/
theorem branches : Obligations.Branches := by
  refine fun s e w h => ⟨fun hg ht => ?_, fun hg ht => ?_, fun hg => ?_⟩ <;> refine (runOp_of_due h _).trans ?_
  · rw [doBr_of_ok hg, if_pos ((brTaken_iff _).2 ht)]
    rfl
  · rw [doBr_of_ok hg, if_neg (mt (brTaken_iff _).1 ht)]
    rfl
  · rw [doBr_of_not_ok hg]

section
variable {s : State} {e : Nat} {w : Word}

/-- A LINK may stand here, and no reserved bit of it is set (R98). -/
def LinkOk (s : State) (e : Nat) (w : Word) : Prop :=
  isWork s e = false ∧ fld w 2 46 = 0 ∧ fld w 53 3 = 0 ∧ (bit w 52 = false → fld w 0 2 = 0)

/-- The target of a LINK: its second word or K(KL). -/
def linkTarget (s : State) (e : Nat) (w : Word) : Word :=
  if bit w 52 = false then nextWord s e else getK (thr s e).regs (fld w 0 2)

theorem doLink_of_not_ok (h : ¬ LinkOk s e w) : doLink e w s = failInstr e 0x12 s := by
  unfold doLink
  dsimp only
  rw [if_pos]
  by_contra hc
  exact h (by simpa [LinkOk, and_assoc] using hc)

theorem doLink_of_ok (h : LinkOk s e w) : doLink e w s =
    if bit w 52 = false ∧ straddles s e = true then failInstr e 0x13 s
    else if listSpaceOk s (bits w 48 4) = false then failInstr e 0x12 s
    else if aligned (linkTarget s e w) 64 = false then failInstr e 0x10 s
    else linkTo e (linkTarget s e w) (bits w 48 4) s := by
  unfold doLink
  dsimp only
  rw [if_neg]
  · simp only [Bool.and_eq_true, Bool.not_eq_true', linkTarget]
    rfl
  · obtain ⟨hw, h2, h53, h0⟩ := h
    simpa [hw, h2, h53] using h0

theorem linkTo_of_onSpec {a : Word} {sp : BitVec 4} (h : onSpec s e = true) : linkTo e a sp s =
    modThr e (fun t => { t with phase := .complete, regs := { t.regs with pc := a, pspace := sp } }) s := if_pos h

theorem linkTo_of_main {a : Word} {sp : BitVec 4} (h : onSpec s e = false) : linkTo e a sp s =
    beginComplete e (doneCode (getEng (discardPath e a sp s) e).main) (a, sp) (discardPath e a sp s) :=
  if_neg (Bool.eq_false_iff.1 h)

theorem doEnd_eq : doEnd e w s = if fld w 0 56 = 0 then endProgram e s else failInstr e 0x12 s := by
  unfold doEnd
  by_cases h : fld w 0 56 = 0 <;> simp [h]

theorem endProgram_of_onSpec (h : onSpec s e = true) : endProgram e s = modThr e (fun t => { t with
    phase := .complete
    regs := { t.regs with pc := t.a + w64 (descSize (lvlOf s e)), pspace := t.aspace } }) s := if_pos h

theorem endProgram_of_main (h : onSpec s e = false) : endProgram e s = endDescr e (doneCode (getEng s e).main) s :=
  if_neg (Bool.eq_false_iff.1 h)

end

/-- Settles O11. -/
theorem endsOfPrograms : Obligations.EndsOfPrograms := by
  refine fun s e w => ⟨fun h => ⟨fun hg => ?_, fun hg hi hs => ?_, fun hg hs => ⟨fun hl => ?_, fun hl ha => ?_,
    fun hl ha hm => ?_, fun hl ha hm => ?_⟩⟩, fun h => ⟨fun h0 => ?_, fun h0 hm => ?_, fun h0 hm => ?_⟩⟩ <;>
    refine (runOp_of_due h _).trans ?_
  · rw [doLink_of_not_ok hg]
  · rw [doLink_of_ok hg, if_pos ⟨hi, hs⟩]
  · rw [doLink_of_ok hg, if_neg (fun ⟨hi, ht⟩ => by simp [hs hi] at ht), if_pos hl]
  · rw [doLink_of_ok hg, if_neg (fun ⟨hi, ht⟩ => by simp [hs hi] at ht), if_neg (by simp [hl]), linkTarget, if_pos ha]
  · rw [doLink_of_ok hg, if_neg (fun ⟨hi, ht⟩ => by simp [hs hi] at ht), if_neg (by simp [hl]), linkTarget,
      if_neg (by simp [ha]), linkTo_of_main hm]
    rfl
  · rw [doLink_of_ok hg, if_neg (fun ⟨hi, ht⟩ => by simp [hs hi] at ht), if_neg (by simp [hl]), linkTarget,
      if_neg (by simp [ha]), linkTo_of_onSpec hm]
  · rw [doEnd_eq, if_neg h0]
  · rw [doEnd_eq, if_pos h0, endProgram_of_main hm]
    rfl
  · rw [doEnd_eq, if_pos h0, endProgram_of_onSpec hm]

/-! ### Level 1 (R105, R106) -/

section
variable {s : State} {e : Nat}

theorem level1Ok_iff (ws : List Word) : level1Ok ws = true ↔ fld (nthWord ws 2) 45 19 = 0 ∧ fld (nthWord ws 3) 60 3 = 0 := by
  simp [level1Ok]

/-- The state with the registers of a level 1 move in place. -/
def level1Regs (e : Nat) (s : State) : State :=
  modRegs e (fun r => { r with
    s := nthWord (thr s e).words 0, d := nthWord (thr s e).words 1, n := bits (nthWord (thr s e).words 2) 0 32
    sspace := bits (nthWord (thr s e).words 2) 32 4, dspace := bits (nthWord (thr s e).words 2) 36 4
    sinc := bit (nthWord (thr s e).words 2) 40, dinc := bit (nthWord (thr s e).words 2) 41
    swap := bits (nthWord (thr s e).words 2) 42 2 }) (modThr e (fun t => { t with l1 := true }) s)

theorem exec_level1Move (h : level1Due s e false = true) :
    exec (.level1MoveDescriptor e) s = .next (engAfter e (doLevel1Move e s)) := if_neg (by simp [h])

theorem exec_level1Link (h : level1Due s e true = true) :
    exec (.level1LinkDescriptor e) s = .next (engAfter e (doLevel1Link e s)) := if_neg (by simp [h])

theorem doLevel1Move_of_reserved (h : ¬ level1Ok (thr s e).words = true) : doLevel1Move e s = failInstr e 0x13 s :=
  if_pos (by simpa using h)

theorem doLevel1Move_of_ok (h : level1Ok (thr s e).words = true) : doLevel1Move e s =
    match moveCheck (level1Regs e s) e (thr (level1Regs e s) e).regs with
    | some c => failInstr e c (level1Regs e s)
    | none => beginMove e (newMove (thr (level1Regs e s) e).regs 0 false false none) (level1Regs e s) :=
  if_neg (by simp [h])

theorem doLevel1Link_of_reserved (h : ¬ level1Ok (thr s e).words = true) : doLevel1Link e s = failInstr e 0x13 s :=
  if_pos (by simpa using h)

theorem doLevel1Link_of_ok (h : level1Ok (thr s e).words = true) : doLevel1Link e s =
    if listSpaceOk s (bits (nthWord (thr s e).words 2) 32 4) = false then failInstr e 0x12 s
    else if aligned (nthWord (thr s e).words 0) 32 = false then failInstr e 0x10 s
    else linkTo e (nthWord (thr s e).words 0) (bits (nthWord (thr s e).words 2) 32 4)
      (modRegs e (fun x => { x with n := 0 }) s) := by
  unfold doLevel1Link
  rw [if_neg (by simp [h])]
  simp only [Bool.not_eq_true']

end

/-- Settles O14. -/
theorem level1Descriptors : Obligations.Level1Descriptors := by
  refine fun s e => ⟨fun h => ⟨fun hb => ?_, fun hok code hc => ?_, fun hok hc => ?_⟩,
    fun h => ⟨fun hb => ?_, fun hok hl => ?_, fun hok hl ha => ?_, fun hok hl ha => ?_⟩⟩
  · rw [exec_level1Move h, doLevel1Move_of_reserved (mt (level1Ok_iff _).1 hb)]
  · rw [exec_level1Move h, doLevel1Move_of_ok ((level1Ok_iff _).2 hok)]
    simp only [level1Regs, hc]
  · rw [exec_level1Move h, doLevel1Move_of_ok ((level1Ok_iff _).2 hok)]
    simp only [level1Regs, hc]
    rfl
  · rw [exec_level1Link h, doLevel1Link_of_reserved (mt (level1Ok_iff _).1 hb)]
  · rw [exec_level1Link h, doLevel1Link_of_ok ((level1Ok_iff _).2 hok), if_pos hl]
  · rw [exec_level1Link h, doLevel1Link_of_ok ((level1Ok_iff _).2 hok), if_neg (by simp [hl]), if_pos ha]
  · rw [exec_level1Link h, doLevel1Link_of_ok ((level1Ok_iff _).2 hok), if_neg (by simp [hl]), if_neg (by simp [ha])]

end Sys2Proof.Machine

namespace Sys2Proof.Machine

/-! ### A header not yet covered (R142) -/

section
variable {s : State} {e : Nat}

/-- The channel of an engine waits for a doorbell: its engine is free, and it is WAITING. -/
def waitForBell (e : Nat) (s : State) : State :=
  barrierStep (modCtx (chanOf s e) (fun x => { x with st := .waiting }) (breakOnLeave (chanOf s e) none (leaveEng e
    (if onSpec s e then s else unhold e (getEng s e).main.regs.pspace (getEng s e).main.regs.pc s))))

theorem exec_seqCoverQuery (hl : live s = true) (hh : holdsChan s e = true) (hs : (getEng s e).stop = .none)
    (hp : (getEng s e).main.phase = .query) : exec (.seqCoverQuery e) s =
      .next (if seqCovers (getCtx s (chanOf s e)).seqseen (getCtx s (chanOf s e)).seqexp = true then
          modMain e (fun t => { t with phase := .fetch })
            (unhold e (getEng s e).main.regs.pspace (getEng s e).main.regs.pc s)
        else waitForBell e s) := by
  refine (if_neg (by simp [hl, hh, hs, hp])).trans ?_
  exact (apply_ite _ _ _ _).symm

theorem st_waitForBell (e : Nat) (s : State) : (getCtx (waitForBell e s) (chanOf s e)).st = .waiting := by
  unfold waitForBell
  rw [getCtx_of_chans (chans_barrierStep _), getCtx_modCtx, if_pos rfl]

theorem getEng_waitForBell (e : Nat) (s : State) : getEng (waitForBell e s) e = {} := by
  unfold waitForBell
  rw [getEng_of_engs (engs_barrierStep _), getEng_modCtx, getEng_of_engs (engs_breakOnLeave ..), leaveEng_eng]

/-! ### The re-read of a descriptor that is part done (R184, R195, R199) -/

theorem resumeLevel1_of_fresh (h : (getEng s e).main.l1 = false) :
    resumeLevel1 e s = modMain e (fun t => { t with phase := .exec }) s := if_pos (by simp [h])

theorem resumeLevel1_of_fails {code : Byte} (h : (getEng s e).main.l1 = true)
    (hc : moveCheck s e (getEng s e).main.regs = some code) : resumeLevel1 e s = endDescr e code s := by
  unfold resumeLevel1
  rw [if_neg (by simp [h])]
  simp only [hc]

theorem resumeLevel1_of_ok (h : (getEng s e).main.l1 = true) (hc : moveCheck s e (getEng s e).main.regs = none) :
    resumeLevel1 e s = modMain e (fun t => { t with
      phase := .moving, mv := some (newMove t.regs 0 false false none) }) s := by
  unfold resumeLevel1
  rw [if_neg (by simp [h])]
  simp only [hc]

section
variable (hl : live s = true) (hh : holdsChan s e = true ∨ isTask s e = true) (hs : (getEng s e).stop = .none)
  (hp : (getEng s e).main.phase = .resumed)
include hl hh hs hp

theorem exec_resume_of_failed {code : Byte} (hr : (getEng s e).main.readErr = some code) :
    exec (.resumeDescriptorReadDone e) s =
      .next (if isTask s e = true then taskFault e code s else barrierStep (stopEng e code none s)) := by
  have hh' : (holdsChan s e || isTask s e) = true := by simpa using hh
  refine (if_neg (by simp [hl, hs, hp, hh'])).trans ?_
  simp only [hr]

theorem exec_resume_of_read (hr : (getEng s e).main.readErr = none) : exec (.resumeDescriptorReadDone e) s =
    .next (if isTask s e = true then engAfter e (endDescr e 0x30 s)
      else if lvlOf s e = 1 then engAfter e (resumeLevel1 e s)
      else if pastEnd (modMain e (fun t => { t with phase := .exec }) s) e
          (getEng (modMain e (fun t => { t with phase := .exec }) s) e).main = true then
        engAfter e (endProgram e (modMain e (fun t => { t with phase := .exec }) s))
      else modMain e (fun t => { t with phase := .exec }) s) := by
  have hh' : (holdsChan s e || isTask s e) = true := by simpa using hh
  refine (if_neg (by simp [hl, hs, hp, hh'])).trans ?_
  simp only [hr, beq_iff_eq, apply_ite Host.Outcome.next]

end
end

/-- Settles O18. -/
theorem coverageAndResuming : Obligations.CoverageAndResuming := by
  refine ⟨fun s e hl hh hs hp => ⟨fun hc => ?_, fun hc => ?_⟩, fun s e hl hh hs hp => ⟨fun code hr ht => ?_,
    fun code hr ht => ?_, fun hr ht => ?_, fun hr h1 hf => ?_, fun hr h1 hf code hc => ?_, fun hr h1 hf hc => ?_,
    fun hr ht h1 hpast => ?_, fun hr ht h1 hpast => ?_⟩⟩
  · rw [exec_seqCoverQuery hl hh hs hp, if_pos hc]
  · rw [exec_seqCoverQuery hl hh hs hp, if_neg (Bool.eq_false_iff.1 hc)]
    exact ⟨_, rfl, st_waitForBell e s, by rw [getEng_waitForBell]⟩
  · rw [exec_resume_of_failed hl hh hs hp hr, if_neg (Bool.eq_false_iff.1 ht)]
  · rw [exec_resume_of_failed hl hh hs hp hr, if_pos ht]
  · rw [exec_resume_of_read hl hh hs hp hr, if_pos ht]
  · obtain ⟨ht, hlvl⟩ := h1
    rw [exec_resume_of_read hl hh hs hp hr, if_neg (Bool.eq_false_iff.1 ht), if_pos hlvl, resumeLevel1_of_fresh hf]
  · obtain ⟨ht, hlvl⟩ := h1
    rw [exec_resume_of_read hl hh hs hp hr, if_neg (Bool.eq_false_iff.1 ht), if_pos hlvl, resumeLevel1_of_fails hf hc]
  · obtain ⟨ht, hlvl⟩ := h1
    rw [exec_resume_of_read hl hh hs hp hr, if_neg (Bool.eq_false_iff.1 ht), if_pos hlvl, resumeLevel1_of_ok hf hc]
  · rw [exec_resume_of_read hl hh hs hp hr, if_neg (Bool.eq_false_iff.1 ht), if_neg h1, if_neg (Bool.eq_false_iff.1 hpast)]
  · rw [exec_resume_of_read hl hh hs hp hr, if_neg (Bool.eq_false_iff.1 ht), if_neg h1, if_pos hpast]

/-! ### The answers of a memory port (R432, R434, R436) -/

/-- What a response crosses, where it is not one to what DSP issued for itself: the lane of its port (log entry 20). -/
def pastLane (r : LmReq) (k : Nat) (s : State) : State := if ownAccess r.purpose = true then s else xLm r.port r.dl k s

/-- The response does not stand behind a frozen crossbar (R235). -/
def Crosses (r : LmReq) (n k : Nat) (s : State) : Prop :=
  ownAccess r.purpose = true ∨ xstands (pastLane r k s) (76 + n) 0 = false

section
variable {s : State} {n tag k : Nat} {r : LmReq}

theorem lmFind_congr {t : State} (h : lmPart t = lmPart s) : lmFind t n tag = lmFind s n tag := by
  simp only [lmPart] at h
  simp only [lmFind, h]

theorem lmFind_pastLane : lmFind (pastLane r k s) n tag = lmFind s n tag := by
  unfold pastLane
  split
  · rfl
  · exact lmFind_congr (lmPart_xLm ..)

theorem lmAnswer_of_crosses {a : Answer} (ha : ∀ t, answerStands t a = xstands t (76 + n) 0) (h : Crosses r n k s)
    (f : State → State) : lmAnswer r k a f s = f (pastLane r k s) := by
  unfold lmAnswer pastLane
  by_cases ho : ownAccess r.purpose = true
  · rw [if_pos ho, if_pos ho]
  · rw [if_neg ho, if_neg ho]
    refine if_neg ?_
    rw [ha]
    simpa [pastLane, ho] using h.resolve_left ho

theorem lmAnswer_of_stands {a : Answer} (ha : ∀ t, answerStands t a = xstands t (76 + n) 0)
    (ho : ownAccess r.purpose = false) (h : xstands (pastLane r k s) (76 + n) 0 = true) (f : State → State) :
    lmAnswer r k a f s = { pastLane r k s with xback := (pastLane r k s).xback ++ [a] } := by
  have hp : pastLane r k s = xLm r.port r.dl k s := if_neg (Bool.eq_false_iff.1 ho)
  rw [hp] at h ⊢
  unfold lmAnswer
  rw [if_neg (Bool.eq_false_iff.1 ho)]
  exact if_pos (by rw [ha, h])

section
variable (hr : s.inReset = false) (ht : tested s (islLmp n) = false) (hw : answerWaits s r.purpose = false)
  (hf : lmFind s n tag = some r)
include hr ht hw hf

theorem exec_lmReadData (resp : MResp) (data : List Byte) (hop : r.op = .read) (hx : readElsewhere r.purpose = false) :
    exec (.lmReadData n tag resp data) s =
      .next (lmAnswer r data.length (.lmRead n tag resp data) (lmReadData n tag resp data) s) := by
  refine (if_neg (by simp [hr, ht])).trans ?_
  simp [hf, hop, hx, hw]

theorem exec_lmWriteResponse (resp : MResp) (h1 : r.op ≠ .read) (h2 : r.op ≠ .upd8) (hx : writeElsewhere r.purpose = false) :
    exec (.lmWriteResponse n tag resp) s = .next (lmAnswer r 0 (.lmWrite n tag resp) (lmWriteResp n tag resp) s) := by
  refine (if_neg (by simp [hr, ht])).trans ?_
  simp [hf, h1, h2, hx, hw]

theorem exec_lmUpd8Response (resp : MResp) (old : Word) (hop : r.op = .upd8) (hx : r.purpose ≠ .owncopy) :
    exec (.lmUpd8Response n tag resp old) s =
      .next (lmAnswer r 8 (.lmUpd8 n tag resp old) (lmUpd8Resp n tag resp old) s) := by
  refine (if_neg (by simp [hr, ht])).trans ?_
  simp [hf, hop, hx, hw]

end
end

/-- DSP's own accesses include every one whose answer has a command of its own (log entry 24), but for stash writes. -/
theorem readElsewhere_of_ownAccess {pu : Purpose} (h : ownAccess pu = false) : readElsewhere pu = false := by
  cases pu <;> simp_all [ownAccess, readElsewhere]

/-- The status of a request behind one more answer (R436): a failure stays the first. -/
def lmCode (r : LmReq) (resp : MResp) : Byte := if r.bad = 0 then readCode resp else r.bad
/-- The data of a read behind one more answer. -/
def lmData (r : LmReq) (data : List Byte) : List Byte := r.got ++ data.take (r.len - r.got.length)

theorem lmReadData_of_find {s : State} {n tag : Nat} {r : LmReq} (hf : lmFind s n tag = some r) (resp : MResp)
    (data : List Byte) : lmReadData n tag resp data s =
      if (lmData r data).length = r.len ∨ (lmCode r resp ≠ 0 ∧ data = []) then
        lmReadEnds r (lmCode r resp) (lmData r data) s
      else lmKeep r (lmCode r resp) (lmData r data) s := by
  simp only [lmReadData, hf]
  refine if_congr ?_ ?_ ?_
  · simp [lmCode, lmData, or_comm]
  · simp only [lmCode, lmData, beq_iff_eq]
  · simp only [lmCode, lmData, beq_iff_eq]

section
variable {s : State} {n tag : Nat} {r : LmReq} (hr : s.inReset = false) (ht : tested s (islLmp n) = false)
  (hw : answerWaits s r.purpose = false) (hf : lmFind s n tag = some r)
include hr ht hw hf

theorem exec_lmReadData_of_crosses {resp : MResp} {data : List Byte} (hop : r.op = .read)
    (hx : readElsewhere r.purpose = false) (hc : Crosses r n data.length s) :
    exec (.lmReadData n tag resp data) s =
      .next (if (lmData r data).length = r.len ∨ (lmCode r resp ≠ 0 ∧ data = []) then
        lmReadEnds r (lmCode r resp) (lmData r data) (pastLane r data.length s)
      else lmKeep r (lmCode r resp) (lmData r data) (pastLane r data.length s)) := by
  rw [exec_lmReadData hr ht hw hf resp data hop hx, lmAnswer_of_crosses (fun _ => rfl) hc,
    lmReadData_of_find (lmFind_pastLane.trans hf)]

theorem exec_lmWriteResponse_of_crosses {resp : MResp} (h1 : r.op ≠ .read) (h2 : r.op ≠ .upd8)
    (hx : writeElsewhere r.purpose = false) (hc : Crosses r n 0 s) : exec (.lmWriteResponse n tag resp) s =
      .next (afterWrite r.purpose (writeEnds r.purpose r.len (writeCode resp)
        (tsvWriteEnds r.purpose r.addr (writeCode resp) (lmRetire r.port r.tag (pastLane r 0 s))))) := by
  rw [exec_lmWriteResponse hr ht hw hf resp h1 h2 hx, lmAnswer_of_crosses (fun _ => rfl) hc, lmWriteResp]
  simp only [lmFind_pastLane.trans hf]

theorem exec_lmUpd8Response_of_engine {resp : MResp} {old : Word} {e : Nat} (hop : r.op = .upd8)
    (hx : r.purpose ≠ .owncopy) (hc : Crosses r n 8 s) (he : purposeEng r.purpose = some e) :
    exec (.lmUpd8Response n tag resp old) s =
      .next (barrierStep (engAfter e (engUpd8Ends r e resp old (lmRetire r.port r.tag (pastLane r 8 s))))) := by
  rw [exec_lmUpd8Response hr ht hw hf resp old hop hx, lmAnswer_of_crosses (fun _ => rfl) hc, lmUpd8Resp]
  simp only [lmFind_pastLane.trans hf, he]

theorem exec_lmUpd8Response_of_dsp {resp : MResp} {old : Word} (hop : r.op = .upd8)
    (hx : r.purpose ≠ .owncopy) (hc : Crosses r n 8 s) (he : purposeEng r.purpose = none) :
    exec (.lmUpd8Response n tag resp old) s =
      .next (barrierStep (dspUpd8Ends r resp old (lmRetire r.port r.tag (pastLane r 8 s)))) := by
  rw [exec_lmUpd8Response hr ht hw hf resp old hop hx, lmAnswer_of_crosses (fun _ => rfl) hc, lmUpd8Resp]
  simp only [lmFind_pastLane.trans hf, he]

end

/-- Settles O26. Each answer reaches its request through the lane of its port, or stands in front of it. -/
theorem memoryAnswers : Obligations.MemoryAnswers := by
  intro s n tag resp data old r hr ht hw hf d code sound past crosses
  have hcode : lmCode r resp = code := by cases resp <;> rfl
  have hpast : past = fun k => pastLane r k s := rfl
  have hcrosses : crosses = fun k => Crosses r n k s := rfl
  have hdata : lmData r data = d := rfl
  clear_value past crosses
  subst hpast hcrosses
  refine ⟨fun hop hx hc => ?_, fun h1 h2 hx hc => ?_, fun hop hx hc => ⟨fun e he => ?_, fun he => ?_⟩,
    fun ho => ⟨fun hop hst => ?_, fun h1 h2 hx hst => ?_, fun hop hst => ?_⟩⟩
  · rw [exec_lmReadData_of_crosses hr ht hw hf hop hx hc, hcode, hdata]
    refine ⟨fun hend => ?_, fun hlen hmore => ?_⟩
    · rw [if_pos hend]
      simp only [lmReadEnds, beq_iff_eq]
      rfl
    · rw [if_neg (by rintro (h | ⟨h, h'⟩); exacts [hlen h, hmore.elim h (fun hd => hd h')])]
      rfl
  · rw [exec_lmWriteResponse_of_crosses hr ht hw hf h1 h2 hx hc]
    cases resp <;> rfl
  · rw [exec_lmUpd8Response_of_engine hr ht hw hf hop hx hc he]
  · rw [exec_lmUpd8Response_of_dsp hr ht hw hf hop hx hc he]
  · rw [exec_lmReadData hr ht hw hf resp data hop (readElsewhere_of_ownAccess ho),
      lmAnswer_of_stands (fun _ => rfl) ho hst]
  · rw [exec_lmWriteResponse hr ht hw hf resp h1 h2 hx, lmAnswer_of_stands (fun _ => rfl) ho hst]
  · have hx : r.purpose ≠ .owncopy := by
      intro hp
      simp [hp, ownAccess] at ho
    rw [exec_lmUpd8Response hr ht hw hf resp old hop hx, lmAnswer_of_stands (fun _ => rfl) ho hst]

end Sys2Proof.Machine

namespace Sys2Proof.Machine

/-! ### K registers -/

theorem getK_setK (r : Regs) (i j : Nat) (v : Word) : getK (setK r i v) j = if j % 4 = i % 4 then v else getK r j := by
  have hi : i % 4 < 4 := Nat.mod_lt _ (by decide)
  have hj : j % 4 < 4 := Nat.mod_lt _ (by decide)
  unfold getK setK
  generalize i % 4 = i at hi ⊢
  generalize j % 4 = j at hj ⊢
  interval_cases i <;> interval_cases j <;> rfl

@[simp] theorem setK_z (r : Regs) (i : Nat) (v : Word) : (setK r i v).z = r.z := by unfold setK; split <;> rfl

@[simp] theorem setK_c (r : Regs) (i : Nat) (v : Word) : (setK r i v).c = r.c := by unfold setK; split <;> rfl

/-! ### What an UPD8 of an engine meets (R93, R245) -/

theorem engUpd8_of_passes {s : State} {e : Nat} {a : Word} (hm : mayIssue s = true)
    (hp : passes s (whoOf s e) 0 a 8 .both = true) (compare cmask value wmask add : Word) (pu : Purpose) :
    engUpd8 e a compare cmask value wmask add pu s = (.go, (engUpd8 e a compare cmask value wmask add pu s).2) := by
  simp only [passes, Bool.and_eq_true] at hp
  obtain ⟨-, hv⟩ := hp
  have hv' : (gateCheck s (68 + lmPortOf s a) (whoOf s e) .both a 8 false).ok = true := hv
  refine Prod.ext ((fst_xCount ..).trans ?_) rfl
  simp [issueUpd8, hm, hv']

/-! ### ATOM (R92, R93) -/

section
variable {s u : State} {e : Nat} {w : Word}

/-- No reserved bit of ATOM; ADD has no second operand (R92). -/
def AtomOk (w : Word) : Prop := fld w 8 40 = 0 ∧ fld w 49 7 = 0 ∧ (bit w 48 = true → fld w 4 2 = 0)

theorem doAtom_of_not_ok (h : ¬ AtomOk w) : doAtom e w s = failInstr e 0x12 s := by
  refine if_pos ?_
  by_contra hc
  exact h (by simpa [AtomOk, and_assoc] using hc)

theorem not_reserved_of_atomOk (h : AtomOk w) :
    ¬ ((!zeroAt w 8 40 || !zeroAt w 49 7 || (bit w 48 && !zeroAt w 4 2)) = true) := by
  simpa [AtomOk, and_assoc] using h

theorem doAtom_of_badAddr (h : AtomOk w) {code : Byte} (ha : lockAddr s e (getK (thr s e).regs (fld w 0 2)) = some code) :
    doAtom e w s = failInstr e code s := by
  refine (if_neg (not_reserved_of_atomOk h)).trans ?_
  simp only [ha]

theorem doAtom_add (h : AtomOk w) (ha : lockAddr s e (getK (thr s e).regs (fld w 0 2)) = none) (hb : bit w 48 = true) :
    doAtom e w s = atomWait e (engUpd8 e (getK (thr s e).regs (fld w 0 2)) 0 0 0 0 (getK (thr s e).regs (fld w 2 2))
      (.atom e) s) := by
  refine (if_neg (not_reserved_of_atomOk h)).trans ?_
  simp only [ha, hb, if_true]

theorem doAtom_cas (h : AtomOk w) (ha : lockAddr s e (getK (thr s e).regs (fld w 0 2)) = none) (hb : bit w 48 = false) :
    doAtom e w s = atomWait e (engUpd8 e (getK (thr s e).regs (fld w 0 2)) (getK (thr s e).regs (fld w 2 2))
      0xFFFFFFFFFFFFFFFF (getK (thr s e).regs (fld w 4 2)) 0xFFFFFFFFFFFFFFFF 0 (.atom e) s) := by
  refine (if_neg (not_reserved_of_atomOk h)).trans ?_
  simp only [ha, hb, Bool.false_eq_true, if_false]

/-! ### LOCK (R94, R208) -/

/-- A LOCK that may stand where it does: no movement work, no reserved bit, a lease within R94. -/
def LockOk (s : State) (e : Nat) (w : Word) : Prop :=
  isWork s e = false ∧ fld w 2 30 = 0 ∧ fld w 44 12 = 0 ∧ leaseOf w ≠ none

theorem doLock_of_not_ok (h : ¬ LockOk s e w) : doLock e w s = failInstr e 0x12 s := by
  refine if_pos ?_
  by_contra hc
  exact h (by simpa [LockOk, and_assoc] using hc)

theorem not_reserved_of_lockOk (h : LockOk s e w) :
    ¬ ((isWork s e || !zeroAt w 2 30 || !zeroAt w 44 12 || (leaseOf w).isNone) = true) := by
  simpa [LockOk, and_assoc] using h

theorem doLock_of_badAddr (h : LockOk s e w) {code : Byte}
    (ha : lockAddr s e (getK (thr s e).regs (fld w 0 2)) = some code) : doLock e w s = failInstr e code s := by
  refine (if_neg (not_reserved_of_lockOk h)).trans ?_
  simp only [ha]

theorem doLock_of_ok (h : LockOk s e w) (ha : lockAddr s e (getK (thr s e).regs (fld w 0 2)) = none) {lease : Nat}
    (hl : leaseOf w = some lease) : doLock e w s = takeLock e (getK (thr s e).regs (fld w 0 2)) lease s := by
  refine (if_neg (not_reserved_of_lockOk h)).trans ?_
  simp only [ha, hl, Option.getD_some]

variable {a : Word} {lease : Nat}

theorem takeLock_of_full (h : lockAt s a = none) (hf : 4096 ≤ s.lock.entries.length) :
    takeLock e a lease s = failInstr e 0x14 (modLock (fun l => { l with full := inc32 l.full }) s) := by
  simp only [takeLock, h, hf, if_true]

/-- An entry is installed once the gate has let the access pass. -/
theorem takeLock_of_go (h : lockAt s a = none) (hf : s.lock.entries.length < 4096)
    (hu : engUpd8 e a 0 0 (lockOwn s e) lockMask 0x0001000000000000 (.lockTake e) s = (.go, u)) :
    takeLock e a lease s = atomWait e (.go, modLock (fun l => { l with
      entries := l.entries ++ [{ addr := a, chan := chanOf s e, fn := fnOf s e, expiry := s.time + w64 lease }] }) u) := by
  simp only [takeLock, h, Nat.not_le.2 hf, if_false, hu]

theorem takeLock_of_denied (h : lockAt s a = none) (hf : s.lock.entries.length < 4096)
    (hu : engUpd8 e a 0 0 (lockOwn s e) lockMask 0x0001000000000000 (.lockTake e) s = (.denied, u)) :
    takeLock e a lease s = failInstr e 0x20 u := by
  simp only [takeLock, h, Nat.not_le.2 hf, if_false, hu]
  rfl

/-- The lease of the entries of a word from now on. -/
def renewed (a : Word) (lease : Nat) (s : State) : State :=
  modLock (fun l => { l with
    entries := l.entries.map (fun z => if z.addr == a then { z with expiry := s.time + w64 lease } else z) }) s

theorem takeLock_of_own {y : LockEntry} (h : lockAt s a = some y) (hc : y.chan = chanOf s e) (hr : y.releasing = false) :
    takeLock e a lease s =
      atomWait e (engUpd8 e a 0 0 (lockOwn s e) lockMask 0 (.lockRenew e) (renewed a lease s)) := by
  simp only [takeLock, h, hc, hr, beq_self_eq_true, Bool.not_false, Bool.and_self, if_true, renewed]

theorem takeLock_of_other {y : LockEntry} (h : lockAt s a = some y) (hc : y.chan ≠ chanOf s e ∨ y.releasing = true) :
    takeLock e a lease s = atomWait e (engUpd8 e a 0 0 0 0 0 (.lockBusy e) s) := by
  simp only [takeLock, h]
  refine if_neg ?_
  simp only [Bool.and_eq_true, beq_iff_eq, Bool.not_eq_true', not_and, Bool.not_eq_false]
  exact fun h' => hc.resolve_left (not_not.2 h')

/-! ### UNLK (R209) -/

/-- An UNLK that may stand where it does. -/
def UnlkOk (s : State) (e : Nat) (w : Word) : Prop := isWork s e = false ∧ fld w 2 54 = 0

theorem doUnlk_of_not_ok (h : ¬ UnlkOk s e w) : doUnlk e w s = failInstr e 0x12 s := by
  refine if_pos ?_
  by_contra hc
  exact h (by simpa [UnlkOk] using hc)

theorem not_reserved_of_unlkOk (h : UnlkOk s e w) : ¬ ((isWork s e || !zeroAt w 2 54) = true) := by
  simpa [UnlkOk] using h

theorem doUnlk_of_badAddr (h : UnlkOk s e w) {code : Byte}
    (ha : lockAddr s e (getK (thr s e).regs (fld w 0 2)) = some code) : doUnlk e w s = failInstr e code s := by
  refine (if_neg (not_reserved_of_unlkOk h)).trans ?_
  simp only [ha]

/-- The channel of the engine holds the lock of a word, and is not giving it back. -/
def HoldsLock (s : State) (e : Nat) (a : Word) : Prop :=
  ∃ x ∈ s.lock.entries, x.addr = a ∧ x.chan = chanOf s e ∧ x.releasing = false

/-- The entry of a word is being given back: nothing waits for its lease any more (R209). -/
def givingBack (a : Word) (s : State) : State :=
  modLock (fun l => { l with
    entries := l.entries.map (fun z => if z.addr == a then { z with releasing := true } else z)
    waiting := l.waiting.filter (fun z => z.addr != a) }) s

theorem any_held_iff : s.lock.entries.any (fun x => x.addr == a && x.chan == chanOf s e && !x.releasing) = true ↔
    HoldsLock s e a := by
  simp [HoldsLock, and_assoc]

theorem not_holdsLock (h : ∀ x ∈ s.lock.entries, x.addr = a → x.chan = chanOf s e → x.releasing = true) :
    ¬ HoldsLock s e a := by
  rintro ⟨x, hx, ha, hc, hr⟩
  simp [h x hx ha hc] at hr

theorem doUnlk_of_none (h : UnlkOk s e w) (ha : lockAddr s e (getK (thr s e).regs (fld w 0 2)) = none)
    (hx : ¬ HoldsLock s e (getK (thr s e).regs (fld w 0 2))) :
    doUnlk e w s = atomWait e (engUpd8 e (getK (thr s e).regs (fld w 0 2)) 0 0 0 0 0 (.unlkNone e) s) := by
  refine (if_neg (not_reserved_of_unlkOk h)).trans ?_
  simp only [ha]
  exact if_neg (mt any_held_iff.1 hx)

section
variable (h : UnlkOk s e w) (ha : lockAddr s e (getK (thr s e).regs (fld w 0 2)) = none)
  (hx : HoldsLock s e (getK (thr s e).regs (fld w 0 2)))
include h ha hx

theorem doUnlk_of_go (hu : engUpd8 e (getK (thr s e).regs (fld w 0 2)) 0 0 0 ((1 : Word) <<< 40) 0 (.unlkRelease e) s =
    (.go, u)) : doUnlk e w s = atomWait e (.go, givingBack (getK (thr s e).regs (fld w 0 2)) u) := by
  refine (if_neg (not_reserved_of_unlkOk h)).trans ?_
  simp only [ha, any_held_iff.2 hx, if_true, hu, givingBack]

theorem doUnlk_of_denied (hu : engUpd8 e (getK (thr s e).regs (fld w 0 2)) 0 0 0 ((1 : Word) <<< 40) 0 (.unlkRelease e) s =
    (.denied, u)) : doUnlk e w s = failInstr e 0x20 (lockFree (getK (thr s e).regs (fld w 0 2)) u) := by
  refine (if_neg (not_reserved_of_unlkOk h)).trans ?_
  simp only [ha, any_held_iff.2 hx, if_true, hu]
  rfl

end
end

/-! ### The answers (R92, R208, R209) -/

section
variable {s : State} {e : Nat} {old : Word} {q : LmReq}

theorem engUpd8Ends_lockTake (h : q.purpose = .lockTake e) : engUpd8Ends q e .ok old s =
    atomRetire e (fun x => { x with z := true, b := x.b || bit old 40 || bit old 41 }) s := by
  simp only [engUpd8Ends, h, beq_self_eq_true, if_true]

theorem engUpd8Ends_lockRenew (h : q.purpose = .lockRenew e) : engUpd8Ends q e .ok old s =
    atomRetire e (fun x => { x with z := true }) s := by
  simp only [engUpd8Ends, h, beq_self_eq_true, if_true]

/-- A lock that is another's, and one that the channel does not hold, are only read. -/
theorem engUpd8Ends_notHeld (h : q.purpose = .lockBusy e ∨ q.purpose = .unlkNone e) : engUpd8Ends q e .ok old s =
    atomRetire e (fun x => { x with z := false }) s := by
  obtain h | h := h <;> simp only [engUpd8Ends, h, beq_self_eq_true, if_true]

theorem engUpd8Ends_unlkRelease (h : q.purpose = .unlkRelease e) : engUpd8Ends q e .ok old s =
    atomRetire e (fun x => { x with z := true }) (lockFree q.addr s) := by
  simp only [engUpd8Ends, h, beq_self_eq_true, if_true]

theorem engUpd8Ends_atom (h : q.purpose = .atom e) : engUpd8Ends q e .ok old s =
    atomRetire e (atomRegs (wordHere s e) old) s := by
  simp only [engUpd8Ends, h, beq_self_eq_true, if_true]

theorem getK_atomRegs (w old : Word) (r : Regs) (k : Nat) :
    getK (atomRegs w old r) k = if k % 4 = fld w 6 2 % 4 then old else getK r k := by
  unfold atomRegs
  rw [getK_setK]
  cases bit w 48 <;> rfl

theorem atomRegs_add {w : Word} (r : Regs) (h : bit w 48 = true) :
    (atomRegs w old r).z = (old + getK r (fld w 2 2) == 0) ∧
    (atomRegs w old r).c = decide (2 ^ 64 ≤ old.toNat + (getK r (fld w 2 2)).toNat) := by
  simp [atomRegs, h]

theorem atomRegs_cas {w : Word} (r : Regs) (h : bit w 48 = false) :
    (atomRegs w old r).z = (old == getK r (fld w 2 2)) ∧ (atomRegs w old r).c = false := by
  simp [atomRegs, h]

end

/-- Settles O9. First part: the checks of each instruction in their order, then what its update meets. Second part: an update
that the gate lets pass, and the answers. -/
theorem atomicInstructions : Obligations.AtomicInstructions := by
  refine ⟨fun s e w => ⟨fun h => ⟨fun hb => ?_, fun h8 h49 h4 => ?_⟩, fun h => ⟨fun hb => ?_, fun hk h2 h44 lease hl => ?_⟩,
    fun h => ⟨fun hb => ?_, fun hk h2 => ?_⟩⟩, fun s e w old q => ⟨fun hm ha hp => ⟨fun h h8 h49 => ?_,
    fun h hk h2 h44 lease hl => ?_, fun h hk h2 => ?_⟩, fun hq => engUpd8Ends_lockTake hq, fun hq => engUpd8Ends_lockRenew hq,
    fun hq => engUpd8Ends_notHeld hq, fun hq => engUpd8Ends_unlkRelease hq, fun hq hs => ?_⟩⟩
  -- ATOM
  · refine (runOp_of_due h _).trans ?_
    rw [doAtom_of_not_ok]
    rintro ⟨h8, h49, h4⟩
    rcases hb with hb | hb | ⟨hb, hb'⟩
    exacts [hb h8, hb h49, hb' (h4 hb)]
  · have hok : AtomOk w := ⟨h8, h49, h4⟩
    refine ⟨fun code ha => ?_, fun ha => ⟨fun hb u => ⟨fun hu => ?_, fun hu => ?_⟩, fun hb u => ⟨fun hu => ?_, fun hu => ?_⟩⟩⟩ <;>
      refine (runOp_of_due h _).trans ?_
    · rw [doAtom_of_badAddr hok ha]
    · rw [doAtom_add hok ha hb, hu, atomWait]
    · rw [doAtom_add hok ha hb, hu, atomWait]
    · rw [doAtom_cas hok ha hb, hu, atomWait]
    · rw [doAtom_cas hok ha hb, hu, atomWait]
  -- LOCK
  · refine (runOp_of_due h _).trans ?_
    rw [doLock_of_not_ok]
    rintro ⟨hk, h2, h44, hl⟩
    rcases hb with hb | hb | hb | hb
    exacts [by simp [hk] at hb, hb h2, hb h44, hl hb]
  · have hok : LockOk s e w := ⟨hk, h2, h44, by simp [hl]⟩
    refine ⟨fun code ha => ?_, fun ha => ⟨fun hn hf u => ⟨fun hu => ?_, fun hu => ?_⟩, fun hn hf => ?_,
      fun y hy hc hr u => ⟨fun hu => ?_, fun hu => ?_⟩, fun y hy hc u => ⟨fun hu => ?_, fun hu => ?_⟩⟩⟩ <;>
      refine (runOp_of_due h _).trans ?_
    · rw [doLock_of_badAddr hok ha]
    · rw [doLock_of_ok hok ha hl, takeLock_of_go hn hf hu, atomWait]
    · rw [doLock_of_ok hok ha hl, takeLock_of_denied hn hf hu]
    · rw [doLock_of_ok hok ha hl, takeLock_of_full hn hf]
    · rw [doLock_of_ok hok ha hl, takeLock_of_own hy hc hr, renewed, hu, atomWait]
    · rw [doLock_of_ok hok ha hl, takeLock_of_own hy hc hr, renewed, hu, atomWait]
    · rw [doLock_of_ok hok ha hl, takeLock_of_other hy hc, hu, atomWait]
    · rw [doLock_of_ok hok ha hl, takeLock_of_other hy hc, hu, atomWait]
  -- UNLK
  · refine (runOp_of_due h _).trans ?_
    rw [doUnlk_of_not_ok]
    rintro ⟨hk, h2⟩
    rcases hb with hb | hb
    exacts [by simp [hk] at hb, hb h2]
  · have hok : UnlkOk s e w := ⟨hk, h2⟩
    refine ⟨fun code ha => ?_, fun ha => ⟨fun hx u => ⟨fun hu => ?_, fun hu => ?_⟩, fun hx u => ⟨fun hu => ?_, fun hu => ?_⟩⟩⟩ <;>
      refine (runOp_of_due h _).trans ?_
    · rw [doUnlk_of_badAddr hok ha]
    · rw [doUnlk_of_none hok ha (not_holdsLock hx), hu, atomWait]
    · rw [doUnlk_of_none hok ha (not_holdsLock hx), hu, atomWait]
    · rw [doUnlk_of_go hok ha hx hu, atomWait, givingBack]
    · rw [doUnlk_of_denied hok ha hx hu]
  -- the updates that pass
  · refine ⟨fun hb h4 => ?_, fun hb => ?_⟩ <;> refine (runOp_of_due h _).trans ?_
    · rw [doAtom_add ⟨h8, h49, fun _ => h4⟩ ha hb, engUpd8_of_passes hm hp, atomWait]
    · rw [doAtom_cas ⟨h8, h49, fun hb' => by simp [hb] at hb'⟩ ha hb, engUpd8_of_passes hm hp, atomWait]
  · have hok : LockOk s e w := ⟨hk, h2, h44, by simp [hl]⟩
    refine ⟨fun hn hf => ?_, fun y hy hc hr => ?_, fun y hy hc => ?_⟩ <;> refine (runOp_of_due h _).trans ?_
    · rw [doLock_of_ok hok ha hl, takeLock_of_go hn hf (engUpd8_of_passes hm hp ..), atomWait]
    · rw [doLock_of_ok hok ha hl, takeLock_of_own hy hc hr, engUpd8_of_passes (s := renewed _ _ _) hm hp, atomWait, renewed]
    · rw [doLock_of_ok hok ha hl, takeLock_of_other hy hc, engUpd8_of_passes hm hp, atomWait]
  · have hok : UnlkOk s e w := ⟨hk, h2⟩
    refine ⟨fun hx => ?_, fun hx => ?_⟩ <;> refine (runOp_of_due h _).trans ?_
    · rw [doUnlk_of_none hok ha (not_holdsLock hx), engUpd8_of_passes hm hp, atomWait]
    · rw [doUnlk_of_go hok ha hx (engUpd8_of_passes hm hp ..), atomWait, givingBack]
  -- the answer to ATOM
  · refine ⟨_, engUpd8Ends_atom hq, ?_, fun k hk hne => ?_, fun hb => atomRegs_add _ hb, fun hb => atomRegs_cas _ hb⟩
    · rw [getK_atomRegs, if_pos rfl]
    · have hrd := fld_lt (wordHere s e) 6 2
      rw [getK_atomRegs, if_neg (by omega)]

end Sys2Proof.Machine

namespace Sys2Proof.Machine

/-! ### Table instructions: the hand-over to TSV (R100, R101) -/

section
variable {s u : State} {e : Nat} {w : Word}

/-- No reserved bit but those of TOP, and a table that runs and is the function's (R101). -/
def TabOk (s : State) (e : Nat) (w : Word) : Prop :=
  fld w 4 44 = 0 ∧ fld w 50 6 = 0 ∧ tabAllowed s e (fld w 0 4) = true

theorem tabCheck_top : tabCheck s e w true = true ↔ TabOk s e w := by
  simp [tabCheck, TabOk, tabInst, and_assoc]

theorem tabCheck_noTop : tabCheck s e w false = true ↔ TabOk s e w ∧ fld w 48 2 = 0 := by
  simp only [tabCheck, TabOk, tabInst, Bool.false_or, Bool.and_eq_true, zeroAt_eq_true]
  tauto

/-! TDEL and TAGE. -/

section
variable {rd : MResp} {f : Inst → Entry → Entry}

theorem tabFound_of_not_ok (h : ¬ (TabOk s e w ∧ fld w 48 2 = 0 ∧
    idFits (getInst s (fld w 0 4)) (bits (thr s e).regs.k0 0 32) = true)) : tabFound rd e f w s = failInstr e 0x12 s := by
  refine if_pos ?_
  by_contra hc
  simp only [Bool.or_eq_true, Bool.not_eq_true', not_or, Bool.not_eq_false] at hc
  obtain ⟨hck, hid⟩ := hc
  obtain ⟨hok, h48⟩ := tabCheck_noTop.1 hck
  exact h ⟨hok, h48, hid⟩

section
variable (hok : TabOk s e w) (h48 : fld w 48 2 = 0)
  (hid : idFits (getInst s (fld w 0 4)) (bits (thr s e).regs.k0 0 32) = true)
include hok h48 hid

theorem tabFound_of_ok : tabFound rd e f w s =
    if bucketBusy s (fld w 0 4) (bits (thr s e).regs.k0 0 32) = true ∨ tabWay s e = false then s
    else tabIssue e (opFound rd e (fld w 0 4) (bits (thr s e).regs.k0 0 32) (f (getInst s (fld w 0 4)))) s := by
  have hid' : idFits (getInst s (tabInst w)) (bits (thr s e).regs.k0 0 32) = true := hid
  refine (if_neg (by simp [tabCheck_noTop.2 ⟨hok, h48⟩, hid'])).trans ?_
  simp only [Bool.or_eq_true, Bool.not_eq_true']
  rfl

theorem tabFound_of_free (hb : bucketBusy s (fld w 0 4) (bits (thr s e).regs.k0 0 32) = false) (hw : tabWay s e = true) :
    tabFound rd e f w s =
      tabIssue e (opFound rd e (fld w 0 4) (bits (thr s e).regs.k0 0 32) (f (getInst s (fld w 0 4)))) s := by
  rw [tabFound_of_ok hok h48 hid, if_neg (by simp [hb, hw])]

theorem tabFound_of_waits (h : bucketBusy s (fld w 0 4) (bits (thr s e).regs.k0 0 32) = true ∨ tabWay s e = false) :
    tabFound rd e f w s = s := by
  rw [tabFound_of_ok hok h48 hid, if_pos h]

end
end

/-! TEPO. -/

section
variable {top : Nat} {op : Nat → Nat → State → State}

theorem tepo_of_not_ok (h : ¬ TabOk s e w ∨ fld w 48 2 = 3) : tepo e top op w s = failInstr e 0x12 s := by
  refine if_pos ?_
  rw [Bool.or_eq_true, beq_iff_eq, Bool.not_eq_true']
  exact h.symm.imp_right fun hn => Bool.eq_false_iff.2 (mt tabCheck_top.1 hn)

theorem tepo_of_ok (h : TabOk s e w) (h3 : fld w 48 2 ≠ 3) : tepo e top op w s =
    if fld w 48 2 ≠ top ∨ tabWay s e = false then s else tabIssue e (op e (fld w 0 4)) s := by
  refine (if_neg (by simp [h3, tabCheck_top.2 h])).trans ?_
  simp only [Bool.or_eq_true, bne_iff_ne, Bool.not_eq_true']
  rfl

theorem tepo_of_top (h : TabOk s e w) (ht : fld w 48 2 = top) (h3 : top ≠ 3) (hw : tabWay s e = true) :
    tepo e top op w s = tabIssue e (op e (fld w 0 4)) s := by
  rw [tepo_of_ok h (ht ▸ h3), if_neg (by simp [ht, hw])]

theorem tepo_of_closed (h : TabOk s e w) (h3 : fld w 48 2 ≠ 3) (hw : tabWay s e = false) : tepo e top op w s = s := by
  rw [tepo_of_ok h h3, if_pos (.inr hw)]

end

/-! TINS and TMOV. -/

theorem fld_48_8_eq_zero : fld w 48 8 = 0 ↔ fld w 48 2 = 0 ∧ fld w 50 6 = 0 := by
  simp only [fld, Nat.shiftRight_eq_div_pow]
  omega

/-- What TINS and TMOV find right before they look at the address of their image (R101). -/
def ImageOk (s : State) (e : Nat) (w : Word) : Prop :=
  fld w 4 44 = 0 ∧ fld w 48 8 = 0 ∧ tabAllowed s e (fld w 0 4) = true ∧ listSpaceOk s (thr s e).regs.sspace = true

/-- The image lies inside the source window of the channel (R111); movement work has none. -/
def ImageInside (s : State) (e : Nat) : Prop :=
  isWork s e = true ∨ windowOk (thr s e).regs.sspace (getCtx s (chanOf s e)).swspace (getCtx s (chanOf s e)).swbase
    (getCtx s (chanOf s e)).swlimit (thr s e).regs.s 32 true = true

/-- The read of an image. -/
def imageReq (s : State) (e : Nat) : RdReq :=
  { who := whoOf s e, space := (thr s e).regs.sspace, addr := (thr s e).regs.s, len := 32, purpose := .image e }

theorem imageOk_iff : ImageOk s e w ↔ tabCheck s e w false = true ∧ listSpaceOk s (thr s e).regs.sspace = true := by
  rw [tabCheck_noTop, ImageOk, fld_48_8_eq_zero, TabOk]
  tauto

theorem tabImage_of_not_ok (h : ¬ ImageOk s e w) : tabImage e w s = failInstr e 0x12 s := by
  unfold tabImage
  dsimp only
  by_cases hc : tabCheck s e w false = true
  · rw [if_neg (by simp [hc]), if_pos]
    simpa [imageOk_iff, hc] using h
  · rw [if_pos (by simpa using hc)]

section
variable (hok : ImageOk s e w)
include hok

theorem tabImage_of_misaligned (ha : aligned (thr s e).regs.s 32 = false) : tabImage e w s = failInstr e 0x10 s := by
  obtain ⟨hc, hl⟩ := imageOk_iff.1 hok
  unfold tabImage
  dsimp only
  rw [if_neg (by simp [hc]), if_neg (by simp [hl]), if_pos (by simp [ha])]

variable (ha : aligned (thr s e).regs.s 32 = true)
include ha

theorem tabImage_of_outside (hi : ¬ ImageInside s e) : tabImage e w s = failInstr e 0x11 s := by
  obtain ⟨hc, hl⟩ := imageOk_iff.1 hok
  unfold tabImage
  dsimp only
  rw [if_neg (by simp [hc]), if_neg (by simp [hl]), if_neg (by simp [ha]), if_pos (by simpa [ImageInside] using hi)]

variable (hi : ImageInside s e)
include hi

theorem tabImage_of_blocked (hb : hostBlocked s e = true) : tabImage e w s = s := by
  obtain ⟨hc, hl⟩ := imageOk_iff.1 hok
  unfold tabImage
  dsimp only
  rw [if_neg (by simp [hc]), if_neg (by simp [hl]), if_neg (by simp [ha]),
    if_neg (by simpa [ImageInside, or_iff_not_imp_left] using hi), if_pos hb]

theorem tabImage_of_go (hb : hostBlocked s e = false) (hg : engRead e (imageReq s e) s = (.go, u)) :
    tabImage e w s = modMain e (fun t => { t with phase := .image, accessed := true }) u := by
  obtain ⟨hc, hl⟩ := imageOk_iff.1 hok
  simp only [imageReq] at hg
  unfold tabImage
  dsimp only
  rw [if_neg (by simp [hc]), if_neg (by simp [hl]), if_neg (by simp [ha]),
    if_neg (by simpa [ImageInside, or_iff_not_imp_left] using hi), if_neg (by simp [hb]), hg]

end

/-- An engine whose instruction is due has no image in hand. -/
theorem imageReady_of_due {o : Nat} (h : due s e o = .run w) (hc : classH o = true) : imageReady s e = false := by
  obtain ⟨hm, -⟩ := due_eq_run h
  have hp : (getEng s e).main.phase = .exec := by
    rw [← thr_of_onSpec (onSpec_of_due h hc)]
    simp only [mayExec, Bool.and_eq_true, beq_iff_eq] at hm
    tauto
  simp [imageReady, hp]

theorem exec_tins_of_due {rd : MResp} (h : due s e 0x60 = .run w) :
    exec (.tins e rd) s = .next (engAfter e (tabImage e w s)) :=
  (if_neg (by simp [imageReady_of_due h rfl])).trans (runOp_of_due h _)

theorem exec_tmov_of_due {rd : MResp} (h : due s e 0x62 = .run w) :
    exec (.tmov e rd) s = .next (engAfter e (tabImage e w s)) :=
  (if_neg (by simp [imageReady_of_due h rfl])).trans (runOp_of_due h _)

theorem imageOp_of_allowed {op : Nat → List Byte → State → State} (hs : onSpec s e = false)
    (h : tabAllowed s e (tabInst (wordHere s e)) = true) :
    imageOp e op s = tabIssue e (op (tabInst (wordHere s e)) (getEng s e).main.image) s := by
  rw [wordHere, thr_of_onSpec hs] at h ⊢
  exact if_neg (by simp [h])

end

/-- Settles O12. -/
theorem tableInstructions : Obligations.TableInstructions := by
  refine ⟨fun s e w rd => ⟨fun h => ⟨fun hb => ?_, fun hok h48 hid hb hw => ?_, fun hok h48 hid hb => ?_⟩,
      fun h => ⟨fun hb => ?_, fun hok h48 hid hb hw => ?_, fun hok h48 hid hb => ?_⟩,
      fun h => ⟨fun hb => ?_, fun hok ht hw => ?_, fun hok ht hw => ?_, fun hok ht hw => ?_, fun hok h3 hw c hc => ?_⟩⟩,
    fun s e w rd hw => ⟨fun c hc => ?_, fun hs hr ha => ⟨fun ho => ?_, fun ho => ?_⟩⟩⟩
  -- TDEL, TAGE
  · refine (runOp_of_due h _).trans ?_
    rw [tabFound_of_not_ok hb]
  · refine (runOp_of_due h _).trans ?_
    rw [tabFound_of_free hok h48 hid hb hw]
    rfl
  · refine (runOp_of_due h _).trans ?_
    rw [tabFound_of_waits hok h48 hid hb]
  · refine (runOp_of_due h _).trans ?_
    rw [tabFound_of_not_ok hb]
  · refine (runOp_of_due h _).trans ?_
    rw [tabFound_of_free hok h48 hid hb hw]
    rfl
  · refine (runOp_of_due h _).trans ?_
    rw [tabFound_of_waits hok h48 hid hb]
  -- TEPO
  · refine (runOp_of_due h _).trans ?_
    rw [tepo_of_not_ok hb]
  · refine (runOp_of_due h _).trans ?_
    rw [tepo_of_top hok ht (by decide) hw]
    rfl
  · refine (runOp_of_due h _).trans ?_
    rw [tepo_of_top hok ht (by decide) hw]
    rfl
  · refine (runOp_of_due h _).trans ?_
    rw [tepo_of_top hok ht (by decide) hw]
    rfl
  · rcases hc with rfl | rfl | rfl <;> refine (runOp_of_due h _).trans ?_ <;> rw [tepo_of_closed hok h3 hw]
  -- TINS, TMOV: the image is read
  · have hex : exec c s = .next (engAfter e (tabImage e w s)) := by
      rcases hc with ⟨rfl, h⟩ | ⟨rfl, h⟩
      exacts [exec_tins_of_due h, exec_tmov_of_due h]
    rw [hex]
    refine ⟨fun hb => ?_, fun hok hal => ?_, fun hok hal hi => ?_, fun hok hal hi hb => ?_, fun hok hal hi hb v hg => ?_⟩
    · rw [tabImage_of_not_ok hb]
    · rw [tabImage_of_misaligned hok hal]
    · rw [tabImage_of_outside hok hal hi]
    · rw [tabImage_of_blocked hok hal hi hb]
    · rw [tabImage_of_go hok hal hi hb hg]
  -- TINS, TMOV: the image is in hand
  · subst hw
    refine (if_pos (by simp [hr, ho])).trans ?_
    rw [imageOp_of_allowed hs ha]
    rfl
  · subst hw
    refine (if_pos (by simp [hr, ho])).trans ?_
    rw [imageOp_of_allowed hs ha]
    rfl

end Sys2Proof.Machine

namespace Sys2Proof.Machine

/-! ### What the accesses of TSV leave of the tables (R317) -/

theorem getInst_of_tsv {s t : State} (h : s.tsv = t.tsv) (i : Nat) : getInst s i = getInst t i := by
  simp only [getInst, h]

@[simp] theorem tsv_xask (r : XReq) (s : State) : (xask r s).tsv = s.tsv := by
  unfold xask
  dsimp only
  split <;> rfl

@[simp] theorem tsv_xpresentAll (idx ord : Nat) (dl : BitVec 20) (bs : List XBurst) (s : State) :
    (xpresentAll idx ord dl bs s).tsv = s.tsv := by
  unfold xpresentAll
  dsimp only
  split
  · rfl
  · rw [tsv_xask]
    rfl

@[simp] theorem time_xask (r : XReq) (s : State) : (xask r s).time = s.time := by
  unfold xask
  dsimp only
  split <;> rfl

@[simp] theorem time_xpresentAll (idx ord : Nat) (dl : BitVec 20) (bs : List XBurst) (s : State) :
    (xpresentAll idx ord dl bs s).time = s.time := by
  unfold xpresentAll
  dsimp only
  split
  · rfl
  · rw [time_xask]
    rfl

@[simp] theorem tsv_xTsv (n : Nat) (s : State) : (xTsv n s).tsv = s.tsv := tsv_xpresentAll ..

@[simp] theorem tsv_xTsvRead (a : Word) (n : Nat) (s : State) : (xTsvRead a n s).tsv = s.tsv :=
  (tsv_xpresentAll ..).trans (tsv_xTsv ..)

@[simp] theorem engs_xTsvRead (a : Word) (n : Nat) (s : State) : engs (xTsvRead a n s) = engs s :=
  (engs_xpresentAll ..).trans (engs_xTsv ..)

@[simp] theorem time_xTsv (n : Nat) (s : State) : (xTsv n s).time = s.time := time_xpresentAll ..

@[simp] theorem time_xTsvRead (a : Word) (n : Nat) (s : State) : (xTsvRead a n s).time = s.time :=
  (time_xpresentAll ..).trans (time_xTsv ..)

/-- A state that an access of TSV has left: the tables, the engines, the time and the durable part are as before. -/
structure TsvKeeps (s t : State) : Prop where
  tsv : t.tsv = s.tsv
  time : t.time = s.time
  engs : engs t = engs s
  durable : durable t = durable s

theorem TsvKeeps.trans {s t u : State} (h : TsvKeeps s t) (k : TsvKeeps t u) : TsvKeeps s u :=
  ⟨k.tsv.trans h.tsv, k.time.trans h.time, k.engs.trans h.engs, k.durable.trans h.durable⟩

theorem TsvKeeps.getInst {s t : State} (h : TsvKeeps s t) (i : Nat) : getInst t i = getInst s i := getInst_of_tsv h.tsv i

theorem TsvKeeps.getEng {s t : State} (h : TsvKeeps s t) (e : Nat) : getEng t e = getEng s e := getEng_of_engs h.engs e

theorem tsv_tsvWrite (a : Word) (d : List Byte) (pu : Purpose) (s : State) : (tsvWrite a d pu s).2.tsv = s.tsv := by
  unfold tsvWrite
  dsimp only
  split
  · rfl
  · rw [tsv_xTsv]
    rfl

theorem time_tsvWrite (a : Word) (d : List Byte) (pu : Purpose) (s : State) : (tsvWrite a d pu s).2.time = s.time := by
  unfold tsvWrite
  dsimp only
  split
  · rfl
  · rw [time_xTsv]
    rfl

theorem engs_tsvWrite (a : Word) (d : List Byte) (pu : Purpose) (s : State) : engs (tsvWrite a d pu s).2 = engs s := by
  unfold tsvWrite
  dsimp only
  split
  · exact engs_denyPrecise ..
  · rw [engs_xTsv, engs_lmIssue]

theorem tsvKeeps_tsvWrite (a : Word) (d : List Byte) (pu : Purpose) (s : State) : TsvKeeps s (tsvWrite a d pu s).2 :=
  ⟨tsv_tsvWrite .., time_tsvWrite .., engs_tsvWrite .., durable_tsvWrite ..⟩

theorem tsvWrite_of_allowed {s : State} {a : Word} {d : List Byte}
    (h : (gateCheck s (68 + lmPortOf s a) tsvWho .wr a d.length false).ok = true) (pu : Purpose) :
    (tsvWrite a d pu s).1 = true := by
  simp [tsvWrite, h]

theorem tsvKeeps_of_bucketRead {s u : State} {i : Nat} {ep : Epoch} {id : Half} {rd : MResp}
    (h : bucketRead i ep id rd s = (true, u)) : TsvKeeps s u := by
  have hd := durable_bucketRead_pair h
  unfold bucketRead at h
  dsimp only at h
  split at h
  · cases h
  split at h
  · cases h
  · cases h
    exact ⟨tsv_xTsvRead .., time_xTsvRead .., engs_xTsvRead .., hd⟩

/-! ### Answers to engines -/

theorem answer_tsvAnswerTo {s : State} {e : Nat} (h : (getEng s e).main.phase = .table) (a : TableAnswer) :
    (getEng (tsvAnswerTo e a s) e).main.answer = some a := by
  simp [tsvAnswerTo, modMain, h]

@[simp] theorem getInst_tsvAnswerTo (e : Nat) (a : TableAnswer) (s : State) (i : Nat) :
    getInst (tsvAnswerTo e a s) i = getInst s i := rfl

/-! ### One entry of the active epoch -/

theorem entAt_withEntry (p q : Place) (x : Entry) (ep : Epoch) :
    entAt (withEntry p x ep) q = if q = p then x else entAt ep q := by
  cases p <;> cases q <;> simp [entAt, withEntry, wayAt, slotAt, tget_tset]

theorem activeEp_modEp (f : Epoch → Epoch) (x : Inst) : activeEp (modEp x.act f x) = f (activeEp x) := by
  unfold modEp activeEp epochOf
  cases x.act <;> simp

@[simp] theorem modEp_mirroring (e : Bool) (f : Epoch → Epoch) (x : Inst) : (modEp e f x).mirroring = x.mirroring := by
  unfold modEp
  split <;> rfl

@[simp] theorem modEp_st (e : Bool) (f : Epoch → Epoch) (x : Inst) : (modEp e f x).st = x.st := by
  unfold modEp
  split <;> rfl

@[simp] theorem length_entBytes (x : Entry) : (entBytes x).length = 32 := by
  simp [entBytes, bytesOfWords]

/-- An entry of a table's active epoch has been put in its place, and nothing else of the tables has changed. -/
def EntryPut (i : Nat) (p : Place) (z : Entry) (s t : State) : Prop :=
  ∃ v, TsvKeeps s v ∧ t = modInst i (modEp (getInst s i).act (withEntry p z)) v

section
variable {s t : State} {i : Nat} {p : Place} {z : Entry}

theorem EntryPut.getInst_self (h : EntryPut i p z s t) :
    getInst t i = modEp (getInst s i).act (withEntry p z) (getInst s i) := by
  obtain ⟨v, hv, rfl⟩ := h
  rw [getInst_modInst, if_pos rfl, hv.getInst]

theorem EntryPut.getInst_other (h : EntryPut i p z s t) {j : Nat} (hj : j ≠ i) : getInst t j = getInst s j := by
  obtain ⟨v, hv, rfl⟩ := h
  rw [getInst_modInst, if_neg hj, hv.getInst]

theorem EntryPut.getEng (h : EntryPut i p z s t) (e : Nat) : getEng t e = getEng s e := by
  obtain ⟨v, hv, rfl⟩ := h
  rw [getEng_modInst, hv.getEng]

theorem EntryPut.durable (h : EntryPut i p z s t) : durable t = durable s := by
  obtain ⟨v, hv, rfl⟩ := h
  rw [durable_modInst, hv.durable]

theorem EntryPut.of_keeps {u : State} (hk : TsvKeeps s u) (h : EntryPut i p z u t) : EntryPut i p z s t := by
  obtain ⟨v, hv, rfl⟩ := h
  exact ⟨v, hk.trans hv, by rw [hk.getInst]⟩

theorem EntryPut.entAt (h : EntryPut i p z s t) (q : Place) :
    entAt (activeEp (getInst t i)) q = if q = p then z else entAt (activeEp (getInst s i)) q := by
  rw [h.getInst_self, activeEp_modEp, entAt_withEntry]

theorem entryPut_putEntry
    (h : (gateCheck s (68 + lmPortOf s (placeAddr (activeEp (getInst s i)) p)) tsvWho .wr
      (placeAddr (activeEp (getInst s i)) p) 32 false).ok = true) :
    EntryPut i p z s (putEntry i (getInst s i).act p z s) := by
  rw [← length_entBytes z] at h
  unfold putEntry tryPut
  dsimp only
  split
  · rename_i v hv
    refine ⟨v, ?_, rfl⟩
    have := tsvKeeps_tsvWrite (placeAddr (epochOf (getInst s i) (getInst s i).act) p) (entBytes z)
      (.tsv i (some ((getInst s i).act, placeBucket (epochOf (getInst s i) (getInst s i).act) p))) s
    rwa [hv] at this
  · rename_i v hv
    have := tsvWrite_of_allowed h (.tsv i (some ((getInst s i).act, placeBucket (epochOf (getInst s i) (getInst s i).act) p)))
    simp only [activeEp] at this
    rw [hv] at this
    cases this

end

/-! ### The operations on a found entry, outside a rebuild (R101, R327) -/

theorem mirrorFound_of_not_mirroring {s : State} {i : Nat} (h : (getInst s i).mirroring = false) (id : Half)
    (f : Entry → Entry) : mirrorFound i id f s = s := by
  unfold mirrorFound
  dsimp only
  rw [if_neg (by simp [h])]

theorem mirrorWrite_of_not_mirroring {s : State} {i : Nat} (h : (getInst s i).mirroring = false) (y : Entry) :
    mirrorWrite i y s = s := by
  unfold mirrorWrite
  dsimp only
  rw [if_neg (by simp [h])]

/-- A found entry is replaced in one write, which is answered with Z = 1; a fault of the table with ILLEGAL_OP. -/
def replaceFound (e i : Nat) (act : Bool) (id : Half) (f : Entry → Entry) (p : Place) (z : Entry) (u : State) : State :=
  let s := mirrorFound i id f (putEntry i act p z u)
  if inFault s i then tsvAnswerTo e { code := 0x12 } s else tsvAnswerTo e { z := true } s

section
variable {s u : State} {e i : Nat} {id : Half} {f : Entry → Entry} {rd : MResp} {p : Place} {z : Entry} {img : List Byte}

theorem opFound_of_found (hb : bucketRead i (activeEp (getInst s i)) id rd s = (true, u))
    (hf : findId (activeEp (getInst s i)) id = some (p, z)) :
    opFound rd e i id f s = replaceFound e i (getInst s i).act id f p (f z) u := by
  unfold opFound
  dsimp only
  rw [hb]
  dsimp only
  rw [hf]
  rfl

theorem opFound_of_absent (hb : bucketRead i (activeEp (getInst s i)) id rd s = (true, u))
    (hf : findId (activeEp (getInst s i)) id = none) : opFound rd e i id f s = tsvAnswerTo e {} u := by
  unfold opFound
  dsimp only
  rw [hb]
  dsimp only
  rw [hf]

/-- The entry that an image spells (R327). -/
def imageEntry (s : State) (i : Nat) (img : List Byte) : Entry :=
  newEntry (bits (wordAt img 0) 0 32) (getInst s i).agecnt 0 true (wordAt img 8) (bits (wordAt img 16) 0 32) (nowUs s)
    (bits (wordAt img 24) 0 8)

/-- No reserved bit of an image is set, and its identifier fits (R327). -/
def ImageFits (s : State) (i : Nat) (img : List Byte) : Prop :=
  zeroAt (wordAt img 24) 8 56 = true ∧ idFits (getInst s i) (bits (wordAt img 0) 0 32) = true

theorem imageFits_iff : ImageFits s i img ↔
    ¬ ((!zeroAt (wordAt img 24) 8 56 || !idFits (getInst s i) (bits (wordAt img 0) 0 32)) = true) := by
  simp [ImageFits]

theorem opTins_of_bad_image (h : ¬ ImageFits s i img) : opTins rd e i img s = tsvAnswerTo e { code := 0x12 } s :=
  if_pos (not_not.1 (mt imageFits_iff.2 h))

theorem opTmov_of_bad_image (h : ¬ ImageFits s i img) : opTmov rd e i img s = tsvAnswerTo e { code := 0x12 } s :=
  if_pos (not_not.1 (mt imageFits_iff.2 h))

section
variable (hok : ImageFits s i img)
  (hb : bucketRead i (activeEp (getInst s i)) (bits (wordAt img 0) 0 32) rd s = (true, u))
include hok hb

theorem opTmov_of_absent (hf : findId (activeEp (getInst s i)) (bits (wordAt img 0) 0 32) = none) :
    opTmov rd e i img s = tsvAnswerTo e {} u := by
  refine (if_neg (imageFits_iff.1 hok)).trans ?_
  simp only [hb, hf]

theorem opTmov_of_found (hf : findId (activeEp (getInst s i)) (bits (wordAt img 0) 0 32) = some (p, z)) :
    opTmov rd e i img s = replaceFound e i (getInst s i).act (bits (wordAt img 0) 0 32) (fun _ => imageEntry s i img) p
      (imageEntry s i img) u := by
  have hu : nowUs u = nowUs s := by simp only [nowUs, (tsvKeeps_of_bucketRead hb).time]
  refine (if_neg (imageFits_iff.1 hok)).trans ?_
  simp only [hb, hf, hu]
  rfl

theorem opTins_of_found (hf : findId (activeEp (getInst s i)) (bits (wordAt img 0) 0 32) = some (p, z)) :
    opTins rd e i img s = tsvAnswerTo e { z := false, c := some false } u := by
  refine (if_neg (imageFits_iff.1 hok)).trans ?_
  simp only [hb, hf]

end
end

/-- Outside a rebuild, and where the gate allows the write, the found entry is replaced and the answer is Z = 1. -/
theorem replaceFound_of_allowed {s u : State} {i : Nat} {p : Place} (hk : TsvKeeps s u)
    (hm : (getInst s i).mirroring = false) (hst : (getInst s i).st ≠ .fault)
    (ha : (gateCheck u (68 + lmPortOf u (placeAddr (activeEp (getInst s i)) p)) tsvWho .wr
      (placeAddr (activeEp (getInst s i)) p) 32 false).ok = true) (e : Nat) (id : Half) (f : Entry → Entry) (z : Entry) :
    ∃ t, EntryPut i p z s t ∧ replaceFound e i (getInst s i).act id f p z u = tsvAnswerTo e { z := true } t := by
  have hput : EntryPut i p z s (putEntry i (getInst s i).act p z u) := by
    rw [← hk.getInst i] at ha ⊢
    exact (entryPut_putEntry ha).of_keeps hk
  refine ⟨_, hput, ?_⟩
  unfold replaceFound
  dsimp only
  rw [mirrorFound_of_not_mirroring (by rw [hput.getInst_self, modEp_mirroring, hm]), if_neg]
  simp [inFault, hput.getInst_self, hst]

/-- What an engine that waits for TSV sees of an entry put for it, and what the rest of the block sees. -/
theorem answered_of_entryPut {s t : State} {e i : Nat} {p : Place} {z : Entry} (he : (getEng s e).main.phase = .table)
    (h : EntryPut i p z s t) :
    entAt (activeEp (getInst (tsvAnswerTo e { z := true } t) i)) p = z ∧
    (∀ q, q ≠ p → entAt (activeEp (getInst (tsvAnswerTo e { z := true } t) i)) q = entAt (activeEp (getInst s i)) q) ∧
    (∀ j, j ≠ i → getInst (tsvAnswerTo e { z := true } t) j = getInst s j) ∧
    (getEng (tsvAnswerTo e { z := true } t) e).main.answer = some { z := true } ∧
    durable (tsvAnswerTo e { z := true } t) = durable s := by
  refine ⟨?_, fun q hq => ?_, fun j hj => ?_, answer_tsvAnswerTo (by rwa [h.getEng]) _, ?_⟩
  · rw [getInst_tsvAnswerTo, h.entAt, if_pos rfl]
  · rw [getInst_tsvAnswerTo, h.entAt, if_neg hq]
  · rw [getInst_tsvAnswerTo, h.getInst_other hj]
  · rw [tsvAnswerTo, durable_modMain, h.durable]

/-! ### No operation of a program begins to mirror (R334) -/

theorem inst_tsvEvent (x : TabEvent) (s : State) : (tsvEvent x s).tsv.inst = s.tsv.inst := by
  unfold tsvEvent
  dsimp only
  split
  · rfl
  · rw [tsv_tsvWrite]
    rfl

theorem getInst_tsvEvent (x : TabEvent) (s : State) (i : Nat) : getInst (tsvEvent x s) i = getInst s i := by
  simp only [getInst, inst_tsvEvent]

theorem tsv_abandonWaiters (l : List Nat) (s : State) : (forAll l (fun e s => tsvAnswerTo e {} s) s).tsv = s.tsv :=
  forAll_ind (fun t => t.tsv = s.tsv) l (fun e s => tsvAnswerTo e {} s) (fun _ _ h => h) s rfl

theorem mirroring_abandonRebuild (i : Nat) (s : State) : (getInst (abandonRebuild i s) i).mirroring = false := by
  unfold abandonRebuild
  rw [getInst_of_tsv (tsv_abandonWaiters _ _), getInst_modInst, if_pos rfl]

theorem mirroring_tsvFault {s : State} {i : Nat} (h : (getInst s i).mirroring = false) (a : Word) :
    (getInst (tsvFault i a s) i).mirroring = false := by
  unfold tsvFault
  dsimp only
  split
  · exact h
  · rw [getInst_tsvEvent]
    refine forAll_ind (fun t => (getInst t i).mirroring = false) _ _ (fun r t ht => ?_) _ (mirroring_abandonRebuild ..)
    cases r.engine <;> exact ht

theorem mirroring_tsvWrite {s : State} {i : Nat} (h : (getInst s i).mirroring = false) (a : Word) (d : List Byte)
    (pu : Purpose) : (getInst (tsvWrite a d pu s).2 i).mirroring = false := by
  rw [getInst_of_tsv (tsv_tsvWrite ..), h]

theorem mirroring_putEntry {s : State} {i : Nat} (h : (getInst s i).mirroring = false) (e : Bool) (p : Place) (z : Entry) :
    (getInst (putEntry i e p z s) i).mirroring = false := by
  unfold putEntry tryPut
  dsimp only
  split <;> rename_i v hv <;> have hm := mirroring_tsvWrite h (placeAddr (epochOf (getInst s i) e) p) (entBytes z)
    (.tsv i (some (e, placeBucket (epochOf (getInst s i) e) p))) <;> rw [hv] at hm
  · simpa using hm
  · exact mirroring_tsvFault hm _

theorem getInst_chooseVictim (i : Nat) (ep : Epoch) (id : Half) (s : State) (j : Nat) :
    getInst (chooseVictim i ep id s).2 j = getInst s j := by
  unfold chooseVictim
  dsimp only
  split <;> rfl

theorem mirroring_placeNew {s : State} {i : Nat} (h : (getInst s i).mirroring = false) (e : Bool) (y : Entry) (r : Reloc) :
    (getInst (placeNew i e y r s).2 i).mirroring = false := by
  unfold placeNew
  dsimp only
  split
  case h_1 => exact mirroring_putEntry h ..
  case h_2 =>
    have hc := getInst_chooseVictim i (epochOf (getInst s i) e) (entId y) s i
    generalize chooseVictim i (epochOf (getInst s i) e) (entId y) s = kv at hc ⊢
    obtain ⟨key, v⟩ := kv
    have hv : (getInst v i).mirroring = false := by rw [hc, h]
    dsimp only
    split
    case h_1 k _ =>
      have hw := mirroring_tsvWrite hv (stashAddr (epochOf (getInst s i) e) k)
        (entBytes (wayAt (epochOf (getInst s i) e) key)) (.stash i key e)
      split <;> rename_i w hw' <;> rw [hw'] at hw
      · simpa using hw
      · exact mirroring_tsvFault hw _
    case h_2 =>
      split
      · exact mirroring_putEntry hv ..
      · rw [getInst_tsvEvent, getInst_modInst, if_pos rfl]
        exact mirroring_putEntry hv ..

/-- TINS places an absent identifier; what waits for a stash write is answered behind it (R319). -/
theorem opTins_of_absent {s u v : State} {e i : Nat} {rd : MResp} {img : List Byte} {c wait : Bool} (hok : ImageFits s i img)
    (hb : bucketRead i (activeEp (getInst s i)) (bits (wordAt img 0) 0 32) rd s = (true, u))
    (hm : (getInst s i).mirroring = false) (hf : findId (activeEp (getInst s i)) (bits (wordAt img 0) 0 32) = none)
    (hp : placeNew i (getInst s i).act (imageEntry s i img) { engine := some e, mirror := false } u = ((c, wait), v))
    (hv : inFault v i = false) :
    opTins rd e i img s = if wait = true then v else tsvAnswerTo e { z := true, c := some c } v := by
  have hk := tsvKeeps_of_bucketRead hb
  have hu : nowUs u = nowUs s := by simp only [nowUs, hk.time]
  have hmv := mirroring_placeNew ((congrArg Inst.mirroring (hk.getInst i)).trans hm) (getInst s i).act (imageEntry s i img)
    { engine := some e, mirror := false }
  rw [hp] at hmv
  refine (if_neg (imageFits_iff.1 hok)).trans ?_
  simp only [imageEntry] at hp
  simp only [hb, hf, hu, hm, hp, hv, mirrorWrite_of_not_mirroring hmv, Bool.false_eq_true, if_false]

/-! ### TSV_ANSWER (R100) -/

theorem exec_tsvAnswer {s : State} {e : Nat} {a : TableAnswer} (hl : live s = true) (hf : engFree s e = false)
    (hp : (getEng s e).main.phase = .table) (ha : (getEng s e).main.answer = some a) (hw : a.waitCopy = false) :
    exec (.tsvAnswer e) s = .next (engAfter e (tabRetire e a s)) := by
  simp only [exec, execTsvAnswer, ha]
  exact if_neg (by simp [hl, hf, hp, hw])

/-- Settles O13. First part: the answers that need no entry. Second part: what is done with a bucket that is read, outside a
rebuild. Third part: an operation retires with its answer. -/
theorem tableAnswers : Obligations.TableAnswers := by
  refine ⟨fun s e i id f rd hp => ⟨fun u hb hf => ?_, ?_, fun hst => ?_, fun hst => ?_, fun hst hc ha => ?_⟩,
    fun s u e i id f rd img hp => ⟨fun hbad => ?_, fun hb hm hst => ⟨fun p z hf ha => ?_, fun hok hid => ?_⟩⟩,
    fun s e a hl hf hp ha hw => ⟨fun hc => ?_, fun hc => ?_⟩⟩
  · have hk := tsvKeeps_of_bucketRead hb
    rw [opFound_of_absent hb hf]
    exact ⟨answer_tsvAnswerTo (by rwa [hk.getEng]) _, fun j => rfl⟩
  · exact ⟨answer_tsvAnswerTo hp _, fun j => rfl⟩
  · have h : opBegin e i s = tsvAnswerTo e {} s := if_pos (by simp [hst])
    rw [h]
    exact ⟨answer_tsvAnswerTo hp _, fun j => rfl⟩
  · have h : opArm e i s = tsvAnswerTo e {} s := if_pos (by simpa using hst)
    rw [h]
    exact ⟨answer_tsvAnswerTo hp _, fun j => rfl⟩
  · have h : opArm e i s = tsvAnswerTo e { z := true } (modInst i (fun x => { x with armed := true }) s) := by
      simp [opArm, hst, hc, ha]
    rw [h]
    refine ⟨answer_tsvAnswerTo hp _, ?_⟩
    rw [getInst_tsvAnswerTo, getInst_modInst, if_pos rfl]
  -- a bucket that is read
  · rw [opTins_of_bad_image hbad, opTmov_of_bad_image hbad]
    exact ⟨answer_tsvAnswerTo hp _, answer_tsvAnswerTo hp _⟩
  · obtain ⟨t, ht, he⟩ := replaceFound_of_allowed (tsvKeeps_of_bucketRead hb) hm hst ha e id f (f z)
    rw [opFound_of_found hb hf, he]
    exact answered_of_entryPut hp ht
  · subst hid
    have hk := tsvKeeps_of_bucketRead hb
    have hpu : (getEng u e).main.phase = .table := by rwa [hk.getEng]
    refine ⟨fun hf => ?_, fun p z hf => ⟨fun ha => ?_, ?_⟩, fun hf c wait v hv hfault => ?_⟩
    · rw [opTmov_of_absent hok hb hf]
      exact ⟨answer_tsvAnswerTo hpu _, fun j => hk.getInst j⟩
    · obtain ⟨t, ht, he⟩ := replaceFound_of_allowed hk hm hst ha e (bits (wordAt img 0) 0 32)
        (fun _ => imageEntry s i img) (imageEntry s i img)
      rw [opTmov_of_found hok hb hf, he]
      exact answered_of_entryPut hp ht
    · rw [opTins_of_found hok hb hf]
      exact ⟨answer_tsvAnswerTo hpu _, fun j => hk.getInst j⟩
    · rw [opTins_of_absent hok hb hm hf hv hfault]
      exact ⟨fun h => if_pos h, fun h => if_neg (by simp [h])⟩
  -- TSV_ANSWER
  · rw [exec_tsvAnswer hl hf hp ha hw, tabRetire, if_pos (by simpa using hc)]
  · rw [exec_tsvAnswer hl hf hp ha hw, tabRetire, if_neg (by simp [hc])]

end Sys2Proof.Machine

namespace Sys2Proof.Machine

/-! ### What presenting an answer leaves of the host ports (R218, R225) -/

@[simp] theorem hp_xask (r : XReq) (s : State) : (xask r s).hp = s.hp := by
  unfold xask
  dsimp only
  split <;> rfl

@[simp] theorem hp_xpresentAll (idx ord : Nat) (dl : BitVec 20) (bs : List XBurst) (s : State) :
    (xpresentAll idx ord dl bs s).hp = s.hp := by
  unfold xpresentAll
  dsimp only
  split
  · rfl
  · rw [hp_xask]
    rfl

@[simp] theorem hp_xHost (h fn : Nat) (dl : BitVec 20) (n : Nat) (s : State) : (xHost h fn dl n s).hp = s.hp :=
  hp_xpresentAll ..

/-! ### The slots of a host port (R274, R277) -/

section
variable {s t : State} {h i : Nat} {x : Slot}

theorem getSlot_congr (ht : t.hp = s.hp) (h i : Nat) : getSlot t h i = getSlot s h i := by
  simp only [getSlot, getHp, ht]

theorem taggedSlot_congr (ht : t.hp = s.hp) (h : Nat) (tag : BitVec 14) : taggedSlot t h tag = taggedSlot s h tag := by
  simp only [taggedSlot, getSlot_congr ht]

/-- The entry at a place is found changed where every entry at that place is. -/
theorem find_map_at {α : Type} (f : α → α) (i : Nat) (l : Tbl α) :
    ((l.map (fun e => if e.1 == i then (i, f e.2) else e)).find? (fun e => e.1 == i)).map (·.2) =
      ((l.find? (fun e => e.1 == i)).map (·.2)).map f := by
  induction l with
  | nil => rfl
  | cons e l ih =>
    by_cases he : e.1 = i
    · simp [he]
    · simpa [he] using ih

theorem getSlot_modSlot_self (h i : Nat) (f : Slot → Slot) (s : State) :
    getSlot (modSlot h i f s) h i = (getSlot s h i).map f := by
  simp only [getSlot, modSlot, getHp_modHp, if_true, find_map_at]

@[simp] theorem hp_resetDone (fn : Nat) (s : State) : (resetDone fn s).hp = s.hp := by
  unfold resetDone
  dsimp only
  split <;> rfl

@[simp] theorem hp_resetsDone (h : Nat) (s : State) : (resetsDone h s).hp = s.hp :=
  forAll_ind (fun t => t.hp = s.hp) _ resetDone (fun fn t ht => (hp_resetDone fn t).trans ht) s rfl

theorem getSlot_quarantine (hx : getSlot s h i = some x) : getSlot (quarantine h i s) h i =
    some { x with quarUntil := some (s.time + w64 (2 * x.cto)), purpose := .dropped } := by
  rw [quarantine, getSlot_congr (hp_resetsDone ..), getSlot_modSlot_self, hx]
  rfl

end

/-! ### Where a piece ends (R235, R275 to R280) -/

section
variable {s : State} {h i : Nat} {x : Slot} {p : Piece}

theorem hostPiece_of_untagged (hx : taggedSlot s h p.tag = none) :
    hostPiece h p s = if p.timeout then s else lateLog h p.tag none s := by
  simp only [hostPiece, hx]

theorem hostPiece_of_quarantined (hx : taggedSlot s h p.tag = some (i, x)) (hq : x.quarUntil.isSome = true) :
    hostPiece h p s = if p.timeout then s else pieceGone h i x p false (lateLog h p.tag (some x.fn) s) := by
  simp only [hostPiece, hx, hq, if_true]

section
variable (hx : taggedSlot s h p.tag = some (i, x)) (hq : x.quarUntil = none)
include hx hq

theorem hostPiece_of_timeout (ht : p.timeout = true) : hostPiece h p s = timeoutSlot h i x s := by
  simp [hostPiece, hx, hq, ht]

theorem hostPiece_of_answeredElsewhere (ht : p.timeout = false) (ha : answeredElsewhere x.purpose = true) :
    hostPiece h p s = s := by
  simp [hostPiece, hx, hq, ht, ha]

theorem hostPiece_of_discarded (ht : p.timeout = false) (ha : answeredElsewhere x.purpose = false) (hd : x.disc ≠ .no) :
    hostPiece h p s = pieceGone h i x p (x.disc == .stop) s := by
  simp [hostPiece, hx, hq, ht, ha, hd]

theorem hostPiece_of_live (ht : p.timeout = false) (ha : answeredElsewhere x.purpose = false) (hd : x.disc = .no) :
    hostPiece h p s = pieceLive h i x p s := by
  simp [hostPiece, hx, hq, ht, ha, hd]

end

/-- The data of a read outside quarantine goes on to the crossbar (R235). -/
def StillUsed (x : Slot) : Prop := x.disc = .no ∧ answeredElsewhere x.purpose = false

theorem pieceIn_of_untagged (hx : taggedSlot s h p.tag = none) : pieceIn h p s = hostPiece h p s := by
  simp only [pieceIn, hx]

theorem pieceIn_of_quarantined (hx : taggedSlot s h p.tag = some (i, x)) (hq : x.quarUntil.isSome = true) :
    pieceIn h p s = hostPiece h p s := by
  simp [pieceIn, hx, Option.isNone_eq_false_iff.2 hq]

theorem pieceIn_of_not_used (hx : taggedSlot s h p.tag = some (i, x)) (hu : ¬ StillUsed x) :
    pieceIn h p s = hostPiece h p s := by
  simp only [pieceIn, hx]
  refine if_neg ?_
  simp only [Bool.and_eq_true, beq_iff_eq, Bool.not_eq_true', and_assoc]
  exact fun ⟨_, hd, ha, _⟩ => hu ⟨hd, ha⟩

theorem pieceIn_of_timeout (hx : taggedSlot s h p.tag = some (i, x)) (ht : p.timeout = true)
    (hb : piecesBehind s h p.tag = []) : pieceIn h p s = hostPiece h p s := by
  simp [pieceIn, hx, ht, hb]

section
variable (hx : taggedSlot s h p.tag = some (i, x)) (hq : x.quarUntil = none) (hu : StillUsed x) (ht : p.timeout = false)
include hx hq hu ht

theorem pieceIn_of_used : pieceIn h p s = crossing (.piece h p) (hostPiece h p) (xHost h x.fn x.dl p.data.length s) := by
  obtain ⟨hd, ha⟩ := hu
  simp [pieceIn, hx, hq, hd, ha, ht]

theorem pieceIn_of_stands (hst : xstands (xHost h x.fn x.dl p.data.length s) (72 + h) 0 = true) : pieceIn h p s =
    { xHost h x.fn x.dl p.data.length s with xback := (xHost h x.fn x.dl p.data.length s).xback ++ [.piece h p] } := by
  rw [pieceIn_of_used hx hq hu ht]
  exact if_pos hst

theorem pieceIn_of_crosses (hst : xstands (xHost h x.fn x.dl p.data.length s) (72 + h) 0 = false) :
    pieceIn h p s = pieceLive h i x p (xHost h x.fn x.dl p.data.length s) := by
  rw [pieceIn_of_used hx hq hu ht, ← hostPiece_of_live ((taggedSlot_congr (hp_xHost ..) ..).trans hx) hq ht hu.2 hu.1]
  exact if_neg (Bool.eq_false_iff.1 hst)

end

/-! ### A piece that reaches a live read (R275, R276) -/

/-- The slot of a read behind one more piece. -/
def withPiece (x : Slot) (p : Piece) : Slot :=
  { x with got := x.got ++ p.data, poisonAt := if p.poison then some (x.poisonAt.getD x.got.length) else x.poisonAt }

/-- The engine whose source bytes have come goes on. -/
def sourceGoesOn (x : Slot) (s : State) : State :=
  match x.purpose with
  | .src e _ => engAfter e s
  | _ => s

theorem pieceLive_of_status (hc : p.status ≠ 0) : pieceLive h i x p s = slotDone h i x 0x21 s :=
  if_pos (by simpa using hc)

theorem pieceLive_of_bad (hc : p.status = 0) (hb : pieceBad x p = true) :
    pieceLive h i x p s = hostEnds h x 0x21 (quarantine h i s) :=
  (if_neg (by simp [hc])).trans (if_pos hb)

section
variable (hc : p.status = 0) (hb : pieceBad x p = false)
include hc hb

theorem pieceLive_of_last (hl : (x.got ++ p.data).length = x.len) :
    pieceLive h i x p s = slotDone h i (withPiece x p) 0 (hostStage x p.data p.poison s) :=
  (if_neg (by simp [hc])).trans ((if_neg (Bool.eq_false_iff.1 hb)).trans (if_pos (beq_iff_eq.2 hl)))

theorem pieceLive_of_more (hl : (x.got ++ p.data).length ≠ x.len) : pieceLive h i x p s =
    sourceGoesOn x (modSlot h i (fun _ => withPiece x p) (hostStage x p.data p.poison s)) :=
  (if_neg (by simp [hc])).trans ((if_neg (Bool.eq_false_iff.1 hb)).trans (if_neg (mt beq_iff_eq.1 hl)))

end

/-! ### The commands of a slot -/

theorem exec_hostCompletionPiece (hr : s.inReset = false) (hh : h < nHosts s) (ht : tested s (islHpt h) = false)
    (p : Piece) : exec (.hostCompletionPiece h p) s = .next (pieceIn h p s) :=
  if_neg (by simp [hr, Nat.not_le.2 hh, ht])

theorem behindEnds_of_none (hb : piecesBehind s h (timeoutPiece i x).tag = []) (hl : x.got.length < x.len) :
    behindEnds s h i x = false := by
  simp only [timeoutPiece] at hb
  simp [behindEnds, hb, hl]

section
variable (hr : s.inReset = false) (ht : tested s (islHpt h) = false) (hx : getSlot s h i = some x)
include hr ht hx

theorem exec_completionTimeout : exec (.completionTimeout h i) s =
    .next (if x.quarUntil.isSome = true ∨ (s.time - x.issued).toNat < x.cto ∨ behindEnds s h i x = true then s
      else pieceIn h (timeoutPiece i x) s) := by
  refine (if_neg (by simp [hr, ht])).trans ?_
  simp only [hx, Bool.or_eq_true, decide_eq_true_eq, or_assoc]
  exact (apply_ite Host.Outcome.next ..).symm

theorem exec_quarantineExpiry_of_past {t : Word} (hq : x.quarUntil = some t) (hp : t.toNat ≤ s.time.toNat) :
    exec (.quarantineExpiry h i) s = .next (slotFree h i s) := by
  refine (if_neg (by simp [hr, ht])).trans ?_
  simp only [hx, hq, Nat.not_lt.2 hp, if_false]

theorem exec_barrierFlushReadDone {fn : Nat} (hq : x.quarUntil = none) (hp : x.purpose = .barrier fn) :
    exec (.barrierFlushReadDone h i) s = .next (slotDone h i x 0 s) := by
  refine (if_neg (by simp [hr, ht])).trans ?_
  simp [hx, hq, hp]

end

/-! ### How a read ends (R122, R124, R278) -/

theorem hostEnds_barrier {fn : Nat} (hp : x.purpose = .barrier fn) (code : Byte) (s : State) :
    hostEnds h x code s = barrierStep (barrierReadEnds h fn x.wseq s) := by
  simp only [hostEnds, hp]

theorem hostEnds_src_of_failed {e off : Nat} (hp : x.purpose = .src e off) {code : Byte} (hc : code ≠ 0) (s : State) :
    hostEnds h x code s = afterRead x.purpose (srcFails e (off + x.got.length) code s) := by
  simp only [hostEnds, hp]
  exact if_neg (mt beq_iff_eq.1 hc)

/-- A flush read is one of a move, or one of an engine (R122, R145). -/
theorem flush_cases {pu : Purpose} (hp : isFlush pu = true) :
    (∃ e lo up, pu = .flush e lo up) ∨ ∃ e, pu = .flushAll e := by
  unfold isFlush at hp
  split at hp
  · exact .inl ⟨_, _, _, rfl⟩
  · exact .inr ⟨_, rfl⟩
  · cases hp

theorem hostEnds_flush (hp : isFlush x.purpose = true) (code : Byte) (s : State) :
    hostEnds h x code s = afterWrite x.purpose (flushEnds x.purpose h x.fn x.wseq code s) := by
  obtain ⟨e, lo, up, hpu⟩ | ⟨e, hpu⟩ := flush_cases hp <;> simp only [hostEnds, hpu, isFlush, if_true]

/-! ### What a timeout tells (R155, R162, R277) -/

theorem timeoutSlot_eq (h i : Nat) (x : Slot) (s : State) : timeoutSlot h i x s =
    if x.disc = .no ∧ x.purpose ≠ .dropped then hostEnds h x 0x22 (timeoutTold h x (quarantine h i s))
    else barrierStep (timeoutTold h x (quarantine h i s)) := by
  rw [← ite_not]
  refine if_congr ?_ rfl rfl
  simp only [Bool.or_eq_true, bne_iff_ne, beq_iff_eq, not_and_or, not_not, ne_eq]

theorem timeoutTold_ahead {e : Nat} {seen : BitVec 24} {sp : BitVec 4} {a : Word} (hp : x.purpose = .ahead e seen sp a) :
    timeoutTold h x s = s := by
  simp only [timeoutTold, hp]

theorem timeoutTold_src {e off : Nat} (hp : x.purpose = .src e off) : timeoutTold h x s =
    if onSpec s e = true then modThr e (fun t => { t with timeouts := t.timeouts ++ [x.fn] }) s
    else reportTimeout h x.fn s := by
  simp only [timeoutTold, hp]

theorem timeoutTold_flush (hp : isFlush x.purpose = true) (hd : x.disc = .no) :
    timeoutTold h x s = reportTimeout h x.fn s := by
  obtain ⟨e, lo, up, hpu⟩ | ⟨e, hpu⟩ := flush_cases hp <;> simp [timeoutTold, hpu, hd]

end

/-! ### The events of a host port (R279, R289) -/

theorem getHp_evS (i : Nat) (s : State) (h : Nat) : getHp (evS i s) h = getHp s h := rfl

theorem evpends_evS (i : Nat) (hi : i < 17) (s : State) : (evS i s).ctl.evpends.getLsbD i = true := by
  simp [evS, hi]

theorem getHp_postCause (i fn : Nat) (s : State) (h : Nat) : getHp (postCause i fn s) h = getHp s h := rfl

theorem mir_postCause (i fn : Nat) (s : State) (f : Nat) : (getFn (postCause i fn s) f).mir = (getFn s f).mir := by
  unfold postCause
  rw [getFn_modFn]
  split
  · subst f
    rfl
  · rfl

theorem familyOf_postCause (i fn : Nat) (s : State) (f : Nat) : familyOf (postCause i fn s) f = familyOf s f := by
  simp only [familyOf, mir_postCause]

theorem evcause_postCause (i : Nat) (hi : i < 11) (fn : Nat) (s : State) :
    (getFn (postCause i fn s) (familyOf (postCause i fn s) fn)).evcause.getLsbD i = true := by
  rw [familyOf_postCause, postCause, getFn_modFn, if_pos rfl]
  simp [hi]

theorem getHp_reportTimeout (h fn : Nat) (s : State) :
    getHp (reportTimeout h fn s) h = { getHp s h with cpltocnt := inc32 (getHp s h).cpltocnt } := by
  rw [reportTimeout, evCplTimeout, getHp_evS, getHp_postCause, getHp_modHp, if_pos rfl]

theorem evcause_reportTimeout (h fn : Nat) (s : State) :
    (getFn (reportTimeout h fn s) (familyOf (reportTimeout h fn s) fn)).evcause.getLsbD 6 = true :=
  evcause_postCause 6 (by decide) fn _

/-- LATELOG takes the late completion; where the event is posted leaves the port alone. -/
theorem getHp_lateLog (h : Nat) (tag : BitVec 14) (fn : Option Nat) (s : State) : getHp (lateLog h tag fn s) h =
    { getHp s h with
      lateTag := tag, lateUnexp := fn.isNone, lateFn := BitVec.ofNat 10 (localOf (fn.getD 0)), lateSeam := s.seam
      latecnt := if fn.isSome then inc32 (getHp s h).latecnt else (getHp s h).latecnt
      unexcnt := if fn.isNone then inc32 (getHp s h).unexcnt else (getHp s h).unexcnt } := by
  cases fn with
  | none => rw [lateLog, getHp_evS, getHp_modFn, getHp_modHp, if_pos rfl]
  | some f => rw [lateLog, getHp_evS, getHp_postCause, getHp_modHp, if_pos rfl]

/-- Settles O27. First part: what a piece meets decides where it ends, then the commands of a slot. Second part: what a
timeout and a late completion leave and tell. -/
theorem hostCompletions : Obligations.HostCompletions := by
  refine ⟨fun s h i x p hr hh ht => ?_, fun s h i x tag => ⟨fun hx => ⟨getSlot_quarantine hx, timeoutSlot_eq ..⟩,
    fun e y l z hp => timeoutTold_ahead hp,
    fun e off hp => ⟨fun ho => ?_, fun ho => ?_, hostEnds_src_of_failed hp (by decide) s⟩,
    fun hp hd => ⟨timeoutTold_flush hp hd, hostEnds_flush hp ..⟩, ?_, fun f => ?_⟩⟩
  · intro used u
    have hused : used = StillUsed x := rfl
    have hu : u = xHost h x.fn x.dl p.data.length s := rfl
    clear_value used u
    subst hused hu
    rw [exec_hostCompletionPiece hr hh ht]
    refine ⟨fun hx => ?_, fun hx hq => ?_, fun hx hq => ⟨fun hto hb => ?_, fun hto ha => ?_, fun hto ha hd => ?_,
      fun hto hu hst => ?_, fun hto hu hst => ?_⟩, fun hx htag hq hc hb hl => ?_, fun hx hb => ?_, fun hx hb => ?_,
      fun hx t hq hp => exec_quarantineExpiry_of_past hr ht hx hq hp, fun hx hq fn hp => ?_⟩
    -- the piece
    · rw [pieceIn_of_untagged hx, hostPiece_of_untagged hx]
    · rw [pieceIn_of_quarantined hx hq, hostPiece_of_quarantined hx hq]
    · rw [← hostPiece_of_timeout hx hq hto]
      rcases hb with hb | hb
      · rw [pieceIn_of_not_used hx hb]
      · rw [pieceIn_of_timeout hx hto hb]
    · rw [pieceIn_of_not_used hx (fun h' => by simp [h'.2] at ha), hostPiece_of_answeredElsewhere hx hq hto ha]
    · rw [pieceIn_of_not_used hx (fun h' => hd h'.1), hostPiece_of_discarded hx hq hto ha hd]
    · rw [pieceIn_of_stands hx hq hu hto hst]
    · rw [pieceIn_of_crosses hx hq hu hto hst]
      refine ⟨fun hs => ?_, fun hs hb => ?_, fun hs hb => ⟨fun hl => ?_, fun hl => ?_⟩⟩
      · rw [pieceLive_of_status hs]
      · rw [pieceLive_of_bad hs hb]
      · rw [pieceLive_of_last hs hb hl]
        rfl
      · rw [pieceLive_of_more hs hb hl]
        rfl
    -- the commands of a slot
    · rw [exec_completionTimeout hr ht hx, if_neg (not_or.2 ⟨by simp [hq], not_or.2 ⟨Nat.not_lt.2 hc,
        by simp [behindEnds_of_none hb hl]⟩⟩), pieceIn_of_timeout htag rfl hb, hostPiece_of_timeout htag hq rfl]
    · rw [exec_completionTimeout hr ht hx, if_pos (.inr (.inr hb))]
    · rw [exec_completionTimeout hr ht hx, if_pos (hb.imp_right .inl)]
    · rw [exec_barrierFlushReadDone hr ht hx hq hp, slotDone, hostEnds_barrier hp]
  -- a timeout of source bytes
  · rw [timeoutTold_src hp, if_pos ho]
  · rw [timeoutTold_src hp, if_neg (Bool.eq_false_iff.1 ho)]
  -- the report of a timeout, and of a late completion
  · refine ⟨?_, evpends_evS 10 (by decide) _, evcause_reportTimeout .., rfl, rfl, durable_reportTimeout ..⟩
    rw [getHp_reportTimeout]
  · refine ⟨?_, ?_, ?_, ?_, ?_, evpends_evS 11 (by decide) _, durable_lateLog ..⟩ <;> rw [getHp_lateLog]

end Sys2Proof.Machine

namespace Sys2Proof.Machine

/-! ### What a read leaves: the contexts -/

theorem chans_hostTry (h : Nat) (w : HostWait) (s : State) : chans (hostTry h w s) = chans s := by
  unfold hostTry
  split
  · rename_i t ht
    split at ht
    · cases ht
    · simp only [hostTake] at ht
      split at ht
      · cases ht
      · cases ht
        rfl
  · exact chans_modHp ..

theorem chans_sendRead (r : RdReq) (v : Verdict) (s : State) : chans (sendRead r v s) = chans s := by
  unfold sendRead
  split
  · exact chans_lmIssue ..
  · exact chans_portRead ..
  · rfl
  · exact chans_hostTry ..

theorem chans_engRead (e : Nat) (r : RdReq) (s : State) : chans (engRead e r s).2 = chans s :=
  (chans_xCount _ (chans_xEngRead e) _).trans (chans_issueReadBy _ r s chans_sendRead)

/-- A read ahead changes no context. -/
theorem chans_fetchAhead (e : Nat) (s : State) : chans (fetchAhead e s) = chans s := by
  unfold fetchAhead
  dsimp only
  split
  · rfl
  split
  · rfl
  split
  · rfl
  · exact chans_engRead ..

/-! ### A read that the gate lets pass (R245, R253, R282) -/

theorem engRead_of_passes {s : State} {e : Nat} {r : RdReq} (hm : mayRead s = true) (hspec : r.spec = false)
    (hfix : r.fix = false) (hport : r.space ≠ 5) (hp : passes s r.who r.space r.addr r.len .rd = true) :
    engRead e r s = (.go, (engRead e r s).2) := by
  obtain ⟨hbme, hv⟩ := Bool.and_eq_true_iff.1 hp
  have hgo : (issueRead r s).1 = .go := by
    simp only [issueRead, issueReadBy, readVerdict, hm, hspec, hfix, hv, (Bool.not_eq_true' _).mp hbme,
      beq_eq_false_iff_ne.2 hport, Bool.not_true, Bool.false_eq_true, Bool.false_and, if_false]
  have hx : ∀ p : Iss × State, p.1 = .go → (xCount (xEngRead e) p).1 = .go := by
    rintro ⟨i, u⟩ rfl
    rfl
  exact Prod.ext (hx _ hgo) rfl

/-- A space that holds lists is no port space (R69, R136). -/
theorem listSpaceOk_ne_port {s : State} {sp : BitVec 4} (h : listSpaceOk s sp = true) : sp ≠ 5 := by
  rintro rfl
  have hn : nHosts s ≤ 4 := by
    unfold nHosts
    split <;> omega
  have : ¬ 5 ≤ nHosts s := by omega
  simp [listSpaceOk, hostSpace, this] at h

/-! ### Descriptor reads (R136, R155, R195) -/

/-- The read of the descriptor at PC. -/
def readAtPc (s : State) (e : Nat) : RdReq :=
  { who := whoOf s e, space := (getEng s e).main.regs.pspace, addr := (getEng s e).main.regs.pc
    len := descSize (lvlOf s e), purpose := .desc e (getCtx s (chanOf s e)).seqseen }

/-- The re-read of the descriptor that an engine resumes. -/
def readAgain (s : State) (e : Nat) : RdReq :=
  { who := whoOf s e, space := (getEng s e).main.aspace, addr := (getEng s e).main.a, len := descSize (lvlOf s e)
    purpose := .resume e }

section
variable {s : State} {e : Nat} {ahead : Bool}

theorem fetchAtPc_of_nowhere
    (h : listSpaceOk s (getEng s e).main.regs.pspace = false ∨
      aligned (getEng s e).main.regs.pc (descSize (lvlOf s e)) = false) :
    fetchAtPc e ahead s = modMain e (fun t => { t with phase := .fetched, readErr := none }) s :=
  if_pos (by simpa using h)

/-- Where nothing is to be read ahead with it, the descriptor at PC is read alone. -/
theorem fetchAtPc_of_alone (hsp : listSpaceOk s (getEng s e).main.regs.pspace = true)
    (hal : aligned (getEng s e).main.regs.pc (descSize (lvlOf s e)) = true)
    (hx : ahead = false ∨ extendedLen s e (descSize (lvlOf s e)) (getEng s e).main.regs.pspace
      (getEng s e).main.regs.pc ≤ descSize (lvlOf s e)) :
    fetchAtPc e ahead s = fetchOutcome e .fetchWait .fetched (engRead e (readAtPc s e) s) := by
  refine (if_neg (by simp [hsp, hal])).trans (if_neg ?_)
  rw [Bool.and_eq_true, decide_eq_true_eq]
  rintro ⟨ha, hlt⟩
  obtain rfl | hle := hx
  · cases ha
  · exact Nat.not_lt.2 hle hlt

theorem fetchResume_eq : fetchResume e s = fetchOutcome e .resumeWait .resumed (engRead e (readAgain s e) s) := rfl

section
variable (hm : mayRead s = true) (hh : holdsChan s e = true ∨ isTask s e = true) (hs : (getEng s e).stop = .none)
  (hb : hostBlocked s e = false)
include hm hh hs hb

theorem descriptorRead_acts :
    ¬ (!mayRead s || !(holdsChan s e || isTask s e) || (getEng s e).stop != .none || hostBlocked s e) = true := by
  have hh' : (holdsChan s e || isTask s e) = true := by simpa using hh
  simp [hm, hh', hs, hb]

theorem exec_descriptorRead_of_fetch (hp : (getEng s e).main.phase = .fetch) :
    exec (.descriptorRead e ahead) s = .next (fetchAtPc e ahead s) := by
  refine (if_neg (descriptorRead_acts hm hh hs hb)).trans ?_
  simp only [hp]

theorem exec_descriptorRead_of_resume (hp : (getEng s e).main.phase = .resume) :
    exec (.descriptorRead e ahead) s = .next (fetchResume e s) := by
  refine (if_neg (descriptorRead_acts hm hh hs hb)).trans ?_
  simp only [hp]

theorem exec_descriptorRead_of_other (hf : (getEng s e).main.phase ≠ .fetch)
    (hr : (getEng s e).main.phase ≠ .resume) :
    exec (.descriptorRead e ahead) s = .next (if ahead = true then fetchAhead e s else s) := by
  refine (if_neg (descriptorRead_acts hm hh hs hb)).trans ?_
  split
  · contradiction
  · contradiction
  · exact (apply_ite Host.Outcome.next ..).symm

end

/-! ### A header that is refused (R141) -/

/-- The engine still holds its channel when that stops. -/
theorem holds_unhold_discardSpec (sp : BitVec 4) (a : Word) :
    (getEng (unhold e sp a (discardSpec e s)) e).hold = (getEng s e).hold ∧
    (getEng (unhold e sp a (discardSpec e s)) e).ecc = (getEng s e).ecc := by
  rw [unhold, getEng_modEng, if_pos rfl, discardSpec]
  split
  · rw [getEng_modEng, if_pos rfl]
    exact ⟨rfl, rfl⟩
  · exact ⟨rfl, rfl⟩

theorem chanOf_of_hold {t : State} (h : (getEng t e).hold = (getEng s e).hold) : chanOf t e = chanOf s e := by
  simp only [chanOf, h]

theorem refuseHeader_ctx (code : Byte) : (getCtx (refuseHeader e code s) (chanOf s e)).st = .stopped ∧
    (getCtx (refuseHeader e code s) (chanOf s e)).lastcode = if (getEng s e).ecc then 0x21 else code := by
  obtain ⟨hhold, hecc⟩ := holds_unhold_discardSpec (s := s) (e := e) (getEng s e).main.regs.pspace
    (getEng s e).main.regs.pc
  rw [refuseHeader, getCtx_of_chans (chans_barrierStep _), ← chanOf_of_hold hhold, ← hecc]
  exact stopEng_ctx ..

theorem refuseHeader_eng (code : Byte) : getEng (refuseHeader e code s) e = {} := by
  rw [refuseHeader, getEng_of_engs (engs_barrierStep _), stopEng_eng]

/-! ### What is decided on a header (R141) -/

section
variable (hl : live s = true) (hn : s.pf.stage = .normal) (hh : holdsChan s e = true) (hs : (getEng s e).stop = .none)
  (hp : (getEng s e).main.phase = .fetched)
include hl hn hh hs hp

theorem descriptorReadDone_acts : ¬ (!live s || s.pf.stage != .normal || !holdsChan s e || (getEng s e).stop != .none ||
    (getEng s e).main.phase != .fetched) = true := by
  simp [hl, hn, hh, hs, hp]

theorem exec_descriptorReadDone_of_space (hsp : listSpaceOk s (getEng s e).main.regs.pspace = false) :
    exec (.descriptorReadDone e) s = .next (refuseHeader e 0x12 s) :=
  (if_neg (descriptorReadDone_acts hl hn hh hs hp)).trans (if_pos (by simp [hsp]))

variable (hsp : listSpaceOk s (getEng s e).main.regs.pspace = true)
include hsp

theorem exec_descriptorReadDone_of_misaligned
    (hal : aligned (getEng s e).main.regs.pc (descSize (lvlOf s e)) = false) :
    exec (.descriptorReadDone e) s = .next (refuseHeader e 0x10 s) :=
  (if_neg (descriptorReadDone_acts hl hn hh hs hp)).trans ((if_neg (by simp [hsp])).trans (if_pos (by simp [hal])))

variable (hal : aligned (getEng s e).main.regs.pc (descSize (lvlOf s e)) = true)
include hal

theorem exec_descriptorReadDone_of_failed {code : Byte} (hr : (getEng s e).main.readErr = some code) :
    exec (.descriptorReadDone e) s = .next (refuseHeader e code s) := by
  refine (if_neg (descriptorReadDone_acts hl hn hh hs hp)).trans ((if_neg (by simp [hsp])).trans
    ((if_neg (by simp [hal])).trans ?_))
  simp only [hr]

variable (hr : (getEng s e).main.readErr = none)
include hr

theorem exec_descriptorReadDone_of_notHeld
    (hno : heldAt s e (getEng s e).main.regs.pspace (getEng s e).main.regs.pc = none) :
    exec (.descriptorReadDone e) s = .next (modMain e (fun t => { t with phase := .fetch }) s) := by
  refine (if_neg (descriptorReadDone_acts hl hn hh hs hp)).trans ((if_neg (by simp [hsp])).trans
    ((if_neg (by simp [hal])).trans ?_))
  simp only [hr, hno]

/-- A header that is held: coverage first, then OWN and SEQ. -/
theorem exec_descriptorReadDone_of_held {h : Held}
    (hh' : heldAt s e (getEng s e).main.regs.pspace (getEng s e).main.regs.pc = some h) :
    exec (.descriptorReadDone e) s =
      .next (if seqCovers h.seen (getCtx s (chanOf s e)).seqexp = true then
          if hdrOwn (lvlOf s e) h.words = true ∧ hdrSeq (lvlOf s e) h.words = (getCtx s (chanOf s e)).seqexp then
            engAfter e (acceptHeader e h s)
          else evDescFault (fnOf s e) (refuseHeader e 0x13 s)
        else modMain e (fun t => { t with phase := .query }) s) := by
  refine (if_neg (descriptorReadDone_acts hl hn hh hs hp)).trans ((if_neg (by simp [hsp])).trans
    ((if_neg (by simp [hal])).trans ?_))
  simp only [hr, hh', Bool.not_eq_true', ← Bool.not_eq_true, ite_not, Bool.and_eq_true, beq_iff_eq,
    apply_ite Host.Outcome.next]

end
end

/-- Settles O17. First part: what is read, and the gate's answer. Second part: the rows of R141 in their order. -/
theorem descriptorDecisions : Obligations.DescriptorDecisions := by
  refine ⟨fun s e hm hh hs hb => ⟨fun hp ahead => ⟨fun hno => ?_,
        fun hsp hal hx => ⟨fun u hu => ?_, fun hpass => ?_, fun u hu => ?_⟩⟩,
      fun hp ahead => ⟨fun u hu => ?_, fun hport hpass => ?_, fun u hu => ?_⟩,
      fun hf hr => ⟨?_, chans_fetchAhead e s, ?_⟩⟩,
    fun s e hl hn hh hs hp => ⟨fun hsp => ?_, fun hsp hal => ?_, fun hsp hal code hr => ?_, fun hsp hal hr hno => ?_,
      fun hsp hal hr h hh' => ⟨fun hc => ?_, fun hc ho hq => ?_, fun hc hoq => ?_⟩,
      fun code => ⟨?_, ?_, fun hecc => ?_⟩⟩⟩
  -- the read at PC
  · rw [exec_descriptorRead_of_fetch hm hh hs hb hp, fetchAtPc_of_nowhere hno]
  · rw [exec_descriptorRead_of_fetch hm hh hs hb hp, fetchAtPc_of_alone hsp hal hx, readAtPc, hu]
    rfl
  · rw [exec_descriptorRead_of_fetch hm hh hs hb hp, fetchAtPc_of_alone hsp hal hx,
      engRead_of_passes (r := readAtPc s e) hm rfl rfl (listSpaceOk_ne_port hsp) hpass]
    rfl
  · rw [exec_descriptorRead_of_fetch hm hh hs hb hp, fetchAtPc_of_alone hsp hal hx, readAtPc, hu]
    rfl
  -- the re-read
  · rw [exec_descriptorRead_of_resume hm hh hs hb hp, fetchResume_eq, readAgain, hu]
    rfl
  · rw [exec_descriptorRead_of_resume hm hh hs hb hp, fetchResume_eq,
      engRead_of_passes (r := readAgain s e) hm rfl rfl hport hpass]
    rfl
  · rw [exec_descriptorRead_of_resume hm hh hs hb hp, fetchResume_eq, readAgain, hu]
    rfl
  -- a read ahead
  · rw [exec_descriptorRead_of_other hm hh hs hb hf hr, if_pos rfl]
  · rw [exec_descriptorRead_of_other hm hh hs hb hf hr, if_neg Bool.false_ne_true]
  -- the rows of R141
  · rw [exec_descriptorReadDone_of_space hl hn hh hs hp hsp]
  · rw [exec_descriptorReadDone_of_misaligned hl hn hh hs hp hsp hal]
  · rw [exec_descriptorReadDone_of_failed hl hn hh hs hp hsp hal hr]
  · rw [exec_descriptorReadDone_of_notHeld hl hn hh hs hp hsp hal hr hno]
  · rw [exec_descriptorReadDone_of_held hl hn hh hs hp hsp hal hr hh', if_neg (Bool.eq_false_iff.1 hc)]
  · rw [exec_descriptorReadDone_of_held hl hn hh hs hp hsp hal hr hh', if_pos hc, if_pos ⟨ho, hq⟩]
  · rw [exec_descriptorReadDone_of_held hl hn hh hs hp hsp hal hr hh', if_pos hc, if_neg]
    rintro ⟨ho, hq⟩
    exact hoq.elim (fun h => by simp [ho] at h) (fun h => h hq)
  -- a header refused
  · exact (refuseHeader_ctx code).left
  · rw [refuseHeader_eng]
  · exact (refuseHeader_ctx code).right.trans (if_neg (Bool.eq_false_iff.1 hecc))

end Sys2Proof.Machine

namespace Sys2Proof.Machine

/-! ### What leaves the functions alone -/

@[simp] theorem fn_issueUpd8 (who : Who) (addr compare cmask value wmask add : Word) (pu : Purpose) (s : State) :
    (issueUpd8 who addr compare cmask value wmask add pu s).2.fn = s.fn := by
  unfold issueUpd8
  dsimp only
  split
  · rfl
  split <;> rfl

@[simp] theorem fn_xask (r : XReq) (s : State) : (xask r s).fn = s.fn := by
  unfold xask
  dsimp only
  split <;> rfl

@[simp] theorem fn_xCtl (n : Nat) (s : State) : (xCtl n s).fn = s.fn := by
  simp only [xCtl, xpresent, xpresentAll]
  split
  · rfl
  · exact fn_xask ..

@[simp] theorem fn_gbarArm (s : State) : (gbarArm s).fn = s.fn := by
  unfold gbarArm
  dsimp only
  split
  · rfl
  split <;> rfl

@[simp] theorem fn_installLm (g : Nat) (s : State) : (installLm g s).fn = s.fn := by
  simp only [installLm, setShadow, modGate_fn, apply_ite State.fn, ite_self]

@[simp] theorem fn_armMask (m : BitVec 71) (s : State) : (armMask m s).fn = s.fn := fn_gbarArm _

@[simp] theorem fn_startScree (bank : Bool) (entry : Half) (cause : BitVec 2) (s : State) :
    (startScree bank entry cause s).fn = s.fn := by
  unfold startScree writeCcctl
  refine forAll_ind (fun t => t.fn = s.fn) _ _ (fun n t ht => ?_) _ rfl
  split
  · exact ht
  split
  · exact ht
  · exact ht

@[simp] theorem fn_mbxPost (m : Nat) (s : State) : (mbxPost m s).fn = s.fn := by
  unfold mbxPost
  dsimp only
  split
  · rfl
  split
  · rfl
  split <;> rfl

@[simp] theorem fn_bedAnswer (m result : Nat) (detail : Half) (ws : List Word) (s : State) :
    (bedAnswer m result detail ws s).fn = s.fn := by
  unfold bedAnswer mbxDone
  dsimp only
  split
  · rfl
  split
  · rfl
  split <;> rfl

@[simp] theorem fn_postNotice (cmd : Nat) (r1 r2 : Word) (s : State) : (postNotice cmd r1 r2 s).fn = s.fn :=
  fn_mbxPost ..

@[simp] theorem fn_nextNotice (s : State) : (nextNotice s).fn = s.fn := by
  unfold nextNotice
  dsimp only
  repeat' split
  · rfl
  · exact fn_postNotice ..
  · exact fn_postNotice ..
  · rfl
  · rfl

@[simp] theorem fn_armNext (n : Nat) (s : State) : (armNext n s).fn = s.fn := by
  induction n generalizing s with
  | zero => rfl
  | succ n ih =>
    simp only [armNext]
    repeat' split
    · rfl
    · exact fn_armMask ..
    · rfl
    · exact fn_armMask ..
    · exact (ih _).trans ((fn_bedAnswer ..).trans (fn_armMask ..))

@[simp] theorem fn_barrierDone (s : State) : (barrierDone s).fn = s.fn := by
  unfold barrierDone
  dsimp only
  repeat' split
  · rfl
  · exact (fn_nextNotice _).trans ((fn_armMask ..).trans ((fn_installLm ..).trans (fn_installLm ..)))
  · exact fn_armNext ..
  · exact (fn_armNext ..).trans (fn_bedAnswer ..)
  · exact (fn_armNext ..).trans ((fn_bedAnswer ..).trans (fn_startScree ..))
  · exact fn_armNext ..

@[simp] theorem fn_barrierStep (s : State) : (barrierStep s).fn = s.fn := by
  unfold barrierStep
  dsimp only
  split
  · exact fn_barrierDone _
  · rfl

@[simp] theorem fn_keepEntry (e : Nat) (s : State) : (keepEntry e s).fn = s.fn := by
  unfold keepEntry
  split <;> rfl

@[simp] theorem fn_quiesceStep (s : State) : (quiesceStep s).fn = s.fn := by
  unfold quiesceStep
  split <;> rfl

@[simp] theorem fifo_quiesceStep (s : State) : (quiesceStep s).dsp.fifo = s.dsp.fifo := by
  unfold quiesceStep
  split <;> rfl

@[simp] theorem fn_disown (e c : Nat) (s : State) : (disown e c s).fn = s.fn := rfl

@[simp] theorem fifo_disown (e c : Nat) (s : State) : (disown e c s).dsp.fifo = s.dsp.fifo := rfl

@[simp] theorem fn_dropSpec (e : Nat) (s : State) : (dropSpec e s).fn = s.fn := rfl

@[simp] theorem fifo_dropSpec (e : Nat) (s : State) : (dropSpec e s).dsp.fifo = s.dsp.fifo := rfl

@[simp] theorem fifo_finishWork (e : Nat) (s : State) : (finishWork e s).dsp.fifo = s.dsp.fifo := by
  unfold finishWork
  dsimp only
  split
  · rw [modEng_dsp]
    split <;> rfl
  · rfl

@[simp] theorem fn_finishWork (e : Nat) (s : State) : (finishWork e s).fn = s.fn := by
  unfold finishWork
  dsimp only
  split
  · rw [modEng_fn]
    split <;> rfl
  · rfl

/-! ### What a stop leaves: the marks of a reset, and the doorbells that wait -/

/-- What stands in a function, but for its notice bit and the causes of its event page. -/
def resetMarks (f : Func) : Func := { f with notice := false, evcause := 0 }

/-- From s to t every function keeps that, and every intake its doorbells. -/
structure FnKeeps (s t : State) : Prop where
  marks : ∀ fn, resetMarks (getFn t fn) = resetMarks (getFn s fn)
  fifo : t.dsp.fifo = s.dsp.fifo

section
variable {s t u : State}

theorem getFn_of_fn (h : t.fn = s.fn) (fn : Nat) : getFn t fn = getFn s fn := by
  simp only [getFn, h]

theorem FnKeeps.of_eq (hf : t.fn = s.fn) (hd : t.dsp.fifo = s.dsp.fifo) : FnKeeps s t :=
  ⟨fun fn => congrArg resetMarks (getFn_of_fn hf fn), hd⟩

theorem FnKeeps.refl (s : State) : FnKeeps s s := ⟨fun _ => rfl, rfl⟩

theorem FnKeeps.trans (h : FnKeeps s t) (k : FnKeeps t u) : FnKeeps s u :=
  ⟨fun fn => (k.marks fn).trans (h.marks fn), k.fifo.trans h.fifo⟩

theorem fnKeeps_forAll {α : Type} (l : List α) (f : α → State → State) (h : ∀ x u, FnKeeps u (f x u))
    (s : State) : FnKeeps s (forAll l f s) :=
  forAll_ind (FnKeeps s) l f (fun x u hu => hu.trans (h x u)) s (.refl s)

/-- A change of a function's notice bit or causes. -/
theorem fnKeeps_modFn (n : Nat) (f : Func → Func) (h : ∀ x, resetMarks (f x) = resetMarks x) (s : State) :
    FnKeeps s (modFn n f s) := by
  refine ⟨fun fn => ?_, rfl⟩
  rw [getFn_modFn]
  split
  · subst fn
    exact h _
  · rfl

theorem fnKeeps_postCause (i fn : Nat) (s : State) : FnKeeps s (postCause i fn s) := by
  refine fnKeeps_modFn _ _ (fun x => ?_) s
  rfl

theorem fnKeeps_modCtx (c : Nat) (f : Ctx → Ctx) (s : State) : FnKeeps s (modCtx c f s) :=
  .of_eq (modCtx_fn ..) (modCtx_dsp_fifo ..)

theorem fnKeeps_modMain (e : Nat) (f : Thread → Thread) (s : State) : FnKeeps s (modMain e f s) := .of_eq rfl rfl

theorem fnKeeps_dropIf (k : Discard) (p : Purpose → Bool) (s : State) : FnKeeps s (dropIf k p s) := .of_eq rfl rfl

theorem fnKeeps_noticeClear (fn : Nat) (s : State) : FnKeeps s (noticeClear fn s) := by
  refine fnKeeps_modFn _ _ (fun x => ?_) s
  rfl

theorem fnKeeps_evFnStop (fn : Nat) (s : State) : FnKeeps s (evFnStop fn s) :=
  (fnKeeps_postCause 8 fn s).trans (.of_eq rfl rfl)

theorem fnKeeps_barrierStep (s : State) : FnKeeps s (barrierStep s) :=
  .of_eq (fn_barrierStep s) (congrArg Dsp.fifo (dspPart_barrierStep s))

/-! #### Locks (R211, R212) -/

theorem fnKeeps_breakEntry (x : LockEntry) (cause : BitVec 3) (s : State) : FnKeeps s (breakEntry x cause s) := by
  refine FnKeeps.trans (FnKeeps.of_eq ?_ ?_) ((fnKeeps_postCause 4 x.fn _).trans (.of_eq rfl rfl))
  · split
    · exact (fn_xCtl ..).trans (fn_issueUpd8 ..)
    · exact fn_issueUpd8 ..
  · split
    · exact congrArg Dsp.fifo ((dspPart_xCtl ..).trans (dspPart_issueUpd8 ..))
    · exact congrArg Dsp.fifo (dspPart_issueUpd8 ..)

theorem fnKeeps_breakSoon (x : LockEntry) (cause : BitVec 3) (s : State) : FnKeeps s (breakSoon x cause s) := by
  unfold breakSoon
  split
  · exact .of_eq rfl rfl
  · exact fnKeeps_breakEntry ..

theorem fnKeeps_breakOrWait (x : LockEntry) (cause : BitVec 3) (s : State) : FnKeeps s (breakOrWait x cause s) := by
  unfold breakOrWait
  split
  · exact .refl s
  split
  · exact .of_eq rfl rfl
  · exact fnKeeps_breakSoon ..

theorem fnKeeps_breakFn (fn : Nat) (cause : BitVec 3) (s : State) : FnKeeps s (breakFn fn cause s) :=
  fnKeeps_forAll _ _ (fun x => fnKeeps_breakOrWait x cause) s

theorem fnKeeps_breakOnLeave (c : Nat) (cause : Option (BitVec 3)) (s : State) :
    FnKeeps s (breakOnLeave c cause s) := by
  refine fnKeeps_forAll _ _ (fun x u => ?_) s
  split
  · exact .refl u
  · exact fnKeeps_breakSoon ..

/-! #### An engine that lets its channel go (R38, R67) -/

theorem fnKeeps_leaveEng (e : Nat) (s : State) : FnKeeps s (leaveEng e s) := by
  refine FnKeeps.trans (.of_eq (fn_keepEntry e s) (congrArg Dsp.fifo (keepEntry_dsp e s))) (.of_eq ?_ ?_) <;>
    unfold leaveEng <;> dsimp only
  · rw [fn_quiesceStep, modEng_fn, modCtx_fn, fn_disown, fn_dropSpec]
  · rw [fifo_quiesceStep, modEng_dsp, modCtx_dsp_fifo, fifo_disown, fifo_dropSpec]

theorem fnKeeps_stopCtx (c : Nat) (code : Byte) (flags : Option Byte) (s : State) :
    FnKeeps s (stopCtx c code flags s) := by
  refine FnKeeps.trans (.of_eq ?_ ?_) (fnKeeps_breakOnLeave ..)
  · rw [modCtx_fn, cacheUse_fn]
    rfl
  · rw [modCtx_dsp_fifo, cacheUse_dsp_fifo]
    rfl

theorem fnKeeps_stopEng (e : Nat) (code : Byte) (flags : Option Byte) (s : State) :
    FnKeeps s (stopEng e code flags s) :=
  (fnKeeps_leaveEng e s).trans (fnKeeps_stopCtx ..)

theorem fnKeeps_finishWork (e : Nat) (s : State) : FnKeeps s (finishWork e s) :=
  .of_eq (fn_finishWork e s) (fifo_finishWork e s)

theorem fnKeeps_takeFlags (e : Nat) (b r : Bool) (s : State) : FnKeeps s (takeFlags e b r s).2 :=
  (fnKeeps_noticeClear (fnOf s e) s).trans (.of_eq rfl rfl)

end

/-! ### Taking transfers from requests (R226) -/

section
variable (p : XReq → Bool) (gone : XBurst → Bool) (s : State)

theorem xwithdrawIf_spec : ∃ x, xwithdrawIf p s = { s with xbar := x } := by
  obtain ⟨l, hl⟩ := dropLanes_spec p (modXbar (fun x => { x with
    fresh := x.fresh.filter (fun r => !p r), pend := x.pend.filter (fun r => !p r)
    unparked := x.unparked.filter (fun u => !p u.1) }) (slotCount s))
  exact ⟨_, hl⟩

/-- Nothing but the crossbar's own state changes. -/
theorem xstrip_spec : ∃ x, xstrip p gone s = { s with xbar := x } := by
  obtain ⟨x, hx⟩ := xwithdrawIf_spec (fun r => (p r && r.q.any gone) && (stripReq gone r).q.isEmpty)
    (modReq (fun r => (p r && r.q.any gone) && !(stripReq gone r).q.isEmpty) (stripReq gone) s)
  exact ⟨x, hx⟩

theorem waitingReqs_modReq (f : XReq → XReq) :
    waitingReqs (modReq p f s) = (waitingReqs s).map (fun r => if p r then f r else r) := by
  simp [waitingReqs, modReq, modXbar, Function.comp_def]

theorem waitingReqs_xwithdrawIf : waitingReqs (xwithdrawIf p s) = (waitingReqs s).filter (fun r => !p r) := by
  obtain ⟨l, hl⟩ := dropLanes_spec p (modXbar (fun x => { x with
    fresh := x.fresh.filter (fun r => !p r), pend := x.pend.filter (fun r => !p r)
    unparked := x.unparked.filter (fun u => !p u.1) }) (slotCount s))
  rw [xwithdrawIf, hl]
  simp [waitingReqs, modXbar, slotCount, slotCountTo, List.filter_map, Function.comp_def]

variable {p gone s}

/-- Of the requests that are stripped none waits with such a transfer. -/
theorem not_gone_of_mem_xstrip {r : XReq} (hr : r ∈ waitingReqs (xstrip p gone s))
    (hpr : p r = true) : ∀ b ∈ r.q, gone b = false := by
  rw [xstrip, waitingReqs_xwithdrawIf, waitingReqs_modReq, List.mem_filter, List.mem_map] at hr
  obtain ⟨⟨q, -, rfl⟩, hleft⟩ := hr
  split at hleft
  · rename_i hq
    rw [if_pos hq]
    intro b hb
    simpa using (List.mem_filter.1 hb).2
  · rename_i hq
    rw [if_neg hq] at hpr ⊢
    intro b hb
    by_contra hg
    have hany : q.q.any gone = true := List.any_eq_true.2 ⟨b, hb, Bool.eq_true_of_not_eq_false hg⟩
    have hhit : (p q && q.q.any gone) = true := Bool.and_eq_true_iff.2 ⟨hpr, hany⟩
    dsimp only at hq hleft
    rw [hhit, Bool.true_and] at hq hleft
    exact hq hleft

end

/-! ### The steps of a function stop (R147, R211, R280, R282) -/

section
variable {s : State} {fn e : Nat}

/-- What becomes of a slot of the function (R280; log entry 86). -/
def discardSlot (s : State) (fn : Nat) (x : Slot) : Slot :=
  if x.fn == fn && x.quarUntil.isNone then
    { x with disc := discardAs (if (purposeEng x.purpose).any (fun e => specRead s e x.purpose) then .spec else .stop) x
             purpose := .dropped, gone := x.gone <|> purposeEng x.purpose }
  else x

theorem discardSlot_of_mine {x : Slot} (hf : x.fn = fn) (hq : x.quarUntil = none) :
    (discardSlot s fn x).purpose = .dropped ∧ (discardSlot s fn x).disc ≠ .no ∧ (discardSlot s fn x).got = x.got ∧
      (discardSlot s fn x).quarUntil = none := by
  have hdisc : ∀ k : Discard, k ≠ .no → discardAs k x ≠ .no := by
    intro k hk
    unfold discardAs
    split
    · exact hk
    · rename_i h
      simpa [hq] using h
  rw [discardSlot, if_pos (by simp [hf, hq])]
  refine ⟨rfl, hdisc _ ?_, rfl, hq⟩
  split <;> decide

theorem discardSlot_of_other {x : Slot} (h : x.fn ≠ fn ∨ x.quarUntil.isSome = true) : discardSlot s fn x = x := by
  refine if_neg ?_
  rw [Bool.and_eq_true, beq_iff_eq, Option.isNone_iff_eq_none]
  rintro ⟨hf, hq⟩
  obtain h | h := h
  · exact h hf
  · simp [hq] at h

/-- The host port behind steps 1 and 2. -/
def discardPort (s : State) (fn : Nat) (p : HostPort) : HostPort :=
  { p with
    wait := p.wait.filter (fun w => w.fn != fn)
    posted := (p.posted.filter (fun w => !(w.xheld && w.fn == fn))).map
      (fun w => if w.fn == fn then { w with bare := true } else w)
    slots := p.slots.map (fun x => (x.1, discardSlot s fn x.2)) }

/-- Steps 1 and 2 change the function's host port and the crossbar's own state. -/
theorem fnDiscard_spec (fn : Nat) (s : State) :
    ∃ x, fnDiscard fn s = { modHp (hptOf fn) (discardPort s fn) s with xbar := x } := by
  have hport : fnDiscard fn s = xdiscard (hptOf fn) fn (modHp (hptOf fn) (discardPort s fn) s) := by
    refine congrArg (fun f => xdiscard (hptOf fn) fn (modHp (hptOf fn) f s)) (funext fun p => ?_)
    rw [discardPort, List.map_congr_left]
    rintro x -
    unfold discardSlot
    split <;> rfl
  rw [hport]
  exact xstrip_spec _ _ _

theorem getHp_fnDiscard : getHp (fnDiscard fn s) (hptOf fn) = discardPort s fn (getHp s (hptOf fn)) := by
  obtain ⟨x, hx⟩ := fnDiscard_spec fn s
  rw [hx]
  exact (getHp_modHp ..).trans (if_pos rfl)

theorem getSlot_fnDiscard (i : Nat) :
    getSlot (fnDiscard fn s) (hptOf fn) i = (getSlot s (hptOf fn) i).map (discardSlot s fn) := by
  rw [getSlot, getHp_fnDiscard, discardPort, getSlot, List.find?_map, Option.map_map, Option.map_map]
  rfl

theorem fnKeeps_fnDiscard (fn : Nat) (s : State) : FnKeeps s (fnDiscard fn s) := by
  obtain ⟨x, hx⟩ := fnDiscard_spec fn s
  rw [hx]
  exact .of_eq rfl rfl

/-- An engine that is told to stop for its function. -/
def toldStop (x : Engine) : Engine := { x with stop := .fn, stopping := true }

/-- Step 3 changes the engine and the crossbar's own state. -/
theorem fnTell_spec (e : Nat) (s : State) : ∃ x, fnTell e s = { modEng e toldStop s with xbar := x } :=
  xstrip_spec _ _ _

theorem getEng_fnTell (e : Nat) (s : State) : getEng (fnTell e s) e = toldStop (getEng s e) := by
  obtain ⟨x, hx⟩ := fnTell_spec e s
  rw [hx]
  exact (getEng_modEng e toldStop e s).trans (if_pos rfl)

theorem fnKeeps_fnTell (e : Nat) (s : State) : FnKeeps s (fnTell e s) := by
  obtain ⟨x, hx⟩ := fnTell_spec e s
  rw [hx]
  exact .of_eq rfl rfl

/-! #### Its locks, and the event -/

section
variable {x : LockEntry} {k : BitVec 3}

theorem breakOrWait_of_waits (h : x.releasing = true ∨ ∃ y ∈ s.lock.waiting, y.addr = x.addr) :
    breakOrWait x k s = s :=
  if_pos (by simpa using h)

variable (hr : x.releasing = false) (hw : ∀ y ∈ s.lock.waiting, y.addr ≠ x.addr)
include hr hw

theorem breakOrWait_of_new : breakOrWait x k s = if (engOf s x.chan).isSome then
    modLock (fun l => { l with waiting := l.waiting ++ [{ addr := x.addr, cause := k }] }) s else breakSoon x k s :=
  if_neg (by simpa [hr] using hw)

theorem breakOrWait_of_running (he : (engOf s x.chan).isSome = true) : breakOrWait x k s =
    modLock (fun l => { l with waiting := l.waiting ++ [{ addr := x.addr, cause := k }] }) s := by
  rw [breakOrWait_of_new hr hw, if_pos he]

theorem breakOrWait_of_off (he : engOf s x.chan = none) (ho : orphanOut s x.chan = false) :
    breakOrWait x k s = breakEntry x k s := by
  rw [breakOrWait_of_new hr hw, if_neg (by simp [he]), breakSoon, if_neg (Bool.eq_false_iff.1 ho)]

end

theorem evcause_evFnStop (fn : Nat) (s : State) : (getFn (evFnStop fn s) (familyOf s fn)).evcause.getLsbD 8 = true := by
  rw [← familyOf_postCause 8 fn s fn]
  exact evcause_postCause 8 (by decide) fn s

/-! #### The end of a stop -/

theorem isWork_of_holdsChan (h : holdsChan s e = true) : isWork s e = false := by
  unfold holdsChan at h
  unfold isWork
  split at h
  · simp [*]
  · cases h

/-- The flags are those of the completion that has begun, or are taken now. -/
theorem keeps_flagsOrTake (p : Prop) [Decidable p] (fl : Byte) (b r : Bool) (v : State) :
    FnKeeps v (if p then (fl, v) else takeFlags e b r v).2 ∧
      engs (if p then (fl, v) else takeFlags e b r v).2 = engs v := by
  split
  · exact ⟨.refl v, rfl⟩
  · exact ⟨fnKeeps_takeFlags .., rfl⟩

/-- The channel stops behind what the engine does first: its registers are saved, its reads dropped, its flags taken. -/
theorem fnStopEnd_of_chan (hw : isWork s e = false) : ∃ fl res u, FnKeeps s u ∧
    (getEng u e).hold = (getEng s e).hold ∧ (getEng u e).ecc = false ∧
    fnStopEnd e s = if (getCtx s (chanOf s e)).direct = true then directOver (chanOf s e) (stopEng e 0x31 (some fl) u)
      else modCtx (chanOf s e) (fun x => { x with resume := res }) (stopEng e 0x31 (some fl) u) := by
  unfold fnStopEnd
  rw [if_neg (Bool.eq_false_iff.1 hw)]
  dsimp only
  refine ⟨_, _, _, ?_, ?_, ?_, rfl⟩
  · exact ((fnKeeps_modMain ..).trans (fnKeeps_dropIf ..)).trans ((keeps_flagsOrTake ..).1.trans
      ((fnKeeps_modCtx ..).trans (.of_eq (modEng_fn ..) (congrArg Dsp.fifo (modEng_dsp ..)))))
  · rw [getEng_modEng, if_pos rfl, getEng_modCtx, getEng_of_engs (keeps_flagsOrTake ..).2,
      getEng_of_engs (engs_dropIf ..), modMain, getEng_modEng, if_pos rfl]
  · rw [getEng_modEng, if_pos rfl]

theorem fnKeeps_directOver (c : Nat) (s : State) : FnKeeps s (directOver c s) := fnKeeps_modCtx ..

theorem fnKeeps_fnStopEnd (e : Nat) (s : State) : FnKeeps s (fnStopEnd e s) := by
  cases hw : isWork s e with
  | true =>
    unfold fnStopEnd
    rw [if_pos hw]
    dsimp only
    exact ((fnKeeps_modMain ..).trans (fnKeeps_dropIf ..)).trans
      ((fnKeeps_modMain ..).trans (fnKeeps_finishWork ..))
  | false =>
    obtain ⟨fl, res, u, hu, -, -, he⟩ := fnStopEnd_of_chan hw
    rw [he]
    refine hu.trans ((fnKeeps_stopEng e 0x31 (some fl) u).trans ?_)
    split
    · exact fnKeeps_directOver ..
    · exact fnKeeps_modCtx ..

theorem fnKeeps_fnStopTry (e : Nat) (s : State) : FnKeeps s (fnStopTry e s) := by
  unfold fnStopTry
  split
  · exact fnKeeps_fnStopEnd ..
  · exact .refl s

/-- A channel that runs its program stops behind its function (R282). -/
theorem fnStopTry_of_ready (hs : (getEng s e).stop = .fn) (hr : fnStopReady s e = true) (hh : holdsChan s e = true)
    (hd : (getCtx s (chanOf s e)).direct = false) :
    (getCtx (fnStopTry e s) (chanOf s e)).st = .stopped ∧ (getCtx (fnStopTry e s) (chanOf s e)).lastcode = 0x31 ∧
      getEng (fnStopTry e s) e = {} := by
  obtain ⟨fl, res, u, -, hhold, hecc, he⟩ := fnStopEnd_of_chan (isWork_of_holdsChan hh)
  have hc := stopEng_ctx e 0x31 (some fl) u
  rw [chanOf_of_hold hhold, hecc, if_neg Bool.false_ne_true] at hc
  obtain ⟨hst, hcode⟩ := hc
  rw [fnStopTry, if_pos (by simp [hs, hr]), he, if_neg (Bool.eq_false_iff.1 hd), getCtx_modCtx, if_pos rfl,
    getEng_modCtx, stopEng_eng]
  exact ⟨hst, hcode, rfl⟩

theorem fnStopTry_of_not_ready (h : (getEng s e).stop ≠ .fn ∨ fnStopReady s e = false) : fnStopTry e s = s := by
  refine if_neg ?_
  rw [Bool.and_eq_true, beq_iff_eq]
  rintro ⟨hs, hr⟩
  exact h.elim (· hs) (fun h => by simp [hr] at h)

theorem fnKeeps_stopFn (fn : Nat) (cause : BitVec 3) (s : State) : FnKeeps s (stopFn fn cause s) := by
  unfold stopFn
  dsimp only
  refine FnKeeps.trans ?_ ((fnKeeps_forAll _ _ fnKeeps_fnStopTry _).trans (fnKeeps_barrierStep _))
  have htold := (fnKeeps_fnDiscard fn s).trans (fnKeeps_forAll (fnEngines s fn ++ fnWorks s fn) _ fnKeeps_fnTell _)
  have hbroken := htold.trans (fnKeeps_breakFn fn cause _)
  split
  · exact hbroken
  · exact hbroken.trans (fnKeeps_evFnStop ..)

/-- FN_STOP is posted unless every engine of the function stops for it already (R290). -/
theorem stopFn_eq (fn : Nat) (cause : BitVec 3) (s : State) : stopFn fn cause s =
    barrierStep (forAll (fnEngines s fn ++ fnWorks s fn) fnStopTry
      (if ∀ e ∈ fnEngines s fn, (getEng s e).stop = .fn then
        breakFn fn cause (forAll (fnEngines s fn ++ fnWorks s fn) fnTell (fnDiscard fn s))
      else evFnStop fn (breakFn fn cause (forAll (fnEngines s fn ++ fnWorks s fn) fnTell (fnDiscard fn s))))) := by
  simp only [stopFn, List.all_eq_true, beq_iff_eq]

end

/-! ### Function level reset (R284) -/

/-- What a function level reset has begun: the function's marks, and the doorbells that wait at its intake. -/
structure ResetBegun (fn : Nat) (now : Word) (bells : List Doorbell) (t : State) : Prop where
  flrreq : (getFn t fn).mir.flrreq = true
  flrAt : (getFn t fn).flrAt = some now
  sweeping : (getFn t fn).sweeping = true
  noBell : (getFn t fn).noBell = true
  level : (getFn t fn).level = 0
  fifo : fifoOf t (hptOf fn) = bells

section
variable {s t : State} {fn : Nat} {now : Word} {bells : List Doorbell}

theorem ResetBegun.of_keeps (h : ResetBegun fn now bells s) (k : FnKeeps s t) : ResetBegun fn now bells t := by
  have hm := k.marks fn
  refine ⟨?_, ?_, ?_, ?_, ?_, ?_⟩
  · exact (congrArg (fun f => f.mir.flrreq) hm).trans h.flrreq
  · exact (congrArg (fun f => f.flrAt) hm).trans h.flrAt
  · exact (congrArg (fun f => f.sweeping) hm).trans h.sweeping
  · exact (congrArg (fun f => f.noBell) hm).trans h.noBell
  · exact (congrArg (fun f => f.level) hm).trans h.level
  · rw [← h.fifo, fifoOf, k.fifo, fifoOf]

theorem resetBegun_dropDoorbells (h : ResetBegun fn now bells s) :
    ResetBegun fn now (bells.filter (fun d => d.fn != fn)) (dropDoorbells fn s) := by
  refine ⟨h.flrreq, h.flrAt, h.sweeping, h.noBell, h.level, ?_⟩
  rw [← h.fifo]
  exact (tget_tmod ..).trans (if_pos rfl)

/-- At level 0 a GO is refused and a doorbell dropped (R62). -/
theorem resetBegun_dropBehind (h : ResetBegun fn now bells s) : ResetBegun fn now bells (dropBehind fn s) := by
  unfold dropBehind
  refine List.foldlRecOn (motive := ResetBegun fn now bells) _ _ (h.of_keeps (.of_eq rfl rfl)) (fun t ht b hb => ?_)
  have hmine := (List.mem_filter.1 hb).2
  cases b with
  | go f page =>
    obtain rfl : f = fn := by simpa using hmine
    have hr : goRefused t f page = true := by simp [goRefused, ht.level]
    dsimp only
    rw [goWith, if_pos hr]
    obtain ⟨hflr, hat, hsweep, hbell, hlevel, hfifo⟩ := ht
    refine ⟨?_, ?_, ?_, ?_, ?_, hfifo⟩ <;> rw [getFn_modFn, if_pos rfl] <;> assumption
  | bell f c seq =>
    obtain rfl : f = fn := by simpa using hmine
    dsimp only
    rw [applyDoorbell, if_pos (by simp [ht.level])]
    exact ht.of_keeps (.of_eq rfl rfl)

end

/-! ### The configuration mirror (R270, R271, R283) -/

section
variable {s : State} {fn : Nat} {m : Mirror}

/-- The function with a mirror presented. -/
def withMirror (fn : Nat) (m : Mirror) (s : State) : State := modFn fn (fun f => { f with mir := m }) s

theorem present_of_bmeOf (h : bmeOf s fn = true) : (getFn s fn).mir.present = true := by
  simp only [bmeOf, Bool.and_eq_true] at h
  obtain ⟨⟨⟨hp, -⟩, -⟩, -⟩ := h
  exact hp

theorem getFn_withMirror (fn : Nat) (m : Mirror) (s : State) :
    getFn (withMirror fn m s) fn = { getFn s fn with mir := m } :=
  (getFn_modFn ..).trans (if_pos rfl)

theorem bmeOf_withMirror (fn : Nat) (m : Mirror) (s : State) : bmeOf (withMirror fn m s) fn =
    (m.present && m.bme && (getFn s fn).flrAt.isNone && !(getFn s fn).sweeping) := by
  rw [bmeOf, getFn_withMirror]

/-- Bus master enable does not fall. -/
theorem not_falls (h : bmeOf s fn = false ∨ m.present = true ∧ m.bme = true) :
    (bmeOf s fn && !bmeOf (withMirror fn m s) fn) = false := by
  obtain h | ⟨hp, hb⟩ := h
  · rw [h, Bool.false_and]
  · rw [bmeOf_withMirror, hp, hb, bmeOf]
    cases (getFn s fn).flrAt.isNone <;> cases (getFn s fn).sweeping <;> simp

theorem setMirror_of_stored (hb : bmeOf s fn = false ∨ m.present = true ∧ m.bme = true)
    (hf : (getFn s fn).mir.flrreq = true ∨ m.flrreq = false) : setMirror fn m s =
      if m.tagw = (getFn s fn).mir.tagw then withMirror fn m s else hostServe (hptOf fn) (withMirror fn m s) := by
  have hrise : (m.flrreq && !(getFn s fn).mir.flrreq) = false := by
    obtain hf | hf := hf <;> simp [hf]
  have hfall := not_falls hb
  simp only [withMirror] at hfall ⊢
  simp only [setMirror, hrise, hfall, Bool.false_eq_true, if_false, beq_iff_eq]

theorem setMirror_of_fall (hb : bmeOf s fn = true) (hm : m.bme = false) (hf : m.flrreq = (getFn s fn).mir.flrreq)
    (ht : m.tagw = (getFn s fn).mir.tagw) : setMirror fn m s = stopFn fn 2 (withMirror fn m s) := by
  have hrise : (m.flrreq && !(getFn s fn).mir.flrreq) = false := by simp [hf]
  have hnow : bmeOf (withMirror fn m s) fn = false := by simp [bmeOf_withMirror, hm]
  simp only [withMirror] at hnow ⊢
  simp only [setMirror, hrise, hb, hnow, ht, Bool.false_eq_true, Bool.not_false, Bool.and_self, beq_self_eq_true,
    if_true, if_false]

theorem setMirror_of_rise (hf : m.flrreq = true) (hold : (getFn s fn).mir.flrreq = false)
    (ht : m.tagw = (getFn s fn).mir.tagw) : setMirror fn m s = doFlr fn (withMirror fn m s) := by
  simp only [setMirror, withMirror, hf, hold, ht, Bool.not_false, Bool.and_self, beq_self_eq_true, if_true]

section
variable (hr : s.inReset = false) (hfn : fn < nFns s) (ht : tested s (islHpt (hptOf fn)) = false)
include hr hfn ht

theorem exec_functionMirrorUpdate (m : Mirror) : exec (.functionMirrorUpdate fn m) s = .next (setMirror fn m s) :=
  if_neg (by simp [hr, fnPresent, hfn, ht])

theorem exec_bmeRise : exec (.bmeRise fn) s = .next (setMirror fn { (getFn s fn).mir with bme := true } s) :=
  if_neg (by simp [hr, fnPresent, hfn, ht])

theorem exec_bmeFall : exec (.bmeFall fn) s = .next (setMirror fn { (getFn s fn).mir with bme := false } s) :=
  if_neg (by simp [hr, fnPresent, hfn, ht])

theorem exec_flrRequest : exec (.flrRequest fn) s = .next (setMirror fn { (getFn s fn).mir with flrreq := true } s) :=
  if_neg (by simp [hr, fnPresent, hfn, ht])

end

/-! ### A rise of FLRREQ (R284) -/

/-- The function as its reset begins. -/
def resetFrom (now : Word) (f : Func) : Func :=
  { f with flrAt := some now, flrAcked := false, flrTimed := false, sweeping := true, noBell := true, level := 0 }

theorem resetBegun_resetFrom (hf : (getFn s fn).mir.flrreq = true) :
    ResetBegun fn s.time (fifoOf s (hptOf fn)) (modFn fn (resetFrom s.time) s) := by
  refine ⟨?_, ?_, ?_, ?_, ?_, rfl⟩ <;> rw [getFn_modFn, if_pos rfl]
  · exact hf
  all_goals rfl

/-- The function behind the steps of R282, its event page cleared. -/
def resetPage (fn : Nat) (s : State) : State :=
  modFn fn (fun f => { f with notice := false, evmask := 0, evcause := 0 }) s

theorem getFn_resetPage (fn : Nat) (s : State) :
    getFn (resetPage fn s) fn = { getFn s fn with notice := false, evmask := 0, evcause := 0 } :=
  (getFn_modFn ..).trans (if_pos rfl)

/-- The steps of R282 and of R284, as far as the page. -/
def resetSteps (fn : Nat) (s : State) : State :=
  resetPage fn (dropBehind fn (dropDoorbells fn (stopFn fn 3 (modFn fn (resetFrom s.time) s))))

theorem doFlr_of_none (hat : (getFn s fn).flrAt = none) : doFlr fn s =
    nextNotice (modCtl (fun c => { c with notices := c.notices ++ [.flr fn] }) (evK 2 (modHp (hptOf fn) (fun p =>
      { p with flrq := if p.flrq.contains fn then p.flrq else p.flrq ++ [fn] }) (resetSteps fn s)))) :=
  if_neg (by simp [hat])

theorem fn_doFlr (hat : (getFn s fn).flrAt = none) : (doFlr fn s).fn = (resetSteps fn s).fn := by
  rw [doFlr_of_none hat, fn_nextNotice, modCtl_fn, evK, modCtl_fn, modHp_fn]

theorem dsp_doFlr (hat : (getFn s fn).flrAt = none) : (doFlr fn s).dsp = (resetSteps fn s).dsp := by
  rw [doFlr_of_none hat, ← dspPart_eq, dspPart_nextNotice, dspPart_eq, modCtl_dsp, evK, modCtl_dsp, modHp_dsp]

theorem doFlr_begun (hf : (getFn s fn).mir.flrreq = true) (hat : (getFn s fn).flrAt = none) :
    ResetBegun fn s.time ((fifoOf s (hptOf fn)).filter (fun d => d.fn != fn)) (doFlr fn s) ∧
      (getFn (doFlr fn s) fn).notice = false ∧ (getFn (doFlr fn s) fn).evmask = 0 ∧
      (getFn (doFlr fn s) fn).evcause = 0 := by
  obtain ⟨hflr, hnow, hsweep, hbell, hlevel, hfifo⟩ := resetBegun_dropBehind (resetBegun_dropDoorbells
    ((resetBegun_resetFrom hf).of_keeps (fnKeeps_stopFn fn 3 (modFn fn (resetFrom s.time) s))))
  have hpage := (getFn_of_fn (fn_doFlr hat) fn).trans (getFn_resetPage ..)
  refine ⟨⟨?_, ?_, ?_, ?_, ?_, ?_⟩, ?_⟩
  · rw [hpage, hflr]
  · rw [hpage, hnow]
  · rw [hpage, hsweep]
  · rw [hpage, hbell]
  · rw [hpage, hlevel]
  · rw [fifoOf, dsp_doFlr hat]
    exact hfifo
  · rw [hpage]
    exact ⟨rfl, rfl, rfl⟩

/-- The mirror in which FLRREQ rises starts the reset. -/
theorem setMirror_begun (hf : m.flrreq = true) (hold : (getFn s fn).mir.flrreq = false)
    (ht : m.tagw = (getFn s fn).mir.tagw) (hat : (getFn s fn).flrAt = none) :
    ResetBegun fn s.time ((fifoOf s (hptOf fn)).filter (fun d => d.fn != fn)) (setMirror fn m s) ∧
      (getFn (setMirror fn m s) fn).notice = false ∧ (getFn (setMirror fn m s) fn).evmask = 0 ∧
      (getFn (setMirror fn m s) fn).evcause = 0 := by
  rw [setMirror_of_rise hf hold ht]
  refine doFlr_begun (s := withMirror fn m s) ?_ ?_ <;> rw [getFn_withMirror]
  · exact hf
  · exact hat

end

/-- Settles O29. First part: what a mirror does, by bus master enable and FLRREQ. Second part: the steps of a stop. -/
theorem functionMirrors : Obligations.FunctionMirrors := by
  refine ⟨fun s fn m hr hfn ht => ⟨fun hb hf => ?_, ?_, fun hb => ?_, fun hb => ?_, fun hf hat => ?_⟩,
    fun s fn cause => ⟨fun es hes ws hws u hu => ⟨fun ht => ?_, fun ht => ?_⟩,
      ⟨fun w hw => ?_, fun i x hx hf hq => ?_, fun i x hx ho => ?_, ?_⟩,
      fun e => ⟨?_, ?_, ?_, fun r hr hi ho => ?_, durable_fnTell e s⟩,
      fun x k => ⟨fun h => ?_, fun hrel hw => ⟨fun he ho => ?_, fun he => ?_⟩⟩, rfl,
      ⟨evpends_evS 12 (by decide) _, evcause_evFnStop fn s⟩, fun e hs hr hh hd => ?_,
      fun e h => fnStopTry_of_not_ready h⟩⟩
  -- the mirror
  · rw [exec_functionMirrorUpdate hr hfn ht, setMirror_of_stored hb hf]
    rfl
  · rw [exec_bmeRise hr hfn ht, setMirror_of_stored ?_ ?_, if_pos rfl]
    · rfl
    · exact (Bool.eq_false_or_eq_true (bmeOf s fn)).symm.imp_right (fun h => ⟨present_of_bmeOf h, rfl⟩)
    · exact Bool.eq_false_or_eq_true _
  · rw [exec_bmeFall hr hfn ht, setMirror_of_stored (.inl hb) ?_, if_pos rfl]
    · rfl
    · exact Bool.eq_false_or_eq_true _
  · rw [exec_bmeFall hr hfn ht, setMirror_of_fall (m := { (getFn s fn).mir with bme := false }) hb rfl rfl rfl]
    rfl
  · obtain ⟨⟨hflr, hnow, hsweep, hbell, hlevel, hfifo⟩, hnotice, hmask, hcause⟩ :=
      setMirror_begun (m := { (getFn s fn).mir with flrreq := true }) rfl hf rfl hat
    rw [exec_flrRequest hr hfn ht]
    exact ⟨_, rfl, hflr, hnow, hsweep, hbell, hlevel, hnotice, hmask, hcause, hfifo, durable_setMirror ..⟩
  -- the steps of a stop
  · subst hes hws hu
    rw [stopFn_eq, if_pos ht]
  · subst hes hws hu
    rw [stopFn_eq, if_neg (by push Not; exact ht)]
  · rw [getHp_fnDiscard] at hw
    simpa using (List.mem_filter.1 hw).2
  · exact ⟨_, (getSlot_fnDiscard i).trans (congrArg _ hx), discardSlot_of_mine hf hq⟩
  · rw [getSlot_fnDiscard, hx, Option.map_some, discardSlot_of_other ho]
  · obtain ⟨x, hx⟩ := fnDiscard_spec fn s
    rw [hx]
    exact ⟨rfl, rfl, rfl, rfl, rfl⟩
  -- an engine that is told
  · rw [getEng_fnTell]
    rfl
  · rw [getEng_fnTell]
    rfl
  · rw [getEng_fnTell]
    rfl
  · exact not_gone_of_mem_xstrip hr (by simp [hi, ho])
  -- a lock
  · exact breakOrWait_of_waits h
  · exact breakOrWait_of_off hrel hw he ho
  · exact breakOrWait_of_running hrel hw he
  -- the end of the stop
  · obtain ⟨hst, hcode, he⟩ := fnStopTry_of_ready hs hr hh hd
    exact ⟨hst, hcode, by rw [he], durable_fnStopTry e s⟩

end Sys2Proof.Machine

namespace Sys2Proof.Machine

/-! ### The watchdog, the end of a hold, and a wake (R178, R181, R182) -/

section
variable {s : State} {e : Nat}

theorem live_of_normal (hr : s.inReset = false) (hn : s.pf.stage = .normal) : live s = true := by
  simp [live, hr, hn]

theorem exec_wdogExpiry_of_within
    (h : s.active.disp.wdlimit.toNat = 0 ∨
      (s.time - (getEng s e).wdStart).toNat ≤ s.active.disp.wdlimit.toNat * 1000) :
    exec (.wdogExpiry e) s = .next s :=
  if_neg <| by
    rcases h with h | h
    · rw [h]
      simp
    · rw [decide_eq_false (Nat.not_lt.2 h), Bool.and_false]
      exact Bool.false_ne_true

theorem exec_wdogExpiry_of_past (hl : live s = true) (hw : wdogRuns s e = true)
    (h0 : s.active.disp.wdlimit.toNat ≠ 0)
    (h : s.active.disp.wdlimit.toNat * 1000 < (s.time - (getEng s e).wdStart).toNat) :
    exec (.wdogExpiry e) s = .next (wdogFire e s) :=
  if_pos (by simp only [hl, hw, h, bne_iff_ne.2 h0, decide_true, Bool.and_self])

theorem exec_paceholdExpiry_of_early
    (h : (s.time - (getEng s e).holdAt).toNat < s.active.disp.pacehold.toNat * 16) :
    exec (.paceholdExpiry e) s = .next s :=
  if_neg (by rw [decide_eq_false (Nat.not_le.2 h), Bool.and_false]; exact Bool.false_ne_true)

theorem exec_paceholdExpiry_of_held (hl : live s = true) (hn : s.pf.stage = .normal)
    (hp : (getEng s e).main.phase = .hold) (hs : (getEng s e).stop = .none)
    (h : s.active.disp.pacehold.toNat * 16 ≤ (s.time - (getEng s e).holdAt).toNat) :
    exec (.paceholdExpiry e) s =
      .next (engAfter e (modMain e (fun t => { t with phase := .release, flushedPorts := [] }) s)) :=
  if_pos (by simp only [hl, hn, hp, hs, h, beq_self_eq_true, decide_true, Bool.and_self])

/-- A channel that would become READY is PAUSED under its PAUSE bit (R171). -/
theorem toReady_of_pause {c : Nat} (h : (getCtx s c).pause = true) :
    toReady c s = modCtx c (fun x => { x with st := .paused }) (cacheUse c true s) :=
  if_pos ((congrArg Ctx.pause (getCtx_cacheUse ..)).trans h)

theorem toReady_of_free {c : Nat} (h : (getCtx s c).pause = false) :
    toReady c s = enqueue c (modCtx c (fun x => { x with st := .ready }) (cacheUse c true s)) :=
  if_neg (by rw [getCtx_cacheUse, h]; decide)

/-- A wake leaves the queue of wakes; a channel in a pacing wait would become READY, any other discards it (R182). -/
theorem exec_pacingWake_of_front {c : Nat} {l : List Nat} (hl : live s = true) (hn : s.pf.stage = .normal)
    (ht : tested s islDsp = false) (hw : s.dsp.wakes = c :: l) :
    exec .pacingWake s = .next (if (getCtx s c).st = .waiting ∧ (getCtx s c).pacing ≠ none then
      toReady c (unwatch c (modDsp (fun d => { d with wakes := l }) s)) else modDsp (fun d => { d with wakes := l }) s) := by
  refine (if_neg (by simp [hl, hn, ht])).trans ?_
  simp only [hw, getCtx_modDsp, Bool.and_eq_true, beq_iff_eq, Option.isSome_iff_ne_none, apply_ite Host.Outcome.next]

end

/-- Settles O16. -/
theorem watchdogsAndPacing : Obligations.WatchdogsAndPacing := by
  refine ⟨fun s e hl hw => ⟨exec_wdogExpiry_of_within, exec_wdogExpiry_of_past hl hw⟩,
    fun s e hl hn hp hs => ⟨exec_paceholdExpiry_of_early, exec_paceholdExpiry_of_held hl hn hp hs⟩,
    fun s c l hl hn ht hw => ⟨fun h => ?_, fun hst hpc => ⟨fun hp => ?_, fun hp => ?_⟩⟩⟩
  · rw [exec_pacingWake_of_front hl hn ht hw, if_neg (fun ⟨hst, hpc⟩ => h.elim (· hst) hpc)]
  · rw [exec_pacingWake_of_front hl hn ht hw, if_pos ⟨hst, hpc⟩]
    exact congrArg _ (toReady_of_pause hp)
  · rw [exec_pacingWake_of_front hl hn ht hw, if_pos ⟨hst, hpc⟩]
    exact congrArg _ (toReady_of_free hp)

/-! ### The best of the candidates (R170, R173, R376) -/

/-- Counted from d and b, the deadline and the ready stamp of a candidate lie within half the range of the compare. -/
def NearTimes (d b : Half) (y : Cand) : Prop := (y.dl - d).toNat < 2 ^ 31 ∧ (y.stamp - b).toNat < 2 ^ 31

/-- The rank of a candidate, its times counted from d and b: the least comes first. -/
def candRank (d b : Half) (x : Cand) : Bool ×ₗ ℕ ×ₗ ℕ ×ₗ Bool ×ₗ ℕ :=
  toLex (!x.aged, toLex ((x.dl - d).toNat, toLex ((x.stamp - b).toNat, toLex (!x.work, x.id))))

/-- Within half the range, the signed 32-bit compare is the order of the distances from one time (R170). -/
theorem before32_iff {a b d : Half} (ha : (a - d).toNat < 2 ^ 31) (hb : (b - d).toNat < 2 ^ 31) :
    before32 a b = true ↔ (a - d).toNat < (b - d).toNat := by
  unfold before32
  rw [decide_eq_true_iff, BitVec.toInt_neg_iff]
  bv_omega

theorem sub_toNat_inj {a b d : Half} : (a - d).toNat = (b - d).toNat ↔ a = b := by
  rw [← BitVec.toNat_eq]
  exact ⟨sub_left_inj.1, congrArg (· - d)⟩

/-- A criterion that tells two values apart decides; between equal values the next criterion does. -/
theorem criterion_iff {α : Type} [BEq α] [LawfulBEq α] {p q : α} {a next : Bool} {ahead : Prop}
    (h : p ≠ q → (a = true ↔ ahead)) (hne : ahead → p ≠ q) :
    (if p != q then a else next) = true ↔ ahead ∨ p = q ∧ next = true := by
  by_cases hpq : p = q
  · simp [hpq, show ¬ ahead from fun ha => hne ha hpq]
  · simp [hpq, h hpq]

theorem not_lt_not_iff {p q : Bool} : (!p) < (!q) ↔ p = true ∧ q = false := by
  revert p q
  decide

theorem marked_criterion_iff {p q next : Bool} :
    (if p != q then p else next) = true ↔ (!p) < (!q) ∨ p = q ∧ next = true := by
  revert p q next
  decide

section
variable {d b : Half} {x y : Cand}

/-- Where the times are near, one candidate is ahead of another exactly when its rank is lower. -/
theorem candAhead_iff_rank_lt (hx : NearTimes d b x) (hy : NearTimes d b y) :
    candAhead x y = true ↔ candRank d b x < candRank d b y := by
  simp only [candRank, Prod.Lex.toLex_lt_toLex, sub_toNat_inj, Bool.not_inj_iff]
  refine marked_criterion_iff.trans (or_congr_right (and_congr_right' ?_))
  refine (criterion_iff (fun _ => before32_iff hx.1 hy.1) (fun h hd => ?_)).trans (or_congr_right (and_congr_right' ?_))
  · exact h.ne (congrArg (fun t => (t - d).toNat) hd)
  refine (criterion_iff (fun _ => before32_iff hx.2 hy.2) (fun h hd => ?_)).trans (or_congr_right (and_congr_right' ?_))
  · exact h.ne (congrArg (fun t => (t - b).toNat) hd)
  exact marked_criterion_iff.trans (or_congr_right (and_congr_right' decide_eq_true_iff))

/-- The rank in the words of the rules: over-age, deadline, ready stamp, work ahead of a channel, number. -/
theorem candRank_le_iff (hx : NearTimes d b x) (hy : NearTimes d b y) : candRank d b x ≤ candRank d b y ↔
    (x.aged = true ∧ y.aged = false) ∨ (x.aged = y.aged ∧ (before32 x.dl y.dl = true ∨ (x.dl = y.dl ∧
      (before32 x.stamp y.stamp = true ∨ (x.stamp = y.stamp ∧
        ((x.work = true ∧ y.work = false) ∨ (x.work = y.work ∧ x.id ≤ y.id))))))) := by
  simp only [candRank, Prod.Lex.toLex_le_toLex, sub_toNat_inj, Bool.not_inj_iff, not_lt_not_iff, before32_iff hx.1 hy.1,
    before32_iff hx.2 hy.2]

end

/-- The best of some candidates is one of them, and of near ones it is one of the lowest rank. -/
theorem candBest_spec {l : List Cand} (h : l ≠ []) : ∃ x ∈ l, candBest l = some x ∧
    ∀ d b, (∀ y ∈ l, NearTimes d b y) → ∀ y ∈ l, candRank d b x ≤ candRank d b y := by
  induction l with
  | nil => exact absurd rfl h
  | cons a t ih =>
    by_cases ht : t = []
    · subst ht
      exact ⟨a, by simp, rfl, by simp⟩
    obtain ⟨x, hx, hbest, hle⟩ := ih ht
    refine ⟨if candAhead x a then x else a, ?_, by rw [candBest, hbest], fun d b near => ?_⟩
    · split
      · exact List.mem_cons_of_mem _ hx
      · exact List.mem_cons_self
    have hxt := hle d b fun y hy => near y (List.mem_cons_of_mem _ hy)
    have hxa := candAhead_iff_rank_lt (near x (List.mem_cons_of_mem _ hx)) (near a List.mem_cons_self)
    rw [List.forall_mem_cons]
    split
    · exact ⟨(hxa.1 ‹_›).le, hxt⟩
    · have hax := not_lt.1 (mt hxa.2 ‹_›)
      exact ⟨le_rfl, fun y hy => hax.trans (hxt y hy)⟩

/-! ### One decision (R173, R199, R376) -/

section
variable {s : State} {e : Nat}

theorem takeOf_of_task {c : Nat} (h : taskFor s e = some c) : takeOf s e = some (.task c) := by
  unfold takeOf
  rw [h]

theorem takeOf_of_no_task (h : taskFor s e = none) :
    takeOf s e = (candBest (workCands s e ++ chanCands s e)).map .cand := by
  unfold takeOf
  rw [h]

/-- A free engine that DSP may serve (R173, R415). -/
def MayTake (s : State) (e : Nat) : Prop :=
  e < nEngines s ∧ engPresent s e = true ∧ engFree s e = true ∧ testedEng s e = false

/-- What an engine would be served with, if it may take anything. -/
def offerTo (s : State) (e : Nat) : Option (Nat × Take) :=
  if engPresent s e && engFree s e && !testedEng s e then (takeOf s e).map (fun t => (e, t)) else none

theorem dispatchTo_eq_findSome? (s : State) : dispatchTo s = (List.range (nEngines s)).findSome? (offerTo s) := rfl

theorem offerTo_of_may (h : MayTake s e) : offerTo s e = (takeOf s e).map (fun t => (e, t)) := by
  obtain ⟨-, hp, hf, ht⟩ := h
  exact if_pos (by simp only [hp, hf, ht, Bool.not_false, Bool.and_self])

theorem offerTo_eq_none (he : e < nEngines s) (h : MayTake s e → takeOf s e = none) : offerTo s e = none := by
  by_cases hm : MayTake s e
  · rw [offerTo_of_may hm, h hm, Option.map_none]
  · refine if_neg fun hb => hm ?_
    simpa [MayTake, he, and_assoc] using hb

theorem dispatchTo_eq_none (h : ∀ e, MayTake s e → takeOf s e = none) : dispatchTo s = none := by
  rw [dispatchTo_eq_findSome?, List.findSome?_eq_none_iff]
  exact fun e he => offerTo_eq_none (List.mem_range.1 he) (h e)

/-- The lowest engine that may take something is served. -/
theorem dispatchTo_eq_some {t : Take} (he : MayTake s e) (hlow : ∀ e' < e, MayTake s e' → takeOf s e' = none)
    (ht : takeOf s e = some t) : dispatchTo s = some (e, t) := by
  have hn := he.1
  obtain ⟨k, hk⟩ : ∃ k, nEngines s = e + (k + 1) := ⟨nEngines s - e - 1, by omega⟩
  rw [dispatchTo_eq_findSome?, List.findSome?_eq_some_iff]
  refine ⟨List.range e, e, ((List.range k).map Nat.succ).map (e + ·), ?_, ?_, fun e' he' => ?_⟩
  · rw [hk, List.range_add, List.range_succ_eq_map]
    rfl
  · rw [offerTo_of_may he, ht, Option.map_some]
  · have he' := List.mem_range.1 he'
    exact offerTo_eq_none (he'.trans hn) (hlow e' he')

/-- An engine is served: with a write-back task, a piece of movement work, or a channel. -/
def serveEng (e : Nat) (s : State) : Take → State
  | .task c => takeTask e c s
  | .cand x => if x.work then takeWork e x.id x.slot s else takeChan e x.id s

theorem exec_dispatch_of_tested (ht : tested s islDsp = true) : exec .dispatch s = .next s :=
  if_pos (by simp [ht])

section
variable (hr : s.inReset = false) (hn : s.pf.stage = .normal) (ht : tested s islDsp = false)
include hr hn ht

theorem dispatch_acts : ¬ (!live s || s.pf.stage != .normal || tested s islDsp) = true := by
  simp [live_of_normal hr hn, hn, ht]

theorem exec_dispatch_of_nothing (h : ∀ e, MayTake s e → takeOf s e = none) : exec .dispatch s = .next s := by
  refine (if_neg (dispatch_acts hr hn ht)).trans ?_
  rw [dispatchTo_eq_none h]

theorem exec_dispatch_of_take {t : Take} (he : MayTake s e) (hlow : ∀ e' < e, MayTake s e' → takeOf s e' = none)
    (hx : takeOf s e = some t) : exec .dispatch s = .next (serveEng e s t) := by
  refine (if_neg (dispatch_acts hr hn ht)).trans ?_
  rw [dispatchTo_eq_some he hlow hx]
  cases t <;> rfl

end

/-! ### What an engine has taken -/

@[simp] theorem getEng_wakeIsl (i j : Nat) (s : State) : getEng (wakeIsl i s) j = getEng s j :=
  getEng_of_engs (engs_wakeIsl i s) j

@[simp] theorem getCtx_wakeIsl (i j : Nat) (s : State) : getCtx (wakeIsl i s) j = getCtx s j :=
  getCtx_of_chans (chans_wakeIsl i s) j

@[simp] theorem wakeIsl_time (i : Nat) (s : State) : (wakeIsl i s).time = s.time := rfl

@[simp] theorem unqueue_time (c : Nat) (s : State) : (unqueue c s).time = s.time := rfl

@[simp] theorem wakeIsl_dsp (i : Nat) (s : State) : (wakeIsl i s).dsp = s.dsp := rfl

@[simp] theorem getCtx_unqueue (c j : Nat) (s : State) : getCtx (unqueue c s) j = getCtx s j := rfl

theorem takeTask_of_program {c : Nat} (h : (getCtx s c).direct = false) :
    (getEng (takeTask e c s) e).hold = .task c ∧ (getEng (takeTask e c s) e).main.phase = .resume ∧
      (getEng (takeTask e c s) e).taken = s.time ∧
      (takeTask e c s).dsp.wbTasks = s.dsp.wbTasks.filter (· != c) := by
  simp [takeTask, h]

theorem takeWork_eng (e core slot : Nat) (s : State) : (getEng (takeWork e core slot s) e).hold = .work core slot ∧
    (getEng (takeWork e core slot s) e).main.phase = .exec ∧ (getEng (takeWork e core slot s) e).main.regs.pc = 8 := by
  simp [takeWork]

theorem takeWork_ctx (e core slot : Nat) (s : State) : (takeWork e core slot s).dsp.ctx = s.dsp.ctx := rfl

theorem takeChan_ctx {c : Nat} (h : (getCtx s c).direct = false) : (getCtx (takeChan e c s) c).st = .running ∧
    (getCtx (takeChan e c s) c).go = false ∧ (getCtx (takeChan e c s) c).pacing = none := by
  simp [takeChan, h]

theorem takeChan_eng {c : Nat} (h : (getCtx s c).direct = false) : (getEng (takeChan e c s) e).hold = .chan c ∧
    (getEng (takeChan e c s) e).main.regs = (getCtx s c).regs ∧
    (getEng (takeChan e c s) e).main.phase = (if (getCtx s c).mid then .resume else .fetch) ∧
    (getEng (takeChan e c s) e).taken = s.time := by
  cases hm : (getCtx s c).mid <;> simp [takeChan, h, hm]

end

/-- Settles O19. The lowest engine that may take something is served, and the fold over its candidates keeps one of the
lowest rank. -/
theorem dispatching : Obligations.Dispatching := by
  refine fun s hr hn => ⟨exec_dispatch_of_tested, fun ht => ⟨exec_dispatch_of_nothing hr hn ht,
    fun e => ⟨fun c => takeOf_of_task, fun hc h => ?_, fun hc h => ?_⟩, fun e he hlow => ?_⟩⟩
  · rw [takeOf_of_no_task hc, h]
    rfl
  · obtain ⟨x, hx, hbest, hle⟩ := candBest_spec h
    refine ⟨x, hx, by rw [takeOf_of_no_task hc, hbest, Option.map_some], fun ⟨d, b, near⟩ y hy => ?_⟩
    exact (candRank_le_iff (near x hx) (near y hy)).1 (hle d b near y hy)
  have served {t : Take} (hx : takeOf s e = some t) := exec_dispatch_of_take hr hn ht he hlow hx
  refine ⟨fun c hx hd => ?_, fun x hx hw => ?_, fun x hx hw hd => ?_, fun x hx hw hd => ?_, fun c hx hd => ?_⟩
  · obtain ⟨hhold, hphase, htaken, htasks⟩ := takeTask_of_program (e := e) hd
    exact ⟨takeTask e c s, served hx, hhold, hphase, htaken, htasks, durable_takeTask ..⟩
  · obtain ⟨hhold, hphase, hpc⟩ := takeWork_eng e x.id x.slot s
    exact ⟨_, (served hx).trans (congrArg _ (if_pos hw)), hhold, hphase, hpc, takeWork_ctx .., durable_takeWork ..⟩
  · obtain ⟨hhold, hregs, hphase, htaken⟩ := takeChan_eng (e := e) hd
    obtain ⟨hst, hgo, hpacing⟩ := takeChan_ctx (e := e) hd
    exact ⟨_, (served hx).trans (congrArg _ (if_neg (Bool.eq_false_iff.1 hw))), hhold, hregs, hphase, htaken, hst, hgo,
      hpacing, durable_takeChan ..⟩
  · exact ⟨(served hx).trans (congrArg _ (if_neg (Bool.eq_false_iff.1 hw))), durable_takeChan ..⟩
  · exact ⟨served hx, durable_takeTask ..⟩

end Sys2Proof.Machine

namespace Sys2Proof.Machine

/-! ### A write of QCTL (R202) -/

section
variable {s : State} {r : Requester}

theorem exec_quiesceRequest (hl : live s = true) (hr : isFirmware r = true) :
    exec (.quiesceRequest r) s = .next (writeQctl true (access r s)) :=
  if_neg (by simp [hl, hr])

theorem exec_quiesceRelease (hl : live s = true) (hr : isFirmware r = true) :
    exec (.quiesceRelease r) s = .next (writeQctl false (access r s)) :=
  if_neg (by simp [hl, hr])

theorem writeQctl_of_idle {on : Bool} (h : on = s.dsp.qreq ∨ s.pf.stage ≠ .normal) : writeQctl on s = s :=
  if_pos (by simpa using h)

theorem writeQctl_of_rise (hn : s.pf.stage = .normal) (hq : s.dsp.qreq = false) : writeQctl true s = quiesceOn s :=
  if_neg (by simp [hn, hq])

theorem writeQctl_of_fall (hn : s.pf.stage = .normal) (hq : s.dsp.qreq = true) : writeQctl false s = quiesceOff s :=
  if_neg (by simp [hn, hq])

end

/-! ### QREQ rises (R202, R203) -/

section
variable (s : State)

/-- An engine that is told of the quiesce. -/
def toldQuiesce (x : Engine) : Engine :=
  match x.hold, x.stop with
  | .chan _, .none => { x with stop := .pause, forced := true }
  | .chan _, .pause => { x with forced := true }
  | _, _ => x

theorem toldQuiesce_main (x : Engine) : (toldQuiesce x).main = x.main := by
  unfold toldQuiesce
  split <;> rfl

theorem toldQuiesce_hold (x : Engine) : (toldQuiesce x).hold = x.hold := by
  unfold toldQuiesce
  split <;> rfl

theorem toldQuiesce_stop {x : Engine} {c : Nat} (hh : x.hold = .chan c) (hs : x.stop = .none) :
    (toldQuiesce x).stop = .pause := by
  simp only [toldQuiesce, hh, hs]

/-- The state of a quiesce that has begun, before QDONE is looked at. -/
def quiesceBegun : State :=
  { s with dsp := { s.dsp with qreq := true, qdone := false }, eng := tmap (fun _ => toldQuiesce) s.eng }

theorem quiesceOn_eq : quiesceOn s = quiesceStep (quiesceBegun s) := rfl

theorem getEng_quiesceOn (e : Nat) : getEng (quiesceOn s) e = toldQuiesce (getEng s e) := by
  rw [quiesceOn_eq, getEng_of_engs (quiesceStep_eng _)]
  exact tget_tmap {} s.eng e (fun _ => toldQuiesce) (fun _ => rfl)

theorem ctx_quiesceOn : (quiesceOn s).dsp.ctx = s.dsp.ctx :=
  quiesceStep_ctx (quiesceBegun s)

theorem qreq_quiesceStep : (quiesceStep s).dsp.qreq = s.dsp.qreq := by
  unfold quiesceStep
  split <;> rfl

theorem qreq_quiesceOn : (quiesceOn s).dsp.qreq = true :=
  qreq_quiesceStep (quiesceBegun s)

variable {s}

/-- QDONE rises where no engine holds a channel or a write-back task (R202). -/
theorem quiesceStep_of_free (hq : s.dsp.qreq = true) (hd : s.dsp.qdone = false)
    (hfree : ∀ x ∈ s.eng, x.2.hold = .none ∨ ∃ a b, x.2.hold = .work a b) :
    quiesceStep s = modDsp (fun d => { d with qdone := true, qseam := s.seam }) s := by
  refine if_pos ?_
  rw [hq, hd, Bool.not_false, Bool.and_self, Bool.true_and, Bool.not_eq_true', List.any_eq_false]
  intro x hx
  obtain h | ⟨a, b, h⟩ := hfree x hx <;> simp [h]

theorem quiesceOn_of_free (hfree : ∀ x ∈ s.eng, x.2.hold = .none ∨ ∃ a b, x.2.hold = .work a b) :
    quiesceOn s = modDsp (fun d => { d with qdone := true, qseam := s.seam }) (quiesceBegun s) := by
  refine quiesceStep_of_free (s := quiesceBegun s) rfl rfl fun y hy => ?_
  obtain ⟨x, hx, rfl⟩ := List.mem_map.1 hy
  simpa only [toldQuiesce_hold] using hfree x hx

end

/-! ### QREQ returns to 0 (R204) -/

section
variable (s : State)

/-- The context of a channel behind the release. -/
def released (x : Ctx) : Ctx :=
  if x.st = .quiesced then { x with st := if x.pause then .paused else .ready } else x

theorem released_of_other {x : Ctx} (h : x.st ≠ .quiesced) : released x = x := if_neg h

theorem released_of_quiesced {x : Ctx} (h : x.st = .quiesced) :
    released x = { x with st := if x.pause then .paused else .ready } := if_pos h

theorem released_st_ne (x : Ctx) : (released x).st ≠ .quiesced := by
  unfold released
  split
  · dsimp only
    split <;> decide
  · assumption

theorem getCtx_releaseChan (c j : Nat) :
    getCtx (releaseChan c s) j = if j = c then released (getCtx s j) else getCtx s j := by
  unfold releaseChan
  split
  · rename_i hq
    rw [toReady_ctx]
    split
    · subst j
      exact (released_of_quiesced (beq_iff_eq.1 hq)).symm
    · rfl
  · rename_i hq
    split
    · subst j
      exact (released_of_other (mt beq_iff_eq.2 hq)).symm
    · rfl

theorem getCtx_releaseAll (l : List Nat) (j : Nat) :
    getCtx (forAll l releaseChan s) j = if j ∈ l then released (getCtx s j) else getCtx s j := by
  induction l generalizing s with
  | nil => rfl
  | cons c l ih =>
    rw [forAll, List.foldl_cons, ← forAll, ih, getCtx_releaseChan]
    by_cases hj : j = c
    · simp [hj, released_of_other (released_st_ne _)]
    · simp [hj]

/-- A place that a table does not list. -/
theorem tget_of_unlisted {α : Type} {d : α} {t : Tbl α} {k : Nat} (h : k ∉ t.map (·.1)) : tget d t k = d := by
  induction t with
  | nil => rfl
  | cons x t ih =>
    rw [List.map_cons, List.mem_cons, not_or] at h
    obtain ⟨hx, ht⟩ := h
    exact (if_neg (Ne.symm hx)).trans (ih ht)

theorem qdone_toReady (c : Nat) : (toReady c s).dsp.qdone = s.dsp.qdone := by
  obtain ⟨cache, lm, hu⟩ := cacheUse_spec c true s
  unfold toReady
  dsimp only
  split
  · rw [modCtx_dsp_qdone, hu]
  · obtain ⟨ready, ovf, lm', he, -⟩ := enqueue_spec c (modCtx c (fun x => { x with st := .ready }) (cacheUse c true s))
    rw [he]
    exact congrArg (fun t => t.dsp.qdone) hu

/-- QREQ and QDONE stand at 0. -/
def QuiesceOver (t : State) : Prop := t.dsp.qreq = false ∧ t.dsp.qdone = false

theorem quiesceOver_releaseChan (c : Nat) (h : QuiesceOver s) : QuiesceOver (releaseChan c s) := by
  obtain ⟨hreq, hdone⟩ := h
  unfold releaseChan
  split
  · exact ⟨(toReady_dsp_qreq c s).trans hreq, (qdone_toReady s c).trans hdone⟩
  · exact ⟨hreq, hdone⟩

variable {s} (ha : s.dsp.recAborts = [])
include ha

theorem quiesceOff_of_no_aborts : quiesceOff s = forAll (s.dsp.ctx.map (·.1)) releaseChan
    (modDsp (fun d => { d with qreq := false, qdone := false, recAborts := [] }) s) := by
  simp only [quiesceOff, ha]
  rfl

theorem quiesceOver_quiesceOff : QuiesceOver (quiesceOff s) := by
  rw [quiesceOff_of_no_aborts ha]
  exact forAll_ind QuiesceOver _ _ (fun c t => quiesceOver_releaseChan t c) _ ⟨rfl, rfl⟩

/-- Every channel is released: one that the table does not list is not QUIESCED. -/
theorem getCtx_quiesceOff (c : Nat) : getCtx (quiesceOff s) c = released (getCtx s c) := by
  rw [quiesceOff_of_no_aborts ha, getCtx_releaseAll]
  split
  · rfl
  · rename_i hc
    have hdefault : getCtx s c = {} := tget_of_unlisted hc
    rw [hdefault]
    exact hdefault

end

/-- Settles O21. A write that changes nothing, the rise of QREQ, and its release where no abort is recorded. -/
theorem quiescing : Obligations.Quiescing := by
  refine fun s r hl hr => ⟨fun hq => ?_, fun hq => ?_, fun hn => ⟨?_, ?_⟩, fun hn hq => ?_, fun hn hq ha => ?_⟩
  · rw [exec_quiesceRequest hl hr, writeQctl_of_idle (.inl (by rw [access_dsp, hq]))]
  · rw [exec_quiesceRelease hl hr, writeQctl_of_idle (.inl (by rw [access_dsp, hq]))]
  · rw [exec_quiesceRequest hl hr, writeQctl_of_idle (.inr (by rwa [access_pf]))]
  · rw [exec_quiesceRelease hl hr, writeQctl_of_idle (.inr (by rwa [access_pf]))]
  · rw [exec_quiesceRequest hl hr, writeQctl_of_rise (by rwa [access_pf]) (by rwa [access_dsp])]
    refine ⟨_, rfl, qreq_quiesceOn _, ?_, fun e c hh hs => ?_, fun e => ⟨?_, ?_⟩, fun hfree => ?_, ?_⟩
    · rw [ctx_quiesceOn, access_dsp]
    · rw [getEng_quiesceOn, getEng_access, toldQuiesce_stop hh hs]
    · rw [getEng_quiesceOn, getEng_access, toldQuiesce_main]
    · rw [getEng_quiesceOn, getEng_access, toldQuiesce_hold]
    · rw [quiesceOn_of_free (by rwa [access_eng])]
      exact ⟨rfl, access_seam r s⟩
    · rw [durable_quiesceOn, durable_access]
  · rw [exec_quiesceRelease hl hr, writeQctl_of_fall (by rwa [access_pf]) (by rwa [access_dsp])]
    have hab : (access r s).dsp.recAborts = [] := by rwa [access_dsp]
    obtain ⟨hqreq, hqdone⟩ := quiesceOver_quiesceOff hab
    refine ⟨_, rfl, hqreq, hqdone, fun c hc => ?_, fun c hc => ?_, ?_⟩
    · rw [getCtx_quiesceOff hab, getCtx_access, released_of_other hc]
    · rw [getCtx_quiesceOff hab, getCtx_access, released_of_quiesced hc]
    · rw [durable_quiesceOff, durable_access]

end Sys2Proof.Machine

namespace Sys2Proof.Machine

/-! ### The update of a word (R93, R245) -/

section
variable {s : State} {who : Who} {a : Word} (hm : mayIssue s = true)
include hm

theorem issueUpd8_of_ok (hv : (gateCheck s (68 + lmPortOf s a) who .both a 8 false).ok = true)
    (compare cmask value wmask add : Word) (pu : Purpose) : issueUpd8 who a compare cmask value wmask add pu s =
      (.go, lmIssue { port := 0, tag := 0, op := .upd8, addr := a, len := 8,
                      cache := (gateCheck s (68 + lmPortOf s a) who .both a 8 false).cach, order := .strict,
                      compare := compare, cmask := cmask, value := value, wmask := wmask, add := add,
                      purpose := pu } s) := by
  simp [issueUpd8, hm, hv]

theorem issueUpd8_of_denied (hv : (gateCheck s (68 + lmPortOf s a) who .both a 8 false).ok = false)
    (compare cmask value wmask add : Word) (pu : Purpose) : issueUpd8 who a compare cmask value wmask add pu s =
      (.denied, denyPrecise (68 + lmPortOf s a) who .both a 8 (gateCheck s (68 + lmPortOf s a) who .both a 8 false)
        s) := by
  simp [issueUpd8, hm, hv]

end

/-! ### What a break does (R212) -/

section
variable (x : LockEntry) (k : BitVec 3) (s : State)

/-- The lock table and its registers behind a break (R212, R214). -/
def brokenLocks (l : Locks) : Locks :=
  { l with
    entries := l.entries.filter (fun y => y.addr != x.addr)
    waiting := l.waiting.filter (fun y => y.addr != x.addr)
    brkcnt := inc32 l.brkcnt, lbladdr := x.addr, lblchan := BitVec.ofNat 23 x.chan, lblcause := k
    found := l.found || (k == 4 && x.addr == l.cmd) }

/-- The update of the word, and the state that has issued it. -/
def breakUpd8 : Iss × State :=
  issueUpd8 lockBreakWho x.addr 0 0 ((1 : Word) <<< 41) ((3 : Word) <<< 40) 0 .breakWord (modLock (brokenLocks x k) s)

theorem breakEntry_eq : breakEntry x k s =
    evLockBreak x.fn (if (breakUpd8 x k s).1 == .go then xCtl 0 (breakUpd8 x k s).2 else (breakUpd8 x k s).2) := rfl

theorem lock_breakEntry : (breakEntry x k s).lock = brokenLocks x k s.lock := by
  rw [breakEntry_eq, ← locks_eq, locks_evLockBreak, locks_ite, locks_xCtl, ite_self, breakUpd8, locks_issueUpd8]
  rfl

theorem lm_breakEntry : (breakEntry x k s).lm = (breakUpd8 x k s).2.lm := by
  rw [breakEntry_eq, ← lmPart_eq, lmPart_evLockBreak, lmPart_ite, lmPart_xCtl, ite_self, lmPart_eq]

theorem ctx_breakEntry : (breakEntry x k s).dsp.ctx = s.dsp.ctx := chans_breakEntry x k s

/-- The request sets HELD to 0 and BROKEN to 1 in a word, and changes no other bit of it. -/
def BreaksWord (a : Word) (q : LmReq) : Prop :=
  q.op = .upd8 ∧ q.addr = a ∧ q.len = 8 ∧ q.value = (1 : Word) <<< 41 ∧ q.wmask = (3 : Word) <<< 40 ∧
    q.cmask = 0 ∧ q.add = 0 ∧ q.purpose = .breakWord

/-- The gate of its memory port lets the break of a word pass. -/
def breakPasses (a : Word) : Bool := (gateCheck s (68 + lmPortOf s a) lockBreakWho .both a 8 false).ok

/-- Behind a break, from s to t: no entry of the word, the registers, the write of the word, and the event (R212). -/
def LockBroken (t : State) : Prop :=
  (∀ y ∈ t.lock.entries, y.addr ≠ x.addr) ∧ t.lock.brkcnt = inc32 s.lock.brkcnt ∧ t.lock.lbladdr = x.addr ∧
    t.lock.lblchan.toNat = x.chan % 2 ^ 23 ∧ t.lock.lblcause = k ∧
    (breakPasses s x.addr = true → ∃ q, t.lm = s.lm ++ [q] ∧ BreaksWord x.addr q) ∧
    (breakPasses s x.addr = false → t.lm = s.lm) ∧
    t.ctl.evpends.getLsbD 8 = true ∧ (getFn t (familyOf t x.fn)).evcause.getLsbD 4 = true

variable {s}

theorem lockBroken_breakEntry (hm : mayIssue s = true) : LockBroken x k s (breakEntry x k s) := by
  have hlock := lock_breakEntry x k s
  refine ⟨?_, ?_, ?_, ?_, ?_, fun hv => ?_, fun hv => ?_, evpends_evS 8 (by decide) _,
    evcause_postCause 4 (by decide) x.fn _⟩
  · rw [hlock]
    exact fun y hy => bne_iff_ne.1 (List.mem_filter.1 hy).2
  · rw [hlock]
    rfl
  · rw [hlock]
    rfl
  · rw [hlock]
    exact BitVec.toNat_ofNat ..
  · rw [hlock]
    rfl
  · rw [lm_breakEntry, breakUpd8, issueUpd8_of_ok (s := modLock (brokenLocks x k) s) hm hv]
    exact ⟨_, rfl, rfl, rfl, rfl, rfl, rfl, rfl, rfl, rfl⟩
  · rw [lm_breakEntry, breakUpd8, issueUpd8_of_denied (s := modLock (brokenLocks x k) s) hm hv]
    rfl

end

/-! ### The scan of the leases (R210, R211, R213) -/

section
variable {s : State} {a : Word} {x : LockEntry} (hm : mayIssue s = true) (ht : tested s islDsp = false)
  (hx : lockAt s a = some x)
include hm ht hx

theorem exec_leaseExpiry_of_runs (h : x.releasing = true ∨ s.time.toNat < x.expiry.toNat) :
    exec (.leaseExpiry a) s = .next s := by
  refine (if_neg (by simp [hm, ht])).trans ?_
  rw [hx]
  exact if_pos (by simpa using h)

theorem exec_leaseExpiry_of_ended (hr : x.releasing = false) (he : x.expiry.toNat ≤ s.time.toNat) :
    exec (.leaseExpiry a) s = .next (leaseEnds x s) := by
  refine (if_neg (by simp [hm, ht])).trans ?_
  rw [hx]
  exact if_neg (by simp [hr, he])

end

/-- A lease that has ended breaks its lock at once, with one cause or another (R211). -/
theorem leaseEnds_eq (x : LockEntry) (s : State) : ∃ k, leaseEnds x s = breakEntry x k s := ⟨_, rfl⟩

theorem leaseEnds_of_no_wait {x : LockEntry} {s : State} (h : s.lock.waiting = []) :
    leaseEnds x s = breakEntry x 0 s := by
  simp only [leaseEnds, causeFor, h]
  rfl

/-! ### BREAK (R213, R214) -/

section
variable (r : Requester) (s : State)

/-- The word that a break command names. -/
def commandWord : Word := alignDown s.lock.lbcmdadr 8

/-- A break command has been taken: FOUND is 0. -/
def breakAsked : State := modLock (fun l => { l with found := false, cmd := commandWord s }) (access r s)

theorem lock_breakAsked : (breakAsked r s).lock = { s.lock with found := false, cmd := commandWord s } := by
  rw [breakAsked, modLock, access_lock]

theorem waiting_breakAsked : (breakAsked r s).lock.waiting = s.lock.waiting := by
  rw [lock_breakAsked]

theorem lm_breakAsked : (breakAsked r s).lm = s.lm := access_lm r s

theorem lockAt_breakAsked (a : Word) : lockAt (breakAsked r s) a = lockAt s a := by
  rw [lockAt, lock_breakAsked, lockAt]

theorem engOf_breakAsked (c : Nat) : engOf (breakAsked r s) c = engOf s c := engOf_access r s c

theorem orphanOut_breakAsked (c : Nat) : orphanOut (breakAsked r s) c = orphanOut s c := by
  rw [orphanOut, lm_breakAsked, orphanOut]

theorem mayIssue_breakAsked : mayIssue (breakAsked r s) = mayIssue s := by
  simp [mayIssue, breakAsked]

theorem durable_breakAsked : durable (breakAsked r s) = durable s := by
  rw [breakAsked, durable_modLock, durable_access]

theorem breakPasses_breakAsked (a : Word) : breakPasses (breakAsked r s) a = breakPasses s a := by
  simp only [breakPasses, gateCheck, lmPortOf, breakAsked, modLock_gate, modLock_cfg, access_gate, access_cfg]

variable {r s} {x : LockEntry}

theorem lockBroken_of_asked {k : BitVec 3} {t : State} (h : LockBroken x k (breakAsked r s) t) :
    LockBroken x k s t := by
  simpa only [LockBroken, breakPasses_breakAsked, lm_breakAsked, lock_breakAsked] using h

theorem lockCommand_of_none (hx : lockAt s (commandWord s) = none) : lockCommand (access r s) = breakAsked r s := by
  have hasked : lockAt (breakAsked r s) (commandWord s) = none := (lockAt_breakAsked ..).trans hx
  unfold breakAsked commandWord at hasked ⊢
  simp only [lockCommand, access_lock, hasked]

theorem lockCommand_of_entry (hx : lockAt s (commandWord s) = some x) :
    lockCommand (access r s) = breakOrWait x 4 (breakAsked r s) := by
  have hasked : lockAt (breakAsked r s) (commandWord s) = some x := (lockAt_breakAsked ..).trans hx
  unfold breakAsked commandWord at hasked ⊢
  simp only [lockCommand, access_lock, hasked]

section
variable (hm : mayIssue s = true) (hk : isKc r = true)
include hm hk

theorem exec_lockBreakCommand : exec (.lockBreakCommand r) s = .next (lockCommand (access r s)) :=
  if_neg (by simp [hm, hk])

theorem exec_lockBreakCommand_of_none (hx : lockAt s (commandWord s) = none) :
    exec (.lockBreakCommand r) s = .next (breakAsked r s) := by
  rw [exec_lockBreakCommand hm hk, lockCommand_of_none hx]

theorem exec_lockBreakCommand_of_entry (hx : lockAt s (commandWord s) = some x) :
    exec (.lockBreakCommand r) s = .next (breakOrWait x 4 (breakAsked r s)) := by
  rw [exec_lockBreakCommand hm hk, lockCommand_of_entry hx]

end

/-- The owner has left its engine, and a write of it is unanswered: the break waits for the answer (R211). -/
theorem breakOrWait_of_orphan {k : BitVec 3} (hr : x.releasing = false) (hw : ∀ y ∈ s.lock.waiting, y.addr ≠ x.addr)
    (he : engOf s x.chan = none) (ho : orphanOut s x.chan = true) : breakOrWait x k s =
      modLock (fun l => { l with waiting := l.waiting ++ [{ addr := x.addr, cause := k, after := true }] }) s := by
  have hkept : s.lock.waiting.filter (fun y => y.addr != x.addr) = s.lock.waiting :=
    List.filter_eq_self.2 (fun y hy => bne_iff_ne.2 (hw y hy))
  rw [breakOrWait_of_new hr hw, if_neg (by simp [he]), breakSoon, if_pos ho, modLock, modLock, hkept]

/-- A break that waits behind a command leaves the entries (R211). -/
theorem waits_breakAsked (y : WaitBreak) :
    let t := modLock (fun l => { l with waiting := l.waiting ++ [y] }) (breakAsked r s)
    t.lock.entries = s.lock.entries ∧ t.lock.waiting = s.lock.waiting ++ [y] ∧ durable t = durable s := by
  refine ⟨?_, ?_, ?_⟩
  · rw [modLock_lock, lock_breakAsked]
  · rw [modLock_lock, lock_breakAsked]
  · rw [durable_modLock, durable_breakAsked]

/-- FOUND tells of the last command: it names the word whose lock it breaks (R214). -/
theorem found_breakEntry_breakAsked (hx : lockAt s (commandWord s) = some x) :
    (breakEntry x 4 (breakAsked r s)).lock.found = true := by
  have ha : x.addr = commandWord s := by simpa using List.find?_some hx
  rw [lock_breakEntry, lock_breakAsked]
  simp [brokenLocks, ha]

end

/-- Settles O22. First part: the scan of the leases. Second part: BREAK, by what stands in the lock table. -/
theorem lockBreaks : Obligations.LockBreaks := by
  intro s a x r hm
  refine ⟨fun ht hx h => exec_leaseExpiry_of_runs hm ht hx h, fun ht hx hr he hw => ?_, fun ht hx hr he => ?_,
    fun hk hx => exec_lockBreakCommand_of_none hm hk hx, fun hk hx h => ?_, fun hk hx hr hw he ho => ?_,
    fun hk hx hr hw he ho => ?_, fun hk hx hr hw he => ?_⟩
  · rw [exec_leaseExpiry_of_ended hm ht hx hr he, leaseEnds_of_no_wait hw]
    exact ⟨_, rfl, lockBroken_breakEntry x 0 hm, ctx_breakEntry x 0 s, durable_breakEntry x 0 s⟩
  · obtain ⟨k, hk⟩ := leaseEnds_eq x s
    rw [exec_leaseExpiry_of_ended hm ht hx hr he, hk]
    exact ⟨_, k, rfl, lockBroken_breakEntry x k hm, ctx_breakEntry x k s, durable_breakEntry x k s⟩
  · rw [exec_lockBreakCommand_of_entry hm hk hx, breakOrWait_of_waits (by rwa [waiting_breakAsked])]
    rfl
  all_goals
    have hw' : ∀ y ∈ (breakAsked r s).lock.waiting, y.addr ≠ x.addr := by
      simpa only [waiting_breakAsked, not_exists, not_and] using hw
    rw [exec_lockBreakCommand_of_entry hm hk hx]
  · rw [breakOrWait_of_off hr hw' (by rwa [engOf_breakAsked]) (by rwa [orphanOut_breakAsked])]
    refine ⟨_, rfl, lockBroken_of_asked (lockBroken_breakEntry x 4 ?_), found_breakEntry_breakAsked hx, ?_⟩
    · rwa [mayIssue_breakAsked]
    · rw [durable_breakEntry, durable_breakAsked]
  · rw [breakOrWait_of_orphan hr hw' (by rwa [engOf_breakAsked]) (by rwa [orphanOut_breakAsked])]
    exact ⟨_, rfl, waits_breakAsked _⟩
  · rw [breakOrWait_of_running hr hw' (by rwa [engOf_breakAsked])]
    exact ⟨_, rfl, waits_breakAsked _⟩

end Sys2Proof.Machine

namespace Sys2Proof.Machine

/-! ### What firmware arms and writes (R259, R260, R265, R385) -/

section
variable {s : State} {r : Requester} (hl : live s = true)
include hl

theorem exec_sharm (hf : isFirmware r = true) (mask : Half) :
    exec (.sharm r mask) s = .next { access r s with shpend := s.shpend ||| bits mask 0 7 } := by
  refine (if_neg (by simp [hl, hf])).trans ?_
  rw [writeSharm, access_shpend]

section
variable (hk : isKc r = true)
include hk

theorem exec_gateRuleWrite {rule : Nat} (hr : rule < 64) (word : Nat) (v : Word) :
    exec (.gateRuleWrite r rule word v) s = .next (writeRule rule word v (access r s)) :=
  if_neg (by simp [hl, hk, hr])

theorem exec_gateBarrierArm : exec (.gateBarrierArm r) s = .next (gbarArm (access r s)) := if_neg (by simp [hl, hk])

theorem exec_vlogrdWrite (v : Half) : exec (.vlogrdWrite r v) s = .next (writeVlogrd v (access r s)) :=
  if_neg (by simp [hl, hk])

end
end

section
variable (r : Requester) (s : State)

theorem gatePresent_access (g : Nat) : gatePresent (access r s) g = gatePresent s g := by simp [gatePresent]

theorem ruleLocked_access (g : Nat) : ruleLocked (access r s) g = ruleLocked s g := by simp [ruleLocked]

theorem badRule_access (m : BitVec 71) : badRule (access r s) m = badRule s m := by
  simp [badRule, inMask, gatePresent_access]

end

section
variable {s : State} (hg : gatePresent s s.gate.gsel.toNat = true)
include hg

theorem writeRule_of_locked (h : ruleLocked s s.gate.gsel.toNat = true) (i w : Nat) (v : Word) :
    writeRule i w v s = modGate (fun x => { x with wref := true }) s := by
  simp [writeRule, hg, h]

theorem writeRule_of_open (h : ruleLocked s s.gate.gsel.toNat = false) (i w : Nat) (v : Word) :
    writeRule i w v s = setShadow s.gate.gsel.toNat i
      (setRuleWord w v (tget {} s.gate.shadow (64 * s.gate.gsel.toNat + i))) s := by
  simp [writeRule, hg, h]

end

theorem shadow_setShadow (g i j : Nat) (x : Rule) (s : State) : tget {} (setShadow g i x s).gate.shadow j =
    if j = 64 * g + i then x else tget {} s.gate.shadow j := by
  rw [setShadow, modGate_gate, tget_tset]

/-! ### Arming a barrier (R261) -/

theorem gbarArm_of_latched {s : State} (h : s.gate.latched ≠ none) :
    gbarArm s = modGate (fun g => { g with err := true, errgate := 0x7F }) s := by
  simp [gbarArm, Option.isSome_iff_ne_none.2 h]

section
variable {s : State} (hn : s.gate.latched = none)
include hn

theorem gbarArm_of_bad {k : Nat} (h : badRule s (gateMask s.gate) = some k) : gbarArm s = modGate (fun g => { g with
    err := true, errgate := BitVec.ofNat 7 (k / 64), errrule := BitVec.ofNat 6 (k % 64) }) s := by
  simp [gbarArm, hn, h]

theorem gbarArm_of_wellformed (h : badRule s (gateMask s.gate) = none) : gbarArm s = modGate (fun g => { g with
    armed := true, done := false, err := false, wref := false, latched := some (gateMask s.gate) }) s := by
  simp [gbarArm, hn, h]

end

/-! ### FREEZE (R235) -/

section
variable {s : State} {r : Requester} (hl : live s = true) (hf : isFirmware r = true)
include hl hf

theorem exec_xbarFreeze (on : Bool) : exec (.xbarFreeze r on) s = .next (writeXfreeze on (access r s)) :=
  if_neg (by simp [hl, hf])

theorem exec_clusterFreeze {k : Nat} (hk : k < nClusters s) (on : Bool) :
    exec (.clusterFreeze r k on) s = .next (writeCfreeze k on (access r s)) :=
  if_neg (by simp [hl, hf, hk])

end

/-- With no answer standing, none crosses. -/
theorem answersGo_of_nil {s : State} (h : s.xback = []) : answersGo s = s := by
  have hs : { s with xback := [] } = s := by rw [← h]
  rw [answersGo, hs, h]
  rfl

section
variable (r : Requester) (s : State) (on : Bool)

/-- The crossbar's FREEZE bit is written; nothing has gone on yet. -/
theorem xfreezeSet_keeps :
    let u := modXbar (fun x => { x with freeze := on }) (wakeIsl islXbr (slotCount (access r s)))
    u.xbar.fresh = s.xbar.fresh ∧ u.xbar.pend = s.xbar.pend ∧ u.xbar.lanes = s.xbar.lanes ∧ u.dsp = s.dsp ∧
      durable u = durable s := by
  refine ⟨?_, ?_, ?_, access_dsp r s, by simp⟩
  all_goals simp [wakeIsl, slotCount, slotCountTo]

/-- A cluster's FREEZE bit is written; nothing has gone on yet. -/
theorem cfreezeSet_keeps (k : Nat) :
    let u := modClu k (fun c => { c with freeze := on }) (wakeIsl (18 + k) (access r s))
    (getClu u k).freeze = on ∧ (getClu u k).parked = (getClu s k).parked ∧ (getClu u k).owner = (getClu s k).owner ∧
      (∀ j, j ≠ k → getClu u j = getClu s j) ∧ durable u = durable s := by
  refine ⟨?_, ?_, ?_, fun j hj => ?_, by simp⟩
  all_goals simp [wakeIsl, *]

end

/-- Settles O25. First part: what any firmware writes. Second part: what Bedrock alone writes. -/
theorem armingAndFreezing : Obligations.ArmingAndFreezing := by
  intro s r hl
  refine ⟨fun hf => ⟨exec_sharm hl hf, fun on => ⟨?_, xfreezeSet_keeps r s on⟩,
    fun k on hk => ⟨?_, cfreezeSet_keeps r s on k⟩, fun _ => answersGo_of_nil⟩,
    fun hk => ⟨fun rule word v hr hg => ?_, fun hn hb => ?_, fun hn k hb => ?_, fun hn => ?_, fun v hv => ?_, fun v hv => ?_⟩⟩
  · rw [exec_xbarFreeze hl hf, writeXfreeze, access_xbar]
  · rw [exec_clusterFreeze hl hf hk, writeCfreeze, getClu_access]
  · have hg' : gatePresent (access r s) (access r s).gate.gsel.toNat = true := by rwa [gatePresent_access, access_gate]
    rw [exec_gateRuleWrite hl hk hr]
    refine ⟨fun h => ?_, fun h => ?_⟩
    · rw [writeRule_of_locked hg' (by rwa [ruleLocked_access, access_gate])]
    · rw [writeRule_of_open hg' (by rwa [ruleLocked_access, access_gate])]
      refine ⟨_, rfl, ?_, fun j hj => ?_, ?_, ?_⟩
      · rw [shadow_setShadow, access_gate, if_pos rfl]
      · rw [shadow_setShadow, access_gate, if_neg hj]
      · rw [setShadow, modGate_gate, access_gate]
      · simp [setShadow, durable]
  · rw [exec_gateBarrierArm hl hk, gbarArm_of_wellformed (by rwa [access_gate]) (by rwa [badRule_access, access_gate]),
      access_gate]
  · rw [exec_gateBarrierArm hl hk, gbarArm_of_bad (by rwa [access_gate]) (by rwa [badRule_access, access_gate])]
  · rw [exec_gateBarrierArm hl hk, gbarArm_of_latched (by rwa [access_gate])]
  · rw [exec_vlogrdWrite hl hk, writeVlogrd, access_gate, if_pos hv]
  · rw [exec_vlogrdWrite hl hk, writeVlogrd, access_gate, if_neg (by omega)]

end Sys2Proof.Machine

namespace Sys2Proof.Machine

/-! ### Transfers from an engine port (R295 to R297, R308) -/

section
variable {s : State} {p : Nat} (hi : inlaneOpen s p = true) (first : Token) (rest : List Token)
include hi

/-- PORT_RDATA and TSVMSG are one command: the header of a transfer says what it is. -/
theorem exec_tsvmsg : exec (.tsvmsg p first rest) s = .next (takeXfer p (first :: rest) s) := if_neg (by simp [hi])

theorem exec_portRdata : exec (.portRdata p (first :: rest)) s = .next (takeXfer p (first :: rest) s) :=
  if_neg (by simp [hi])

end

/-- Behind a transfer, the class that was kept for it is used up (R302). -/
def xferDone (p : Nat) (s : State) : State := modPort p (fun k => { k with xferCls := none }) s

/-- What a transfer does, by its header. -/
def laneEffect (p : Nat) (s : State) : InLane → State
  | .parity => linkError p (addPerr p s)
  | .rdata x => takeRdata p x s
  | .msg d => takeMsg p d s
  | _ => linkError p (addProto p s)

theorem takeXfer_eq (p : Nat) (ts : List Token) (s : State) :
    takeXfer p ts s = xferDone p (laneEffect p (portEvent p s) (readLane ts)) := by
  unfold takeXfer laneEffect xferDone
  cases readLane ts <;> rfl

/-! ### Answers (R297, R308) -/

theorem reads_portEvent (p : Nat) (s : State) : (getPort (portEvent p s) p).reads = (getPort s p).reads := by
  simp [portEvent, stir, stirred, wakeIsl]

theorem reads_addPerr (p : Nat) (s : State) : (getPort (addPerr p s) p).reads = (getPort s p).reads := by
  simp [addPerr]

section
variable (p : Nat) (x : Rdata) (s : State)

/-- Bad data parity is counted before the answer is looked at. -/
def rdataHeard : State := if x.badData then addPerr p s else s

/-- The read that an answer names. -/
def readNamed : Option PortRead := (getPort s p).reads.find? (fun r => r.tid == x.tid.toNat)

theorem readNamed_rdataHeard : readNamed p x (rdataHeard p x s) = readNamed p x s := by
  unfold readNamed rdataHeard
  split
  · rw [reads_addPerr]
  · rfl

theorem readNamed_portEvent : readNamed p x (portEvent p s) = readNamed p x s := by
  rw [readNamed, reads_portEvent, readNamed]

variable {p x s}

theorem takeRdata_of_late (h : readNamed p x s = none) :
    takeRdata p x s = modPort p (fun k => { k with llate := inc32 k.llate }) (rdataHeard p x s) := by
  rw [← readNamed_rdataHeard] at h
  unfold readNamed rdataHeard at h
  unfold takeRdata rdataHeard
  simp only [h]

theorem takeRdata_of_read {r : PortRead} (h : readNamed p x s = some r) : takeRdata p x s =
    if !x.badData && !x.err && x.data.length != r.len then linkError p (addProto p (rdataHeard p x s))
    else rdataFor p r x (rdataHeard p x s) := by
  rw [← readNamed_rdataHeard] at h
  unfold readNamed rdataHeard at h
  unfold takeRdata rdataHeard
  simp only [h]

end

/-! ### Messages (R320 to R322) -/

theorem takeMsg_of_stands {p : Nat} {d : List Byte} {s : State}
    (h : upStands (clusterArrive p (deadlineNow s (xferClass s p)) s) p = true) : takeMsg p d s =
      let c := clusterArrive p (deadlineNow s (xferClass s p)) s
      { c with xback := c.xback ++ [.msg p d] } := if_pos h

theorem takeMsg_of_crosses {p : Nat} {d : List Byte} {s : State}
    (h : upStands (clusterArrive p (deadlineNow s (xferClass s p)) s) p = false) : takeMsg p d s =
      msgEnds p d (clusterArrive p (deadlineNow s (xferClass s p)) s) := if_neg (by simp [answerStands, h])

/-- A message finds TSV, awake, with another that waits, with a queue that has no room, or under test (R322, R408). -/
def MsgWaits (p : Nat) (d : List Byte) (w : State) : Prop :=
  (∃ k ∈ w.port, k.2.msgWait ≠ []) ∨ 4096 < w.tsv.queue.length + (parseRecords w p 64 d).1.length ∨
    tested w islTsv = true

theorem msgTaken_iff (p : Nat) (d : List Byte) (w : State) :
    (w.port.all (fun k => k.2.msgWait.isEmpty) && msgFits w p d && !tested w islTsv) = true ↔ ¬ MsgWaits p d w := by
  simp [MsgWaits, msgFits, and_assoc]

section
variable {p : Nat} {d : List Byte} {s : State}

theorem msgEnds_of_waits (h : MsgWaits p d (wakeIsl islTsv s)) :
    msgEnds p d s = modPort p (fun k => { k with msgWait := k.msgWait ++ [d] }) (wakeIsl islTsv s) :=
  if_neg (fun ht => (msgTaken_iff ..).1 ht h)

theorem msgEnds_of_taken (h : ¬ MsgWaits p d (wakeIsl islTsv s)) :
    msgEnds p d s = acceptMsg p d (wakeIsl islTsv s) := if_pos ((msgTaken_iff ..).2 h)

end

/-- Settles O33, by what the header of the transfer says. -/
theorem portTransfers : Obligations.PortTransfers := by
  intro s p first rest hi
  have hmsg := exec_tsvmsg hi first rest
  have hdata := exec_portRdata hi first rest
  rw [takeXfer_eq] at hmsg hdata
  refine ⟨hdata.trans hmsg.symm, fun h => ?_, fun h => ?_, fun x h => ?_, fun d h => ?_⟩
  · rw [hmsg, h]
    rfl
  · rw [hmsg]
    rcases h with h | ⟨v, h⟩
    all_goals
      rw [h]
      rfl
  · have hn := readNamed_portEvent p x s
    dsimp only
    rw [hdata, h, laneEffect]
    refine ⟨fun hr => ?_, fun r hr hb he hlen => ?_, fun r hr hends => ?_⟩
    · rw [takeRdata_of_late (hn.trans hr)]
      rfl
    · rw [takeRdata_of_read (hn.trans hr), if_pos (by simp [hb, he, hlen])]
      rfl
    · rw [takeRdata_of_read (hn.trans hr), if_neg]
      · rfl
      · rcases hends with h | h | h <;> simp [h]
  · dsimp only
    rw [hmsg, h, laneEffect]
    refine ⟨fun hs => ?_, fun hc hw => ?_, fun hc hw => ?_⟩
    · rw [takeMsg_of_stands hs]
      rfl
    · rw [takeMsg_of_crosses hc, msgEnds_of_waits hw]
      rfl
    · rw [takeMsg_of_crosses hc, msgEnds_of_taken hw]
      rfl

end Sys2Proof.Machine

namespace Sys2Proof.Machine

/-! ### What a write in place leaves of a table (R317, R333) -/

theorem modInst_congr {i : Nat} {f g : Inst → Inst} {s : State} (h : f (getInst s i) = g (getInst s i)) :
    modInst i f s = modInst i g s := by
  unfold getInst at h
  unfold modInst tmod
  rw [h]

/-- A table that has entered FAULT: its relocations and its rebuild are over (R333). -/
def faulted (x : Inst) : Inst := { x with st := .fault, relocating := [], armed := false, mirroring := false }

theorem getInst_abandonRebuild (i : Nat) (s : State) : getInst (abandonRebuild i s) i =
    { getInst s i with armed := false, mirroring := false,
                       relocating := (getInst s i).relocating.map (fun r => { r with mirror := false }) } := by
  unfold abandonRebuild
  rw [getInst_of_tsv (tsv_abandonWaiters _ _), getInst_modInst, if_pos rfl]

theorem getInst_tsvFault (i : Nat) (a : Word) (s : State) : getInst (tsvFault i a s) i =
    if (getInst s i).st = .fault ∨ (getInst s i).st = .off then getInst s i else faulted (getInst s i) := by
  unfold tsvFault
  dsimp only
  split <;> rename_i h <;> simp only [Bool.or_eq_true, beq_iff_eq] at h
  · rw [if_pos h]
  · rw [if_neg h, getInst_tsvEvent]
    refine forAll_ind (fun t => getInst t i = faulted (getInst s i)) _ _ (fun r t ht => ?_) _ ?_
    · cases r.engine <;> exact ht
    · rw [getInst_abandonRebuild, getInst_modInst, if_pos rfl]
      rfl

theorem st_tsvFault {i : Nat} {s : State} (h : (getInst s i).st ≠ .off) (a : Word) :
    (getInst (tsvFault i a s) i).st = .fault := by
  rw [getInst_tsvFault]
  split
  · next h' => exact h'.resolve_right h
  · rfl

section
variable {s : State} {i : Nat} {e : Bool} {p : Place}

/-- The gate lets TSV write a place of an epoch (R317). -/
def putPasses (s : State) (i : Nat) (e : Bool) (p : Place) : Bool :=
  let a := placeAddr (epochOf (getInst s i) e) p
  (gateCheck s (68 + lmPortOf s a) tsvWho .wr a 32 false).ok

theorem tryPut_of_passes (h : putPasses s i e p = true) (z : Entry) :
    ∃ v, TsvKeeps s v ∧ tryPut i e p z s = (true, modInst i (modEp e (withEntry p z)) v) := by
  let a := placeAddr (epochOf (getInst s i) e) p
  let pu : Purpose := .tsv i (some (e, placeBucket (epochOf (getInst s i) e) p))
  have h1 : (tsvWrite a (entBytes z) pu s).1 = true :=
    tsvWrite_of_allowed (by rw [length_entBytes]; exact h) pu
  refine ⟨_, tsvKeeps_tsvWrite a (entBytes z) pu s, ?_⟩
  unfold tryPut
  dsimp only
  split <;> rename_i v hv
  · exact congrArg (fun w => (true, modInst i (modEp e (withEntry p z)) w)) (congrArg Prod.snd hv).symm
  · exact absurd ((congrArg Prod.fst hv).symm.trans h1) Bool.false_ne_true

theorem tryPut_of_denied (h : putPasses s i e p = false) (z : Entry) :
    ∃ v, TsvKeeps s v ∧ tryPut i e p z s = (false, tsvFault i (placeAddr (epochOf (getInst s i) e) p) v) := by
  let a := placeAddr (epochOf (getInst s i) e) p
  let pu : Purpose := .tsv i (some (e, placeBucket (epochOf (getInst s i) e) p))
  have h1 : (tsvWrite a (entBytes z) pu s).1 = false := by
    unfold tsvWrite
    dsimp only
    rw [if_pos]
    rw [length_entBytes]
    exact congrArg (!·) h
  refine ⟨_, tsvKeeps_tsvWrite a (entBytes z) pu s, ?_⟩
  unfold tryPut
  dsimp only
  split <;> rename_i v hv
  · exact absurd ((congrArg Prod.fst hv).symm.trans h1) Bool.false_ne_true.symm
  · exact congrArg (fun w => (false, tsvFault i a w)) (congrArg Prod.snd hv).symm

/-- A write in place changes one entry, or nothing, or brings the table into FAULT. -/
theorem getInst_putEntry (i : Nat) (e : Bool) (p : Place) (z : Entry) (s : State) :
    getInst (putEntry i e p z s) i = modEp e (withEntry p z) (getInst s i) ∨
    getInst (putEntry i e p z s) i = getInst s i ∨ getInst (putEntry i e p z s) i = faulted (getInst s i) := by
  unfold putEntry
  cases h : putPasses s i e p
  · obtain ⟨v, hk, hv⟩ := tryPut_of_denied h z
    rw [hv, getInst_tsvFault, hk.getInst]
    split
    · exact .inr (.inl rfl)
    · exact .inr (.inr rfl)
  · obtain ⟨v, hk, hv⟩ := tryPut_of_passes h z
    rw [hv, getInst_modInst, if_pos rfl, hk.getInst]
    exact .inl rfl

end

/-! ### One epoch behind a change of an entry -/

theorem epochOf_modEp_of_not (e : Bool) (f : Epoch → Epoch) (x : Inst) : epochOf (modEp (!e) f x) e = epochOf x e := by
  cases e <;> rfl

@[simp] theorem modEp_relocs (e : Bool) (f : Epoch → Epoch) (x : Inst) : (modEp e f x).relocs = x.relocs := by
  cases e <;> rfl

@[simp] theorem modEp_learns (e : Bool) (f : Epoch → Epoch) (x : Inst) : (modEp e f x).learns = x.learns := by
  cases e <;> rfl

@[simp] theorem modEp_aged (e : Bool) (f : Epoch → Epoch) (x : Inst) : (modEp e f x).aged = x.aged := by
  cases e <;> rfl

@[simp] theorem modEp_sweep (e : Bool) (f : Epoch → Epoch) (x : Inst) : (modEp e f x).sweep = x.sweep := by
  cases e <;> rfl

@[simp] theorem modEp_act (e : Bool) (f : Epoch → Epoch) (x : Inst) : (modEp e f x).act = x.act := by
  cases e <;> rfl

theorem wayAt_withEntry (key k : Nat) (z : Entry) (ep : Epoch) :
    wayAt (withEntry (.way key) z ep) k = if k = key then z else wayAt ep k :=
  tget_tset ..

@[simp] theorem log2b_withEntry (p : Place) (z : Entry) (ep : Epoch) : (withEntry p z ep).log2b = ep.log2b := by
  cases p <;> rfl

theorem log2b_modEp (e b : Bool) (p : Place) (z : Entry) (x : Inst) :
    (epochOf (modEp e (withEntry p z) x) b).log2b = (epochOf x b).log2b := by
  cases e <;> cases b <;> simp [epochOf, modEp]

/-! ### The end of a relocation (R319, R324, R334) -/

section
variable {s : State} {i key : Nat} {e : Bool} {r : Reloc} {rest : List Reloc}

/-- The table once the entry that displaced another stands in its way: the relocation and the learn it served count. -/
def relocated (e : Bool) (key : Nat) (r : Reloc) (rest : List Reloc) (x : Inst) : Inst :=
  { modEp e (withEntry (.way key) r.entry) { x with relocating := rest } with
    relocs := inc32 x.relocs, learns := if r.learn then inc32 x.learns else x.learns }

theorem epochOf_relocated (e : Bool) (key : Nat) (r : Reloc) (rest : List Reloc) (x : Inst) :
    epochOf (relocated e key r rest x) e = withEntry (.way key) r.entry (epochOf x e) := by
  cases e <;> rfl

theorem epochOf_relocated_not (e : Bool) (key : Nat) (r : Reloc) (rest : List Reloc) (x : Inst) :
    epochOf (relocated e key r rest x) (!e) = epochOf x (!e) := by
  cases e <;> rfl

theorem st_relocated (e : Bool) (key : Nat) (r : Reloc) (rest : List Reloc) (x : Inst) :
    (relocated e key r rest x).st = x.st := by
  cases e <;> rfl

theorem relocs_relocated (e : Bool) (key : Nat) (r : Reloc) (rest : List Reloc) (x : Inst) :
    (relocated e key r rest x).relocs = inc32 x.relocs := rfl

theorem relocating_relocated (e : Bool) (key : Nat) (r : Reloc) (rest : List Reloc) (x : Inst) :
    (relocated e key r rest x).relocating = rest := by
  cases e <;> rfl

/-- The operation that waited for a relocation is answered. -/
def relocAnswer (i : Nat) (r : Reloc) (ok : Bool) (s : State) : State :=
  match r.engine with
  | none => s
  | some g => tsvAnswerTo g (if !ok || inFault s i then { code := 0x12 } else { z := true, c := some true }) s

theorem getInst_relocAnswer (i : Nat) (r : Reloc) (ok : Bool) (s : State) (j : Nat) :
    getInst (relocAnswer i r ok s) j = getInst s j := by
  unfold relocAnswer
  cases r.engine <;> rfl

theorem relocAnswer_none (h : r.engine = none) (ok : Bool) : relocAnswer i r ok s = s := by
  rw [relocAnswer, h]

theorem answer_relocAnswer {g : Nat} (h : r.engine = some g) (hf : (getInst s i).st ≠ .fault)
    (hp : (getEng s g).main.phase = .table) :
    (getEng (relocAnswer i r true s) g).main.answer = some { z := true, c := some true } := by
  rw [relocAnswer, h]
  dsimp only
  rw [if_neg (by simpa [inFault] using hf)]
  exact answer_tsvAnswerTo hp _

/-- A relocation is taken from those that have begun. -/
def relocTaken (i : Nat) (rest : List Reloc) (s : State) : State := modInst i (fun x => { x with relocating := rest }) s

/-- A relocation counts, and the learn it served. -/
def relocCounted (i : Nat) (r : Reloc) (s : State) : State :=
  modInst i (fun x => { x with relocs := inc32 x.relocs, learns := if r.learn then inc32 x.learns else x.learns }) s

theorem getInst_relocTaken (i : Nat) (rest : List Reloc) (s : State) :
    getInst (relocTaken i rest s) i = { getInst s i with relocating := rest } := by
  rw [relocTaken, getInst_modInst, if_pos rfl]

theorem putPasses_relocTaken (rest : List Reloc) (s : State) (i : Nat) (e : Bool) (p : Place) :
    putPasses (relocTaken i rest s) i e p = putPasses s i e p := by
  rw [putPasses, putPasses, getInst_relocTaken]
  cases e <;> rfl

section
variable (hr : relocOf (getInst s i) key e = some (r, rest))
include hr

theorem relocate_eq : relocate i key e s =
    let x := tryPut i e (.way key) r.entry (relocTaken i rest s)
    relocAnswer i r x.1 (if !x.1 then x.2
      else if r.mirror then mirrorInto i (!e) r.entry (relocCounted i r x.2) else relocCounted i r x.2) := by
  unfold relocate relocAnswer
  rw [hr]
  rfl

theorem relocate_of_passes (h : putPasses s i e (.way key) = true) :
    ∃ w, getInst w i = relocated e key r rest (getInst s i) ∧ engs w = engs s ∧
      relocate i key e s = relocAnswer i r true (if r.mirror then mirrorInto i (!e) r.entry w else w) := by
  obtain ⟨v, hk, hv⟩ := tryPut_of_passes ((putPasses_relocTaken rest s i e _).trans h) r.entry
  refine ⟨relocCounted i r (modInst i (modEp e (withEntry (.way key) r.entry)) v), ?_, hk.engs, ?_⟩
  · rw [relocCounted, getInst_modInst, if_pos rfl, getInst_modInst, if_pos rfl, hk.getInst, getInst_relocTaken]
    simp only [modEp_relocs, modEp_learns, relocated]
  · rw [relocate_eq hr, hv]
    rfl

theorem relocate_of_denied (h : putPasses s i e (.way key) = false) (hst : (getInst s i).st ≠ .off) :
    (getInst (relocate i key e s) i).st = .fault := by
  obtain ⟨v, hk, hv⟩ := tryPut_of_denied ((putPasses_relocTaken rest s i e _).trans h) r.entry
  rw [relocate_eq hr, hv, getInst_relocAnswer]
  exact st_tsvFault (by rwa [hk.getInst, getInst_relocTaken]) _

end

theorem st_stashFails (h : (getInst s i).st ≠ .off) (key : Nat) (e : Bool) (a : Word) :
    (getInst (stashFails i key e a s) i).st = .fault := by
  have hf := st_tsvFault h a
  unfold stashFails
  dsimp only
  split
  · exact hf
  · split
    all_goals simpa using hf

/-! ### The response to a stash write (R319, R235) -/

theorem stashOf_of_lmPart {t : State} (h : lmPart t = lmPart s) : stashOf t i = stashOf s i := by
  simp only [lmPart_eq] at h
  simp only [stashOf, h]

section
variable {q : LmReq} (hq : stashOf s i = some q)
include hq

theorem exec_relocationStashWriteDone (h0 : s.inReset = false) (ht : tested s islTsv = false)
    (hm : tested s (islLmp q.port) = false) (resp : MResp) : exec (.relocationStashWriteDone i resp) s =
      .next (crossing (.stash q.port i resp) (stashDone i resp) (xLm q.port q.dl 0 s)) := by
  refine (if_neg (by simp [h0, ht])).trans ?_
  rw [hq]
  exact if_neg (by simp [hm])

theorem stashDone_eq (hk : stashKey i q.purpose = some (key, e)) (resp : MResp) : stashDone i resp s =
    barrierStep (if resp == .ok then relocate i key e (lmRetire q.port q.tag s)
      else stashFails i key e q.addr (lmRetire q.port q.tag s)) := by
  simp only [stashDone, hq, hk]

end
end

/-! ### The tick of a table (R328) -/

section
variable {s : State} {i : Nat}

theorem exec_ageTick_of_due (hl : live s = true) (ht : tested s islTsv = false) (he : (getInst s i).en = true)
    (h : tickNs s i ≤ (s.time - (getInst s i).tickAt).toNat) : exec (.ageTick i) s =
      .next (modInst i (fun x => { x with agecnt := x.agecnt + 1, tickAt := x.tickAt + w64 (tickNs s i) }) s) :=
  if_pos (by simp only [hl, ht, he, h]; rfl)

theorem exec_ageTick_of_early (h : (s.time - (getInst s i).tickAt).toNat < tickNs s i) : exec (.ageTick i) s = .next s :=
  if_neg (by simp only [Bool.and_eq_true, decide_eq_true_eq]; omega)

end

/-! ### A visit of the sweep (R329) -/

/-- What of a table the sweep finds its way by. -/
def SweepKeeps (x y : Inst) : Prop := y.sweep = x.sweep ∧ y.act = x.act ∧ (activeEp y).log2b = (activeEp x).log2b

theorem SweepKeeps.trans {x y z : Inst} (h : SweepKeeps x y) (k : SweepKeeps y z) : SweepKeeps x z :=
  ⟨k.1.trans h.1, k.2.1.trans h.2.1, k.2.2.trans h.2.2⟩

theorem SweepKeeps.sweepAt {x y : Inst} (h : SweepKeeps x y) : sweepAt y = sweepAt x := by
  obtain ⟨hs, -, hb⟩ := h
  rw [Sys2Proof.Machine.sweepAt, hs, hb, Sys2Proof.Machine.sweepAt]

theorem sweepKeeps_modEp (e : Bool) (p : Place) (z : Entry) (x : Inst) : SweepKeeps x (modEp e (withEntry p z) x) :=
  ⟨modEp_sweep .., modEp_act .., by rw [activeEp, modEp_act, log2b_modEp, activeEp]⟩

theorem sweepKeeps_putEntry (i : Nat) (e : Bool) (p : Place) (z : Entry) (s : State) :
    SweepKeeps (getInst s i) (getInst (putEntry i e p z s) i) := by
  rcases getInst_putEntry i e p z s with h | h | h <;> rw [h]
  · exact sweepKeeps_modEp ..
  · exact ⟨rfl, rfl, rfl⟩
  · exact ⟨rfl, rfl, rfl⟩

/-- A deletion that the other epoch follows leaves the active one, and what the sweep counts. -/
def MirrorKeeps (x y : Inst) : Prop :=
  y.sweep = x.sweep ∧ y.act = x.act ∧ activeEp y = activeEp x ∧ y.aged = x.aged

theorem mirrorKeeps_mirrorFound (i : Nat) (id : Half) (f : Entry → Entry) (s : State) :
    MirrorKeeps (getInst s i) (getInst (mirrorFound i id f s) i) := by
  unfold mirrorFound
  dsimp only
  split
  · split
    · next p y _ =>
      rcases getInst_putEntry i (!(getInst s i).act) p (f y) s with h | h | h <;> rw [h]
      · exact ⟨modEp_sweep .., modEp_act .., by rw [activeEp, modEp_act, epochOf_modEp_of_not, activeEp], modEp_aged ..⟩
      · exact ⟨rfl, rfl, rfl, rfl⟩
      · exact ⟨rfl, rfl, rfl, rfl⟩
    · exact ⟨rfl, rfl, rfl, rfl⟩
  · exact ⟨rfl, rfl, rfl, rfl⟩

section
variable {s : State} {i : Nat} {p : Place} {y : Entry}

/-- The table behind the look at one entry. -/
theorem getInst_ageOut (i : Nat) (p : Place) (y : Entry) (s : State) : getInst (ageOut i p y s) i =
    let x := getInst s i
    let u := putEntry i x.act p {} s
    let m := getInst (mirrorFound i (entId y) (fun _ => {}) u) i
    if (!instRuns x || !entValid y || decide (ageOf x y ≤ agelimOf s i)) = true then x
    else if inFault u i = true then getInst u i else { m with aged := inc32 m.aged } := by
  unfold ageOut
  dsimp only
  split
  · rfl
  · split
    · rfl
    · split
      · rw [getInst_tsvEvent, getInst_modInst, if_pos rfl]
      · rw [getInst_modInst, if_pos rfl]

theorem sweepKeeps_ageOut (i : Nat) (p : Place) (y : Entry) (s : State) :
    SweepKeeps (getInst s i) (getInst (ageOut i p y s) i) := by
  have hput := sweepKeeps_putEntry i (getInst s i).act p {} s
  obtain ⟨hs, ha, he, -⟩ := mirrorKeeps_mirrorFound i (entId y) (fun _ => {}) (putEntry i (getInst s i).act p {} s)
  rw [getInst_ageOut]
  dsimp only
  split
  · exact ⟨rfl, rfl, rfl⟩
  · split
    · exact hput
    · exact hput.trans ⟨hs, ha, congrArg Epoch.log2b he⟩

theorem ageOut_of_young (h : entValid y = false ∨ ageOf (getInst s i) y ≤ agelimOf s i) : ageOut i p y s = s := by
  unfold ageOut
  exact if_pos (by rcases h with h | h <;> simp [h])

/-- An entry that is too old gives its place up, where the gate lets TSV write it. -/
theorem ageOut_of_old (hr : instRuns (getInst s i) = true) (hv : entValid y = true)
    (ho : agelimOf s i < ageOf (getInst s i) y) (hp : putPasses s i (getInst s i).act p = true) :
    entAt (epochOf (getInst (ageOut i p y s) i) (getInst s i).act) p = {} ∧
      (getInst (ageOut i p y s) i).aged = inc32 (getInst s i).aged := by
  have hput : EntryPut i p {} s (putEntry i (getInst s i).act p {} s) := entryPut_putEntry hp
  have hself := hput.getInst_self
  have hst : (getInst s i).st ≠ .fault := by
    intro h
    simp [instRuns, h] at hr
  have hfault : inFault (putEntry i (getInst s i).act p {} s) i ≠ true := by
    rw [inFault, hself]
    simpa using hst
  have hact : (getInst (putEntry i (getInst s i).act p {} s) i).act = (getInst s i).act := by
    rw [hself]
    exact modEp_act ..
  obtain ⟨-, ha, he, hc⟩ := mirrorKeeps_mirrorFound i (entId y) (fun _ => {}) (putEntry i (getInst s i).act p {} s)
  rw [getInst_ageOut]
  dsimp only
  rw [if_neg (by simpa [hr, hv] using ho), if_neg hfault]
  refine ⟨?_, ?_⟩
  · have hkept := congrArg (entAt · p) he
    rw [activeEp, ha, hact, hput.entAt, if_pos rfl] at hkept
    exact hkept
  · rw [hc, hself, modEp_aged]

/-- The sweep goes on from where the visit began. -/
theorem modInst_sweep_forAll (l : List Place) (f : Place → Entry) (u : State) (h : getInst u i = getInst s i) :
    modInst i (fun y => { y with sweep := sweepAt y + 1 }) (forAll l (fun p u => ageOut i p (f p) u) u) =
      modInst i (fun y => { y with sweep := sweepAt (getInst s i) + 1 }) (forAll l (fun p u => ageOut i p (f p) u) u) := by
  have hk : SweepKeeps (getInst s i) (getInst (forAll l (fun p u => ageOut i p (f p) u) u) i) :=
    forAll_ind (fun t => SweepKeeps (getInst s i) (getInst t i)) _ _
      (fun p t ht => ht.trans (sweepKeeps_ageOut i p (f p) t)) u (by rw [h]; exact ⟨rfl, rfl, rfl⟩)
  exact modInst_congr (by rw [hk.sweepAt])

theorem sweepVisit_of_busy (h : sweepBusy s i (sweepPlaces (activeEp (getInst s i)) (sweepAt (getInst s i))) = true)
    (rd : MResp) : sweepVisit rd i s = s := if_pos h

/-- A visit that finds no work in progress: denied, answered with an error, or read and looked at place by place. -/
theorem sweepVisit_eq {rest : List Place}
    (hps : sweepPlaces (activeEp (getInst s i)) (sweepAt (getInst s i)) = p :: rest)
    (hb : sweepBusy s i (sweepPlaces (activeEp (getInst s i)) (sweepAt (getInst s i))) = false) (rd : MResp) :
    sweepVisit rd i s =
      let x := getInst s i
      let a := placeAddr (activeEp x) p
      let n := 32 * (rest.length + 1)
      let g := 68 + lmPortOf s a
      let v := gateCheck s g tsvWho .rd a n false
      if (!v.ok) = true then tsvFault i a (denyPrecise g tsvWho .rd a n v s)
      else if (rd != .ok) = true then tsvFault i a (xTsvRead a 0 s)
      else modInst i (fun y => { y with sweep := sweepAt x + 1 })
        (forAll (p :: rest) (fun p u => ageOut i p (entAt (activeEp x) p) u) (xTsvRead a n s)) := by
  refine (if_neg (by simp [hb])).trans ?_
  simp only [hps, List.length_cons]
  rw [modInst_sweep_forAll (s := s) _ _ _ (getInst_of_tsv (tsv_xTsvRead ..) i)]

theorem exec_ageSweepVisit_of_off (h : agelimOf s i = 0) (rd : MResp) : exec (.ageSweepVisit i rd) s = .next s :=
  if_neg (by simp [h])

theorem exec_ageSweepVisit (hm : tsvMay s = true) (hr : instRuns (getInst s i) = true) (ha : agelimOf s i ≠ 0)
    (rd : MResp) : exec (.ageSweepVisit i rd) s = .next (sweepVisit rd i s) :=
  if_pos (by simp [hm, hr, ha])

end

/-- Settles O36. First part: the response to a stash write, and what it does to the table. Second part: the tick, and a
visit of the sweep. -/
theorem tableUpkeep : Obligations.TableUpkeep := by
  refine ⟨fun s i resp q key e h0 ht hm => ⟨fun hq hk => ?_, fun r rest hr => ?_⟩,
    fun s i => ⟨fun hl ht he h => ?_, fun hl h => exec_ageTick_of_early h, fun hmay hruns => ⟨fun rd ha => ?_,
      fun rd ha hb => ?_, fun p rest ha hps hb => ?_, fun p y => ⟨ageOut_of_young, fun hv ho hp => ?_⟩⟩⟩⟩
  · have hq' : stashOf (xLm q.port q.dl 0 s) i = some q := (stashOf_of_lmPart (lmPart_xLm ..)).trans hq
    rw [exec_relocationStashWriteDone hq h0 ht hm, crossing, stashDone_eq hq' hk]
    refine ⟨fun hs => congrArg _ (if_pos hs), fun hs => ?_⟩
    rw [if_neg (by simp [answerStands, hs])]
    exact ⟨fun hok => by rw [if_pos (by simp [hok])], fun hok => by rw [if_neg (by simp [hok])]⟩
  · refine ⟨fun hv hmir => ?_, fun hv hmir hg => ?_, fun hv => relocate_of_denied hr hv, fun hst => st_stashFails hst ..⟩
    all_goals obtain ⟨w, hw, he, ht⟩ := relocate_of_passes hr hv
    · rw [if_neg (by simp [hmir])] at ht
      have hd := durable_relocate i key e s
      rw [ht] at hd ⊢
      rw [getInst_relocAnswer, hw, epochOf_relocated, epochOf_relocated_not]
      refine ⟨?_, fun k hk => ?_, rfl, relocating_relocated .., rfl, rfl, fun g hg hst hp => ?_, hd⟩
      · rw [wayAt_withEntry, if_pos rfl]
      · rw [wayAt_withEntry, if_neg hk]
      · exact answer_relocAnswer hg (by rwa [hw, st_relocated]) (by rwa [getEng_of_engs he])
    · rw [if_pos hmir, relocAnswer_none hg] at ht
      refine ⟨w, ht, ?_, ?_⟩
      · rw [hw, epochOf_relocated, wayAt_withEntry, if_pos rfl]
      · rw [hw, relocs_relocated]
  · rw [exec_ageTick_of_due hl ht he h]
    refine ⟨_, rfl, ?_, ?_, fun j hj => ?_, durable_modInst ..⟩
    · rw [getInst_modInst, if_pos rfl]
    · rw [getInst_modInst, if_pos rfl]
    · rw [getInst_modInst, if_neg hj]
  · exact exec_ageSweepVisit_of_off ha rd
  · rw [exec_ageSweepVisit hmay hruns ha, sweepVisit_of_busy hb]
  · refine ⟨fun hv => ?_, fun rd hv hrd => ?_, fun rd hv => ?_⟩
    all_goals
      rw [exec_ageSweepVisit hmay hruns ha, sweepVisit_eq hps hb]
    · rw [if_neg (by simp [hv]), if_neg (by decide)]
    · rw [if_neg (by simp [hv]), if_pos (by simpa using hrd)]
    · rw [if_pos (by simp [hv])]
  · obtain ⟨hent, haged⟩ := ageOut_of_old hruns hv ho hp
    exact ⟨hent, haged, durable_ageOut ..⟩

end Sys2Proof.Machine

namespace Sys2Proof.Machine

/-! ### What the arbiters change of the block -/

/-- Nothing but the crossbar, and the idleness of islands, has changed. -/
def ArbMoves (s t : State) : Prop := ∃ x isl, t = { s with xbar := x, island := isl }

section
variable {s t u : State}

theorem ArbMoves.refl (s : State) : ArbMoves s s := ⟨_, _, rfl⟩

theorem ArbMoves.trans (h : ArbMoves s t) (k : ArbMoves t u) : ArbMoves s u := by
  obtain ⟨_, _, rfl⟩ := h
  obtain ⟨_, _, rfl⟩ := k
  exact ⟨_, _, rfl⟩

theorem ArbMoves.getPort (h : ArbMoves s t) (p : Nat) : getPort t p = getPort s p := by obtain ⟨_, _, rfl⟩ := h; rfl
theorem ArbMoves.getClu (h : ArbMoves s t) (k : Nat) : getClu t k = getClu s k := by obtain ⟨_, _, rfl⟩ := h; rfl
theorem ArbMoves.dsp (h : ArbMoves s t) : t.dsp = s.dsp := by obtain ⟨_, _, rfl⟩ := h; rfl
theorem ArbMoves.eng (h : ArbMoves s t) : t.eng = s.eng := by obtain ⟨_, _, rfl⟩ := h; rfl
theorem ArbMoves.time (h : ArbMoves s t) : t.time = s.time := by obtain ⟨_, _, rfl⟩ := h; rfl
theorem ArbMoves.durable (h : ArbMoves s t) : durable t = durable s := by obtain ⟨_, _, rfl⟩ := h; rfl

end

theorem arbMoves_modXbar (f : Xbar → Xbar) (s : State) : ArbMoves s (modXbar f s) := ⟨_, _, rfl⟩

theorem arbMoves_modReq (p : XReq → Bool) (f : XReq → XReq) (s : State) : ArbMoves s (modReq p f s) := ⟨_, _, rfl⟩

theorem arbMoves_wakeIsl (i : Nat) (s : State) : ArbMoves s (wakeIsl i s) := ⟨_, _, rfl⟩

theorem arbMoves_slotCount (s : State) : ArbMoves s (slotCount s) := ⟨_, _, rfl⟩

theorem arbMoves_setLane (i : Nat) (l : Lane) (s : State) : ArbMoves s (setLane i l s) := ⟨_, _, rfl⟩

theorem arbMoves_forAll {α : Type} (l : List α) {f : α → State → State} (h : ∀ x s, ArbMoves s (f x s)) (s : State) :
    ArbMoves s (forAll l f s) :=
  forAll_ind (ArbMoves s) l f (fun x t ht => ht.trans (h x t)) s (.refl s)

theorem arbMoves_dropLanes (p : XReq → Bool) (s : State) : ArbMoves s (dropLanes p s) := by
  obtain ⟨_, h⟩ := dropLanes_spec p s
  rw [h]
  exact ⟨_, _, rfl⟩

theorem arbMoves_xwaits (r : XReq) (s : State) : ArbMoves s (xwaits r s) := by
  unfold xwaits
  split
  · exact .refl s
  · exact arbMoves_modXbar ..

theorem arbMoves_unparkOver (idx : Nat) (s : State) : ArbMoves s (unparkOver idx s) := by
  unfold unparkOver
  dsimp only
  split
  · split
    · exact arbMoves_setLane ..
    · exact .refl s
  · exact .refl s

theorem arbMoves_giveLane (i : Nat) (q : XReq) (s : State) : ArbMoves s (giveLane i q s) :=
  ((arbMoves_modXbar ..).trans (arbMoves_setLane ..)).trans (arbMoves_unparkOver ..)

theorem arbMoves_grantOne {c d : List XReq} {s t : State} (h : grantOne c s = some (d, t)) : ArbMoves s t := by
  unfold grantOne at h
  dsimp only at h
  split at h
  · cases h
  split at h
  · cases h
    exact arbMoves_giveLane ..
  split at h
  · cases h
    exact arbMoves_giveLane ..
  split at h
  · cases h
  · cases h
    exact ((arbMoves_giveLane ..).trans (arbMoves_modXbar ..)).trans (arbMoves_xwaits ..)

theorem arbMoves_grantN (n : Nat) (c : List XReq) (s : State) : ArbMoves s (grantN n c s) :=
  grantN_ind (ArbMoves s) (fun _ _ _ _ h ht => ht.trans (arbMoves_grantOne h)) n c s (.refl s)

theorem arbMoves_frozenBreaks (s : State) : ArbMoves s (frozenBreaks s) := by
  refine arbMoves_forAll _ (fun i t => ?_) s
  split
  · split
    · exact (arbMoves_setLane ..).trans (arbMoves_xwaits ..)
    · exact .refl t
  · exact .refl t

theorem arbMoves_queueFresh (s : State) : ArbMoves s (queueFresh s) :=
  (arbMoves_modXbar ..).trans (arbMoves_forAll _ (fun _ _ => arbMoves_modXbar ..) _)

theorem arbMoves_xask (r : XReq) (s : State) : ArbMoves s (xask r s) := by
  unfold xask
  dsimp only
  split
  · exact arbMoves_setLane ..
  · exact arbMoves_modXbar ..

theorem arbMoves_clusterPresent (k : Nat) (s : State) : ArbMoves s (clusterPresent k s) := by
  unfold clusterPresent
  have hwoken : ArbMoves s (wakeIsl islXbr (slotCount s)) := (arbMoves_slotCount s).trans (arbMoves_wakeIsl ..)
  split
  · exact .refl s
  · dsimp only
    split
    · exact hwoken.trans (arbMoves_modReq ..)
    · exact hwoken.trans (arbMoves_xask ..)

theorem arbMoves_clusterSettle (k : Nat) (s : State) : ArbMoves s (clusterSettle k s) := by
  unfold clusterSettle
  dsimp only
  split
  · exact (arbMoves_slotCount s).trans (arbMoves_modXbar ..)
  · exact arbMoves_clusterPresent ..

/-- A requester's further transfers stand in its own request, or in the ports of its cluster. -/
theorem ArbMoves.reqEmpty {s t : State} (h : ArbMoves s t) (r : XReq) : reqEmpty t r = reqEmpty s r := by
  obtain ⟨_, _, rfl⟩ := h
  rfl

theorem ArbMoves.nLanes {s t : State} (h : ArbMoves s t) : nLanes t = nLanes s := by
  obtain ⟨_, _, rfl⟩ := h
  rfl

/-! ### A beat passes (R216, R219) -/

/-- The state in which a decision of the crossbar looks at its requests. -/
def beatPassed (s : State) : State := dropEmpty (passBeats (slotCount s))

theorem laneAt_passBeats (s : State) (i : Nat) : laneAt (passBeats s) i = passBeat (laneAt s i) :=
  tget_tmap Lane.free s.xbar.lanes i (fun _ => passBeat) (fun _ => rfl)

theorem lanesOk_passBeats {s : State} (h : LanesOk s) : LanesOk (passBeats s) := by
  intro i
  refine Nat.le_trans (Nat.le_of_eq ?_) (h i)
  simp only [lanesHeldBy, passBeats, modXbar, List.filter_map, List.length_map]
  congr 2
  funext ⟨j, l⟩
  cases l with
  | held r b =>
    simp only [Function.comp, passBeat]
    repeat' split
    all_goals rfl
  | _ => rfl

section
variable (s : State)

theorem arbMoves_beat : ArbMoves s (passBeats (slotCount s)) := (arbMoves_slotCount s).trans (arbMoves_modXbar ..)

theorem arbMoves_beatPassed : ArbMoves s (beatPassed s) := (arbMoves_beat s).trans (arbMoves_dropLanes ..)

theorem beatPassed_spec : ∃ l, beatPassed s =
    { passBeats (slotCount s) with xbar := { (passBeats (slotCount s)).xbar with lanes := l } } := dropLanes_spec ..

theorem pend_beatPassed : (beatPassed s).xbar.pend = s.xbar.pend := by
  obtain ⟨_, h⟩ := beatPassed_spec s
  rw [h]
  rfl

theorem freeze_beatPassed : (beatPassed s).xbar.freeze = s.xbar.freeze := by
  obtain ⟨_, h⟩ := beatPassed_spec s
  rw [h]
  rfl

theorem preempts_beatPassed : (beatPassed s).xbar.preempts = s.xbar.preempts := by
  obtain ⟨_, h⟩ := beatPassed_spec s
  rw [h]
  rfl

variable {s} {i : Nat} (hi : i < nLanes s) {r : XReq} {b : Bool} (hr : passBeat (laneAt s i) = .held r b)
include hi hr

theorem laneAt_beatPassed_of_rest (he : reqEmpty s r = false) : laneAt (beatPassed s) i = .held r b := by
  have hl : laneAt (passBeats (slotCount s)) i = .held r b := (laneAt_passBeats ..).trans hr
  have hn := laneAt_dropLanes (reqEmpty (passBeats (slotCount s))) (passBeats (slotCount s)) i hi
  refine (hn.2 (fun r' b' h => ?_)).trans hl
  rw [hl] at h
  cases h
  rwa [(arbMoves_beat s).reqEmpty]

theorem laneAt_beatPassed_of_empty (he : reqEmpty s r = true) : laneAt (beatPassed s) i = .free ∨
    (s.xbar.freeze = false ∧ laneAt (beatPassed s) i = .parked r.idx r.ord) := by
  have hl : laneAt (passBeats (slotCount s)) i = .held r b := (laneAt_passBeats ..).trans hr
  refine (laneAt_dropLanes (reqEmpty (passBeats (slotCount s))) (passBeats (slotCount s)) i hi).1 r b hl ?_
  rwa [(arbMoves_beat s).reqEmpty]

end

/-! ### The rest of a decision (R223, R225, R235) -/

theorem laneAt_queueFresh (s : State) (i : Nat) : laneAt (queueFresh s) i = laneAt s i := by
  rw [laneAt, lanes_queueFresh, laneAt]

/-- A lane between break points again. -/
def clearBreak : Lane → Lane
  | .held r _ => .held r false
  | l => l

theorem laneAt_clearBreaks (s : State) (i : Nat) : laneAt (clearBreaks s) i = clearBreak (laneAt s i) := by
  have hmap : (clearBreaks s).xbar.lanes = tmap (fun _ => clearBreak) s.xbar.lanes := by
    refine List.map_congr_left (fun l _ => ?_)
    obtain ⟨j, l⟩ := l
    cases l <;> rfl
  rw [laneAt, hmap]
  exact tget_tmap Lane.free s.xbar.lanes i (fun _ => clearBreak) (fun _ => rfl)

theorem preempts_xpark (r : XReq) (s : State) : (xpark r s).xbar.preempts = s.xbar.preempts := by
  rw [xpark, modXbar_xbar]
  split <;> rfl

theorem preempts_queueFresh (s : State) : (queueFresh s).xbar.preempts = s.xbar.preempts :=
  forAll_ind (fun t => t.xbar.preempts = s.xbar.preempts) s.xbar.fresh xpark
    (fun r t ht => (preempts_xpark r t).trans ht) _ rfl

theorem preempts_xwaits (r : XReq) (s : State) : (xwaits r s).xbar.preempts = s.xbar.preempts := by
  unfold xwaits
  split
  · rfl
  · exact preempts_xpark ..

theorem preempts_giveLane (i : Nat) (q : XReq) (s : State) : (giveLane i q s).xbar.preempts = s.xbar.preempts := by
  unfold giveLane unparkOver
  dsimp only
  split
  · split <;> rfl
  · rfl

/-! ### One grant (R223) -/

theorem firstLane_eq_some {s : State} {p : Lane → Bool} {i : Nat} (hi : i < nLanes s) (hp : p (laneAt s i) = true)
    (hn : ∀ n < i, p (laneAt s n) = false) : firstLane s p = some i :=
  List.find?_range_eq_some.2 ⟨hp, List.mem_range.2 hi, fun n h => by rw [hn n h]; rfl⟩

theorem firstLane_eq_none {s : State} {p : Lane → Bool} (h : ∀ n < nLanes s, p (laneAt s n) = false) :
    firstLane s p = none :=
  List.find?_range_eq_none.2 (fun n hn => by rw [h n hn]; rfl)

theorem firstLane_free_eq_none {s : State} (h : ∀ n < nLanes s, laneAt s n ≠ .free) :
    firstLane s (fun l => l == .free) = none :=
  firstLane_eq_none (fun n hn => beq_eq_false_iff_ne.2 (h n hn))

/-- A lane that is parked on another requester than the one of a request. -/
def parkedElse (q : XReq) : Lane → Bool
  | .parked i _ => i != q.idx
  | _ => false

theorem parkedElse_eq_true {q : XReq} {x y : Nat} (h : x ≠ q.idx) : parkedElse q (.parked x y) = true := by
  simpa [parkedElse] using h

theorem parkedElse_eq_false {q : XReq} {l : Lane} (h : ∀ x y, l = .parked x y → x = q.idx) : parkedElse q l = false := by
  cases l with
  | parked x y => simpa [parkedElse] using h x y rfl
  | _ => rfl

/-- The candidates that are left behind a grant. -/
def leftBehind (s : State) (q : XReq) : List XReq := (candidates s).filter (fun r => !sameReq r q)

theorem filter_candidates (s : State) :
    (candidates s).filter (fun r => decide (lanesHeldBy s r.idx < laneLimit r.idx)) = candidates s := by
  simp [candidates, List.filter_filter]

/-- A holder loses its lane to a request and waits (R223). -/
def displaced (i : Nat) (r q : XReq) (s : State) : State :=
  xwaits { r with waited := 0, starved := false }
    (modXbar (fun x => { x with preempts := inc32 x.preempts }) (giveLane i q s))

theorem preempts_displaced (i : Nat) (r q : XReq) (s : State) :
    (displaced i r q s).xbar.preempts = inc32 s.xbar.preempts := by
  rw [displaced, preempts_xwaits, modXbar_xbar, preempts_giveLane]

theorem laneAt_displaced (i : Nat) (r q : XReq) (s : State) : laneAt (displaced i r q s) i = granted q := by
  rw [laneAt, displaced, lanes_xwaits, modXbar_xbar]
  exact (laneAt_giveLane i q s).1

section
variable {s : State} {q : XReq} (hq : xbest s (candidates s) = some q)
include hq

theorem grantOne_candidates : grantOne (candidates s) s =
    match firstLane s (fun l => l == .free) with
    | some i => some (leftBehind s q, giveLane i q s)
    | none => match firstLane s (parkedElse q) with
      | some i => some (leftBehind s q, giveLane i q s)
      | none => match weakestLane s q with
        | none => none
        | some (i, r) => some (leftBehind s q, displaced i r q s) := by
  simp only [grantOne, filter_candidates, hq]
  rfl

theorem grantOne_of_free {i : Nat} (h : firstLane s (fun l => l == .free) = some i) :
    grantOne (candidates s) s = some (leftBehind s q, giveLane i q s) := by
  rw [grantOne_candidates hq, h]

variable (hf : ∀ n < nLanes s, laneAt s n ≠ .free)
include hf

theorem grantOne_of_parked {i : Nat} (h : firstLane s (parkedElse q) = some i) :
    grantOne (candidates s) s = some (leftBehind s q, giveLane i q s) := by
  rw [grantOne_candidates hq, firstLane_free_eq_none hf, h]

variable (hp : firstLane s (parkedElse q) = none)
include hp

theorem grantOne_of_weakest {i : Nat} {r : XReq} (h : weakestLane s q = some (i, r)) :
    grantOne (candidates s) s = some (leftBehind s q, displaced i r q s) := by
  rw [grantOne_candidates hq, firstLane_free_eq_none hf, hp, h]

theorem grantOne_of_no_lane (h : weakestLane s q = none) : grantOne (candidates s) s = none := by
  rw [grantOne_candidates hq, firstLane_free_eq_none hf, hp, h]

end

theorem grantN_nil (n : Nat) (s : State) : grantN n [] s = s := by
  cases n <;> rfl

theorem leftBehind_of_alone {s : State} {q : XReq} (h : candidates s = [q]) : leftBehind s q = [] := by
  simp [leftBehind, h, sameReq]

/-! ### The decision -/

/-- The grants of a decision have been made. -/
def grantsMade (u : State) : State := queueFresh (clearBreaks (grantN 4 (candidates u) u))

theorem arbMoves_grantsMade (u : State) : ArbMoves u (grantsMade u) :=
  ((arbMoves_grantN ..).trans (arbMoves_modXbar ..)).trans (arbMoves_queueFresh _)

theorem preempts_grantsMade (u : State) :
    (grantsMade u).xbar.preempts = (grantN 4 (candidates u) u).xbar.preempts := preempts_queueFresh _

theorem laneAt_grantsMade_of_held {u : State} {i : Nat} {r : XReq} (h : laneAt u i = .held r false) :
    laneAt (grantsMade u) i = .held r false := by
  rw [grantsMade, laneAt_queueFresh, laneAt_clearBreaks, laneAt_grantN 4 _ u i r h, clearBreak]

/-- What the first grant of a decision gives stands behind the decision. -/
theorem laneAt_grantsMade_of_first {u t : State} {d : List XReq} (h : grantOne (candidates u) u = some (d, t)) {i : Nat}
    {q : XReq} (hi : laneAt t i = granted q) : laneAt (grantsMade u) i = granted q := by
  rw [grantsMade, laneAt_queueFresh, laneAt_clearBreaks, grantN, h]
  exact congrArg clearBreak (laneAt_grantN 3 d t i _ hi)

theorem grantN_of_none {u : State} {c : List XReq} (h : grantOne c u = none) (n : Nat) : grantN n c u = u := by
  cases n with
  | zero => rfl
  | succ n => rw [grantN, h]

section
variable {u : State} {q : XReq} (hq : xbest u (candidates u) = some q)
include hq

theorem laneAt_grantsMade_of_free {i : Nat} (hi : firstLane u (fun l => l == .free) = some i) :
    laneAt (grantsMade u) i = granted q :=
  laneAt_grantsMade_of_first (grantOne_of_free hq hi) (laneAt_giveLane ..).1

theorem laneAt_grantsMade_of_parked (hf : ∀ n < nLanes u, laneAt u n ≠ .free) {i x y : Nat} (hi : i < nLanes u)
    (hp : laneAt u i = .parked x y) (hx : x ≠ q.idx) (hmin : ∀ n < i, ∀ x y, laneAt u n = .parked x y → x = q.idx) :
    laneAt (grantsMade u) i = granted q := by
  refine laneAt_grantsMade_of_first (grantOne_of_parked hq hf (firstLane_eq_some hi ?_ fun n hn => ?_))
    (laneAt_giveLane ..).1
  · rw [hp, parkedElse_eq_true hx]
  · exact parkedElse_eq_false (hmin n hn)

variable (hf : ∀ n < nLanes u, laneAt u n ≠ .free ∧ ∀ x y, laneAt u n = .parked x y → x = q.idx)
include hf

theorem grantOne_of_displaced {i : Nat} {r : XReq} (hw : weakestLane u q = some (i, r)) :
    grantOne (candidates u) u = some (leftBehind u q, displaced i r q u) :=
  grantOne_of_weakest hq (fun n hn => (hf n hn).1)
    (firstLane_eq_none (fun n hn => parkedElse_eq_false (hf n hn).2)) hw

theorem preempts_grantsMade_of_alone {i : Nat} {r : XReq} (hw : weakestLane u q = some (i, r)) (hc : candidates u = [q]) :
    (grantsMade u).xbar.preempts = inc32 u.xbar.preempts := by
  rw [preempts_grantsMade, grantN, grantOne_of_displaced hq hf hw, leftBehind_of_alone hc]
  dsimp only
  rw [grantN_nil, preempts_displaced]

theorem grantsMade_of_no_lane (hw : weakestLane u q = none) : (grantsMade u).xbar.lanes = (clearBreaks u).xbar.lanes ∧
    (grantsMade u).xbar.preempts = u.xbar.preempts := by
  have hnone : grantN 4 (candidates u) u = u := grantN_of_none (grantOne_of_no_lane hq (fun n hn => (hf n hn).1)
    (firstLane_eq_none (fun n hn => parkedElse_eq_false (hf n hn).2)) hw) 4
  rw [preempts_grantsMade, grantsMade, lanes_queueFresh, hnone]
  exact ⟨rfl, rfl⟩

end

/-- The block behind a decision of the crossbar. -/
def decided (s : State) : State :=
  if s.xbar.freeze then queueFresh (frozenBreaks (beatPassed s)) else grantsMade (beatPassed s)

theorem exec_xbarDecision {s : State} (hl : live s = true) (ht : tested s islXbr = false) :
    exec .xbarDecision s = .next (decided s) := by
  refine (if_neg (by simp [hl, ht])).trans ?_
  rw [decided, ← freeze_beatPassed s, apply_ite Host.Outcome.next]
  rfl

section
variable (s : State)

theorem arbMoves_decided : ArbMoves s (decided s) := by
  unfold decided
  split
  · exact ((arbMoves_beatPassed s).trans (arbMoves_frozenBreaks _)).trans (arbMoves_queueFresh _)
  · exact (arbMoves_beatPassed s).trans (arbMoves_grantsMade _)

theorem fresh_decided : (decided s).xbar.fresh = [] := by
  unfold decided
  split <;> exact fresh_queueFresh _

variable {s}

theorem lanesOk_decided (h : LanesOk s) : LanesOk (decided s) := by
  have hbeat : LanesOk (beatPassed s) :=
    lanesOk_dropLanes _ _ (lanesOk_passBeats (lanesOk_of_lanes (slotCount_keeps s).2.1 h))
  unfold decided
  split
  · exact lanesOk_of_lanes (lanes_queueFresh _) (lanesOk_frozenBreaks _ hbeat)
  · exact lanesOk_of_lanes (lanes_queueFresh _)
      (lanesOk_clearBreaks _ (grantN_ind LanesOk (fun c d s t => lanesOk_grantOne c d s t) 4 _ _ hbeat))

theorem pend_decided (h : s.xbar.pend.length ≤ 256) : (decided s).xbar.pend.length ≤ 256 := by
  rw [← pend_beatPassed] at h
  unfold decided
  split
  · exact pend_queueFresh _ (pend_frozenBreaks _ h)
  · exact pend_queueFresh _
      (grantN_ind (fun t => t.xbar.pend.length ≤ 256) (fun c d s t => pend_grantOne c d s t) 4 _ _ h)

theorem laneAt_decided_of_frozen (hf : s.xbar.freeze = true) (i : Nat) : laneAt (decided s) i =
    if i < nLanes s ∧ atBreak (laneAt (beatPassed s) i) = true then .free else laneAt (beatPassed s) i := by
  rw [decided, if_pos hf, laneAt_queueFresh]
  refine (laneAt_frozenBreaks (beatPassed s) (List.range (nLanes (beatPassed s))) List.nodup_range _ rfl i).trans ?_
  simp only [List.mem_range, (arbMoves_beatPassed s).nLanes]

variable {i : Nat} (hi : i < nLanes s) {r : XReq}
include hi

/-- A holder between break points that has more to send keeps its lane, frozen or not (R223). -/
theorem laneAt_decided_of_held (hr : passBeat (laneAt s i) = .held r false) (he : reqEmpty s r = false) :
    laneAt (decided s) i = .held r false := by
  have hbeat := laneAt_beatPassed_of_rest hi hr he
  cases hf : s.xbar.freeze
  · rw [decided, if_neg (by simp [hf])]
    exact laneAt_grantsMade_of_held hbeat
  · rw [laneAt_decided_of_frozen hf, hbeat]
    exact if_neg (fun h => Bool.false_ne_true h.2)

/-- While frozen, a holder at a break point or with nothing left loses its lane (R235). -/
theorem laneAt_decided_of_broken (hf : s.xbar.freeze = true) {b : Bool} (hr : passBeat (laneAt s i) = .held r b)
    (h : b = true ∨ reqEmpty s r = true) : laneAt (decided s) i = .free := by
  rw [laneAt_decided_of_frozen hf]
  cases he : reqEmpty s r
  · rw [laneAt_beatPassed_of_rest hi hr he]
    exact if_pos ⟨hi, h.resolve_right (by simp [he])⟩
  · rw [(laneAt_beatPassed_of_empty hi hr he).resolve_right (by simp [hf]), ite_self]

end

/-! ### Ranks (R222, R231) -/

section
variable {s : State} {a b : XReq}

theorem xahead_of_reserved (h : isReserved s a ≠ isReserved s b) : xahead s a b = isReserved s a := by
  simp [xahead, h]

section
variable (hr : isReserved s a = isReserved s b)
include hr

theorem xahead_of_overdue (h : a.overdue ≠ b.overdue) : xahead s a b = a.overdue := by
  simp [xahead, hr, h]

theorem xahead_of_deadline (ha : a.overdue = false) (hb : b.overdue = false) (h : dlAhead a.deadline b.deadline = true) :
    xahead s a b = true := by
  simp [xahead, hr, ha, hb, h]

theorem xahead_of_later_deadline (ha : a.overdue = false) (hb : b.overdue = false)
    (h : dlAhead a.deadline b.deadline = false) (h' : dlAhead b.deadline a.deadline = true) : xahead s a b = false := by
  simp [xahead, hr, ha, hb, h, h']

section
variable (ho : a.overdue = b.overdue)
  (h : a.overdue = true ∨ (dlAhead a.deadline b.deadline = false ∧ dlAhead b.deadline a.deadline = false))
include ho h

/-- Where neither deadline counts, age ranks, then the index, then the requester's own order. -/
theorem xahead_of_tie : xahead s a b = if a.stamp != b.stamp then decide (a.stamp.toNat < b.stamp.toNat)
    else if a.idx != b.idx then decide (a.idx < b.idx) else decide (a.ord < b.ord) := by
  rw [xahead, if_neg (by simp [hr]), if_neg (by simp [ho])]
  rcases h with h | ⟨h, h'⟩
  · rw [if_neg (by simp [h]), if_neg (by simp [h])]
  · rw [if_neg (by simp [h]), if_neg (by simp [h'])]

theorem xahead_of_stamp (hs : a.stamp ≠ b.stamp) : xahead s a b = decide (a.stamp.toNat < b.stamp.toNat) := by
  rw [xahead_of_tie hr ho h, if_pos (by simpa using hs)]

theorem xahead_of_index (hs : a.stamp = b.stamp) (hi : a.idx ≠ b.idx) : xahead s a b = decide (a.idx < b.idx) := by
  rw [xahead_of_tie hr ho h, if_neg (by simp [hs]), if_pos (by simpa using hi)]

theorem xahead_of_order (hs : a.stamp = b.stamp) (hi : a.idx = b.idx) : xahead s a b = decide (a.ord < b.ord) := by
  rw [xahead_of_tie hr ho h, if_neg (by simp [hs]), if_neg (by simp [hi])]

end
end

theorem isReserved_iff : isReserved s a = true ↔ (slotEntry s).getLsbD 7 = true ∧
    reqPresent s (fld (slotEntry s) 0 7) = true ∧ fld (slotEntry s) 0 7 = a.idx := by
  rw [isReserved, beq_iff_eq, reservedNow, ← and_assoc, ← Bool.and_eq_true]
  split
  · next h => exact ⟨fun ha => ⟨h, Option.some.inj ha⟩, fun ha => congrArg some ha.2⟩
  · next h => exact ⟨fun ha => absurd ha.symm (Option.some_ne_none _), fun ha => absurd ha.1 h⟩

end

/-! ### The lane a displaced holder loses (R223) -/

/-- The lanes at a break point whose holder does not rank ahead of a request. -/
def losable (s : State) (q : XReq) : List (Nat × XReq) :=
  (List.range (nLanes s)).filterMap (fun i => match laneAt s i with
    | .held r b => if atBreak (.held r b) && !xahead s r q then some (i, r) else none
    | _ => none)

/-- The one of two lanes whose holder ranks behind the other's. -/
def weaker (s : State) : Option (Nat × XReq) → Nat × XReq → Option (Nat × XReq)
  | none, x => some x
  | some y, x => if xahead s x.2 y.2 then some y else some x

theorem weakestLane_eq (s : State) (q : XReq) : weakestLane s q = (losable s q).foldl (weaker s) none := by
  unfold weakestLane losable
  congr 1
  funext best x
  cases best <;> rfl

theorem mem_losable {s : State} {q : XReq} {i : Nat} {r : XReq} :
    (i, r) ∈ losable s q ↔ i < nLanes s ∧ laneAt s i = .held r true ∧ xahead s r q = false := by
  rw [losable, List.mem_filterMap]
  refine ⟨fun ⟨j, hj, h⟩ => ?_, fun ⟨hi, hl, hx⟩ => ⟨i, List.mem_range.2 hi, ?_⟩⟩
  · split at h
    · next r' b hl =>
      split at h
      · next hb =>
        cases h
        simp only [atBreak, Bool.and_eq_true, Bool.not_eq_true'] at hb
        exact ⟨List.mem_range.1 hj, by rw [hl, hb.1], hb.2⟩
      · cases h
    · cases h
  · simp [hl, hx, atBreak]

/-- One that ranks behind every other is what is left of them. -/
theorem foldl_weaker {s : State} {m : Nat × XReq} (l : List (Nat × XReq)) (best : Option (Nat × XReq))
    (hm : m ∈ l ∨ best = some m)
    (h : ∀ x, x ∈ l ∨ best = some x → x = m ∨ (xahead s x.2 m.2 = true ∧ xahead s m.2 x.2 = false)) :
    l.foldl (weaker s) best = some m := by
  induction l generalizing best with
  | nil => exact hm.resolve_left List.not_mem_nil
  | cons x l ih =>
    have hx := h x (.inl List.mem_cons_self)
    refine ih (weaker s best x) ?_ (fun z hz => ?_)
    · rcases hm with hm | rfl
      · rcases List.mem_cons.1 hm with rfl | hm
        · right
          cases best with
          | none => rfl
          | some y =>
            rcases h y (.inr rfl) with rfl | ⟨-, hy⟩
            · exact ite_self _
            · simp [weaker, hy]
        · exact .inl hm
      · right
        rcases hx with rfl | ⟨hx, -⟩
        · exact ite_self _
        · simp [weaker, hx]
    · rcases hz with hz | hz
      · exact h z (.inl (List.mem_cons_of_mem _ hz))
      · cases best with
        | none =>
          cases hz
          exact hx
        | some y =>
          unfold weaker at hz
          dsimp only at hz
          split at hz <;> cases hz
          · exact h z (.inr rfl)
          · exact hx

theorem weakestLane_of_last {s : State} {q : XReq} {i : Nat} {r : XReq} (hi : i < nLanes s)
    (hl : laneAt s i = .held r true) (hx : xahead s r q = false)
    (h : ∀ j r', j < nLanes s → laneAt s j = .held r' true → xahead s r' q = false →
      j = i ∨ (xahead s r' r = true ∧ xahead s r r' = false)) : weakestLane s q = some (i, r) := by
  rw [weakestLane_eq]
  refine foldl_weaker _ _ (.inl (mem_losable.2 ⟨hi, hl, hx⟩)) (fun x hm => ?_)
  obtain ⟨j, r'⟩ := x
  obtain ⟨hj, hl', hx'⟩ := mem_losable.1 (hm.resolve_right (by simp))
  rcases h j r' hj hl' hx' with rfl | h
  · rw [hl] at hl'
    cases hl'
    exact .inl rfl
  · exact .inr h

end Sys2Proof.Machine

namespace Sys2Proof.Machine

/-! ### What the ports of a cluster ask for (R227, R228) -/

section
variable {s t : State} {k : Nat}

theorem clusterReqs_congr {but : Option Nat}
    (h : ∀ i < 16, but ≠ some i → portReq t (16 * k + i) = portReq s (16 * k + i)) :
    clusterReqs t k but = clusterReqs s k but := by
  refine List.filterMap_congr (fun i hi => ?_)
  split
  · rfl
  · next hb => exact h i (List.mem_range.1 hi) (fun hh => hb (by simp [hh]))

/-- The deadline of a port's request is that of its oldest transfer. -/
theorem deadlines_clusterReqs (s : State) (k : Nat) : (clusterReqs s k none).map (·.deadline) =
    (List.range 16).filterMap (fun i => (getPort s (16 * k + i)).inq.head?.map (·.deadline)) := by
  rw [clusterReqs, List.map_filterMap]
  refine List.filterMap_congr (fun i _ => ?_)
  rw [if_neg (by simp), portReq, Option.map_map]
  rfl

theorem deadlines_of_inq (h : ∀ p, (getPort t p).inq = (getPort s p).inq) :
    (clusterReqs t k none).map (·.deadline) = (clusterReqs s k none).map (·.deadline) := by
  simp only [deadlines_clusterReqs, h]

/-- A port whose transfers have all gone asks for nothing. -/
theorem clusterReqs_of_silent {own : Nat} (h : (getPort t (16 * k + own)).inq = [])
    (hk : ∀ p, p ≠ 16 * k + own → getPort t p = getPort s p) :
    clusterReqs t k none = clusterReqs s k (some own) := by
  refine List.filterMap_congr (fun i _ => ?_)
  rw [if_neg (by simp)]
  split
  · next hi =>
    rw [← Option.some.inj (beq_iff_eq.1 hi), portReq, h]
    rfl
  · next hi =>
    have hne : 16 * k + i ≠ 16 * k + own := fun hh => hi (by simp; omega)
    rw [portReq, hk _ hne, portReq]

end

theorem earliest_of_ne_nil {l : List (BitVec 20)} (h : l ≠ []) : ∃ d, earliest l = some d := by
  cases l with
  | nil => exact absurd rfl h
  | cons a l =>
    rw [earliest]
    split <;> exact ⟨_, rfl⟩

/-! ### A cluster's request at the crossbar (R226, R228) -/

theorem mem_of_tget_ne {α : Type} {d : α} {t : Tbl α} {k : Nat} (h : tget d t k ≠ d) : (k, tget d t k) ∈ t := by
  induction t with
  | nil => exact absurd rfl h
  | cons x t ih =>
    obtain ⟨j, v⟩ := x
    unfold tget at h ⊢
    split
    · next hj => exact hj ▸ List.mem_cons_self
    · next hj =>
      rw [if_neg hj] at h
      exact List.mem_cons_of_mem _ (ih h)

theorem mem_allReqs_of_held {s : State} {i : Nat} {r : XReq} {b : Bool} (h : laneAt s i = .held r b) : r ∈ allReqs s := by
  rw [laneAt] at h
  have hm := mem_of_tget_ne (d := Lane.free) (t := s.xbar.lanes) (k := i) (by rw [h]; exact Lane.noConfusion)
  rw [h] at hm
  exact List.mem_append_right _ (List.mem_filterMap.2 ⟨_, hm, rfl⟩)

/-- A lane that is parked on the requester of a request. -/
def parkedOn (r : XReq) : Lane → Bool
  | .parked i _ => i == r.idx
  | _ => false

theorem xask_eq (r : XReq) (s : State) : xask r s =
    if !s.xbar.freeze && !tested s islXbr && (candidates s).isEmpty && (firstLane s (parkedOn r)).isSome then
      setLane ((firstLane s (parkedOn r)).getD 0) (granted r) s
    else modXbar (fun x => { x with fresh := x.fresh ++ [r] }) s := rfl

theorem laneAt_setLane (i : Nat) (l : Lane) (s : State) (j : Nat) :
    laneAt (setLane i l s) j = if j = i then l else laneAt s j :=
  tget_tset ..

/-- A request that is presented stands at the crossbar, with a lane or without one. -/
theorem mem_allReqs_xask (r : XReq) (s : State) :
    ∃ x ∈ allReqs (xask r s), x.idx = r.idx ∧ x.deadline = r.deadline := by
  rw [xask_eq]
  split
  · exact ⟨_, mem_allReqs_of_held ((laneAt_setLane ..).trans (if_pos rfl)), rfl, rfl⟩
  · exact ⟨r, by simp [allReqs, waitingReqs], rfl, rfl⟩

theorem sameReq_comm (a b : XReq) : sameReq a b = sameReq b a := congrArg₂ (· && ·) BEq.comm BEq.comm

theorem mem_allReqs_modReq {p : XReq → Bool} {f : XReq → XReq} {s : State} {x : XReq} (hx : x ∈ allReqs s)
    (hp : p x = true) : f x ∈ allReqs (modReq p f s) := by
  have hg : (if p x then f x else x) = f x := if_pos hp
  simp only [allReqs, waitingReqs, List.mem_append, List.mem_map, List.mem_filterMap] at hx ⊢
  rcases hx with ((hx | hx) | ⟨y, hy, rfl⟩) | ⟨y, hy, hyx⟩
  · exact .inl (.inl (.inl (List.mem_map.2 ⟨x, hx, hg⟩)))
  · exact .inl (.inl (.inr (List.mem_map.2 ⟨x, hx, hg⟩)))
  · exact .inl (.inr ⟨_, List.mem_map.2 ⟨y, hy, rfl⟩, hg⟩)
  · refine .inr ⟨_, List.mem_map.2 ⟨y, hy, rfl⟩, ?_⟩
    obtain ⟨j, l⟩ := y
    cases l with
    | held r b =>
      cases hyx
      exact congrArg some hg
    | _ => cases hyx

section
variable {s : State} {k : Nat}

/-- The cluster's request carries the earliest deadline of its ports. -/
theorem mem_allReqs_clusterPresent {d : BitVec 20} (h : earliest ((clusterReqs s k none).map (·.deadline)) = some d) :
    ∃ r ∈ allReqs (clusterPresent k s), r.idx = k ∧ r.deadline = d := by
  simp only [clusterPresent, h]
  split
  · next hany =>
    obtain ⟨x, hx, hsame⟩ := List.any_eq_true.1 hany
    have hidx : x.idx = k := by
      simp only [sameReq, Bool.and_eq_true, beq_iff_eq] at hsame
      exact hsame.1
    exact ⟨_, mem_allReqs_modReq hx ((sameReq_comm ..).trans hsame), hidx, rfl⟩
  · exact mem_allReqs_xask ..

/-- So it does where the decision before has left the ports' transfers as they were. -/
theorem mem_allReqs_clusterSettle {t : State} (hne : clusterReqs s k none ≠ [])
    (hinq : ∀ p, (getPort t p).inq = (getPort s p).inq) : ∃ r ∈ allReqs (clusterSettle k t), r.idx = k ∧
      earliest ((clusterReqs s k none).map (·.deadline)) = some r.deadline := by
  rw [← deadlines_of_inq hinq]
  obtain ⟨d, hd⟩ := earliest_of_ne_nil (l := (clusterReqs t k none).map (·.deadline)) (by
    rw [deadlines_of_inq hinq]
    exact mt List.map_eq_nil_iff.1 hne)
  have hset : clusterSettle k t = clusterPresent k t := by
    refine if_neg (fun he => ?_)
    rw [List.isEmpty_iff.1 he] at hd
    cases hd
  obtain ⟨r, hr, hidx, hdl⟩ := mem_allReqs_clusterPresent hd
  exact ⟨r, by rwa [hset], hidx, by rw [hd, hdl]⟩

/-- A cluster whose ports have nothing withdraws its request. -/
theorem waitingReqs_clusterSettle (h : clusterReqs s k none = []) : ∀ r ∈ waitingReqs (clusterSettle k s), r.idx ≠ k := by
  unfold clusterSettle
  dsimp only
  rw [if_pos (by rw [h]; rfl)]
  intro r hr
  simp only [waitingReqs, modXbar_xbar, List.mem_append, List.mem_map, List.mem_filter, bne_iff_ne] at hr
  rcases hr with (⟨-, hr⟩ | ⟨-, hr⟩) | ⟨u, ⟨-, hr⟩, rfl⟩ <;> exact hr

end

/-! ### The uplink changes hands (R227) -/

/-- A cluster whose uplink has been given to a port. -/
def uplinkGiven (i : Nat) (c : Cluster) : Cluster := { c with owner := BitVec.ofNat 4 i, granted := true, parked := false }

theorem arbMoves_laneBreak (k : Nat) (s : State) : ArbMoves s (laneBreak k s) := arbMoves_modXbar ..

section
variable (k i : Nat) (s : State)

theorem arbMoves_ownerBreak : ArbMoves s (if (getClu s k).owner.toNat == i then s else laneBreak k s) := by
  split
  · exact .refl s
  · exact arbMoves_laneBreak ..

theorem getClu_clusterGrant : getClu (clusterGrant k i s) k = uplinkGiven i (getClu s k) := by
  unfold clusterGrant
  rw [getClu_modPort, getClu_modClu, if_pos rfl, (arbMoves_ownerBreak k i s).getClu, uplinkGiven]

theorem inq_clusterGrant (p : Nat) : (getPort (clusterGrant k i s) p).inq = (getPort s p).inq := by
  unfold clusterGrant
  rw [getPort_modPort, getPort_modClu, getPort_modClu, (arbMoves_ownerBreak k i s).getPort,
    (arbMoves_ownerBreak k i s).getPort]
  split
  · next h => rw [h]
  · rfl

theorem inq_clusterGive (p : Nat) : (getPort (clusterGive k s) p).inq = (getPort s p).inq := by
  unfold clusterGive
  split
  · rfl
  · exact inq_clusterGrant ..

theorem inq_clusterBreak (p : Nat) : (getPort (clusterBreak k s) p).inq = (getPort s p).inq := by
  unfold clusterBreak
  dsimp only
  split
  · split
    · rw [getPort_modPort]
      split
      · next h => exact h ▸ inq_clusterGrant ..
      · exact inq_clusterGrant ..
    · rfl
  · rfl

end

theorem clusterGive_of_best {s : State} {k : Nat} {q : XReq} (h : clusterBest s k none = some q) :
    clusterGive k s = clusterGrant k q.idx s := by
  rw [clusterGive, h]

section
variable {s : State} {k own : Nat} {o : XReq} (hown : (getClu s k).owner.toNat = own)
  (ho : portReq s (16 * k + own) = some o)
include hown ho

theorem getClu_clusterBreak_of_better {q : XReq} (hq : clusterBest s k (some own) = some q) (h : cahead q o = true) :
    getClu (clusterBreak k s) k =
      uplinkGiven q.idx { getClu s k with preempts := inc32 (getClu s k).preempts } := by
  simp only [clusterBreak, hown, hq, ho, h, if_true]
  rw [getClu_modPort, getClu_clusterGrant, getClu_modClu, if_pos rfl]

theorem clusterBreak_of_kept (h : ∀ q ∈ clusterReqs s k (some own), cahead q o = false) : clusterBreak k s = s := by
  unfold clusterBreak
  dsimp only
  rw [hown, ho]
  split
  · next q o' hq ho' =>
    cases ho'
    exact if_neg (by simp [h q (xbest_mem _ _ _ hq)])
  · rfl

end

/-! ### One decision of a cluster (R227) -/

section
variable {s : State} {k : Nat}

theorem exec_clusterDecision (hl : live s = true) (hk : k < nClusters s) (ht : tested s (18 + k) = false) :
    exec (.clusterDecision k) s = .next (clusterSettle k (clusterDecide k s)) :=
  if_neg (by simp [hl, hk, ht])

/-- What is decided once the owner of the uplink has sent, with or without a break point behind it. -/
def heldDecision (k : Nat) (c : Cluster) (brk : Bool) (s : State) : State :=
  if c.freeze then (if brk then modClu k (fun c => { c with granted := false, parked := false }) s else s)
  else if !(getClu s k).granted then (if c.quern then clusterGive k s else s)
  else if brk then clusterBreak k s else s

/-- A break point of the owner is one of the cluster's lane. -/
def sentBreak (k : Nat) (brk : Bool) (s : State) : State := if brk then laneBreak k s else s

theorem arbMoves_sentBreak (k : Nat) (brk : Bool) (s : State) : ArbMoves s (sentBreak k brk s) := by
  unfold sentBreak
  split
  · exact arbMoves_laneBreak ..
  · exact .refl s

theorem clusterDecide_of_held (hg : (getClu s k).granted = true) : clusterDecide k s =
    heldDecision k (getClu s k) (clusterSend k s).1 (sentBreak k (clusterSend k s).1 (clusterSend k s).2) := by
  rw [clusterDecide, if_pos hg]
  rfl

theorem clusterDecide_of_waiting (hg : (getClu s k).granted = false) :
    clusterDecide k s = if (getClu s k).freeze then s else clusterGive k s := by
  rw [clusterDecide, if_neg (by simp [hg])]

section
variable (hg : (getClu s k).granted = false)
include hg

theorem clusterDecide_of_freeze (hf : (getClu s k).freeze = true) : clusterDecide k s = s := by
  rw [clusterDecide_of_waiting hg, if_pos hf]

theorem clusterDecide_of_no_reqs (hn : clusterReqs s k none = []) : clusterDecide k s = s := by
  rw [clusterDecide_of_waiting hg, clusterGive, clusterBest, hn]
  exact ite_self _

theorem clusterDecide_of_best (hf : (getClu s k).freeze = false) {q : XReq} (hq : clusterBest s k none = some q) :
    clusterDecide k s = clusterGrant k q.idx s := by
  rw [clusterDecide_of_waiting hg, if_neg (by simp [hf]), clusterGive_of_best hq]

end

theorem inq_heldDecision (k : Nat) (c : Cluster) (brk : Bool) (s : State) (p : Nat) :
    (getPort (heldDecision k c brk s) p).inq = (getPort s p).inq := by
  unfold heldDecision
  split
  · split <;> rfl
  split
  · split
    · exact inq_clusterGive ..
    · rfl
  split
  · exact inq_clusterBreak ..
  · rfl

/-- The port that owns the uplink has sent its oldest transfer. -/
def ownerSent (k : Nat) (rest : List InXfer) (s : State) : State :=
  modPort (16 * k + (getClu s k).owner.toNat) (fun q => { q with inq := rest }) s

theorem clusterSend_of_nil (h : (getPort s (16 * k + (getClu s k).owner.toNat)).inq = []) :
    clusterSend k s = (false, clusterDrop k s) := by
  simp only [clusterSend, h]

theorem clusterSend_of_cons {x : InXfer} {rest : List InXfer}
    (h : (getPort s (16 * k + (getClu s k).owner.toNat)).inq = x :: rest) :
    clusterSend k s = (x.brk, if rest.isEmpty then clusterDrop k (ownerSent k rest s) else ownerSent k rest s) := by
  simp only [clusterSend, h, ownerSent]

theorem getClu_clusterDrop (k : Nat) (s : State) : getClu (clusterDrop k s) k = { getClu s k with
    granted := false, parked := (clusterReqs s k none).isEmpty && !(getClu s k).freeze } := by
  rw [clusterDrop, getClu_modClu, if_pos rfl]

theorem getPort_ownerSent (k : Nat) (rest : List InXfer) (s : State) (p : Nat) : getPort (ownerSent k rest s) p =
    if p = 16 * k + (getClu s k).owner.toNat then
      { getPort s (16 * k + (getClu s k).owner.toNat) with inq := rest } else getPort s p :=
  getPort_modPort ..

theorem clusterReqs_ownerSent_nil (k : Nat) (s : State) :
    clusterReqs (ownerSent k [] s) k none = clusterReqs s k (some (getClu s k).owner.toNat) :=
  clusterReqs_of_silent (by rw [getPort_ownerSent, if_pos rfl]) (fun p hp => by rw [getPort_ownerSent, if_neg hp])

/-! #### The last transfer of the owner -/

/-- Where the owner has nothing more to send, the uplink is dropped, and given to no other port at once. -/
theorem granted_heldDecision_of_dropped {c : Cluster} (hq : c.quern = false) (brk : Bool)
    (h : (getClu s k).granted = false) : (getClu (heldDecision k c brk s) k).granted = false := by
  unfold heldDecision
  rw [h, hq]
  split
  · split
    · rw [getClu_modClu, if_pos rfl]
    · exact h
  · exact h

theorem heldDecision_of_dropped {c : Cluster} (hf : c.freeze = false) (hq : c.quern = false) (brk : Bool)
    (h : (getClu s k).granted = false) : heldDecision k c brk s = s := by
  rw [heldDecision, hf, hq, h]
  rfl

/-! #### The owner has more to send -/

theorem heldDecision_of_kept (c : Cluster) (h : (getClu s k).granted = true) : heldDecision k c false s = s := by
  simp [heldDecision, h]

theorem granted_heldDecision_of_frozen {c : Cluster} (hf : c.freeze = true) (s : State) :
    (getClu (heldDecision k c true s) k).granted = false := by
  rw [heldDecision, if_pos hf, if_pos rfl, getClu_modClu, if_pos rfl]

theorem heldDecision_of_break {c : Cluster} (hf : c.freeze = false) (h : (getClu s k).granted = true) :
    heldDecision k c true s = clusterBreak k s := by
  simp [heldDecision, hf, h]

/-- The owner has sent a transfer behind which others stand. -/
def ownerGoesOn (k : Nat) (brk : Bool) (rest : List InXfer) (s : State) : State := sentBreak k brk (ownerSent k rest s)

section
variable (k : Nat) (brk : Bool) (rest : List InXfer) (s : State)

theorem getClu_ownerGoesOn : getClu (ownerGoesOn k brk rest s) k = getClu s k := by
  rw [ownerGoesOn, (arbMoves_sentBreak ..).getClu, ownerSent, getClu_modPort]

theorem getPort_ownerGoesOn (p : Nat) : getPort (ownerGoesOn k brk rest s) p = getPort (ownerSent k rest s) p :=
  (arbMoves_sentBreak ..).getPort p

theorem clusterReqs_ownerGoesOn : clusterReqs (ownerGoesOn k brk rest s) k (some (getClu s k).owner.toNat) =
    clusterReqs s k (some (getClu s k).owner.toNat) := by
  refine clusterReqs_congr (fun i _ hne => ?_)
  have hp : 16 * k + i ≠ 16 * k + (getClu s k).owner.toNat := fun h => hne (congrArg some (Nat.add_left_cancel h).symm)
  rw [portReq, getPort_ownerGoesOn, getPort_ownerSent, if_neg hp, portReq]

end

/-- What the owner of the uplink asks for next. -/
def ownerReq (k : Nat) (y : InXfer) (s : State) : XReq :=
  let p := getPort s (16 * k + (getClu s k).owner.toNat)
  { idx := (getClu s k).owner.toNat, ord := 0, deadline := y.deadline, stamp := p.ask.stamp, overdue := p.ask.overdue }

theorem portReq_ownerGoesOn (k : Nat) (brk : Bool) (y : InXfer) (l : List InXfer) (s : State) :
    portReq (ownerGoesOn k brk (y :: l) s) (16 * k + (getClu s k).owner.toNat) = some (ownerReq k y s) := by
  have hidx : (16 * k + (getClu s k).owner.toNat) % 16 = (getClu s k).owner.toNat := by
    have := (getClu s k).owner.isLt
    omega
  rw [portReq, getPort_ownerGoesOn, getPort_ownerSent, if_pos rfl, hidx]
  rfl

/-! #### The owner sends -/

theorem getClu_lastSent (k : Nat) (brk : Bool) (s : State) :
    getClu (sentBreak k brk (clusterDrop k (ownerSent k [] s))) k = { getClu s k with
      granted := false
      parked := (clusterReqs s k (some (getClu s k).owner.toNat)).isEmpty && !(getClu s k).freeze } := by
  rw [(arbMoves_sentBreak ..).getClu, getClu_clusterDrop, clusterReqs_ownerSent_nil]
  rfl

section
variable (hg : (getClu s k).granted = true)
include hg

theorem clusterDecide_of_nothing_left (h : (getPort s (16 * k + (getClu s k).owner.toNat)).inq = []) :
    clusterDecide k s = heldDecision k (getClu s k) false (clusterDrop k s) := by
  rw [clusterDecide_of_held hg, clusterSend_of_nil h]
  rfl

theorem granted_clusterDecide_of_nothing_left (h : (getPort s (16 * k + (getClu s k).owner.toNat)).inq = [])
    (hquern : (getClu s k).quern = false) : (getClu (clusterDecide k s) k).granted = false := by
  rw [clusterDecide_of_nothing_left hg h]
  exact granted_heldDecision_of_dropped hquern false (by rw [getClu_clusterDrop])

variable {x : InXfer} {rest : List InXfer} (hin : (getPort s (16 * k + (getClu s k).owner.toNat)).inq = x :: rest)
include hin

theorem inq_clusterDecide_of_sent :
    (getPort (clusterDecide k s) (16 * k + (getClu s k).owner.toNat)).inq = rest := by
  have hsent : (getPort (ownerSent k rest s) (16 * k + (getClu s k).owner.toNat)).inq = rest := by
    rw [getPort_ownerSent, if_pos rfl]
  rw [clusterDecide_of_held hg, clusterSend_of_cons hin, inq_heldDecision, (arbMoves_sentBreak ..).getPort]
  dsimp only
  split
  · exact hsent
  · exact hsent

theorem clusterDecide_of_last (h : rest = []) : clusterDecide k s =
    heldDecision k (getClu s k) x.brk (sentBreak k x.brk (clusterDrop k (ownerSent k [] s))) := by
  rw [clusterDecide_of_held hg, clusterSend_of_cons hin, h]
  rfl

section
variable (hr : rest = []) (hquern : (getClu s k).quern = false)
include hr hquern

theorem granted_clusterDecide_of_last : (getClu (clusterDecide k s) k).granted = false := by
  rw [clusterDecide_of_last hg hin hr]
  exact granted_heldDecision_of_dropped hquern _ (by rw [getClu_lastSent])

/-- The uplink stays parked on its owner where no other port asks (R224). -/
theorem parked_clusterDecide_of_last (hf : (getClu s k).freeze = false) : (getClu (clusterDecide k s) k).parked =
    (clusterReqs s k (some (getClu s k).owner.toNat)).isEmpty := by
  rw [clusterDecide_of_last hg hin hr, heldDecision_of_dropped hf hquern _ (by rw [getClu_lastSent]), getClu_lastSent, hf]
  exact Bool.and_true _

end

theorem clusterDecide_of_more (h : rest ≠ []) :
    clusterDecide k s = heldDecision k (getClu s k) x.brk (ownerGoesOn k x.brk rest s) := by
  rw [clusterDecide_of_held hg, clusterSend_of_cons hin, if_neg (by simpa using h)]
  rfl

theorem getClu_clusterDecide_of_more (h : rest ≠ []) (hb : x.brk = false) : getClu (clusterDecide k s) k = getClu s k := by
  have hheld := getClu_ownerGoesOn k false rest s
  rw [clusterDecide_of_more hg hin h, hb, heldDecision_of_kept _ (by rw [hheld, hg]), hheld]

theorem granted_clusterDecide_of_frozen (h : rest ≠ []) (hb : x.brk = true) (hf : (getClu s k).freeze = true) :
    (getClu (clusterDecide k s) k).granted = false := by
  rw [clusterDecide_of_more hg hin h, hb]
  exact granted_heldDecision_of_frozen hf _

end

end

/-! ### Lanes that are dropped, requests that come again, slots (R219, R224, R225, R232) -/

/-- A request waits that a dropped lane of r could serve. -/
def LaneWanted (s : State) (r : XReq) : Prop :=
  ∃ q ∈ s.xbar.fresh ++ s.xbar.pend, lanesHeldBy s q.idx < laneLimit q.idx ∨ q.idx = r.idx

theorem any_wanted_iff (s : State) (r : XReq) : ((s.xbar.fresh ++ s.xbar.pend).any (fun q =>
    decide (lanesHeldBy s q.idx < laneLimit q.idx) || q.idx == r.idx)) = true ↔ LaneWanted s r := by
  simp only [List.any_eq_true, Bool.or_eq_true, decide_eq_true_eq, beq_iff_eq, LaneWanted]

theorem dropLane_of_wanted {s : State} {r : XReq} (h : LaneWanted s r ∨ s.xbar.freeze = true) (lane : Nat) :
    dropLane lane r s = setLane lane .free s := by
  rw [← any_wanted_iff, ← Bool.or_eq_true] at h
  rw [dropLane, if_pos h]

theorem dropLane_of_unwanted {s : State} {r : XReq} (h : ¬ LaneWanted s r) (hf : s.xbar.freeze = false) (lane : Nat) :
    dropLane lane r s = setLane lane (.parked r.idx r.ord) s := by
  rw [← any_wanted_iff] at h
  rw [dropLane, if_neg (by rw [hf, Bool.or_false]; exact h)]

theorem laneWanted_slotCount (s : State) (r : XReq) : LaneWanted (slotCount s) r ↔ LaneWanted s r := Iff.rfl

section
variable {s : State} (hl : live s = true) (ht : tested s islXbr = false)
include hl ht

section
variable {lane : Nat} {r : XReq} {b : Bool} (h : laneAt s lane = .held r b)
include h

theorem exec_laneDrop : exec (.laneDrop lane) s =
    if reqEmpty s r then .next (dropLane lane r (slotCount s)) else .next s := by
  refine (if_neg (by simp [hl, ht])).trans ?_
  rw [h]

theorem exec_laneDrop_of_rest (he : reqEmpty s r = false) : exec (.laneDrop lane) s = .next s := by
  rw [exec_laneDrop hl ht h, if_neg (by simp [he])]

variable (he : reqEmpty s r = true)
include he

theorem exec_laneDrop_of_wanted (hw : LaneWanted s r ∨ s.xbar.freeze = true) :
    exec (.laneDrop lane) s = .next (setLane lane .free (slotCount s)) := by
  rw [exec_laneDrop hl ht h, if_pos he,
    dropLane_of_wanted (s := slotCount s) (by rwa [laneWanted_slotCount, (slotCount_keeps s).2.2.1])]

theorem exec_laneDrop_of_unwanted (hw : ¬ LaneWanted s r) (hf : s.xbar.freeze = false) :
    exec (.laneDrop lane) s = .next (setLane lane (.parked r.idx r.ord) (slotCount s)) := by
  rw [exec_laneDrop hl ht h, if_pos he,
    dropLane_of_unwanted (s := slotCount s) (by rwa [laneWanted_slotCount]) (by rwa [(slotCount_keeps s).2.2.1])]

end

/-- A request that was told "not parked" is taken from that list, and XBR is awake. -/
def represented (i : Nat) (s : State) : State :=
  modXbar (fun x => { x with unparked := x.unparked.eraseIdx i }) (wakeIsl islXbr (slotCount s))

theorem exec_xbarRepresent {i : Nat} {r : XReq} {t : Word} (h : s.xbar.unparked[i]? = some (r, t))
    (hd : t.toNat ≤ s.time.toNat) : exec (.xbarRepresent i) s = .next (xask r (represented i s)) := by
  refine (if_neg (by simp [hl, ht])).trans ?_
  rw [h]
  exact if_neg (Nat.not_lt.2 hd)

end

theorem arbMoves_represented (i : Nat) (s : State) : ArbMoves s (represented i s) :=
  ((arbMoves_slotCount s).trans (arbMoves_wakeIsl ..)).trans (arbMoves_modXbar ..)

theorem lanesHeldBy_of_lanes {s t : State} (h : t.xbar.lanes = s.xbar.lanes) (idx : Nat) :
    lanesHeldBy t idx = lanesHeldBy s idx := by
  rw [lanesHeldBy, h, lanesHeldBy]

theorem represented_keeps (i : Nat) (s : State) : (represented i s).xbar.fresh = s.xbar.fresh ∧
    (represented i s).xbar.pend = s.xbar.pend ∧ (represented i s).xbar.lanes = s.xbar.lanes ∧
    (represented i s).xbar.freeze = s.xbar.freeze :=
  ⟨rfl, rfl, rfl, rfl⟩

theorem laneAt_represented (i : Nat) (s : State) (n : Nat) : laneAt (represented i s) n = laneAt s n := by
  rw [laneAt, (represented_keeps i s).2.2.1, laneAt]

theorem candidates_represented (i : Nat) (s : State) : candidates (represented i s) = candidates s := by
  obtain ⟨hfresh, hpend, hlanes, -⟩ := represented_keeps i s
  simp only [candidates, lanesHeldBy_of_lanes hlanes, hfresh, hpend]

theorem ArbMoves.tested {s t : State} (h : ArbMoves s t) (j : Nat) : tested t j = tested s j := by
  obtain ⟨_, _, rfl⟩ := h
  rfl

section
variable {s : State} {r : XReq}

theorem xask_of_no_parked (h : s.xbar.freeze = true ∨ ∀ n, n < nLanes s → ∀ o, laneAt s n ≠ .parked r.idx o) :
    xask r s = modXbar (fun x => { x with fresh := x.fresh ++ [r] }) s := by
  rw [xask_eq, if_neg]
  rcases h with h | h
  · simp [h]
  · rw [firstLane_eq_none (p := parkedOn r)]
    · simp
    · intro n hn
      cases hl : laneAt s n with
      | parked x y => exact beq_eq_false_iff_ne.2 (fun hx => h n hn y (hx ▸ hl))
      | _ => rfl

theorem xask_of_parked {n o : Nat} (hf : s.xbar.freeze = false) (ht : tested s islXbr = false)
    (hc : candidates s = []) (hn : n < nLanes s) (hp : laneAt s n = .parked r.idx o)
    (hmin : ∀ m < n, ∀ o', laneAt s m ≠ .parked r.idx o') : xask r s = setLane n (granted r) s := by
  have hfirst : firstLane s (parkedOn r) = some n := by
    refine firstLane_eq_some hn (by simp [hp, parkedOn]) (fun m hm => ?_)
    cases hl : laneAt s m with
    | parked x y => exact beq_eq_false_iff_ne.2 (fun hx => hmin m hm y (hx ▸ hl))
    | _ => rfl
  rw [xask_eq, if_pos (by simp [hf, ht, hc, hfirst]), hfirst]
  rfl

end

theorem xask_keeps_waiting (r : XReq) (s : State) :
    (xask r s).xbar.unparked = s.xbar.unparked ∧ (xask r s).xbar.pend = s.xbar.pend := by
  rw [xask_eq]
  split <;> exact ⟨rfl, rfl⟩

section
variable {s : State} {r : XReq} (i : Nat)

/-- While frozen, or with no lane parked on its requester, a request that comes again is presented. -/
theorem xask_represented_of_no_parked (h : s.xbar.freeze = true ∨ ∀ n, n < nLanes s → ∀ o, laneAt s n ≠ .parked r.idx o) :
    (xask r (represented i s)).xbar.fresh = s.xbar.fresh ++ [r] ∧
      (xask r (represented i s)).xbar.lanes = s.xbar.lanes := by
  obtain ⟨hfresh, -, hlanes, hfreeze⟩ := represented_keeps i s
  rw [xask_of_no_parked, modXbar_xbar, hfresh, hlanes]
  · exact ⟨rfl, rfl⟩
  · simpa only [hfreeze, (arbMoves_represented i s).nLanes, laneAt_represented] using h

/-- Where nothing competes, it goes at once on the lowest lane parked on its requester. -/
theorem xask_represented_of_parked {n o : Nat} (hf : s.xbar.freeze = false) (ht : tested s islXbr = false)
    (hc : candidates s = []) (hn : n < nLanes s) (hp : laneAt s n = .parked r.idx o)
    (hmin : ∀ m < n, ∀ o', laneAt s m ≠ .parked r.idx o') : laneAt (xask r (represented i s)) n = granted r ∧
      (xask r (represented i s)).xbar.fresh = s.xbar.fresh := by
  obtain ⟨hfresh, -, -, hfreeze⟩ := represented_keeps i s
  have hask : xask r (represented i s) = setLane n (granted r) (represented i s) := by
    refine xask_of_parked (o := o) (hfreeze.trans hf) (((arbMoves_represented i s).tested _).trans ht)
      ((candidates_represented ..).trans hc) ?_ ((laneAt_represented ..).trans hp) (fun m hm o' => ?_)
    · rwa [(arbMoves_represented i s).nLanes]
    · rw [laneAt_represented]
      exact hmin m hm o'
  rw [hask, laneAt_setLane, if_pos rfl, setLane, modXbar_xbar, hfresh]
  exact ⟨rfl, rfl⟩

end

/-- Block time goes on: the time, what mirrored registers show, and the idleness of islands. -/
theorem timeTo_spec (t : Word) (s : State) :
    ∃ sn cr isl, timeTo t s = { s with time := t, seen := sn, crossing := cr, island := isl } := by
  unfold timeTo
  refine forAll_ind (fun u => ∃ sn cr isl, u = { s with time := t, seen := sn, crossing := cr, island := isl }) _ _
    (fun i u hu => ?_) _ ⟨_, _, _, rfl⟩
  obtain ⟨sn, cr, isl, rfl⟩ := hu
  exact ⟨sn, cr, _, rfl⟩

theorem exec_slotBoundary_of_last {s : State} (h : lastSlot s ≤ s.xbar.slot.toNat) : exec .slotBoundary s = .next s :=
  if_pos (by simp [h])

/-- Block time stands at the first nanosecond of the next slot, or behind it. -/
def atNextSlot (s : State) : State :=
  let t := slotStart s (s.xbar.slot.toNat + 1)
  if s.time.toNat < t.toNat then timeTo t s else s

theorem atNextSlot_spec (s : State) : ∃ sn cr isl, atNextSlot s =
    { s with time := later s.time (slotStart s (s.xbar.slot.toNat + 1)), seen := sn, crossing := cr, island := isl } := by
  unfold atNextSlot later
  dsimp only
  split
  · exact timeTo_spec ..
  · exact ⟨_, _, _, rfl⟩

/-- The next slot has begun. -/
def slotBegun (s : State) : State := modXbar (fun x => { x with slot := x.slot + 1 }) (slotCount (atNextSlot s))

theorem exec_slotBoundary {s : State} (hl : live s = true) (h : s.xbar.slot.toNat < lastSlot s) :
    exec .slotBoundary s = .next (slotBegun s) :=
  if_neg (by simp [hl, h])

theorem slotBegun_keeps (s : State) : (slotBegun s).xbar.slot = s.xbar.slot + 1 ∧
    (slotBegun s).time = later s.time (slotStart s (s.xbar.slot.toNat + 1)) ∧
    (slotBegun s).xbar.lanes = s.xbar.lanes ∧ (slotBegun s).dsp = s.dsp ∧ durable (slotBegun s) = durable s := by
  obtain ⟨sn, cr, isl, h⟩ := atNextSlot_spec s
  rw [slotBegun, h]
  exact ⟨rfl, rfl, rfl, rfl, rfl⟩

section
variable {s : State} {k : Nat} (hg : (getClu s k).granted = true) {x y : InXfer} {l : List InXfer}
  (hin : (getPort s (16 * k + (getClu s k).owner.toNat)).inq = x :: y :: l) (hb : x.brk = true)
  (hf : (getClu s k).freeze = false)
include hg hin hb hf

theorem clusterDecide_of_break : clusterDecide k s = clusterBreak k (ownerGoesOn k true (y :: l) s) := by
  have hheld := getClu_ownerGoesOn k true (y :: l) s
  rw [clusterDecide_of_more hg hin (List.cons_ne_nil y l), hb, heldDecision_of_break hf (by rw [hheld, hg])]

/-- At a break point of the owner, a port that ranks ahead of its next transfer takes the uplink (R227). -/
theorem getClu_clusterDecide_of_better {q : XReq} (hq : q ∈ clusterReqs s k (some (getClu s k).owner.toNat))
    (ho : cahead q (ownerReq k y s) = true) (hbest : ∀ p ∈ clusterReqs s k (some (getClu s k).owner.toNat),
      p = q ∨ (cahead q p = true ∧ cahead p q = false)) :
    getClu (clusterDecide k s) k = uplinkGiven q.idx { getClu s k with preempts := inc32 (getClu s k).preempts } := by
  have hheld := getClu_ownerGoesOn k true (y :: l) s
  have hq' : clusterBest (ownerGoesOn k true (y :: l) s) k (some (getClu s k).owner.toNat) = some q := by
    rw [clusterBest, clusterReqs_ownerGoesOn]
    exact xbest_of_ahead {} _ q hq hbest
  rw [clusterDecide_of_break hg hin hb hf,
    getClu_clusterBreak_of_better (by rw [hheld]) (portReq_ownerGoesOn ..) hq' ho, hheld]

/-- Where no other port does, the owner keeps it. -/
theorem getClu_clusterDecide_of_kept
    (h : ∀ q ∈ clusterReqs s k (some (getClu s k).owner.toNat), cahead q (ownerReq k y s) = false) :
    getClu (clusterDecide k s) k = getClu s k := by
  have hheld := getClu_ownerGoesOn k true (y :: l) s
  rw [clusterDecide_of_break hg hin hb hf, clusterBreak_of_kept (by rw [hheld]) (portReq_ownerGoesOn ..), hheld]
  rwa [clusterReqs_ownerGoesOn]

end

/-- Settles O23. First part: a decision of the crossbar. Second part: how requests rank. Third part: a decision of a cluster.
Fourth part: lanes that are dropped, requests that come again, and slots. -/
theorem arbitration : Obligations.Arbitration := by
  refine ⟨fun s hl ht => ⟨fun i hi r b hr => ⟨fun he => ?_, laneAt_beatPassed_of_rest hi hr⟩, decided s,
      exec_xbarDecision hl ht, fresh_decided s, lanesOk_decided, pend_decided,
      fun hf i hi => ⟨fun r => laneAt_decided_of_held hi, fun r b => laneAt_decided_of_broken hi hf⟩,
      fun hf i hi r => laneAt_decided_of_held hi, fun hf q hq hbest => ?_, (arbMoves_decided s).dsp,
      (arbMoves_decided s).eng, (arbMoves_decided s).time, (arbMoves_decided s).durable⟩,
    fun s a b => ⟨xahead_of_reserved, fun hr => ⟨xahead_of_overdue hr, xahead_of_deadline hr, xahead_of_later_deadline hr,
      fun ho h => ⟨xahead_of_stamp hr ho h, xahead_of_index hr ho h, xahead_of_order hr ho h⟩⟩, isReserved_iff,
      fun i r => weakestLane_broken s a i r, fun i r => weakestLane_of_last⟩,
    fun s k hl hk ht => ?_, fun s lane i hl ht => ⟨fun r b hr => ?_, fun r t h hd => ?_, exec_slotBoundary_of_last,
      fun h => ?_⟩⟩
  · exact (laneAt_beatPassed_of_empty hi hr he).imp_right And.right
  · have hb : xbest (beatPassed s) (candidates (beatPassed s)) = some q := xbest_of_ahead _ _ q hq hbest
    have hd : decided s = grantsMade (beatPassed s) := by rw [decided, if_neg (by simp [hf])]
    rw [hd, ← preempts_beatPassed s]
    exact ⟨fun i => laneAt_grantsMade_of_free hb, fun hfree i hi x y => laneAt_grantsMade_of_parked hb hfree hi,
      fun hfree i r hw => ⟨laneAt_grantsMade_of_first (grantOne_of_displaced hb hfree hw) (laneAt_displaced ..),
        preempts_grantsMade_of_alone hb hfree hw⟩, fun hfree => grantsMade_of_no_lane hb hfree⟩
  · have hexec := exec_clusterDecision hl hk ht
    have hm := arbMoves_clusterSettle k (clusterDecide k s)
    have hd : durable (clusterSettle k (clusterDecide k s)) = durable s := by simp
    have hc := hm.getClu k
    refine ⟨fun hg hf => ?_, fun hg hn => ?_, fun hg hf q hq hbest => ?_, fun hg hn hquern => ⟨_, hexec, ?_, hd⟩,
      fun hg x rest hin => ⟨_, hexec, ?_, hd, fun hr hquern => ?_, fun hr hb => ?_, fun hr hb hf => ?_,
        fun y l hr hb hf => ⟨fun q hq ho hbest => ?_, fun h => ?_⟩⟩⟩
    · have hw := clusterDecide_of_freeze hg hf
      exact ⟨_, hexec, by rw [hc, hw], fun p => by rw [hm.getPort, hw], hd⟩
    · have hw := clusterDecide_of_no_reqs hg hn
      exact ⟨_, hexec, by rw [hc, hw], by rw [hw]; exact waitingReqs_clusterSettle hn, hd⟩
    · have hw := clusterDecide_of_best hg hf (xbest_of_ahead {} _ q hq hbest)
      have hgiven : getClu (clusterDecide k s) k = uplinkGiven q.idx (getClu s k) := by rw [hw, getClu_clusterGrant]
      rw [hgiven] at hc
      exact ⟨_, hexec, congrArg (·.granted) hc, congrArg (·.owner) hc,
        mem_allReqs_clusterSettle (List.ne_nil_of_mem hq) (by rw [hw]; exact inq_clusterGrant k q.idx s), hd⟩
    · rw [hc, granted_clusterDecide_of_nothing_left hg hn hquern]
    · rw [hm.getPort, inq_clusterDecide_of_sent hg hin]
    all_goals rw [hc]
    · exact ⟨granted_clusterDecide_of_last hg hin hr hquern, parked_clusterDecide_of_last hg hin hr hquern⟩
    · rw [getClu_clusterDecide_of_more hg hin hr hb]
      exact ⟨hg, rfl⟩
    · exact granted_clusterDecide_of_frozen hg hin hr hb hf
    · rw [getClu_clusterDecide_of_better hg (hr ▸ hin) hb hf hq ho hbest]
      exact ⟨rfl, rfl, rfl⟩
    · rw [getClu_clusterDecide_of_kept hg (hr ▸ hin) hb hf h]
      exact ⟨hg, rfl⟩
  · exact ⟨exec_laneDrop_of_rest hl ht hr, exec_laneDrop_of_wanted hl ht hr, exec_laneDrop_of_unwanted hl ht hr⟩
  · have hk := xask_keeps_waiting r (represented i s)
    exact ⟨_, exec_xbarRepresent hl ht h hd, hk.1, hk.2, xask_represented_of_no_parked i,
      fun hf hc n o => xask_represented_of_parked i hf ht hc,
      ((arbMoves_represented i s).trans (arbMoves_xask ..)).durable⟩
  · exact ⟨_, exec_slotBoundary hl h, slotBegun_keeps s⟩

end Sys2Proof.Machine

namespace Sys2Proof.Machine

/-! ### A seam that ends one barrier and swaps the next (R185, R261) -/

/-- Engine 0 holds in a WAITF that port 0 paces, in the last word of its program. -/
def heldEngine : Engine :=
  { hold := .chan 2
    main := { phase := .hold, words := [w64 (2 ^ 56), w64 (0x60 * 2 ^ 56)], regs := { pc := 8, k3 := (1 : Word) <<< 63 } } }

/-- Gate 1 has swapped its rules, nothing that its old rules checked is outstanding, and the request of mailbox 0, a GATE_COMMIT of
gate 0, waits for the end of that barrier. No barrier is armed. The group DISP is armed, with PACEEN 0 for port 0. -/
def drainedBarrier : State :=
  let s := State.reset
  { s with
    ctl := { s.ctl with phase := 8, commits := [0] }
    mbx := [(0, { busy := true, req := [(1, 1)] })]
    gate := { s.gate with latched := some 2, shadow := [(0, ruleBedrock)] }
    fn := [(1, { level := 3, chsel := 2, mir := { present := true, pf := true, bme := true } })]
    dsp := { s.dsp with ctx := [(2, { st := .running, ov := true, owner := 1 })] }
    eng := [(0, heldEngine)]
    shpend := 2, shadow := { s.shadow with disp := { s.shadow.disp with paceen := [(0, 0)] } } }

theorem drainedBarrier_unarmed :
    drainedBarrier.inReset = false ∧ drainedBarrier.pf.stage = .normal ∧ drainedBarrier.gate.armed = false := by
  decide +kernel

/-- The swap of the group DISP lets the program go on, and what follows finds the barrier done and arms the one that waits; the
rules then swap in the same seam. -/
theorem doSeam_drainedBarrier :
    (swapShale drainedBarrier).gate.armed = true ∧
      (doSeam drainedBarrier).gate.active ≠ drainedBarrier.gate.active := by decide +kernel

/-- Refutes O24: a barrier that is not armed when the seam comes is armed within it, and swaps at once. Where PACEEN of a port
becomes 0 at the seam (R185), an engine held by that port goes on before the gates swap; its step ends a barrier that has
drained and arms the GATE_COMMIT that waits, so that active rules change in a seam that began without an armed barrier. -/
theorem not_seamSwaps : ¬ Obligations.SeamSwaps := by
  rintro ⟨-, hrules⟩
  obtain ⟨hreset, -, harmed⟩ := drainedBarrier_unarmed
  obtain ⟨t, ht, -, hkept, -⟩ := hrules drainedBarrier hreset
  have hexec : execSeam drainedBarrier = .next (doSeam drainedBarrier) := if_neg (by simp [hreset])
  obtain rfl := Host.Outcome.next.inj (hexec.symm.trans ht)
  obtain ⟨-, hchanged⟩ := doSeam_drainedBarrier
  exact hchanged (hkept (.inl harmed)).1

end Sys2Proof.Machine

namespace Sys2Proof.Machine

/-! ### What retires an instruction of a core (R359, R363) -/

@[simp] theorem pc_setG (r : Nat) (v : Word) (k : Core) : (setG r v k).pc = k.pc := by
  unfold setG
  split <;> rfl

@[simp] theorem z_setG (r : Nat) (v : Word) (k : Core) : (setG r v k).z = k.z := by
  unfold setG
  split <;> rfl

theorem retireCore_id (c : Nat) (s : State) : retireCore c id s = modCore c (fun k => { k with pc := k.pc + 8 }) s := rfl

theorem retireCore_setG (c r : Nat) (v : Word) (s : State) :
    retireCore c (setG r v) s = modCore c (fun k => { setG r v k with pc := k.pc + 8 }) s := by
  refine modCore_congr ?_
  rw [stepPc, pc_setG]
  rfl

/-! ### Where the bytes of a core stand (R361, R418) -/

section
variable {c n : Nat} {a : Word} {s : State}

theorem le_of_regionOf_kram (h : regionOf c a = .kram) : 0x80010000 ≤ a.toNat := by
  simp only [regionOf] at h
  split_ifs at h with _ _ _ hk
  exact hk.1

theorem le_of_regionOf_rsram (h : regionOf c a = .rsram) : 0x80040000 ≤ a.toNat := by
  simp only [regionOf] at h
  split_ifs at h with _ _ _ _ hr
  exact hr.1

/-- The errors that a read corrects are counted, and nothing else changes. -/
theorem softRead_eq (g b n : Nat) (s : State) : ∃ st, softRead g b n s = { s with st := st } := by
  refine forAll_ind (fun t => ∃ st, t = { s with st := st }) _ _ (fun _ t ht => ?_) s ⟨_, rfl⟩
  obtain ⟨st, rfl⟩ := ht
  exact ⟨_, rfl⟩

theorem getCore_softRead (g b n : Nat) (s : State) (j : Nat) : getCore (softRead g b n s) j = getCore s j := by
  obtain ⟨_, h⟩ := softRead_eq g b n s
  rw [h]
  rfl

theorem cmem_softRead (g b n : Nat) (s : State) : (softRead g b n s).cmem = s.cmem :=
  congrArg Durable.cmem (durable_softRead g b n s)

theorem coreRead_of_ctl (hr : regionOf c a = .ctl) (hg : coreGate c .rd a n s = none) (he : eccAt s a.toNat n = false) :
    coreRead c a n s = .bytes (memRead s.cmem a.toNat n) (softRead 11 a.toNat n s) := by
  simp [coreRead, hr, hg, sramRead, he]

theorem coreRead_of_kram (hr : regionOf c a = .kram) (he : eccAt s a.toNat n = false) :
    coreRead c a n s = .bytes (memRead s.kram (a.toNat - 0x80010000) n) s := by
  simp [coreRead, hr, sramRead, he]

theorem coreRead_of_kram_ecc (hr : regionOf c a = .kram) (he : eccAt s a.toNat n = true) : coreRead c a n s = .fault 5 s := by
  simp [coreRead, hr, sramRead, he]

/-- A read of the retention SRAM delivers its bytes, or free ones once CUT has isolated it (R399). -/
theorem coreRead_rsram_keeps {d : List Byte} {v : State} (hr : regionOf c a = .rsram)
    (h : coreRead c a 8 s = .bytes d v) : d.length = 8 ∧ getCore v c = getCore s c ∧ v.pf = s.pf := by
  simp only [coreRead, hr, freeBytes, sramRead] at h
  split at h
  · cases h
    exact ⟨length_bytesOf .., rfl, rfl⟩
  · split at h
    · cases h
    · cases h
      exact ⟨length_memRead .., rfl, rfl⟩

end

theorem wordAt_of_length {d : List Byte} (h : d.length = 8) : wordAt d 0 = BitVec.ofNat 64 (natOfBytes d) := by
  rw [wordAt, List.drop_zero, List.take_of_length_le (by omega)]

/-! ### Writes into KRAM and the retention SRAM (R361) -/

section
variable {n : Nat} {d : List Byte} (hd : d.length = n) (a : Word) (s : State)
include hd

theorem localWrite_kram : localWrite .kram a d s =
    { eccMend a.toNat n s with kram := memWrite s.kram (a.toNat - 0x80010000) d } := by
  subst hd
  rfl

/-- Behind CUT the retention SRAM takes no write (R399). -/
theorem localWrite_rsram : localWrite .rsram a d s =
    { (if s.pf.cut = true then s else eccMend a.toNat n s) with
      rsram := if s.pf.cut = true then s.rsram else memWrite s.rsram (a.toNat - 0x80040000) d } := by
  subst hd
  rw [localWrite]
  split <;> rfl

end

theorem getCore_localWrite (r : Region) (a : Word) (d : List Byte) (s : State) (j : Nat) :
    getCore (localWrite r a d s) j = getCore s j := by
  cases r with
  | rsram =>
    rw [localWrite]
    split <;> rfl
  | _ => rfl

theorem memRead_memWrite_bytesOf (m : List Host.Cell) (b n : Nat) (x : Word) :
    memRead (memWrite m b (bytesOf x n)) b n = bytesOf x n := by
  have h := memRead_memWrite m b (bytesOf x n)
  rwa [length_bytesOf] at h

/-! ### LD and ST (R363) -/

theorem storeFits_iff {s : State} {n : Nat} : storeFits s n = true ↔ s.cwait = [] ∧ cbufBytes s + n ≤ 4096 := by
  simp [storeFits]

theorem noRB_iff (w : Word) : noRB w = true ↔ fRB w = 0 ∧ fI w = false := by
  simp [noRB]

theorem sizeOf_le (w : Word) : sizeOf_ w ≤ 8 :=
  Nat.pow_le_pow_right (by omega) (show fMOD w % 4 ≤ 3 by omega)

theorem toInt_loadResult {n : Nat} (hn : n ≤ 8) (d : List Byte) :
    (loadResult true n d).toInt = (BitVec.ofNat (8 * n) (natOfBytes d)).toInt := by
  rw [loadResult, if_pos rfl, sext, BitVec.toInt_signExtend_of_le (by omega)]
  congr 1
  refine BitVec.eq_of_toNat_eq ?_
  simp only [BitVec.extractLsb'_toNat, BitVec.toNat_ofNat, Nat.shiftRight_zero]
  exact Nat.mod_mod_of_dvd _ (Nat.pow_dvd_pow 2 (by omega))

section
variable {c n : Nat} {a w : Word} {s : State}

theorem doLd_of_bad_fields (h : ¬ ((fRB w = 0 ∧ fI w = false) ∧ fMOD w < 8)) : doLd c w s = coreFault c 1 0 s := by
  rw [← noRB_iff] at h
  refine if_pos ?_
  simpa [Classical.or_iff_not_imp_left] using h

theorem doSt_of_bad_fields (h : ¬ ((fRB w = 0 ∧ fI w = false) ∧ fMOD w < 4)) : doSt c w s = coreFault c 1 0 s := by
  rw [← noRB_iff] at h
  refine if_pos ?_
  simpa [Classical.or_iff_not_imp_left] using h

variable (hf : fRB w = 0 ∧ fI w = false) (hA : coreAddr c w s = a) (hN : sizeOf_ w = n)
include hf hA hN

section
variable (hm : fMOD w < 8)
include hm

theorem doLd_of_misaligned (ha : a.toNat % n ≠ 0) : doLd c w s = coreFault c 2 a s := by
  simp [doLd, (noRB_iff w).2 hf, hm, hA, hN, aligned, ha]

theorem doLd_of_fault (ha : a.toNat % n = 0) {x : BitVec 3} {v : State} (h : coreRead c a n s = .fault x v) :
    doLd c w s = coreFault c x a v := by
  simp [doLd, (noRB_iff w).2 hf, hm, hA, hN, aligned, ha, h]

theorem doLd_of_bytes (ha : a.toNat % n = 0) {d : List Byte} {v : State} (h : coreRead c a n s = .bytes d v) :
    doLd c w s = retireCore c (setG (fRD w) (loadResult (bit w 50) n d)) v := by
  simp [doLd, (noRB_iff w).2 hf, hm, hA, hN, aligned, ha, h]

end

section
variable (hm : fMOD w < 4)
include hm

theorem doSt_of_misaligned (ha : a.toNat % n ≠ 0) : doSt c w s = coreFault c 2 a s := by
  simp [doSt, (noRB_iff w).2 hf, hm, hA, hN, aligned, ha]

variable (ha : a.toNat % n = 0)
include ha

theorem doSt_of_full (hr : regionOf c a = .ctl) (h : storeFits s n = false) : doSt c w s = s := by
  simp [doSt, (noRB_iff w).2 hf, hm, hA, hN, aligned, ha, hr, h]

theorem doSt_of_bus (hr : regionOf c a = .rom ∨ regionOf c a = .none) : doSt c w s = coreFault c 4 a s := by
  obtain hr | hr := hr <;> simp [doSt, (noRB_iff w).2 hf, hm, hA, hN, aligned, ha, hr]

variable {d : List Byte} (hd : bytesOf (getG (getCore s c) (fRD w)) n = d)
include hd

theorem doSt_of_fits (hr : regionOf c a = .ctl) (h : storeFits s n = true) :
    doSt c w s = retireCore c id { s with cbuf := s.cbuf ++ [storeEntry c a d] } := by
  simp [doSt, (noRB_iff w).2 hf, hm, hA, hN, aligned, ha, hr, h, hd]

theorem doSt_of_local {r : Region} (hr : regionOf c a = r) (h : r = .kram ∨ r = .rsram) :
    doSt c w s = retireCore c id (localWrite r a d s) := by
  obtain rfl | rfl := h <;> simp [doSt, (noRB_iff w).2 hf, hm, hA, hN, aligned, ha, hr, hd]

end
end

/-! ### AMO (R364) -/

/-- The word that an AMO leaves, of the old one and the registers of its core. -/
def amoWord (w : Word) (k : Core) (old : Word) : Word := amoNew (fMOD w) old (getG k (fRB w)) (getG k (fRD w))

theorem amoWord_eq (w : Word) (k : Core) (old : Word) :
    amoWord w k old = if fMOD w = 0 then getG k (fRB w) else if fMOD w = 1 then old + getG k (fRB w)
      else if old = getG k (fRB w) then getG k (fRD w) else old := by
  unfold amoWord amoNew
  split <;> simp_all

/-- The core behind an AMO that has read a word. -/
def amoRetired (w : Word) (k : Core) (old : Word) : Core :=
  { setG (fRD w) old k with
    z := if fMOD w = 2 then decide (old = getG k (fRB w)) else k.z, pc := k.pc + 8 }

theorem stepPc_amoCore (w old : Word) (k : Core) :
    stepPc 1 (amoCore w old (getG k (fRB w)) k) = amoRetired w k old := by
  simp only [amoCore, amoRetired, stepPc, beq_iff_eq]
  split
  · rw [pc_setG, beq_eq_decide]
    rfl
  · rw [pc_setG, ← z_setG (fRD w) old k]
    rfl

/-- A word of eight bytes goes into control memory. -/
def cmemStore (b : Word) (d : List Byte) (s : State) : State :=
  eccMend b.toNat 8 { s with cmem := memWrite s.cmem b.toNat d }

theorem cmem_cmemStore (b : Word) (d : List Byte) (s : State) : (cmemStore b d s).cmem = memWrite s.cmem b.toNat d := rfl

theorem amoFields_of_good {w : Word} (hg : fIMM w = 0 ∧ fMOD w ≤ 2 ∧ (fI w = true → fRB w = 0)) :
    (fIMM w != 0 || decide (2 < fMOD w) || (fI w && fRB w != 0)) = false := by
  obtain ⟨h0, hm, hf⟩ := hg
  simpa [h0, hm] using hf

theorem amoFields_of_bad {w : Word} (hg : ¬ (fIMM w = 0 ∧ fMOD w ≤ 2 ∧ (fI w = true → fRB w = 0))) :
    (fIMM w != 0 || decide (2 < fMOD w) || (fI w && fRB w != 0)) = true := by
  by_contra h
  exact hg (by simpa [and_assoc] using h)

section
variable {c : Nat} {w : Word} {s : State}

/-- What is read may count errors or draw free values, but leaves the core. -/
theorem amoAt_eq {a old : Word} {put : List Byte → State → State} {u : State} (hk : getCore u c = getCore s c)
    (hput : ∀ d, getCore (put d u) c = getCore u c) :
    amoAt c w a old put u =
      modCore c (fun _ => amoRetired w (getCore s c) old) (put (bytesOf (amoWord w (getCore s c) old) 8) u) := by
  simp only [amoAt, hk]
  refine modCore_congr ?_
  simp only [hput, hk, stepPc_amoCore]

theorem doAmo_of_bad_fields (h : ¬ (fIMM w = 0 ∧ fMOD w ≤ 2 ∧ (fI w = true → fRB w = 0))) :
    doAmo c w s = coreFault c 1 0 s := if_pos (amoFields_of_bad h)

section
variable {b : Word} (hg : fIMM w = 0 ∧ fMOD w ≤ 2 ∧ (fI w = true → fRB w = 0)) (hb : getG (getCore s c) (fRA w) = b)
include hg hb

theorem doAmo_of_misaligned (ha : b.toNat % 8 ≠ 0) : doAmo c w s = coreFault c 2 b s := by
  simp only [doAmo, amoFields_of_good hg, hb]
  simp [aligned, ha]

variable (ha : b.toNat % 8 = 0)
include ha

theorem doAmo_of_ownStore (hr : regionOf c b = .ctl) (ho : ownStore s c = true) : doAmo c w s = s := by
  simp only [doAmo, amoFields_of_good hg, hb]
  simp [aligned, ha, hr, ho]

theorem doAmo_of_denied {v : State} (hr : regionOf c b = .ctl) (ho : ownStore s c = false)
    (hv : coreGate c .both b 8 s = some v) : doAmo c w s = coreFault c 3 b v := by
  simp only [doAmo, amoFields_of_good hg, hb]
  simp [aligned, ha, hr, ho, hv]

section
variable (hr : regionOf c b = .ctl) (ho : ownStore s c = false) (hv : coreGate c .both b 8 s = none)
include hr ho hv

theorem doAmo_of_ctl_ecc (he : eccAt s b.toNat 8 = true) : doAmo c w s = coreFault c 5 b (eccCount 11 s) := by
  simp only [doAmo, amoFields_of_good hg, hb]
  simp [aligned, ha, hr, ho, hv, sramRead, he]

theorem doAmo_of_ctl (he : eccAt s b.toNat 8 = false) :
    doAmo c w s = amoAt c w b (wordAt (memRead s.cmem b.toNat 8) 0) (cmemStore b) (softRead 11 b.toNat 8 s) := by
  simp only [doAmo, amoFields_of_good hg, hb]
  simp only [aligned, ha, hr, ho, hv, sramRead, he]
  rfl

end

theorem doAmo_of_local_fault {r : Region} (hr : regionOf c b = r) (h : r = .kram ∨ r = .rsram)
    {x : BitVec 3} {v : State} (hx : coreRead c b 8 s = .fault x v) : doAmo c w s = coreFault c x b v := by
  simp only [doAmo, amoFields_of_good hg, hb]
  obtain rfl | rfl := h <;> simp [aligned, ha, hr, hx]

/-- The word is written where it was read. -/
theorem doAmo_of_local {r : Region} (hr : regionOf c b = r) (h : r = .kram ∨ r = .rsram)
    {d : List Byte} {v : State} (hx : coreRead c b 8 s = .bytes d v) :
    doAmo c w s = amoAt c w b (wordAt d 0) (localWrite r b) v := by
  simp only [doAmo, amoFields_of_good hg, hb]
  obtain rfl | rfl := h <;> simp [aligned, ha, hr, hx]

theorem doAmo_of_bus (hr : regionOf c b = .rom ∨ regionOf c b = .none ∨ regionOf c b = .crypto) :
    doAmo c w s = coreFault c 4 b s := by
  simp only [doAmo, amoFields_of_good hg, hb]
  obtain hr | hr | hr := hr <;> simp [aligned, ha, hr]

end
end

/-! ### The three instructions of a core that has fetched them -/

section
variable {s u : State} {c : Nat} {w : Word} (h : fetches s c w u = true)
include h

theorem exec_ld (ho : opc w = 0x80) : exec (.ld c) s = .next (doLd c w u) := run_fetched h ho (by decide) (doLd c)
theorem exec_st (ho : opc w = 0x81) : exec (.st c) s = .next (doSt c w u) := run_fetched h ho (by decide) (doSt c)
theorem exec_amo (ho : opc w = 0x83) : exec (.amo c) s = .next (doAmo c w u) := run_fetched h ho (by decide) (doAmo c)

end

section
variable {s u v : State} {c : Nat} {w : Word} {d : List Byte} (h : fetches s c w u = true)
include h

/-- A load delivers the value of the bytes that it has read, zero- or sign-extended. -/
theorem exec_ld_of_bytes (ho : opc w = 0x80) (hf : fRB w = 0 ∧ fI w = false) (hm : fMOD w < 8)
    (ha : (coreAddr c w u).toNat % sizeOf_ w = 0) (hx : coreRead c (coreAddr c w u) (sizeOf_ w) u = .bytes d v) :
    ∃ r : Word, exec (.ld c) s = .next (modCore c (fun k => { setG (fRD w) r k with pc := k.pc + 8 }) v) ∧
      (bit w 50 = false → r = BitVec.ofNat 64 (natOfBytes d)) ∧
      (bit w 50 = true → r.toInt = (BitVec.ofNat (8 * sizeOf_ w) (natOfBytes d)).toInt) := by
  refine ⟨loadResult (bit w 50) (sizeOf_ w) d, ?_, fun hz => ?_, fun hs => ?_⟩
  · rw [exec_ld h ho, doLd_of_bytes hf rfl rfl hm ha hx, retireCore_setG]
  · rw [hz]
    rfl
  · rw [hs, toInt_loadResult (sizeOf_le w)]

end

/-- Settles O47. Each instruction by its fields, its alignment and the region of its address. -/
theorem coreMemory : Obligations.CoreMemory := by
  intro s u c w h k n a fields
  have hA : coreAddr c w u = a := rfl
  have hN : sizeOf_ w = n := rfl
  refine ⟨fun ho => ?_, fun ho => ?_, fun ho => ?_⟩
  · refine ⟨fun hf => ?_, fun hf hm => ⟨fun ha => ?_, fun ha => ⟨fun x v hx => ?_, fun d v hx => ?_, fun hr hg he => ?_⟩⟩⟩
    · rw [exec_ld h ho, doLd_of_bad_fields hf]
    · rw [exec_ld h ho, doLd_of_misaligned hf hA hN hm ha]
    · rw [exec_ld h ho, doLd_of_fault hf hA hN hm ha hx]
    · exact exec_ld_of_bytes h ho hf hm ha hx
    · exact exec_ld_of_bytes h ho hf hm ha (coreRead_of_ctl hr hg he)
  · intro d entry
    have hD : bytesOf (getG (getCore u c) (fRD w)) n = d := rfl
    have hd : d.length = n := length_bytesOf _ n
    have hentry : entry = storeEntry c a d := by simp [entry, storeEntry, coreWho]
    refine ⟨fun hf => ?_, fun hf hm => ⟨fun ha => ?_, fun ha => ⟨fun hr hw hc => ?_, fun hr hc => ?_, fun hr => ?_,
      fun hr => ?_, fun hr => ?_⟩⟩⟩ <;> rw [exec_st h ho]
    · rw [doSt_of_bad_fields hf]
    · rw [doSt_of_misaligned hf hA hN hm ha]
    · rw [doSt_of_fits hf hA hN hm ha hD hr (storeFits_iff.2 ⟨hw, hc⟩), hentry]
      rfl
    · rw [doSt_of_full hf hA hN hm ha hr]
      rw [← Bool.not_eq_true, storeFits_iff, not_and_or, not_le]
      exact hc
    · rw [doSt_of_local hf hA hN hm ha hD hr (.inl rfl), retireCore_id, localWrite_kram hd]
      exact ⟨_, rfl, rfl, store_at _ _ _ _ _ (le_of_regionOf_kram hr) hd⟩
    · rw [doSt_of_local hf hA hN hm ha hD hr (.inr rfl), retireCore_id, localWrite_rsram hd]
      refine ⟨_, rfl, rfl, fun hcut => if_pos hcut, fun hcut => ?_⟩
      simp only [modCore_rsram, hcut, Bool.false_eq_true, if_false]
      exact store_at _ _ _ _ _ (le_of_regionOf_rsram hr) hd
    · rw [doSt_of_bus hf hA hN hm ha hr]
  · intro b m next core old oldK good
    have hB : getG (getCore u c) (fRA w) = b := rfl
    have hnext : ∀ x, next x = amoWord w k x := fun x => (amoWord_eq w k x).symm
    refine ⟨fun hg => ?_, fun hg => ⟨fun ha => ?_, fun ha => ⟨fun hr hs => ?_, fun hr hs => ⟨fun v hv => ?_, fun hv he => ?_,
      fun hv he => ?_⟩, fun hr he => ?_, fun hr he => ?_, fun d v hr hx => ?_, fun hr => ?_⟩⟩⟩ <;> rw [exec_amo h ho]
    · rw [doAmo_of_bad_fields hg]
    · rw [doAmo_of_misaligned hg hB ha]
    · rw [doAmo_of_ownStore hg hB ha hr hs]
    · rw [doAmo_of_denied hg hB ha hr hs hv]
    · rw [doAmo_of_ctl_ecc hg hB ha hr hs hv he]
    · rw [doAmo_of_ctl hg hB ha hr hs hv he, amoAt_eq (getCore_softRead ..) (fun _ => rfl),
        wordAt_of_length (length_memRead ..), hnext]
      refine ⟨_, rfl, rfl, memRead_memWrite_bytesOf _ _ _ _, fun j hj => ?_⟩
      rw [modCore_cmem, cmem_cmemStore, memByte_memWrite, length_bytesOf, if_neg (by omega), cmem_softRead]
    · rw [doAmo_of_local_fault hg hB ha hr (.inl rfl) (coreRead_of_kram_ecc hr he)]
    · rw [doAmo_of_local hg hB ha hr (.inl rfl) (coreRead_of_kram hr he), amoAt_eq rfl (fun _ => rfl),
        wordAt_of_length (length_memRead ..), hnext, localWrite_kram (length_bytesOf ..)]
      exact ⟨_, rfl, rfl, memRead_memWrite_bytesOf _ _ _ _⟩
    · obtain ⟨hd, hk, hpf⟩ := coreRead_rsram_keeps hr hx
      rw [doAmo_of_local hg hB ha hr (.inr rfl) hx, amoAt_eq hk (getCore_localWrite _ _ · _ _),
        wordAt_of_length hd, hnext, localWrite_rsram (length_bytesOf ..), hpf]
      refine ⟨_, rfl, rfl, fun hcut => ?_⟩
      simp only [modCore_rsram, hcut, Bool.false_eq_true, if_false]
      exact memRead_memWrite_bytesOf _ _ _ _
    · rw [doAmo_of_bus hg hB ha hr]

end Sys2Proof.Machine

namespace Sys2Proof.Machine

/-! ### A write enters its buffer (R254) -/

theorem inReset_of_mayIssue {s : State} (h : mayIssue s = true) : s.inReset = false := by
  simp only [mayIssue, Bool.and_eq_true, Bool.not_eq_true'] at h
  exact h.1.1

/-- With no undefined bytes first in line, none joins the buffer. -/
theorem undefJoin_of_defined {s : State} (h : ∀ x ∈ s.cwait.head?, x.undef = false) : undefJoin s = s := by
  unfold undefJoin
  cases hc : s.cwait with
  | nil => rfl
  | cons x l => simp [undefJoinN, hc, h x (by simp [hc])]

section
variable {s : State} {p : Nat} {w : BufWrite} {rest : List BufWrite} (hm : mayIssue s = true)
include hm

theorem exec_bufferedWriteAck_of_port (ht : tested s (islPort p) = false) (hw : (getPort s p).wwait = w :: rest)
    (hx : w.xheld = false) (hl : (getPort s p).wbuf.length < 4) : exec (.bufferedWriteAck (.port p)) s =
      .next (ackWrite w (modPort p (fun k => { k with
        wwait := rest, wbuf := k.wbuf ++ [{ w with ord := k.ord }], ord := k.ord + 1 }) s)) := by
  refine (if_neg (by simp [hm])).trans ?_
  simp only [hw]
  exact if_neg (by simpa [ht, hx] using hl)

section
variable (hw : s.cwait = w :: rest) (hx : w.xheld = false) (hl : cbufBytes s + w.data.length ≤ 4096)
include hw hx hl

theorem exec_bufferedWriteAck_of_ctl (ha : w.addr.toNat < 0x1000000) : exec (.bufferedWriteAck .ctl) s =
    .next (ackWrite w (undefJoin { s with cwait := rest, cbuf := s.cbuf ++ [w] })) := by
  refine (if_neg (by simp [hm])).trans ?_
  simp only [hw]
  exact (if_neg (by simpa [hx] using hl)).trans (if_neg (by omega))

theorem exec_bufferedWriteAck_of_above (ha : 0x1000000 ≤ w.addr.toNat) : exec (.bufferedWriteAck .ctl) s =
    .next (afterWrite w.purpose (writeEnds w.purpose w.data.length 0x21 (undefJoin { s with cwait := rest }))) := by
  refine (if_neg (by simp [hm])).trans ?_
  simp only [hw]
  exact (if_neg (by simpa [hx] using hl)).trans (if_pos ha)

end

/-! ### A write leaves the buffer of a port (R255, R262, R296) -/

section
variable (ht : tested s (islPort p) = false) (hw : (getPort s p).wbuf = w :: rest)
include ht hw

theorem exec_bufferedWriteLeave_of_down (hd : portDown (getPort s p) = true) : exec (.bufferedWriteLeave (.port p)) s =
    .next (modPort p (fun k => { k with ldrop := inc32 k.ldrop }) (modPort p (fun k => { k with wbuf := rest }) s)) := by
  refine (if_neg (by simp [hm, ht])).trans ?_
  simp only [hw]
  exact if_pos hd

/-- Nothing holds the write back: no token is under way, and no read that came before it may still leave. -/
def PortFree (w : BufWrite) (k : Port) : Prop :=
  portDown k = false ∧ k.lstate = .up ∧ k.sending = none ∧ ∀ r ∈ k.rwait, w.ord ≤ r.ord ∨ (r.spec = true ∧ k.ver ≠ 3)

omit hm ht hw in
theorem PortFree.passes {k : Port} (h : PortFree w k) :
    (k.lstate != .up || k.sending.isSome || k.rwait.any (fun r => decide (r.ord < w.ord) && (!r.spec || k.ver == 3))) = false := by
  obtain ⟨-, hu, hs, hr⟩ := h
  simpa [hu, hs, or_iff_not_imp_left] using hr

variable (hf : PortFree w (getPort s p))
include hf

theorem exec_bufferedWriteLeave_of_allowed
    (hv : w.checked = true ∨ (gateCheck s (p / 16) (whoBuf w) .wr w.addr w.data.length w.fix).ok = true) :
    exec (.bufferedWriteLeave (.port p)) s = .next (sendLane p (writeTokens w)
      (modPort p (fun k => { k with sending := some { w with checked := true } }) (modPort p (fun k => { k with wbuf := rest }) s))) := by
  refine (if_neg (by simp [hm, ht])).trans ?_
  simp only [hw]
  refine (if_neg (by simp [hf.1])).trans ((if_neg (by rw [hf.passes]; decide)).trans (if_neg ?_))
  obtain hv | hv := hv
  · simp [hv]
  · split <;> simp [hv]

theorem exec_bufferedWriteLeave_of_denied (hc : w.checked = false)
    (hv : (gateCheck s (p / 16) (whoBuf w) .wr w.addr w.data.length w.fix).ok = false) :
    exec (.bufferedWriteLeave (.port p)) s = .next (portPump p (denyNotice (p / 16) (whoBuf w) w.addr w.data.length
      (gateCheck s (p / 16) (whoBuf w) .wr w.addr w.data.length w.fix) (modPort p (fun k => { k with wbuf := rest }) s))) := by
  refine (if_neg (by simp [hm, ht])).trans ?_
  simp only [hw, hc]
  exact (if_neg (by simp [hf.1])).trans ((if_neg (by rw [hf.passes]; decide)).trans (if_pos (by simp [hv])))

end

/-- The port accepts the write on its lane (R299). -/
theorem exec_portWriteAccepted_of_sending (ht : tested s (islPort p) = false) (hs : (getPort s p).sending = some w) :
    exec (.portWriteAccepted p) s =
      .next (barrierStep (portPump p (modPort p (fun k => { k with sending := none, reqAt := none }) (stir p s)))) := by
  refine (if_neg (by simp [inReset_of_mayIssue hm, ht])).trans ?_
  simp only [hs]

/-! ### A write leaves the buffer of control memory (R255, R339) -/

section
variable (hw : s.cbuf = w :: rest) (hu : w.undef = false)
include hw hu

omit hm in
theorem undefLand_of_defined : undefLand s.cbuf s = s := by
  rw [hw, undefLand, if_neg (by simp [hu]), ← hw]

theorem exec_bufferedWriteLeave_ctl_of_allowed
    (hv : (gateCheck s 70 (whoBuf w) .wr (alignDown w.addr 4) (max w.data.length 4) w.fix).ok = true) :
    exec (.bufferedWriteLeave .ctl) s = .next (barrierStep
      (eccMend w.addr.toNat (if w.fix then 4 else w.data.length) { s with cbuf := rest, cmem := cmemPut w s.cmem })) := by
  refine (if_neg (by simp [inReset_of_mayIssue hm])).trans ?_
  rw [undefLand_of_defined hw hu]
  simp only [hw]
  exact if_neg (by simp [hv])

theorem exec_bufferedWriteLeave_ctl_of_denied
    (hv : (gateCheck s 70 (whoBuf w) .wr (alignDown w.addr 4) (max w.data.length 4) w.fix).ok = false) :
    exec (.bufferedWriteLeave .ctl) s = .next (barrierStep (denyNotice 70 (whoBuf w) (alignDown w.addr 4)
      (max w.data.length 4) (gateCheck s 70 (whoBuf w) .wr (alignDown w.addr 4) (max w.data.length 4) w.fix)
      { s with cbuf := rest })) := by
  refine (if_neg (by simp [inReset_of_mayIssue hm])).trans ?_
  rw [undefLand_of_defined hw hu]
  simp only [hw]
  exact if_pos (by simp [hv])

end
end

/-! ### The notice of a denied write (R255 to R259) -/

section
variable (x : Rule) (s : State)

theorem vlogPut_of_full (h : s.gate.vlogwr - s.gate.vlogrd = 256) :
    vlogPut x s = modGate (fun g => { g with vloglost := inc32 g.vloglost }) s := by
  simp [vlogPut, modGate, h]

theorem vlogPut_of_room (h : s.gate.vlogwr - s.gate.vlogrd ≠ 256) :
    vlogPut x s = modGate (fun g => { g with vlog := tset {} g.vlog (g.vlogwr.toNat % 256) x, vlogwr := inc32 g.vlogwr }) s := by
  simp only [vlogPut, modGate, if_neg h]

end

theorem getFn_evS (i : Nat) (s : State) (f : Nat) : getFn (evS i s) f = getFn s f := rfl

theorem familyOf_evS (i : Nat) (s : State) (f : Nat) : familyOf (evS i s) f = familyOf s f := rfl

theorem notice_postCause (i fn : Nat) (s : State) (f : Nat) : (getFn (postCause i fn s) f).notice = (getFn s f).notice := by
  unfold postCause
  rw [getFn_modFn]
  split
  · subst f
    rfl
  · rfl

section
variable (w : Who) (s : State)

theorem gate_evNotice : (evNotice w s).gate = s.gate := by
  unfold evNotice
  split
  · simp only [evS, postCause, modCtl_gate, modFn_gate]
  · simp only [evK, modCtl_gate]

theorem evNotice_of_channel (h : w.cls = 0) : (getFn (evNotice w s) w.fn).notice = true ∧
    (evNotice w s).ctl.evpends.getLsbD 9 = true ∧
    (getFn (evNotice w s) (familyOf (evNotice w s) w.fn)).evcause.getLsbD 5 = true := by
  have he : evNotice w s = evS 9 (postCause 5 w.fn (modFn w.fn (fun f => { f with notice := true }) s)) := by
    simp [evNotice, h]
  rw [he]
  simp only [getFn_evS, familyOf_evS]
  refine ⟨?_, evpends_evS 9 (by decide) _, evcause_postCause 5 (by decide) w.fn _⟩
  rw [notice_postCause, getFn_modFn, if_pos rfl]

theorem evNotice_of_core (h : w.cls ≠ 0) :
    (evNotice w s).fn = s.fn ∧ (evNotice w s).ctl.evpendk.getLsbD 8 = true := by
  have he : evNotice w s = evK 8 s := by simp [evNotice, h]
  rw [he]
  exact ⟨rfl, by simp [evK]⟩

end

section
variable (g : Nat) (w : Who) (a : Word) (len : Nat) (v : Verdict) (s : State)

/-- The full log loses the entry (R259). -/
theorem gate_denyNotice_of_full (h : s.gate.vlogwr - s.gate.vlogrd = 256) : (denyNotice g w a len v s).gate =
    { s.gate with vloglost := inc32 s.gate.vloglost, noticecnt := inc32 s.gate.noticecnt } := by
  rw [denyNotice, gate_evNotice, vlogPut_of_full _ s h]
  rfl

theorem gate_denyNotice_of_room (h : s.gate.vlogwr - s.gate.vlogrd ≠ 256) : (denyNotice g w a len v s).gate =
    { s.gate with
      vlog := tset {} s.gate.vlog (s.gate.vlogwr.toNat % 256) (logEntry s g w .wr a len v false)
      vlogwr := inc32 s.gate.vlogwr, noticecnt := inc32 s.gate.noticecnt } := by
  rw [denyNotice, gate_evNotice, vlogPut_of_room _ s h]
  rfl

theorem denyNotice_counts : (denyNotice g w a len v s).gate.noticecnt = inc32 s.gate.noticecnt ∧
    (denyNotice g w a len v s).gate.denycnt = s.gate.denycnt ∧
    (denyNotice g w a len v s).gate.vlogrd = s.gate.vlogrd := by
  by_cases h : s.gate.vlogwr - s.gate.vlogrd = 256
  · rw [gate_denyNotice_of_full g w a len v s h]
    exact ⟨rfl, rfl, rfl⟩
  · rw [gate_denyNotice_of_room g w a len v s h]
    exact ⟨rfl, rfl, rfl⟩

end

/-! ### A read of control memory by movement work (R339, R376) -/

section
variable {s : State} {e : Nat} {r : CtlRead} {others : List CtlRead}

theorem arbMoves_xpresentAll (idx ord : Nat) (dl : BitVec 20) (bs : List XBurst) (s : State) :
    ArbMoves s (xpresentAll idx ord dl bs s) := by
  unfold xpresentAll
  have hwoken : ArbMoves s (wakeIsl islXbr (slotCount s)) := (arbMoves_slotCount s).trans (arbMoves_wakeIsl ..)
  dsimp only
  split
  · exact hwoken.trans (arbMoves_modReq ..)
  · exact hwoken.trans (arbMoves_xask ..)

theorem xCtlData_keeps (dl : BitVec 20) (n : Nat) (s : State) : (∀ e, ctlReadOf (xCtlData dl n s) e = ctlReadOf s e) ∧
    (∀ a k, eccAt (xCtlData dl n s) a k = eccAt s a k) ∧ (xCtlData dl n s).cmem = s.cmem := by
  obtain ⟨_, _, h⟩ := arbMoves_xpresentAll 79 0 dl [{ deadline := dl, beats := beatsOf n }] s
  rw [xCtlData, xpresent, h]
  exact ⟨fun _ => rfl, fun _ _ => rfl, rfl⟩

theorem exec_controlMemoryReadData_of_some (hs : s.inReset = false) (hr : ctlReadOf s e = some (r, others)) :
    exec (.controlMemoryReadData e) s = .next (crossing (.ctlRead e) (ctlReadData e) (xCtlData r.dl r.len s)) := by
  refine (if_neg (by simp [hs])).trans ?_
  simp only [hr]

section
variable (hr : ctlReadOf s e = some (r, others)) (hf : r.fix = false) (he : eccAt s r.addr.toNat r.len = false)
include hr hf he

theorem ctlReadData_of_inside (h : r.addr.toNat + r.len ≤ 0x1000000) : ctlReadData e s =
    afterRead r.purpose (readEnds r.purpose r.addr 0 (memRead s.cmem r.addr.toNat r.len)
      (softRead 11 r.addr.toNat r.len { s with cread := others })) := by
  replace he : eccAt { s with cread := others } r.addr.toNat r.len = false := he
  simp [ctlReadData, hr, hf, he, Nat.not_lt.2 h]

theorem ctlReadData_of_above (h : 0x1000000 < r.addr.toNat + r.len) : ctlReadData e s =
    afterRead r.purpose (readEnds r.purpose r.addr 0x21 []
      (softRead 11 r.addr.toNat r.len { s with cread := others })) := by
  replace he : eccAt { s with cread := others } r.addr.toNat r.len = false := he
  simp [ctlReadData, hr, hf, he, h]

end
end

/-- Settles O28. First what enters a buffer, then what leaves it, the notice of a denial, and the reads of control memory. -/
theorem bufferedTargets : Obligations.BufferedTargets := by
  intro s p e w rest hm ht
  have hs : s.inReset = false := inReset_of_mayIssue hm
  refine ⟨fun hw hx hl => exec_bufferedWriteAck_of_port hm ht hw hx hl,
    fun hw hx hl => ⟨exec_bufferedWriteAck_of_ctl hm hw hx hl, exec_bufferedWriteAck_of_above hm hw hx hl⟩,
    fun hw => ⟨exec_bufferedWriteLeave_of_down hm ht hw, fun hd hu hf hr => ?_⟩, undefJoin_of_defined,
    fun hw hu => ⟨exec_bufferedWriteLeave_ctl_of_allowed hm hw hu, fun hv => ?_⟩, fun g who a n v => ?_,
    exec_portWriteAccepted_of_sending hm ht, fun r others hr hfix => ?_⟩
  · have hfree : PortFree w (getPort s p) := ⟨hd, hu, hf, hr⟩
    exact ⟨exec_bufferedWriteLeave_of_allowed hm ht hw hfree, exec_bufferedWriteLeave_of_denied hm ht hw hfree⟩
  · refine ⟨exec_bufferedWriteLeave_ctl_of_denied hm hw hu hv, ?_⟩
    refine congrArg Durable.cmem (?_ : durable _ = durable { s with cbuf := rest })
    simp
  · obtain ⟨hnotice, hdeny, hrd⟩ := denyNotice_counts g who a n v s
    refine ⟨hnotice, hdeny, hrd, fun hfull => ?_, fun hroom => ?_, evNotice_of_channel who _, evNotice_of_core who _,
      durable_denyNotice ..⟩
    · rw [gate_denyNotice_of_full g who a n v s hfull]
      exact ⟨rfl, rfl⟩
    · rw [gate_denyNotice_of_room g who a n v s hroom]
      exact ⟨rfl, rfl, by rw [tget_tset, if_pos rfl]⟩
  · rw [exec_controlMemoryReadData_of_some hs hr]
    obtain ⟨hread, hecc, hcmem⟩ := xCtlData_keeps r.dl r.len s
    refine ⟨fun hst => ?_, fun hst he hin => ?_, fun hst he hout => ?_⟩
    · rw [crossing, answerStands, if_pos hst]
    · rw [crossing, answerStands, if_neg (by rw [hst]; decide),
        ctlReadData_of_inside ((hread e).trans hr) hfix ((hecc ..).trans he) hin, hcmem]
    · rw [crossing, answerStands, if_neg (by rw [hst]; decide),
        ctlReadData_of_above ((hread e).trans hr) hfix ((hecc ..).trans he) hout]

end Sys2Proof.Machine

namespace Sys2Proof.Machine

/-! ### What leaves the engine ports: the end of a barrier -/

@[simp] theorem port_gbarArm (s : State) : (gbarArm s).port = s.port := by
  unfold gbarArm
  dsimp only
  split
  · rfl
  split <;> rfl

@[simp] theorem port_setShadow (g n : Nat) (r : Rule) (s : State) : (setShadow g n r s).port = s.port := rfl

@[simp] theorem port_installLm (g : Nat) (s : State) : (installLm g s).port = s.port := by
  simp only [installLm, port_setShadow, apply_ite State.port, ite_self]

@[simp] theorem port_armMask (m : BitVec 71) (s : State) : (armMask m s).port = s.port := port_gbarArm _

@[simp] theorem port_startScree (bank : Bool) (entry : Half) (cause : BitVec 2) (s : State) :
    (startScree bank entry cause s).port = s.port := by
  refine forAll_ind (fun t => t.port = s.port) _ _ (fun n t ht => ?_) _ rfl
  split
  · exact ht
  split <;> exact ht

@[simp] theorem port_mbxPost (m : Nat) (s : State) : (mbxPost m s).port = s.port := by
  unfold mbxPost
  dsimp only
  split
  · rfl
  split
  · rfl
  split <;> rfl

@[simp] theorem port_bedAnswer (m result : Nat) (detail : Half) (ws : List Word) (s : State) :
    (bedAnswer m result detail ws s).port = s.port := by
  unfold bedAnswer mbxDone
  dsimp only
  split
  · rfl
  split
  · rfl
  split <;> rfl

@[simp] theorem port_postNotice (cmd : Nat) (r1 r2 : Word) (s : State) : (postNotice cmd r1 r2 s).port = s.port :=
  port_mbxPost ..

@[simp] theorem port_nextNotice (s : State) : (nextNotice s).port = s.port := by
  unfold nextNotice
  dsimp only
  repeat' split
  all_goals simp

@[simp] theorem port_armNext (n : Nat) (s : State) : (armNext n s).port = s.port := by
  induction n generalizing s with
  | zero => rfl
  | succ n ih =>
    simp only [armNext]
    repeat' split
    all_goals simp [ih]

@[simp] theorem port_barrierDone (s : State) : (barrierDone s).port = s.port := by
  unfold barrierDone
  dsimp only
  repeat' split
  all_goals simp

@[simp] theorem port_barrierStep (s : State) : (barrierStep s).port = s.port := by
  unfold barrierStep
  dsimp only
  split
  · exact port_barrierDone _
  · rfl

theorem getPort_of_port {s t : State} (h : t.port = s.port) (p : Nat) : getPort t p = getPort s p := by
  rw [getPort, h, getPort]

@[simp] theorem getPort_barrierStep (s : State) (p : Nat) : getPort (barrierStep s) p = getPort s p :=
  getPort_of_port (port_barrierStep s) p

/-! ### What a link hears (R308) -/

section
variable (p q : Nat) (s : State)

@[simp] theorem getPort_wakeIsl (i : Nat) : getPort (wakeIsl i s) q = getPort s q := rfl

@[simp] theorem getPort_evLink : getPort (evLink s) q = getPort s q := rfl

@[simp] theorem lstate_portEvent : (getPort (portEvent p s) p).lstate = (getPort s p).lstate := by
  simp [portEvent, stir, stirred]

@[simp] theorem lstate_addPerr : (getPort (addPerr p s) p).lstate = (getPort s p).lstate := by
  simp [addPerr]

@[simp] theorem lstate_addProto : (getPort (addProto p s) p).lstate = (getPort s p).lstate := by
  simp [addProto]

variable {p s}

/-- An error retrains a link that is UP. -/
theorem linkError_of_up (h : (getPort s p).lstate = .up) : linkError p s = retrain p s := by
  simp only [linkError, h]

/-- An error fails the attempt of a link that negotiates. -/
theorem linkError_of_negotiate (h : (getPort s p).lstate = .negotiate) : linkError p s = attemptFails p s := by
  simp only [linkError, h]

theorem inReset_of_live (h : live s = true) : s.inReset = false := by
  simp only [live, Bool.and_eq_true, Bool.not_eq_true'] at h
  exact h.1

theorem linkHeard_of_up (hl : live s = true) (ht : tested s (islPort p) = false) (h : (getPort s p).lstate = .up) :
    linkHeard s p = true := by
  simp [linkHeard, inReset_of_live hl, ht, h]

theorem linkHeard_of_negotiate (hl : live s = true) (ht : tested s (islPort p) = false)
    (h : (getPort s p).lstate = .negotiate) : linkHeard s p = true := by
  simp [linkHeard, inReset_of_live hl, ht, h]

end

/-! ### LCTL (R305, R309, R312) -/

section
variable {s : State} {r : Requester} {p : Nat} (hl : live s = true) (hp : p < nPorts s) (hr : isFirmware r = true)
include hl hp hr

theorem exec_linkEnable : exec (.linkEnable r p) s = .next (enableLink p (access r s)) :=
  if_neg (by simp [hl, hr, portPresent, hp])

theorem exec_linkDisable : exec (.linkDisable r p) s = .next (disableLink p (access r s)) :=
  if_neg (by simp [hl, hr, portPresent, hp])

theorem exec_linkRetrain_written : exec (.linkRetrain p (.written r)) s = .next (retrainLink p (access r s)) :=
  if_neg (by simp [hl, hr, portPresent, hp])

end

section
variable (p : Nat) (s : State)

theorem enableLink_of_enabled (h : (getPort s p).en = true) : enableLink p s = s := if_pos h

theorem enableLink_of_disabled (h : (getPort s p).en = false) :
    enableLink p s = linkReset p (modPort p (fun k => { k with en := true, fails := 0 }) s) := if_neg (by simp [h])

theorem disableLink_of_disabled (h : (getPort s p).en = false) : disableLink p s = s := if_pos (by simp [h])

theorem disableLink_of_enabled (h : (getPort s p).en = true) :
    disableLink p s = portClose p .down (modPort p (fun k => { k with en := false, prst := false }) s) :=
  if_neg (by simp [h])

theorem retrainLink_of_started (h : (getPort s p).lstate ∈ [.up, .reset, .negotiate, .retrain]) :
    retrainLink p s = retrain p s := by
  simp only [List.mem_cons, List.not_mem_nil, or_false] at h
  unfold retrainLink
  rcases h with h | h | h | h <;> simp only [h]

theorem retrainLink_of_closed (h : (getPort s p).lstate = .down ∨ (getPort s p).lstate = .failed) :
    retrainLink p s = s := by
  unfold retrainLink
  rcases h with h | h <;> simp only [h]

/-- What a closed link leaves of its port, where no read of the port is outstanding or waits (R305, R310). -/
theorem getPort_portClose_of_no_reads (l : LState) (hr : (getPort s p).reads = []) (hw : (getPort s p).rwait = []) :
    getPort (portClose p l s) p = { getPort s p with
      lstate := l, ver := 0, pwr := 0, wbuf := [], sending := none, reqAt := none, sideAt := none, xferCls := none
      ldrop := (getPort s p).ldrop +
        BitVec.ofNat 32 ((getPort s p).wbuf.length + (if (getPort s p).sending.isSome then 1 else 0)) } := by
  simp [portClose, hr, hw, forAll, wakeWatch]

/-- What retraining leaves before the reads fail: RESET, with a write partly sent in front of the buffer (R309). -/
def retrainFrom (p : Nat) (s : State) : State :=
  modPort p (fun k => { k with reads := [] }) (evLink (linkReset p (modPort p (fun k => { k with
    wbuf := k.sending.toList ++ k.wbuf, sending := none, lretrain := inc32 k.lretrain }) s)))

theorem retrain_eq : retrain p s = barrierStep (forAll (getPort s p).reads (failRead 0x21) (retrainFrom p s)) := by
  have h : (getPort (evLink (linkReset p (modPort p (fun k => { k with
      wbuf := k.sending.toList ++ k.wbuf, sending := none, lretrain := inc32 k.lretrain }) s))) p).reads =
      (getPort s p).reads := by
    simp [linkReset]
  simp only [retrain, failReads, h]
  rfl

theorem getPort_retrainFrom : getPort (retrainFrom p s) p = { getPort s p with
    lstate := .reset, ver := 0, pwr := 0, stepAt := s.time, prst := false, reqAt := none, sideAt := none
    xferCls := none, reads := [], sending := none, wbuf := (getPort s p).sending.toList ++ (getPort s p).wbuf
    lretrain := inc32 (getPort s p).lretrain } := by
  simp [retrainFrom, linkReset]

/-- Retraining raises LINK, and is no business of the engines, of DSP, or of what lasts. -/
theorem retrainFrom_frame : (retrainFrom p s).ctl.evpends = s.ctl.evpends ||| (1 : BitVec 17) <<< 3 ∧
    (retrainFrom p s).eng = s.eng ∧ (retrainFrom p s).dsp = s.dsp ∧ durable (retrainFrom p s) = durable s := by
  refine ⟨?_, ?_, ?_, by simp [retrainFrom]⟩
  all_goals simp [retrainFrom, evLink, evS, linkReset, wakeIsl]

end

/-- RESET lasts 1 µs; then PRST_N rises, and VERSION goes out with the offer of the attempt (R305). -/
theorem exec_linkResetDone_of_due {s : State} {p : Nat} (hl : live s = true) (ht : tested s (islPort p) = false)
    (hc : s.pf.cut = false) (h : (getPort s p).lstate = .reset) (hd : 1000 ≤ (s.time - (getPort s p).stepAt).toNat) :
    exec (.linkResetDone p) s = .next (sendLane p (versionTokens (vermaxOf (getPort s p))) (modPort p (fun k => { k with
      lstate := .negotiate, stepAt := s.time, prst := true, offer := vermaxOf (getPort s p) }) s)) :=
  if_pos (by simp only [drives, hl, hc, ht, h, decide_eq_true hd]; rfl)

theorem exec_linkRetrain_sideband {s : State} {p : Nat} {b : Byte} {isp : Bool} (hh : linkHeard s p = true)
    (hb : isp ≠ oddParity b) :
    exec (.linkRetrain p (.sideband b isp)) s = .next (linkError p (addPerr p (portEvent p s))) :=
  if_neg (by simp [hh, hb])

/-- Settles O31, by the state in which the command finds the link. -/
theorem linkControl : Obligations.LinkControl := by
  intro s r p hl hp ht
  have hport := getPort_access r p s
  refine ⟨fun hr he => ?_, fun hr he => ⟨_, exec_linkEnable hl hp hr, ?_⟩, fun hr he => ?_, fun hr he => ?_,
    fun hr he hreads hwait => ⟨_, exec_linkDisable hl hp hr, ?_⟩, fun hr h => ?_, fun hr h => ?_,
    fun b isp hb => ⟨fun h => ?_, fun h => ?_⟩, fun u => ?_, fun hc h hd => ?_⟩
  · rw [exec_linkEnable hl hp hr, enableLink_of_enabled p _ (hport ▸ he)]
  · rw [enableLink_of_disabled p _ (hport ▸ he)]
    have hothers : ∀ q, q ≠ p → getPort (linkReset p (modPort p (fun k => { k with en := true, fails := 0 })
        (access r s))) q = getPort s q := fun q hq => by simp [linkReset, hq]
    simpa [linkReset] using hothers
  · rw [exec_linkDisable hl hp hr, disableLink_of_disabled p _ (hport ▸ he)]
  · rw [exec_linkDisable hl hp hr, disableLink_of_enabled p _ (hport ▸ he)]
  · rw [disableLink_of_enabled p _ (hport ▸ he), getPort_portClose_of_no_reads p _ .down (by simpa using hreads)
      (by simpa using hwait)]
    simp
  · rw [exec_linkRetrain_written hl hp hr, retrainLink_of_started p _ (hport ▸ h)]
  · rw [exec_linkRetrain_written hl hp hr, retrainLink_of_closed p _ (hport ▸ h)]
  · rw [exec_linkRetrain_sideband (linkHeard_of_up hl ht h) hb, linkError_of_up (by simpa using h)]
  · rw [exec_linkRetrain_sideband (linkHeard_of_negotiate hl ht h) hb, linkError_of_negotiate (by simpa using h)]
  · obtain ⟨hlink, heng, hdsp, hdur⟩ := retrainFrom_frame p u
    exact ⟨retrainFrom p u, retrain_eq p u, getPort_retrainFrom p u, hlink, heng, hdsp, hdur, fun _ _ => rfl⟩
  · rw [exec_linkResetDone_of_due hl ht hc h hd]
    simp only [vermaxOf, beq_iff_eq]

end Sys2Proof.Machine

namespace Sys2Proof.Machine

/-! ### What passes on a link (R293, R300, R306) -/

section
variable (p q : Nat) (s : State)

theorem getPort_stir : getPort (stir p s) p =
    stirred s.time (getIsl (wakeIsl (islPort p) s) (islPort p)).awakeAt (getPort s p) := by
  simp [stir]

theorem getPort_sendLane (ts : List Token) : getPort (sendLane p ts s) p =
    { getPort (stir p s) p with reqAt := some (reqFrom s.time (getPort (stir p s) p)) } := by
  simp [sendLane, stir]

theorem getPort_sendLane_of_ne (h : q ≠ p) (ts : List Token) : getPort (sendLane p ts s) q = getPort s q := by
  simp [sendLane, stir, h]

theorem getPort_sendOs (b : Byte) : getPort (sendOs p b s) p =
    { getPort (stir p s) p with sideAt := some (reqFrom s.time (getPort (stir p s) p)) } := by
  simp [sendOs, stir]

theorem getPort_sendOs_of_ne (h : q ≠ p) (b : Byte) : getPort (sendOs p b s) q = getPort s q := by
  simp [sendOs, stir, h]

theorem os_sendOs (b : Byte) : (sendOs p b s).out.os = s.out.os ++ [(p, b, oddParity b)] := rfl

theorem tsv_sendOs (b : Byte) : (sendOs p b s).tsv = s.tsv := by
  simp [sendOs, stir, wakeIsl]

end

/-! ### The reads that leave a port (R296 to R298) -/

/-- A read that leaves moves from the reads that wait to those that have a TID, and its tokens pass on the lane. -/
theorem sendNext_spec {k : Nat} {s t : State} (h : sendNext k s = some t) : ∃ ts rwait r, t = sendLane k ts
    (modPort k (fun x => { x with rwait := rwait, reads := x.reads ++ [r] }) s) := by
  unfold sendNext at h
  dsimp only at h
  split at h
  · split at h
    · cases h
      exact ⟨_, _, _, rfl⟩
    · cases h
  · cases h

/-- What every read that leaves keeps holds once the port has sent what may leave. -/
theorem portPump_ind (P : State → Prop) {k : Nat} (h : ∀ u v, sendNext k u = some v → P u → P v) {s : State} (hs : P s) :
    P (portPump k s) := by
  suffices hn : ∀ n u, P u → P (portPumpN k n u) from hn _ _ hs
  intro n
  induction n with
  | zero => exact fun u hu => hu
  | succ n ih =>
    intro u hu
    rw [portPumpN]
    split
    · exact hu
    next v hv => exact ih _ (h u v hv hu)

/-! ### A link at a version (R304, R305) -/

/-- The link of a port is UP at a version, new: no attempt counts, no class has come, and it is ACTIVE. -/
structure NewlyUp (p : Nat) (v : BitVec 2) (s : State) : Prop where
  lstate : (getPort s p).lstate = .up
  ver : (getPort s p).ver = v
  fails : (getPort s p).fails = 0
  clsSeen : (getPort s p).clsSeen = false
  pwr : (getPort s p).pwr = 0

section
variable {p : Nat} {v : BitVec 2} {s : State} (h : NewlyUp p v s)
include h

theorem newlyUp_sendOs (b : Byte) : NewlyUp p v (sendOs p b s) := by
  obtain ⟨hl, hv, hf, hc, -⟩ := h
  have hp := (getPort_sendOs p s b).trans (by rw [getPort_stir, stirred])
  constructor <;> simp [hp, hl, hv, hf, hc]

theorem newlyUp_tgenTo (i : Nat) (gen : Half) : NewlyUp p v (tgenTo p i gen s) :=
  newlyUp_sendOs (newlyUp_sendOs h _) _

theorem newlyUp_sendNext {t : State} (ht : sendNext p s = some t) : NewlyUp p v t := by
  obtain ⟨hl, hv, hf, hc, -⟩ := h
  obtain ⟨ts, rwait, r, rfl⟩ := sendNext_spec ht
  have hp := (getPort_sendLane p (modPort p (fun x => { x with rwait := rwait, reads := x.reads ++ [r] }) s) ts).trans
    (by rw [getPort_stir, stirred])
  constructor <;> simp [hp, hl, hv, hf, hc]

theorem newlyUp_portPump : NewlyUp p v (portPump p s) :=
  portPump_ind (NewlyUp p v) (fun _ _ ht hu => newlyUp_sendNext hu ht) h

end

theorem os_portPump (p : Nat) (s : State) : (portPump p s).out.os = s.out.os := by
  refine portPump_ind (fun t => t.out.os = s.out.os) (fun u t ht hu => ?_) rfl
  obtain ⟨ts, rwait, r, rfl⟩ := sendNext_spec ht
  exact hu

/-- The bytes of the TGENs of some instances for one port (R300, R304). -/
def tgenBytes (p : Nat) (tsv : Tsv) (is : List Nat) : List (Nat × Byte × Bool) :=
  is.flatMap (fun i =>
    let b : Byte := 0x80 ||| BitVec.ofNat 8 i
    let g := bits (tget {} tsv.inst i : Inst).gen 0 8
    [(p, b, oddParity b), (p, g, oddParity g)])

/-- A TGEN for each of some instances, to one port. -/
def tgensTo (p : Nat) (is : List Nat) (s : State) : State := forAll is (fun i s => tgenTo p i (getInst s i).gen s) s

theorem tgensTo_cons (p i : Nat) (is : List Nat) (s : State) :
    tgensTo p (i :: is) s = tgensTo p is (tgenTo p i (getInst s i).gen s) := by
  simp only [tgensTo, forAll, List.foldl_cons]

theorem os_tgensTo (p : Nat) (is : List Nat) (s : State) :
    (tgensTo p is s).out.os = s.out.os ++ tgenBytes p s.tsv is := by
  induction is generalizing s with
  | nil => exact (List.append_nil _).symm
  | cons i is ih =>
    have hos : (tgenTo p i (getInst s i).gen s).out.os = s.out.os ++ tgenBytes p s.tsv [i] := by
      simp [tgenTo, os_sendOs, tgenBytes, getInst]
    have htsv : (tgenTo p i (getInst s i).gen s).tsv = s.tsv := by
      simp [tgenTo, tsv_sendOs]
    rw [tgensTo_cons, ih, hos, htsv, List.append_assoc, tgenBytes, tgenBytes, ← List.flatMap_append, List.singleton_append,
      ← tgenBytes]

theorem newlyUp_tgensTo {p : Nat} {v : BitVec 2} {s : State} (h : NewlyUp p v s) (is : List Nat) :
    NewlyUp p v (tgensTo p is s) :=
  forAll_ind (NewlyUp p v) _ _ (fun _ _ hu => newlyUp_tgenTo hu _ _) s h

/-- The port of a link that has come UP at a version. -/
def risen (p : Nat) (v : BitVec 2) (s : State) : State :=
  modPort p (fun k => { k with
    lstate := .up, ver := v, pwr := 0, fails := 0, clsSeen := false, cls := 0, lastAct := s.time, reqAt := none, xferCls := none })
    (wakeIsl (islPort p) s)

/-- The instances that are configured. -/
def instsUsed (s : State) : List Nat := (List.range 16).filter (fun i => (getInst s i).en)

theorem linkUp_eq (p : Nat) (v : BitVec 2) (s : State) : linkUp p v s =
    portPump p (if v == 3 && drives s then tgensTo p (instsUsed s) (risen p v s) else risen p v s) := rfl

theorem newlyUp_risen (p : Nat) (v : BitVec 2) (s : State) : NewlyUp p v (risen p v s) := by
  constructor <;> simp [risen]

theorem newlyUp_linkUp (p : Nat) (v : BitVec 2) (s : State) : NewlyUp p v (linkUp p v s) := by
  rw [linkUp_eq]
  refine newlyUp_portPump ?_
  split
  · exact newlyUp_tgensTo (newlyUp_risen p v s) _
  · exact newlyUp_risen p v s

theorem os_linkUp (p : Nat) (v : BitVec 2) (s : State) : (linkUp p v s).out.os =
    s.out.os ++ if v == 3 && drives s then tgenBytes p s.tsv (instsUsed s) else [] := by
  rw [linkUp_eq, os_portPump]
  split
  · exact os_tgensTo ..
  · exact (List.append_nil _).symm

/-! ### The version exchange (R305, R308 to R310) -/

section
variable {s : State} {p : Nat} (hl : live s = true) (ht : tested s (islPort p) = false)
include hl ht

section
variable (hn : (getPort s p).lstate = .negotiate)
include hn

theorem exec_portVersion_of_version {first : Token} {rest : List Token} {offer : BitVec 4}
    (h : readLane (first :: rest) = .version offer) :
    exec (.portVersion p first rest) s = .next (takeVersion p offer s) := by
  refine (if_neg (by simp [hl, ht, hn])).trans ?_
  simp only [h]

theorem exec_portVersion_of_parity {first : Token} {rest : List Token} (h : readLane (first :: rest) = .parity) :
    exec (.portVersion p first rest) s = .next (attemptFails p (addPerr p s)) := by
  refine (if_neg (by simp [hl, ht, hn])).trans ?_
  simp only [h]

theorem exec_portVersion_of_other {first : Token} {rest : List Token} (hpar : readLane (first :: rest) ≠ .parity)
    (hver : ∀ offer, readLane (first :: rest) ≠ .version offer) :
    exec (.portVersion p first rest) s = .next (attemptFails p (addProto p s)) := by
  refine (if_neg (by simp [hl, ht, hn])).trans ?_
  cases h : readLane (first :: rest) with
  | parity => exact absurd h hpar
  | version offer => exact absurd h (hver offer)
  | protocol => rfl
  | rdata x => rfl
  | msg d => rfl

theorem exec_versionTimeout_of_due (hd : 10000 ≤ (s.time - (getPort s p).stepAt).toNat) :
    exec (.versionTimeout p) s = .next (attemptFails p (addProto p s)) :=
  if_pos (by simp only [hl, ht, hn, decide_eq_true hd]; rfl)

end

/-- A request event of one of the two out-paths has waited 10 µs for its acknowledge. -/
def AckMissed (s : State) (k : Port) : Prop :=
  (∃ t0, k.reqAt = some t0 ∧ t0.toNat + 10000 ≤ s.time.toNat) ∨ (∃ t0, k.sideAt = some t0 ∧ t0.toNat + 10000 ≤ s.time.toNat)

omit hl ht in
theorem ackMissed_iff (s : State) (k : Port) :
    (k.reqAt.any (ackLate s.time) || k.sideAt.any (ackLate s.time)) = true ↔ AckMissed s k := by
  simp [AckMissed, ackLate, Option.any_eq_true]

omit ht in
theorem exec_handshakeTimeout_of_missed (hh : linkHeard s p = true) (hm : AckMissed s (getPort s p)) :
    exec (.handshakeTimeout p) s = .next (linkError p (addProto p s)) :=
  if_pos (by rw [hl, hh, (ackMissed_iff ..).2 hm]; rfl)

omit hl ht in
theorem exec_lerr_of_heard (hh : linkHeard s p = true) : exec (.lerr p) s =
    .next (linkError p (modPort p (fun k => { k with sending := none }) (addPerr p (portEvent p s)))) :=
  if_neg (by simp [hh])

end

section
variable (p : Nat) (s : State)

theorem attemptFails_of_third (h : 3 ≤ (getPort s p).fails + 1) : attemptFails p s =
    evLink (portClose p .failed (modPort p (fun k => { k with fails := k.fails + 1 }) s)) :=
  if_pos (by simpa using h)

theorem attemptFails_of_fewer (h : (getPort s p).fails + 1 < 3) : attemptFails p s =
    retrain p (modPort p (fun k => { k with fails := k.fails + 1 }) s) :=
  if_neg (by simpa using Nat.le_of_lt_succ h)

variable {offer : BitVec 4} (ho : offer ≠ 0)
include ho

/-- The smaller of the two offers, at most 3. -/
def agreed (k : Port) (offer : BitVec 4) : BitVec 2 := BitVec.ofNat 2 (min k.offer.toNat (min offer.toNat 3))

theorem takeVersion_of_offer : takeVersion p offer s = linkUp p (agreed (getPort s p) offer) s :=
  if_neg (by simpa using ho)

omit ho in
theorem toNat_agreed (k : Port) (offer : BitVec 4) :
    (agreed k offer).toNat = min k.offer.toNat (min offer.toNat 3) := by
  rw [agreed, BitVec.toNat_ofNat, Nat.mod_eq_of_lt (by omega)]

end

/-- Settles O32, by what the port offers, and by the state in which an error finds the link. -/
theorem linkVersions : Obligations.LinkVersions := by
  intro s p hl ht
  refine ⟨fun hn first rest => ⟨fun offer h ho => ⟨_, (exec_portVersion_of_version hl ht hn h).trans
      (by rw [takeVersion_of_offer p s ho]), ?_⟩, fun h => exec_portVersion_of_version hl ht hn h,
      exec_portVersion_of_parity hl ht hn, exec_portVersion_of_other hl ht hn⟩,
    exec_versionTimeout_of_due hl ht, fun hu hm => ?_, fun hn hm => ?_, fun hu => ?_, fun hn => ?_,
    attemptFails_of_third p s, attemptFails_of_fewer p s⟩
  · obtain ⟨hst, hver, hfails, hcls, hpwr⟩ := newlyUp_linkUp p (agreed (getPort s p) offer) s
    refine ⟨hst, by rw [hver, toNat_agreed], hfails, hcls, hpwr, ?_, by simp⟩
    rw [os_linkUp, hver]
    simp only [drives, hl, tgenBytes, instsUsed]
    simp [getInst]
  · rw [exec_handshakeTimeout_of_missed hl (linkHeard_of_up hl ht hu) hm, linkError_of_up (by simpa using hu)]
  · rw [exec_handshakeTimeout_of_missed hl (linkHeard_of_negotiate hl ht hn) hm,
      linkError_of_negotiate (by simpa using hn)]
  · rw [exec_lerr_of_heard (linkHeard_of_up hl ht hu), linkError_of_up (by simpa using hu)]
  · rw [exec_lerr_of_heard (linkHeard_of_negotiate hl ht hn), linkError_of_negotiate (by simpa using hn)]

end Sys2Proof.Machine

namespace Sys2Proof.Machine

/-! ### What leaves the engine ports: requests, locks and the ends of work -/

theorem ArbMoves.port {s t : State} (h : ArbMoves s t) : t.port = s.port := by
  obtain ⟨_, _, rfl⟩ := h
  rfl

@[simp] theorem port_xpresentAll (idx ord : Nat) (dl : BitVec 20) (bs : List XBurst) (s : State) :
    (xpresentAll idx ord dl bs s).port = s.port := (arbMoves_xpresentAll idx ord dl bs s).port

@[simp] theorem port_xCtl (n : Nat) (s : State) : (xCtl n s).port = s.port := port_xpresentAll ..

@[simp] theorem port_xEng (e n : Nat) (s : State) : (xEng e n s).port = s.port := port_xpresentAll ..

@[simp] theorem port_xEngRead (e : Nat) (s : State) : (xEngRead e s).port = s.port := port_xpresentAll ..

@[simp] theorem port_xbreak (e : Nat) (s : State) : (xbreak e s).port = s.port := rfl

@[simp] theorem port_burstBreak (e : Nat) (m : Move) (s : State) : (burstBreak e m s).port = s.port := by
  simp only [burstBreak, port_xbreak, apply_ite State.port, ite_self]

@[simp] theorem port_issueUpd8 (who : Who) (addr compare cmask value wmask add : Word) (pu : Purpose) (s : State) :
    (issueUpd8 who addr compare cmask value wmask add pu s).2.port = s.port := by
  unfold issueUpd8
  dsimp only
  split
  · rfl
  split <;> rfl

@[simp] theorem port_evLockBreak (fn : Nat) (s : State) : (evLockBreak fn s).port = s.port := rfl

@[simp] theorem port_breakEntry (x : LockEntry) (cause : BitVec 3) (s : State) :
    (breakEntry x cause s).port = s.port := by
  simp [breakEntry, apply_ite State.port]

@[simp] theorem port_breakSoon (x : LockEntry) (cause : BitVec 3) (s : State) : (breakSoon x cause s).port = s.port := by
  simp [breakSoon, apply_ite State.port]

@[simp] theorem port_breakOnLeave (c : Nat) (cause : Option (BitVec 3)) (s : State) :
    (breakOnLeave c cause s).port = s.port := by
  refine forAll_ind (fun t => t.port = s.port) _ _ (fun x t ht => ?_) s rfl
  split
  · exact ht
  · exact (port_breakSoon ..).trans ht

@[simp] theorem port_keepEntry (e : Nat) (s : State) : (keepEntry e s).port = s.port := by
  simp only [keepEntry, modPf_port, apply_ite State.port, ite_self]

@[simp] theorem port_quiesceStep (s : State) : (quiesceStep s).port = s.port := by
  unfold quiesceStep
  split <;> rfl

@[simp] theorem port_svcDone (core slot : Nat) (result : List Word) (s : State) :
    (svcDone core slot result s).port = s.port := rfl

@[simp] theorem port_finishWork (e : Nat) (s : State) : (finishWork e s).port = s.port := by
  unfold finishWork
  split
  · simp [apply_ite State.port]
  · rfl

@[simp] theorem port_takeFlags (e : Nat) (b r : Bool) (s : State) : (takeFlags e b r s).2.port = s.port := rfl

@[simp] theorem port_modMain (e : Nat) (f : Thread → Thread) (s : State) : (modMain e f s).port = s.port := rfl

@[simp] theorem port_modThr (e : Nat) (f : Thread → Thread) (s : State) : (modThr e f s).port = s.port := rfl

@[simp] theorem port_modMv (e : Nat) (f : Move → Move) (s : State) : (modMv e f s).port = s.port := rfl

@[simp] theorem port_directOver (c : Nat) (s : State) : (directOver c s).port = s.port := rfl

@[simp] theorem port_nextDesc (e : Nat) (s : State) : (nextDesc e s).port = s.port := rfl

@[simp] theorem port_endWork (e : Nat) (code : Byte) (s : State) : (endWork e code s).port = s.port := rfl

@[simp] theorem port_saveMove (e : Nat) (s : State) : (saveMove e s).port = s.port := rfl

@[simp] theorem port_evWbFault (fn c : Nat) (a : Word) (s : State) : (evWbFault fn c a s).port = s.port := rfl

@[simp] theorem port_denyPrecise (g : Nat) (w : Who) (n : Need) (a : Word) (len : Nat) (v : Verdict) (s : State) :
    (denyPrecise g w n a len v s).port = s.port := rfl

@[simp] theorem port_lmIssue (r : LmReq) (s : State) : (lmIssue r s).port = s.port := rfl

@[simp] theorem port_trySpec (e : Nat) (s : State) : (trySpec e s).port = s.port := by
  unfold trySpec
  dsimp only
  repeat' split
  all_goals simp

@[simp] theorem port_evalPace (e : Nat) (s : State) : (evalPace e s).port = s.port := by
  unfold evalPace
  dsimp only
  repeat' split
  all_goals simp

/-! ### What leaves the engine ports: accesses of hosts, undefined bytes, staging -/

@[simp] theorem port_hostPost (h fn : Nat) (a : Word) (d : List Byte) (o : Order) (cach : Bool) (pu : Purpose) (s : State) :
    (hostPost h fn a d o cach pu s).port = s.port := by
  unfold hostPost
  dsimp only
  split <;> rfl

@[simp] theorem port_hostWrite (h fn : Nat) (a : Word) (d : List Byte) (fix : Bool) (o : Order) (cach : Bool)
    (pu : Purpose) (s : State) : (hostWrite h fn a d fix o cach pu s).port = s.port := by
  unfold hostWrite
  split
  · exact forAll_ind (fun t => t.port = s.port) _ _ (fun _ _ ht => (port_hostPost ..).trans ht) s rfl
  · exact forAll_ind (fun t => t.port = s.port) _ _ (fun _ _ ht => (port_hostPost ..).trans ht) s rfl

theorem port_hostTake {h : Nat} {w : HostWait} {s t : State} (ht : hostTake h w s = some t) : t.port = s.port := by
  unfold hostTake at ht
  dsimp only at ht
  split at ht
  · cases ht
  · cases ht
    rfl

@[simp] theorem port_hostRead (h : Nat) (w : HostWait) (s : State) : (hostRead h w s).port = s.port := by
  unfold hostRead hostTry
  split
  next t ht =>
    split at ht
    · cases ht
    · exact port_hostTake ht
  · rfl

@[simp] theorem port_flushAt (h : Nat) (p : Purpose → Bool) (pu : Purpose) (s : State) :
    (flushAt h p pu s).port = s.port := by
  unfold flushAt issueFlush
  dsimp only
  split
  · rfl
  split <;> simp [apply_ite State.port]

@[simp] theorem port_flushDesc (e : Nat) (s : State) : (flushDesc e s).port = s.port := by
  refine forAll_ind (fun t => t.port = s.port) _ _ (fun h t ht => ?_) s rfl
  repeat' split
  all_goals simp [ht]

@[simp] theorem port_flushIf (due : Move → Bool) (e : Nat) (s : State) : (flushIf due e s).port = s.port := by
  unfold flushIf
  dsimp only
  repeat' split
  all_goals simp

@[simp] theorem port_drawBytes (n : Nat) (s : State) : (drawBytes n s).2.port = s.port := by
  induction n generalizing s with
  | zero => rfl
  | succ n ih => exact ih _

@[simp] theorem port_burstData (m : Move) (off : Nat) (d : List Byte) (s : State) :
    (burstData m off d s).2.port = s.port := by
  unfold burstData
  dsimp only
  split
  · rfl
  split
  · rfl
  · exact port_drawBytes ..

@[simp] theorem port_undefJoin (s : State) : (undefJoin s).port = s.port := by
  suffices h : ∀ n t, (undefJoinN n t).port = t.port from h _ s
  intro n
  induction n with
  | zero => exact fun _ => rfl
  | succ n ih =>
    intro t
    rw [undefJoinN]
    repeat' split
    · exact ih _
    · rfl
    · rfl

@[simp] theorem port_overlapLate (old m : Move) (s : State) : (overlapLate old m s).port = s.port := by
  unfold overlapLate
  dsimp only
  repeat' split
  all_goals simp

@[simp] theorem port_sramStaged (e : Nat) (m : Move) (n : Nat) (s : State) : (sramStaged e m n s).2.port = s.port := by
  have hgroups : ∀ (l : List (Nat × Bool)) (u : State), u.port = s.port →
      (forAll l (fun x u => if x.2 then corCount 2 u else eccCount 2 u) u).port = s.port := fun l u hu =>
    forAll_ind (fun t => t.port = s.port) l _ (fun x t ht => by split <;> exact ht) u hu
  unfold sramStaged
  dsimp only
  split
  · exact hgroups _ _ (by split <;> rfl)
  · exact (port_modMv ..).trans (hgroups _ _ (by split <;> rfl))

theorem port_of_sramStaged {e : Nat} {m : Move} {n : Nat} {s t : State} {b : Bool} (h : sramStaged e m n s = (b, t)) :
    t.port = s.port := by
  rw [← port_sramStaged e m n s, h]

/-! ### What keeps the levels of a port and the power state of its link -/

/-- The levels a port has told, and the power state of its link. -/
def sideState (k : Port) : BitVec 6 × BitVec 6 × BitVec 2 := (k.filli, k.fillo, k.pwr)

/-- That of each port. -/
def sides (t : Tbl Port) (p : Nat) : BitVec 6 × BitVec 6 × BitVec 2 := sideState (tget {} t p)

theorem sides_tmap {f : Port → Port} (h : ∀ k, sideState (f k) = sideState k) (hd : f {} = {}) (t : Tbl Port) :
    sides (tmap (fun _ => f) t) = sides t := by
  funext p
  rw [sides, tget_tmap {} t p (fun _ => f) (fun _ => hd), h, sides]

theorem sides_modPort {f : Port → Port} (h : ∀ k, sideState (f k) = sideState k) (p : Nat) (s : State) :
    sides (modPort p f s).port = sides s.port := by
  funext q
  refine (congrArg sideState (getPort_modPort p f q s)).trans ?_
  split
  next hq =>
    subst hq
    exact h _
  · rfl

@[simp] theorem sides_dropIf (k : Discard) (p : Purpose → Bool) (s : State) :
    sides (dropIf k p s).port = sides s.port := by
  simp only [dropIf]
  exact sides_tmap (by intro; rfl) (by rfl) _

@[simp] theorem sides_unwatch (c : Nat) (s : State) : sides (unwatch c s).port = sides s.port := by
  simp only [unwatch]
  exact sides_tmap (by intro; rfl) (by rfl) _

@[simp] theorem sides_portWrite (k : Nat) (w : BufWrite) (s : State) : sides (portWrite k w s).port = sides s.port := by
  refine sides_modPort (fun x => ?_) k (wakeIsl (islPort k) s)
  rfl

section
variable (e : Nat) (s : State)

@[simp] theorem sides_disown (c : Nat) : sides (disown e c s).port = sides s.port := sides_dropIf ..

@[simp] theorem sides_dropReads (k : Discard) : sides (dropReads k e s).port = sides s.port := by
  simp only [dropReads, sides_dropIf]

@[simp] theorem sides_dropSpec : sides (dropSpec e s).port = sides s.port := sides_dropReads e s .plain

@[simp] theorem sides_dropMove : sides (dropMove e s).port = sides s.port := sides_dropIf ..

@[simp] theorem sides_leaveEng : sides (leaveEng e s).port = sides s.port := by
  simp [leaveEng]

@[simp] theorem sides_stopCtx (c : Nat) (code : Byte) (flags : Option Byte) :
    sides (stopCtx c code flags s).port = sides s.port := by
  simp [stopCtx, dropTasks, unqueue]

@[simp] theorem sides_stopEng (code : Byte) (flags : Option Byte) :
    sides (stopEng e code flags s).port = sides s.port := by
  simp [stopEng]

@[simp] theorem sides_fnStopEnd : sides (fnStopEnd e s).port = sides s.port := by
  unfold fnStopEnd
  dsimp only
  repeat' split
  all_goals simp

@[simp] theorem sides_fnStopTry : sides (fnStopTry e s).port = sides s.port := by
  unfold fnStopTry
  split
  · exact sides_fnStopEnd ..
  · rfl

@[simp] theorem sides_wbFault (code : Byte) : sides (wbFault e code s).port = sides s.port := by
  simp [wbFault]

end

/-! #### The writes of an engine -/

section
variable (e : Nat) (s : State)

@[simp] theorem port_sendWrite (w : WrReq) (v : Verdict) : (sendWrite w v s).port = s.port := by
  unfold sendWrite
  split <;> simp

@[simp] theorem sides_issueWrite (w : WrReq) : sides (issueWrite w s).2.port = sides s.port := by
  unfold issueWrite
  dsimp only
  repeat' split
  all_goals simp

theorem port_xCount {f : State → State} (hf : ∀ t, (f t).port = t.port) (x : Iss × State) :
    (xCount f x).2.port = x.2.port := by
  unfold xCount
  split
  · exact hf _
  · rfl

@[simp] theorem sides_engWrite (w : WrReq) : sides (engWrite e w s).2.port = sides s.port := by
  rw [engWrite, port_xCount (port_xEng e w.data.length), sides_issueWrite]

theorem sides_of_engWrite {w : WrReq} {i : Iss} {t : State} (h : engWrite e w s = (i, t)) :
    sides t.port = sides s.port := by
  rw [← sides_engWrite e s w, h]

@[simp] theorem sides_wbWrite (sp : BitVec 4) (a v : Word) (pu : Purpose) :
    sides (wbWrite e sp a v pu s).2.port = sides s.port := by
  unfold wbWrite
  split
  next h => exact (sides_wbFault ..).trans (sides_of_engWrite e s h)
  next h => exact sides_of_engWrite e s h

theorem sides_of_wbWrite {sp : BitVec 4} {a v : Word} {pu : Purpose} {b : Bool} {t : State}
    (h : wbWrite e sp a v pu s = (b, t)) : sides t.port = sides s.port := by
  rw [← sides_wbWrite e s sp a v pu, h]

@[simp] theorem sides_statusWrite : sides (statusWrite e s).port = sides s.port := by
  unfold statusWrite
  dsimp only
  split
  · split
    next h => exact sides_of_wbWrite e s h
    next h => exact (sides_wbWrite ..).trans (sides_of_wbWrite e s h)
  · exact sides_wbWrite ..

@[simp] theorem sides_destBurst (m : Move) (d : List Byte) : sides (destBurst e m d s).port = sides s.port := by
  unfold destBurst
  dsimp only
  split
  next h => simpa using sides_of_engWrite _ _ h
  next h => simpa using sides_of_engWrite _ _ h
  next h => simpa using sides_of_engWrite _ _ h

@[simp] theorem sides_yieldOrNext : sides (yieldOrNext e s).port = sides s.port := by
  unfold yieldOrNext
  dsimp only
  split <;> simp

@[simp] theorem sides_finishComplete : sides (finishComplete e s).port = sides s.port := by
  unfold finishComplete
  dsimp only
  split
  · exact sides_wbFault ..
  split
  next h => exact sides_of_wbWrite e s h
  next h =>
    have hw := sides_of_wbWrite e s h
    repeat' split
    all_goals simpa using hw

@[simp] theorem sides_mainRound : sides (mainRound e s).port = sides s.port := by
  unfold mainRound
  repeat' split
  all_goals simp

/-! #### The end of a program, and of a move -/

@[simp] theorem sides_endDirect (code : Byte) (noNotify : Bool) :
    sides (endDirect e code noNotify s).port = sides s.port := by
  unfold endDirect
  dsimp only
  split <;> simp

@[simp] theorem sides_beginComplete (code : Byte) (next : Word × BitVec 4) :
    sides (beginComplete e code next s).port = sides s.port := by
  simp [beginComplete]

@[simp] theorem sides_endDescr (code : Byte) : sides (endDescr e code s).port = sides s.port := by
  unfold endDescr
  dsimp only
  repeat' split
  all_goals simp

@[simp] theorem sides_failInstr (code : Byte) : sides (failInstr e code s).port = sides s.port := by
  unfold failInstr
  split <;> simp

@[simp] theorem sides_retire (n : Nat) : sides (retire e n s).port = sides s.port := by
  unfold retire endProgram
  dsimp only
  repeat' split
  all_goals simp

@[simp] theorem sides_retireMove : sides (retireMove e s).port = sides s.port := by
  unfold retireMove
  split <;> simp

@[simp] theorem sides_settleMove : sides (settleMove e s).port = sides s.port := by
  unfold settleMove
  dsimp only
  repeat' split
  all_goals simp

@[simp] theorem sides_paceRelease : sides (paceRelease e s).port = sides s.port := by
  unfold paceRelease
  dsimp only
  have hwatch : ∀ (p : Nat) (w : Watch) (t : State),
      sides (modPort p (fun q => { q with watch := q.watch ++ [w] }) t).port = sides t.port := fun p w t =>
    sides_modPort (fun q => by rfl) p t
  repeat' split
  all_goals simp [hwatch]

@[simp] theorem sides_drainN (n : Nat) : sides (drainN e n s).port = sides s.port := by
  induction n generalizing s with
  | zero => rfl
  | succ n ih =>
    rw [drainN]
    dsimp only
    repeat' split
    · simp
    · simp
    · simp
    next h => simp [ih, port_of_sramStaged h]
    next h _ => simp [flush64, port_of_sramStaged h]
    next h _ => simp [ih, flush64, port_of_sramStaged h]

end

end Sys2Proof.Machine

namespace Sys2Proof.Machine

/-! ### What the reads of an engine do to the ports -/

/-- From s to t no level changes, and no link that is ACTIVE leaves that state. -/
structure SidesKept (s t : State) : Prop where
  filli : ∀ p, (getPort t p).filli = (getPort s p).filli
  fillo : ∀ p, (getPort t p).fillo = (getPort s p).fillo
  awake : ∀ p, (getPort s p).pwr = 0 → (getPort t p).pwr = 0

section
variable {s t u : State}

theorem SidesKept.refl (s : State) : SidesKept s s := ⟨fun _ => rfl, fun _ => rfl, fun _ h => h⟩

theorem SidesKept.trans (h : SidesKept s t) (k : SidesKept t u) : SidesKept s u :=
  ⟨fun p => (k.filli p).trans (h.filli p), fun p => (k.fillo p).trans (h.fillo p), fun p hp => k.awake p (h.awake p hp)⟩

theorem SidesKept.of_sides (h : sides t.port = sides s.port) : SidesKept s t := by
  have hp : ∀ p, sideState (getPort t p) = sideState (getPort s p) := congrFun h
  simp only [sideState, Prod.mk.injEq] at hp
  exact ⟨fun p => (hp p).1, fun p => (hp p).2.1, fun p h => (hp p).2.2.trans h⟩

theorem sidesKept_forAll {α : Type} (l : List α) (f : α → State → State) (h : ∀ x u, SidesKept u (f x u)) (s : State) :
    SidesKept s (forAll l f s) :=
  forAll_ind (SidesKept s) l f (fun x u hu => hu.trans (h x u)) s (.refl s)

end

theorem sidesKept_sendLane (p : Nat) (ts : List Token) (s : State) : SidesKept s (sendLane p ts s) := by
  have h : ∀ q, q ≠ p → getPort (sendLane p ts s) q = getPort s q := fun q hq => getPort_sendLane_of_ne p q s hq ts
  have hp := (getPort_sendLane p s ts).trans (by rw [getPort_stir, stirred])
  refine ⟨fun q => ?_, fun q => ?_, fun q => ?_⟩
  all_goals
    by_cases hq : q = p
    · simp [hq, hp]
    · simp [h q hq]

theorem sidesKept_sendNext {k : Nat} {s t : State} (h : sendNext k s = some t) : SidesKept s t := by
  obtain ⟨ts, rwait, r, rfl⟩ := sendNext_spec h
  exact (SidesKept.of_sides (sides_modPort (by intro; rfl) k s)).trans (sidesKept_sendLane k ts _)

theorem sidesKept_portPump (k : Nat) (s : State) : SidesKept s (portPump k s) :=
  portPump_ind (SidesKept s) (fun _ _ h hu => hu.trans (sidesKept_sendNext h)) (.refl s)

theorem sidesKept_portRead (k : Nat) (r : PortRead) (s : State) : SidesKept s (portRead k r s) :=
  SidesKept.trans (s := s) (.of_sides (sides_modPort (by intro; rfl) k (wakeIsl (islPort k) s)))
    (sidesKept_portPump ..)

theorem sidesKept_sendRead (r : RdReq) (v : Verdict) (s : State) : SidesKept s (sendRead r v s) := by
  unfold sendRead
  split
  · exact .of_sides rfl
  · exact sidesKept_portRead ..
  · exact .of_sides rfl
  · exact .of_sides (congrArg sides (port_hostRead ..))

theorem sidesKept_issueRead (r : RdReq) (s : State) : SidesKept s (issueRead r s).2 := by
  unfold issueRead issueReadBy
  dsimp only
  split
  · exact .refl s
  split
  · exact .refl s
  split
  · split
    · split
      · exact .refl s
      · exact sidesKept_sendRead ..
    · exact .refl s
  split
  · exact .of_sides rfl
  split
  · exact .refl s
  · exact sidesKept_sendRead ..

theorem sidesKept_engRead (e : Nat) (r : RdReq) (s : State) : SidesKept s (engRead e r s).2 :=
  (sidesKept_issueRead r s).trans (.of_sides (congrArg sides (port_xCount (port_xEngRead e) _)))

theorem sidesKept_of_engRead {e : Nat} {r : RdReq} {s t : State} {i : Iss} (h : engRead e r s = (i, t)) :
    SidesKept s t := by
  have hr := sidesKept_engRead e r s
  rwa [h] at hr

section
variable (e : Nat) (s : State)

theorem sidesKept_fetchList : SidesKept s (fetchList e s) := by
  unfold fetchList
  split
  · exact .refl s
  split
  · exact .refl s
  split
  · exact .refl s
  split
  next h => exact (sidesKept_of_engRead h).trans (.of_sides rfl)
  next h => exact (sidesKept_of_engRead h).trans (.of_sides rfl)
  next h => exact (sidesKept_of_engRead h).trans (.of_sides rfl)
  next h =>
    split
    · exact sidesKept_of_engRead h
    · exact (sidesKept_of_engRead h).trans (.of_sides rfl)
  next h => exact sidesKept_of_engRead h

theorem sidesKept_listStep : SidesKept s (listStep e s) := by
  unfold listStep
  dsimp only
  refine SidesKept.trans (SidesKept.of_sides ?_) (sidesKept_fetchList e _)
  split <;> simp

theorem sidesKept_instrRound : SidesKept s (instrRound e s) := by
  unfold instrRound
  dsimp only
  split
  · exact (sidesKept_listStep e s).trans (.of_sides (by simp [flushMove]))
  all_goals
    refine .of_sides ?_
    repeat' split
    all_goals simp

theorem sidesKept_engRound : SidesKept s (engRound e s) :=
  (sidesKept_instrRound e s).trans (.of_sides (sides_mainRound ..))

theorem sidesKept_engStep : SidesKept s (engStep e s) := by
  unfold engStep
  split
  · exact .refl s
  · exact (((sidesKept_engRound e s).trans (sidesKept_engRound ..)).trans (sidesKept_engRound ..)).trans
      (sidesKept_engRound ..)

theorem sidesKept_engAfter : SidesKept s (engAfter e s) := by
  refine (sidesKept_engStep e s).trans (.of_sides ?_)
  rw [engAfter, port_barrierStep, sides_fnStopTry]

theorem sidesKept_repace : SidesKept s (repace e s) := by
  unfold repace
  dsimp only
  split
  · split
    · exact .of_sides rfl
    · refine SidesKept.trans ?_ (sidesKept_engAfter ..)
      exact .of_sides (by simp)
  split
  · refine SidesKept.trans ?_ (sidesKept_engAfter ..)
    exact .of_sides (by simp)
  · exact .refl s

end

theorem sidesKept_wakeWatch (p : Nat) (f : Watch → Bool) (s : State) : SidesKept s (wakeWatch p f s) := .of_sides rfl

/-- What a new level sets going leaves the levels, and the links awake (R181, R182). -/
theorem sidesKept_newLevel (p : Nat) (s : State) : SidesKept s (newLevel p s) := by
  unfold newLevel
  dsimp only
  split
  · exact sidesKept_wakeWatch ..
  · exact (sidesKept_wakeWatch ..).trans (sidesKept_forAll _ repace sidesKept_repace _)

/-! ### Sideband bytes (R300 to R303, R308) -/

section
variable {s : State} {p : Nat} (ho : sideOpen s p = true)
include ho

theorem exec_filli (v : BitVec 6) : exec (.filli p v) s =
    .next (newLevel p (modPort p (fun k => { k with filli := v }) (portEvent p s))) := if_neg (by simp [ho])

theorem exec_fillo (v : BitVec 6) : exec (.fillo p v) s =
    .next (newLevel p (modPort p (fun k => { k with fillo := v }) (portEvent p s))) := if_neg (by simp [ho])

theorem exec_classByte_of_class {x : ClassByte} (hv : (getPort s p).ver ≠ 1) (hx : fld x.payload 4 2 = 0) :
    exec (.classByte p x) s = .next (modPort p (fun k => { k with
      cls := bits x.payload 0 4, clsSeen := true, xferCls := if x.inTransfer then some (xferClass s p) else none })
      (portEvent p s)) :=
  (if_neg (by simp [ho])).trans (if_neg (by simpa [hx] using hv))

theorem exec_classByte_of_error {x : ClassByte} (h : (getPort s p).ver = 1 ∨ fld x.payload 4 2 ≠ 0) :
    exec (.classByte p x) s = .next (addProto p (portEvent p s)) :=
  (if_neg (by simp [ho])).trans (if_pos (by simpa using h))

theorem exec_brkMarker_of_between (hv : (getPort s p).ver = 3) : exec (.brkMarker p false) s =
    .next (modPort p (fun k => { k with inq := markLast k.inq }) (portEvent p s)) :=
  (if_neg (by simp [ho])).trans (if_neg (by simp [hv]))

theorem exec_brkMarker_of_error {b : Bool} (h : (getPort s p).ver ≠ 3 ∨ b = true) :
    exec (.brkMarker p b) s = .next (addProto p (portEvent p s)) :=
  (if_neg (by simp [ho])).trans (if_pos (by simpa using h))

theorem exec_ignoredSidebandByte_of_ignored {b : Byte} (h : byteIgnored (getPort s p).ver b = true) :
    exec (.ignoredSidebandByte p b) s = .next (addProto p (portEvent p s)) :=
  if_neg (by simp [ho, h])

end

theorem getPort_portEvent (p : Nat) (s : State) : (getPort (portEvent p s) p).pwr = 0 ∧
    (getPort (portEvent p s) p).filli = (getPort s p).filli ∧ (getPort (portEvent p s) p).fillo = (getPort s p).fillo := by
  rw [portEvent, getPort_stir]
  exact ⟨rfl, rfl, rfl⟩

/-! ### Power states (R306, R307) -/

section
variable {s : State} {p ns : Nat} {deep : BitVec 2} (hl : live s = true) (hc : s.pf.cut = false)
  (ht : tested s (islPort p) = false)

include hl hc ht in
theorem pwrDue_of_quiet (hu : (getPort s p).lstate = .up) (hs : (getPort s p).sending = none)
    (hd : (getPort s p).pwr < deep) (hm : deep ≤ pwrmaxOf s p) (hn : ns ≠ 0)
    (hq : ns ≤ (s.time - (getPort s p).lastAct).toNat) : pwrDue s p ns deep = true := by
  simp only [pwrDue, drives, hl, hc, ht, hu, hs, decide_eq_true hd, decide_eq_true hm, decide_eq_true hq, bne_iff_ne.2 hn]
  rfl

/-- An announcement changes the power state and the time its byte was sent alone: it is no traffic (log entry 27). -/
theorem getPort_announce (p : Nat) (b : Byte) (deep : BitVec 2) (s : State) : getPort (announce p b deep s) p =
    { getPort s p with pwr := deep, sideAt := some (reqFrom s.time (getPort (stir p s) p)) } := by
  rw [announce, getPort_modPort, if_pos rfl, getPort_sendOs, getPort_stir]
  rfl

theorem getPort_announce_of_ne {p q : Nat} (h : q ≠ p) (b : Byte) (deep : BitVec 2) (s : State) :
    getPort (announce p b deep s) q = getPort s q := by
  rw [announce, getPort_modPort, if_neg h, getPort_sendOs_of_ne p q s h]

theorem os_announce (p : Nat) (b : Byte) (deep : BitVec 2) (s : State) :
    (announce p b deep s).out.os = s.out.os ++ [(p, b, oddParity b)] := os_sendOs p s b

/-- A change of a port is told by what it makes of that port. -/
theorem modPort_congr {f g : Port → Port} {p : Nat} {s : State} (h : f (getPort s p) = g (getPort s p)) :
    modPort p f s = modPort p g s := by
  simp only [modPort, tmod]
  rw [getPort] at h
  rw [h]

/-- A token or a byte wakes a link, once its cluster is awake, for the wake time of its state (R15, R307). -/
theorem portEvent_of_asleep (h : (getPort s p).pwr ≠ 0) : portEvent p s =
    modPort p (fun k => { k with
      pwr := 0, lastAct := s.time
      awakeAt := (getIsl (wakeIsl (islPort p) s) (islPort p)).awakeAt + w64 (wakeNs k.pwr) }) (wakeIsl (islPort p) s) := by
  refine modPort_congr ?_
  rw [getPort_wakeIsl, stirred, if_neg (by simpa using h)]
  rfl

include hl ht in
theorem exec_linkWake_of_asleep (h : (getPort s p).pwr ≠ 0) : exec (.linkWake p) s = .next (portEvent p s) :=
  if_pos (by simpa [hl, ht] using h)

theorem exec_linkWake_of_active (h : (getPort s p).pwr = 0) : exec (.linkWake p) s = .next s :=
  if_neg (by simp [h])

end

/-- Settles O34. First the sideband bytes, then the power states. -/
theorem portSidebands : Obligations.PortSidebands := by
  refine ⟨fun s p ho => ?_, fun s p hl hc ht => ?_⟩
  · obtain ⟨hpwr, hfilli, hfillo⟩ := getPort_portEvent p s
    refine ⟨fun v => ⟨_, exec_filli ho v, ?_⟩, fun v => ⟨_, exec_fillo ho v, ?_⟩, fun x => exec_classByte_of_class ho,
      fun x => exec_classByte_of_error ho, exec_brkMarker_of_between ho, fun b => exec_brkMarker_of_error ho,
      fun b => exec_ignoredSidebandByte_of_ignored ho⟩
    · have hk := sidesKept_newLevel p (modPort p (fun k => { k with filli := v }) (portEvent p s))
      exact ⟨(hk.filli p).trans (by simp), (hk.fillo p).trans (by simp [hfillo]), hk.awake p (by simp [hpwr]), by simp⟩
    · have hk := sidesKept_newLevel p (modPort p (fun k => { k with fillo := v }) (portEvent p s))
      exact ⟨(hk.fillo p).trans (by simp), (hk.filli p).trans (by simp [hfilli]), hk.awake p (by simp [hpwr]), by simp⟩
  · refine ⟨fun hu hs hd hm hn hq => if_pos (pwrDue_of_quiet hl hc ht hu hs hd hm hn hq),
      fun hu hs hd hm hn hq => ⟨_, if_pos (pwrDue_of_quiet hl hc ht hu hs hd hm hn hq), getPort_announce .., ?_,
        fun q hq => getPort_announce_of_ne hq .., durable_announce ..⟩,
      fun hu hs hd hm hn hq => ⟨_, if_pos (pwrDue_of_quiet hl hc ht hu hs hd hm hn hq), getPort_announce .., ?_,
        fun q hq => getPort_announce_of_ne hq .., durable_announce ..⟩,
      fun h => ?_, exec_linkWake_of_active⟩
    · rw [os_announce]
      rfl
    · rw [os_announce]
      rfl
    · rw [exec_linkWake_of_asleep hl ht h, portEvent_of_asleep h]

end Sys2Proof.Machine

namespace Sys2Proof.Machine

/-! ### Enable and disable (R332) -/

section
variable {s : State} {r : Requester} {i : Nat}

/-- A command that firmware gives to a table is not refused. -/
theorem tableCommand_taken (hl : live s = true) (hf : isFirmware r = true) (hi : i < 16) :
    ¬ (!live s || !isFirmware r || decide (16 ≤ i)) = true := by
  simpa [hl, hf] using hi

theorem exec_tableEnable (hl : live s = true) (hf : isFirmware r = true) (hi : i < 16) :
    exec (.tableEnable r i) s = .next (enableTable i (access r s)) :=
  if_neg (tableCommand_taken hl hf hi)

theorem exec_tableDisable (hl : live s = true) (hf : isFirmware r = true) (hi : i < 16) :
    exec (.tableDisable r i) s = .next (disableTable i (access r s)) :=
  if_neg (tableCommand_taken hl hf hi)

theorem enableTable_of_enabled (h : (getInst s i).en = true) : enableTable i s = s := if_pos h

theorem getInst_enableTable (h : (getInst s i).en = false) : getInst (enableTable i s) i =
    { getInst s i with
      en := true, st := .init, act := false, agecnt := 0, gen := 1, tickAt := s.time, sweep := 0, armed := false
      mirroring := false, retiredAt := if (getInst s i).act then some s.time else (getInst s i).retiredAt } := by
  rw [enableTable, if_neg (by simp [h]), getInst_modInst, if_pos rfl]
  rfl

theorem getInst_disableTable (h : (getInst s i).en = true) : getInst (disableTable i s) i =
    { getInst s i with
      en := false, st := .off, armed := false, mirroring := false
      relocating := (getInst s i).relocating.map (fun r => { r with mirror := false }) } := by
  rw [disableTable, if_neg (by simp [h]), getInst_abandonRebuild, getInst_modInst, if_pos rfl]
  rfl

end

/-! ### Zeroing an epoch (R332 step 2, R334 step 2) -/

@[simp] theorem tsv_xTsvMany (write : Bool) (a : Word) (n count : Nat) (s : State) :
    (xTsvMany write a n count s).tsv = s.tsv := by
  unfold xTsvMany
  dsimp only
  split
  · rfl
  · rw [tsv_xpresentAll, tsv_xpresentAll]
    rfl

/-- An epoch with no entry in it. -/
def emptied (ep : Epoch) : Epoch := { ep with ways := [], stash := [] }

theorem epochOf_modEp_self (e : Bool) (f : Epoch → Epoch) (x : Inst) : epochOf (modEp e f x) e = f (epochOf x e) := by
  cases e <;> rfl

theorem epochOf_not_modEp (e : Bool) (f : Epoch → Epoch) (x : Inst) : epochOf (modEp e f x) (!e) = epochOf x (!e) := by
  cases e <;> rfl

theorem getInst_zeroEpoch {s : State} {i : Nat} {e : Bool}
    (hways : regionDenied s .wr (arrayBase (epochOf (getInst s i) e)) (128 * 2 ^ (epochOf (getInst s i) e).log2b.toNat) 256 = none)
    (hstash : regionDenied s .wr (stashAddr (epochOf (getInst s i) e) 0).toNat 8192 256 = none) :
    getInst (zeroEpoch i e s) i = modEp e emptied (getInst s i) := by
  unfold zeroEpoch
  dsimp only
  rw [hways, hstash]
  dsimp only [HOrElse.hOrElse, OrElse.orElse, Option.orElse]
  rw [getInst_of_tsv (tsv_xTsvMany ..), getInst_of_tsv (tsv_xTsvMany ..), getInst_modInst, if_pos rfl]
  rfl

/-! ### INIT (R332) -/

section
variable {s : State} {i : Nat} {resp : MResp}

theorem exec_tableInitDone_of_workLeft (h : workLeft s i = true) :
    exec (.tableInitDone { inst := i, resp := resp }) s = .next s :=
  if_pos (by simp [h])

/-- Epoch 0 has been zeroed: an error among the answers is a fault, or the header is written, and unless that is denied the
table runs. -/
theorem exec_tableInitDone (hm : tsvMay s = true) (hst : (getInst s i).st = .init) (hw : workLeft s i = false)
    (hz : (getInst (zeroEpoch i false s) i).st = .init) :
    exec (.tableInitDone { inst := i, resp := resp }) s =
      let z := zeroEpoch i false s
      if (resp != .ok) = true then .next (tsvFault i (wayAddr (getInst z i).ep0 0) z)
      else if ((getInst (writeHeader i z) i).st == .init) = true then
        .next (modInst i (fun x => { x with st := .run }) (writeHeader i z))
      else .next (writeHeader i z) :=
  (if_neg (by simp [hm, hst, hw])).trans (if_neg (by simp [hz]))

end

/-! ### Rebuild and its copy pass (R334) -/

section
variable {s : State} {i : Nat} {resp : MResp}

/-- The shadow epoch has been zeroed. -/
theorem exec_rebuildZero (hm : tsvMay s = true) (hst : (getInst s i).st = .rebuild) (hmir : (getInst s i).mirroring = false)
    (hc : (getInst s i).copydone = false) (hh : holdOver s (getInst s i) = true)
    (hz : (getInst (zeroEpoch i (!(getInst s i).act) s) i).st = .rebuild) :
    exec (.rebuildZero { inst := i, resp := resp }) s =
      let z := zeroEpoch i (!(getInst s i).act) s
      if (resp != .ok) = true then .next (tsvFault i (wayAddr (epochOf (getInst s i) !(getInst s i).act) 0) z)
      else .next (modInst i (fun x => { x with mirroring := true, copyAt := 0 }) z) :=
  (if_pos (by simp [hm, hst, hmir, hc, hh])).trans (if_neg (by simp [hz]))

/-- The pass has gone as far as it can, and has presented its reads. -/
def copied (i : Nat) (s : State) : State :=
  let x := getInst s i
  let pass := copyPass i (epochEntries (activeEp x)) s
  let next := if pass.1 = true then copyLast x else (getInst pass.2 i).copyAt
  copyReads x x.copyAt next (modInst i (fun x => { x with copyAt := next }) pass.2)

/-- It has visited everything, and no relocation is left. -/
def copyOver (i : Nat) (s : State) : Prop :=
  (copyPass i (epochEntries (activeEp (getInst s i))) s).1 = true ∧ (getInst (copied i s) i).st = .rebuild ∧
    (getInst (copied i s) i).relocating = []

section
variable (hm : tsvMay s = true) (hst : (getInst s i).st = .rebuild) (hmir : (getInst s i).mirroring = true)
  (hc : (getInst s i).copydone = false)
include hm hst hmir hc

theorem exec_copydone_of_denied {a n : Nat} (hd : copyDenied s (getInst s i) = some (a, n)) :
    exec (.copydone { inst := i, resp := resp }) s = .next (regionFault i .rd n a s) := by
  refine (if_pos (by simp [hm, hst, hmir, hc])).trans ?_
  simp only [hd]

theorem exec_copydone_of_failed (hd : copyDenied s (getInst s i) = none) (hr : resp ≠ .ok) :
    exec (.copydone { inst := i, resp := resp }) s =
      .next (tsvFault i (wayAddr (activeEp (getInst s i)) ((getInst s i).copyAt / 4 * 4)) s) := by
  refine (if_pos (by simp [hm, hst, hmir, hc])).trans ?_
  simp only [hd]
  exact if_pos (by simpa using hr)

theorem exec_copydone_of_read (hd : copyDenied s (getInst s i) = none) :
    exec (.copydone { inst := i, resp := .ok }) s =
      if ((copyPass i (epochEntries (activeEp (getInst s i))) s).1 && (getInst (copied i s) i).st == .rebuild &&
        (getInst (copied i s) i).relocating.isEmpty) = true then .next (copyEnds i (copied i s)) else .next (copied i s) := by
  refine (if_pos (by simp [hm, hst, hmir, hc])).trans ?_
  simp only [hd]
  rfl

end

theorem copyOver_iff : copyOver i s ↔ ((copyPass i (epochEntries (activeEp (getInst s i))) s).1 &&
    (getInst (copied i s) i).st == .rebuild && (getInst (copied i s) i).relocating.isEmpty) = true := by
  simp [copyOver, and_assoc]

theorem tsv_forAll_tsvAnswerTo (l : List Nat) (a : TableAnswer) (s : State) :
    (forAll l (fun e s => tsvAnswerTo e a s) s).tsv = s.tsv :=
  forAll_ind (fun t => t.tsv = s.tsv) l (fun e s => tsvAnswerTo e a s) (fun _ _ h => h) s rfl

/-- The end of the pass: COPYDONE, and the swap that a TEPO ARM waits for. -/
theorem getInst_copyEnds (i : Nat) (u : State) : getInst (copyEnds i u) i =
    let t := tsvEvent { type := 4, inst := i } (modInst i (fun x => { x with copydone := true }) u)
    { getInst u i with copydone := true, armed := if (armWaiters t i).isEmpty then (getInst u i).armed else true } := by
  unfold copyEnds
  dsimp only
  rw [getInst_of_tsv (tsv_forAll_tsvAnswerTo ..)]
  split <;> simp only [getInst_modInst, getInst_tsvEvent, if_true]

end

/-! ### Faults, and TEVRD (R331, R333) -/

theorem tsvFault_of_ended {s : State} {i : Nat} (h : (getInst s i).st = .fault ∨ (getInst s i).st = .off) (a : Word) :
    tsvFault i a s = s :=
  if_pos (by simpa using h)

theorem exec_tevrdWrite {s : State} {r : Requester} (hl : live s = true) (hf : isFirmware r = true) (v : Half) :
    exec (.tevrdWrite r v) s = .next (writeTevrd v (access r s)) :=
  if_neg (by simp [hl, hf])

/-- Settles O37, by the command that moves the table on. -/
theorem tableLifecycle : Obligations.TableLifecycle := by
  refine fun s r i => ⟨fun hl hf hi hen => ?_, fun hl hf hi hen => ?_, fun hl hf hi hen => ?_,
    fun resp hm hst => ⟨exec_tableInitDone_of_workLeft, fun hw hz => ?_⟩, fun resp hm hst hmir hc hh hz => ?_,
    fun resp hm hst hmir hc => ⟨fun a n hd => exec_copydone_of_denied hm hst hmir hc hd,
      fun hd hr => exec_copydone_of_failed hm hst hmir hc hd hr, fun hd hr hends => ?_, fun hd hr hends => ?_⟩,
    fun u => ?_, fun a => ⟨fun h => tsvFault_of_ended h a, fun hnf hno => ?_⟩, fun e hways hstash => ?_,
    fun hl hf v => ?_⟩
  · have h := getInst_enableTable (s := access r s) (by rwa [getInst_access])
    refine ⟨_, exec_tableEnable hl hf hi, ?_⟩
    rw [h, getInst_access]
    exact ⟨rfl, rfl, rfl, rfl, rfl, rfl⟩
  · rw [exec_tableEnable hl hf hi, enableTable_of_enabled (by rwa [getInst_access])]
  · have h := getInst_disableTable (s := access r s) (by rwa [getInst_access])
    refine ⟨_, exec_tableDisable hl hf hi, ?_⟩
    rw [h, getInst_access]
    exact ⟨rfl, rfl, rfl, rfl, rfl, rfl⟩
  · rw [exec_tableInitDone hm hst hw hz]
    refine ⟨fun hr => if_pos (by simpa using hr), fun hr hrun => ?_, fun hr hdenied => ?_⟩ <;> subst hr
    · exact (if_neg (by decide)).trans (if_pos (by simpa using hrun))
    · exact (if_neg (by decide)).trans (if_neg (by simpa using hdenied))
  · rw [exec_rebuildZero hm hst hmir hc hh hz]
    exact ⟨fun hr => if_neg (by simp [hr]), fun hr => if_pos (by simpa using hr)⟩
  · subst hr
    rw [exec_copydone_of_read hm hst hmir hc hd]
    exact if_neg (mt copyOver_iff.2 hends)
  · subst hr
    rw [exec_copydone_of_read hm hst hmir hc hd]
    exact if_pos (copyOver_iff.1 hends)
  · rw [getInst_copyEnds]
    exact ⟨rfl, fun h => if_neg (by simpa using h)⟩
  · simp only [getInst_tsvFault, if_neg (not_or.2 ⟨hnf, hno⟩)]
    exact ⟨rfl, rfl, rfl, rfl, rfl, rfl⟩
  · rw [getInst_zeroEpoch hways hstash, epochOf_modEp_self, epochOf_not_modEp, modEp_st]
    exact ⟨rfl, rfl, rfl, rfl⟩
  · rw [exec_tevrdWrite hl hf, writeTevrd]
    exact ⟨fun h => congrArg _ (if_pos h), fun h => congrArg _ (if_neg (by omega))⟩

end Sys2Proof.Machine

namespace Sys2Proof.Machine

/-! ### The fields of an entry (R314) -/

theorem getLsbD_put (w : Nat) {n : Nat} (x : BitVec n) (lo i : Nat) :
    (put w x lo).getLsbD i = (decide (i < w) && decide (lo ≤ i) && x.getLsbD (i - lo)) := by
  simp only [put, BitVec.getLsbD_shiftLeft, BitVec.truncate_eq_setWidth, BitVec.getLsbD_setWidth, ← not_le, decide_not]
  by_cases hi : w ≤ i
  · simp [hi]
  · have hsub : ¬ w ≤ i - lo := by omega
    by_cases hlo : lo ≤ i <;> simp [hi, hlo, hsub]

theorem getLsbD_putb (w : Nat) (b : Bool) (lo i : Nat) :
    (putb w b lo).getLsbD i = (decide (i < w) && decide (i = lo) && b) := by
  cases b
  · simp [putb]
  · by_cases hi : i < w <;> by_cases hlo : i = lo <;> simp [putb, hi, hlo] <;> omega

theorem getLsbD_bits {w : Nat} (x : BitVec w) (lo n i : Nat) :
    (bits x lo n).getLsbD i = (decide (i < n) && x.getLsbD (lo + i)) := by
  rw [bits, BitVec.getLsbD_extractLsb']

/-- The port of an entry stands in ten bits. -/
theorem w64_port (port : Nat) : w64 (port % 1024 * 2 ^ 48) = put 64 (BitVec.ofNat 10 port) 48 := by
  apply BitVec.eq_of_toNat_eq
  simp [w64, put, Nat.shiftLeft_eq]

theorem bits_eq_iff {w n : Nat} {x : BitVec w} {lo : Nat} {y : BitVec n} :
    bits x lo n = y ↔ ∀ i < n, x.getLsbD (lo + i) = y.getLsbD i := by
  refine ⟨fun h i hi => ?_, fun h => BitVec.eq_of_getLsbD_eq fun i hi => ?_⟩
  · rw [← h, getLsbD_bits, decide_eq_true hi, Bool.true_and]
  · rw [getLsbD_bits, decide_eq_true hi, Bool.true_and, h i hi]

section
variable (id : Half) (age : BitVec 16) (port : Nat) (ch : Bool) (vlo : Word) (vhi : Half) (ltime : Half) (uflags : Byte)

theorem getLsbD_newEntry_w0 (i : Nat) : (newEntry id age port ch vlo vhi ltime uflags).w0.getLsbD i =
    (id.getLsbD i || (decide (32 ≤ i) && age.getLsbD (i - 32)) ||
      (decide (48 ≤ i) && (BitVec.ofNat 10 port).getLsbD (i - 48)) || (decide (i = 58) && ch) || decide (i = 63)) := by
  by_cases hi : i < 64
  · simp only [newEntry, w64_port, BitVec.getLsbD_or, getLsbD_put, getLsbD_putb, hi]
    simp
  · have h1 : 32 ≤ i := by omega
    have h2 : 16 ≤ i - 32 := by omega
    have h3 : 10 ≤ i - 48 := by omega
    rw [BitVec.getLsbD_of_ge _ _ (by omega), BitVec.getLsbD_of_ge _ _ h1, BitVec.getLsbD_of_ge _ _ h2,
      BitVec.getLsbD_of_ge _ _ h3]
    have h4 : i ≠ 58 := by omega
    have h5 : i ≠ 63 := by omega
    simp [h4, h5]

theorem fields_newEntry :
    let y := newEntry id age port ch vlo vhi ltime uflags
    entValid y = true ∧ entId y = id ∧ entAge y = age ∧ entPort y = port % 1024 ∧ entCh y = ch ∧ y.w1 = vlo ∧
      bits y.w2 0 32 = vhi ∧ entLtime y = ltime ∧ bits y.w3 0 8 = uflags := by
  refine ⟨?_, bits_eq_iff.2 fun i hi => ?_, bits_eq_iff.2 fun i hi => ?_, ?_, ?_, rfl, bits_eq_iff.2 fun i hi => ?_,
    bits_eq_iff.2 fun i hi => ?_, bits_eq_iff.2 fun i hi => ?_⟩
  · rw [entValid, bit, getLsbD_newEntry_w0]
    simp
  · rw [getLsbD_newEntry_w0]
    simp [show ¬ 32 ≤ i by omega, show ¬ 48 ≤ i by omega, show i ≠ 58 by omega, show i ≠ 63 by omega]
  · rw [getLsbD_newEntry_w0, BitVec.getLsbD_of_ge id _ (by omega)]
    simp [show ¬ 48 ≤ 32 + i by omega, show 32 + i ≠ 58 by omega, show 32 + i ≠ 63 by omega]
  · refine (congrArg BitVec.toNat (bits_eq_iff.2 fun i hi => ?_)).trans (BitVec.toNat_ofNat port 10)
    rw [getLsbD_newEntry_w0, BitVec.getLsbD_of_ge id _ (by omega), BitVec.getLsbD_of_ge age _ (by omega)]
    simp [show 48 + i ≠ 58 by omega, show 48 + i ≠ 63 by omega]
  · rw [entCh, bit, getLsbD_newEntry_w0]
    simp
  all_goals simp only [newEntry, BitVec.getLsbD_or, getLsbD_put]
  · simp [show ¬ 32 ≤ i by omega, show i < 64 by omega]
  · rw [BitVec.getLsbD_of_ge vhi _ (by omega)]
    simp [show 32 + i < 64 by omega]
  · simp [show i < 64 by omega]

end

/-- A touch replaces the sixteen bits of the age (R326). -/
theorem getLsbD_touched_w0 (age : BitVec 16) (z : Entry) (i : Nat) :
    (touched age z).w0.getLsbD i = if 32 ≤ i ∧ i < 48 then age.getLsbD (i - 32) else z.w0.getLsbD i := by
  have hmask : (0x0000FFFF00000000 : Word) = put 64 (BitVec.allOnes 16) 32 := rfl
  simp only [touched, masked, hmask, BitVec.getLsbD_or, BitVec.getLsbD_and, BitVec.getLsbD_not, getLsbD_put,
    BitVec.getLsbD_allOnes]
  by_cases hi : i < 64
  · by_cases hlo : 32 ≤ i <;> by_cases hhi : i < 48 <;> simp [hi, hlo, hhi, show i - 32 < 16 ↔ i < 48 by omega]
  · rw [if_neg (by omega), BitVec.getLsbD_of_ge z.w0 _ (by omega)]
    simp [hi]

theorem fields_touched (age : BitVec 16) (z : Entry) : entAge (touched age z) = age ∧ entValid (touched age z) = entValid z ∧
    entId (touched age z) = entId z ∧ entPort (touched age z) = entPort z ∧ entCh (touched age z) = entCh z := by
  refine ⟨bits_eq_iff.2 fun i hi => ?_, ?_, bits_eq_iff.2 fun i hi => ?_, ?_, ?_⟩
  · rw [getLsbD_touched_w0, if_pos (by omega), Nat.add_sub_cancel_left]
  · rw [entValid, bit, getLsbD_touched_w0, if_neg (by decide), entValid, bit]
  · rw [getLsbD_touched_w0, if_neg (by omega), entId, getLsbD_bits, decide_eq_true hi, Bool.true_and]
  · refine congrArg BitVec.toNat (bits_eq_iff.2 fun i hi => ?_ : bits (touched age z).w0 48 10 = bits z.w0 48 10)
    rw [getLsbD_touched_w0, if_neg (by omega), getLsbD_bits, decide_eq_true hi, Bool.true_and]
  · rw [entCh, bit, getLsbD_touched_w0, if_neg (by decide), entCh, bit]

end Sys2Proof.Machine

namespace Sys2Proof.Machine

/-! ### A record is taken up (R321, R323, R326) -/

/-- What a record of its kind does to the table once its bucket is read. -/
def applierOf (r : Record) : Record → State → State := if r.touch then applyTouch else applyLearn

theorem applierOf_apply (r : Record) (s : State) :
    applierOf r r s = if r.touch then applyTouch r s else applyLearn r s := by
  unfold applierOf
  split <;> rfl

section
variable {s : State} {r : Record} {rest : List Record} {i : Nat} {ep : Epoch} {id : Half} {rd : MResp}

/-- The command for the kind of the oldest record. -/
theorem exec_record (hm : tsvMay s = true) (rd : MResp) :
    exec (if r.touch then .touch rd else .learn rd) s =
      .next (takeUp r.touch rd (applierOf r) s) := by
  have hgo : ¬ (!tsvMay s) = true := by simp [hm]
  unfold applierOf
  cases r.touch
  · exact if_neg hgo
  · exact if_neg hgo

theorem takeUp_of_busy {k : Bool} {f : Record → State → State} (hq : s.tsv.queue = r :: rest)
    (hb : bucketBusy s r.inst r.id = true) : takeUp k rd f s = s := by
  simp only [takeUp, hq, hb, Bool.or_true, if_true]

/-- A record whose bucket is free: barred by its port, for a table that does not run, a repetition, or its bucket is read. -/
theorem takeUp_of_free {f : Record → State → State} (hq : s.tsv.queue = r :: rest) (hb : bucketBusy s r.inst r.id = false) :
    takeUp r.touch rd f s =
      let u := takeRecord s
      let b := bucketRead r.inst (activeEp (getInst u r.inst)) r.id rd u
      if bit (getPort u r.port).lrnmask r.inst = false then modTsv (fun t => { t with treject := inc32 t.treject }) u
      else if instRuns (getInst u r.inst) = false then modTsv (fun t => { t with tdrop := inc32 t.tdrop }) u
      else if r.touch = true ∧ touchRepeats u r = true then modTsv (fun t => { t with tcoalesce := inc32 t.tcoalesce }) u
      else if b.1 = true then f r b.2 else b.2 := by
  simp only [takeUp, hq, hb, bne_self_eq_false, Bool.or_false, Bool.false_eq_true, if_false, recordRefused]
  cases bit (getPort (takeRecord s) r.port).lrnmask r.inst
  · rfl
  cases instRuns (getInst (takeRecord s) r.inst)
  · rfl
  simp only [Bool.not_true, Bool.false_eq_true, Bool.true_eq_false, if_false, Bool.and_eq_true]
  split
  · rfl
  · generalize bucketRead r.inst (activeEp (getInst (takeRecord s) r.inst)) r.id rd (takeRecord s) = b
    obtain ⟨ok, t⟩ := b
    cases ok <;> rfl

/-- The gate's verdict on the read of a bucket (R317). -/
def bucketVerdict (s : State) (ep : Epoch) (id : Half) : Verdict :=
  let a := wayAddr ep (4 * bucketOf ep id)
  gateCheck s (68 + lmPortOf s a) tsvWho .rd a 128 false

theorem bucketRead_of_denied (h : (bucketVerdict s ep id).ok = false) (rd : MResp) : bucketRead i ep id rd s =
    let a := wayAddr ep (4 * bucketOf ep id)
    (false, tsvFault i a (denyPrecise (68 + lmPortOf s a) tsvWho .rd a 128 (bucketVerdict s ep id) s)) :=
  if_pos (congrArg not h)

theorem bucketRead_of_failed (h : (bucketVerdict s ep id).ok = true) (hrd : rd ≠ .ok) : bucketRead i ep id rd s =
    (false, tsvFault i (wayAddr ep (4 * bucketOf ep id)) (xTsvRead (wayAddr ep (4 * bucketOf ep id)) 0 s)) :=
  (if_neg (ne_true_of_eq_false (congrArg not h))).trans (if_pos (by simpa using hrd))

theorem bucketRead_of_passes (h : (bucketVerdict s ep id).ok = true) : bucketRead i ep id .ok s =
    (true, xTsvRead (wayAddr ep (4 * bucketOf ep id)) 128 s) :=
  (if_neg (ne_true_of_eq_false (congrArg not h))).trans (if_neg (by decide))

/-- The command of a record whose bucket is free. -/
theorem exec_record_of_free (hm : tsvMay s = true) (hq : s.tsv.queue = r :: rest) (hb : bucketBusy s r.inst r.id = false)
    (rd : MResp) : exec (if r.touch then .touch rd else .learn rd) s =
      let u := takeRecord s
      let b := bucketRead r.inst (activeEp (getInst u r.inst)) r.id rd u
      .next (if bit (getPort u r.port).lrnmask r.inst = false then modTsv (fun t => { t with treject := inc32 t.treject }) u
      else if instRuns (getInst u r.inst) = false then modTsv (fun t => { t with tdrop := inc32 t.tdrop }) u
      else if r.touch = true ∧ touchRepeats u r = true then modTsv (fun t => { t with tcoalesce := inc32 t.tcoalesce }) u
      else if b.1 = true then applierOf r r b.2 else b.2) :=
  (exec_record hm rd).trans (congrArg _ (takeUp_of_free hq hb))

/-- The record is accepted: its port may send it, its table runs, and it repeats no touch of the present tick. -/
def Accepted (s : State) (r : Record) : Prop :=
  bit (getPort s r.port).lrnmask r.inst = true ∧ instRuns (getInst s r.inst) = true ∧
    ¬ (r.touch = true ∧ touchRepeats s r = true)

section
variable (hm : tsvMay s = true) (hq : s.tsv.queue = r :: rest) (hb : bucketBusy s r.inst r.id = false)
  (ha : Accepted (takeRecord s) r)
include hm hq hb ha

theorem exec_record_of_accepted (rd : MResp) : exec (if r.touch then .touch rd else .learn rd) s =
    let u := takeRecord s
    let b := bucketRead r.inst (activeEp (getInst u r.inst)) r.id rd u
    .next (if b.1 = true then applierOf r r b.2 else b.2) := by
  obtain ⟨hbar, hrun, hnew⟩ := ha
  rw [exec_record_of_free hm hq hb]
  dsimp only
  rw [if_neg (by simp [hbar]), if_neg (by simp [hrun]), if_neg hnew]

section
variable (hv : (bucketVerdict (takeRecord s) (activeEp (getInst (takeRecord s) r.inst)) r.id).ok = true)
include hv

theorem exec_record_of_passes : exec (if r.touch then .touch .ok else .learn .ok) s =
    let u := takeRecord s
    let ep := activeEp (getInst u r.inst)
    .next (applierOf r r (xTsvRead (wayAddr ep (4 * bucketOf ep r.id)) 128 u)) := by
  rw [exec_record_of_accepted hm hq hb ha]
  dsimp only
  rw [bucketRead_of_passes hv, if_pos rfl]

theorem exec_record_of_failed (hrd : rd ≠ .ok) : exec (if r.touch then .touch rd else .learn rd) s =
    let u := takeRecord s
    let ep := activeEp (getInst u r.inst)
    let a := wayAddr ep (4 * bucketOf ep r.id)
    .next (tsvFault r.inst a (xTsvRead a 0 u)) := by
  rw [exec_record_of_accepted hm hq hb ha]
  dsimp only
  rw [bucketRead_of_failed hv hrd, if_neg Bool.false_ne_true]

end

theorem exec_record_of_denied
    (hv : (bucketVerdict (takeRecord s) (activeEp (getInst (takeRecord s) r.inst)) r.id).ok = false) (rd : MResp) :
    exec (if r.touch then .touch rd else .learn rd) s =
      let u := takeRecord s
      let ep := activeEp (getInst u r.inst)
      let a := wayAddr ep (4 * bucketOf ep r.id)
      .next (tsvFault r.inst a (denyPrecise (68 + lmPortOf u a) tsvWho .rd a 128 (bucketVerdict u ep r.id) u)) := by
  rw [exec_record_of_accepted hm hq hb ha]
  dsimp only
  rw [bucketRead_of_denied hv, if_neg Bool.false_ne_true]

end
end

/-! ### Where an entry is placed (R319, R324, R325) -/

theorem lowestFree_eq_some {used : Nat → Bool} {n : Nat} : ∀ {k j : Nat}, k ≤ j → j < k + n → used j = false →
    (∀ i, k ≤ i → i < j → used i = true) → lowestFree used k n = some j := by
  induction n with
  | zero => intro k j hk hj; omega
  | succ n ih =>
    intro k j hk hj hfree hbelow
    rw [lowestFree]
    rcases hk.eq_or_lt with rfl | hlt
    · rw [if_neg (by simp [hfree])]
    · rw [if_pos (hbelow k le_rfl hlt)]
      exact ih hlt (by omega) hfree fun i hi => hbelow i (by omega)

theorem lowestFree_eq_none {used : Nat → Bool} {n : Nat} : ∀ {k : Nat}, (∀ i, k ≤ i → i < k + n → used i = true) →
    lowestFree used k n = none := by
  induction n with
  | zero => intro k _; rfl
  | succ n ih =>
    intro k h
    rw [lowestFree, if_pos (h k le_rfl (by omega))]
    exact ih fun i hi hlt => h i (by omega) (by omega)

section
variable {ep : Epoch} {id : Half} {w k : Nat}

theorem freeWay_of_lowest (hw : w < 4) (hfree : entValid (wayAt ep (4 * bucketOf ep id + w)) = false)
    (hbelow : ∀ v < w, entValid (wayAt ep (4 * bucketOf ep id + v)) = true) :
    freeWay ep id = some (4 * bucketOf ep id + w) := by
  have h : (List.range 4).find? (fun w => !entValid (wayAt ep (4 * bucketOf ep id + w))) = some w :=
    List.find?_range_eq_some.2 ⟨by simp [hfree], List.mem_range.2 hw, fun v hv => by simp [hbelow v hv]⟩
  rw [freeWay, h]
  rfl

theorem freeWay_of_full (h : ∀ w < 4, entValid (wayAt ep (4 * bucketOf ep id + w)) = true) : freeWay ep id = none := by
  rw [freeWay, List.find?_range_eq_none.2 fun v hv => by simp [h v hv]]
  rfl

theorem freeSlot_of_lowest (hk : k < 256) (hfree : entValid (slotAt ep k) = false)
    (hbelow : ∀ j < k, entValid (slotAt ep j) = true) : freeSlot ep = some k :=
  lowestFree_eq_some (Nat.zero_le k) (by omega) hfree fun j _ hj => hbelow j hj

theorem freeSlot_of_full (h : ∀ k < 256, entValid (slotAt ep k) = true) : freeSlot ep = none :=
  lowestFree_eq_none fun j _ hj => h j (by omega)

end

/-- The first of the greatest of n + 1 ages. -/
theorem foldl_oldest (age : Nat → Nat) (n : Nat) :
    let w := (List.range (n + 1)).foldl (fun best w => if age best < age w then w else best) 0
    w ≤ n ∧ ∀ v ≤ n, age v ≤ age w ∧ (v < w → age v < age w) := by
  induction n with
  | zero => simp
  | succ n ih =>
    rw [List.range_succ, List.foldl_append]
    generalize (List.range (n + 1)).foldl (fun best w => if age best < age w then w else best) 0 = w at ih ⊢
    obtain ⟨hw, hmax⟩ := ih
    dsimp only [List.foldl_cons, List.foldl_nil]
    split
    · next hlt =>
      refine ⟨le_rfl, fun v hv => ?_⟩
      rcases hv.eq_or_lt with rfl | hv
      · exact ⟨le_rfl, fun h => absurd h (lt_irrefl _)⟩
      · have := (hmax v (by omega)).1
        exact ⟨by omega, fun _ => by omega⟩
    · next hle =>
      refine ⟨by omega, fun v hv => ?_⟩
      rcases hv.eq_or_lt with rfl | hv
      · exact ⟨by omega, fun h => by omega⟩
      · exact hmax v (by omega)

/-- The victim of a full bucket: the oldest way, or the one that the LFSR names, which goes on (R325). -/
theorem chooseVictim_spec (i : Nat) (ep : Epoch) (id : Half) (s : State) :
    ∃ w < 4, chooseVictim i ep id s = (4 * bucketOf ep id + w, modTsv (fun t => { t with
        lfsr := if (getInst s i).policy then Config.lfsrNext t.lfsr else t.lfsr }) s) ∧
      ((getInst s i).policy = false → ∀ v < 4,
        ageOf (getInst s i) (wayAt ep (4 * bucketOf ep id + v)) ≤ ageOf (getInst s i) (wayAt ep (4 * bucketOf ep id + w)) ∧
        (v < w → ageOf (getInst s i) (wayAt ep (4 * bucketOf ep id + v)) <
          ageOf (getInst s i) (wayAt ep (4 * bucketOf ep id + w)))) ∧
      ((getInst s i).policy = true → w = s.tsv.lfsr.toNat % 4) := by
  cases hp : (getInst s i).policy
  · obtain ⟨hw, hmax⟩ := foldl_oldest (fun v => ageOf (getInst s i) (wayAt ep (4 * bucketOf ep id + v))) 3
    refine ⟨oldestWay (getInst s i) ep (bucketOf ep id), Nat.lt_succ_of_le hw, ?_,
      fun _ v hv => hmax v (Nat.le_of_lt_succ hv), fun h => absurd h Bool.false_ne_true⟩
    simp only [chooseVictim, hp]
    rfl
  · refine ⟨s.tsv.lfsr.toNat % 4, Nat.mod_lt _ (by decide), ?_, fun h => absurd h.symm Bool.false_ne_true, fun _ => rfl⟩
    simp only [chooseVictim, hp]
    rfl

/-! ### What TSV writes and tells (R317, R331) -/

@[simp] theorem ctl_xTsv (n : Nat) (s : State) : (xTsv n s).ctl = s.ctl := by
  obtain ⟨_, _, h⟩ := arbMoves_xpresentAll 78 0 (deadlineNow s s.active.xarb.tsvdc)
    [{ deadline := deadlineNow s s.active.xarb.tsvdc, beats := beatsOf n }] (wakeIsl islTsv s)
  rw [xTsv, xpresent, h]
  rfl

theorem ctl_tsvWrite (a : Word) (d : List Byte) (pu : Purpose) (s : State) : (tsvWrite a d pu s).2.ctl = s.ctl := by
  unfold tsvWrite
  dsimp only
  split
  · rfl
  · rw [ctl_xTsv]
    rfl

/-- A write that the gate lets pass leaves as one request to local memory. -/
theorem lm_tsvWrite_of_allowed {s : State} {a : Word} {d : List Byte}
    (h : (gateCheck s (68 + lmPortOf s a) tsvWho .wr a d.length false).ok = true) (pu : Purpose) :
    ∃ q, (tsvWrite a d pu s).2.lm = s.lm ++ [q] ∧ q.addr = a ∧ q.data = d ∧ q.purpose = pu := by
  unfold tsvWrite
  dsimp only
  rw [if_neg (ne_true_of_eq_false (congrArg not h)), ← lmPart_eq, xTsv, lmPart_xpresent, lmPart_wakeIsl]
  exact ⟨_, rfl, rfl, rfl, rfl⟩

theorem evpends_tsvEvent (x : TabEvent) (s : State) : (tsvEvent x s).ctl.evpends.getLsbD 4 = true := by
  have h := evpends_evS 4 (by decide) s
  unfold tsvEvent
  dsimp only
  split
  · exact h
  · rw [ctl_tsvWrite]
    exact h

/-! #### The LFSR (R325) -/

theorem lfsr_tsvEvent (x : TabEvent) (s : State) : (tsvEvent x s).tsv.lfsr = s.tsv.lfsr := by
  unfold tsvEvent
  dsimp only
  split
  · rfl
  · rw [tsv_tsvWrite]
    rfl

theorem lfsr_tsvFault (i : Nat) (a : Word) (s : State) : (tsvFault i a s).tsv.lfsr = s.tsv.lfsr := by
  unfold tsvFault
  dsimp only
  split
  · rfl
  · rw [lfsr_tsvEvent]
    refine forAll_ind (fun t => t.tsv.lfsr = s.tsv.lfsr) _ _ (fun r t ht => ?_) _ ?_
    · cases r.engine <;> exact ht
    · rw [abandonRebuild, tsv_forAll_tsvAnswerTo]
      rfl

theorem lfsr_putEntry (i : Nat) (e : Bool) (p : Place) (z : Entry) (s : State) :
    (putEntry i e p z s).tsv.lfsr = s.tsv.lfsr := by
  unfold putEntry
  cases h : putPasses s i e p
  · obtain ⟨v, hk, hv⟩ := tryPut_of_denied h z
    rw [hv, lfsr_tsvFault, hk.tsv]
  · obtain ⟨v, hk, hv⟩ := tryPut_of_passes h z
    rw [hv, modInst_tsv_lfsr, hk.tsv]

/-! ### What a placement leaves of a table (R319, R324) -/

/-- A table in which a victim has been copied into the stash, and its way waits for the response. -/
def relocBegun (e : Bool) (k key : Nat) (old y : Entry) (r : Reloc) (x : Inst) : Inst :=
  { modEp e (withEntry (.slot k) old) x with relocating := x.relocating ++ [{ r with epoch := e, key := key, entry := y }] }

section
variable {s v : State} {i key k : Nat} {e : Bool} {y : Entry} {r : Reloc}

theorem placeNew_of_freeWay (h : freeWay (epochOf (getInst s i) e) (entId y) = some key) :
    placeNew i e y r s = ((false, false), putEntry i e (.way key) y s) := by
  simp only [placeNew, h]

section
variable (hfull : freeWay (epochOf (getInst s i) e) (entId y) = none)
  (hv : chooseVictim i (epochOf (getInst s i) e) (entId y) s = (key, v))
include hfull hv

theorem placeNew_of_freeSlot (hk : freeSlot (epochOf (getInst s i) e) = some k) : placeNew i e y r s =
    let old := wayAt (epochOf (getInst s i) e) key
    let b := tsvWrite (stashAddr (epochOf (getInst s i) e) k) (entBytes old) (.stash i key e) v
    ((true, true), if b.1 = true then modInst i (relocBegun e k key old y r) b.2
      else tsvFault i (stashAddr (epochOf (getInst s i) e) k) b.2) := by
  simp only [placeNew, hfull, hv, hk]
  generalize tsvWrite _ _ _ v = b
  obtain ⟨ok, u⟩ := b
  cases ok <;> rfl

theorem placeNew_of_fullStash (hk : freeSlot (epochOf (getInst s i) e) = none) : ∃ ev, placeNew i e y r s =
    let u := putEntry i e (.way key) y v
    ((true, false), if inFault u i = true then u
      else tsvEvent ev (modInst i (fun x => { x with evicts := inc32 x.evicts }) u)) := by
  refine ⟨{ type := 1, inst := i, port := entPort y, oport := entPort (wayAt (epochOf (getInst s i) e) key),
            shadow := e != (getInst s i).act, chan := entCh y, id := entId (wayAt (epochOf (getInst s i) e) key),
            data := (wayAt (epochOf (getInst s i) e) key).w1,
            datahi := bits (wayAt (epochOf (getInst s i) e) key).w2 0 32 }, ?_⟩
  simp only [placeNew, hfull, hv, hk]
  split <;> rfl

/-- Nothing but the choice of the victim moves the LFSR. -/
theorem lfsr_placeNew : (placeNew i e y r s).2.tsv.lfsr = v.tsv.lfsr := by
  cases hk : freeSlot (epochOf (getInst s i) e) with
  | some k =>
    rw [placeNew_of_freeSlot hfull hv hk]
    dsimp only
    split
    · rw [modInst_tsv_lfsr, tsv_tsvWrite]
    · rw [lfsr_tsvFault, tsv_tsvWrite]
  | none =>
    obtain ⟨ev, h⟩ := placeNew_of_fullStash (r := r) hfull hv hk
    rw [h]
    dsimp only
    split
    · exact lfsr_putEntry ..
    · rw [lfsr_tsvEvent, modInst_tsv_lfsr, lfsr_putEntry]

end

theorem putEntry_of_passes {p : Place} (h : putPasses s i e p = true) (z : Entry) :
    ∃ u, TsvKeeps s u ∧ putEntry i e p z s = modInst i (modEp e (withEntry p z)) u := by
  obtain ⟨u, hk, hu⟩ := tryPut_of_passes h z
  exact ⟨u, hk, congrArg Prod.snd hu⟩

end

end Sys2Proof.Machine

namespace Sys2Proof.Machine

/-! ### What a LEARN and a TOUCH do to the active epoch (R324, R326) -/

/-- The entry that a LEARN writes (R314, R324). -/
def recordEntry (s : State) (r : Record) : Entry :=
  newEntry r.id (getInst s r.inst).agecnt r.port false r.vlo r.vhi (nowUs s) r.uflags

theorem learned_of_not_mirroring {u : State} {i : Nat} (hf : inFault u i = false) (hm : (getInst u i).mirroring = false)
    (y : Entry) : learned i y u = modInst i (fun x => { x with learns := inc32 x.learns }) u := by
  rw [learned, if_neg (by simp [hf]), mirrorWrite_of_not_mirroring hm]

section
variable {s : State} {r : Record} {p : Place} {old : Entry}

theorem isFlap_iff : isFlap s r old = true ↔ (entCh old = true ∨ entPort old ≠ r.port) ∧
    (nowUs s - entLtime old).toNat < (tget (1000 : BitVec 16) s.active.tsv.flapwin r.inst).toNat := by
  simp [isFlap]

theorem applyLearn_of_absent (h : findId (activeEp (getInst s r.inst)) r.id = none) : applyLearn r s =
    let placed := placeNew r.inst (getInst s r.inst).act (recordEntry s r)
      { learn := true, mirror := (getInst s r.inst).mirroring } s
    if placed.1.2 = true then placed.2 else learned r.inst (recordEntry s r) placed.2 := by
  rcases hp : placeNew r.inst (getInst s r.inst).act (recordEntry s r)
    { learn := true, mirror := (getInst s r.inst).mirroring } s with ⟨⟨c, wait⟩, t⟩
  simp only [recordEntry] at hp
  simp only [applyLearn, h, recordEntry, hp]
  cases wait <;> rfl

theorem applyTouch_of_absent (h : findId (activeEp (getInst s r.inst)) r.id = none) : applyTouch r s = s := by
  simp only [applyTouch, h]

section
variable (h : findId (activeEp (getInst s r.inst)) r.id = some (p, old))
include h

/-- Inside the flap window a learn from another port is counted and told of, and changes nothing (R324). -/
theorem applyLearn_of_flap (hflap : isFlap s r old = true) : ∃ ev, applyLearn r s =
    tsvEvent ev (modInst r.inst (fun x => { x with flaps := inc32 x.flaps }) s) := by
  refine ⟨{ type := 2, inst := r.inst, port := r.port, oport := entPort old, id := r.id, data := r.vlo, datahi := r.vhi }, ?_⟩
  simp only [applyLearn, h]
  exact if_pos hflap

theorem applyLearn_of_no_flap (hflap : ¬ isFlap s r old = true) : applyLearn r s =
    learned r.inst (recordEntry s r) (putEntry r.inst (getInst s r.inst).act p (recordEntry s r) s) := by
  simp only [applyLearn, h]
  exact if_neg hflap

section
variable (hm : (getInst s r.inst).mirroring = false) (hst : (getInst s r.inst).st ≠ .fault)
  (hp : putPasses s r.inst (getInst s r.inst).act p = true)
include hm hst hp

/-- Outside a rebuild a learn rewrites the entry in place, and counts. -/
theorem applyLearn_of_rewritten (hflap : ¬ isFlap s r old = true) : ∃ u, EntryPut r.inst p (recordEntry s r) s u ∧
    applyLearn r s = modInst r.inst (fun x => { x with learns := inc32 x.learns }) u := by
  have hput := entryPut_putEntry (z := recordEntry s r) hp
  refine ⟨_, hput, ?_⟩
  rw [applyLearn_of_no_flap h hflap, learned_of_not_mirroring]
  · simpa [inFault, hput.getInst_self] using hst
  · rw [hput.getInst_self, modEp_mirroring, hm]

/-- Outside a rebuild a touch gives the entry the present age, counts, and is remembered in its filter entry. -/
theorem applyTouch_of_found : ∃ u, EntryPut r.inst p (touched (getInst s r.inst).agecnt old) s u ∧
    applyTouch r s = modTsv (fun t => { t with
        filter := tset {} t.filter (filterIdx r) { inst := r.inst, id := r.id, cnt := (getInst s r.inst).agecnt, valid := true } })
      (modInst r.inst (fun x => { x with touches := inc32 x.touches }) u) := by
  have hput := entryPut_putEntry (z := touched (getInst s r.inst).agecnt old) hp
  refine ⟨_, hput, ?_⟩
  simp only [applyTouch, h]
  rw [mirrorFound_of_not_mirroring (by rw [hput.getInst_self, modEp_mirroring, hm]), if_neg]
  simpa [inFault, hput.getInst_self] using hst

end
end
end

/-- A state that differs from one with an entry put only in counts of that table. -/
theorem EntryPut.frame {s u t : State} {i : Nat} {p : Place} {z : Entry} (h : EntryPut i p z s u)
    (hself : activeEp (getInst t i) = activeEp (getInst u i)) (hother : ∀ j, j ≠ i → getInst t j = getInst u j)
    (hd : Machine.durable t = Machine.durable u) :
    Machine.entAt (activeEp (getInst t i)) p = z ∧
      (∀ q, q ≠ p → Machine.entAt (activeEp (getInst t i)) q = Machine.entAt (activeEp (getInst s i)) q) ∧
      (∀ j, j ≠ i → getInst t j = getInst s j) ∧ Machine.durable t = Machine.durable s := by
  refine ⟨?_, fun q hq => ?_, fun j hj => (hother j hj).trans (h.getInst_other hj), hd.trans h.durable⟩
  · rw [hself, h.entAt, if_pos rfl]
  · rw [hself, h.entAt, if_neg hq]

/-! ### One table behind a placement -/

@[simp] theorem modEp_relocating (e : Bool) (f : Epoch → Epoch) (x : Inst) : (modEp e f x).relocating = x.relocating := by
  cases e <;> rfl

@[simp] theorem modEp_evicts (e : Bool) (f : Epoch → Epoch) (x : Inst) : (modEp e f x).evicts = x.evicts := by
  cases e <;> rfl

@[simp] theorem modEp_flaps (e : Bool) (f : Epoch → Epoch) (x : Inst) : (modEp e f x).flaps = x.flaps := by
  cases e <;> rfl

@[simp] theorem modEp_touches (e : Bool) (f : Epoch → Epoch) (x : Inst) : (modEp e f x).touches = x.touches := by
  cases e <;> rfl

theorem slotAt_withEntry (k j : Nat) (z : Entry) (ep : Epoch) :
    slotAt (withEntry (.slot k) z ep) j = if j = k then z else slotAt ep j :=
  tget_tset ..

theorem epochOf_relocBegun (e : Bool) (k key : Nat) (old y : Entry) (r : Reloc) (x : Inst) :
    epochOf (relocBegun e k key old y r x) e = withEntry (.slot k) old (epochOf x e) := by
  cases e <;> rfl

/-- A table in which an entry has replaced a victim that the stash could not take. -/
def evicted (e : Bool) (key : Nat) (y : Entry) (x : Inst) : Inst :=
  { modEp e (withEntry (.way key) y) x with evicts := inc32 x.evicts }

theorem epochOf_evicted (e : Bool) (key : Nat) (y : Entry) (x : Inst) :
    epochOf (evicted e key y x) e = withEntry (.way key) y (epochOf x e) := by
  cases e <;> rfl

theorem relocs_relocBegun (e : Bool) (k key : Nat) (old y : Entry) (r : Reloc) (x : Inst) :
    (relocBegun e k key old y r x).relocs = x.relocs := by
  cases e <;> rfl

theorem relocating_relocBegun (e : Bool) (k key : Nat) (old y : Entry) (r : Reloc) (x : Inst) :
    (relocBegun e k key old y r x).relocating = x.relocating ++ [{ r with epoch := e, key := key, entry := y }] := by
  cases e <;> rfl

section
variable {s v : State} {i key k : Nat} {e : Bool} {y : Entry} {r : Reloc}

/-- The entry stands in a free way. -/
theorem placeNew_in_way (h : freeWay (epochOf (getInst s i) e) (entId y) = some key) (hp : putPasses s i e (.way key) = true) :
    ∃ t, placeNew i e y r s = ((false, false), t) ∧ getInst t i = modEp e (withEntry (.way key) y) (getInst s i) := by
  obtain ⟨u, hk, hu⟩ := putEntry_of_passes hp y
  refine ⟨_, (placeNew_of_freeWay h).trans (congrArg _ hu), ?_⟩
  rw [getInst_modInst, if_pos rfl, hk.getInst]

section
variable (hfull : freeWay (epochOf (getInst s i) e) (entId y) = none)
  (hv : chooseVictim i (epochOf (getInst s i) e) (entId y) s = (key, v)) (hvi : getInst v i = getInst s i)
include hfull hv hvi

/-- The victim stands in the stash too, its copy has left for local memory, and its way waits. -/
theorem placeNew_in_stash (hk : freeSlot (epochOf (getInst s i) e) = some k) (hp : putPasses v i e (.slot k) = true) :
    ∃ t, placeNew i e y r s = ((true, true), t) ∧
      getInst t i = relocBegun e k key (wayAt (epochOf (getInst s i) e) key) y r (getInst s i) ∧
      ∃ q, t.lm = v.lm ++ [q] ∧ q.addr = stashAddr (epochOf (getInst s i) e) k ∧
        q.data = entBytes (wayAt (epochOf (getInst s i) e) key) ∧ q.purpose = .stash i key e := by
  have ha : (gateCheck v (68 + lmPortOf v (stashAddr (epochOf (getInst s i) e) k)) tsvWho .wr
      (stashAddr (epochOf (getInst s i) e) k) (entBytes (wayAt (epochOf (getInst s i) e) key)).length false).ok = true := by
    rw [length_entBytes, ← hvi]
    exact hp
  refine ⟨_, placeNew_of_freeSlot hfull hv hk, ?_, ?_⟩
  · rw [if_pos (tsvWrite_of_allowed ha _), getInst_modInst, if_pos rfl, getInst_of_tsv (tsv_tsvWrite ..), hvi]
  · rw [if_pos (tsvWrite_of_allowed ha _)]
    exact lm_tsvWrite_of_allowed ha _

/-- With a full stash the entry stands in the victim's way, EVICTS counts, and an event tells of it. -/
theorem placeNew_evicts (hk : freeSlot (epochOf (getInst s i) e) = none) (hp : putPasses v i e (.way key) = true)
    (hst : (getInst s i).st ≠ .fault) :
    ∃ t, placeNew i e y r s = ((true, false), t) ∧ t.ctl.evpends.getLsbD 4 = true ∧
      getInst t i = evicted e key y (getInst s i) := by
  obtain ⟨ev, h⟩ := placeNew_of_fullStash (r := r) hfull hv hk
  obtain ⟨u, hku, hu⟩ := putEntry_of_passes hp y
  have hself : getInst (putEntry i e (.way key) y v) i = modEp e (withEntry (.way key) y) (getInst s i) := by
    rw [hu, getInst_modInst, if_pos rfl, hku.getInst, hvi]
  have hrun : ¬ inFault (putEntry i e (.way key) y v) i = true := by
    simpa [inFault, hself] using hst
  refine ⟨_, h, ?_, ?_⟩ <;> rw [if_neg hrun]
  · exact evpends_tsvEvent ..
  · rw [getInst_tsvEvent, getInst_modInst, if_pos rfl, hself, modEp_evicts, evicted]

end
end

/-- Settles O35. First part: what becomes of the oldest record. Second part: where an entry is placed. Third part: what a
LEARN and a TOUCH do to the active epoch. -/
theorem tableRecords : Obligations.TableRecords := by
  refine ⟨fun s r rest rd hm hq => ⟨fun hb => ?_, fun hb => ⟨fun hbar => ?_, fun hbar hstop => ?_, fun hbar hrun =>
      ⟨fun ht hrep => ?_, fun hnew => ?_, fun hv ht => ?_, fun hv ht hnew => ?_⟩⟩⟩,
    fun s i e y r => ⟨fun w hw hfree hbelow hp => ?_, fun hall => ?_⟩,
    fun s r => ⟨fun hf => ?_, fun u hf hmir => learned_of_not_mirroring hf hmir _,
      fun p old hf => ⟨fun hother hrecent => ?_, fun hno hmir hst hp => ?_⟩, fields_newEntry .., applyTouch_of_absent,
      fun p old hf hmir hst hp => ?_, fun z => ?_⟩⟩
  · exact (exec_record hm rd).trans (congrArg _ (takeUp_of_busy hq hb))
  · exact (exec_record_of_free hm hq hb rd).trans (congrArg _ (if_pos hbar))
  · exact (exec_record_of_free hm hq hb rd).trans (congrArg _ ((if_neg (by simp [hbar])).trans (if_pos hstop)))
  · exact (exec_record_of_free hm hq hb rd).trans
      (congrArg _ ((if_neg (by simp [hbar])).trans ((if_neg (by simp [hrun])).trans (if_pos ⟨ht, hrep⟩))))
  · have ha : Accepted (takeRecord s) r := ⟨hbar, hrun, fun h => by rcases hnew with h' | h' <;> simp [h'] at h⟩
    refine ⟨fun hv hrd => ?_, fun hv hrd => exec_record_of_failed hm hq hb ha hv hrd,
      fun hv => exec_record_of_denied hm hq hb ha hv rd⟩
    subst hrd
    exact (exec_record_of_passes hm hq hb ha hv).trans (congrArg _ (applierOf_apply ..))
  · have h := exec_record_of_passes hm hq hb ⟨hbar, hrun, by simp [ht]⟩ hv
    simpa only [applierOf_apply, ht, Bool.false_eq_true, if_false] using h
  · have h := exec_record_of_passes hm hq hb ⟨hbar, hrun, by simp [hnew]⟩ hv
    simpa only [applierOf_apply, ht, if_true] using h
  -- a placement
  · obtain ⟨t, ht, hti⟩ := placeNew_in_way (r := r) (freeWay_of_lowest hw hfree hbelow) hp
    have hd := durable_placeNew i e y r s
    rw [ht] at hd
    rw [ht, hti, epochOf_modEp_self]
    refine ⟨rfl, ?_, fun k hk => ?_, rfl, modEp_relocating .., modEp_relocs .., modEp_evicts .., hd⟩
    · rw [wayAt_withEntry, if_pos rfl]
    · rw [wayAt_withEntry, if_neg hk]
  · have hfull := freeWay_of_full hall
    obtain ⟨w, hw, hv, hold, hrandom⟩ := chooseVictim_spec i (epochOf (getInst s i) e) (entId y) s
    refine ⟨w, hw, hold, fun hpol => ⟨hrandom hpol, ?_⟩, fun k hk hfree hbelow hp => ?_, fun hslots hst hp => ?_⟩
    · exact (lfsr_placeNew hfull hv).trans (if_pos hpol)
    · obtain ⟨t, ht, hti, hq⟩ := placeNew_in_stash (r := r) hfull hv rfl (freeSlot_of_lowest hk hfree hbelow) hp
      rw [ht, hti, epochOf_relocBegun]
      refine ⟨rfl, ?_, fun j hj => ?_, rfl, relocating_relocBegun .., relocs_relocBegun .., hq⟩
      · rw [slotAt_withEntry, if_pos rfl]
      · rw [slotAt_withEntry, if_neg hj]
    · obtain ⟨t, ht, hev, hti⟩ := placeNew_evicts (r := r) hfull hv rfl (freeSlot_of_full hslots) hp hst
      have hd := durable_placeNew i e y r s
      rw [ht] at hd
      rw [ht, hti, epochOf_evicted]
      refine ⟨rfl, ?_, fun k hk => ?_, rfl, rfl, hev, hd⟩
      · rw [wayAt_withEntry, if_pos rfl]
      · rw [wayAt_withEntry, if_neg hk]
  -- a learn, and a touch
  · exact ⟨fun hw => (applyLearn_of_absent hf).trans (if_pos hw),
      fun hw => (applyLearn_of_absent hf).trans (if_neg (ne_true_of_eq_false hw))⟩
  · obtain ⟨ev, h⟩ := applyLearn_of_flap hf (isFlap_iff.2 ⟨hother, hrecent⟩)
    have hd := durable_applyLearn r s
    rw [h] at hd ⊢
    rw [getInst_tsvEvent, getInst_modInst, if_pos rfl]
    exact ⟨rfl, rfl, rfl, rfl, evpends_tsvEvent .., hd⟩
  · obtain ⟨u, hput, h⟩ := applyLearn_of_rewritten hf hmir hst hp (mt isFlap_iff.1 hno)
    have hli : getInst (applyLearn r s) r.inst = { getInst u r.inst with learns := inc32 (getInst u r.inst).learns } := by
      rw [h, getInst_modInst, if_pos rfl]
    refine ⟨hput.frame (by rw [hli]; rfl) (fun j hj => ?_) ?_, ?_, ?_⟩
    · rw [h, getInst_modInst, if_neg hj]
    · rw [h, durable_modInst]
    · rw [hli, hput.getInst_self, modEp_learns]
    · rw [hli, hput.getInst_self, modEp_flaps]
  · obtain ⟨u, hput, h⟩ := applyTouch_of_found hf hmir hst hp
    have hti : getInst (applyTouch r s) r.inst = { getInst u r.inst with touches := inc32 (getInst u r.inst).touches } := by
      rw [h, getInst_modTsv _ _ _ rfl, getInst_modInst, if_pos rfl]
    refine ⟨hput.frame (by rw [hti]; rfl) (fun j hj => ?_) ?_, ?_, ?_⟩
    · rw [h, getInst_modTsv _ _ _ rfl, getInst_modInst, if_neg hj]
    · rw [h, durable_modTsv, durable_modInst]
    · rw [hti, hput.getInst_self, modEp_touches]
    · rw [h]
      exact (tget_tset ..).trans (if_pos rfl)
  · obtain ⟨hage, hvalid, hid, hport, hch⟩ := fields_touched (getInst s r.inst).agecnt z
    exact ⟨hage, hvalid, hid, hport, hch, rfl, rfl, rfl⟩

end Sys2Proof.Machine

namespace Sys2Proof.Machine

namespace State

@[simp] theorem getEngIsl_reset (i : Nat) : getEngIsl reset i = {} := rfl

theorem engSlot_reset_lt (e : Nat) : (engSlot reset e).toNat < 5 := by
  unfold engSlot
  rw [getEngIsl_reset]
  split <;> decide

theorem engPresent_reset (e : Nat) : engPresent reset e = decide (e < 32) := by
  have hn : nEngines reset = 32 := rfl
  simp [engPresent, engSlot_reset_lt, hn]

/-- Settles O58: every clause is a field of the reset state; which engines are present asks only for their islands. -/
theorem resetState : Obligations.ResetState :=
  ⟨rfl, rfl, rfl, rfl, rfl, rfl, rfl, rfl, rfl, rfl, rfl, rfl, rfl, rfl, rfl, rfl, rfl, rfl, rfl, rfl, rfl, rfl, rfl, rfl,
    rfl, rfl, rfl, fun _ => ⟨rfl, rfl, rfl⟩, fun _ => ⟨rfl, rfl, rfl⟩, engPresent_reset, rfl⟩

end State

/-! ### What carrying out a command never does -/

theorem runOp_answers (e o : Nat) (f : Word → State → State) (s : State) : ∃ t, runOp e o f s = .next t := by
  unfold runOp
  repeat' split
  all_goals exact ⟨_, rfl⟩

theorem runCore_answers (c o : Nat) (sub : Option Nat) (f : Word → State → State) (s : State) :
    ∃ t, runCore c o sub f s = .next t := by
  simp only [runCore]
  repeat' split
  all_goals exact ⟨_, rfl⟩

/-- The block has no fault and no refusal: each branch of each command's meaning is a state. -/
theorem exec_answers (c : Instr) (s : State) : ∃ t, exec c s = .next t := by
  cases c
  all_goals simp only [exec, runOp_answers, runCore_answers,
    execRegisterWrite, execLowerHalfRead, execLowerHalfWrite, execBtimeloRead, execDoorbell, execDoorbellApply,
    execLmUpd8Response, execPendingScan, execScanBlockReadDone, execChCtlGo, execChCtlAbort, execPauseSet,
    execPauseClear, execVersionRequest, execDispatch, execDescriptorRead, execDescriptorReadDone, execSeqCoverQuery,
    execResumeDescriptorReadDone, execLds, execLdd, execLdn, execLdk, execMove, execMovl, execWaitf, execFence,
    execNotify, execBrk, execAtom, execLock, execUnlk, execBr, execLink, execEndd, execTins, execTdel, execTmov,
    execTage, execTepoRead, execTepoBegin, execTepoArm, execTsvAnswer, execLevel1MoveDescriptor,
    execLevel1LinkDescriptor, execSourceBurstIssue, execLmReadData, execLmWriteResponse, execMovlListReadDone,
    execHostCompletionPiece, execCompletionTimeout, execQuarantineExpiry, execDirectMoveComplete, execWdogExpiry,
    execPaceholdExpiry, execPacingWake, execPauseStopDone, execAbortStop, execCtxEccError, execQuiesceRequest,
    execQuiesceRelease, execLeaseExpiry, execLockBreakCommand, execXbarDecision, execClusterDecision, execLaneDrop,
    execXbarRepresent, execSlotBoundary, execXbarFreeze, execClusterFreeze, execSeam, execSharm, execGateRuleWrite,
    execGateBarrierArm, execBarrierFlushReadDone, execBufferedWriteLeave, execVlogrdWrite, execFunctionMirrorUpdate,
    execBmeFall, execBmeRise, execFlrRequest, execContextSweep, execFlrAck, execFlrTimeout, execIntxSend,
    execHostTargetAccess, execLinkEnable, execLinkDisable, execLinkRetrain, execLinkResetDone, execPortVersion,
    execVersionTimeout, execPortRdata, execTsvmsg, execPortWriteAccepted, execFilli, execFillo, execClassByte,
    execBrkMarker, execLerr, execHandshakeTimeout, execLinkIdleTimer, execLinkDozeTimer, execLinkDeepTimer,
    execLinkWake, execLearn, execTouch, execRelocationStashWriteDone, execAgeTick, execAgeSweepVisit, execTableEnable,
    execTableInitDone, execTableDisable, execRebuildZero, execCopydone, execTevrdWrite, execBootGo,
    execImageVerifyDone, execStartupZeroDone, execMailboxPost, execMailboxAnswer, execGateRule, execGateCommit,
    execLockBreak, execHostSet, execTsvPlace, execTsvRing, execSelftest, execVlogNext, execReady, execScreeLoad,
    execScreeRestart, execCairnSet, execUpdateTimeout, execCcctlWrite, execLd, execSt, execLdi, execAmo, execAlu,
    execBfx, execB, execJal, execCrr, execCrw, execLcr, execWfe, execWfeWake, execMbxSend, execMbxTake, execMbxAnswer,
    execMbxCollect, execSvcIssue, execSvcResult, execSvcRelease, execSvcCancel, execMovework, execCtxread,
    execCtxwrite, execOwncopyWriteDone, execEvpost, execTimer, execRailSample, execDrainEnd, execCairnHostCopyDone,
    execIslandClkstop, execIslandRetain, execIslandWake, execRefclkLoss, execPgoodFall, execBrstFall,
    execResetRelease, execLogicTest, execMemoryTest, execInfieldTest, execSelftestDone, execAgingMeasure,
    execBufferedWriteAck, execControlMemoryReadData, execIgnoredSidebandByte, execTestAccessPortTest]
  all_goals repeat' split
  all_goals simp only [runOp_answers, Host.Outcome.next.injEq, exists_eq']

/-- The commands that end a state leave the queue and the configuration. -/
theorem queue_of_endsState {s t : State} : ∀ {c : Instr}, endsState c = true → exec c s = .next t →
    t.pending = s.pending ∧ t.cfg = s.cfg
  | .refclkLoss, _, h | .brstFall, _, h | .pgoodFall, _, h => by
    cases h
    unfold enterReset
    split <;> exact ⟨rfl, rfl⟩
  | .resetRelease, _, h => by
    change execResetRelease s = .next t at h
    unfold execResetRelease at h
    split at h <;> cases h <;> exact ⟨rfl, rfl⟩
  | .testAccessPortTest island, _, h => by
    change execTestAccessPortTest island s = .next t at h
    unfold execTestAccessPortTest at h
    split at h <;> cases h <;> exact ⟨rfl, rfl⟩

theorem exec_keeps_queue {c : Instr} {s t : State} (h : exec c s = .next t) : t.pending = s.pending ∧ t.cfg = s.cfg := by
  cases hc : endsState c with
  | true => exact queue_of_endsState hc h
  | false =>
    obtain ⟨hpending, hcfg, -⟩ := kept_exec hc h
    exact ⟨hpending, hcfg⟩

/-- Settles O60: each command answers with a state, and no command that outlives it takes a mark back. -/
theorem commandsKeep : Obligations.CommandsKeep := by
  refine ⟨fun c s => ?_, fun s t c h hclk hpgood hbrst hrelease htest => ?_⟩
  · obtain ⟨t, h⟩ := exec_answers c s
    exact ⟨t, h, exec_keeps_queue h⟩
  · have hc : endsState c = false := by
      cases c <;> simp_all [endsState]
    obtain ⟨-, -, -, hmarks⟩ := kept_exec hc h
    exact hmarks

end Sys2Proof.Machine

namespace Sys2Proof.Machine

/-! ### B and JAL (R367) -/

/-- The lowest bit of MOD. -/
theorem bit_48 (w : Word) : bit w 48 = decide (fMOD w % 2 = 1) := by
  simp only [bit, BitVec.getLsbD, Nat.testBit_eq_decide_div_mod_eq, fMOD, fld, Nat.shiftRight_eq_div_pow]
  congr 1
  rw [eq_iff_iff]
  omega

section
variable {c : Nat} {w : Word} {s : State}

/-- Every field of a B holds what R367 allows. -/
def isB (w : Word) : Prop := fRD w = 0 ∧ fRA w = 0 ∧ fRB w = 0 ∧ fI w = false ∧ fMOD w < 16 ∧ fMOD w ≠ 8

/-- The condition that MOD of a B names, row by row. -/
def takes (k : Core) : Nat → Bool
  | 0 => true | 1 => k.z | 2 => k.c | 3 => k.s | 4 => k.v | 5 => k.c && !k.z | 6 => k.s == k.v | 7 => !k.z && k.s == k.v
  | 9 => !k.z | 10 => !k.c | 11 => !k.s | 12 => !k.v | 13 => !k.c || k.z | 14 => k.s != k.v | _ => k.z || k.s != k.v

theorem condHolds_eq_takes (k : Core) {m : Nat} (hm : m < 16) (h8 : m ≠ 8) : condHolds (coreFlags k) m = takes k m := by
  interval_cases m <;> simp_all [condHolds, condTest, takes, coreFlags, bne]

theorem doB_of_bad_fields (h : ¬ isB w) : doB c w s = coreFault c 1 0 s := by
  refine if_pos ?_
  by_contra hb
  exact h (by simpa [isB, noRB_iff, and_assoc] using hb)

theorem doB_of_good (h : isB w) : doB c w s =
    modCore c (fun k => { k with pc := if takes (getCore s c) (fMOD w) then k.pc + 8 * fIMM w else k.pc + 8 }) s := by
  obtain ⟨hd, ha, hb, hi, hm, h8⟩ := h
  have hgood : ¬ (fRD w != 0 || fRA w != 0 || !noRB w || 16 ≤ fMOD w || fMOD w == 8) = true := by
    simp [hd, ha, (noRB_iff w).2 ⟨hb, hi⟩, hm, h8]
  rw [doB, if_neg hgood]
  refine modCore_congr ?_
  rw [condHolds_eq_takes _ hm h8]
  split <;> rfl

/-- Every field of a JAL holds what R367 allows. -/
def isJal (w : Word) : Prop := fRB w = 0 ∧ fI w = false ∧ fMOD w < 2 ∧ (fMOD w = 0 → fRA w = 0)

/-- Where a JAL of the core k goes. -/
def jalTarget (w : Word) (k : Core) : Word :=
  if fMOD w = 0 then k.pc + 8 * fIMM w
  else (if fRA w = fRD w ∧ fRD w ≠ 0 then k.pc + 8 else getG k (fRA w)) + fIMM w

theorem getG_link (w : Word) (k : Core) : getG (setG (fRD w) (k.pc + 8) k) (fRA w) =
    if fRA w = fRD w ∧ fRD w ≠ 0 then k.pc + 8 else getG k (fRA w) := by
  rw [getG_setG]
  split_ifs with h0 hd _ hn <;> simp_all [getG]

theorem doJal_of_bad_fields (h : ¬ isJal w) : doJal c w s = coreFault c 1 0 s := by
  refine if_pos ?_
  by_contra hb
  exact h (by simpa [isJal, noRB_iff, and_assoc] using hb)

section
variable {t : Word} (h : isJal w) (hT : jalTarget w (getCore s c) = t)
include h hT

theorem doJal_of_good : doJal c w s =
    if !aligned t 8 then coreFault c 2 t s else modCore c (fun k => { setG (fRD w) (k.pc + 8) k with pc := t }) s := by
  obtain ⟨hb, hi, hm, ha⟩ := h
  have hgood : ¬ (!noRB w || 2 ≤ fMOD w || (fMOD w == 0 && fRA w != 0)) = true := by
    simpa [(noRB_iff w).2 ⟨hb, hi⟩, hm] using ha
  have ht : (if bit w 48 then getG (setG (fRD w) ((getCore s c).pc + 8) (getCore s c)) (fRA w) + fIMM w
      else relTarget (getCore s c).pc w) = t := by
    rw [getG_link, bit_48, ← hT, jalTarget]
    obtain h0 | h1 : fMOD w = 0 ∨ fMOD w = 1 := by omega
    · simp [h0, relTarget]
    · simp [h1]
  simp only [doJal, if_neg hgood, ht]

theorem doJal_of_misaligned (ha : t.toNat % 8 ≠ 0) : doJal c w s = coreFault c 2 t s := by
  simp [doJal_of_good h hT, aligned, ha]

theorem doJal_of_aligned (ha : t.toNat % 8 = 0) :
    doJal c w s = modCore c (fun k => { setG (fRD w) (k.pc + 8) k with pc := t }) s := by
  simp [doJal_of_good h hT, aligned, ha]

end

end

section
variable {s u : State} {c : Nat} {w : Word} (h : fetches s c w u = true)
include h

theorem exec_b (ho : opc w = 0xA0) : exec (.b c) s = .next (doB c w u) := run_fetched h ho (by decide) (doB c)
theorem exec_jal (ho : opc w = 0xA1) : exec (.jal c) s = .next (doJal c w u) := run_fetched h ho (by decide) (doJal c)

end

/-- Settles O45. Each of the two by its fields, and JAL by the alignment of its target. -/
theorem coreJumps : Obligations.CoreJumps := by
  intro s u c w h k a m
  constructor
  · intro ho good taken
    refine ⟨fun hg => ?_, fun hg => ?_⟩ <;> rw [exec_b h ho]
    · rw [doB_of_bad_fields hg]
    · rw [doB_of_good hg]
      rfl
  · intro ho good t
    have hT : jalTarget w (getCore u c) = t := rfl
    refine ⟨fun hg => ?_, fun hg ht => ?_, fun hg ht => ?_⟩ <;> rw [exec_jal h ho]
    · rw [doJal_of_bad_fields hg]
    · rw [doJal_of_misaligned hg hT ht]
    · rw [doJal_of_aligned hg hT ht]

/-! ### ALU (R365) -/

/-- The result of each row of R365. -/
def aluValue (a b : Word) (n : Nat) : Nat → Word
  | 0 => a + b | 1 => a - b | 2 => a &&& b | 3 => a ||| b | 4 => a ^^^ b | 5 => a <<< n | 6 => a >>> n
  | 7 => a.sshiftRight n | 8 => a * b | 9 => BitVec.ofNat 64 (a.toNat * b.toNat / 2 ^ 64) | 10 => a - b | _ => a &&& b

/-- C of each row. -/
def aluCarry (a b : Word) (n : Nat) : Nat → Bool
  | 0 => decide (2 ^ 64 ≤ a.toNat + b.toNat) | 1 => decide (b.toNat ≤ a.toNat) | 10 => decide (b.toNat ≤ a.toNat)
  | 5 => decide (0 < n) && a.getLsbD (64 - n) | 6 => decide (0 < n) && a.getLsbD (n - 1)
  | 7 => decide (0 < n) && a.getLsbD (n - 1) | _ => false

/-- V of each row. -/
def aluOverflow (a b : Word) : Nat → Bool
  | 0 => decide ((a + b).toInt ≠ a.toInt + b.toInt) | 1 => decide ((a - b).toInt ≠ a.toInt - b.toInt)
  | 10 => decide ((a - b).toInt ≠ a.toInt - b.toInt) | _ => false

theorem outLeft_eq (a : Word) (n : Nat) : outLeft a n = (decide (0 < n) && a.getLsbD (64 - n)) := by
  simp [outLeft, bit, bne, Nat.pos_iff_ne_zero, beq_eq_decide]

theorem outRight_eq (a : Word) (n : Nat) : outRight a n = (decide (0 < n) && a.getLsbD (n - 1)) := by
  simp [outRight, bit, bne, Nat.pos_iff_ne_zero, beq_eq_decide]

theorem aluOp_eq (a b : Word) {m : Nat} (hm : m < 12) : aluOp m a b =
    some (aluRes (decide (m < 10)) (aluValue a b (b.toNat % 64) m) (aluCarry a b (b.toNat % 64) m) (aluOverflow a b m)) := by
  interval_cases m <;>
    simp only [aluOp, aluValue, aluCarry, aluOverflow, outLeft_eq, outRight_eq, addCarry, subNoBorrow, addOver_eq, subOver_eq] <;>
    rfl

theorem aluOp_eq_none (a b : Word) {m : Nat} (hm : 12 ≤ m) : aluOp m a b = none := by
  obtain ⟨k, rfl⟩ := Nat.exists_eq_add_of_le' hm
  rfl

section
variable {c : Nat} {w : Word} {s : State}

theorem doAlu_of_bad_fields (h : (fI w = true ∧ fRB w ≠ 0) ∨ 12 ≤ fMOD w) : doAlu c w s = coreFault c 1 0 s := by
  obtain ⟨hi, hb⟩ | hm := h
  · exact if_pos (by simp [hi, hb])
  · simp only [doAlu, aluOp_eq_none _ _ hm]
    exact ite_self _

theorem doAlu_of_good (hf : fI w = true → fRB w = 0) (hm : fMOD w < 12) {a b r : Word} {n : Nat}
    (hA : getG (getCore s c) (fRA w) = a) (hB : operandB (getCore s c) w = b) (hn : b.toNat % 64 = n)
    (hr : aluValue a b n (fMOD w) = r) : doAlu c w s =
      modCore c (fun k => { (if fMOD w < 10 then setG (fRD w) r k else k) with
        z := decide (r = 0), s := decide (r.toInt < 0), c := aluCarry a b n (fMOD w), v := aluOverflow a b (fMOD w),
        pc := k.pc + 8 }) s := by
  have hgood : ¬ (fI w && fRB w != 0) = true := by simpa using hf
  subst hA hB hn hr
  simp only [doAlu, if_neg hgood, aluOp_eq _ _ hm, retireCore]
  refine modCore_congr ?_
  simp only [aluRes, setFlags, flagsFor, stepPc, neg_eq, beq_eq_decide, decide_eq_true_eq]
  split <;> simp [pc_setG, w64]

end

/-! ### BFX (R366) -/

/-- Bits [pos + len - 1 : pos] of a word. -/
theorem getLsbD_bfExtract (a : Word) (pos len i : Nat) (h : pos + len ≤ 64) :
    (bfExtract a pos len).getLsbD i = (decide (i < len) && a.getLsbD (pos + i)) := by
  have hi : i < len → i < 64 := by omega
  rw [bfExtract, BitVec.getLsbD_ofNat, fld, Nat.testBit_mod_two_pow, Nat.testBit_shiftRight, BitVec.testBit_toNat]
  by_cases hl : i < len <;> simp [hl, hi]

theorem getLsbD_bfMask (pos len i : Nat) (hi : i < 64) :
    (bfMask pos len).getLsbD i = decide (pos ≤ i ∧ i < pos + len) := by
  have h : (i - pos < len) = (i < pos + len) ∨ ¬ pos ≤ i := by
    rw [eq_iff_iff]
    omega
  simp only [bfMask, BitVec.getLsbD_ofNat, hi, Nat.testBit_mul_two_pow, Nat.testBit_two_pow_sub_one, decide_true, Bool.true_and]
  obtain h | h := h <;> simp [h]

/-- The bits of a word with a field replaced. -/
theorem getLsbD_bfInsert (x a : Word) (pos len i : Nat) (hi : i < 64) :
    (bfInsert x a pos len).getLsbD i = if pos ≤ i ∧ i < pos + len then a.getLsbD (i - pos) else x.getLsbD i := by
  simp only [bfInsert, masked, BitVec.getLsbD_or, BitVec.getLsbD_and, BitVec.getLsbD_not, BitVec.getLsbD_shiftLeft,
    getLsbD_bfMask pos len i hi, hi]
  split <;> rename_i h <;> simp [h]

section
variable {c : Nat} {w : Word} {s : State}

/-- Every field of a BFX holds what R366 allows. -/
def isBfx (w : Word) : Prop :=
  fRB w = 0 ∧ fI w = false ∧ fMOD w < 2 ∧ fld w 22 2 = 0 ∧ fld w 30 18 = 0 ∧ fld w 16 6 + (fld w 24 6 + 1) ≤ 64

theorem doBfx_of_bad_fields (h : ¬ isBfx w) : doBfx c w s = coreFault c 1 0 s := by
  refine if_pos ?_
  by_contra hb
  exact h (by simpa [isBfx, noRB_iff, and_assoc] using hb)

/-- The field that a BFX takes out of G(RA), or G(RD) with that field put in. -/
def bfxValue (w : Word) (k : Core) : Word :=
  if fMOD w = 1 then bfInsert (getG k (fRD w)) (getG k (fRA w)) (fld w 16 6) (fld w 24 6 + 1)
  else bfExtract (getG k (fRA w)) (fld w 16 6) (fld w 24 6 + 1)

theorem doBfx_of_good (h : isBfx w) {r : Word} (hr : bfxValue w (getCore s c) = r) : doBfx c w s =
    modCore c (fun k => { setG (fRD w) r k with z := decide (r = 0), pc := k.pc + 8 }) s := by
  obtain ⟨hb, hi, hm, h22, h30, hlen⟩ := h
  have hgood : ¬ (!noRB w || 2 ≤ fMOD w || fld w 22 2 != 0 || fld w 30 18 != 0 || 64 < fld w 16 6 + (fld w 24 6 + 1)) = true := by
    simp [(noRB_iff w).2 ⟨hb, hi⟩, hm, h22, h30, hlen]
  have hmod : (fMOD w % 2 = 1) = (fMOD w = 1) := by
    rw [eq_iff_iff]
    omega
  simp only [doBfx, if_neg hgood, bit_48, decide_eq_true_eq, hmod, retireCore]
  rw [← bfxValue, hr]
  refine modCore_congr ?_
  simp [stepPc, pc_setG, w64, beq_eq_decide]

end

/-! ### LDI (R363) -/

section
variable {c : Nat} {w : Word} {s : State}

/-- Every field of an LDI that must be 0 is. -/
def isLdi (w : Word) : Prop := fRA w = 0 ∧ fRB w = 0 ∧ fI w = false ∧ fMOD w < 8

theorem doLdi_of_bad_fields (h : ¬ isLdi w ∨ (bit w 48 = true ∧ fIMM w ≠ 0)) : doLdi c w s = coreFault c 1 0 s := by
  refine if_pos ?_
  by_contra hb
  simp only [Bool.or_eq_true, not_or] at hb
  obtain ⟨⟨⟨ha, hf⟩, hm⟩, hlong⟩ := hb
  refine h.elim (fun h => h ⟨?_, ?_⟩) (fun h => ?_) <;> simp_all [noRB_iff, and_assoc]

section
variable (h : isLdi w)
include h

theorem doLdi_short (hs : bit w 48 = false) :
    doLdi c w s = modCore c (fun k => { setG (fRD w) (fIMM w) k with pc := k.pc + 8 }) s := by
  obtain ⟨ha, hb, hi, hm⟩ := h
  rw [← retireCore_setG]
  simp [doLdi, ha, (noRB_iff w).2 ⟨hb, hi⟩, hm, hs]

variable (h0 : fIMM w = 0)
include h0

theorem ldiFields_of_long : ¬ (fRA w != 0 || !noRB w || 8 ≤ fMOD w || (bit w 48 && fIMM w != 0)) = true := by
  obtain ⟨ha, hb, hi, hm⟩ := h
  simp [ha, (noRB_iff w).2 ⟨hb, hi⟩, hm, h0]

variable (hl : bit w 48 = true)
include hl

theorem doLdi_long_of_bytes {d : List Byte} {v : State} (hf : coreFetch c ((getCore s c).pc + 8) s = .bytes d v) :
    doLdi c w s = modCore c (fun k => { setG (fRD w) (wordAt d 0) k with pc := k.pc + 16 }) v := by
  rw [doLdi, if_neg (ldiFields_of_long h h0), hl]
  simp only [hf]
  simp [stepPc, w64]

theorem doLdi_long_of_fault {x : BitVec 3} {v : State} (hf : coreFetch c ((getCore s c).pc + 8) s = .fault x v) :
    doLdi c w s = coreFault c x ((getCore s c).pc + 8) v := by
  rw [doLdi, if_neg (ldiFields_of_long h h0), hl]
  simp only [hf]
  rfl

end
end

section
variable {s u : State} {c : Nat} {w : Word} (h : fetches s c w u = true)
include h

theorem exec_alu (ho : opc w = 0x90) : exec (.alu c) s = .next (doAlu c w u) := run_fetched h ho (by decide) (doAlu c)
theorem exec_bfx (ho : opc w = 0x91) : exec (.bfx c) s = .next (doBfx c w u) := run_fetched h ho (by decide) (doBfx c)
theorem exec_ldi (ho : opc w = 0x82) : exec (.ldi c) s = .next (doLdi c w u) := run_fetched h ho (by decide) (doLdi c)

end

/-- Settles O46. ALU row by row, BFX bit by bit, LDI by its length and what its second fetch answers. -/
theorem coreArithmetic : Obligations.CoreArithmetic := by
  intro s u c w h k a b n m
  refine ⟨fun ho => ⟨fun hf => ?_, fun hf hm => ?_⟩, ?_, ?_⟩
  · rw [exec_alu h ho, doAlu_of_bad_fields hf]
  · intro r cy ov
    rw [exec_alu h ho, doAlu_of_good (a := a) (b := b) (n := n) (r := r) hf hm rfl rfl rfl rfl]
    rfl
  · intro ho pos len good
    refine ⟨fun hg => ?_, fun hg => ⟨bfxValue w k, ?_, fun hm i => ?_, fun hm i hi => ?_⟩⟩
    · rw [exec_bfx h ho, doBfx_of_bad_fields hg]
    · rw [exec_bfx h ho, doBfx_of_good hg rfl]
    · obtain ⟨-, -, -, -, -, hlen⟩ := hg
      rw [bfxValue, if_neg (by omega), getLsbD_bfExtract _ _ _ _ hlen]
    · rw [bfxValue, if_pos hm, getLsbD_bfInsert _ _ _ _ _ hi]
  · intro ho good
    refine ⟨fun hf => ?_, fun hg hs => ?_, fun hg hl h0 => ⟨fun d v hd => ?_, fun x v hx => ?_⟩⟩ <;> rw [exec_ldi h ho]
    · rw [doLdi_of_bad_fields hf]
    · rw [doLdi_short hg hs]
    · rw [doLdi_long_of_bytes hg h0 hl hd]
    · rw [doLdi_long_of_fault hg h0 hl hx]

end Sys2Proof.Machine

namespace Sys2Proof.Machine

/-! ### How a core takes an instruction (R340, R362) -/

/-- Each command of a core carries out an instruction at its PC. -/
theorem exec_coreCommand {c : Nat} {i : Instr} (h : i ∈ coreCommands c) :
    ∃ o sub f, ∀ s, exec i s = runCore c o sub f s := by
  simp only [coreCommands, List.mem_cons, List.not_mem_nil, or_false] at h
  obtain rfl | rfl | rfl | rfl | rfl | rfl | rfl | rfl | rfl | rfl | rfl | rfl | rfl | rfl | rfl | rfl | rfl | rfl | rfl |
    rfl := h <;> exact ⟨_, _, _, fun _ => rfl⟩

section
variable {c o : Nat} {sub : Option Nat} {f : Word → State → State} {s : State}

theorem runCore_of_not_runs (h : coreRuns s c = false) : runCore c o sub f s = .next s := by
  rw [runCore, h]
  rfl

theorem runCore_of_fault (hr : coreRuns s c = true) {k : BitVec 3} {u : State}
    (h : coreFetch c (getCore s c).pc s = .fault k u) : runCore c o sub f s = .next (coreFault c k (getCore s c).pc u) := by
  simp only [runCore, hr, h]
  rfl

theorem runCore_of_no_opcode {w : Word} {u : State} (h : fetches s c w u = true) (ho : opc w ∉ coreOpcodes) :
    runCore c o sub f s = .next (coreFault c 1 0 u) := by
  simp only [fetches, Bool.and_eq_true] at h
  obtain ⟨hr, hw⟩ := h
  split at hw
  next d v hf =>
    obtain ⟨hd, hv⟩ : wordAt d 0 = w ∧ v = u := by simpa using hw
    simp only [runCore, hr, hf, hd, if_pos ho, hv]
    rfl
  next => cases hw

end

/-! ### Fetching (R338, R340) -/

section
variable {c : Nat} {a : Word} {s : State}

theorem coreFetch_of_line {x : Nat × List Byte} (h : (getCore s c).icache.find? (fun x => x.1 == a.toNat / 64) = some x) :
    coreFetch c a s = .bytes ((x.2.drop (a.toNat % 64)).take 8) s := by
  rw [coreFetch, h]

section
variable (h : (getCore s c).icache.find? (fun x => x.1 == a.toNat / 64) = none)
include h

theorem coreFetch_of_fault {k : BitVec 3} {u : State} (hr : coreRead c a 8 s = .fault k u) : coreFetch c a s = .fault k u := by
  rw [coreFetch, h, hr]

theorem coreFetch_of_bytes {d : List Byte} {u : State} (hr : coreRead c a 8 s = .bytes d u) : coreFetch c a s =
    .bytes d (if lineCacheable u c a && !eccAt u (a.toNat / 64 * 64) 64 then fillLine c a u else u) := by
  rw [coreFetch, h, hr]

end

theorem lineCacheable_kc (s : State) (a : Word) : lineCacheable s 8 a = false := rfl

theorem cmem_fillLine (c : Nat) (a : Word) (s : State) : (fillLine c a s).cmem = s.cmem :=
  congrArg Durable.cmem (durable_fillLine c a s)

theorem getCore_fillLine (c : Nat) (a : Word) (s : State) : getCore (fillLine c a s) c =
    { getCore s c with
      icache := ((a.toNat / 64, memRead s.cmem (64 * (a.toNat / 64)) 64) :: (getCore s c).icache).take 512 } := by
  rw [fillLine, getCore_modCore_self, getCore_softRead, getCore_softRead]

end

/-! ### Faults (R370) -/

/-- The fault of a core goes to its vector. -/
def vectored (k : Core) : Bool := k.fvec &&& ~~~7 != 0 && !k.inh

/-- The mark of a faulting core in CCSTAT, and the event as it appears (R356). -/
def faultMark (c : Nat) (x : Ctl) : Ctl :=
  if c == 8 || bit x.fault c then x else { x with fault := x.fault ||| (1 : Byte) <<< c, evpendk := x.evpendk ||| 32 }

theorem getCore_coreFault (c : Nat) (k : BitVec 3) (a : Word) (s : State) (j : Nat) : getCore (coreFault c k a s) j =
    if j ≠ c then getCore s j
    else
      let x := { getCore s c with fcause := k, fpc := (getCore s c).pc, faddr := a }
      if vectored (getCore s c) then { x with inh := true, pc := x.fvec &&& ~~~7 }
      else if c = 8 then x else { x with wait := none } := by
  simp only [coreFault, vectored, haltCore]
  repeat' split
  all_goals simp_all [evK]

theorem ctl_coreFault (c : Nat) (k : BitVec 3) (a : Word) (s : State) : (coreFault c k a s).ctl =
    if vectored (getCore s c) then faultMark c s.ctl
    else if c = 8 then { faultMark c s.ctl with phase := 9, err := 0x0A }
    else { faultMark c s.ctl with halted := (faultMark c s.ctl).halted ||| (1 : Byte) <<< c } := by
  simp only [coreFault, vectored, haltCore, faultMark]
  repeat' split
  all_goals simp_all [evK]

theorem vectored_eq_true {k : Core} : vectored k = true ↔ k.fvec &&& ~~~7 ≠ 0 ∧ k.inh = false := by simp [vectored]

theorem vectored_eq_false {k : Core} : vectored k = false ↔ k.fvec &&& ~~~7 = 0 ∨ k.inh = true := by
  rw [← Bool.not_eq_true, vectored_eq_true, not_and_or, not_ne_iff, Bool.not_eq_false]

theorem bit_mark (x : Byte) {c : Nat} (hc : c < 8) : bit (x ||| (1 : Byte) <<< c) c = true := by
  simp [bit, hc]

theorem faultMark_kc (x : Ctl) : faultMark 8 x = x := rfl

@[simp] theorem run_faultMark (c : Nat) (x : Ctl) : (faultMark c x).run = x.run := by
  unfold faultMark
  split <;> rfl

@[simp] theorem halted_faultMark (c : Nat) (x : Ctl) : (faultMark c x).halted = x.halted := by
  unfold faultMark
  split <;> rfl

@[simp] theorem phase_faultMark (c : Nat) (x : Ctl) : (faultMark c x).phase = x.phase := by
  unfold faultMark
  split <;> rfl

theorem fault_faultMark {c : Nat} (hc : c < 8) (x : Ctl) : bit (faultMark c x).fault c = true := by
  unfold faultMark
  split
  next h => simpa [show c ≠ 8 by omega] using h
  next => exact bit_mark _ hc

theorem evpendk_faultMark {c : Nat} (hc : c < 8) (x : Ctl) :
    (faultMark c x).evpendk = if bit x.fault c then x.evpendk else x.evpendk ||| 32 := by
  have : (c == 8) = false := by simp; omega
  rw [faultMark, this, Bool.false_or]
  split <;> rfl

section
variable (c : Nat) (k : BitVec 3) (a : Word) (s : State)

theorem fault_coreFault : (coreFault c k a s).ctl.fault = (faultMark c s.ctl).fault := by
  rw [ctl_coreFault]
  split_ifs <;> rfl

theorem evpendk_coreFault : (coreFault c k a s).ctl.evpendk = (faultMark c s.ctl).evpendk := by
  rw [ctl_coreFault]
  split_ifs <;> rfl

/-- The part of a fault that its core's role and its vector decide. -/
theorem coreFault_vectored (hv : (getCore s c).fvec &&& ~~~7 ≠ 0) (hi : (getCore s c).inh = false) :
    getCore (coreFault c k a s) c = { getCore s c with
      fcause := k, fpc := (getCore s c).pc, faddr := a, inh := true, pc := (getCore s c).fvec &&& ~~~7 } ∧
    (coreFault c k a s).ctl = faultMark c s.ctl := by
  have h := vectored_eq_true.2 ⟨hv, hi⟩
  rw [getCore_coreFault, ctl_coreFault, h]
  simp

theorem coreFault_halts (h : (getCore s c).fvec &&& ~~~7 = 0 ∨ (getCore s c).inh = true) (hc : c < 8) :
    getCore (coreFault c k a s) c = { getCore s c with fcause := k, fpc := (getCore s c).pc, faddr := a, wait := none } ∧
    bit (coreFault c k a s).ctl.halted c = true ∧ (coreFault c k a s).ctl.run = s.ctl.run := by
  have hne : c ≠ 8 := by omega
  rw [getCore_coreFault, ctl_coreFault, vectored_eq_false.2 h]
  simp [hne]
  exact bit_mark _ hc

end

theorem coreFault_stops (k : BitVec 3) (a : Word) (s : State)
    (h : (getCore s 8).fvec &&& ~~~7 = 0 ∨ (getCore s 8).inh = true) :
    getCore (coreFault 8 k a s) 8 = { getCore s 8 with fcause := k, fpc := (getCore s 8).pc, faddr := a } ∧
    (coreFault 8 k a s).ctl = { s.ctl with phase := 9, err := 0x0A } ∧ coreRuns (coreFault 8 k a s) 8 = false := by
  have hctl : (coreFault 8 k a s).ctl = { s.ctl with phase := 9, err := 0x0A } := by
    rw [ctl_coreFault, vectored_eq_false.2 h]
    rfl
  refine ⟨?_, hctl, ?_⟩
  · rw [getCore_coreFault, vectored_eq_false.2 h]
    simp
  · simp [coreRuns, hctl]

/-! ### Accesses that fault (R361, R370) -/

section
variable {c n : Nat} {a : Word} {s : State}

theorem coreRead_of_none (hr : regionOf c a = .none) : coreRead c a n s = .fault 4 s := by
  rw [coreRead, hr]

theorem coreRead_of_ctl_ecc (hr : regionOf c a = .ctl) (hg : coreGate c .rd a n s = none) (he : eccAt s a.toNat n = true) :
    coreRead c a n s = .fault 5 (eccCount 11 s) := by
  simp [coreRead, hr, hg, sramRead, he]

theorem regionOf_ctl (h : a.toNat < 0x1000000) : regionOf c a = .ctl := if_pos h

theorem regionOf_outside (hc : c < 8) (h : 0x1000000 ≤ a.toNat) : regionOf c a = .none := by
  simp [regionOf, show ¬ a.toNat < 0x1000000 by omega, show c ≠ 8 by omega]

theorem regionOf_kram (h : 0x80010000 ≤ a.toNat) (h' : a.toNat < 0x80030000) : regionOf 8 a = .kram := by
  simp only [regionOf]
  rw [if_neg (by omega), if_neg (by decide), if_neg (by omega), if_pos ⟨h, h'⟩]

/-- No row of the map of R361 holds the address. -/
theorem regionOf_gap (h : 0x1000000 ≤ a.toNat ∧ a.toNat < 0x80000000 ∨ 0x80008000 ≤ a.toNat ∧ a.toNat < 0x80010000 ∨
    0x80030000 ≤ a.toNat ∧ a.toNat < 0x80040000 ∨ 0x80044000 ≤ a.toNat ∧ a.toNat < 0x80050000 ∨ 0x80051000 ≤ a.toNat) :
    regionOf 8 a = .none := by
  simp only [regionOf]
  rw [if_neg (by omega), if_neg (by decide), if_neg (by omega), if_neg (by omega), if_neg (by omega), if_neg (by omega)]

end

/-- Settles O44: what a core does at its PC, its fetches with and without a line, its faults, G0, and the map. -/
theorem coreFaults : Obligations.CoreFaults := by
  intro s c hc
  refine ⟨fun i hi hr => ?_, fun i hi hr => ⟨fun k u hf => ?_, fun w u hf ho => ?_⟩, fun a x h => coreFetch_of_line h,
    fun a h => ⟨fun k u hr => coreFetch_of_fault h hr, fun d u hr => ?_⟩, fun k a => ?_,
    fun k r v j => getG_setG r v k j, fun a n => ⟨fun hc h => ?_, fun h he hg => ?_, fun hc h h' he => ?_, fun hc h => ?_⟩⟩
  · obtain ⟨o, sub, f, h⟩ := exec_coreCommand hi
    rw [h, runCore_of_not_runs hr]
  · obtain ⟨o, sub, f, h⟩ := exec_coreCommand hi
    rw [h, runCore_of_fault hr hf]
  · obtain ⟨o, sub, f, h⟩ := exec_coreCommand hi
    rw [h, runCore_of_no_opcode hf ho]
  · refine ⟨_, coreFetch_of_bytes h hr, ?_⟩
    split
    next hl =>
      obtain ⟨hl, he⟩ : lineCacheable u c a = true ∧ eccAt u (a.toNat / 64 * 64) 64 = false := by simpa using hl
      refine ⟨cmem_fillLine c a u, durable_fillLine c a u, fun h8 => ?_, fun h => ?_, ?_, fun _ _ => ?_⟩
      · rw [h8, lineCacheable_kc] at hl
        cases hl
      · rw [hl] at h
        cases h
      · rw [getCore_fillLine]
      · rw [getCore_fillLine]
        rfl
    next hl =>
      exact ⟨rfl, rfl, fun _ => rfl, fun _ => rfl, rfl, fun h he => absurd (by simp [h, he]) hl⟩
  · intro t x vector
    refine ⟨fun j hj => ?_, durable_coreFault c k a s, fun hc => ?_, fun hc => ?_, fun hv hi => ?_, fun hv => ⟨fun hc => ?_, fun hc => ?_⟩⟩
    · rw [getCore_coreFault, if_pos hj]
    · rw [fault_coreFault, evpendk_coreFault]
      exact ⟨fault_faultMark hc _, evpendk_faultMark hc _⟩
    · subst hc
      rw [fault_coreFault, evpendk_coreFault, faultMark_kc]
      exact ⟨rfl, rfl⟩
    · obtain ⟨hcore, hctl⟩ := coreFault_vectored c k a s hv hi
      rw [hctl]
      exact ⟨hcore, halted_faultMark c _, phase_faultMark c _⟩
    · exact coreFault_halts c k a s hv hc
    · subst hc
      obtain ⟨hcore, hctl, hruns⟩ := coreFault_stops k a s hv
      rw [hctl]
      exact ⟨hcore, rfl, rfl, hruns⟩
  · rw [coreRead_of_none (regionOf_outside hc h)]
  · exact ⟨_, coreRead_of_ctl_ecc (regionOf_ctl h) hg he⟩
  · subst hc
    exact coreRead_of_kram_ecc (regionOf_kram h h') he
  · subst hc
    exact coreRead_of_none (regionOf_gap h)

end Sys2Proof.Machine

namespace Sys2Proof.Machine

/-! ### CRR and CRW (R368) -/

section
variable {c : Nat} {w : Word} {s : State}

/-- The fields of a register instruction that must hold 0 do. -/
def plainFields (w : Word) : Prop := fRB w = 0 ∧ fI w = false ∧ fMOD w < 2

theorem plainFields_iff : ¬ plainFields w ↔ (!noRB w || 2 ≤ fMOD w) = true := by
  rw [plainFields, ← and_assoc, ← noRB_iff]
  cases noRB w
  · simp
  · simp [Nat.succ_le_iff]

theorem bit_48_eq_one (h : plainFields w) : bit w 48 = decide (fMOD w = 1) := by
  obtain ⟨-, -, hm⟩ := h
  rw [bit_48]
  congr 1
  rw [eq_iff_iff]
  omega

theorem crSize_eq (h : plainFields w) : crSize w = if fMOD w = 1 then 8 else 4 := by
  simp only [crSize, bit_48_eq_one h, decide_eq_true_eq]

theorem crFault_of_bad_fields (h : ¬ plainFields w) : crFault c w s = some (coreFault c 1 0 s) := if_pos (plainFields_iff.1 h)

section
variable {a : Word} {n : Nat} (h : plainFields w) (hA : coreAddr c w s = a) (hN : (if fMOD w = 1 then 8 else 4) = n)
include h hA hN

theorem crFault_eq : crFault c w s = if ¬ a.toNat % n = 0 then some (coreFault c 2 a s)
    else if 0x4000000 ≤ a.toNat then some (coreFault c 4 a s) else none := by
  have hf : ¬ (!noRB w || 2 ≤ fMOD w) = true := fun hb => plainFields_iff.2 hb h
  simp only [crFault, if_neg hf, crSize_eq h, hN, hA, aligned]
  by_cases ha : a.toNat % n = 0 <;> simp [ha]

theorem crFault_of_misaligned (ha : a.toNat % n ≠ 0) : crFault c w s = some (coreFault c 2 a s) := by
  rw [crFault_eq h hA hN, if_pos ha]

theorem crFault_of_bus (ha : a.toNat % n = 0) (hb : 0x4000000 ≤ a.toNat) : crFault c w s = some (coreFault c 4 a s) := by
  rw [crFault_eq h hA hN, if_neg (not_not.2 ha), if_pos hb]

theorem crFault_of_register (ha : a.toNat % n = 0) (hb : a.toNat < 0x4000000) : crFault c w s = none := by
  rw [crFault_eq h hA hN, if_neg (not_not.2 ha), if_neg (by omega)]

end

theorem doCrr_of_fault {t : State} (h : crFault c w s = some t) : doCrr c w s = t := by rw [doCrr, h]
theorem doCrw_of_fault {t : State} (h : crFault c w s = some t) : doCrw c w s = t := by rw [doCrw, h]

section
variable (h : crFault c w s = none)
include h

theorem doCrr_of_four (h48 : bit w 48 = false) : doCrr c w s =
    retireCore c (setG (fRD w) ((regRead (reqOf c) (coreAddr c w s).toNat s).1.zeroExtend 64))
      (regRead (reqOf c) (coreAddr c w s).toNat s).2 := by
  rw [doCrr, h, h48]
  rfl

theorem doCrr_of_eight (h48 : bit w 48 = true) : doCrr c w s =
    retireCore c (setG (fRD w) (regRead64 (reqOf c) (coreAddr c w s).toNat s).1)
      (regRead64 (reqOf c) (coreAddr c w s).toNat s).2 := by
  rw [doCrr, h, h48]
  rfl

theorem doCrw_of_register : doCrw c w s =
    if bit w 48 then regWrite64 (reqOf c) (coreAddr c w s).toNat (getG (getCore s c) (fRD w)) (retireCore c id s)
    else regWrite (reqOf c) (coreAddr c w s).toNat (lo32 (getG (getCore s c) (fRD w))) (retireCore c id s) := by
  rw [doCrw, h]

end
end

/-! ### LCR (R369) -/

section
variable {c : Nat} {w : Word} {s : State}

/-- Every field of an LCR holds what R369 allows, its register number among them. -/
def isLcr (w : Word) : Prop := plainFields w ∧ fld w 24 24 = 0 ∧ fld w 16 8 < 12

theorem lcrRead_eq_none {n : Nat} (h : 12 ≤ n) : lcrRead s c n = none := by
  obtain ⟨k, rfl⟩ := Nat.exists_eq_add_of_le' h
  rfl

theorem lcrRead_isSome {n : Nat} (h : n < 12) : ∃ y, lcrRead s c n = some y := by
  interval_cases n <;> exact ⟨_, rfl⟩

theorem doLcr_of_bad_fields (h : ¬ isLcr w) : doLcr c w s = coreFault c 1 0 s := by
  simp only [doLcr]
  split
  · rfl
  · rename_i hf
    rw [Bool.or_eq_true, not_or] at hf
    obtain ⟨hp, h24⟩ := hf
    rw [← plainFields_iff, not_not] at hp
    have hn : 12 ≤ fld w 16 8 := by
      by_contra hn
      exact h ⟨hp, by simpa using h24, by omega⟩
    rw [lcrRead_eq_none hn]
    rfl

section
variable (h : isLcr w)
include h

theorem doLcr_of_good {y : Word} (hy : lcrRead s c (fld w 16 8) = some y) : doLcr c w s =
    if bit w 48 then retireCore c id (lcrWrite c (fld w 16 8) (getG (getCore s c) (fRA w)) s)
    else retireCore c (setG (fRD w) y) s := by
  obtain ⟨hp, h24, -⟩ := h
  have hf := fun hb => plainFields_iff.2 hb hp
  have hf' : ¬ (!noRB w || 2 ≤ fMOD w || fld w 24 24 != 0) = true := by simpa [h24] using hf
  simp only [doLcr, if_neg hf', hy]

theorem doLcr_of_read (hm : fMOD w = 0) {y : Word} (hy : lcrRead s c (fld w 16 8) = some y) :
    doLcr c w s = modCore c (fun k => { setG (fRD w) y k with pc := k.pc + 8 }) s := by
  rw [doLcr_of_good h hy, bit_48_eq_one h.1, hm]
  exact retireCore_setG ..

theorem doLcr_of_write (hm : fMOD w = 1) :
    doLcr c w s = retireCore c id (lcrWrite c (fld w 16 8) (getG (getCore s c) (fRA w)) s) := by
  obtain ⟨y, hy⟩ := lcrRead_isSome (s := s) (c := c) h.2.2
  rw [doLcr_of_good h hy, bit_48_eq_one h.1, hm]
  rfl

end
end

/-- SVCSTAT holds the state of each slot in two bits. -/
theorem fld_svcStat (s : State) (c : Nat) {i : Nat} (hi : i < 4) :
    fld (w64 (svcStat (getCore s c))) (2 * i) 2 = slotCode (getSvc s c i).st := by
  have hle : ∀ v : SlotState, slotCode v < 3 := by
    intro v
    cases v <;> decide
  have h0 := hle (getCore s c).svc0.st
  have h1 := hle (getCore s c).svc1.st
  have h2 := hle (getCore s c).svc2.st
  have h3 := hle (getCore s c).svc3.st
  interval_cases i <;> simp [fld, w64, svcStat, getSvc, Nat.shiftRight_eq_div_pow] <;> omega

/-- One change in each of some cores. -/
theorem getCore_forAll_modCore (f : Core → Core) {l : List Nat} (hl : l.Nodup) (s : State) (j : Nat) :
    getCore (forAll l (fun n s => modCore n f s) s) j = if j ∈ l then f (getCore s j) else getCore s j := by
  induction l generalizing s with
  | nil => rfl
  | cons n l ih =>
    obtain ⟨hn, hl⟩ := List.nodup_cons.1 hl
    refine (ih hl (modCore n f s)).trans ?_
    rw [getCore_modCore]
    by_cases hj : j = n
    · subst hj
      simp [hn]
    · simp [hj]

theorem getCore_signal (v : Word) (s : State) (j : Nat) : getCore (signal v s) j =
    if j < 9 ∧ bit v j = true then { getCore s j with lev := (getCore s j).lev ||| 4 } else getCore s j := by
  rw [signal, getCore_forAll_modCore _ (List.nodup_range.filter _)]
  simp

theorem getCore_timerCheck (c : Nat) (s : State) (j : Nat) : getCore (timerCheck c s) j =
    if j = c ∧ (getCore s c).tcmp ≠ 0 ∧ (getCore s c).tcmp.toNat ≤ s.time.toNat
    then { getCore s c with lev := (getCore s c).lev ||| 2 } else getCore s j := by
  unfold timerCheck
  split
  next h =>
    rw [Bool.and_eq_true, decide_eq_true_eq, bne_iff_ne] at h
    rw [getCore_modCore]
    by_cases hj : j = c
    · rw [if_pos hj, if_pos ⟨hj, h⟩]
    · rw [if_neg hj, if_neg (fun hp => hj hp.1)]
  next h =>
    rw [if_neg]
    simpa using fun _ => h

theorem lev_signal (v : Word) (s : State) (j : Nat) : (getCore (signal v s) j).lev =
    if j < 9 ∧ bit v j = true then (getCore s j).lev ||| 4 else (getCore s j).lev := by
  rw [getCore_signal]
  split <;> rfl

theorem pc_signal (v : Word) (s : State) (j : Nat) : (getCore (signal v s) j).pc = (getCore s j).pc := by
  rw [getCore_signal]
  split <;> rfl

theorem getCore_retireCore_id (c : Nat) (s : State) (j : Nat) : getCore (retireCore c id s) j =
    if j = c then { getCore s c with pc := (getCore s c).pc + 8 } else getCore s j := getCore_modCore ..

theorem lev_retireCore_id (c : Nat) (s : State) (j : Nat) : (getCore (retireCore c id s) j).lev = (getCore s j).lev := by
  rw [getCore_retireCore_id]
  split
  next h => rw [h]
  next => rfl

theorem ctl_lcrWrite (c n : Nat) (v : Word) (s : State) : (lcrWrite c n v s).ctl = s.ctl := by
  unfold lcrWrite
  split
  case h_3 => 
    unfold timerCheck
    split <;> rfl
  case h_5 =>
    unfold signal
    refine forAll_ind (fun t => t.ctl = s.ctl) _ _ (fun n t h => ?_) s rfl
    exact h
  all_goals rfl

/-- What a write of a core-local register other than SIGOUT leaves in its core. -/
def lcrWritten (n : Nat) (v now : Word) (k : Core) : Core :=
  { k with
    fvec := if n = 3 then v &&& ~~~7 else k.fvec
    inh := if n = 7 then bit v 0 else k.inh
    tcmp := if n = 8 then v else k.tcmp
    lev := if n = 9 then k.lev &&& ~~~(bits v 0 3)
      else if n = 8 ∧ v ≠ 0 ∧ v.toNat ≤ now.toNat then k.lev ||| 2 else k.lev }

theorem getCore_lcrWrite (c : Nat) {n : Nat} (hn : n ≠ 10) (v : Word) (s : State) (j : Nat) :
    getCore (lcrWrite c n v s) j = if j = c then lcrWritten n v s.time (getCore s c) else getCore s j := by
  unfold lcrWrite
  split
  case h_3 =>
    rw [getCore_timerCheck, getCore_modCore_self, getCore_modCore]
    by_cases hj : j = c
    · simp only [hj, lcrWritten, modCore_time, true_and, if_true]
      split <;> rfl
    · simp [hj]
  case h_5 => exact absurd rfl hn
  case h_6 h3 h7 h8 h9 h10 =>
    by_cases hj : j = c
    · subst hj
      simp_all [lcrWritten]
    · simp [hj]
  all_goals
    rw [getCore_modCore]
    rfl


theorem durable_lcrWritten_retired (c n : Nat) (v : Word) (s : State) :
    durable (retireCore c id (lcrWrite c n v s)) = durable s := by
  rw [durable_retireCore, durable_lcrWrite]

/-! ### WFE (R371) -/

section
variable {c : Nat} {w : Word} {s : State}

theorem wakeCore_eq (c r : Nat) (s : State) : wakeCore c r s =
    modCore c (fun k => { setG r (eventWord s c) { k with wait := none } with pc := k.pc + 8 }) s := by
  refine modCore_congr ?_
  rw [stepPc, pc_setG]
  rfl

/-- Every field of a WFE holds what R371 allows, and its mask names an event. -/
def isWfe (w mask : Word) : Prop := fRB w = 0 ∧ fI w = false ∧ fIMM w = 0 ∧ fMOD w = 0 ∧ mask ≠ 0

theorem doWfe_of_bad_fields (h : ¬ isWfe w (getG (getCore s c) (fRA w))) : doWfe c w s = coreFault c 1 0 s := by
  refine if_pos ?_
  by_contra hb
  exact h (by simpa [isWfe, noRB_iff, and_assoc] using hb)

section
variable {mask : Word} (hM : getG (getCore s c) (fRA w) = mask) (h : isWfe w mask)
include hM h

theorem doWfe_of_good : doWfe c w s = if eventWord s c &&& mask != 0 then wakeCore c (fRD w) s
    else modCore c (fun k => { k with wait := some (mask, bits w 0 5) }) s := by
  obtain ⟨hb, hi, h0, hm, hmask⟩ := h
  have hgood : ¬ (!noRB w || fIMM w != 0 || fMOD w != 0 || mask == 0) = true := by
    simpa [(noRB_iff w).2 ⟨hb, hi⟩, h0, hm] using hmask
  rw [doWfe, hM, if_neg hgood]

theorem doWfe_of_event (he : eventWord s c &&& mask ≠ 0) : doWfe c w s = wakeCore c (fRD w) s := by
  rw [doWfe_of_good hM h, if_pos (bne_iff_ne.2 he)]

theorem doWfe_of_no_event (he : eventWord s c &&& mask = 0) :
    doWfe c w s = modCore c (fun k => { k with wait := some (mask, bits w 0 5) }) s := by
  rw [doWfe_of_good hM h, he]
  rfl

end
end

theorem exec_wfeWake_of_wait {c : Nat} {x : State} {mask : Word} {rd : BitVec 5} (hx : x.inReset = false)
    (h : (getCore x c).wait = some (mask, rd)) :
    exec (.wfeWake c) x = .next (if eventWord x c &&& mask != 0 then wakeCore c rd.toNat x else x) := by
  change execWfeWake c x = _
  simp only [execWfeWake, h, hx, Bool.not_false, Bool.true_and]
  split <;> rfl

/-- TIMER is set when block time is at TCMP or past it. -/
theorem timerCheck_eq (c : Nat) (s : State) : timerCheck c s =
    if (getCore s c).tcmp ≠ 0 ∧ (getCore s c).tcmp.toNat ≤ s.time.toNat
    then modCore c (fun k => { k with lev := k.lev ||| 2 }) s else s := by
  simp only [timerCheck, Bool.and_eq_true, bne_iff_ne, decide_eq_true_eq]

section
variable {s u : State} {c : Nat} {w : Word} (h : fetches s c w u = true)
include h

theorem exec_crr (ho : opc w = 0xB0) : exec (.crr c) s = .next (doCrr c w u) := run_fetched h ho (by decide) (doCrr c)
theorem exec_crw (ho : opc w = 0xB1) : exec (.crw c) s = .next (doCrw c w u) := run_fetched h ho (by decide) (doCrw c)
theorem exec_lcr (ho : opc w = 0xB2) : exec (.lcr c) s = .next (doLcr c w u) := run_fetched h ho (by decide) (doLcr c)
theorem exec_wfe (ho : opc w = 0xC0) : exec (.wfe c) s = .next (doWfe c w u) := run_fetched h ho (by decide) (doWfe c)

/-- What fails in CRR and in CRW is a fault of the core. -/
theorem exec_cr_of_fault {i : Instr} (hi : (opc w = 0xB0 ∧ i = .crr c) ∨ (opc w = 0xB1 ∧ i = .crw c)) {t : State}
    (hf : crFault c w u = some t) : exec i s = .next t := by
  obtain ⟨ho, rfl⟩ | ⟨ho, rfl⟩ := hi
  · rw [exec_crr h ho, doCrr_of_fault hf]
  · rw [exec_crw h ho, doCrw_of_fault hf]

end

/-- Settles O48: CRR and CRW by their one table of faults, LCR register by register, WFE by the event word. -/
theorem coreRegisters : Obligations.CoreRegisters := by
  intro s u c w h hc k a r size fields E
  have hA : coreAddr c w u = a := rfl
  have hN : (if fMOD w = 1 then 8 else 4) = size := rfl
  have hR : reqOf c = r := by simp [reqOf, r]
  have hE : ∀ x, eventWord x c = E x := fun x => by simp [eventWord, E]
  refine ⟨fun i hi => ⟨fun hf => ?_, fun hf ha => ?_, fun hf ha hb => ?_⟩, fun ho hf ha hb => ⟨fun hm => ?_, fun hm => ?_⟩,
    fun ho hf ha hb => ?_, ?_, ?_, fun x mask rd hx hwait => ⟨fun he => ?_, fun he => ?_⟩, fun x hx => ?_⟩
  · exact exec_cr_of_fault h hi (crFault_of_bad_fields hf)
  · exact exec_cr_of_fault h hi (crFault_of_misaligned hf hA hN ha)
  · exact exec_cr_of_fault h hi (crFault_of_bus hf hA hN ha hb)
  · have h48 : bit w 48 = false := by simp [bit_48_eq_one hf, hm]
    rw [exec_crr h ho, doCrr_of_four (crFault_of_register hf hA hN ha hb) h48, hA, hR, retireCore_setG]
  · have h48 : bit w 48 = true := by simp [bit_48_eq_one hf, hm]
    rw [exec_crr h ho, doCrr_of_eight (crFault_of_register hf hA hN ha hb) h48, hA, hR, retireCore_setG]
  · intro v
    rw [exec_crw h ho, doCrw_of_register (crFault_of_register hf hA hN ha hb), hA, hR, bit_48_eq_one hf, retireCore_id]
    simp only [decide_eq_true_eq]
    rfl
  · intro ho n good x
    refine ⟨fun hg => ?_, fun hg hm => ?_, fun hg hm => ?_⟩
    · rw [exec_lcr h ho, doLcr_of_bad_fields hg]
    · obtain ⟨y, hy⟩ := lcrRead_isSome (s := u) (c := c) hg.2.2
      have hv : ∀ i, n = i → lcrRead u c i = some y := fun i hi => hi ▸ hy
      refine ⟨y, by rw [exec_lcr h ho, doLcr_of_read hg hm hy], fun hn => ?_, fun hn => (Option.some.inj (hv 1 hn)).symm,
        fun hn => (Option.some.inj (hv 2 hn)).symm, fun hn => (Option.some.inj (hv 3 hn)).symm, fun hn => ?_,
        fun hn => (Option.some.inj (hv 5 hn)).symm, fun hn => (Option.some.inj (hv 6 hn)).symm, fun hn => ?_,
        fun hn => (Option.some.inj (hv 8 hn)).symm, fun hn => ?_, fun hn => (Option.some.inj (hv 10 hn)).symm,
        fun hn i hi => ?_⟩
      · rw [← Option.some.inj (hv 0 hn)]
        exact Nat.mod_eq_of_lt (by omega)
      · rw [← Option.some.inj (hv 4 hn)]
        exact BitVec.toNat_setWidth_of_le (by decide)
      · rw [← Option.some.inj (hv 7 hn)]
        cases k.inh <;> rfl
      · rw [← Option.some.inj (hv 9 hn)]
        exact BitVec.toNat_setWidth_of_le (by decide)
      · rw [← Option.some.inj (hv 11 hn), fld_svcStat u c hi]
        cases (getSvc u c i).st <;> rfl
    · refine ⟨_, by rw [exec_lcr h ho, doLcr_of_write hg hm], durable_lcrWritten_retired c n x u, ctl_lcrWrite c n x u,
        fun hn => ⟨fun j hj => ?_, ?_⟩, fun hn => ⟨?_, fun j => ?_⟩⟩
      · rw [getCore_retireCore_id, if_neg hj, getCore_lcrWrite c hn, if_neg hj]
      · rw [getCore_retireCore_id, if_pos rfl, getCore_lcrWrite c hn, if_pos rfl]
        rfl
      · rw [getCore_retireCore_id, if_pos rfl, hn]
        exact congrArg (· + 8) (pc_signal x u c)
      · rw [lev_retireCore_id, hn]
        exact lev_signal x u j
  · intro ho mask good
    refine ⟨fun hg => ?_, fun hg he => ?_, fun hg he => ?_⟩ <;> rw [exec_wfe h ho]
    · rw [doWfe_of_bad_fields hg]
    · rw [doWfe_of_event rfl hg (by rwa [hE]), wakeCore_eq, hE]
    · rw [doWfe_of_no_event rfl hg (by rwa [hE])]
  · rw [exec_wfeWake_of_wait hx hwait, hE, he]
    rfl
  · rw [exec_wfeWake_of_wait hx hwait, wakeCore_eq, hE, if_pos (bne_iff_ne.2 he)]
  · rw [← timerCheck_eq]
    have hg : (x.inReset || decide (9 ≤ c)) = false := by simp [hx, hc]
    simp only [exec, execTimer, hg]
    rfl

end Sys2Proof.Machine

namespace Sys2Proof.Machine

/-! ### MBX (R372) -/

section
variable {c m r : Nat} {w : Word} {s : State}

theorem setZ_eq (c : Nat) (z : Bool) (s : State) :
    setZ c z s = modCore c (fun k => { k with z := z, pc := k.pc + 8 }) s := rfl

/-- The core behind an instruction that sets Z. -/
theorem getCore_setZ (c : Nat) (z : Bool) (s : State) :
    getCore (setZ c z s) c = { getCore s c with z := z, pc := (getCore s c).pc + 8 } := getCore_modCore_self ..

theorem getG_setZ (c : Nat) (z : Bool) (s : State) (j : Nat) : getG (getCore (setZ c z s) c) j = getG (getCore s c) j := by
  rw [getCore_setZ]
  rfl

/-- Every field of an MBX of a role holds what R372 allows. -/
def mbxForm (role : Nat → Requester → Bool) (c : Nat) (w : Word) : Prop :=
  fRA w = 0 ∧ fRB w = 0 ∧ fI w = false ∧ fld w 20 28 = 0 ∧ fMOD w < 4 ∧ fld w 16 4 ≤ 10 ∧ 1 ≤ fRD w ∧ fRD w ≤ 24 ∧
    role (fld w 16 4) (reqOf c) = true

theorem mbxOp_of_bad_fields {role : Nat → Requester → Bool} (f : Nat → Nat → State → State) (h : ¬ mbxForm role c w) :
    mbxOp c role f w s = coreFault c 1 0 s := by
  refine if_pos ?_
  by_contra hb
  refine h ?_
  simpa [mbxForm, noRB_iff, and_assoc, Nat.one_le_iff_ne_zero] using hb

theorem mbxOp_of_good {role : Nat → Requester → Bool} (f : Nat → Nat → State → State) (h : mbxForm role c w) :
    mbxOp c role f w s = f (fld w 16 4) (fRD w) s := by
  obtain ⟨ha, hb, hi, h20, hm, h10, h1, h24, hrole⟩ := h
  refine if_neg ?_
  simpa [ha, (noRB_iff w).2 ⟨hb, hi⟩, h20, hm, h10, hrole] using ⟨Nat.one_le_iff_ne_zero.1 h1, h24⟩

/-! #### SEND -/

theorem mbxSend_of_busy (h : (getMbx s m).busy = true) : mbxSend c m r s = setZ c false s := if_pos h

section
variable (h : (getMbx s m).busy = false)
include h

theorem mbxSend_of_free : mbxSend c m r s =
    setZ c true (mbxPost m (modMbx m (fun x => { x with req := putWords 0 (group (getCore s c) r) x.req }) s)) :=
  if_neg (by simp [h])

theorem getMbx_mbxSend (j : Nat) : getMbx (mbxSend c m r s) j =
    if j = m then { getMbx s m with busy := true, req := putWords 0 (group (getCore s c) r) (getMbx s m).req }
    else getMbx s j := by
  rw [mbxSend_of_free h, setZ_eq, getMbx_modCore, getMbx_mbxPost]
  by_cases hj : j = m <;> simp [hj]

theorem getCore_mbxSend : getCore (mbxSend c m r s) c = { getCore s c with z := true, pc := (getCore s c).pc + 8 } := by
  rw [mbxSend_of_free h, getCore_setZ]
  simp [getCore]

end

/-! #### TAKE and COLLECT -/

theorem mbxTake_of_free (h : (getMbx s m).busy = false) : mbxTake c m r s = setZ c false s := if_pos (by simp [h])

theorem mbxTake_of_busy (h : (getMbx s m).busy = true) : mbxTake c m r s =
    setZ c true (modCore c (setGroup r ((List.range 8).map (reqWord s m))) s) := if_neg (by simp [h])

theorem mbxCollect_of_not_done (h : (getMbx s m).done = false) : mbxCollect c m r s = setZ c false s := if_pos (by simp [h])

theorem mbxCollect_of_done (h : (getMbx s m).done = true) : mbxCollect c m r s =
    setZ c true (modCore c (setGroup r ((List.range 8).map (rspWord s m))) (modMbx m (fun x => { x with done := false }) s)) :=
  if_neg (by simp [h])

/-- Eight words reach a group of registers. -/
theorem getG_setGroup8 (f : Nat → Word) (h : 1 ≤ r) (k : Core) (j : Nat) :
    getG (setGroup r ((List.range 8).map f) k) j = if r ≤ j ∧ j < r + 8 then f (j - r) else getG k j := by
  obtain ⟨hg, -⟩ := setGroup_spec ((List.range 8).map f) r h k
  rw [hg]
  simp only [List.length_map, List.length_range]
  split
  · simp [show j - r < 8 by omega]
  · rfl

theorem pc_setGroup (ws : List Word) (h : 1 ≤ r) (k : Core) : (setGroup r ws k).pc = k.pc := (setGroup_spec ws r h k).2

/-! #### ANSWER -/

theorem mbxAns_of_free (h : (getMbx s m).busy = false) : mbxAns c m r s = setZ c false s := if_pos (by simp [h])

/-- The answer, with the eight words of the group in it. -/
def answerWith (c m r : Nat) (s : State) : State :=
  mbxDone m (modMbx m (fun x => { x with rsp := putWords 0 (group (getCore s c) r) x.rsp }) s)

theorem getMbx_answerWith (h : (getMbx s m).busy = true) (j : Nat) : getMbx (answerWith c m r s) j =
    if j = m then { getMbx s m with
      busy := false, done := true, rsp := putWords 0 (group (getCore s c) r) (getMbx s m).rsp } else getMbx s j := by
  rw [answerWith, getMbx_mbxDone]
  by_cases hj : j = m <;> simp [hj, h]

theorem getCore_answerWith (j : Nat) : getCore (answerWith c m r s) j = getCore s j := by simp [answerWith, getCore]

theorem answerMbx_of_ne (h : m ≠ 9) : answerMbx m s = mbxDone m s := by simp [answerMbx, h]

theorem nextNotice_of_none (h : s.ctl.notices = []) : nextNotice s = s := by rw [nextNotice, h]

/-- No notice is outstanding and none waits: the answer of mailbox 9 means nothing to Bedrock. -/
theorem answerMbx_of_no_notice (hb : (getMbx s 9).busy = true) (hn : s.ctl.noticed = none) (hw : s.ctl.notices = []) :
    answerMbx 9 s = mbxDone 9 s := by
  have hctl := ctl_mbxDone 9 s hb
  have hn' : (mbxDone 9 s).ctl.noticed = none := by simpa [hctl]
  have hw' : (mbxDone 9 s).ctl.notices = [] := by simpa [hctl]
  simp only [answerMbx, noticeAnswered, hn', nextNotice_of_none hw']
  exact ite_self _

theorem mbxAns_of_busy (h : (getMbx s m).busy = true)
    (hm : m ≠ 9 ∨ m = 9 ∧ s.ctl.noticed = none ∧ s.ctl.notices = []) :
    mbxAns c m r s = setZ c true (answerWith c m r s) := by
  have hb : ∀ f : Tbl Word → Tbl Word, (getMbx (modMbx m (fun x => { x with rsp := f x.rsp }) s) m).busy = true := by
    intro f
    simpa using h
  rw [mbxAns, if_neg (by simp [h]), answerWith]
  obtain hm | ⟨rfl, hn, hw⟩ := hm
  · rw [answerMbx_of_ne hm]
  · rw [answerMbx_of_no_notice (hb _) hn hw]

theorem getMbx_mbxAns (h : (getMbx s m).busy = true) (hm : m ≠ 9 ∨ m = 9 ∧ s.ctl.noticed = none ∧ s.ctl.notices = []) (j : Nat) :
    getMbx (mbxAns c m r s) j = if j = m then { getMbx s m with
      busy := false, done := true, rsp := putWords 0 (group (getCore s c) r) (getMbx s m).rsp } else getMbx s j := by
  rw [mbxAns_of_busy h hm, setZ_eq, getMbx_modCore, getMbx_answerWith h]

theorem getCore_mbxAns (h : (getMbx s m).busy = true) (hm : m ≠ 9 ∨ m = 9 ∧ s.ctl.noticed = none ∧ s.ctl.notices = []) :
    getCore (mbxAns c m r s) c = { getCore s c with z := true, pc := (getCore s c).pc + 8 } := by
  rw [mbxAns_of_busy h hm, getCore_setZ, getCore_answerWith]

/-- Word j of the eight that a group puts into a mailbox. -/
theorem tget_putGroup (k : Core) (r : Nat) (t : Tbl Word) {j : Nat} (hj : j < 8) :
    tget 0 (putWords 0 (group k r) t) j = getG k (r + j) := by
  rw [tget_putWords, if_pos (by simpa [group] using hj)]
  exact group8 k r j hj

end

section
variable {s u : State} {c : Nat} {w : Word} (h : fetches s c w u = true) (ho : opc w = 0xC8)
include h ho

theorem exec_mbxSend (hm : fMOD w % 4 = 0) : exec (.mbxSend c) s = .next (mbxOp c mbxSender (mbxSend c) w u) :=
  run_fetchedSub h ho hm (by decide) (mbxOp c mbxSender (mbxSend c))

theorem exec_mbxTake (hm : fMOD w % 4 = 1) : exec (.mbxTake c) s = .next (mbxOp c mbxReceiver (mbxTake c) w u) :=
  run_fetchedSub h ho hm (by decide) (mbxOp c mbxReceiver (mbxTake c))

theorem exec_mbxAnswer (hm : fMOD w % 4 = 2) : exec (.mbxAnswer c) s = .next (mbxOp c mbxReceiver (mbxAns c) w u) :=
  run_fetchedSub h ho hm (by decide) (mbxOp c mbxReceiver (mbxAns c))

theorem exec_mbxCollect (hm : fMOD w % 4 = 3) : exec (.mbxCollect c) s = .next (mbxOp c mbxSender (mbxCollect c) w u) :=
  run_fetchedSub h ho hm (by decide) (mbxOp c mbxSender (mbxCollect c))

end

/-- Settles O49: the form first, then each of the four operations with its mailbox in either state. -/
theorem coreMailboxes : Obligations.CoreMailboxes := by
  intro s u c w h ho k m r q op i role good retire
  have hQ : reqOf c = q := by simp [reqOf, q]
  have hsend : op % 4 = 0 ∨ op % 4 = 3 → (good ↔ mbxForm mbxSender c w) := fun hop => by
    have hr : role = mbxSender m q := if_pos hop
    simp only [good, hr, mbxForm, hQ]
    rfl
  have hrecv : op % 4 = 1 ∨ op % 4 = 2 → (good ↔ mbxForm mbxReceiver c w) := fun hop => by
    have hr : role = mbxReceiver m q := if_neg (by omega)
    simp only [good, hr, mbxForm, hQ]
    rfl
  refine ⟨fun hg => ?_, fun hg hop hb => ?_, fun hg hop hb => ?_, fun hg hop hb => ?_, fun hg hop hb => ?_, fun hg hop hb => ?_,
    fun hg hop hb hm => ?_, fun hg hop hb hm hn hw => ?_, fun hg hop hd => ?_, fun hg hop hd => ?_⟩
  · obtain hop | hop | hop | hop : op % 4 = 0 ∨ op % 4 = 1 ∨ op % 4 = 2 ∨ op % 4 = 3 := by omega
    · rw [show i = .mbxSend c by simp [i, hop], exec_mbxSend h ho hop, mbxOp_of_bad_fields _ (mt (hsend (.inl hop)).2 hg)]
    · rw [show i = .mbxTake c by simp [i, hop], exec_mbxTake h ho hop, mbxOp_of_bad_fields _ (mt (hrecv (.inl hop)).2 hg)]
    · rw [show i = .mbxAnswer c by simp [i, hop], exec_mbxAnswer h ho hop, mbxOp_of_bad_fields _ (mt (hrecv (.inr hop)).2 hg)]
    · rw [show i = .mbxCollect c by simp [i, hop], exec_mbxCollect h ho hop,
        mbxOp_of_bad_fields _ (mt (hsend (.inr hop)).2 hg)]
  · rw [exec_mbxSend h ho (by omega), mbxOp_of_good _ ((hsend (by omega)).1 hg), mbxSend_of_busy hb]
    rfl
  · rw [exec_mbxSend h ho (by omega), mbxOp_of_good _ ((hsend (by omega)).1 hg)]
    refine ⟨_, rfl, getCore_mbxSend hb, ?_, fun j hj => ?_, fun j hj => ?_, durable_mbxSend ..⟩
    · rw [getMbx_mbxSend hb, if_pos rfl]
    · rw [reqWord, getMbx_mbxSend hb, if_pos rfl, tget_putGroup _ _ _ hj]
    · rw [getMbx_mbxSend hb, if_neg hj]
  · rw [exec_mbxTake h ho (by omega), mbxOp_of_good _ ((hrecv (by omega)).1 hg), mbxTake_of_free hb]
    rfl
  · rw [exec_mbxTake h ho (by omega), mbxOp_of_good _ ((hrecv (by omega)).1 hg), mbxTake_of_busy hb]
    obtain ⟨-, -, -, -, -, -, h1, -⟩ := hg
    refine ⟨_, rfl, rfl, rfl, ?_, ?_, ?_, fun j hj => ?_, fun j => ?_⟩
    · simp
    · rw [getCore_setZ]
    · rw [getCore_setZ, getCore_modCore_self, pc_setGroup _ h1]
    · simp [setZ_eq, hj]
    · rw [getG_setZ, getCore_modCore_self, getG_setGroup8 _ h1]
  · rw [exec_mbxAnswer h ho (by omega), mbxOp_of_good _ ((hrecv (by omega)).1 hg), mbxAns_of_free hb]
    rfl
  · rw [exec_mbxAnswer h ho (by omega), mbxOp_of_good _ ((hrecv (by omega)).1 hg)]
    refine ⟨_, rfl, getCore_mbxAns hb (.inl hm), ?_, ?_, fun j hj => ?_, fun j hj => ?_, durable_mbxAns ..⟩
    · rw [getMbx_mbxAns hb (.inl hm), if_pos rfl]
    · rw [getMbx_mbxAns hb (.inl hm), if_pos rfl]
    · rw [rspWord, getMbx_mbxAns hb (.inl hm), if_pos rfl, tget_putGroup _ _ _ hj]
    · rw [getMbx_mbxAns hb (.inl hm), if_neg hj]
  · rw [exec_mbxAnswer h ho (by omega), mbxOp_of_good _ ((hrecv (by omega)).1 hg)]
    refine ⟨_, rfl, getCore_mbxAns hb (.inr ⟨hm, hn, hw⟩), ?_, ?_, fun j hj => ?_⟩
    · rw [getMbx_mbxAns hb (.inr ⟨hm, hn, hw⟩), if_pos rfl]
    · rw [getMbx_mbxAns hb (.inr ⟨hm, hn, hw⟩), if_pos rfl]
    · rw [rspWord, getMbx_mbxAns hb (.inr ⟨hm, hn, hw⟩), if_pos rfl, tget_putGroup _ _ _ hj]
  · rw [exec_mbxCollect h ho (by omega), mbxOp_of_good _ ((hsend (by omega)).1 hg), mbxCollect_of_not_done hd]
    rfl
  · rw [exec_mbxCollect h ho (by omega), mbxOp_of_good _ ((hsend (by omega)).1 hg), mbxCollect_of_done hd]
    obtain ⟨-, -, -, -, -, -, h1, -⟩ := hg
    refine ⟨_, rfl, ?_, rfl, ?_, ?_, ?_, fun j => ?_⟩
    · simp [setZ_eq]
    · simp
    · rw [getCore_setZ]
    · rw [getCore_setZ, getCore_modCore_self, pc_setGroup _ h1]
      rfl
    · rw [getG_setZ, getCore_modCore_self, getG_setGroup8 _ h1]
      rfl

end Sys2Proof.Machine

namespace Sys2Proof.Machine

/-! ### SVC (R373 to R375) -/

section
variable {c : Nat} {w : Word} {s : State}

/-- The fields of an SVC that every operation checks. -/
def svcForm (w : Word) : Prop := fRB w = 0 ∧ fI w = false ∧ fMOD w < 4 ∧ (fMOD w ≠ 1 → fIMM w = 0) ∧
  (fMOD w = 0 → 1 ≤ fRA w ∧ fRA w ≤ 24) ∧ (fMOD w = 1 → fld w 16 5 ≤ 16 ∧ fld w 21 27 = 0)

theorem svcForm_issue (hm : fMOD w % 4 = 0) : svcForm w ↔
    ¬ (!noRB w || 4 ≤ fMOD w || fIMM w != 0 || fRA w < 1 || 24 < fRA w) = true := by
  simp only [svcForm, ← and_assoc, ← noRB_iff]
  by_cases h : fMOD w < 4
  · have h0 : fMOD w = 0 := by omega
    simp [h0, and_assoc, Nat.one_le_iff_ne_zero]
  · simp [h, Nat.not_lt.1 h]

theorem svcForm_result (hm : fMOD w % 4 = 1) : svcForm w ↔
    ¬ (!noRB w || 4 ≤ fMOD w || fld w 21 27 != 0 || 16 < fld w 16 5) = true := by
  simp only [svcForm, ← and_assoc, ← noRB_iff]
  by_cases h : fMOD w < 4
  · have h1 : fMOD w = 1 := by omega
    simp [h1, and_comm, and_assoc]
  · simp [h, Nat.not_lt.1 h]

theorem svcForm_other (hm : 2 ≤ fMOD w % 4) : svcForm w ↔ ¬ (!noRB w || 4 ≤ fMOD w || fIMM w != 0) = true := by
  simp only [svcForm, ← and_assoc, ← noRB_iff]
  by_cases h : fMOD w < 4
  · have h0 : fMOD w ≠ 0 := by omega
    have h1 : fMOD w ≠ 1 := by omega
    simp [h, h0, h1]
  · simp [h, Nat.not_lt.1 h]

theorem doSvcIssue_of_bad_fields (hm : fMOD w % 4 = 0) (h : ¬ svcForm w) : doSvcIssue c w s = coreFault c 1 0 s :=
  if_pos (not_not.1 (mt (svcForm_issue hm).2 h))

theorem doSvcResult_of_bad_fields (hm : fMOD w % 4 = 1) (h : ¬ svcForm w) : doSvcResult c w s = coreFault c 1 0 s :=
  if_pos (not_not.1 (mt (svcForm_result hm).2 h))

theorem doSvcRelease_of_bad_fields (hm : fMOD w % 4 = 2) (h : ¬ svcForm w) : doSvcRelease c w s = coreFault c 1 0 s :=
  if_pos (not_not.1 (mt (svcForm_other (by omega)).2 h))

theorem doSvcCancel_of_bad_fields (hm : fMOD w % 4 = 3) (h : ¬ svcForm w) : doSvcCancel c w s = coreFault c 1 0 s :=
  if_pos (not_not.1 (mt (svcForm_other (by omega)).2 h))


/-! #### ISSUE -/

/-- A slot that takes a block. -/
def newSvc (b : List Word) (s : State) : Svc := { st := .busy, block := b, stamp := stampNow s }

theorem takeBlock_of_good {n : Nat} {b : List Word} (h : blockBad (newSvc b s) = false) :
    takeBlock c n b s = modSlotSvc c n (fun _ => newSvc b s) s := if_neg (ne_true_of_eq_false h)

theorem takeBlock_of_bad {n : Nat} {b : List Word} (h : blockBad (newSvc b s) = true) :
    takeBlock c n b s = svcDone c n [2] (modSlotSvc c n (fun _ => newSvc b s) s) := if_pos h

/-- Whatever the block, taking it changes its slot, and the service event of its core. -/
theorem takeBlock_frame (c : Nat) {n : Nat} (hn : n < 4) (b : List Word) (s : State) :
    (getCore (takeBlock c n b s) c).z = (getCore s c).z ∧ (getCore (takeBlock c n b s) c).pc = (getCore s c).pc ∧
    (∀ j, getG (getCore (takeBlock c n b s) c) j = getG (getCore s c) j) ∧
    (∀ j, j < 4 → j ≠ n → getSvc (takeBlock c n b s) c j = getSvc s c j) ∧
    (∀ j, j ≠ c → getCore (takeBlock c n b s) j = getCore s j) ∧ (takeBlock c n b s).dsp = s.dsp := by
  have hslot : ∀ j, j < 4 → j ≠ n → ¬ (c = c ∧ j % 4 = n % 4) := by omega
  obtain ⟨-, hz, hpc⟩ := part_svc c n (fun _ => newSvc b s) s
  cases h : blockBad (newSvc b s) with
  | false =>
    rw [takeBlock_of_good h]
    refine ⟨hz, hpc, getG_svc c n _ s, fun j hj hjn => ?_, getCore_modSlotSvc_ne c n _ s, rfl⟩
    rw [getSvc_modSlotSvc, if_neg (hslot j hj hjn)]
  | true =>
    obtain ⟨hsvc, -, hz', hpc', hg, hcore, hdsp, -⟩ := svcDone_spec c n [2] (modSlotSvc c n (fun _ => newSvc b s) s)
    rw [takeBlock_of_bad h]
    refine ⟨hz'.trans hz, hpc'.trans hpc, fun j => (hg j).trans (getG_svc c n _ s j), fun j hj hjn => ?_, fun j hj => ?_, hdsp⟩
    · rw [hsvc, if_neg (hslot j hj hjn), getSvc_modSlotSvc, if_neg (hslot j hj hjn)]
    · rw [hcore j hj, getCore_modSlotSvc_ne c n _ s j hj]

theorem takeBlock_slot_of_good {n : Nat} {b : List Word} (h : blockBad (newSvc b s) = false) :
    getSvc (takeBlock c n b s) c n = newSvc b s ∧ (getCore (takeBlock c n b s) c).lev = (getCore s c).lev := by
  obtain ⟨hlev, -, -⟩ := part_svc c n (fun _ => newSvc b s) s
  rw [takeBlock_of_good h, getSvc_modSlotSvc, if_pos ⟨rfl, rfl⟩]
  exact ⟨rfl, hlev⟩

theorem takeBlock_slot_of_bad {n : Nat} {b : List Word} (h : blockBad (newSvc b s) = true) :
    (getSvc (takeBlock c n b s) c n).st = .done ∧ (getSvc (takeBlock c n b s) c n).result = [2] ∧
    (getCore (takeBlock c n b s) c).lev = (getCore s c).lev ||| 1 := by
  obtain ⟨hlev, -, -⟩ := part_svc c n (fun _ => newSvc b s) s
  obtain ⟨hsvc, hlev', -⟩ := svcDone_spec c n [2] (modSlotSvc c n (fun _ => newSvc b s) s)
  rw [takeBlock_of_bad h, hsvc, if_pos ⟨rfl, rfl⟩]
  exact ⟨rfl, rfl, by rw [hlev', hlev]⟩

/-- ISSUE has delivered the slot and retired. -/
def issued (c n : Nat) (w : Word) (s : State) : State := retireCore c (fun k => { setG (fRD w) (w64 n) k with z := true }) s

section
variable {n : Nat}

theorem getCore_issued : getCore (issued c n w s) c =
    { setG (fRD w) (w64 n) (getCore s c) with z := true, pc := (getCore s c).pc + 8 } := by
  rw [issued, retireCore, getCore_modCore_self, stepPc]
  simp [w64]

theorem z_issued : (getCore (issued c n w s) c).z = true := by rw [getCore_issued]

theorem pc_issued : (getCore (issued c n w s) c).pc = (getCore s c).pc + 8 := by rw [getCore_issued]

theorem lev_issued : (getCore (issued c n w s) c).lev = (getCore s c).lev := by
  rw [getCore_issued, setG]
  split <;> rfl

theorem getG_issued (j : Nat) : getG (getCore (issued c n w s) c) j =
    if j = fRD w then (if fRD w = 0 then 0 else w64 n) else getG (getCore s c) j := by
  rw [getCore_issued]
  refine (getG_setG (fRD w) (w64 n) (getCore s c) j).trans ?_
  by_cases hj : j = fRD w
  · rw [if_pos hj, if_pos hj, hj]
  · rw [if_neg hj, if_neg hj]
    split
    next h => rw [h, getG, if_pos rfl]
    next => rfl

theorem getSvc_issued (j : Nat) : getSvc (issued c n w s) c j = getSvc s c j :=
  getSvc_modCore _ _ _ _ _ fun x => by
    simp only [stepPc, setG]
    split <;> exact ⟨rfl, rfl, rfl, rfl⟩

end

theorem freeSvc_eq_none (h : ∀ j, j < 4 → (getSvc s c j).st ≠ .free) : freeSvc s c = none := by
  simpa [freeSvc] using h

theorem freeSvc_eq_some {n : Nat} (hn : n < 4) (hf : (getSvc s c n).st = .free) (hj : ∀ j, j < n → (getSvc s c j).st ≠ .free) :
    freeSvc s c = some n := by
  rw [freeSvc, List.find?_range_eq_some]
  simpa [hn, hf] using hj

section
variable (h : svcForm w) (hm : fMOD w = 0)
include h hm

theorem doSvcIssue_of_full (hf : freeSvc s c = none) : doSvcIssue c w s = setZ c false s := by
  rw [doSvcIssue, if_neg ((svcForm_issue (by omega)).1 h), hf]

theorem doSvcIssue_of_free {n : Nat} (hf : freeSvc s c = some n) : doSvcIssue c w s =
    takeBlock c n (group (getCore s c) (fRA w)) (issued c n w s) := by
  rw [doSvcIssue, if_neg ((svcForm_issue (by omega)).1 h), hf]
  rfl

end

/-! #### RESULT and RELEASE -/

theorem doSvcResult_of_good (h : svcForm w) (hm : fMOD w = 1) : doSvcResult c w s =
    retireCore c (setG (fRD w) ((getSvc s c (svcSlot c w s)).result.getD (fld w 16 5) 0)) s :=
  if_neg ((svcForm_result (by omega)).1 h)

section
variable (h : svcForm w) (hm : fMOD w = 2)
include h hm

theorem doSvcRelease_of_good : doSvcRelease c w s = if (getSvc s c (svcSlot c w s)).st == .done
    then setZ c true (modSlotSvc c (svcSlot c w s) (fun v => { v with st := .free }) s) else setZ c false s := by
  exact if_neg ((svcForm_other (by omega)).1 h)

end

/-! #### CANCEL -/

section
variable (h : svcForm w) (hm : fMOD w = 3)
include h hm

theorem doSvcCancel_of_good : doSvcCancel c w s =
    if (getSvc s c (svcSlot c w s)).st == .busy && svcKind (getSvc s c (svcSlot c w s)) == 0
    then setZ c true (cancelWork c (svcSlot c w s) s) else setZ c false s := by
  exact if_neg ((svcForm_other (by omega)).1 h)

end
end

/-- The work of a slot is removed from DSP. -/
def withoutWork (c i : Nat) (d : Dsp) : Dsp := { d with work := d.work.filter (fun w => !(w.core == c && w.slot == i)) }

theorem not_mem_withoutWork {c i : Nat} {d : Dsp} {x : WorkEntry} (h : x ∈ (withoutWork c i d).work) : ¬ (x.core = c ∧ x.slot = i) := by
  rw [not_and_or]
  simpa using (List.mem_filter.1 h).2

theorem getSvc_setZ (c : Nat) (z : Bool) (s : State) (j : Nat) : getSvc (setZ c z s) c j = getSvc s c j :=
  getSvc_modCore _ _ _ _ _ fun _ => ⟨rfl, rfl, rfl, rfl⟩

theorem cancelWork_of_queued {c i : Nat} {s : State} (h : ∀ x ∈ s.eng, x.2.hold ≠ .work c i) : cancelWork c i s =
    svcDone c i [0x3000] (modDsp (withoutWork c i) s) := by
  have hf : s.eng.find? (fun e => e.2.hold == .work c i) = none := by simpa using h
  rw [cancelWork, hf]
  rfl

theorem cancelWork_of_engine {c i e : Nat} {x : Engine} {s : State}
    (h : s.eng.find? (fun e => e.2.hold == .work c i) = some (e, x)) :
    cancelWork c i s = modEng e (fun x => { x with stop := if x.stop == .fn then .fn else .abort }) s := by
  rw [cancelWork, h]

section
variable {s u : State} {c : Nat} {w : Word} (h : fetches s c w u = true) (ho : opc w = 0xD0)
include h ho

theorem exec_svcIssue (hm : fMOD w % 4 = 0) : exec (.svcIssue c) s = .next (doSvcIssue c w u) :=
  run_fetchedSub h ho hm (by decide) (doSvcIssue c)

theorem exec_svcResult (hm : fMOD w % 4 = 1) : exec (.svcResult c) s = .next (doSvcResult c w u) :=
  run_fetchedSub h ho hm (by decide) (doSvcResult c)

theorem exec_svcRelease (hm : fMOD w % 4 = 2) : exec (.svcRelease c) s = .next (doSvcRelease c w u) :=
  run_fetchedSub h ho hm (by decide) (doSvcRelease c)

theorem exec_svcCancel (hm : fMOD w % 4 = 3) : exec (.svcCancel c) s = .next (doSvcCancel c w u) :=
  run_fetchedSub h ho hm (by decide) (doSvcCancel c)

end

/-- Settles O50: the form first, then each of the four operations with its slot in each state. -/
theorem serviceCalls : Obligations.ServiceCalls := by
  intro s u c w h ho k op i slot v good block z
  have hS : svcSlot c w u = slot := rfl
  have hv : getSvc u c slot = v := rfl
  have hc : (v.st == .busy && svcKind v == 0) = true ↔ v.st = .busy ∧ fld (v.block.getD 0 0) 0 4 = 0 := by
    rw [Bool.and_eq_true, beq_iff_eq, beq_iff_eq]
    rfl
  refine ⟨fun hg => ?_, fun hg hop hf => ?_, fun n hg hop hn hf hj => ?_, fun hg hop => ?_, fun hg hop hd => ?_, fun hg hop hd => ?_,
    fun hg hop hd => ?_, fun hg hop hb hk => ⟨fun he => ?_, fun e x he hx => ?_⟩⟩
  · obtain hop | hop | hop | hop : op % 4 = 0 ∨ op % 4 = 1 ∨ op % 4 = 2 ∨ op % 4 = 3 := by omega
    · rw [show i = .svcIssue c by simp [i, hop], exec_svcIssue h ho hop, doSvcIssue_of_bad_fields hop hg]
    · rw [show i = .svcResult c by simp [i, hop], exec_svcResult h ho hop, doSvcResult_of_bad_fields hop hg]
    · rw [show i = .svcRelease c by simp [i, hop], exec_svcRelease h ho hop, doSvcRelease_of_bad_fields hop hg]
    · rw [show i = .svcCancel c by simp [i, hop], exec_svcCancel h ho hop, doSvcCancel_of_bad_fields hop hg]
  · rw [exec_svcIssue h ho (by omega), doSvcIssue_of_full hg hop (freeSvc_eq_none hf)]
    rfl
  · intro new
    rw [exec_svcIssue h ho (by omega), doSvcIssue_of_free hg hop (freeSvc_eq_some hn hf hj)]
    obtain ⟨hz, hpc, hreg, hsvc, hcore, hdsp⟩ := takeBlock_frame c hn block (issued c n w u)
    refine ⟨_, rfl, ?_, ?_, ?_, fun j hj => ?_, fun j hj hjn => ?_, fun j hj => ?_, ?_, ?_, fun hb => ?_, fun hb => ?_⟩
    · exact hz.trans z_issued
    · exact hpc.trans pc_issued
    · refine (hreg _).trans ?_
      rw [getG_issued, if_pos rfl]
    · refine (hreg j).trans ?_
      rw [getG_issued, if_neg hj]
    · exact (hsvc j hj hjn).trans (getSvc_issued j)
    · refine (hcore j hj).trans ?_
      rw [issued, retireCore, getCore_modCore, if_neg hj]
    · exact hdsp
    · exact (durable_takeBlock ..).trans (durable_retireCore ..)
    · obtain ⟨hnew, hlev⟩ := takeBlock_slot_of_good (c := c) (n := n) (s := issued c n w u) (b := block) hb
      exact ⟨hnew, hlev.trans lev_issued⟩
    · obtain ⟨hst, hres, hlev⟩ := takeBlock_slot_of_bad (c := c) (n := n) (s := issued c n w u) (b := block) hb
      exact ⟨hst, hres, hlev.trans (congrArg (· ||| 1) lev_issued)⟩
  · rw [exec_svcResult h ho (by omega), doSvcResult_of_good hg hop, hS, hv, retireCore_setG]
  · rw [exec_svcRelease h ho (by omega), doSvcRelease_of_good hg hop, hS, hv, if_neg (by simpa using hd)]
    rfl
  · rw [exec_svcRelease h ho (by omega), doSvcRelease_of_good hg hop, hS, hv, if_pos (by simpa using hd)]
    rfl
  · rw [exec_svcCancel h ho (by omega), doSvcCancel_of_good hg hop, hS, hv, if_neg (mt hc.1 (not_and_or.2 hd))]
    rfl
  · rw [exec_svcCancel h ho (by omega), doSvcCancel_of_good hg hop, hS, hv, if_pos (hc.2 ⟨hb, hk⟩), cancelWork_of_queued he]
    obtain ⟨hsvc, hlev, -, hpc, -, -, hdsp, heng, hlm, -, hdur⟩ := svcDone_spec c slot [0x3000] (modDsp (withoutWork c slot) u)
    refine ⟨_, rfl, ?_, ?_, ?_, ?_, ?_, fun x hx => ?_, heng, hlm, hdur⟩
    · rw [getCore_setZ]
    · rw [getCore_setZ]
      exact congrArg (· + 8) hpc
    · rw [getSvc_setZ, hsvc, if_pos ⟨rfl, rfl⟩]
    · rw [getSvc_setZ, hsvc, if_pos ⟨rfl, rfl⟩]
    · rw [getCore_setZ]
      exact hlev
    · exact not_mem_withoutWork (congrArg Dsp.work hdsp ▸ hx)
  · rw [exec_svcCancel h ho (by omega), doSvcCancel_of_good hg hop, hS, hv, if_pos (hc.2 ⟨hb, hk⟩), cancelWork_of_engine he]
    refine ⟨_, rfl, ?_, ?_, ?_, rfl, ?_⟩
    · rw [getCore_setZ]
    · simp [setZ_eq, hx]
    · rw [getSvc_setZ]
      rfl
    · simp [setZ_eq]

end Sys2Proof.Machine

namespace Sys2Proof.Machine

/-! ### CCCTL (R357, R359) -/

/-- What a write of CCCTL changes of one control core: the core, its HALTED and its FAULT. -/
def cellOf (s : State) (n : Nat) : Core × Bool × Bool := (getCore s n, bit s.ctl.halted n, bit s.ctl.fault n)

/-- A core whose RUN rises starts, one whose RUN falls is halted. -/
def ccctlCell (v : Half) (old : Byte) (entry now : Word) (n : Nat) (x : Core × Bool × Bool) : Core × Bool × Bool :=
  if bit v n && !bit old n then (startRegs entry now x.1, false, false)
  else if !bit v n && bit old n then ({ x.1 with wait := none }, true, x.2.2)
  else x

/-- One core of a write of CCCTL. -/
def ccctlStep (v : Half) (old : Byte) (n : Nat) (s : State) : State :=
  if bit v n && !bit old n then startCore n s
  else if !bit v n && bit old n then haltCore n s
  else s

/-- The fields of a write of CCCTL. -/
def ccctlSet (v : Half) (s : State) : State :=
  modCtl (fun c => { c with run := bits v 0 8, bank := bit v 8, cause := bits v 9 2 }) s

theorem writeCcctl_eq (v : Half) (s : State) :
    writeCcctl v s = forAll (List.range 8) (ccctlStep v s.ctl.run) (ccctlSet v s) := rfl

/-- From s to t everything stays but cores, HALTED and FAULT. -/
def CoresOnly (s t : State) : Prop :=
  ∃ core h f, t = { s with core := core, ctl := { s.ctl with halted := h, fault := f } }

section
variable (v : Half) (old : Byte)

theorem ccctlStep_coresOnly (n : Nat) (s : State) : CoresOnly s (ccctlStep v old n s) := by
  unfold ccctlStep
  split
  · exact ⟨_, _, _, rfl⟩
  split <;> exact ⟨_, _, _, rfl⟩

theorem CoresOnly.trans {s t u : State} (h : CoresOnly s t) (k : CoresOnly t u) : CoresOnly s u := by
  obtain ⟨_, _, _, rfl⟩ := h
  obtain ⟨_, _, _, rfl⟩ := k
  exact ⟨_, _, _, rfl⟩

theorem writeCcctl_coresOnly (s : State) : CoresOnly (ccctlSet v s) (writeCcctl v s) :=
  forAll_ind (CoresOnly (ccctlSet v s)) _ _ (fun n _ h => h.trans (ccctlStep_coresOnly v s.ctl.run n _)) _
    ⟨_, _, _, rfl⟩

theorem getLsbD_one_shiftLeft {n j : Nat} (hj : j < 8) : (1#8 <<< n).getLsbD j = decide (j = n) := by
  rw [BitVec.getLsbD_shiftLeft, BitVec.getLsbD_one]
  by_cases h : j = n
  · subst h
    simp [hj]
  · simp [h]
    omega

theorem bit_raise (h : Byte) {n j : Nat} (hj : j < 8) : bit (h ||| 1#8 <<< n) j = (bit h j || decide (j = n)) := by
  rw [bit, BitVec.getLsbD_or, getLsbD_one_shiftLeft hj, bit]

theorem bit_drop (h : Byte) {n j : Nat} (hj : j < 8) : bit (h &&& ~~~(1#8 <<< n)) j = (bit h j && decide (j ≠ n)) := by
  rw [bit, BitVec.getLsbD_and, BitVec.getLsbD_not, getLsbD_one_shiftLeft hj, bit]
  simp [hj]

theorem cellOf_ccctlStep {n j : Nat} (hn : n < 8) (hj : j < 8) (s : State) : cellOf (ccctlStep v old n s) j =
    if j = n then ccctlCell v old (s.ctl.entry.zeroExtend 64) s.time n (cellOf s n) else cellOf s j := by
  unfold ccctlStep ccctlCell
  by_cases h1 : (bit v n && !bit old n) = true
  · by_cases hjn : j = n <;> simp [cellOf, h1, hjn, startCore, bit_drop _ hj, bit_drop _ hn]
  · by_cases h2 : (!bit v n && bit old n) = true
    · by_cases hjn : j = n <;> simp [cellOf, h1, h2, hjn, haltCore, bit_raise _ hj, bit_raise _ hn]
    · by_cases hjn : j = n <;> simp [cellOf, h1, h2, hjn]

theorem cellOf_ccctlSteps {l : List Nat} (hl : l.Nodup) (h8 : ∀ n ∈ l, n < 8) {j : Nat} (hj : j < 8) (s : State) :
    cellOf (forAll l (ccctlStep v old) s) j =
      if j ∈ l then ccctlCell v old (s.ctl.entry.zeroExtend 64) s.time j (cellOf s j) else cellOf s j := by
  induction l generalizing s with
  | nil => rfl
  | cons n l ih =>
    obtain ⟨hn, hl⟩ := List.nodup_cons.1 hl
    obtain ⟨hn8, hl8⟩ := List.forall_mem_cons.1 h8
    obtain ⟨core, h, f, he⟩ := ccctlStep_coresOnly v old n s
    refine (ih hl hl8 (ccctlStep v old n s)).trans ?_
    rw [cellOf_ccctlStep v old hn8 hj, show (ccctlStep v old n s).ctl.entry = s.ctl.entry by rw [he],
      show (ccctlStep v old n s).time = s.time by rw [he]]
    by_cases hjn : j = n
    · subst hjn
      simp [hn]
    · simp [hjn]

end

section
variable (v : Half) (s : State)

/-- Each control core after a write of CCCTL. -/
theorem cellOf_writeCcctl {n : Nat} (hn : n < 8) : cellOf (writeCcctl v s) n =
    ccctlCell v s.ctl.run (s.ctl.entry.zeroExtend 64) s.time n (cellOf s n) := by
  rw [writeCcctl_eq, cellOf_ccctlSteps v _ List.nodup_range (fun n => List.mem_range.1) hn, if_pos (List.mem_range.2 hn)]
  rfl

section
variable {v s} {n : Nat} (hn : n < 8)
include hn

theorem writeCcctl_starts (hv : bit v n = true) (hr : bit s.ctl.run n = false) :
    getCore (writeCcctl v s) n = startRegs (s.ctl.entry.zeroExtend 64) s.time (getCore s n) ∧
    bit (writeCcctl v s).ctl.halted n = false ∧ bit (writeCcctl v s).ctl.fault n = false := by
  have h := cellOf_writeCcctl v s hn
  rw [ccctlCell, hv, hr] at h
  exact ⟨congrArg (·.1) h, congrArg (·.2.1) h, congrArg (·.2.2) h⟩

theorem writeCcctl_halts (hv : bit v n = false) (hr : bit s.ctl.run n = true) :
    getCore (writeCcctl v s) n = { getCore s n with wait := none } ∧ bit (writeCcctl v s).ctl.halted n = true ∧
    bit (writeCcctl v s).ctl.fault n = bit s.ctl.fault n := by
  have h := cellOf_writeCcctl v s hn
  rw [ccctlCell, hv, hr] at h
  exact ⟨congrArg (·.1) h, congrArg (·.2.1) h, congrArg (·.2.2) h⟩

theorem writeCcctl_keeps (hv : bit v n = bit s.ctl.run n) :
    getCore (writeCcctl v s) n = getCore s n ∧ bit (writeCcctl v s).ctl.halted n = bit s.ctl.halted n ∧
    bit (writeCcctl v s).ctl.fault n = bit s.ctl.fault n := by
  have h := cellOf_writeCcctl v s hn
  rw [ccctlCell, hv, Bool.and_not_self, Bool.not_and_self] at h
  exact ⟨congrArg (·.1) h, congrArg (·.2.1) h, congrArg (·.2.2) h⟩

end

/-- CCCTL itself, and the registers beside it. -/
theorem ctl_writeCcctl : ∃ h f, (writeCcctl v s).ctl =
    { s.ctl with run := bits v 0 8, bank := bit v 8, cause := bits v 9 2, halted := h, fault := f } := by
  obtain ⟨_, h, f, he⟩ := writeCcctl_coresOnly v s
  exact ⟨h, f, by rw [he]; rfl⟩

@[simp] theorem run_writeCcctl : (writeCcctl v s).ctl.run = bits v 0 8 := by
  obtain ⟨_, _, h⟩ := ctl_writeCcctl v s
  rw [h]

@[simp] theorem bank_writeCcctl : (writeCcctl v s).ctl.bank = bit v 8 := by
  obtain ⟨_, _, h⟩ := ctl_writeCcctl v s
  rw [h]

@[simp] theorem cause_writeCcctl : (writeCcctl v s).ctl.cause = bits v 9 2 := by
  obtain ⟨_, _, h⟩ := ctl_writeCcctl v s
  rw [h]

@[simp] theorem entry_writeCcctl : (writeCcctl v s).ctl.entry = s.ctl.entry := by
  obtain ⟨_, _, h⟩ := ctl_writeCcctl v s
  rw [h]

@[simp] theorem phase_writeCcctl : (writeCcctl v s).ctl.phase = s.ctl.phase := by
  obtain ⟨_, _, h⟩ := ctl_writeCcctl v s
  rw [h]

@[simp] theorem scrsvn_writeCcctl : (writeCcctl v s).ctl.scrsvn = s.ctl.scrsvn := by
  obtain ⟨_, _, h⟩ := ctl_writeCcctl v s
  rw [h]

@[simp] theorem notices_writeCcctl : (writeCcctl v s).ctl.notices = s.ctl.notices := by
  obtain ⟨_, _, h⟩ := ctl_writeCcctl v s
  rw [h]

@[simp] theorem mbx_writeCcctl : (writeCcctl v s).mbx = s.mbx := by
  obtain ⟨_, _, _, h⟩ := writeCcctl_coresOnly v s
  rw [h]
  rfl

@[simp] theorem gate_writeCcctl : (writeCcctl v s).gate = s.gate := by
  obtain ⟨_, _, _, h⟩ := writeCcctl_coresOnly v s
  rw [h]
  rfl

@[simp] theorem time_writeCcctl : (writeCcctl v s).time = s.time := by
  obtain ⟨_, _, _, h⟩ := writeCcctl_coresOnly v s
  rw [h]
  rfl

end

/-! #### The fields of a value of CCCTL -/

/-- RUN, BANK and CAUSE in one value. -/
def ccctlWord (run : Byte) (bank : Bool) (cause : BitVec 2) : Half := run.zeroExtend 32 ||| putb 32 bank 8 ||| put 32 cause 9

section
variable (run : Byte) (bank : Bool) (cause : BitVec 2)

theorem getLsbD_ccctlWord {i : Nat} (hi : i < 32) : (ccctlWord run bank cause).getLsbD i =
    (run.getLsbD i || (decide (i = 8) && bank) || (decide (9 ≤ i) && cause.getLsbD (i - 9))) := by
  have hrun : (run.zeroExtend 32).getLsbD i = run.getLsbD i := by
    rw [BitVec.zeroExtend_eq_setWidth, BitVec.getLsbD_setWidth, decide_eq_true hi, Bool.true_and]
  rw [ccctlWord, BitVec.getLsbD_or, BitVec.getLsbD_or, hrun, getLsbD_put, getLsbD_putb, decide_eq_true hi, Bool.true_and,
    Bool.true_and]

theorem bit_ccctlWord {n : Nat} (hn : n < 8) : bit (ccctlWord run bank cause) n = bit run n := by
  rw [bit, getLsbD_ccctlWord _ _ _ (by omega), decide_eq_false (by omega), decide_eq_false (by omega)]
  simp [bit]

theorem run_ccctlWord : bits (ccctlWord run bank cause) 0 8 = run := by
  refine bits_eq_iff.2 fun i hi => ?_
  rw [Nat.zero_add]
  exact bit_ccctlWord run bank cause hi

theorem bank_ccctlWord : bit (ccctlWord run bank cause) 8 = bank := by
  rw [bit, getLsbD_ccctlWord _ _ _ (by decide), BitVec.getLsbD_of_ge run 8 (by decide)]
  simp

theorem cause_ccctlWord : bits (ccctlWord run bank cause) 9 2 = cause := by
  refine bits_eq_iff.2 fun i hi => ?_
  rw [getLsbD_ccctlWord _ _ _ (by omega), BitVec.getLsbD_of_ge run _ (by omega), decide_eq_false (by omega),
    decide_eq_true (by omega), Nat.add_sub_cancel_left]
  simp

end

end Sys2Proof.Machine

namespace Sys2Proof.Machine

/-! ### Mailboxes (R350, R351, R356) -/

section
variable {m : Nat} {s : State}

theorem mbxPost_of_busy (h : (getMbx s m).busy = true) : mbxPost m s = s := if_pos h

theorem mbxDone_of_free (h : (getMbx s m).busy = false) : mbxDone m s = s := if_pos (by simp [h])

theorem answerMbx_of_free (h : (getMbx s m).busy = false) : answerMbx m s = s := by
  simp [answerMbx, mbxDone_of_free h, h]

section
variable {r : Requester}

theorem exec_mailboxPost_of_sender (hr : s.inReset = false) (h : mbxSender m r = true) :
    exec (.mailboxPost r m) s = .next (mbxPost m (access r s)) := if_neg (by simp [hr, h])

theorem exec_mailboxPost_of_other (h : mbxSender m r = false) : exec (.mailboxPost r m) s = .next (access r s) :=
  if_pos (by simp [h])

theorem exec_mailboxAnswer_of_receiver (hr : s.inReset = false) (h : mbxReceiver m r = true) :
    exec (.mailboxAnswer r m) s = .next (answerMbx m (access r s)) := if_neg (by simp [hr, h])

theorem exec_mailboxAnswer_of_other (h : mbxReceiver m r = false) : exec (.mailboxAnswer r m) s = .next (access r s) :=
  if_pos (by simp [h])

end

/-- An answer, or Bedrock's, changes events of the control registers only. -/
theorem mbxDone_events (m : Nat) (s : State) : ∃ k v, (mbxDone m s).ctl = { s.ctl with evpendk := k, evpends := v } := by
  unfold mbxDone
  repeat' split
  all_goals exact ⟨_, _, rfl⟩

theorem bedAnswer_events (m result : Nat) (detail : Half) (ws : List Word) (s : State) :
    ∃ k v, (bedAnswer m result detail ws s).ctl = { s.ctl with evpendk := k, evpends := v } := mbxDone_events ..

theorem mbxDone_events_only (m : Nat) (s : State) :
    ∃ mbx k v, mbxDone m s = { s with mbx := mbx, ctl := { s.ctl with evpendk := k, evpends := v } } := by
  unfold mbxDone
  repeat' split
  all_goals exact ⟨_, _, _, rfl⟩

theorem inReset_of_bedServes {s : State} (h : bedServes s = true) : s.inReset = false := by
  simp only [bedServes, live, Bool.and_eq_true, Bool.not_eq_true'] at h
  obtain ⟨⟨⟨⟨h, -⟩, -⟩, -⟩, -⟩ := h
  exact h

theorem bedServes_mbxDone (m : Nat) (s : State) : bedServes (mbxDone m s) = bedServes s := by
  obtain ⟨_, _, _, h⟩ := mbxDone_events_only m s
  rw [h]
  rfl

theorem access_latch (r : Requester) (s : State) : ∃ l, access r s = { s with latch := l } := by
  unfold access
  split <;> exact ⟨_, rfl⟩

/-! ### What Scree's answer to a notice does (R353, R354) -/

theorem answerMbx_of_notice (hb : (getMbx s 9).busy = true) (hs : bedServes s = true) :
    answerMbx 9 s = noticeAnswered (mbxDone 9 s) := by
  rw [answerMbx, hb, bedServes_mbxDone, hs]
  rfl

/-- Behind an answer the notice is no longer outstanding. -/
def noticeOver (s : State) : State := modCtl (fun c => { c with noticed := none }) (mbxDone 9 s)

theorem noticeOver_ctl (s : State) : ∃ k v, (noticeOver s).ctl = { s.ctl with noticed := none, evpendk := k, evpends := v } := by
  obtain ⟨k, v, h⟩ := mbxDone_events 9 s
  exact ⟨k, v, by rw [noticeOver, modCtl_ctl, h]⟩

theorem notices_noticeOver (s : State) : (noticeOver s).ctl.notices = s.ctl.notices := by
  obtain ⟨_, _, h⟩ := noticeOver_ctl s
  rw [h]

theorem ccctlWord_zero (bank : Bool) (cause : BitVec 2) : ccctlWord 0 bank cause = putb 32 bank 8 ||| put 32 cause 9 := by
  refine congrArg (· ||| put 32 cause 9) (?_ : (0 : Byte).zeroExtend 32 ||| putb 32 bank 8 = putb 32 bank 8)
  exact BitVec.zero_or

/-- While a barrier is latched Bedrock arms no other. -/
theorem armNext_of_latched (n : Nat) (h : s.gate.latched ≠ none) : armNext n s = s := by
  cases n with
  | zero => rfl
  | succ n => exact if_pos (by simp [Option.isSome_iff_ne_none, h])

@[simp] theorem ctl_resetDone (fn : Nat) (s : State) : (resetDone fn s).ctl = s.ctl := by
  unfold resetDone
  dsimp only
  split <;> rfl

@[simp] theorem mbx_resetDone (fn : Nat) (s : State) : (resetDone fn s).mbx = s.mbx := by
  unfold resetDone
  dsimp only
  split <;> rfl

/-! The write of FLRACK changes a function, its host port and what the block has driven. -/

theorem ctl_flrAckWrite (h : Nat) (v : Half) (s : State) : (flrAckWrite h v s).ctl = s.ctl := by
  simp only [flrAckWrite, apply_ite State.ctl, ctl_resetDone, modFn_ctl, modHp_ctl, ite_self]

theorem mbx_flrAckWrite (h : Nat) (v : Half) (s : State) : (flrAckWrite h v s).mbx = s.mbx := by
  simp only [flrAckWrite, apply_ite State.mbx, mbx_resetDone, modFn_mbx, modHp_mbx, ite_self]

theorem rspWord_noticeOver (s : State) (j : Nat) : rspWord (noticeOver s) 9 j = rspWord s 9 j := by
  rw [rspWord, noticeOver, getMbx_modCtl, getMbx_mbxDone]
  split <;> rfl

section
variable (hb : (getMbx s 9).busy = true) (hs : bedServes s = true) (hw : s.ctl.notices = [])
include hb hs hw

section
variable {v e : Half} {a : Word} (hn : s.ctl.noticed = some .update) (hu : s.ctl.update = some (.notice m v e a))
include hn hu

theorem answerMbx_of_declined (hr : fld (rspWord s 9 0) 0 8 ≠ 0) :
    answerMbx 9 s = bedAnswer m 0x16 0 [] (modCtl (fun c => { c with update := none }) (noticeOver s)) := by
  obtain ⟨k, x, hctl⟩ := mbxDone_events 9 s
  have hr' : (fld (rspWord (noticeOver s) 9 0) 0 8 != 0) = true := by simpa [rspWord_noticeOver] using hr
  rw [answerMbx_of_notice hb hs]
  simp only [noticeAnswered, hctl, hn, hu, modCtl_ctl]
  refine (if_pos hr').trans (nextNotice_of_none ?_)
  obtain ⟨k, x, hctl'⟩ := bedAnswer_events m 0x16 0 [] (modCtl (fun c => { c with update := none }) (noticeOver s))
  exact (congrArg Ctl.notices hctl').trans ((notices_noticeOver s).trans hw)

theorem answerMbx_of_granted (hr : fld (rspWord s 9 0) 0 8 = 0) (hl : s.gate.latched ≠ none) :
    answerMbx 9 s = modCtl (fun c => { c with update := some (.barrier m v e) })
      (writeCcctl (ccctlWord 0 s.ctl.bank s.ctl.cause) (noticeOver s)) := by
  obtain ⟨k, x, hctl⟩ := mbxDone_events 9 s
  have hr' : ¬ (fld (rspWord (noticeOver s) 9 0) 0 8 != 0) = true := by simpa [rspWord_noticeOver] using hr
  rw [answerMbx_of_notice hb hs]
  simp only [noticeAnswered, hctl, hn, hu, modCtl_ctl]
  refine (if_neg hr').trans ?_
  have hl' : (modCtl (fun c => { c with update := some (.barrier m v e) })
      (writeCcctl (ccctlWord 0 s.ctl.bank s.ctl.cause) (noticeOver s))).gate.latched ≠ none := by
    rwa [modCtl_gate, gate_writeCcctl, noticeOver, modCtl_gate, gate_mbxDone]
  rw [← ccctlWord_zero]
  refine (congrArg nextNotice (armNext_of_latched 16 hl')).trans (nextNotice_of_none ?_)
  rw [modCtl_ctl]
  exact (notices_writeCcctl ..).trans ((notices_noticeOver s).trans hw)

end

theorem answerMbx_of_flr {fn : Nat} (hn : s.ctl.noticed = some (.flr fn)) :
    answerMbx 9 s = flrAckWrite (hptOf fn) (BitVec.ofNat 32 (localOf fn)) (noticeOver s) := by
  obtain ⟨k, x, hctl⟩ := mbxDone_events 9 s
  rw [answerMbx_of_notice hb hs]
  simp only [noticeAnswered, hctl, hn]
  refine nextNotice_of_none ?_
  rw [ctl_flrAckWrite]
  exact (notices_noticeOver s).trans hw

end
end

theorem getMbx_noticeOver (h : (getMbx s 9).busy = true) (k : Nat) :
    getMbx (noticeOver s) k = if k = 9 then { getMbx s 9 with busy := false, done := true } else getMbx s k := by
  rw [noticeOver, getMbx_modCtl, getMbx_mbxDone, h]
  simp

@[simp] theorem rspWord_access (r : Requester) (s : State) (m j : Nat) : rspWord (access r s) m j = rspWord s m j := by
  simp [rspWord]

@[simp] theorem bedServes_access (r : Requester) (s : State) : bedServes (access r s) = bedServes s := by
  simp [bedServes]

section
variable (hb : (getMbx s 9).busy = true) (hs : bedServes s = true) (hw : s.ctl.notices = [])
include hb hs hw

/-- An UPDATE notice answered with a RESULT other than 0 ends the update, and its request is answered DECLINED. -/
theorem declined_spec {v e : Half} {a : Word} (hn : s.ctl.noticed = some .update)
    (hu : s.ctl.update = some (.notice m v e a)) (hr : fld (rspWord s 9 0) 0 8 ≠ 0) (hm : m ≤ 8)
    (hbm : (getMbx s m).busy = true) :
    let t := answerMbx 9 s
    t.ctl.update = none ∧ t.ctl.noticed = none ∧ (getMbx t 9).busy = false ∧ (getMbx t 9).done = true ∧
    (getMbx t m).busy = false ∧ (getMbx t m).done = true ∧ fld (rspWord t m 0) 0 8 = 0x16 ∧ t.ctl.run = s.ctl.run ∧
    t.core = s.core ∧ t.gate = s.gate := by
  intro t
  have ht : t = bedAnswer m 0x16 0 [] (modCtl (fun c => { c with update := none }) (noticeOver s)) :=
    answerMbx_of_declined hb hs hw hn hu hr
  have h9 : m ≠ 9 := by omega
  have hbusy : (getMbx (modCtl (fun c => { c with update := none }) (noticeOver s)) m).busy = true := by
    rwa [getMbx_modCtl, getMbx_noticeOver hb, if_neg h9]
  obtain ⟨k, x, hctl⟩ := bedAnswer_events m 0x16 0 [] (modCtl (fun c => { c with update := none }) (noticeOver s))
  obtain ⟨k', x', hctl'⟩ := noticeOver_ctl s
  obtain ⟨hresult, -⟩ := rsp_bedAnswer m 0x16 0 [] _ hbusy (by decide)
  rw [ht]
  refine ⟨?_, ?_, ?_, ?_, ?_, ?_, hresult, ?_, ?_, ?_⟩
  · rw [hctl]
    rfl
  · rw [hctl, modCtl_ctl, hctl']
  · rw [getMbx_bedAnswer _ _ _ _ _ hbusy, if_neg h9.symm, getMbx_modCtl, getMbx_noticeOver hb, if_pos rfl]
  · rw [getMbx_bedAnswer _ _ _ _ _ hbusy, if_neg h9.symm, getMbx_modCtl, getMbx_noticeOver hb, if_pos rfl]
  · rw [getMbx_bedAnswer _ _ _ _ _ hbusy, if_pos rfl]
  · rw [getMbx_bedAnswer _ _ _ _ _ hbusy, if_pos rfl]
  · rw [hctl, modCtl_ctl, hctl']
  · rw [core_bedAnswer, modCtl_core, noticeOver, modCtl_core, core_mbxDone]
  · rw [gate_bedAnswer, modCtl_gate, noticeOver, modCtl_gate, gate_mbxDone]

/-- One answered with 0 halts every core that runs, and the barrier waits its turn. -/
theorem granted_spec {v e : Half} {a : Word} (hn : s.ctl.noticed = some .update)
    (hu : s.ctl.update = some (.notice m v e a)) (hr : fld (rspWord s 9 0) 0 8 = 0) (hl : s.gate.latched ≠ none) :
    let t := answerMbx 9 s
    t.ctl.update = some (.barrier m v e) ∧ t.ctl.run = 0 ∧ t.ctl.bank = s.ctl.bank ∧ t.ctl.cause = s.ctl.cause ∧
    (∀ k, k < 8 → bit s.ctl.run k = true → bit t.ctl.halted k = true ∧ (getCore t k).wait = none) ∧ t.gate = s.gate := by
  intro t
  have ht : t = _ := answerMbx_of_granted hb hs hw hn hu hr hl
  obtain ⟨k', x', hctl'⟩ := noticeOver_ctl s
  rw [ht]
  refine ⟨rfl, ?_, ?_, ?_, fun k hk hrun => ?_, ?_⟩
  · exact (run_writeCcctl ..).trans (run_ccctlWord ..)
  · exact (bank_writeCcctl ..).trans (bank_ccctlWord ..)
  · exact (cause_writeCcctl ..).trans (cause_ccctlWord ..)
  · have hrun' : bit (noticeOver s).ctl.run k = true := by rwa [hctl']
    have hword : bit (ccctlWord 0 s.ctl.bank s.ctl.cause) k = false := by
      rw [bit_ccctlWord _ _ _ hk]
      exact BitVec.getLsbD_zero
    obtain ⟨hcore, hhalted, -⟩ := writeCcctl_halts hk hword hrun'
    exact ⟨hhalted, congrArg Core.wait hcore⟩
  · rw [modCtl_gate, gate_writeCcctl, noticeOver, modCtl_gate, gate_mbxDone]

theorem flr_spec {fn : Nat} (hn : s.ctl.noticed = some (.flr fn)) :
    let t := answerMbx 9 s
    t.ctl.noticed = none ∧ t.ctl.update = s.ctl.update ∧ (getMbx t 9).busy = false ∧ (getMbx t 9).done = true ∧
    (∀ k, k ≠ 9 → getMbx t k = getMbx s k) := by
  intro t
  have ht : t = flrAckWrite (hptOf fn) (BitVec.ofNat 32 (localOf fn)) (noticeOver s) := answerMbx_of_flr hb hs hw hn
  have hmbx : ∀ k, getMbx t k = getMbx (noticeOver s) k := fun k => by
    rw [ht, getMbx, mbx_flrAckWrite]
    rfl
  obtain ⟨k', x', hctl'⟩ := noticeOver_ctl s
  refine ⟨?_, ?_, ?_, ?_, fun k hk => ?_⟩
  · rw [ht, ctl_flrAckWrite, hctl']
  · rw [ht, ctl_flrAckWrite, hctl']
  · rw [hmbx, getMbx_noticeOver hb, if_pos rfl]
  · rw [hmbx, getMbx_noticeOver hb, if_pos rfl]
  · rw [hmbx, getMbx_noticeOver hb, if_neg hk]

end

/-- Settles O40. POST and ANSWER by their roles and BUSY, Bedrock's answer by its words, and the answer to a notice. -/
theorem mailboxes : Obligations.Mailboxes := by
  refine ⟨fun s r m hr hm => ⟨fun h hb => ?_, fun h hb => ?_, fun h => exec_mailboxPost_of_other h, fun h hb h9 => ?_,
    fun h hb => ?_, fun h => exec_mailboxAnswer_of_other h, fun result detail ws hres hb => ?_⟩,
    fun s n m v e a hs hb hw => have hr := inReset_of_bedServes hs; ⟨fun hn hu hm hbm => ⟨fun hres => ?_, fun hres hl => ?_⟩, fun fn hn => ?_⟩⟩
  · refine ⟨_, exec_mailboxPost_of_sender hr h, ?_, fun k hk => ?_, ?_, ?_, ?_⟩
    · rw [getMbx_mbxPost, if_pos rfl, getMbx_access]
    · rw [getMbx_mbxPost, if_neg hk, getMbx_access]
    · rw [durable_mbxPost, durable_access]
    · rw [core_mbxPost, access_core]
    · rw [ctl_mbxPost, getMbx_access, hb, access_ctl]
      rfl
  · rw [exec_mailboxPost_of_sender hr h, mbxPost_of_busy (by rwa [getMbx_access])]
  · have hb' : (getMbx (access r s) m).busy = true := by rwa [getMbx_access]
    refine ⟨_, exec_mailboxAnswer_of_receiver hr h, ?_, fun k hk => ?_, ?_, ?_, ?_⟩
    · rw [answerMbx_of_ne h9, getMbx_mbxDone, if_pos ⟨rfl, hb'⟩, getMbx_access]
    · rw [answerMbx_of_ne h9, getMbx_mbxDone, if_neg (fun hp => hk hp.1), getMbx_access]
    · rw [durable_answerMbx, durable_access]
    · rw [answerMbx_of_ne h9, core_mbxDone, access_core]
    · rw [answerMbx_of_ne h9, ctl_mbxDone _ _ hb', if_neg h9, access_ctl]
  · rw [exec_mailboxAnswer_of_receiver hr h, answerMbx_of_free (by rwa [getMbx_access])]
  · obtain ⟨hresult, htag, hdetail, hwords⟩ := rsp_bedAnswer m result detail ws s hb hres
    intro t
    have hk : ∀ k, getMbx t k = _ := getMbx_bedAnswer m result detail ws s hb
    refine ⟨?_, ?_, ?_, hresult, htag, hdetail, hwords, fun k hkm => ?_, durable_bedAnswer ..⟩
    · rw [hk, if_pos rfl]
    · rw [hk, if_pos rfl]
    · rw [hk, if_pos rfl]
    · rw [hk, if_neg hkm]
  · refine ⟨_, exec_mailboxAnswer_of_receiver hr rfl, ?_⟩
    simpa using declined_spec (s := access (.cc n) s) (by simpa) (by simpa) (by simpa) (by simpa) (by simpa) (by simpa) hm
      (by simpa)
  · refine ⟨_, exec_mailboxAnswer_of_receiver hr rfl, ?_⟩
    simpa using granted_spec (s := access (.cc n) s) (by simpa) (by simpa) (by simpa) (by simpa) (by simpa) (by simpa) (by simpa)
  · refine ⟨_, exec_mailboxAnswer_of_receiver hr rfl, ?_⟩
    simpa using flr_spec (s := access (.cc n) s) (by simpa) (by simpa) (by simpa) (by simpa)

end Sys2Proof.Machine

namespace Sys2Proof.Machine

/-! ### Which request Bedrock takes (R351, R355) -/

section
variable {s : State}

theorem mayServe_eq_true {k : Nat} : mayServe s k = true ↔ (getMbx s k).busy = true ∧ reqTaken s k = false ∧
    s.ctl.lockFor ≠ some k ∧ (s.ctl.lockFor ≠ none → fld (reqWord s k 0) 0 8 ≠ 3) := by
  simp only [mayServe, Bool.and_eq_true, Bool.not_eq_true', bne_iff_ne, Bool.and_eq_false_imp, beq_eq_false_iff_ne,
    Option.isSome_iff_ne_none, and_assoc]

theorem nextMbx_of_mp (h : mayServe s 8 = true) : nextMbx s = some 8 := List.find?_cons_of_pos h

theorem nextMbx_of_turn {k : Nat} (h8 : mayServe s 8 = false) (hk : k < 8)
    (h : mayServe s ((s.ctl.lastServed + 1 + k) % 8) = true)
    (hj : ∀ j, j < k → mayServe s ((s.ctl.lastServed + 1 + j) % 8) = false) :
    nextMbx s = some ((s.ctl.lastServed + 1 + k) % 8) := by
  have hfirst : (List.range 8).find? (mayServe s ∘ fun i => (s.ctl.lastServed + 1 + i) % 8) = some k :=
    List.find?_range_eq_some.2 ⟨h, List.mem_range.2 hk, fun j hjk => by simpa using hj j hjk⟩
  rw [nextMbx, List.find?_cons_of_neg (by simp [h8]), List.find?_map, hfirst]
  rfl

theorem mayServe_of_nextMbx {k : Nat} (h : nextMbx s = some k) : k ≤ 8 ∧ mayServe s k = true := by
  refine ⟨?_, List.find?_some h⟩
  have hmem := List.mem_of_find?_eq_some h
  simp only [List.mem_cons, List.mem_map] at hmem
  omega

theorem served_mp : served 8 s = s := rfl

theorem ctl_served {m : Nat} (h : m < 8) : (served m s).ctl = { s.ctl with lastServed := m } := by
  rw [served, if_pos h]
  rfl

/-! ### How it meets the request (R351, R352) -/

/-- The turn of mailbox m, or its request waits for its break. -/
def hasTurn (s : State) (m : Nat) : Prop := nextMbx s = some m ∨ s.ctl.lockFor = some m ∧ (getMbx s m).busy = true

variable {m cmd : Nat} {scree mp : Bool} {f : State → State}

theorem serve_of_no_turn (h : bedServes s = false ∨ ¬ hasTurn s m) : serve m cmd scree mp f s = s := by
  refine if_pos ?_
  rw [hasTurn, ← Bool.not_eq_true] at h
  simpa [imp_iff_not_or, or_assoc] using h

section
variable (hs : bedServes s = true) (ht : hasTurn s m)
include hs ht

theorem turn_eq_true : ¬ (!bedServes s || !(nextMbx s == some m || (s.ctl.lockFor == some m && (getMbx s m).busy))) = true := by
  simpa [hs, hasTurn, or_iff_not_imp_left] using ht

theorem serve_of_undefined (h : fld (reqWord s m 0) 0 8 = 0 ∨ 12 < fld (reqWord s m 0) 0 8) :
    serve m cmd scree mp f s = bedAnswer m 0x10 0 [] (served m s) := by
  rw [serve, if_neg (turn_eq_true hs ht)]
  exact if_pos (by simpa using h)

section
variable (h1 : 1 ≤ fld (reqWord s m 0) 0 8) (h12 : fld (reqWord s m 0) 0 8 ≤ 12)
include h1 h12

theorem serve_of_defined : serve m cmd scree mp f s = if fld (reqWord s m 0) 0 8 != cmd then s
    else if fld (reqWord s m 0) 8 8 != 0 || fld (reqWord s m 0) 32 32 != 0 then badArg m 0 (served m s)
    else if !(if m == 8 then mp else scree) then bedAnswer m 0x11 0 [] (served m s)
    else f (served m s) := by
  rw [serve, if_neg (turn_eq_true hs ht)]
  exact if_neg (by simpa using ⟨Nat.one_le_iff_ne_zero.1 h1, h12⟩)

theorem serve_of_other (h : fld (reqWord s m 0) 0 8 ≠ cmd) : serve m cmd scree mp f s = s := by
  rw [serve_of_defined hs ht h1 h12, if_pos (bne_iff_ne.2 h)]

variable (hc : fld (reqWord s m 0) 0 8 = cmd)
include hc

theorem serve_of_bad_word (h : fld (reqWord s m 0) 8 8 ≠ 0 ∨ fld (reqWord s m 0) 32 32 ≠ 0) :
    serve m cmd scree mp f s = bedAnswer m 0x12 0 [] (served m s) := by
  rw [serve_of_defined hs ht h1 h12, if_neg (by simpa using hc), if_pos (by simpa using h)]
  rfl

variable (h8 : fld (reqWord s m 0) 8 8 = 0) (h32 : fld (reqWord s m 0) 32 32 = 0)
include h8 h32

theorem serve_of_not_allowed (h : (if m = 8 then mp else scree) = false) :
    serve m cmd scree mp f s = bedAnswer m 0x11 0 [] (served m s) := by
  rw [serve_of_defined hs ht h1 h12, if_neg (by simpa using hc), if_neg (by simp [h8, h32]), if_pos (by simpa using h)]

theorem serve_of_allowed (h : (if m = 8 then mp else scree) = true) : serve m cmd scree mp f s = f (served m s) := by
  rw [serve_of_defined hs ht h1 h12, if_neg (by simpa using hc), if_neg (by simp [h8, h32]), if_neg (by simpa using h)]

end
end

theorem asked_eq_true : asked s m cmd = true ↔ bedServes s = true ∧ m ≤ 8 ∧ nextMbx s = some m ∧
    fld (reqWord s m 0) 0 8 = cmd ∧ fld (reqWord s m 0) 8 8 = 0 ∧ fld (reqWord s m 0) 32 32 = 0 := by
  simp [asked, and_assoc]

/-- A well-formed request at its turn, of a sender that may issue it, comes to its command. -/
theorem serve_of_asked (h : asked s m cmd = true) (h1 : 1 ≤ cmd) (h12 : cmd ≤ 12)
    (ha : (if m = 8 then mp else scree) = true) : serve m cmd scree mp f s = f (served m s) := by
  obtain ⟨hs, -, hm, hc, h8, h32⟩ := asked_eq_true.1 h
  exact serve_of_allowed hs (.inl hm) (by omega) (by omega) hc h8 h32 ha

/-- It stands in its mailbox, which is posted. -/
theorem busy_of_asked (h : asked s m cmd = true) : (getMbx s m).busy = true := by
  obtain ⟨-, -, hm, -⟩ := asked_eq_true.1 h
  obtain ⟨-, hmay⟩ := mayServe_of_nextMbx hm
  exact (mayServe_eq_true.1 hmay).1

end

/-- The twelve commands: the number of each, and whether Scree or the management processor may issue it (R352). -/
def requests : List ((Nat → Instr) × Nat × Bool × Bool) :=
  [(Instr.gateRule, 0x01, true, true), (Instr.gateCommit, 0x02, true, true), (Instr.lockBreak, 0x03, true, true),
   (Instr.hostSet, 0x04, true, true), (Instr.tsvPlace, 0x05, true, true), (Instr.tsvRing, 0x06, true, true),
   (Instr.selftest, 0x07, true, true), (Instr.vlogNext, 0x08, true, true), (Instr.ready, 0x09, true, false),
   (Instr.screeLoad, 0x0A, true, true), (Instr.screeRestart, 0x0B, false, true), (Instr.cairnSet, 0x0C, true, true)]

/-- Each is served by its number, and by who may issue it. -/
theorem exec_request {x : (Nat → Instr) × Nat × Bool × Bool} (h : x ∈ requests) (m : Nat) (s : State) :
    ∃ f, exec (x.1 m) s = .next (serve m x.2.1 x.2.2.1 x.2.2.2 f s) := by
  simp only [requests, List.mem_cons, List.not_mem_nil, or_false] at h
  obtain rfl | rfl | rfl | rfl | rfl | rfl | rfl | rfl | rfl | rfl | rfl | rfl := h <;> exact ⟨_, rfl⟩

/-- Each has a number from 1 to 12. -/
theorem number_request {x : (Nat → Instr) × Nat × Bool × Bool} (h : x ∈ requests) : 1 ≤ x.2.1 ∧ x.2.1 ≤ 12 := by
  simp only [requests, List.mem_cons, List.not_mem_nil, or_false] at h
  obtain rfl | rfl | rfl | rfl | rfl | rfl | rfl | rfl | rfl | rfl | rfl | rfl := h <;> decide

/-- Settles O41. The turn, then what word 0 says, in the order of its checks. -/
theorem requestChecks : Obligations.RequestChecks := by
  intro s m x hx w t turn
  obtain ⟨f, hf⟩ := exec_request hx m s
  obtain ⟨h1, h12⟩ := number_request hx
  refine ⟨nextMbx_of_mp, fun k h8 _ hk hmay hj => nextMbx_of_turn h8 hk hmay hj, fun k hk => ?_, ctl_served, ?_, fun h => ?_,
    fun hs ht => ⟨fun h => ?_, fun hle hge hne => ?_, fun hc => ⟨fun h => ?_, fun h8 h32 ha => ?_⟩⟩⟩
  · obtain ⟨hle, hmay⟩ := mayServe_of_nextMbx hk
    exact ⟨hle, mayServe_eq_true.1 hmay⟩
  · rintro rfl
    exact served_mp
  · rw [hf, serve_of_no_turn h]
  · rw [hf, serve_of_undefined hs ht h]
  · rw [hf, serve_of_other hs ht hle hge hne]
  · rw [hf, serve_of_bad_word hs ht (hc ▸ h1) (hc ▸ h12) hc h]
  · rw [hf, serve_of_not_allowed hs ht (hc ▸ h1) (hc ▸ h12) hc h8 h32 ha]

end Sys2Proof.Machine

namespace Sys2Proof.Machine

/-! ### What the turn of a request leaves alone -/

section
variable (m : Nat) (s : State)

theorem served_lastServed : ∃ k, served m s = modCtl (fun c => { c with lastServed := k }) s := by
  unfold served
  split
  · exact ⟨_, rfl⟩
  · exact ⟨s.ctl.lastServed, rfl⟩

@[simp] theorem bedServes_served : bedServes (served m s) = bedServes s := by
  obtain ⟨_, h⟩ := served_lastServed m s
  rw [h]
  rfl

@[simp] theorem getMbx_served (k : Nat) : getMbx (served m s) k = getMbx s k := by
  obtain ⟨_, h⟩ := served_lastServed m s
  rw [h]
  rfl

@[simp] theorem reqWord_served (k j : Nat) : reqWord (served m s) k j = reqWord s k j := by
  simp [reqWord]

@[simp] theorem lockFor_served : (served m s).ctl.lockFor = s.ctl.lockFor := by
  obtain ⟨_, h⟩ := served_lastServed m s
  rw [h]
  rfl

@[simp] theorem lock_served : (served m s).lock = s.lock := by
  obtain ⟨_, h⟩ := served_lastServed m s
  rw [h]
  rfl

theorem breakWaits_served (a : Word) : breakWaits (served m s) a = breakWaits s a := by simp [breakWaits]

end

/-! ### GATE_RULE (R352) -/

section
variable {m : Nat} {s : State}

theorem badWord_range (r : Rule) : 2 ≤ badWord r ∧ badWord r ≤ 5 := by
  unfold badWord
  split_ifs <;> decide

/-- What names a rule that GATE_RULE may write. -/
def openRule (g i : Nat) (r : Rule) : Prop :=
  g ≠ 70 ∧ i ≠ 0 ∧ i ≠ 63 ∧ ¬((g = 68 ∨ g = 69) ∧ i ≤ 7) ∧ bit r.w2 26 = false ∧ bit r.w2 27 = false

/-- The rule that a request carries. -/
def askedRule (m : Nat) (s : State) : Rule :=
  { w0 := reqWord s m 2, w1 := reqWord s m 3, w2 := reqWord s m 4, w3 := reqWord s m 5 }

theorem serveGateRule_of_bad_word (h : fld (reqWord s m 1) 7 1 ≠ 0 ∨ fld (reqWord s m 1) 14 50 ≠ 0 ∨
    gatePresent s (fld (reqWord s m 1) 0 7) = false) : serveGateRule m s = bedAnswer m 0x12 1 [] s :=
  if_pos (by simpa [or_assoc] using h)

section
variable {g i : Nat} {r : Rule} (h7 : fld (reqWord s m 1) 7 1 = 0) (h14 : fld (reqWord s m 1) 14 50 = 0)
  (hG : fld (reqWord s m 1) 0 7 = g) (hI : fld (reqWord s m 1) 8 6 = i) (hR : askedRule m s = r) (hg : gatePresent s g = true)
include h7 h14 hG hI hR hg

theorem serveGateRule_of_present : serveGateRule m s =
    if g == 70 || i == 0 || i == 63 || ((g == 68 || g == 69) && decide (i ≤ 7)) || bit r.w2 26 || bit r.w2 27 then
      bedAnswer m 0x13 0 [] s
    else if ruleBad r then badArg m (badWord r) s
    else if ruleLocked s g then bedAnswer m 0x14 0 [] s
    else bedAnswer m 0 0 [] (setShadow g i r s) := by
  subst hG hI hR
  exact if_neg (by simp [h7, h14, hg])

theorem serveGateRule_of_protected (h : ¬ openRule g i r) : serveGateRule m s = bedAnswer m 0x13 0 [] s := by
  rw [serveGateRule_of_present h7 h14 hG hI hR hg, if_pos]
  by_contra hb
  exact h (by simpa [openRule, and_assoc] using hb)

variable (h : openRule g i r)
include h

theorem serveGateRule_of_open : serveGateRule m s = if ruleBad r then badArg m (badWord r) s
    else if ruleLocked s g then bedAnswer m 0x14 0 [] s else bedAnswer m 0 0 [] (setShadow g i r s) := by
  rw [serveGateRule_of_present h7 h14 hG hI hR hg, if_neg]
  simpa [openRule, and_assoc] using h

theorem serveGateRule_of_malformed (hb : ruleBad r = true) : serveGateRule m s = badArg m (badWord r) s := by
  rw [serveGateRule_of_open h7 h14 hG hI hR hg h, if_pos hb]

theorem serveGateRule_of_locked (hb : ruleBad r = false) (hl : ruleLocked s g = true) :
    serveGateRule m s = bedAnswer m 0x14 0 [] s := by
  rw [serveGateRule_of_open h7 h14 hG hI hR hg h, if_neg (by simp [hb]), if_pos hl]

theorem serveGateRule_of_writable (hb : ruleBad r = false) (hl : ruleLocked s g = false) :
    serveGateRule m s = bedAnswer m 0 0 [] (setShadow g i r s) := by
  rw [serveGateRule_of_open h7 h14 hG hI hR hg h, if_neg (by simp [hb]), if_neg (by simp [hl])]

end
end

/-! ### GATE_COMMIT (R261, R352) -/

section
variable {m : Nat} {s : State}

/-- A commit enters Bedrock's queue. -/
def queueCommit (m : Nat) (s : State) : State := modCtl (fun c => { c with commits := c.commits ++ [m] }) s

theorem serveGateCommit_of_bad_word (h : fld (reqWord s m 2) 7 57 ≠ 0) :
    serveGateCommit m s = bedAnswer m 0x12 2 [] s := if_pos (by simpa using h)

theorem serveGateCommit_of_protected (h : fld (reqWord s m 2) 7 57 = 0) (h6 : bit (reqWord s m 2) 6 = true) :
    serveGateCommit m s = bedAnswer m 0x13 0 [] s := by
  rw [serveGateCommit, if_neg (by simp [h]), if_pos h6]

theorem serveGateCommit_of_open (h : fld (reqWord s m 2) 7 57 = 0) (h6 : bit (reqWord s m 2) 6 = false) :
    serveGateCommit m s = armNext 16 (queueCommit m s) := by
  rw [serveGateCommit, if_neg (by simp [h]), if_neg (by simp [h6])]
  rfl

/-- Bedrock makes no other barrier while one of its own stands. -/
theorem armNext_of_waiting (n : Nat) (h : s.gate.latched ≠ none ∨ s.ctl.committing ≠ none) : armNext n s = s := by
  cases n with
  | zero => rfl
  | succ n =>
    refine if_pos ?_
    obtain h | h := h <;> simp [Option.isSome_iff_ne_none.2 h]

theorem armNext_of_idle (n : Nat) (hu : ∀ k v e, s.ctl.update ≠ some (.barrier k v e)) (hc : s.ctl.commits = []) :
    armNext n s = s := by
  cases n with
  | zero => rfl
  | succ n =>
    rw [armNext]
    split
    · rfl
    split
    next k v e h => exact absurd h (hu k v e)
    next => rw [hc]

/-- The mask of a commit. -/
def commitMask (m : Nat) (s : State) : BitVec 71 := put 71 (reqWord s m 1) 0 ||| put 71 (bits (reqWord s m 2) 0 7) 64

/-- Behind the ARM of a commit: it waits for its barrier, or is answered HW_ERROR with GBAR and the next one comes. -/
def commitArmed (n m : Nat) (v : State) : State :=
  if v.gate.armed then modCtl (fun c => { c with committing := some m }) v
  else armNext n (bedAnswer m 0x20 (gbarWord v.gate) [] v)

/-- The commit at the front arms its barrier. -/
theorem armNext_of_commit (n : Nat) (hl : s.gate.latched = none) (hs : bedServes s = true) (hg : s.ctl.committing = none)
    (hu : ∀ k v e, s.ctl.update ≠ some (.barrier k v e)) {l : List Nat} (hc : s.ctl.commits = m :: l) :
    armNext (n + 1) s = commitArmed n m (armMask (commitMask m s) (modCtl (fun c => { c with commits := l }) s)) := by
  rw [armNext, if_neg (by simp [hl, hs, hg])]
  split
  next k v e h => exact absurd h (hu k v e)
  next => 
    rw [hc]
    rfl

end

/-- The mask registers hold a mask. -/
def withMask (m : BitVec 71) (g : Gates) : Gates := { g with mask0 := bits m 0 32, mask1 := bits m 32 32, mask2 := bits m 64 7 }

theorem gateMask_withMask (m : BitVec 71) (g : Gates) : gateMask (withMask m g) = m := by
  apply BitVec.eq_of_getLsbD_eq
  intro i hi
  simp only [gateMask, withMask, BitVec.getLsbD_or, getLsbD_put, getLsbD_bits, hi, decide_true, Bool.true_and]
  by_cases h1 : i < 32
  · simp [h1, show ¬ 32 ≤ i by omega, show ¬ 64 ≤ i by omega]
  · by_cases h2 : i < 64
    · simp [h1, show 32 ≤ i by omega, show i - 32 < 32 by omega, show 32 + (i - 32) = i by omega, show ¬ 64 ≤ i by omega]
    · simp [show 64 ≤ i by omega, show i - 64 < 7 by omega, show 64 + (i - 64) = i by omega, show ¬ i < 32 by omega,
        show ¬ i - 32 < 32 by omega]

/-- An ARM refused for a rule. -/
def badCommit (m : BitVec 71) (k : Nat) (g : Gates) : Gates :=
  { withMask m g with err := true, errgate := BitVec.ofNat 7 (k / 64), errrule := BitVec.ofNat 6 (k % 64) }

section
variable {s : State} (hl : s.gate.latched = none) {m : BitVec 71}
include hl

theorem armMask_of_wellformed (h : badRule s m = none) : armMask m s = modGate (fun g => { withMask m g with
    armed := true, done := false, err := false, wref := false, latched := some m }) s := by
  have hm : gateMask (modGate (withMask m) s).gate = m := gateMask_withMask m s.gate
  refine (gbarArm_of_wellformed (s := modGate (withMask m) s) hl (hm.symm ▸ h)).trans ?_
  rw [hm]
  rfl

theorem armMask_of_bad {k : Nat} (h : badRule s m = some k) : armMask m s = modGate (badCommit m k) s := by
  have hm : gateMask (modGate (withMask m) s).gate = m := gateMask_withMask m s.gate
  exact gbarArm_of_bad (s := modGate (withMask m) s) hl (hm.symm ▸ h)

end

section
variable {m : Nat} {s : State}

/-- A commit that has entered the empty queue has left it again. -/
theorem commits_queueCommit (h : s.ctl.commits = []) :
    modCtl (fun c => { c with commits := [] }) (queueCommit m s) = s := by
  have hc : { s.ctl with commits := [] } = s.ctl := by rw [← h]
  exact congrArg (fun c => { s with ctl := c }) hc

variable (hl : s.gate.latched = none) (hs : bedServes s = true) (hg : s.ctl.committing = none) (hc : s.ctl.commits = [])
  (hu : ∀ k v e, s.ctl.update ≠ some (.barrier k v e))
include hl hs hg hc hu

theorem commit_of_idle : armNext 16 (queueCommit m s) =
    commitArmed 15 m (armMask (commitMask m s) s) := by
  have hq : (queueCommit m s).ctl.commits = [m] := by simp [queueCommit, hc]
  have h := armNext_of_commit (s := queueCommit m s) 15 hl hs hg hu hq
  rwa [commits_queueCommit hc] at h

theorem commit_of_wellformed (h : badRule s (commitMask m s) = none) :
    armNext 16 (queueCommit m s) =
      modCtl (fun c => { c with committing := some m }) (modGate (fun g => { withMask (commitMask m s) g with
        armed := true, done := false, err := false, wref := false, latched := some (commitMask m s) }) s) := by
  rw [commit_of_idle hl hs hg hc hu, armMask_of_wellformed hl h]
  rfl

theorem commit_of_bad {k : Nat} (h : badRule s (commitMask m s) = some k) (ha : s.gate.armed = false) :
    armNext 16 (queueCommit m s) =
      bedAnswer m 0x20 (gbarWord (badCommit (commitMask m s) k s.gate)) [] (modGate (badCommit (commitMask m s) k) s) := by
  obtain ⟨_, _, hctl⟩ := bedAnswer_events m 0x20 (gbarWord (badCommit (commitMask m s) k s.gate)) []
    (modGate (badCommit (commitMask m s) k) s)
  rw [commit_of_idle hl hs hg hc hu, armMask_of_bad hl h]
  refine (if_neg (by simp [badCommit, withMask, ha])).trans (armNext_of_idle 15 ?_ ?_)
  · exact fun k v e => (congrArg Ctl.update hctl).trans_ne (hu k v e)
  · exact (congrArg Ctl.commits hctl).trans hc

end

end Sys2Proof.Machine

namespace Sys2Proof.Machine

/-! ### LOCK_BREAK (R213, R214, R352) -/

section
variable {s : State} {x : LockEntry}

/-- A break command has been taken up: FOUND is 0. -/
def commandTaken (s : State) : State := modLock (fun l => { l with found := false, cmd := commandWord s }) s

theorem lockCommand_eq_of_none (h : lockAt s (commandWord s) = none) : lockCommand s = commandTaken s := by
  have h' : lockAt (commandTaken s) (commandWord s) = none := h
  unfold commandTaken commandWord at h' ⊢
  simp only [lockCommand, h']

theorem lockCommand_eq_of_entry (h : lockAt s (commandWord s) = some x) :
    lockCommand s = breakOrWait x 4 (commandTaken s) := by
  have h' : lockAt (commandTaken s) (commandWord s) = some x := h
  unfold commandTaken commandWord at h' ⊢
  simp only [lockCommand, h']

theorem found_lockCommand_of_none (h : lockAt s (commandWord s) = none) : (lockCommand s).lock.found = false := by
  rw [lockCommand_eq_of_none h]
  rfl

/-- FOUND: the word has an entry that is neither being released nor waiting, of an owner on no engine with no write
unanswered. -/
theorem found_lockCommand_of_entry (h : lockAt s (commandWord s) = some x) : (lockCommand s).lock.found =
    (!x.releasing && (engOf s x.chan).isNone && !s.lock.waiting.any (fun y => y.addr == commandWord s) &&
      !orphanOut s x.chan) := by
  have ha : x.addr = commandWord s := by simpa using List.find?_some h
  rw [lockCommand_eq_of_entry h, ← ha]
  by_cases hw : x.releasing = true ∨ ∃ y ∈ s.lock.waiting, y.addr = x.addr
  · rw [breakOrWait_of_waits (s := commandTaken s) hw]
    obtain hr | hw := hw
    · rw [hr]
      rfl
    · have hany : s.lock.waiting.any (fun y => y.addr == x.addr) = true := by simpa using hw
      rw [hany, Bool.not_true, Bool.and_false, Bool.false_and]
      rfl
  · rw [not_or, Bool.not_eq_true] at hw
    obtain ⟨hr, hw⟩ := hw
    have hany : s.lock.waiting.any (fun y => y.addr == x.addr) = false := by simpa using hw
    have hw' : ∀ y ∈ (commandTaken s).lock.waiting, y.addr ≠ x.addr := fun y hy he => hw ⟨y, hy, he⟩
    rw [hr, hany]
    cases he : engOf s x.chan with
    | some e =>
      rw [breakOrWait_of_running hr hw' (he.symm ▸ rfl : (engOf (commandTaken s) x.chan).isSome = true)]
      rfl
    | none =>
      cases ho : orphanOut s x.chan with
      | true =>
        rw [breakOrWait_of_orphan hr hw' he ho]
        rfl
      | false =>
        rw [breakOrWait_of_off hr hw' he ho, lock_breakEntry]
        simp [brokenLocks, commandTaken, ha]

end

section
variable {m : Nat} {s : State} {a : Word}

/-- BREAK of the word of a request. -/
def brokenFor (a : Word) (s : State) : State := lockCommand (modLock (fun l => { l with lbcmdadr := a }) s)

theorem commandWord_of_aligned (h : a.toNat % 8 = 0) : commandWord (modLock (fun l => { l with lbcmdadr := a }) s) = a := by
  simp [commandWord, alignDown, h]

theorem serveLockBreak_of_misaligned (hA : reqWord s m 1 = a) (h : a.toNat % 8 ≠ 0) :
    serveLockBreak m s = bedAnswer m 0x12 1 [] s := by
  subst hA
  exact if_pos (by simpa using h)

section
variable (hA : reqWord s m 1 = a) (h : a.toNat % 8 = 0)
include hA h

theorem serveLockBreak_of_new (hf : s.ctl.lockFor = none) : serveLockBreak m s =
    if breakWaits (brokenFor a s) a then modCtl (fun c => { c with lockFor := some m }) (brokenFor a s)
    else bedAnswer m 0 0 [w64 (b2n (brokenFor a s).lock.found)] (brokenFor a s) := by
  subst hA
  rw [serveLockBreak, if_neg (by simp [h]), hf]
  rfl

theorem serveLockBreak_of_waiting (hf : s.ctl.lockFor = some m) : serveLockBreak m s =
    if breakWaits s a then s
    else bedAnswer m 0 0 [w64 (b2n s.lock.found)] (modCtl (fun c => { c with lockFor := none }) s) := by
  subst hA
  simp only [serveLockBreak, h, hf, bne_self_eq_false, Bool.false_or]
  rfl

end
end

/-! ### HOST_SET (R291, R352) -/

/-- What HOST_SET refuses in its second and third word. -/
def hostCtlBad (x : Word) : Prop := fld x 3 1 ≠ 0 ∨ fld x 7 1 ≠ 0 ∨ fld x 9 7 ≠ 0 ∨ fld x 28 36 ≠ 0
def hostFnsBad (s : State) (h : Nat) (y : Word) : Prop :=
  fld y 10 6 ≠ 0 ∨ fld y 26 5 ≠ 0 ∨ fld y 32 32 ≠ 0 ∨ (getFn s (h * 1024 + fld y 16 10)).mir.pf = false

/-- The host port with both words in it. -/
def hostSetTo (x y : Word) (p : HostPort) : HostPort :=
  { p with mrrscap := bits x 0 3, mpscap := bits x 4 3, tphen := bit x 8, cto := bits x 16 12,
           ctlfn := bits y 0 10, evglob := bits y 16 10, evgloben := bit y 31 }

theorem getLsbD_lo32 (x : Word) {i : Nat} (hi : i < 32) : (lo32 x).getLsbD i = x.getLsbD i := by
  rw [lo32, BitVec.truncate_eq_setWidth, BitVec.getLsbD_setWidth, decide_eq_true hi, Bool.true_and]

theorem bits_lo32_of_le (x : Word) {lo n : Nat} (h : lo + n ≤ 32) : bits (lo32 x) lo n = bits x lo n := by
  refine bits_eq_iff.2 fun i hi => ?_
  rw [getLsbD_lo32 x (by omega), getLsbD_bits, decide_eq_true hi, Bool.true_and]

section
variable {m h : Nat} {s : State} {x y : Word} (hH : (reqWord s m 1).toNat = h) (hX : reqWord s m 2 = x) (hY : reqWord s m 3 = y)
include hH

theorem serveHostSet_of_no_host (hn : nHosts s ≤ h) : serveHostSet m s = bedAnswer m 0x12 1 [] s := by
  subst hH
  exact if_pos hn

variable (hn : h < nHosts s)
include hX hn

theorem serveHostSet_of_bad_control (hx : hostCtlBad x) : serveHostSet m s = bedAnswer m 0x12 2 [] s := by
  subst hH hX
  rw [serveHostSet, if_neg (by omega), if_pos (by simpa [hostCtlBad, or_assoc] using hx)]
  rfl

variable (hx : ¬ hostCtlBad x)
include hx hY

theorem serveHostSet_of_good_control : serveHostSet m s =
    if fld y 10 6 != 0 || fld y 26 5 != 0 || fld y 32 32 != 0 || !(getFn s (h * 1024 + fld y 16 10)).mir.pf then badArg m 3 s
    else bedAnswer m 0 0 [] (setHpctl2 h (lo32 y) (setHpctl h (lo32 x) s)) := by
  subst hH hX hY
  rw [serveHostSet, if_neg (by omega), if_neg]
  simpa [hostCtlBad, or_assoc] using hx

theorem serveHostSet_of_bad_functions (hy : hostFnsBad s h y) : serveHostSet m s = bedAnswer m 0x12 3 [] s := by
  rw [serveHostSet_of_good_control hH hX hY hn hx, if_pos (by simpa [hostFnsBad, or_assoc] using hy)]
  rfl

theorem serveHostSet_of_good (hy : ¬ hostFnsBad s h y) : serveHostSet m s = bedAnswer m 0 0 [] (modHp h (hostSetTo x y) s) := by
  rw [serveHostSet_of_good_control hH hX hY hn hx, if_neg (by simpa [hostFnsBad, or_assoc] using hy), setHpctl2, setHpctl,
    modHp_modHp_self]
  have hb8 : bit (lo32 x) 8 = bit x 8 := getLsbD_lo32 x (by decide)
  have hb31 : bit (lo32 y) 31 = bit y 31 := getLsbD_lo32 y (by decide)
  simp only [hb8, hb31, bits_lo32_of_le x (show 0 + 3 ≤ 32 by decide), bits_lo32_of_le x (show 4 + 3 ≤ 32 by decide),
    bits_lo32_of_le x (show 16 + 12 ≤ 32 by decide), bits_lo32_of_le y (show 0 + 10 ≤ 32 by decide), bits_lo32_of_le y (show 16 + 10 ≤ 32 by decide)]
  rfl

end

/-- Bedrock's answer changes mailboxes and events only. -/
theorem bedAnswer_only (m result : Nat) (detail : Half) (ws : List Word) (s : State) :
    ∃ mbx k v, bedAnswer m result detail ws s = { s with mbx := mbx, ctl := { s.ctl with evpendk := k, evpends := v } } := by
  obtain ⟨mbx, k, v, h⟩ := mbxDone_events_only m (modMbx m (fun x => { x with
    rsp := putWords 1 ws (tset 0 x.rsp 0 (w64 result ||| w64 (fld (reqWord s m 0) 16 16 * 2 ^ 16) ||| put 64 detail 32)) }) s)
  exact ⟨mbx, k, v, h⟩

@[simp] theorem getInst_bedAnswer (m result : Nat) (detail : Half) (ws : List Word) (s : State) (i : Nat) :
    getInst (bedAnswer m result detail ws s) i = getInst s i := by
  obtain ⟨_, _, _, h⟩ := bedAnswer_only m result detail ws s
  rw [h]
  rfl

/-! ### TSV_PLACE and TSV_RING (R313, R337, R352) -/

section
variable {s : State} {placed : List (Nat × Nat)} {l : List (Nat × Nat × Nat × Nat)}

theorem badRegion_mem {w : Nat} (h : badRegion s placed l = some w) : w ∈ l.map (·.1) := by
  induction l generalizing placed with
  | nil => cases h
  | cons r l ih =>
    rw [badRegion] at h
    split at h
    · cases h
      exact List.mem_cons_self
    · exact List.mem_cons_of_mem _ (ih h)

/-- Regions of which none is bad are aligned, and lie in the arena. -/
theorem badRegion_eq_none (h : badRegion s placed l = none) :
    ∀ r ∈ l, r.2.1 % r.2.2.2 = 0 ∧ s.ctl.tsvbase.toNat ≤ r.2.1 := by
  induction l generalizing placed with
  | nil => simp
  | cons r l ih =>
    rw [badRegion] at h
    split at h
    · cases h
    next hr =>
      refine List.forall_mem_cons.2 ⟨?_, ih h⟩
      simp only [inArena, Bool.or_eq_true, not_or, bne_iff_ne, not_not, Bool.not_eq_true', Bool.not_eq_false,
        Bool.and_eq_true, decide_eq_true_eq] at hr
      obtain ⟨⟨ha, hb, -⟩, -⟩ := hr
      exact ⟨ha, hb⟩

theorem badRegion_of_misaligned {w a n al : Nat} (h : a % al ≠ 0) : badRegion s placed ((w, a, n, al) :: l) = some w :=
  if_pos (by simp [h])

end

section
variable {m i : Nat} {s : State}

/-- An instance whose regions lie where a request asks for them. -/
def placedAt (m : Nat) (s : State) (x : Inst) : Inst :=
  { x with
    hdrbase := reqWord s m 2
    ep0 := { x.ep0 with ebase := reqWord s m 3, sbase := reqWord s m 4 }
    ep1 := { x.ep1 with ebase := reqWord s m 5, sbase := reqWord s m 6 } }

section
variable (hI : fld (reqWord s m 1) 0 4 = i)
include hI

theorem serveTsvPlace_of_bad_word (h : fld (reqWord s m 1) 4 60 ≠ 0 ∨ (getInst s i).en = true) :
    serveTsvPlace m s = bedAnswer m 0x12 1 [] s := by
  subst hI
  exact if_pos (by simpa using h)

variable (h4 : fld (reqWord s m 1) 4 60 = 0) (he : (getInst s i).en = false)
include h4 he

theorem serveTsvPlace_of_bad_region {w : Nat}
    (h : badRegion s (ringRegion s ++ otherRegions s i) (askedRegions m (getInst s i) s) = some w) :
    serveTsvPlace m s = bedAnswer m 0x12 (BitVec.ofNat 32 w) [] s := by
  subst hI
  simp only [serveTsvPlace, h4, he, h]
  rfl

theorem serveTsvPlace_of_good (h : badRegion s (ringRegion s ++ otherRegions s i) (askedRegions m (getInst s i) s) = none) :
    serveTsvPlace m s = bedAnswer m 0 0 [] (modInst i (placedAt m s) s) := by
  subst hI
  simp only [serveTsvPlace, h4, he, h]
  rfl

end

theorem serveTsvRing_of_enabled (h : ∃ i, i < 16 ∧ (getInst s i).en = true) :
    serveTsvRing m s = bedAnswer m 0x12 1 [] s :=
  if_pos (by simpa using h)

section
variable {l : Word} (hL : reqWord s m 2 = l) (h : ¬ ∃ i, i < 16 ∧ (getInst s i).en = true)
include hL h

theorem serveTsvRing_of_bad_size (hl : l.toNat < 12 ∨ 20 < l.toNat) : serveTsvRing m s = bedAnswer m 0x12 2 [] s := by
  subst hL
  rw [serveTsvRing, if_neg (by simpa using h), if_pos (by simpa using hl)]
  rfl

variable (h12 : 12 ≤ l.toNat) (h20 : l.toNat ≤ 20)
include h12 h20

theorem serveTsvRing_of_bad_region {w : Nat}
    (hb : badRegion s (otherRegions s 16) [(1, (reqWord s m 1).toNat, 32 * 2 ^ l.toNat, 32)] = some w) :
    serveTsvRing m s = bedAnswer m 0x12 (BitVec.ofNat 32 w) [] s := by
  subst hL
  rw [serveTsvRing, if_neg (by simpa using h), if_neg (by simp; omega)]
  simp only [hb]
  rfl

theorem serveTsvRing_of_good
    (hb : badRegion s (otherRegions s 16) [(1, (reqWord s m 1).toNat, 32 * 2 ^ l.toNat, 32)] = none) :
    serveTsvRing m s =
      bedAnswer m 0 0 [] (modTsv (fun t => { t with tevbase := reqWord s m 1, tevlog := bits l 0 5 }) s) := by
  subst hL
  rw [serveTsvRing, if_neg (by simpa using h), if_neg (by simp; omega)]
  simp only [hb, w64, BitVec.ofNat_toNat, BitVec.setWidth_eq]

end

/-! ### VLOG_NEXT (R352) -/

theorem serveVlogNext_of_empty (h : s.gate.vlogwr = s.gate.vlogrd) : serveVlogNext m s = bedAnswer m 0x01 0 [] s :=
  if_pos (by simpa using h)

theorem serveVlogNext_of_record (h : s.gate.vlogwr ≠ s.gate.vlogrd) {r : Rule}
    (hr : tget {} s.gate.vlog (s.gate.vlogrd.toNat % 256) = r) : serveVlogNext m s =
      bedAnswer m 0 0 [r.w0, r.w1, r.w2, r.w3] (modGate (fun g => { g with vlogrd := inc32 g.vlogrd }) s) := by
  subst hr
  exact if_neg (by simpa using h)

end

/-! ### The requests at their turn -/

section
variable {s : State} {m : Nat}

theorem exec_gateRule (h : asked s m 0x01 = true) : exec (.gateRule m) s = .next (serveGateRule m (served m s)) :=
  congrArg _ (serve_of_asked h (by decide) (by decide) (ite_self true))

theorem exec_gateCommit (h : asked s m 0x02 = true) : exec (.gateCommit m) s = .next (serveGateCommit m (served m s)) :=
  congrArg _ (serve_of_asked h (by decide) (by decide) (ite_self true))

theorem exec_lockBreak (h : asked s m 0x03 = true) : exec (.lockBreak m) s = .next (serveLockBreak m (served m s)) :=
  congrArg _ (serve_of_asked h (by decide) (by decide) (ite_self true))

theorem exec_hostSet (h : asked s m 0x04 = true) : exec (.hostSet m) s = .next (serveHostSet m (served m s)) :=
  congrArg _ (serve_of_asked h (by decide) (by decide) (ite_self true))

theorem exec_tsvPlace (h : asked s m 0x05 = true) : exec (.tsvPlace m) s = .next (serveTsvPlace m (served m s)) :=
  congrArg _ (serve_of_asked h (by decide) (by decide) (ite_self true))

theorem exec_tsvRing (h : asked s m 0x06 = true) : exec (.tsvRing m) s = .next (serveTsvRing m (served m s)) :=
  congrArg _ (serve_of_asked h (by decide) (by decide) (ite_self true))

theorem exec_vlogNext (h : asked s m 0x08 = true) : exec (.vlogNext m) s = .next (serveVlogNext m (served m s)) :=
  congrArg _ (serve_of_asked h (by decide) (by decide) (ite_self true))

/-- A LOCK_BREAK that Bedrock comes back to. -/
theorem exec_lockBreak_of_waiting (hs : bedServes s = true) (hf : s.ctl.lockFor = some m) (hb : (getMbx s m).busy = true)
    (hc : fld (reqWord s m 0) 0 8 = 3) (h8 : fld (reqWord s m 0) 8 8 = 0) (h32 : fld (reqWord s m 0) 32 32 = 0) :
    exec (.lockBreak m) s = .next (serveLockBreak m (served m s)) :=
  congrArg _ (serve_of_allowed hs (.inr ⟨hf, hb⟩) (by omega) (by omega) hc h8 h32 (ite_self true))

end

/-- A commit refused for a rule is answered HW_ERROR with GBAR, and leaves the shadow rules. -/
theorem refusedCommit_spec {s : State} {m k : Nat} {mask : BitVec 71} (hb : (getMbx s m).busy = true)
    (hg : s.ctl.committing = none) (hc : s.ctl.commits = []) :
    let t := bedAnswer m 0x20 (gbarWord (badCommit mask k s.gate)) [] (modGate (badCommit mask k) s)
    (getMbx t m).busy = false ∧ fld (rspWord t m 0) 0 8 = 0x20 ∧ bits (rspWord t m 0) 32 32 = gbarWord t.gate ∧
    t.gate.err = true ∧ t.gate.errgate.toNat = k / 64 % 128 ∧ t.gate.errrule.toNat = k % 64 ∧
    t.gate.shadow = s.gate.shadow ∧ t.ctl.committing = none ∧ t.ctl.commits = [] := by
  intro t
  have hgate : t.gate = badCommit mask k s.gate := gate_bedAnswer ..
  have hb' : (getMbx (modGate (badCommit mask k) s) m).busy = true := hb
  obtain ⟨hresult, -, hdetail, -⟩ := rsp_bedAnswer m 0x20 (gbarWord (badCommit mask k s.gate)) [] _ hb' (by decide)
  obtain ⟨_, _, hctl⟩ := bedAnswer_events m 0x20 (gbarWord (badCommit mask k s.gate)) [] (modGate (badCommit mask k) s)
  refine ⟨?_, hresult, ?_, ?_, ?_, ?_, ?_, (congrArg Ctl.committing hctl).trans hg, (congrArg Ctl.commits hctl).trans hc⟩
  · rw [getMbx_bedAnswer _ _ _ _ _ hb', if_pos rfl]
  · rw [hgate]
    exact hdetail
  · rw [hgate]
    rfl
  · rw [hgate]
    exact BitVec.toNat_ofNat ..
  · rw [hgate]
    exact (BitVec.toNat_ofNat ..).trans (Nat.mod_mod ..)
  · rw [hgate]
    rfl

/-- Settles O42. Each request by its words, in the order in which Bedrock checks them. -/
theorem settingRequests : Obligations.SettingRequests := by
  refine ⟨fun s₀ m => ?_, fun s₀ m => ?_⟩ <;> intro s
  · refine ⟨fun hask => ?_, fun hask => ?_, fun hask => ?_, fun hs hf hb _ hc h8 h32 ha => ⟨fun hw => ?_, fun hw => ?_⟩⟩
    · intro a g i r free
      rw [exec_gateRule hask]
      refine ⟨fun h => ?_, fun h7 h14 hg => ⟨fun hf => ?_, fun hf hb => ?_, fun hf hb hl => ?_, fun hf hb hl => ?_⟩⟩
      · rw [serveGateRule_of_bad_word h]
      · rw [serveGateRule_of_protected h7 h14 rfl rfl rfl hg hf]
      · obtain ⟨h2, h5⟩ := badWord_range r
        exact ⟨badWord r, h2, h5, by rw [serveGateRule_of_malformed h7 h14 rfl rfl rfl hg hf hb]; rfl⟩
      · rw [serveGateRule_of_locked h7 h14 rfl rfl rfl hg hf hb hl]
      · rw [serveGateRule_of_writable h7 h14 rfl rfl rfl hg hf hb hl]
        rfl
    · intro b mask
      have hs : bedServes s = true := by
        obtain ⟨hs, -⟩ := asked_eq_true.1 hask
        rwa [bedServes_served]
      have hbusy : (getMbx s m).busy = true := by
        rw [getMbx_served]
        exact busy_of_asked hask
      rw [exec_gateCommit hask]
      refine ⟨fun h => ?_, fun h h6 => ?_, fun h h6 => ⟨fun hw => ?_, fun hl hg hc hu => ⟨fun hn => ?_, fun k hk ha => ?_⟩⟩⟩
      · rw [serveGateCommit_of_bad_word h]
      · rw [serveGateCommit_of_protected h h6]
      · rw [serveGateCommit_of_open h h6]
        exact congrArg _ (armNext_of_waiting 16 hw)
      · rw [serveGateCommit_of_open h h6]
        exact congrArg _ (commit_of_wellformed hl hs hg hc hu hn)
      · rw [serveGateCommit_of_open h h6]
        exact ⟨_, congrArg _ (commit_of_bad hl hs hg hc hu hk ha), refusedCommit_spec hbusy hg hc⟩
    · intro a u
      rw [exec_lockBreak hask]
      refine ⟨fun ha => ?_, fun ha hf => ⟨fun hw => ?_, fun hw => ?_, ?_⟩⟩
      · rw [serveLockBreak_of_misaligned rfl ha]
      · rw [serveLockBreak_of_new rfl ha hf]
        exact congrArg _ (if_neg (ne_true_of_eq_false hw))
      · rw [serveLockBreak_of_new rfl ha hf]
        exact congrArg _ (if_pos hw)
      · have hw : commandWord (modLock (fun l => { l with lbcmdadr := a }) s) = a := commandWord_of_aligned ha
        cases hx : lockAt s a with
        | none => exact found_lockCommand_of_none (s := modLock (fun l => { l with lbcmdadr := a }) s) (hw.symm ▸ hx)
        | some x =>
          have hfound := found_lockCommand_of_entry (s := modLock (fun l => { l with lbcmdadr := a }) s) (hw.symm ▸ hx)
          rwa [hw] at hfound
    · rw [exec_lockBreak_of_waiting hs hf hb hc h8 h32, serveLockBreak_of_waiting rfl (by rwa [reqWord_served])
        (by rwa [lockFor_served]), if_pos (by rwa [breakWaits_served, reqWord_served])]
    · rw [exec_lockBreak_of_waiting hs hf hb hc h8 h32, serveLockBreak_of_waiting rfl (by rwa [reqWord_served])
        (by rwa [lockFor_served]), if_neg (by rw [breakWaits_served, reqWord_served, hw]; simp)]
  · refine ⟨fun hask => ?_, fun hask => ?_, fun hask => ?_, fun hask => ?_⟩
    · intro h x y xBad yBad
      rw [exec_hostSet hask]
      refine ⟨fun hn => ?_, fun hn hx => ?_, fun hn hx hy => ?_, fun hn hx hy => ?_⟩
      · rw [serveHostSet_of_no_host rfl hn]
      · rw [serveHostSet_of_bad_control rfl rfl hn hx]
      · rw [serveHostSet_of_bad_functions rfl rfl rfl hn hx hy]
      · rw [serveHostSet_of_good rfl rfl rfl hn hx hy]
        rfl
    · intro a i x
      rw [exec_tsvPlace hask]
      refine ⟨fun h => ?_, fun h4 he => ⟨fun w hw => ?_, fun hn => ⟨_, by rw [serveTsvPlace_of_good rfl h4 he hn], ?_⟩⟩⟩
      · rw [serveTsvPlace_of_bad_word rfl h]
      · have hmem := badRegion_mem hw
        simp only [askedRegions, List.map_cons, List.map_nil, List.mem_cons, List.not_mem_nil, or_false] at hmem
        exact ⟨by omega, by omega, by rw [serveTsvPlace_of_bad_region rfl h4 he hw]⟩
      · have hregions := badRegion_eq_none hn
        simp only [askedRegions, List.forall_mem_cons] at hregions
        obtain ⟨⟨hal2, hb2⟩, ⟨-, hb3⟩, ⟨hal4, hb4⟩, ⟨-, hb5⟩, ⟨hal6, hb6⟩, -⟩ := hregions
        have hbusy : (getMbx (modInst i (placedAt m s) s) m).busy = true := by
          rw [getMbx_modInst, getMbx_served]
          exact busy_of_asked hask
        obtain ⟨hresult, -⟩ := rsp_bedAnswer m 0 0 [] _ hbusy (by decide)
        have hi : getInst (bedAnswer m 0 0 [] (modInst i (placedAt m s) s)) i = placedAt m s x := by
          rw [getInst_bedAnswer, getInst_modInst, if_pos rfl]
        rw [hi]
        refine ⟨rfl, rfl, rfl, rfl, rfl, fun j hj => ?_, ?_, hresult, ?_, hal2, hal4, hal6, ?_⟩
        · rw [getInst_bedAnswer, getInst_modInst, if_neg hj]
        · rw [getMbx_bedAnswer _ _ _ _ _ hbusy, if_pos rfl]
        · rw [durable_bedAnswer, durable_modInst]
        · simp only [List.forall_mem_cons]
          exact ⟨hb2, hb3, hb4, hb5, hb6, by simp⟩
    · intro a l on
      rw [exec_tsvRing hask]
      refine ⟨fun h => ?_, fun h hl => ?_, fun h h12 h20 => ⟨fun ha => ?_, fun hb => ?_⟩⟩
      · rw [serveTsvRing_of_enabled h]
      · rw [serveTsvRing_of_bad_size rfl h hl]
      · rw [serveTsvRing_of_bad_region rfl h h12 h20 (badRegion_of_misaligned ha)]
        rfl
      · rw [serveTsvRing_of_good rfl h h12 h20 hb]
    · rw [exec_vlogNext hask]
      refine ⟨fun h => ?_, fun h => ?_⟩
      · rw [serveVlogNext_of_empty h]
      · intro r
        rw [serveVlogNext_of_record h rfl]

end Sys2Proof.Machine

namespace Sys2Proof.Machine

/-! ### SELFTEST (R411, R414) -/

section
variable {kind : BitVec 2} {t : BitVec 7} {s : State}

/-- STSTAT shows a test as running. -/
def testRunning (kind : BitVec 2) (t : BitVec 7) (x : SelfTest) : SelfTest :=
  { x with busy := true, done := false, abandoned := false, lkind := kind, ltarget := t }

/-- A test changes the registers of the self-test, and in an in-field test the engines of the island. -/
theorem beginTest_eq (kind : BitVec 2) (t : BitVec 7) (s : State) : beginTest kind t s =
    { s with st := testRunning kind t s.st, eng := if kind = 2 then (clearIsland (t.toNat - 2) s).eng else s.eng } := by
  unfold beginTest
  by_cases h : kind = 2
  · rw [if_pos (beq_iff_eq.2 h), if_pos h]
    rfl
  · rw [if_neg (mt beq_iff_eq.1 h), if_neg h]
    rfl

/-- What the clearing of an island tells an engine (R414). -/
def tellIsland (k e : Nat) (x : Engine) : Engine :=
  match x.hold, x.stop with
  | .chan _, .none => if e / 4 == k then { x with stop := .pause, forced := true } else x
  | .chan _, .pause => if e / 4 == k then { x with forced := true } else x
  | _, _ => x

/-- An engine on a channel is told to stop as a quiesce would, if it is one of the island. -/
theorem stop_clearIsland {k e c : Nat} (hh : (getEng s e).hold = .chan c) (hs : (getEng s e).stop = .none) :
    (getEng (clearIsland k s) e).stop = if e / 4 = k then .pause else .none := by
  have htell := tget_tmap ({} : Engine) s.eng e (tellIsland k) (fun _ => rfl)
  have hget : getEng (clearIsland k s) e = tellIsland k e (getEng s e) := htell
  rw [hget, tellIsland, hh, hs]
  simp only [beq_iff_eq]
  split
  · rfl
  · exact hs

theorem two_le_of_testExists (hk : kind = 2) (h : testExists s kind t = true) : 2 ≤ t.toNat := by
  subst hk
  have h : (engIsland t.toNat && islPresent s t.toNat) = true := h
  simp only [engIsland, Bool.and_eq_true, decide_eq_true_eq] at h
  exact h.1.1

/-- An in-field test pauses the engines of its island. -/
theorem stop_beginTest {u : State} {x : SelfTest} {e c : Nat} (hk : kind = 2) (hh : (getEng u e).hold = .chan c)
    (hs : (getEng u e).stop = .none) (ht : 2 ≤ t.toNat) :
    (getEng { u with st := x, eng := if kind = 2 then (clearIsland (t.toNat - 2) u).eng else u.eng } e).stop =
      if e / 4 + 2 = t.toNat then .pause else .none := by
  have hisland : e / 4 = t.toNat - 2 ↔ e / 4 + 2 = t.toNat := by omega
  rw [if_pos hk, ← if_congr hisland rfl rfl]
  exact stop_clearIsland hh hs

theorem startTest_of_idle (hb : s.st.busy = false) (h : testExists s kind t = true) :
    startTest kind t s = beginTest kind t { s with st := { s.st with kind := kind, target := t } } := by
  refine if_neg (?_ : ¬ (s.st.busy || !testExists s kind t) = true)
  simp [hb, h]

end

section
variable {m : Nat} {s : State} {a : Word} {kind : BitVec 2} {t : BitVec 7}

/-- The request names a test that the block has. -/
def testNamed (s : State) (a : Word) (kind : BitVec 2) (t : BitVec 7) : Prop :=
  fld a 2 6 = 0 ∧ fld a 15 49 = 0 ∧ testExists s kind t = true

/-- The test may run now (R411). -/
def testAllowed (s : State) (kind : BitVec 2) (t : BitVec 7) : Prop :=
  (kind ≠ 2 → s.ctl.phase = 6 ∧ ¬(kind = 0 ∧ t = 0) ∧ ¬(kind = 1 ∧ t = 11)) ∧ (kind = 2 → otherEngines s t.toNat = true)

/-- The block behind a request that starts a test: the request waits for its end. -/
def selftestBegun (m : Nat) (kind : BitVec 2) (t : BitVec 7) (s : State) : State :=
  let u : State := { s with ctl := { s.ctl with testFor := some m }, st := { s.st with kind := kind, target := t } }
  { u with st := testRunning kind t u.st, eng := if kind = 2 then (clearIsland (t.toNat - 2) u).eng else u.eng }

theorem testAllowed_iff : testAllowed s kind t ↔
    ¬ (kind != 2 && (s.ctl.phase != 6 || (kind == 0 && t == 0) || (kind == 1 && t == 11))) = true ∧
    ¬ (kind == 2 && !otherEngines s t.toNat) = true := by
  by_cases hk : kind = 2
  · simp [testAllowed, hk]
  · simp [testAllowed, hk, and_assoc]

variable (hA : reqWord s m 1 = a) (hK : bits a 0 2 = kind) (hT : bits a 8 7 = t)
include hA hK hT

theorem serveSelftest_of_unknown (h : ¬ testNamed s a kind t) : serveSelftest m s = bedAnswer m 0x12 1 [] s := by
  subst hA hK hT
  refine if_pos ?_
  by_contra hb
  exact h (by simpa [testNamed, and_assoc] using hb)

variable (h : testNamed s a kind t)
include h

theorem serveSelftest_of_named : serveSelftest m s =
    if kind != 2 && (s.ctl.phase != 6 || (kind == 0 && t == 0) || (kind == 1 && t == 11)) then bedAnswer m 0x11 0 [] s
    else if kind == 2 && !otherEngines s t.toNat then bedAnswer m 0x11 0 [] s
    else if s.st.busy then bedAnswer m 0x14 0 [] s
    else startTest kind t (modCtl (fun c => { c with testFor := some m }) s) := by
  subst hA hK hT
  exact if_neg (by simpa [testNamed, and_assoc] using h)

theorem serveSelftest_of_refused (hn : ¬ testAllowed s kind t) : serveSelftest m s = bedAnswer m 0x11 0 [] s := by
  rw [serveSelftest_of_named hA hK hT h]
  rw [testAllowed_iff, not_and_or, not_not, not_not] at hn
  obtain hn | hn := hn
  · rw [if_pos hn]
  · rw [if_pos hn, ite_self]

variable (hm : testAllowed s kind t)
include hm

theorem serveSelftest_of_busy (hb : s.st.busy = true) : serveSelftest m s = bedAnswer m 0x14 0 [] s := by
  obtain ⟨hphase, hother⟩ := testAllowed_iff.1 hm
  rw [serveSelftest_of_named hA hK hT h, if_neg hphase, if_neg hother, if_pos hb]

theorem serveSelftest_of_idle (hb : s.st.busy = false) : serveSelftest m s =
    startTest kind t (modCtl (fun c => { c with testFor := some m }) s) := by
  obtain ⟨hphase, hother⟩ := testAllowed_iff.1 hm
  rw [serveSelftest_of_named hA hK hT h, if_neg hphase, if_neg hother, if_neg (by simp [hb])]

theorem serveSelftest_begins (hb : s.st.busy = false) : serveSelftest m s = selftestBegun m kind t s := by
  rw [serveSelftest_of_idle hA hK hT h hm hb,
    startTest_of_idle (s := modCtl (fun c => { c with testFor := some m }) s) hb h.2.2, beginTest_eq]
  rfl

end

/-! ### READY, SCREE_LOAD and SCREE_RESTART (R347, R352, R353) -/

section
variable {m : Nat} {s : State}

theorem serveReady_of_busy (h : s.ctl.zeroed = false ∨ s.ctl.ready = true) : serveReady m s = bedAnswer m 0x14 0 [] s :=
  if_pos (by simpa using h)

theorem serveReady_of_zeroed (hz : s.ctl.zeroed = true) (hr : s.ctl.ready = false) : serveReady m s =
    bedAnswer m 0 0 [] (modCtl (fun c => { c with ready := true, phase := 8 }) s) := if_neg (by simp [hz, hr])

theorem loadBusy_eq_true : loadBusy s = true ↔ s.ctl.update ≠ none ∨ s.ctl.loading = true ∨ s.ctl.scree ≠ none := by
  simp [loadBusy, or_assoc, Option.isSome_iff_ne_none]

theorem serveScreeLoad_of_busy (h : loadBusy s = true) : serveScreeLoad m s = bedAnswer m 0x14 0 [] s := if_pos h

theorem serveScreeLoad_of_free (h : ¬ loadBusy s = true) : serveScreeLoad m s =
    modCtl (fun c => { c with update := some (.verify m) }) s := if_neg h

/-- A restart is refused while an image is on its way, and where Scree does not run. -/
def restartBusy (s : State) : Prop :=
  s.ctl.update ≠ none ∨ s.ctl.loading = true ∨ s.ctl.scree ≠ none ∨ ¬(s.ctl.phase = 7 ∨ s.ctl.phase = 8)

theorem restartBusy_iff : restartBusy s ↔ (loadBusy s || !(s.ctl.phase == 7 || s.ctl.phase == 8)) = true := by
  rw [Bool.or_eq_true, loadBusy_eq_true, restartBusy, or_assoc, or_assoc]
  simp

theorem serveScreeRestart_of_busy (h : restartBusy s) : serveScreeRestart m s = bedAnswer m 0x14 0 [] s :=
  if_pos (restartBusy_iff.1 h)

theorem serveScreeRestart_of_running (h : ¬ restartBusy s) : serveScreeRestart m s = bedAnswer m 0 0 [] (restartScree s) :=
  if_neg (mt restartBusy_iff.2 h)

/-- The cores are halted, and then all of them start. -/
theorem restartScree_eq (s : State) : restartScree s =
    writeCcctl (ccctlWord 0xFF s.ctl.bank 2) (writeCcctl (ccctlWord 0 s.ctl.bank s.ctl.cause) s) := by
  have h : putb 32 s.ctl.bank 8 ||| 0xFF ||| put 32 (2 : BitVec 2) 9 = ccctlWord 0xFF s.ctl.bank 2 := by
    rw [ccctlWord, BitVec.or_comm (putb 32 s.ctl.bank 8)]
    rfl
  rw [restartScree, h, ccctlWord_zero]

theorem bit_allOnes {n : Nat} (hn : n < 8) : bit (0xFF : Byte) n = true := by
  interval_cases n <;> rfl

/-- Every core has started at the entry. -/
theorem restartScree_spec (s : State) : (restartScree s).ctl.run = 0xFF ∧ (restartScree s).ctl.cause = 2 ∧
    (restartScree s).ctl.bank = s.ctl.bank ∧
    (∀ n, n < 8 → (getCore (restartScree s) n).pc = s.ctl.entry.zeroExtend 64 ∧ (getCore (restartScree s) n).g = [] ∧
      (getCore (restartScree s) n).wait = none ∧ bit (restartScree s).ctl.halted n = false) := by
  rw [restartScree_eq]
  refine ⟨?_, ?_, ?_, fun n hn => ?_⟩
  · rw [run_writeCcctl, run_ccctlWord]
  · rw [cause_writeCcctl, cause_ccctlWord]
  · rw [bank_writeCcctl, bank_ccctlWord]
  · have hv : bit (ccctlWord 0xFF s.ctl.bank 2) n = true := by rw [bit_ccctlWord _ _ _ hn, bit_allOnes hn]
    have hr : bit (writeCcctl (ccctlWord 0 s.ctl.bank s.ctl.cause) s).ctl.run n = false := by
      rw [run_writeCcctl, run_ccctlWord]
      exact BitVec.getLsbD_zero
    obtain ⟨hcore, hhalted, -⟩ := writeCcctl_starts hn hv hr
    rw [hcore, entry_writeCcctl]
    exact ⟨rfl, rfl, rfl, hhalted⟩

end

/-! ### CAIRN_SET (R402) -/

section
variable {m : Nat} {s : State} {a b : Word}

theorem toNat_bits {w : Nat} (x : BitVec w) (lo n : Nat) : (bits x lo n).toNat = fld x lo n := BitVec.extractLsb'_toNat ..

/-- What CAIRN_SET refuses in its first word. -/
def cairnBad (s : State) (a : Word) : Prop :=
  fld a 1 3 ≠ 0 ∨ fld a 9 55 ≠ 0 ∨ ¬(1 ≤ fld a 4 4 ∧ fld a 4 4 ≤ nHosts s)

theorem cairnBad_iff : cairnBad s a ↔ (fld a 1 3 != 0 || fld a 9 55 != 0 || !hostSpace s (bits a 4 4)) = true := by
  simp only [cairnBad, hostSpace, toNat_bits, Bool.or_eq_true, bne_iff_ne, Bool.not_eq_true', or_assoc,
    ← Bool.decide_and, decide_eq_false_iff_not]

/-- The host copy as a request sets it. -/
def cairnSetTo (a b : Word) (p : PowerFail) : PowerFail := { p with hcen := bit a 0, hspace := bits a 4 4, haddr := b }

/-- The block as a good request leaves it: bit 8 of the first word is CLEAR. -/
def cairnSetState (a b : Word) (s : State) : State :=
  if bit a 8 then clearRecords (modPf (cairnSetTo a b) s) else modPf (cairnSetTo a b) s

theorem cairnSetState_of_kept {a b : Word} {s : State} (h : bit a 8 = false) :
    cairnSetState a b s = modPf (cairnSetTo a b) s := if_neg (by simp [h])

theorem cairnSetState_only (a b : Word) (s : State) :
    ∃ r, cairnSetState a b s = { s with pf := cairnSetTo a b s.pf, rsram := r } := by
  unfold cairnSetState
  split <;> exact ⟨_, rfl⟩

theorem pf_cairnSetState (a b : Word) (s : State) : (cairnSetState a b s).pf = cairnSetTo a b s.pf := by
  obtain ⟨r, h⟩ := cairnSetState_only a b s
  rw [h]

theorem mbx_cairnSetState (a b : Word) (s : State) : (cairnSetState a b s).mbx = s.mbx := by
  obtain ⟨r, h⟩ := cairnSetState_only a b s
  rw [h]

theorem cmem_cairnSetState (a b : Word) (s : State) : (cairnSetState a b s).cmem = s.cmem := by
  obtain ⟨r, h⟩ := cairnSetState_only a b s
  rw [h]

theorem kram_cairnSetState (a b : Word) (s : State) : (cairnSetState a b s).kram = s.kram := by
  obtain ⟨r, h⟩ := cairnSetState_only a b s
  rw [h]

section
variable (hA : reqWord s m 1 = a)
include hA

theorem serveCairnSet_of_bad_word (h : cairnBad s a) : serveCairnSet m s = bedAnswer m 0x12 1 [] s := by
  subst hA
  exact if_pos (cairnBad_iff.1 h)

variable (hB : reqWord s m 2 = b) (h : ¬ cairnBad s a)
include hB h

theorem serveCairnSet_of_misaligned (hb : b.toNat % 4096 ≠ 0) : serveCairnSet m s = bedAnswer m 0x12 2 [] s := by
  subst hA hB
  rw [serveCairnSet, if_neg (mt cairnBad_iff.2 h), if_pos (by simpa using hb)]
  rfl

theorem serveCairnSet_of_good (hb : b.toNat % 4096 = 0) : serveCairnSet m s = bedAnswer m 0 0 []
    (cairnSetState a b s) := by
  subst hA hB
  rw [serveCairnSet, if_neg (mt cairnBad_iff.2 h), if_neg (by simp [hb])]
  rfl

end

/-- Behind CLEAR both slots are zero. -/
theorem memByte_clearRecords (s : State) (j : Nat) :
    memByte (clearRecords s).rsram j = if j < 0x2000 then 0 else memByte s.rsram j := by
  rw [clearRecords, memByte_memWrite, List.length_replicate, Nat.zero_add]
  by_cases h : j < 0x2000
  · rw [if_pos ⟨j.zero_le, h⟩, if_pos h, Nat.sub_zero, List.getD_replicate _ h]
  · rw [if_neg (fun hp => h hp.2), if_neg h]

theorem memByte_cairnSetState (h : bit a 8 = true) (j : Nat) :
    memByte (cairnSetState a b s).rsram j = if j < 0x2000 then 0 else memByte s.rsram j := by
  rw [cairnSetState, if_pos h, memByte_clearRecords]
  rfl

theorem recordValid_of_zero (k : Nat) (h : ∀ j, slotBase k ≤ j → j < slotBase k + 8 → memByte s.rsram j = 0) :
    recordValid s k = false := by
  have hread : memRead s.rsram (slotBase k + 0) 8 = (List.range 8).map (fun _ => (0 : Byte)) := by
    rw [memRead_eq]
    exact List.map_congr_left fun i hi => h _ (by omega) (by simpa using hi)
  have hword : slotWord s k 0 = 0 := by
    rw [slotWord, hread]
    rfl
  rw [recordValid, hword]
  rfl

end

section
variable {s : State} {m : Nat}

theorem exec_selftest (h : asked s m 0x07 = true) : exec (.selftest m) s = .next (serveSelftest m (served m s)) :=
  congrArg _ (serve_of_asked h (by decide) (by decide) (ite_self true))

theorem exec_ready (h : asked s m 0x09 = true) (hm : m < 8) : exec (.ready m) s = .next (serveReady m (served m s)) :=
  congrArg _ (serve_of_asked h (by decide) (by decide) (if_neg (by omega)))

theorem exec_screeLoad (h : asked s m 0x0A = true) : exec (.screeLoad m) s = .next (serveScreeLoad m (served m s)) :=
  congrArg _ (serve_of_asked h (by decide) (by decide) (ite_self true))

theorem exec_screeRestart (h : asked s m 0x0B = true) (hm : m = 8) :
    exec (.screeRestart m) s = .next (serveScreeRestart m (served m s)) :=
  congrArg _ (serve_of_asked h (by decide) (by decide) (if_pos hm))

theorem exec_cairnSet (h : asked s m 0x0C = true) : exec (.cairnSet m) s = .next (serveCairnSet m (served m s)) :=
  congrArg _ (serve_of_asked h (by decide) (by decide) (ite_self true))

end

/-- The request that Bedrock serves stands posted. -/
theorem busy_served {s₀ : State} {m k : Nat} (h : asked s₀ m k = true) : (getMbx (served m s₀) m).busy = true := by
  rw [getMbx_served]
  exact busy_of_asked h

/-- An answer of success takes the request back with RESULT 0. -/
theorem bedAnswer_succeeds {m : Nat} {s : State} (h : (getMbx s m).busy = true) :
    (getMbx (bedAnswer m 0 0 [] s) m).busy = false ∧ fld (rspWord (bedAnswer m 0 0 [] s) m 0) 0 8 = 0 := by
  obtain ⟨hresult, -⟩ := rsp_bedAnswer m 0 0 [] s h (by decide)
  exact ⟨by rw [getMbx_bedAnswer _ _ _ _ _ h, if_pos rfl], hresult⟩

/-- Settles O43. Each request by its words and by what runs already. -/
theorem operationRequests : Obligations.OperationRequests := by
  intro s₀ m s
  refine ⟨fun hask => ?_, fun hask hm => ⟨fun h => ?_, fun hz hr => ?_⟩, fun hask => ?_, fun hask hm => ?_, fun hask => ?_⟩
  · intro a kind t good may
    rw [exec_selftest hask]
    refine ⟨fun h => ?_, fun h hm => ?_, fun h hm hb => ?_, fun h hm hb => ?_⟩
    · rw [serveSelftest_of_unknown rfl rfl rfl h]
    · rw [serveSelftest_of_refused rfl rfl rfl h hm]
    · rw [serveSelftest_of_busy rfl rfl rfl h hm hb]
    · rw [serveSelftest_begins rfl rfl rfl h hm hb]
      exact ⟨_, rfl, rfl, rfl, rfl, rfl, rfl, rfl, fun hk => if_neg hk,
        fun hk e c hh hs => stop_beginTest hk hh hs (two_le_of_testExists hk h.2.2)⟩
  · rw [exec_ready hask hm, serveReady_of_busy h]
  · rw [exec_ready hask hm, serveReady_of_zeroed hz hr]
  · intro busy
    rw [exec_screeLoad hask]
    refine ⟨fun h => ?_, fun h => ?_⟩
    · rw [serveScreeLoad_of_busy (loadBusy_eq_true.2 h)]
    · rw [serveScreeLoad_of_free (mt loadBusy_eq_true.1 h)]
  · intro busy
    rw [exec_screeRestart hask hm]
    refine ⟨fun h => ?_, fun h => ?_⟩
    · rw [serveScreeRestart_of_busy h]
    · obtain ⟨hrun, hcause, hbank, hcores⟩ := restartScree_spec s
      have hbusy : (getMbx (restartScree s) m).busy = true := by
        rw [restartScree_eq, getMbx, mbx_writeCcctl, mbx_writeCcctl]
        exact busy_served hask
      obtain ⟨hidle, hresult⟩ := bedAnswer_succeeds hbusy
      rw [serveScreeRestart_of_running h]
      obtain ⟨mbx, k, v, hanswer⟩ := bedAnswer_only m 0 0 [] (restartScree s)
      refine ⟨_, rfl, ?_, ?_, ?_, fun n hn => ?_, hidle, hresult, ?_⟩
      · rw [hanswer]; exact hrun
      · rw [hanswer]; exact hcause
      · rw [hanswer]; exact hbank
      · rw [hanswer]; exact hcores n hn
      · rw [durable_bedAnswer, durable_restartScree]
  · intro a b aBad
    rw [exec_cairnSet hask]
    refine ⟨fun h => ?_, fun h hb => ?_, fun h hb => ?_⟩
    · rw [serveCairnSet_of_bad_word rfl h]
    · rw [serveCairnSet_of_misaligned rfl rfl h hb]
    · rw [serveCairnSet_of_good rfl rfl h hb]
      obtain ⟨mbx, k, v, hanswer⟩ := bedAnswer_only m 0 0 [] (cairnSetState a b s)
      obtain ⟨hidle, hresult⟩ := bedAnswer_succeeds (m := m) (s := cairnSetState a b s)
        (by rw [getMbx, mbx_cairnSetState]; exact busy_served hask)
      refine ⟨_, rfl, ?_, ?_, ?_, hresult, hidle, ?_, ?_, fun hclear => ?_, fun hclear => ⟨?_, ?_, fun k hk => ?_⟩⟩
      all_goals rw [hanswer]
      · exact congrArg PowerFail.hcen (pf_cairnSetState ..)
      · exact congrArg PowerFail.hspace (pf_cairnSetState ..)
      · exact congrArg PowerFail.haddr (pf_cairnSetState ..)
      · exact cmem_cairnSetState ..
      · exact kram_cairnSetState ..
      · exact (cairnSetState_of_kept (s := s) hclear).symm ▸ rfl
      · exact recordValid_of_zero 0 fun j _ hj => (memByte_cairnSetState hclear j).trans (if_pos (by rw [slotBase] at hj; omega))
      · exact recordValid_of_zero 1 fun j _ hj => (memByte_cairnSetState hclear j).trans (if_pos (by rw [slotBase] at hj; omega))
      · exact (memByte_cairnSetState hclear k).trans (if_neg (by omega))

end Sys2Proof.Machine

namespace Sys2Proof.Machine

/-! ### Scree starts (R347 step 10, R359) -/

section
variable {s : State} {v e : Half}

/-- The block as Scree's start finds it. -/
def screeTaken (v : Half) (s : State) : State := modCtl (fun c => { c with scree := none, scrsvn := v, phase := 7 }) s

/-- Where Scree of a bank is entered. -/
def entryOf (bank : Bool) (e : Half) : BitVec 24 := BitVec.ofNat 24 ((bankBase bank + e.toNat) / 8 * 8)

theorem startScree_eq (bank : Bool) (e : Half) (cause : BitVec 2) (s : State) : startScree bank e cause s =
    writeCcctl (ccctlWord 0xFF bank cause) (modCtl (fun c => { c with entry := entryOf bank e }) s) := rfl

/-- All eight cores run from the entry; of the rest only the registers of the cores change. -/
theorem startScree_only (bank : Bool) (e : Half) (cause : BitVec 2) (s : State) : ∃ core h f, startScree bank e cause s =
    { s with core := core, ctl := { s.ctl with
      entry := entryOf bank e, run := 0xFF, bank := bank, cause := cause, halted := h, fault := f } } := by
  obtain ⟨core, h, f, heq⟩ := writeCcctl_coresOnly (ccctlWord 0xFF bank cause) (modCtl (fun c => { c with entry := entryOf bank e }) s)
  rw [startScree_eq, heq, ccctlSet, run_ccctlWord, bank_ccctlWord, cause_ccctlWord]
  exact ⟨core, h, f, rfl⟩

/-- A verified Scree may start. -/
def screeReady (s : State) : Prop := s.ctl.zeroed = true ∧ s.st.failed = false ∧ (s.ctl.phase = 5 ∨ s.ctl.phase = 6)

theorem screeGo_of_none (h : s.ctl.scree = none) : screeGo s = s := by rw [screeGo, h]

section
variable (h : s.ctl.scree = some (v, e))
include h

theorem screeGo_of_waiting (hw : s.ctl.zeroed = false ∨ s.st.failed = true) : screeGo s = s := by
  simp only [screeGo, h]
  refine if_neg ?_
  obtain hw | hw := hw <;> simp [hw]

variable (hr : screeReady s)
include hr

theorem screeReady_eq_true : (s.ctl.zeroed && !s.st.failed && (s.ctl.phase == 5 || s.ctl.phase == 6)) = true := by
  obtain ⟨hz, hf, hp⟩ := hr
  simpa [hz, hf] using hp

theorem screeGo_of_start (hs : s.ctl.screeFor = none) : screeGo s = startScree false e 0 (screeTaken v s) := by
  obtain ⟨_, _, _, hstart⟩ := startScree_only false e 0 (screeTaken v s)
  have hfor : (startScree false e 0 (screeTaken v s)).ctl.screeFor = none := by rw [hstart]; exact hs
  simp only [screeGo, h, screeReady_eq_true h hr, if_true]
  rw [← screeTaken, hfor]

theorem screeGo_of_load {m : Nat} (hs : s.ctl.screeFor = some m) : screeGo s =
    bedAnswer m 0 0 [] (modCtl (fun c => { c with screeFor := none }) (startScree false e 0 (screeTaken v s))) := by
  obtain ⟨_, _, _, hstart⟩ := startScree_only false e 0 (screeTaken v s)
  have hfor : (startScree false e 0 (screeTaken v s)).ctl.screeFor = some m := by rw [hstart]; exact hs
  simp only [screeGo, h, screeReady_eq_true h hr, if_true]
  rw [← screeTaken, hfor]

/-- A SCREE_LOAD that waited for the start is answered. -/
theorem screeGo_answers {m : Nat} (hs : s.ctl.screeFor = some m) (hb : (getMbx s m).busy = true) :
    (getMbx (screeGo s) m).busy = false ∧ (getMbx (screeGo s) m).done = true := by
  obtain ⟨_, _, _, hstart⟩ := startScree_only false e 0 (screeTaken v s)
  have hbusy : (getMbx (modCtl (fun c => { c with screeFor := none }) (startScree false e 0 (screeTaken v s))) m).busy = true := by
    rw [hstart]
    exact hb
  rw [screeGo_of_load h hr hs, getMbx_bedAnswer _ _ _ _ _ hbusy, if_pos rfl]
  exact ⟨rfl, rfl⟩

/-- Scree runs on all eight cores from bank A, and beside cores, mailboxes and events nothing else changes. -/
theorem screeGo_only : ∃ core mbx x h f k w, screeGo s = { s with core := core, mbx := mbx, ctl := { s.ctl with
    scree := none, scrsvn := v, phase := 7, entry := entryOf false e, run := 0xFF, bank := false, cause := 0,
    screeFor := x, halted := h, fault := f, evpendk := k, evpends := w } } := by
  obtain ⟨core, h', f, hstart⟩ := startScree_only false e 0 (screeTaken v s)
  cases hs : s.ctl.screeFor with
  | none =>
    rw [screeGo_of_start h hr hs, hstart]
    exact ⟨_, _, _, _, _, _, _, rfl⟩
  | some m =>
    rw [screeGo_of_load h hr hs]
    obtain ⟨mbx, k, w, hanswer⟩ := bedAnswer_only m 0 0 []
      (modCtl (fun c => { c with screeFor := none }) (startScree false e 0 (screeTaken v s)))
    rw [hanswer, hstart]
    exact ⟨_, _, _, _, _, _, _, rfl⟩

end

end

/-! ### Scree images (R345, R347, R353) -/

section
variable {s : State} {im : Image} {type : Byte}

theorem ite_some_eq_none {α : Type} {p : Prop} [Decidable p] {a : α} {r : Option α} :
    (if p then some a else r) = none ↔ ¬ p ∧ r = none := by
  split <;> simp [*]

/-- An image that verifies could be read and fits. -/
theorem imageFits_of_verified (h : verifyErr s type im = none) : imageFits type im = true := by
  simp only [verifyErr, ite_some_eq_none] at h
  obtain ⟨hread, -, -, -, hlen, -⟩ := h
  simp only [Bool.or_eq_true, decide_eq_true_eq, not_or, not_lt] at hread hlen
  rw [imageFits, decide_eq_true hlen.1, Bool.and_true]
  simpa using hread

/-- The copy of an image changes control memory and its error marks. -/
theorem loadBank_only (bank : Bool) (im : Image) (s : State) :
    ∃ c x y, loadBank bank im s = { s with cmem := c, ecc := x, soft := y } := by
  unfold loadBank
  split
  · exact ⟨_, _, _, rfl⟩
  · exact ⟨s.cmem, s.ecc, s.soft, rfl⟩

theorem cmem_loadBank {bank : Bool} (h : verifyErr s 2 im = none) :
    (loadBank bank im s).cmem = memWrite s.cmem (bankBase bank) (imBody im) := by
  rw [loadBank, if_pos (imageFits_of_verified h)]
  rfl

end

section
variable {s : State} {im : Image} {b : Bpb} (hl : live s = true) (hn : s.pf.stage = .normal) (h2 : s.ctl.phase ≠ 2)
include hl hn h2

theorem exec_imageVerifyDone_of_start (h5 : s.ctl.phase = 5) (hload : s.ctl.loading = true) :
    exec (.imageVerifyDone im b) s = .next (screeVerified im s) := by
  show execImageVerifyDone im b s = _
  rw [execImageVerifyDone, if_neg (by simp [hl, hn]), if_neg (by simpa using h2), if_pos (by simp [h5, hload])]

theorem exec_imageVerifyDone_of_update {m : Nat} (h5 : s.ctl.phase = 5 → s.ctl.loading = false)
    (hu : s.ctl.update = some (.verify m)) : exec (.imageVerifyDone im b) s = .next (updateVerified m im s) := by
  show execImageVerifyDone im b s = _
  rw [execImageVerifyDone, if_neg (by simp [hl, hn]), if_neg (by simpa using h2), if_neg (by simpa using h5), hu]

end

section
variable {s : State} {im : Image}

/-- The image has been copied, and start-up no longer waits for it. -/
def screeLoaded (im : Image) (s : State) : State := modCtl (fun c => { c with loading := false }) (loadBank false im s)

theorem screeLoaded_only (im : Image) (s : State) :
    ∃ c x y, screeLoaded im s = { s with cmem := c, ecc := x, soft := y, ctl := { s.ctl with loading := false } } := by
  obtain ⟨c, x, y, h⟩ := loadBank_only false im s
  rw [screeLoaded, h]
  exact ⟨_, _, _, rfl⟩

theorem screeVerified_of_bad {e : Byte} (h : verifyErr s 2 im = some e) :
    screeVerified im s = modCtl (fun c => { c with phase := 6, err := e }) (screeLoaded im s) := by
  rw [screeVerified, h]
  rfl

theorem screeVerified_of_good (h : verifyErr s 2 im = none) : screeVerified im s =
    screeGo (modCtl (fun c => { c with scree := some (imSvn im, imEntry im) }) (screeLoaded im s)) := by
  rw [screeVerified, h]
  rfl

variable {m : Nat}

theorem updateVerified_of_bad {e : Byte} (h : verifyErr s 2 im = some e) : updateVerified m im s =
    bedAnswer m 0x15 (e.zeroExtend 32) [] (modCtl (fun c => { c with update := none })
      (loadBank (s.ctl.phase != 6 && !s.ctl.bank) im s)) := by
  rw [updateVerified, h]
  rfl

/-- Behind PHASE 6 no Scree runs that could be asked. -/
theorem updateVerified_of_first (h : verifyErr s 2 im = none) (h6 : s.ctl.phase = 6) : updateVerified m im s =
    screeGo (modCtl (fun c => { c with update := none, scree := some (imSvn im, imEntry im), screeFor := some m })
      (loadBank false im s)) := by
  rw [updateVerified, h, h6]
  rfl

theorem updateVerified_of_running (h : verifyErr s 2 im = none) (h6 : s.ctl.phase ≠ 6) : updateVerified m im s =
    nextNotice (modCtl (fun c => { c with
      update := some (.queued m (imSvn im) (imEntry im) (imBuild im)), notices := c.notices ++ [.update] })
      (loadBank (!s.ctl.bank) im s)) := by
  have hw : (s.ctl.phase == 6) = false := beq_false_of_ne h6
  rw [updateVerified, h, hw]
  rfl

/-- With no notice outstanding the UPDATE notice of an image that verified goes to Scree at once. -/
theorem nextNotice_of_update {v e : Half} {w : Word} (hs : bedServes s = true) (hb : (getMbx s 9).busy = false)
    (hno : s.ctl.noticed = none) (hnot : s.ctl.notices = []) :
    nextNotice (modCtl (fun c => { c with update := some (.queued m v e w), notices := c.notices ++ [.update] }) s) =
      postNotice 0x82 (v.zeroExtend 64) w (modCtl (fun c => { c with
        noticed := some .update, notices := [], update := some (.notice m v e s.time) }) s) := by
  set u := modCtl (fun c => { c with update := some (.queued m v e w), notices := c.notices ++ [.update] }) s with hu
  have hnext : u.ctl.notices = [.update] := by simp [hu, hnot]
  have hopen : (bedServes u && !(getMbx u 9).busy && u.ctl.noticed.isNone) = true := by
    rw [show bedServes u = true from hs, show (getMbx u 9).busy = false from hb, show u.ctl.noticed = none from hno]
    rfl
  simp only [nextNotice, hnext, hopen, if_true]
  rfl

end

theorem fld_notice {cmd : Nat} (hcmd : cmd < 256) (g : Nat) : fld (w64 cmd ||| w64 (g * 2 ^ 16)) 0 8 = cmd := by
  have hlow : w64 (g * 2 ^ 16) = w64 g <<< 16 := by
    apply BitVec.eq_of_toNat_eq
    simp [w64, Nat.shiftLeft_eq]
  have hcmd' : (w64 cmd).toNat % 2 ^ 8 = cmd := by simp [w64]; omega
  rw [hlow, fld, BitVec.toNat_or, Nat.shiftRight_zero, Nat.or_mod_two_pow, hcmd', BitVec.toNat_shiftLeft,
    Nat.mod_mod_of_dvd _ (by decide), Nat.shiftLeft_eq, show (w64 g).toNat * 2 ^ 16 % 2 ^ 8 = 0 by omega, Nat.or_zero]

/-- A notice in mailbox 9: its command and its two words. -/
theorem postNotice_spec {cmd : Nat} (hcmd : cmd < 256) (r1 r2 : Word) {s : State} (hb : (getMbx s 9).busy = false) :
    let t := postNotice cmd r1 r2 s
    (getMbx t 9).busy = true ∧ fld (reqWord t 9 0) 0 8 = cmd ∧ reqWord t 9 1 = r1 ∧ reqWord t 9 2 = r2 := by
  intro t
  have hmbx : ∀ k, getMbx t k = _ := fun k => getMbx_mbxPost 9 k _
  have hreq : ∀ j, reqWord t 9 j = tget 0 (putWords 0 [w64 cmd ||| w64 (fld (drawFree s).1 0 16 * 2 ^ 16), r1, r2]
      (getMbx s 9).req) j := by
    intro j
    rw [reqWord, hmbx, if_pos rfl, getMbx_modMbx, if_pos rfl]
    rfl
  refine ⟨?_, ?_, ?_, ?_⟩
  · rw [hmbx, if_pos rfl]
  · rw [hreq, tget_putWords, if_pos (by simp)]
    exact fld_notice hcmd _
  · rw [hreq, tget_putWords, if_pos (by simp)]
    rfl
  · rw [hreq, tget_putWords, if_pos (by simp)]
    rfl

theorem postNotice_only (cmd : Nat) (r1 r2 : Word) (s : State) : ∃ k w f mbx, postNotice cmd r1 r2 s =
    { s with free := f, mbx := mbx, ctl := { s.ctl with evpendk := k, evpends := w } } := by
  unfold postNotice mbxPost
  dsimp only
  split <;> exact ⟨_, _, _, _, rfl⟩

/-! ### The end of the zeroing (R347 step 8, R403) -/

theorem tget_filter {α : Type} (d : α) (t : Tbl α) (p : Nat → Bool) (k : Nat) :
    tget d (t.filter (fun x => p x.1)) k = if p k = true then tget d t k else d := by
  induction t with
  | nil => simp [tget]
  | cons x t ih =>
    obtain ⟨j, v⟩ := x
    by_cases hp : p j = true
    · rw [List.filter_cons_of_pos (p := fun x : Nat × α => p x.1) hp, tget, tget, ih]
      split
      · next h => rw [← h, if_pos hp]
      · rfl
    · rw [List.filter_cons_of_neg (p := fun x : Nat × α => p x.1) hp, ih, tget]
      by_cases h : j = k
      · rw [if_neg (h ▸ hp), if_neg (h ▸ hp)]
      · rw [if_neg h]

/-- What the zeroing leaves of control memory: the Scree data region is zero. -/
def zeroedCmem (s : State) : List Host.Cell := s.cmem.filter (fun c => decide (c.1 < 0x800000))

theorem memByte_zeroedCmem (s : State) (a : Nat) : memByte (zeroedCmem s) a = if a < 0x800000 then memByte s.cmem a else 0 := by
  refine (tget_filter 0 s.cmem (fun j => decide (j < 0x800000)) a).trans ?_
  simp only [decide_eq_true_eq, memByte]

/-- The block as the zeroing leaves it. -/
def zeroedState (s : State) : State :=
  modCtl (fun c => { c with zeroed := true }) (loadCairn (eccMend 0x800000 0x800000 { s with
    dsp := { s.dsp with ctx := [], cache := [], bitmap := [], summary := [] }, cmem := zeroedCmem s }))

theorem zeroEnds_eq (s : State) : zeroEnds s = screeGo (zeroedState s) := rfl

theorem loadCairn_only (s : State) : ∃ w v, loadCairn s = { s with pf := { s.pf with cairnwin := w, cairnvalid := v } } := by
  unfold loadCairn
  split <;> exact ⟨_, _, rfl⟩

/-- The retention record depends on the retention SRAM only. -/
theorem cairn_loadCairn {s t : State} (h : t.rsram = s.rsram) :
    (loadCairn t).pf.cairnwin = (loadCairn s).pf.cairnwin ∧ (loadCairn t).pf.cairnvalid = (loadCairn s).pf.cairnvalid := by
  have hvalid : ∀ k, recordValid t k = recordValid s k := fun k => by simp only [recordValid, slotWord, h]
  have hseq : ∀ k, recordSeq t k = recordSeq s k := fun k => by simp only [recordSeq, slotWord, h]
  have hbest : bestRecord t = bestRecord s := by rw [bestRecord, bestRecord, hvalid, hvalid, hseq, hseq]
  unfold loadCairn
  rw [hbest]
  split
  · exact ⟨rfl, rfl⟩
  · simp only [h, modPf_pf, and_self]

/-- The block that the zeroing leaves, with the error marks x and y and the retention record w and v. -/
def zeroedAs (x y : List Nat) (w : Tbl Word) (v : Bool) (s : State) : State := { s with
  dsp := { s.dsp with ctx := [], cache := [], bitmap := [], summary := [] }
  cmem := zeroedCmem s
  ecc := x
  soft := y
  pf := { s.pf with cairnwin := w, cairnvalid := v }
  ctl := { s.ctl with zeroed := true } }

theorem zeroedState_eq (s : State) : ∃ x y, zeroedState s = zeroedAs x y (loadCairn s).pf.cairnwin (loadCairn s).pf.cairnvalid s := by
  let u := eccMend 0x800000 0x800000 { s with
    dsp := { s.dsp with ctx := [], cache := [], bitmap := [], summary := [] }, cmem := zeroedCmem s }
  obtain ⟨hw, hv⟩ := cairn_loadCairn (s := s) (t := u) rfl
  obtain ⟨w, v, h⟩ := loadCairn_only u
  rw [h] at hw hv
  refine ⟨u.ecc, u.soft, ?_⟩
  rw [zeroedState, zeroedAs, ← hw, ← hv, h]
  rfl

/-! ### The requests and CCCTL -/

section
variable {s : State}

theorem exec_startupZeroDone_of_zeroing (hl : live s = true) (hn : s.pf.stage = .normal)
    (hp : s.ctl.phase = 5 ∨ s.ctl.phase = 6) (hz : s.ctl.zeroed = false) :
    exec .startupZeroDone s = .next (screeGo (zeroedState s)) :=
  if_pos (by simpa [hl, hn, hz] using hp)

section
variable {m : Nat} {v e : Half} {a : Word} (hu : s.ctl.update = some (.notice m v e a)) (hs : bedServes s = true)
include hu hs

theorem exec_updateTimeout_of_early (h : (s.time - a).toNat < 100000000) : exec .updateTimeout s = .next s := by
  show execUpdateTimeout s = _
  rw [execUpdateTimeout, hu]
  exact if_pos (by rw [decide_eq_true h, Bool.or_true])

theorem exec_updateTimeout_of_late (h : 100000000 ≤ (s.time - a).toNat) :
    exec .updateTimeout s = .next (bedAnswer m 0x17 0 [] (modCtl (fun c => { c with update := none }) s)) := by
  show execUpdateTimeout s = _
  rw [execUpdateTimeout, hu]
  exact if_neg (by rw [hs, decide_eq_false (not_lt.2 h)]; decide)

end

theorem bedServes_iff (hl : live s = true) (hn : s.pf.stage = .normal) :
    bedServes s = true ↔ 5 ≤ s.ctl.phase.toNat ∧ s.ctl.phase.toNat ≤ 8 := by
  simp [bedServes, hl, hn]

theorem exec_ccctlWrite_of_kc (hl : live s = true) (v : Half) : exec (.ccctlWrite .kc v) s = .next (writeCcctl v (access .kc s)) :=
  if_neg (by simp [hl, isKc])

theorem exec_ccctlWrite_of_other {r : Requester} (hr : isKc r = false) (v : Half) : exec (.ccctlWrite r v) s = .next (access r s) :=
  if_pos (by simp [hr])

end

/-- Settles O39. Each image by what `verifyErr` says of it and by where it is awaited. -/
theorem screeStarts : Obligations.ScreeStarts := by
  refine ⟨fun s im b hl hn h2 => ⟨fun h5 hload => ⟨fun e he => ?_, fun he => ?_⟩, fun m hu hw => ⟨fun e he => ?_,
    fun he h6 hz hf hm hb => ?_, fun he hp hnot hno hb => ?_⟩⟩, fun s hl => ⟨fun hn hp hz => ?_,
    fun m v e a hn h5 h8 hu => ?_, fun v => ?_, fun r v hr => exec_ccctlWrite_of_other hr v⟩⟩
  · obtain ⟨c, x, y, hloaded⟩ := screeLoaded_only im s
    rw [exec_imageVerifyDone_of_start hl hn h2 h5 hload, screeVerified_of_bad he, hloaded]
    exact ⟨_, rfl, rfl, rfl, rfl⟩
  · have hmem : (screeLoaded im s).cmem = memWrite s.cmem 0 (imBody im) := cmem_loadBank (bank := false) he
    obtain ⟨c, x, y, hloaded⟩ := screeLoaded_only im s
    rw [hloaded] at hmem
    rw [exec_imageVerifyDone_of_start hl hn h2 h5 hload, screeVerified_of_good he, hloaded]
    by_cases hready : s.ctl.zeroed = true ∧ s.st.failed = false
    · obtain ⟨hz, hf⟩ := hready
      obtain ⟨_, _, _, _, _, _, _, hgo⟩ := screeGo_only (s := modCtl (fun c => { c with scree := some (imSvn im, imEntry im) })
        { s with cmem := c, ecc := x, soft := y, ctl := { s.ctl with loading := false } }) rfl ⟨hz, hf, .inl h5⟩
      rw [hgo]
      refine ⟨_, rfl, hmem, rfl, rfl, fun hw => ?_, fun _ _ => ⟨rfl, rfl, rfl, rfl, rfl, ?_⟩⟩
      · simp [hz, hf] at hw
      · simp [entryOf, bankBase]
    · rw [screeGo_of_waiting rfl (by simpa [imp_iff_or_not, or_comm] using hready)]
      exact ⟨_, rfl, hmem, rfl, rfl, fun _ => ⟨rfl, rfl⟩, fun hz hf => absurd ⟨hz, hf⟩ hready⟩
  · rw [exec_imageVerifyDone_of_update hl hn h2 hw hu, updateVerified_of_bad he]
  · rw [exec_imageVerifyDone_of_update hl hn h2 hw hu, updateVerified_of_first he h6]
    obtain ⟨c, x, y, hloaded⟩ := loadBank_only false im s
    rw [hloaded]
    set u := modCtl (fun c => { c with update := none, scree := some (imSvn im, imEntry im), screeFor := some m })
      { s with cmem := c, ecc := x, soft := y } with hu'
    have hready : screeReady u := ⟨hz, hf, .inr h6⟩
    obtain ⟨hidle, hdone⟩ := screeGo_answers (s := u) rfl hready rfl hb
    obtain ⟨_, _, _, _, _, _, _, hgo⟩ := screeGo_only (s := u) rfl hready
    rw [hgo] at hidle hdone ⊢
    exact ⟨_, rfl, rfl, rfl, rfl, rfl, rfl, hidle, hdone⟩
  · have h6 : s.ctl.phase ≠ 6 := by rcases hp with hp | hp <;> rw [hp] <;> decide
    have hserves := (bedServes_iff hl hn).2 (by rcases hp with hp | hp <;> rw [hp] <;> decide)
    have hmem := cmem_loadBank (bank := !s.ctl.bank) he
    obtain ⟨c, x, y, hloaded⟩ := loadBank_only (!s.ctl.bank) im s
    rw [hloaded] at hmem
    rw [exec_imageVerifyDone_of_update hl hn h2 hw hu, updateVerified_of_running he h6, hloaded]
    rw [nextNotice_of_update (s := { s with cmem := c, ecc := x, soft := y }) hserves hb hno hnot]
    set u := modCtl (fun c => { c with
      noticed := some .update, notices := [], update := some (.notice m (imSvn im) (imEntry im) s.time) })
      { s with cmem := c, ecc := x, soft := y }
    obtain ⟨hbusy, hcmd, hsvn, hbuild⟩ :=
      postNotice_spec (cmd := 0x82) (by decide) ((imSvn im).zeroExtend 64) (imBuild im) (s := u) hb
    obtain ⟨_, _, _, _, hpost⟩ := postNotice_only 0x82 ((imSvn im).zeroExtend 64) (imBuild im) u
    rw [hpost] at hbusy hcmd hsvn hbuild ⊢
    exact ⟨_, rfl, rfl, hmem, rfl, hbusy, hcmd, hsvn, hbuild, rfl, rfl⟩
  · rw [exec_startupZeroDone_of_zeroing hl hn hp hz]
    obtain ⟨x, y, hzeroed⟩ := zeroedState_eq s
    rw [hzeroed]
    generalize (loadCairn s).pf.cairnwin = w, (loadCairn s).pf.cairnvalid = cv
    cases hs : s.ctl.scree with
    | none =>
      rw [screeGo_of_none (s := zeroedAs x y w cv s) hs]
      exact ⟨_, rfl, rfl, fun _ => rfl, rfl, memByte_zeroedCmem s, rfl, rfl, rfl, rfl, fun _ => rfl, fun _ _ h => nomatch h⟩
    | some ve =>
      cases hf : s.st.failed with
      | true =>
        rw [screeGo_of_waiting (s := zeroedAs x y w cv s) hs (.inr hf)]
        exact ⟨_, rfl, rfl, fun _ => rfl, rfl, memByte_zeroedCmem s, rfl, rfl, rfl, rfl, fun h => (nomatch h),
          fun _ _ _ h => (nomatch h)⟩
      | false =>
        obtain ⟨_, _, _, _, _, _, _, hgo⟩ := screeGo_only (s := zeroedAs x y w cv s) hs ⟨rfl, hf, hp⟩
        rw [hgo]
        refine ⟨_, rfl, rfl, fun _ => rfl, rfl, memByte_zeroedCmem s, rfl, rfl, rfl, rfl, fun h => (nomatch h),
          fun v e h _ => ⟨rfl, rfl, ?_⟩⟩
        rw [Option.some.inj h]
  · have hs := (bedServes_iff hl hn).2 ⟨h5, h8⟩
    exact ⟨exec_updateTimeout_of_early hu hs, exec_updateTimeout_of_late hu hs⟩
  · rw [exec_ccctlWrite_of_kc hl]
    refine ⟨_, rfl, run_writeCcctl .., bank_writeCcctl .., cause_writeCcctl .., by simp, fun n hn => ?_⟩
    have hctl := access_ctl .kc s
    have hcore : getCore (access .kc s) n = getCore s n := getCore_access ..
    refine ⟨fun hv hr => ?_, fun hv hr => ?_, fun hv => ?_⟩
    · have hstart := writeCcctl_starts (s := access .kc s) hn hv (by rw [hctl]; exact hr)
      rwa [hcore, hctl, access_time] at hstart
    · have hhalt := writeCcctl_halts (s := access .kc s) hn hv (by rw [hctl]; exact hr)
      rwa [hcore, hctl] at hhalt
    · have hkeep := writeCcctl_keeps (s := access .kc s) hn (by rw [hctl]; exact hv)
      rwa [hcore, hctl] at hkeep

end Sys2Proof.Machine

namespace Sys2Proof.Machine

/-! ### The verifier's checks in their order (R345) -/

section
variable {s : State} {type : Byte} {im : Image}

theorem verifyErr_of_unread (h : im.readOk = false) : verifyErr s type im = some 0x08 := if_pos (by simp [h])

/-- What the form check asks of a header (R344). -/
def headerFormed (im : Image) : Prop :=
  hdrNat im 0 4 = 0x48545256 ∧ hdrNat im 4 2 = 1 ∧ hdrNat im 0x0A 2 = 0 ∧ hdrNat im 0x28 88 = 0 ∧ hdrNat im 0xE0 32 = 0

theorem formOk_iff : formOk im = true ↔ headerFormed im := by simp [formOk, headerFormed, and_assoc]

section
variable (hread : im.readOk = true)
include hread

theorem verifyErr_of_malformed (h : ¬ headerFormed im) : verifyErr s type im = some 0x01 := by
  rw [verifyErr, if_neg (by simp [hread]), if_pos]
  rwa [Bool.not_eq_true', ← Bool.not_eq_true, formOk_iff]

section
variable (hform : headerFormed im)
include hform

theorem verifyErr_of_other_type (h : hdrNat im 6 1 ≠ type.toNat) : verifyErr s type im = some 0x02 := by
  rw [verifyErr, if_neg (by simp [hread]), if_neg (by simp [formOk_iff.2 hform]), if_pos (by simpa using h)]

section
variable (htype : hdrNat im 6 1 = type.toNat)
include htype

theorem verifyErr_of_other_block (h : hdrNat im 8 1 ≠ 0x03 ∨ (hdrNat im 9 1).testBit (configBit s) = false) :
    verifyErr s type im = some 0x03 := by
  rw [verifyErr, if_neg (by simp [hread]), if_neg (by simp [formOk_iff.2 hform]), if_neg (by simp [htype]), if_pos]
  simpa using h

section
variable (hrev : hdrNat im 8 1 = 0x03) (hconfig : (hdrNat im 9 1).testBit (configBit s) = true)
include hrev hconfig

theorem verifyErr_of_matching : verifyErr s type im =
    if imageLimit type < 256 + imBodylen im || imBodylen im ≤ (imEntry im).toNat then some 0x04
    else if !keyOk s type im then some 0x05
    else if !sigOk s type im then some 0x06
    else if type == 2 && decide ((imSvn im).toNat < s.ctl.minsvn.toNat) then some 0x07
    else none := by
  rw [verifyErr, if_neg (by simp [hread]), if_neg (by simp [formOk_iff.2 hform]), if_neg (by simp [htype]),
    if_neg (by simp [hrev, hconfig])]

theorem verifyErr_of_bad_length (h : imageLimit type < 256 + imBodylen im ∨ imBodylen im ≤ (imEntry im).toNat) :
    verifyErr s type im = some 0x04 := by
  rw [verifyErr_of_matching hread hform htype hrev hconfig, if_pos (by simpa using h)]

section
variable (hlen : 256 + imBodylen im ≤ imageLimit type) (hentry : (imEntry im).toNat < imBodylen im)
include hlen hentry

theorem verifyErr_of_fitting : verifyErr s type im =
    if !keyOk s type im then some 0x05
    else if !sigOk s type im then some 0x06
    else if type == 2 && decide ((imSvn im).toNat < s.ctl.minsvn.toNat) then some 0x07
    else none := by
  rw [verifyErr_of_matching hread hform htype hrev hconfig, if_neg (by simp; omega)]

theorem verifyErr_of_no_key (h : keyOk s type im = false) : verifyErr s type im = some 0x05 := by
  rw [verifyErr_of_fitting hread hform htype hrev hconfig hlen hentry, if_pos (by simp [h])]

variable (hkey : keyOk s type im = true)
include hkey

theorem verifyErr_of_bad_signature (h : sigOk s type im = false) : verifyErr s type im = some 0x06 := by
  rw [verifyErr_of_fitting hread hform htype hrev hconfig hlen hentry, if_neg (by simp [hkey]), if_pos (by simp [h])]

theorem verifyErr_of_signed (h : sigOk s type im = true) : verifyErr s type im =
    if type = 2 ∧ (imSvn im).toNat < s.ctl.minsvn.toNat then some 0x07 else none := by
  rw [verifyErr_of_fitting hread hform htype hrev hconfig hlen hentry, if_neg (by simp [hkey]), if_neg (by simp [h])]
  simp

end
end
end
end
end

/-- What the key check asks: KEYIDX names a key of the ROM, or one of the running Bedrock's. -/
def keyNamed (s : State) (type : Byte) (key : Nat) : Prop :=
  if type = 1 then key < 2
  else key < 4 ∧ keyBlock s + 96 * key + 96 ≤ 256 + natOfBytes (memRead s.kram 0x10 4) ∧
    (memRead s.kram (keyBlock s + 96 * key) 96).any (· != 0) = true

theorem keyOk_iff : keyOk s type im = true ↔ keyNamed s type (hdrNat im 7 1) := by
  by_cases h : type = 1 <;> simp [keyOk, keyNamed, screeKey, h, and_assoc]

end

/-! ### Start-up (R347) -/

theorem exec_bootGo_of_other {s : State} {r : Requester} (h : isMp r = false) (st : Bool) :
    exec (.bootGo r st) s = .next (access r s) := if_pos (by simp [h])

section
variable {s : State}

theorem exec_bootGo_of_mp (hl : live s = true) (hn : s.pf.stage = .normal) (st : Bool) :
    exec (.bootGo .mp st) s = .next (bootGo st (access .mp s)) := if_neg (by simp [hl, hn, isMp])

theorem bootGo_of_first (st : Bool) (h : s.ctl.phase = 1) :
    bootGo st s = modCtl (fun c => { c with selftest := st, phase := 2 }) s := by
  simp [bootGo, h, modCtl]

theorem bootGo_of_refused (st : Bool) (h : s.ctl.phase = 9) (hlo : 1 ≤ s.ctl.err.toNat) (hhi : s.ctl.err.toNat ≤ 8) :
    bootGo st s = modCtl (fun c => { c with selftest := st, phase := 2 }) s := by
  simp [bootGo, h, hlo, hhi, modCtl]

section
variable {im : Image} {b : Bpb}

theorem exec_imageVerifyDone_of_boot (hl : live s = true) (hn : s.pf.stage = .normal) (h2 : s.ctl.phase = 2) :
    exec (.imageVerifyDone im b) s = .next (bedrockVerified im b s) := by
  show execImageVerifyDone im b s = _
  rw [execImageVerifyDone, if_neg (by simp [hl, hn]), if_pos (by simpa using h2)]

theorem exec_imageVerifyDone_of_unawaited (h2 : s.ctl.phase ≠ 2) (h5 : s.ctl.phase = 5 → s.ctl.loading = false)
    (hu : ∀ m, s.ctl.update ≠ some (.verify m)) : exec (.imageVerifyDone im b) s = .next s := by
  show execImageVerifyDone im b s = _
  unfold execImageVerifyDone
  split
  · rfl
  rw [if_neg (by simpa using h2), if_neg (by simpa using h5)]
  split
  · next m h => exact absurd h (hu m)
  · rfl

/-- The copy of an image changes KRAM and its error marks. -/
theorem loadKram_only (im : Image) (s : State) : ∃ k x y, loadKram im s = { s with kram := k, ecc := x, soft := y } := by
  unfold loadKram
  split
  · exact ⟨_, _, _, rfl⟩
  · exact ⟨s.kram, s.ecc, s.soft, rfl⟩

theorem kram_loadKram (h : verifyErr s 1 im = none) :
    (loadKram im s).kram = memWrite s.kram 0 (im.header.take 256 ++ imBody im) := by
  rw [loadKram, if_pos (imageFits_of_verified h)]
  rfl

theorem bedrockVerified_of_bad {e : Byte} (h : verifyErr s 1 im = some e) :
    bedrockVerified im b s = bootHalt e (loadKram im s) := by
  rw [bedrockVerified, h]

/-- Bedrock's image has been copied and waits to start. -/
def bedrockLoaded (im : Image) (b : Bpb) (s : State) : State :=
  modCtl (fun c => { c with bedrock := some (imSvn im, imMinsvn im, imEntry im, b) }) (loadKram im s)

theorem bedrockLoaded_only (im : Image) (b : Bpb) (s : State) : ∃ x y, bedrockLoaded im b s = { s with
    kram := (loadKram im s).kram, ecc := x, soft := y,
    ctl := { s.ctl with bedrock := some (imSvn im, imMinsvn im, imEntry im, b) } } := by
  obtain ⟨k, x, y, h⟩ := loadKram_only im s
  rw [bedrockLoaded, h]
  exact ⟨x, y, rfl⟩

theorem bedrockVerified_of_good (h : verifyErr s 1 im = none) : bedrockVerified im b s =
    if (bedrockLoaded im b s).ctl.selftest then nextTest (modCtl (fun c => { c with
      phase := 3, tests := startTests (bedrockLoaded im b s) }) (bedrockLoaded im b s))
    else startBedrock (bedrockLoaded im b s) := by
  rw [bedrockVerified, h]
  rfl

end

/-! ### The start-up self-test (R410) -/

theorem mem_startTests_island {n : Nat} : (false, n) ∈ startTests s ↔ n < 82 ∧ n ≠ 0 ∧ islPresent s n = true := by
  simp [startTests]

theorem mem_startTests_group {n : Nat} : (true, n) ∈ startTests s ↔ n < 17 ∧ groupPresent s n = true := by
  simp [startTests]

/-- The first test is LOGIC of island 1, which every configuration has. -/
theorem startTests_eq (s : State) : ∃ l, startTests s = (false, 1) :: l := by
  have hpresent : islPresent s 1 = true := by
    cases h : s.cfg.compact <;> simp [islPresent, h]
  have hrange : List.range 82 = 0 :: 1 :: (List.range 80).map (· + 2) := by decide
  rw [startTests, hrange, List.filter_cons_of_neg (by simp), List.filter_cons_of_pos (by simp [hpresent])]
  exact ⟨_, rfl⟩

theorem nextTest_of_cons {mem : Bool} {k : Nat} {l : List (Bool × Nat)} (h : s.ctl.tests = (mem, k) :: l) :
    nextTest s = { s with
      ctl := { s.ctl with tests := l }
      st := testRunning (if mem = true then 1 else 0) (BitVec.ofNat 7 k) s.st } := by
  rw [nextTest, h]
  refine (beginTest_eq ..).trans ?_
  cases mem <;> rfl

theorem nextTest_of_nil (h : s.ctl.tests = []) : nextTest s = startBedrock (resetAll (startTests s) s) := by
  rw [nextTest, h]

end

/-! ### Bedrock starts: its rules and the first barrier (R251, R341, R347) -/

theorem mem_of_mem_terase {α : Type} {t : Tbl α} {k : Nat} {x : Nat × α} (h : x ∈ terase t k) : x ∈ t := by
  induction t with
  | nil => exact h
  | cons y t ih =>
    obtain ⟨j, v⟩ := y
    rw [terase] at h
    split at h
    · exact .tail _ (ih h)
    · obtain rfl | h := List.mem_cons.1 h
      · exact .head _
      · exact .tail _ (ih h)

theorem mem_tinsert {α : Type} {t : Tbl α} {k : Nat} {v : α} {x : Nat × α} (h : x ∈ tinsert k v t) : x = (k, v) ∨ x ∈ t := by
  induction t with
  | nil => exact .inl (List.mem_singleton.1 h)
  | cons y t ih =>
    obtain ⟨j, w⟩ := y
    rw [tinsert] at h
    split at h
    · exact List.mem_cons.1 h
    · obtain rfl | h := List.mem_cons.1 h
      · exact .inr (.head _)
      · exact (ih h).imp_right (.tail _)

theorem mem_tset {α : Type} [DecidableEq α] {d v : α} {t : Tbl α} {k : Nat} {x : Nat × α} (h : x ∈ tset d t k v) :
    x = (k, v) ∨ x ∈ t := by
  rw [tset] at h
  split at h
  · exact .inr (mem_of_mem_terase h)
  · exact (mem_tinsert h).imp_right mem_of_mem_terase

/-- No shadow rule of a gate of l is malformed. -/
def GatesFormed (l : List Nat) (s : State) : Prop := ∀ kr ∈ s.gate.shadow, kr.1 / 64 ∈ l → ruleBad kr.2 = false

theorem GatesFormed.setShadow {l : List Nat} {s : State} (h : GatesFormed l s) (g i : Nat) {r : Rule} (hr : ruleBad r = false) :
    GatesFormed l (setShadow g i r s) := by
  intro kr hmem hl
  obtain rfl | hmem := mem_tset (show kr ∈ tset {} s.gate.shadow (64 * g + i) r from hmem)
  · exact hr
  · exact h kr hmem hl

/-- The rules of R251 in one gate, in place of what stood there. -/
def installGate (g : Nat) (s : State) : State :=
  setShadow g 63 ruleDenyAll (setShadow g 0 ruleBedrock
    (modGate (fun x => { x with shadow := x.shadow.filter (fun kr => kr.1 / 64 != g) }) s))

theorem GatesFormed.installGate {l : List Nat} {s : State} (h : GatesFormed l s) (g : Nat) :
    GatesFormed (g :: l) (installGate g s) := by
  refine GatesFormed.setShadow (GatesFormed.setShadow (fun kr hmem hl => ?_) g 0 (by decide)) g 63 (by decide)
  obtain ⟨hmem, hne⟩ := List.mem_filter.1 (show kr ∈ s.gate.shadow.filter (fun kr => kr.1 / 64 != g) from hmem)
  obtain hg | hl := List.mem_cons.1 hl
  · simp [hg] at hne
  · exact h kr hmem hl

theorem GatesFormed.installAll (gs : List Nat) {l : List Nat} {s : State} (h : GatesFormed l s) :
    GatesFormed (gs.reverse ++ l) (forAll gs Machine.installGate s) := by
  induction gs generalizing l s with
  | nil => exact h
  | cons g gs ih =>
    rw [List.reverse_cons, List.append_assoc]
    exact ih (h.installGate g)

/-- The gates that the configuration has. -/
def presentGates (s : State) : List Nat := (List.range 71).filter (gatePresent s)

theorem installStart_formed (s : State) : GatesFormed (presentGates s) (installStart s) := by
  have hall := GatesFormed.installAll (presentGates s) (l := []) (s := s) (fun _ _ h => nomatch h)
  have hrules : GatesFormed ((presentGates s).reverse ++ []) (installStart s) :=
    (hall.setShadow 70 1 (r := ruleBank false) (by decide)).setShadow 70 2 (r := ruleScreeData) (by decide)
  intro kr hmem hl
  exact hrules kr hmem (by simpa using hl)

/-- Only shadow rules change. -/
def ShadowOnly (s t : State) : Prop := ∃ x, t = { s with gate := { s.gate with shadow := x } }

theorem ShadowOnly.setShadow {s t : State} (h : ShadowOnly s t) (g i : Nat) (r : Rule) : ShadowOnly s (setShadow g i r t) := by
  obtain ⟨x, rfl⟩ := h
  exact ⟨_, rfl⟩

theorem ShadowOnly.installGate {s t : State} (h : ShadowOnly s t) (g : Nat) : ShadowOnly s (installGate g t) := by
  obtain ⟨x, rfl⟩ := h
  exact ⟨_, rfl⟩

theorem installStart_only (s : State) : ShadowOnly s (installStart s) := by
  have hall : ShadowOnly s (forAll (presentGates s) Machine.installGate s) :=
    forAll_ind (ShadowOnly s) _ _ (fun g _ h => h.installGate g) _ ⟨_, rfl⟩
  exact (hall.setShadow 70 1 (ruleBank false)).setShadow 70 2 ruleScreeData

theorem gatePresent_lt {s : State} {g : Nat} (h : gatePresent s g = true) : g < 71 := by
  unfold gatePresent at h
  split at h
  · simp at h; omega
  · simpa using h

/-- The rules of start-up are all well formed. -/
theorem badRule_installStart (s : State) : badRule (installStart s) (BitVec.allOnes 71) = none := by
  obtain ⟨x, hs⟩ := installStart_only s
  rw [badRule, Option.map_eq_none_iff, List.find?_eq_none]
  intro kr hmem
  rw [Bool.and_eq_true, inMask, Bool.and_eq_true, hs]
  rintro ⟨⟨-, hpresent⟩, hbad⟩
  have hpresent : gatePresent s (kr.1 / 64) = true := hpresent
  have hformed := installStart_formed s kr hmem
    (List.mem_filter.2 ⟨List.mem_range.2 (gatePresent_lt hpresent), hpresent⟩)
  rw [hformed] at hbad
  cases hbad

/-- ARM changes the registers of the barrier only. -/
theorem armMask_only (m : BitVec 71) (s : State) : ∃ g, armMask m s = { s with gate := g } ∧ g.active = s.gate.active := by
  unfold armMask gbarArm
  dsimp only
  split
  · exact ⟨_, rfl, rfl⟩
  split <;> exact ⟨_, rfl, rfl⟩

/-- The first barrier of start-up: over every gate, where none is outstanding. -/
theorem armStart (s : State) : ∃ g, armMask (BitVec.allOnes 71) (installStart s) = { s with gate := g } ∧
    g.active = s.gate.active ∧ (s.gate.latched = none → g.armed = true ∧ g.latched = some (BitVec.allOnes 71)) := by
  obtain ⟨x, hs⟩ := installStart_only s
  by_cases hl : s.gate.latched = none
  · rw [armMask_of_wellformed (by rw [hs]; exact hl) (badRule_installStart s), hs]
    exact ⟨_, rfl, rfl, fun _ => ⟨rfl, rfl⟩⟩
  · obtain ⟨g, harm, hactive⟩ := armMask_only (BitVec.allOnes 71) (installStart s)
    rw [harm]
    rw [hs] at hactive ⊢
    exact ⟨g, rfl, hactive, fun h => absurd h hl⟩

section
variable {u : State} {sv mi en : Half} {b : Bpb}

/-- Bedrock runs, from its entry. -/
def bedrockStarted (sv mi en : Half) (u : State) : State :=
  modCore 8 (startRegs (w64 (0x80010100 + en.toNat)) u.time)
    (modCtl (fun c => { c with bedrock := none, phase := 4, bedrockRan := true, bedsvn := sv, minsvn := mi }) u)

theorem getCore_bedrockStarted (sv mi en : Half) (u : State) : getCore (bedrockStarted sv mi en u) 8 =
    startRegs (w64 (0x80010100 + en.toNat)) u.time (getCore u 8) := by simp [bedrockStarted]

/-- The settings of the boot parameter block (R346). -/
def bpbApplied (b : Bpb) (u : State) : State :=
  { u with
    dsp := { u.dsp with ctxbase := b.w0, log2cnt := bits b.w2 0 5, psbase := b.w1 }
    ctl := { u.ctl with tsvbase := b.w3, tsvsize := b.w4, loading := b.w5 != 0, startBarrier := 2 } }

variable (h : u.ctl.bedrock = some (sv, mi, en, b))
include h

theorem startBedrock_of_bad (hb : bpbOk u b = false) :
    startBedrock u = bootHalt 0x09 (bedrockStarted sv mi en u) := by
  have hb' : bpbOk (bedrockStarted sv mi en u) b = false := hb
  rw [startBedrock, h]
  exact if_pos (congrArg _ hb')

theorem startBedrock_of_good (hb : bpbOk u b = true) :
    startBedrock u = armMask (BitVec.allOnes 71) (installStart (bpbApplied b (bedrockStarted sv mi en u))) := by
  have hb' : bpbOk (bedrockStarted sv mi en u) b = true := hb
  rw [startBedrock, h]
  refine if_neg (?_ : ¬ (!bpbOk (bedrockStarted sv mi en u) b) = true)
  rw [hb']
  decide

/-- Whatever its parameters are, Bedrock has started. -/
theorem startBedrock_starts : ∃ dsp gate c, startBedrock u = { bedrockStarted sv mi en u with
    dsp := dsp, gate := gate, ctl := c } ∧ c.bedsvn = sv ∧ c.minsvn = mi ∧ c.bedrock = none ∧ c.bedrockRan = true := by
  cases hb : bpbOk u b with
  | false =>
    rw [startBedrock_of_bad h hb]
    exact ⟨_, _, _, rfl, rfl, rfl, rfl, rfl⟩
  | true =>
    obtain ⟨g, harm, -⟩ := armStart (bpbApplied b (bedrockStarted sv mi en u))
    rw [startBedrock_of_good h hb, harm]
    exact ⟨_, _, _, rfl, rfl, rfl, rfl, rfl⟩

end

/-! ### The report of a start-up test (R413) -/

theorem ctl_logicResult (i : Nat) (rep : TestReport) (s : State) : (logicResult i rep s).2.ctl = s.ctl := by
  unfold logicResult
  dsimp only
  split <;> rfl

theorem ctl_memoryResult (g rows : Nat) (s : State) : (memoryResult g rows s).2.ctl = s.ctl := by
  unfold memoryResult
  dsimp only
  repeat' split
  all_goals rfl

theorem ctl_testResult (rep : TestReport) (s : State) : (testResult rep s).2.ctl = s.ctl := by
  unfold testResult
  dsimp only
  split
  · exact ctl_logicResult ..
  · exact ctl_memoryResult ..
  · rw [ctl_memoryResult, ctl_logicResult]

section
variable {s : State} {rep : TestReport}

theorem exec_selftestDone (hl : live s = true) (hn : s.pf.stage = .normal) (hb : s.st.busy = true) (hc : islandClear s = true) :
    exec (.selftestDone rep) s = .next (testEnds rep s) := if_pos (by simp [hl, hn, hb, hc])

/-- The outcome of a test, recorded. -/
def testRecorded (o : BitVec 2) (v : State) : State :=
  evK 7 { v with st := { v.st with done := true, outcome := o, failed := v.st.failed || o == 3 } }

/-- In start-up nothing that was tested is reset yet. -/
theorem testEnds_of_startup (h3 : s.ctl.phase = 3) : testEnds rep s =
    afterTest ((testResult rep s).1 == 3) (testRecorded (testResult rep s).1 (testOver (testResult rep s).2)) := by
  have hphase : ((testResult rep s).2.ctl.phase == 3) = true := by rw [ctl_testResult, h3]; rfl
  rw [testEnds]
  simp only [hphase, if_true]
  rfl

theorem afterTest_of_fail (h3 : s.ctl.phase = 3) (hf : s.ctl.testFor = none) :
    afterTest true s = bootHalt 0x0C (modCtl (fun c => { c with tests := [] }) s) := by
  rw [afterTest, hf]
  exact if_pos (beq_iff_eq.2 h3)

theorem afterTest_of_good (h3 : s.ctl.phase = 3) (hf : s.ctl.testFor = none) : afterTest false s = nextTest s := by
  rw [afterTest, hf]
  exact if_pos (beq_iff_eq.2 h3)

end

/-- Settles O38. -/
theorem startUp : Obligations.StartUp := by
  refine ⟨fun s im b hl hn => ⟨fun st hp => ?_, fun r st hr => exec_bootGo_of_other hr st, fun h2 => ⟨fun e he => ?_, fun he => ?_⟩,
    fun u sv mi en hbed => ?_, fun h2 h5 hu => exec_imageVerifyDone_of_unawaited h2 h5 hu⟩, fun s ty im => ?_,
    fun s rep => ⟨fun n => ⟨mem_startTests_island, mem_startTests_group⟩, fun hl hn hb hc h3 _ => ?_⟩⟩
  · rw [exec_bootGo_of_mp hl hn]
    obtain h1 | ⟨h9, hlo, hhi⟩ := hp
    · rw [bootGo_of_first st (by rw [access_ctl]; exact h1)]
    · rw [bootGo_of_refused st (by rw [access_ctl]; exact h9) (by rw [access_ctl]; exact hlo) (by rw [access_ctl]; exact hhi)]
  · obtain ⟨k, x, y, hload⟩ := loadKram_only im s
    rw [exec_imageVerifyDone_of_boot hl hn h2, bedrockVerified_of_bad he, hload]
    exact ⟨_, rfl, rfl, rfl, rfl, rfl, rfl⟩
  · have hkram := kram_loadKram he
    obtain ⟨x, y, hload⟩ := bedrockLoaded_only im b s
    have hsel : (bedrockLoaded im b s).ctl.selftest = s.ctl.selftest := by rw [hload]
    rw [exec_imageVerifyDone_of_boot hl hn h2, bedrockVerified_of_good he, hsel]
    cases hst : s.ctl.selftest with
    | true =>
      obtain ⟨l, htests⟩ := startTests_eq (bedrockLoaded im b s)
      rw [if_pos rfl, nextTest_of_cons (mem := false) (k := 1) (l := l) htests, hload]
      exact ⟨_, rfl, hkram, rfl, fun _ => ⟨rfl, rfl, rfl, rfl, rfl, rfl, rfl⟩, fun h => (nomatch h)⟩
    | false =>
      have hkeep := durable_startBedrock (bedrockLoaded im b s)
      rw [if_neg (by decide)]
      refine ⟨_, rfl, (congrArg Durable.kram hkeep).trans (by rw [hload]; exact hkram),
        (congrArg Durable.cmem hkeep).trans (by rw [hload]; rfl), fun h => (nomatch h), fun _ => ⟨_, rfl, ?_⟩⟩
      rw [hload]
      exact ⟨rfl, rfl, rfl, rfl⟩
  · obtain ⟨dsp, gate, c, hstart, hsvn, hmin, hnone, hran⟩ := startBedrock_starts hbed
    intro t
    have ht : t = _ := hstart
    refine ⟨?_, ?_, ?_, ?_, ?_, ?_, ?_, ?_, fun hb => ?_, fun hb => ?_⟩
    · rw [ht]; exact hsvn
    · rw [ht]; exact hmin
    · rw [ht]; exact hnone
    · rw [ht]; exact hran
    · rw [ht]; rfl
    · rw [ht]; rfl
    · rw [ht]; exact congrArg Core.pc (getCore_bedrockStarted sv mi en u)
    · rw [ht]; exact congrArg Core.g (getCore_bedrockStarted sv mi en u)
    · rw [show t = _ from startBedrock_of_bad hbed hb]
      exact ⟨rfl, rfl, rfl, rfl⟩
    · obtain ⟨g, harm, hactive, hlatched⟩ := armStart (bpbApplied b (bedrockStarted sv mi en u))
      rw [show t = _ from (startBedrock_of_good hbed hb).trans harm]
      exact ⟨rfl, rfl, rfl, rfl, rfl, rfl, rfl, hactive, hlatched⟩
  · intro form config limit len entry key block keyed pub
    have hpub : sigOk s ty im = ecdsaOk pub ((im.header.drop 0x80).take 96) (sha384 (im.header.take 0x80 ++ im.body.take len)) := by
      by_cases hty : ty = 1 <;> simp [sigOk, imKey, imBody, imBodylen, keyBlock, pub, key, len, block, hty]
    have hent : (imEntry im).toNat = entry := BitVec.toNat_ofNat ..
    have hlim : imageLimit ty = limit := by simp [imageLimit, limit]
    refine ⟨hpub, verifyErr_of_unread, fun hread => ⟨verifyErr_of_malformed hread, fun hform => ⟨
      verifyErr_of_other_type hread hform, fun htype => ⟨fun h => verifyErr_of_other_block hread hform htype h,
      fun hrev hconfig => ⟨fun h => ?_, fun hfit hin => ?_⟩⟩⟩⟩⟩
    · exact verifyErr_of_bad_length hread hform htype hrev hconfig (by rwa [hlim, hent])
    · have hfit' : 256 + imBodylen im ≤ imageLimit ty := by rwa [hlim]
      have hin' : (imEntry im).toNat < imBodylen im := by rwa [hent]
      refine ⟨fun hk => ?_, fun hk => ⟨fun hsig => ?_, fun hsig => ?_⟩⟩
      · exact verifyErr_of_no_key hread hform htype hrev hconfig hfit' hin' (Bool.not_eq_true _ ▸ mt keyOk_iff.1 hk)
      · exact verifyErr_of_bad_signature hread hform htype hrev hconfig hfit' hin' (keyOk_iff.2 hk) hsig
      · rw [verifyErr_of_signed hread hform htype hrev hconfig hfit' hin' (keyOk_iff.2 hk) hsig]
        rfl
  · intro r v w hw3 hwf
    have hexec : exec (.selftestDone rep) s = .next (afterTest (r.1 == 3) w) := by
      rw [exec_selftestDone hl hn hb hc, testEnds_of_startup h3]
      rfl
    rw [hexec]
    clear_value w v r
    refine ⟨fun hr => ?_, fun hr mem k l ht => ?_, fun hr ht => ?_⟩
    · rw [hr, beq_self_eq_true, afterTest_of_fail hw3 hwf]
      rfl
    · rw [beq_false_of_ne hr, afterTest_of_good hw3 hwf, nextTest_of_cons ht]
      exact ⟨_, rfl, rfl, hw3, rfl, rfl, rfl, rfl, rfl, rfl, rfl⟩
    · rw [beq_false_of_ne hr, afterTest_of_good hw3 hwf, nextTest_of_nil ht]

end Sys2Proof.Machine

namespace Sys2Proof.Machine

/-! ### In reset (R426) -/

section
variable {s : State} (hr : s.inReset = true)
include hr

theorem access_of_reset (r : Requester) : access r s = s := if_pos hr
theorem live_of_reset : live s = false := by simp [live, hr]
theorem mayIssue_of_reset : mayIssue s = false := by simp [mayIssue, hr]
theorem mayRead_of_reset : mayRead s = false := by simp [mayRead, mayIssue_of_reset hr]
theorem drives_of_reset : drives s = false := by simp [drives, live_of_reset hr]
theorem bedServes_of_reset : bedServes s = false := by simp [bedServes, live_of_reset hr]
theorem coreRuns_of_reset (c : Nat) : coreRuns s c = false := by simp [coreRuns, hr]
theorem mayExec_of_reset (e : Nat) : mayExec s e = false := by simp [mayExec, live_of_reset hr]
theorem due_of_reset (e o : Nat) : due s e o = .no := if_pos (by rw [mayExec_of_reset hr]; rfl)
theorem imageReady_of_reset (e : Nat) : imageReady s e = false := by simp [imageReady, live_of_reset hr]
theorem level1Due_of_reset (e : Nat) (link : Bool) : level1Due s e link = false := by simp [level1Due, live_of_reset hr]
theorem sideOpen_of_reset (p : Nat) : sideOpen s p = false := by simp [sideOpen, hr]
theorem linkHeard_of_reset (p : Nat) : linkHeard s p = false := by simp [linkHeard, hr]
theorem inlaneOpen_of_reset (p : Nat) : inlaneOpen s p = false := by simp [inlaneOpen, hr]
theorem svcDue_of_reset (c slot kind : Nat) : svcDue s c slot kind = false := by simp [svcDue, live_of_reset hr]
theorem runOp_of_reset (e o : Nat) (f : Word → State → State) : runOp e o f s = .next s := by rw [runOp, due_of_reset hr]
theorem runCore_of_reset (c o : Nat) (sub : Option Nat) (f : Word → State → State) : runCore c o sub f s = .next s :=
  if_pos (by rw [coreRuns_of_reset hr]; rfl)

theorem tsvMay_of_reset : tsvMay s = false := by simp [tsvMay, live_of_reset hr]
theorem pwrDue_of_reset (p ns : Nat) (deep : BitVec 2) : pwrDue s p ns deep = false := by simp [pwrDue, drives_of_reset hr]
theorem serve_of_reset (m cmd : Nat) (scree mp : Bool) (f : State → State) : serve m cmd scree mp f s = s :=
  if_pos (by rw [bedServes_of_reset hr]; rfl)
theorem listWaits_of_reset (e : Nat) (m : Move) : listWaits s e m = false := by simp [listWaits, mayRead_of_reset hr]
theorem burstDue_of_reset (e : Nat) (m : Move) : burstDue s e m = false := by simp [burstDue, mayRead_of_reset hr]

/-! The commands whose first question is another than the guard. -/

theorem execTsvAnswer_of_reset (e : Nat) : execTsvAnswer e s = .next s := by
  unfold execTsvAnswer
  dsimp only
  split
  · exact if_pos (by rw [live_of_reset hr]; rfl)
  · rfl

theorem inReset_evalPace (e : Nat) : (evalPace e s).inReset = true := by
  unfold evalPace
  split
  · exact hr
  · dsimp only
    split <;> exact hr

theorem execSourceBurstIssue_of_reset (e : Nat) : execSourceBurstIssue e s = .next s := by
  have hp := inReset_evalPace hr e
  unfold execSourceBurstIssue
  dsimp only
  split
  · rfl
  · rw [listWaits_of_reset hp, burstDue_of_reset hp]
    rfl

theorem execBufferedWriteLeave_of_reset (t : BufTarget) : execBufferedWriteLeave t s = .next s := by
  cases t with
  | port p => exact if_pos (by rw [mayIssue_of_reset hr]; rfl)
  | ctl => exact if_pos hr

theorem execFlrTimeout_of_reset (fn : Nat) : execFlrTimeout fn s = .next s := by
  unfold execFlrTimeout
  dsimp only
  split
  · rfl
  · exact if_pos (by simp [hr])

theorem execLinkRetrain_of_reset (p : Nat) (cause : RetrainCause) : execLinkRetrain p cause s = .next s := by
  cases cause with
  | written r => exact (if_pos (by rw [live_of_reset hr]; rfl)).trans (congrArg _ (access_of_reset hr r))
  | sideband b isp => exact if_pos (by rw [linkHeard_of_reset hr]; rfl)

theorem execUpdateTimeout_of_reset : execUpdateTimeout s = .next s := by
  unfold execUpdateTimeout
  split
  · exact if_pos (by rw [bedServes_of_reset hr]; rfl)
  · rfl

theorem execWfeWake_of_reset (c : Nat) : execWfeWake c s = .next s := by
  unfold execWfeWake
  split
  · exact if_neg (by simp [hr])
  · rfl

/-- Every command but the resets and the test access port's asks first for a block that is out of reset. -/
theorem exec_of_reset (c : Instr) (h1 : c ≠ .refclkLoss) (h2 : c ≠ .pgoodFall) (h3 : c ≠ .brstFall) (h4 : c ≠ .resetRelease)
    (h5 : ∀ n, c ≠ .testAccessPortTest n) : exec c s = .next s := by
  cases c
  case refclkLoss => cases h1 rfl
  case pgoodFall => cases h2 rfl
  case brstFall => cases h3 rfl
  case resetRelease => cases h4 rfl
  case testAccessPortTest n => cases h5 n rfl
  case tsvAnswer e => exact execTsvAnswer_of_reset hr e
  case sourceBurstIssue e => exact execSourceBurstIssue_of_reset hr e
  case bufferedWriteLeave t => exact execBufferedWriteLeave_of_reset hr t
  case flrTimeout fn => exact execFlrTimeout_of_reset hr fn
  case linkRetrain p cause => exact execLinkRetrain_of_reset hr p cause
  case updateTimeout => exact execUpdateTimeout_of_reset hr
  case wfeWake c => exact execWfeWake_of_reset hr c
  all_goals
    simp [exec, execRegisterWrite, execLowerHalfRead, execLowerHalfWrite, execBtimeloRead, execDoorbell,
      execDoorbellApply, execLmUpd8Response, execPendingScan, execScanBlockReadDone, execChCtlGo, execChCtlAbort,
      execPauseSet, execPauseClear, execVersionRequest, execDispatch, execDescriptorRead, execDescriptorReadDone,
      execSeqCoverQuery, execResumeDescriptorReadDone, execLds, execLdd, execLdn, execLdk, execMove, execMovl,
      execWaitf, execFence, execNotify, execBrk, execAtom, execLock, execUnlk, execBr, execLink, execEndd, execTins,
      execTdel, execTmov, execTage, execTepoRead, execTepoBegin, execTepoArm, execLevel1MoveDescriptor,
      execLevel1LinkDescriptor, execLmReadData, execLmWriteResponse, execMovlListReadDone, execHostCompletionPiece,
      execCompletionTimeout, execQuarantineExpiry, execDirectMoveComplete, execWdogExpiry, execPaceholdExpiry,
      execPacingWake, execPauseStopDone, execAbortStop, execCtxEccError, execQuiesceRequest, execQuiesceRelease,
      execLeaseExpiry, execLockBreakCommand, execXbarDecision, execClusterDecision, execLaneDrop, execXbarRepresent,
      execSlotBoundary, execXbarFreeze, execClusterFreeze, execSeam, execSharm, execGateRuleWrite,
      execGateBarrierArm, execBarrierFlushReadDone, execVlogrdWrite, execFunctionMirrorUpdate, execBmeFall,
      execBmeRise, execFlrRequest, execContextSweep, execFlrAck, execIntxSend, execHostTargetAccess, execLinkEnable,
      execLinkDisable, execLinkResetDone, execPortVersion, execVersionTimeout, execPortRdata, execTsvmsg,
      execPortWriteAccepted, execFilli, execFillo, execClassByte, execBrkMarker, execLerr, execHandshakeTimeout,
      execLinkIdleTimer, execLinkDozeTimer, execLinkDeepTimer, execLinkWake, execLearn, execTouch,
      execRelocationStashWriteDone, execAgeTick, execAgeSweepVisit, execTableEnable, execTableInitDone,
      execTableDisable, execRebuildZero, execCopydone, execTevrdWrite, execBootGo, execImageVerifyDone,
      execStartupZeroDone, execMailboxPost, execMailboxAnswer, execGateRule, execGateCommit, execLockBreak,
      execHostSet, execTsvPlace, execTsvRing, execSelftest, execVlogNext, execReady, execScreeLoad, execScreeRestart,
      execCairnSet, execCcctlWrite, execLd, execSt, execLdi, execAmo, execAlu, execBfx, execB, execJal, execCrr,
      execCrw, execLcr, execWfe, execMbxSend, execMbxTake, execMbxAnswer, execMbxCollect, execSvcIssue,
      execSvcResult, execSvcRelease, execSvcCancel, execMovework, execCtxread, execCtxwrite, execOwncopyWriteDone,
      execEvpost, execTimer, execRailSample, execDrainEnd, execCairnHostCopyDone, execIslandClkstop,
      execIslandRetain, execIslandWake, execLogicTest, execMemoryTest, execInfieldTest, execSelftestDone,
      execAgingMeasure, execBufferedWriteAck, execControlMemoryReadData, execIgnoredSidebandByte, access_of_reset hr,
      live_of_reset hr, mayIssue_of_reset hr, mayRead_of_reset hr, drives_of_reset hr, bedServes_of_reset hr,
      coreRuns_of_reset hr, mayExec_of_reset hr, due_of_reset hr, imageReady_of_reset hr, level1Due_of_reset hr,
      sideOpen_of_reset hr, linkHeard_of_reset hr, inlaneOpen_of_reset hr, svcDue_of_reset hr, runOp_of_reset hr,
      runCore_of_reset hr, tsvMay_of_reset hr, pwrDue_of_reset hr, serve_of_reset hr, hr]

end

/-! ### Idle islands (R387 to R390) -/

section
variable {s : State} {i : Nat}

/-- The island may step down. -/
def islRests (s : State) (i : Nat) : Prop := live s = true ∧ islIdles i = true ∧ islPresent s i = true ∧ islIdle s i = true

theorem exec_islandClkstop_of_due (h : islRests s i) (hp : (getIsl s i).pst = 0) (hm : maxstOf s.active.power i ≠ 0)
    (ht : stoptNs s i ≤ (s.time - (getIsl s i).since).toNat) : exec (.islandClkstop i) s = .next (setPst i 1 s) := by
  obtain ⟨hl, hi, hpr, hid⟩ := h
  refine if_pos ?_
  rw [decide_eq_true ht]
  simpa [hl, hi, hpr, hid, hp] using hm

theorem exec_islandRetain_of_due (h : islRests s i) (hp : (getIsl s i).pst = 1) (hm : maxstOf s.active.power i = 2)
    (hr : rettNs s i ≠ 0) (ht : rettNs s i ≤ (s.time - (getIsl s i).since).toNat) :
    exec (.islandRetain i) s = .next (setPst i 2 s) := by
  obtain ⟨hl, hi, hpr, hid⟩ := h
  refine if_pos ?_
  rw [decide_eq_true ht]
  simp [hl, hi, hpr, hid, hp, hm, hr]

theorem exec_islandClkstop_of_barred (h : islIdle s i = false ∨ maxstOf s.active.power i = 0) :
    exec (.islandClkstop i) s = .next s := by
  refine if_neg ?_
  obtain h | h := h <;> simp [h]

theorem exec_islandRetain_of_barred (h : islIdle s i = false ∨ maxstOf s.active.power i = 0) :
    exec (.islandRetain i) s = .next s := by
  refine if_neg ?_
  obtain h | h := h <;> simp [h]

theorem rettNs_ne_zero (h : tget (100 : BitVec 16) s.active.power.rett i ≠ 0) : rettNs s i ≠ 0 := by
  have hpos : (tget (100 : BitVec 16) s.active.power.rett i).toNat ≠ 0 := fun h0 => h (BitVec.eq_of_toNat_eq h0)
  unfold rettNs
  omega

theorem islWakeNs_of_rest {p : BitVec 2} (h : p ≠ 0) : w64 (islWakeNs p) = if p = 1 then 16 else 2000 := by
  revert p
  decide

/-- A change of an island depends on what the island holds. -/
theorem modIsl_congr {f g : Island → Island} (h : f (getIsl s i) = g (getIsl s i)) : modIsl i f s = modIsl i g s := by
  unfold modIsl tmod
  rw [show f (tget {} s.island i) = g (tget {} s.island i) from h]

theorem exec_islandWake_of_rest (hr : s.inReset = false) (hp : (getIsl s i).pst ≠ 0) :
    exec (.islandWake i) s = .next (modIsl i (fun x =>
      { x with pst := 0, since := s.time, awakeAt := s.time + (if x.pst = 1 then 16 else 2000) }) s) := by
  refine (if_neg (by simpa [hr] using hp)).trans (congrArg _ (modIsl_congr ?_))
  simp only [beq_false_of_ne hp, Bool.false_eq_true, if_false, islWakeNs_of_rest hp]

theorem maxstOf_xbr (p : PowerCfg) : maxstOf p islXbr ≠ 2 := by
  unfold maxstOf
  rw [if_pos (beq_self_eq_true _)]
  split <;> decide

end

/-! ### Resets and the test access port (R399, R420, R425, R426) -/

section
variable {s : State}

theorem enterReset_of_reset (hr : s.inReset = true) : enterReset s = s := if_pos hr

theorem enterReset_of_running (hr : s.inReset = false) : enterReset s = resetState s true := if_neg (by simp [hr])

theorem exec_testAccessPortTest_of_shut {n : BitVec 7} (h : s.pgood = false ∨ islPresent s n.toNat = false) :
    exec (.testAccessPortTest n) s = .next s := if_pos (by simpa using h)

theorem exec_testAccessPortTest_of_open {n : BitVec 7} (hp : s.pgood = true) (hi : islPresent s n.toNat = true) :
    exec (.testAccessPortTest n) s = .next (undefState s) := if_neg (by simp [hp, hi])

end

/-- Settles O54. -/
theorem islandsAndResets : Obligations.IslandsAndResets := by
  intro s i x idleFor may
  refine ⟨exec_islandClkstop_of_due, fun h hp hm hr => exec_islandRetain_of_due h hp hm (rettNs_ne_zero hr),
    fun h => ⟨exec_islandClkstop_of_barred h, exec_islandRetain_of_barred h⟩, exec_islandWake_of_rest, ?_, fun hr => ?_, ?_,
    fun hr => if_neg (by simp [hr]), fun n => ⟨exec_testAccessPortTest_of_shut, fun hp hi => ?_⟩⟩
  · rintro rfl
    exact maxstOf_xbr _
  · have hkeep := enterReset_of_reset hr
    refine ⟨congrArg _ hkeep, ?_, congrArg _ hkeep, exec_of_reset hr⟩
    show Host.Outcome.next { enterReset s with pgood := false } = _
    rw [hkeep]
  · intro kept down
    refine ⟨fun hr => ?_, fun hr => if_pos hr⟩
    have hdown := enterReset_of_running hr
    refine ⟨congrArg _ hdown, ?_, congrArg _ hdown⟩
    show Host.Outcome.next { enterReset s with pgood := false } = _
    rw [hdown]
    rfl
  · exact ⟨_, exec_testAccessPortTest_of_open hp hi, rfl, rfl, rfl, hp, rfl⟩

end Sys2Proof.Machine

namespace Sys2Proof.Machine

/-! ### The record of a power failure whose entry of an engine is cut short (R401)

The record has its seal at the byte 0xFF8 only where each of its 32 entries has eight words. A channel that has left its
engine in the drain stands in `left` with its entry, and the statement asks nothing of what stands there. -/

/-- The drain has nothing to wait for, and the entry that stands for engine 0 has one word in place of eight. -/
def shortEntry : State := { State.reset with
  inReset := false, pf := { stage := .drain, left := [(0, [0])] }, ctl := { bedrockRan := true } }

/-- The times of the drain's end, and whether it had reached its limit. -/
def drainedState (s : State) : State :=
  modPf (fun p => { p with endTime := s.time, endSeam := s.seam, limit := drainWaits s, stage := .record }) s

/-- The drain's end as Bedrock's record finds it. -/
def shortDrained : State := drainedState shortEntry

theorem length_bytesOfWords (ws : List Word) : (bytesOfWords ws).length = 8 * ws.length := by
  induction ws with
  | nil => rfl
  | cons w ws ih =>
    rw [bytesOfWords, List.flatMap_cons, List.length_append, length_bytesOf, List.length_cons]
    rw [bytesOfWords] at ih
    omega

theorem length_recordBytes (s : State) (seq : Half) : (recordBytes s seq).length = 8 * (recordBody s seq).length + 8 := by
  rw [recordBytes, List.length_append, length_bytesOf, length_bytesOfWords]

theorem bestRecord_of_zero {s : State} (h : ∀ j, memByte s.rsram j = 0) : bestRecord s = none := by
  rw [bestRecord, recordValid_of_zero 0 fun j _ _ => h j, recordValid_of_zero 1 fun j _ _ => h j]

theorem length_traceWords (l : List (BitVec 10)) : (traceWords l).length = l.length / 4 := by
  induction l using traceWords.induct with
  | case1 a b c d t ih =>
    rw [traceWords, List.length_cons, ih]
    simp only [List.length_cons]
    omega
  | case2 l h =>
    have hlen : l.length < 4 := by
      by_contra hn
      obtain _ | ⟨a, _ | ⟨b, _ | ⟨c, _ | ⟨d, t⟩⟩⟩⟩ := l
      · simp at hn
      · simp at hn
      · simp at hn
      · simp at hn
      · exact h a b c d t rfl
    rw [traceWords, List.length_nil]
    · omega
    · exact h

theorem engEntry_shortDrained (e : Nat) : (engEntry shortDrained e).length = if e = 0 then 1 else 8 := by
  cases e with
  | zero => rfl
  | succ e =>
    have hleft : tget [] shortDrained.pf.left (e + 1) = [] := if_neg (Nat.succ_ne_zero e).symm
    rw [engEntry, hleft]
    exact List.length_replicate

/-- The entries of 32 engines, the first one short. -/
theorem length_entries_shortDrained : ((List.range 32).map (engEntry shortDrained)).flatten.length = 249 := by
  have hmap : (List.range 32).map (List.length ∘ engEntry shortDrained) = (List.range 32).map (fun e => if e = 0 then 1 else 8) :=
    List.map_congr_left fun e _ => engEntry_shortDrained e
  rw [List.length_flatten, List.map_map, hmap]
  decide

theorem length_recordBody_shortDrained : (recordBody shortDrained 1).length = 504 := by
  have htrace : (traceFull shortDrained).length = 256 := by
    rw [traceFull, List.length_append, List.length_map, List.length_range]
    rfl
  rw [recordBody]
  simp only [List.length_append, length_entries_shortDrained, length_traceWords, htrace, List.length_replicate,
    List.length_cons, List.length_nil]

theorem drainWaits_shortEntry : drainWaits shortEntry = false := by rfl

section
variable {s : State} {seq : Half} {k : Nat} (h : nextRecord s = (seq, k))
include h

theorem rsram_writeRecord : (writeRecord s).rsram = memWrite s.rsram (slotBase k) (recordBytes s seq) := by
  simp only [writeRecord, h, modPf_rsram]

/-- A record that ends before the place of the seal leaves there what stood there. -/
theorem slotWord_seal_of_short (hlen : (recordBytes s seq).length ≤ 0xFF8) :
    slotWord (writeRecord s) k 0xFF8 = slotWord s k 0xFF8 := by
  have hread : memRead (writeRecord s).rsram (slotBase k + 0xFF8) 8 = memRead s.rsram (slotBase k + 0xFF8) 8 := by
    rw [rsram_writeRecord h, memRead_eq, memRead_eq]
    refine List.map_congr_left fun i _ => ?_
    rw [memByte_memWrite, if_neg (by omega)]
  rw [slotWord, slotWord, hread]

end

/-- The seal's SEQ is then the zero that stood there. -/
theorem sealSeq_shortDrained : bits (slotWord (writeRecord shortDrained) 0 0xFF8) 32 32 = (0 : Half) := by
  have hnext : nextRecord shortDrained = (1, 0) := by
    rw [nextRecord, bestRecord_of_zero fun _ => rfl]
  rw [slotWord_seal_of_short hnext (by rw [length_recordBytes, length_recordBody_shortDrained]; decide)]
  decide

theorem pf_writeRecord (s : State) : (writeRecord s).pf = { s.pf with cairn := true } := by
  rcases h : nextRecord s with ⟨seq, k⟩
  simp only [writeRecord, h, modPf_pf]

/-- Where Bedrock runs and copies nothing to a host, the drain ends with the record. -/
theorem drainEnds_of_plain {s : State} (hup : bedrockUp s = true) (hc : s.pf.hcen = false) :
    drainEnds s = modPf (fun p => { p with stage := .held }) (writeRecord (drainedState s)) := by
  have hup' : bedrockUp (drainedState s) = true := hup
  have hc' : (writeRecord (drainedState s)).pf.hcen = false := by rw [pf_writeRecord]; exact hc
  simp only [drainEnds]
  rw [← drainedState, hup', hc', Bool.not_true, if_neg Bool.false_ne_true, if_neg Bool.false_ne_true]

theorem exec_drainEnd_shortEntry : exec .drainEnd shortEntry =
    .next (modPf (fun p => { p with stage := .held }) (writeRecord shortDrained)) := by
  have hends : (!shortEntry.inReset && shortEntry.pf.stage == .drain && !shortEntry.pf.cut && (!drainWaits shortEntry ||
      decide (drainNs shortEntry.pf ≤ (shortEntry.time - shortEntry.pf.warnTime).toNat))) = true := by
    rw [drainWaits_shortEntry]
    rfl
  show execDrainEnd shortEntry = _
  rw [execDrainEnd, if_pos hends, drainEnds_of_plain (s := shortEntry) rfl rfl, shortDrained]

@[simp] theorem slotWord_modPf (f : PowerFail → PowerFail) (s : State) (k off : Nat) :
    slotWord (modPf f s) k off = slotWord s k off := rfl

theorem seq_of_recordValid {s : State} {k : Nat} (h : recordValid s k = true) :
    bits (slotWord s k 0xFF8) 32 32 = recordSeq s k := by
  simp only [recordValid, Bool.and_eq_true, beq_iff_eq] at h
  obtain ⟨⟨-, h⟩, -⟩ := h
  exact h

/-- Refutes O53: an entry of one word, which stands where a channel has left its engine, moves the seal of the record away
from its place, so that the record is not valid. -/
theorem not_drainAndRecord : ¬ Obligations.DrainAndRecord := by
  intro h
  obtain ⟨-, hdrain, -⟩ := h shortEntry rfl
  obtain ⟨-, hup⟩ := hdrain rfl rfl (.inl drainWaits_shortEntry)
  obtain ⟨t, hexec, -, -, -, -, hvalid, hseq, -⟩ := hup ⟨rfl, by decide⟩ (by decide)
  rw [bestRecord_of_zero fun _ => rfl] at hvalid hseq
  rw [exec_drainEnd_shortEntry] at hexec
  obtain rfl := Host.Outcome.next.inj hexec
  have hseal := seq_of_recordValid hvalid
  rw [hseq, slotWord_modPf, sealSeq_shortDrained] at hseal
  exact absurd hseal (by decide)

end Sys2Proof.Machine

namespace Sys2Proof.Machine

/-! ### What the engines, the hosts and the links leave alone

Block time, the power-fail record but for what the drain keeps of engines, the running test, and where no command is served,
start-up. -/

/-- The marks of a block. -/
structure Marks where
  time : Word
  seam : Half
  inReset : Bool
  pf : PowerFail
  testing : Bool
  abandoned : Bool
  pfwarn : Bool
  bedrockRan : Bool
  warned : Bool
  halted : Option (BitVec 4 × Byte × Option Update)

/-- The record without what the drain adds for each engine, and without the end of a host copy. -/
def pfMarks (p : PowerFail) : PowerFail :=
  { p with left := [], stagedrop := 0, stage := if p.stage == .hostcopy then .held else p.stage }

/-- Start-up and the update, which stand still where Bedrock serves nothing. -/
def halted (stage : Stage) (c : Ctl) : Option (BitVec 4 × Byte × Option Update) :=
  if stage = .normal then none else some (c.phase, c.err, c.update)

def marks (s : State) : Marks :=
  ⟨s.time, s.seam, s.inReset, pfMarks s.pf, s.st.busy, s.st.abandoned, s.out.pfwarn, s.ctl.bedrockRan, bit s.ctl.evpendk 6,
    halted s.pf.stage s.ctl⟩

/-- The state of a pair that a match takes apart. -/
theorem marks_of_pair {α : Type} {p : α × State} {a : α} {t : State} (h : p = (a, t)) : marks t = marks p.2 := by rw [h]

@[simp] theorem marks_ite (c : Prop) [Decidable c] (a b : State) :
    marks (if c then a else b) = if c then marks a else marks b := apply_ite _ _ _ _

theorem marks_foldl {α : Type} (l : List α) (f : State → α → State) (h : ∀ s x, marks (f s x) = marks s)
    (s : State) : marks (l.foldl f s) = marks s := by
  induction l generalizing s with
  | nil => rfl
  | cons x t ih => simp only [List.foldl_cons, ih, h]

@[simp] theorem marks_modCtx (c : Nat) (f : Ctx → Ctx) (s : State) : marks (modCtx c f s) = marks s := (rfl)

@[simp] theorem marks_modFn (fn : Nat) (f : Func → Func) (s : State) : marks (modFn fn f s) = marks s := (rfl)

@[simp] theorem marks_modEng (e : Nat) (f : Engine → Engine) (s : State) : marks (modEng e f s) = marks s := (rfl)

@[simp] theorem marks_modPort (p : Nat) (f : Port → Port) (s : State) : marks (modPort p f s) = marks s := (rfl)

@[simp] theorem marks_modHp (h : Nat) (f : HostPort → HostPort) (s : State) : marks (modHp h f s) = marks s := (rfl)

@[simp] theorem marks_modClu (k : Nat) (f : Cluster → Cluster) (s : State) : marks (modClu k f s) = marks s := (rfl)

@[simp] theorem marks_modInst (i : Nat) (f : Inst → Inst) (s : State) : marks (modInst i f s) = marks s := (rfl)

@[simp] theorem marks_modCore (c : Nat) (f : Core → Core) (s : State) : marks (modCore c f s) = marks s := (rfl)

@[simp] theorem marks_modMbx (m : Nat) (f : Mailbox → Mailbox) (s : State) : marks (modMbx m f s) = marks s := (rfl)

@[simp] theorem marks_modIsl (i : Nat) (f : Island → Island) (s : State) : marks (modIsl i f s) = marks s := (rfl)

@[simp] theorem marks_modDsp (f : Dsp → Dsp) (s : State) : marks (modDsp f s) = marks s := (rfl)

@[simp] theorem marks_modCtl (f : Ctl → Ctl) (h : ∀ g, (f g).bedrockRan = g.bedrockRan)
    (h' : ∀ g, bit (f g).evpendk 6 = bit g.evpendk 6) (hp : ∀ g, (f g).phase = g.phase) (he : ∀ g, (f g).err = g.err)
    (hu : ∀ g, (f g).update = g.update) (s : State) : marks (modCtl f s) = marks s := by
  simp only [modCtl, marks, halted, h, h', hp, he, hu]

/-- Where Bedrock serves, start-up and the update may go on. -/
theorem marks_modCtl_of_normal {s : State} (hn : s.pf.stage = .normal) (f : Ctl → Ctl) (h : ∀ g, (f g).bedrockRan = g.bedrockRan)
    (h' : ∀ g, bit (f g).evpendk 6 = bit g.evpendk 6) : marks (modCtl f s) = marks s := by
  simp only [modCtl, marks, halted, h, h', hn, if_true]

theorem stage_of_bedServes {s : State} (h : bedServes s = true) : s.pf.stage = .normal := by
  simp only [bedServes, Bool.and_eq_true, beq_iff_eq] at h
  obtain ⟨⟨⟨-, h⟩, -⟩, -⟩ := h
  exact h


@[simp] theorem marks_modGate (f : Gates → Gates) (s : State) : marks (modGate f s) = marks s := (rfl)

@[simp] theorem marks_modTsv (f : Tsv → Tsv) (s : State) : marks (modTsv f s) = marks s := (rfl)

@[simp] theorem marks_modLock (f : Locks → Locks) (s : State) : marks (modLock f s) = marks s := (rfl)

@[simp] theorem marks_modXbar (f : Xbar → Xbar) (s : State) : marks (modXbar f s) = marks s := (rfl)

@[simp] theorem marks_modPf (f : PowerFail → PowerFail) (h : ∀ g, pfMarks (f g) = pfMarks g) (h' : ∀ g,
    (f g).stage = g.stage) (s : State) : marks (modPf f s) = marks s := by
  simp only [modPf, marks, h, h']

@[simp] theorem marks_modOut (f : Outputs → Outputs) (h : ∀ g, (f g).pfwarn = g.pfwarn) (s : State) :
    marks (modOut f s) = marks s := by
  simp only [modOut, marks, h]

@[simp] theorem marks_forAll {α : Type} (l : List α) (f : α → State → State) (h : ∀ x s, marks
    (f x s) = marks s) (s : State) :
    marks (forAll l f s) = marks s := by unfold forAll; exact marks_foldl l _ (fun s x => h x s) s

@[simp] theorem marks_drawFree (s : State) :
    marks (drawFree s).2 = marks s := (rfl)

@[simp] theorem marks_drawBytes (n : Nat) (s : State) : marks (drawBytes n s).2 = marks s := by
  induction n generalizing s with
  | zero => rfl
  | succ n ih => simp only [drawBytes, ih]; exact marks_drawFree _

@[simp] theorem marks_evK (i : Nat) (hi : i ≠ 6) (s : State) : marks (evK i s) = marks s := by
  refine marks_modCtl (fun c => { c with evpendk := c.evpendk ||| (1 : BitVec 9) <<< i }) (fun _ => rfl) (fun g => ?_)
    (fun _ => rfl) (fun _ => rfl) (fun _ => rfl) s
  simp [bit]
  omega

@[simp] theorem marks_evS (i : Nat) (s : State) : marks (evS i s) = marks s := (rfl)

@[simp] theorem marks_postCause (i fn : Nat) (s : State) : marks (postCause i fn s) = marks s := (rfl)

@[simp] theorem marks_postBlockAt (h : Nat) (s : State) : marks (postBlockAt h s) = marks s := by simp [postBlockAt]

@[simp] theorem marks_postBlock (s : State) : marks (postBlock s) = marks s := by simp [postBlock, marks_foldl]

@[simp] theorem marks_evWbFault (fn c : Nat) (a : Word) (s : State) : marks (evWbFault fn c a s) = marks s := (rfl)

@[simp] theorem marks_evLockBreak (fn : Nat) (s : State) : marks (evLockBreak fn s) = marks s := (rfl)

@[simp] theorem marks_reportTimeout (h fn : Nat) (s : State) : marks (reportTimeout h fn s) = marks s := (rfl)

@[simp] theorem marks_wakeIsl (i : Nat) (s : State) : marks (wakeIsl i s) = marks s := (rfl)

@[simp] theorem marks_corCount (g : Nat) (s : State) : marks (corCount g s) = marks s := (rfl)

@[simp] theorem marks_softRead (g a n : Nat) (s : State) : marks (softRead g a n s) = marks s :=
  marks_forAll _ (fun _ => corCount g) (fun _ _ => rfl) s

@[simp] theorem marks_eccCount (g : Nat) (s : State) : marks (eccCount g s) = marks s := (rfl)

@[simp] theorem marks_lmIssue (r : LmReq) (s : State) : marks (lmIssue r s) = marks s := (rfl)

@[simp] theorem marks_lmPromote (port tag : Nat) (s : State) :
    marks (lmPromote port tag s) = marks s := by
  unfold lmPromote; split <;> rfl

@[simp] theorem marks_lmServe (port : Nat) (s : State) : marks (lmServe port s) = marks s := by simp [lmServe]

@[simp] theorem marks_lmRetire (port tag : Nat) (s : State) : marks (lmRetire port tag s) = marks s := marks_lmPromote ..

@[simp] theorem marks_dspUpd8 (addr compare cmask value wmask add : Word) (pu : Purpose) (s : State) :
    marks (dspUpd8 addr compare cmask value wmask add pu s) = marks s := (rfl)

@[simp] theorem marks_svcDone (core slot : Nat) (result : List Word) (s : State) :
    marks (svcDone core slot result s) = marks s := (rfl)

@[simp] theorem marks_bitmapOr (c : Nat) (pu : Purpose) (s : State) : marks (bitmapOr c pu s) = marks s := (rfl)

@[simp] theorem marks_denyPrecise (g : Nat) (w : Who) (n : Need) (a : Word) (len : Nat) (v : Verdict) (s : State) :
    marks (denyPrecise g w n a len v s) = marks s := (rfl)

@[simp] theorem marks_stir (p : Nat) (s : State) : marks (stir p s) = marks s := (rfl)

@[simp] theorem marks_sendLane (p : Nat) (ts : List Token) (s : State) : marks (sendLane p ts s) = marks s := by simp [sendLane]

@[simp] theorem marks_sendOs (p : Nat) (b : Byte) (s : State) : marks (sendOs p b s) = marks s := by simp [sendOs]

@[simp] theorem marks_setLane (i : Nat) (l : Lane) (s : State) : marks (setLane i l s) = marks s := (rfl)

@[simp] theorem marks_slotCount (s : State) : marks (slotCount s) = marks s := (rfl)

@[simp] theorem marks_modReq (p : XReq → Bool) (f : XReq → XReq) (s : State) : marks (modReq p f s) = marks s := (rfl)

@[simp] theorem marks_xask (r : XReq) (s : State) : marks (xask r s) = marks s := by simp [xask]

@[simp] theorem marks_xpresentAll (idx ord : Nat) (dl : BitVec 20) (bs : List XBurst) (s : State) :
    marks (xpresentAll idx ord dl bs s) = marks s := by simp [xpresentAll]

@[simp] theorem marks_xpresent (idx ord : Nat) (b : XBurst) (s : State) : marks (xpresent idx ord b s) = marks s := by simp [xpresent]

@[simp] theorem marks_xEng (e n : Nat) (s : State) : marks (xEng e n s) = marks s := by simp [xEng]

@[simp] theorem marks_xEngRead (e : Nat) (s : State) : marks (xEngRead e s) = marks s := by simp [xEngRead]

@[simp] theorem marks_xTsv (n : Nat) (s : State) : marks (xTsv n s) = marks s := by simp [xTsv]

@[simp] theorem marks_xCtl (n : Nat) (s : State) : marks (xCtl n s) = marks s := by simp [xCtl]

@[simp] theorem marks_xbreak (e : Nat) (s : State) : marks (xbreak e s) = marks s := (rfl)

@[simp] theorem marks_crossing (a : Answer) (f : State → State) (s : State) (hf : ∀ s, marks (f s) = marks s) :
    marks (crossing a f s) = marks s := by
  unfold crossing
  split
  · rfl
  · exact hf s

@[simp] theorem marks_hqPut (h : Nat) (x : BitVec 128) (s : State) : marks (hqPut h x s) = marks s := by simp [hqPut]

theorem marks_hostTake {h : Nat} {w : HostWait} {s : State} {t' : State} (hh : hostTake h w s = .some t') :
    marks t' = marks s := by
  unfold hostTake at hh
  dsimp only at hh
  split at hh
  · cases hh
  · cases hh
    exact marks_hqPut ..

@[simp] theorem marks_hostTry (h : Nat) (w : HostWait) (s : State) : marks (hostTry h w s) = marks s := by
  unfold hostTry
  split
  · rename_i hh
    split at hh
    · cases hh
    · exact marks_hostTake hh
  · exact marks_modHp _ _ _

@[simp] theorem marks_hostRead (h : Nat) (w : HostWait) (s : State) : marks (hostRead h w s) = marks s := by simp [hostRead]

@[simp] theorem marks_hostServe (h : Nat) (s : State) : marks (hostServe h s) = marks s := by simp [hostServe, marks_foldl]

@[simp] theorem marks_resetDone (fn : Nat) (s : State) : marks (resetDone fn s) = marks s := by
  unfold resetDone
  dsimp only
  repeat' split
  all_goals simp

@[simp] theorem marks_resetsDone (h : Nat) (s : State) : marks (resetsDone h s) = marks s := by simp [resetsDone]

@[simp] theorem marks_slotFree (h i : Nat) (s : State) : marks (slotFree h i s) = marks s := by simp [slotFree]

@[simp] theorem marks_modSlot (h i : Nat) (f : Slot → Slot) (s : State) : marks (modSlot h i f s) = marks s := (rfl)

@[simp] theorem marks_hostPost (h fn : Nat) (a : Word) (d : List Byte) (o : Order) (cach : Bool) (pu : Purpose) (s : State) :
    marks (hostPost h fn a d o cach pu s) = marks s := by simp [hostPost]

@[simp] theorem marks_hostWrite (h fn : Nat) (a : Word) (d : List Byte) (fix : Bool) (o : Order) (cach : Bool) (pu : Purpose) (s : State) :
    marks (hostWrite h fn a d fix o cach pu s) = marks s := by simp [hostWrite, marks_foldl]

theorem marks_sendNext {k : Nat} {s : State} {t' : State} (hh : sendNext k s = .some t') : marks t' = marks s := by
  unfold sendNext at hh
  dsimp only at hh
  split at hh
  · split at hh
    · cases hh
      simp
    · cases hh
  · cases hh

@[simp] theorem marks_portPumpN (k n : Nat) (s : State) : marks (portPumpN k n s) = marks s := by
  induction n generalizing s with
  | zero => rfl
  | succ n ih =>
    simp only [portPumpN]
    repeat' split
    all_goals first
      | rfl
      | exact (ih _).trans (marks_sendNext (by assumption))
      | exact marks_sendNext (by assumption)
      | simp only [ih]

@[simp] theorem marks_portPump (k : Nat) (s : State) : marks (portPump k s) = marks s := by simp [portPump]

@[simp] theorem marks_portRead (k : Nat) (r : PortRead) (s : State) : marks (portRead k r s) = marks s := by simp [portRead]

@[simp] theorem marks_portWrite (k : Nat) (w : BufWrite) (s : State) : marks (portWrite k w s) = marks s := (rfl)

@[simp] theorem marks_sendRead (r : RdReq) (v : Verdict) (s : State) : marks (sendRead r v s) = marks s := by
  unfold sendRead
  dsimp only
  split
  · exact marks_lmIssue ..
  · exact marks_portRead ..
  · rfl
  · exact marks_hostRead ..

@[simp] theorem marks_issueReadBy (f : RdReq → Verdict → State → State) (r : RdReq) (s : State) (hf : ∀ a0 a1 s, marks (f a0 a1 s) = marks s) :
    marks (issueReadBy f r s).2 = marks s := by
  unfold issueReadBy
  dsimp only
  repeat' split
  all_goals simp [hf]

@[simp] theorem marks_issueRead (r : RdReq) (s : State) : marks (issueRead r s).2 = marks s := by simp [issueRead]

@[simp] theorem marks_sendWrite (w : WrReq) (v : Verdict) (s : State) : marks (sendWrite w v s) = marks s := by
  unfold sendWrite
  split <;> simp

@[simp] theorem marks_issueWrite (w : WrReq) (s : State) : marks (issueWrite w s).2 = marks s := by
  unfold issueWrite
  split
  · rfl
  split
  · exact marks_portWrite ..
  split
  · rfl
  split
  · rfl
  dsimp only
  split
  · exact marks_denyPrecise ..
  · exact marks_sendWrite ..

@[simp] theorem marks_issueUpd8 (who : Who) (addr compare cmask value wmask add : Word) (pu : Purpose) (s : State) :
    marks (issueUpd8 who addr compare cmask value wmask add pu s).2 = marks s := by
  unfold issueUpd8
  dsimp only
  repeat' split
  all_goals simp

@[simp] theorem marks_issueFlush (h fn : Nat) (a : Word) (ido : Bool) (pu : Purpose) (s : State) :
    marks (issueFlush h fn a ido pu s) = marks s := by simp [issueFlush]

@[simp] theorem marks_undefJoinN (n : Nat) (s : State) : marks (undefJoinN n s) = marks s := by
  induction n generalizing s with
  | zero => rfl
  | succ n ih =>
    rw [undefJoinN]
    split
    · split
      · exact ih _
      · rfl
    · rfl

@[simp] theorem marks_undefJoin (s : State) : marks (undefJoin s) = marks s := by simp [undefJoin]

@[simp] theorem marks_dropIf (k : Discard) (p : Purpose → Bool) (s : State) : marks (dropIf k p s) = marks s := (rfl)

@[simp] theorem marks_disown (e c : Nat) (s : State) : marks (disown e c s) = marks s := (rfl)

@[simp] theorem marks_gbarArm (s : State) : marks (gbarArm s) = marks s := by
  unfold gbarArm
  dsimp only
  repeat' split
  all_goals simp

@[simp] theorem marks_setShadow (g i : Nat) (r : Rule) (s : State) : marks (setShadow g i r s) = marks s := (rfl)

@[simp] theorem marks_installLm (g : Nat) (s : State) : marks (installLm g s) = marks s := by simp [installLm]

@[simp] theorem marks_armMask (m : BitVec 71) (s : State) : marks (armMask m s) = marks s := by simp [armMask]

@[simp] theorem marks_startScree (bank : Bool) (entry : Half) (cause : BitVec 2) (s : State) :
    marks (startScree bank entry cause s) = marks s := by
  obtain ⟨_, _, _, h⟩ := startScree_only bank entry cause s
  rw [h]
  rfl

@[simp] theorem marks_mbxPost (m : Nat) (s : State) : marks (mbxPost m s) = marks s := by
  unfold mbxPost
  dsimp only
  repeat' split
  all_goals simp

@[simp] theorem marks_mbxDone (m : Nat) (s : State) : marks (mbxDone m s) = marks s := by
  unfold mbxDone
  dsimp only
  repeat' split
  all_goals simp

@[simp] theorem marks_bedAnswer (m result : Nat) (detail : Half) (ws : List Word) (s : State) :
    marks (bedAnswer m result detail ws s) = marks s := by simp [bedAnswer]

@[simp] theorem marks_postNotice (cmd : Nat) (r1 r2 : Word) (s : State) : marks (postNotice cmd r1 r2 s) = marks s := by simp [postNotice]

@[simp] theorem marks_nextNotice (s : State) : marks (nextNotice s) = marks s := by
  unfold nextNotice
  split
  · rfl
  split
  · next h =>
    simp only [Bool.and_eq_true] at h
    obtain ⟨⟨hs, -⟩, -⟩ := h
    have hn := stage_of_bedServes hs
    dsimp only
    repeat' split
    all_goals simp [marks_modCtl_of_normal, hn]
  · rfl

@[simp] theorem marks_armNext (n : Nat) (s : State) : marks (armNext n s) = marks s := by
  induction n generalizing s with
  | zero => rfl
  | succ n ih =>
    simp only [armNext]
    repeat' split
    all_goals simp [ih]

@[simp] theorem marks_barrierDone (s : State) : marks (barrierDone s) = marks s := by
  unfold barrierDone
  split
  · rfl
  · next h =>
    have hn : s.pf.stage = .normal := by simpa using h
    dsimp only
    repeat' split
    all_goals simp [marks_modCtl_of_normal, hn]

@[simp] theorem marks_writeBack (c : Nat) (s : State) : marks (writeBack c s) = marks s := (rfl)

@[simp] theorem marks_cacheUse (c : Nat) (changed : Bool) (s : State) : marks (cacheUse c changed s) = marks s := by
  unfold cacheUse
  dsimp only
  repeat' split
  all_goals simp

@[simp] theorem marks_enqueue (c : Nat) (s : State) : marks (enqueue c s) = marks s := by simp [enqueue]

@[simp] theorem marks_toReady (c : Nat) (s : State) : marks (toReady c s) = marks s := by simp [toReady]

@[simp] theorem marks_unqueue (c : Nat) (s : State) : marks (unqueue c s) = marks s := (rfl)

@[simp] theorem marks_unwatch (c : Nat) (s : State) : marks (unwatch c s) = marks s := (rfl)

@[simp] theorem marks_breakEntry (x : LockEntry) (cause : BitVec 3) (s : State) :
    marks (breakEntry x cause s) = marks s := by simp [breakEntry]

@[simp] theorem marks_breakSoon (x : LockEntry) (cause : BitVec 3) (s : State) :
    marks (breakSoon x cause s) = marks s := by simp [breakSoon]

@[simp] theorem marks_breakOnLeave (c : Nat) (cause : Option (BitVec 3)) (s : State) :
    marks (breakOnLeave c cause s) = marks s := by
  refine marks_forAll _ _ (fun x s => ?_) s
  split
  · rfl
  · exact marks_breakSoon ..

@[simp] theorem marks_breakAfter (c : Nat) (s : State) : marks (breakAfter c s) = marks s := by
  unfold breakAfter
  split
  · rfl
  refine marks_forAll _ _ (fun x s => ?_) s
  split
  · rfl
  · exact marks_breakEntry ..

@[simp] theorem marks_lockFree (a : Word) (s : State) : marks (lockFree a s) = marks s := (rfl)

@[simp] theorem marks_dropTasks (c : Nat) (s : State) : marks (dropTasks c s) = marks s := (rfl)

@[simp] theorem marks_stopCtx (c : Nat) (code : Byte) (flags : Option Byte) (s : State) :
    marks (stopCtx c code flags s) = marks s := by simp [stopCtx]

@[simp] theorem marks_directOver (c : Nat) (s : State) : marks (directOver c s) = marks s := (rfl)

@[simp] theorem marks_modThr (e : Nat) (f : Thread → Thread) (s : State) : marks (modThr e f s) = marks s := (rfl)

@[simp] theorem marks_modMain (e : Nat) (f : Thread → Thread) (s : State) : marks (modMain e f s) = marks s := (rfl)

@[simp] theorem marks_flushAt (h : Nat) (p : Purpose → Bool) (pu : Purpose) (s : State) :
    marks (flushAt h p pu s) = marks s := by
  unfold flushAt
  repeat' split
  all_goals simp

@[simp] theorem marks_flushDesc (e : Nat) (s : State) : marks (flushDesc e s) = marks s := by
  refine marks_forAll _ _ (fun h s => ?_) s
  split
  · rfl
  split
  · rfl
  split
  · simp
  · rfl

@[simp] theorem marks_dropReads (k : Discard) (e : Nat) (s : State) : marks (dropReads k e s) = marks s := (rfl)

@[simp] theorem marks_dropSpec (e : Nat) (s : State) : marks (dropSpec e s) = marks s := by simp [dropSpec]

@[simp] theorem marks_quiesceStep (s : State) : marks (quiesceStep s) = marks s := by simp [quiesceStep]

@[simp] theorem marks_keepEntry (e : Nat) (s : State) : marks (keepEntry e s) = marks s := by
  unfold keepEntry
  split <;> rfl

@[simp] theorem marks_leaveEng (e : Nat) (s : State) : marks (leaveEng e s) = marks s := by simp [leaveEng]

@[simp] theorem marks_stopEng (e : Nat) (code : Byte) (flags : Option Byte) (s : State) :
    marks (stopEng e code flags s) = marks s := by simp [stopEng]

@[simp] theorem marks_trySpec (e : Nat) (s : State) : marks (trySpec e s) = marks s := by
  unfold trySpec
  dsimp only
  repeat' split
  all_goals simp

@[simp] theorem marks_wbFault (e : Nat) (code : Byte) (s : State) : marks (wbFault e code s) = marks s := by simp [wbFault]

@[simp] theorem marks_xCount (f : State → State) (hf : ∀ s, marks (f s) = marks s) (p : Iss × State) :
    marks (xCount f p).2 = marks p.2 := by
  unfold xCount
  split
  · exact hf _
  · rfl

@[simp] theorem marks_engRead (e : Nat) (r : RdReq) (s : State) : marks (engRead e r s).2 = marks s := by simp [engRead]

@[simp] theorem marks_engWrite (e : Nat) (w : WrReq) (s : State) : marks (engWrite e w s).2 = marks s := by simp [engWrite]

@[simp] theorem marks_wbWrite (e : Nat) (sp : BitVec 4) (a v : Word) (pu : Purpose) (s : State) :
    marks (wbWrite e sp a v pu s).2 = marks s := by
  unfold wbWrite
  split
  · next h => simp [marks_of_pair h]
  · next h => simp [marks_of_pair h]

@[simp] theorem marks_statusWrite (e : Nat) (s : State) : marks (statusWrite e s) = marks s := by
  unfold statusWrite
  dsimp only
  split
  · split
    · next h => simp [marks_of_pair h]
    · next h => simp [marks_of_pair h]
  · simp

@[simp] theorem marks_takeFlags (e : Nat) (b r : Bool) (s : State) : marks (takeFlags e b r s).2 = marks s := (rfl)

@[simp] theorem marks_beginComplete (e : Nat) (code : Byte) (next : Word × BitVec 4) (s : State) :
    marks (beginComplete e code next s) = marks s := by simp [beginComplete]

@[simp] theorem marks_nextDesc (e : Nat) (s : State) : marks (nextDesc e s) = marks s := (rfl)

@[simp] theorem marks_yieldOrNext (e : Nat) (s : State) : marks (yieldOrNext e s) = marks s := by simp [yieldOrNext]

@[simp] theorem marks_finishComplete (e : Nat) (s : State) : marks (finishComplete e s) = marks s := by
  unfold finishComplete
  dsimp only
  split
  · simp
  split
  · next h => simp [marks_of_pair h]
  · next h =>
    repeat' split
    all_goals simp [marks_of_pair h]

@[simp] theorem marks_endDirect (e : Nat) (code : Byte) (noNotify : Bool) (s : State) :
    marks (endDirect e code noNotify s) = marks s := by simp [endDirect]

@[simp] theorem marks_endWork (e : Nat) (code : Byte) (s : State) : marks (endWork e code s) = marks s := (rfl)

@[simp] theorem marks_finishWork (e : Nat) (s : State) : marks (finishWork e s) = marks s := by
  unfold finishWork
  split <;> simp

@[simp] theorem marks_endDescr (e : Nat) (code : Byte) (s : State) : marks (endDescr e code s) = marks s := by simp [endDescr]

@[simp] theorem marks_failInstr (e : Nat) (code : Byte) (s : State) : marks (failInstr e code s) = marks s := by simp [failInstr]

@[simp] theorem marks_endProgram (e : Nat) (s : State) : marks (endProgram e s) = marks s := by simp [endProgram]

@[simp] theorem marks_retire (e n : Nat) (s : State) : marks (retire e n s) = marks s := by simp [retire]

@[simp] theorem marks_retireMove (e : Nat) (s : State) : marks (retireMove e s) = marks s := by simp [retireMove]

@[simp] theorem marks_modMv (e : Nat) (f : Move → Move) (s : State) : marks (modMv e f s) = marks s := (rfl)

@[simp] theorem marks_fetchList (e : Nat) (s : State) : marks (fetchList e s) = marks s := by
  unfold fetchList
  split
  · rfl
  split
  · rfl
  split
  · rfl
  split
  · next h => simp [marks_of_pair h]
  · next h => simp [marks_of_pair h]
  · next h => simp [marks_of_pair h]
  · next h => split <;> simp [marks_of_pair h]
  · next h => simp [marks_of_pair h]

@[simp] theorem marks_overlapLate (old m : Move) (s : State) : marks (overlapLate old m s) = marks s := by
  unfold overlapLate
  dsimp only
  split
  · rfl
  split
  · rfl
  · exact (marks_undefJoin _).trans (marks_drawBytes ..)

@[simp] theorem marks_listStep (e : Nat) (s : State) : marks (listStep e s) = marks s := by
  unfold listStep
  dsimp only
  split <;> simp

@[simp] theorem marks_burstBreak (e : Nat) (m : Move) (s : State) : marks (burstBreak e m s) = marks s := by simp [burstBreak]

@[simp] theorem marks_evalPace (e : Nat) (s : State) : marks (evalPace e s) = marks s := by
  unfold evalPace
  split <;> simp

@[simp] theorem marks_burstData (m : Move) (off : Nat) (d : List Byte) (s : State) :
    marks (burstData m off d s).2 = marks s := by
  unfold burstData
  dsimp only
  repeat' split
  all_goals simp

@[simp] theorem marks_sramStaged (e : Nat) (m : Move) (n : Nat) (s : State) : marks (sramStaged e m n s).2 = marks s := by
  unfold sramStaged
  dsimp only
  split <;> simp

@[simp] theorem marks_destBurst (e : Nat) (m : Move) (d : List Byte) (s : State) :
    marks (destBurst e m d s) = marks s := by
  unfold destBurst
  dsimp only
  repeat' split
  all_goals next h => simp [marks_of_pair h]

@[simp] theorem marks_flushIf (due : Move → Bool) (e : Nat) (s : State) : marks (flushIf due e s) = marks s := by
  unfold flushIf
  split <;> simp

@[simp] theorem marks_flush64 (e : Nat) (s : State) : marks (flush64 e s) = marks s := by simp [flush64]

@[simp] theorem marks_drainN (e : Nat) (n : Nat) (s : State) : marks (drainN e n s) = marks s := by
  induction n generalizing s with
  | zero => rfl
  | succ n ih =>
    simp only [drainN]
    split
    · simp
    split
    · simp
    split
    · simp
    split
    · next h => simp [ih, marks_of_pair h]
    · next h => split <;> simp [ih, marks_of_pair h]

@[simp] theorem marks_flushMove (e : Nat) (s : State) : marks (flushMove e s) = marks s := by simp [flushMove]

@[simp] theorem marks_dropMove (e : Nat) (s : State) : marks (dropMove e s) = marks s := (rfl)

@[simp] theorem marks_saveMove (e : Nat) (s : State) : marks (saveMove e s) = marks s := (rfl)

@[simp] theorem marks_settleMove (e : Nat) (s : State) : marks (settleMove e s) = marks s := by
  unfold settleMove
  repeat' split
  all_goals simp

@[simp] theorem marks_paceRelease (e : Nat) (s : State) : marks (paceRelease e s) = marks s := by simp [paceRelease]

@[simp] theorem marks_mainRound (e : Nat) (s : State) : marks (mainRound e s) = marks s := by
  unfold mainRound
  split <;> simp

@[simp] theorem marks_instrRound (e : Nat) (s : State) : marks (instrRound e s) = marks s := by
  unfold instrRound
  dsimp only
  repeat' split
  all_goals simp

@[simp] theorem marks_engRound (e : Nat) (s : State) : marks (engRound e s) = marks s := by simp [engRound]

@[simp] theorem marks_engStep (e : Nat) (s : State) : marks (engStep e s) = marks s := by simp [engStep]

@[simp] theorem marks_fnStopEnd (e : Nat) (s : State) : marks (fnStopEnd e s) = marks s := by
  unfold fnStopEnd
  dsimp only
  repeat' split
  all_goals simp

@[simp] theorem marks_fnStopTry (e : Nat) (s : State) : marks (fnStopTry e s) = marks s := by simp [fnStopTry]

@[simp] theorem marks_settleOldPosted (s : State) : marks (settleOldPosted s) = marks s := (rfl)

@[simp] theorem marks_barrierStep (s : State) : marks (barrierStep s) = marks s := by simp [barrierStep]

@[simp] theorem marks_engAfter (e : Nat) (s : State) : marks (engAfter e s) = marks s := by simp [engAfter]

@[simp] theorem marks_srcBytes (e off : Nat) (d : List Byte) (s : State) : marks (srcBytes e off d s) = marks s := by
  unfold srcBytes
  split
  · rfl
  split <;> rfl

@[simp] theorem marks_srcFails (e off : Nat) (code : Byte) (s : State) : marks (srcFails e off code s) = marks s := (rfl)

@[simp] theorem marks_holdAll (e : Nat) (hs : List Held) (s : State) : marks (holdAll e hs s) = marks s := (rfl)

@[simp] theorem marks_listBlock (e : Nat) (addr : Word) (code : Byte) (ws : List Word) (s : State) :
    marks (listBlock e addr code ws s) = marks s := (rfl)

@[simp] theorem marks_readEnds (pu : Purpose) (addr : Word) (code : Byte) (data : List Byte) (s : State) :
    marks (readEnds pu addr code data s) = marks s := by
  unfold readEnds
  split <;> simp

@[simp] theorem marks_afterRead (pu : Purpose) (s : State) : marks (afterRead pu s) = marks s := by
  unfold afterRead
  split <;> simp

@[simp] theorem marks_writeEnds (pu : Purpose) (len : Nat) (code : Byte) (s : State) :
    marks (writeEnds pu len code s) = marks s := by
  unfold writeEnds
  split <;> simp

@[simp] theorem marks_afterWrite (pu : Purpose) (s : State) : marks (afterWrite pu s) = marks s := by
  unfold afterWrite
  repeat' split
  all_goals simp

@[simp] theorem marks_settlePosted (h fn wseq : Nat) (mine : Purpose → Bool) (s : State) :
    marks (settlePosted h fn wseq mine s) = marks s := (rfl)

@[simp] theorem marks_abandonPosted (h fn wseq : Nat) (mine : Purpose → Bool) (s : State) :
    marks (abandonPosted h fn wseq mine s) = marks s := (rfl)

@[simp] theorem marks_flushEnds (pu : Purpose) (h fn wseq : Nat) (code : Byte) (s : State) :
    marks (flushEnds pu h fn wseq code s) = marks s := by
  unfold flushEnds
  split <;> simp

@[simp] theorem marks_tsvWrite (a : Word) (d : List Byte) (pu : Purpose) (s : State) :
    marks (tsvWrite a d pu s).2 = marks s := by
  unfold tsvWrite
  dsimp only
  split <;> simp

@[simp] theorem marks_tsvEvent (x : TabEvent) (s : State) : marks (tsvEvent x s) = marks s := by simp [tsvEvent]

@[simp] theorem marks_tsvAnswerTo (e : Nat) (a : TableAnswer) (s : State) : marks (tsvAnswerTo e a s) = marks s := (rfl)

@[simp] theorem marks_abandonRebuild (i : Nat) (s : State) : marks (abandonRebuild i s) = marks s :=
  (marks_forAll _ (fun e s => tsvAnswerTo e {} s) (fun _ _ => marks_tsvAnswerTo ..) _).trans (marks_modInst ..)

@[simp] theorem marks_stashLeft (i : Nat) (s : State) : marks (stashLeft i s) = marks s := (rfl)

@[simp] theorem marks_tsvFault (i : Nat) (a : Word) (s : State) : marks (tsvFault i a s) = marks s := by
  unfold tsvFault
  dsimp only
  split
  · rfl
  · rw [marks_tsvEvent, marks_forAll, marks_abandonRebuild, marks_modInst, marks_stashLeft]
    intro r s
    split
    · exact marks_tsvAnswerTo ..
    · rfl

@[simp] theorem marks_instWrite (i : Nat) (a : Word) (d : List Byte) (pu : Purpose) (s : State) :
    marks (instWrite i a d pu s) = marks s := by
  unfold instWrite
  split
  · next h => simp [marks_of_pair h]
  · next h => simp [marks_of_pair h]

@[simp] theorem marks_writeHeader (i : Nat) (s : State) : marks (writeHeader i s) = marks s := by simp [writeHeader]

@[simp] theorem marks_tryPut (i : Nat) (e : Bool) (p : Place) (x : Entry) (s : State) :
    marks (tryPut i e p x s).2 = marks s := by
  unfold tryPut
  dsimp only
  repeat' split
  all_goals next h => simp [marks_of_pair h]

@[simp] theorem marks_putEntry (i : Nat) (e : Bool) (p : Place) (x : Entry) (s : State) :
    marks (putEntry i e p x s) = marks s := by simp [putEntry]

@[simp] theorem marks_chooseVictim (i : Nat) (ep : Epoch) (id : Half) (s : State) :
    marks (chooseVictim i ep id s).2 = marks s := by
  unfold chooseVictim
  dsimp only
  split <;> simp

@[simp] theorem marks_placeNew (i : Nat) (e : Bool) (y : Entry) (r : Reloc) (s : State) :
    marks (placeNew i e y r s).2 = marks s := by
  unfold placeNew
  dsimp only
  split
  · simp
  split
  · split
    · next h => simp [marks_of_pair h]
    · next h => simp [marks_of_pair h]
  · split <;> simp

@[simp] theorem marks_mirrorInto (i : Nat) (e : Bool) (y : Entry) (s : State) : marks (mirrorInto i e y s) = marks s := by
  unfold mirrorInto
  split <;> simp

@[simp] theorem marks_acceptMsg (p : Nat) (d : List Byte) (s : State) : marks (acceptMsg p d s) = marks s := (rfl)

@[simp] theorem marks_pullMessages (n : Nat) (s : State) : marks (pullMessages n s) = marks s := by
  induction n generalizing s with
  | zero => rfl
  | succ n ih =>
    rw [pullMessages]
    split
    · rfl
    · dsimp only
      split
      · rfl
      · simp [ih]

@[simp] theorem marks_bumpDbacc (k : Nat) (s : State) : marks (bumpDbacc k s) = marks s := (rfl)

@[simp] theorem marks_bumpDbdrop (k : Nat) (s : State) : marks (bumpDbdrop k s) = marks s := (rfl)

@[simp] theorem marks_bumpDbstale (k : Nat) (s : State) : marks (bumpDbstale k s) = marks s := (rfl)

@[simp] theorem marks_bumpDbfold (k : Nat) (s : State) : marks (bumpDbfold k s) = marks s := (rfl)

@[simp] theorem marks_doorbellState (c : Nat) (s : State) : marks (doorbellState c s) = marks s := by
  unfold doorbellState
  dsimp only
  repeat' split
  all_goals simp

@[simp] theorem marks_applyDoorbell (k fn : Nat) (seq : BitVec 24) (c : Nat) (s : State) :
    marks (applyDoorbell k fn seq c s) = marks s := by simp [applyDoorbell]

@[simp] theorem marks_putBehind (x : Behind) (s : State) : marks (putBehind x s) = marks s := (rfl)

@[simp] theorem marks_summaryAgain (blk : Nat) (s : State) : marks (summaryAgain blk s) = marks s := (rfl)

@[simp] theorem marks_scanNext (s : State) : marks (scanNext s) = marks s := by
  unfold scanNext
  repeat' split
  all_goals simp

@[simp] theorem marks_markBitmap (c : Nat) (s : State) : marks (markBitmap c s) = marks s := (rfl)

@[simp] theorem marks_enqueueAgain (c : Nat) (s : State) : marks (enqueueAgain c s) = marks s := by simp [enqueueAgain]

@[simp] theorem marks_scanApply (c : Nat) (old : Word) (s : State) : marks (scanApply c old s) = marks s := by simp [scanApply]

@[simp] theorem marks_repace (e : Nat) (s : State) : marks (repace e s) = marks s := by simp [repace]

@[simp] theorem marks_lmReadEnds (r : LmReq) (code : Byte) (d : List Byte) (s : State) :
    marks (lmReadEnds r code d s) = marks s := by simp [lmReadEnds]

@[simp] theorem marks_lmKeep (r : LmReq) (code : Byte) (d : List Byte) (s : State) :
    marks (lmKeep r code d s) = marks s := (rfl)

@[simp] theorem marks_lmReadData (n tag : Nat) (resp : MResp) (data : List Byte) (s : State) :
    marks (lmReadData n tag resp data s) = marks s := by
  unfold lmReadData
  split <;> simp

@[simp] theorem marks_tsvWriteEnds (pu : Purpose) (a : Word) (code : Byte) (s : State) :
    marks (tsvWriteEnds pu a code s) = marks s := by
  unfold tsvWriteEnds
  split <;> simp

@[simp] theorem marks_lmWriteResp (n tag : Nat) (resp : MResp) (s : State) :
    marks (lmWriteResp n tag resp s) = marks s := by
  unfold lmWriteResp
  split <;> simp

@[simp] theorem marks_atomRetire (e : Nat) (f : Regs → Regs) (s : State) : marks (atomRetire e f s) = marks s := by simp [atomRetire]

@[simp] theorem marks_lockUndo (e : Nat) (a : Word) (s : State) : marks (lockUndo e a s) = marks s := by simp [lockUndo]

@[simp] theorem marks_engUpd8Ends (r : LmReq) (e : Nat) (resp : MResp) (old : Word) (s : State) :
    marks (engUpd8Ends r e resp old s) = marks s := by
  unfold engUpd8Ends
  split <;> simp

@[simp] theorem marks_dspUpd8Ends (r : LmReq) (resp : MResp) (old : Word) (s : State) :
    marks (dspUpd8Ends r resp old s) = marks s := by
  unfold dspUpd8Ends
  split <;> simp

@[simp] theorem marks_lmUpd8Resp (n tag : Nat) (resp : MResp) (old : Word) (s : State) :
    marks (lmUpd8Resp n tag resp old s) = marks s := by
  unfold lmUpd8Resp
  repeat' split
  all_goals simp

@[simp] theorem marks_lateLog (h : Nat) (t : BitVec 14) (fn : Option Nat) (s : State) :
    marks (lateLog h t fn s) = marks s := by
  unfold lateLog
  dsimp only
  split <;> simp

@[simp] theorem marks_quarantine (h i : Nat) (s : State) : marks (quarantine h i s) = marks s := by simp [quarantine]

@[simp] theorem marks_barrierReadEnds (h fn wseq : Nat) (s : State) : marks (barrierReadEnds h fn wseq s) = marks s := (rfl)

/-- The end of the host copy. -/
theorem marks_copyEnds (s : State) : marks (modPf (fun p => { p with stage := if p.stage == .hostcopy then .held else p.stage }) s) =
    marks s := by
  cases h : s.pf.stage <;> simp [marks, pfMarks, halted, h]

@[simp] theorem marks_hostEnds (h : Nat) (x : Slot) (code : Byte) (s : State) : marks (hostEnds h x code s) = marks s := by
  unfold hostEnds
  dsimp only
  repeat' split
  all_goals simp [marks_copyEnds, -beq_iff_eq]

@[simp] theorem marks_hostStage (x : Slot) (d : List Byte) (poison : Bool) (s : State) :
    marks (hostStage x d poison s) = marks s := by
  unfold hostStage
  split <;> simp

@[simp] theorem marks_slotDone (h i : Nat) (x : Slot) (code : Byte) (s : State) :
    marks (slotDone h i x code s) = marks s := by simp [slotDone]

@[simp] theorem marks_pieceLive (h i : Nat) (x : Slot) (p : Piece) (s : State) :
    marks (pieceLive h i x p s) = marks s := by
  unfold pieceLive
  repeat' split
  all_goals simp

@[simp] theorem marks_pieceGone (h i : Nat) (x : Slot) (p : Piece) (count : Bool) (s : State) :
    marks (pieceGone h i x p count s) = marks s := by simp [pieceGone]

@[simp] theorem marks_timeoutTold (h : Nat) (x : Slot) (s : State) : marks (timeoutTold h x s) = marks s := by
  unfold timeoutTold
  split <;> simp

@[simp] theorem marks_timeoutSlot (h i : Nat) (x : Slot) (s : State) : marks (timeoutSlot h i x s) = marks s := by simp [timeoutSlot]

@[simp] theorem marks_hostPiece (h : Nat) (piece : Piece) (s : State) : marks (hostPiece h piece s) = marks s := by
  unfold hostPiece
  split <;> simp

@[simp] theorem marks_ctlReadData (e : Nat) (s : State) : marks (ctlReadData e s) = marks s := by
  unfold ctlReadData
  split
  · rfl
  · dsimp only
    rw [marks_afterRead, marks_readEnds, marks_softRead, apply_ite marks, marks_eccCount, ite_self]
    rfl

@[simp] theorem marks_wakeDeep (s : State) : marks (wakeDeep s) = marks s := (rfl)

@[simp] theorem marks_wakePaced (old : State) (s : State) : marks (wakePaced old s) = marks s := by simp [wakePaced]

@[simp] theorem marks_xstarve (r : XReq) (s : State) : marks (xstarve r s) = marks s := by simp [xstarve]

@[simp] theorem marks_xbarSeam (s : State) : marks (xbarSeam s) = marks s := by simp [xbarSeam]

@[simp] theorem marks_cstarve (p : Nat) (s : State) : marks (cstarve p s) = marks s := by simp [cstarve]

@[simp] theorem marks_portSeam (p : Nat) (s : State) : marks (portSeam p s) = marks s := by
  unfold portSeam
  dsimp only
  split <;> simp

@[simp] theorem marks_quernSeam (s : State) : marks (quernSeam s) = marks s := by simp [quernSeam]

@[simp] theorem marks_dspSeam (s : State) : marks (dspSeam s) = marks s := by simp [dspSeam]

@[simp] theorem marks_markOld (m : BitVec 71) (s : State) : marks (markOld m s) = marks s := (rfl)

@[simp] theorem marks_barrierFlush (h fn : Nat) (s : State) : marks (barrierFlush h fn s) = marks s := by
  unfold barrierFlush
  split <;> simp

@[simp] theorem marks_barrierFlushes (h : Nat) (s : State) : marks (barrierFlushes h s) = marks s := by simp [barrierFlushes]

@[simp] theorem marks_specSeam (m : BitVec 71) (e : Nat) (s : State) : marks (specSeam m e s) = marks s := by
  unfold specSeam
  split <;> simp

@[simp] theorem marks_tgenTo (p i : Nat) (gen : Half) (s : State) : marks (tgenTo p i gen s) = marks s := by simp [tgenTo]

@[simp] theorem marks_sendTgen (i : Nat) (gen : Half) (s : State) : marks (sendTgen i gen s) = marks s := by simp [sendTgen]

@[simp] theorem marks_epochSeam (i : Nat) (s : State) : marks (epochSeam i s) = marks s := by simp [epochSeam]

@[simp] theorem marks_trimSeam (s : State) : marks (trimSeam s) = marks s := (rfl)

@[simp] theorem marks_rdataEnds (r : PortRead) (x : Rdata) (s : State) : marks (rdataEnds r x s) = marks s := by simp [rdataEnds]

@[simp] theorem marks_msgEnds (p : Nat) (d : List Byte) (s : State) : marks (msgEnds p d s) = marks s := by simp [msgEnds]

@[simp] theorem marks_relocate (i key : Nat) (e : Bool) (s : State) : marks (relocate i key e s) = marks s := by
  unfold relocate
  dsimp only
  repeat' split
  all_goals simp

@[simp] theorem marks_stashFails (i key : Nat) (e : Bool) (a : Word) (s : State) :
    marks (stashFails i key e a s) = marks s := by
  unfold stashFails
  dsimp only
  repeat' split
  all_goals simp

@[simp] theorem marks_stashDone (i : Nat) (resp : MResp) (s : State) : marks (stashDone i resp s) = marks s := by
  unfold stashDone
  repeat' split
  all_goals simp

@[simp] theorem marks_crossed (a : Answer) (s : State) : marks (crossed a s) = marks s := by
  unfold crossed
  split <;> simp

@[simp] theorem marks_answersGo (s : State) : marks (answersGo s) = marks s := by
  refine marks_forAll _ _ (fun a s => ?_) _
  exact marks_crossing a _ s (marks_crossed a)

@[simp] theorem marks_lmGoN (n : Nat) (s : State) : marks (lmGoN n s) = marks s := by
  induction n generalizing s with
  | zero => rfl
  | succ n ih =>
    rw [lmGoN]
    split
    · rfl
    · exact ih _

@[simp] theorem marks_lmGo (s : State) : marks (lmGo s) = marks s := by simp [lmGo]

@[simp] theorem marks_ctlGo (s : State) : marks (ctlGo s) = marks s := (rfl)

@[simp] theorem marks_portGo (p : Nat) (s : State) : marks (portGo p s) = marks s := by simp [portGo]

@[simp] theorem marks_hostGo (h : Nat) (s : State) : marks (hostGo h s) = marks s := by simp [hostGo]

@[simp] theorem marks_requestsGo (s : State) : marks (requestsGo s) = marks s := by simp [requestsGo]

@[simp] theorem marks_resumeWaiting (s : State) : marks (resumeWaiting s) = marks s := by simp [resumeWaiting]

/-- The end of a test, and what waited for it. -/
theorem marks_testOver (s : State) : marks (testOver s) = { marks s with testing := false } := by
  unfold testOver
  dsimp only
  rw [marks_resumeWaiting]
  split <;> rfl

@[simp] theorem marks_dropAllStaged (s : State) : marks (dropAllStaged s) = marks s := (rfl)

@[simp] theorem marks_cutSpec (e : Nat) (s : State) : marks (cutSpec e s) = marks s := (rfl)

end Sys2Proof.Machine

namespace Sys2Proof.Machine

/-! ### WARN and CUT (R393, R396, R397, R399) -/

/-- The record as WARN begins it. -/
def warnPf (code : BitVec 10) (s : State) (p : PowerFail) : PowerFail := { p with
  warn := true, stage := .drain, warnTime := s.time, warnSeam := s.seam, railWarn := code, quiesced := s.dsp.qreq
  lockuse := s.lock.entries.length }

/-- CUT, which abandons a host copy. -/
def cutPf (p : PowerFail) : PowerFail := { p with cut := true, stage := if p.stage == .hostcopy then .held else p.stage }

/-- The marks that WARN leaves. -/
def warnMarks (code : BitVec 10) (s : State) : Marks := { marks s with
  pf := pfMarks (warnPf code s s.pf)
  testing := false
  abandoned := s.st.abandoned || s.st.busy
  pfwarn := true
  warned := true
  halted := some (if s.ctl.bedrockRan then s.ctl.phase else 9, if s.ctl.bedrockRan then s.ctl.err else 0x0B, none) }

section
variable (code : BitVec 10) (s : State)

theorem marks_abandonTest (s : State) :
    marks (abandonTest s) = { marks s with testing := false, abandoned := s.st.abandoned || s.st.busy } := by
  unfold abandonTest
  split
  · next h =>
    rw [marks_testOver, h, Bool.or_true]
    rfl
  · next h =>
    rw [Bool.not_eq_true] at h
    rw [h, Bool.or_false, ← h]
    rfl

/-- WARN's first step: the record, PFWARN and its event. -/
def warnBegun (code : BitVec 10) (s : State) : State :=
  modOut (fun o => { o with pfwarn := true }) (evK 6 (modPf (warnPf code s) s))

/-- The update and the test are abandoned, and start-up halts where Bedrock has not started. -/
def warnHalted (s : State) : State :=
  let s := modCtl (fun c => { c with update := none }) (abandonTest s)
  if s.ctl.bedrockRan then s else bootHalt 0x0B s

theorem raiseWarn_eq : raiseWarn code s =
    let u := warnHalted (warnBegun code s)
    barrierStep (forAll (u.eng.map (·.1)) engAfter (forAll (u.eng.map (·.1)) cutSpec (dropAllStaged u))) := rfl

theorem bit_warned (k : BitVec 9) : bit (k ||| (1 : BitVec 9) <<< 6) 6 = true := by
  rw [bit, BitVec.getLsbD_or, BitVec.getLsbD_shiftLeft]
  simp

theorem marks_warnBegun : marks (warnBegun code s) = { marks s with
    pf := pfMarks (warnPf code s s.pf), pfwarn := true, warned := true, halted := some (s.ctl.phase, s.ctl.err, s.ctl.update) } := by
  have hbit : bit (warnBegun code s).ctl.evpendk 6 = true := bit_warned s.ctl.evpendk
  rw [marks, hbit]
  rfl

theorem halted_of_stage {p : Stage} (hn : p ≠ .normal) (c : Ctl) : halted p c = some (c.phase, c.err, c.update) := if_neg hn

/-- Where Bedrock serves nothing, what is said of start-up is one of the marks. -/
theorem marks_modCtl_of_halted {v : State} (hn : v.pf.stage ≠ .normal) (f : Ctl → Ctl)
    (h : (f v.ctl).bedrockRan = v.ctl.bedrockRan) (h' : (f v.ctl).evpendk = v.ctl.evpendk) :
    marks (modCtl f v) = { marks v with halted := some ((f v.ctl).phase, (f v.ctl).err, (f v.ctl).update) } := by
  simp only [marks, modCtl, h, h', halted_of_stage hn]

theorem marks_warnHalted (s : State) (hn : s.pf.stage ≠ .normal) : marks (warnHalted s) = { marks s with
    testing := false
    abandoned := s.st.abandoned || s.st.busy
    halted := some (if s.ctl.bedrockRan then s.ctl.phase else 9, if s.ctl.bedrockRan then s.ctl.err else 0x0B, none) } := by
  have hv := marks_abandonTest s
  have hran : (abandonTest s).ctl.bedrockRan = s.ctl.bedrockRan := congrArg Marks.bedrockRan hv
  have hhalt : halted (abandonTest s).pf.stage (abandonTest s).ctl = halted s.pf.stage s.ctl := congrArg Marks.halted hv
  have hstage : (abandonTest s).pf.stage ≠ .normal := by
    intro h
    rw [h, halted_of_stage hn] at hhalt
    cases hhalt
  rw [halted_of_stage hn, halted_of_stage hstage, Option.some.injEq, Prod.mk.injEq, Prod.mk.injEq] at hhalt
  obtain ⟨hphase, herr, -⟩ := hhalt
  unfold warnHalted
  simp only [modCtl_ctl, hran]
  cases s.ctl.bedrockRan with
  | true =>
    rw [if_pos rfl, marks_modCtl_of_halted hstage _ rfl rfl, hv, hphase, herr]
    rfl
  | false =>
    rw [if_neg (by decide), bootHalt, marks_modCtl_of_halted (v := modCtl _ (abandonTest s)) hstage _ rfl rfl,
      marks_modCtl_of_halted hstage _ rfl rfl, hv]
    rfl

theorem marks_raiseWarn : marks (raiseWarn code s) = warnMarks code s := by
  have hstage : (warnBegun code s).pf.stage ≠ .normal := nofun
  rw [raiseWarn_eq]
  dsimp only
  rw [marks_barrierStep, marks_forAll _ _ (fun e s => marks_engAfter e s), marks_forAll _ _ (fun e s => marks_cutSpec e s),
    marks_dropAllStaged, marks_warnHalted _ hstage, marks_warnBegun]
  rfl

theorem durable_raiseWarn : durable (raiseWarn code s) = { durable s with warn := true } := by
  rw [raiseWarn_eq]
  dsimp only
  rw [durable_barrierStep, durable_forAll _ _ (fun e s => durable_engAfter e s), durable_forAll _ _ (fun e s => durable_cutSpec e s),
    durable_dropAllStaged]
  have hb : durable (warnBegun code s) = { durable s with warn := true } := rfl
  rw [← hb, warnHalted]
  split <;> simp

end

/-! ### A sample of the rail (R392) -/

section
variable {code : BitVec 10} {s : State}

/-- The sample raises WARN by its count. -/
def warnDue (s : State) : Prop :=
  s.pf.en = true ∧ s.pf.warn = false ∧ max s.pf.warncnt.toNat 1 ≤ s.pf.low

/-- The sample raises CUT. -/
def cutDue (code : BitVec 10) (s : State) : Prop := s.pf.en = true ∧ s.pf.cut = false ∧ code.toNat ≤ s.pf.cutth.toNat

theorem modPf_cutPf (s : State) : modPf (fun p => { p with stage := if p.stage == .hostcopy then .held else p.stage })
    (modPf (fun p => { p with cut := true }) s) = modPf cutPf s := rfl

theorem raiseCut_of_warn (hw : s.pf.warn = true) : raiseCut code s = modPf cutPf s := by
  rw [raiseCut, if_pos hw]
  rfl

theorem raiseCut_of_first (hw : s.pf.warn = false) : raiseCut code s = modPf cutPf (raiseWarn code s) := by
  rw [raiseCut, if_neg (by simp [hw])]
  rfl

/-- What the marks say of the record. -/
theorem pf_raiseWarn (code : BitVec 10) (s : State) : pfMarks (raiseWarn code s).pf = pfMarks (warnPf code s s.pf) :=
  congrArg Marks.pf (marks_raiseWarn code s)

theorem cut_raiseWarn : (raiseWarn code s).pf.cut = s.pf.cut :=
  (congrArg PowerFail.cut (pf_raiseWarn code s) :)

theorem cutth_raiseWarn : (raiseWarn code s).pf.cutth = s.pf.cutth :=
  (congrArg PowerFail.cutth (pf_raiseWarn code s) :)

theorem warn_raiseWarn : (raiseWarn code s).pf.warn = true :=
  (congrArg PowerFail.warn (pf_raiseWarn code s) :)

/-- The CUT check behind the WARN check. -/
def cutEvent (code : BitVec 10) (s : State) : State :=
  if !s.pf.cut && decide (code ≤ s.pf.cutth) then raiseCut code s else s

theorem railEvents_of_off (he : s.pf.en = false) : railEvents code s = s := if_pos (by simp [he])

theorem railEvents_of_rise (h : warnDue s) : railEvents code s = cutEvent code (raiseWarn code s) := by
  obtain ⟨he, hw, hl⟩ := h
  have hdue : (!s.pf.warn && decide (max s.pf.warncnt.toNat 1 ≤ s.pf.low)) = true := by rw [hw, decide_eq_true hl]; rfl
  rw [railEvents, if_neg (by simp [he])]
  simp only [hdue, if_true]
  rfl

theorem railEvents_of_no_rise (he : s.pf.en = true) (h : ¬ warnDue s) : railEvents code s = cutEvent code s := by
  have hdue : (!s.pf.warn && decide (max s.pf.warncnt.toNat 1 ≤ s.pf.low)) ≠ true := by
    intro hd
    rw [Bool.and_eq_true, Bool.not_eq_true', decide_eq_true_eq] at hd
    exact h ⟨he, hd⟩
  rw [railEvents, if_neg (by simp [he])]
  simp only [hdue, if_false, Bool.false_eq_true]
  rfl

theorem cutEvent_of_due (h : s.pf.cut = false) (hc : code.toNat ≤ s.pf.cutth.toNat) : cutEvent code s = raiseCut code s :=
  if_pos (by rw [h, decide_eq_true (BitVec.le_def.2 hc)]; rfl)

theorem cutEvent_of_not (h : ¬ (s.pf.cut = false ∧ code.toNat ≤ s.pf.cutth.toNat)) : cutEvent code s = s := by
  refine if_neg ?_
  rw [Bool.and_eq_true, Bool.not_eq_true', decide_eq_true_eq]
  exact h

theorem railEvents_of_none (hw : ¬ warnDue s) (hc : ¬ cutDue code s) : railEvents code s = s := by
  cases he : s.pf.en with
  | false => exact railEvents_of_off he
  | true => rw [railEvents_of_no_rise he hw, cutEvent_of_not fun h => hc ⟨he, h⟩]

theorem railEvents_of_warn (hw : warnDue s) (hc : ¬ cutDue code s) : railEvents code s = raiseWarn code s := by
  rw [railEvents_of_rise hw, cutEvent_of_not]
  rw [cut_raiseWarn, cutth_raiseWarn]
  exact fun h => hc ⟨hw.1, h⟩

theorem railEvents_of_cut (hw : s.pf.warn = true) (hc : cutDue code s) : railEvents code s = modPf cutPf s := by
  obtain ⟨he, hcut, hle⟩ := hc
  have hno : ¬ warnDue s := fun h => by rw [h.2.1] at hw; cases hw
  rw [railEvents_of_no_rise he hno, cutEvent_of_due hcut hle, raiseCut_of_warn hw]

theorem railEvents_of_both (hw : s.pf.warn = false) (hc : cutDue code s) : railEvents code s = modPf cutPf (raiseWarn code s) := by
  obtain ⟨he, hcut, hle⟩ := hc
  by_cases hrise : warnDue s
  · rw [railEvents_of_rise hrise, cutEvent_of_due (cut_raiseWarn.trans hcut) (by rw [cutth_raiseWarn]; exact hle),
      raiseCut_of_warn warn_raiseWarn]
  · rw [railEvents_of_no_rise he hrise, cutEvent_of_due hcut hle, raiseCut_of_first hw]

/-! ### What a sample leaves -/

/-- What a sample records. -/
def samples (p : PowerFail) : BitVec 10 × Nat × BitVec 10 × List (BitVec 10) := (p.sample, p.low, p.min, p.trace)

/-- The memories and the queue. -/
def mems (s : State) : List Host.Cell × List Host.Cell × List Host.Cell × List Instr := (s.cmem, s.kram, s.rsram, s.pending)

theorem samples_raiseWarn : samples (raiseWarn code s).pf = samples s.pf :=
  (congrArg samples (pf_raiseWarn code s) :)

theorem mems_raiseWarn : mems (raiseWarn code s) = mems s :=
  (congrArg (fun d : Durable => (d.cmem, d.kram, d.rsram, d.pending)) (durable_raiseWarn code s) :)

/-- What WARN shows, at the sample `code` in the state s (R396 steps 1 to 3, R397, R415). -/
def WarnShown (code : BitVec 10) (s t : State) : Prop :=
  t.pf.stage = .drain ∧ t.pf.warnTime = s.time ∧ t.pf.warnSeam = s.seam ∧ t.pf.railWarn = code ∧
  t.pf.quiesced = s.dsp.qreq ∧ t.pf.lockuse = s.lock.entries.length ∧ t.out.pfwarn = true ∧ bit t.ctl.evpendk 6 = true ∧
  t.ctl.update = none ∧ t.st.busy = false ∧ (s.st.busy = true → t.st.abandoned = true) ∧
  (s.ctl.bedrockRan = false → t.ctl.phase = 9 ∧ t.ctl.err = 0x0B) ∧ (s.ctl.bedrockRan = true → t.ctl.phase = s.ctl.phase)

theorem stage_raiseWarn : (raiseWarn code s).pf.stage = .drain := by
  have h : (if (raiseWarn code s).pf.stage == .hostcopy then Stage.held else (raiseWarn code s).pf.stage) = .drain :=
    (congrArg PowerFail.stage (pf_raiseWarn code s) :)
  cases hs : (raiseWarn code s).pf.stage <;> rw [hs] at h <;> first | rfl | cases h

theorem warnShown_raiseWarn : WarnShown code s (raiseWarn code s) := by
  have hpf := pf_raiseWarn code s
  have hm := marks_raiseWarn code s
  have hhalt : halted (raiseWarn code s).pf.stage (raiseWarn code s).ctl = (warnMarks code s).halted := congrArg Marks.halted hm
  rw [stage_raiseWarn, halted_of_stage (by decide), warnMarks, Option.some.injEq, Prod.mk.injEq, Prod.mk.injEq] at hhalt
  obtain ⟨hphase, herr, hupdate⟩ := hhalt
  refine ⟨stage_raiseWarn, (congrArg PowerFail.warnTime hpf :), (congrArg PowerFail.warnSeam hpf :),
    (congrArg PowerFail.railWarn hpf :), (congrArg PowerFail.quiesced hpf :), (congrArg PowerFail.lockuse hpf :),
    (congrArg Marks.pfwarn hm :), (congrArg Marks.warned hm :), hupdate, (congrArg Marks.testing hm :), fun hb => ?_,
    fun hr => ⟨?_, ?_⟩, fun hr => ?_⟩
  · exact (congrArg Marks.abandoned hm).trans (by rw [warnMarks, hb, Bool.or_true])
  · rw [hphase, hr]; rfl
  · rw [herr, hr]; rfl
  · rw [hphase, hr]; rfl

/-- CUT at the same sample leaves what WARN shows. -/
theorem WarnShown.cut {t : State} (h : WarnShown code s t) : WarnShown code s (modPf cutPf t) := by
  obtain ⟨hstage, h⟩ := h
  exact ⟨by rw [modPf_pf, cutPf, hstage]; rfl, h⟩

end

/-! ### The sample itself -/

section
variable (code : BitVec 10) (s : State)

theorem samples_takeSample : samples (takeSample code s).pf = (code,
    if s.pf.en = true ∧ code.toNat ≤ s.pf.warnth.toNat then s.pf.low + 1 else 0,
    if code.toNat < s.pf.min.toNat then code else s.pf.min, keepTrace (s.pf.trace ++ [code])) := by
  simp only [samples, takeSample, modPf_pf, Bool.and_eq_true, decide_eq_true_eq, BitVec.le_def, BitVec.lt_def]

theorem getLast?_keepTrace (l : List (BitVec 10)) : (keepTrace (l ++ [code])).getLast? = some code := by
  have hlast : (l ++ [code]).length - 256 < (l ++ [code]).length := by simp
  rw [keepTrace, List.getLast?_drop, if_neg (by omega), List.getLast?_concat]

theorem length_keepTrace (l : List (BitVec 10)) : (keepTrace l).length ≤ 256 := by
  rw [keepTrace, List.length_drop]
  omega

end

section
variable {code : BitVec 10} {s t : State}

theorem exec_railSample (hr : s.inReset = false) : exec (.railSample code) s = .next (railEvents code (takeSample code s)) :=
  if_neg (by simp [hr])

theorem samples_cut (u : State) : samples (modPf cutPf u).pf = samples u.pf := rfl

theorem cut_cut (u : State) : (modPf cutPf u).pf.cut = true := rfl

theorem warn_cut (u : State) : (modPf cutPf u).pf.warn = u.pf.warn := rfl

theorem mems_cut (u : State) : mems (modPf cutPf u) = mems u := rfl

theorem mems_takeSample (code : BitVec 10) (s : State) : mems (takeSample code s) = mems s := rfl

/-- What WARN shows does not depend on what the sample recorded. -/
theorem WarnShown.of_sample (h : WarnShown code (takeSample code s) t) : WarnShown code s t := h

/-- What every sample records, and that no memory changes. -/
theorem sample_recorded (hs : samples t.pf = samples (takeSample code s).pf) (hm : mems t = mems s) :
    t.pf.sample = code ∧ t.pf.low = (if s.pf.en = true ∧ code.toNat ≤ s.pf.warnth.toNat then s.pf.low + 1 else 0) ∧
    t.pf.min = (if code.toNat < s.pf.min.toNat then code else s.pf.min) ∧ t.pf.trace.getLast? = some code ∧
    t.pf.trace.length ≤ 256 ∧ t.cmem = s.cmem ∧ t.kram = s.kram ∧ t.rsram = s.rsram ∧ t.pending = s.pending := by
  rw [samples_takeSample, samples, Prod.mk.injEq, Prod.mk.injEq, Prod.mk.injEq] at hs
  obtain ⟨hsample, hlow, hmin, htrace⟩ := hs
  rw [mems, mems, Prod.mk.injEq, Prod.mk.injEq, Prod.mk.injEq] at hm
  refine ⟨hsample, hlow, hmin, ?_, ?_, hm⟩
  · rw [htrace, getLast?_keepTrace]
  · rw [htrace]
    exact length_keepTrace _

theorem warnDue_takeSample : warnDue (takeSample code s) ↔ s.pf.warn = false ∧ s.pf.en = true ∧
    max s.pf.warncnt.toNat 1 ≤ (if s.pf.en = true ∧ code.toNat ≤ s.pf.warnth.toNat then s.pf.low + 1 else 0) := by
  have hlow : (takeSample code s).pf.low = if s.pf.en = true ∧ code.toNat ≤ s.pf.warnth.toNat then s.pf.low + 1 else 0 :=
    congrArg (fun p => p.2.1) (samples_takeSample code s)
  rw [warnDue, hlow]
  exact ⟨fun ⟨he, hw, hl⟩ => ⟨hw, he, hl⟩, fun ⟨hw, he, hl⟩ => ⟨he, hw, hl⟩⟩

end

/-- Settles O52: the sample is recorded, and then WARN and CUT come as the counts and the levels say. -/
theorem railSamples : Obligations.RailSamples := by
  intro s code hr low warns cuts
  have hwarn : warnDue (takeSample code s) ↔ s.pf.warn = false ∧ warns := warnDue_takeSample
  have hcut : cutDue code (takeSample code s) ↔ s.pf.cut = false ∧ cuts := ⟨fun ⟨he, hc, hl⟩ => ⟨hc, he, hl⟩,
    fun ⟨hc, he, hl⟩ => ⟨he, hc, hl⟩⟩
  have hcut_of : ¬ cutDue code (takeSample code s) → cuts → s.pf.cut = true := fun hc hcs =>
    Bool.eq_true_of_not_eq_false fun h => hc (hcut.2 ⟨h, hcs⟩)
  refine ⟨_, exec_railSample hr, ?_⟩
  by_cases hc : cutDue code (takeSample code s)
  · obtain ⟨hc0, hcs⟩ := hcut.1 hc
    cases hw : s.pf.warn with
    | true =>
      rw [railEvents_of_cut (s := takeSample code s) hw hc]
      obtain ⟨h1, h2, h3, h4, h5, h6, h7, h8, h9⟩ :=
        sample_recorded (t := modPf cutPf (takeSample code s)) (code := code) (s := s) (samples_cut _) (mems_cut _)
      refine ⟨h1, h2, h3, h4, h5, h6, h7, h8, h9, ⟨fun _ => .inl rfl, fun _ => hw⟩, ⟨fun _ => .inr hcs, fun _ => rfl⟩,
        nofun, fun _ h => ?_, fun _ _ _ => ⟨?_, rfl⟩, fun _ h => absurd hcs h⟩
      · rw [hc0] at h
        cases h
      · simp only [modPf_pf, cutPf, beq_iff_eq]
        rfl
    | false =>
      rw [railEvents_of_both (s := takeSample code s) hw hc]
      obtain ⟨h1, h2, h3, h4, h5, h6, h7, h8, h9⟩ :=
        sample_recorded (t := modPf cutPf (raiseWarn code (takeSample code s))) (code := code) (s := s)
          ((samples_cut _).trans samples_raiseWarn) ((mems_cut _).trans mems_raiseWarn)
      exact ⟨h1, h2, h3, h4, h5, h6, h7, h8, h9, ⟨fun _ => .inr (.inr ⟨hcs, hc0⟩), fun _ => (warn_cut _).trans warn_raiseWarn⟩,
        ⟨fun _ => .inr hcs, fun _ => cut_cut _⟩, fun _ _ => warnShown_raiseWarn.cut.of_sample, nofun, nofun, fun _ h => absurd hcs h⟩
  · by_cases hw : warnDue (takeSample code s)
    · obtain ⟨hw0, hws⟩ := hwarn.1 hw
      have hkeep : (raiseWarn code (takeSample code s)).pf.cut = s.pf.cut := cut_raiseWarn (code := code) (s := takeSample code s)
      rw [railEvents_of_warn hw hc]
      obtain ⟨h1, h2, h3, h4, h5, h6, h7, h8, h9⟩ :=
        sample_recorded (t := raiseWarn code (takeSample code s)) (code := code) (s := s) samples_raiseWarn mems_raiseWarn
      refine ⟨h1, h2, h3, h4, h5, h6, h7, h8, h9, ⟨fun _ => .inr (.inl hws), fun _ => warn_raiseWarn⟩,
        ⟨fun h => .inl (hkeep.symm.trans h), fun h => hkeep.trans (h.elim id (hcut_of hc))⟩,
        fun _ _ => warnShown_raiseWarn.of_sample, fun h => ?_, fun h => ?_, fun h => absurd hws h⟩
      · rw [hw0] at h
        cases h
      · rw [hw0] at h
        cases h
    · rw [railEvents_of_none hw hc]
      obtain ⟨h1, h2, h3, h4, h5, h6, h7, h8, h9⟩ := sample_recorded (t := takeSample code s) (code := code) (s := s) rfl
        (mems_takeSample code s)
      refine ⟨h1, h2, h3, h4, h5, h6, h7, h8, h9, ⟨.inl, fun h => ?_⟩, ⟨.inl, fun h => h.elim id (hcut_of hc)⟩,
        fun h h' => ?_, fun _ _ => ⟨rfl, rfl, rfl⟩, fun _ h h' => ?_, fun _ _ => rfl⟩
      · obtain h | h | ⟨h, h'⟩ := h
        · exact h
        · exact Bool.eq_true_of_not_eq_false fun h0 => hw (hwarn.2 ⟨h0, h⟩)
        · exact absurd (hcut.2 ⟨h', h⟩) hc
      · exact absurd (h.symm.trans h') (by decide)
      · exact absurd (h.symm.trans h') (by decide)

end Sys2Proof.Machine

namespace Sys2Proof.Machine

/-! ### Block time (R381, R383) -/

theorem time_of_marks {s t : State} (h : marks t = marks s) : t.time = s.time := congrArg Marks.time h

section
variable (s : State)

theorem marks_swapShale : marks (swapShale s) = marks s := by
  unfold swapShale
  split
  · rfl
  dsimp only
  rw [marks_wakeDeep]
  split
  · exact marks_wakePaced ..
  · rfl

theorem marks_gateSeam : marks (gateSeam s) = marks s := by
  unfold gateSeam
  split
  · next m _ _ =>
    dsimp only
    rw [marks_barrierStep, marks_forAll _ _ (fun h s => marks_barrierFlushes h s), marks_forAll _ _ (fun e s => marks_specSeam m e s),
      marks_modGate, marks_markOld]
  · rfl

theorem marks_timeTo (t : Word) : marks (timeTo t s) = { marks s with time := t } :=
  marks_forAll _ (fun i => modIsl i (fun x => { x with since := t })) (fun _ _ => rfl) _

theorem time_timeTo (t : Word) : (timeTo t s).time = t := (congrArg Marks.time (marks_timeTo s t) :)

/-- What a seam does behind the passing of time. -/
def seamRest (s : State) : State :=
  let s := if s.pf.stage == .normal then swapShale s else s
  let s := xbarSeam s
  let s := forAll (s.port.map (·.1)) portSeam s
  let s := quernSeam (dspSeam s)
  let s := if s.pf.stage == .normal then forAll (List.range 16) epochSeam (gateSeam s) else s
  trimSeam s

theorem marks_seamRest : marks (seamRest s) = marks s := by
  unfold seamRest
  dsimp only
  rw [marks_trimSeam]
  have hfirst : marks (if s.pf.stage == .normal then swapShale s else s) = marks s := by
    split
    · exact marks_swapShale s
    · rfl
  generalize (if s.pf.stage == .normal then swapShale s else s) = u at hfirst
  have hports : marks (quernSeam (dspSeam (forAll ((xbarSeam u).port.map (·.1)) portSeam (xbarSeam u)))) = marks s := by
    rw [marks_quernSeam, marks_dspSeam, marks_forAll _ _ (fun p s => marks_portSeam p s), marks_xbarSeam, hfirst]
  generalize quernSeam (dspSeam (forAll ((xbarSeam u).port.map (·.1)) portSeam (xbarSeam u))) = v at hports
  split
  · rw [marks_forAll _ _ (fun i s => marks_epochSeam i s), marks_gateSeam, hports]
  · exact hports

theorem time_seamRest : (seamRest s).time = s.time := time_of_marks (marks_seamRest s)

/-- SEAMCNT counts the seam, and in a live block the rest of it follows. -/
def seamTail (s : State) : State :=
  let s := { s with seam := inc32 s.seam }
  if !live s then s else seamRest s

theorem time_seamTail : (seamTail s).time = s.time := by
  unfold seamTail
  dsimp only
  split
  · rfl
  · rw [time_seamRest]

theorem doSeam_eq : doSeam s = seamTail (timeTo (w64 ((s.time.toNat / 2560 + 1) * 2560))
    (if live s then frameEnd (w64 ((s.time.toNat / 2560 + 1) * 2560)) (romStep s) else romStep s)) := by
  unfold doSeam seamTail seamRest
  with_reducible rfl

/-- The seam falls at the next multiple of 2560 ns. -/
theorem time_doSeam : (doSeam s).time = w64 ((s.time.toNat / 2560 + 1) * 2560) := by
  rw [doSeam_eq, time_seamTail, time_timeTo]

theorem w64_seam (t : Word) (h : (t.toNat + 1) % 2560 = 0) : w64 ((t.toNat / 2560 + 1) * 2560) = t + 1 := by
  have hnext : (t.toNat / 2560 + 1) * 2560 = t.toNat + 1 := by omega
  rw [hnext]
  apply BitVec.eq_of_toNat_eq
  simp [w64]

theorem romStep_keeps : (romStep s).time = s.time ∧ (romStep s).seam = s.seam := by
  unfold romStep
  split <;> exact ⟨rfl, rfl⟩

theorem marks_slotTo (n : Nat) : marks (slotTo n s) = marks s := by
  unfold slotTo
  split <;> simp

/-- Between seams a nanosecond changes neither SEAMCNT nor what is in force. -/
theorem tick_between (hr : s.inReset = false) (h : (s.time.toNat + 1) % 2560 ≠ 0) :
    (tick s).time = s.time + 1 ∧ (tick s).seam = s.seam ∧ durable (tick s) = durable s := by
  have htick : tick s = slotTo (slotOf (romStep (timeTo (s.time + 1) s))
      ((romStep (timeTo (s.time + 1) s)).time.toNat % 2560)) (romStep (timeTo (s.time + 1) s)) := by
    rw [tick, if_neg (by simp [hr]), if_neg (by simpa using h)]
  obtain ⟨htime, hseam⟩ := romStep_keeps (timeTo (s.time + 1) s)
  have hmarks := marks_slotTo (romStep (timeTo (s.time + 1) s)) (slotOf (romStep (timeTo (s.time + 1) s))
    ((romStep (timeTo (s.time + 1) s)).time.toNat % 2560))
  have hto := marks_timeTo s (s.time + 1)
  rw [← htick] at hmarks
  refine ⟨?_, ?_, ?_⟩
  · exact (congrArg Marks.time hmarks).trans (htime.trans (congrArg Marks.time hto))
  · exact (congrArg Marks.seam hmarks).trans (hseam.trans (congrArg Marks.seam hto))
  · rw [htick, durable_slotTo, durable_romStep, durable_timeTo]

theorem time_tick (hr : s.inReset = false) : (tick s).time = s.time + 1 := by
  by_cases h : (s.time.toNat + 1) % 2560 = 0
  · rw [tick, if_neg (by simp [hr]), if_pos (by simpa using h), time_doSeam, w64_seam _ h]
  · exact (tick_between s hr h).1

end

theorem step_of_empty {s : State} (h : s.pending = []) : step s = .next (tick s) := by rw [step, h]

/-- Settles O57. -/
theorem stepRunsFront : Obligations.StepRunsFront := by
  refine fun s c rest => ⟨rfl, fun h hr => ?_, fun h hr => ⟨_, step_of_empty h, time_tick s hr, fun hb => ?_⟩⟩
  · rw [step_of_empty h, tick, if_pos hr]
  · obtain ⟨-, hseam, hkeep⟩ := tick_between s hr hb
    exact ⟨hseam, congrArg Durable.shales hkeep, congrArg Durable.rules hkeep⟩

end Sys2Proof.Machine

namespace Sys2Proof.Machine

/-! ### Starting a self-test (R410, R411, R421) -/

section
variable {s : State} {kind : BitVec 2} {target : BitVec 7}

/-- STCMD as a write of it leaves it. -/
def commanded (kind : BitVec 2) (target : BitVec 7) (s : State) : State :=
  { access .kc s with st := { s.st with kind := kind, target := target } }

/-- The instruction that writes STCMD for a kind of test. -/
def testStarts (target : BitVec 7) : List (BitVec 2 × Instr) :=
  [(0, .logicTest .kc target), (1, .memoryTest .kc target), (2, .infieldTest .kc target)]

theorem exec_testStart (hl : live s = true) (hn : s.pf.stage = .normal) {x : BitVec 2 × Instr} (hx : x ∈ testStarts target) :
    exec x.2 s = .next (startTest x.1 target (access .kc s)) := by
  have hkc : ¬ (!live s || !isKc .kc || s.pf.stage != .normal) = true := by simp [hl, hn, isKc]
  simp only [testStarts, List.mem_cons, List.not_mem_nil, or_false] at hx
  obtain rfl | rfl | rfl := hx <;> exact if_neg hkc

theorem startTest_access : startTest kind target (access .kc s) =
    if s.st.busy || !testExists s kind target then commanded kind target s else beginTest kind target (commanded kind target s) := by
  have hst : (access .kc s).st = s.st := access_st ..
  have hcfg : (access .kc s).cfg = s.cfg := access_cfg ..
  simp only [startTest, testExists, islPresent, groupPresent, commanded, hst, hcfg]

theorem startTest_access_of_good (hb : s.st.busy = false) (h : testExists s kind target = true) :
    startTest kind target (access .kc s) = beginTest kind target (commanded kind target s) := by
  rw [startTest_access, hb, h]
  rfl

theorem exec_testStart_of_good (hl : live s = true) (hn : s.pf.stage = .normal) (hb : s.st.busy = false) {x : BitVec 2 × Instr}
    (hx : x ∈ testStarts target) (h : testExists s x.1 target = true) :
    exec x.2 s = .next (beginTest x.1 target (commanded x.1 target s)) := by
  rw [exec_testStart hl hn hx, startTest_access_of_good hb h]

theorem startTest_access_of_bad (h : s.st.busy = true ∨ testExists s kind target = false) :
    startTest kind target (access .kc s) = commanded kind target s := by
  rw [startTest_access]
  obtain h | h := h <;> rw [h]
  · rfl
  · rw [Bool.not_false, Bool.or_true]
    rfl

theorem eng_beginTest (hk : kind ≠ 2) : (beginTest kind target (commanded kind target s)).eng = s.eng := by
  rw [beginTest_eq, if_neg hk]
  exact access_eng ..

theorem durable_commanded : durable (commanded kind target s) = durable s := durable_access .kc s

end

/-! ### The end of a self-test (R410, R411) -/

section
variable {s : State} {rep : TestReport}

/-- Outside start-up what was tested is reset before what waited goes on. -/
theorem exec_selftestDone_of_running (hl : live s = true) (hn : s.pf.stage = .normal) (hb : s.st.busy = true)
    (hc : islandClear s = true) (h3 : s.ctl.phase ≠ 3) {r : BitVec 2 × State} {v w : State} (hr : testResult rep s = r)
    (hv : testOver (resetTested r.2) = v) (hw : testRecorded r.1 v = w) :
    exec (.selftestDone rep) s = .next (afterTest (r.1 == 3) w) := by
  have hphase : (r.2.ctl.phase == 3) = false := by rw [← hr, ctl_testResult]; exact beq_false_of_ne h3
  rw [exec_selftestDone hl hn hb hc, testEnds, hr]
  simp only [hphase, Bool.false_eq_true, if_false, hv]
  rw [← hw]
  rfl

theorem afterTest_of_own (fail : Bool) (h3 : s.ctl.phase ≠ 3) (hf : s.ctl.testFor = none) : afterTest fail s = s := by
  rw [afterTest, hf]
  exact if_neg (mt beq_iff_eq.1 h3)

/-- Bedrock's answer to the request that a test was for. -/
def testAnswer (m : Nat) (s : State) : State :=
  bedAnswer m 0 0 [(ststat s.st).zeroExtend 64, s.st.sig.zeroExtend 64, (stdetail s.st).zeroExtend 64]
    (modCtl (fun c => { c with testFor := none }) s)

theorem afterTest_of_request (fail : Bool) {m : Nat} (h3 : s.ctl.phase ≠ 3) (hf : s.ctl.testFor = some m) :
    afterTest fail s = testAnswer m s := by
  have hphase : (testAnswer m s).ctl.phase = s.ctl.phase := by
    obtain ⟨mbx, k, v, h⟩ := bedAnswer_only m 0 0 [(ststat s.st).zeroExtend 64, s.st.sig.zeroExtend 64, (stdetail s.st).zeroExtend 64]
      (modCtl (fun c => { c with testFor := none }) s)
    rw [testAnswer, h]
    rfl
  rw [afterTest, hf]
  exact if_neg (mt beq_iff_eq.1 (hphase ▸ h3))

theorem testing_of_marks {t : State} {m : Marks} (h : marks t = { m with testing := false }) : t.st.busy = false :=
  congrArg Marks.testing h

theorem busy_testOver (s : State) : (testOver s).st.busy = false := testing_of_marks (marks_testOver s)

theorem bit_evK (i : Nat) (hi : i < 9) (s : State) : bit (evK i s).ctl.evpendk i = true := by
  simp [evK, bit, hi]

end

/-! ### What a test has left to its reset state (R410) -/

section
variable {u : State}

theorem resetTested_of_logic (h : u.st.lkind = 0) : resetTested u = resetIsland u.st.ltarget.toNat u := by
  rw [resetTested, h]
  rfl

theorem resetTested_of_memory (h : u.st.lkind = 1) : resetTested u = resetGroup u.st.ltarget.toNat u := by
  rw [resetTested, h]
  rfl

theorem resetTested_of_infield (h : u.st.lkind = 2) : resetTested u = u := by
  rw [resetTested, h]
  rfl

/-- The reset of an engine island leaves no engine of it. -/
theorem eng_resetIsland {k : Nat} (hk : engIsland k = true) {x : Nat × Engine} (hx : x ∈ (resetIsland k u).eng) : x.1 / 4 ≠ k - 2 := by
  have hdsp : (k == islDsp) = false := by
    simp only [engIsland, Bool.and_eq_true, decide_eq_true_eq] at hk
    exact beq_false_of_ne (by unfold islDsp; omega)
  rw [resetIsland, hdsp, hk] at hx
  have hx : x ∈ (resetEngs (k - 2) u).eng := hx
  unfold resetEngs at hx
  simpa using (List.mem_filter.1 hx).2

end

/-! ### Outcomes and repair (R409, R413) -/

section
variable {s : State} {sigs : List Half} {x : EngIsland}

/-- The mark of a slot whose signature does not match. -/
def slotMark (sigs : List Half) (b : BitVec 5) (i : Nat) : BitVec 5 :=
  if sigs.getD i 0 == goldenSlot then b else b ||| (1 : BitVec 5) <<< i

theorem slotMark_eq_zero (b : BitVec 5) {i : Nat} (hi : i < 5) : slotMark sigs b i = 0 ↔ b = 0 ∧ sigs.getD i 0 = goldenSlot := by
  unfold slotMark
  by_cases h : sigs.getD i 0 = goldenSlot
  · simp only [h, beq_self_eq_true, if_true, and_true]
  · have hbit : ((1 : BitVec 5) <<< i) ≠ 0 := fun h0 => by
      have := congrArg (fun v : BitVec 5 => v.getLsbD i) h0
      simp [hi] at this
    rw [if_neg (mt beq_iff_eq.1 h)]
    exact BitVec.or_eq_zero_iff.trans (iff_of_false (fun hz => hbit hz.2) (fun hz => h hz.2))

theorem foldl_slotMark_eq_zero (l : List Nat) (hl : ∀ i ∈ l, i < 5) (b : BitVec 5) :
    l.foldl (slotMark sigs) b = 0 ↔ b = 0 ∧ ∀ i ∈ l, sigs.getD i 0 = goldenSlot := by
  induction l generalizing b with
  | nil => simp
  | cons i l ih =>
    rw [List.foldl_cons, ih (fun j hj => hl j (List.mem_cons_of_mem i hj)), slotMark_eq_zero b (hl i List.mem_cons_self),
      List.forall_mem_cons, and_assoc]

/-- No slot is bad exactly if all five signatures match. -/
theorem badSlots_eq_zero : badSlots sigs = 0 ↔ ∀ j, j < 5 → sigs.getD j 0 = goldenSlot := by
  have h : badSlots sigs = 0 ↔ _ := foldl_slotMark_eq_zero (List.range 5) (fun i hi => List.mem_range.1 hi) 0
  simpa only [true_and, List.mem_range] using h

/-- The logical engines of an island behind a slot test, with whether one was lost. -/
def repaired (bad : BitVec 5) (x : EngIsland) : EngIsland × Bool := (List.range 4).foldl (fun a j => repairOne bad j a) (x, false)

/-- Without a bad slot nothing is moved and nothing is lost. -/
theorem repaired_of_good : repaired 0 x = (x, false) := by
  have hone (a : EngIsland × Bool) (j : Nat) : repairOne 0 j a = a := if_pos (by simp [bit])
  exact List.foldlRecOn (motive := fun a => a = (x, false)) (List.range 4) (fun a j => repairOne 0 j a) rfl
    (fun a ha j _ => (hone a j).trans ha)

/-- LOGIC has found the logic that the slots of an island share at fault (R413). -/
def sharedBad (k : Nat) (sig : Half) (s : State) : Bool := sig != golden s.cfg.compact (2 + k)

/-- An engine island behind LOGIC: the failing slots are retired, and without shared logic every engine is absent. -/
def logicIsland (bad : BitVec 5) (shared : Bool) (y : EngIsland) : EngIsland :=
  if shared then { allAbsent { y with retired := y.retired ||| bad } with shfail := true } else { y with retired := y.retired ||| bad }

/-- The state with an island as LOGIC leaves it. -/
def engineTested (k : Nat) (bad : BitVec 5) (y : EngIsland) (s : State) : State :=
  { modEngIsl k (fun _ => y) s with st := { (modEngIsl k (fun _ => y) s).st with slotfail := bad } }

theorem getEngIsl_engineTested (k : Nat) (bad : BitVec 5) (y : EngIsland) (s : State) :
    getEngIsl (engineTested k bad y s) k = y := by
  have h : getEngIsl (modEngIsl k (fun _ => y) s) k = y := (getEngIsl_modEngIsl k (fun _ => y) k s).trans (if_pos rfl)
  exact h

theorem logicEngine_eq (k : Nat) (sig : Half) {bad : BitVec 5} {p : EngIsland × Bool} (hb : badSlots sigs = bad)
    (hp : repaired bad (getEngIsl s k) = p) :
    logicEngine k sig sigs s = (if sharedBad k sig s || p.2 then 2 else if bad == 0 then 0 else 1,
      engineTested k bad (logicIsland bad (sharedBad k sig s) p.1) s) := by
  unfold repaired at hp
  obtain ⟨y, lost⟩ := p
  rw [logicEngine]
  simp only [hb, hp]
  rfl

theorem mapAt_logicIsland (bad : BitVec 5) (y : EngIsland) (j : Nat) : mapAt (logicIsland bad true y) j = 7 := by
  unfold mapAt
  split <;> rfl

theorem mapAt_allAbsent (y : EngIsland) (j : Nat) : mapAt (allAbsent y) j = 7 := by
  unfold mapAt
  split <;> rfl

theorem two_add_island {i : Nat} (h : engIsland i = true) : 2 + (i - 2) = i := by
  simp only [engIsland, Bool.and_eq_true, decide_eq_true_eq] at h
  omega

/-- The registers of a LOGIC test, with what it read. -/
def logicRead (i : Nat) (rep : TestReport) (s : State) : State :=
  modIsl i (fun x => { x with sig := rep.sig }) { s with st := { s.st with sig := rep.sig, slotfail := 0, rows := 0 } }

section
variable {i : Nat} {rep : TestReport}

theorem logicResult_of_other (h : engIsland i = false) :
    (logicResult i rep s).1 = if rep.sig = golden s.cfg.compact i then 0 else 3 := by
  have hresult : logicResult i rep s = (if rep.sig == golden s.cfg.compact i then 0 else 3, logicRead i rep s) :=
    if_neg (Bool.not_eq_true _ ▸ h)
  simp only [hresult, beq_iff_eq]

theorem logicResult_of_engine (h : engIsland i = true) :
    logicResult i rep s = logicEngine (i - 2) rep.sig rep.slotSigs (logicRead i rep s) := if_pos h

theorem sharedBad_iff (h : engIsland i = true) :
    sharedBad (i - 2) rep.sig (logicRead i rep s) = true ↔ rep.sig ≠ golden s.cfg.compact i := by
  rw [sharedBad, two_add_island h, bne_iff_ne]
  rfl

/-- An engine island passes LOGIC only on its golden signature and those of its five slots. -/
theorem logicResult_passes (h : engIsland i = true) : (logicResult i rep s).1 = 0 ↔
    rep.sig = golden s.cfg.compact i ∧ ∀ j, j < 5 → rep.slotSigs.getD j 0 = goldenSlot := by
  rw [logicResult_of_engine h, logicEngine_eq _ _ rfl rfl, ← badSlots_eq_zero]
  have hshared := sharedBad_iff (s := s) (rep := rep) h
  cases hb : sharedBad (i - 2) rep.sig (logicRead i rep s) with
  | true =>
    have hsig := hshared.1 hb
    simp [hsig]
  | false =>
    have hsig : rep.sig = golden s.cfg.compact i := Decidable.not_not.1 (fun hne => Bool.noConfusion (hb.symm.trans (hshared.2 hne)))
    by_cases hz : badSlots rep.slotSigs = 0
    · rw [hz, repaired_of_good]
      simp [hsig]
    · simp only [hsig, hz, Bool.false_or, beq_iff_eq, true_and, if_false, iff_false]
      split <;> decide

/-- Bad shared logic degrades the island: all its engines are absent. -/
theorem logicResult_of_shared (h : engIsland i = true) (hs : rep.sig ≠ golden s.cfg.compact i) :
    (logicResult i rep s).1 = 2 ∧ ∀ j, mapAt (getEngIsl (logicResult i rep s).2 (i - 2)) j = 7 := by
  have hshared := (sharedBad_iff (s := s) h).2 hs
  rw [logicResult_of_engine h, logicEngine_eq _ _ rfl rfl, hshared]
  refine ⟨rfl, fun j => ?_⟩
  rw [getEngIsl_engineTested]
  exact mapAt_logicIsland _ _ j

end

section
variable {g rows : Nat}

/-- The spare rows a group has left. -/
def freeRows (g : Nat) (s : State) : Nat := spareRows g - (getGroup s g).spused.toNat

theorem memoryResult_of_spared (h : rows ≤ freeRows g s) : (memoryResult g rows s).1 = if rows = 0 then 0 else 1 := by
  have hresult : (memoryResult g rows s).1 = if (rows == 0) = true then 0 else 1 := congrArg Prod.fst (if_neg (Nat.not_lt.2 h))
  rw [hresult]
  simp only [beq_iff_eq]

theorem memoryResult_of_engine (h : freeRows g s < rows) (hg : engGroup g = true) :
    ∃ u, memoryResult g rows s = (2, modEngIsl (g - 3) allAbsent u) :=
  ⟨_, (if_pos h).trans (if_pos hg)⟩

theorem memoryResult_of_fail (h : freeRows g s < rows) (hg : engGroup g = false) : (memoryResult g rows s).1 = 3 :=
  congrArg Prod.fst ((if_pos h).trans (if_neg (Bool.not_eq_true _ ▸ hg)))

end

end

/-! ### Errors a read corrects, and measurements of aging (R416 to R418) -/

section
variable {s : State} {g a n : Nat}

/-- The words with a corrected error that a read of n bytes touches. -/
def softWords (s : State) (a n : Nat) : List Nat := s.soft.filter (fun w => decide (a < 8 * w + 8) && decide (8 * w < a + n))

theorem softRead_of_none (h : softWords s a n = []) : softRead g a n s = s :=
  congrArg (fun l => forAll l (fun _ s => corCount g s) s) h

theorem softRead_of_one {w : Nat} (h : softWords s a n = [w]) : softRead g a n s = corCount g s :=
  congrArg (fun l => forAll l (fun _ s => corCount g s) s) h

end

section
variable {s : State} {i : Nat} {slow : BitVec 6}

/-- An island behind a measurement in a second. -/
def aged (i : Nat) (slow : BitVec 6) (second : Nat) (x : Island) : Island := { measured i slow x with agedAt := some second }

theorem exec_agingMeasure_again (h : (getIsl s i).agedAt = some (secondOf s)) : exec (.agingMeasure i slow) s = .next s :=
  if_pos (by rw [h, beq_self_eq_true, Bool.or_true])

theorem exec_agingMeasure (hr : s.inReset = false) (hp : islPresent s i = true) (h : (getIsl s i).agedAt ≠ some (secondOf s)) :
    exec (.agingMeasure i slow) s = .next (modIsl i (aged i slow (secondOf s)) s) :=
  if_neg (by rw [hr, hp, beq_false_of_ne h]; decide)

theorem worn_aged (x : Island) (second : Nat) : (aged i slow second x).worn = true ↔ x.worn = true ∨ 48 ≤ slow.toNat := by
  simp [aged, measured]

theorem flag_aged (x : Island) (second : Nat) :
    (aged i slow second x).flag = true ↔ x.flag = true ∨ (islTrims i = false ∧ 16 ≤ slow.toNat) := by
  simp [aged, measured]

end

/-- Settles O55. -/
theorem selfTests : Obligations.SelfTests := by
  intro s target hl hn
  have hreset : s.inReset = false := inReset_of_live hl
  refine ⟨fun x hx => ⟨fun hbad => ?_, fun hb hx' => ?_⟩, fun hb => ⟨fun hp => ?_, fun hp => ?_, fun he hp => ?_⟩,
    fun r hr => ⟨?_, ?_, ?_⟩, fun rep hb => ?_, fun rep hb hc => ?_, fun u => ⟨fun h0 => ⟨?_, ?_, ?_, ?_⟩, ?_, ?_, ?_, ?_⟩,
    fun rep i hi => logicResult_of_other hi, fun rep i hi => logicResult_passes hi, fun rep i hi hs => ?_,
    fun g rows => ⟨?_, ?_, ?_, ?_⟩, fun u g a n => ⟨softRead_of_none, fun w => softRead_of_one⟩,
    fun i slow => exec_agingMeasure_again, fun i slow hp ha => ?_⟩
  · rw [exec_testStart hl hn hx, startTest_access_of_bad hbad]
    rfl
  · rw [exec_testStart_of_good hl hn hb hx hx']
    refine ⟨_, rfl, ?_⟩
    refine ⟨?_, ?_, ?_, ?_, ?_, (durable_beginTest ..).trans durable_commanded, eng_beginTest⟩ <;> rw [beginTest_eq] <;> rfl
  · exact exec_testStart_of_good hl hn hb (x := (0, .logicTest .kc target)) (by simp [testStarts]) hp
  · exact exec_testStart_of_good hl hn hb (x := (1, .memoryTest .kc target)) (by simp [testStarts]) hp
  · exact exec_testStart_of_good hl hn hb (x := (2, .infieldTest .kc target)) (by simp [testStarts])
      (Bool.and_eq_true_iff.2 ⟨he, hp⟩)
  · exact if_pos (by simp [hr])
  · exact if_pos (by simp [hr])
  · exact if_pos (by simp [hr])
  · exact if_neg (by simp [hb])
  · intro r v w h3 hw3
    have hw : testRecorded r.1 v = w := by
      clear_value v r
      rfl
    have hexec : exec (.selftestDone rep) s = .next (afterTest (r.1 == 3) w) :=
      exec_selftestDone_of_running hl hn hb hc h3 rfl rfl hw
    have hbusy : w.st.busy = false := by
      clear_value r
      exact busy_testOver (resetTested r.2)
    have hbit : bit w.ctl.evpendk 7 = true := by
      clear_value v r
      exact bit_evK 7 (by decide) _
    rw [hexec]
    clear_value w v r
    refine ⟨hbusy, hbit, fun hf => ?_, fun m hf => ?_⟩
    · rw [afterTest_of_own _ hw3 hf]
    · rw [afterTest_of_request _ hw3 hf]
      rfl
  · rw [resetTested_of_logic h0, durable_resetIsland]
  · intro k hk ht x hx
    rw [resetTested_of_logic h0, ht] at hx
    exact eng_resetIsland hk hx
  · intro ht
    rw [resetTested_of_logic h0, ht]
    exact ⟨rfl, rfl, rfl⟩
  · intro ht
    rw [resetTested_of_logic h0, ht]
    exact ⟨rfl, rfl⟩
  · intro h1 ht
    rw [resetTested_of_memory h1, ht]
    exact ⟨rfl, rfl, rfl⟩
  · intro h1 ht
    rw [resetTested_of_memory h1, ht]
    exact ⟨rfl, rfl⟩
  · intro h1 ht
    rw [resetTested_of_memory h1, ht]
    exact ⟨rfl, rfl⟩
  · exact resetTested_of_infield
  · obtain ⟨hresult, hmap⟩ := logicResult_of_shared (s := s) hi hs
    exact ⟨hresult, fun j _ => hmap j⟩
  · intro h0
    rw [memoryResult_of_spared (by omega), if_pos h0]
  · intro hpos hle
    rw [memoryResult_of_spared hle, if_neg (by omega)]
  · intro hlt hg
    obtain ⟨u, hu⟩ := memoryResult_of_engine hlt hg
    rw [hu]
    refine ⟨rfl, fun j _ => ?_⟩
    rw [getEngIsl_modEngIsl, if_pos rfl]
    exact mapAt_allAbsent _ j
  · exact memoryResult_of_fail
  · rw [exec_agingMeasure hreset hp ha]
    refine ⟨_, rfl, ?_⟩
    rw [getIsl_modIsl, if_pos rfl]
    refine ⟨rfl, rfl, worn_aged .., flag_aged .., rfl, fun j hj => ?_, durable_modIsl ..⟩
    rw [getIsl_modIsl, if_neg hj]

end Sys2Proof.Machine
